-- ==== Sys2Proof/Word.lean ====
section
/-! DEFINITION. The words of the head: bytes, byte strings and register words, and tables keyed by a number. -/

namespace Sys2Proof

/-- One byte. -/
abbrev Byte := BitVec 8

/-- A byte string, first byte first. -/
abbrev Bytes := List Byte

/-- A 32-bit register word (R6). -/
abbrev Word := BitVec 32

/-- A table keyed by number, one entry a key; a key without an entry is absent. -/
abbrev Tbl (α : Type) := List (Nat × α)

end Sys2Proof
end

