-- ==== Sys2Proof/Syntax.lean ====
section
/-! DEFINITION. The commands of the block: one constructor of `Instr` for each row of spec/opcode_table.json, and the operand records they carry. An operand carries what arrives from outside the head (a flit, a message, a
record, a pin, a sensed condition) in the fields the owning chapter gives it. Where the spec leaves the bytes of a check
uncomputable from its own words (a certificate chain, a signature, a MAC under a key whose derivation input it does not
give), the operand carries the check's outcome as a Bool (log entries 4 and 5). -/

namespace Sys2Proof

/-- The ports of the head (R34 to R37): 16 host ports, one peer port, one media link for each module position. -/
inductive PortId where
  | host (p : Fin 16)
  | peer
  | media (m : Fin 96)
  deriving DecidableEq, Repr

/-- A flit as it arrives on a lane (R38 to R42). -/
structure Flit where
  typ : BitVec 4
  vc : BitVec 3
  last : Bool
  seq : BitVec 10
  ack : BitVec 10
  ackv : Bool
  rsv : BitVec 3
  bind : BitVec 32
  payload : Bytes
  crc : BitVec 64
  /-- the codewords that carry the flit were correctable (R38) -/
  fecOk : Bool
  /-- the GCM tag verifies (R54); counts on an encrypted port only -/
  tagOk : Bool
  deriving DecidableEq, Repr

/-- A link-control flit (R41, R44, R47, R53). -/
structure Lctl where
  ok : Bool
  credits : List (BitVec 16)
  ack : Option (BitVec 10)
  secure : Option (BitVec 8)
  deriving DecidableEq, Repr

/-- What a far end gives in PARAM (R50, R45, R482). -/
structure LaneParams where
  headId : Bool
  credits : List (BitVec 16)
  encMode : Bool
  groupOk : Bool
  deriving DecidableEq, Repr

/-- A HELLO of R55: the requested privilege and whether the message is well formed. -/
structure Hello where
  privilege : BitVec 8
  wellFormed : Bool
  nonce : Bytes
  key : Bytes
  deriving DecidableEq, Repr

/-- A FINISH of R55: whether its signatures verify, the anchors its chain reaches, whether it reaches the Jefaec device CA. -/
structure Finish where
  wellFormed : Bool
  sigOk : Bool
  anchors : List (Fin 64)
  vendorCa : Bool
  deriving DecidableEq, Repr

/-- The header of a VC3 request (R42, R499) and the outcome of its length and MAC checks. -/
structure Vc3 where
  port : Fin 16
  sess : BitVec 16
  reqId : BitVec 64
  rsvWord : BitVec 16
  lenMacOk : Bool
  bodyOk : Bool
  deriving DecidableEq, Repr

/-- A command entry (R77) less its opcode byte. -/
structure CmdEntry where
  flags : Byte
  cid : BitVec 16
  vol : BitVec 32
  lba : BitVec 64
  nsect : BitVec 16
  rsv : BitVec 48
  cdw : List Word
  deriving DecidableEq, Repr

/-- A command entry as it arrives on VC0 of a host port, with its queue pair word (R42). -/
structure HostCmd where
  port : Fin 16
  qp : BitVec 14
  entry : CmdEntry
  deriving DecidableEq, Repr

/-- A completion entry (R79). -/
structure Completion where
  cid : BitVec 16
  qp : BitVec 14
  status : BitVec 16
  cflags : BitVec 16
  exclUs : Nat
  retryUs : Nat
  cs0 : Word
  cs1 : Word
  cs2 : Word
  cepoch : Nat
  deriving DecidableEq, Repr

/-- A frame descriptor (R134). -/
structure Desc where
  vol : Nat
  grain : Nat
  present : BitVec 2
  committed : BitVec 2
  gen : Nat
  cepoch : Nat
  crc0 : Word
  crc1 : Word
  deriving DecidableEq, Repr

/-- The common checks of a VC4 record: its RTYPE is known and its reserved fields are zero (R317, R345). -/
structure RecHdr where
  rsvOk : Bool
  word0 : Word
  deriving DecidableEq, Repr

/-- A lease record (R325). -/
structure Lease where
  holder : BitVec 8
  st : BitVec 8
  durMs : Nat
  epoch : Nat
  rseq : Nat
  deriving DecidableEq, Repr

/-- A mailbox slot (R320). -/
structure MboxSlot where
  crcOk : Bool
  head : Bool
  role : BitVec 8
  pstate : BitVec 8
  flags : BitVec 8
  hbseq : Nat
  fepoch : Nat
  cepoch : Nat
  fwver : BitVec 24
  nonce : Nat
  groups : Nat
  yieldSt : BitVec 8
  compatMinor : BitVec 8
  deriving DecidableEq, Repr

/-- A HEARTBEAT record's body (R318). -/
structure HbBody where
  hbseq : Nat
  fepoch : Nat
  cepoch : Nat
  role : BitVec 8
  pstate : BitVec 8
  flags : BitVec 16
  dt : Nat
  wall : BitVec 32
  deriving DecidableEq, Repr

/-- A PSB frame's envelope (R333): counter, and whether its MAC verifies. -/
structure Psb where
  ctr : Nat
  len : Nat
  macOk : Bool
  deriving DecidableEq, Repr

/-- An event record (R455). -/
structure EvRec where
  dt : Nat
  code : BitVec 16
  inst : Nat
  repeats : Nat
  seq : Nat
  p0 : Nat
  p1 : Nat
  p2 : Nat
  p3 : Nat
  deriving DecidableEq, Repr

/-- A map entry (R227). -/
structure MapEntry where
  st : BitVec 2
  cls : BitVec 2
  slot : BitVec 5
  chunk : BitVec 23
  die : BitVec 15
  shared : Bool
  gen : BitVec 14
  rsv : BitVec 2
  deriving DecidableEq, Repr

/-- A grain header (R201). -/
structure GrainHdr where
  magic : Byte
  version : Byte
  flags : Byte
  dictId : Byte
  clenM1 : BitVec 16
  olenM1 : BitVec 16
  serial : BitVec 64
  ocrc : Word
  bseq : Word
  rsv : Word
  hcrc : Word
  deriving DecidableEq, Repr

/-- A class table: for classes 0 to 7 the read bound and write bound in microseconds and the granted anchors (R103, R402). -/
structure ClassRow where
  readUs : Nat
  writeUs : Nat
  anchors : BitVec 64
  deriving DecidableEq, Repr

/-- A wrapped key as its unwrap yields it (R406): the integrity check's outcome and the key bytes. -/
structure WrappedKey where
  ok : Bool
  key : Bytes
  deriving DecidableEq, Repr

/-- The timing, geometry and energy parameters of a die type (R108, R220, R349). Times in units of 0.1 microseconds. -/
structure DieType where
  tR : Nat := 160
  tSUS : Nat := 60
  tRES : Nat := 40
  tPROG : Nat := 12000
  tBERS : Nat := 20000
  sProg : Nat := 8
  sErase : Nat := 12
  planes : Nat := 4
  page : Nat := 16384
  pBlk : Nat := 1024
  nBlk : Nat := 8192
  peRated : Nat := 5000
  refreshBits : Nat := 48
  pProg : Nat := 60
  pBers : Nat := 50
  pRead : Nat := 45
  pIdle : Nat := 7500
  deriving DecidableEq, Repr

/-- A POWER record (R349), in W; `uMax` absent selects the default. -/
structure PowerRec where
  pb : Nat
  uMax : Option Nat := none
  vMax : Nat := 100
  aMax : Nat := 50
  jMax : Nat := 100
  uSlew : Nat := 20
  deriving DecidableEq, Repr

/-- A VOLUME record (R403). -/
structure VolumeRec where
  kind : Nat
  sectors : Nat
  pool : Nat
  group : Nat
  domain : Option Nat
  dict : Option Nat
  quota : Option Nat
  source : Nat
  snap : Nat
  grants : BitVec 64
  deriving DecidableEq, Repr

/-- The body of a configuration record (R402). -/
inductive CfgBody where
  | array (ident : Nat) (limitGib : Nat) (bridges : List Nat)
  | peer (serial : Nat)
  | anchor (usage : BitVec 8) (certSerial : Nat)
  | kek (akekId : Nat) (w : WrappedKey)
  | dieType (d : DieType)
  | module (serial : Nat) (dieType : Nat) (failPos : Nat) (dies : Nat) (reuse : Bool)
  | pool (k : Nat) (s : Nat) (seed : BitVec 64) (modules : List Nat) (metaKey : WrappedKey) (dataKey : WrappedKey)
  | dictionary (bytes : Bytes) (crc : Word)
  | domain (pool : Nat) (group : Nat) (capLog2 : Nat) (verify : Bool) (fpKey : WrappedKey) (dataKey : WrappedKey)
  | volume (v : VolumeRec)
  | snapshot
  | replJob (role : Nat) (vol : Nat) (snapA : Nat) (snapB : Nat) (portal : Nat) (block : Nat) (negotiate : Bool)
      (jobKey : WrappedKey)
  | leasePref (mask : BitVec 256)
  | dieSplit (map : BitVec 192)
  | classTable (rows : List ClassRow)
  | power (p : PowerRec)
  | vaultKey (w : WrappedKey)
  deriving DecidableEq, Repr

/-- A configuration record (R400): type, put or remove, key, body (absent in a remove). -/
structure CfgRec where
  typ : Nat
  put : Bool
  key : Nat
  body : Option CfgBody
  deriving DecidableEq, Repr

/-- A commit record (R401) with the outcome of its signature, chain and digest checks. -/
structure CommitRec where
  epoch : Nat
  base : Nat
  array : Nat
  digestFull : Nat
  sigOk : Bool
  chainOk : Bool
  digestOk : Bool
  deriving DecidableEq, Repr

/-- The declared DIMM population (R367) with the region sizes of MEMORY_SIZES (R393). -/
structure Population where
  channels : Nat
  dpc : Nat
  dimmGib : Nat
  ranks : Nat
  x8 : Bool
  rdimm : Bool
  uniform : Bool
  deriving DecidableEq, Repr

/-- MEMORY_SIZES of the image (R393), in GiB; `spadWays` counts ways. -/
structure MemSizes where
  wc : Nat
  dir : Nat
  mapCache : Nat
  indexCache : Nat
  filter : Nat
  version : Nat
  remap : Nat
  spadWays : Nat
  deriving DecidableEq, Repr

/-- How a host quad is split (R35). -/
inductive Split where
  | x4 | x2x2 | x2x1 | x1x1 | x2 | x1 | off
  deriving DecidableEq, Repr

/-- One record of an Opilsar image as NVI reads it (R392 to R395). -/
structure ImageRec where
  typ : Nat
  len : Nat
  digest : Bytes
  manifest : Bytes
  readLen : Nat
  inImage : Bool
  deriving DecidableEq, Repr

/-- An Opilsar image in a slot (R392 to R395): the header, the outcome of its two signatures, and the static records. -/
structure Image where
  headerOk : Bool
  svn : Nat
  compatMinor : BitVec 8
  fwver : BitVec 24
  length : Nat
  vendorSigOk : Bool
  ownerSigOk : Bool
  manifestDigest : Bytes
  records : List ImageRec
  splits : List Split
  gcmPorts : List Nat
  mediaMap : List Nat
  /-- enabled peer lanes by lane number, 128 to 143 -/
  peerLanes : List Nat
  population : Population
  vrAddrs : List Nat
  vmin : Nat
  vmax : Nat
  holdupMs : Nat
  sizes : MemSizes
  classTable : List ClassRow
  anchors : List (Nat × BitVec 8)
  govCoef : Option (Bool × List Word)
  deriving DecidableEq, Repr

/-- A debug token (R419) with the outcome of its signature checks. -/
structure Token where
  fmtOk : Bool
  serial : Nat
  nonce : Nat
  vendorOk : Bool
  ownerOk : Bool
  anchor : Nat
  deriving DecidableEq, Repr

/-- The TAP instructions of R426; `other` is a code that names none of them. -/
inductive TapInstr where
  | bypass | idcode | sample | extest | clamp | highz | debugPort | other
  deriving DecidableEq, Repr

/-- What the straps and pins read at a chip release (R481). -/
structure Straps where
  headB : Bool
  bootForce : BitVec 2
  nvmVsel : Bool
  deriving DecidableEq, Repr

/-- The commands of the block, one for each row of spec/opcode_table.json. -/
inductive Instr where
  -- 02_tlaelm_link.md
  | msgFlitReceived (port : PortId) (lane : Fin 144) (f : Flit)
  | lctlFlitReceived (port : PortId) (f : Lctl)
  | nakReceived (port : PortId) (seq : BitVec 10)
  | creditAdvertiseTimer (port : PortId)
  | ackTimer (port : PortId)
  | replayTimeout (port : PortId)
  | replayLimit (port : PortId)
  | uncorrectableCodewordLimit (lane : Fin 144)
  | lockLossTimeout (lane : Fin 144)
  | tagFailureLimit (port : PortId)
  | laneEnabled (lane : Fin 144) (enable : Bool)
  | signalDetected (lane : Fin 144)
  | eqComplete (lane : Fin 144)
  | eqTimeout (lane : Fin 144)
  | lockComplete (lane : Fin 144) (polarityInverted : Bool)
  | lockTimeout (lane : Fin 144)
  | paramComplete (lane : Fin 144) (p : LaneParams)
  | paramTimeout (lane : Fin 144)
  | secureComplete (lane : Fin 144)
  | secureTimeout (lane : Fin 144)
  | retrainComplete (lane : Fin 144)
  | retrainTimeout (lane : Fin 144)
  | downBackoffExpiry (lane : Fin 144)
  | hostPortLost (port : Fin 16)
  | keyReplacement (port : PortId)
  | hello (port : Fin 16) (reqId : BitVec 64) (h : Hello)
  | finish (port : Fin 16) (reqId : BitVec 64) (f : Finish)
  | handshakeTimeout (port : Fin 16) (reqId : BitVec 64)
  -- 03_commands_queues.md
  | sessionClose (m : Vc3)
  | keepalive (m : Vc3)
  | keepaliveSilence (sess : Fin 4096)
  | qpCreate (m : Vc3) (cls : Byte) (depthLog2 : Byte)
  | qpDeleteDrain (m : Vc3) (qp : BitVec 16)
  | qpDeleteAbort (m : Vc3) (qp : BitVec 16) (mode : Byte)
  | qpDeleteDone (qp : BitVec 14)
  | csrRead (m : Vc3) (offset : Word) (count : BitVec 16)
  | csrWrite (m : Vc3) (offset : Word) (values : List Word)
  | noticeMask (m : Vc3) (mask : BitVec 64)
  | quarantineSet (m : Vc3) (kind : Byte) (action : Byte) (target : BitVec 16)
  | quarantineLift (m : Vc3) (kind : Byte) (target : BitVec 16)
  | vc3UnknownType (m : Vc3) (typ : BitVec 16)
  | sessionQuarantined (sess : Fin 4096)
  | violationWarning (sess : Fin 4096)
  | quarantineTimeout (sess : Fin 4096)
  | portViolationLimit (port : Fin 16)
  | moduleLinkQuarantine (pos : Fin 96)
  | noticeTransmit (sess : Fin 4096)
  | read (c : HostCmd)
  | write (c : HostCmd)
  | flush (c : HostCmd)
  | zeroRange (c : HostCmd)
  | compare (c : HostCmd)
  | compareAndWrite (c : HostCmd)
  | verify (c : HostCmd)
  | abort (c : HostCmd)
  | commandInvalidOpcode (c : HostCmd) (opc : Byte)
  | forwardedCommand (qp : BitVec 14) (opc : Byte) (e : CmdEntry) (elapsed : Nat) (lanes : Nat) (enc : Bool)
  | forwardedCompletion (c : Completion)
  | dataFlitReceived (port : PortId) (qp : BitVec 14) (cid : BitVec 16) (payload : Bytes)
  | dataTimerExpiry (qp : BitVec 14) (cid : BitVec 16)
  | completionTransmit (port : Fin 16)
  -- 04_deadlines.md
  | class7ResourceFreed (qp : BitVec 14) (cid : BitVec 16)
  | mediaOpIssue (resv : Nat)
  | settleEnd (die : Nat)
  -- 02, 08: media answers
  | readResponse (pos : Fin 96) (tag : Word) (status : BitVec 16) (hdrOk : Bool) (maxCorr : Nat) (data : Bytes)
  | mediaReadTimeout (tag : Word)
  | dieFailTimeout (die : Nat)
  | softReadResponse (pos : Fin 96) (tag : Word) (status : BitVec 16) (hdrOk : Bool) (data : Bytes)
  | programResponse (pos : Fin 96) (tag : Word) (status : BitVec 16) (hdrOk : Bool)
  | eraseResponse (pos : Fin 96) (tag : Word) (status : BitVec 16) (hdrOk : Bool)
  | suspendResponse (pos : Fin 96) (tag : Word) (status : BitVec 16) (hdrOk : Bool)
  | resumeResponse (pos : Fin 96) (tag : Word) (status : BitVec 16) (hdrOk : Bool)
  | telemetry (pos : Fin 96) (hdrOk : Bool) (powerMw : Nat) (energyMj : Nat) (temps : List Int) (corrected : Nat)
  | telemetryMissing (pos : Fin 96)
  | mboxResponse (pos : Fin 96) (tag : Word) (status : BitVec 16) (hdrOk : Bool) (slot : MboxSlot)
  | leaseCasResponse (pos : Fin 96) (tag : Word) (status : BitVec 16) (hdrOk : Bool) (cur : Lease)
  | epochResponse (pos : Fin 96) (tag : Word) (status : BitVec 16) (hdrOk : Bool) (epoch : Nat)
  | ownerResponse (pos : Fin 96) (tag : Word) (status : BitVec 16) (hdrOk : Bool) (map : BitVec 192)
  | identResponse (pos : Fin 96) (tag : Word) (hdrOk : Bool) (serial : Nat) (sigOk : Bool) (foreign : Bool)
  -- 05, 11: the peer link
  | mirrorCopy (frame : Nat) (desc : Desc) (crcOk : Bool) (data : List Bytes)
  | peerMediaRead (tag : Word) (soft : Bool) (pos : Nat) (die : Byte) (chunk : Nat) (unit : Nat) (count : Nat) (offs : Bytes)
  | peerMediaReadResponse (tag : Word) (status : BitVec 16) (data : Bytes)
  | heartbeat (h : RecHdr) (b : HbBody)
  | mirrorAck (h : RecHdr) (frame : Nat) (gen : Nat) (mask : BitVec 8)
  | mirrorMeta (h : RecHdr) (frame : Nat) (gen : Nat) (cid : BitVec 16) (qp : BitVec 16) (cepoch : Nat) (mask : BitVec 8)
  | release (h : RecHdr) (frame : Nat) (gen : Nat)
  | discard (h : RecHdr) (frame : Nat) (gen : Nat)
  | discardAck (h : RecHdr) (frame : Nat) (gen : Nat)
  | discardAckTimeout (qp : BitVec 14) (cid : BitVec 16)
  | mirrorDeadline (qp : BitVec 14) (cid : BitVec 16)
  | filterSlot (h : RecHdr) (domain : Nat) (bucket : Nat) (slot : Nat) (tag : BitVec 16) (kind : Byte) (iseq : Nat)
  | drbSet (h : RecHdr) (pool : Nat) (slot : Nat) (region : Nat) (segSeq : Nat) (rseq : Nat)
  | drbAck (h : RecHdr) (pool : Nat) (rseq : Nat)
  | memberState (h : RecHdr) (pos : Nat) (pool : Nat) (st : Byte)
  | leaseNote (h : RecHdr) (first : Nat) (count : Nat) (action : Byte) (epoch : Nat)
  | handover (h : RecHdr) (first : Nat) (count : Nat) (phase : Byte)
  | mapMove (h : RecHdr) (vol : Nat) (grain : Nat) (old : BitVec 64) (new : BitVec 64)
  | mapMoveAck (h : RecHdr) (vol : Nat) (grain : Nat) (result : Byte)
  | peerReserve (h : RecHdr) (tag : Word) (die : Nat) (units : Nat) (earliest : Nat) (latest : Nat)
  | peerGrant (h : RecHdr) (tag : Word) (start : BitVec 64) (len100 : Nat)
  | peerGrantTimeout (tag : Word)
  | replayDone (h : RecHdr) (vseq : Nat)
  | resyncDone (h : RecHdr) (frames : Nat)
  -- 11_two_heads.md
  | pathSilent (mailbox : Bool)
  | leaseLost (record : Nat)
  | pairing (serial : Nat) (sigOk : Bool) (wcGib : Nat) (fwver : BitVec 24) (compatMinor : BitVec 8) (cepoch : Nat)
  | failbackGo (m : Vc3) (value : Word)
  | handoverDrained (first : Nat)
  | fence (p : Psb) (epoch : Nat) (reason : Byte)
  | fenced (p : Psb) (pstate : Byte) (role : Byte) (records : Nat)
  | statusReq (p : Psb)
  | status (p : Psb) (feed : Byte) (held : Byte) (supplies : Byte) (role : Byte) (records : Nat)
  | eventsReq (p : Psb) (first : Nat) (count : Nat)
  | events (p : Psb) (recs : List EvRec)
  | psbRelease (p : Psb) (epoch : Nat)
  | released (p : Psb)
  | islandFeed (vstby : Bool) (psb : Bool)
  -- 05_write_cache_vault.md
  | destagePad (pool : Fin 16)
  -- 06_digest_dedup.md
  | dgeCtxOpen (ctx : Fin 128) (user : Byte) (alg : Byte) (key : Option Nat) (declared : Nat) (expected : Option Bytes)
      (snoop : Bool)
  | dgeCtxFeed (ctx : Fin 128) (seg : Bytes)
  | dgeCtxFinal (ctx : Fin 128)
  | dgeCtxRelease (ctx : Fin 128)
  | dgeFeedTimeout (ctx : Fin 128)
  | dgeBlockBoundary (lane : Fin 32)
  | partitionRefilled (domain : Nat) (entries : Nat)
  -- 07_millet_compression.md
  | compressDone (frame : Nat) (lane : Fin 48) (laneFault : Bool) (inputCrcOk : Bool)
  | decodeDone (tag : Word) (lane : Fin 48)
  | streamCtxOpen (ctx : Fin 1024) (user : Byte) (decompress : Bool) (blockKib : Nat) (streamId : BitVec 64) (bseq : Nat)
  | streamBlockOffer (ctx : Fin 1024) (hdr : Option GrainHdr) (block : Bytes)
  | streamBlockDone (ctx : Fin 1024)
  | streamCtxClose (ctx : Fin 1024)
  | forceRawWrite (m : Vc3) (value : Word)
  -- 08_flash_translation.md
  | segmentReclaimed (seg : Nat)
  -- 09_declustered_parity.md
  | memberAbsent (pos : Fin 96)
  | memberLossTimeout (pos : Fin 96)
  | pxeLoseGo (m : Vc3) (value : Word)
  | rebuildNoticeTimer (pool : Fin 16)
  -- 10_snapshots_replication.md
  | snapshotReady (vol : Nat) (snap : Nat)
  | replJobStart (job : Fin 256)
  | replIdleTimeout (job : Fin 256)
  -- 12_power_governor.md
  | govLoad (m : Vc3) (value : Word)
  | govModeReq (m : Vc3) (value : Word)
  | govInjGo (m : Vc3) (value : Word)
  | govInjStop (m : Vc3) (value : Word)
  | govCapStart (m : Vc3) (value : Word)
  | govCapStop (m : Vc3) (value : Word)
  -- 13_memory_cache.md
  | dramCorrected (channel : Fin 12) (rank : Nat)
  /-- the region of R372 and what of it lies there: a frame, a mirror entry, a page, a domain, a context, a ring slot -/
  | dramUncorrectable (channel : Fin 12) (rank : Nat) (addr : BitVec 48) (region : Nat) (index : Nat)
  /-- channel, rank and, for an uncorrectable error, address, region and index -/
  | dramPatrolScrub (found : List (Nat × Nat × Option (Nat × Nat × Nat)))
  | ecsRead (counts : List (Nat × Nat))
  /-- failed channels with step and rank; then the lanes of CPE (0) and XTS (1) that fail the tests of R396 step 9, with the test -/
  | ddrTrainingDone (failures : List (Nat × Nat × Nat)) (badLanes : List (Nat × Nat × Nat))
  | slcCorrected (slice : Fin 64) (way : Fin 16)
  /-- what the line holds: 0 WTA, 1 WTN, 2 WB, 3 staging, 4 scratchpad; its region and index as in DRAM_UNCORRECTABLE; for
  staging, 0 inbound or 1 + the sector offset of outbound data, and 65,536 x queue pair + CID -/
  | slcUncorrectable (slice : Fin 64) (way : Fin 16) (holds : Fin 5) (region : Nat) (index : Nat)
  | stagingReleaseTimeout (qp : BitVec 14) (cid : BitVec 16)
  | spadWaysReq (m : Vc3) (value : Word)
  | slcDisable (m : Vc3) (value : Word)
  | slcEnable (m : Vc3) (value : Word)
  -- 14_trust_boot_config.md
  | cfgBegin (m : Vc3) (epoch : Nat) (base : Nat) (len : Nat)
  | cfgStage (m : Vc3) (offset : Nat) (len : Nat) (recs : List CfgRec)
  | cfgCommit (m : Vc3) (c : CommitRec)
  | cfgAbort (m : Vc3)
  | cfgStatus (m : Vc3)
  | timeSet (m : Vc3) (offset : Int)
  | peerCfgOffer (c : CommitRec) (len : Nat)
  | peerCfgData (offset : Nat) (len : Nat) (recs : List CfgRec)
  | peerCfgResult (epoch : Nat) (result : Byte)
  | peerCfgFetch (got : Option (CommitRec × List CfgRec))
  | imageBegin (m : Vc3) (len : Nat)
  | imageWrite (m : Vc3) (offset : Nat) (len : Nat)
  | imageCommit (m : Vc3) (img : Image)
  | imageConfirm (m : Vc3)
  | imageStatus (m : Vc3)
  | certRead (m : Vc3) (chain : Byte)
  | attest (m : Vc3) (nonce : Bytes)
  | keySlotParity (slot : Fin 4129)
  -- 15_lifecycle_debug_power.md
  | dbgChallenge (m : Vc3) (action : Byte)
  | debugD2 (m : Vc3) (t : Token)
  | debugD3 (m : Vc3) (t : Token)
  | toField (m : Vc3) (t : Token)
  | toReturn (m : Vc3) (t : Token)
  | toEnd (m : Vc3) (t : Token)
  | dbgObserveOn (m : Vc3)
  | dbgObserveOff (m : Vc3)
  | pmSetP0 (m : Vc3)
  | pmSetP2 (m : Vc3)
  | pmSetP3 (m : Vc3)
  | pmStatus (m : Vc3)
  | jtagInstruction (tap : TapInstr) (code : Byte)
  | jtagCoreReset (asserted : Bool)
  -- 16_reset_clocks.md
  | coreWatchdog (cluster : Fin 4) (core : Fin 16)
  | swColdReset (m : Vc3) (value : Word)
  | swWarmReset (m : Vc3) (value : Word)
  | blockReset (m : Vc3) (value : Word)
  | thermalTrip (sensor : Fin 40) (temp : Int)
  | glitch (sub : Fin 7) (domain : Fin 72)
  | refclkFault (outOfRange : Bool)
  | quadPllUnlock (quad : Fin 36)
  /-- the straps; the us the release waited under R445; NVM content when it was replaced meanwhile; DGE lanes that fail their tests,
  with the algorithm; slices and ways that fail theirs -/
  | chipRelease (straps : Straps) (waitedUs : Nat) (nvm : Option (Option Image × Option Image)) (badLanes : List (Nat × Nat))
      (badWays : List (Nat × Nat))
  | blockRelease (block : Fin 14)
  | releaseDeferred (mask : BitVec 16) (domain : Fin 72)
  /-- vault stripes that cannot be read; own frames that the peer gives; volumes and grains with no copy left; own (false) and mirror
  frames whose descriptor fails; dictionaries not read from copy 0, with the copy used or none -/
  | bootReady (unreadable : List Nat) (peerCopies : List (Nat × Desc × List Bytes)) (lost : List (Nat × Nat))
      (descBad : List (Bool × Nat)) (dicts : List (Nat × Option Nat))
  -- 17_events_health.md
  | junctionHotWindow (sensor : Fin 40) (temp : Int)
  | selfTestStart (m : Vc3) (value : Word)
  | selfTestAbort (m : Vc3) (value : Word)
  | selfTestItemDone (findings : List (Nat × Nat)) (failures : List (Nat × Nat))
  -- 18_electrical_package.md
  | avsTick (targetMv : Nat) (status : BitVec 16)
  | pmbusAlert (status : BitVec 16)
  | pmbusTimeout (addr : Fin 4)
  | i3cSetOffset (offset : Word)
  | i3cRegisterWrite (offset : Word) (value : Word)
  | i3cDynamicAddress (addr : BitVec 7)
  | quadPllLocked (quad : Fin 36)
  | keysInstalled (slot : Fin 4129)
  -- Commands without operands come last, whatever their chapter: Lean's runtime builds a constructor with fields only when
  -- its number is below 245.
  -- 04_deadlines.md
  | frameEntersHorizon
  | refusals
  -- 11_two_heads.md
  | heartbeatTimer
  | peerDeclaredFailed
  | fenceNoAnswer
  | fenceRetry
  | leaseWaitExpiry
  | leaseRetryTimer
  | leaseRenewalTimer
  | yieldTimer
  | failbackStable
  | psbRejectLimit
  | psbIgnoreEnd
  | peerPortViolationLimit
  -- 05_write_cache_vault.md
  | pwrfailSeen
  | vaultFreeze
  | pwrfailRise
  -- 08_flash_translation.md
  | commitCloseTimer
  -- 12_power_governor.md
  | govSample
  | feedbackImplausible
  | govPlausibleRun
  | budgetUnreachable
  | capWindow
  | injectionEnd
  | captureFull
  -- 13_memory_cache.md
  | zqCalibration
  | spadChanged
  | slcFlushDone
  -- 14_trust_boot_config.md
  | stagingAbandoned
  | peerCfgTimeout
  | imageIdleTimeout
  -- 15_lifecycle_debug_power.md
  | nonceExpiry
  | d2Quiesced
  | p2Reached
  | p3Entered
  | pmuWake
  -- 16_reset_clocks.md
  | por
  | pwrgdLoss
  | resetN
  | wresetN
  | rotWatchdog
  -- 17_events_health.md
  | evrRateWindow
  | healthReportRebuild
  | healthRecordPersist
  | selfTestTimeout
  -- 18_electrical_package.md
  | i3cPrivateRead
  deriving DecidableEq, Repr

end Sys2Proof
end

