-- ==== Sys2Proof/Config.lean ====
section
/-! DEFINITION. What the spec leaves open: free values. A free value is an opaque constant applied to a counter of the
state, so that no proof can see what it is (log entry 10). -/

namespace Sys2Proof.Config

/-- The n-th free value of `w` bits: nonces, random choices, bytes of layouts the spec does not give, results it does not
state (log entry 10). -/
opaque freeValue (w : Nat) : Nat → BitVec w

/-- A sample of the chirp of R361 in mW for amplitude, F0, F1, duration and sample number: the spec states no rounding of
the sine (log entry 11). -/
opaque chirp : Nat → Nat → Nat → Nat → Nat → Int

end Sys2Proof.Config
end

