-- ==== Sys2Proof/Machine/Bits.lean ====
section
/-! DEFINITION. Byte order, check codes and small arithmetic that the rules share. -/

namespace Sys2Proof.Machine

open Sys2Proof

/-- The low `n` bytes of `v`, least significant first (every layout of the manual is little-endian, R6). -/
def leBytes : Nat → Nat → Bytes
  | 0, _ => []
  | n + 1, v => BitVec.ofNat 8 v :: leBytes n (v / 256)

/-- The number a byte string spells, least significant byte first. -/
def leNat : Bytes → Nat
  | [] => 0
  | b :: bs => b.toNat + 256 * leNat bs

/-- The number a byte string spells, most significant byte first. -/
def beNat (bs : Bytes) : Nat := leNat bs.reverse

/-- The low `n` bytes of `v`, most significant first. -/
def beBytes (n v : Nat) : Bytes := (leBytes n v).reverse

/-- A two's-complement number of `w` bits as a natural (registers and bodies that carry signed values). -/
def twos (w : Nat) (v : Int) : Nat := (v % (2 ^ w : Nat)).toNat

/-- `v`, saturating at `2^w - 1` (saturating counters, R6). -/
def sat (w v : Nat) : Nat := min v (2 ^ w - 1)

/-- Bit field [hi:lo] of a number. -/
def bits (v hi lo : Nat) : Nat := v / 2 ^ lo % 2 ^ (hi + 1 - lo)

/-- One bit as a number. -/
def bit (b : Bool) : Nat := if b then 1 else 0

/-- One bit of a number. -/
def tbit (v i : Nat) : Bool := v / 2 ^ i % 2 == 1

/-- Rounded-up quotient. -/
def ceilDiv (a b : Nat) : Nat := (a + b - 1) / b

/-- One step of a reflected CRC of width `w` with polynomial `p`. -/
def crcStep {w : Nat} (p : BitVec w) (c : BitVec w) : BitVec w :=
  if c.getLsbD 0 then (c >>> 1) ^^^ p else c >>> 1

/-- A reflected CRC over bytes, before the final inversion. -/
def crcBytes {w : Nat} (p : BitVec w) (c : BitVec w) (bs : Bytes) : BitVec w :=
  bs.foldl (fun c b =>
    let c0 := c ^^^ b.setWidth w
    crcStep p (crcStep p (crcStep p (crcStep p (crcStep p (crcStep p (crcStep p (crcStep p c0)))))))) c

/-- CRC-32C (R202): reflected polynomial 0x82F63B78, initial value and final XOR all ones. -/
def crc32c (bs : Bytes) : Word :=
  ~~~ (crcBytes (0x82F63B78 : Word) (BitVec.allOnes 32) bs)

/-- One step of an unreflected CRC-64 with the polynomial of R39. -/
def crc64Step (c : BitVec 64) : BitVec 64 := if c.msb then (c <<< 1) ^^^ 0x42F0E1EBA9EA3693 else c <<< 1

/-- CRC-64 of R39: initial value and final XOR all ones, most significant bit first. -/
def crc64 (bs : Bytes) : BitVec 64 :=
  ~~~ (bs.foldl (fun (c : BitVec 64) b =>
    let c := c ^^^ BitVec.ofNat 64 (b.toNat * 2 ^ 56)
    crc64Step (crc64Step (crc64Step (crc64Step (crc64Step (crc64Step (crc64Step (crc64Step c)))))))) (BitVec.allOnes 64))

/-- The largest r below 2^b with r^k at most n, by bisection. -/
def iroot (k n : Nat) : Nat → Nat → Nat
  | 0, r => r
  | b + 1, r => if (r + 2 ^ b) ^ k ≤ n then iroot k n b (r + 2 ^ b) else iroot k n b r

/-- Integer square root of a number below 2^256. -/
def isqrt (n : Nat) : Nat := iroot 2 n 128 0

/-- Integer cube root of a number below 2^384. -/
def icbrt (n : Nat) : Nat := iroot 3 n 128 0

end Sys2Proof.Machine
end

