-- ==== Sys2Proof/Machine/State.lean ====
section
/-! DEFINITION. The state of the head as plain data, one structure a block of R16. Each field's docstring gives, between
bars: what it is, its width, the file of spec/ and the rule that names it, its reset value. The default value of a field
is its value in `State.reset`. -/

namespace Sys2Proof.Machine

open Sys2Proof

/-- Lane states (R50), in the order of the STATE field of the lane status registers. -/
inductive LaneSt where
  | idle | detect | eq | lock | param | secure | active | retrain | down | quarantine
  deriving DecidableEq, Repr

/-- Roles (R4), in the order of R320. -/
inductive Role where
  | starting | active | survivor | standby | held
  deriving DecidableEq, Repr

/-- Power states (R427). -/
inductive PState where
  | p0 | p1 | p2 | p3 | p4 | off
  deriving DecidableEq, Repr

/-- Mirror states (R139), in the order of FTU_WC_STAT.MIRROR. -/
inductive MirrorSt where
  | none | mirrored | stalled | solo | resync
  deriving DecidableEq, Repr

/-- Write-cache frame states (R135). -/
inductive FrameSt where
  | free | filling | dirty | destaging
  deriving DecidableEq, Repr

/-- Digest context states (R163). -/
inductive DgeSt where
  | free | opened | running | saved | done | error
  deriving DecidableEq, Repr

/-- Domain states (DXU_DOM_n_STAT). -/
inductive DomSt where
  | undeclared | loading | active | rebuilding | retiring
  deriving DecidableEq, Repr

/-- Stream context states (R212). -/
inductive StreamSt where
  | free | ready | waiting | running | error
  deriving DecidableEq, Repr

/-- Segment states (R243). -/
inductive SegSt where
  | free | opened | sealed | victim | reclaimed | erasing
  deriving DecidableEq, Repr

/-- Pool half states (R256). -/
inductive PoolSt where
  | undeclared | normal | lowSpace | throttled | readOnly
  deriving DecidableEq, Repr

/-- Die states (FTU_DIE_n_STAT). -/
inductive DieSt where
  | absent | good | suspect | retired
  deriving DecidableEq, Repr

/-- Member states (R271). -/
inductive MemberSt where
  | undeclared | present | absent | lost
  deriving DecidableEq, Repr

/-- Snapshot states (R292), in the order of R309. -/
inductive SnapSt where
  | creating | ready | hidden | deleting | released
  deriving DecidableEq, Repr

/-- Replication job states (R304), in the order of FTU_REPL_n_STAT. -/
inductive JobSt where
  | undeclared | queued | running | done | failed
  deriving DecidableEq, Repr

/-- Governor modes (R354). -/
inductive GovMode where
  | off | model | closed | hold
  deriving DecidableEq, Repr

/-- SLC states (SLC_STAT.STATE). -/
inductive SlcSt where
  | enabled | flushing | disabled | converting
  deriving DecidableEq, Repr

/-- DDR channel states (MCU_CH_n_STAT). -/
inductive ChSt where
  | untrained | training | ready | selfRefresh | failed
  deriving DecidableEq, Repr

/-- Lifecycle states (R415). -/
inductive Lifecycle where
  | blank | provisioned | field | ret | ended
  deriving DecidableEq, Repr

/-- Slot states of the boot control block (R389). -/
inductive SlotSt where
  | empty | valid | trial | bad
  deriving DecidableEq, Repr

/-- Volume states (R413). -/
inductive VolSt where
  | undeclared | preparing | ready | keyAbsent | poolNotReady | deleting
  deriving DecidableEq, Repr

/-- The die a work item serves and why: what a calendar reservation does when it starts (R24). -/
inductive Work where
  /-- a piece of a fetch -/
  | fetch (num : Nat)
  | hostRead (qp : Nat) (cid : Nat) (part : Nat)
  | mapRead (vol : Nat) (page : Nat)
  /-- the stored grain that a frame with one sector is completed from -/
  | mergeRead (frame : Nat)
  | verifyRead (frame : Nat)
  | gcRead (die : Nat) (chunk : Nat) (slot : Nat)
  | scrub (die : Nat) (chunk : Nat)
  | recover (vol : Nat) (grain : Nat)
  | soft (vol : Nat) (grain : Nat) (set : Nat)
  | rebuild (pool : Nat) (die : Nat) (chunk : Nat)
  | peerRead (tag : Nat)
  | peerSoft (tag : Nat)
  | destage (stripe : Nat) (member : Nat)
  /-- the XOR chunk of a row, by its die -/
  | xorRow (die : Nat) (block : Nat) (row : Nat)
  | cellWrite (pool : Nat) (die : Nat) (chunk : Nat)
  | eraseSeg (pool : Nat) (seg : Nat)
  | vault (stripe : Nat) (member : Nat)
  | vaultHeader
  | repl (job : Nat) (grain : Nat)
  | lease (record : Nat)
  | mailbox
  | epoch
  | owner
  | ident
  | suspend
  | none
  deriving DecidableEq, Repr

/-- What the head sends outside: to adapters, bridges, the peer, its island's peer, the board. -/
inductive Sent where
  | lctlCredits (port : PortId) (granted : List Nat)
  | lctlAck (port : PortId) (seq : Nat)
  | lctlNak (port : PortId) (seq : Nat)
  | lctlParam (lane : Nat) (credits : List Nat)
  | lctlSecure (port : PortId)
  | replay (port : PortId) (fromSeq : Nat) (flits : Nat)
  | completions (port : Nat) (entries : List Completion)
  | readData (port : Nat) (qp : Nat) (cid : Nat) (bytes : Bytes)
  | answer (port : Nat) (sess : Nat) (typ : Nat) (reqId : Nat) (status : Nat) (body : Bytes)
  | helloAck (port : Nat) (reqId : Nat)
  | sessionOpen (port : Nat) (reqId : Nat) (result : Nat) (sess : Nat) (privilege : Nat)
  | notice (port : Nat) (sess : Nat) (ntype : Nat) (nseq : Nat) (stamp : Nat) (epoch : Nat) (body : Bytes)
  | fwdCommand (qp : Nat) (opc : Nat) (e : CmdEntry) (elapsed : Nat) (lanes : Nat) (enc : Bool)
  | fwdData (qp : Nat) (cid : Nat) (bytes : Bytes)
  | fwdCompletion (c : Completion)
  | mirrorCopy (frame : Nat) (d : Desc) (data : List Bytes)
  | heartbeat (b : HbBody)
  | mirrorAck (frame gen mask : Nat)
  | mirrorMeta (frame gen cid qp cepoch mask : Nat)
  | release (frame gen : Nat)
  | discard (frame gen : Nat)
  | discardAck (frame gen : Nat)
  | filterSlot (domain bucket slot tag kind iseq : Nat)
  | drbSet (pool slot region segSeq rseq : Nat)
  | drbAck (pool rseq : Nat)
  | memberState (pos pool st : Nat)
  | leaseNote (first count action epoch : Nat)
  | handover (first count phase : Nat)
  | mapMove (vol grain : Nat) (old new : Nat)
  | mapMoveAck (vol grain result : Nat)
  | peerReserve (tag die units earliest latest : Nat)
  | peerGrant (tag : Nat) (start : Option Nat) (len100 : Nat)
  | replayDone (vseq : Nat)
  | resyncDone (frames : Nat)
  | peerMedia (tag : Nat) (soft : Bool) (pos die chunk unit count : Nat)
  | peerMediaAnswer (tag : Nat) (status : Nat) (data : Bytes)
  | media (pos : Nat) (tag : Nat) (opc : Nat) (die : Nat) (addr : Nat) (arg : Nat) (epoch : Nat) (body : Bytes)
  | psb (typ : Nat) (ctr : Nat) (body : Bytes)
  | events (recs : List EvRec)
  | pairHello
  | cfgOffer (c : CommitRec) (len : Nat)
  | cfgData (recs : List CfgRec)
  | cfgResult (epoch : Nat) (result : Nat)
  | cfgFetch
  | cfgFull (c : CommitRec) (recs : List CfgRec)
  | pmbus (addr : Nat) (mv : Nat)
  | pmbusStatusRead (addr : Nat)
  | i3cRead (regs : List (Nat × Word))
  | i3cNack
  | i3cAck
  deriving DecidableEq, Repr

/-! ## Tlaelm link (HLC, PLK, MLC) -/

/-- One SerDes lane (R34, R50, R66). -/
structure Lane where
  /-- lane state | 4 bits | 02 R50 | IDLE -/
  st : LaneSt := .idle
  /-- DT at which the state was entered | 64 bits | 02 R50 | 0 -/
  since : Nat := 0
  /-- POL, receive polarity inverted | 1 bit | 02 R37 (HLC/PLK/MLC_LANE_STAT_n) | 0 -/
  pol : Bool := false
  /-- ENC, port encryption in force | 1 bit | 02 R53 | 0 -/
  enc : Bool := false
  /-- RETRAINS, W1C, saturating | 8 bits | 02 R66 | 0x00 -/
  retrains : Nat := 0
  /-- UNCORR, RC, saturating | 8 bits | 02 R49 (LANE_STAT) | 0x00 -/
  uncorr : Nat := 0
  /-- CORR_LOG | 8 bits | 02 R66 (LANE_STAT) | 0x00 -/
  corrLog : Nat := 0
  /-- consecutive training failures, which set the DOWN backoff | count | 02 R50 | 0 -/
  fails : Nat := 0
  /-- DOWN backoff in force in ns | 64 bits | 02 R50 | 10 ms -/
  backoff : Nat := 10000000
  /-- DTs of the latest uncorrectable codewords, newest first | list | 02 R49 | empty -/
  uncorrAt : List Nat := []
  /-- the lane map enables the lane | 1 bit | 02 R50 | 0 -/
  enabled : Bool := false
  deriving DecidableEq, Repr

/-- A MSG flit sent and not acknowledged, or a message waiting for credit. -/
structure TxItem where
  vc : Nat
  flits : Nat
  item : Sent
  deriving DecidableEq, Repr

/-- One port (R35 to R54). -/
structure Port where
  /-- next SEQ to send | 10 bits | 02 R40 | 0 -/
  txSeq : Nat := 0
  /-- unacknowledged MSG flits, oldest first: SEQ and message | at most 511 | 02 R48 | empty -/
  unacked : List (Nat × TxItem) := []
  /-- messages waiting for credit or for an ACTIVE lane, oldest first | list | 02 R44 R51 | empty -/
  txq : List TxItem := []
  /-- DT at which acknowledgements last advanced | 64 bits | 02 R48 | 0 -/
  ackAt : Nat := 0
  /-- replays started from the oldest unacknowledged SEQ | 4 bits | 02 R49 | 0 -/
  replays : Nat := 0
  /-- MSG flits retransmitted since the trigger | count | 02 R504 | 0 -/
  replayed : Nat := 0
  /-- next SEQ expected | 10 bits | 02 R47 | 0 -/
  rxSeq : Nat := 0
  /-- a NAK is out and later flits are discarded | 1 bit | 02 R47 | 0 -/
  naked : Bool := false
  /-- flits accepted since the last ACK sent | 4 bits | 02 R47 | 0 -/
  sinceAck : Nat := 0
  /-- DT of the oldest accepted flit not yet acknowledged | 64 bits | 02 R47 | none -/
  ackDue : Option Nat := none
  /-- cumulative credits granted by the far end, VC0 to VC5 | 6 x 16 bits | 02 R44 | 0 -/
  granted : List Nat := [0, 0, 0, 0, 0, 0]
  /-- cumulative flits sent, VC0 to VC5 | 6 x 16 bits | 02 R44 | 0 -/
  sent : List Nat := [0, 0, 0, 0, 0, 0]
  /-- cumulative credits this head has granted | 6 x 16 bits | 02 R44 R45 | 0 -/
  rxGranted : List Nat := [0, 0, 0, 0, 0, 0]
  /-- cumulative flits received | 6 x 16 bits | 02 R44 | 0 -/
  rxTaken : List Nat := [0, 0, 0, 0, 0, 0]
  /-- the credit counts last sent in an LCTL flit | 6 x 16 bits | 02 R44 | 0 -/
  rxSaid : List Nat := [0, 0, 0, 0, 0, 0]
  /-- DT of the last credit advertisement | 64 bits | 02 R44 | 0 -/
  creditAt : Nat := 0
  /-- encryption selected by the lane map | 1 bit | 02 R53 | 0 -/
  gcm : Bool := false
  /-- GCM keys installed | 1 bit | 02 R53 R54 | 0 -/
  keyed : Bool := false
  /-- MSG flits first transmitted under the key | 33 bits | 02 R54 | 0 -/
  keyTx : Nat := 0
  /-- MSG flits received under the key | 33 bits | 02 R54 | 0 -/
  keyRx : Nat := 0
  /-- DTs of the latest tag failures, newest first | list | 02 R49 | empty -/
  tagAt : List Nat := []
  /-- violation window: its second and the violations counted in it | 64 and 16 bits | 02 R63 R65 | 0 -/
  violWin : Nat := 0
  violCount : Nat := 0
  /-- R49 trigger of the retraining in progress (5 a pause for key replacement) and its DT | 3 and 64 bits | 02 R51 R504 | none -/
  retrain : Option (Nat × Nat) := none
  /-- DT since which the port has had no ACTIVE lane | 64 bits | 02 R51 | none -/
  lostAt : Option Nat := none
  /-- the 500 ms loss of this outage has been carried out | 1 bit | 02 R51 | 0 -/
  lostDone : Bool := false
  deriving DecidableEq, Repr

/-- A half-open session (R55). -/
structure HalfOpen where
  port : Nat
  reqId : Nat
  startedAt : Nat
  lastAt : Nat
  privilege : Nat
  deriving DecidableEq, Repr

/-- A media operation in flight (R57, R61). -/
structure MediaOp where
  pos : Nat
  die : Nat
  opc : Nat
  addr : Nat
  arg : Nat
  work : Work
  issuedAt : Nat
  /-- the READ timeout of R61 -/
  deadline : Nat
  /-- the request has been sent again after a malformed answer (R64) -/
  retried : Bool := false
  /-- the body sent, for the request sent again -/
  body : Bytes := []
  resv : Nat := 0
  deriving DecidableEq, Repr

/-- What the head holds of one module's bridge (R58, R62). -/
structure Module where
  /-- DT of the latest TELEMETRY | 64 bits | 02 R62 | none -/
  telemAt : Option Nat := none
  /-- reported to GOV as having no measurement | 1 bit | 02 R62 | 1 (no TELEMETRY has arrived) -/
  missing : Bool := true
  powerMw : Nat := 0
  energyMj : Nat := 0
  temps : List Int := []
  corrected : Nat := 0
  /-- quarantine of the position by R65 or QUARANTINE_SET | 1 bit | 02 R65, 03 R71 | 0 -/
  quarantined : Bool := false
  /-- the module is an unavailable stripe member after a repeated malformed answer | 1 bit | 02 R64 | 0 -/
  unavailable : Bool := false
  /-- lane number assigned to the position | 8 bits | 02 R36 | 32 + position -/
  lane : Nat := 0
  deriving DecidableEq, Repr

/-- Tlaelm link state. -/
structure Link where
  /-- the 144 lanes; an unlisted lane is at reset | table | 02 R34 | empty -/
  lanes : Tbl Lane := []
  /-- the 113 ports: host 0-15, peer 16, media 17 + position | table | 02 R35 R36 R37 | empty -/
  ports : Tbl Port := []
  /-- host quad splits of the lane map | 8 entries | 02 R35, 14 R393 | all off -/
  splits : List Split := []
  /-- module position to media lane map; an unlisted position p uses lane 32 + p | list | 02 R36 | empty -/
  mediaMap : List Nat := []
  /-- the lane map has been read | 1 bit | 02 R52 | 0 -/
  mapRead : Bool := false
  /-- half-open sessions | list | 02 R55 | empty -/
  half : List HalfOpen := []
  /-- media operations in flight by tag | table, at most 262,144 | 02 R57, 01 R28 | empty -/
  ops : Tbl MediaOp := []
  /-- next operation tag | 32 bits | 02 R57 | 0 -/
  nextTag : Nat := 0
  /-- tags whose READ timed out | list | 02 R61 | empty -/
  lateTags : List Nat := []
  /-- bridges by position | table | 02 R58 | empty -/
  modules : Tbl Module := []
  /-- quad PLLs out of lock: quad and DT of the loss | list | 16 R451 | empty -/
  quadDown : List (Nat × Nat) := []
  deriving DecidableEq, Repr

/-! ## Sessions, queues and commands (CQE) -/

/-- A queued notice (R96, R97). -/
structure Notice where
  ntype : Nat
  nseq : Nat
  stamp : Nat
  epoch : Nat
  body : Bytes
  deriving DecidableEq, Repr

/-- An open session (R69, R96, R97, R99, R462). -/
structure Session where
  port : Nat
  /-- 1 Observer, 2 Operator, 3 Vendor (R55) -/
  privilege : Nat
  anchor : Nat
  /-- DT of the last VC3 message | 64 bits | 03 R69 | DT of SESSION_OPEN -/
  lastAt : Nat
  quarantined : Bool := false
  quarAt : Nat := 0
  violWin : Nat := 0
  violCount : Nat := 0
  lastViol : Nat := 0
  warned : Bool := false
  /-- notice mask | 64 bits | 03 R97 | all ones -/
  mask : BitVec 64 := BitVec.allOnes 64
  nseq : Nat := 0
  notices : List Notice := []
  dropped : Nat := 0
  firstDropped : Nat := 0
  /-- request identifiers whose answers are pending | list | 03 R98 R499 | empty -/
  pendingReq : List Nat := []
  /-- EVR_WIN.PAGE of the session | 6 bits | 17 R462 | 0 -/
  evrPage : Nat := 0
  /-- high words latched by low-word reads: offset and word | list | 00 R8 | empty -/
  latch : List (Nat × Word) := []
  /-- the session has ended; its number is kept until its last command is resolved | 1 bit | 03 R70 | 0 -/
  closing : Option Nat := none
  closeReq : Option Nat := none
  terminated : Nat := 0
  kept : Nat := 0
  deriving DecidableEq, Repr

/-- A queue pair (R72 to R76). -/
structure Qp where
  sess : Nat
  port : Nat
  cls : Nat
  depth : Nat
  /-- deletion in progress: mode 0 drain, 1 abort, 2 session end -/
  deleting : Option Nat := none
  /-- request identifiers of QP_DELETEs to answer -/
  delReqs : List Nat := []
  aborted : Nat := 0
  deriving DecidableEq, Repr

/-- One grain of a read-path command. -/
structure Part where
  grain : Nat
  /-- sectors of the command that lie in the grain: offset in command, sector in grain -/
  sectors : List (Nat × Nat)
  /-- path chosen (0 cache or unmapped, 1 direct, 2 inner, 3 outer, 4 late-bound) -/
  path : Nat
  /-- the fetch that reads it -/
  fetch : Option Nat := none
  /-- result: status and decode sub-code once known -/
  result : Option (Nat × Nat)
  /-- the grain's two sectors once known -/
  data : List Bytes
  /-- decode sub-codes of the copies tried (5: the original-data check), latest first -/
  bad : List Nat := []
  deriving DecidableEq, Repr

/-- An outstanding command (R75, R78, R81, R89, R95, R105). -/
structure Cmd where
  qp : Nat
  cid : Nat
  port : Nat
  sess : Nat
  opc : Nat
  vol : Nat
  lba : Nat
  nsect : Nat
  cls : Nat
  /-- DT from which the bound runs | 64 bits | 04 R105, 02 R502 -/
  start : Nat
  /-- DT of the last data flit when it came after the data window (R88) -/
  late : Option Nat := none
  /-- data window end (R88) -/
  window : Nat := 0
  /-- declared data flits and those received (R89) -/
  expect : Nat := 0
  got : Nat := 0
  timerAt : Nat := 0
  data : List Bytes := []
  /-- admitted by DSC -/
  admitted : Bool := false
  /-- class 7 command waiting at DSC (R104) -/
  waiting7 : Bool := false
  /-- forwarded to the peer, and when -/
  fwdAt : Option Nat := none
  /-- forwarded to this head by the peer: LANES and ENC of its word -/
  fromPeer : Option (Nat × Bool) := none
  /-- configuration epoch tag (R81) -/
  tag : Nat := 0
  /-- at or past the commit point (R17) -/
  committed : Bool := false
  /-- outcome decided: its completion is ready -/
  decided : Option Completion := none
  /-- excluded time so far in ns -/
  excl : Nat := 0
  /-- DT at which a ready flit first lacked credit (R46) -/
  blockedAt : Option Nat := none
  /-- worst-case completion reserved -/
  worst : Nat := 0
  parts : List Part := []
  frames : List (Nat × Nat) := []
  /-- mirror acknowledgements awaited: frame and generation -/
  acks : List (Nat × Nat) := []
  mirrorSent : Bool := false
  /-- discards awaited after the command's end (R140), and when the wait ends -/
  discards : List (Nat × Nat) := []
  discardBy : Nat := 0
  pendingEnd : Option Completion := none
  /-- a forwarded write: MIRROR_META records received for it, one a grain in ascending order (R319) -/
  metas : Nat := 0
  /-- ABORTs waiting for the outcome: queue pair and identifier -/
  aborters : List (Nat × Nat) := []
  /-- space credit charged (R257) and its pool -/
  credit : Nat := 0
  deriving DecidableEq, Repr

/-- CQE state. -/
structure Cqe where
  /-- open sessions by identifier | table, at most 4,096 | 03 R69 | empty -/
  sessions : Tbl Session := []
  /-- queue pairs by number | table, at most 16,384 | 03 R72 | empty -/
  qps : Tbl Qp := []
  /-- outstanding commands, in order of arrival | list, at most 131,072 | 03 R75 R78 | empty -/
  cmds : List Cmd := []
  /-- draining identifiers: queue pair and CID | list | 03 R89 | empty -/
  drain : List (Nat × Nat) := []
  /-- completions ready for transmission by host port, oldest first | list | 03 R80 | empty -/
  ready : List (Nat × Completion) := []
  /-- CQE_CFG.DATA_TIMEOUT_US | 16 bits | 03 R89 (CQE_CFG) | 0x07D0 -/
  dataTimeoutUs : Nat := 2000
  /-- CQE_VIOL.VIOLATIONS, RC, saturating | 16 bits | 03 R98 (CQE_VIOL) | 0x0000 -/
  violations : Nat := 0
  deriving DecidableEq, Repr

/-! ## Deadlines and admission (DSC) -/

/-- A calendar reservation (R107 to R112). Times are DT in ns. -/
inductive ResvKind where
  | read | opening | claim | program | erase | settle | busy | vault
  deriving DecidableEq, Repr

structure Resv where
  num : Nat
  die : Nat
  start : Nat
  stop : Nat
  kind : ResvKind
  /-- free suspend slots of a program or erase (R110) -/
  slots : Nat := 0
  /-- an opening already claimed (R112) -/
  claimed : Bool := false
  work : Work := .none
  /-- READ: first unit, units, chunk -/
  unit : Nat := 0
  units : Nat := 0
  chunk : Nat := 0
  /-- the reservation's media operation has been issued -/
  issued : Bool := false
  /-- share kind charged, if any (R125) -/
  share : Option Nat := none
  deriving DecidableEq, Repr

/-- Budgets and limits of one frame (R117, R125, R351). -/
structure FrameBud where
  /-- budget used: CPE lane-ns, XTS lane-ns, PXE ns, peer-link bytes -/
  cpe : Nat := 0
  xts : Nat := 0
  pxe : Nat := 0
  peer : Nat := 0
  /-- B_own fixed into the frame in mW; none: no limit (R351) -/
  limit : Option Nat := none
  /-- program and erase power charged in mW -/
  power : Nat := 0
  /-- background shares granted in permille by kind (R125) -/
  shares : List Nat := []
  /-- share time used by kind, in ns of die time -/
  used : List Nat := []
  /-- destage's held budget unplanned has been opened to host reads (R117), and share time has become slack (R127) -/
  heldOpen : Bool := false
  slack : Bool := false
  /-- vault time (R151) -/
  vaultTime : Bool := false
  deriving DecidableEq, Repr

/-- Refusals of one class in the current window (R124): count by cause order and the largest RETRY_US. -/
structure RefWin where
  count : Nat := 0
  byCause : List Nat := [0, 0, 0, 0, 0, 0, 0, 0]
  maxRetry : Nat := 0
  deriving DecidableEq, Repr

/-- A PEER_RESERVE sent for a command's decision (R314): the element asked for and the grant, as start and length. -/
structure PeerAsk where
  tag : Nat
  qp : Nat
  cid : Nat
  die : Nat
  chunk : Nat
  sentAt : Nat
  answered : Bool := false
  grant : Option (Nat × Nat) := none
  deriving DecidableEq, Repr

/-- DSC state. -/
structure Dsc where
  /-- the class table in force | 8 rows | 04 R101 R103 (DSC_CLASS_n) | the table of R101 -/
  classes : List ClassRow := [⟨250, 40, 0⟩, ⟨400, 60, 0⟩, ⟨700, 100, 0⟩, ⟨1500, 250, 0⟩, ⟨1800, 400, 0⟩, ⟨2000, 600, 0⟩,
    ⟨2300, 1000, 0⟩, ⟨0, 0, 0⟩]
  /-- class tables of earlier configuration epochs that commands in flight are tagged with: the epoch each ended at | list | 04 R103 | empty -/
  tables : List (Nat × List ClassRow) := []
  /-- calendar reservations of every die | list | 04 R107 | empty -/
  cal : List Resv := []
  nextResv : Nat := 1
  /-- budgets by frame number | table of 128 frames | 04 R117 | empty -/
  frames : Tbl FrameBud := []
  /-- last frame number that has entered the horizon | 64 bits | 04 R107 | 0 -/
  lastFrame : Nat := 0
  /-- CFG_PERMILLE of the 7 shares | 7 x 10 bits | 04 R125 (DSC_SHARE_n) | 100 100 20 20 10 30 20 -/
  shareCfg : List Nat := [100, 100, 20, 20, 10, 30, 20]
  /-- CUR_PERMILLE of the 7 shares | 7 x 10 bits | 04 R125 (DSC_SHARE_n) | 100 100 20 20 10 30 20 -/
  shareCur : List Nat := [100, 100, 20, 20, 10, 30, 20]
  /-- DSC_CFG.RA_OUTER_EN and RA_INNER_EN | 2 bits | 04 R118 (DSC_CFG) | 1 1 -/
  raOuter : Bool := true
  raInner : Bool := true
  /-- DSC_ADMIT_n, RC | 8 x 32 bits | 04 R106 (DSC_ADMIT_n) | 0 -/
  admits : List Nat := [0, 0, 0, 0, 0, 0, 0, 0]
  /-- DSC_REFUSE_n, RC | 8 x 32 bits | 04 R124 (DSC_REFUSE_n) | 0 -/
  refuse : List Nat := [0, 0, 0, 0, 0, 0, 0, 0]
  /-- DSC_MISS_n, RC | 8 x 32 bits | 04 R106 (DSC_MISS_n) | 0 -/
  miss : List Nat := [0, 0, 0, 0, 0, 0, 0, 0]
  /-- DSC_LAST_REFUSE: VALID, CLASS, CAUSE, RETRY_US | 32 bits | 04 R124 R132 | 0 -/
  lastValid : Bool := false
  lastClass : Nat := 0
  lastCause : Nat := 0
  lastRetry : Nat := 0
  /-- refusal summary of the current window and its second | 8 entries | 04 R124 | empty -/
  refWin : List RefWin := []
  refSec : Nat := 0
  /-- intake: arrivals in the current 20 us and commands refused at intake in the window | counts | 04 R122 | 0 -/
  intakeFrame : Nat := 0
  intakeCount : Nat := 0
  intakeRefused : Nat := 0
  /-- DIE refuses everything until this DT after a DSC block reset | 64 bits | 16 R444 | 0 -/
  closedUntil : Nat := 0
  /-- admitted map-page reads: volume, page, ready time | list | 04 R119 | empty -/
  mapReads : List (Nat × Nat × Nat) := []
  /-- PEER_RESERVEs of commands not yet decided, with their answers | list | 11 R314 | empty -/
  asks : List PeerAsk := []
  nextPeerTag : Nat := 0
  /-- number of the next fetch -/
  nextFetch : Nat := 1
  deriving DecidableEq, Repr

/-! ## Write cache, mirroring and the vault -/

/-- A write-cache frame or a mirror entry (R134, R135, R138). -/
structure Frame where
  desc : Desc
  st : FrameSt
  /-- the two sectors' data -/
  data : List Bytes
  /-- DT of the first commit (R145) -/
  firstCommit : Nat := 0
  /-- the peer holds an acknowledged copy -/
  mirrored : Bool := false
  /-- sectors of commands not yet committed: queue pair, identifier, sector, data (R136) -/
  pend : List (Nat × Nat × Nat × Bytes) := []
  /-- snooped fingerprint valid under R170 -/
  fp : Option Bytes := none
  /-- destage step reached: 0 fingerprint, 1 filter, 2 index page, 3 compress, 4 stripe, 5 commit -/
  stage : Nat := 0
  /-- destage's metadata commit covering the frame -/
  commit : Option Nat := none
  /-- a ZERO_RANGE that drops the whole mapping (R86) -/
  unmap : Bool := false
  deriving DecidableEq, Repr

/-- A vault header (R153). -/
structure VaultHdr where
  st : Nat
  headB : Bool
  vseq : Nat
  dtPf : Nat
  cepoch : Nat
  stripes : Nat
  own : Nat
  mirr : Nat
  limitGib : Nat
  deriving DecidableEq, Repr

/-- Write cache state. -/
structure Wc where
  /-- WC_SIZE in GiB (FTU_WC_LIMIT.SIZE_GIB) | 9 bits | 05 R133 | 0 -/
  sizeGib : Nat := 0
  /-- the peer's WC_SIZE | 9 bits | 05 R134 | 0 -/
  peerSizeGib : Nat := 0
  /-- WC_SIZE mismatch found at pairing | 1 bit | 05 R134 | 0 -/
  mismatch : Bool := false
  /-- frames in FILLING, DIRTY or DESTAGING by index; an unlisted frame is FREE | table | 05 R134 R135 | empty -/
  frames : Tbl Frame := []
  nextFrame : Nat := 0
  /-- the last generation given | 64 bits | 05 R134 | 0 -/
  gen : Nat := 0
  /-- mirror area by the peer's frame index: live entries and entries not yet acknowledged | table | 05 R138 | empty -/
  mirror : Tbl Frame := []
  /-- forwarded data written into the own mirror area before its MIRROR_META: queue pair, identifier, sectors | list | 11 R319 | empty -/
  fwdData : List (Nat × Nat × List Bytes) := []
  /-- mirror state (FTU_WC_STAT.MIRROR) | 3 bits | 05 R139 | NONE -/
  mirrorSt : MirrorSt := .none
  /-- declared dirty limit L accepted, in GiB | 9 bits | 05 R137 R149 | 0 -/
  limit : Nat := 0
  /-- hold-up time H from the image in ms (FTU_WC_VAULT.HOLDUP_MS) | 16 bits | 05 R148 | 0 -/
  holdup : Nat := 0
  /-- vault time T_V for the limit in force (FTU_WC_VAULT.VAULT_MS) | 16 bits | 05 R148 | 0 -/
  vaultMs : Nat := 0
  /-- bytes of the erased vault area (FTU_WC_STAT.READY_GIB follows) | 64 bits | 05 R150 | 0 -/
  erased : Nat := 0
  /-- frames still to copy in RESYNC, frames copied, its start | lists | 05 R144 | empty -/
  resync : List (Nat × Nat) := []
  resyncDone : Nat := 0
  resyncAt : Nat := 0
  /-- writes failed under R141 in the current window and its second | counts | 05 R141 | 0 -/
  deadlineWin : Nat := 0
  deadlineCount : Nat := 0
  /-- PWRFAIL_N seen and its DT (FTU_WC_STAT.PWRFAIL) | 1 and 64 bits | 05 R151 | none -/
  pwrfail : Option Nat := none
  /-- PWRFAIL_N has risen during the vault | 1 bit | 05 R153 | 0 -/
  pwrfailRose : Bool := false
  /-- the write cache is frozen | 1 bit | 05 R151 | 0 -/
  frozen : Bool := false
  /-- the vault header copies on flash as last written | 60 bytes | 05 R153 | none -/
  vault : Option VaultHdr := none
  /-- vault stripes still to be made durable: stripe, chunks not yet programmed | list | 05 R152 | empty -/
  vaultLeft : List (Nat × Nat) := []
  /-- vault stripes planned or durable on flash, and what each carries: mirror entry, frame index, frame | list | 05 R152 | empty -/
  vaultPlan : List (Nat × List (Bool × Nat × Frame)) := []
  vaultSeq : Nat := 0
  /-- the vault of this P4 is complete (step 7 of R151), or there was nothing to vault | 1 bit | 05 R151 R432 | 0 -/
  vaultDone : Bool := false
  /-- FTU_WC_LASTVAULT: VALID, OUTCOME, ELAPSED_MS | 32 bits | 05 R159 | 0 -/
  lastValid : Bool := false
  lastOutcome : Nat := 0
  lastMs : Nat := 0
  /-- restored mirror entries are kept until the peer's REPLAY_DONE | 1 bit | 05 R156 | 0 -/
  keepRestored : Bool := false
  /-- DT of the newest DIRTY frame by pool | table | 05 R145 | empty -/
  lastDirty : Tbl Nat := []
  deriving DecidableEq, Repr

/-! ## Digests and deduplication (DGE, DXU) -/

/-- A digest context (R162 to R166). -/
structure DgeCtx where
  st : DgeSt := .free
  alg : Nat := 0
  /-- key reference: a domain's fingerprint key or a JOB_KEY, by number -/
  key : Option Nat := none
  declared : Nat := 0
  /-- bytes fed: the whole message so far, oldest first -/
  msg : Bytes := []
  fed : Nat := 0
  expected : Option Bytes := none
  snoop : Bool := false
  err : Nat := 0
  owner : Nat := 0
  digest : Bytes := []
  /-- compare word (R174) -/
  cmp : Nat := 0
  lastFeed : Nat := 0
  /-- FEED_TIMEOUT_US when the timer started -/
  timeoutUs : Nat := 0
  /-- lane assigned, and DT of assignment -/
  lane : Option Nat := none
  laneAt : Nat := 0
  /-- DT at which the context became ready and lacks a lane -/
  readyAt : Option Nat := none
  deriving DecidableEq, Repr

/-- DGE state. -/
structure Dge where
  /-- lanes disabled until the next cold boot | list of 32 | 06 R161 (DGE_STAT.LANES_OK) | empty -/
  bad : List Nat := []
  /-- the known-answer tests of this cold boot have ended | 1 bit | 06 R161 | 0 -/
  tested : Bool := false
  /-- contexts not FREE, by number | table of 128 | 06 R163 (DGE_CTX_n) | empty -/
  ctx : Tbl DgeCtx := []
  /-- DGE_CFG.SNOOP_LANES_MAX | 5 bits | 06 R161 (DGE_CFG) | 0x1A -/
  snoopMax : Nat := 26
  /-- DGE_CFG.FEED_TIMEOUT_US | 16 bits | 06 R165 (DGE_CFG) | 0x07D0 -/
  feedTimeout : Nat := 2000
  /-- DGE_SNOOP.DROPPED, RC, saturating | 32 bits | 06 R168 (DGE_SNOOP) | 0 -/
  dropped : Nat := 0
  /-- snoop staging: queue pair, identifier, grain | at most 2,048 grains | 06 R168 | empty -/
  snoop : List (Nat × Nat × Nat) := []
  /-- peak staging and grains dropped in the current 1 s window, and the window | counts | 06 (event 0x0F02) | 0 -/
  peak : Nat := 0
  winDrop : Nat := 0
  win : Nat := 0
  /-- fingerprint keys by domain | 4,096 x 32 bytes | 06 R177, 14 R406 | empty -/
  fpKeys : Tbl Bytes := []
  /-- JOB_KEYs by replication job | 256 x 32 bytes | 14 R406, 10 R305 | empty -/
  jobKeys : Tbl Bytes := []
  deriving DecidableEq, Repr

/-- An index entry (R185): the domain's index page follows from i1. -/
structure IdxEntry where
  fp : Bytes
  loc : MapEntry
  serial : Nat
  refs : Nat
  gen : Nat
  ocrc : Word
  i1 : Nat
  tag : Nat
  deriving DecidableEq, Repr

/-- A dedup domain (R175 to R193). -/
structure Domain where
  pool : Nat
  group : Nat
  capLog2 : Nat
  verify : Bool
  st : DomSt := .active
  /-- DT at which LOADING or REBUILDING began -/
  since : Nat := 0
  /-- U: unique grains stored -/
  unique : Nat := 0
  /-- oldest live generation and current generation -/
  oldGen : Nat := 0
  curGen : Nat := 0
  /-- generation logs: generation, i1, tag, oldest first -/
  log : List (Nat × Nat × Nat) := []
  /-- filter slots: bucket x 4 + slot; an unlisted slot is empty (tag 0) -/
  slots : Tbl Nat := []
  /-- index entries, newest first -/
  idx : List IdxEntry := []
  /-- index pages lost -/
  lostPages : List Nat := []
  hits : Nat := 0
  failed : Nat := 0
  drops : Nat := 0
  fpread : Nat := 0
  /-- insert sequence: of the last slot write sent or applied -/
  iseq : Nat := 0
  /-- slot writes unsent while no peer lane is ACTIVE: bucket, slot, tag, kind, sequence -/
  unsent : List (Nat × Nat × Nat × Nat × Nat) := []
  /-- the peer's copy is out of date -/
  peerStale : Bool := false
  /-- failed inserts in the current 1 s window, the window, and the cause of the latest -/
  winFailed : Nat := 0
  win : Nat := 0
  winCause : Nat := 0
  deriving DecidableEq, Repr

/-- DXU state. -/
structure Dxu where
  /-- declared domains | table of 4,096 | 06 R175 (DXU_DOM_n) | empty -/
  doms : Tbl Domain := []
  /-- inserts in flight: domain, fingerprint, frame | at most 4,096 | 06 R180 (DXU_STAT.INFLIGHT) | empty -/
  inflight : List (Nat × Bytes × Nat) := []
  /-- DXU_CMP_FAULT, RC, saturating | 32 bits | 06 R174 (DXU_CMP_FAULT) | 0 -/
  cmpFault : Nat := 0
  deriving DecidableEq, Repr

/-! ## Millet compression (CPE) -/

/-- A stream context (R211, R212). -/
structure StreamCtx where
  st : StreamSt := .free
  decompress : Bool := false
  block : Nat := 0
  sid : Nat := 0
  bseq : Nat := 0
  hist : Bytes := []
  last : Option Nat := none
  err : Nat := 0
  owner : Nat := 0
  /-- the block offered -/
  offered : Option (Option GrainHdr × Bytes) := none
  waitAt : Nat := 0
  lane : Option Nat := none
  closing : Bool := false
  /-- the last block's output: its header, when compressed, and its bytes -/
  result : Option (Option GrainHdr × Bytes) := none
  deriving DecidableEq, Repr

/-- A decode queued at CPE: the grain of a host or internal read (R197, R215). -/
structure Decode where
  tag : Nat
  qp : Nat
  cid : Nat
  part : Nat
  header : GrainHdr
  data : Bytes
  copy : Nat
  lane : Option Nat := none
  vol : Nat := 0
  deriving DecidableEq, Repr

/-- CPE state. -/
structure Cpe where
  /-- lanes disabled until the next cold boot | list of 48 | 07 R196 (CPE_STAT.LANES_OK) | empty -/
  bad : List Nat := []
  /-- the known-answer tests of this cold boot have ended | 1 bit | 07 R196 | 0 -/
  tested : Bool := false
  /-- decodes waiting or running | list | 07 R197 (CPE_STAT.DEC_BUSY) | empty -/
  decodes : List Decode := []
  /-- frames being compressed: frame and lane | list | 07 R197 (CPE_STAT.CMP_BUSY) | empty -/
  comps : List (Nat × Nat) := []
  /-- CPE_CFG.FORCE_RAW | 1 bit | 07 (CPE_CFG) | 0 -/
  forceRaw : Bool := false
  /-- CPE_CLASS_1 to CPE_CLASS_4, RC, saturating | 4 x 32 bits | 07 R219 (CPE_CLASS_k) | 0 -/
  classes : List Nat := [0, 0, 0, 0]
  /-- class counts latched by a read of CPE_CLASS_1: counter number and count | list | 07 R219 | empty -/
  latched : List (Nat × Nat) := []
  /-- CPE_VERIFY_FAIL, RC, saturating | 32 bits | 07 R209 (CPE_VERIFY_FAIL) | 0 -/
  verifyFail : Nat := 0
  /-- CPE_DEC_ERR_1 to CPE_DEC_ERR_6, RC, saturating | 6 x 32 bits | 07 (CPE_DEC_ERR_e) | 0 -/
  decErr : List Nat := [0, 0, 0, 0, 0, 0]
  /-- dictionary store: key (256 x pool + identifier) and bytes (CPE_DICT) | at most 512, 16 MiB | 07 R204 (CPE_DICT) | empty -/
  dicts : Tbl Bytes := []
  /-- dictionaries lost | list | 07 R218 | empty -/
  lostDicts : List Nat := []
  /-- stream contexts not FREE | table of 1,024 | 07 R212 (CPE_CTX_n) | empty -/
  ctx : Tbl StreamCtx := []
  deriving DecidableEq, Repr

/-! ## Flash translation (FTU) -/

/-- One version of a map page (R229, R293): its entries by index; an unlisted entry is UNMAPPED. -/
structure MapPage where
  vol : Nat
  page : Nat
  /-- page epoch -/
  epoch : Nat
  entries : Tbl MapEntry := []
  /-- in the map cache (R230) -/
  cached : Bool := true
  /-- commands that pin it: queue pair, identifier -/
  pins : List (Nat × Nat) := []
  dirty : Bool := false
  /-- where the page lies on flash -/
  loc : Option MapEntry := none
  deriving DecidableEq, Repr

/-- A segment of a pool half (R236, R243). Its kind: 0 destage, 1 relocation, 2 metadata, 3 rebuild. -/
structure Segment where
  pool : Nat
  /-- the half: false head A, true head B -/
  headB : Bool
  seq : Nat
  block : Nat
  /-- the die group on every module (R221) -/
  group : Nat := 0
  st : SegSt := .opened
  kind : Nat := 0
  /-- layout generation under which it was opened -/
  lgen : Nat := 0
  /-- next stripe to issue -/
  next : Nat := 0
  /-- slots referenced -/
  valid : Nat := 0
  sealedAt : Nat := 0
  /-- erases issued and not yet answered: die -/
  erasing : List Nat := []
  refresh : Bool := false
  deriving DecidableEq, Repr

/-- A grain packed in the stripe buffers: its owner, place and bytes. -/
structure Packed where
  /-- the frame it comes from; none for a copy of garbage collection or recovery -/
  frame : Option Nat
  vol : Nat
  grain : Nat
  gen : Nat
  hdr : GrainHdr
  /-- encrypted slots -/
  slots : Bytes
  member : Nat
  slot : Nat
  /-- the entry a relocation replaces; absent for destage -/
  old : Option MapEntry := none
  domain : Option Nat := none
  deriving DecidableEq, Repr

/-- A stripe being filled or programmed (R237, R262, R270). -/
structure Stripe where
  num : Nat
  pool : Nat
  headB : Bool
  segSeq : Nat
  stripe : Nat
  kind : Nat := 0
  k : Nat
  grains : List Packed := []
  /-- member and slot at which the next grain goes -/
  fillMember : Nat := 0
  fillSlot : Nat := 0
  /-- DT at which the stripe last took a grain -/
  lastAt : Nat := 0
  /-- issued: members still to be programmed, as member, die, chunk -/
  issued : Bool := false
  left : List (Nat × Nat × Nat) := []
  /-- members lacking because their module left PRESENT (R272) -/
  missing : List Nat := []
  /-- members programmed to a remap target: member, die, chunk (R269) -/
  voids : List (Nat × Nat × Nat) := []
  failed : Bool := false
  commit : Option Nat := none
  deriving DecidableEq, Repr

/-- A map or index update carried by a metadata commit (R232). -/
inductive Update1 where
  /-- the serial of a grain stored by it, else 0 -/
  | map (vol : Nat) (grain : Nat) (gen : Nat) (new : MapEntry) (frame : Option Nat) (serial : Nat)
  | moveMap (vol : Nat) (grain : Nat) (old : MapEntry) (new : MapEntry)
  | refs (domain : Nat) (fp : Bytes) (delta : Int)
  | segSt (pool : Nat) (headB : Bool) (seq : Nat) (st : SegSt)
  | lost (vol : Nat) (grain : Nat)
  /-- home cell; the target, or none for an ABSENT entry (R277) -/
  | remap (home : Nat × Nat) (target : Option (Nat × Nat))
  | mark (pool : Nat) (serial : Nat)
  | layout (pool : Nat) (lgen : Nat)
  deriving DecidableEq, Repr

/-- A metadata commit (R232). -/
structure Commit where
  seq : Nat
  pool : Nat
  updates : List Update1
  openedAt : Nat
  issuedAt : Option Nat := none
  /-- programs of its stripes not yet answered -/
  left : Nat := 0
  durable : Bool := false
  deriving DecidableEq, Repr

/-- A die (R252, FTU_DIE_n). -/
structure Die where
  st : DieSt := .good
  own : Bool := false
  /-- the half that the ownership split gave the die to: true head B | 1 bit | 08 R222, 11 R312 | 0 -/
  half : Bool := false
  /-- type by DIE_TYPE record -/
  typ : Nat := 0
  retired : List Nat := []
  /-- erase counts by block; an unlisted block has 0 -/
  pe : Tbl Nat := []
  /-- DTs of fast-fail failures and READ timeouts in the last 24 h -/
  uecc : List Nat := []
  /-- corrected bits and bits read of the last 24 h: DT, corrected, read -/
  rber : List (Nat × Nat × Nat) := []
  /-- DT since which every READ has failed -/
  failSince : Option Nat := none
  /-- the die is being given up: nothing new is reserved on it | 1 bit | 11 R341, 08 R251 | 0 -/
  leaving : Bool := false
  deriving DecidableEq, Repr

/-- A pool half (R255 to R257). -/
structure Half where
  pool : Nat
  headB : Bool
  st : PoolSt := .normal
  /-- space credit in slots -/
  credit : Nat := 0
  segSeq : Nat := 0
  /-- wear crossings already reported: 900 and 1,000 permille -/
  wear900 : Bool := false
  wear1000 : Bool := false
  /-- the metadata reserve is below 10 % of itself (R255, chapter 08's failures) -/
  metaLow : Bool := false
  /-- grain serials used, the durable mark, and metadata serials used (R408) -/
  serial : Nat := 0
  mark : Nat := 0
  metaSerial : Nat := 0
  deriving DecidableEq, Repr

/-- Units of one chunk being read from one source after another (R239): the entry's own place, the inner row, P and Q. -/
structure Fetch where
  num : Nat
  /-- what the data is for -/
  work : Work
  die : Nat
  chunk : Nat
  unit : Nat
  units : Nat
  /-- the source being read: 1 the chunk itself, 2 its row, 3 its stripe -/
  path : Nat
  /-- the sources used up -/
  tried : List Nat := []
  /-- reads awaited, the pieces that came (die or member, bytes), and whether one failed -/
  waits : Nat
  got : List (Nat × Bytes) := []
  failed : Bool := false
  deriving DecidableEq, Repr

/-- A row whose XOR chunk is not yet durable (R223): the dies durable so far and the sum of their chunks. -/
structure XorRow where
  pos : Nat
  headB : Bool
  group : Nat
  block : Nat
  row : Nat
  done : List Nat := []
  acc : Bytes := []
  issued : Bool := false
  deriving DecidableEq, Repr

/-- FTU state. -/
structure Ftu where
  /-- fetches in progress | list | the model's own (R239's order of sources) | empty -/
  fetches : List Fetch := []
  /-- FTU_CFG.SCRUB_DAYS | 8 bits | 08 R242 (FTU_CFG) | 0x0E -/
  scrubDays : Nat := 14
  /-- FTU_CFG.WL_DELTA | 16 bits | 08 R250 (FTU_CFG) | 0x01F4 -/
  wlDelta : Nat := 500
  /-- map pages, every version (the map cache, the directory and the version region) | list | 08 R229 R230, 10 R293 | empty -/
  pages : List MapPage := []
  /-- metadata tail: full generation of the last map update issued: volume, grain, generation | list | 08 R231 | empty -/
  tailGen : List (Nat × Nat × Nat) := []
  /-- metadata commits, oldest first; the journal | list | 08 R232 (FTU_COMMIT.PENDING) | empty -/
  commits : List Commit := []
  /-- sequence of the last commit | 64 bits | 08 R232 | 0 -/
  commitSeq : Nat := 0
  /-- FTU_COMMIT.LAST_US | 16 bits | 08 (FTU_COMMIT) | 0x0000 -/
  lastUs : Nat := 0
  /-- segments of the pool halves held; an unlisted segment is FREE | list | 08 R243 (FTU_GC) | empty -/
  segs : List Segment := []
  /-- stripes being filled or programmed | list | 08 R237 | empty -/
  stripes : List Stripe := []
  nextStripe : Nat := 1
  /-- rows whose XOR chunk is not yet durable | list | 08 R223 R238 | empty -/
  rows : List XorRow := []
  /-- dies by global number; an unlisted die is absent | table of 24,576 | 08 R222 R252 (FTU_DIE_n) | empty -/
  dies : Tbl Die := []
  /-- die types by DIE_TYPE record | table of 16 | 04 R108, 08 R220 | empty -/
  types : Tbl DieType := []
  /-- pool halves | list | 08 R255 R256 (FTU_POOL_p) | empty -/
  halves : List Half := []
  /-- recovery list: volume, grain, SOFT_READ set next | list | 08 R241 | empty -/
  recovery : List (Nat × Nat × Nat) := []
  /-- MAP_MOVEs sent and not answered: volume, grain, old place, new place | list | 11 R313 | empty -/
  moves : List (Nat × Nat × MapEntry × MapEntry) := []
  /-- back-reference log: location (die, chunk, slot), volume, grain | list | 08 R235 | empty -/
  backrefs : List (Nat × Nat × Nat × Nat × Nat) := []
  /-- FTU_MAPC_HIT, RC, saturating | 32 bits | 08 (FTU_MAPC_HIT) | 0 -/
  mapHit : Nat := 0
  /-- FTU_MAPC_MISS, RC, saturating | 32 bits | 08 (FTU_MAPC_MISS) | 0 -/
  mapMiss : Nat := 0
  /-- FTU_REPAIRED, RC, saturating | 32 bits | 08 (FTU_REPAIRED) | 0 -/
  repaired : Nat := 0
  /-- FTU_LOST, RC, saturating | 32 bits | 08 (FTU_LOST) | 0 -/
  lost : Nat := 0
  /-- FTU_RETIRED, RC, saturating | 32 bits | 08 (FTU_RETIRED) | 0 -/
  retired : Nat := 0
  /-- scrub position and the DT at which the pass began | 64 bits | 08 R242 | 0 -/
  scrubPos : Nat := 0
  scrubAt : Nat := 0
  /-- map updates are held because the version region is full | 1 bit | 10 R296 | 0 -/
  versionsHeld : Bool := false
  /-- orphan copies that a reset left on flash: pool, slots | list | 08 R247 | empty -/
  orphans : List (Nat × Nat) := []
  deriving DecidableEq, Repr

/-! ## Declustered parity (PXE) -/

/-- A member module of a pool (R271). -/
structure Member where
  pool : Nat
  st : MemberSt := .absent
  /-- DT at which ABSENT was entered -/
  absentAt : Nat := 0
  peerAbsent : Bool := false
  /-- DT since which both heads report it ABSENT -/
  bothAt : Option Nat := none
  /-- was PRESENT before -/
  wasPresent : Bool := false
  /-- DT since which its lane is not ACTIVE -/
  downAt : Option Nat := none
  deriving DecidableEq, Repr

/-- A DRB slot (R273, R274): the region bits set and where each set is held. -/
structure DrbSlot where
  pool : Nat
  slot : Nat
  segSeq : Nat
  lgen : Nat
  regions : BitVec 256 := 0
  rseq : Nat := 0
  /-- the peer has acknowledged the record -/
  acked : Bool := false
  /-- DRB log copies durable, of three -/
  logged : Nat := 0
  /-- held for the peer in this head's mirror area -/
  peers : Bool := false
  deriving DecidableEq, Repr

/-- A layout (R265) with its generations: LGEN and the 96-bit module list. -/
structure Layout where
  k : Nat
  s : Nat
  seed : BitVec 64
  modules : List Nat
  gens : List (Nat × List Nat) := []
  /-- lost grains since the pool was declared -/
  lostg : Nat := 0
  deriving DecidableEq, Repr

/-- A cell waiting for rebuild (R279): home die and chunk, its stripe, its tier. -/
structure Cell where
  pool : Nat
  die : Nat
  chunk : Nat
  segSeq : Nat
  stripe : Nat
  member : Nat
  critical : Bool
  kind : Nat
  /-- reads still awaited and the bytes gathered: member, bytes -/
  waits : Nat := 0
  got : List (Nat × Bytes) := []
  running : Bool := false
  target : Option (Nat × Nat) := none
  deriving DecidableEq, Repr

/-- Rebuild of a pool half (R279 to R283). -/
structure Rebuild where
  /-- PXE_POOL_p_RB.STATE: 0 NORMAL, 1 DEGRADED, 2 REBUILDING, 3 CRITICAL, 4 PAUSED -/
  st : Nat := 0
  queued : Nat := 0
  done : Nat := 0
  cells : List Cell := []
  startAt : Nat := 0
  noticeAt : Nat := 0
  saidStep : Nat := 0
  paused : Nat := 0
  deriving DecidableEq, Repr

/-- PXE state. -/
structure Pxe where
  /-- PXE_CFG.LOSS_S | 16 bits | 09 R271 (PXE_CFG) | 0x0258 -/
  lossS : Nat := 600
  /-- PXE_CFG.CRIT_SHARE | 8 bits | 09 R280 (PXE_CFG) | 0x19 -/
  critShare : Nat := 25
  /-- layouts by pool | table of 16 | 09 R265 R266 (PXE_POOL_p_LAYOUT) | empty -/
  layouts : Tbl Layout := []
  /-- members by position | table of 96 | 09 R271 (PXE_MEMBER_m_STAT) | empty -/
  members : Tbl Member := []
  /-- the dirty-region bitmap | 8 slots a pool half | 09 R273 R274 | empty -/
  drb : List DrbSlot := []
  /-- sequence of the last DRB record by pool | table | 09 R274 | empty -/
  drbSeq : Tbl Nat := []
  /-- remap entries: home die, home chunk, state, target die, target chunk | list | 09 R277 | empty -/
  remaps : List (Nat × Nat × Nat × Nat × Nat) := []
  /-- rebuild by pool | table of 16 | 09 R279 R281 (PXE_POOL_p_RB) | empty -/
  rebuild : Tbl Rebuild := []
  /-- PXE time used in the last 1 s window in ns, in the current one, and the window (PXE_STAT.BUSY_PERMILLE) | counts | 09 (PXE_STAT) | 0 -/
  busyPrev : Nat := 0
  busyNow : Nat := 0
  busyWin : Nat := 0
  deriving DecidableEq, Repr

/-! ## Snapshots and replication -/

/-- A snapshot (R290, R292). -/
structure Snap where
  vol : Nat
  id : Nat
  /-- snapshot epoch -/
  e : Nat
  st : SnapSt := .creating
  /-- configuration epoch of the switch that created it -/
  cut : Nat := 0
  deletedAt : Nat := 0
  freed : Nat := 0
  deriving DecidableEq, Repr

/-- A replication job (R302 to R308). -/
structure Job where
  /-- 1 SOURCE, 2 TARGET -/
  role : Nat
  vol : Nat
  snapA : Nat
  snapB : Nat
  portal : Nat
  block : Nat
  negotiate : Bool
  st : JobSt := .queued
  cause : Nat := 0
  /-- DT of the last portal command -/
  lastAt : Nat := 0
  /-- REPL_IDLE_S when its timer started -/
  idleS : Nat := 300
  /-- next record sequence expected or produced, and next HAVE sequence -/
  rseq : Nat := 0
  haveSeq : Nat := 0
  /-- stream bytes produced or parsed -/
  bytes : Nat := 0
  /-- the records region in its window: bytes produced and kept, or received and not yet parsed, from offset `base`; and how
  far it has been read -/
  stream : Bytes := []
  base : Nat := 0
  readTo : Nat := 0
  /-- the HAVE region likewise -/
  haveStream : Bytes := []
  haveBase : Nat := 0
  haveRead : Nat := 0
  /-- bytes received beyond a gap: HAVE region, offset, bytes -/
  pieces : List (Bool × Nat × Bytes) := []
  /-- portal WRITEs whose bytes have come: queue pair, identifier, HAVE region, end offset -/
  writes : List (Nat × Nat × Bool × Nat) := []
  /-- a grain's plaintext is being read, and the last one read: grain, its bytes or none when it cannot be read -/
  fetching : Bool := false
  held : Option (Nat × Option Bytes) := none
  /-- SOURCE: next grain to offer, the OFFER being built, the number of the next batch, batches offered with their grains and
  the HAVE bits once they have come -/
  offerAt : Nat := 0
  offer : List (Nat × Bytes) := []
  nextBatch : Nat := 0
  offered : List (Nat × List Nat × Option Bytes) := []
  /-- SOURCE: the DATA block and the ZERO or LOST run being built (type, first grain, count) -/
  blk : List (Nat × Bytes) := []
  run : Option (Nat × Nat × Nat) := none
  /-- TARGET: the OFFER being answered: batch, grains and tokens left, HAVE bits so far -/
  toks : Option (Nat × List (Nat × Bytes) × List Bool) := none
  /-- TARGET: records being applied: the writes still to be issued, as grain and data (none: zeros), and identifiers given -/
  apply : List (Nat × Option Bytes) := []
  applied : Nat := 0
  /-- END has been produced or parsed, and the offset of its end -/
  ended : Option Nat := none
  /-- a reset found the job RUNNING -/
  resetLost : Bool := false
  /-- the next grain to be compared; DATA, skipped, ZERO and LOST grains so far -/
  cursor : Nat := 0
  nData : Nat := 0
  nSkip : Nat := 0
  nZero : Nat := 0
  nLost : Nat := 0
  /-- stream context in CPE -/
  ctx : Option Nat := none
  sid : Nat := 0
  deriving DecidableEq, Repr

/-- Snapshots, clones and replication. -/
structure SnapCtl where
  /-- volume epochs VE; an unlisted volume has 0 | table of 65,536 x 32 bits | 10 R290 | 0 -/
  ve : Tbl Nat := []
  /-- volume epochs by configuration epoch: volume, configuration epoch, VE in force from it | list | 10 R291 | empty -/
  veAt : List (Nat × Nat × Nat) := []
  /-- snapshots | list, at most 262,144 | 10 R292 (FTU_SNAP_SUM) | empty -/
  snaps : List Snap := []
  /-- replication jobs | table of 256 | 10 R302 R304 (FTU_REPL_n_STAT) | empty -/
  jobs : Tbl Job := []
  /-- FTU_REPL_CFG.REPL_IDLE_S | 16 bits | 10 R308 (FTU_REPL_CFG) | 0x012C -/
  idleS : Nat := 300
  deriving DecidableEq, Repr

/-! ## Two heads as one (leases, heartbeats, takeover, the Snowdrop island) -/

/-- What a holder or a would-be taker holds of one lease record: 0 to 255 the groups, 256 and 257 the permits. -/
structure LeaseSt where
  /-- PLK_LEASE_g.VIEW: 0 not held, 1 held, 2 in handover, 3 last round missed -/
  view : Nat := 0
  /-- bridges that accepted the last round -/
  accepted : Nat := 0
  /-- DT at which the latest round that a majority accepted was sent -/
  sentAt : Option Nat := none
  /-- the round in progress: its DT, bridges accepting, bridges asked -/
  roundAt : Nat := 0
  yes : List Nat := []
  asked : List Nat := []
  /-- majority record's HOLDER and RSEQ -/
  holder : Nat := 0
  rseq : Nat := 0
  /-- cause of the last refused CAS: 1 no majority, 2 CAS_FAILED, 3 EPOCH_STALE -/
  cause : Nat := 1
  deriving DecidableEq, Repr

/-- A takeover in progress (R337). -/
structure Takeover where
  /-- step of R337 reached -/
  step : Nat
  declaredAt : Nat
  /-- FENCE attempts and DT of the latest -/
  attempts : Nat
  fenceAt : Nat
  /-- 1 island, 2 lease, 3 HELD peer, 4 yield, 5 P4 -/
  mode : Nat
  /-- first-read DT of each peer record as last changed: record, position, record value, DT -/
  waits : List (Nat × Nat × Lease × Nat) := []
  /-- the groups being taken -/
  groups : List Nat := []
  deriving DecidableEq, Repr

/-- A failback in progress (R341). -/
structure Failback where
  startAt : Nat
  /-- first group of the batch in hand, and its phase: 0 before, 1 requested, 2 drained -/
  first : Nat
  phase : Nat
  groups : List Nat
  dies : Nat
  /-- a change of LEASE_PREF moves groups this way while both heads are ACTIVE (R405) -/
  migration : Bool := false
  deriving DecidableEq, Repr

/-- Two-head state. -/
structure Ha where
  /-- PLK_HA_CFG.FAILBACK_STABLE_S | 16 bits | 11 R340 (PLK_HA_CFG) | 0x003C -/
  stableS : Nat := 60
  /-- PLK_HA_CFG.YIELD_MS | 16 bits | 11 R324 (PLK_HA_CFG) | 0x07D0 -/
  yieldMs : Nat := 2000
  /-- PLK_HA_STAT.ROLE | 3 bits | 11 R315 (PLK_HA_STAT) | 0 STARTING -/
  role : Role := .starting
  /-- PLK_HA_STAT.PEER_ROLE | 3 bits | 11 (PLK_HA_STAT) | 0 -/
  peerRole : Role := .starting
  /-- the peer's power state and flags as last reported, and its configuration epoch | 8, 16 and 32 bits | 11 R318 R320 | 0 -/
  peerPstate : Nat := 0
  peerFlags : Nat := 0
  peerCepoch : Nat := 0
  /-- PMU_STAT.PEER_P3 by path: peer link, mailbox | 1 and 1 bits | 15 R431 (PMU_STAT) | 0 -/
  peerP3Plk : Bool := false
  peerP3Mbox : Bool := false
  /-- own HBSEQ | 64 bits | 11 R320 | 0 -/
  hbseq : Nat := 0
  /-- DT of the next heartbeat of the 5 ms schedule | 64 bits | 11 R320 | 0 -/
  hbDue : Nat := 0
  /-- the peer's last HBSEQ on the peer link | 64 bits | 11 R320 | 0 -/
  peerHb : Nat := 0
  /-- the peer's HBSEQ read last by bridge | table | 11 R321 | empty -/
  mboxHb : Tbl Nat := []
  /-- DT of the last fresh heartbeat on the peer link path and on the mailbox path | 64 and 64 bits | 11 R321 | none -/
  plkAt : Option Nat := none
  mboxAt : Option Nat := none
  /-- path faults recorded: peer link, mailbox | 1 and 1 bits | 11 R321 | 0 -/
  plkSilent : Bool := true
  mboxSilent : Bool := true
  /-- own NONCE, drawn at cold boot | 64 bits | 11 R320 | 0 -/
  nonce : Nat := 0
  /-- the peer's NONCE, GROUPS, YIELD, FWVER and COMPAT_MINOR as last read | 64, 16, 8, 24 and 8 bits | 11 R320 R344 | 0 -/
  peerNonce : Nat := 0
  peerGroups : Nat := 0
  peerYield : Nat := 0
  peerFw : Nat := 0
  peerCompat : Nat := 0
  /-- own YIELD | 8 bits | 11 R324 | 0 -/
  yieldSt : Nat := 0
  /-- the lease bridge set in force | 0, 3, 5 or 7 positions | 11 R325 | empty -/
  bridges : List Nat := []
  /-- lease records as last seen on each bridge: record, position, record | list | 11 R325 R328 | empty -/
  seen : List (Nat × Nat × Lease) := []
  /-- leases and permits by record (PLK_LEASE_g) | 258 entries | 11 R325 R327 (PLK_LEASE_g) | empty -/
  leases : Tbl LeaseSt := []
  /-- groups whose preferred head is B | 256 bits | 11 R311 (PLK_LEASE_g.PREF) | odd groups -/
  pref : List Nat := (List.range 256).filter (fun g => g % 2 == 1)
  /-- DT of the next renewal round | 64 bits | 11 R327 | 0 -/
  renewDue : Nat := 0
  /-- PLK_HA_EPOCH: fencing epoch in use | 32 bits | 11 R329 (PLK_HA_EPOCH) | 0x00000000 -/
  epoch : Nat := 0
  /-- fencing epoch last read on each bridge | table | 11 R329 | empty -/
  epochAt : Tbl Nat := []
  /-- EPOCH_STALE has stopped programs, erases, OWNER sets and CASes | 1 bit | 11 R330 | 0 -/
  stale : Bool := false
  /-- ownership maps by module position, bit d set when head A owns die d | table of 96 x 192 bits | 11 R312 | empty -/
  owner : Tbl (BitVec 192) := []
  /-- the peer has been declared failed, or found HELD, and not since recovered | 1 bit | 11 R321 R338 | 0 -/
  peerFailed : Bool := false
  /-- groups the peer gave notice of having lost, with the DT of the first read of their records | list | 11 R339 R328 | empty -/
  lostWaits : List (Nat × Nat) := []
  /-- a disagreement of wall times is recorded | 1 bit | 00 R12, 11 R344 | 0 -/
  wallSaid : Bool := false
  /-- the takeover in progress | record | 11 R337 | none -/
  takeover : Option Takeover := none
  /-- PLK_HA_STAT.LAST_FENCE | 2 bits | 11 (PLK_HA_STAT) | 0 -/
  lastFence : Nat := 0
  /-- DT since which the conditions of R340 hold without a break | 64 bits | 11 R340 | none -/
  stableAt : Option Nat := none
  /-- DTs of completed failbacks (PLK_HA_STAT.FAILBACKS) | list | 11 R342 | empty -/
  failbacks : List Nat := []
  /-- PLK_HA_STAT.FLAP_HOLD | 1 bit | 11 R342 (PLK_HA_STAT) | 0 -/
  flap : Bool := false
  /-- GO has ended a hold: the next failback is not counted against the limit | 1 bit | 11 R342 | 0 -/
  goDone : Bool := false
  /-- the failback in progress | record | 11 R341 | none -/
  failback : Option Failback := none
  /-- the heads have paired since this head's start | 1 bit | 11 R332 | 0 -/
  paired : Bool := false
  /-- DT at which this head became ready | 64 bits | 11 R322 | none -/
  readyAt : Option Nat := none
  /-- subject of a disagreement that names this head (R344 row); 0 none | 4 bits | 11 R315 R344 | 0 -/
  disagree : Nat := 0
  /-- commands deciding a HELD entry with lease groups still held (R316) | 1 bit | 11 R316 | 0 -/
  goingHeld : Bool := false
  deriving DecidableEq, Repr

/-- Snowdrop island state: kept in every reset scope but POR. -/
structure Snw where
  /-- SNW_STAT.FEED: VSTBY present, peer's PSB present | 2 bits | 11 R331 (SNW_STAT) | 0 (neither reported yet) -/
  vstby : Bool := false
  psb : Bool := false
  /-- SNW_STAT.PAIRED: pair key present | 1 bit | 11 R332 (SNW_STAT) | 0 -/
  paired : Bool := false
  /-- message counters: last sent, last accepted | 64 and 64 bits | 11 R333 | 0 -/
  ctrTx : Nat := 0
  ctrRx : Nat := 0
  /-- DT of the last frame accepted (SNW_STAT.PSB_UP) | 64 bits | 11 (SNW_STAT) | none -/
  acceptedAt : Option Nat := none
  /-- SNW_STAT.PEER_HELD | 1 bit | 11 R335 (SNW_STAT) | 0 -/
  peerHeld : Bool := false
  /-- DT at which the peer was held | 64 bits | 11 R337 (event 0x0505) | 0 -/
  heldAt : Nat := 0
  /-- SNW_STAT.EVR_AVAIL | 11 bits | 11 (SNW_STAT) | 0 -/
  evrAvail : Nat := 0
  /-- the peer's event records read (R336) | at most 1,024 records | 11 R336 | empty -/
  peerEvents : List EvRec := []
  /-- SNW_STAT.REJECTED, RC, saturating | 16 bits | 11 (SNW_STAT) | 0x0000 -/
  rejected : Nat := 0
  /-- frames rejected in the current 1 s window, and the window | counts | 11 R345 | 0 -/
  rejWin : Nat := 0
  rejCount : Nat := 0
  /-- the PSB is ignored until this DT | 64 bits | 11 R345 | none -/
  ignoreUntil : Option Nat := none
  deriving DecidableEq, Repr

/-! ## Power governor (GOV) -/

/-- A running injection (R361). -/
structure Injection where
  kind : Nat
  point : Bool
  hold : Nat
  duration : Nat
  amp : Nat
  /-- samples done -/
  n : Nat
  /-- PRBS register -/
  lfsr : BitVec 11
  deriving DecidableEq, Repr

/-- A move of the profile generator (R358): from, to, start DT. -/
structure Move where
  start : Int
  target : Int
  at_ : Nat
  deriving DecidableEq, Repr

/-- GOV state. Powers in mW, two's complement where the register says so. -/
structure Gov where
  /-- GOV_STAT.MODE | 2 bits | 12 R354 (GOV_STAT) | 0 OFF -/
  mode : GovMode := .off
  /-- GOV_STAT.CAPPED | 1 bit | 12 R352 (GOV_STAT) | 0 -/
  capped : Bool := false
  /-- placements deferred by the limit in the current and the previous 100 ms window, and the window | counts | 12 R352 | 0 -/
  capWin : Nat := 0
  capNow : Nat := 0
  capPrev : Nat := 0
  /-- GOV_STAT.IMPL_RUN | 6 bits | 12 R360 (GOV_STAT) | 0 -/
  implRun : Nat := 0
  /-- consecutive plausible samples | 10 bits | 12 R354 | 0 -/
  plausRun : Nat := 0
  /-- consecutive CLOSED samples with u at U_MIN and Y above the set-point | 7 bits | 12 R352 | 0 -/
  floorRun : Nat := 0
  /-- 1 s windows of the latest 0x0804 and 0x0809 | 64 bits each | 12 R352 R359 | none -/
  unreachSec : Option Nat := none
  telemSec : Option Nat := none
  /-- GOV_CTRL.MODE_REQ | 1 bit | 12 (GOV_CTRL) | 1 -/
  modeReq : Bool := true
  /-- GOV_CTRL.FORM | 1 bit | 12 R355 (GOV_CTRL) | 0 -/
  form : Bool := false
  /-- GOV_CTRL.COMPAT5160 | 1 bit | 12 R363 (GOV_CTRL) | 0 -/
  compat : Bool := false
  /-- LOAD waits for the next sample | 1 bit | 12 R357 | 0 -/
  loadReq : Bool := false
  /-- GOV_STICKY, W1C | 8 bits | 12 R356 (GOV_STICKY) | 0x00 -/
  sticky : BitVec 8 := 0
  /-- the power record in force | record | 12 R349 R354 | none -/
  power : Option PowerRec := none
  /-- GOV_TARGET: target PB | 32 bits | 12 R358 (GOV_TARGET) | 0 -/
  target : Int := 0
  /-- GOV_SETPT: r_p | 32 bits | 12 R358 (GOV_SETPT) | 0 -/
  rp : Int := 0
  /-- the move in progress, a target waiting for the next sample or for the move's end | records | 12 R358 | none -/
  move : Option Move := none
  pendingPb : Option Int := none
  /-- GOV_MEAS: Y | 32 bits | 12 R348 (GOV_MEAS) | 0 -/
  y : Int := 0
  /-- GOV_OUT: u | 32 bits | 12 R355 (GOV_OUT) | 0 -/
  u : Int := 0
  /-- GOV_FRAME: B_own of the frame last entering the horizon | 32 bits | 12 R350 (GOV_FRAME) | 0 -/
  frame : Int := 0
  /-- B_own of the latest sample | 32 bits | 12 R350 R353 | 0 -/
  bOwn : Int := 0
  /-- GOV_MODEL_MIN: Y_lo | 32 bits | 12 R359 (GOV_MODEL_MIN) | 0 -/
  yLo : Int := 0
  /-- GOV_MODEL_MAX: Y_hi | 32 bits | 12 R359 (GOV_MODEL_MAX) | 0 -/
  yHi : Int := 0
  /-- F_PERMILLE as sampled | 10 bits | 12 R350 (GOV_STAT) | 0 -/
  fPermille : Nat := 0
  /-- GOV_COEF_0 to GOV_COEF_6, RW | 7 x 32 bits | 12 R357 (GOV_COEF_k) | 0x0199999A 0xFE8F5C29 0 0 0xE0000000 0 0 -/
  coef : List Word := [0x0199999A, 0xFE8F5C29, 0, 0, 0xE0000000, 0, 0]
  /-- GOV_COEF_ACT_0 to GOV_COEF_ACT_6 | 7 x 32 bits | 12 R357 (GOV_COEF_ACT_k) | as GOV_COEF_k -/
  coefAct : List Word := [0x0199999A, 0xFE8F5C29, 0, 0, 0xE0000000, 0, 0]
  /-- FORM and COMPAT5160 of the active set | 1 and 1 bits | 12 R357 R363 | 0, 0 -/
  formAct : Bool := false
  compatAct : Bool := false
  /-- GOV_C5160_0 to GOV_C5160_4, RW | 5 x 16 bits | 12 R363 (GOV_C5160_k) | 0x0000 -/
  c5160 : List (BitVec 16) := [0, 0, 0, 0, 0]
  /-- e[n-1] to e[n-3] | 3 x 24 bits | 12 R355 | 0 -/
  eHist : List Int := [0, 0, 0]
  /-- u[n-1] to u[n-3] | 3 x 32 bits | 12 R355 | 0 -/
  uHist : List Int := [0, 0, 0]
  /-- GOV_INJ_CFG.KIND, POINT, HOLD and DURATION | 2, 1, 6 and 16 bits | 12 R361 (GOV_INJ_CFG) | 0 -/
  injKind : Nat := 0
  injPoint : Bool := false
  injHold : Nat := 0
  injDur : Nat := 0
  /-- GOV_INJ_AMP.AMP | 32 bits | 12 R361 (GOV_INJ_AMP) | 0x00000000 -/
  injAmp : Nat := 0
  /-- GOV_INJ_CHIRP.F0 and F1 | 16 and 16 bits | 12 R361 (GOV_INJ_CHIRP) | 0x0000 -/
  injF0 : Nat := 0
  injF1 : Nat := 0
  /-- the injection running (GOV_STAT.INJECTING) | record | 12 R361 | none -/
  inj : Option Injection := none
  /-- GOV_CAP_CTRL.RUN, ONE_SHOT, ON_INJ and DECIM | 1, 1, 1 and 8 bits | 12 R362 (GOV_CAP_CTRL) | 0 -/
  capRun : Bool := false
  oneShot : Bool := false
  onInj : Bool := false
  decim : Nat := 0
  /-- samples since the last capture entry | 8 bits | 12 R362 | 0 -/
  capSkip : Nat := 0
  /-- the capture ring, oldest first: r_p, Y, u, d (GOV_CAP_DATA_m; COUNT is its length) | at most 4,096 x 4 x 32 bits | 12 R362 | empty -/
  ring : List (Int × Int × Int × Int) := []
  /-- GOV_CAP_IDX.IDX | 12 bits | 12 R362 (GOV_CAP_IDX) | 0x000 -/
  capIdx : Nat := 0
  /-- number of the latest sample | 64 bits | 12 R353 | 0 -/
  sample : Nat := 0
  /-- read-element power of the last 100 samples, newest first | 100 entries | 12 R359 | empty -/
  rdHist : List Nat := []
  /-- a power record has started the profile since the reset | 1 bit | 12 R358 | 0 -/
  started : Bool := false
  deriving DecidableEq, Repr

/-! ## Memory and system cache (MCU, SLC) -/

/-- MCU state. -/
structure Mcu where
  /-- the declared population (MCU_POP) | record | 13 R367 (MCU_POP) | none -/
  pop : Option Population := none
  /-- MCU_CH_n_STAT.STATE | 12 x 3 bits | 13 R370 (MCU_CH_n_STAT) | 0 untrained -/
  chSt : List ChSt := List.replicate 12 .untrained
  /-- MCU_CH_n_STAT.FAIL_STEP | 12 x 8 bits | 13 R370 (MCU_CH_n_STAT) | 0x00 -/
  failStep : List Nat := List.replicate 12 0
  /-- MCU_CH_n_CE, RC, saturating | 12 x 32 bits | 13 R371 (MCU_CH_n_CE) | 0 -/
  ce : List Nat := List.replicate 12 0
  /-- MCU_CH_n_UE, RC, saturating | 12 x 32 bits | 13 R371 (MCU_CH_n_UE) | 0 -/
  ue : List Nat := List.replicate 12 0
  /-- uncorrectable errors in the head's life | 12 x 32 bits | 17 R472 (health report DRAM) | 0 -/
  ueLife : List Nat := List.replicate 12 0
  /-- DTs of the corrected errors of the last 24 h: channel, rank, DT, newest first | list | 13 R371 | empty -/
  ceAt : List (Nat × Nat × Nat) := []
  /-- ranks recorded as degraded: channel, rank | list | 13 R371 | empty -/
  degraded : List (Nat × Nat) := []
  /-- 1 s window of the latest 0x1603 by channel | table | 13 R371 | empty -/
  ceSec : Tbl Nat := []
  /-- ECS counts at the last read: channel, count | list | 13 R368 | empty -/
  ecs : List (Nat × Nat) := []
  /-- DT of the last ECS read | 64 bits | 13 R368 | 0 -/
  ecsRead : Nat := 0
  /-- DT of the last ZQ calibration | 64 bits | 13 R370 | 0 -/
  zqAt : Nat := 0
  /-- DT of the last patrol scrub round | 64 bits | 13 R371 | 0 -/
  patrolAt : Nat := 0
  /-- the regions fit and the population holds (R369, R372): management sessions only otherwise | 1 bit | 13 R369 | 1 -/
  popOk : Bool := true
  /-- region sizes in force | record | 13 R372, 14 R393 | none -/
  sizes : Option MemSizes := none
  deriving DecidableEq, Repr

/-- SLC state. -/
structure Slc where
  /-- SLC_CTRL.EN | 1 bit | 13 R381 (SLC_CTRL) | 1 -/
  en : Bool := true
  /-- SLC_STAT.STATE | 3 bits | 13 (SLC_STAT) | 0 ENABLED -/
  st : SlcSt := .enabled
  /-- SLC_STAT.EN_REFUSED, W1C | 1 bit | 13 R381 (SLC_STAT) | 0 -/
  enRefused : Bool := false
  /-- SLC_STAT.STAGE_WAIT, RC, saturating | 6 bits | 13 R376 (SLC_STAT) | 0 -/
  stageWait : Nat := 0
  /-- inbound staging entries: queue pair, identifier, bytes, DT of the last flit (SLC_STAT.STAGE_4K) | list | 13 R376 (SLC_STAT) | empty -/
  staging : List (Nat × Nat × Nat × Nat) := []
  /-- SLC_SPAD.REQ_ERR, W1C | 1 bit | 13 R380 (SLC_SPAD) | 0 -/
  reqErr : Bool := false
  /-- SLC_SPAD.BUSY with the start and the target of the conversion | 1 bit, 64 and 4 bits | 13 R380 (SLC_SPAD) | 0 -/
  busy : Option (Nat × Nat) := none
  /-- SLC_SPAD.WAYS_REQ | 4 bits | 13 R380 (SLC_SPAD) | 0x0 -/
  waysReq : Nat := 0
  /-- SLC_SPAD.WAYS | 4 bits | 13 R380 (SLC_SPAD) | 0x0 -/
  ways : Nat := 0
  /-- SLC_ERR.CORR, RC, saturating | 16 bits | 13 (SLC_ERR) | 0x0000 -/
  corr : Nat := 0
  /-- SLC_ERR.UNCORR, RC, saturating | 16 bits | 13 (SLC_ERR) | 0x0000 -/
  uncorr : Nat := 0
  /-- SLC_RETIRE_s: retired ways by slice; an unlisted slice has none | 64 x 16 bits | 13 R379 (SLC_RETIRE_s) | 0x0000 -/
  retired : Tbl (BitVec 16) := []
  /-- corrected errors of the last hour: slice, way, DT | list | 13 R379 | empty -/
  corrAt : List (Nat × Nat × Nat) := []
  /-- slices whose 0x1505 has been recorded | list | 13 R379 | empty -/
  limitSaid : List Nat := []
  /-- 1 s window of the latest 0x1502 by slice and way | table | 13 (event 0x1502) | empty -/
  corrSec : Tbl Nat := []
  deriving DecidableEq, Repr

/-! ## Identity, boot and configuration (ROT, NVI, XTS) -/

/-- ROT state. -/
structure Rot where
  /-- measurements M0 to M7 | 8 x 48 bytes | 14 R385 (ROT_MEAS_n) | zero -/
  meas : List Bytes := List.replicate 8 (List.replicate 48 0)
  /-- ROT_BOOT_DIGEST | 48 bytes | 14 R398 (ROT_BOOT_DIGEST_w) | zero -/
  bootDigest : Bytes := List.replicate 48 0
  /-- ROT_STAT.STAGE | 4 bits | 14 R396 R398 (ROT_STAT) | 0x0 -/
  stage : Nat := 0
  /-- ROT_STAT.SLOT: false A, true B | 1 bit | 14 R396 (ROT_STAT) | 0 -/
  slotB : Bool := false
  /-- ROT_STAT.TRIAL | 1 bit | 14 (ROT_STAT) | 0 -/
  trial : Bool := false
  /-- the image that is running, its records read and checked | record | 14 R392 R396 | none -/
  image : Option Image := none
  /-- ROT_BOOT_MS.COUNTED and WAITED | 16 and 16 bits | 14 (ROT_BOOT_MS) | 0x0000 -/
  bootCounted : Nat := 0
  bootWaited : Nat := 0
  /-- DT of the release that began the last start | 64 bits | 14 R396 R398 (ROT_BOOT_MS) | 0 -/
  startAt : Nat := 0
  /-- DT since which the head waits for a configuration | 64 bits | 14 R396 step 11 | none -/
  waitSince : Option Nat := none
  /-- the head is ready (event 0x0604 recorded) | 1 bit | 14 R396 R398 | 0 -/
  ready : Bool := false
  /-- lifecycle fuses | 3 bits | 15 R415 | DESIGN CHOICE PROVISIONED -/
  lifecycle : Lifecycle := .provisioned
  /-- wrap-key erase fuse | 1 bit | 15 R421 | DESIGN CHOICE 0 -/
  wrapErased : Bool := false
  /-- owner anchor fused at TO_FIELD | 48 bytes, here the anchor's number | 15 R421 | DESIGN CHOICE none -/
  ownerAnchor : Option Nat := none
  /-- FUSE_SVN | 7 bits | 14 R391 (ROT_SVN) | DESIGN CHOICE 0 -/
  fuseSvn : Nat := 0
  /-- device serial | 64 bits | 14 R383 (ROT_SERIAL_LO, ROT_SERIAL_HI) | DESIGN CHOICE 0 -/
  serial : Nat := 0
  /-- the AKEK is unwrapped in ROT: its AKEK_ID | 32 bits | 14 R406 | none -/
  akek : Option Nat := none
  /-- the island's running code digest | 48 bytes | 14 R397 | none -/
  islandCode : Option Bytes := none
  deriving DecidableEq, Repr

/-- An image update (R399). -/
structure Update where
  sess : Nat
  len : Nat
  off : Nat
  lastAt : Nat
  deriving DecidableEq, Repr

/-- NVI state: the boot control block and the slots of the configuration NVM. -/
structure Nvi where
  /-- BCB ACTIVE | 1 bit | 14 R389 (NVI_STAT) | DESIGN CHOICE 0 -/
  activeB : Bool := false
  /-- BCB STATE_A | 2 bits | 14 R389 (NVI_STAT) | DESIGN CHOICE EMPTY -/
  stA : SlotSt := .empty
  /-- BCB STATE_B | 2 bits | 14 R389 (NVI_STAT) | DESIGN CHOICE EMPTY -/
  stB : SlotSt := .empty
  /-- BCB TRIES | 3 bits | 14 R389 (NVI_STAT) | DESIGN CHOICE 0 -/
  tries : Nat := 0
  /-- BCB BSEQ | 64 bits | 14 R389 | DESIGN CHOICE 0 -/
  bseq : Nat := 0
  /-- slot A and slot B content | 2 x 127 MiB | 14 R388 R392 | DESIGN CHOICE none -/
  slotA : Option Image := none
  slotB : Option Image := none
  /-- NVI_STAT.READ_ERR, RC, saturating | 16 bits | 14 (NVI_STAT) | 0x0000 -/
  readErr : Nat := 0
  /-- the image updates open, one a session | list | 14 R399 | none -/
  updates : List Update := []
  deriving DecidableEq, Repr

/-- XTS state. -/
structure Xts where
  /-- lanes disabled until the next cold boot | list of 32 | 14 R409 (XTS_STAT.LANES_OK) | empty -/
  bad : List Nat := []
  /-- lanes that have passed their test vectors this cold boot | 1 bit | 14 R409 | 0 -/
  tested : Bool := false
  /-- key slots by number: the 512-bit keys | 4,129 slots of 64 bytes | 14 R406 R409 | empty -/
  keys : Tbl Bytes := []
  /-- slots emptied by a parity fault or an XTS block reset, to be installed again within 10 ms: slot and DT | list | 14 R409 | empty -/
  reload : List (Nat × Nat) := []
  /-- slots of domains whose keys were purged under R177 | list | 14 R409 | empty -/
  purged : List Nat := []
  /-- XTS_ERR.PARITY, RC, saturating | 16 bits | 14 (XTS_ERR) | 0x0000 -/
  parity : Nat := 0
  deriving DecidableEq, Repr

/-- The staging of R404. -/
structure Staging where
  sess : Nat
  epoch : Nat
  base : Nat
  len : Nat
  off : Nat
  recs : List CfgRec
  lastAt : Nat
  /-- the commit being carried out, and the request to answer: port, identifier -/
  commit : Option (CommitRec × Nat × Nat) := none
  /-- positions whose IDENT is awaited (R407) -/
  idents : List Nat := []
  /-- DT of the offer to the peer -/
  offeredAt : Option Nat := none
  deriving DecidableEq, Repr

/-- A configuration the peer offers (R405 step 4). -/
structure Offer where
  commit : CommitRec
  len : Nat
  off : Nat
  recs : List CfgRec
  /-- positions whose IDENT is awaited (R407) -/
  idents : List Nat := []
  prepared : Bool := false
  deriving DecidableEq, Repr

/-- The configuration. -/
structure Cfg where
  /-- configuration epoch in force; 0 if none | 64 bits | 14 R401 (ROT_EPOCH_LO, ROT_EPOCH_HI) | 0 -/
  epoch : Nat := 0
  /-- DIGEST_FULL of the configuration in force | 48 bytes, here as a number | 14 R401 | 0 -/
  digest : Nat := 0
  /-- the records in force, in canonical order | list | 14 R400 R402 | empty -/
  recs : List CfgRec := []
  /-- the commit record in force | record | 14 R401 | none -/
  commit : Option CommitRec := none
  /-- the staging in progress | record | 14 R404 | none -/
  staging : Option Staging := none
  /-- the configuration the peer offers | record | 14 R405 | none -/
  offer : Option Offer := none
  /-- the peer's own configuration being taken | record | 14 R405 | none -/
  taking : Option Offer := none
  /-- PEER_CFG_FETCH sent and not answered | 1 bit | 14 R405 | 0 -/
  fetching : Bool := false
  /-- volume states by volume; an unlisted volume is undeclared | table | 14 R413 | empty -/
  volumes : Tbl VolSt := []
  /-- wall-time offset in ns, signed | 64 bits | 00 R11 | DESIGN CHOICE 0 -/
  wall : Int := 0
  deriving DecidableEq, Repr

/-! ## Lifecycle, debug and power states (PMU, DBG) -/

/-- A PM_SET in progress (R427 to R429): its target, requester and start. -/
structure PmSet where
  target : Nat
  port : Nat
  sess : Nat
  reqId : Nat
  at_ : Nat
  deriving DecidableEq, Repr

/-- PMU state. -/
structure Pmu where
  /-- PMU_STAT.PSTATE | 3 bits | 15 R427 (PMU_STAT) | 2 (P2) -/
  pstate : PState := .p2
  /-- PMU_STAT.TARGET and BUSY, with the PM_SET they describe | 3 and 1 bits | 15 (PMU_STAT) | 0, 0 -/
  trans : Option PmSet := none
  /-- PMU_STAT.LAST_REASON | 8 bits | 15 (PMU_STAT) | 0x00 -/
  lastReason : Nat := 0
  /-- PMU_STAT.LAST_CAUSE | 8 bits | 15 (PMU_STAT) | 0x00 -/
  lastCause : Nat := 0
  /-- DT at which P3 was entered | 64 bits | 15 R430 (event 0x0303) | 0 -/
  p3At : Nat := 0
  deriving DecidableEq, Repr

/-- A valid nonce (R417). -/
structure Nonce where
  action : Nat
  sess : Nat
  value : Nat
  issuedAt : Nat
  deriving DecidableEq, Repr

/-- A DEBUG action running (R424, R425). -/
structure DbgAct where
  level : Nat
  port : Nat
  sess : Nat
  reqId : Nat
  at_ : Nat
  deriving DecidableEq, Repr

/-- DBG state. -/
structure Dbg where
  /-- DBG_STAT.LEVEL | 2 bits | 15 R422 (DBG_STAT) | 0 -/
  level : Nat := 0
  /-- the valid nonce (DBG_STAT.NONCE_VALID): its action, session, 256 bits and DT of issue | record | 15 R417 (DBG_STAT) | none -/
  nonce : Option Nonce := none
  /-- DBG_STAT.JTAG_REFUSED, W1C | 1 bit | 15 R426 (DBG_STAT) | 0 -/
  jtagRefused : Bool := false
  /-- DBG_STAT.TRACE_ON | 1 bit | 15 (DBG_STAT) | 0 -/
  trace : Bool := false
  /-- DBG_STAT.LAST_REASON | 8 bits | 15 R420 (DBG_STAT) | 0x00 -/
  lastReason : Nat := 0
  /-- DBG_STAT.REFUSED, RC, saturating | 16 bits | 15 (DBG_STAT) | 0x0000 -/
  refused : Nat := 0
  /-- the DEBUG action running | record | 15 R424 | none -/
  action : Option DbgAct := none
  /-- boundary-scan pins taken from their blocks | 1 bit | 15 R426 | 0 -/
  scan : Bool := false
  /-- TAP instruction selected | one of R426's | 15 R426 | DESIGN CHOICE BYPASS -/
  tap : TapInstr := .bypass
  deriving DecidableEq, Repr

/-! ## Reset and clocks (RCC) -/

/-- What RCC holds the main die in (R439, R440, R445). -/
inductive ResetSt where
  /-- released and running -/
  | run
  /-- a COLD or POR sequence waits for CHIP_RELEASE -/
  | cold
  /-- a WARM sequence waits for CHIP_RELEASE -/
  | warm
  deriving DecidableEq, Repr

/-- RCC state. -/
structure Rcc where
  /-- RCC_CAUSE, W1C | 13 bits | 16 R435 R438 (RCC_CAUSE) | 0x0001 at POR -/
  cause : BitVec 13 := 1
  /-- RCC_GLITCH.DOMAIN and SUB | 8 and 4 bits | 16 R438 R448 (RCC_GLITCH) | 0x00, 0x0 at POR -/
  glitchDomain : Nat := 0
  glitchSub : Nat := 0
  /-- RCC_STARTS.WARM and COLD, saturating | 16 and 16 bits | 16 (RCC_STARTS) | 0x0000 at POR -/
  warmStarts : Nat := 0
  coldStarts : Nat := 0
  /-- the reset sequence in progress | 2 bits | 16 R439 R440 | a POR sequence waiting for release -/
  hold : ResetSt := .cold
  /-- the start in progress or last made was after a POR | 1 bit | 16 R436, 17 R459 | 1 -/
  fromPor : Bool := true
  /-- the start in progress or last made was warm | 1 bit | 16 R436 | 0 -/
  fromWarm : Bool := false
  /-- the peer fence holds the COLD reset | 1 bit | 16 R435, 11 R335 | 0 -/
  fenceHold : Bool := false
  /-- a thermal trip is latched | 1 bit | 16 R447 | 0 -/
  trip : Bool := false
  /-- RESET_N has been asserted since the trip | 1 bit | 16 R447 | 0 -/
  tripReset : Bool := false
  /-- WARM sources held in P4 until step 7 of R151: their RCC_CAUSE bits | list | 16 R437, 05 R153 | none -/
  heldWarm : List Nat := []
  /-- a RCC_SWRST write acts once its answer is transmitted: 1 warm, 2 cold | 2 bits | 16 R437 | none -/
  acting : Option Nat := none
  /-- DT at which the reset began (the release's waiting time) | 64 bits | 16 R439 R445 | 0 -/
  since : Nat := 0
  /-- DT of the latest block reset | 64 bits | 16 R443 | 0 -/
  blockAt : Nat := 0
  /-- RCC_PENDING.CHIP, W1C | 1 bit | 16 R445 (RCC_PENDING) | 0 -/
  pendingChip : Bool := false
  /-- RCC_PENDING.BLOCKS | 14 bits | 16 R445 (RCC_PENDING) | 0x0000 -/
  pendingBlocks : BitVec 14 := 0
  /-- RCC_CLKGOOD_0 to RCC_CLKGOOD_2 | 72 bits | 16 R450 (RCC_CLKGOOD_w) | 0 -/
  clkGood : BitVec 72 := 0
  /-- RCC_IDLE.BLOCKS while the chip is held; computed from the blocks once it runs | 14 bits | 16 R444 (RCC_IDLE) | 0x0000 -/
  idleHeld : BitVec 14 := 0
  /-- the JTAG core-reset command holds the stack cores | 1 bit | 16 R436, 15 R422 | 0 -/
  coresHeld : Bool := false
  deriving DecidableEq, Repr

/-! ## Event recorder, self-test and health (EVR) -/

/-- EVR state. -/
structure Evr where
  /-- island sequence counter, the next record's number | 64 bits | 17 R456 | 0 -/
  seq : Nat := 0
  /-- the ring by slot; an unlisted slot is zeroed | table of 65,536 records of 32 bytes | 17 R457 R459 | every slot zeroed -/
  ring : Tbl EvRec := []
  /-- the island's mirror, newest first | at most 1,024 records | 17 R458 | empty -/
  mirror : List EvRec := []
  /-- the ring can be written (EVR is out of reset, with a trained DRAM, and not in P3) | 1 bit | 17 R458 | 0 -/
  up : Bool := false
  /-- the rate window in force: its second | 64 bits | 17 R461 | 0 -/
  winSec : Nat := 0
  /-- records of the window by block byte | 256 counts | 17 R461 | 0 -/
  winCount : Tbl Nat := []
  /-- happenings dropped in the window by block byte | 256 counts | 17 R461 | 0 -/
  winDrop : Tbl Nat := []
  /-- EVR_STAT.RATE_DROPS, RC, saturating | 16 bits | 17 R461 (EVR_STAT) | 0x0000 -/
  rateDrops : Nat := 0
  /-- EVR_STAT.INVALID, RC, saturating | 16 bits | 17 R457 (EVR_STAT) | 0x0000 -/
  invalid : Nat := 0
  /-- slots invalidated in the current window, the first of them, and the window's second | counts | 17 R457 | 0 -/
  damaged : Nat := 0
  damagedFirst : Nat := 0
  /-- EVR_ST_STAT.STATE: a self-test is running | 2 bits | 17 R468 (EVR_ST_STAT) | 0 -/
  stRunning : Bool := false
  /-- EVR_ST_STAT.KIND | 2 bits | 17 (EVR_ST_STAT) | 0 -/
  stKind : Nat := 0
  /-- EVR_ST_STAT.RESULT | 2 bits | 17 (EVR_ST_STAT) | 0 -/
  stResult : Nat := 0
  /-- EVR_ST_STAT.PROGRESS | 8 bits | 17 (EVR_ST_STAT) | 0x00 -/
  stProgress : Nat := 0
  /-- EVR_ST_STAT.FAIL_ITEM | 8 bits | 17 (EVR_ST_STAT) | 0x00 -/
  stFail : Nat := 0
  /-- EVR_ST_STAT.REFUSE | 4 bits | 17 R467 (EVR_ST_STAT) | 0x0 -/
  stRefuse : Nat := 0
  /-- the item running | 3 bits | 17 R465 | 0 -/
  stItem : Nat := 0
  /-- findings so far | 32 bits | 17 R469 | 0 -/
  stFindings : Nat := 0
  /-- DT of START | 64 bits | 17 R469 | 0 -/
  stStart : Nat := 0
  /-- progress of the last SELF_TEST notice | 8 bits | 17 R469 | 0 -/
  stSaid : Nat := 0
  /-- DT at which an extended self-test last passed | 64 bits | 17 R472 | none (never) -/
  stExtPass : Option Nat := none
  /-- EVR_HR_SEQ | 64 bits | 17 R470 (EVR_HR_SEQ) | 0 -/
  hrSeq : Nat := 0
  /-- the health report's words by offset; an unlisted word is 0 | 16 KiB | 17 R470 R472 | 0 -/
  report : Tbl Word := []
  /-- the lifetime health record on flash: its sequence, power-on hours, cold and warm starts, trips, lost grains | copies | 17 R471 | none -/
  recSeq : Nat := 0
  lifePoh : Nat := 0
  lifeCold : Nat := 0
  lifeWarm : Nat := 0
  lifeTrips : Nat := 0
  /-- HISTORY_PARTIAL | 1 bit | 17 R471 | 1 (no record has been read) -/
  partialHist : Bool := true
  /-- hottest-sensor history: hour maxima, hour sums and samples, lifetime hours by 10 degrees | 24, 32 and 12 entries | 17 R472 | 0 -/
  juncHour : List (Nat × Int × Int × Nat) := []
  juncHist : Tbl Nat := []
  /-- hourly tallies for the 24 h figures: key, hour, count | table | 17 R471 R472 | empty -/
  tallies : List (Nat × Nat × Nat) := []
  /-- lifetime maxima of module temperatures by position, 0.1 degrees | table | 17 R472 | empty -/
  tempLife : Tbl Int := []
  /-- DT at which the hottest sensor last read below 100 degrees, and the crossing of this run is reported | 64 and 1 bits | 17 R473 | 0 -/
  hotSince : Option Nat := none
  hotSaid : Bool := false
  /-- causes of HEALTH already reported: cause, what crossed it, and its threshold | list | 17 R473 | empty -/
  crossed : List (Nat × Nat × Nat) := []
  deriving DecidableEq, Repr

/-! ## The global block and the board (GLB, straps, AVS, I3C, pins) -/

/-- GLB state and the board interfaces. -/
structure Glb where
  /-- GLB_FERR registers: address, requester and access of the first fabric error held, and its count | 64, 16 and 16 bits | 01 R31 R33 | 0 -/
  ferrValid : Bool := false
  ferrAddr : Nat := 0
  ferrReq : Nat := 0
  ferrWrite : Bool := false
  ferrCount : Nat := 0
  /-- GLB_STRAP.HEAD_ID | 1 bit | 18 R481 (GLB_STRAP) | pin; DESIGN CHOICE 0 (an open strap reads 0) -/
  headB : Bool := false
  /-- GLB_STRAP.BOOT_SLOT_FORCE | 2 bits | 18 R481 (GLB_STRAP) | pin; DESIGN CHOICE 0 (an open strap reads 0) -/
  bootForce : Nat := 0
  /-- GLB_STRAP.NVM_VSEL | 1 bit | 18 R481 (GLB_STRAP) | pin; DESIGN CHOICE 0 (an open strap reads 0) -/
  nvmVsel : Bool := false
  /-- GLB_AVS.FAULT, W1C | 1 bit | 18 R487 (GLB_AVS) | 0 -/
  avsFault : Bool := false
  /-- GLB_AVS.RUN | 1 bit | 18 R487 (GLB_AVS) | 0 -/
  avsRun : Bool := false
  /-- GLB_AVS.ADDR | 2 bits | 18 (GLB_AVS) | 0 -/
  avsAddr : Nat := 0
  /-- GLB_AVS.STATUS | 8 bits | 18 (GLB_AVS) | 0x00 -/
  avsStatus : Nat := 0
  /-- GLB_AVS.VOUT_MV | 10 bits | 18 (GLB_AVS) | 0 -/
  avsMv : Nat := 0
  /-- retries made of the transaction in progress, by address index | count | 18 R487 | 0 -/
  avsRetry : Nat := 0
  /-- CSR offset set in the I3C target | 32 bits | 18 R494 | DESIGN CHOICE 0 -/
  i3cOff : Nat := 0
  /-- dynamic address given by SETDASA or ENTDAA | 7 bits | 18 R494 | none (static 0x3A or 0x3B) -/
  i3cAddr : Option Nat := none
  /-- the I3C target answers (it NACKs during a cold reset until R396 step 2) | 1 bit | 18 R494, 16 R441 | 0 -/
  i3cUp : Bool := false
  /-- ALERT_N driven low | 1 bit | 18 R495 | 0 (released) -/
  alert : Bool := false
  deriving DecidableEq, Repr

/-! ## The head -/

/-- The state of the head. -/
structure State where
  /-- commands waiting, oldest first | queue | the model's own (the row's frame) | empty -/
  pending : List Instr := []
  /-- device time DT in ns | 64 bits | 00 R10, 16 R453 | 0 -/
  dt : Nat := 0
  /-- what the head has sent outside, newest first | list | the model's own (log entry 2) | empty -/
  out : List Sent := []
  /-- counter of free values | count | the model's own (log entry 10) | DESIGN CHOICE 0 -/
  fresh : Nat := 0
  link : Link := {}
  cqe : Cqe := {}
  dsc : Dsc := {}
  wc : Wc := {}
  dge : Dge := {}
  dxu : Dxu := {}
  cpe : Cpe := {}
  ftu : Ftu := {}
  pxe : Pxe := {}
  snap : SnapCtl := {}
  ha : Ha := {}
  snw : Snw := {}
  gov : Gov := {}
  mcu : Mcu := {}
  slc : Slc := {}
  rot : Rot := {}
  nvi : Nvi := {}
  xts : Xts := {}
  cfg : Cfg := {}
  pmu : Pmu := {}
  dbg : Dbg := {}
  rcc : Rcc := {}
  evr : Evr := {}
  glb : Glb := {}
  deriving DecidableEq, Repr

/-- The machine right after power-on reset: the island has started, RCC_CAUSE reads POR, and the main die waits for its
release (R435, R439). Every other field is at the reset value its docstring gives. -/
def State.reset : State := {}

/-- Reasons a command stops the block. No command of this hardware does: the type is empty of use and kept closed. -/
inductive Fault where
  /-- Nobody raises it: every command of the table has an effect the spec gives. Safe. -/
  | unreachable
  deriving DecidableEq, Repr

/-- Reasons a command is not carried out. -/
inductive Refusal where
  /-- Raised by Machine/Dispatch.lean for a command that has no meaning yet. Safe: nothing can be proved of it. -/
  | notModelled (mnemonic : String)
  deriving DecidableEq, Repr

end Sys2Proof.Machine
end

