-- ==== Sys2Proof/Machine/Ops.lean ====
section
/-! DEFINITION. The named operations every command shares: tables, time, free values, events (R455 to R461), the transmit
side of a port (R44 to R51), notices (R96, R97), violations (R63), and the judging and answering of VC3 requests (R499). -/

namespace Sys2Proof.Machine

open Sys2Proof

/-! ## Tables -/

/-- The entry of a key. -/
def tget {α : Type} : Tbl α → Nat → Option α
  | [], _ => none
  | (k, v) :: t, n => if k = n then some v else tget t n

/-- Set a key's entry; a table built by `tput` keeps its keys rising. -/
def tput {α : Type} : Tbl α → Nat → α → Tbl α
  | [], n, v => [(n, v)]
  | (k, w) :: t, n, v => if n < k then (n, v) :: (k, w) :: t else if n = k then (n, v) :: t else (k, w) :: tput t n v

/-- Remove a key. -/
def tdel {α : Type} (t : Tbl α) (n : Nat) : Tbl α := t.filter fun p => p.1 != n

/-- Change a key's entry where there is one. -/
def tmod {α : Type} (t : Tbl α) (n : Nat) (f : α → α) : Tbl α :=
  match tget t n with
  | none => t
  | some v => tput t n (f v)

/-- The entry of a key, or the default. -/
def tgetD {α : Type} (t : Tbl α) (n : Nat) (d : α) : α := (tget t n).getD d

/-- Change the i-th entry of a list. -/
def lmod {α : Type} : List α → Nat → (α → α) → List α
  | [], _, _ => []
  | x :: xs, 0, f => f x :: xs
  | x :: xs, n + 1, f => x :: lmod xs n f

/-! ## Setters: one field of the state at a time -/

def State.modLink (s : State) (f : Link → Link) : State := { s with link := f s.link }
def State.modCqe (s : State) (f : Cqe → Cqe) : State := { s with cqe := f s.cqe }
def State.modDsc (s : State) (f : Dsc → Dsc) : State := { s with dsc := f s.dsc }
def State.modWc (s : State) (f : Wc → Wc) : State := { s with wc := f s.wc }
def State.modDge (s : State) (f : Dge → Dge) : State := { s with dge := f s.dge }
def State.modDxu (s : State) (f : Dxu → Dxu) : State := { s with dxu := f s.dxu }
def State.modCpe (s : State) (f : Cpe → Cpe) : State := { s with cpe := f s.cpe }
def State.modFtu (s : State) (f : Ftu → Ftu) : State := { s with ftu := f s.ftu }
def State.modPxe (s : State) (f : Pxe → Pxe) : State := { s with pxe := f s.pxe }
def State.modSnap (s : State) (f : SnapCtl → SnapCtl) : State := { s with snap := f s.snap }
def State.modHa (s : State) (f : Ha → Ha) : State := { s with ha := f s.ha }
def State.modSnw (s : State) (f : Snw → Snw) : State := { s with snw := f s.snw }
def State.modGov (s : State) (f : Gov → Gov) : State := { s with gov := f s.gov }
def State.modMcu (s : State) (f : Mcu → Mcu) : State := { s with mcu := f s.mcu }
def State.modSlc (s : State) (f : Slc → Slc) : State := { s with slc := f s.slc }
def State.modRot (s : State) (f : Rot → Rot) : State := { s with rot := f s.rot }
def State.modNvi (s : State) (f : Nvi → Nvi) : State := { s with nvi := f s.nvi }
def State.modXts (s : State) (f : Xts → Xts) : State := { s with xts := f s.xts }
def State.modCfg (s : State) (f : Cfg → Cfg) : State := { s with cfg := f s.cfg }
def State.modPmu (s : State) (f : Pmu → Pmu) : State := { s with pmu := f s.pmu }
def State.modDbg (s : State) (f : Dbg → Dbg) : State := { s with dbg := f s.dbg }
def State.modRcc (s : State) (f : Rcc → Rcc) : State := { s with rcc := f s.rcc }
def State.modEvr (s : State) (f : Evr → Evr) : State := { s with evr := f s.evr }
def State.modGlb (s : State) (f : Glb → Glb) : State := { s with glb := f s.glb }
def State.setDt (s : State) (t : Nat) : State := { s with dt := t }
def State.setFresh (s : State) (n : Nat) : State := { s with fresh := n }

/-- Something leaves the head. -/
def State.emit (s : State) (x : Sent) : State := { s with out := x :: s.out }

/-! ## Time -/

def usNs (us : Nat) : Nat := us * 1000
def msNs (ms : Nat) : Nat := ms * 1000000
def secNs (sec : Nat) : Nat := sec * 1000000000

/-- A timer command is the clock reaching the timer's moment: DT is at least `t` from here on (log entry 6). -/
def State.advanceTo (s : State) (t : Nat) : State := s.setDt (max s.dt t)

/-- The 1 s window of R13 in which the moment lies. -/
def secOf (t : Nat) : Nat := t / 1000000000

/-! ## Free values -/

/-- Take one free value of `w` bits (log entry 10). -/
def State.freeNat (s : State) (w : Nat) : Nat := (Config.freeValue w s.fresh).toNat

/-- The counter after a free value has been taken. -/
def State.freshen (s : State) : State := s.setFresh (s.fresh + 1)

/-! ## Events -/

/-- Bits [31:0] and [63:32] of a number. -/
def lo32 (n : Nat) : Nat := n % 2 ^ 32
def hi32 (n : Nat) : Nat := n / 2 ^ 32 % 2 ^ 32

/-- Put a record under the next sequence number: the mirror always, the ring while EVR runs (R456, R458). -/
def Evr.put (e : Evr) (r : EvRec) : Evr :=
  let r := { r with seq := e.seq }
  { e with
    seq := e.seq + 1
    mirror := (r :: e.mirror).take 1024
    ring := if e.up then tput e.ring (e.seq % 65536) r else e.ring }

/-- Count a record of its block byte in the window (R461). -/
def Evr.count (e : Evr) (b : Nat) : Evr := { e with winCount := tput e.winCount b (tgetD e.winCount b 0 + 1) }

def mkRec (dt : Nat) (code : BitVec 16) (inst : Nat) (p0 p1 p2 p3 : Nat) : EvRec :=
  { dt := dt, code := code, inst := inst, repeats := 0, seq := 0, p0 := lo32 p0, p1 := lo32 p1, p2 := lo32 p2, p3 := lo32 p3 }

/-- The first clock of a new window: one 0x0402 for each block that dropped records, one 0x0403 for damaged slots, and
the counts restart (R457, R461). -/
def Evr.roll (e : Evr) (dt : Nat) : Evr :=
  if e.winSec = secOf dt then e
  else
    let old := e.winSec
    let drops := e.winDrop
    let hurt := e.damaged
    let first := e.damagedFirst
    let e := { e with winSec := secOf dt, winCount := [], winDrop := [], damaged := 0 }
    let e := drops.foldl (fun e p => (e.count 4).put (mkRec (secNs (secOf dt)) 0x0402 0 p.1 p.2 old 0)) e
    if hurt = 0 then e else (e.count 4).put (mkRec (secNs (secOf dt)) 0x0403 0 hurt first 0 0)

/-- The newest record holds the same happening within one second (R460). -/
def sameHappening (r : EvRec) (dt : Nat) (code : BitVec 16) (inst p0 p1 p2 p3 : Nat) : Bool :=
  r.code == code && r.inst == inst && r.p0 == lo32 p0 && r.p1 == lo32 p1 && r.p2 == lo32 p2 && r.p3 == lo32 p3 &&
  r.dt ≤ dt && dt < r.dt + 1000000000

/-- One more repeat of the newest record. -/
def Evr.repeatNewest (e : Evr) : Evr :=
  match e.mirror with
  | [] => e
  | r :: rs =>
    let r := { r with repeats := min 65535 (r.repeats + 1) }
    { e with mirror := r :: rs, ring := tput e.ring (r.seq % 65536) r }

/-- A happening reaches EVR (R456 to R461). While EVR cannot write the ring, the record goes to the island's mirror. -/
def Evr.happen (e : Evr) (dt : Nat) (code : BitVec 16) (inst p0 p1 p2 p3 : Nat) : Evr :=
  if !e.up then (e.count (code.toNat / 256)).put (mkRec dt code inst p0 p1 p2 p3)
  else
    let e := e.roll dt
    let b := code.toNat / 256
    if (match e.mirror with | r :: _ => sameHappening r dt code inst p0 p1 p2 p3 | [] => false) then e.repeatNewest
    else if tgetD e.winCount b 0 < 4096 ∨ code = 0x1404 ∨ code = 0x0402 then
      (e.count b).put (mkRec dt code inst p0 p1 p2 p3)
    else { e with rateDrops := sat 16 (e.rateDrops + 1), winDrop := tput e.winDrop b (tgetD e.winDrop b 0 + 1) }

/-- Record an event: code, instance and four parameters. -/
def State.event (s : State) (code : BitVec 16) (inst p0 p1 p2 p3 : Nat) : State :=
  s.modEvr fun e => e.happen s.dt code inst p0 p1 p2 p3

/-- A tally for the 24 h figures of the health report (R472): key and hour. -/
def State.tally (s : State) (key : Nat) : State :=
  s.modEvr fun e =>
    let h := s.dt / 3600000000000
    let keep := e.tallies.filter fun t => t.2.1 + 24 > h
    { e with tallies :=
        match keep.find? (fun t => t.1 == key && t.2.1 == h) with
        | some t => (key, h, t.2.2 + 1) :: keep.filter fun u => !(u.1 == key && u.2.1 == h)
        | none => (key, h, 1) :: keep }

/-- The 24 h figure of a key. -/
def Evr.tallied (e : Evr) (key : Nat) : Nat := (e.tallies.filter (fun t => t.1 == key)).foldl (fun n t => n + t.2.2) 0

/-! ## Ports and lanes -/

def portNum : PortId → Nat
  | .host p => p.val
  | .peer => 16
  | .media m => 17 + m.val

def hostPort (p : Nat) : PortId := .host (Fin.ofNat 16 p)
def mediaPort (m : Nat) : PortId := .media (Fin.ofNat 96 m)

/-- Lanes of a host port by its quad's split (R35). -/
def splitLanes (sp : Split) (second : Bool) : List Nat :=
  match sp, second with
  | .x4, false => [0, 1, 2, 3]
  | .x2x2, false | .x2x1, false | .x2, false => [0, 1]
  | .x2x2, true => [2, 3]
  | .x2x1, true | .x1x1, true => [2]
  | .x1x1, false | .x1, false => [0]
  | _, _ => []

/-- Lanes of a port (R34 to R37). -/
def Link.portLanes (l : Link) (p : PortId) : List Nat :=
  match p with
  | .host h => (splitLanes (l.splits.getD (h.val / 2) .off) (h.val % 2 == 1)).map (· + 4 * (h.val / 2))
  | .peer => (List.range 16).map (· + 128)
  | .media m => [l.mediaMap.getD m.val (32 + m.val)]

def Link.lane (l : Link) (n : Nat) : Lane := tgetD l.lanes n {}
def Link.port (l : Link) (p : PortId) : Port := tgetD l.ports (portNum p) {}

/-- The module position a media lane serves. -/
def Link.posOf (l : Link) (n : Nat) : Nat :=
  ((List.range 96).find? fun m => l.mediaMap.getD m (32 + m) == n).getD (n - 32)

/-- The port a lane belongs to, if the lane map gives it one. -/
def Link.laneOwner (l : Link) (n : Nat) : Option PortId :=
  if n < 32 then
    [2 * (n / 4), 2 * (n / 4) + 1].findSome? fun h =>
      if (l.portLanes (hostPort h)).contains n then some (hostPort h) else none
  else if n < 128 then some (mediaPort (l.posOf n))
  else some .peer

def Link.activeLanes (l : Link) (p : PortId) : Nat :=
  ((l.portLanes p).filter fun n => (l.lane n).st == .active).length

def State.portUp (s : State) (p : PortId) : Bool := s.link.activeLanes p != 0

def State.modPort (s : State) (p : PortId) (f : Port → Port) : State :=
  s.modLink fun l => { l with ports := tput l.ports (portNum p) (f (l.port p)) }

def State.modLane (s : State) (n : Nat) (f : Lane → Lane) : State :=
  s.modLink fun l => { l with lanes := tput l.lanes n (f (l.lane n)) }

/-- Payload capacity P of a MSG flit on a port (R42). -/
def Link.payload (l : Link) (p : PortId) : Nat := if (l.port p).keyed then 224 else 240

/-! ## Transmitting -/

/-- The MSG flits a message takes at payload capacity `cap` (R42, R43, R317). -/
def flitsOf (cap : Nat) : Sent → Nat
  | .completions _ es => ceilDiv es.length 7
  | .readData _ _ _ bs => ceilDiv bs.length cap
  | .answer _ _ _ _ _ body => ceilDiv (16 + 2 + body.length + 16) cap
  | .notice _ _ _ _ _ _ body => ceilDiv (16 + 24 + body.length + 16) cap
  | .fwdData _ _ bs => ceilDiv bs.length cap
  | .mirrorCopy _ _ d => ceilDiv (16 + 32 + d.flatten.length) cap
  | .media _ _ _ _ _ _ _ body => ceilDiv (16 + body.length) cap
  | .peerMediaAnswer _ _ d => ceilDiv (16 + d.length) cap
  | _ => 1

/-- Room of a port for flits of a VC: credit (R44) and replay buffer (R48), none without an ACTIVE lane. -/
def State.room (s : State) (p : PortId) (vc : Nat) : Nat :=
  let q := s.link.port p
  if !s.portUp p ∨ q.retrain.isSome then 0
  else min ((q.granted.getD vc 0 + 65536 - q.sent.getD vc 0 % 65536) % 65536) (511 - q.unacked.length)

/-- Send flits of one message, `k` of them. -/
def sendFlits (q : Port) (vc : Nat) (it : TxItem) : Nat → Port
  | 0 => q
  | k + 1 =>
    sendFlits { q with
      unacked := q.unacked ++ [(q.txSeq, it)]
      txSeq := (q.txSeq + 1) % 1024
      keyTx := q.keyTx + 1
      sent := lmod q.sent vc fun n => (n + 1) % 65536 } vc it k

/-- Try to send a queued message: what is left of it, if anything, and the state. -/
def State.sendItem (s : State) (p : PortId) (it : TxItem) : Option TxItem × State :=
  let k := min it.flits (s.room p it.vc)
  let s := if k = 0 then s else s.modPort p fun q => sendFlits q it.vc it k
  if k = it.flits then (none, s.emit it.item) else (some { it with flits := it.flits - k }, s)

/-- Send what credit and room allow, oldest first; a blocked VC keeps its order (R44, R51). -/
def State.pumpList (s : State) (p : PortId) (blocked : List Nat) (kept : List TxItem) : List TxItem → List TxItem × State
  | [] => (kept.reverse, s)
  | it :: rest =>
    if blocked.contains it.vc then s.pumpList p blocked (it :: kept) rest
    else
      match s.sendItem p it with
      | (none, s') => s'.pumpList p blocked kept rest
      | (some it', s') => s'.pumpList p (it.vc :: blocked) (it' :: kept) rest

def State.pump (s : State) (p : PortId) : State :=
  let r := s.pumpList p [] [] (s.link.port p).txq
  r.2.modPort p fun q => { q with txq := r.1 }

/-- Give a message to a port's transmitter. -/
def State.transmit (s : State) (p : PortId) (vc : Nat) (x : Sent) : State :=
  (s.modPort p fun q => { q with txq := q.txq ++ [⟨vc, flitsOf (s.link.payload p) x, x⟩] }).pump p

/-- A VC4 record to the peer (R317). -/
def State.toPeer (s : State) (x : Sent) : State := s.transmit .peer 4 x

/-! ## The configuration in force -/

def Cfg.find (c : Cfg) (typ key : Nat) : Option CfgBody :=
  (c.recs.find? fun r => r.typ == typ && r.key == key).bind (·.body)

def Cfg.volume (c : Cfg) (v : Nat) : Option VolumeRec :=
  match c.find 0x15 v with | some (.volume r) => some r | _ => none

def Cfg.volumesWhere (c : Cfg) (f : VolumeRec → Bool) : List Nat :=
  c.recs.filterMap fun r => match r.body with | some (.volume v) => if f v then some r.key else none | _ => none

/-- The pool of a module position, its declaration. -/
def Cfg.poolOf (c : Cfg) (pos : Nat) : Option Nat :=
  c.recs.findSome? fun r => match r.body with
    | some (.pool _ _ _ ms _ _) => if ms.contains pos then some r.key else none | _ => none

/-- The modules of a pool, as declared. -/
def Cfg.poolModules (c : Cfg) (pool : Nat) : List Nat :=
  match c.find 0x12 pool with | some (.pool _ _ _ ms _ _) => ms | _ => []

def Cfg.pools (c : Cfg) : List Nat := c.recs.filterMap fun r => if r.typ == 0x12 then some r.key else none

def Cfg.moduleDeclared (c : Cfg) (pos : Nat) : Bool := c.recs.any fun r => r.typ == 0x11 && r.key == pos

def Cfg.modules (c : Cfg) : List Nat := c.recs.filterMap fun r => if r.typ == 0x11 then some r.key else none

/-- A session's anchor is granted a volume (R68). -/
def State.granted (s : State) (anchor v : Nat) : Bool :=
  match s.cfg.volume v with | some r => r.grants.getLsbD anchor | none => false

/-! ## Notices -/

/-- Generate a notice for a session (R96, R97). -/
def Session.notify (x : Session) (dt epoch ntype : Nat) (body : Bytes) : Session :=
  if x.closing.isSome ∨ (ntype ≠ 0 ∧ !x.mask.getLsbD ntype) then x
  else
    let x' := { x with nseq := x.nseq + 1 }
    if x.notices.length ≥ 256 then
      { x' with dropped := x.dropped + 1, firstDropped := if x.dropped = 0 then x.nseq else x.firstDropped }
    else { x' with notices := x.notices ++ [⟨ntype, x.nseq, dt, epoch, body⟩] }

/-- A notice to every session that has it enabled and meets a condition. -/
def State.notifyWhere (s : State) (p : Session → Bool) (ntype : Nat) (body : Bytes) : State :=
  s.modCqe fun c => { c with sessions := c.sessions.map fun (n, x) =>
    (n, if p x then x.notify s.dt s.cfg.epoch ntype body else x) }

def State.notifyAll (s : State) (ntype : Nat) (body : Bytes) : State := s.notifyWhere (fun _ => true) ntype body

/-- To the sessions whose anchor is granted a volume meeting a condition. -/
def State.notifyGranted (s : State) (f : Nat → VolumeRec → Bool) (ntype : Nat) (body : Bytes) : State :=
  s.notifyWhere (fun x => s.cfg.recs.any fun r => match r.body with
    | some (.volume v) => f r.key v && v.grants.getLsbD x.anchor | _ => false) ntype body

def State.notifyPool (s : State) (pool ntype : Nat) (body : Bytes) : State :=
  s.notifyGranted (fun _ v => v.pool == pool) ntype body

/-! ## Violations -/

/-- A violation against a session (R63, R99): counted unless it is quarantined. -/
def Session.violate (x : Session) (dt code : Nat) : Session :=
  if x.quarantined then x
  else if x.violWin = secOf dt then { x with violCount := x.violCount + 1, lastViol := code }
  else { x with violWin := secOf dt, violCount := 1, lastViol := code, warned := false }

def State.modSession (s : State) (n : Nat) (f : Session → Session) : State :=
  s.modCqe fun c => { c with sessions := tmod c.sessions n f }

/-- A command-level violation (R98): its event, the session's count and CQE_VIOL. -/
def State.sessionViolation (s : State) (code : BitVec 16) (sess qp cid word : Nat) : State :=
  ((s.event code sess sess qp cid word).modSession sess fun x => x.violate s.dt code.toNat).modCqe fun c =>
    { c with violations := sat 16 (c.violations + 1) }

/-- A violation against a port or module link (R63, R65): counted in its 1 s window. -/
def Port.violate (q : Port) (dt : Nat) : Port :=
  if q.violWin = secOf dt then { q with violCount := q.violCount + 1 } else { q with violWin := secOf dt, violCount := 1 }

def State.portViolation (s : State) (p : PortId) (code : BitVec 16) (p1 p2 p3 : Nat) : State :=
  let inst := match p with | .host h => h.val | .peer => 0 | .media m => m.val
  let s := (s.event code inst (match p with | .peer => 0xFFFF | _ => inst) p1 p2 p3).modPort p fun q => q.violate s.dt
  match p with | .media m => s.tally (0x400 + m.val) | _ => s

/-- A violation of a host port whose command carries no flit header: the header word of its event is a free value (log entry 10). -/
def State.hostViolation (s : State) (h : Fin 16) (code : BitVec 16) (qp sess : Nat) : State :=
  (s.portViolation (.host h) code qp sess (s.freeNat 32)).freshen

/-! ## VC3 requests -/

/-- Statuses (R14, R73, R75, R76). -/
def stSuccess : Nat := 0x0000
def stInvalidOpcode : Nat := 0x0001
def stInvalidField : Nat := 0x0002
def stLbaRange : Nat := 0x0003
def stAbortedRequest : Nat := 0x0004
def stAbortedSession : Nat := 0x0005
def stVolumeNotReady : Nat := 0x0006
def stInternal : Nat := 0x0007
def stResourceLimit : Nat := 0x0008
def stDataLost : Nat := 0x0201
def stCheckMismatch : Nat := 0x0202
def stCompareFailed : Nat := 0x0203
def stDecodeError : Nat := 0x0204
def stRefused : Nat := 0x0301
def stLength : Nat := 0x0401
def stMalformed : Nat := 0x0402
def stCidInUse : Nat := 0x0403
def stQuarantined : Nat := 0x0404
def stRingOverrun : Nat := 0x0405
def stQpClosing : Nat := 0x0406
def stLease : Nat := 0x0501
def stAccess : Nat := 0x0502
def stWriteProtected : Nat := 0x0503
def stCapacity : Nat := 0x0601
def stQuota : Nat := 0x0602

/-- Answer a VC3 request: type plus 0x8000, the request identifier, a 16-bit status, the body (R70). The request is no
longer pending. -/
def State.answerTo (s : State) (port sess reqId typ status : Nat) (body : Bytes) : State :=
  (s.modSession sess fun x => { x with pendingReq := x.pendingReq.filter (· != reqId) }).transmit (hostPort port) 3
    (.answer port sess (typ + 0x8000) reqId status body)

def State.answer (s : State) (m : Vc3) (typ status : Nat) (body : Bytes) : State :=
  s.answerTo m.port.val m.sess.toNat m.reqId.toNat typ status body

/-- A request whose answer comes later keeps its identifier pending (R98). -/
def State.holdAnswer (s : State) (m : Vc3) : State :=
  s.modSession m.sess.toNat fun x => { x with pendingReq := m.reqId.toNat :: x.pendingReq }

/-- The session a VC3 message names, when it is open on the message's port. -/
def State.sessionOf (s : State) (m : Vc3) : Option Session :=
  match tget s.cqe.sessions m.sess.toNat with
  | some x => if x.port = m.port.val ∧ x.closing.isNone then some x else none
  | none => none

/-- What R499 decides of a request before its own checks: discard, refuse with a status, or judge its body. -/
inductive Verdict where
  | discard
  | refuse (status : Nat) (violation : Bool)
  | accept
  deriving DecidableEq, Repr

/-- Steps 1 to 7 of R499. `free`: the type passes step 4 in quarantine; `ours`: an adapter may send it. -/
def verdict (x : Session) (m : Vc3) (free ours : Bool) (priv : Nat) : Verdict :=
  if !m.lenMacOk then .refuse stMalformed true
  else if m.rsvWord ≠ 0 then .refuse stMalformed true
  else if x.pendingReq.contains m.reqId.toNat then .refuse stMalformed true
  else if x.quarantined ∧ !free then .refuse stQuarantined false
  else if !ours then .refuse stInvalidOpcode false
  else if x.privilege < priv then .refuse stAccess false
  else if !m.bodyOk then .refuse stMalformed true
  else .accept

/-- The body an answer carries after the status when R499 refuses the request: RESULT 0xFF for the configuration messages
(R404), a REASON of 0 for those of R418 (log entry 63), nothing otherwise. -/
def refusalBody (typ : Nat) : Bytes := if 0x60 ≤ typ ∧ typ ≤ 0x65 then [0xFF] else if 0x88 ≤ typ ∧ typ ≤ 0x8C then [0] else []

/-- In lifecycle END the head answers CERT_READ, ATTEST and PM_STATUS only (R415); KEEPALIVE has no answer. -/
def endServes (typ : Nat) : Bool := typ == 0x80 || typ == 0x81 || typ == 0x8C || typ == 0x12

/-- Judge a VC3 request (R499) and carry it out where it is accepted. -/
def State.vc3 (s : State) (m : Vc3) (typ : Nat) (free ours : Bool) (priv : Nat) (act : Session → State → State) : State :=
  match s.sessionOf m with
  | none => s.hostViolation m.port 0x0909 0xFFFF m.sess.toNat
  | some x =>
    let s := s.modSession m.sess.toNat fun x => { x with lastAt := s.dt }
    if s.rot.lifecycle = .ended ∧ !endServes typ then s
    else match verdict x m free ours priv with
    | .discard => s
    | .refuse st viol =>
      let s := if viol then
          if !m.lenMacOk then ((s.event 0x0909 m.port.val m.port.val 0xFFFF m.sess.toNat (s.freeNat 32)).freshen).modSession
            m.sess.toNat fun x => x.violate s.dt 0x0909
          else s.sessionViolation 0x0C15 m.sess.toNat 0xFFFF 0 typ
        else s
      s.answer m typ st (refusalBody typ)
    | .accept => act x s

/-- A register message for which the session lacks a register's privilege (R71 check 3, R499 step 6): event
0x0C20. -/
def State.registerDenied (s : State) (m : Vc3) (typ off : Nat) : State :=
  (s.event 0x0C20 m.sess.toNat m.sess.toNat 0xFFFF (off % 65536) 2).answer m typ stAccess []

/-- A CSR_WRITE of one register (R71): its privilege is judged per register, after the steps of R499. -/
def State.regWrite (s : State) (m : Vc3) (off priv : Nat) (act : State → State) : State :=
  s.vc3 m 0x31 false true 1 fun x s => if x.privilege < priv then s.registerDenied m 0x31 off else (act s).answer m 0x31 stSuccess []

/-- Two's-complement value of a 32-bit word. -/
def wordInt (w : Word) : Int := w.toInt

end Sys2Proof.Machine
end

