-- ==== Sys2Proof/Machine/Galois.lean ====
section
/-! DEFINITION. Chapter 09, arithmetic: GF(2^8) of R261, P and Q and their recovery (R262, R264), and the declustering table
with its cells (R267, R268). -/

namespace Sys2Proof.Machine

open Sys2Proof

/-- Multiply a byte by g = 2 (R261). -/
def gDouble (a : Byte) : Byte := if a.getLsbD 7 then (a <<< 1) ^^^ 0x1D else a <<< 1

/-- Product in the field of R261. -/
def gMul : Nat → Byte → Byte → Byte
  | 0, _, _ => 0
  | n + 1, a, b => (if b.getLsbD 0 then a else 0) ^^^ gMul n (gDouble a) (b >>> 1)

def gmul (a b : Byte) : Byte := gMul 8 a b

/-- g^j (R262). -/
def gPow : Nat → Byte
  | 0 => 1
  | j + 1 => gDouble (gPow j)

/-- g^(-j): g has order 255. -/
def gNeg (j : Nat) : Byte := gPow ((255 - j % 255) % 255)

/-- The inverse of a non-zero byte: its 254th power. -/
def gInv (a : Byte) : Byte := (List.range 253).foldl (fun x _ => gmul x a) a

def xorBytes (a b : Bytes) : Bytes :=
  List.zipWith (· ^^^ ·) (a ++ List.replicate (b.length - a.length) 0) (b ++ List.replicate (a.length - b.length) 0)

def scaleBytes (c : Byte) (a : Bytes) : Bytes := a.map (gmul c)

/-- P over the data members given as index and bytes (R262). -/
def parityP (ds : List (Nat × Bytes)) : Bytes := ds.foldl (fun p d => xorBytes p d.2) []

/-- Q over the data members (R262). -/
def parityQ (ds : List (Nat × Bytes)) : Bytes := ds.foldl (fun q d => xorBytes q (scaleBytes (gPow d.1) d.2)) []

/-- Recover data member `x` of a stripe of k data members from the members read (R264): members k and k + 1 are P and Q. -/
def recover (k x : Nat) (got : List (Nat × Bytes)) : Option Bytes :=
  let ds := got.filter fun d => d.1 < k
  let pp := (got.find? fun d => d.1 == k).map fun p => xorBytes p.2 (parityP ds)
  let qq := (got.find? fun d => d.1 == k + 1).map fun q => xorBytes q.2 (parityQ ds)
  let gone := (List.range k).filter fun i => !ds.any fun d => d.1 == i
  match gone, pp, qq with
  | [a], some p, _ => if a = x then some p else none
  | [a], none, some q => if a = x then some (scaleBytes (gNeg x) q) else none
  | [a, b], some p, some q =>
    let lo := min a b
    let hi := max a b
    let c := gInv (gPow (hi - lo) ^^^ 1)
    let dlo := scaleBytes c (xorBytes (scaleBytes (gPow (hi - lo)) p) (scaleBytes (gNeg lo) q))
    if x = lo then some dlo else if x = hi then some (xorBytes p dlo) else none
  | _, _, _ => none

/-- Any member from the members read: data by `recover`, P and Q recomputed once every data member is known. -/
def recoverMember (k m : Nat) (got : List (Nat × Bytes)) : Option Bytes :=
  match got.find? fun d => d.1 == m with
  | some d => some d.2
  | none =>
    if m < k then recover k m got
    else
      let all := (List.range k).filterMap fun i =>
        match got.find? fun d => d.1 == i with
        | some d => some d
        | none => (recover k i got).map fun b => (i, b)
      if all.length < k then none
      else some (if m = k then parityP all else parityQ all)

/-! ## The declustering table (R267) -/

/-- mix(r, i) of R267 (64-bit arithmetic). -/
def declMix (seed : BitVec 64) (lgen r i : Nat) : Nat :=
  let v : BitVec 64 := seed + 0x9E3779B97F4A7C15 * BitVec.ofNat 64 (lgen * 2 ^ 17 + r * 128 + i + 1)
  let v := (v ^^^ (v >>> 30)) * 0xBF58476D1CE4E5B9
  let v := (v ^^^ (v >>> 27)) * 0x94D049BB133111EB
  (v ^^^ (v >>> 31)).toNat

def lswap (xs : List Nat) (i j : Nat) : List Nat :=
  let a := xs.getD i 0
  let b := xs.getD j 0
  (xs.set i b).set j a

/-- row(r): i from M_g - 1 down to 1. -/
def declShuffle (seed : BitVec 64) (lgen r : Nat) : Nat → List Nat → List Nat
  | 0, p => p
  | i + 1, p => declShuffle seed lgen r i (lswap p (i + 1) (declMix seed lgen r (i + 1) % (i + 2)))

def declRow (seed : BitVec 64) (lgen m r : Nat) : List Nat := declShuffle seed lgen r (m - 1) (List.range m)

/-- CRC-32C over the 1,024 rows as module positions (R267, PXE_POOL_p_TCRC). -/
def tableCrc (seed : BitVec 64) (lgen : Nat) (modules : List Nat) : Word :=
  crc32c ((List.range 1024).flatMap fun r => (declRow seed lgen modules.length r).map fun x => BitVec.ofNat 8 (modules.getD x 0))

/-- Lines in a band, and stripes in a band (R268). -/
def bandLines (w m : Nat) : Nat := w / Nat.gcd w m
def bandStripes (w m : Nat) : Nat := m / Nat.gcd w m

/-- The stripe and member of the cell on module index `x`, line `l` (R268). -/
def cellOf (l : Layout) (lgen : Nat) (modules : List Nat) (seq line x : Nat) : Nat × Nat :=
  let w := l.k + 2
  let m := modules.length
  let b := max 1 (bandLines w m)
  let band := line / b
  let row := declRow l.seed lgen m ((seq + band) % 1024)
  let p := line % b * m + row.findIdx (· == x)
  (band * bandStripes w m + p / w, p % w)

/-- The module position and the line of a member of a stripe (R268). -/
def memberCell (l : Layout) (lgen : Nat) (modules : List Nat) (seq stripe member : Nat) : Nat × Nat :=
  let w := l.k + 2
  let m := max 1 modules.length
  let b := max 1 (bandLines w m)
  let bs := max 1 (bandStripes w m)
  let band := stripe / bs
  let p := stripe % bs * w + member
  let row := declRow l.seed lgen m ((seq + band) % 1024)
  (modules.getD (row.getD (p % m) 0) 0, band * b + p / m)

/-- Stripes of a segment: whole bands, and those of the tail band that fit (R269). -/
def segStripes (k m pBlk : Nat) : Nat :=
  let w := k + 2
  let b := max 1 (bandLines w m)
  let lines := 15 * pBlk
  lines / b * bandStripes w m + lines % b * m / w

end Sys2Proof.Machine
end

