-- ==== Sys2Proof/Machine/Aes.lean ====
section
/-! DEFINITION. AES-256-XTS as R408 applies it (IEEE 1619, no ciphertext stealing). The round function is FIPS 197's; the
S-box is computed from the field inverse of polynomial 0x11B and the affine map. -/

namespace Sys2Proof.Machine

open Sys2Proof

/-- Multiply by x in the field of AES (0x11B). -/
def aesDouble (a : Byte) : Byte := if a.getLsbD 7 then (a <<< 1) ^^^ 0x1B else a <<< 1

def aesMul : Nat → Byte → Byte → Byte
  | 0, _, _ => 0
  | n + 1, a, b => (if b.getLsbD 0 then a else 0) ^^^ aesMul n (aesDouble a) (b >>> 1)

/-- The inverse: the 254th power; 0 for 0. -/
def aesInv (a : Byte) : Byte := (List.range 253).foldl (fun x _ => aesMul 8 x a) a

def rotl8 (a : Byte) (n : Nat) : Byte := (a <<< n) ||| (a >>> (8 - n))

def aesSubOne (a : Byte) : Byte :=
  let b := aesInv a
  b ^^^ rotl8 b 1 ^^^ rotl8 b 2 ^^^ rotl8 b 3 ^^^ rotl8 b 4 ^^^ 0x63

/-- The S-box and its inverse as tables. -/
def aesSbox : List Byte := (List.range 256).map fun n => aesSubOne (BitVec.ofNat 8 n)
def aesSboxInv : List Byte := (List.range 256).map fun n => BitVec.ofNat 8 (aesSbox.findIdx (· == BitVec.ofNat 8 n))

def aesSub (t : Array Byte) (a : Byte) : Byte := t.getD a.toNat 0

def aesRcon : Nat → Byte
  | 0 => 1
  | n + 1 => aesDouble (aesRcon n)

/-- The expanded key of AES-256: 60 words of 4 bytes, newest first while it grows. -/
def aesExpand (t : Array Byte) : Nat → Nat → List Bytes → List Bytes
  | 0, _, ws => ws
  | n + 1, i, ws =>
    let prev := ws.headD []
    let old := ws.getD 7 []
    let mixed :=
      if i % 8 = 0 then
        let r := (prev.drop 1 ++ prev.take 1).map (aesSub t)
        xorBytes r [aesRcon (i / 8 - 1), 0, 0, 0]
      else if i % 8 = 4 then prev.map (aesSub t)
      else prev
    aesExpand t n (i + 1) (xorBytes old mixed :: ws)

/-- The fifteen round keys of a 32-byte key. -/
def aesRoundKeys (t : Array Byte) (key : Bytes) : List Bytes :=
  let ws := ((List.range 8).map fun i => (key.drop (4 * i)).take 4).reverse
  let all := (aesExpand t 52 8 ws).reverse
  (List.range 15).map fun r => ((all.drop (4 * r)).take 4).flatten

/-- ShiftRows on the column-major state: row r moves left by r. -/
def aesShift (b : Bytes) : Bytes := (List.range 16).map fun i => b.getD ((i + 4 * (i % 4)) % 16) 0
def aesShiftInv (b : Bytes) : Bytes := (List.range 16).map fun i => b.getD ((i + 16 - 4 * (i % 4)) % 16) 0

/-- MixColumns with a given first row of coefficients. -/
def aesMix (c : Bytes) (b : Bytes) : Bytes :=
  (List.range 16).map fun i =>
    (List.range 4).foldl (fun x j => x ^^^ aesMul 8 (b.getD (4 * (i / 4) + j) 0) (c.getD ((j + 4 - i % 4) % 4) 0)) 0

/-- Encrypt one block under the round keys. -/
def aesEncBlock (t : Array Byte) (rks : List Bytes) (b : Bytes) : Bytes :=
  let b := xorBytes b (rks.headD [])
  let b := ((rks.drop 1).take 13).foldl (fun b rk => xorBytes (aesMix [2, 3, 1, 1] (aesShift (b.map (aesSub t)))) rk) b
  xorBytes (aesShift (b.map (aesSub t))) (rks.getD 14 [])

/-- Decrypt one block. -/
def aesDecBlock (ti : Array Byte) (rks : List Bytes) (b : Bytes) : Bytes :=
  let b := (aesShiftInv (xorBytes b (rks.getD 14 []))).map (aesSub ti)
  let b := ((rks.drop 1).take 13).reverse.foldl (fun b rk =>
    (aesShiftInv (aesMix [14, 11, 13, 9] (xorBytes b rk))).map (aesSub ti)) b
  xorBytes b (rks.headD [])

/-- The next tweak of XTS: multiply by x in GF(2^128), little-endian, polynomial 0x87. -/
def xtsNext (t : Bytes) : Bytes :=
  let n := leNat t * 2
  leBytes 16 (if n ≥ 2 ^ 128 then Nat.xor (n % 2 ^ 128) 0x87 else n)

/-- The blocks of a data unit, each under its tweak. -/
def xtsBlocks (f : Bytes → Bytes) : Nat → Bytes → Bytes → Bytes
  | 0, _, _ => []
  | n + 1, t, bs =>
    if bs.isEmpty then [] else xorBytes (f (xorBytes (bs.take 16) t)) t ++ xtsBlocks f n (xtsNext t) (bs.drop 16)

/-- AES-256-XTS of a data unit whose length is a multiple of 16, under a 64-byte key, with the data unit number as tweak. -/
def xtsCrypt (enc : Bool) (key : Bytes) (tweak : Nat) (data : Bytes) : Bytes :=
  let t := aesSbox.toArray
  let k1 := aesRoundKeys t (key.take 32)
  let k2 := aesRoundKeys t (key.drop 32)
  let t0 := aesEncBlock t k2 (leBytes 16 tweak)
  let f := if enc then aesEncBlock t k1 else aesDecBlock aesSboxInv.toArray k1
  xtsBlocks f (data.length / 16 + 1) t0 data

end Sys2Proof.Machine
end

