-- ==== Sys2Proof/Machine/Operands.lean ====
section
/-! DEFINITION. What commands look up before they act: dies and their types, pools, halves, lease groups, heads. -/

namespace Sys2Proof.Machine

open Sys2Proof

/-- Head number: 0 A, 1 B (R4). -/
def State.headNum (s : State) : Nat := bit s.glb.headB

def roleNum : Role → Nat
  | .starting => 0 | .active => 1 | .survivor => 2 | .standby => 3 | .held => 4

def roleOf (n : Nat) : Role :=
  match n with | 1 => .active | 2 => .survivor | 3 => .standby | 4 => .held | _ => .starting

def pstateNum : PState → Nat
  | .p0 => 0 | .p1 => 1 | .p2 => 2 | .p3 => 3 | .p4 => 4 | .off => 5

def govModeNum : GovMode → Nat
  | .off => 0 | .model => 1 | .closed => 2 | .hold => 3

def lifecycleNum : Lifecycle → Nat
  | .blank => 0 | .provisioned => 1 | .field => 2 | .ret => 3 | .ended => 4

def poolStNum : PoolSt → Nat
  | .undeclared => 0 | .normal => 1 | .lowSpace => 2 | .throttled => 3 | .readOnly => 4

def memberStNum : MemberSt → Nat
  | .undeclared => 0 | .present => 1 | .absent => 2 | .lost => 3

def dieStNum : DieSt → Nat
  | .absent => 0 | .good => 1 | .suspect => 2 | .retired => 3

def volStNum : VolSt → Nat
  | .undeclared => 0 | .preparing => 1 | .ready => 2 | .keyAbsent => 3 | .poolNotReady => 4 | .deleting => 5

def laneStNum : LaneSt → Nat
  | .idle => 0 | .detect => 1 | .eq => 2 | .lock => 3 | .param => 4 | .secure => 5 | .active => 6 | .retrain => 7
  | .down => 8 | .quarantine => 9

def mirrorNum : MirrorSt → Nat
  | .none => 0 | .mirrored => 1 | .stalled => 2 | .solo => 3 | .resync => 4

def domStNum : DomSt → Nat
  | .undeclared => 0 | .loading => 1 | .active => 2 | .rebuilding => 3 | .retiring => 4

def jobStNum : JobSt → Nat
  | .undeclared => 0 | .queued => 1 | .running => 2 | .done => 3 | .failed => 4

def snapStNum : SnapSt → Nat
  | .creating => 0 | .ready => 1 | .hidden => 2 | .deleting => 3 | .released => 4

def slcStNum : SlcSt → Nat
  | .enabled => 0 | .flushing => 1 | .disabled => 2 | .converting => 3

def chStNum : ChSt → Nat
  | .untrained => 0 | .training => 1 | .ready => 2 | .selfRefresh => 3 | .failed => 4

def slotStNum : SlotSt → Nat
  | .empty => 0 | .valid => 1 | .trial => 2 | .bad => 3

/-! ## Fuses -/

/-- What the fuses of the device hold: lifecycle, wrap-key erase, owner anchor, FUSE_SVN, serial (R383, R391, R415, R421). -/
abbrev Rot.fuses (r : Rot) : Lifecycle × Bool × Option Nat × Nat × Nat :=
  (r.lifecycle, r.wrapErased, r.ownerAnchor, r.fuseSvn, r.serial)

/-- The configuration in force: its epoch, its digest, its records (R401). -/
abbrev Cfg.inForce (c : Cfg) : Nat × Nat × List CfgRec := (c.epoch, c.digest, c.recs)

/-! ## Dies -/

def Ftu.die (f : Ftu) (d : Nat) : Die := tgetD f.dies d { st := .absent }

def dieGood (d : Die) : Bool := d.st == .good || d.st == .suspect

def Ftu.dieType (f : Ftu) (d : Nat) : DieType := tgetD f.types (f.die d).typ {}

/-- The pool a die's module belongs to. -/
def State.diePool (s : State) (d : Nat) : Option Nat := s.cfg.poolOf (d / 256)

/-- Good dies in declared pools: this head's, and all (R350). -/
def State.goodDies (s : State) (ownOnly : Bool) : Nat :=
  (s.ftu.dies.filter fun p => dieGood p.2 && (s.diePool p.1).isSome && (!ownOnly || p.2.own)).length

/-- Own good dies of a pool. -/
def State.poolDies (s : State) (pool : Nat) : Nat :=
  (s.ftu.dies.filter fun p => dieGood p.2 && p.2.own && s.diePool p.1 == some pool).length

/-- Times of a die type in ns. -/
def tRns (d : DieType) : Nat := d.tR * 100
def tSUSns (d : DieType) : Nat := d.tSUS * 100
def tRESns (d : DieType) : Nat := d.tRES * 100
/-- The suspend cycle of R108. -/
def cycleNs (d : DieType) : Nat := tSUSns d + tRns d + 400 + 4000 + tRESns d
/-- Program and erase reservations (R108, R110). -/
def progNs (d : DieType) : Nat := d.tPROG * 100 + d.sProg * cycleNs d
def eraseNs (d : DieType) : Nat := d.tBERS * 100 + d.sErase * cycleNs d

/-! ## Lease groups -/

/-- This head's number as a lease HOLDER (R325). -/
def State.me (s : State) : Nat := s.headNum + 1

/-- This head holds the group and no handover runs. -/
def State.ownsGroup (s : State) (g : Nat) : Bool :=
  match tget s.ha.leases g with | some l => l.view == 1 || l.view == 3 | none => false

/-- Lease groups held (PLK_HA_STAT.GROUPS). -/
def Ha.held (h : Ha) : List Nat :=
  (h.leases.filter fun p => p.1 < 256 && p.2.view != 0).map (·.1)

/-- Majority of the lease bridge set (R325). -/
def Ha.majority (h : Ha) : Nat := h.bridges.length / 2 + 1

/-- Anything live in the write cache or the mirror area (R135, R138). -/
def Wc.live (w : Wc) : Bool := !w.frames.isEmpty || !w.mirror.isEmpty

def modHalf (hs : List Half) (pool : Nat) (b : Bool) (f : Half → Half) : List Half :=
  hs.map fun h => if h.pool == pool && h.headB == b then f h else h

def Ftu.half (f : Ftu) (pool : Nat) (b : Bool) : Option Half := f.halves.find? fun h => h.pool == pool && h.headB == b

end Sys2Proof.Machine
end

