-- ==== Sys2Proof/Machine/Flags.lean ====
section
/-! DEFINITION. What the head computes about itself: background shares and their raises (R125 to R127), pool space (R255,
R282), wear (R252, R254), lanes working, and the crossings that send HEALTH (R473). -/

namespace Sys2Proof.Machine

open Sys2Proof

def lsum (xs : List Nat) : Nat := xs.foldl (· + ·) 0

/-! ## Working lanes -/

def Dge.lanesOk (d : Dge) : Nat := if d.tested then 32 - d.bad.length else 0
def Cpe.lanesOk (c : Cpe) : Nat := if c.tested then 48 - c.bad.length else 0
def Xts.lanesOk (x : Xts) : Nat := if x.tested then 32 - x.bad.length else 0

/-! ## Shares -/

/-- Raises in force: GC by the pool states (R256), rebuild while a half holds critical stripes (R280), best effort while a
self-test runs (R466), metadata while the metadata reserve of a half is low (chapter 08). -/
def State.raises (s : State) : Nat × Nat × Nat × Nat :=
  let gc := s.ftu.halves.foldl (fun g h => max g (match h.st with
    | .lowSpace => 200 | .throttled => 400 | .readOnly => 400 | _ => 0)) 0
  let rb := if s.pxe.rebuild.any fun p => p.2.st == 3 then s.pxe.critShare * 10 else 0
  (gc, rb, if s.evr.stRunning then 40 else 0, if s.ftu.halves.any (·.metaLow) then 100 else 0)

/-- Lower one share by what the sum exceeds 600 permille, down to the bottom of its range. -/
def lowerShare (xs : List Nat) (i floor : Nat) : List Nat :=
  let excess := lsum xs - 600
  lmod xs i fun v => max (min v floor) (v - excess)

/-- The shares granted (R126): raises applied, then best effort, snapshot, wear, scrub and metadata lowered in that order,
then the rebuild raise limited. -/
def sharesGranted (base : List Nat) (r : Nat × Nat × Nat × Nat) : List Nat :=
  let xs := lmod (lmod (lmod (lmod base 0 (max r.1)) 1 (max r.2.1)) 6 (max r.2.2.1)) 5 (max r.2.2.2)
  lowerShare (lowerShare (lowerShare (lowerShare (lowerShare (lowerShare xs 6 10) 4 0) 2 10) 3 10) 5 20) 1 20

/-- Number of the frame that enters the horizon next (R107). -/
def State.entering (s : State) : Nat := s.dt / 20000 + 128

/-- The SELF_TEST notice (R469). -/
def State.selfTestNotice (s : State) : State :=
  let e := s.evr
  s.notifyAll 14 (leBytes 1 e.stKind ++ leBytes 1 (bit e.stRunning) ++ leBytes 1 e.stResult ++ leBytes 1 e.stProgress ++
    leBytes 1 e.stFail ++ leBytes 3 0 ++ leBytes 4 e.stFindings ++ leBytes 4 ((s.dt - e.stStart) / 1000000000))

/-- A running self-test whose best-effort share would fall below 40 permille is aborted (R126, R468). -/
def State.starveTest (s : State) : State :=
  if s.evr.stRunning ∧ (sharesGranted s.dsc.shareCfg s.raises).getD 6 0 < 40 then
    ((s.event 0x0410 0 s.evr.stKind 1 0 3).modEvr fun e => { e with stRunning := false, stResult := 3 }).selfTestNotice
  else s

/-- Bring the granted shares up to date; each change records 0x0D04 (R127). -/
def State.refreshShares (s : State) : State :=
  let s := s.starveTest
  let new := sharesGranted s.dsc.shareCfg s.raises
  let s' := (List.range 7).foldl (fun s i =>
    let o := s.dsc.shareCur.getD i 0
    let n := new.getD i 0
    if o = n then s else s.event 0x0D04 i i o n s.entering) s
  s'.modDsc fun d => { d with shareCur := new }

/-! ## Pool space -/

/-- Data positions of the half: every good data chunk with all members present and nothing retired, and those it has now (R255, R282). -/
def State.halfChunks (s : State) (h : Half) : Nat × Nat :=
  let ms := s.cfg.poolModules h.pool
  let pres := ms.filter fun m => match tget s.pxe.members m with | some x => x.st == .present | none => false
  s.ftu.dies.foldl (fun a p =>
    if p.2.half == h.headB && ms.contains (p.1 / 256) then
      let t := tgetD s.ftu.types p.2.typ {}
      (a.1 + t.nBlk * t.pBlk, if pres.contains (p.1 / 256) && dieGood p.2 then a.2 + (t.nBlk - p.2.retired.length) * t.pBlk else a.2)
    else a) (0, 0)

/-- DS_raw of R255 in slots: with all members present, and now. -/
def State.dsRaw (s : State) (h : Half) : Nat × Nat :=
  match tget s.pxe.layouts h.pool with
  | none => (0, 0)
  | some l =>
    let c := s.halfChunks h
    let f (n : Nat) : Nat := n * 15 / 16 * l.k / (l.k + 2) * 31
    (f c.1, f c.2)

/-- SP0 of R282 from DS_raw, and RB. -/
def State.spare0Of (s : State) (h : Half) (raw : Nat × Nat) : Nat :=
  match tget s.pxe.layouts h.pool with
  | none => 0
  | some l => ceilDiv (raw.1 * l.s) (max 1 l.modules.length)

def State.remapped (s : State) (pool : Nat) : Nat :=
  (s.pxe.remaps.filter fun r => r.2.2.1 == 1 && s.diePool r.1 == some pool).length

def State.spareRb (s : State) (h : Half) : Nat :=
  match tget s.pxe.layouts h.pool with
  | none => 0
  | some l => 31 * l.k * s.remapped h.pool / (l.k + 2)

/-- SPARE of R282 and DS of R255, from DS_raw. -/
def State.spareOf (s : State) (h : Half) (raw : Nat × Nat) : Nat :=
  let rb := s.spareRb h
  rb + (s.spare0Of h raw - (raw.1 - raw.2) - rb)

def State.dsOf (s : State) (h : Half) (raw : Nat × Nat) : Nat :=
  let d := raw.2 - s.spareOf h raw
  d - ceilDiv d 100

def State.spare0 (s : State) (h : Half) : Nat := s.spare0Of h (s.dsRaw h)
def State.spare (s : State) (h : Half) : Nat := s.spareOf h (s.dsRaw h)
def State.dsSlots (s : State) (h : Half) : Nat := s.dsOf h (s.dsRaw h)

/-- Slots of one segment of a pool half: a row contributes 15 of 16, a stripe k of k + 2. -/
def State.segSlots (s : State) (pool : Nat) : Nat :=
  match tget s.pxe.layouts pool with
  | none => 0
  | some l =>
    let w := l.k + 2
    let m := ((l.gens.getLast?.map (·.2.length)).getD 0)
    let b := w / Nat.gcd w (max 1 m)
    let lines := 15 * 1024
    (lines / b * (m / Nat.gcd w (max 1 m)) + lines % b * m / w) * l.k * 31

/-- FREE of R255; 0 when the newest generation is narrower than a stripe (R284). -/
def State.freeOf (s : State) (h : Half) (ds : Nat) : Nat :=
  let segs := s.ftu.segs.filter fun g => g.pool == h.pool && g.headB == h.headB
  let used := lsum (segs.map fun g => match g.st with
    | .victim | .reclaimed | .erasing => s.segSlots h.pool
    | _ => g.valid)
  let narrow := match tget s.pxe.layouts h.pool with
    | some l => (match l.gens.getLast? with | some g => decide (g.2.length < l.k + 2) | none => true)
    | none => true
  if narrow then 0 else ds - used

def State.freeSlots (s : State) (h : Half) : Nat := s.freeOf h (s.dsSlots h)

/-- RO_FLOOR of R255. -/
def State.roFloor (s : State) (h : Half) : Nat := 2 * (s.wc.limit * 2 ^ 30) / 2048 + 2 * s.segSlots h.pool

/-- The state a pool half moves to (R256): entry conditions, and one percentage point of hysteresis to leave. -/
def poolNext (old : PoolSt) (ds free floor : Nat) : PoolSt :=
  let below (pct : Nat) := decide (free * 100 < pct * ds)
  let ro := decide (free ≤ floor)
  let stay := decide (free ≤ floor + ds / 100)
  if ro ∨ (old = .readOnly ∧ stay) then .readOnly
  else if below 5 ∨ (old = .throttled ∧ below 6) then .throttled
  else if below 10 ∨ ((old = .lowSpace ∨ old = .throttled) ∧ below 11) then .lowSpace
  else .normal

/-- Mean of a list, rounded down. -/
def meanOf (xs : List Nat) : Nat := if xs.isEmpty then 0 else lsum xs / xs.length

/-- PE_MEAN of a die: over its good blocks (R252). -/
def peMean (t : DieType) (d : Die) : Nat :=
  lsum ((d.pe.filter fun p => !d.retired.contains p.1).map (·.2)) / max 1 (t.nBlk - d.retired.length)

def peMax (d : Die) : Nat := ((d.pe.filter fun p => !d.retired.contains p.1).map (·.2)).foldl max 0

/-- WEAR of a die in permille. -/
def dieWear (t : DieType) (d : Die) : Nat := 1000 * peMean t d / max 1 t.peRated

/-- Wear of a pool half in permille (R254). -/
def State.poolWear (s : State) (h : Half) : Nat :=
  let ms := s.cfg.poolModules h.pool
  meanOf (s.ftu.dies.filterMap fun p =>
    if p.2.half == h.headB && dieGood p.2 && ms.contains (p.1 / 256) then some (dieWear (tgetD s.ftu.types p.2.typ {}) p.2) else none)

/-! ## HEALTH -/

/-- What a crossing is known by once it is reported: its cause, instance, and threshold or value (R473). -/
def crossKey (cause inst value threshold : Nat) : Nat × Nat × Nat :=
  (cause, inst, if cause = 1 then threshold else if cause = 3 ∨ cause = 4 ∨ cause = 5 then 16 * value + threshold else 0)

/-- A HEALTH crossing: event 0x0420, the notice, ALERT_N, once a crossing (R473, R495). The report is rebuilt by the
HEALTH_REPORT_REBUILD that follows. -/
def State.health (s : State) (cause inst value threshold : Nat) : State :=
  let key := crossKey cause inst value threshold
  if s.evr.crossed.contains key then s
  else
    let s := (s.event 0x0420 inst cause inst value threshold).modEvr fun e => { e with crossed := key :: e.crossed }
    (s.notifyAll 15 (leBytes 1 cause ++ leBytes 1 0 ++ leBytes 2 inst ++ leBytes 4 value ++ leBytes 8 (s.evr.hrSeq + 2))).modGlb
      fun g => { g with alert := true }

/-- The spare of a pool half is used up: SPARE is down to RB, with chunks lost (R282, R473 cause 2). -/
def State.judgeSpare (s : State) (h : Half) (raw : Nat × Nat) : State :=
  let spare := s.spareOf h raw
  if raw.2 < raw.1 ∧ spare ≤ s.spareRb h then s.health 2 h.pool spare (s.spareRb h)
  else s.modEvr fun e => { e with crossed := e.crossed.filter (· != (2, h.pool, 0)) }

/-- What is left of the metadata reserve of R255 in permille: the 1 % term less the slots that metadata records hold. -/
def State.metaLeft (s : State) (h : Half) (raw : Nat × Nat) : Nat :=
  let total := ceilDiv (raw.2 - s.spareOf h raw) 100
  let used := lsum ((s.ftu.segs.filter fun g => g.pool == h.pool && g.headB == h.headB && g.kind == 2).map (·.valid))
  if total = 0 then 1000 else (total - used) * 1000 / total

/-- The metadata reserve falls below 10 % of itself: event 0x140C; the metadata share is raised while it lasts. -/
def State.judgeMeta (s : State) (h : Half) (raw : Nat × Nat) : State :=
  let left := s.metaLeft h raw
  let low := decide (left < 100)
  if low = h.metaLow then s
  else
    let s := if low then s.event 0x140C h.pool h.pool (bit h.headB) left 0 else s
    s.modFtu fun f => { f with halves := modHalf f.halves h.pool h.headB fun h => { h with metaLow := low } }

/-- Bring one pool half's state up to date (R256): event 0x1401, POOL_STATE, wear crossings 0x1405 (R254, R259). -/
def State.refreshHalf (s : State) (pool : Nat) (b : Bool) : State :=
  match s.ftu.half pool b with
  | none => s
  | some h =>
    let raw := s.dsRaw h
    let ds := s.dsOf h raw
    let free := s.freeOf h ds
    let new := poolNext h.st ds free (s.roFloor h)
    let wear := s.poolWear h
    let s := (s.judgeSpare h raw).judgeMeta h raw
    let s := if new = h.st then s
      else ((s.event 0x1401 pool pool (bit b) (poolStNum h.st) (poolStNum new)).modFtu fun f =>
          { f with halves := modHalf f.halves pool b fun h => { h with st := new } }).notifyPool pool 6
            (leBytes 1 pool ++ leBytes 1 (bit b) ++ leBytes 1 (poolStNum h.st) ++ leBytes 1 (poolStNum new) ++
             leBytes 8 ds ++ leBytes 8 free ++ leBytes 2 wear ++ leBytes 2 0)
    let s := if wear ≥ 900 ∧ !h.wear900 then
        ((s.event 0x1405 pool pool (bit b) wear 0).health 1 pool wear 900).modFtu fun f =>
          { f with halves := modHalf f.halves pool b fun h => { h with wear900 := true } }
      else s
    if wear ≥ 1000 ∧ !h.wear1000 then
      ((s.event 0x1405 pool pool (bit b) wear 0).health 1 pool wear 1000).modFtu fun f =>
        { f with halves := modHalf f.halves pool b fun h => { h with wear1000 := true } }
    else s

/-- Every half, then the shares. -/
def State.refreshPools (s : State) : State :=
  (s.ftu.halves.foldl (fun s h => s.refreshHalf h.pool h.headB) s).refreshShares

/-! ## Saturating and clearing counters -/

/-- One more on a saturating counter of `w` bits. -/
def bump (w v : Nat) : Nat := sat w (v + 1)

end Sys2Proof.Machine
end

