-- ==== Sys2Proof/Machine/Map.lean ====
section
/-! DEFINITION. The map, its versions and what losing a grain does (R227 to R231, R286, R293, R295). -/

namespace Sys2Proof.Machine

open Sys2Proof

def mapUnmapped : MapEntry := ⟨0, 0, 0, 0, 0, false, 0, 0⟩

/-- A map entry as its 64 bits (R227). -/
def entryBits (e : MapEntry) : Nat :=
  e.st.toNat + 4 * e.cls.toNat + 16 * e.slot.toNat + 2 ^ 9 * e.chunk.toNat + 2 ^ 32 * e.die.toNat + 2 ^ 47 * bit e.shared +
    2 ^ 48 * e.gen.toNat + 2 ^ 62 * e.rsv.toNat

def entryOf (n : Nat) : MapEntry :=
  { st := BitVec.ofNat 2 n, cls := BitVec.ofNat 2 (n / 4), slot := BitVec.ofNat 5 (n / 16), chunk := BitVec.ofNat 23 (n / 2 ^ 9),
    die := BitVec.ofNat 15 (n / 2 ^ 32), shared := tbit n 47, gen := BitVec.ofNat 14 (n / 2 ^ 48), rsv := BitVec.ofNat 2 (n / 2 ^ 62) }

/-- Two entries name one place. -/
def samePlace (a b : MapEntry) : Bool := a.die == b.die && a.chunk == b.chunk && a.slot == b.slot

def isMapped (e : MapEntry) : Bool := e.st == 1
def isLostEntry (e : MapEntry) : Bool := e.st == 2

/-- Volume epoch VE of a volume (R290). -/
def State.ve (s : State) (v : Nat) : Nat := tgetD s.snap.ve v 0

/-- Volume epoch in force under a configuration epoch (R291). -/
def State.veUnder (s : State) (v cepoch : Nat) : Nat :=
  (s.snap.veAt.filter fun x => x.1 == v && decide (x.2.1 ≤ cepoch)).foldl (fun m x => max m x.2.2) 0

/-- The version of a map page with the largest page epoch not above `e` (R295). -/
def Ftu.pageAt (f : Ftu) (v page e : Nat) : Option MapPage :=
  (f.pages.filter fun p => p.vol == v && p.page == page && decide (p.epoch ≤ e)).foldl
    (fun a p => match a with | some q => if p.epoch > q.epoch then some p else a | none => some p) none

/-- A snapshot's record. -/
def SnapCtl.find (c : SnapCtl) (v id : Nat) : Option Snap := c.snaps.find? fun x => x.vol == v && x.id == id && x.st != .released

/-- What a read of a volume's page resolves to: a view and a clone fall through to their source (R295, R297, R298). -/
def State.resolve (s : State) : Nat → Nat → Nat → Nat → Option MapPage
  | 0, _, _, _ => none
  | n + 1, v, page, e =>
    match s.cfg.volume v with
    | none => s.ftu.pageAt v page e
    | some r =>
      let up := match s.snap.find r.source r.snap with | some x => s.resolve n r.source page x.e | none => none
      if r.kind = 2 then up
      else match s.ftu.pageAt v page e with
        | some p => some p
        | none => if r.kind = 3 then up else none

/-- The map entry of a grain as of volume epoch `e` (17 levels: a view over 16 clones). -/
def State.entryAt (s : State) (v grain e : Nat) : MapEntry :=
  match s.resolve 18 v (grain / 512) e with
  | none => mapUnmapped
  | some p => tgetD p.entries (grain % 512) mapUnmapped

/-- The live entry of a grain. -/
def State.entry (s : State) (v grain : Nat) : MapEntry := s.entryAt v grain (s.ve v)

/-- The page that covers a grain is in the map cache (R230); a page never written needs no read. -/
def State.pageCached (s : State) (v grain : Nat) : Bool :=
  match s.resolve 18 v (grain / 512) (s.ve v) with | none => true | some p => p.cached

/-- Change the page version that an update of volume epoch `ve` writes: the live version when its epoch is `ve`, a new
version with that epoch otherwise, which references every grain of the old one (R293, R294). -/
def State.putEntry (s : State) (v grain ve : Nat) (e : MapEntry) : State :=
  let page := grain / 512
  match s.ftu.pageAt v page ve with
  | some p =>
    if p.epoch = ve then
      s.modFtu fun f => { f with pages := f.pages.map fun q =>
        if q.vol == v && q.page == page && q.epoch == ve then { q with entries := tput q.entries (grain % 512) e, dirty := true }
        else q }
    else
      let shared := p.entries.map fun (i, x) => (i, if isMapped x then { x with shared := true } else x)
      s.modFtu fun f => { f with
        pages := { p with epoch := ve, entries := tput shared (grain % 512) e, dirty := true, pins := [], loc := none } :: f.pages
        backrefs := (p.entries.filterMap fun (i, x) =>
          if isMapped x then some (x.die.toNat, x.chunk.toNat, x.slot.toNat, v, page * 512 + i) else none) ++ f.backrefs }
  | none =>
    let base := match s.resolve 18 v page ve with | some p => p.entries | none => []
    let shared := base.map fun (i, x) => (i, if isMapped x then { x with shared := true } else x)
    s.modFtu fun f => { f with
      pages := { vol := v, page := page, epoch := ve, entries := tput shared (grain % 512) e, dirty := true } :: f.pages
      backrefs := (base.filterMap fun (i, x) =>
        if isMapped x then some (x.die.toNat, x.chunk.toNat, x.slot.toNat, v, page * 512 + i) else none) ++ f.backrefs }

/-- A map fault (R228): STATE 3, or a place outside geometry (a module's dies are the 192 of its
ownership map, R312); 0 none, else the cause of event 0x1409. -/
def State.mapFault (s : State) (e : MapEntry) : Nat :=
  if e.st == 3 then 1
  else if isMapped e then
    let t := s.ftu.dieType e.die.toNat
    if decide (e.chunk.toNat ≥ t.nBlk * t.pBlk) || decide (e.slot.toNat + e.cls.toNat + 1 > 31) || e.die.toNat ≥ 24576 || e.die.toNat % 256 ≥ 192 then 2 else 0
  else 0

/-! ## Lost grains -/

/-- The DATA_LOST notice (R287) for one grain. -/
def State.lostNotice (s : State) (v grain cause : Nat) : State :=
  let total := lsum (s.ftu.pages.map fun p => if p.vol == v then (p.entries.filter fun x => isLostEntry x.2).length else 0)
  s.notifyGranted (fun k _ => k == v) 7 (leBytes 4 v ++ leBytes 2 1 ++ leBytes 1 cause ++ leBytes 1 0 ++ leBytes 8 total ++ leBytes 8 grain)

/-- One grain is lost (R286): every map entry that points to it becomes LOST, its index entry goes, the remap entries of its
cell become LOST, event 0x1404 with the grain and a DATA_LOST notice. -/
def State.loseGrain (s : State) (v grain evCause noticeCause : Nat) : State :=
  let e := s.entry v grain
  let hit (x : MapEntry) : Bool := isMapped e && isMapped x && samePlace x e
  let others := s.ftu.pages.flatMap fun p => (p.entries.filter fun x => hit x.2).map fun x => (p.vol, p.page * 512 + x.1)
  let lost : MapEntry := { mapUnmapped with st := 2 }
  let s := s.modFtu fun f => { f with
    pages := f.pages.map fun p => { p with entries := p.entries.map fun x => if hit x.2 then (x.1, lost) else x }
    lost := bump 32 f.lost }
  let s := s.putEntry v grain (s.ve v) lost
  let s := s.modDxu fun d => { d with doms := d.doms.map fun (n, x) => (n, { x with idx := x.idx.filter fun i => !(isMapped e && samePlace i.loc e) }) }
  let s := s.modPxe fun p => { p with
    remaps := p.remaps.map fun r => if isMapped e && r.1 == e.die.toNat && r.2.1 == e.chunk.toNat then (r.1, r.2.1, 2, r.2.2.2) else r
    layouts := match s.cfg.volume v with
      | some r => tmod p.layouts r.pool fun l => { l with lostg := l.lostg + 1 }
      | none => p.layouts }
  let all := if others.contains (v, grain) then others else (v, grain) :: others
  all.foldl (fun s x => (s.event 0x1404 0 x.1 (lo32 x.2) (hi32 x.2) evCause).lostNotice x.1 x.2 noticeCause) s

/-- A map fault found on a grain (R228): event 0x1409, then the grain is lost. -/
def State.mapFaultAt (s : State) (v grain cause : Nat) : State :=
  (s.event 0x1409 0 v (grain / 512) (grain % 512) cause).loseGrain v grain 2 7

end Sys2Proof.Machine
end

