-- ==== Sys2Proof/Machine/Sha.lean ====
section
/-! DEFINITION. The digests of R160: SHA-2 (FIPS 180-4) and HMAC (RFC 2104). The round constants are computed from the
square and cube roots of primes by which FIPS 180-4 defines them. -/

namespace Sys2Proof.Machine

open Sys2Proof

/-- The first 80 primes. -/
def primes80 : List Nat :=
  [2, 3, 5, 7, 11, 13, 17, 19, 23, 29, 31, 37, 41, 43, 47, 53, 59, 61, 67, 71] ++
  [73, 79, 83, 89, 97, 101, 103, 107, 109, 113, 127, 131, 137, 139, 149, 151, 157, 163, 167, 173] ++
  [179, 181, 191, 193, 197, 199, 211, 223, 227, 229, 233, 239, 241, 251, 257, 263, 269, 271, 277, 281] ++
  [283, 293, 307, 311, 313, 317, 331, 337, 347, 349, 353, 359, 367, 373, 379, 383, 389, 397, 401, 409]

/-- First 64 bits of the fractional part of the cube root of each prime. -/
def shaK64 : List (BitVec 64) := primes80.map fun p => BitVec.ofNat 64 (iroot 3 (p * 2 ^ 192) 68 0)

/-- First 32 bits of the same, for the first 64 primes. -/
def shaK32 : List (BitVec 32) := (primes80.take 64).map fun p => BitVec.ofNat 32 (iroot 3 (p * 2 ^ 96) 36 0)

/-- Initial hash values: fractional parts of square roots of the primes from the `i`-th. -/
def shaInit (w i : Nat) : List (BitVec w) :=
  ((primes80.drop i).take 8).map fun p => BitVec.ofNat w (iroot 2 (p * 2 ^ (2 * w)) (w + 4) 0)

/-- The rotation and shift counts of the four sigma functions of one word width. -/
structure ShaRot where
  S0 : Nat × Nat × Nat
  S1 : Nat × Nat × Nat
  s0 : Nat × Nat × Nat
  s1 : Nat × Nat × Nat

def rot32 : ShaRot := ⟨(2, 13, 22), (6, 11, 25), (7, 18, 3), (17, 19, 10)⟩
def rot64 : ShaRot := ⟨(28, 34, 39), (14, 18, 41), (1, 8, 7), (19, 61, 6)⟩

def bigSigma {w : Nat} (r : Nat × Nat × Nat) (x : BitVec w) : BitVec w :=
  x.rotateRight r.1 ^^^ x.rotateRight r.2.1 ^^^ x.rotateRight r.2.2

def smallSigma {w : Nat} (r : Nat × Nat × Nat) (x : BitVec w) : BitVec w :=
  x.rotateRight r.1 ^^^ x.rotateRight r.2.1 ^^^ x >>> r.2.2

/-- The message schedule extended by `n` words, newest first. -/
def shaSchedule {w : Nat} (r : ShaRot) : Nat → List (BitVec w) → List (BitVec w)
  | 0, ws => ws
  | n + 1, ws =>
    shaSchedule r n ((smallSigma r.s1 (ws.getD 1 0) + ws.getD 6 0 + smallSigma r.s0 (ws.getD 14 0) + ws.getD 15 0) :: ws)

/-- One round on the working variables a to h. -/
def shaRound {w : Nat} (r : ShaRot) (v : List (BitVec w)) (kw : BitVec w × BitVec w) : List (BitVec w) :=
  match v with
  | [a, b, c, d, e, f, g, h] =>
    let t1 := h + bigSigma r.S1 e + ((e &&& f) ^^^ (~~~ e &&& g)) + kw.1 + kw.2
    let t2 := bigSigma r.S0 a + ((a &&& b) ^^^ (a &&& c) ^^^ (b &&& c))
    [t1 + t2, a, b, c, d + t1, e, f, g]
  | v => v

/-- The compression of one block of 16 words. -/
def shaBlock {w : Nat} (r : ShaRot) (k : List (BitVec w)) (h : List (BitVec w)) (m : List (BitVec w)) : List (BitVec w) :=
  let sched := (shaSchedule r (k.length - 16) m.reverse).reverse
  let v := (k.zip sched).foldl (shaRound r) h
  (h.zip v).map fun p => p.1 + p.2

/-- The big-endian words of a byte string. -/
def beWords (w : Nat) : Nat → Bytes → List (BitVec w)
  | 0, _ => []
  | n + 1, bs => if bs.isEmpty then [] else BitVec.ofNat w (beNat (bs.take (w / 8))) :: beWords w n (bs.drop (w / 8))

/-- All blocks of a padded message. -/
def shaBlocks {w : Nat} (r : ShaRot) (k : List (BitVec w)) : Nat → List (BitVec w) → List (BitVec w) → List (BitVec w)
  | 0, h, _ => h
  | n + 1, h, ws => if ws.isEmpty then h else shaBlocks r k n (shaBlock r k h (ws.take 16)) (ws.drop 16)

/-- Padding of FIPS 180-4 for blocks of `blk` bytes with an `l`-byte length. -/
def shaPad (blk l : Nat) (m : Bytes) : Bytes :=
  let z := (2 * blk - (m.length + 1 + l) % blk) % blk
  m ++ 0x80 :: List.replicate z 0 ++ beBytes l (8 * m.length)

/-- A digest with words of `w` bits, initial value `h0`, first `out` bytes. -/
def shaDigest {w : Nat} (r : ShaRot) (k h0 : List (BitVec w)) (l out : Nat) (m : Bytes) : Bytes :=
  let p := shaPad (2 * w) l m
  let ws := beWords w p.length p
  ((shaBlocks r k ws.length h0 ws).flatMap fun x => beBytes (w / 8) x.toNat).take out

def sha256 (m : Bytes) : Bytes := shaDigest rot32 shaK32 (shaInit 32 0) 8 32 m
def sha384 (m : Bytes) : Bytes := shaDigest rot64 shaK64 (shaInit 64 8) 16 48 m
def sha512 (m : Bytes) : Bytes := shaDigest rot64 shaK64 (shaInit 64 0) 16 64 m

/-- HMAC of RFC 2104 over a digest with blocks of `blk` bytes. -/
def hmac (h : Bytes → Bytes) (blk : Nat) (key m : Bytes) : Bytes :=
  let k0 := if key.length > blk then h key else key
  let k := k0 ++ List.replicate (blk - k0.length) 0
  h ((k.map (· ^^^ 0x5C)) ++ h ((k.map (· ^^^ 0x36)) ++ m))

def hmacSha256 (key m : Bytes) : Bytes := hmac sha256 64 key m
def hmacSha384 (key m : Bytes) : Bytes := hmac sha384 128 key m

/-- The digest of algorithm code `alg` (R160); `key` is used by the keyed algorithms. -/
def digestOf (alg : Nat) (key m : Bytes) : Bytes :=
  match alg with
  | 1 => sha256 m
  | 2 => sha384 m
  | 3 => sha512 m
  | 4 => hmacSha256 key m
  | 5 => hmacSha384 key m
  | _ => []

end Sys2Proof.Machine
end

