-- ==== Sys2Proof/Machine/Digest.lean ====
section
/-! DEFINITION. Chapter 06, digest contexts: opening, feeding, ending and releasing a context, lanes at block boundaries,
and the purge of keys (R160 to R174, R177). -/

namespace Sys2Proof.Machine

open Sys2Proof

def dgeStNum : DgeSt → Nat
  | .free => 0 | .opened => 1 | .running => 2 | .saved => 3 | .done => 4 | .error => 5

/-- The working lanes of DGE. -/
def Dge.working (d : Dge) : List Nat := if d.tested then (List.range 32).filter fun l => !d.bad.contains l else []

/-- Lanes snoop may use: the smaller of SNOOP_LANES_MAX and the working lanes less 6 (R161). -/
def Dge.snoopLanes (d : Dge) : Nat := min d.snoopMax (d.working.length - 6)

/-- Lanes open to contexts: the working lanes that snoop may not use (R161, log entry 21). -/
def Dge.openLanes (d : Dge) : List Nat := d.working.drop d.snoopLanes

/-- Priority of a context by its range (R162): 1 is the highest. -/
def ctxPriority (n : Nat) : Nat := if n < 8 then 1 else if n < 72 then 2 else 3

/-- The user a context belongs to, by block byte (R162, R464): ROT, DXU, the stack firmware's policy layer. -/
def ctxUser (n : Nat) : Nat := if n < 8 then 0x06 else if n < 72 then 0x10 else 0x0E

def Dge.ctxAt (d : Dge) (n : Nat) : DgeCtx := tgetD d.ctx n {}

/-- The key a reference names: below 4,096 a domain's fingerprint key, from 4,096 on a replication job's (R406). -/
def Dge.keyOf (d : Dge) (k : Nat) : Option Bytes := if k < 4096 then tget d.fpKeys k else tget d.jobKeys (k - 4096)

def algKeyed (alg : Nat) : Bool := alg == 4 || alg == 5

/-- Give a lane to the ready context of the highest priority that has waited longest (R164). -/
def Dge.giveLane (d : Dge) (dt lane : Nat) : Dge :=
  let waiting := d.ctx.filter fun x => x.2.readyAt.isSome && x.2.lane.isNone
  let best := waiting.foldl (fun (a : Option (Nat × DgeCtx)) x => match a with
    | some y => if ctxPriority x.1 < ctxPriority y.1 ∨
        (ctxPriority x.1 = ctxPriority y.1 ∧ x.2.readyAt.getD 0 < y.2.readyAt.getD 0) then some x else a
    | none => some x) none
  match best with
  | none => d
  | some (n, x) => { d with ctx := tput d.ctx n { x with st := .running, lane := some lane, laneAt := dt, readyAt := none } }

/-- An open lane that runs no context. -/
def Dge.freeLane (d : Dge) : Option Nat :=
  d.openLanes.find? fun l => !d.ctx.any fun x => x.2.lane == some l

/-- A context ends in DONE or ERROR, or is released: its lane goes to the next ready context. -/
def Dge.leave (d : Dge) (dt n : Nat) (x : DgeCtx) : Dge :=
  let d' := { d with ctx := tput d.ctx n { x with lane := none, readyAt := none } }
  match x.lane with
  | some l => d'.giveLane dt l
  | none => d'

/-- A context goes to ERROR (R163, R165): event 0x0F01; no digest, compare word 0. -/
def State.dgeFail (s : State) (n err : Nat) : State :=
  let x := s.dge.ctxAt n
  (s.event 0x0F01 n n err x.owner (lo32 x.fed)).modDge fun d =>
    d.leave s.dt n { x with st := .error, err := err, digest := [], cmp := 0, msg := [] }

/-- DGE_CTX_OPEN (R162, R163, R166): a FREE context of the user's own range opens; an absent key is KEY_ABSENT (R165). -/
def execDgeCtxOpen (ctx : Fin 128) (user : Byte) (alg : Byte) (key : Option Nat) (declared : Nat) (expected : Option Bytes)
    (snoop : Bool) (s : State) : Host.Outcome State Fault Refusal :=
  let a := alg.toNat
  if (tget s.dge.ctx ctx.val).isSome ∨ user.toNat ≠ ctxUser ctx.val ∨ a = 0 ∨ a > 5 ∨ declared ≥ 2 ^ 40 then .next s
  else
    let x : DgeCtx := { st := .opened, alg := a, key := if algKeyed a then key else none, declared := declared, expected := expected,
                        snoop := snoop, owner := user.toNat, lastFeed := s.dt, timeoutUs := s.dge.feedTimeout }
    let s := s.modDge fun d => { d with ctx := tput d.ctx ctx.val x }
    .next (if algKeyed a ∧ ((key.bind s.dge.keyOf).isNone) then s.dgeFail ctx.val 4 else s)

/-- DGE_CTX_FEED (R165): more bytes, on a lane when one is free, else waiting (R164); over D the context fails. -/
def execDgeCtxFeed (ctx : Fin 128) (seg : Bytes) (s : State) : Host.Outcome State Fault Refusal :=
  let x := s.dge.ctxAt ctx.val
  if x.st ≠ .opened ∧ x.st ≠ .running ∧ x.st ≠ .saved then .next s
  else if x.fed + seg.length > x.declared then .next (s.dgeFail ctx.val (if x.snoop then 3 else 2))
  else
    let x := { x with msg := x.msg ++ seg, fed := x.fed + seg.length, lastFeed := s.dt, timeoutUs := s.dge.feedTimeout }
    let x := if x.lane.isSome then x
      else match s.dge.freeLane with
        | some l => { x with st := .running, lane := some l, laneAt := s.dt, readyAt := none }
        | none => { x with readyAt := some (x.readyAt.getD s.dt) }
    .next (s.modDge fun d => { d with ctx := tput d.ctx ctx.val x })

/-- The compare word (R174). -/
def compareWord (equal : Bool) : Nat := if equal then 0xA55A else 0x5AA5

/-- DGE_CTX_FINAL (R163, R165, R166): DONE with digest and compare word, ERROR when short (POISONED in snoop mode, R172). -/
def execDgeCtxFinal (ctx : Fin 128) (s : State) : Host.Outcome State Fault Refusal :=
  let x := s.dge.ctxAt ctx.val
  if x.st ≠ .opened ∧ x.st ≠ .running ∧ x.st ≠ .saved then .next s
  else if x.fed < x.declared then .next (s.dgeFail ctx.val (if x.snoop then 3 else 1))
  else
    match (if algKeyed x.alg then x.key.bind s.dge.keyOf else some []) with
    | none => .next (s.dgeFail ctx.val 4)
    | some k =>
      let dig := digestOf x.alg k x.msg
      let cmp := match x.expected with | some e => compareWord (e == dig) | none => 0
      .next (s.modDge fun d => d.leave s.dt ctx.val { x with st := .done, digest := dig, cmp := cmp, msg := [] })

/-- DGE_CTX_RELEASE (R163): the context is FREE; its result registers read 0. -/
def execDgeCtxRelease (ctx : Fin 128) (s : State) : Host.Outcome State Fault Refusal :=
  .next (s.modDge fun d =>
    let x := d.ctxAt ctx.val
    let d' := { d with ctx := tdel d.ctx ctx.val }
    match x.lane with
    | some l => d'.giveLane s.dt l
    | none => d')

/-- DGE_FEED_TIMEOUT (R165): FEED_TIMEOUT_US after the last feed with bytes short. -/
def execDgeFeedTimeout (ctx : Fin 128) (s : State) : Host.Outcome State Fault Refusal :=
  let x := s.dge.ctxAt ctx.val
  if (x.st ≠ .opened ∧ x.st ≠ .running ∧ x.st ≠ .saved) ∨ x.fed ≥ x.declared ∨ x.fed = 0 then .next s
  else .next ((s.advanceTo (x.lastFeed + usNs x.timeoutUs)).dgeFail ctx.val (if x.snoop then 3 else 1))

/-- The lane whose context has run longest since its assignment, among contexts of priority not above `p` (R164). -/
def Dge.chosenLane (d : Dge) (p : Nat) : Option Nat :=
  ((d.ctx.filter fun x => x.2.lane.isSome && decide (ctxPriority x.1 ≥ p)).foldl
    (fun (a : Option DgeCtx) x => match a with
      | some y => if x.2.laneAt < y.laneAt then some x.2 else a
      | none => some x.2) none).bind (·.lane)

/-- DGE_BLOCK_BOUNDARY (R164): a lane at a block boundary. A lane that runs nothing serves the next ready context; the lane
chosen for a waiting context of equal or higher priority saves its own and takes that one. -/
def execDgeBlockBoundary (lane : Fin 32) (s : State) : Host.Outcome State Fault Refusal :=
  let d := s.dge
  if !d.openLanes.contains lane.val then .next s
  else
    match d.ctx.find? fun x => x.2.lane == some lane.val with
    | none => .next (s.modDge fun d => d.giveLane s.dt lane.val)
    | some (n, x) =>
      let waits := (d.ctx.filter fun y => y.2.readyAt.isSome && y.2.lane.isNone).map fun y => ctxPriority y.1
      let top := waits.foldl min 4
      if top ≤ ctxPriority n ∧ d.chosenLane top = some lane.val then
        .next (s.modDge fun d =>
          let d := { d with ctx := tput d.ctx n { x with st := .saved, lane := none } }
          let d := d.giveLane s.dt lane.val
          { d with ctx := tmod d.ctx n fun x => { x with readyAt := if x.lane.isNone then some s.dt else none } })
      else .next s

/-! ## Keys -/

/-- The open contexts a key serves go to ERROR with KEY_ABSENT when it goes (R165, R177). -/
def State.dgeKeyGone (s : State) (keep : Nat → Bool) : State :=
  (s.dge.ctx.filter fun x => (match x.2.key with | some k => !keep k | none => false) &&
    (x.2.st == .opened || x.2.st == .running || x.2.st == .saved)).foldl (fun s x => s.dgeFail x.1 4) s

/-- Empty DGE's key stores (R423, R177). -/
def State.dgePurge (s : State) : State :=
  (s.modDge fun d => { d with fpKeys := [], jobKeys := [] }).dgeKeyGone fun _ => false

/-- Contexts opened by a user end with it (R163): a block reset or the stack's restart. -/
def Dge.freeUsers (d : Dge) (user : Nat) : Dge := { d with ctx := d.ctx.filter fun x => x.2.owner != user }

/-! ## Snooping -/

/-- Take a staging entry for a grain whose first byte arrives; none free: the grain is not snooped (R168). -/
def State.snoopStage (s : State) (qp cid grain : Nat) : State :=
  if s.dge.snoop.contains (qp, cid, grain) then s
  else if s.dge.snoop.length ≥ 2048 then
    s.modDge fun d => { d with dropped := bump 32 d.dropped
                               winDrop := if d.win = secOf s.dt then d.winDrop + 1 else 1
                               win := secOf s.dt }
  else s.modDge fun d =>
    { d with snoop := (qp, cid, grain) :: d.snoop
             peak := max (if d.win = secOf s.dt then d.peak else 0) (d.snoop.length + 1)
             winDrop := if d.win = secOf s.dt then d.winDrop else 0
             win := secOf s.dt }

/-- Drop the staging entries of a command (R169). -/
def State.snoopDrop (s : State) (qp cid : Nat) : State :=
  s.modDge fun d => { d with snoop := d.snoop.filter fun x => !(x.1 == qp && x.2.1 == cid) }

/-- A keyed fingerprint of a domain (R176), while its key is present. -/
def State.fingerprint (s : State) (dom : Nat) (grain : Bytes) : Option Bytes :=
  (tget s.dge.fpKeys dom).map fun k => hmacSha256 k grain

end Sys2Proof.Machine
end

