-- ==== Sys2Proof/Machine/Dedup.lean ====
section
/-! DEFINITION. Chapter 06, DXU: the Fescue filter (R178 to R180), generations (R181, R188), index entries and references
(R185 to R187), the copy on the other head (R190), and the DEDUP_HORIZON notice (R193). -/

namespace Sys2Proof.Machine

open Sys2Proof

/-! ## The Fescue filter -/

/-- Buckets of a partition (R178). -/
def fescueN (capLog2 : Nat) : Nat := 2 ^ capLog2 / 4

/-- The other bucket of a tag (R178). -/
def fescueOther (n i t : Nat) : Nat := Nat.xor i (t * 0x9E3779B97F4A7C15 % 2 ^ 64 % n)

/-- i1 and t of a fingerprint (R178). -/
def fescueI1 (n : Nat) (fp : Bytes) : Nat := leNat (fp.take 8) % n
def fescueTag (fp : Bytes) : Nat := leNat ((fp.drop 8).take 8) % 65535 + 1

def Domain.slot (d : Domain) (bucket k : Nat) : Nat := tgetD d.slots (4 * bucket + k) 0

/-- Slots of a partition with one slot changed; tag 0 empties it. -/
def slotPut (t : Tbl Nat) (bucket k tag : Nat) : Tbl Nat := if tag = 0 then tdel t (4 * bucket + k) else tput t (4 * bucket + k) tag

/-- A slot of a bucket that holds a tag (0: an empty slot). -/
def findSlot (t : Tbl Nat) (bucket tag : Nat) : Option Nat := [0, 1, 2, 3].find? fun k => tgetD t (4 * bucket + k) 0 == tag

/-- A lookup hits when i1 or i2 holds the tag (R179); in LOADING and REBUILDING every lookup does (R183). -/
def Domain.lookup (d : Domain) (fp : Bytes) : Bool :=
  let n := fescueN d.capLog2
  let i1 := fescueI1 n fp
  let t := fescueTag fp
  d.st == .loading || d.st == .rebuilding || (findSlot d.slots i1 t).isSome || (findSlot d.slots (fescueOther n i1 t) t).isSome

/-- A slot write: bucket, slot, tag, kind (R318: 1 insert, 2 move, 3 rollback, 4 drop). -/
abbrev SlotWrite := Nat × Nat × Nat × Nat

/-- Place a tag that must go to bucket `b`; `kind` is 1 for the tag inserted, 2 for a tag moved. At most `fuel` further
moves; the slot that gives way is a free value (R180). Result: slots, writes made (newest first), whether it was placed. -/
def fescuePlace (n : Nat) : Nat → Nat → Tbl Nat → Nat → Nat → Nat → List SlotWrite → Tbl Nat × List SlotWrite × Bool
  | 0, _, t, b, tag, kind, ws =>
    match findSlot t b 0 with
    | some k => (slotPut t b k tag, (b, k, tag, kind) :: ws, true)
    | none => (t, ws, false)
  | fuel + 1, seed, t, b, tag, kind, ws =>
    match findSlot t b 0 with
    | some k => (slotPut t b k tag, (b, k, tag, kind) :: ws, true)
    | none =>
      let k := (Config.freeValue 2 seed).toNat
      let out := tgetD t (4 * b + k) 0
      fescuePlace n fuel (seed + 1) (slotPut t b k tag) (fescueOther n b out) out 2 ((b, k, tag, kind) :: ws)

/-- Insert a tag (R180): an empty slot of i1 or i2, else moves, at most 512; without success every move is reversed.
Result: slots, slot writes oldest first (a rollback's among them), success, free values used. -/
def fescueInsert (n seed : Nat) (t : Tbl Nat) (i1 tag : Nat) : Tbl Nat × List SlotWrite × Bool × Nat :=
  let i2 := fescueOther n i1 tag
  match findSlot t i1 0 with
  | some k => (slotPut t i1 k tag, [(i1, k, tag, 1)], true, 0)
  | none =>
    match findSlot t i2 0 with
    | some k => (slotPut t i2 k tag, [(i2, k, tag, 1)], true, 0)
    | none =>
      let b := if (Config.freeValue 1 seed).toNat = 0 then i1 else i2
      match fescuePlace n 512 (seed + 1) t b tag 1 [] with
      | (t', ws, true) => (t', ws.reverse, true, ws.length + 1)
      | (_, ws, false) => (t, ws.reverse ++ ws.map fun w => (w.1, w.2.1, tgetD t (4 * w.1 + w.2.1) 0, 3), false, ws.length + 1)

/-- Clear one slot that holds a tag in i1 or i2 (R181). -/
def fescueClear (n : Nat) (t : Tbl Nat) (i1 tag : Nat) : Tbl Nat × List SlotWrite :=
  match findSlot t i1 tag with
  | some k => (slotPut t i1 k 0, [(i1, k, 0, 4)])
  | none =>
    let i2 := fescueOther n i1 tag
    match findSlot t i2 tag with
    | some k => (slotPut t i2 k 0, [(i2, k, 0, 4)])
    | none => (t, [])

/-! ## Domains -/

def State.modDomain (s : State) (n : Nat) (f : Domain → Domain) : State := s.modDxu fun d => { d with doms := tmod d.doms n f }

/-- Grains of a generation: G (R181). -/
def Domain.g (d : Domain) : Nat := 2 ^ d.capLog2 / 8

/-- Live generations (DXU_DOM_n_STAT.LIVE_GENS). -/
def Domain.live (d : Domain) : Nat := d.curGen + 1 - d.oldGen

/-- Occupancy of a partition in permille. -/
def Domain.occupancy (d : Domain) : Nat := d.slots.length * 1000 / 2 ^ d.capLog2

/-- The DEDUP_HORIZON notice (R193). -/
def State.domNotice (s : State) (n cause : Nat) : State :=
  match tget s.dxu.doms n with
  | none => s
  | some d =>
    s.notifyGranted (fun _ v => v.domain == some n) 9 (leBytes 2 n ++ leBytes 1 cause ++ leBytes 1 (domStNum d.st) ++
      leBytes 8 d.unique ++ leBytes 8 (d.oldGen * d.g) ++ leBytes 8 d.failed ++ leBytes 4 d.drops)

/-- A domain changes state: event 0x1001 with its cause and the notice (R193). -/
def State.setDomain (s : State) (n : Nat) (st : DomSt) (cause : Nat) : State :=
  match tget s.dxu.doms n with
  | none => s
  | some d =>
    if d.st = st then s
    else ((s.event 0x1001 n n (domStNum d.st) (domStNum st) cause).modDomain n fun d => { d with st := st, since := s.dt }).domNotice n 3

/-- Send slot writes to the peer with the insert sequence; without an ACTIVE peer lane at most 65,536 are queued, and
beyond that the peer's copy is out of date (R190). -/
def State.sendSlots (s : State) (n : Nat) : List SlotWrite → State
  | [] => s
  | w :: ws =>
    match tget s.dxu.doms n with
    | none => s
    | some d =>
      let q := d.iseq + 1
      let s' :=
        if s.portUp .peer ∧ d.unsent = [] then
          (s.modDomain n fun d => { d with iseq := q }).toPeer (.filterSlot n w.1 w.2.1 w.2.2.1 w.2.2.2 q)
        else if d.unsent.length < 65536 ∧ !d.peerStale then
          s.modDomain n fun d => { d with iseq := q, unsent := d.unsent ++ [(w.1, w.2.1, w.2.2.1, w.2.2.2, q)] }
        else
          (if d.peerStale then s else s.event 0x1001 n n (domStNum d.st) (domStNum d.st) 4).modDomain n fun d =>
            { d with iseq := q, unsent := [], peerStale := true }
      s'.sendSlots n ws

/-- The queued slot writes leave when a peer lane is ACTIVE again (R190). -/
def State.flushSlots (s : State) : State :=
  s.dxu.doms.foldl (fun s p =>
    let s := p.2.unsent.foldl (fun s w => s.toPeer (.filterSlot p.1 w.1 w.2.1 w.2.2.1 w.2.2.2.1 w.2.2.2.2)) s
    s.modDomain p.1 fun d => { d with unsent := [] }) s

/-- A failed insert is counted (R180, R182): in the domain and in its 1 s window. -/
def Domain.countFailed (d : Domain) (dt cause : Nat) : Domain :=
  { d with failed := bump 32 d.failed, winFailed := if d.win = secOf dt then d.winFailed + 1 else 1, win := secOf dt, winCause := cause }

/-- The oldest generation is dropped (R181, R188): its tags go, its entries with REFS 1 go and their grains become
unshared; event 0x1002 and the notice. -/
def State.dropGeneration (s : State) (n : Nat) : State :=
  match tget s.dxu.doms n with
  | none => s
  | some d =>
    let gen := d.oldGen
    let nb := fescueN d.capLog2
    let old := d.log.filter fun e => e.1 == gen
    let r := old.foldl (fun (a : Tbl Nat × List SlotWrite) e =>
      let c := fescueClear nb a.1 e.2.1 e.2.2
      (c.1, a.2 ++ c.2)) (d.slots, [])
    let gone := d.idx.filter fun e => e.gen == gen && e.refs == 1
    let s := s.modDomain n fun d => { d with
      slots := r.1
      log := d.log.filter fun e => e.1 != gen
      idx := d.idx.filter fun e => !(e.gen == gen && e.refs == 1)
      oldGen := gen + 1
      drops := d.drops + 1 }
    let s := s.modFtu fun f => { f with pages := f.pages.map fun p =>
      { p with entries := p.entries.map fun x =>
          (x.1, if gone.any fun e => isMapped x.2 && samePlace e.loc x.2 then { x.2 with shared := false } else x.2) } }
    ((s.event 0x1002 n n gen r.2.length 0).sendSlots n r.2).domNotice n 1

/-- One more unique grain: U + 1, and at a multiple of G the next generation opens, dropping the oldest of eight (R181). -/
def State.countUnique (s : State) (n : Nat) : State :=
  let s := s.modDomain n fun d => { d with unique := d.unique + 1 }
  match tget s.dxu.doms n with
  | none => s
  | some d =>
    if d.g = 0 ∨ d.unique % d.g ≠ 0 then s
    else
      let s := if d.live ≥ 8 then s.dropGeneration n else s
      s.modDomain n fun d => { d with curGen := d.unique / d.g }

/-- Store a grain as unique (R186 step 7): tag, entry with REFS 1 and log entry, unless `noInsert` (a disagreement at step
6), the partition or the page is full; U + 1 in every case. -/
def State.dxuInsert (s : State) (n : Nat) (fp : Bytes) (loc : MapEntry) (serial : Nat) (ocrc : Word) (noInsert : Bool) : State :=
  match tget s.dxu.doms n with
  | none => s
  | some d =>
    let nb := fescueN d.capLog2
    let i1 := fescueI1 nb fp
    let tag := fescueTag fp
    let page := i1 / 8
    if noInsert then (s.modDomain n fun d => d.countFailed s.dt 3).countUnique n
    else if d.lostPages.contains page then (s.modDomain n fun d => d.countFailed s.dt 2).countUnique n
    else
      let r := fescueInsert nb s.fresh d.slots i1 tag
      let s := s.setFresh (s.fresh + r.2.2.2)
      if !r.2.2.1 then (((s.modDomain n fun d => d.countFailed s.dt 1).sendSlots n r.2.1).countUnique n)
      else if (d.idx.filter fun e => e.i1 / 8 == page).length ≥ 63 then
        let back := r.2.1.reverse.map fun w => (w.1, w.2.1, tgetD d.slots (4 * w.1 + w.2.1) 0, 3)
        ((s.modDomain n fun d => d.countFailed s.dt 2).sendSlots n (r.2.1 ++ back)).countUnique n
      else
        let e : IdxEntry := { fp := fp, loc := loc, serial := serial, refs := 1, gen := d.curGen, ocrc := ocrc, i1 := i1, tag := tag }
        let s := s.modDomain n fun d => { d with slots := r.1, log := d.log ++ [(d.curGen, i1, tag)], idx := e :: d.idx }
        (s.sendSlots n r.2.1).countUnique n

/-- A reference is taken on the stored grain of an entry (R186 step 6). -/
def State.takeRef (s : State) (n : Nat) (x : IdxEntry) : State :=
  s.modDomain n fun d => { d with hits := d.hits + 1
                                  idx := d.idx.map fun e => if e.fp == x.fp && samePlace e.loc x.loc then { e with refs := e.refs + 1 } else e }

/-- A map entry that named a place is gone: the reference is released, and at 0 the entry is cleared (R187). -/
def State.dropRef (s : State) (old : MapEntry) : State :=
  if !isMapped old then s
  else
    let one (e : IdxEntry) : Option IdxEntry :=
      if samePlace e.loc old then (if e.refs ≤ 1 then none else some { e with refs := e.refs - 1 }) else some e
    s.modDxu fun x => { x with doms := x.doms.map fun p => (p.1, { p.2 with idx := p.2.idx.filterMap one }) }

/-- Step 5 of R186: the equal entry of the newest generation. -/
def Domain.find (d : Domain) (fp : Bytes) : Option IdxEntry :=
  (d.idx.filter fun e => e.fp == fp && !d.lostPages.contains (e.i1 / 8)).foldl
    (fun (a : Option IdxEntry) e => match a with | some b => if e.gen > b.gen then some e else a | none => some e) none

/-- The outcome of steps 3 to 6 of R186 for a grain. -/
inductive DedupOut where
  | unique (noInsert : Bool)
  | shared (e : IdxEntry)
  deriving DecidableEq, Repr

/-- Steps 3 to 6 of R186. `same` says whether the stored grain's bytes equal the frame's in verify mode (R189). -/
def State.dedup (s : State) (n : Nat) (fp : Bytes) (ocrc : Word) (same : IdxEntry → Bool) : DedupOut × State :=
  match tget s.dxu.doms n with
  | none => (.unique true, s)
  | some d =>
    if !d.lookup fp then (.unique false, s)
    else match d.find fp with
      | none =>
        -- a lost page is no page read: what is then stored as unique counts as failed
        if d.lostPages.contains (fescueI1 (fescueN d.capLog2) fp / 8) then (.unique false, s)
        else (.unique false, s.modDomain n fun d => { d with fpread := bump 32 d.fpread })
      | some e =>
        let page := e.i1 / 8
        let k := (d.idx.filter fun x => x.i1 / 8 == page).findIdx fun x => x.fp == e.fp
        if e.ocrc ≠ ocrc then (.unique true, s.event 0x1005 n n (lo32 page) k 0)
        else if d.verify && !same e then (.unique true, s.event 0x1006 n n (lo32 page) k 0)
        else (.shared e, s)

/-- An index page cannot be read after repair (chapter 06, failures): lost, with its entries; 0x1007 and the notice. -/
def State.loseIndexPage (s : State) (n page : Nat) : State :=
  ((s.event 0x1007 n n (lo32 page) (hi32 page) 1).modDomain n fun d =>
    { d with lostPages := page :: d.lostPages, idx := d.idx.filter fun e => e.i1 / 8 != page }).domNotice n 4

/-- Refill a partition from the logs of its live generations (R183, R191). -/
def refill (n : Nat) (log : List (Nat × Nat × Nat)) (seed : Nat) : Tbl Nat × Nat :=
  log.foldl (fun (a : Tbl Nat × Nat) e =>
    let r := fescueInsert n a.2 a.1 e.2.1 e.2.2
    (r.1, a.2 + r.2.2.2)) ([], seed)

/-- A slot write of the owner arrives (R190): applied in order; a gap makes the copy out of date (R183). -/
def State.applySlot (s : State) (n bucket slot tag iseq : Nat) : State :=
  match tget s.dxu.doms n with
  | none => s
  | some d =>
    if s.ownsGroup d.group ∨ iseq ≤ d.iseq then s
    else if iseq = d.iseq + 1 then s.modDomain n fun d => { d with slots := slotPut d.slots bucket slot tag, iseq := iseq }
    else (s.modDomain n fun d => { d with iseq := iseq }).setDomain n .rebuilding 4

/-- A consumer reads a compare word that is neither 0xA55A, 0x5AA5 nor 0x0000 (R174). -/
def State.dxuCompareFault (s : State) (n word : Nat) : State :=
  (s.event 0x1004 n n word 0 0).modDxu fun x => { x with cmpFault := bump 32 x.cmpFault }

/-- What a 1 s window of failed inserts and dropped snoops leaves behind (R193, events 0x1003 and 0x0F02), once it has ended. -/
def State.dedupWindows (s : State) : State :=
  let s := s.dxu.doms.foldl (fun s p =>
    if p.2.winFailed > 0 ∧ p.2.win < secOf s.dt then
      ((s.event 0x1003 p.1 p.1 p.2.winFailed p.2.winCause p.2.occupancy).modDomain p.1 fun d => { d with winFailed := 0 }).domNotice p.1 2
    else s) s
  if s.dge.winDrop > 0 ∧ s.dge.win < secOf s.dt then
    (s.event 0x0F02 0 s.dge.winDrop s.dge.peak 0 0).modDge fun d => { d with winDrop := 0, peak := 0 }
  else s

end Sys2Proof.Machine
end

