-- ==== Sys2Proof/Machine/MilletCode.lean ====
section
/-! DEFINITION. The Millet coding of chapter 07: tokens, the decoder with its checks in the order of R215, the
deterministic encoder of R206, slot classes, and the grain header of R201. -/

namespace Sys2Proof.Machine

open Sys2Proof

/-- Decode errors, in the order of CPE_CTX_n_STAT.ERR (R215). -/
inductive DecErr where
  | illegal | distance | overrun | truncated | check | mismatch | parity
  deriving DecidableEq, Repr

/-- The error's code in CPE_CTX_n_STAT.ERR and in events 0x1101, 0x1103 and 0x1109. -/
def DecErr.code : DecErr → Nat
  | .illegal => 1 | .distance => 2 | .overrun => 3 | .truncated => 4 | .check => 5 | .mismatch => 6 | .parity => 7

/-- The sub-code of status DECODE_ERROR (R85, R215). -/
def DecErr.subCode : DecErr → Nat
  | .check => 5 | e => e.code

/-- What the decoder holds between tokens. `out` starts with the history, of which there are `base` bytes. -/
structure DecSt where
  out : Array Byte
  base : Nat
  last : Option Nat

/-- Copy `n` bytes from `d` bytes back, one at a time (R199). -/
def copyBack : Nat → Nat → Array Byte → Array Byte
  | 0, _, o => o
  | n + 1, d, o => copyBack n d (o.push (o.getD (o.size - d) 0))

/-- A match of length `n` at distance `d`, checked in the order of R215. -/
def decMatch (olen n d : Nat) (st : DecSt) : Except DecErr DecSt :=
  if st.out.size < d then .error .distance
  else if st.out.size - st.base + n > olen then .error .overrun
  else .ok { st with out := copyBack n d st.out, last := some d }

/-- One token: what is left of the coded bytes and the new state; `none` at END. -/
def decToken (dict : Option Nat) (first : Bool) (olen : Nat) (bs : Bytes) (st : DecSt) :
    Except DecErr (Option (Bytes × DecSt)) :=
  match bs with
  | lo :: hi :: rest =>
    let w := lo.toNat + 256 * hi.toNat
    match w / 16384 with
    | 0 =>
      let n := w % 16384 + 1
      let fillBad := n % 2 == 1 && rest.getD n 0 != 0
      if fillBad then .error .illegal
      else if st.out.size - st.base + n > olen then .error .overrun
      else if rest.length < n + n % 2 then .error .truncated
      else .ok (some (rest.drop (n + n % 2), { st with out := st.out ++ (rest.take n).toArray }))
    | 1 => do
      let st ← decMatch olen (bits w 13 11 + 3) (bits w 10 0 + 1) st
      .ok (some (rest, st))
    | 2 =>
      match rest with
      | dl :: dh :: rest =>
        let d := dl.toNat + 256 * dh.toNat
        if d = 0 then .error .illegal else do
          let st ← decMatch olen (w % 16384 + 3) d st
          .ok (some (rest, st))
      | _ => .error .truncated
    | _ =>
      match bits w 13 12 with
      | 0 => if bits w 11 0 ≠ 0 then .error .illegal
        else if st.out.size - st.base < olen then .error .truncated
        else if rest ≠ [] then .error .illegal
        else .ok none
      | 1 => if bits w 11 8 = 0 ∧ first = true ∧ dict = some (bits w 7 0) then .ok (some (rest, st)) else .error .illegal
      | 2 =>
        match st.last with
        | none => .error .illegal
        | some d => do
          let st ← decMatch olen (bits w 11 0 + 3) d st
          .ok (some (rest, st))
      | _ => .error .illegal
  | _ => .error .truncated

/-- All tokens; `fuel` bounds their number by the coded length. -/
def decTokens (dict : Option Nat) (olen : Nat) : Nat → Bool → Bytes → DecSt → Except DecErr DecSt
  | 0, _, _, _ => .error .truncated
  | n + 1, first, bs, st =>
    match decToken dict first olen bs st with
    | .error e => .error e
    | .ok none => .ok st
    | .ok (some (rest, st)) => decTokens dict olen n false rest st

/-- Decode a coded payload over `hist` (R198 to R203): the original bytes and the last distance. -/
def milletDecode (hist : Bytes) (dict : Option Nat) (last : Option Nat) (olen : Nat) (coded : Bytes) :
    Except DecErr (Bytes × Option Nat) :=
  match decTokens dict olen (coded.length + 1) true coded ⟨hist.toArray, hist.length, last⟩ with
  | .error e => .error e
  | .ok st => .ok ((st.out.toList.drop hist.length), st.last)

/-! ## Header -/

def hdrRaw (h : GrainHdr) : Bool := h.flags.getLsbD 0
def hdrStream (h : GrainHdr) : Bool := h.flags.getLsbD 1
def hdrDict (h : GrainHdr) : Bool := h.flags.getLsbD 2
def hdrSlots (h : GrainHdr) : Nat := bits h.flags.toNat 4 3 + 1
def hdrClen (h : GrainHdr) : Nat := h.clenM1.toNat + 1
def hdrOlen (h : GrainHdr) : Nat := h.olenM1.toNat + 1

/-- Bytes 0 to 27 of a grain header (R201). -/
def hdrBytes (h : GrainHdr) : Bytes :=
  h.magic :: h.version :: h.flags :: h.dictId :: leBytes 2 h.clenM1.toNat ++ leBytes 2 h.olenM1.toNat ++
    leBytes 8 h.serial.toNat ++ leBytes 4 h.ocrc.toNat ++ leBytes 4 h.bseq.toNat ++ leBytes 4 h.rsv.toNat

/-- A well-formed header (R202). -/
def hdrWellFormed (h : GrainHdr) : Bool :=
  h.magic == 0x4D && h.version == 0x07 && bits h.flags.toNat 7 5 == 0 && h.rsv == 0 &&
  if hdrStream h then
    !hdrDict h && bits h.flags.toNat 4 3 == 0 && (if hdrRaw h then hdrClen h == hdrOlen h else hdrClen h < hdrOlen h)
  else
    hdrOlen h == 8192 && h.bseq == 0 &&
    (if hdrRaw h then hdrSlots h == 4 && hdrClen h == 8192 && !hdrDict h
     else hdrSlots h == ceilDiv (hdrClen h) 2048 && hdrSlots h ≤ 3)

/-- The checks of R215 on a stored grain or a stream block, in their order. `data` holds the slots' bytes. -/
def decodeChecked (hist : Bytes) (last : Option Nat) (h : GrainHdr) (data : Bytes) : Except DecErr (Bytes × Option Nat) :=
  let coded := data.take (hdrClen h)
  if crc32c (hdrBytes h ++ coded) ≠ h.hcrc then .error .check
  else if !hdrWellFormed h then .error .illegal
  else
    match (if hdrRaw h then .ok (coded, last)
           else milletDecode hist (if hdrDict h then some h.dictId.toNat else none) last (hdrOlen h) coded) with
    | .error e => .error e
    | .ok (out, last) => if crc32c out = h.ocrc then .ok (out, last) else .error .mismatch

/-! ## Encoder (R206) -/

/-- Length of the match between position `p` and the earlier position `q`, at most `n` bytes. -/
def matchLen (a : Array Byte) (p q : Nat) : Nat → Nat → Nat
  | 0, k => k
  | n + 1, k => if a.getD (p + k) 0 = a.getD (q + k) 0 then matchLen a p q n (k + 1) else k

/-- The best match at `p`: length and distance. It looks back from `q`, at up to `left` earlier positions that begin with
the same four bytes, nearest first. A tie keeps the shorter distance. -/
def findMatch (a : Array Byte) (p left : Nat) (best : Nat × Nat) : Nat → Nat × Nat
  | 0 => best
  | q + 1 =>
    if left = 0 then best
    else if p - q > 65535 then best
    else
      let n := matchLen a p q (a.size - p) 0
      if n < 4 then findMatch a p left best q
      else findMatch a p (left - 1) (if n > best.1 then (n, p - q) else best) q

def bestMatch (a : Array Byte) (p : Nat) : Nat × Nat := findMatch a p 16 (0, 0) p

def word16 (w : Nat) : Bytes := leBytes 2 w

/-- Literal runs of at most 16,384 bytes, each with its fill byte. -/
def encLiterals : Nat → Bytes → Bytes
  | 0, _ => []
  | f + 1, bs =>
    if bs.isEmpty then []
    else
      let r := bs.take 16384
      word16 (r.length - 1) ++ r ++ (if r.length % 2 = 1 then [0] else []) ++ encLiterals f (bs.drop 16384)

/-- REPEAT tokens for the part of a match beyond one long match. -/
def encRepeats : Nat → Nat → Bytes
  | 0, _ => []
  | f + 1, n =>
    if n < 3 then []
    else
      let k := if n ≤ 4098 then n else if n - 4098 < 3 then n - 3 else 4098
      word16 (0xE000 + (k - 3)) ++ encRepeats f (n - k)

/-- One match (R206). -/
def encMatch (last : Option Nat) (n d : Nat) : Bytes :=
  if last = some d ∧ n ≤ 4098 then word16 (0xE000 + (n - 3))
  else if n ≤ 10 ∧ d ≤ 2048 then word16 (0x4000 + (n - 3) * 2048 + (d - 1))
  else
    let k := if n ≤ 16386 then n else if n - 16386 < 3 then n - 3 else 16386
    word16 (0x8000 + (k - 3)) ++ word16 d ++ encRepeats n (n - k)

/-- The tokens from position `p`; `lits` are the literal bytes pending, newest first. -/
def encFrom (a : Array Byte) : Nat → Nat → Bytes → Option Nat → Bytes × Option Nat
  | 0, _, lits, last => (encLiterals lits.length lits.reverse, last)
  | f + 1, p, lits, last =>
    if p ≥ a.size then (encLiterals lits.length lits.reverse, last)
    else
      let m := bestMatch a p
      if m.1 < 4 ∨ (bestMatch a (p + 1)).1 > m.1 then encFrom a f (p + 1) (a.getD p 0 :: lits) last
      else
        let r := encFrom a f (p + m.1) [] (some m.2)
        (encLiterals lits.length lits.reverse ++ encMatch last m.1 m.2 ++ r.1, r.2)

/-- The coded bytes of `data` over a history, with the last distance (R206); `dict` names the preset dictionary. -/
def milletEncode (hist : Bytes) (dict : Option Nat) (last : Option Nat) (data : Bytes) : Bytes × Option Nat :=
  let a := (hist ++ data).toArray
  let r := encFrom a (data.length + 1) hist.length [] last
  ((match dict with | none => [] | some i => word16 (0xD000 + i)) ++ r.1 ++ word16 0xC000, r.2)

/-- Slot class of a grain: its coded bytes, and whether it is raw (R207). -/
def storeForm (hist : Bytes) (dict : Option Nat) (data : Bytes) (forceRaw : Bool) : Bytes × Bool :=
  let c := (milletEncode hist dict none data).1
  if forceRaw ∨ c.length > 6144 then (data, true) else (c, false)

/-- The header of a stored grain (R201). -/
def storeHdr (coded : Bytes) (raw : Bool) (dict : Option Nat) (serial : Nat) (ocrc : Word) : GrainHdr :=
  let slots := if raw then 4 else ceilDiv coded.length 2048
  let d := if raw then none else dict
  let h : GrainHdr :=
    { magic := 0x4D, version := 0x07,
      flags := BitVec.ofNat 8 (bit raw + 4 * bit d.isSome + 8 * (slots - 1)),
      dictId := BitVec.ofNat 8 (d.getD 0), clenM1 := BitVec.ofNat 16 (coded.length - 1), olenM1 := 8191,
      serial := BitVec.ofNat 64 serial, ocrc := ocrc, bseq := 0, rsv := 0, hcrc := 0 }
  { h with hcrc := crc32c (hdrBytes h ++ coded) }

/-- The header and payload of a stream block (R211). -/
def streamHdr (coded : Bytes) (raw : Bool) (olen : Nat) (sid bseq : Nat) (ocrc : Word) : GrainHdr :=
  let h : GrainHdr :=
    { magic := 0x4D, version := 0x07, flags := BitVec.ofNat 8 (bit raw + 2), dictId := 0,
      clenM1 := BitVec.ofNat 16 (coded.length - 1), olenM1 := BitVec.ofNat 16 (olen - 1),
      serial := BitVec.ofNat 64 sid, ocrc := ocrc, bseq := BitVec.ofNat 32 bseq, rsv := 0, hcrc := 0 }
  { h with hcrc := crc32c (hdrBytes h ++ coded) }

/-- Slots of a stored grain, with zero fill to the end of the last slot (R202). -/
def slotFill (coded : Bytes) : Bytes :=
  coded ++ List.replicate (ceilDiv coded.length 2048 * 2048 - coded.length) 0

end Sys2Proof.Machine
end

