-- ==== Sys2Proof/Machine/Place.lean ====
section
/-! DEFINITION. Where stored data lies: die groups and rows (R221 to R224), the cells of a stripe (R268), erased cells and
remaps (R276, R277), keys (R406, R408) and the grain header as bytes (R201). -/

namespace Sys2Proof.Machine

open Sys2Proof

/-! ## Die groups and rows -/

/-- The dies of one half on a module, ascending (R222). -/
def Ftu.moduleDies (f : Ftu) (pos : Nat) (half : Bool) : List Nat :=
  (f.dies.filter fun d => d.1 / 256 == pos && d.2.half == half && d.2.st != .absent).map (·.1)

/-- The dies of a die group; empty when it lacks a die (R222). -/
def Ftu.groupDies (f : Ftu) (pos : Nat) (half : Bool) (g : Nat) : List Nat :=
  let ds := ((f.moduleDies pos half).drop (16 * g)).take 16
  if ds.length = 16 then ds else []

/-- The die group of a die and its position in it. -/
def Ftu.placeOf (f : Ftu) (die : Nat) : Option (Nat × Nat) :=
  let i := (f.moduleDies (die / 256) (f.die die).half).findIdx (· == die)
  if f.groupDies (die / 256) (f.die die).half (i / 16) = [] then none else some (i / 16, i % 16)

/-- A block of a die is retired, or the die is. -/
def Ftu.dieGone (f : Ftu) (die chunk : Nat) : Bool :=
  (f.die die).st == .retired || (f.die die).st == .absent || (f.die die).retired.contains (chunk / 1024)

/-- The other positions of a chunk's row, retired blocks skipped (R223, R224). -/
def Ftu.rowOthers (f : Ftu) (die chunk : Nat) : List Nat :=
  match f.placeOf die with
  | none => []
  | some (g, _) => (f.groupDies (die / 256) (f.die die).half g).filter fun d => d != die && !f.dieGone d chunk

/-- The XOR position of a row (R223). -/
def xorPos (chunk : Nat) : Nat := chunk % 1024 % 16

/-- The chunk is its row's XOR chunk. -/
def Ftu.isXor (f : Ftu) (die chunk : Nat) : Bool := match f.placeOf die with | some (_, i) => i == xorPos chunk | none => false

/-- A row can repair a chunk: its XOR chunk is written and no other position is gone (R224, R239). -/
def State.rowWhole (s : State) (die chunk : Nat) : Bool :=
  match s.ftu.placeOf die with
  | none => false
  | some (g, _) =>
    let ds := s.ftu.groupDies (die / 256) (s.ftu.die die).half g
    !s.ftu.dieGone (ds.getD (xorPos chunk) 0) chunk &&
    !s.ftu.rows.any fun r => r.pos == die / 256 && r.group == g && r.block == chunk / 1024 && r.row == chunk % 1024

/-! ## Members and stripes -/

def State.memberSt (s : State) (pos : Nat) : MemberSt :=
  match tget s.pxe.members pos with | some m => m.st | none => .undeclared

/-- A remap entry of a home cell (R277). -/
def State.remapOf (s : State) (die chunk : Nat) : Option (Nat × Nat × Nat) :=
  (s.pxe.remaps.find? fun r => r.1 == die && r.2.1 == chunk).map fun r => r.2.2

/-- Where a cell's chunk is read: its home, or the target of a REMAPPED entry. -/
def State.whereIs (s : State) (die chunk : Nat) : Nat × Nat :=
  match s.remapOf die chunk with | some (1, d, c) => (d, c) | _ => (die, chunk)

/-- A cell is erased as a whole (R276). -/
def State.erased (s : State) (die chunk : Nat) : Bool :=
  match s.remapOf die chunk with
  | some (1, d, c) => s.ftu.dieGone d c || s.memberSt (d / 256) != .present
  | some _ => true
  | none => s.ftu.dieGone die chunk || s.memberSt (die / 256) == .absent || s.memberSt (die / 256) == .lost

/-- The segment a cell lies in. -/
def State.segmentAt (s : State) (die chunk : Nat) : Option Segment :=
  match s.ftu.placeOf die with
  | none => none
  | some (g, _) => s.ftu.segs.find? fun x => x.headB == (s.ftu.die die).half && x.group == g && x.block == chunk / 1024 &&
      s.diePool die == some x.pool

/-- The module list of a generation. -/
def Layout.list (l : Layout) (lgen : Nat) : List Nat := ((l.gens.find? fun g => g.1 == lgen).map (·.2)).getD []

/-- The newest generation. -/
def Layout.newest (l : Layout) : Nat × List Nat := (l.gens.getLast?).getD (0, [])

/-- The cell of a member of a stripe of a segment: die and chunk. -/
def State.memberAt (s : State) (g : Segment) (stripe m : Nat) : Nat × Nat :=
  match tget s.pxe.layouts g.pool with
  | none => (0, 0)
  | some l =>
    let c := memberCell l g.lgen (l.list g.lgen) g.seq stripe m
    let row := c.2 / 15
    let j := c.2 % 15
    let dpos := if j < row % 16 then j else j + 1
    ((s.ftu.groupDies c.1 g.headB g.group).getD dpos 0, g.block * 1024 + row)

/-- The stripe and member a cell belongs to. -/
def State.stripeAt (s : State) (die chunk : Nat) : Option (Segment × Nat × Nat) :=
  match s.segmentAt die chunk, s.ftu.placeOf die with
  | some g, some (_, i) =>
    match tget s.pxe.layouts g.pool with
    | none => none
    | some l =>
      let row := chunk % 1024
      if i = row % 16 then none
      else
        let j := if i < row % 16 then i else i - 1
        let ms := l.list g.lgen
        let c := cellOf l g.lgen ms g.seq (15 * row + j) (ms.findIdx (· == die / 256))
        some (g, c.1, c.2)
  | _, _ => none

/-- All members of a cell's stripe: member, die, chunk. -/
def State.stripeMembers (s : State) (die chunk : Nat) : List (Nat × Nat × Nat) :=
  match s.stripeAt die chunk with
  | none => []
  | some (g, stripe, _) =>
    match tget s.pxe.layouts g.pool with
    | none => []
    | some l => (List.range (l.k + 2)).map fun m => let c := s.memberAt g stripe m; (m, c.1, c.2)

/-- Data members of a pool's stripes. -/
def State.poolK (s : State) (pool : Nat) : Nat := match tget s.pxe.layouts pool with | some l => l.k | none => 16

/-! ## Keys and bytes -/

/-- XTS slot of the data key of a volume (R406). -/
def State.dataSlot (s : State) (v : Nat) : Nat :=
  match s.cfg.volume v with
  | none => 4128
  | some r => match r.domain with | some d => d | none => 4096 + r.pool

def metaSlot (pool : Nat) : Nat := 4112 + pool
def vaultSlot : Nat := 4128

/-- A grain header from its 32 bytes (R201). -/
def hdrOf (b : Bytes) : GrainHdr :=
  let n (o l : Nat) := leNat ((b.drop o).take l)
  { magic := BitVec.ofNat 8 (n 0 1), version := BitVec.ofNat 8 (n 1 1), flags := BitVec.ofNat 8 (n 2 1), dictId := BitVec.ofNat 8 (n 3 1),
    clenM1 := BitVec.ofNat 16 (n 4 2), olenM1 := BitVec.ofNat 16 (n 6 2), serial := BitVec.ofNat 64 (n 8 8),
    ocrc := BitVec.ofNat 32 (n 16 4), bseq := BitVec.ofNat 32 (n 20 4), rsv := BitVec.ofNat 32 (n 24 4), hcrc := BitVec.ofNat 32 (n 28 4) }

/-- The header as its 32 bytes. -/
def hdrAll (h : GrainHdr) : Bytes := hdrBytes h ++ leBytes 4 h.hcrc.toNat

/-- The stored grain of a volume as read: header and slots (log entry 22); decrypted under the volume's data key with the
grain serial as tweak (R408). Nothing without the key. -/
def State.openGrain (s : State) (v : Nat) (data : Bytes) : Option (GrainHdr × Bytes) :=
  let h := hdrOf data
  (tget s.xts.keys (s.dataSlot v)).map fun k => (h, xtsCrypt false k h.serial.toNat (data.drop 32))

/-- The dictionary that a header names, in a pool's store (R203, R204). -/
def State.dictFor (s : State) (pool : Nat) (h : GrainHdr) : Bytes :=
  if hdrDict h then tgetD s.cpe.dicts (256 * pool + h.dictId.toNat) [] else []

/-- The checks of R215 on a stored grain of a volume. -/
def State.decodeGrain (s : State) (v : Nat) (h : GrainHdr) (data : Bytes) : Except DecErr Bytes :=
  let pool := match s.cfg.volume v with | some r => r.pool | none => 0
  (decodeChecked (s.dictFor pool h) none h data).map (·.1)

def zeroSector : Bytes := List.replicate 4096 0

/-- The two sectors of a grain's 8,192 bytes. -/
def sectorsOf (g : Bytes) : List Bytes := [g.take 4096, g.drop 4096]

end Sys2Proof.Machine
end

