-- ==== Sys2Proof/Machine/Frames.lean ====
section
/-! DEFINITION. Chapter 05, frames: what the write cache holds of a grain, filling, committing, freeing and adopting frames
(R134 to R138, R143, R146, R170). -/

namespace Sys2Proof.Machine

open Sys2Proof

/-- The newest frame of a grain (R136). -/
def Wc.newest (w : Wc) (vol grain : Nat) : Option (Nat × Frame) :=
  (w.frames.filter fun f => f.2.desc.vol == vol && f.2.desc.grain == grain).foldl
    (fun (a : Option (Nat × Frame)) f => match a with
      | some b => if f.2.desc.gen > b.2.desc.gen then some f else a
      | none => some f) none

/-- A committed sector of a grain: of the frames that satisfy a condition, the newest that holds it (R136, R295). -/
def Wc.sector (w : Wc) (ok : Desc → Bool) (vol grain k : Nat) : Option Bytes :=
  ((w.frames.filter fun f => f.2.desc.vol == vol && f.2.desc.grain == grain && f.2.desc.committed.getLsbD k && ok f.2.desc).foldl
    (fun (a : Option Frame) f => match a with
      | some b => if f.2.desc.gen > b.desc.gen then some f.2 else a
      | none => some f.2) none).map fun f => f.data.getD k zeroSector

/-- A committed sector of a grain of a volume as of volume epoch `e`, as the write cache holds it: a view and a clone fall
through to their source (R295, R297, R298). -/
def State.sectorAt (s : State) (k : Nat) : Nat → Nat → Nat → Nat → Option Bytes
  | 0, _, _, _ => none
  | n + 1, v, grain, e =>
    let own := s.wc.sector (fun d => decide (s.veUnder v d.cepoch ≤ e)) v grain k
    match s.cfg.volume v with
    | none => own
    | some r =>
      let up := match s.snap.find r.source r.snap with | some x => s.sectorAt k n r.source grain x.e | none => none
      if r.kind = 2 then up
      else match own with
        | some b => some b
        | none => if r.kind = 3 ∧ (s.ftu.pageAt v (grain / 512) e).isNone then up else none

/-- A committed sector of a grain as it stands now. -/
def State.cached (s : State) (v grain k : Nat) : Option Bytes := s.sectorAt k 18 v grain (s.ve v)

/-- Grain and sector-in-grain of each sector of a range: offset in command, grain, sector. -/
def rangeSectors (lba n : Nat) : List (Nat × Nat × Nat) := (List.range n).map fun i => (i, (lba + i) / 2, (lba + i) % 2)

/-- Grains of a range, ascending. -/
def rangeGrains (lba n : Nat) : List Nat := if n = 0 then [] else (List.range ((lba + n - 1) / 2 - lba / 2 + 1)).map (· + lba / 2)

/-- The lowest frame index that is FREE. -/
def Wc.freeIndex (w : Wc) : Nat := ((List.range (w.frames.length + 1)).find? fun i => (tget w.frames i).isNone).getD 0

/-- The descriptor's CRC-32C values from the data (R134). -/
def Frame.sealed (f : Frame) : Frame :=
  { f with desc := { f.desc with crc0 := crc32c (f.data.getD 0 []), crc1 := crc32c (f.data.getD 1 []) } }

/-- A command of a volume epoch joins a frame: it is FILLING or DIRTY and has the same volume epoch (R136, R291). -/
def Frame.joins (f : Frame) (ve : Nat → Nat) (cepoch : Nat) : Bool :=
  f.st != .destaging && ve f.desc.cepoch == ve cepoch

/-- Frames a command needs anew: grains without a frame that it joins (R136, R137). -/
def Wc.needs (w : Wc) (ve : Nat → Nat) (cepoch vol lba n : Nat) : Nat :=
  ((rangeGrains lba n).filter fun g => match w.newest vol g with
    | some (_, f) => !f.joins ve cepoch
    | none => true).length

/-- Take a frame for one grain of an admitted write (R135, R136, R291): its index, its generation and the cache. A new frame
starts from the committed sectors of the one before it that no command is about to change. -/
def Wc.take (w : Wc) (ve : Nat → Nat) (vol grain cepoch : Nat) : Nat × Nat × Wc :=
  let fresh (data : List Bytes) (c : BitVec 2) : Nat × Nat × Wc :=
    let i := w.freeIndex
    let d : Desc := { vol := vol, grain := grain, present := c, committed := c, gen := w.gen + 1, cepoch := cepoch,
                      crc0 := crc32c (data.getD 0 []), crc1 := crc32c (data.getD 1 []) }
    (i, w.gen + 1, { w with gen := w.gen + 1, frames := tput w.frames i { desc := d, st := .filling, data := data } })
  match w.newest vol grain with
  | some (i, f) =>
    if f.joins ve cepoch then (i, f.desc.gen, w)
    else fresh f.data (f.pend.foldl (fun m p => m &&& (3 - BitVec.ofNat 2 (2 ^ p.2.2.1))) f.desc.committed)
  | none => fresh [zeroSector, zeroSector] 0

/-- Take the frames of a command. -/
def Wc.takeAll (w : Wc) (ve : Nat → Nat) (vol cepoch : Nat) : List Nat → List (Nat × Nat) × Wc
  | [] => ([], w)
  | g :: gs =>
    let r := w.take ve vol g cepoch
    let q := r.2.2.takeAll ve vol cepoch gs
    ((r.1, r.2.1) :: q.1, q.2)

/-- Place a command's sectors in its frames, not yet committed. -/
def Wc.place (w : Wc) (vol qp cid lba : Nat) (frames : List (Nat × Nat)) (sectors : List Bytes) : Wc :=
  (rangeSectors lba sectors.length).foldl (fun w x =>
    match frames.find? fun f => match tget w.frames f.1 with
        | some fr => fr.desc.vol == vol && fr.desc.grain == x.2.1
        | none => false with
    | none => w
    | some f => { w with frames := tmod w.frames f.1 fun fr => { fr with
        pend := fr.pend ++ [(qp, cid, x.2.2, sectors.getD x.1 zeroSector)]
        desc := { fr.desc with present := fr.desc.present ||| BitVec.ofNat 2 (2 ^ x.2.2) } } }) w

/-- Commit a command's sectors in one frame in a single step (R17, R170). `unmap`: a ZERO_RANGE that covers the grain. -/
def Frame.commitPart (f : Frame) (dt qp cid cepoch : Nat) (unmap : Bool) (fp : Option Bytes) : Frame :=
  let mine := f.pend.filter fun p => p.1 == qp && p.2.1 == cid
  let f := mine.foldl (fun f p =>
    { f with data := f.data.set p.2.2.1 p.2.2.2
             desc := { f.desc with committed := f.desc.committed ||| BitVec.ofNat 2 (2 ^ p.2.2.1), cepoch := cepoch } }) f
  if mine = [] then f
  else
    ({ f with pend := f.pend.filter fun p => !(p.1 == qp && p.2.1 == cid)
              st := if f.st = .filling then .dirty else f.st
              firstCommit := if f.st = .filling then dt else f.firstCommit
              mirrored := false
              unmap := unmap && mine.length == 2
              fp := fp } : Frame).sealed

/-- Commands that hold a frame: it is not FREE while one does. -/
def Cqe.holdsFrame (c : Cqe) (i : Nat) (qp cid : Nat) : Bool :=
  c.cmds.any fun x => !(x.qp == qp && x.cid == cid) && x.frames.any fun f => f.1 == i

/-- A write that commits nothing gives its frames back (R136): a frame merged into keeps its committed sectors. -/
def State.freeFrames (s : State) (c : Cmd) : State :=
  c.frames.foldl (fun s f =>
    match tget s.wc.frames f.1 with
    | none => s
    | some fr =>
      let keep := fr.pend.filter fun p => !(p.1 == c.qp && p.2.1 == c.cid)
      let left := keep.foldl (fun m p => m ||| BitVec.ofNat 2 (2 ^ p.2.2.1)) fr.desc.committed
      let fr : Frame := { fr with pend := keep, desc := { fr.desc with present := left } }
      if fr.st = .filling ∧ fr.pend = [] ∧ !s.cqe.holdsFrame f.1 c.qp c.cid then s.modWc fun w => { w with frames := tdel w.frames f.1 }
      else s.modWc fun w => { w with frames := tput w.frames f.1 fr }) s

/-- The dirty frames of this head (R137), and the space under the limit L in frames. -/
def Wc.dirty (w : Wc) : Nat := w.frames.length
def Wc.room (w : Wc) : Nat := w.limit * 2 ^ 30 / 8192 - w.frames.length

/-- Adopt a mirror entry as an own DIRTY frame with its generation, as though committed (R143). This head knows no first commit of
it: adopted frames drain before its own, in generation order. -/
def Wc.adopt (w : Wc) (e : Frame) : Wc :=
  let i := w.freeIndex
  let d := { e.desc with committed := e.desc.present }
  { w with frames := tput w.frames i { e with desc := d, st := .dirty, fp := none, pend := [], mirrored := false, stage := 0, commit := none, firstCommit := 0 }
           gen := max w.gen e.desc.gen }

/-- Adopt every live entry of the mirror area, which is then empty (R143). -/
def State.adoptMirror (s : State) : State := s.modWc fun w => { w.mirror.foldl (fun w e => w.adopt e.2) w with mirror := [] }

/-- The mirror state changes: event 0x0A20 (R139). -/
def State.setMirror (s : State) (m : MirrorSt) (cause : Nat) : State :=
  if s.wc.mirrorSt = m then s
  else (s.event 0x0A20 0 (mirrorNum s.wc.mirrorSt) (mirrorNum m) cause 0).modWc fun w => { w with mirrorSt := m }

/-- A mirror acknowledgement is required for a commit (R139). -/
def Wc.needsAck (w : Wc) : Bool := w.mirrorSt != .solo && w.mirrorSt != .resync

end Sys2Proof.Machine
end

