-- ==== Sys2Proof/Machine/Outcome.lean ====
section
/-! DEFINITION. How commands end (R70, R75 to R80, R89, R95, R140, R501) and how sessions and queue pairs end with them. A
command the peer forwarded is kept under queue pair 16384 + its own (log entry 23). -/

namespace Sys2Proof.Machine

open Sys2Proof

/-- Opcodes (R82). -/
def opRead : Nat := 1
def opWrite : Nat := 2
def opFlush : Nat := 3
def opZero : Nat := 4
def opCompare : Nat := 5
def opCaw : Nat := 6
def opVerify : Nat := 7
def opAbort : Nat := 8

/-- CFLAGS bits (R79). -/
def cfDup : BitVec 16 := 8
def cfRetry : BitVec 16 := 32
def cfFwd : BitVec 16 := 4
def cfLate : BitVec 16 := 16

/-- The completion answers a command rejected under R78. -/
def Cmd.isDup (c : Cmd) : Bool := match c.decided with | some k => k.cflags.getLsbD 3 | none => false

/-- The outstanding command that holds a CID. -/
def Cqe.cmd (c : Cqe) (qp cid : Nat) : Option Cmd := c.cmds.find? fun x => x.qp == qp && x.cid == cid && !x.isDup

def State.modCmd (s : State) (qp cid : Nat) (f : Cmd → Cmd) : State :=
  s.modCqe fun c => { c with cmds := c.cmds.map fun x => if x.qp == qp && x.cid == cid && !x.isDup then f x else x }

def State.dropCmd (s : State) (qp cid : Nat) : State :=
  s.modCqe fun c => { c with cmds := c.cmds.filter fun x => !(x.qp == qp && x.cid == cid && !x.isDup) }

/-- A completion of a command with a status (R79). -/
def Cmd.completion (c : Cmd) (status retry cs0 cs1 cs2 : Nat) : Completion :=
  { cid := BitVec.ofNat 16 c.cid, qp := BitVec.ofNat 14 c.qp, status := BitVec.ofNat 16 status,
    cflags := (if retry = 0 then 0 else cfRetry) ||| (if c.late.isSome then cfLate else 0) ||| (if c.fwdAt.isSome then cfFwd else 0),
    exclUs := 0, retryUs := retry, cs0 := BitVec.ofNat 32 cs0, cs1 := BitVec.ofNat 32 cs1, cs2 := BitVec.ofNat 32 cs2,
    cepoch := if c.admitted then c.tag % 2 ^ 32 else 0 }

/-- The CID of a command that ended with nothing committed drains (R89), unless another command holds it. -/
def State.drainCid (s : State) (qp cid : Nat) : State :=
  s.modCqe fun c => { c with drain := if c.drain.contains (qp, cid) then c.drain else (qp, cid) :: c.drain }

/-- Whether completions still go to the adapter of a command (R70): not once its port is lost, and after a silent end only
while the port is ACTIVE. -/
def State.sends (s : State) (c : Cmd) : Bool :=
  match tget s.cqe.sessions c.sess with
  | none => false
  | some x => match x.closing with
    | none => true
    | some 1 => true
    | some 3 => false
    | some _ => s.portUp (hostPort c.port)

/-- The inbound staging entries of a command are released (R376). -/
def State.unstage (s : State) (qp cid : Nat) : State :=
  s.modSlc fun l => { l with staging := l.staging.filter fun x => !(x.1 == qp && x.2.1 == cid) }

/-- What a command holds besides frames: snoop staging, inbound staging, page pins, CPE decodes. -/
def State.letGo (s : State) (c : Cmd) : State :=
  (((s.snoopDrop c.qp c.cid).unstage c.qp c.cid).modFtu
    fun f => { f with pages := f.pages.map fun p => { p with pins := p.pins.filter fun x => x != (c.qp, c.cid) } }).modCpe
    fun p => { p with decodes := p.decodes.filter fun d => !(d.qp == c.qp && d.cid == c.cid) }

/-- The last command of an ended session is resolved (R70): 0x0C03 for each queue pair, 0x0C01, the answer to
SESSION_CLOSE, and the identifier is free. -/
def State.settleSession (s : State) (n : Nat) : State :=
  match tget s.cqe.sessions n with
  | none => s
  | some x =>
    match x.closing with
    | none => s
    | some cause =>
      if s.cqe.cmds.any fun c => c.sess == n && c.fromPeer.isNone then s
      else
        let qps := s.cqe.qps.filter fun q => q.2.sess == n
        let s := qps.foldl (fun s q => s.event 0x0C03 q.1 n q.1 2 q.2.aborted) s
        let s := s.event 0x0C01 n n cause x.terminated x.kept
        let s := match x.closeReq with
          | some r => s.transmit (hostPort x.port) 3 (.answer x.port n 0x8010 r stSuccess [])
          | none => s
        s.modCqe fun c => { c with sessions := tdel c.sessions n, qps := c.qps.filter fun q => q.2.sess != n }

/-- A command's completion is ready for its adapter, or returns to the head that forwarded it (R22); commands of a lost
port just go (R70). -/
def State.deliver (s : State) (c : Cmd) (k : Completion) : State :=
  match c.fromPeer with
  | some _ => (s.dropCmd c.qp c.cid).transmit .peer 2 (.fwdCompletion k)
  | none =>
    if s.sends c then
      (s.modCmd c.qp c.cid fun x => { x with
        decided := some k
        acks := []
        frames := []
        credit := 0
        blockedAt := if x.blockedAt.isNone ∧ s.room (hostPort c.port) 2 = 0 ∧ s.portUp (hostPort c.port) ∧
            (s.link.port (hostPort c.port)).retrain.isNone then some s.dt else x.blockedAt }).modCqe
        fun q => { q with ready := q.ready ++ [(c.port, k)] }
    else (s.dropCmd c.qp c.cid).settleSession c.sess

/-- Answer the ABORTs that waited for a command's outcome: CS0 1 CAUGHT, 2 MISSED (R95). -/
def State.answerAborts (s : State) (ws : List (Nat × Nat)) (outcome : Nat) : State :=
  ws.foldl (fun s w => match s.cqe.cmd w.1 w.2 with
    | some a => s.deliver a (a.completion stSuccess 0 outcome 0 0)
    | none => s) s

/-- A command reaches its outcome: what it held is let go and its completion is ready. -/
def State.finish (s : State) (c : Cmd) (k : Completion) : State :=
  ((s.letGo c).deliver c k).answerAborts c.aborters (if k.status = BitVec.ofNat 16 stAbortedRequest then 1 else 2)

/-- A command ends with nothing committed (R89, R136, R140, R257): frames and credit return, its CID drains, and where a
mirror copy was sent its completion waits for the peer's discard, at most until `by`. -/
def State.endUncommitted (s : State) (c : Cmd) (k : Completion) (untilDt : Nat) : State :=
  let s := (s.letGo c).freeFrames c
  let s := if c.credit = 0 then s else match s.cfg.volume c.vol with
    | some v => s.modFtu fun f => { f with halves := modHalf f.halves v.pool s.glb.headB fun h => { h with credit := h.credit + c.credit } }
    | none => s
  let s := s.drainCid c.qp c.cid
  if c.mirrorSent ∧ c.frames ≠ [] ∧ !c.committed ∧ s.wc.mirrorSt ≠ .solo then
    let s := c.frames.foldl (fun s f => s.toPeer (.discard f.1 f.2)) s
    s.modCmd c.qp c.cid fun x => { x with discards := c.frames, discardBy := untilDt, pendingEnd := some k, frames := [], credit := 0, acks := [] }
  else s.finish { c with credit := 0, frames := [] } k

/-- A command of a session fails before its commit point with a status. -/
def State.failCmd (s : State) (c : Cmd) (status : Nat) : State :=
  s.endUncommitted c (c.completion status 0 0 0 0) (s.dt + 40000)

/-- A command fails or is refused with RETRY_US. -/
def State.failRetry (s : State) (c : Cmd) (status retry : Nat) : State :=
  s.endUncommitted c (c.completion status retry 0 0 0) (s.dt + 40000)

/-- A command is before its commit point and undecided (R95). -/
def Cmd.open_ (c : Cmd) : Bool := c.decided.isNone && !c.committed && c.discards == [] && c.pendingEnd.isNone

/-- Ask the owning head to abort a command forwarded to it (R95, R501). -/
def State.sendAbort (s : State) (c : Cmd) : State :=
  s.transmit .peer 0 (.fwdCommand c.qp opAbort
    { flags := 0, cid := BitVec.ofNat 16 c.cid, vol := 0, lba := 0, nsect := 0, rsv := 0,
      cdw := [BitVec.ofNat 32 c.qp, BitVec.ofNat 32 c.cid] } 0 (s.link.activeLanes (hostPort c.port)) (s.link.port (hostPort c.port)).keyed)

/-- End an open command early with a status: a forwarded one through its owning head (R501), which decides. -/
def State.endEarly (s : State) (c : Cmd) (status : Nat) : State :=
  if !c.open_ then s
  else if c.fwdAt.isSome then (s.sendAbort c).modCmd c.qp c.cid fun x => { x with pendingEnd := some (c.completion status 0 0 0 0) }
  else s.failCmd c status

/-- ABORT of a command by another (R95): the outcome when it is known at once. -/
def State.abortCmd (s : State) (c : Cmd) (aborter : Nat × Nat) : State :=
  match s.cqe.cmd aborter.1 aborter.2 with
  | none => s
  | some a =>
    if c.opc = opAbort then s.deliver a (a.completion stSuccess 0 3 0 0)
    else if c.discards ≠ [] then s.modCmd c.qp c.cid fun x => { x with aborters := aborter :: x.aborters }
    else if !c.open_ then s.deliver a (a.completion stSuccess 0 2 0 0)
    else
      let s := s.modCmd c.qp c.cid fun x => { x with aborters := aborter :: x.aborters }
      s.endUncommitted { c with aborters := aborter :: c.aborters } (c.completion stAbortedRequest 0 0 0 0) (a.start + 40000)

/-! ## Sessions and queue pairs -/

/-- A session ends (R70): every queue pair is being deleted, open commands are terminated, and it is settled once the last
is resolved. Causes: 1 close, 2 silence, 3 port lost, 4 quarantine. -/
def State.endSession (s : State) (n cause : Nat) : State :=
  match tget s.cqe.sessions n with
  | none => s
  | some x =>
    if x.closing.isSome then s
    else
      let mine := s.cqe.cmds.filter fun c => c.sess == n && c.fromPeer.isNone
      let kept := (mine.filter fun c => c.committed).length
      let s := s.modSession n fun x => { x with closing := some cause, notices := [], terminated := (mine.filter Cmd.open_).length, kept := kept }
      let s := s.modCqe fun c => { c with qps := c.qps.map fun q =>
        (q.1, if q.2.sess == n then { q.2 with deleting := some 2, delReqs := [], aborted := q.2.aborted + (mine.filter fun c => c.qp == q.1 && c.open_).length } else q.2) }
      let s := if cause = 3 then
          let ports := mine.filter fun c => c.decided.isSome
          (ports.foldl (fun s c => s.dropCmd c.qp c.cid) s).modCqe fun c => { c with ready := c.ready.filter fun r => !mine.any fun m => r.1 == m.port && r.2.qp.toNat == m.qp && r.2.cid.toNat == m.cid }
        else s
      let s := (mine.filter Cmd.open_).foldl (fun s c => s.endEarly c stAbortedSession) s
      let s := s.modLink fun l => { l with ports := l.ports.map fun p => (p.1, { p.2 with txq := p.2.txq.filter fun t => match t.item with
        | .notice _ m .. => m != n | .answer _ m .. => m != n || cause != 3 | _ => true }) }
      s.settleSession n

/-- The update sessions, stagings and nonces of an ended session end by their own commands. -/
def State.sessionOpen (s : State) (n : Nat) : Bool := match tget s.cqe.sessions n with | some x => x.closing.isNone | none => false

/-! ## Sending completions (R79, R80, R105, R500) -/

/-- The class bound of R102 in ns, by opcode and size; none for class 7. -/
def boundNs (classes : List ClassRow) (cls opc nsect : Nat) : Option Nat :=
  if cls ≥ 7 then none
  else
    let r := classes.getD cls ⟨0, 0, 0⟩
    let base := if opc = opWrite ∨ opc = opZero then r.writeUs else r.readUs
    let b := if opc = opCaw then 8192 else 4096 * nsect
    some (usNs (base + 12 * ceilDiv (b - 8192) 65536))

/-- The class table in force for a configuration epoch tag (R103). -/
def Dsc.tableFor (d : Dsc) (tag : Nat) : List ClassRow :=
  match d.tables.find? fun t => decide (tag < t.1) with | some t => t.2 | none => d.classes

/-- The limit BOUND_MET is judged against (R79, R500); none for class 7. -/
def State.limitOf (s : State) (c : Cmd) (k : Completion) : Option Nat :=
  if c.opc = opFlush then some 20000
  else if c.opc = opAbort then some 50000
  else if c.admitted ∨ (c.fwdAt.isSome ∧ k.cepoch ≠ 0) then boundNs (s.dsc.tableFor (if c.admitted then c.tag else k.cepoch)) c.cls c.opc c.nsect
  else if c.fwdAt.isSome then some 12000
  else some 4000

/-- Round up to whole microseconds. -/
def usUp (ns : Nat) : Nat := ceilDiv ns 1000

/-- The completion entry as transmitted: excluded time and BOUND_MET (R79, R105). Past the data window of a command whose data
has not all arrived, its bound has not begun to run (R88, R105). -/
def State.stampCompletion (s : State) (c : Cmd) (k : Completion) : Completion × Bool × Nat :=
  let excl := c.excl + (match c.blockedAt with | some t => s.dt - t | none => 0)
  let start := c.late.getD (if c.got < c.expect ∧ s.dt ≥ c.window then s.dt else c.start)
  let fin := s.dt - start
  let met := match s.limitOf c k with | some l => decide (fin < l + excl) | none => true
  ({ k with
      exclUs := usUp excl
      cflags := k.cflags ||| (if met then 1 else 0) ||| (if excl > 0 then 2 else 0) }, met,
   match s.limitOf c k with | some l => usUp (fin - (l + excl)) | none => 0)

/-- Its data out still waits on VC1. -/
def State.dataWaits (s : State) (c : Cmd) : Bool :=
  (s.link.port (hostPort c.port)).txq.any fun t => match t.item with | .readData _ q i _ => q == c.qp && i == c.cid | _ => false

/-- The command a ready completion belongs to. -/
def Cqe.owner (c : Cqe) (k : Completion) : Option Cmd := c.cmds.find? fun x => x.decided == some k && x.qp == k.qp.toNat && x.cid == k.cid.toNat

/-- Remove one command by its decided completion. -/
def Cqe.removeOwner (c : Cqe) (k : Completion) : Cqe :=
  { c with cmds := (c.cmds.foldl (fun (a : Bool × List Cmd) x =>
      if !a.1 && x.decided == some k && x.qp == k.qp.toNat && x.cid == k.cid.toNat then (true, a.2) else (a.1, a.2 ++ [x])) (false, [])).2 }

/-- Transmit one completion: its flags, the miss count of its class (R106), its command gone; an ended session is settled
after the flit. -/
def State.sendOne (s : State) (k : Completion) : Completion × State :=
  match s.cqe.owner k with
  | none => (k, s)
  | some c =>
    let r := s.stampCompletion c k
    let s := if c.admitted ∧ c.opc ≠ opAbort ∧ !r.2.1 then
        (s.event 0x0D03 c.qp c.qp c.cid c.cls r.2.2).modDsc fun d => { d with miss := lmod d.miss c.cls (bump 32) }
      else s
    (r.1, s.modCqe fun q => q.removeOwner k)

/-- COMPLETION_TRANSMIT (R80): as many ready completions of the port as there are, up to 7, in one VC2 flit. -/
def execCompletionTransmit (port : Fin 16) (s : State) : Host.Outcome State Fault Refusal :=
  let p := hostPort port.val
  let mine := (s.cqe.ready.filter fun r => r.1 == port.val && !(match s.cqe.owner r.2 with | some c => s.dataWaits c | none => false)).take 7
  if mine = [] then .next s
  else if s.room p 2 = 0 then
    .next (if !s.portUp p ∨ (s.link.port p).retrain.isSome then s
      else s.modCqe fun c => { c with cmds := c.cmds.map fun x =>
        if x.port == port.val && x.decided.isSome && x.blockedAt.isNone then { x with blockedAt := some s.dt } else x })
  else
    let sessions := (mine.filterMap fun x => (s.cqe.owner x.2).map (·.sess)).eraseDups
    let r := mine.foldl (fun (a : List Completion × State) x => let q := a.2.sendOne x.2; (a.1 ++ [q.1], q.2)) ([], s)
    let s := r.2.modCqe fun c => { c with ready := mine.foldl (fun rs x => rs.erase x) c.ready }
    .next (sessions.foldl (fun s n => s.settleSession n) (s.transmit p 2 (.completions port.val r.1)))

/-! ## Discards (R140) -/

/-- DISCARD_ACK: the peer has discarded a copy; with the last of a write's, its completion goes. -/
def State.discardAcked (s : State) (frame gen : Nat) : State :=
  (s.cqe.cmds.filter fun c => c.discards.contains (frame, gen)).foldl (fun s c =>
    let rest := c.discards.filter (· != (frame, gen))
    if rest ≠ [] then s.modCmd c.qp c.cid fun x => { x with discards := rest }
    else match c.pendingEnd with
      | some k => (s.modCmd c.qp c.cid fun x => { x with discards := [], pendingEnd := none }).finish { c with discards := [], pendingEnd := none } k
      | none => s.modCmd c.qp c.cid fun x => { x with discards := [] }) s

/-- DISCARD_ACK_TIMEOUT: the write is treated as possibly committed on the peer: LEASE_TRANSITION with RETRY 1,000, its ABORT
answers MISSED, event 0x0A22. -/
def execDiscardAckTimeout (qp : BitVec 14) (cid : BitVec 16) (s : State) : Host.Outcome State Fault Refusal :=
  let key := match s.cqe.cmd qp.toNat cid.toNat with | some c => if c.discards ≠ [] then qp.toNat else qp.toNat + 16384 | none => qp.toNat + 16384
  match s.cqe.cmd key cid.toNat with
  | none => .next s
  | some c =>
    if c.discards = [] then .next s
    else
      let s := s.advanceTo c.discardBy
      let s := s.event 0x0A22 c.sess c.sess (c.qp % 16384) c.cid 0
      let s := s.modCmd c.qp c.cid fun x => { x with discards := [], pendingEnd := none }
      .next (s.finish { c with discards := [], pendingEnd := none } (c.completion stLease 1000 0 0 0))

end Sys2Proof.Machine
end

