-- ==== Sys2Proof/Machine/Calendar.lean ====
section
/-! DEFINITION. Chapter 04: elements, openings and claims in the die calendars (R107 to R114), path costs (R115, R116) and
frame budgets (R117). Times in ns of DT. -/

namespace Sys2Proof.Machine

open Sys2Proof

/-! ## Costs -/

def costIntake : Nat := 2000
def costFwdHalf : Nat := 4000
def costMapHit : Nat := 1000
def costFtuMap : Nat := 1000
def costPeerMedia : Nat := 8000
def costWcRead : Nat := 1000
def costWc : Nat := 1000
def costCpl : Nat := 1000
def costMirror : Nat := 6000
def costEng (grains : Nat) : Nat := 2000 + 100 * (grains - 1)

/-- Time that flits take on lanes: ceil(flits / L) x 10.2 ns, up to a whole ns (R43). -/
def laneNs (flits lanes : Nat) : Nat := ceilDiv (ceilDiv flits (max 1 lanes) * 102) 10

/-- Transfer of flits over lanes: ceil(flits / L) x 10.2 ns, rounded up to 0.1 us (R115). -/
def costFlits (flits lanes : Nat) : Nat := ceilDiv (ceilDiv flits (max 1 lanes) * 102) 1000 * 100

/-- X(u) of R109: 87.15 ns a unit, rounded up to 0.1 us. -/
def costX (u : Nat) : Nat := ceilDiv (u * 8715) 10000 * 100

/-- E(u, s) and E_in(u, s) of R109 and R113. -/
def costE (d : DieType) (u s : Nat) : Nat := s * tSUSns d + tRns d + costX u + 4000
def costEin (d : DieType) (u s : Nat) : Nat := s * tSUSns d + tRns d + costX (15 * u) + 4000

/-- REPAIR(u) of R113 and LATE of R115. -/
def costRepair (d : DieType) (u : Nat) : Nat := 6000 + costE d u 1 + costEin d u 1 + 2000
def costLate (d : DieType) : Nat := 2 * costE d 4 1

/-- MISS_MIN and WRITE_MIN of R116. -/
def missMin (d : DieType) : Nat :=
  costIntake + 2 * costFwdHalf + (costE d 2 1 + costPeerMedia) + costRepair d 2 + costFtuMap + (costLate d + costPeerMedia) +
    costRepair d 4 + costEng 1 + costFlits 35 1 + costCpl
def writeMin : Nat := costIntake + 2 * costFwdHalf + costFlits 35 1 + costFlits 35 1 + costWc + (costMirror + costFlits 35 1) + costCpl

/-- Data flits of n bytes at capacity P (R43). -/
def dataFlits (bytes p : Nat) : Nat := ceilDiv bytes p

/-! ## The calendar of a die -/

def isOp (k : ResvKind) : Bool := k == .program || k == .erase

def overlaps (a b c d : Nat) : Bool := decide (a < d) && decide (c < b)

/-- Round up to the resolution of 100 ns (R107). -/
def up100 (t : Nat) : Nat := ceilDiv t 100 * 100

/-- Whether an element of a die may stand at `c`: its kind of suspend and its length. No read element, opening, settle or
busy time in the element or its opening; a program or erase under the element has 4 free slots (R110, R112). -/
def elementAt (cal : List Resv) (dt c len0 len1 : Nat) : Option (Nat × Nat) :=
  let s := if cal.any fun r => isOp r.kind && overlaps r.start r.stop c (c + len0) then 1 else 0
  let len := if s = 1 then len1 else len0
  if cal.any (fun r => !isOp r.kind && overlaps r.start r.stop c (c + 2 * len)) then none
  else if cal.any (fun r => isOp r.kind && overlaps r.start r.stop c (c + len) && decide (r.slots < 4)) then none
  else if c + 2 * len > dt + 2560000 then none
  else some (s, len)

def insertNat (x : Nat) : List Nat → List Nat
  | [] => [x]
  | y :: ys => if x ≤ y then x :: y :: ys else y :: insertNat x ys

def sortNat : List Nat → List Nat
  | [] => []
  | x :: xs => insertNat x (sortNat xs)

/-- The earliest place for an element from `t` on that also satisfies `ok` (start and length): start, suspends, length. The
calendar may be that of several dies, which then hold the element together. A start is `t`, an end of a reservation or the
start of a frame. -/
def earliest (cal : List Resv) (dt t len0 len1 : Nat) (ok : Nat → Nat → Bool) : Option (Nat × Nat × Nat) :=
  (t :: sortNat (((cal.map fun r => up100 r.stop) ++ (List.range 128).map fun i => (t / 20000 + 1 + i) * 20000).filter
    fun c => decide (t < c))).findSome? fun c =>
    match elementAt cal dt c len0 len1 with
    | some r => if ok c r.2 then some (c, r.1, r.2) else none
    | none => none

def Dsc.ofDie (d : Dsc) (die : Nat) : List Resv := d.cal.filter fun r => r.die == die

/-- Enter a reservation. -/
def Dsc.enter (d : Dsc) (r : Resv) : Dsc := { d with cal := d.cal ++ [{ r with num := d.nextResv }], nextResv := d.nextResv + 1 }

/-- Take `n` suspend slots of the programs and erases of a die that an interval overlaps (R110). -/
def Dsc.takeSlots (d : Dsc) (die a b n : Nat) : Dsc :=
  { d with cal := d.cal.map fun r => if r.die == die && isOp r.kind && overlaps r.start r.stop a b then { r with slots := r.slots - n } else r }

/-- Reserve a read element and the opening that follows it (R109 to R112). -/
def Dsc.putRead (d : Dsc) (die start s len : Nat) (work : Work) (unit units chunk : Nat) (share : Option Nat) : Dsc :=
  let d := if s = 1 then d.takeSlots die start (start + len) 2 else d
  let d := d.enter { num := 0, die := die, start := start, stop := start + len, kind := .read, work := work, unit := unit,
                     units := units, chunk := chunk, share := share }
  d.enter { num := 0, die := die, start := start + len, stop := start + 2 * len, kind := .opening, issued := true, share := share }

/-- Place a claim on a die (R112): the first unclaimed opening that begins no later than the end of the current element; at
once on an idle die or in a program or erase with a free slot; else, under contention (R114), the earliest time after. -/
def Dsc.putClaim (d : Dsc) (dt die len0 len1 : Nat) (work : Work) (unit units chunk : Nat) : Dsc × Nat :=
  let cal := d.ofDie die
  let busy := cal.filter fun r => !isOp r.kind && decide (r.start ≤ dt) && decide (dt < r.stop)
  let op := cal.find? fun r => isOp r.kind && decide (r.start ≤ dt) && decide (dt < r.stop)
  let put (d : Dsc) (start len : Nat) : Dsc × Nat :=
    (d.enter { num := 0, die := die, start := start, stop := start + len, kind := .claim, work := work, unit := unit, units := units,
               chunk := chunk, issued := false }, start + len)
  let curEnd := busy.foldl (fun m r => max m r.stop) dt
  match (cal.filter fun r => r.kind == .opening && !r.claimed && decide (r.stop > dt) && decide (r.start ≤ curEnd)).head? with
  | some r =>
    let d := { d with cal := d.cal.map fun x => if x.num == r.num then { x with claimed := true } else x }
    put d (max dt r.start) len1
  | none =>
    if busy = [] then
      match op with
      | none => put d dt len0
      | some r => if r.slots ≥ 1 then put (d.takeSlots die dt (dt + len1) 1) dt len1 else put d r.stop len0
    else put d curEnd len1

/-! ## Budgets of frames (R117) -/

def frameOf (t : Nat) : Nat := t / 20000

def Dsc.bud (d : Dsc) (n : Nat) : FrameBud := tgetD d.frames n {}

def Dsc.modBud (d : Dsc) (n : Nat) (f : FrameBud → FrameBud) : Dsc := { d with frames := tput d.frames n (f (d.bud n)) }

/-- Room of a frame for host reads: CPE lane-ns, XTS lane-ns, PXE ns, peer-link bytes (R117, R196, R409). -/
def State.cpeRoom (s : State) (d : Dsc) (n : Nat) : Nat :=
  20000 * s.cpe.lanesOk - (if (d.bud n).heldOpen then 80000 else 400000) - (d.bud n).cpe
def State.xtsRoom (s : State) (d : Dsc) (n : Nat) : Nat :=
  20000 * s.xts.lanesOk - (if (d.bud n).heldOpen then 0 else 153600) - (d.bud n).xts
def Dsc.pxeRoom (d : Dsc) (n : Nat) : Nat := 20000 - (d.bud n).pxe
def State.peerRoom (s : State) (d : Dsc) (n : Nat) : Nat := 470000 * s.link.activeLanes .peer - (d.bud n).peer

def Dsc.charge (d : Dsc) (n cpe xts pxe peer : Nat) : Dsc :=
  d.modBud n fun b => { b with cpe := b.cpe + cpe, xts := b.xts + xts, pxe := b.pxe + pxe, peer := b.peer + peer }

/-- Die time of a pool that host reads and destage hold in a frame (R125): read elements, programs and erases without a
share. -/
def State.hostTime (s : State) (d : Dsc) (pool n : Nat) : Nat :=
  lsum ((d.cal.filter fun r => r.share.isNone && (r.kind == .read || isOp r.kind) && s.diePool r.die == some pool).map fun r =>
    min r.stop (20000 * (n + 1)) - max r.start (20000 * n))

/-- Die time of a pool that the granted shares leave in a frame (R125). -/
def State.hostLimit (s : State) (d : Dsc) (pool n : Nat) : Nat :=
  let shares := match tget d.frames n with | some b => if b.shares = [] then d.shareCur else b.shares | none => d.shareCur
  s.poolDies pool * 20 * (1000 - lsum shares)

/-- An element of host work keeps within the die time that the shares leave, in every frame it covers (R125); nothing new is
reserved on a die that is being given up (R341). -/
def State.hostFits (s : State) (d : Dsc) (die start len : Nat) : Bool :=
  if (s.ftu.die die).leaving then false
  else match s.diePool die with
  | none => true
  | some p => (List.range (len / 20000 + 2)).all fun i =>
      let n := start / 20000 + i
      let part := min (start + len) (20000 * (n + 1)) - max start (20000 * n)
      part == 0 || decide (s.hostTime d p n + part ≤ s.hostLimit d p n)

/-- A die lies in a settle period at a time (R129). -/
def Dsc.settling (d : Dsc) (die t : Nat) : Bool := d.cal.any fun r => r.die == die && r.kind == .settle && decide (t < r.stop)

end Sys2Proof.Machine
end

