-- ==== Sys2Proof/Machine/Admission.lean ====
section
/-! DEFINITION. Chapter 04: choosing a path (R118 to R121), the decision (R122, R258), refusals and their hint (R123, R124). -/

namespace Sys2Proof.Machine

open Sys2Proof

/-! ## Plans -/

/-- What a decision holds so far: the calendars with its tentative reservations, the data-ready time, the causes that speak
against it (R124), and the elements on peer dies that no PEER_GRANT has answered: die, chunk, units, earliest. -/
structure Plan where
  d : Dsc
  ready : Nat
  parts : List Part := []
  fetches : List Fetch := []
  causes : List Nat := []
  late : Nat := 0
  reads : Nat := 0
  /-- map-page reads reserved or shared by this decision: page, ready time -/
  maps : List (Nat × Nat) := []
  wants : List (Nat × Nat × Nat × Nat) := []
  done : Nat := 0

/-- A path that fits a grain: worst-case data ready, path number, start and reads of its element, calendars with it. -/
structure Cand where
  ready : Nat
  path : Nat
  /-- source read: 1 the chunk itself, 2 its row, 3 its stripe -/
  source : Nat
  start : Nat
  reads : Nat
  d : Dsc

def Plan.cause (p : Plan) (c : Nat) : Plan := if p.causes.contains c then p else { p with causes := p.causes ++ [c] }

/-- Lanes and payload capacity of the port that receives a command (R115, R502). -/
def State.cmdPort (s : State) (c : Cmd) : Nat × Nat :=
  match c.fromPeer with
  | some (l, enc) => (max 1 l, if enc then 224 else 240)
  | none => (max 1 (s.link.activeLanes (hostPort c.port)), s.link.payload (hostPort c.port))

/-- Data flits a command declares (R43, R89). -/
def expectOf (opc nsect p : Nat) : Nat :=
  if opc = opWrite ∨ opc = opCompare then dataFlits (4096 * nsect) p else if opc = opCaw then dataFlits 8192 p else 0

/-- An element of `units` on some dies at one time, read together: start and length, and the calendars with each die's read
and opening. -/
def State.putElement (s : State) (d : Dsc) (reads : List (Nat × Nat)) (t len0 len1 unit units : Nat) (work : Work)
    (slack : Bool) : Option (Nat × Nat × Dsc) :=
  let dies := reads.map (·.1)
  let ok (c len : Nat) : Bool := slack || dies.all fun x => s.hostFits d x c len
  match earliest (d.cal.filter fun r => dies.contains r.die) s.dt t len0 len1 ok with
  | none => none
  | some (c, sus, len) =>
    some (c, len, reads.foldl (fun d r => d.putRead r.1 c sus len work unit units r.2 (if slack then some 6 else none)) d)

/-- The direct path on a die this head owns. -/
def State.directPath (s : State) (d : Dsc) (work : Work) (die chunk unit u t : Nat) (slack : Bool) : Option Cand :=
  let ty := s.ftu.dieType die
  if d.settling die t then none
  else match s.putElement d [(die, chunk)] t (costE ty u 0) (costE ty u 1) unit u work slack with
    | none => none
    | some (c, len, d) => some ⟨c + len + costRepair ty u, 1, 1, c, 1, d⟩

/-- The inner read-around (R113, R118): the 15 other positions of the row, when it is whole, answers and is not settling. -/
def State.innerPath (s : State) (d : Dsc) (work : Work) (die chunk unit u t : Nat) (slack : Bool) : Option Cand :=
  let row := s.ftu.rowOthers die chunk
  let ty := s.ftu.dieType die
  if !s.dsc.raInner ∨ !s.rowWhole die chunk ∨ row = [] ∨ row.any (fun x => d.settling x t) ∨ s.memberSt (die / 256) ≠ .present then none
  else match s.putElement d (row.map fun x => (x, chunk)) t (costEin ty u 0) (costEin ty u 1) unit u work slack with
    | none => none
    | some (c, len, d) => some ⟨c + len + costRepair ty u, 2, 2, c, row.length, d⟩

/-- The readable members of a chunk's stripe other than its own: member, die, chunk as they lie now, erased ones left out. -/
def State.survivors (s : State) (die chunk : Nat) : List (Nat × Nat × Nat) :=
  match s.stripeAt die chunk with
  | none => []
  | some (_, _, me) => ((s.stripeMembers die chunk).filter fun m => m.1 != me && !s.erased m.2.1 m.2.2).map fun m =>
      let w := s.whereIs m.2.1 m.2.2
      (m.1, w.1, w.2)

/-- The outer path (R113, R118): k members each on its own, those ending earliest, ties by die. -/
def State.outerPath (s : State) (d : Dsc) (work : Work) (die chunk unit u t path : Nat) (slack : Bool) : Option Cand :=
  let k := match s.diePool die with | some p => s.poolK p | none => 16
  let ty := s.ftu.dieType die
  let one (d : Dsc) (m : Nat × Nat × Nat) : Option (Nat × Nat × Dsc) :=
    if d.settling m.2.1 t || !(s.ftu.die m.2.1).own then none
    else
      let ty := s.ftu.dieType m.2.1
      (s.putElement d [(m.2.1, m.2.2)] t (costE ty u 0) (costE ty u 1) unit u work slack).map fun r => (r.1, r.1 + r.2.1, r.2.2)
  let trials := (s.survivors die chunk).filterMap fun m => (one d m).map fun r => (r.2.1, m)
  let rec pick : Nat → List (Nat × (Nat × Nat × Nat)) → List (Nat × Nat × Nat)
    | 0, _ => []
    | n + 1, ts => match ts.foldl (fun (a : Option (Nat × (Nat × Nat × Nat))) x => match a with
        | some y => if x.1 < y.1 ∨ (x.1 = y.1 ∧ x.2.2.1 < y.2.2.1) then some x else a
        | none => some x) none with
      | none => []
      | some x => x.2 :: pick n (ts.filter fun y => y.2 != x.2)
  let chosen := pick k trials
  if chosen.length < k then none
  else
    let r := chosen.foldl (fun (a : Option (Nat × Nat × Dsc)) m => match a with
      | none => none
      | some (st, en, d) => (one d m).map fun q => (min st q.1, max en q.2.1, q.2.2)) (some (2 ^ 64, 0, d))
    r.map fun q => ⟨q.2.1 + costRepair ty u, path, 3, q.1, k, q.2.2⟩

/-- The earlier of two paths; on a tie the one that comes first in R118. -/
def better (a b : Option Cand) : Option Cand :=
  match a, b with
  | some x, some y => if y.ready < x.ready then some y else some x
  | some x, none => some x
  | none, y => y

/-- Units of source data that PXE takes in for a path (R117). -/
def Cand.pxeUnits (k : Cand) (u : Nat) : Nat := if k.source = 2 then 15 * u else if k.source = 3 then k.reads * u else 0

/-- The best path to `u` units of a chunk this head owns, from `t` on; and whether a settle period speaks against it (R118,
R129). -/
def State.bestPath (s : State) (d : Dsc) (work : Work) (die chunk unit u t : Nat) (slack : Bool) : Option Cand × Bool :=
  if s.erased die chunk then (s.outerPath d work die chunk unit u t 1 slack, (s.survivors die chunk).any fun m => d.settling m.2.1 t)
  else
    let w := s.whereIs die chunk
    let whole := (s.survivors die chunk).length = s.poolK ((s.diePool die).getD 0) + 1
    let outer := if s.dsc.raOuter ∧ whole ∧ !(s.survivors die chunk).any (fun m => d.settling m.2.1 t) then
        s.outerPath d work die chunk unit u t 3 slack else none
    (better (better (s.directPath d work w.1 w.2 unit u t slack) (s.innerPath d work w.1 w.2 unit u t slack)) outer,
     d.settling w.1 t)

/-- Charge a grain's engines in the frame where its element starts (R117): CPE for a compressed grain, XTS for each slot, PXE
for the source data of a path; cause ENGINE where a budget has no room. -/
def State.chargeEngines (s : State) (p : Plan) (start slots xtsSlots pxeUnits : Nat) : Plan :=
  let n := frameOf start
  let cpe := if slots < 4 then 683 else 0
  let xts := 164 * xtsSlots
  let pxe := 8 * pxeUnits
  let ok := decide (cpe ≤ s.cpeRoom p.d n) && decide (xts ≤ s.xtsRoom p.d n) && decide (pxe ≤ p.d.pxeRoom n)
  let p := { p with d := p.d.charge n cpe xts pxe 0 }
  if ok then p else p.cause 3

/-- Charge the peer link in a frame; cause PEER without room. -/
def State.chargePeer (s : State) (p : Plan) (t bytes : Nat) : Plan :=
  let n := frameOf t
  let ok := decide (bytes ≤ s.peerRoom p.d n)
  let p := { p with d := p.d.charge n 0 0 0 bytes }
  if ok then p else p.cause 4

/-- This head owns every good die of a pool (R115). -/
def State.ownsPool (s : State) (pool : Nat) : Bool :=
  s.ftu.dies.all fun d => !(dieGood d.2 && s.diePool d.1 == some pool) || d.2.own

/-- The sectors of a command in one grain: offset in the command, sector in the grain. -/
def Cmd.sectorsIn (c : Cmd) (g : Nat) : List (Nat × Nat) :=
  ((rangeSectors c.lba c.nsect).filter fun x => x.2.1 == g).map fun x => (x.1, x.2.2)

/-- The answer of the peer for an element of this command on its die, if one has come (R314). -/
def Dsc.answer (d : Dsc) (c : Cmd) (die chunk : Nat) : Option (Option (Nat × Nat)) :=
  (d.asks.find? fun a => a.qp == c.qp && a.cid == c.cid && a.die == die && a.chunk == chunk && a.answered).map (·.grant)

/-- An element on a die the peer owns: the grant's end plus PEER_MEDIA, charged on the peer link (R23, R314). While the peer
vaults no such path exists, cause SETTLE (R339); while it is in P3 none is granted (R431). -/
def State.peerPath (s : State) (p : Plan) (c : Cmd) (die chunk u t : Nat) : Plan × Option (Nat × Nat) :=
  if s.ha.peerPstate = 4 then (p.cause 7, none)
  else if s.ha.peerPstate = 3 then (p.cause 1, none)
  else match s.dsc.answer c die chunk with
  | none => ({ p with wants := p.wants ++ [(die, chunk, u, t)] }, none)
  | some none => (p.cause 1, none)
  | some (some (start, len)) =>
    let st := max t start
    let p := s.chargePeer p st (2048 * u)
    (p, some (st, st + len + costPeerMedia + costRepair (s.ftu.dieType die) u))

/-- Add one part to a plan. -/
def Plan.part (p : Plan) (c : Cmd) (g path : Nat) (fetch : Option Nat) (result : Option (Nat × Nat)) (ready : Nat) : Plan :=
  let x : Part := { grain := g, sectors := c.sectorsIn g, path := path, fetch := fetch, result := result, data := [] }
  { p with parts := p.parts ++ [x], ready := max p.ready ready }

/-- Add a fetch to a plan, under the number its reservations carry. -/
def Plan.fetch (p : Plan) (work : Work) (die chunk unit units path waits : Nat) : Plan :=
  let f : Fetch := { num := p.d.nextFetch, work := work, die := die, chunk := chunk, unit := unit, units := units, path := path, waits := waits }
  { p with fetches := p.fetches ++ [f], d := { p.d with nextFetch := p.d.nextFetch + 1 } }

/-- The map-page read of a page (R119): one a page, shared with an admitted command that already reads it; the page's first
unit is its two slots. Nothing when it does not fit. -/
def State.planMap (s : State) (p : Plan) (c : Cmd) (g t : Nat) (slack : Bool) : Plan × Option Nat :=
  let page := g / 512
  match p.maps.find? fun m => m.1 == page with
  | some m => (p, some m.2)
  | none =>
    match s.dsc.mapReads.find? fun m => m.1 == c.vol && m.2.1 == page && decide (m.2.2 > t) with
    | some m => ({ p with maps := (page, m.2.2) :: p.maps }, some m.2.2)
    | none =>
      match (s.resolve 18 c.vol page (s.ve c.vol)).bind (·.loc) with
      | none => (p.cause 1, none)
      | some e =>
        let w := s.whereIs e.die.toNat e.chunk.toNat
        let hold (p : Plan) (path waits start pxe ready : Nat) : Plan × Option Nat :=
          let p := s.chargeEngines p start 4 2 pxe
          ({ (p.fetch (.mapRead c.vol page) e.die.toNat e.chunk.toNat e.slot.toNat 2 path waits) with maps := (page, ready) :: p.maps }, some ready)
        if !(s.ftu.die w.1).own ∧ !s.erased e.die.toNat e.chunk.toNat then
          let r := s.peerPath p c w.1 w.2 2 t
          match r.2 with
          | some q => hold { r.1 with late := r.1.late + 1 } 1 1 q.1 0 (q.2 + costFtuMap)
          | none => (r.1, none)
        else
          match s.bestPath p.d (.fetch p.d.nextFetch) e.die.toNat e.chunk.toNat e.slot.toNat 2 t slack with
          | (some k, _) =>
            hold { p with d := k.d, reads := p.reads + k.reads } k.source k.reads k.start (k.pxeUnits 2) (k.ready + costFtuMap)
          | (none, settle) => (p.cause (if settle then 7 else 1), none)

/-- One grain of a read (R118, R119). -/
def State.planGrain (s : State) (p : Plan) (c : Cmd) (t : Nat) (slack : Bool) (g : Nat) : Plan :=
  let need := c.sectorsIn g
  let idx := p.parts.length
  if need.all fun x => (s.cached c.vol g x.2).isSome then p.part c g 0 none none (t + costWcRead)
  else if !s.pageCached c.vol g then
    match s.planMap p c g t slack with
    | (p, none) => p.part c g 4 none none t
    | (p, some r) =>
      let ty := (s.ftu.types.head?.map (·.2)).getD {}
      let pool := match s.cfg.volume c.vol with | some v => v.pool | none => 0
      let far := if s.ownsPool pool then 0 else costPeerMedia
      let ready := r + costLate ty + costRepair ty 4 + far
      (s.chargeEngines { p with late := p.late + 1 } r 3 4 0).part c g 4 none none ready
  else
    let e := s.entry c.vol g
    let t1 := t + costMapHit
    if s.mapFault e ≠ 0 ∨ isLostEntry e then p.part c g 0 none (some (stDataLost, 0)) t1
    else if !isMapped e then p.part c g 0 none none t1
    else
      let u := e.cls.toNat + 1
      let die := e.die.toNat
      let chunk := e.chunk.toNat
      let w := s.whereIs die chunk
      let num := p.d.nextFetch
      let work : Work := .hostRead c.qp c.cid idx
      if !(s.ftu.die w.1).own ∧ !s.erased die chunk then
        let r := s.peerPath p c w.1 w.2 u t1
        match r.2 with
        | some q => ((s.chargeEngines { r.1 with reads := r.1.reads + 1 } q.1 u u 0).fetch work die chunk e.slot.toNat u 1 1).part c g 1 (some num) none q.2
        | none => r.1.part c g 1 none none t1
      else
        match s.bestPath p.d (.fetch num) die chunk e.slot.toNat u t1 slack with
        | (some k, _) =>
          let p := s.chargeEngines { p with d := k.d, reads := p.reads + k.reads } k.start u u (k.pxeUnits u)
          (p.fetch work die chunk e.slot.toNat u k.source k.reads).part c g k.path (some num) none k.ready
        | (none, settle) => (p.cause (if settle then 7 else 1)).part c g 1 none none t1

/-- An earlier COMPARE_AND_WRITE for the same sector that is outstanding here (R87, R121): its worst-case completion. -/
def State.cawBefore (s : State) (c : Cmd) : Option Nat :=
  if c.opc ≠ opCaw then none
  else (s.cqe.cmds.filter fun x => x.opc == opCaw && x.vol == c.vol && x.lba == c.lba && x.admitted && !x.waiting7 && !(x.qp == c.qp && x.cid == c.cid) &&
    x.decided.isNone).foldl (fun a x => some (max (a.getD 0) x.worst)) none

/-- Cost of the mirror copy of a write, and its bytes on the peer link (R115, R117, R130). -/
def State.planMirror (s : State) (p : Plan) (bytes : Nat) : Plan × Nat :=
  if s.wc.mirrorSt ≠ .mirrored then (p, 0)
  else
    let flits := dataFlits bytes 240
    (s.chargePeer p s.dt (256 * flits), costMirror + costFlits flits (s.link.activeLanes .peer))

/-- Refusals of a write that do not depend on time: mirror state (R139), frames and dirty limit (R120, R137), space credit
(R257), the frozen cache (R151). -/
def State.writeCauses (s : State) (c : Cmd) : List Nat :=
  let pool := match s.cfg.volume c.vol with | some v => v.pool | none => 0
  let credit : Bool := match s.ftu.half pool s.glb.headB with
    | some h => h.st == .throttled && decide (h.credit < 4 * (rangeGrains c.lba c.nsect).length)
    | none => false
  (if s.wc.frozen ∨ s.wc.room < s.wc.needs (s.veUnder c.vol) s.cfg.epoch c.vol c.lba c.nsect ∨ (credit ∧ c.opc ≠ opCaw) then [2] else []) ++
  (if s.wc.mirrorSt = .stalled ∨ s.wc.mirrorSt = .none ∨ (s.ha.goingHeld ∧ s.wc.mirrorSt ≠ .mirrored) then [4] else [])

/-- Media operations in flight and reserved (R28, R120). -/
def State.opsInFlight (s : State) : Nat := s.link.ops.length + (s.dsc.cal.filter fun r => r.kind == .read && !r.issued).length

/-- The plan of a command received `shift` ns later than it was (R120, R121, and the listing of chapter 04). -/
def State.plan (s : State) (c : Cmd) (shift : Nat) : Plan :=
  let fwd := c.fromPeer.isSome
  let start := c.start + shift
  let slack := decide (c.cls = 7)
  let port := s.cmdPort c
  let p : Plan := { d := s.dsc, ready := start }
  let writes := c.opc == opWrite || c.opc == opZero
  let p := if writes || c.opc == opCaw then (s.writeCauses c).foldl Plan.cause p else p
  let p := if start < s.dsc.closedUntil then p.cause 1 else p
  let p := if s.pmu.pstate = .p4 ∨ s.wc.frozen then p.cause (if writes ∨ c.opc = opCaw then 2 else 1) else p
  let p :=
    if writes then
      let flits := expectOf c.opc c.nsect port.2
      let cost := costIntake + costFlits flits port.1 + costWc + costCpl
      let p := if fwd then s.chargePeer p s.dt (256 * flits) else p
      let cost := if fwd then cost + 2 * costFwdHalf + costFlits flits (s.link.activeLanes .peer) else cost
      let r := s.planMirror p (4096 * c.nsect)
      { r.1 with done := start + cost + r.2 }
    else
      let t := max (start + costIntake + (if fwd then costFwdHalf else 0)) (s.dt + shift)
      let t := match s.cawBefore c with | some w => max t w | none => t
      let gs := rangeGrains c.lba c.nsect
      let p := gs.foldl (fun p g => s.planGrain p c t slack g) { p with ready := t }
      let flits := dataFlits (4096 * c.nsect) port.2
      let done := p.ready + costEng gs.length + costCpl + (if fwd then costFwdHalf else 0)
      let done := if c.opc = opRead then done + costFlits flits port.1 else done
      let p := if c.opc = opRead ∧ fwd then s.chargePeer p s.dt (256 * flits) else p
      if c.opc = opCaw then
        let r := s.planMirror p 4096
        { r.1 with done := done + costWc + r.2 }
      else { p with done := done }
  let p := if s.opsInFlight + p.reads + p.late ≥ 262144 then p.cause 5 else p
  let slot := s.dataSlot c.vol
  let p := if s.xts.reload.any (fun r => r.1 == slot) then p.cause 3 else p
  match boundNs s.dsc.classes c.cls c.opc c.nsect with
  | none => p
  | some b => if p.done < start + b then p else p.cause (if (s.cawBefore c).isSome then 8 else 1)

/-- The first cause in the order of R124. -/
def firstCause (cs : List Nat) : Nat := ([6, 7, 8, 5, 2, 4, 3, 1].find? cs.contains).getD 1

/-- The smallest whole number of microseconds by which a later receipt fits; 2,560 when none does (R123). An element without
an answer stays unavailable. -/
def State.retryHint (s : State) (c : Cmd) : Nat :=
  (((List.range 2559).map (· + 1)).find? fun us =>
    let p := s.plan c (1000 * us)
    p.causes == [] && p.wants == []).getD 2560

/-! ## Refusing (R123, R124) -/

/-- The refusals of an ended 1 s window are summarised (R122, R124): one 0x0D02 for each class, 0x0D06 for intake. -/
def State.rollRefusals (s : State) : State :=
  if s.dsc.refSec = secOf s.dt then s
  else
    let order := [6, 7, 8, 5, 2, 4, 3, 1]
    let s' := (List.range 8).foldl (fun s n => match s.dsc.refWin[n]? with
      | some w =>
        if w.count = 0 then s
        else
          let i := (List.range 8).foldl (fun b k => if w.byCause.getD k 0 > w.byCause.getD b 0 then k else b) 0
          s.event 0x0D02 n n w.count (order.getD i 1) w.maxRetry
      | none => s) s
    let s' := if s'.dsc.intakeRefused = 0 then s' else s'.event 0x0D06 0 s'.dsc.intakeRefused 0 0 0
    s'.modDsc fun d => { d with refSec := secOf s.dt, refWin := [], intakeRefused := 0 }

/-- Count a refusal (R124, R132). -/
def Dsc.countRefusal (d : Dsc) (cls cause retry : Nat) : Dsc :=
  let ws := d.refWin ++ List.replicate (8 - d.refWin.length) ({} : RefWin)
  let i := [6, 7, 8, 5, 2, 4, 3, 1].findIdx (· == cause)
  { d with
    refuse := lmod d.refuse cls (bump 32)
    lastValid := true, lastClass := cls, lastCause := cause, lastRetry := retry
    intakeRefused := if cause = 6 then d.intakeRefused + 1 else d.intakeRefused
    refWin := lmod ws cls fun w =>
      { w with count := w.count + 1, byCause := lmod w.byCause i (· + 1), maxRetry := max w.maxRetry retry } }

/-- Refuse a command: DEADLINE_REFUSED with RETRY set, nothing committed. -/
def State.refuseCmd (s : State) (c : Cmd) (cause retry : Nat) : State :=
  let s := s.rollRefusals.modDsc fun d => { (d.countRefusal c.cls cause retry) with asks := d.asks.filter fun a => !(a.qp == c.qp && a.cid == c.cid) }
  s.failRetry c stRefused retry

/-- REFUSALS (R124): the first clock of the window that follows. -/
def execRefusals (s : State) : Host.Outcome State Fault Refusal :=
  .next ((s.advanceTo (secNs (secOf s.dt + 1))).rollRefusals)

/-! ## Deciding -/

/-- Arrivals above 80 million a second, counted in frames of 20 us (R122). -/
def State.intake (s : State) : Bool × State :=
  let n := frameOf s.dt
  let k := if s.dsc.intakeFrame = n then s.dsc.intakeCount + 1 else 1
  (decide (k > 1600), s.modDsc fun d => { d with intakeFrame := n, intakeCount := k })

/-- Capacity checks at admission (R258): the status of a command that fails one. -/
def State.capacity (s : State) (c : Cmd) : Option Nat :=
  match s.cfg.volume c.vol with
  | none => none
  | some v =>
    let gs := rangeGrains c.lba c.nsect
    let whole := decide (c.lba % 2 = 0 ∧ c.nsect % 2 = 0)
    let ro : Bool := match s.ftu.half v.pool s.glb.headB with | some h => h.st == .readOnly | none => false
    if ro ∧ (c.opc = opWrite ∨ c.opc = opCaw ∨ (c.opc = opZero ∧ !whole)) then some stCapacity
    else
      match v.quota with
      | none => none
      | some q =>
        let mappedOf := lsum (s.ftu.pages.map fun p => if p.vol == c.vol && p.epoch == s.ve c.vol then
          (p.entries.filter fun x => isMapped x.2).length else 0)
        let new := (gs.filter fun g => !isMapped (s.entry c.vol g) && (s.wc.newest c.vol g).isNone).length
        if (c.opc = opWrite ∨ c.opc = opCaw) ∧ mappedOf + new > q then some stQuota else none

/-- The outcome of a decision. -/
inductive Decision where
  /-- a PEER_GRANT is awaited, or a class 7 command waits -/
  | waits
  | refused
  | admitted (c : Cmd)

/-- Send a PEER_RESERVE for an element (R314); offsets are from now. -/
def State.askPeer (s : State) (c : Cmd) (w : Nat × Nat × Nat × Nat) : State :=
  let tag := s.dsc.nextPeerTag
  let latest := c.start + (boundNs s.dsc.classes c.cls c.opc c.nsect).getD 2560000
  let ask : PeerAsk := { tag := tag, qp := c.qp, cid := c.cid, die := w.1, chunk := w.2.1, sentAt := s.dt }
  (s.modDsc fun d => { d with asks := d.asks ++ [ask], nextPeerTag := (tag + 1) % 2 ^ 32 }).toPeer
    (.peerReserve tag w.1 w.2.2.1 (w.2.2.2 - s.dt) (latest - s.dt))

/-- Admit a command with its plan: reservations and budgets are held, pages pinned, the command is tagged (R81, R230). -/
def State.admitPlan (s : State) (c : Cmd) (p : Plan) : Cmd × State :=
  let pages := ((rangeGrains c.lba c.nsect).map (· / 512)).eraseDups
  let s := s.modDsc fun _ => { p.d with
    admits := if c.admitted then p.d.admits else lmod p.d.admits c.cls (bump 32)
    asks := p.d.asks.filter fun a => !(a.qp == c.qp && a.cid == c.cid)
    mapReads := (p.maps.filter fun m => !p.d.mapReads.any fun x => x.1 == c.vol && x.2.1 == m.1).map (fun m => (c.vol, m.1, m.2)) ++ p.d.mapReads }
  let s := s.modFtu fun f => { f with
    fetches := f.fetches ++ p.fetches
    pages := f.pages.map fun q => if q.vol == c.vol && pages.contains q.page && q.cached then { q with pins := (c.qp, c.cid) :: q.pins } else q }
  let s := if (c.opc = opRead ∨ c.opc = opCompare ∨ c.opc = opVerify ∨ c.opc = opCaw) then
      let miss := (p.parts.filter fun x => x.path == 4).length
      s.modFtu fun f => { f with mapMiss := sat 32 (f.mapMiss + miss), mapHit := sat 32 (f.mapHit + (p.parts.length - miss)) }
    else s
  let c := { c with admitted := true, waiting7 := false, tag := if c.admitted then c.tag else s.cfg.epoch, worst := p.done, parts := p.parts }
  (c, s.modCmd c.qp c.cid fun _ => c)

/-- A class 7 command is admitted, and tagged, when it is queued (the listing of chapter 04, R81, R104): it then waits for what
it needs. -/
def State.enqueue7 (s : State) (c : Cmd) : Cmd × State :=
  if c.cls ≠ 7 ∨ c.admitted then (c, s)
  else
    let c := { c with admitted := true, waiting7 := true, tag := s.cfg.epoch }
    (c, (s.modDsc fun d => { d with admits := lmod d.admits 7 (bump 32) }).modCmd c.qp c.cid fun _ => c)

/-- Decide a command that is in the ring (the listing of chapter 04, R104, R122). -/
def State.judge (s : State) (c : Cmd) : Decision × State :=
  if c.cls = 7 ∧ (s.pmu.pstate = .p4 ∨ s.wc.frozen) then
    (.refused, s.refuseCmd c (if c.opc = opWrite ∨ c.opc = opZero ∨ c.opc = opCaw then 2 else 1) 2560)
  else if c.cls = 7 ∧ (c.opc = opWrite ∨ c.opc = opZero ∨ c.opc = opCaw) ∧
      (s.wc.mirrorSt = .stalled ∨ s.wc.mirrorSt = .none) then (.refused, s.refuseCmd c 4 2560)
  else
    let q := s.enqueue7 c
    let c := q.1
    let s := q.2
    let p := s.plan c 0
    if p.wants ≠ [] then (.waits, p.wants.foldl (fun s w => s.askPeer c w) s)
    else if c.cls = 7 ∧ (p.causes ≠ [] ∨ s.cqe.cmds.any fun x => x.waiting7 && x.qp == c.qp && x.cid != c.cid && decide (x.start < c.start)) then
      (.waits, s.modDsc fun d => { d with asks := d.asks.filter fun a => !(a.qp == c.qp && a.cid == c.cid) })
    else if p.causes ≠ [] then
      let cause := firstCause p.causes
      let retry := if cause = 3 ∧ s.xts.reload.any (fun r => r.1 == s.dataSlot c.vol) then 2560 else s.retryHint c
      (.refused, s.refuseCmd c cause retry)
    else match s.capacity c with
      | some st => (.refused, s.failCmd (if c.admitted then c else { c with admitted := true, tag := s.cfg.epoch }) st)
      | none =>
        let r := s.admitPlan c p
        (.admitted r.1, r.2)

/-- SETTLE_END (R129): the settle period of a die has ended; its reservation is past. -/
def execSettleEnd (die : Nat) (s : State) : Host.Outcome State Fault Refusal :=
  let stop := (s.dsc.cal.filter fun r => r.die == die && r.kind == .settle).foldl (fun m r => max m r.stop) s.dt
  .next ((s.advanceTo stop).modDsc fun d => { d with cal := d.cal.filter fun r => !(r.die == die && r.kind == .settle) })

end Sys2Proof.Machine
end

