-- ==== Sys2Proof/Machine/Events.lean ====
section
/-! DEFINITION. Chapter 17: rate windows, self-tests, the health report and its lifetime record. -/

namespace Sys2Proof.Machine

open Sys2Proof

/-! ## Self-tests -/

/-- R467: the reason a START is refused; 0 when it is accepted. -/
def State.selfTestRefusal (s : State) (kind : Nat) : Nat :=
  if s.evr.stRunning then 1
  else if s.pmu.pstate ≠ .p0 ∧ s.pmu.pstate ≠ .p1 ∧ s.pmu.pstate ≠ .p2 then 2
  else if s.dbg.level ≥ 2 ∨ s.ha.role = .starting ∨ s.ha.role = .held then 3
  else if lsum (lmod s.dsc.shareCur 6 (max 40)) > 600 then 4
  else if kind = 0 ∨ kind = 3 then 5
  else 0

/-- START of EVR_ST_CTRL (R465 to R467). -/
def State.selfTestStart (s : State) (kind : Nat) : State :=
  let r := s.selfTestRefusal kind
  if r ≠ 0 then (s.event 0x0410 0 kind (bit s.evr.stRunning) (bit s.evr.stRunning) r).modEvr fun e => { e with stRefuse := r }
  else
    let s := (s.event 0x0410 0 kind 0 1 0).modEvr fun e =>
      { e with stRunning := true, stKind := kind, stResult := 0, stProgress := 0, stFail := 0, stItem := 1,
               stFindings := 0, stStart := s.dt, stSaid := 0 }
    s.selfTestNotice.refreshShares

/-- The end of a self-test with a RESULT (R468). -/
def State.selfTestEnd (s : State) (result : Nat) : State :=
  if !s.evr.stRunning then s
  else
    let s := (s.event 0x0410 0 s.evr.stKind 1 0 result).modEvr fun e =>
      { e with stRunning := false, stResult := result,
               stExtPass := if e.stKind = 2 ∧ result = 1 then some s.dt else e.stExtPass }
    s.selfTestNotice.refreshShares

/-- ABORT of EVR_ST_CTRL (R468): ignored when none runs. -/
def State.selfTestAbort (s : State) : State := s.selfTestEnd 3

/-- A write of EVR_ST_CTRL: START with KIND, ABORT. -/
def State.writeStCtrl (s : State) (v : Nat) : State :=
  let s := if tbit v 31 then s.selfTestStart (bits v 1 0) else s
  if tbit v 30 then s.selfTestAbort else s

/-- SELF_TEST_START: a CSR_WRITE of EVR_ST_CTRL. -/
def execSelfTestStart (m : Vc3) (value : Word) (s : State) : Host.Outcome State Fault Refusal :=
  .next (s.regWrite m 0x30020 2 fun s => s.writeStCtrl value.toNat)

/-- SELF_TEST_ABORT: a CSR_WRITE of EVR_ST_CTRL. -/
def execSelfTestAbort (m : Vc3) (value : Word) (s : State) : Host.Outcome State Fault Refusal :=
  .next (s.regWrite m 0x30020 2 fun s => s.writeStCtrl value.toNat)

/-- A lane found bad by item 1 (log entry 20): 0 to 31 DGE, 32 to 79 CPE, 80 to 111 XTS. -/
def State.disableLane (s : State) (n : Nat) : State :=
  if n < 32 then
    let s := s.modDge fun d => { d with bad := if d.bad.contains n then d.bad else n :: d.bad }
    s.event 0x0F05 n n 0 s.dge.lanesOk 0
  else if n < 80 then
    let s := s.modCpe fun c => { c with bad := if c.bad.contains (n - 32) then c.bad else (n - 32) :: c.bad }
    s.event 0x1102 (n - 32) (n - 32) 1 s.cpe.lanesOk 0
  else if n < 112 then
    let s := s.modXts fun x => { x with bad := if x.bad.contains (n - 80) then x.bad else (n - 80) :: x.bad }
    s.event 0x1201 (n - 80) (n - 80) 0 s.xts.lanesOk 0
  else s

/-- Progress after an item (R468). -/
def stProgressAfter (kind item : Nat) : Nat := if kind = 1 then min 100 (25 * item) else if item ≥ 5 then 100 else item

/-- SELF_TEST_ITEM_DONE (R465, R468): findings and failures of the running item, as position or lane and global die. -/
def execSelfTestItemDone (findings failures : List (Nat × Nat)) (s : State) : Host.Outcome State Fault Refusal :=
  .next (
    if !s.evr.stRunning then s
    else
      let item := s.evr.stItem
      let s := findings.foldl (fun s f => s.event 0x0411 0 item f.1 1 f.2) s
      let s := failures.foldl (fun s f => s.event 0x0411 0 item f.1 2 f.2) s
      let s := if item = 1 then failures.foldl (fun s f => s.disableLane f.1) s else s
      let p := stProgressAfter s.evr.stKind item
      let s := s.modEvr fun e => { e with
        stFindings := e.stFindings + findings.length
        stFail := if e.stFail = 0 ∧ failures ≠ [] then item else e.stFail
        stProgress := p
        stItem := item + 1 }
      let last := if s.evr.stKind = 1 then 4 else 5
      if item ≥ last then s.selfTestEnd (if s.evr.stFail = 0 then 1 else 2)
      else if p / 10 > s.evr.stSaid / 10 then s.selfTestNotice.modEvr fun e => { e with stSaid := p }
      else s)

/-- T_EXT of R465 in ns: 6 h times the raw capacity of the good owned dies over 96 TiB, at least once. -/
def State.tExt (s : State) : Nat :=
  let own := lsum (s.ftu.dies.map fun (_, d) =>
    let t := tgetD s.ftu.types d.typ {}
    if dieGood d && d.own then t.planes * t.page * t.pBlk * t.nBlk else 0)
  21600000000000 * max (96 * 2 ^ 40) own / (96 * 2 ^ 40)

/-- SELF_TEST_TIMEOUT (R468): two minutes or T_EXT have passed. -/
def execSelfTestTimeout (s : State) : Host.Outcome State Fault Refusal :=
  .next (
    if !s.evr.stRunning then s
    else
      let s := s.advanceTo (s.evr.stStart + (if s.evr.stKind = 1 then secNs 120 else s.tExt))
      (s.modEvr fun e => { e with stFail := if e.stFail = 0 then e.stItem else e.stFail }).selfTestEnd 2)

/-! ## Health report -/

/-- The POOL entry of R472. -/
def State.poolEntry (s : State) (p : Nat) : Bytes :=
  let hs := s.ftu.halves.filter fun h => h.pool == p && (h.headB == s.glb.headB || s.ha.role == .survivor)
  match tget s.pxe.layouts p with
  | none => 0xFF :: List.replicate 63 0
  | some l =>
    let mine := s.ftu.half p s.glb.headB
    let rb := tgetD s.pxe.rebuild p {}
    let missing := (l.modules.filter fun m => match tget s.pxe.members m with | some x => x.st != .present | none => true).length
    let wear := match mine with | some h => s.poolWear h | none => 0
    let ownDies := s.ftu.dies.filter fun d => d.2.own && s.diePool d.1 == some p
    leBytes 1 p ++ leBytes 1 (match mine with | some h => poolStNum h.st | none => 0) ++ leBytes 1 rb.st ++
      leBytes 1 missing ++ leBytes 2 wear ++ leBytes 2 (1000 - wear) ++ leBytes 8 (lsum (hs.map s.dsSlots)) ++
      leBytes 8 (lsum (hs.map s.freeSlots)) ++ leBytes 8 (lsum (hs.map s.spare)) ++ leBytes 8 (lsum (hs.map s.spare0)) ++
      leBytes 8 (lsum (hs.map s.spareRb)) ++ leBytes 8 l.lostg ++
      leBytes 2 (if rb.queued = 0 then 0 else 1000 * rb.done / rb.queued) ++
      leBytes 2 (ownDies.filter fun d => d.2.st == .suspect).length ++
      leBytes 2 (ownDies.filter fun d => d.2.st == .retired).length ++ leBytes 2 0

/-- ⌊-10 log10(corrected / read)⌋, saturating at 255; 0 when nothing was read (RBER_EXP). -/
def rberExp (corrected read : Nat) : Nat :=
  if read = 0 then 0
  else if corrected = 0 then 255
  else ((List.range 256).filter fun k => decide (corrected ^ 10 * 10 ^ k ≤ read ^ 10)).foldl max 0

def rberOf (d : Die) : Nat := rberExp (lsum (d.rber.map fun x => x.2.1)) (lsum (d.rber.map fun x => x.2.2))

/-- The MODULE entry of R472. -/
def State.moduleEntry (s : State) (m : Nat) : Bytes :=
  if !s.cfg.moduleDeclared m then 0xFF :: List.replicate 63 0
  else
    let own := (s.ftu.dies.filter fun d => d.1 / 256 == m && d.2.own).map (·.2)
    let md := tgetD s.link.modules m {}
    let wear := own.map fun d => dieWear (tgetD s.ftu.types d.typ {}) d
    let temp := md.temps.foldl max (md.temps.headD 0)
    leBytes 1 m ++ leBytes 1 (match tget s.pxe.members m with | some x => memberStNum x.st | none => 0) ++
      leBytes 1 (laneStNum (s.link.lane (s.link.mediaMap.getD m (32 + m))).st) ++
      leBytes 1 (bit md.quarantined + 2 * bit (s.ha.bridges.contains m) + 4 * bit md.missing) ++
      leBytes 2 (own.filter dieGood).length ++ leBytes 2 (own.filter fun d => d.st == .suspect).length ++
      leBytes 2 (own.filter fun d => d.st == .retired).length ++ leBytes 2 (wear.foldl max 0) ++ leBytes 2 (meanOf wear) ++
      leBytes 2 0 ++ leBytes 4 (lsum (own.map fun d => d.retired.length)) ++ leBytes 4 (lsum (own.map fun d => d.uecc.length)) ++
      leBytes 1 ((own.map rberOf).foldl min 255) ++ leBytes 1 0 ++ leBytes 2 (twos 16 temp) ++
      leBytes 2 (twos 16 (tgetD s.evr.tempLife m temp)) ++ leBytes 2 (twos 16 (tgetD s.evr.tempLife m temp)) ++
      leBytes 4 md.powerMw ++ leBytes 4 (s.evr.tallied (0x200 + 32 + m)) ++ leBytes 4 (s.evr.tallied (0x600 + m)) ++
      leBytes 4 (s.evr.tallied (0x400 + m)) ++
      leBytes 8 (match s.cfg.find 0x11 m with | some (.module sn _ _ _ _) => sn | _ => 0) ++ leBytes 8 0

/-- A PORT entry of R472. -/
def State.portEntry (s : State) (p : PortId) : Bytes :=
  let n := portNum p
  leBytes 1 (s.link.activeLanes p) ++ leBytes 3 0 ++ leBytes 4 (s.evr.tallied (0x100 + n)) ++
    leBytes 4 (lsum ((s.link.portLanes p).map fun l => s.evr.tallied (0x200 + l))) ++ leBytes 4 (s.evr.tallied (0x300 + n))

/-- A junction history entry: maximum in [15:0], mean in [31:16]. -/
def juncWord (hs : List (Nat × Int × Int × Nat)) : Bytes :=
  match hs with
  | [] => leBytes 4 0
  | h :: _ =>
    let mx := hs.foldl (fun a x => max a x.2.1) h.2.1
    let n := lsum (hs.map fun x => x.2.2.2)
    leBytes 2 (twos 16 mx) ++ leBytes 2 (twos 16 ((hs.foldl (fun a x => a + x.2.2.1) 0) / (max 1 n : Nat)))

/-- The image of R472 up to its CRC. -/
def State.reportBytes (s : State) : Bytes :=
  let e := s.evr
  let hour := s.dt / 3600000000000
  let head := leBytes 4 0x48544C48 ++ leBytes 2 7 ++ leBytes 1 s.headNum ++ leBytes 1 (roleNum s.ha.role) ++
    leBytes 8 (e.hrSeq + 2) ++ leBytes 8 s.dt ++ leBytes 4 e.lifePoh ++ leBytes 4 e.lifeCold ++ leBytes 4 e.lifeWarm ++
    leBytes 1 (bit e.partialHist) ++ leBytes 1 s.dge.lanesOk ++ leBytes 1 s.cpe.lanesOk ++ leBytes 1 s.xts.lanesOk ++
    leBytes 2 (lsum (s.slc.retired.map fun r => ((List.range 16).filter fun w => r.2.getLsbD w).length)) ++
    leBytes 1 e.stResult ++ leBytes 1 e.stKind ++
    leBytes 4 (match e.stExtPass with | some t => (s.dt - t) / 3600000000000 | none => 0xFFFFFFFF) ++
    leBytes 8 (lsum (s.pxe.layouts.map fun l => l.2.lostg)) ++ leBytes 8 0
  let pools := (List.range 16).flatMap s.poolEntry
  let mods := (List.range 96).flatMap s.moduleEntry
  let hours := (List.range 24).flatMap fun i => juncWord (e.juncHour.filter fun h => h.1 + i == hour)
  let days := (List.range 32).flatMap fun j => juncWord (e.juncHour.filter fun h => h.1 / 24 + j == hour / 24)
  let hist := (List.range 12).flatMap fun b => leBytes 4 (tgetD e.juncHist b 0)
  let dram := (List.range 12).flatMap fun n =>
    leBytes 4 (s.mcu.ceAt.filter fun c => c.1 == n).length ++ leBytes 4 (s.mcu.ueLife.getD n 0) ++
    leBytes 4 ((s.mcu.ecs.filter fun c => c.1 == n).map (·.2) |>.foldl max 0) ++
    leBytes 1 (lsum ((s.mcu.degraded.filter fun d => d.1 == n).map fun d => 2 ^ d.2)) ++
    leBytes 1 (chStNum (s.mcu.chSt.getD n .untrained)) ++ leBytes 2 0
  let ports := (List.range 16).flatMap fun q => s.portEntry (hostPort q)
  let b := head ++ pools ++ mods ++ hours ++ days ++ hist ++ leBytes 4 e.lifeTrips ++ leBytes 12 0 ++ dram ++ ports ++
    s.portEntry .peer
  b ++ List.replicate (0x3FFC - b.length) 0

/-- Words of a byte string, by offset, zero words left out. -/
def wordsFrom (off : Nat) : Nat → Bytes → Tbl Word
  | 0, _ => []
  | n + 1, bs =>
    if bs.isEmpty then []
    else
      let w : Word := BitVec.ofNat 32 (leNat (bs.take 4))
      let r := wordsFrom (off + 4) n (bs.drop 4)
      if w = 0 then r else (off, w) :: r

/-- Rebuild the report (R470): EVR_HR_SEQ rises at the start and at the end. -/
def State.rebuildReport (s : State) : State :=
  let b := s.reportBytes
  let img := b ++ leBytes 4 (crc32c b).toNat
  s.modEvr fun e => { e with hrSeq := e.hrSeq + 2, report := wordsFrom 0x4000 4096 img }

/-- HEALTH_REPORT_REBUILD (R470). -/
def execHealthReportRebuild (s : State) : Host.Outcome State Fault Refusal := .next s.rebuildReport

/-- HEALTH_RECORD_PERSIST (R471): the hour has passed; the record is written with the next sequence. Copies lie on flash in
the metadata share; their bytes are not laid out by the spec (log entry 12). -/
def execHealthRecordPersist (s : State) : Host.Outcome State Fault Refusal :=
  let hour := s.dt / 3600000000000
  let s := s.advanceTo ((hour + 1) * 3600000000000)
  .next (s.modEvr fun e =>
    let last := e.juncHour.filter fun h => h.1 == hour
    let b := match last with
      | h :: _ => some (min 11 ((h.2.2.1 / (max 1 h.2.2.2 : Nat)).toNat / 100))
      | [] => none
    { e with
      lifePoh := e.lifePoh + 1
      recSeq := e.recSeq + 1
      juncHour := e.juncHour.filter (fun h => h.1 + 768 > hour)
      juncHist := (match b with | some b => tput e.juncHist b (tgetD e.juncHist b 0 + 1) | none => e.juncHist) })

/-- A reading of the hottest sensor enters the hourly history. -/
def Evr.junction (e : Evr) (dt : Nat) (temp : Int) : Evr :=
  let hour := dt / 3600000000000
  match e.juncHour.find? (fun h => h.1 == hour) with
  | some h => { e with juncHour := (hour, max h.2.1 temp, h.2.2.1 + temp, h.2.2.2 + 1) ::
      e.juncHour.filter fun h => h.1 != hour }
  | none => { e with juncHour := (hour, temp, temp, 1) :: e.juncHour }

/-- JUNCTION_HOT_WINDOW (R473 cause 6): the hottest sensor's reading over the 1 s window that ends; at or above 100 degrees
throughout it is a crossing, reported once until a window is cooler. -/
def execJunctionHotWindow (sensor : Fin 40) (temp : Int) (s : State) : Host.Outcome State Fault Refusal :=
  let s := (s.advanceTo (secNs (secOf s.dt + 1))).modEvr fun e => e.junction s.dt temp
  .next (
    if temp < 1000 then s.modEvr fun e =>
      { e with hotSaid := false, hotSince := none, crossed := e.crossed.filter (fun c => c.1 != 6) }
    else if s.evr.hotSaid then s
    else (s.health 6 sensor.val (twos 32 temp) 1000).rebuildReport.modEvr fun e =>
      { e with hotSaid := true, hotSince := some s.dt })

end Sys2Proof.Machine
end

