-- ==== Sys2Proof/Machine/Governor.lean ====
section
/-! DEFINITION. Chapter 12: the power governor. Powers are integers in mW. -/

namespace Sys2Proof.Machine

open Sys2Proof

/-! ## What the configuration gives -/

/-- Die type of a declared module. -/
def State.moduleType (s : State) (pos : Nat) : DieType :=
  match s.cfg.find 0x11 pos with | some (.module _ dt _ _ _) => tgetD s.ftu.types dt {} | _ => {}

/-- P_IDLE_T (R349). -/
def State.pIdleT (s : State) : Nat := lsum (s.cfg.modules.map fun p => (s.moduleType p).pIdle)

/-- Sum of max(P_PROG, P_BERS) over good dies in pools, times the GC and metadata shares (R350). -/
def State.floorOf (s : State) (ownOnly : Bool) : Nat :=
  lsum (s.ftu.dies.map fun p =>
    if dieGood p.2 && (s.diePool p.1).isSome && (!ownOnly || p.2.own) then
      max (tgetD s.ftu.types p.2.typ {}).pProg (tgetD s.ftu.types p.2.typ {}).pBers
    else 0) * (s.dsc.shareCfg.getD 0 0 + s.dsc.shareCfg.getD 5 0) / 1000

/-- U_MIN: the array floor with f = 1. -/
def State.uMin (s : State) : Nat := s.floorOf false

/-- U_MAX in mW. -/
def State.uMax (s : State) (p : PowerRec) : Nat :=
  match p.uMax with | some u => u * 1000 | none => p.pb * 1000 - s.pIdleT

/-- Own and all good dies in declared pools: f of R350. -/
def State.fOwn (s : State) : Nat × Nat := (s.goodDies true, s.goodDies false)

/-- B_own of R350. -/
def State.bOwnOf (s : State) (u : Int) : Int :=
  let f := s.fOwn
  max (u * f.1 / (max 1 f.2 : Nat)) (s.floorOf true)

/-- Why a POWER record is refused: 1 field range, 2 PB below P_IDLE_T + U_MIN; 0 accepted (R349). -/
def State.powerRefusal (s : State) (p : PowerRec) : Nat :=
  let range := decide (1 ≤ p.pb ∧ p.pb ≤ 65535) && decide (1 ≤ p.vMax ∧ p.vMax ≤ 1000) &&
    decide (1 ≤ p.aMax ∧ p.aMax ≤ 1000) && decide (1 ≤ p.jMax ∧ p.jMax ≤ 10000) &&
    decide (1 ≤ p.uSlew ∧ p.uSlew ≤ 1000) &&
    (match p.uMax with | some u => decide (s.uMin ≤ u * 1000 ∧ u ≤ p.pb) | none => true)
  if !range then 1 else if p.pb * 1000 < s.pIdleT + s.uMin then 2 else 0

/-! ## Notices, modes, injections -/

/-- The POWER_CAP notice (R365). -/
def State.powerNotice (s : State) (cause : Nat) : State :=
  let g := s.gov
  s.notifyAll 13 (leBytes 1 (govModeNum g.mode) ++ leBytes 1 (bit g.capped) ++ leBytes 1 cause ++ leBytes 1 0 ++
    leBytes 4 (twos 32 g.target) ++ leBytes 4 (twos 32 g.rp) ++ leBytes 4 (twos 32 g.y) ++ leBytes 4 (twos 32 g.u) ++
    leBytes 4 (twos 32 g.frame))

/-- The running injection ends (R361): event 0x0808 with its cause. -/
def State.endInjection (s : State) (cause : Nat) : State :=
  match s.gov.inj with
  | none => s
  | some i => (s.event 0x0808 0 i.kind 0 i.amp cause).modGov fun g => { g with inj := none }

/-- A mode change (R354): event 0x0801, the notice, the end of an injection; on entry to CLOSED the histories restart
(R357), on HOLD capture stops. -/
def State.setGovMode (s : State) (new : GovMode) (cause : Nat) : State :=
  if s.gov.mode = new then s
  else
    let s := (s.event 0x0801 0 (govModeNum s.gov.mode) (govModeNum new) cause 0).endInjection 3
    let s := s.modGov fun g => { g with
      mode := new
      implRun := 0
      plausRun := 0
      floorRun := 0
      eHist := if new = .closed then [0, 0, 0] else g.eHist
      uHist := if new = .closed then [g.u, g.u, g.u] else g.uHist
      capRun := if new = .hold then false else g.capRun }
    s.powerNotice 1

/-- A POWER record comes into force (R349, R354, R358): event 0x0805. -/
def State.applyPower (s : State) (p : PowerRec) : State :=
  let t : Int := p.pb * 1000
  let changed := decide (s.gov.target ≠ t)
  let s := if changed ∧ s.gov.started then s.endInjection 4 else s
  let s := s.modGov fun g =>
    if g.started then { g with power := some p, target := t, pendingPb := if changed then some t else g.pendingPb }
    else { g with power := some p, target := t, rp := t, started := true }
  let s := if changed then
      (s.event 0x0805 0 p.pb s.cfg.epoch (s.uMax p / 1000) (s.uMin / 1000)).powerNotice 3 else s
  if s.gov.mode = .off then s.setGovMode .model 1 else s

/-- The record is refused (R349): event 0x0806. -/
def State.refusePower (s : State) (p : PowerRec) (reason : Nat) : State :=
  s.event 0x0806 0 p.pb (ceilDiv (s.pIdleT + s.uMin) 1000) reason 0

/-! ## The profile (R358) -/

/-- One phase of constant jerk `j` for `t` ns: position x 6, velocity x 2 and acceleration, all scaled by 10^15. -/
def phaseStep (st : Int × Int × Int) (j : Int) (t : Nat) : Int × Int × Int :=
  let T : Int := t
  (st.1 + 3 * st.2.1 * T + 3 * st.2.2 * T * T + j * T * T * T, st.2.1 + 2 * st.2.2 * T + j * T * T, st.2.2 + j * T)

/-- Run phases (jerk, length) for `tau` ns. -/
def runPhases (st : Int × Int × Int) (tau : Nat) : List (Int × Nat) → Int × Int × Int
  | [] => st
  | (j, t) :: ps => if tau ≤ t then phaseStep st j tau else runPhases (phaseStep st j t) (tau - t) ps

/-- Lengths in ns of the jerk phase, the constant-acceleration phase and the cruise of the time-optimal move over `d` mW. -/
def profileTimes (p : PowerRec) (d : Nat) : Nat × Nat × Nat :=
  -- velocity V mW/us; acceleration A mW/us per ms; jerk J mW/us per ms^2; times in ns
  let tj := p.aMax * 1000000 / p.jMax
  -- V reached with a constant-acceleration phase when V * J >= A^2
  let full := decide (p.vMax * p.jMax ≥ p.aMax * p.aMax)
  let tjV := if full then tj else isqrt (p.vMax * 1000000000000 / p.jMax)
  let taV := if full then p.vMax * 1000000 / p.aMax - tj else 0
  -- distance of acceleration and braking at V: V * (2 tj + ta)
  let dV := p.vMax * (2 * tjV + taV) / 1000
  if d ≥ dV then (tjV, taV, (d - dV) * 1000 / p.vMax)
  else
    -- no cruise: with peak acceleration A when d is at least the distance of two full jerk pairs
    let dA := p.aMax * tj / 1000000 * (2 * tj) / 1000
    if full ∧ d ≥ dA then
      -- peak velocity v solves v * (v / A + A / J) = d
      let b := tj
      let root := isqrt (b * b + 4 * d * 1000000000 / p.aMax)
      (tj, (root - b) / 2 - tj, 0)
    else (icbrt (d * 500000000000000 / p.jMax), 0, 0)

/-- Position of the move `tau` ns after its start, rounded down to mW and never past the target; and whether it has ended. -/
def profileAt (p : PowerRec) (start target : Int) (tau : Nat) : Int × Bool :=
  let d := (target - start).natAbs
  let t := profileTimes p d
  let J : Int := p.jMax
  let ph := [(J, t.1), (0, t.2.1), (-J, t.1), (0, t.2.2), (-J, t.1), (0, t.2.1), (J, t.1)]
  let total := 4 * t.1 + 2 * t.2.1 + t.2.2
  if tau ≥ total then (target, true)
  else
    let x := min (d : Int) (max 0 ((runPhases (0, 0, 0) tau ph).1 / 6000000000000000))
    (if target ≥ start then start + x else start - x, false)

/-- r_p at the sample: a move in progress is evaluated, a pending target starts when none runs. -/
def Gov.profile (g : Gov) (t : Nat) : Gov :=
  match g.power with
  | none => g
  | some p =>
    let g := match g.move with
      | some m =>
        let r := profileAt p m.start m.target (t - m.at_)
        { g with rp := r.1, move := if r.2 then none else some m }
      | none => g
    match g.move, g.pendingPb with
    | none, some x => { g with move := some ⟨g.rp, x, t⟩, pendingPb := none }
    | _, _ => g

/-! ## The sample (R353) -/

/-- Own dies holding an element of a kind at a moment. -/
def State.holding (s : State) (t : Nat) (k : ResvKind → Bool) : List Nat :=
  (s.dsc.cal.filter fun r => k r.kind && decide (r.start ≤ t ∧ t < r.stop) && (s.ftu.die r.die).own).map (·.die)

def isProg : ResvKind → Bool | .program => true | .vault => true | _ => false
def isErase : ResvKind → Bool | .erase => true | _ => false
def isRead : ResvKind → Bool | .read => true | .claim => true | _ => false

/-- Y_lo and Y_hi of some modules (R359). -/
def State.bounds (s : State) (t : Nat) (pos : List Nat) : Nat × Nat :=
  let here (d : Nat) := pos.contains (d / 256)
  let pw (ds : List Nat) (f : DieType → Nat) := lsum ((ds.filter here).map fun d => f (s.ftu.dieType d))
  let lo := lsum (pos.map fun p => (s.moduleType p).pIdle) + pw (s.holding t isProg) (·.pProg) +
    pw (s.holding t isErase) (·.pBers) + pw (s.holding t isRead) (·.pRead)
  let peer := lsum ((s.ftu.dies.filter fun p => here p.1 && dieGood p.2 && !p.2.own).map fun p =>
    let ty := tgetD s.ftu.types p.2.typ {}
    max (max ty.pProg ty.pBers) ty.pRead)
  (lo, lo + peer)

/-- A module enters Y with its reading. -/
def State.measured (s : State) (pos : Nat) : Bool :=
  match tget s.link.modules pos with
  | some m => !m.missing && m.telemAt.isSome && (s.link.activeLanes (mediaPort pos) != 0)
  | none => false

/-- Rounded to nearest with ties away from zero (R355). -/
def roundShift (v : Int) (k : Nat) : Int :=
  if v ≥ 0 then (v + 2 ^ (k - 1)) / 2 ^ k else -((-v + 2 ^ (k - 1)) / 2 ^ k)

def clampI (lo hi v : Int) : Int := max lo (min hi v)

/-- The compensator (R355): v in mW, and whether the accumulator saturated. -/
def compensate (form : Bool) (c : List Word) (es us : List Int) : Int × Bool :=
  let cf (i : Nat) : Int := if !form ∧ (i = 3 ∨ i = 6) then 0 else wordInt (c.getD i 0)
  let prods := [es.getD 0 0 * cf 0, es.getD 1 0 * cf 1, es.getD 2 0 * cf 2, es.getD 3 0 * cf 3,
    -(us.getD 0 0 * cf 4), -(us.getD 1 0 * cf 5), -(us.getD 2 0 * cf 6)].map fun x => roundShift x 21
  let acc := prods.foldl (fun (a : Int × Bool) x =>
    let y := a.1 + x
    let z := clampI (-(2 ^ 39)) (2 ^ 39 - 1) y
    (z, a.2 || z != y)) (0, false)
  (roundShift acc.1 8, acc.2)

/-- d[n] of the running injection (R361). -/
def Injection.value (i : Injection) (f0 f1 : Nat) : Int :=
  if i.n ≥ i.duration then 0
  else match i.kind with
    | 1 => i.amp
    | 2 => Config.chirp i.amp f0 f1 i.duration i.n
    | 3 => if i.lfsr.getLsbD 10 then i.amp else -(i.amp : Int)
    | _ => 0

/-- The injection after a sample: the PRBS of x^11 + x^9 + 1 shifts every HOLD + 1 samples. -/
def Injection.next (i : Injection) : Injection :=
  let shift := (i.n + 1) % (i.hold + 1) == 0
  { i with
    n := i.n + 1
    lfsr := if shift then (i.lfsr <<< 1) ||| BitVec.ofNat 11 (bit (i.lfsr.getLsbD 10 ^^ i.lfsr.getLsbD 8)) else i.lfsr }

/-- Set sticky bits; those that rise record 0x0803 (R356). -/
def State.govSticky (s : State) (b : BitVec 8) (e : Int) : State :=
  let new := b &&& ~~~ s.gov.sticky
  let s := if (new &&& 0x1F) ≠ 0 then s.event 0x0803 0 (new &&& 0x1F).toNat (twos 32 (s.gov.u / 1000)) (twos 32 (e / 1000)) 0 else s
  s.modGov fun g => { g with sticky := g.sticky ||| b }

/-- LOAD takes effect (R357, R363): event 0x0807. -/
def State.govLoadNow (s : State) : State :=
  if !s.gov.loadReq then s
  else
    let s := s.modGov fun g =>
      let ext (i : Nat) : Word := ((g.c5160.getD i 0).signExtend 32) <<< 15
      { g with
        loadReq := false
        compatAct := g.compat
        formAct := g.form && !g.compat
        coefAct := if g.compat then [ext 0, ext 1, ext 2, 0, ext 3, ext 4, 0] else g.coef }
    s.event 0x0807 0 (bit s.gov.formAct) (if s.gov.compatAct then 2 else 1)
      (crc32c (s.gov.coefAct.flatMap fun w => leBytes 4 w.toNat)).toNat 0

/-- The output of the sample before its limits: CLOSED runs the compensator on e, MODEL uses u_model (R355, R359, R363). -/
def State.govOutput (s : State) (n : Nat) (d e : Int) : Int × Bool × Bool :=
  let g := s.gov
  let f := s.fOwn
  let hold := g.compatAct && n % 2 == 1
  if g.mode = .closed ∧ g.implRun < 20 then
    if hold then (g.u, false, true)
    else
      let r := compensate g.formAct g.coefAct (e :: g.eHist) g.uHist
      (r.1 + (match g.inj with | some i => if i.point then 0 else d | none => 0), r.2, false)
  else
    let prd := meanOf g.rdHist * f.2 / max 1 f.1
    (85 * g.rp / 100 - s.pIdleT - prd + (match g.inj with | some i => if i.point then 0 else d | none => 0), false, false)

/-- A capture entry (R362). -/
def Gov.capture (g : Gov) (d : Int) : Gov :=
  if !g.capRun ∨ (g.oneShot ∧ g.ring.length ≥ 4096) then g
  else if g.capSkip = 0 then
    { g with ring := (g.ring.drop (g.ring.length - 4095)) ++ [(g.rp, g.y, g.u, d)], capSkip := g.decim }
  else { g with capSkip := g.capSkip - 1 }

/-- GOV_SAMPLE (R353): sample n at DT 100 us x n. -/
def execGovSample (s : State) : Host.Outcome State Fault Refusal :=
  let n := max (s.gov.sample + 1) (ceilDiv s.dt 100000)
  let t := n * 100000
  let s := (s.advanceTo t).govLoadNow
  let mods := s.cfg.modules
  let b := s.bounds t mods
  let lack := mods.filter fun p => !s.measured p
  let y : Nat := lsum (mods.map fun p =>
    if s.measured p then (tgetD s.link.modules p {}).powerMw else (s.bounds t [p]).2)
  let rd := lsum ((s.holding t isRead).map fun d => (s.ftu.dieType d).pRead)
  let s := s.modGov fun g => { (g.profile t) with
    sample := n
    y := y
    yLo := b.1
    yHi := b.2
    fPermille := 1000 * s.fOwn.1 / max 1 s.fOwn.2
    rdHist := (rd :: g.rdHist).take 100 }
  -- modules without a measurement (R359)
  let s := if lack = [] then s
    else
      let s := if s.gov.telemSec = some (secOf t) then s
        else (s.event 0x0809 0 lack.length (lack.headD 0) 0 0).modGov fun g => { g with telemSec := some (secOf t) }
      s.govSticky 0x40 0
  -- plausibility (R360)
  let gap : Int := max 0 (max (s.gov.yLo - s.gov.y) (s.gov.y - s.gov.yHi))
  let bad := decide (gap * 100 > s.gov.target * 8 + 5000000)
  let s := s.modGov fun g => { g with
    implRun := if bad then min 20 (g.implRun + 1) else 0
    plausRun := if bad then 0 else min 1000 (g.plausRun + 1) }
  -- output (R355, R356)
  let d := match s.gov.inj with | some i => i.value s.gov.injF0 s.gov.injF1 | none => 0
  let rp' := s.gov.rp + (match s.gov.inj with | some i => if i.point then d else 0 | none => 0)
  let e0 := rp' - s.gov.y
  let e := clampI (-8388608) 8388607 e0
  match s.gov.power with
  | none => .next (s.modGov fun g => g.capture d)
  | some p =>
    let r := s.govOutput n d e
    let slew : Int := p.uSlew * 1000
    let v := if r.2.2 then r.1 else clampI (s.gov.u - slew) (s.gov.u + slew) r.1
    let lo : Int := s.uMin
    let hi : Int := s.uMax p
    let u := clampI lo (max lo hi) v
    let sticky : BitVec 8 := BitVec.ofNat 8 (bit r.2.1 + 2 * bit (decide (v ≠ r.1)) + 4 * bit (decide (v > hi)) +
      8 * bit (decide (v < lo)) + 16 * bit (decide (e ≠ e0)))
    let s := s.modGov fun g => { g with
      u := u
      eHist := if r.2.2 then g.eHist else (e :: g.eHist).take 3
      uHist := if r.2.2 then g.uHist else (u :: g.uHist).take 3
      floorRun := if g.mode = .closed ∧ u = lo ∧ g.y > g.rp then min 100 (g.floorRun + 1) else 0
      inj := g.inj.map Injection.next }
    let s := s.govSticky sticky e
    .next ((s.modGov fun g => { g with bOwn := s.bOwnOf u }).modGov fun g => g.capture d)

/-- FEEDBACK_IMPLAUSIBLE (R360): the twentieth implausible sample in a row. -/
def execFeedbackImplausible (s : State) : Host.Outcome State Fault Refusal :=
  let g := s.gov
  if g.mode = .closed ∧ g.implRun ≥ 20 then
    let gap : Int := max 0 (max (g.yLo - g.y) (g.y - g.yHi))
    let s := s.event 0x0802 0 (twos 32 (gap / 1000)) (twos 32 ((g.target * 8 / 100 + 50000) / 1000)) (twos 32 (g.y / 1000))
      (twos 32 (g.yLo / 1000))
    .next ((s.setGovMode .model 2).govSticky 0x20 0)
  else .next s

/-- GOV_PLAUSIBLE_RUN (R354): 1,000 plausible samples with MODE_REQ 1. -/
def execGovPlausibleRun (s : State) : Host.Outcome State Fault Refusal :=
  if s.gov.mode = .model ∧ s.gov.modeReq ∧ s.gov.plausRun ≥ 1000 then .next (s.setGovMode .closed 4) else .next s

/-- BUDGET_UNREACHABLE (R352): 100 samples at U_MIN with Y above the set-point; at most once a 1 s window. -/
def execBudgetUnreachable (s : State) : Host.Outcome State Fault Refusal :=
  if s.gov.floorRun ≥ 100 ∧ s.gov.unreachSec ≠ some (secOf s.dt) then
    .next (((s.event 0x0804 0 (twos 32 (s.gov.target / 1000)) (twos 32 (s.gov.y / 1000)) (s.uMin / 1000) 0).powerNotice 4).modGov
      fun g => { g with unreachSec := some (secOf s.dt) })
  else .next s

/-- A power-state change (R427): event 0x0301. -/
def State.setPstate (s : State) (new : PState) (cause sess : Nat) : State :=
  if s.pmu.pstate = new then s
  else (s.event 0x0301 0 (pstateNum s.pmu.pstate) (pstateNum new) cause sess).modPmu fun p =>
    { p with pstate := new, lastCause := cause }

/-- CAP_WINDOW (R352): a 100 ms window ends; CAPPED holds while it or the one before deferred a placement. -/
def execCapWindow (s : State) : Host.Outcome State Fault Refusal :=
  let w := s.dt / 100000000 + 1
  let s := s.advanceTo (w * 100000000)
  let s := s.modGov fun g => { g with capWin := w, capPrev := if w = g.capWin + 1 then g.capNow else 0, capNow := 0 }
  let capped := decide (s.gov.capPrev > 0)
  if capped = s.gov.capped then .next s
  else
    let s := s.modGov fun g => { g with capped := capped }
    let s := (s.event 0x080A 0 (bit capped) (twos 32 (s.gov.bOwn / 1000)) s.gov.capPrev 0).powerNotice 2
    .next (if capped ∧ s.pmu.pstate = .p0 then s.setPstate .p1 2 0xFFFF
      else if !capped ∧ s.pmu.pstate = .p1 then s.setPstate .p0 2 0xFFFF else s)

/-! ## Register writes -/

/-- A write of GOV_CTRL: MODE_REQ, FORM, COMPAT5160, LOAD. -/
def State.writeGovCtrl (s : State) (v : Nat) : State :=
  let s := s.modGov fun g =>
    { g with modeReq := tbit v 0, form := tbit v 1, compat := tbit v 2, loadReq := g.loadReq || tbit v 3 }
  if !s.gov.modeReq ∧ s.gov.mode = .closed then s.setGovMode .model 3 else s

/-- GO of GOV_INJ_CFG (R361). -/
def State.injGo (s : State) : State :=
  let g := s.gov
  let refused := decide ((g.injAmp : Int) * 10 > g.target) || (g.injPoint && g.mode != .closed) || g.mode == .off ||
    g.mode == .hold || g.inj.isSome || g.injDur == 0
  if refused then s.modGov fun g => { g with sticky := g.sticky ||| 0x80 }
  else
    let s := s.modGov fun g => { g with
      inj := some ⟨g.injKind, g.injPoint, g.injHold, g.injDur, g.injAmp, 0, BitVec.allOnes 11⟩
      capRun := g.capRun || g.onInj
      ring := if g.onInj && !g.capRun then [] else g.ring
      capSkip := if g.onInj && !g.capRun then 0 else g.capSkip }
    s.event 0x0808 0 s.gov.injKind 1 s.gov.injAmp 0

/-- A write of GOV_INJ_CFG. -/
def State.writeInjCfg (s : State) (v : Nat) : State :=
  let s := s.modGov fun g =>
    { g with injKind := bits v 29 28, injPoint := tbit v 27, injHold := bits v 26 21, injDur := bits v 15 0 }
  let s := if tbit v 31 then s.injGo else s
  if tbit v 30 then s.endInjection 2 else s

/-- A write of GOV_CAP_CTRL (R362). -/
def State.writeCapCtrl (s : State) (v : Nat) : State :=
  let s := s.modGov fun g => { g with oneShot := tbit v 28, onInj := tbit v 27, decim := bits v 23 16 }
  let s := if tbit v 31 ∧ s.gov.mode ≠ .hold then s.modGov fun g => { g with capRun := true, ring := [], capSkip := 0 } else s
  if tbit v 30 then s.modGov fun g => { g with capRun := false } else s

/-- GOV_LOAD: a CSR_WRITE of GOV_CTRL (R357). -/
def execGovLoad (m : Vc3) (value : Word) (s : State) : Host.Outcome State Fault Refusal :=
  .next (s.regWrite m 0x70000 2 fun s => s.writeGovCtrl value.toNat)

/-- GOV_MODE_REQ: a CSR_WRITE of GOV_CTRL (R354). -/
def execGovModeReq (m : Vc3) (value : Word) (s : State) : Host.Outcome State Fault Refusal :=
  .next (s.regWrite m 0x70000 2 fun s => s.writeGovCtrl value.toNat)

/-- GOV_INJ_GO: a CSR_WRITE of GOV_INJ_CFG (R361). -/
def execGovInjGo (m : Vc3) (value : Word) (s : State) : Host.Outcome State Fault Refusal :=
  .next (s.regWrite m 0x70200 2 fun s => s.writeInjCfg value.toNat)

/-- GOV_INJ_STOP: a CSR_WRITE of GOV_INJ_CFG (R361). -/
def execGovInjStop (m : Vc3) (value : Word) (s : State) : Host.Outcome State Fault Refusal :=
  .next (s.regWrite m 0x70200 2 fun s => s.writeInjCfg value.toNat)

/-- INJECTION_END: the duration is complete (R361). -/
def execInjectionEnd (s : State) : Host.Outcome State Fault Refusal :=
  match s.gov.inj with
  | some i => if i.n ≥ i.duration then .next (s.endInjection 1) else .next s
  | none => .next s

/-- GOV_CAP_START: a CSR_WRITE of GOV_CAP_CTRL (R362). -/
def execGovCapStart (m : Vc3) (value : Word) (s : State) : Host.Outcome State Fault Refusal :=
  .next (s.regWrite m 0x70300 2 fun s => s.writeCapCtrl value.toNat)

/-- GOV_CAP_STOP: a CSR_WRITE of GOV_CAP_CTRL (R362). -/
def execGovCapStop (m : Vc3) (value : Word) (s : State) : Host.Outcome State Fault Refusal :=
  .next (s.regWrite m 0x70300 2 fun s => s.writeCapCtrl value.toNat)

/-- CAPTURE_FULL: with ONE_SHOT, 4,096 entries are written (R362). -/
def execCaptureFull (s : State) : Host.Outcome State Fault Refusal :=
  if s.gov.capRun ∧ s.gov.oneShot ∧ s.gov.ring.length ≥ 4096 then .next (s.modGov fun g => { g with capRun := false })
  else .next s

end Sys2Proof.Machine
end

