-- ==== Sys2Proof/Machine/Compression.lean ====
section
/-! DEFINITION. Chapter 07: the stream contexts of CPE and its registers; COMPRESS_DONE and DECODE_DONE stand with the
paths they serve (Destage.lean, ReadPath.lean). -/

namespace Sys2Proof.Machine

open Sys2Proof

def streamStNum : StreamSt → Nat
  | .free => 0 | .ready => 1 | .waiting => 2 | .running => 3 | .error => 4

/-- The working lanes of CPE in ascending number (R195). -/
def Cpe.working (c : Cpe) : List Nat := if c.tested then (List.range 48).filter fun l => !c.bad.contains l else []

/-- The four highest working lanes are stream lanes; the others storage lanes. -/
def Cpe.streamLanes (c : Cpe) : List Nat := c.working.drop (c.working.length - 4)
def Cpe.storageLanes (c : Cpe) : List Nat := c.working.take (c.working.length - 4)

/-- A stream lane running no block. -/
def Cpe.freeStream (c : Cpe) : Option Nat :=
  c.streamLanes.find? fun l => !c.ctx.any fun x => x.2.st == .running && x.2.lane == some l

/-- A decode check failed with an error (CPE_DEC_ERR_e). -/
def Cpe.countErr (c : Cpe) (e : DecErr) : Cpe := { c with decErr := lmod c.decErr (e.code - 1) (bump 32) }

/-- The last 65,536 bytes of history (R211). -/
def histTail (h : Bytes) : Bytes := h.drop (h.length - 65536)

/-- STREAM_CTX_OPEN (R211, R212): a FREE context opens READY with an empty history. -/
def execStreamCtxOpen (ctx : Fin 1024) (user : Byte) (decompress : Bool) (blockKib : Nat) (streamId : BitVec 64) (bseq : Nat)
    (s : State) : Host.Outcome State Fault Refusal :=
  let ok := decompress || (decide (4 ≤ blockKib ∧ blockKib ≤ 64) && blockKib % 4 == 0)
  if (tget s.cpe.ctx ctx.val).isSome ∨ !ok then .next s
  else
    let x : StreamCtx := { st := .ready, decompress := decompress, block := blockKib * 1024, sid := streamId.toNat, bseq := bseq, owner := user.toNat }
    .next (s.modCpe fun c => { c with ctx := tput c.ctx ctx.val x })

/-- The block of a context starts on a lane. -/
def startBlock (x : StreamCtx) (lane : Nat) : StreamCtx := { x with st := .running, lane := some lane }

/-- STREAM_BLOCK_OFFER (R212, R214): a block is offered; it starts when a stream lane is free, else the context waits. -/
def execStreamBlockOffer (ctx : Fin 1024) (hdr : Option GrainHdr) (block : Bytes) (s : State) :
    Host.Outcome State Fault Refusal :=
  match tget s.cpe.ctx ctx.val with
  | none => .next s
  | some x =>
    if x.st ≠ .ready then .next s
    else
      let x := { x with offered := some (hdr, block), waitAt := s.dt, result := none }
      let x := match s.cpe.freeStream with
        | some l => startBlock x l
        | none => { x with st := .waiting }
      .next (s.modCpe fun c => { c with ctx := tput c.ctx ctx.val x })

/-- Code the running block of a context (R206, R209, R211, R215): its new state and, on an error, its cause. -/
def codeBlock (x : StreamCtx) (hdr : Option GrainHdr) (block : Bytes) : StreamCtx × Option DecErr :=
  if x.decompress then
    match hdr with
    | none => (x, some .illegal)
    | some h =>
      if h.bseq.toNat ≠ x.bseq % 2 ^ 32 ∨ h.serial.toNat ≠ x.sid ∨ !hdrStream h then (x, some .illegal)
      else match decodeChecked x.hist x.last h block with
        | .error e => (x, some e)
        | .ok (out, last) =>
          ({ x with hist := histTail (x.hist ++ out), last := last, bseq := x.bseq + 1, result := some (none, out) }, none)
  else
    let r := milletEncode x.hist none x.last block
    let raw := decide (r.1.length ≥ block.length)
    let coded := if raw then block else r.1
    let h := streamHdr coded raw block.length x.sid x.bseq (crc32c block)
    ({ x with hist := histTail (x.hist ++ block), last := if raw then x.last else r.2, bseq := x.bseq + 1,
              result := some (some h, coded) }, none)

/-- Among the waiting contexts, the one that has waited longest takes a lane (R214). -/
def Cpe.giveLane (c : Cpe) (lane : Nat) : Cpe :=
  let w := c.ctx.filter fun x => x.2.st == .waiting
  match w.foldl (fun (a : Option (Nat × StreamCtx)) x => match a with
      | some y => if x.2.waitAt < y.2.waitAt then some x else a | none => some x) none with
  | some (n, x) => { c with ctx := tput c.ctx n (startBlock x lane) }
  | none => c

/-- STREAM_BLOCK_DONE (R212 to R214): the running block ends; a pending close discards it. -/
def execStreamBlockDone (ctx : Fin 1024) (s : State) : Host.Outcome State Fault Refusal :=
  match tget s.cpe.ctx ctx.val with
  | none => .next s
  | some x =>
    if x.st ≠ .running then .next s
    else
      let lane := x.lane.getD 0
      if x.closing then .next (s.modCpe fun c => Cpe.giveLane { c with ctx := tdel c.ctx ctx.val } lane)
      else
        let r := match x.offered with | some (h, b) => codeBlock x h b | none => (x, none)
        match r.2 with
        | none =>
          .next (s.modCpe fun c => Cpe.giveLane { c with ctx := tput c.ctx ctx.val { r.1 with st := .ready, offered := none, lane := none } } lane)
        | some e =>
          let s := s.event 0x1109 ctx.val ctx.val e.code x.owner x.bseq
          .next (s.modCpe fun c => Cpe.giveLane
            { (c.countErr e) with ctx := tput c.ctx ctx.val { x with st := .error, err := e.code, hist := [], offered := none, lane := none } } lane)

/-- STREAM_CTX_CLOSE (R212, R213): at once, or at the end of the running block. -/
def execStreamCtxClose (ctx : Fin 1024) (s : State) : Host.Outcome State Fault Refusal :=
  match tget s.cpe.ctx ctx.val with
  | none => .next s
  | some x =>
    if x.st = .running then .next (s.modCpe fun c => { c with ctx := tput c.ctx ctx.val { x with closing := true } })
    else .next (s.modCpe fun c => { c with ctx := tdel c.ctx ctx.val })

/-- A context-store fault: the context goes to ERROR with PARITY (R212, R372 row 11). -/
def State.streamParity (s : State) (n : Nat) : State :=
  match tget s.cpe.ctx n with
  | none => s
  | some x => (s.event 0x1109 n n 7 x.owner x.bseq).modCpe fun c =>
      { c with ctx := tput c.ctx n { x with st := .error, err := 7, hist := [], offered := none, lane := none } }

/-- A write of CPE_CFG: FORCE_RAW records 0x110A when it changes. -/
def State.writeForceRaw (s : State) (v : Nat) (sess : Nat) : State :=
  let b := tbit v 0
  let s := if b = s.cpe.forceRaw then s else s.event 0x110A 0 (bit b) sess 0 0
  s.modCpe fun c => { c with forceRaw := b }

/-- FORCE_RAW_WRITE: a CSR_WRITE of CPE_CFG. -/
def execForceRawWrite (m : Vc3) (value : Word) (s : State) : Host.Outcome State Fault Refusal :=
  .next (s.regWrite m 0x880000 2 fun s => s.writeForceRaw value.toNat m.sess.toNat)

end Sys2Proof.Machine
end

