-- ==== Sys2Proof/Machine/Media.lean ====
section
/-! DEFINITION. Media operations (R57 to R61), fetches and their repair (R112, R113, R239), and what failures do to a die
(R248, R252, R253). -/

namespace Sys2Proof.Machine

open Sys2Proof

/-! ## Sending -/

/-- Opcodes of R58. -/
def mRead : Nat := 1
def mSoft : Nat := 2
def mProgram : Nat := 3
def mErase : Nat := 4
def mSuspend : Nat := 5
def mResume : Nat := 6
def mMbox : Nat := 8
def mCas : Nat := 9
def mEpoch : Nat := 10
def mOwner : Nat := 11
def mIdent : Nat := 12

/-- Put an operation in flight under the next tag and send it (R57); the fencing epoch goes with PROGRAM, ERASE, LEASE_CAS
and OWNER set. -/
def State.sendMedia (s : State) (pos die opc addr arg deadline resv : Nat) (work : Work) (body : Bytes) : State :=
  let tag := s.link.nextTag
  let op : MediaOp := { pos := pos, die := die, opc := opc, addr := addr, arg := arg, work := work, issuedAt := s.dt,
                        deadline := deadline, resv := resv, body := body }
  let epoch := if opc = mProgram ∨ opc = mErase ∨ opc = mCas ∨ (opc = mOwner ∧ arg = 1) ∨ (opc = mEpoch ∧ arg = 1) then s.ha.epoch else 0
  (s.modLink fun l => { l with nextTag := (tag + 1) % 2 ^ 32, ops := tput l.ops tag op }).transmit (mediaPort pos) 5
    (.media pos tag opc die addr arg epoch body)

/-- A program or erase is in flight on a die. -/
def State.opOn (s : State) (die : Nat) : Bool :=
  s.link.ops.any fun o => o.2.pos == die / 256 && o.2.die == die % 256 && (o.2.opc == mProgram || o.2.opc == mErase)

def State.readOn (s : State) (die : Nat) : Bool :=
  s.link.ops.any fun o => o.2.pos == die / 256 && o.2.die == die % 256 && (o.2.opc == mRead || o.2.opc == mSoft)

/-- The head's timeout of a READ (R61). -/
def readTimeout (d : DieType) (u : Nat) : Nat := tRns d + costX u + 4000 + 6000

/-- Send a READ or SOFT_READ on a die, a program or erase in flight there suspended first (R110). -/
def State.sendRead (s : State) (opc die chunk unit units resv : Nat) (work : Work) (body : Bytes) : State :=
  let s := if s.opOn die then s.sendMedia (die / 256) (die % 256) mSuspend 0 0 0 0 .suspend [] else s
  s.sendMedia (die / 256) (die % 256) opc chunk (unit + 32 * units) (s.dt + readTimeout (s.ftu.dieType die) units) resv work body

/-- RESUME at the end of a read element (R110). -/
def State.resumeDie (s : State) (die : Nat) : State :=
  if s.opOn die ∧ !s.readOn die then s.sendMedia (die / 256) (die % 256) mResume 0 0 0 0 .suspend [] else s

/-- A READ of a peer die, over the peer port (R23, R314). -/
def State.sendPeerRead (s : State) (soft : Bool) (die chunk unit units deadline : Nat) (work : Work) : State :=
  let tag := s.link.nextTag
  let op : MediaOp := { pos := die / 256, die := die % 256, opc := if soft then mSoft else mRead, addr := chunk, arg := unit + 32 * units,
                        work := work, issuedAt := s.dt, deadline := deadline }
  (s.modLink fun l => { l with nextTag := (tag + 1) % 2 ^ 32, ops := tput l.ops tag op }).transmit .peer 5
    (.peerMedia tag soft (die / 256) (die % 256) chunk unit units)

/-! ## Dies that fail -/

def dayNs : Nat := 86400000000000

def State.modDie (s : State) (die : Nat) (f : Die → Die) : State := s.modFtu fun u => { u with dies := tmod u.dies die f }

/-- A die changes state: event 0x1403; SUSPECT and retired are HEALTH crossings (R253, R473 cause 3). -/
def State.setDie (s : State) (die : Nat) (st : DieSt) : State :=
  let d := s.ftu.die die
  if d.st = st then s
  else
    let s := (s.event 0x1403 die die (dieStNum d.st) (dieStNum st) d.retired.length).modDie die fun d => { d with st := st }
    if st = .suspect ∨ st = .retired then s.health 3 (die / 256) die (dieStNum st) else s

/-- RBER of a die above 10^-3. -/
def rberHigh (d : Die) : Bool := decide (lsum (d.rber.map fun x => x.2.2) < 1000 * lsum (d.rber.map fun x => x.2.1))

/-- A die with more than 16 UECC in 24 h, or RBER above 10^-3, is SUSPECT (R253). -/
def State.judgeDie (s : State) (die : Nat) : State :=
  let d := s.ftu.die die
  if d.st = .good ∧ ((d.uecc.filter fun t => decide (t + dayNs > s.dt)).length > 16 ∨ rberHigh d) then s.setDie die .suspect else s

/-- A READ of a die failed: DECODE_FAIL or the timeout (R252). -/
def State.readFailed (s : State) (die : Nat) : State :=
  (s.modDie die fun d => { d with
    uecc := s.dt :: d.uecc.filter fun t => decide (t + dayNs > s.dt)
    failSince := d.failSince.orElse fun _ => some s.dt }).judgeDie die

/-- A READ of a die succeeded: bits read count for every die of its module, as TELEMETRY's corrected bits do (log entry 24). -/
def State.readGood (s : State) (die bytes : Nat) : State :=
  ((s.modDie die fun d => { d with failSince := none }).modFtu fun f => { f with dies := f.dies.map fun p =>
    if p.1 / 256 == die / 256 && p.2.own then
      (p.1, { p.2 with rber := match p.2.rber with
        | x :: xs => if x.1 / 3600000000000 = s.dt / 3600000000000 then (x.1, x.2.1, x.2.2 + 8 * bytes) :: xs
          else (s.dt, 0, 8 * bytes) :: (x :: xs).filter fun y => decide (y.1 + dayNs > s.dt)
        | [] => [(s.dt, 0, 8 * bytes)] })
    else p })

/-! ## Fetches -/

def State.fetchOf (s : State) (num : Nat) : Option Fetch := s.ftu.fetches.find? fun f => f.num == num

def State.modFetch (s : State) (num : Nat) (g : Fetch → Fetch) : State :=
  s.modFtu fun f => { f with fetches := f.fetches.map fun x => if x.num == num then g x else x }

def State.dropFetch (s : State) (num : Nat) : State := s.modFtu fun f => { f with fetches := f.fetches.filter fun x => x.num != num }

/-- The reads of a source of a chunk: die and chunk of each; none where the source cannot serve. -/
def State.sourceReads (s : State) (die chunk path : Nat) : List (Nat × Nat) :=
  let w := s.whereIs die chunk
  let rs := match path with
    | 1 => if s.erased die chunk then [] else [w]
    | 2 => if s.erased die chunk && s.memberSt (w.1 / 256) != .present then []
      else if s.rowWhole w.1 w.2 then (s.ftu.rowOthers w.1 w.2).map fun d => (d, w.2) else []
    | _ =>
      let k := match s.diePool die with | some p => s.poolK p | none => 16
      let ms := (s.survivors die chunk).take k
      if ms.length < k then [] else ms.map fun m => m.2
  if rs.all fun r => (s.ftu.die r.1).own then rs else []

/-- Place the claims of a source and issue those that start now (R112, R114). -/
def State.claimAll (s : State) (num unit units path : Nat) (reads : List (Nat × Nat)) : State :=
  reads.foldl (fun s r =>
    let ty := s.ftu.dieType r.1
    let l0 := if path = 2 then costEin ty units 0 else costE ty units 0
    let l1 := if path = 2 then costEin ty units 1 else costE ty units 1
    s.modDsc fun d => (d.putClaim s.dt r.1 l0 l1 (.fetch num) unit units r.2).1) s

/-- The next source of a fetch (R239: the row, then P and Q); false when none is left. -/
def State.fetchNext (s : State) (f : Fetch) : Bool × State :=
  let tried := f.path :: f.tried
  match [1, 2, 3].find? fun p => !tried.contains p && s.sourceReads f.die f.chunk p != [] with
  | none => (false, s)
  | some p =>
    let rs := s.sourceReads f.die f.chunk p
    let s := s.modFetch f.num fun x => { x with path := p, tried := tried, waits := rs.length, got := [], failed := false }
    (true, s.claimAll f.num f.unit f.units p rs)

/-- Start a fetch by claims from its first usable source (late-bound reads, repairs outside a plan). -/
def State.startFetch (s : State) (work : Work) (die chunk unit units : Nat) : Bool × State :=
  let num := s.dsc.nextFetch
  let f : Fetch := { num := num, work := work, die := die, chunk := chunk, unit := unit, units := units, path := 0, waits := 0 }
  let s := (s.modDsc fun d => { d with nextFetch := num + 1 }).modFtu fun u => { u with fetches := u.fetches ++ [f] }
  if !(s.ftu.die (s.whereIs die chunk).1).own ∧ !s.erased die chunk then
    let w := s.whereIs die chunk
    (true, (s.modFetch num fun x => { x with path := 1, waits := 1 }).sendPeerRead false w.1 w.2 unit units
      (s.dt + readTimeout (s.ftu.dieType w.1) units + costPeerMedia) (.fetch num))
  else
    let r := s.fetchNext f
    if r.1 then r else (false, r.2.dropFetch num)

/-- The member index of a piece read for a stripe. -/
def State.memberOf (s : State) (f : Fetch) (die : Nat) : Nat :=
  ((s.survivors f.die f.chunk).find? fun m => m.2.1 == die).elim 0 (·.1)

/-- What the pieces of a fetch give: the bytes themselves, the row's sum, or the member recovered from P and Q (R223, R264). -/
def State.combine (s : State) (f : Fetch) : Option Bytes :=
  match f.path with
  | 1 => f.got.head?.map (·.2)
  | 2 => some (f.got.foldl (fun a g => xorBytes a g.2) [])
  | _ =>
    match s.stripeAt f.die f.chunk, s.diePool f.die with
    | some (_, _, m), some p => recoverMember (s.poolK p) m (f.got.map fun g => (s.memberOf f g.1, g.2))
    | _, _ => none

/-- A piece of a fetch has come, or failed. When the last has, the result: the bytes, or nothing when the source failed. -/
def State.piece (s : State) (num die : Nat) (b : Option Bytes) : Option (Fetch × Option Bytes) × State :=
  match s.fetchOf num with
  | none => (none, s)
  | some f =>
    let f' := { f with waits := f.waits - 1
                       got := (match b with | some x => f.got ++ [(die, x)] | none => f.got)
                       failed := f.failed || b.isNone }
    let s := s.modFetch num fun _ => f'
    if f'.waits ≠ 0 then (none, s)
    else (some (f', if f'.failed then none else s.combine f'), s)

/-- A chunk was repaired (R239, R241): event 0x1406 with the source, counted. -/
def State.noteRepair (s : State) (f : Fetch) (inBound : Bool) : State :=
  if f.tried = [] ∨ f.path = 1 then s
  else (s.event 0x1406 f.die f.die f.chunk (f.path - 1) (bit inBound)).modFtu fun u => { u with repaired := bump 32 u.repaired }

/-- A grain goes on the recovery list (R241). -/
def State.recoverLater (s : State) (v grain : Nat) : State :=
  s.modFtu fun f => { f with recovery := if f.recovery.any fun r => r.1 == v && r.2.1 == grain then f.recovery else f.recovery ++ [(v, grain, 1)] }

/-- The segment of a chunk is refreshed before ordinary victims (R242). -/
def State.refreshAt (s : State) (die chunk : Nat) : State :=
  match s.segmentAt die chunk with
  | none => s
  | some g => s.modFtu fun f => { f with segs := f.segs.map fun x =>
      if x.pool == g.pool && x.headB == g.headB && x.seq == g.seq then { x with refresh := true } else x }

end Sys2Proof.Machine
end

