-- ==== Sys2Proof/Machine/WritePath.lean ====
section
/-! DEFINITION. Chapter 05, the write path: declared data, mirror copies, the commit point (R17, R138 to R141), and the
peer's side of the mirror (R59, R138, R319). -/

namespace Sys2Proof.Machine

open Sys2Proof

/-! ## Data of a command -/

/-- The sectors that the data flits of a command spelled, in order (R43). -/
def Cmd.sectors (c : Cmd) (n : Nat) : List Bytes :=
  let b := c.data.flatten
  (List.range n).map fun i => (b.drop (4096 * i)).take 4096

/-- Sectors that a command carries on VC1 (R82). -/
def Cmd.carries (c : Cmd) : Nat := if c.opc = opWrite ∨ c.opc = opCompare then c.nsect else if c.opc = opCaw then 2 else 0

/-- A write's data has all arrived. -/
def Cmd.complete (c : Cmd) : Bool := decide (c.got ≥ c.expect)

/-- Data window of a command (R88): its flits over the port's ACTIVE lanes plus 2 us. -/
def State.windowOf (s : State) (c : Cmd) : Nat := s.dt + laneNs c.expect (s.cmdPort c).1 + 2000

/-! ## Frames of an admitted write -/

/-- Take frames and space credit for an admitted write (R135 to R137, R257). -/
def State.takeFrames (s : State) (c : Cmd) : Cmd × State :=
  let gs := rangeGrains c.lba c.nsect
  let r := s.wc.takeAll (s.veUnder c.vol) c.vol c.tag gs
  let pool := match s.cfg.volume c.vol with | some v => v.pool | none => 0
  let credit := match s.ftu.half pool s.glb.headB with
    | some h => if h.st = .throttled then 4 * gs.length else 0
    | none => 0
  let c := { c with frames := r.1, credit := credit }
  let s := s.modWc fun _ => r.2
  let s := if credit = 0 then s else
    s.modFtu fun f => { f with halves := modHalf f.halves pool s.glb.headB fun h => { h with credit := h.credit - credit } }
  (c, s.modCmd c.qp c.cid fun _ => c)

/-! ## Commit (R17) -/

/-- Mask of a command's sectors in a frame, together with what the frame already holds committed. -/
def Frame.maskWith (f : Frame) (qp cid : Nat) : BitVec 2 :=
  (f.pend.filter fun p => p.1 == qp && p.2.1 == cid).foldl (fun m p => m ||| BitVec.ofNat 2 (2 ^ p.2.2.1)) f.desc.committed

/-- A sector of a frame as it would be once a command's sectors are committed. -/
def Frame.sectorWith (f : Frame) (qp cid k : Nat) : Bytes :=
  match f.pend.find? fun p => p.1 == qp && p.2.1 == cid && p.2.2.1 == k with
  | some p => p.2.2.2
  | none => f.data.getD k zeroSector

/-- The copy of a frame that carries a command's sectors to the peer (R59, R138): descriptor and the sectors its mask names. -/
def Frame.copyFor (f : Frame) (qp cid cepoch : Nat) : Desc × List Bytes :=
  let m := f.maskWith qp cid
  let ss := [f.sectorWith qp cid 0, f.sectorWith qp cid 1]
  ({ f.desc with present := m, committed := m, cepoch := cepoch, crc0 := crc32c (ss.getD 0 []), crc1 := crc32c (ss.getD 1 []) },
   ([0, 1].filter fun k => m.getLsbD k).map fun k => ss.getD k [])

/-- The snooped fingerprint of a command's grain, when it covered both sectors and was staged (R167, R170). -/
def State.snooped (s : State) (c : Cmd) (f : Frame) : Option Bytes :=
  match (s.cfg.volume c.vol).bind (·.domain) with
  | some d =>
    if s.dge.snoop.contains (c.qp, c.cid, f.desc.grain) ∧ (f.pend.filter fun p => p.1 == c.qp && p.2.1 == c.cid).length = 2 then
      s.fingerprint d (f.sectorWith c.qp c.cid 0 ++ f.sectorWith c.qp c.cid 1)
    else none
  | none => none

/-- The commit point of a write (R17): every sector of it is committed in one step, frame by frame (R170), and its
completion is ready. -/
def State.commitWrite (s : State) (c : Cmd) (cs0 : Nat) : State :=
  let acked := c.mirrorSent && s.wc.mirrorSt != .solo
  let s := c.frames.foldl (fun s f =>
    match tget s.wc.frames f.1 with
    | none => s
    | some fr =>
      let unmap := decide (c.opc = opZero)
      let fr' := fr.commitPart s.dt c.qp c.cid c.tag unmap (s.snooped c fr)
      s.modWc fun w => { w with frames := tput w.frames f.1 { fr' with mirrored := acked } }) s
  let s := match s.cfg.volume c.vol with
    | some v => s.modWc fun w => { w with lastDirty := tput w.lastDirty v.pool s.dt }
    | none => s
  let c := { c with committed := true, acks := [] }
  (s.modCmd c.qp c.cid fun _ => c).finish c (c.completion stSuccess 0 cs0 0 0)

/-- CS0 of a COMPARE_AND_WRITE that found its sector equal (R87). -/
def Cmd.equalWord (c : Cmd) : Nat := if c.opc = opCaw then 0xA55A else 0

/-- Mask of a command's sectors in a frame. -/
def Frame.ownMask (f : Frame) (qp cid : Nat) : BitVec 2 :=
  (f.pend.filter fun p => p.1 == qp && p.2.1 == cid).foldl (fun m p => m ||| BitVec.ofNat 2 (2 ^ p.2.2.1)) 0

/-- Send a write's mirror copies (R138); a write whose data the peer forwarded is announced with MIRROR_META, a record for
each grain in ascending order (R319). Its staging entries are released once PLK can take the copies (R376). -/
def State.sendCopies (s : State) (c : Cmd) : State :=
  let s := if s.portUp .peer then s.unstage c.qp c.cid else s
  c.frames.foldl (fun s f =>
    match tget s.wc.frames f.1 with
    | none => s
    | some fr =>
      if c.fromPeer.isSome ∧ c.opc ≠ opZero then
        s.toPeer (.mirrorMeta f.1 f.2 c.cid (c.qp % 16384) (c.tag % 2 ^ 32) (fr.ownMask c.qp c.cid).toNat)
      else
        let k := fr.copyFor c.qp c.cid c.tag
        s.transmit .peer 5 (.mirrorCopy f.1 k.1 k.2)) s

/-- A write whose data is all present goes towards its commit point: its sectors are placed, and it commits at once or once
the peer has acknowledged (R17, R138, R139). -/
def State.launchWrite (s : State) (c : Cmd) (sectors : List Bytes) : State :=
  let s := s.modWc fun w => w.place c.vol c.qp c.cid c.lba c.frames sectors
  if s.wc.needsAck then
    let c := { c with acks := c.frames, mirrorSent := true }
    (s.modCmd c.qp c.cid fun _ => c).sendCopies c
  else if s.wc.mirrorSt = .resync then
    let s := (s.sendCopies c).modWc fun w => { w with resync := (c.frames.filter fun f => !w.resync.contains f) ++ w.resync }
    s.commitWrite c c.equalWord
  else s.commitWrite c c.equalWord

/-- MIRROR_ACK of a frame (R138): the write whose last sector it acknowledges commits; RESYNC counts it (R144). -/
def State.mirrorAcked (s : State) (frame gen : Nat) : State :=
  let s := s.modWc fun w => { w with
    resyncDone := if w.resync.contains (frame, gen) then w.resyncDone + 1 else w.resyncDone
    resync := w.resync.filter (· != (frame, gen))
    frames := tmod w.frames frame fun f => if f.desc.gen = gen then { f with mirrored := true } else f }
  (s.cqe.cmds.filter fun c => c.acks.contains (frame, gen) && !c.isDup).foldl (fun s c =>
    let rest := c.acks.filter (· != (frame, gen))
    let c := { c with acks := rest }
    let s := s.modCmd c.qp c.cid fun _ => c
    if rest = [] then s.commitWrite c c.equalWord else s) s

/-- On entering SOLO no acknowledgement is required: every write that waits for one commits (R17, R139). -/
def State.commitWaiting (s : State) : State :=
  (s.cqe.cmds.filter fun c => c.acks != [] && c.decided.isNone && !c.isDup).foldl (fun s c => s.commitWrite { c with acks := [] } c.equalWord) s

/-- MIRROR_DEADLINE (R141): no acknowledgement by the mirror deadline: the write is not committed and completes with
LEASE_TRANSITION and RETRY_US 1,000; event 0x0A21 with the count in the window. -/
def execMirrorDeadline (qp : BitVec 14) (cid : BitVec 16) (s : State) : Host.Outcome State Fault Refusal :=
  let pick (k : Nat) : Option Cmd := (s.cqe.cmd k cid.toNat).bind fun c => if c.acks = [] then none else some c
  match (pick qp.toNat).orElse fun _ => pick (qp.toNat + 16384) with
  | none => .next s
  | some c =>
    match boundNs (s.dsc.tableFor c.tag) c.cls c.opc c.nsect with
    | none => .next s
    | some b =>
      if s.wc.mirrorSt ≠ .mirrored ∧ s.wc.mirrorSt ≠ .stalled then .next s
      else
        let s := s.advanceTo (c.late.getD c.start + b + c.excl - 1000)
        let n := if s.wc.deadlineWin = secOf s.dt then s.wc.deadlineCount + 1 else 1
        let s := (s.event 0x0A21 0 n 0 0 0).modWc fun w => { w with deadlineWin := secOf s.dt, deadlineCount := n }
        .next (s.endUncommitted { c with mirrorSent := false } (c.completion stLease 1000 0 0 0) s.dt)

/-! ## The peer's frames in this head's mirror area -/

/-- Frames that fit in the mirror area: the peer's WC_SIZE (R133). -/
def Wc.mirrorFrames (w : Wc) : Nat := w.peerSizeGib * 2 ^ 30 / 8192

/-- Write a copy into the mirror area and make it live (R138); a copy over a live entry keeps the sectors it replaces, for a
discard (R140). -/
def Wc.putMirror (w : Wc) (frame : Nat) (d : Desc) (ss : List (Nat × Bytes)) : Wc :=
  let old := tget w.mirror frame
  let base := match old with
    | some f => if f.desc.gen = d.gen ∧ f.desc.vol = d.vol ∧ f.desc.grain = d.grain then f.data else [zeroSector, zeroSector]
    | none => [zeroSector, zeroSector]
  let kept := match old with
    | some f => if f.desc.gen = d.gen then [0, 1].map fun k => (f.desc.present.toNat, 0, k, f.data.getD k zeroSector) else []
    | none => []
  let data := ss.foldl (fun (a : List Bytes) x => a.set x.1 x.2) base
  { w with mirror := tput w.mirror frame { desc := d, st := .dirty, data := data, pend := kept, mirrored := true } }

/-- Discard a copy (R140): what it replaced stands again, or the entry is gone. -/
def Wc.discardMirror (w : Wc) (frame gen : Nat) : Wc :=
  match tget w.mirror frame with
  | none => w
  | some f =>
    if f.desc.gen ≠ gen then w
    else match f.pend with
      | [] => { w with mirror := tdel w.mirror frame }
      | p :: _ => { w with mirror := tput w.mirror frame ({ f with
          data := [0, 1].map fun k => (match f.pend.find? fun q => q.2.2.1 == k with | some q => q.2.2.2 | none => zeroSector)
          desc := { f.desc with present := BitVec.ofNat 2 p.1, committed := BitVec.ofNat 2 p.1 }
          pend := [] } : Frame).sealed }

/-- MIRROR_COPY (R59, R138): discarded and counted when its descriptor CRC fails, its data disagrees with the mask or its frame
lies outside the mirror area; otherwise written, live and acknowledged. -/
def execMirrorCopy (frame : Nat) (desc : Desc) (crcOk : Bool) (data : List Bytes) (s : State) : Host.Outcome State Fault Refusal :=
  let ks := [0, 1].filter fun k => desc.present.getLsbD k
  if s.wc.frozen then .next s
  else if !crcOk ∨ data.length ≠ ks.length ∨ data.any (fun b => b.length != 4096) ∨ frame ≥ s.wc.mirrorFrames then
    .next (s.portViolation .peer 0x0A05 0 0 0)
  else
    let s := s.modWc fun w => w.putMirror frame desc (ks.zip data)
    .next (s.toPeer (.mirrorAck frame desc.gen desc.present.toNat))

/-- RELEASE (R20): the entry is no longer live. -/
def State.releaseMirror (s : State) (frame gen : Nat) : State :=
  match tget s.wc.mirror frame with
  | some f => if f.desc.gen = gen then s.modWc fun w => { w with mirror := tdel w.mirror frame } else s
  | none => s

/-- The receiving head's side of R319: MIRROR_META names the frame of data that it forwarded and kept, one record for each
grain in ascending order; the entry is live and acknowledged. -/
def State.mirrorMetaIn (s : State) (frame gen cid qp cepoch mask : Nat) : State :=
  match s.wc.fwdData.find? fun x => x.1 == qp && x.2.1 == cid, s.cqe.cmd qp cid with
  | some x, some c =>
    let g := (rangeGrains c.lba c.nsect).getD c.metas (c.lba / 2)
    let img := if c.opc = opCaw then x.2.2.drop 1 else x.2.2
    let ss := (c.sectorsIn g).map fun p => (p.2, img.getD p.1 zeroSector)
    let held := match tget s.wc.mirror frame with | some f => if f.desc.gen = gen then f.desc.present else 0 | none => 0
    let m := held ||| BitVec.ofNat 2 mask
    let d : Desc := { vol := c.vol, grain := g, present := m, committed := m, gen := gen, cepoch := cepoch, crc0 := 0, crc1 := 0 }
    let s := s.modWc fun w =>
      let w := w.putMirror frame d ss
      { w with mirror := tmod w.mirror frame Frame.sealed }
    (s.modCmd c.qp c.cid fun x => { x with metas := x.metas + 1 }).toPeer (.mirrorAck frame gen mask)
  | _, _ => s

/-- An admitted write starts: frames are taken; a ZERO_RANGE carries its own zeros (R86). -/
def State.startWrite (s : State) (c : Cmd) : State :=
  let r := s.takeFrames c
  if c.opc = opZero then r.2.launchWrite r.1 (List.replicate c.nsect zeroSector)
  else r.2

end Sys2Proof.Machine
end

