-- ==== Sys2Proof/Machine/ReadPath.lean ====
section
/-! DEFINITION. The read path: late-bound reads (R119), decoding and its repairs (R215 to R217, R239, R240), and what READ,
VERIFY, COMPARE and COMPARE_AND_WRITE make of the sectors (R85, R87). -/

namespace Sys2Proof.Machine

open Sys2Proof

def State.modPart (s : State) (qp cid idx : Nat) (f : Part → Part) : State :=
  s.modCmd qp cid fun c => { c with parts := lmod c.parts idx f }

/-! ## What the sectors give -/

/-- A sector of a part as it stands now: the newest committed one in the write cache (R21), else what flash gave, else the
status and sub-code of its failure. -/
def State.sectorNow (s : State) (c : Cmd) (p : Part) (k : Nat) : Except (Nat × Nat) Bytes :=
  match s.cached c.vol p.grain k with
  | some b => .ok b
  | none => match p.result with
    | some (0, _) => .ok (p.data.getD k zeroSector)
    | some r => .error r
    | none => .ok zeroSector

/-- Every sector of a command, in order: offset and outcome. -/
def State.sectorsNow (s : State) (c : Cmd) : List (Nat × Except (Nat × Nat) Bytes) :=
  c.parts.flatMap fun p => p.sectors.map fun x => (x.1, s.sectorNow c p x.2)

def exOk : Except (Nat × Nat) Bytes → Bool | .ok _ => true | .error _ => false
def exBytes : Except (Nat × Nat) Bytes → Bytes | .ok b => b | .error _ => zeroSector

/-- The failing sectors of a command. -/
def failing (xs : List (Nat × Except (Nat × Nat) Bytes)) : List (Nat × Nat × Nat) :=
  xs.filterMap fun x => match x.2 with | .error e => some (x.1, e.1, e.2) | .ok _ => none

/-- The completion of R85 for a command some of whose sectors fail. -/
def Cmd.failedRead (c : Cmd) (fs : List (Nat × Nat × Nat)) : Option Completion :=
  match fs with
  | [] => none
  | f :: _ => some (c.completion f.2.1 0 f.2.2 f.1 fs.length)

/-- Send a command's data out: to its adapter, or to the head that forwarded it (R22, R43). Without credit the wait counts as
excluded time (R46). -/
def State.sendData (s : State) (c : Cmd) (b : Bytes) : State :=
  match c.fromPeer with
  | some _ => s.transmit .peer 1 (.fwdData (c.qp % 16384) c.cid b)
  | none =>
    if !s.sends c then s
    else
      let p := hostPort c.port
      let s := if s.room p 1 = 0 ∧ s.portUp p ∧ (s.link.port p).retrain.isNone then
          s.modCmd c.qp c.cid fun x => { x with blockedAt := x.blockedAt.orElse fun _ => some s.dt } else s
      s.transmit p 1 (.readData c.port c.qp c.cid b)

/-- An earlier COMPARE_AND_WRITE of the same sector is not yet decided here (R87): commands stand in order of arrival. -/
def State.cawWaits (s : State) (c : Cmd) : Bool :=
  c.opc == opCaw && (s.cqe.cmds.takeWhile fun x => !(x.qp == c.qp && x.cid == c.cid)).any fun x =>
    x.opc == opCaw && x.vol == c.vol && x.lba == c.lba && x.admitted && !x.waiting7 && x.decided.isNone && !x.committed

/-- A command whose reads, and whose data in, are complete reaches its outcome. -/
def State.tryFinish (s : State) (c : Cmd) : State :=
  let reads := c.opc == opRead || c.opc == opVerify || c.opc == opCompare || c.opc == opCaw
  if !reads ∨ !c.admitted ∨ c.waiting7 ∨ !c.open_ ∨ c.acks ≠ [] ∨ c.mirrorSent ∨ c.parts.any (fun p => p.result.isNone) ∨ !c.complete ∨ s.cawWaits c then s
  else
    let xs := s.sectorsNow c
    let fs := failing xs
    if c.opc = opRead then
      let k := (c.failedRead fs).getD (c.completion stSuccess 0 0 0 0)
      (s.sendData c (xs.map fun x => exBytes x.2).flatten).finish c k
    else if c.opc = opVerify then s.finish c ((c.failedRead fs).getD (c.completion stSuccess 0 0 0 0))
    else match c.failedRead fs with
      | some k =>
        let k := { k with cs0 := 0, cs1 := 0, cs2 := 0 }
        if c.opc = opCaw then s.endUncommitted c k (s.dt + 40000) else (s.drainCid c.qp c.cid).finish c k
      | none =>
        let img := c.sectors c.carries
        if c.opc = opCompare then
          match xs.find? fun x => exBytes x.2 != img.getD x.1 [] with
          | some x => s.finish c (c.completion stCompareFailed 0 0 x.1 0)
          | none => s.finish c (c.completion stSuccess 0 0 0 0)
        else if xs.all fun x => exBytes x.2 == img.getD 0 [] then s.launchWrite c [img.getD 1 zeroSector]
        else s.endUncommitted c (c.completion stCompareFailed 0 0x5AA5 0 0) (s.dt + 40000)

/-- Look a command up again and try to finish it. -/
def State.tryCmd (s : State) (qp cid : Nat) : State :=
  match s.cqe.cmd qp cid with | some c => s.tryFinish c | none => s

/-- COMPARE_AND_WRITE commands that waited for an earlier one (R87). -/
def State.pokeCaws (s : State) : State :=
  (s.cqe.cmds.filter fun c => c.opc == opCaw && c.admitted && c.decided.isNone).foldl (fun s c => s.tryCmd c.qp c.cid) s

/-- A part has its result. -/
def State.partDone (s : State) (qp cid idx : Nat) (r : Nat × Nat) (data : List Bytes) : State :=
  (s.modPart qp cid idx fun p => { p with result := some r, data := data }).tryCmd qp cid

/-! ## A grain from flash -/

/-- Storage lanes that run no decode; a compression on such a lane pauses (R197). -/
def Cpe.decodeLane (c : Cpe) : Option Nat := c.storageLanes.find? fun l => !c.decodes.any fun d => d.lane == some l

/-- The waiting decode with the earliest deadline takes a lane (R197). -/
def State.giveDecode (s : State) : State :=
  match s.cpe.decodeLane with
  | none => s
  | some l =>
    let due (d : Decode) : Nat := match s.cqe.cmd d.qp d.cid with | some c => c.worst | none => 0
    match (s.cpe.decodes.filter fun d => d.lane.isNone).foldl (fun (a : Option Decode) d => match a with
        | some x => if due d < due x then some d else a | none => some d) none with
    | none => s
    | some d => s.modCpe fun c => { c with decodes := c.decodes.map fun x => if x.tag == d.tag then { x with lane := some l } else x }

/-- Status and sub-code of a grain none of whose copies served (R216, R240). -/
def lastError : List Nat → Nat × Nat
  | [] => (stDataLost, 0)
  | 6 :: _ => (stCheckMismatch, 0)
  | e :: _ => (stDecodeError, e)

/-- No source is left for a grain of a host read (R216, R240): its sectors fail, and it goes on the recovery list (R241). -/
def State.hostDead (s : State) (f : Fetch) (c : Cmd) (idx : Nat) (serial : Nat) : State :=
  match c.parts[idx]? with
  | none => s.dropFetch f.num
  | some p =>
    let r := lastError p.bad
    let s := if p.bad = [] then s else s.event 0x1104 0 (lo32 serial) (hi32 serial) r.1 c.vol
    ((s.dropFetch f.num).recoverLater c.vol p.grain).partDone c.qp c.cid idx r []

/-- The next source of a grain of a host read (R216, R239); P and Q only while they can end within the bound. -/
def State.hostNext (s : State) (f : Fetch) (c : Cmd) (idx serial : Nat) : State :=
  let limit := match boundNs (s.dsc.tableFor c.tag) c.cls c.opc c.nsect with | some b => c.start + b | none => 2 ^ 64
  let outer := decide (s.dt + 2 * costE (s.ftu.dieType f.die) f.units 1 < limit)
  let f := if outer then f else { f with tried := 3 :: f.tried }
  match s.fetchNext f with
  | (true, s) => s
  | (false, s) => s.hostDead f c idx serial

/-- A copy of a grain is judged by the checks of R215. -/
def State.judgeCopy (s : State) (f : Fetch) (c : Cmd) (idx : Nat) (h : GrainHdr) (d : Bytes) : State :=
  let grain := match c.parts[idx]? with | some p => p.grain | none => 0
  match s.decodeGrain c.vol h d with
  | .ok out =>
    let repaired := f.tried != [] && f.path != 1
    let s := (s.noteRepair f true).dropFetch f.num
    let s := if repaired then s.recoverLater c.vol grain else s
    s.partDone c.qp c.cid idx (0, 0) (sectorsOf out)
  | .error e =>
    let s := (s.event 0x1103 0 (lo32 h.serial.toNat) (hi32 h.serial.toNat) e.code (f.path - 1)).modCpe fun p => p.countErr e
    let s := s.modPart c.qp c.cid idx fun p => { p with bad := e.code :: p.bad }
    let c := { c with parts := lmod c.parts idx fun p => { p with bad := e.code :: p.bad } }
    s.hostNext f c idx h.serial.toNat

/-- The units of a grain of a host read have come from a source, or it has failed. -/
def State.hostGot (s : State) (f : Fetch) (qp cid idx : Nat) (b : Option Bytes) : State :=
  match s.cqe.cmd qp cid with
  | none => s.dropFetch f.num
  | some c =>
    match b with
    | none => s.hostNext f c idx 0
    | some x =>
      match s.openGrain c.vol x with
      | none => (s.dropFetch f.num).partDone qp cid idx (stVolumeNotReady, 0) []
      | some (h, d) =>
        let pool := match s.cfg.volume c.vol with | some v => v.pool | none => 0
        if hdrDict h ∧ s.cpe.lostDicts.contains (256 * pool + h.dictId.toNat) then
          (s.dropFetch f.num).partDone qp cid idx (stDataLost, 0) []
        else if hdrRaw h then s.judgeCopy f c idx h d
        else
          let w : Decode := { tag := f.num, qp := qp, cid := cid, part := idx, header := h, data := d, copy := f.path - 1, vol := c.vol }
          (s.modCpe fun p => { p with decodes := p.decodes ++ [w] }).giveDecode

/-- DECODE_DONE (R197, R215): the lane that ran a decode has its result; the next waiting decode takes the lane. -/
def execDecodeDone (tag : Word) (lane : Fin 48) (s : State) : Host.Outcome State Fault Refusal :=
  match s.cpe.decodes.find? fun d => d.tag == tag.toNat && d.lane == some lane.val with
  | none => .next s
  | some d =>
    let s := (s.modCpe fun c => { c with decodes := c.decodes.filter fun x => x.tag != tag.toNat }).giveDecode
    match s.fetchOf tag.toNat, s.cqe.cmd d.qp d.cid with
    | some f, some c => .next (s.judgeCopy f c d.part d.header d.data)
    | _, _ => .next s

/-! ## Map misses -/

/-- The data read of a grain whose map page has come (R119): by claim on the die the entry names. -/
def State.lateBind (s : State) (c : Cmd) (idx : Nat) (grain : Nat) : State :=
  let e := s.entry c.vol grain
  let cause := s.mapFault e
  if cause ≠ 0 then (s.mapFaultAt c.vol grain cause).partDone c.qp c.cid idx (stDataLost, 0) []
  else if isLostEntry e then s.partDone c.qp c.cid idx (stDataLost, 0) []
  else if !isMapped e then s.partDone c.qp c.cid idx (0, 0) [zeroSector, zeroSector]
  else
    let num := s.dsc.nextFetch
    match s.startFetch (.hostRead c.qp c.cid idx) e.die.toNat e.chunk.toNat e.slot.toNat (e.cls.toNat + 1) with
    | (true, s) => s.modPart c.qp c.cid idx fun p => { p with fetch := some num }
    | (false, s) => (s.recoverLater c.vol grain).partDone c.qp c.cid idx (stDataLost, 0) []

/-- The late-bound parts of every command that waited for a map page. -/
def State.lateAll (s : State) (vol page : Nat) : State :=
  s.cqe.cmds.foldl (fun s c =>
    if c.vol ≠ vol ∨ !c.admitted ∨ c.isDup then s
    else (List.range c.parts.length).foldl (fun s i => match c.parts[i]? with
      | some p => if p.path = 4 ∧ p.result.isNone ∧ p.fetch.isNone ∧ p.grain / 512 = page then s.lateBind c i p.grain else s
      | none => s) s) s

/-- A map page has come: it is in the cache, pinned for the commands that wait for it (R119, R230). -/
def State.mapGot (s : State) (f : Fetch) (vol page : Nat) (b : Option Bytes) : State :=
  match b with
  | none =>
    match s.fetchNext f with
    | (true, s) => s
    | (false, s) =>
      -- no source gives the page: its grains cannot be read in time (R240)
      let s := (s.dropFetch f.num).modDsc fun d => { d with mapReads := d.mapReads.filter fun m => !(m.1 == vol && m.2.1 == page) }
      s.cqe.cmds.foldl (fun s c =>
        if c.vol ≠ vol then s
        else (List.range c.parts.length).foldl (fun s i => match c.parts[i]? with
          | some p => if p.path = 4 ∧ p.result.isNone ∧ p.grain / 512 = page then s.partDone c.qp c.cid i (stDataLost, 0) [] else s
          | none => s) s) s
  | some _ =>
    let src := s.resolve 18 vol page (s.ve vol)
    let s := (s.noteRepair f true).dropFetch f.num
    let s := s.modDsc fun d => { d with mapReads := d.mapReads.filter fun m => !(m.1 == vol && m.2.1 == page) }
    let s := s.modFtu fun u => { u with pages := u.pages.map fun q =>
      if (match src with | some p => p.vol == q.vol && p.page == q.page && p.epoch == q.epoch | none => false) then { q with cached := true } else q }
    s.lateAll vol page

/-! ## An admitted read starts -/

/-- Send the reads on peer dies, fill the parts that need no flash, and finish what is complete. -/
def State.startReads (s : State) (c : Cmd) : State :=
  let mine := s.ftu.fetches.filter fun f => match f.work with
    | .hostRead q i _ => q == c.qp && i == c.cid
    | .mapRead v _ => v == c.vol
    | _ => false
  let s := mine.foldl (fun s f =>
    let w := s.whereIs f.die f.chunk
    if f.path = 1 ∧ !(s.ftu.die w.1).own ∧ !s.link.ops.any (fun o => o.2.work == .fetch f.num) then
      s.sendPeerRead false w.1 w.2 f.unit f.units (s.dt + readTimeout (s.ftu.dieType w.1) f.units + 2560000) (.fetch f.num)
    else s) s
  let s := (List.range c.parts.length).foldl (fun s i => match c.parts[i]? with
    | some p =>
      if p.path ≠ 0 then s
      else
        let cause := s.mapFault (s.entry c.vol p.grain)
        let s := if p.result.isSome ∧ cause ≠ 0 then s.mapFaultAt c.vol p.grain cause else s
        if p.result.isSome then s
        else s.modPart c.qp c.cid i fun p => { p with result := some (0, 0), data := [zeroSector, zeroSector] }
    | none => s) s
  s.tryCmd c.qp c.cid

/-- An admitted command starts: its reads, its frames, its data timer. -/
def State.startCmd (s : State) (c : Cmd) : State :=
  if c.opc = opWrite ∨ c.opc = opZero then s.startWrite c
  else if c.opc = opCaw then
    let r := s.takeFrames c
    r.2.startReads r.1
  else s.startReads c

end Sys2Proof.Machine
end

