-- ==== Sys2Proof/Machine/Pack.lean ====
section
/-! DEFINITION. Chapters 08 and 09, writing flash: reservations of programs and erases (R24, R26, R110, R125, R351), segments
and stripes (R236, R237, R268 to R270), chunk directories (R225, R226), inner XOR rows (R223, R238), the dirty-region bitmap
(R273, R274) and the updates a metadata commit carries (R232). -/

namespace Sys2Proof.Machine

open Sys2Proof

/-! ## Reservations of programs and erases -/

/-- The frames that an interval covers. -/
def framesOf (a b : Nat) : List Nat := (List.range ((b - 1) / 20000 + 1 - a / 20000)).map (· + a / 20000)

/-- Power a program or erase is charged with (R349, R351). -/
def opPower (t : DieType) (k : ResvKind) : Nat := if k == .erase then t.pBers else t.pProg

/-- Every frame covered stays within its limit (R26, R351). -/
def limitFits (d : Dsc) (p a b : Nat) : Bool :=
  (framesOf a b).all fun n => match (d.bud n).limit with | none => true | some l => decide ((d.bud n).power + p ≤ l)

/-- Part of an interval that lies in a frame. -/
def partIn (n a b : Nat) : Nat := min b (20000 * (n + 1)) - max a (20000 * n)

/-- A background share of a pool has room in every frame covered (R125). -/
def State.shareFits (s : State) (d : Dsc) (pool k a b : Nat) : Bool :=
  (framesOf a b).all fun n =>
    let bud := d.bud n
    let shares := if bud.shares = [] then d.shareCur else bud.shares
    decide (bud.used.getD k 0 + partIn n a b ≤ shares.getD k 0 * s.poolDies pool * 20)

/-- Charge a share and the power of an operation in every frame it covers. -/
def Dsc.chargeOp (d : Dsc) (p a b : Nat) (share : Option Nat) : Dsc :=
  (framesOf a b).foldl (fun d n => d.modBud n fun f => { f with
    power := f.power + p
    used := (match share with
      | some k => lmod (f.used ++ List.replicate (7 - f.used.length) 0) k (· + partIn n a b)
      | none => f.used) }) d

/-- Suspend slots left to a program or erase of a die at a time, over the reads reserved there (R110); none where another
operation, a settle period or busy time stands. -/
def opSlots (cal : List Resv) (total t dur : Nat) : Option Nat :=
  if cal.any fun r => (isOp r.kind || r.kind == .settle || r.kind == .vault || r.kind == .busy) && overlaps r.start r.stop t (t + dur) then none
  else
    let reads := (cal.filter fun r => (r.kind == .read || r.kind == .claim) && overlaps r.start r.stop t (t + dur)).length
    if 2 * reads > total then none else some (total - 2 * reads)

/-- Reserve a program or erase on a die at the first time that fits inside the horizon. A time that only the governor's limit
speaks against is counted for CAPPED (R352). -/
def State.placeOp (s : State) (die : Nat) (kind : ResvKind) (work : Work) (share : Option Nat) : Bool × State :=
  let ty := s.ftu.dieType die
  let dur := if kind == .erase then eraseNs ty else progNs ty
  let total := if kind == .erase then ty.sErase else ty.sProg
  let p := opPower ty kind
  let cal := s.dsc.ofDie die
  let cands := up100 s.dt :: sortNat (((cal.filter fun r => isOp r.kind || r.kind == .settle).map fun r => up100 r.stop) ++
    (List.range 128).map fun i => (s.dt / 20000 + 1 + i) * 20000)
  let room (t : Nat) : Option Nat :=
    let ok : Bool := !(s.ftu.die die).leaving && decide (s.dsc.closedUntil ≤ t) && decide (s.dt ≤ t ∧ t + dur ≤ s.dt + 2560000) && (match share, s.diePool die with
      | some k, some q => s.shareFits s.dsc q k t (t + dur)
      | none, some _ => s.hostFits s.dsc die t dur
      | _, none => true)
    if ok then opSlots cal total t dur else none
  let fit := cands.filterMap fun t => (room t).map fun n => (t, n)
  let deferred := match fit.head? with | some x => !limitFits s.dsc p x.1 (x.1 + dur) | none => false
  let s := if deferred then s.modGov fun g => { g with capNow := g.capNow + 1 } else s
  match fit.find? fun x => limitFits s.dsc p x.1 (x.1 + dur) with
  | none => (false, s)
  | some (t, n) =>
    let r : Resv := { num := 0, die := die, start := t, stop := t + dur, kind := kind, slots := n, work := work, share := share }
    (true, s.modDsc fun d => (d.chargeOp p t (t + dur) share).enter r)

/-- A work is reserved and not issued, or in flight. -/
def State.underWay (s : State) (w : Work) : Bool :=
  s.dsc.cal.any (fun r => r.work == w && !r.issued) || s.link.ops.any fun o => o.2.work == w

/-! ## Metadata updates -/

/-- Put an update into the pool's open commit (R232). -/
def State.addUpdate (s : State) (pool : Nat) (u : Update1) : State :=
  if s.ftu.commits.any fun c => c.pool == pool && c.issuedAt.isNone then
    s.modFtu fun f => { f with commits := f.commits.map fun c =>
      if c.pool == pool && c.issuedAt.isNone then { c with updates := c.updates ++ [u] } else c }
  else
    let c : Commit := { seq := s.ftu.commitSeq + 1, pool := pool, updates := [u], openedAt := s.dt }
    s.modFtu fun f => { f with commitSeq := f.commitSeq + 1, commits := f.commits ++ [c] }

/-! ## Segments -/

def Segment.isSeg (g : Segment) (pool : Nat) (headB : Bool) (seq : Nat) : Bool := g.pool == pool && g.headB == headB && g.seq == seq

def State.modSegment (s : State) (pool : Nat) (headB : Bool) (seq : Nat) (h : Segment → Segment) : State :=
  s.modFtu fun f => { f with segs := f.segs.map fun g => if g.isSeg pool headB seq then h g else g }

/-- A segment changes its durable state (R243). -/
def State.setSegment (s : State) (g : Segment) (st : SegSt) : State :=
  (s.modSegment g.pool g.headB g.seq fun g => { g with st := st }).addUpdate g.pool (.segSt g.pool g.headB g.seq st)

/-- Die groups that every listed module has (R221, R222). -/
def Ftu.groups (f : Ftu) (half : Bool) (modules : List Nat) : Nat :=
  match modules with
  | [] => 0
  | m :: ms => ms.foldl (fun a x => min a ((f.moduleDies x half).length / 16)) ((f.moduleDies m half).length / 16)

/-- The type of a pool's dies. -/
def Ftu.poolType (f : Ftu) (modules : List Nat) : DieType :=
  match f.moduleDies (modules.headD 0) false ++ f.moduleDies (modules.headD 0) true with
  | d :: _ => f.dieType d
  | [] => {}

/-- Mean erase count of a block over the dies of a group, retired blocks left out (R236, R250). -/
def meanErase (ds : List Die) (b : Nat) : Nat :=
  meanOf (ds.filterMap fun d => if d.st == .retired || d.st == .absent || d.retired.contains b then none else some (tgetD d.pe b 0))

/-- The dies of a group on the listed modules. -/
def Ftu.segmentDies (f : Ftu) (half : Bool) (modules : List Nat) (g : Nat) : List Die :=
  (modules.flatMap fun m => f.groupDies m half g).map f.die

/-- The best of the FREE segments, given as block and group in ascending order (R236): the lowest mean erase count, on a tie the
lowest block index; for a wear victim the highest below PE_RATED (R250). None is lower than 0. -/
def bestSegment (hot : Bool) (rated : Nat) (dies : List (List Die)) : Option (Nat × (Nat × Nat)) → List (Nat × Nat) → Option (Nat × (Nat × Nat))
  | a, [] => a
  | a, c :: cs =>
    let m := meanErase (dies.getD c.2 []) c.1
    if hot && decide (m ≥ rated) then bestSegment hot rated dies a cs
    else
      let a' := match a with
        | none => some (m, c)
        | some x => if (if hot then decide (m > x.1) else decide (m < x.1)) then some (m, c) else a
      if !hot && m = 0 then a' else bestSegment hot rated dies a' cs

/-- The FREE segment to open (R236): block and die group. -/
def State.freeSegment (s : State) (pool : Nat) (half : Bool) (modules : List Nat) (hot : Bool) : Option (Nat × Nat) :=
  let ty := s.ftu.poolType modules
  let n := s.ftu.groups half modules
  let used := (s.ftu.segs.filter fun x => x.pool == pool && x.headB == half).map fun x => (x.block, x.group)
  let free := ((List.range ty.nBlk).flatMap fun b => (List.range n).map fun g => (b, g)).filter fun c => !used.contains c
  let dies := (List.range n).map (s.ftu.segmentDies half modules)
  (bestSegment hot ty.peRated dies none free).map (·.2)

/-- The first DRB slot of the half that is not taken (R273). -/
def State.drbFree (s : State) (pool : Nat) : Option Nat :=
  (List.range 8).find? fun n => !s.pxe.drb.any fun d => d.pool == pool && !d.peers && d.slot == n

/-- Open a segment of this head's half (R236); none without a FREE segment, a DRB slot (R273) or W modules (R284). -/
def State.openSegment (s : State) (pool kind : Nat) (hot : Bool) : Option Segment × State :=
  match tget s.pxe.layouts pool, s.ftu.half pool s.glb.headB, s.drbFree pool with
  | some l, some h, some slot =>
    let g := l.newest
    if g.2.length < l.k + 2 then (none, s)
    else match s.freeSegment pool s.glb.headB g.2 hot with
      | none => (none, s)
      | some (b, grp) =>
        let x : Segment := { pool := pool, headB := s.glb.headB, seq := h.segSeq + 1, block := b, group := grp, kind := kind, lgen := g.1 }
        let d : DrbSlot := { pool := pool, slot := slot, segSeq := x.seq, lgen := g.1 }
        let s := (s.modFtu fun f => { f with segs := f.segs ++ [x], halves := modHalf f.halves pool s.glb.headB fun h => { h with segSeq := h.segSeq + 1 } }).modPxe
          fun p => { p with drb := p.drb ++ [d] }
        (some x, s.addUpdate pool (.segSt pool x.headB x.seq .opened))
  | _, _, _ => (none, s)

/-- Stripes of a segment. -/
def State.stripesOf (s : State) (g : Segment) : Nat :=
  match tget s.pxe.layouts g.pool with
  | none => 0
  | some l => segStripes l.k (max 1 (l.list g.lgen).length) (s.ftu.poolType (l.list g.lgen)).pBlk

/-- Where slots of a place are counted (R255). -/
def State.addValid (s : State) (e : MapEntry) (n : Int) : State :=
  match s.segmentAt e.die.toNat e.chunk.toNat with
  | none => s
  | some g => s.modSegment g.pool g.headB g.seq fun g => { g with valid := ((g.valid : Int) + n).toNat }

/-! ## The dirty-region bitmap (R273, R274) -/

/-- Failure position of a module (R402). -/
def State.failPos (s : State) (pos : Nat) : Nat := match s.cfg.find 0x11 pos with | some (.module _ _ f _ _) => f | _ => pos

/-- Failure positions of a pool's PRESENT modules: its DRB log has a copy in three of them. -/
def State.drbPlaces (s : State) (pool : Nat) : Nat :=
  match tget s.pxe.layouts pool with
  | none => 0
  | some l => min 3 (((l.modules.filter fun m => s.memberSt m == .present).map s.failPos).eraseDups).length

/-- Set a region's bit (R274): held in the write cache, told to the peer, and written to the DRB log (log entry 40). -/
def State.setRegion (s : State) (pool segSeq region : Nat) : State :=
  match s.pxe.drb.find? fun d => d.pool == pool && !d.peers && d.segSeq == segSeq with
  | none => s
  | some d =>
    if d.regions.getLsbD region then s
    else
      let rseq := tgetD s.pxe.drbSeq pool 0 + 1
      let logged := s.drbPlaces pool
      let needs := s.wc.needsAck
      let s := s.modPxe fun p => { p with
        drbSeq := tput p.drbSeq pool rseq
        drb := p.drb.map fun x => if x.pool == pool && !x.peers && x.segSeq == segSeq then
          { x with regions := x.regions ||| BitVec.ofNat 256 (2 ^ region), rseq := rseq, acked := !needs, logged := logged } else x }
      if s.wc.mirrorSt = .solo then s else s.toPeer (.drbSet pool d.slot region segSeq rseq)

/-- Programs of a region may be issued (R274). -/
def State.regionReady (s : State) (pool segSeq region : Nat) : Bool :=
  s.pxe.drb.any fun d => d.pool == pool && !d.peers && d.segSeq == segSeq && d.regions.getLsbD region &&
    (d.acked || !s.wc.needsAck) && decide (2 ≤ d.logged)

/-- Clear the regions of a segment that hold nothing unfinished (R274); a slot without a set bit is free once its segment is no
longer open. -/
def State.clearRegions (s : State) (pool segSeq : Nat) : State :=
  match s.ftu.segs.find? fun g => g.isSeg pool s.glb.headB segSeq with
  | none => s.modPxe fun p => { p with drb := p.drb.filter fun d => !(d.pool == pool && !d.peers && d.segSeq == segSeq) }
  | some g =>
    let last := s.stripesOf g
    let quiet (r : Nat) : Bool :=
      decide (min last (1024 * (r + 1)) ≤ g.next) &&
      !(s.ftu.stripes.any fun t => t.pool == pool && t.segSeq == segSeq && t.stripe / 1024 == r) &&
      !(s.ftu.rows.any fun w => w.headB == g.headB && w.group == g.group && w.block == g.block) &&
      !(s.pxe.remaps.any fun m => m.2.2.1 == 0 && (match s.stripeAt m.1 m.2.1 with
        | some (x, t, _) => x.isSeg pool g.headB segSeq && t / 1024 == r | none => false))
    let clear := ((List.range 256).filter quiet).foldl (fun m r => m ||| BitVec.ofNat 256 (2 ^ r)) (0 : BitVec 256)
    s.modPxe fun p => { p with drb := (p.drb.map fun d =>
        if d.pool == pool && !d.peers && d.segSeq == segSeq then { d with regions := d.regions &&& ~~~ clear } else d).filter fun d =>
        !(d.pool == pool && !d.peers && d.segSeq == segSeq && d.regions == 0 && g.st != .opened) }

/-! ## Bytes of a stripe -/

/-- Put bytes into a byte string at an offset. -/
def putBytes (b : Bytes) (off : Nat) (x : Bytes) : Bytes := b.take off ++ x ++ b.drop (off + x.length)

/-- The back-pointer of a grain (R226). -/
def backPointer (p : Packed) (shared : Bool) (kind : Nat) : Bytes :=
  leBytes 4 p.vol ++ leBytes 8 p.grain ++ leBytes 1 kind ++ leBytes 1 (bit shared) ++ leBytes 2 0

/-- The chunk directory before encryption (R225): KIND 1 grain data, 2 metadata, 3 fill. -/
def dirPlain (t : Stripe) (m pe : Nat) : Bytes :=
  let mine := t.grains.filter fun p => p.member == m
  let kind := if t.kind = 2 then 2 else if mine = [] then 3 else 1
  let base := leBytes 4 0x4B444843 ++ leBytes 2 7 ++ leBytes 1 kind ++ leBytes 1 t.pool ++ leBytes 8 t.segSeq ++ leBytes 4 t.stripe ++
    leBytes 1 m ++ leBytes 1 0 ++ leBytes 2 pe ++ List.replicate 2020 0
  let b := mine.foldl (fun b p => putBytes (putBytes b (64 + 32 * p.slot) (hdrAll p.hdr)) (1056 + 16 * p.slot)
    (backPointer p (p.domain.isSome) (if t.kind = 2 then 3 else 1))) base
  b ++ leBytes 4 (crc32c b).toNat

/-- A data member's chunk: its slots, fill where no grain lies, and its encrypted directory under its home cell (R225). The
slots of a metadata stripe that hold records the spec does not lay out are a free value (log entry 12). -/
def State.dataChunk (s : State) (t : Stripe) (m die chunk : Nat) : Bytes :=
  let dir := dirPlain t m (tgetD (s.ftu.die die).pe (chunk / 1024) 0)
  let key := tgetD s.xts.keys (metaSlot t.pool) []
  let base := if t.kind = 2 then leBytes 63488 (Config.freeValue 507904 t.num).toNat else List.replicate 63488 0
  let slots := (t.grains.filter fun p => p.member == m).foldl (fun b p => putBytes b (2048 * p.slot) p.slots) base
  slots ++ xtsCrypt true key (2 ^ 63 + 32 * (die * 2 ^ 23 + chunk)) dir

/-- The home cells of a stripe's members. -/
def State.homeCells (s : State) (t : Stripe) : List (Nat × Nat × Nat) :=
  match s.ftu.segs.find? fun g => g.isSeg t.pool t.headB t.segSeq with
  | none => []
  | some g => (List.range (t.k + 2)).map fun m => let c := s.memberAt g t.stripe m; (m, c.1, c.2)

/-- The bytes of a member (R262): a data chunk, P or Q. -/
def State.memberBytes (s : State) (t : Stripe) (m : Nat) : Bytes :=
  let home := s.homeCells t
  let chunk (i : Nat) : Bytes := match home.find? fun c => c.1 == i with | some c => s.dataChunk t i c.2.1 c.2.2 | none => []
  if m < t.k then chunk m
  else
    let ds := (List.range t.k).map fun i => (i, chunk i)
    if m = t.k then parityP ds else parityQ ds

/-! ## Remap targets (R278) -/

/-- Chunks of a rebuild segment on one module, in the order it is filled: row by row, XOR positions left out. -/
def State.rebuildCell (s : State) (g : Segment) (pos n : Nat) : Option (Nat × Nat) :=
  let ds := s.ftu.groupDies pos g.headB g.group
  let row := n / 15
  let j := n % 15
  let i := if j < row % 16 then j else j + 1
  if row < 1024 ∧ ds ≠ [] then some (ds.getD i 0, g.block * 1024 + row) else none

/-- Targets already given out. -/
def State.targets (s : State) : List (Nat × Nat) :=
  (s.pxe.remaps.filterMap fun r => if r.2.2.1 == 1 then some r.2.2.2 else none) ++
  (s.pxe.rebuild.flatMap fun p => p.2.cells.filterMap fun c => c.target) ++
  (s.ftu.stripes.flatMap fun t => t.left.map fun c => c.2)

/-- The next chunk of a rebuild segment on a module that is neither given out nor gone. -/
def State.nextTarget (s : State) (g : Segment) (pos : Nat) (not : Nat) : Option (Nat × Nat) :=
  let used := s.targets
  (List.range (15 * 1024)).findSome? fun n => match s.rebuildCell g pos n with
    | some c => if used.contains c || s.ftu.dieGone c.1 c.2 || c.1 == not then none else some c
    | none => none

/-- A target for a home cell (R278): on the home module for a retired die or block or a void cell, else on a PRESENT module that
is no member of the cell's stripe. -/
def State.takeTarget (s : State) (pool home chunk : Nat) : Option (Nat × Nat) × State :=
  let there := s.memberSt (home / 256) == .present
  let members := (s.stripeMembers home chunk).map fun m => m.2.1 / 256
  let mods := match tget s.pxe.layouts pool with | some l => l.newest.2 | none => []
  let ok (m : Nat) : Bool := if there then m == home / 256 else s.memberSt m == .present && !members.contains m
  let try_ (s : State) : Option (Nat × Nat) :=
    (s.ftu.segs.filter fun g => g.pool == pool && g.headB == s.glb.headB && g.kind == 3 && g.st == .opened).findSome? fun g =>
      (mods.filter ok).findSome? fun m => s.nextTarget g m home
  match try_ s with
  | some t => (some t, s)
  | none =>
    if !mods.any ok then (none, s)
    else match s.openSegment pool 3 false with
      | (none, s) => (none, s)
      | (some _, s) => (try_ s, s)

/-! ## Stripes -/

def State.modStripe (s : State) (num : Nat) (h : Stripe → Stripe) : State :=
  s.modFtu fun f => { f with stripes := f.stripes.map fun t => if t.num == num then h t else t }

def State.stripeOf (s : State) (num : Nat) : Option Stripe := s.ftu.stripes.find? fun t => t.num == num

/-- The stripe being filled for a kind of work; a new one of the open segment, or of a segment opened for it. -/
def State.takeStripe (s : State) (pool kind : Nat) (hot : Bool) : Option Stripe × State :=
  match s.ftu.stripes.find? fun t => t.pool == pool && t.kind == kind && !t.issued && t.headB == s.glb.headB with
  | some t => (some t, s)
  | none =>
    let seg := s.ftu.segs.find? fun g => g.pool == pool && g.headB == s.glb.headB && g.kind == kind && g.st == .opened
    let r : Option Segment × State := match seg with
      | some g => if g.next < s.stripesOf g then (some g, s)
        else (s.modSegment g.pool g.headB g.seq fun g => { g with sealedAt := s.dt }).setSegment g .sealed |>.openSegment pool kind hot
      | none => s.openSegment pool kind hot
    match r with
    | (none, s) => (none, s)
    | (some g, s) =>
      let t : Stripe := { num := s.ftu.nextStripe, pool := pool, headB := g.headB, segSeq := g.seq, stripe := g.next, kind := kind,
                          k := s.poolK pool, lastAt := s.dt }
      let s := s.modSegment g.pool g.headB g.seq fun g => { g with next := g.next + 1 }
      (some t, s.modFtu fun f => { f with stripes := f.stripes ++ [t], nextStripe := f.nextStripe + 1 })

/-- Share that a stripe's programs are charged to: destage none, relocation GC, metadata, rebuild (R125). -/
def kindShare (kind : Nat) : Option Nat := match kind with | 1 => some 0 | 2 => some 5 | 3 => some 1 | _ => none

/-- Reserve the programs of a stripe that are neither reserved nor in flight, once its region is set (R24, R274). -/
def State.planStripe (s : State) (t : Stripe) : State :=
  if !t.issued ∨ t.failed ∨ !s.regionReady t.pool t.segSeq (t.stripe / 1024) then s
  else t.left.foldl (fun s c =>
    if s.underWay (.destage t.num c.1) then s else (s.placeOp c.2.1 .program (.destage t.num c.1) (kindShare t.kind)).2) s

/-- A full stripe is issued (R237, R270): a void cell's member goes to a remap target, one member that is not PRESENT is left
out under an ABSENT entry, with two the stripe is abandoned (R224, R269, R272). -/
def State.issueStripe (s : State) (num : Nat) : State :=
  match s.stripeOf num with
  | none => s
  | some t =>
    let cells := s.homeCells t
    let gone := cells.filter fun c => s.memberSt (c.2.1 / 256) != .present
    let place (a : List (Nat × Nat × Nat) × State) (c : Nat × Nat × Nat) : List (Nat × Nat × Nat) × State :=
      if gone.contains c then a
      else if a.2.ftu.dieGone c.2.1 c.2.2 then
        match a.2.takeTarget t.pool c.2.1 c.2.2 with
        | (some x, s) => (a.1 ++ [(c.1, x.1, x.2)], s)
        | (none, s) => (a.1, s)
      else (a.1 ++ [c], a.2)
    let r := cells.foldl place ([], s)
    let voids := r.1.filter fun c => !cells.contains c
    let s := r.2.setRegion t.pool t.segSeq (t.stripe / 1024)
    let s := if t.stripe % 1024 = 0 ∧ t.stripe / 1024 < 255 then s.setRegion t.pool t.segSeq (t.stripe / 1024 + 1) else s
    let lost := (List.range (t.k + 2)).filter fun m => !r.1.any fun c => c.1 == m
    let t' : Stripe := { t with issued := true, left := r.1, missing := lost, voids := voids, failed := decide (lost.length ≥ 2) }
    (s.modStripe num fun _ => t').planStripe t'

/-- Pack a grain of `n` slots (R237): the next positions of the chunk, else of the next chunk; a stripe that is full is
issued. -/
def State.packGrain (s : State) (kind : Nat) (hot : Bool) (pool : Nat) (p : Packed) (n : Nat) : Bool × State :=
  let put (s : State) (t : Stripe) (m sl : Nat) : State :=
    let p := { p with member := m, slot := sl }
    let s := s.modStripe t.num fun t => { t with grains := t.grains ++ [p], fillMember := m, fillSlot := sl + n, lastAt := s.dt }
    if m + 1 = t.k ∧ sl + n = 31 then s.issueStripe t.num else s
  match s.takeStripe pool kind hot with
  | (none, s) => (false, s)
  | (some t, s) =>
    if t.fillSlot + n ≤ 31 then (true, put s t t.fillMember t.fillSlot)
    else if t.fillMember + 1 < t.k then (true, put s t (t.fillMember + 1) 0)
    else match (s.issueStripe t.num).takeStripe pool kind hot with
      | (none, s) => (false, s)
      | (some t, s) => (true, put s t 0 0)

/-- The place a packed grain has once its stripe is programmed: its home cell (R227). -/
def State.placeOfPacked (s : State) (t : Stripe) (p : Packed) : MapEntry :=
  let c := match (s.homeCells t).find? fun c => c.1 == p.member with | some c => c.2 | none => (0, 0)
  { st := 1, cls := BitVec.ofNat 2 (ceilDiv p.slots.length 2048 - 1), slot := BitVec.ofNat 5 p.slot, chunk := BitVec.ofNat 23 c.2,
    die := BitVec.ofNat 15 c.1, shared := false, gen := BitVec.ofNat 14 p.gen, rsv := 0 }

/-! ## Inner XOR rows (R223) -/

/-- Data positions of a row that are programmed in its segment: retired blocks left out (R224), and cells of the tail band that
hold no whole stripe (R269). -/
def State.rowData (s : State) (die chunk : Nat) : List Nat :=
  match s.ftu.placeOf die with
  | none => []
  | some (g, _) => (s.ftu.groupDies (die / 256) (s.ftu.die die).half g).filter fun d =>
      !s.ftu.isXor d chunk && !s.ftu.dieGone d chunk && (match s.stripeAt d chunk with
        | some (x, t, _) => x.kind == 3 || decide (t < s.stripesOf x)
        | none => false)

/-- The die that holds a row's XOR chunk. -/
def State.xorDie (s : State) (die chunk : Nat) : Nat :=
  match s.ftu.placeOf die with
  | none => die
  | some (g, _) => (s.ftu.groupDies (die / 256) (s.ftu.die die).half g).getD (xorPos chunk) die

/-- Program the XOR chunks of rows whose data positions are all durable. -/
def State.planRows (s : State) : State :=
  s.ftu.rows.foldl (fun s r =>
    match r.done with
    | [] => s
    | d :: _ =>
      let chunk := 1024 * r.block + r.row
      let x := s.xorDie d chunk
      if (s.rowData d chunk).all r.done.contains then
        if s.ftu.dieGone x chunk then s.modFtu fun f => { f with rows := f.rows.filter fun w => w != r }
        else if s.underWay (.xorRow x r.block r.row) then s
        else (s.placeOp x .program (.xorRow x r.block r.row) (kindShare ((s.segmentAt d chunk).elim 0 (·.kind)))).2
      else s) s

/-- A chunk is durable: its row's sum takes it. -/
def State.chunkDurable (s : State) (die chunk : Nat) (b : Bytes) : State :=
  match s.ftu.placeOf die with
  | none => s
  | some (g, _) =>
    let half := (s.ftu.die die).half
    let hit (r : XorRow) : Bool := r.pos == die / 256 && r.headB == half && r.group == g && r.block == chunk / 1024 && r.row == chunk % 1024
    let new : XorRow := { pos := die / 256, headB := half, group := g, block := chunk / 1024, row := chunk % 1024, done := [die], acc := b }
    let rows : List XorRow := if s.ftu.rows.any hit then
        s.ftu.rows.map fun r => if hit r then { r with done := die :: r.done, acc := xorBytes r.acc b } else r
      else s.ftu.rows ++ [new]
    (s.modFtu fun f => { f with rows := rows }).planRows

/-! ## Serials (R408) -/

/-- The next grain serial of a pool: 2^61 x head + n. When it passes the durable mark, a new mark goes with the next commit. -/
def State.takeSerial (s : State) (pool : Nat) : Nat × State :=
  match s.ftu.half pool s.glb.headB with
  | none => (0, s)
  | some h =>
    let n := h.serial + 1
    let mark := if n > h.mark then n + 2 ^ 20 else h.mark
    let s := s.modFtu fun f => { f with halves := modHalf f.halves pool s.glb.headB fun h => { h with serial := n, mark := mark } }
    (2 ^ 61 * s.headNum + n, if mark = h.mark then s else s.addUpdate pool (.mark pool mark))

def State.takeMetaSerial (s : State) (pool : Nat) : Nat × State :=
  match s.ftu.half pool s.glb.headB with
  | none => (0, s)
  | some h =>
    let n := h.metaSerial + 1
    (2 ^ 62 + 2 ^ 61 * s.headNum + n,
     s.modFtu fun f => { f with halves := modHalf f.halves pool s.glb.headB fun h => { h with metaSerial := n } })

end Sys2Proof.Machine
end

