-- ==== Sys2Proof/Machine/Commit.lean ====
section
/-! DEFINITION. Chapter 08, metadata commits (R232 to R235, R244, R277), what a map update does to references and space (R187,
R231, R257, R294), and the release of frames once their updates are durable (R20, R147, R186). -/

namespace Sys2Proof.Machine

open Sys2Proof

/-! ## References and space -/

/-- A place is named by a map entry of some version, or by an index entry (R245). -/
def State.referenced (s : State) (e : MapEntry) : Bool :=
  s.ftu.pages.any (fun p => p.entries.any fun x => isMapped x.2 && samePlace x.2 e) ||
  s.dxu.doms.any fun d => d.2.idx.any fun i => samePlace i.loc e

/-- Slots are freed: space credit of their pool half (R257). -/
def State.giveCredit (s : State) (die slots : Nat) : State :=
  match s.diePool die with
  | none => s
  | some p => s.modFtu fun f => { f with halves := modHalf f.halves p (f.die die).half fun h => { h with credit := h.credit + slots } }

/-- A place that nothing names any more is garbage (R187). -/
def State.freePlace (s : State) (e : MapEntry) : State :=
  if !isMapped e ∨ s.referenced e then s
  else
    let n := e.cls.toNat + 1
    ((s.addValid e (-(n : Int))).giveCredit e.die.toNat n).modFtu fun f => { f with
      backrefs := f.backrefs.filter fun b => !(b.1 == e.die.toNat && b.2.1 == e.chunk.toNat && b.2.2.1 == e.slot.toNat) }

/-- One more reference to a grain that an index entry names (R187, R294). -/
def State.raiseRef (s : State) (e : MapEntry) : State :=
  let up (i : IdxEntry) : IdxEntry := if samePlace i.loc e then { i with refs := i.refs + 1 } else i
  s.modDxu fun x => { x with doms := x.doms.map fun d => (d.1, { d.2 with idx := d.2.idx.map up }) }

/-- Every map entry that names a place becomes SHARED (R227, R235). -/
def State.markShared (s : State) (e : MapEntry) : State :=
  let mark (x : Nat × MapEntry) : Nat × MapEntry := if isMapped x.2 && samePlace x.2 e then (x.1, { x.2 with shared := true }) else x
  s.modFtu fun f => { f with pages := f.pages.map fun p => { p with entries := p.entries.map mark } }

/-- One map update of volume epoch `ve` (R187, R293, R294): a new version references what the old one maps; the entry replaced
releases its reference, and its slots when nothing names them. -/
def State.applyMap (s : State) (vol grain ve : Nat) (new : MapEntry) : State :=
  let page := grain / 512
  let live := s.ftu.pageAt vol page ve
  let old := match live with | some p => if p.epoch = ve then tgetD p.entries (grain % 512) mapUnmapped else mapUnmapped | none => mapUnmapped
  let copied := match live with
    | some p => if p.epoch = ve then [] else p.entries
    | none => match s.resolve 18 vol page ve with | some p => p.entries | none => []
  let named := isMapped new && s.referenced new
  let s := (copied.filter fun x => isMapped x.2 && x.1 != grain % 512).foldl (fun s x => s.raiseRef x.2) s
  let s := s.putEntry vol grain ve new
  let s := if isMapped new ∧ !named then s.addValid new (new.cls.toNat + 1 : Nat) else s
  if !isMapped old ∨ (isMapped new ∧ samePlace old new) then s else (s.dropRef old).freePlace old

/-- A move (R244): every entry that still names the old place, LOC included, names the new one; an entry that names anything
else is left alone. The number of entries rewritten. -/
def State.applyMove (s : State) (old new : MapEntry) : Nat × State :=
  let hit (x : MapEntry) : Bool := isMapped x && samePlace x old
  let n := lsum (s.ftu.pages.map fun p => (p.entries.filter fun x => hit x.2).length) +
    lsum (s.dxu.doms.map fun d => (d.2.idx.filter fun i => samePlace i.loc old).length)
  if n = 0 then (0, s)
  else
    let moved (x : MapEntry) : MapEntry := { x with slot := new.slot, chunk := new.chunk, die := new.die }
    let page (p : MapPage) : MapPage := if p.entries.any (fun x => hit x.2) then
        { p with dirty := true, entries := p.entries.map fun x => if hit x.2 then (x.1, moved x.2) else x } else p
    let back (b : Nat × Nat × Nat × Nat × Nat) : Nat × Nat × Nat × Nat × Nat :=
      if b.1 == old.die.toNat && b.2.1 == old.chunk.toNat && b.2.2.1 == old.slot.toNat then
        (new.die.toNat, new.chunk.toNat, new.slot.toNat, b.2.2.2) else b
    let s := s.modFtu fun f => { f with pages := f.pages.map page, backrefs := f.backrefs.map back }
    let move (i : IdxEntry) : IdxEntry := if samePlace i.loc old then { i with loc := moved i.loc } else i
    let s := s.modDxu fun x => { x with doms := x.doms.map fun d => (d.1, { d.2 with idx := d.2.idx.map move }) }
    (n, ((s.addValid new (new.cls.toNat + 1 : Nat)).addValid old (-((old.cls.toNat + 1 : Nat) : Int))).giveCredit old.die.toNat (old.cls.toNat + 1))

/-! ## Applying updates (R231, R233) -/

/-- Enter a remap entry (R277). -/
def putRemap (rs : List (Nat × Nat × Nat × Nat × Nat)) (home : Nat × Nat) (st : Nat) (target : Nat × Nat) : List (Nat × Nat × Nat × Nat × Nat) :=
  (rs.filter fun r => !(r.1 == home.1 && r.2.1 == home.2)) ++ [(home.1, home.2, st, target.1, target.2)]

/-- A map update of a frame (R231): applied only when its generation is above the tail's record of the grain; an entry whose GEN
disagrees with the record is a map fault. -/
def State.applyFrameMap (s : State) (vol grain gen : Nat) (new : MapEntry) (cepoch : Nat) : State :=
  let rec_ := (s.ftu.tailGen.find? fun t => t.1 == vol && t.2.1 == grain).map (·.2.2)
  let ve := s.veUnder vol cepoch
  let apply (s : State) : State :=
    (s.applyMap vol grain ve new).modFtu fun f => { f with tailGen := (vol, grain, gen) :: f.tailGen.filter fun t => !(t.1 == vol && t.2.1 == grain) }
  match rec_ with
  | none => apply s
  | some g =>
    if gen ≤ g then s
    else
      let e := s.entryAt vol grain ve
      if isMapped e ∧ e.gen ≠ BitVec.ofNat 14 g then apply (s.mapFaultAt vol grain 3) else apply s

/-- Apply one update of a commit when it is issued. -/
def State.applyUpdate (s : State) (u : Update1) : State :=
  match u with
  | .map vol grain gen new frame _ =>
    let cepoch := match frame.bind fun i => tget s.wc.frames i with | some f => f.desc.cepoch | none => s.cfg.epoch
    let s := s.applyFrameMap vol grain gen new cepoch
    if new.shared then s.markShared new else s
  | .moveMap _ _ old new => (s.applyMove old new).2
  | .refs _ _ _ => s
  | .segSt pool headB seq st =>
    if st = .reclaimed then
      match s.ftu.segs.find? fun g => g.isSeg pool headB seq with
      | none => s
      | some g =>
        let keep (r : Nat × Nat × Nat × Nat × Nat) : Bool :=
          match s.segmentAt r.1 r.2.1 with | some x => !x.isSeg g.pool g.headB g.seq | none => true
        s.modPxe fun p => { p with remaps := p.remaps.filter keep }
    else s
  | .lost _ _ => s
  | .remap home target => s.modPxe fun p => { p with remaps := putRemap p.remaps home (bit target.isSome) (target.getD (0, 0)) }
  | .mark _ _ => s
  | .layout _ _ => s

/-! ## Issuing -/

/-- The 4,096 bytes of a map page (R229). -/
def pageBytes (p : MapPage) : Bytes := (List.range 512).flatMap fun i => leBytes 8 (entryBits (tgetD p.entries i mapUnmapped))

/-- The header of a metadata record (R225). -/
def metaHdr (serial : Nat) (b : Bytes) : GrainHdr :=
  let slots := ceilDiv b.length 2048
  let h : GrainHdr := { magic := 0x4E, version := 0x07, flags := BitVec.ofNat 8 (1 + 8 * (slots - 1)), dictId := 0,
                        clenM1 := BitVec.ofNat 16 (b.length - 1), olenM1 := BitVec.ofNat 16 (b.length - 1),
                        serial := BitVec.ofNat 64 serial, ocrc := crc32c b, bseq := 0, rsv := 0, hcrc := 0 }
  { h with hcrc := crc32c (hdrBytes h ++ b) }

/-- Pages of a pool to write back, at most one stripe's worth (R234). -/
def State.dirtyPages (s : State) (pool : Nat) : List MapPage :=
  (s.ftu.pages.filter fun p => p.dirty && (match s.cfg.volume p.vol with | some v => v.pool == pool | none => false)).take (15 * s.poolK pool)

/-- Write pages back into the metadata stripe being filled. -/
def State.writeBack (s : State) (pool : Nat) (num : Nat) (ps : List MapPage) : State :=
  ps.foldl (fun s p =>
    let r := s.takeMetaSerial pool
    let b := pageBytes p
    let key := tgetD s.xts.keys (metaSlot pool) []
    let x : Packed := { frame := none, vol := p.vol, grain := 512 * p.page, gen := p.epoch, hdr := metaHdr r.1 b,
                        slots := xtsCrypt true key r.1 b, member := 0, slot := 0 }
    let s := r.2.modStripe num fun t =>
      let at_ := if t.fillSlot + 2 ≤ 31 then (t.fillMember, t.fillSlot) else (t.fillMember + 1, 0)
      { t with grains := t.grains ++ [{ x with member := at_.1, slot := at_.2 }], fillMember := at_.1, fillSlot := at_.2 + 2 }
    s.modFtu fun f => { f with pages := f.pages.map fun q =>
      if q.vol == p.vol && q.page == p.page && q.epoch == p.epoch then { q with dirty := false } else q }) s

/-- A map update would create a page version while the version region, at 12 bytes a version, has no room (R293, R296). -/
def State.heldVersion (s : State) (u : Update1) : Bool :=
  let full := match s.mcu.sizes with | some z => decide (z.version * 2 ^ 30 < 12 * (s.ftu.pages.length + 1)) | none => false
  match u with
  | .map vol grain _ _ frame _ =>
    let ve := s.veUnder vol (match frame.bind fun i => tget s.wc.frames i with | some f => f.desc.cepoch | none => s.cfg.epoch)
    full && (match s.ftu.pageAt vol (grain / 512) ve with | some p => p.epoch != ve | none => true)
  | _ => false

/-- Updates held because the version region is full (R296): event 0x1463 as the holding begins. -/
def State.holdVersions (s : State) (held : List Update1) : State :=
  match held with
  | .map vol _ _ _ _ _ :: _ =>
    if s.ftu.versionsHeld then s
    else (s.event 0x1463 vol vol (lo32 s.ftu.pages.length) 0 0).modFtu fun f => { f with versionsHeld := true }
  | _ => s.modFtu fun f => { f with versionsHeld := false }

/-- Close the pool's open commit (R232, R233): its updates take effect in DRAM and its records go out as one full metadata
stripe, with dirty pages beside them (log entry 41). Without space for a stripe it stays open. Updates that would create versions in a
full version region wait for a later commit (R296). -/
def State.closeCommit (s : State) (pool : Nat) : State :=
  match s.ftu.commits.find? fun c => c.pool == pool && c.issuedAt.isNone with
  | none => s
  | some c =>
    if c.updates.all s.heldVersion then
      (s.holdVersions c.updates).modFtu fun f => { f with commits := f.commits.map fun x => if x.seq == c.seq then { x with openedAt := s.dt } else x }
    else
    match s.takeStripe pool 2 false with
    | (none, s) => s
    | (some t, s) =>
      let all := (s.ftu.commits.find? fun x => x.seq == c.seq).elim c.updates (·.updates)
      let r := all.foldl (fun (a : List Update1 × State) u => if a.2.heldVersion u then (a.1 ++ [u], a.2) else (a.1, a.2.applyUpdate u)) ([], s)
      let us := all.filter fun u => !r.1.contains u
      let s := r.2.holdVersions r.1
      let s := s.modFtu fun f => { f with commits := f.commits.map fun x =>
        if x.seq == c.seq then { x with issuedAt := some s.dt, left := 1, updates := us } else x }
      let s := (s.modStripe t.num fun t => { t with commit := some c.seq }).writeBack pool t.num (s.dirtyPages pool)
      r.1.foldl (fun s u => s.addUpdate pool u) (s.issueStripe t.num)

/-- COMMIT_CLOSE_TIMER (R232): 200 us have passed since a commit with pending updates was opened, or it has reached 4 MiB. -/
def execCommitCloseTimer (s : State) : Host.Outcome State Fault Refusal :=
  let opened := s.ftu.commits.filter fun c => c.issuedAt.isNone && !c.updates.isEmpty
  match opened with
  | [] => .next s
  | c :: cs =>
    let s := s.advanceTo (cs.foldl (fun t x => min t x.openedAt) c.openedAt + usNs 200)
    .next ((opened.filter fun c => decide (c.openedAt + usNs 200 ≤ s.dt)).foldl (fun s c => s.closeCommit c.pool) s)

/-! ## Durable -/

/-- A frame's map update is durable: the frame is FREE and its mirror entry is released (R20, R147). -/
def State.releaseFrame (s : State) (i : Nat) : State :=
  match tget s.wc.frames i with
  | none => s
  | some f =>
    let s := s.modWc fun w => { w with frames := tdel w.frames i, resync := w.resync.filter fun r => r.1 != i }
    let s := if f.mirrored then s.toPeer (.release i f.desc.gen) else s
    if (s.wc.newest f.desc.vol f.desc.grain).isSome then s
    else s.modFtu fun u => { u with tailGen := u.tailGen.filter fun t => !(t.1 == f.desc.vol && t.2.1 == f.desc.grain) }

/-- The CRC-32C of a frame's grain from the two of its descriptor (R186). -/
def Frame.ocrc (f : Frame) : Word :=
  crcBytes (0x82F63B78 : Word) f.desc.crc0 (List.replicate 4096 0) ^^^ f.desc.crc1

/-- The dedup domain of a frame's volume, when it is declared. -/
def State.frameDomain (s : State) (f : Frame) : Option Nat :=
  (s.cfg.volume f.desc.vol).bind fun v => v.domain.bind fun d => if (tget s.dxu.doms d).isSome then some d else none

/-- A frame's update is durable: its tag, entry and log entry are inserted when it was stored as unique (R180, R186 step 7), and
the frame is released. -/
def State.frameDurable (s : State) (i gen : Nat) (new : MapEntry) (serial : Nat) : State :=
  match tget s.wc.frames i with
  | none => s
  | some f =>
    if f.desc.gen ≠ gen then s
    else
      let s := match s.frameDomain f, f.fp with
        | some d, some fp =>
          if serial = 0 then s
          else
            let wanted := s.dxu.inflight.any fun x => x.1 == d && x.2.2 == i
            (s.dxuInsert d fp new serial f.ocrc (!wanted)).modDxu fun x => { x with inflight := x.inflight.filter fun y => !(y.1 == d && y.2.2 == i) }
        | _, _ => s
      s.releaseFrame i

/-- A metadata commit is durable (R232): what its updates released goes, and the pool halves are judged again. -/
def State.commitDurable (s : State) (seq : Nat) : State :=
  match s.ftu.commits.find? fun c => c.seq == seq with
  | none => s
  | some c =>
    let us := (s.dt - c.issuedAt.getD s.dt) / 1000
    let s := s.modFtu fun f => { f with commits := f.commits.filter fun x => x.seq != seq, lastUs := sat 16 us }
    let s := c.updates.foldl (fun s u => match u with
      | .map _ _ gen new (some i) serial => s.frameDurable i gen new serial
      | .moveMap v g _ new => if (s.ftu.die new.die.toNat).own then s else s.toPeer (.mapMoveAck v g (bit (s.referenced new)))
      | .segSt p b q .free => s.modFtu fun f => { f with segs := f.segs.filter fun x => !x.isSeg p b q }
      | _ => s) s
    s.refreshPools

/-! ## Stripes durable and failed -/

/-- A moved grain of a group that the peer owns (R313). -/
def State.moveOwner (s : State) (vol : Nat) : Bool := match s.cfg.volume vol with | some v => s.ownsGroup v.group | none => true

/-- Every member of a stripe is durable (R232, R237, R270): its grains' updates go into the open commit, with the remap entries
of its void and missing cells (R269, R272); a metadata stripe makes its commit durable. -/
def State.stripeDurable (s : State) (t : Stripe) : State :=
  let home := s.homeCells t
  let s := s.modFtu fun f => { f with stripes := f.stripes.filter fun x => x.num != t.num }
  let s := t.voids.foldl (fun s c => match home.find? fun h => h.1 == c.1 with
    | some h => s.addUpdate t.pool (.remap h.2 (some c.2)) | none => s) s
  let s := t.missing.foldl (fun s m => match home.find? fun h => h.1 == m with
    | some h => s.addUpdate t.pool (.remap h.2 none) | none => s) s
  let s := t.grains.foldl (fun s p =>
    let e := s.placeOfPacked t p
    match p.old, p.frame with
    | some o, _ =>
      if s.moveOwner p.vol then s.addUpdate t.pool (.moveMap p.vol p.grain o e)
      else (s.modFtu fun f => { f with moves := f.moves ++ [(p.vol, p.grain, o, e)] }).toPeer (.mapMove p.vol p.grain (entryBits o) (entryBits e))
    | none, some i =>
      if (match tget s.wc.frames i with | some f => f.desc.gen == p.gen | none => false) then
        (s.modWc fun w => { w with frames := tmod w.frames i fun f => { f with stage := 5 } }).addUpdate t.pool
          (.map p.vol p.grain p.gen e (some i) p.hdr.serial.toNat)
      else s
    | none, none =>
      let q := s.ftu.pages.find? fun q => q.vol == p.vol && 512 * q.page == p.grain && q.epoch == p.gen
      let s := match q.bind (·.loc) with | some o => s.addValid o (-2) | none => s
      (s.modFtu fun f => { f with pages := f.pages.map fun q =>
        if q.vol == p.vol && 512 * q.page == p.grain && q.epoch == p.gen then { q with loc := some e } else q }).addValid e 2) s
  let s := s.clearRegions t.pool t.segSeq
  match t.commit with
  | some c => if s.ftu.stripes.any fun x => x.commit == some c then s else s.commitDurable c
  | none => s

/-- A stripe is written again in full to a new stripe (R248, R272): its chunks are garbage. -/
def State.restripe (s : State) (t : Stripe) : State :=
  let mine (w : Work) : Bool := match w with | .destage n _ => n == t.num | _ => false
  let s := s.modDsc fun d => { d with cal := d.cal.filter fun r => !(mine r.work && !r.issued) }
  let s := s.modFtu fun f => { f with stripes := f.stripes.filter fun x => x.num != t.num }
  match t.commit with
  | none => t.grains.foldl (fun s p => (s.packGrain t.kind false t.pool p (ceilDiv p.slots.length 2048)).2) s
  | some c =>
    match s.takeStripe t.pool 2 false with
    | (none, s) =>
      -- no space yet: the commit is open again
      s.modFtu fun f => { f with commits := f.commits.map fun x => if x.seq == c then { x with issuedAt := none } else x }
    | (some n, s) =>
      (s.modStripe n.num fun x => { x with grains := t.grains, commit := some c, fillMember := t.fillMember, fillSlot := t.fillSlot }).issueStripe n.num

/-- A member of a stripe is programmed. -/
def State.memberDurable (s : State) (num m die chunk : Nat) : State :=
  match s.stripeOf num with
  | none => s
  | some t =>
    let s := s.chunkDurable die chunk (s.memberBytes t m)
    let left := t.left.filter fun c => c.1 != m
    let t := { t with left := left }
    let s := s.modStripe num fun _ => t
    if left = [] ∧ !t.failed then s.stripeDurable t else s

end Sys2Proof.Machine
end

