-- ==== Sys2Proof/Machine/Destage.lean ====
section
/-! DEFINITION. Destage: from a DIRTY frame to its stripe (R145, R186, R189, R205 to R210, R237). -/

namespace Sys2Proof.Machine

open Sys2Proof

def State.modFrame (s : State) (i : Nat) (h : Frame → Frame) : State := s.modWc fun w => { w with frames := tmod w.frames i h }

/-- Volume epoch of the map update a frame will make (R291). -/
def State.frameVe (s : State) (f : Frame) : Nat := s.veUnder f.desc.vol f.desc.cepoch

/-- A frame waits: one of its volume with a lower volume epoch, or one that belongs to the image its clone started from, is not
yet durable (R291, R298). -/
def State.heldFrame (s : State) : Nat → Nat → Nat → Bool
  | 0, _, _ => false
  | n + 1, v, ve =>
    s.wc.frames.any (fun g => g.2.desc.vol == v && decide (s.frameVe g.2 < ve)) ||
    match s.cfg.volume v with
    | some r => if r.kind = 3 then (match s.snap.find r.source r.snap with | some x => s.heldFrame n r.source (x.e + 1) | none => false)
      else false
    | none => false

/-- A frame cannot be stored now: it is DIRTY again and destage takes it up later. -/
def State.undoDestage (s : State) (i : Nat) : State :=
  (s.modFrame i fun f => { f with st := .dirty, stage := 0 }).modDxu fun x => { x with inflight := x.inflight.filter fun y => y.2.2 != i }

/-! ## Compression -/

/-- A storage lane that compresses nothing takes the oldest frame that waits for one (R197). -/
def State.giveComp (s : State) : State :=
  match s.cpe.storageLanes.find? fun l => !s.cpe.comps.any fun c => c.2 == l with
  | none => s
  | some l =>
    let waiting := s.wc.frames.filter fun f => f.2.stage == 3 && !s.cpe.comps.any fun c => c.1 == f.1
    match waiting.foldl (fun (a : Option (Nat × Frame)) f => match a with
        | some x => if f.2.firstCommit < x.2.firstCommit then some f else a | none => some f) none with
    | none => s
    | some f => s.modCpe fun c => { c with comps := c.comps ++ [(f.1, l)] }

/-- A grain is to be stored as unique (R186 step 7): it waits for a storage lane. -/
def State.queueComp (s : State) (i : Nat) : State := (s.modFrame i fun f => { f with stage := 3 }).giveComp

/-- The pool a volume's grains are stored in. -/
def State.volPool (s : State) (v : Nat) : Nat := match s.cfg.volume v with | some r => r.pool | none => 0

/-- A coded grain goes through XTS into a stripe (R207, R237, R408). -/
def State.storeFrame (s : State) (i : Nat) (raw : Bool) : State :=
  match tget s.wc.frames i with
  | none => s
  | some f =>
    let pool := s.volPool f.desc.vol
    match tget s.xts.keys (s.dataSlot f.desc.vol) with
    | none => s.undoDestage i
    | some key =>
      let dict := (s.cfg.volume f.desc.vol).bind (·.dict)
      let hist := match dict with | some n => tgetD s.cpe.dicts (256 * pool + n) [] | none => []
      let c := storeForm hist dict f.data.flatten raw
      let r := s.takeSerial pool
      let h := storeHdr c.1 c.2 dict r.1 f.ocrc
      let slots := xtsCrypt true key r.1 (slotFill c.1)
      let n := ceilDiv slots.length 2048
      let p : Packed := { frame := some i, vol := f.desc.vol, grain := f.desc.grain, gen := f.desc.gen, hdr := h, slots := slots,
                          member := 0, slot := 0, domain := s.frameDomain f }
      match r.2.packGrain 0 false pool p n with
      | (true, s) => (s.modFrame i fun f => { f with stage := 4 }).modCpe fun c => { c with classes := lmod c.classes (n - 1) (bump 32) }
      | (false, s) => s.undoDestage i

/-! ## Deduplication (R186) -/

/-- A frame's update needs no stored data: the entry goes into the open commit. -/
def State.mapFrame (s : State) (i : Nat) (e : MapEntry) : State :=
  match tget s.wc.frames i with
  | none => s
  | some f => (s.modFrame i fun f => { f with stage := 5 }).addUpdate (s.volPool f.desc.vol)
      (.map f.desc.vol f.desc.grain f.desc.gen e (some i) 0)

/-- Steps 3 to 7 of R186 once the stored grain's equality is known. -/
def State.settleDedup (s : State) (i d : Nat) (fp : Bytes) (same : Bool) : State :=
  match tget s.wc.frames i with
  | none => s
  | some f =>
    match s.dedup d fp f.ocrc (fun _ => same) with
    | (.shared e, s) =>
      (s.takeRef d e).mapFrame i { e.loc with shared := true, gen := BitVec.ofNat 14 f.desc.gen }
    | (.unique noInsert, s) =>
      (if noInsert then s else s.modDxu fun x => { x with inflight := x.inflight ++ [(d, fp, i)] }).queueComp i

/-- Steps 2 to 7 of R186 for a frame with its fingerprint; `seen` is what the verify read gave (R189): equal, different, or no
copy. -/
def State.dedupFrame (s : State) (i d : Nat) (fp : Bytes) (seen : Option (Option Bool)) : State :=
  match tget s.wc.frames i, tget s.dxu.doms d with
  | some f, some dom =>
    if s.dxu.inflight.any fun x => x.1 == d && x.2.1 == fp && x.2.2 != i then s.modFrame i fun f => { f with stage := 1 }
    else
      let cand := if dom.lookup fp then dom.find fp else none
      match cand, seen with
      | some e, none =>
        if dom.verify ∧ e.ocrc = f.ocrc then
          match s.startFetch (.verifyRead i) e.loc.die.toNat e.loc.chunk.toNat e.loc.slot.toNat (e.loc.cls.toNat + 1) with
          | (true, s) => s.modFrame i fun f => { f with stage := 2 }
          | (false, s) => s.queueComp i
        else s.settleDedup i d fp false
      | _, some none => s.queueComp i
      | _, some (some b) => s.settleDedup i d fp b
      | _, none => s.settleDedup i d fp false
  | _, _ => s.queueComp i

/-- A frame whose grain is complete: fingerprint (R186 step 1) or storage. A frame whose key is absent waits (R177), as does one that
finds the table of 4,096 inserts in flight full (R180). -/
def State.destageFull (s : State) (i : Nat) : State :=
  match tget s.wc.frames i with
  | none => s
  | some f =>
    if (tget s.xts.keys (s.dataSlot f.desc.vol)).isNone then s.undoDestage i
    else match s.frameDomain f with
      | none => s.queueComp i
      | some d =>
        if (tget s.dge.fpKeys d).isNone ∨ s.dxu.inflight.length ≥ 4096 then s.undoDestage i
        else match f.fp.orElse fun _ => s.fingerprint d f.data.flatten with
        | none => s.undoDestage i
        | some fp => (s.modFrame i fun f => { f with fp := some fp }).dedupFrame i d fp none

/-- Frames that waited for an equal insert in flight go on (R186 step 2). -/
def State.wakeDedup (s : State) : State :=
  (s.wc.frames.filter fun f => f.2.stage == 1).foldl (fun s f => s.destageFull f.1) s

/-- Destage takes a DIRTY frame (R135, R145): an unmapped grain loses its mapping (R86); a grain of which the frame holds one
sector is completed from its stored copy. -/
def State.destageFrame (s : State) (i : Nat) : State :=
  match tget s.wc.frames i with
  | none => s
  | some f =>
    if s.heldFrame 18 f.desc.vol (s.frameVe f) then s
    else
    let s := s.modFrame i fun f => { f with st := .destaging, stage := 0 }
    if (s.cfg.volume f.desc.vol).isNone then s.releaseFrame i
    else if f.unmap ∧ f.desc.committed = 3 then s.mapFrame i mapUnmapped
    else
      let e := s.entryAt f.desc.vol f.desc.grain (s.frameVe f)
      if f.desc.committed = 3 ∨ !isMapped e then s.destageFull i
      else match s.startFetch (.mergeRead i) e.die.toNat e.chunk.toNat e.slot.toNat (e.cls.toNat + 1) with
        | (true, s) => s.modFrame i fun f => { f with stage := 6 }
        | (false, s) => (s.recoverLater f.desc.vol f.desc.grain).undoDestage i

/-- The stored grain that a destaging frame waits for, from a source, decoded. -/
def State.openFor (s : State) (v : Nat) (b : Bytes) : Option Bytes :=
  match s.openGrain v b with
  | none => none
  | some (h, d) => match s.decodeGrain v h d with | .ok out => some out | .error _ => none

/-- The next source of a fetch, or what follows when none is left. -/
def State.nextOr (s : State) (f : Fetch) (dead : State → State) : State :=
  match s.fetchNext f with
  | (true, s) => s
  | (false, s) => dead (s.dropFetch f.num)

/-- A check of R215 failed on a copy read for destage (event 0x1103). -/
def State.noteBadCopy (s : State) (v : Nat) (f : Fetch) (b : Bytes) : State :=
  match s.openGrain v b with
  | none => s
  | some (h, d) => match s.decodeGrain v h d with
    | .ok _ => s
    | .error e => (s.event 0x1103 0 (lo32 h.serial.toNat) (hi32 h.serial.toNat) e.code (f.path - 1)).modCpe fun p => p.countErr e

/-- The verify read of a frame has come, or a source of it failed (R189). -/
def State.verifyGot (s : State) (f : Fetch) (i : Nat) (b : Option Bytes) : State :=
  match tget s.wc.frames i with
  | none => s.dropFetch f.num
  | some fr =>
    let go (s : State) (seen : Option Bool) : State :=
      match s.frameDomain fr, fr.fp with
      | some d, some fp => s.dedupFrame i d fp (some seen)
      | _, _ => s.queueComp i
    match b with
    | none => s.nextOr f fun s => go s none
    | some x =>
      match s.openFor fr.desc.vol x with
      | some out => go (s.dropFetch f.num) (some (out == fr.data.flatten))
      | none => (s.noteBadCopy fr.desc.vol f x).nextOr f fun s => go s none

/-- The stored grain of a frame with one sector has come: its other sector completes the frame. -/
def State.mergeGot (s : State) (f : Fetch) (i : Nat) (b : Option Bytes) : State :=
  match tget s.wc.frames i with
  | none => s.dropFetch f.num
  | some fr =>
    let dead (s : State) : State := (s.recoverLater fr.desc.vol fr.desc.grain).undoDestage i
    match b with
    | none => s.nextOr f dead
    | some x =>
      match s.openFor fr.desc.vol x with
      | some out =>
        let ss := [0, 1].map fun k => if fr.desc.committed.getLsbD k then fr.data.getD k zeroSector else (sectorsOf out).getD k zeroSector
        let fr' : Frame := ({ fr with data := ss, desc := { fr.desc with committed := 3, present := 3 } } : Frame).sealed
        ((s.dropFetch f.num).modFrame i fun _ => fr').destageFull i
      | none => (s.noteBadCopy fr.desc.vol f x).nextOr f dead

/-! ## COMPRESS_DONE -/

/-- Sectors of a frame whose CRC fails (R210): those the data shows; when it shows none, a free value says which. -/
def State.badSectors (s : State) (f : Frame) : List Nat × State :=
  let bad := [0, 1].filter fun k => crc32c (f.data.getD k []) != (if k = 0 then f.desc.crc0 else f.desc.crc1)
  if bad ≠ [] then (bad, s)
  else
    let v := s.freeNat 2
    ((if v = 1 then [0] else if v = 2 then [1] else [0, 1]), s.freshen)

/-- INPUT_MISMATCH (R210): the peer's copy replaces the frame when it holds, which a free value says (log entry 42); otherwise
the sectors whose CRC fails are lost and the others destage as usual. -/
def State.inputMismatch (s : State) (i : Nat) (f : Frame) : State :=
  let b := s.badSectors f
  let s := b.2
  let mask := lsum (b.1.map fun k => 2 ^ k)
  let saved := decide (s.wc.mirrorSt = .mirrored) && f.mirrored && s.freeNat 1 == 1
  let s := if s.wc.mirrorSt = .mirrored ∧ f.mirrored then s.freshen else s
  if saved then (s.event 0x1105 0 i mask 0 0).undoDestage i
  else
    let s := (s.event 0x1105 0 i mask 1 0).loseGrain f.desc.vol f.desc.grain 1 4
    let left := b.1.foldl (fun (m : BitVec 2) k => m &&& ~~~ (BitVec.ofNat 2 (2 ^ k))) f.desc.committed
    let s := s.undoDestage i
    if left = 0 then s.releaseFrame i
    else s.modFrame i fun f => { f with
      desc := { f.desc with committed := left, present := left }
      data := [0, 1].map fun k => if left.getLsbD k then f.data.getD k zeroSector else zeroSector
      fp := none }

/-- COMPRESS_DONE (R209): a storage lane has coded and verified a grain: stored in its slot class, raw on a verify failure; a
frame whose input CRC differs stores nothing (R210). -/
def execCompressDone (frame : Nat) (lane : Fin 48) (laneFault inputCrcOk : Bool) (s : State) : Host.Outcome State Fault Refusal :=
  if !s.cpe.comps.contains (frame, lane.val) then .next s
  else
    let s := s.modCpe fun c => { c with comps := c.comps.filter (· != (frame, lane.val)) }
    match tget s.wc.frames frame with
    | none => .next s.giveComp
    | some f =>
      if !inputCrcOk then .next (s.inputMismatch frame f).giveComp
      else
        let dict := (s.cfg.volume f.desc.vol).bind (·.dict)
        let hist := match dict with | some n => tgetD s.cpe.dicts (256 * s.volPool f.desc.vol + n) [] | none => []
        let clen := (milletEncode hist dict none f.data.flatten).1.length
        let s := if laneFault then (s.event 0x1101 lane.val lane.val clen 2 0).modCpe fun c => { c with verifyFail := bump 32 c.verifyFail } else s
        .next (s.storeFrame frame (laneFault || s.cpe.forceRaw)).giveComp

/-! ## Taking frames, and padding -/

/-- Grains that destage's held budgets carry in one frame of 20 us (R117): 320,000 lane-ns of CPE at 1,366 ns a grain. -/
def destageGrains : Nat := 234

/-- Insert in order of first commit; frames that tie go in generation order (R143, R145). -/
def insertFrame (x : Nat × Frame) : List (Nat × Frame) → List (Nat × Frame)
  | [] => [x]
  | y :: ys =>
    if x.2.firstCommit < y.2.firstCommit ∨ (x.2.firstCommit = y.2.firstCommit ∧ x.2.desc.gen ≤ y.2.desc.gen) then x :: y :: ys
    else y :: insertFrame x ys

/-- Destage takes DIRTY frames in order of their first commit within each pool (R145). A pool half that cannot open a segment
keeps its frames DIRTY (R284). -/
def State.destageNow (s : State) : State :=
  if s.wc.frozen ∨ s.pmu.pstate = .p4 ∨ s.ha.stale then s
  else
    let dirty := s.wc.frames.filter fun f => f.2.st == .dirty && f.2.pend == []
    let order := dirty.foldl (fun a f => insertFrame f a) []
    (order.take destageGrains).foldl (fun s x => s.destageFrame x.1) s

/-- DESTAGE_PAD (R145): no new DIRTY frame of the pool for 100 ms with a stripe partly assembled: it is completed with fill. -/
def execDestagePad (pool : Fin 16) (s : State) : Host.Outcome State Fault Refusal :=
  match s.ftu.stripes.find? fun t => t.pool == pool.val && t.kind == 0 && !t.issued && !t.grains.isEmpty with
  | none => .next s
  | some t =>
    let s := s.advanceTo (max (tgetD s.wc.lastDirty pool.val 0) t.lastAt + msNs 100)
    let fill := t.k - 1 - t.fillMember
    .next ((s.event 0x1447 pool.val pool.val 1 fill 0).issueStripe t.num)

end Sys2Proof.Machine
end

