-- ==== Sys2Proof/Machine/Members.lean ====
section
/-! DEFINITION. Chapter 09: member states and layout generations (R266, R271, R272), remaps and rebuild (R276 to R285), lost
cells (R286), resynchronisation of regions (R275); dies and blocks that are retired (R248, R253). -/

namespace Sys2Proof.Machine

open Sys2Proof

/-! ## Records of the peer link -/

/-- A violation of the peer link (R345): event 0x0A3C, counted against the peer port. -/
def State.peerViolation (s : State) (rtype word : Nat) : State :=
  let s := s.modPort .peer fun q => q.violate s.dt
  s.event 0x0A3C 0 rtype word (s.link.port .peer).violCount 0

/-- The common checks of a VC4 record (R317, R345). -/
def State.peerRecord (s : State) (rtype : Nat) (h : RecHdr) (act : State → State) : State :=
  if h.rsvOk then act s else s.peerViolation rtype h.word0.toNat

/-! ## Layout generations (R266) -/

/-- A new layout generation of the PRESENT modules: event 0x130A, made durable in the segment table. -/
def State.newGeneration (s : State) (pool : Nat) : State :=
  match tget s.pxe.layouts pool with
  | none => s
  | some l =>
    let ms := (sortNat l.modules).filter fun m => s.memberSt m == .present
    let n := match l.gens.getLast? with | some g => (g.1 + 1) % 65536 | none => 0
    let s := s.modPxe fun p => { p with layouts := tput p.layouts pool { l with gens := l.gens ++ [(n, ms)] } }
    ((s.event 0x130A pool pool n ms.length (tableCrc l.seed n ms).toNat).addUpdate pool (.layout pool n)).refreshPools

/-! ## Rebuild -/

/-- Members of a pool that are not PRESENT. -/
def State.missingMembers (s : State) (pool : Nat) : Nat :=
  match tget s.pxe.layouts pool with
  | none => 0
  | some l => (l.modules.filter fun m => s.memberSt m != .present).length

def Rebuild.critical (r : Rebuild) : Nat :=
  ((r.cells.filter (·.critical)).map fun c => (c.segSeq, c.stripe)).eraseDups.length

def Rebuild.permille (r : Rebuild) : Nat := if r.queued = 0 then 0 else 1000 * r.done / r.queued

/-- The REBUILD notice (R288). -/
def State.rebuildNotice (s : State) (pool position : Nat) : State :=
  let r := tgetD s.pxe.rebuild pool {}
  let s := s.notifyPool pool 8 (leBytes 1 pool ++ leBytes 1 s.headNum ++ leBytes 1 r.st ++ leBytes 1 (s.missingMembers pool) ++
    leBytes 2 position ++ leBytes 2 r.permille ++ leBytes 8 (r.queued - r.done) ++ leBytes 8 r.critical)
  s.modPxe fun p => { p with rebuild := tput p.rebuild pool { r with noticeAt := s.dt, saidStep := r.permille / 50 } }

/-- STATE of a pool's rebuild (PXE_POOL_p_RB). -/
def State.rebuildState (s : State) (pool : Nat) : Nat :=
  let r := tgetD s.pxe.rebuild pool {}
  if r.cells.isEmpty then (if s.missingMembers pool > 0 then 1 else 0)
  else if r.paused ≠ 0 then 4
  else if r.critical > 0 then 3 else 2

/-- Bring a pool's rebuild state up to date: entering CRITICAL records 0x1304, and the shares follow (R280). -/
def State.refreshRebuild (s : State) (pool : Nat) : State :=
  let r := tgetD s.pxe.rebuild pool {}
  let n := s.rebuildState pool
  let s := s.modPxe fun p => { p with rebuild := tput p.rebuild pool { r with st := n } }
  let s := if n = 3 ∧ r.st ≠ 3 then s.event 0x1304 pool pool s.headNum r.critical (max s.pxe.critShare (s.dsc.shareCfg.getD 1 0 / 10)) else s
  s.refreshShares

/-- Cells of the OPEN and SEALED segments of this head's dies that are erased and neither queued nor lost: die, chunk, segment,
stripe, member. -/
def State.erasedCells (s : State) (pool : Nat) : List (Nat × Nat × Segment × Nat × Nat) :=
  let queued := (tgetD s.pxe.rebuild pool {}).cells.map fun c => (c.die, c.chunk)
  (s.ftu.segs.filter fun g => g.pool == pool && (g.st == .opened || g.st == .sealed) && g.kind != 3).flatMap fun g =>
    (List.range g.next).flatMap fun t =>
      if s.ftu.stripes.any fun x => x.pool == pool && x.segSeq == g.seq && x.headB == g.headB && x.stripe == t then []
      else (List.range (s.poolK pool + 2)).filterMap fun m =>
        let c := s.memberAt g t m
        let dead : Bool := match s.remapOf c.1 c.2 with | some (2, _) => true | _ => false
        if s.erased c.1 c.2 && !queued.contains c && !dead && s.memberSt (c.1 / 256) != .absent then some (c.1, c.2, g, t, m) else none

/-- Erasures of a stripe. -/
def State.erasures (s : State) (g : Segment) (stripe : Nat) : Nat :=
  ((List.range (s.poolK g.pool + 2)).filter fun m => let c := s.memberAt g stripe m; s.erased c.1 c.2).length

/-- Kind of a segment in the order of R279: metadata, index, grains. -/
def segRank (kind : Nat) : Nat := if kind = 2 then 0 else 2

/-- Rebuild order (R279). -/
def Cell.before (a b : Cell) : Bool :=
  if a.critical != b.critical then a.critical
  else if a.kind ≠ b.kind then decide (a.kind < b.kind)
  else if a.segSeq ≠ b.segSeq then decide (a.segSeq < b.segSeq)
  else decide (a.stripe < b.stripe ∨ (a.stripe = b.stripe ∧ a.member ≤ b.member))

def insertCell (c : Cell) : List Cell → List Cell
  | [] => [c]
  | d :: ds => if c.before d then c :: d :: ds else d :: insertCell c ds

/-- Every erased cell is queued (R279): event 0x1302 and a notice when rebuild starts. -/
def State.startRebuild (s : State) (pool position : Nat) : State :=
  let new := (s.erasedCells pool).map fun x =>
    ({ pool := pool, die := x.1, chunk := x.2.1, segSeq := x.2.2.1.seq, stripe := x.2.2.2.1, member := x.2.2.2.2, critical := false,
       kind := segRank x.2.2.1.kind } : Cell)
  if new = [] then s.refreshRebuild pool
  else
    let r := tgetD s.pxe.rebuild pool {}
    let fresh := r.cells.isEmpty
    let mark (c : Cell) : Cell :=
      match s.segmentAt c.die c.chunk with
      | some g => { c with critical := decide (2 ≤ s.erasures g c.stripe) }
      | none => c
    let cells := ((r.cells ++ new).map mark).foldl (fun cs c => insertCell c cs) []
    let r' : Rebuild := { r with
      queued := (if fresh then 0 else r.queued) + new.length
      done := if fresh then 0 else r.done
      cells := cells
      startAt := if fresh then s.dt else r.startAt }
    let s := s.modPxe fun p => { p with rebuild := tput p.rebuild pool r' }
    let s := if fresh then s.event 0x1302 pool pool s.headNum r'.queued r'.critical else s
    (s.refreshRebuild pool).rebuildNotice pool position

def State.modCell (s : State) (pool die chunk : Nat) (f : Cell → Cell) : State :=
  s.modPxe fun p => { p with rebuild := tmod p.rebuild pool fun r =>
    { r with cells := r.cells.map fun c => if c.die == die && c.chunk == chunk then f c else c } }

/-- A cell is done (R281): progress at every 50 permille; event 0x1303 and a final notice when the queue empties. -/
def State.cellDone (s : State) (pool die chunk : Nat) : State :=
  match tget s.pxe.rebuild pool with
  | none => s
  | some r =>
    if !r.cells.any fun c => c.die == die && c.chunk == chunk then s
    else
      let r' : Rebuild := { r with cells := r.cells.filter fun c => !(c.die == die && c.chunk == chunk), done := r.done + 1 }
      let s := (s.modPxe fun p => { p with rebuild := tput p.rebuild pool r' }).refreshRebuild pool
      if r'.cells.isEmpty then
        (s.event 0x1303 pool pool s.headNum r'.done ((s.dt - r'.startAt) / 1000000000)).rebuildNotice pool 0xFFFF
      else if r'.permille / 50 > r'.saidStep then s.rebuildNotice pool 0xFFFF else s

/-- REBUILD pauses with a cause (R283, event 0x1305), once. -/
def State.pauseRebuild (s : State) (pool cause : Nat) : State :=
  match tget s.pxe.rebuild pool with
  | none => s
  | some r =>
    if r.paused = cause then s
    else
      let s := (s.modPxe fun p => { p with rebuild := tput p.rebuild pool { r with paused := cause } }).refreshRebuild pool
      if cause = 0 then s else s.event 0x1305 pool pool s.headNum cause 0

/-- Why rebuild of a pool cannot go on: FREE at the floor, the remap region full (R283); 0 when it can. -/
def State.pauseCause (s : State) (pool : Nat) : Nat :=
  let low : Bool := match s.ftu.half pool s.glb.headB with | some h => decide (s.freeSlots h ≤ s.roFloor h) | none => false
  let full : Bool := match s.mcu.sizes with | some z => decide (16 * (s.pxe.remaps.length + 1) > z.remap * 2 ^ 30) | none => false
  if low then 1 else if full then 3 else 0

/-- Start the next cells of a pool's rebuild: at most two in a frame, the PXE time of R280. -/
def State.rebuildNow (s : State) (pool : Nat) : State :=
  match tget s.pxe.rebuild pool with
  | none => s
  | some r =>
    if r.cells.isEmpty ∨ s.ha.stale then s
    else
      let cause := s.pauseCause pool
      if cause ≠ 0 then s.pauseRebuild pool cause
      else
        let s := if r.paused ≠ 0 then s.pauseRebuild pool 0 else s
        let running := (r.cells.filter (·.running)).length
        ((r.cells.filter fun c => !c.running).take (2 - running)).foldl (fun s c =>
          match s.startFetch (.rebuild pool c.die c.chunk) c.die c.chunk 0 32 with
          | (true, s) => s.modCell pool c.die c.chunk fun c => { c with running := true }
          | (false, s) => s) s

/-! ## Lost cells (R264, R286) -/

/-- Grains with a slot in a chunk. -/
def State.grainsIn (s : State) (die chunk : Nat) : List (Nat × Nat) :=
  (s.ftu.pages.flatMap fun p => (p.entries.filter fun x => isMapped x.2 && x.2.die.toNat == die && x.2.chunk.toNat == chunk).map
    fun x => (p.vol, 512 * p.page + x.1)).eraseDups

/-- No source gives a cell (R264, R285): event 0x1306, its grains are lost, its remap entry LOST, its segment a refresh victim. -/
def State.loseCell (s : State) (pool : Nat) (c : Cell) : State :=
  let s := s.event 0x1306 pool pool c.segSeq c.stripe 32
  let s := s.refreshAt c.die c.chunk
  let s := (s.grainsIn c.die c.chunk).foldl (fun s g => if isLostEntry (s.entry g.1 g.2) then s else s.loseGrain g.1 g.2 1 1) s
  let s := s.modPxe fun p => { p with remaps := putRemap p.remaps (c.die, c.chunk) 2 (0, 0) }
  s.cellDone pool c.die c.chunk

/-- The bytes of a cell have been recovered, or a source failed (R279). -/
def State.rebuildGot (s : State) (f : Fetch) (pool die chunk : Nat) (b : Option Bytes) : State :=
  match (tgetD s.pxe.rebuild pool {}).cells.find? fun c => c.die == die && c.chunk == chunk with
  | none => s.dropFetch f.num
  | some c =>
    match b with
    | none => s.nextOr f fun s => s.loseCell pool c
    | some x =>
      let s := (s.dropFetch f.num).modPxe fun p => { p with busyNow := p.busyNow + 8 * 32 * s.poolK pool }
      match s.takeTarget pool die chunk with
      | (none, s) => (s.modCell pool die chunk fun c => { c with running := false }).pauseRebuild pool 2
      | (some t, s) =>
        let s := s.modCell pool die chunk fun c => { c with got := [(0, x)], target := some t }
        (s.placeOp t.1 .program (.cellWrite pool die chunk) (some 1)).2

/-- The copy of a cell is programmed: its entry becomes REMAPPED in a commit (R277, R279). -/
def State.cellWritten (s : State) (pool die chunk : Nat) : State :=
  match (tgetD s.pxe.rebuild pool {}).cells.find? fun c => c.die == die && c.chunk == chunk with
  | none => s
  | some c =>
    let s := match c.target, c.got with
      | some t, (_, b) :: _ => s.chunkDurable t.1 t.2 b
      | _, _ => s
    (s.addUpdate pool (.remap (die, chunk) c.target)).cellDone pool die chunk

/-- REBUILD_NOTICE_TIMER (R281): 60 s while rebuild runs. -/
def execRebuildNoticeTimer (pool : Fin 16) (s : State) : Host.Outcome State Fault Refusal :=
  match tget s.pxe.rebuild pool.val with
  | none => .next s
  | some r =>
    if r.cells.isEmpty then .next s
    else .next ((s.advanceTo (r.noticeAt + secNs 60)).rebuildNotice pool.val 0xFFFF)

/-! ## Member states (R271) -/

/-- A member changes state: event 0x1301, a record to the peer, a new generation where it leaves or becomes PRESENT (R266). -/
def State.setMember (s : State) (pos : Nat) (st : MemberSt) : State :=
  match tget s.pxe.members pos with
  | none => s
  | some m =>
    if m.st = st then s
    else
      let m' : Member := { m with
        st := st
        absentAt := if st = .absent then s.dt else m.absentAt
        bothAt := if st = .absent ∧ m.peerAbsent then some s.dt else none
        wasPresent := m.wasPresent || m.st == .present
        downAt := if st = .present then none else m.downAt }
      let s := (s.event 0x1301 pos pos m.pool (memberStNum m.st) (memberStNum st)).modPxe fun p => { p with members := tput p.members pos m' }
      let s := s.toPeer (.memberState pos m.pool (memberStNum st))
      let s := if m.st = .present ∨ st = .present then s.newGeneration m.pool else s
      s.refreshRebuild m.pool

/-- Stripes issued and not yet durable complete without a module when it is the only member they lack, else they are written
again (R272). -/
def State.stripesWithout (s : State) (pos : Nat) : State :=
  s.ftu.stripes.foldl (fun s t =>
    if !t.issued ∨ !t.left.any (fun c => c.2.1 / 256 == pos) then s
    else
      let gone := t.left.filter fun c => c.2.1 / 256 == pos
      let mine (w : Work) : Bool := gone.any fun c => w == .destage t.num c.1
      let s := s.modDsc fun d => { d with cal := d.cal.filter fun r => !(mine r.work && !r.issued) }
      let t' : Stripe := { t with left := t.left.filter (fun c => !gone.contains c), missing := t.missing ++ gone.map (·.1) }
      if t'.missing.length ≥ 2 then s.restripe t'
      else
        let s := s.modStripe t.num fun _ => t'
        if t'.left = [] then s.stripeDurable t' else s) s

/-- A member leaves PRESENT (R271, R272). -/
def State.memberLeaves (s : State) (pos : Nat) : State :=
  if s.memberSt pos ≠ .present then s else (s.setMember pos .absent).stripesWithout pos

/-- Lane of a module position is ACTIVE. -/
def State.moduleUp (s : State) (pos : Nat) : Bool := s.portUp (mediaPort pos)

/-- MEMBER_ABSENT: the lane has not been ACTIVE for 1 s, or the position is in quarantine. -/
def execMemberAbsent (pos : Fin 96) (s : State) : Host.Outcome State Fault Refusal :=
  let quar := (tgetD s.link.modules pos.val {}).quarantined
  if quar then .next (s.memberLeaves pos.val)
  else if s.moduleUp pos.val ∨ s.memberSt pos.val ≠ .present then .next s
  else match (tget s.pxe.members pos.val).bind (·.downAt) with
    | none => .next s
    | some t => .next ((s.advanceTo (t + secNs 1)).memberLeaves pos.val)

/-- A member is LOST (R271): array-wide, event 0x130B, rebuild. Causes: 1 Operator, 2 timeout, 3 dies retired. -/
def State.loseMember (s : State) (pos who cause : Nat) : State :=
  match tget s.pxe.members pos with
  | none => s
  | some m =>
    if m.st = .lost ∨ m.st = .undeclared then s
    else
      let s := s.event 0x130B pos pos who cause 0
      let s := (s.memberLeaves pos).setMember pos .lost
      -- cells remapped onto it are ABSENT again (R285)
      let s := s.modPxe fun p => { p with remaps := p.remaps.map fun r => if r.2.2.1 == 1 && r.2.2.2.1 / 256 == pos then (r.1, r.2.1, 0, 0, 0) else r }
      s.startRebuild m.pool pos

/-- MEMBER_LOSS_TIMEOUT: both heads have reported it ABSENT for LOSS_S. -/
def execMemberLossTimeout (pos : Fin 96) (s : State) : Host.Outcome State Fault Refusal :=
  match tget s.pxe.members pos.val with
  | none => .next s
  | some m =>
    match m.st, m.bothAt with
    | .absent, some t => .next ((s.advanceTo (t + secNs s.pxe.lossS)).loseMember pos.val 0xFFFF 2)
    | _, _ => .next s

/-- A write of PXE_LOSE. -/
def State.writeLose (s : State) (v sess : Nat) : State := if tbit v 31 then s.loseMember (bits v 6 0) sess 1 else s

/-- PXE_LOSE_GO: a CSR_WRITE of PXE_LOSE. -/
def execPxeLoseGo (m : Vc3) (value : Word) (s : State) : Host.Outcome State Fault Refusal :=
  .next (s.regWrite m 0x900004 2 fun s => s.writeLose value.toNat m.sess.toNat)

/-- MEMBER_STATE (R271): the peer's view; LOST is array-wide from the moment either head records it. -/
def execMemberState (h : RecHdr) (pos pool : Nat) (st : Byte) (s : State) : Host.Outcome State Fault Refusal :=
  .next (s.peerRecord 0x0A h fun s =>
    match tget s.pxe.members pos with
    | none => s
    | some m =>
      if m.pool ≠ pool then s
      else if st = 3 then
        let s := (s.memberLeaves pos).setMember pos .lost
        if m.st = .lost then s else s.startRebuild pool pos
      else
        let absent := st == 2
        s.modPxe fun p => { p with members := tput p.members pos { m with
          peerAbsent := absent
          bothAt := if absent && m.st == .absent then (m.bothAt.orElse fun _ => some s.dt) else none } })

/-! ## Resynchronisation of regions (R275) -/

/-- The set regions of a pool half are resynchronised: stripes whose commit is not durable are garbage, rows that lack their XOR
chunk are completed (R238), the bits are cleared; event 0x1307. -/
def State.resyncRegions (s : State) (pool : Nat) (headB : Bool) : State :=
  let mine := s.pxe.drb.filter fun d => d.pool == pool && !d.peers
  let n := lsum (mine.map fun d => ((List.range 256).filter fun r => d.regions.getLsbD r).length)
  if n = 0 then s
  else
    let garbage := s.ftu.stripes.filter fun t => t.pool == pool && t.headB == headB && t.issued
    let s := garbage.foldl (fun s t => s.restripe t) s
    (s.event 0x1307 pool pool (bit headB) n garbage.length).planRows

/-- IDENT with a nonce of ROT's, 32 free bytes (R58, R407). -/
def State.sendIdent (s : State) (pos : Nat) : State :=
  (s.sendMedia pos 255 mIdent 0 0 0 0 .ident (leBytes 32 (s.freeNat 256))).freshen

/-- A module is usable again (R271, R275, R285): PRESENT under a new generation; ABSENT remap entries of its cells become rebuild
work; the regions set meanwhile are resynchronised. LOST stays LOST. -/
def State.memberReturns (s : State) (pos : Nat) : State :=
  match tget s.pxe.members pos with
  | none => s
  | some m =>
    if s.cfg.poolOf pos ≠ some m.pool then s
    else if m.st = .lost ∧ s.moduleUp pos then s.sendIdent pos
    else if m.st ≠ .absent ∨ !s.moduleUp pos ∨ (tgetD s.link.modules pos {}).quarantined then s
    else
      let s := if m.wasPresent then s.resyncRegions m.pool s.glb.headB else s
      (s.setMember pos .present).startRebuild m.pool pos

/-! ## Dies and blocks retired (R248, R253) -/

/-- A die is retired: event 0x1403 and rebuild; a module whose dies are all retired is a lost member. -/
def State.retireDie (s : State) (die : Nat) : State :=
  if (s.ftu.die die).st = .retired ∨ (s.ftu.die die).st = .absent then s
  else
    let s := s.setDie die .retired
    match s.diePool die with
    | none => s
    | some p =>
      if (s.ftu.dies.filter fun d => d.1 / 256 == die / 256).all fun d => d.2.st == .retired || d.2.st == .absent then
        s.loseMember (die / 256) 0xFFFF 3
      else (s.startRebuild p (die / 256)).refreshPools

/-- A block is retired (R248): event 0x1402; over 2 % of N_BLK the die is retired (R253). Causes: 1 program, 2 erase. -/
def State.retireBlock (s : State) (die block cause : Nat) : State :=
  let d := s.ftu.die die
  if d.retired.contains block then s
  else
    let s := (s.modDie die fun d => { d with retired := block :: d.retired }).modFtu fun f => { f with retired := bump 32 f.retired }
    let n := d.retired.length + 1
    let s := s.event 0x1402 die die block cause n
    if n * 100 > 2 * (s.ftu.dieType die).nBlk then s.retireDie die
    else match s.diePool die with
      | some p => (s.startRebuild p (die / 256)).refreshPools
      | none => s

/-- DIE_FAIL_TIMEOUT (R253): every READ on the die has failed for 100 ms. -/
def execDieFailTimeout (die : Nat) (s : State) : Host.Outcome State Fault Refusal :=
  match (s.ftu.die die).failSince with
  | none => .next s
  | some t => .next ((s.advanceTo (t + msNs 100)).retireDie die)

end Sys2Proof.Machine
end

