-- ==== Sys2Proof/Machine/Collect.lean ====
section
/-! DEFINITION. Chapter 08, background work on flash: garbage collection, wear levelling and refresh (R242 to R250), erases and
reclaimed segments (R246), scrub and background recovery (R241, R242), moves of the peer's grains (R313). -/

namespace Sys2Proof.Machine

open Sys2Proof

/-! ## Reads in a background share -/

/-- Reserve a read element of a background share and start its fetch (R24, R125); an erased chunk, or one on the peer's die, is
read by claims. -/
def State.planRead (s : State) (work : Work) (die chunk unit units share : Nat) : Bool × State :=
  let w := s.whereIs die chunk
  if s.erased die chunk ∨ !(s.ftu.die w.1).own ∨ (s.ftu.die w.1).leaving then s.startFetch work die chunk unit units
  else
    let ty := s.ftu.dieType w.1
    let pool := (s.diePool w.1).getD 0
    let num := s.dsc.nextFetch
    match earliest (s.dsc.ofDie w.1) s.dt (up100 s.dt) (costE ty units 0) (costE ty units 1) (fun c len => decide (s.dsc.closedUntil ≤ c) && s.shareFits s.dsc pool share c (c + 2 * len)) with
    | none => (false, s)
    | some (c, sus, len) =>
      let f : Fetch := { num := num, work := work, die := die, chunk := chunk, unit := unit, units := units, path := 1, waits := 1 }
      let s := s.modDsc fun d =>
        ({ d with nextFetch := num + 1 }.chargeOp 0 c (c + 2 * len) (some share)).putRead w.1 c sus len (.fetch num) unit units w.2 (some share)
      (true, s.modFtu fun u => { u with fetches := u.fetches ++ [f] })

/-! ## Garbage collection -/

/-- Halves this head accounts: its own, a survivor's both (R255). -/
def State.holdsHalf (s : State) (b : Bool) : Bool := b == s.glb.headB || s.ha.role == .survivor

/-- A place lies in a segment. -/
def State.placeIn (s : State) (g : Segment) (e : MapEntry) : Bool :=
  match s.segmentAt e.die.toNat e.chunk.toNat with | some x => x.isSeg g.pool g.headB g.seq | none => false

/-- Places of a segment that something names (R245), with an owner: map entries, index entries, map pages. -/
def State.livePlaces (s : State) (g : Segment) : List (MapEntry × Nat × Nat) :=
  let maps := s.ftu.pages.flatMap fun p => (p.entries.filter fun x => isMapped x.2 && s.placeIn g x.2).map fun x => (x.2, p.vol, 512 * p.page + x.1)
  let idx := s.dxu.doms.flatMap fun d => (d.2.idx.filter fun i => s.placeIn g i.loc && !maps.any fun m => samePlace m.1 i.loc).map fun i => (i.loc, 0, 0)
  (maps ++ idx).foldl (fun a x => if a.any fun y => samePlace y.1 x.1 then a else a ++ [x]) []

/-- Map pages stored in a segment. -/
def State.pagesIn (s : State) (g : Segment) : List MapPage :=
  s.ftu.pages.filter fun p => match p.loc with | some e => s.placeIn g e | none => false

/-- A copy of a place is under way. -/
def State.copying (s : State) (e : MapEntry) : Bool :=
  s.ftu.fetches.any (fun f => f.work == .gcRead e.die.toNat e.chunk.toNat e.slot.toNat) ||
  s.ftu.stripes.any (fun t => t.grains.any fun p => match p.old with | some o => samePlace o e | none => false) ||
  s.ftu.commits.any (fun c => c.updates.any fun u => match u with | .moveMap _ _ o _ => samePlace o e | _ => false) ||
  s.ftu.moves.any fun m => samePlace m.2.2.1 e

/-- Mean erase count of a segment's blocks. -/
def State.segErase (s : State) (g : Segment) : Nat :=
  match tget s.pxe.layouts g.pool with
  | none => 0
  | some l => meanErase (s.ftu.segmentDies g.headB (l.list g.lgen) g.group) g.block

/-- The wear victim of a pool half (R250): the SEALED segment of lowest mean count, once PE_MAX exceeds PE_COLD by WL_DELTA. -/
def State.wearVictim (s : State) (h : Half) : Option Segment :=
  let ms := s.cfg.poolModules h.pool
  let dies := s.ftu.dies.filter fun d => d.2.half == h.headB && ms.contains (d.1 / 256) && dieGood d.2
  let top := (dies.map fun d => peMax d.2).foldl max 0
  let sealed := s.ftu.segs.filter fun g => g.pool == h.pool && g.headB == h.headB && g.st == .sealed && g.kind != 3
  match sealed.foldl (fun (a : Option (Nat × Segment)) g =>
      let m := s.segErase g
      match a with | some x => if m < x.1 then some (m, g) else a | none => some (m, g)) none with
  | none => none
  | some (m, g) => if top > m + s.ftu.wlDelta then some g else none

/-- The next victim of a pool half (R242, R244, R250): refresh first, then wear, then the SEALED segment with the fewest valid
slots, on a tie the oldest. -/
def State.nextVictim (s : State) (h : Half) : Option (Segment × Bool) :=
  let sealed := s.ftu.segs.filter fun g => g.pool == h.pool && g.headB == h.headB && g.st == .sealed && g.kind != 3
  match sealed.find? (·.refresh) with
  | some g => some (g, false)
  | none => match s.wearVictim h with
    | some g => some (g, true)
    | none =>
      (sealed.filter fun g => decide (g.valid < s.segSlots h.pool)).foldl (fun (a : Option (Segment × Bool)) g => match a with
        | some x => if g.valid < x.1.valid ∨ (g.valid = x.1.valid ∧ g.sealedAt < x.1.sealedAt) then some (g, false) else a
        | none => some (g, false)) none

/-- GC of a pool half in one frame: choose a victim when there is none, then start copies of its live places, as many as the share
takes, at most eight; map pages stored in it are written back anew (R234, R244). -/
def State.gcHalf (s : State) (h : Half) : State :=
  let victims := s.ftu.segs.filter fun g => g.pool == h.pool && g.headB == h.headB && g.st == .victim
  let s := match victims, s.nextVictim h with
    | [], some (g, wear) =>
      let s := s.setSegment g .victim
      if wear then
        let wearTo := match tget s.pxe.layouts h.pool with
          | some l => (match s.freeSegment h.pool h.headB l.newest.2 true with
            | some c => meanErase (s.ftu.segmentDies h.headB l.newest.2 c.2) c.1 | none => 0)
          | none => 0
        s.event 0x1408 h.pool h.pool g.seq (s.segErase g) wearTo
      else s
    | _, _ => s
  (s.ftu.segs.filter fun g => g.pool == h.pool && g.headB == h.headB && g.st == .victim).foldl (fun s g =>
    let ps := (s.pagesIn g).filter fun p => !p.dirty
    let stale (q : MapPage) : Bool := ps.any fun p => p.vol == q.vol && p.page == q.page && p.epoch == q.epoch
    let s := s.modFtu fun f => { f with pages := f.pages.map fun q => if stale q then { q with dirty := true } else q }
    (((s.livePlaces g).filter fun x => !s.copying x.1).take 8).foldl (fun s x =>
      (s.planRead (.gcRead x.1.die.toNat x.1.chunk.toNat x.1.slot.toNat) x.1.die.toNat x.1.chunk.toNat x.1.slot.toNat (x.1.cls.toNat + 1) 0).2) s) s

/-- The entry at a place, with an owner. -/
def State.ownerOf (s : State) (die chunk slot : Nat) : Option (MapEntry × Nat × Nat) :=
  let hit (e : MapEntry) : Bool := isMapped e && e.die.toNat == die && e.chunk.toNat == chunk && e.slot.toNat == slot
  match s.ftu.pages.findSome? fun p => (p.entries.find? fun x => hit x.2).map fun x => (x.2, p.vol, 512 * p.page + x.1) with
  | some x => some x
  | none => s.dxu.doms.findSome? fun d => (d.2.idx.find? fun i => hit i.loc).map fun i => (i.loc, 0, 0)

/-- Put a copy of a stored grain into the relocation stripe, header and slots unchanged (R207, R244). -/
def State.packCopy (s : State) (e : MapEntry) (vol grain : Nat) (b : Bytes) : State :=
  match s.diePool e.die.toNat with
  | none => s
  | some pool =>
    let p : Packed := { frame := none, vol := vol, grain := grain, gen := e.gen.toNat, hdr := hdrOf b, slots := b.drop 32, member := 0,
                        slot := 0, old := some e }
    (s.packGrain 1 false pool p (e.cls.toNat + 1)).2

/-- The slots of a live grain have come (R244, R245): copied, unless nothing names the place any more. Unreadable: the grain goes
to background recovery. -/
def State.gcGot (s : State) (f : Fetch) (die chunk slot : Nat) (b : Option Bytes) : State :=
  match b with
  | none => s.nextOr f fun s => match s.ownerOf die chunk slot with
    | some (_, v, g) => s.recoverLater v g | none => s
  | some x =>
    let s := (s.noteRepair f false).dropFetch f.num
    match s.ownerOf die chunk slot with
    | some (e, v, g) => s.packCopy e v g x
    | none => s

/-! ## Reclaiming and erasing -/

/-- Nothing names a place of the segment and no copy or commit of it is open (R246). -/
def State.segDead (s : State) (g : Segment) : Bool :=
  if g.kind = 3 then
    !(s.pxe.remaps.any fun r => r.2.2.1 == 1 && (match s.segmentAt r.2.2.2.1 r.2.2.2.2 with | some x => x.isSeg g.pool g.headB g.seq | none => false))
  else
    (s.livePlaces g).isEmpty && (s.pagesIn g).isEmpty &&
    !(s.ftu.commits.any fun c => c.updates.any fun u => match u with | .moveMap _ _ o _ => s.placeIn g o | _ => false) &&
    !(s.ftu.moves.any fun m => s.placeIn g m.2.2.1)

/-- No read admitted against the segment is still open (R246). -/
def State.segQuiet (s : State) (g : Segment) : Bool :=
  let here (die chunk : Nat) : Bool := match s.segmentAt die chunk with | some x => x.isSeg g.pool g.headB g.seq | none => false
  !(s.ftu.fetches.any fun f => here f.die f.chunk) && !(s.dsc.cal.any fun r => r.kind == .read && !r.issued && here r.die r.chunk) &&
  !(s.link.ops.any fun o => (o.2.opc == mRead || o.2.opc == mSoft) && here (256 * o.2.pos + o.2.die) o.2.addr)

/-- SEGMENT_RECLAIMED (R246): a VICTIM segment, or a rebuild segment without entries (R278), that nothing names becomes
RECLAIMED by a commit, which removes the remap entries of its cells (R277). -/
def execSegmentReclaimed (seg : Nat) (s : State) : Host.Outcome State Fault Refusal :=
  match s.ftu.segs.find? fun g => g.seq == seg && (g.st == .victim || (g.kind == 3 && g.st == .sealed)) && s.segDead g && s.segQuiet g with
  | none => .next s
  | some g => .next (s.setSegment g .reclaimed).refreshPools

/-- Blocks of a segment: the dies of its groups whose block is in service. -/
def State.segDies (s : State) (g : Segment) : List Nat :=
  match tget s.pxe.layouts g.pool with
  | none => []
  | some l => ((l.list g.lgen).flatMap fun m => s.ftu.groupDies m g.headB g.group).filter fun d =>
      !s.ftu.dieGone d (1024 * g.block) && s.memberSt (d / 256) == .present

/-- The segment is erased as far as its blocks can be: FREE by the next commit (R243). -/
def State.segFreed (s : State) (g : Segment) : State :=
  if g.st = .erasing ∧ g.erasing = [] then (s.setSegment g .free).refreshPools else s

/-- Reserve the erases of RECLAIMED and ERASING segments whose commit is durable (R246). -/
def State.eraseNow (s : State) : State :=
  s.ftu.segs.foldl (fun s g =>
    let pending := s.ftu.commits.any fun c => c.updates.any fun u => u == .segSt g.pool g.headB g.seq .reclaimed
    if pending ∨ s.ha.stale ∨ !s.holdsHalf g.headB then s
    else
      let s := if g.st = .reclaimed then
          let dies := s.segDies g
          let s := s.modSegment g.pool g.headB g.seq fun g => { g with st := .erasing, erasing := dies }
          if dies = [] then s.segFreed { g with st := .erasing, erasing := [] } else s
        else s
      match s.ftu.segs.find? fun x => x.isSeg g.pool g.headB g.seq with
      | none => s
      | some g =>
        if g.st ≠ .erasing then s
        else g.erasing.foldl (fun s d =>
          let w : Work := .eraseSeg g.pool g.seq
          let mine := s.dsc.cal.any (fun r => r.die == d && r.work == w && !r.issued) ||
            s.link.ops.any fun o => 256 * o.2.pos + o.2.die == d && o.2.work == w
          if mine then s else (s.placeOp d .erase w (some 0)).2) s) s

/-- A block of an ERASING segment has been erased, or retired (R243, R248). -/
def State.blockErased (s : State) (pool seg die : Nat) : State :=
  match s.ftu.segs.find? fun g => g.pool == pool && g.seq == seg && g.st == .erasing && g.erasing.contains die with
  | none => s
  | some g =>
    let left := g.erasing.filter (· != die)
    (s.modSegment g.pool g.headB g.seq fun g => { g with erasing := left }).segFreed { g with erasing := left }

/-! ## Background recovery (R241) -/

/-- Threshold offsets of SOFT_READ set j: (-1)^j x 4 x ceil(j / 2) on all sixteen (R241). -/
def softOffsets (j : Nat) : Bytes :=
  let v : Int := 4 * ((j + 1) / 2 : Nat)
  List.replicate 16 (BitVec.ofInt 8 (if j % 2 = 0 then v else -v))

def State.setRecovery (s : State) (vol grain set : Nat) : State :=
  s.modFtu fun f => { f with recovery := f.recovery.map fun r => if r.1 == vol && r.2.1 == grain then (vol, grain, set) else r }

def State.dropRecovery (s : State) (vol grain : Nat) : State :=
  s.modFtu fun f => { f with recovery := f.recovery.filter fun r => !(r.1 == vol && r.2.1 == grain) }

/-- Start the next attempt of each grain on the recovery list, in the scrub share. -/
def State.recoverNow (s : State) : State :=
  (s.ftu.recovery.take 4).foldl (fun s r =>
    let e := s.entry r.1 r.2.1
    if !isMapped e then s.dropRecovery r.1 r.2.1
    else
      let w := s.whereIs e.die.toNat e.chunk.toNat
      let busy := s.underWay (.soft r.1 r.2.1 r.2.2) || s.ftu.fetches.any fun f => f.work == .recover r.1 r.2.1
      if busy then s
      else if r.2.2 ≤ 8 ∧ !s.erased e.die.toNat e.chunk.toNat then
        let units := e.cls.toNat + 1
        if (s.ftu.die w.1).own then
          let ty := s.ftu.dieType w.1
          let pool := (s.diePool w.1).getD 0
          match earliest (s.dsc.ofDie w.1) s.dt (up100 s.dt) (costE ty units 0) (costE ty units 1) (fun c len => s.shareFits s.dsc pool 3 c (c + 2 * len)) with
          | none => s
          | some (c, sus, len) => s.modDsc fun d =>
              (d.chargeOp 0 c (c + 2 * len) (some 3)).putRead w.1 c sus len (.soft r.1 r.2.1 r.2.2) e.slot.toNat units w.2 (some 3)
        else s.sendPeerRead true w.1 w.2 e.slot.toNat units (s.dt + msNs 100) (.soft r.1 r.2.1 r.2.2)
      else match s.startFetch (.recover r.1 r.2.1) e.die.toNat e.chunk.toNat e.slot.toNat (e.cls.toNat + 1) with
        | (true, s) => s
        | (false, s) => (s.dropRecovery r.1 r.2.1).loseGrain r.1 r.2.1 1 2) s

/-- A copy of a grain on the recovery list: rewritten when it passes every check of R215. -/
def State.recoverWith (s : State) (vol grain : Nat) (b : Bytes) : Option State :=
  match s.openFor vol b with
  | none => none
  | some _ => some (((s.dropRecovery vol grain).packCopy (s.entry vol grain) vol grain b).modFtu fun f => { f with repaired := bump 32 f.repaired })

/-- A SOFT_READ has answered (R241). -/
def State.softGot (s : State) (vol grain set : Nat) (b : Option Bytes) : State :=
  let e := s.entry vol grain
  match b.bind fun x => s.recoverWith vol grain x with
  | some s => s.event 0x1406 e.die.toNat e.die.toNat e.chunk.toNat 3 0
  | none => s.setRecovery vol grain (set + 1)

/-- The full repair without a time limit has given bytes, or a source failed (R241). -/
def State.recoverGot (s : State) (f : Fetch) (vol grain : Nat) (b : Option Bytes) : State :=
  let dead (s : State) : State := if isMapped (s.entry vol grain) then (s.dropRecovery vol grain).loseGrain vol grain 1 2 else s.dropRecovery vol grain
  match b with
  | none => s.nextOr f dead
  | some x =>
    match s.recoverWith vol grain x with
    | some s => (s.noteRepair f false).dropFetch f.num
    | none => s.nextOr f dead

/-! ## Scrub (R242) -/

/-- The n-th chunk of this head's stripes, data, P and Q members alike, and whether its stripe is programmed. -/
def State.scrubCell (s : State) (n : Nat) : Option (Nat × Nat × Bool) :=
  let rec go : List Segment → Nat → Option (Nat × Nat × Bool)
    | [], _ => none
    | g :: gs, n =>
      let w := s.poolK g.pool + 2
      if n < g.next * w then
        let c := s.memberAt g (n / w) (n % w)
        some (c.1, c.2, !s.ftu.stripes.any fun t => t.pool == g.pool && t.headB == g.headB && t.segSeq == g.seq && t.stripe == n / w)
      else go gs (n - g.next * w)
  go (s.ftu.segs.filter fun g => (g.st == .opened || g.st == .sealed || g.st == .victim) && g.kind != 3 && s.holdsHalf g.headB) n

/-- The next scrub read: a whole chunk in the scrub share. A pass begins half of SCRUB_DAYS after the last one began, so that
SUSPECT dies too are covered in time (R253, log entry 43). -/
def State.scrubNow (s : State) : State :=
  match s.scrubCell s.ftu.scrubPos with
  | none =>
    if s.ftu.scrubPos = 0 ∨ s.dt < s.ftu.scrubAt + s.ftu.scrubDays * dayNs / 2 then s
    else s.modFtu fun f => { f with scrubPos := 0, scrubAt := s.dt }
  | some (die, chunk, programmed) =>
    let on := s.modFtu fun f => { f with scrubPos := f.scrubPos + 1 }
    if !programmed ∨ s.erased die chunk ∨ !(s.ftu.die die).own ∨ (s.remapOf die chunk).isSome then on
    else
      let ty := s.ftu.dieType die
      match earliest (s.dsc.ofDie die) s.dt (up100 s.dt) (costE ty 32 0) (costE ty 32 1) (fun c len => s.shareFits s.dsc ((s.diePool die).getD 0) 3 c (c + 2 * len)) with
      | none => s
      | some (c, sus, len) => on.modDsc fun d => (d.chargeOp 0 c (c + 2 * len) (some 3)).putRead die c sus len (.scrub die chunk) 0 32 chunk (some 3)

/-! ## Moves of grains whose group the peer owns (R313) -/

/-- MAP_MOVE: the group's owner makes the conditional update in its own commit and answers once it is durable. -/
def execMapMove (h : RecHdr) (vol grain : Nat) (old new : BitVec 64) (s : State) : Host.Outcome State Fault Refusal :=
  .next (s.peerRecord 0x0D h fun s =>
    if !s.moveOwner vol then (s.peerViolation 0x0D h.word0.toNat).toPeer (.mapMoveAck vol grain 0)
    else
      let o := entryOf old.toNat
      if s.referenced o then s.addUpdate (s.volPool vol) (.moveMap vol grain o (entryOf new.toNat))
      else s.toPeer (.mapMoveAck vol grain 0))

/-- MAP_MOVE_ACK: the durable commit of R246 for that grain. -/
def execMapMoveAck (h : RecHdr) (vol grain : Nat) (result : Byte) (s : State) : Host.Outcome State Fault Refusal :=
  .next (s.peerRecord 0x0E h fun s =>
    match s.ftu.moves.find? fun m => m.1 == vol && m.2.1 == grain with
    | none => s
    | some (_, _, o, e) =>
      let s := s.modFtu fun f => { f with moves := f.moves.filter fun m => !(m.1 == vol && m.2.1 == grain) }
      if result = 1 then (s.applyMove o e).2 else s)

end Sys2Proof.Machine
end

