-- ==== Sys2Proof/Machine/Portal.lean ====
section
/-! DEFINITION. Chapter 10, replication jobs: their states (R304, R308, R309), the stream records (R305), production (R306) and
application (R307), and the commands of portal volumes (R303). -/

namespace Sys2Proof.Machine

open Sys2Proof

/-! ## Jobs -/

def State.modJob (s : State) (n : Nat) (f : Job → Job) : State := s.modSnap fun c => { c with jobs := tmod c.jobs n f }

/-- Slots that the live versions of a volume reference, and those that only its snapshots do (R300). Grains shared with another
volume are in neither. -/
def State.slotsOf (s : State) (v : Nat) : Nat × Nat :=
  let live := s.ve v
  let own := s.ftu.pages.filter fun p => p.vol == v
  let isLive (p : MapPage) : Bool := !own.any fun q => q.page == p.page && decide (q.epoch > p.epoch) && decide (q.epoch ≤ live)
  let elsewhere (e : MapEntry) : Bool := s.ftu.pages.any fun p => p.vol != v && p.entries.any fun x => isMapped x.2 && samePlace x.2 e
  let grains (ps : List MapPage) : List MapEntry :=
    (ps.flatMap fun p => (p.entries.map (·.2)).filter fun e => isMapped e && !elsewhere e)
  let uniq (es : List MapEntry) : List MapEntry := es.foldl (fun a e => if a.any (samePlace e) then a else a ++ [e]) []
  let slots (es : List MapEntry) : Nat := lsum (es.map fun e => e.cls.toNat + 1)
  let lives := uniq (grains (own.filter isLive))
  (slots lives, slots ((uniq (grains (own.filter fun p => !isLive p))).filter fun e => !lives.any (samePlace e)))

/-- CHARGE of a snapshot (R300): the slots whose newest instance is this snapshot. -/
def State.charge (s : State) (x : Snap) : Nat :=
  let own := s.ftu.pages.filter fun p => p.vol == x.vol
  let seen (e : Nat) : List MapEntry := (own.filter fun p => decide (p.epoch ≤ e) &&
    !own.any fun q => q.page == p.page && decide (q.epoch > p.epoch) && decide (q.epoch ≤ e)).flatMap fun p =>
      (p.entries.map (·.2)).filter isMapped
  let newer := (s.ve x.vol :: (s.snap.snaps.filter fun y => y.vol == x.vol && y.st != .released && decide (y.e > x.e)).map (·.e)).flatMap seen
  let mine := (seen x.e).foldl (fun a e => if a.any (samePlace e) then a else a ++ [e]) []
  lsum ((mine.filter fun e => !newer.any (samePlace e) &&
    !s.ftu.pages.any fun p => p.vol != x.vol && p.entries.any fun y => isMapped y.2 && samePlace y.2 e).map fun e => e.cls.toNat + 1)

/-- The SNAPSHOT notice (R309). -/
def State.snapNotice (s : State) (vol snap st kind job e charge : Nat) : State :=
  let z := s.slotsOf vol
  s.notifyGranted (fun k _ => k == vol) 10 (leBytes 4 vol ++ leBytes 4 snap ++ leBytes 1 st ++ leBytes 1 kind ++ leBytes 2 job ++
    leBytes 4 e ++ leBytes 8 z.1 ++ leBytes 8 z.2 ++ leBytes 8 charge)

/-- A job changes state (R304): 0x1465, the notice, its stream context freed at its end (R213). Causes: 0 none, 1 record fault,
2 capacity, 3 idle, 4 lease or reset. -/
def State.setJob (s : State) (n : Nat) (st : JobSt) (cause : Nat) : State :=
  match tget s.snap.jobs n with
  | none => s
  | some j =>
    let s := (s.event 0x1465 n n (jobStNum j.st) (jobStNum st) cause).modJob n fun j => { j with st := st, cause := cause }
    let s := s.snapNotice j.vol 0xFFFFFFFF (jobStNum st - 1) 2 n 0 0
    if st = .running then s
    else
      let s := match j.ctx with | some c => s.modCpe fun p => { p with ctx := tdel p.ctx c } | none => s
      s.modJob n fun j => { j with ctx := none, fetching := false }

/-- Commands of a portal that wait for a job: their queue pair and identifier. -/
def State.portalWaits (s : State) (portal : Nat) : List Cmd :=
  s.cqe.cmds.filter fun c => c.vol == portal && c.decided.isNone && !c.isDup && (c.opc == opRead || c.opc == opWrite)

/-- A portal command as admitted, for its completion. -/
def State.tagged (s : State) (c : Cmd) : Cmd := { c with admitted := true, tag := s.cfg.epoch }

/-- A job fails (R308); a portal WRITE whose bytes hold the fault fails with its status. -/
def State.failJob (s : State) (n cause status : Nat) (endOff : Option (Bool × Nat)) : State :=
  match tget s.snap.jobs n with
  | none => s
  | some j =>
    let hit : List (Nat × Nat × Bool × Nat) := match endOff with
      | some (have_, e) => j.writes.filter fun w => w.2.2.1 == have_ && decide (e ≤ w.2.2.2)
      | none => []
    let s := (s.setJob n .failed cause).modJob n fun j => { j with writes := [], pieces := [], apply := [], toks := none }
    match hit with
    | [] => s
    | w :: ws =>
      let first := ws.foldl (fun a b => if b.2.2.2 < a.2.2.2 then b else a) w
      match s.cqe.cmd first.1 first.2.1 with
      | some c => s.failCmd (s.tagged c) status
      | none => s

/-! ## Records (R305) -/

def pad8 (b : Bytes) : Bytes := b ++ List.replicate (ceilDiv b.length 8 * 8 - b.length) 0

/-- The bytes of a record: header, padded body, RMAC. -/
def recBytes (key : Bytes) (rtype rseq grain count batch : Nat) (body : Bytes) : Bytes :=
  let x := leBytes 4 rtype ++ leBytes 4 body.length ++ leBytes 8 rseq ++ leBytes 8 grain ++ leBytes 4 count ++ leBytes 4 batch ++ pad8 body
  x ++ (hmacSha256 key x).take 16

/-- One record at the head of some bytes, when they hold it whole: header and body length, and the record's length. -/
def recLen (b : Bytes) : Option Nat :=
  if b.length < 32 then none
  else
    let n := 32 + ceilDiv (leNat ((b.drop 4).take 4)) 8 * 8 + 16
    if b.length < n then none else some n

/-! ## The plaintext of a grain -/

/-- A grain of a volume as of volume epoch `e`, when it can be had without flash: the cached sectors, zeros where nothing is
mapped, and the stored grain last read. -/
def State.plainOf (s : State) (j : Job) (v g e : Nat) : Option (Option Bytes) :=
  let cs := [0, 1].map fun k => s.sectorAt k 18 v g e
  let en := s.entryAt v g e
  let base : Option (Option Bytes) :=
    if cs.all Option.isSome ∨ !isMapped en then some (some (zeroSector ++ zeroSector))
    else match j.held with
      | some (h, b) => if h = g then some b else none
      | none => none
  base.map fun b => b.map fun z => ((List.range 2).map fun k => (cs.getD k none).getD ((z.drop (4096 * k)).take 4096)).flatten

/-- Read a grain's stored copy for a job (R306). -/
def State.replFetch (s : State) (n v g e : Nat) : State :=
  let en := s.entryAt v g e
  match s.startFetch (.repl n g) en.die.toNat en.chunk.toNat en.slot.toNat (en.cls.toNat + 1) with
  | (true, s) => s.modJob n fun j => { j with fetching := true }
  | (false, s) => s.modJob n fun j => { j with held := some (g, none) }

/-! ## Production (R306) -/

/-- What the source has at a grain: 0 nothing differs, 1 mapped, 2 unmapped, 3 lost. -/
def State.differs (s : State) (j : Job) (g : Nat) : Nat :=
  let all := decide (j.snapA = 0xFFFFFFFF)
  let at_ (id : Nat) : Nat := match s.snap.find j.vol id with | some x => x.e | none => 0
  let ea := at_ j.snapA
  let eb := at_ j.snapB
  let a := s.entryAt j.vol g ea
  let b := s.entryAt j.vol g eb
  let frame := s.wc.frames.any fun f => f.2.desc.vol == j.vol && f.2.desc.grain == g && f.2.desc.committed != 0 &&
    decide (s.veUnder j.vol f.2.desc.cepoch ≤ eb) && (all || decide (ea < s.veUnder j.vol f.2.desc.cepoch))
  if frame then 1
  else if all then (if isMapped b then 1 else 0)
  else if samePlace a b ∧ a.st = b.st ∧ a.gen = b.gen then 0
  else if isMapped b then 1
  else if isLostEntry b then (if isLostEntry a then 0 else 3)
  else if isMapped a ∨ isLostEntry a then 2 else 0

/-- Volumes whose pages a volume's reads can resolve to. -/
def State.chain (s : State) : Nat → Nat → List Nat
  | 0, _ => []
  | n + 1, v => v :: match s.cfg.volume v with
    | some r => if r.kind = 3 then s.chain n r.source else []
    | none => []

/-- The next grain from `g` on at which the two snapshots differ. -/
def State.nextDiff (s : State) (j : Job) (g : Nat) : Option (Nat × Nat) :=
  let vs := s.chain 17 j.vol
  let cand := ((s.ftu.pages.filter fun p => vs.contains p.vol).flatMap fun p => p.entries.map fun x => p.page * 512 + x.1) ++
    ((s.wc.frames.filter fun f => f.2.desc.vol == j.vol).map fun f => f.2.desc.grain)
  (sortNat (cand.filter fun x => decide (g ≤ x))).findSome? fun x =>
    let k := s.differs j x
    if k = 0 then none else some (x, k)

/-- The next grain that DATA would carry. -/
def State.nextDiffMapped (s : State) (j : Job) (g : Nat) : Option Nat :=
  let rec go : Nat → Nat → Option Nat
    | 0, _ => none
    | k + 1, g => match s.nextDiff j g with
      | none => none
      | some (x, t) => if t = 1 then some x else go k (x + 1)
  go (s.ftu.pages.length * 512 + s.wc.frames.length + 1) g

def window64 : Nat := 67108864

/-- Put bytes into the produced records region. -/
def Job.produce (j : Job) (b : Bytes) : Job :=
  { j with stream := j.stream ++ b, bytes := j.bytes + b.length, rseq := j.rseq + 1 }

/-- A stream context of CPE for a job: the lowest FREE one, opened READY (R211, R212). -/
def State.openStream (s : State) (n : Nat) (decompress : Bool) (sid : Nat) : State :=
  match (List.range 1024).find? fun c => (tget s.cpe.ctx c).isNone with
  | none => s
  | some c =>
    let blk := match tget s.snap.jobs n with | some j => j.block * 8192 | none => 8192
    let x : StreamCtx := { st := .ready, decompress := decompress, block := blk, sid := sid, owner := 3 }
    (s.modCpe fun p => { p with ctx := tput p.ctx c x }).modJob n fun j => { j with ctx := some c, sid := sid }

/-- The DATA record of the block built so far. -/
def State.dataRecord (s : State) (n : Nat) (j : Job) (key : Bytes) : State :=
  match j.ctx.bind fun c => (tget s.cpe.ctx c).map fun x => (c, x) with
  | none => s
  | some (c, x) =>
    let r := codeBlock x none (j.blk.flatMap (·.2))
    match r.1.result with
    | some (some h, coded) =>
      let body := (j.blk.flatMap fun g => leBytes 8 g.1) ++ hdrAll h ++ coded
      let batch := (j.offered.find? fun b => j.blk.any fun g => b.2.1.contains g.1).elim 0 (·.1)
      (s.modCpe fun p => { p with ctx := tput p.ctx c { r.1 with result := none } }).modJob n fun j =>
        { (j.produce (recBytes key 3 j.rseq 0 j.blk.length batch body)) with blk := [], nData := j.nData + j.blk.length }
    | _ => s

/-- The ZERO or LOST record of the run built so far. -/
def Job.runRecord (j : Job) (key : Bytes) : Job :=
  match j.run with
  | none => j
  | some (t, g, k) =>
    { (j.produce (recBytes key t j.rseq g k 0 [])) with
      run := none
      nZero := if t = 4 then j.nZero + k else j.nZero
      nLost := if t = 5 then j.nLost + k else j.nLost }

/-- One step of production; false when nothing can go on. -/
def State.produceStep (s : State) (n : Nat) : Bool × State :=
  match tget s.snap.jobs n with
  | none => (false, s)
  | some j =>
    match tget s.dge.jobKeys n, s.cfg.volume j.vol, s.snap.find j.vol j.snapB with
    | some key, some v, some sb =>
      if j.st ≠ .running ∨ j.role ≠ 1 ∨ j.fetching ∨ j.ended.isSome ∨ j.base + j.stream.length - j.readTo ≥ window64 then (false, s)
      else if j.ctx.isNone then
        let s' := s.freshen.openStream n false (s.freeNat 64)
        ((tget s'.snap.jobs n).elim false fun j => j.ctx.isSome, s')
      else if j.rseq = 0 then
        (true, s.modJob n fun j => j.produce (recBytes key 1 0 0 0 0
          (leBytes 8 j.sid ++ leBytes 8 (ceilDiv v.sectors 2) ++ leBytes 1 j.block ++ leBytes 1 (bit j.negotiate) ++ leBytes 6 0)))
      else
        let open_ := (j.offered.filter fun b => b.2.2.isNone).length
        let more := if j.negotiate ∧ open_ < 64 then s.nextDiffMapped j j.offerAt else none
        match more with
        | some g =>
          if s.ftu.recovery.any fun r => r.1 == j.vol && r.2.1 == g then (false, s)
          else match s.plainOf j j.vol g sb.e with
            | none => (true, s.replFetch n j.vol g sb.e)
            | some none => (false, s.recoverLater j.vol g)
            | some (some b) =>
              let es := j.offer ++ [(g, hmacSha256 key b)]
              let last := (s.nextDiffMapped j (g + 1)).isNone
              (true, s.modJob n fun j =>
                if es.length < 256 ∧ !last then { j with offer := es, offerAt := g + 1 }
                else { (j.produce (recBytes key 2 j.rseq 0 es.length j.nextBatch (es.flatMap fun e => leBytes 8 e.1 ++ e.2))) with
                  offer := [], offerAt := g + 1, nextBatch := j.nextBatch + 1
                  offered := j.offered ++ [(j.nextBatch, es.map (·.1), none)] })
        | none =>
          match s.nextDiff j j.cursor with
          | none =>
            if j.blk ≠ [] then (true, s.dataRecord n j key)
            else if j.run.isSome then (true, s.modJob n fun j => j.runRecord key)
            else (true, s.modJob n fun j =>
              let j := j.produce (recBytes key 6 j.rseq 0 0 0 (leBytes 8 j.nData ++ leBytes 8 j.nSkip ++ leBytes 8 j.nZero ++ leBytes 8 j.nLost))
              { j with ended := some (j.base + j.stream.length) })
          | some (g, kind) =>
            if kind = 1 then
              let batch := j.offered.find? fun b => b.2.1.contains g
              let skip : Option Bool := match batch with
                | some (_, gs, some bits_) => some (tbit (leNat bits_) (gs.findIdx (· == g)))
                | some (_, _, none) => none
                | none => if j.negotiate then none else some false
              if j.run.isSome then (true, s.modJob n fun j => j.runRecord key)
              else match skip with
                | none => (false, s)
                | some true => (true, s.modJob n fun j => { j with cursor := g + 1, nSkip := j.nSkip + 1 })
                | some false =>
                  if s.ftu.recovery.any fun r => r.1 == j.vol && r.2.1 == g then (false, s)
                  else match s.plainOf j j.vol g sb.e with
                    | none => (true, s.replFetch n j.vol g sb.e)
                    | some none => (false, s.recoverLater j.vol g)
                    | some (some b) =>
                      let s := s.modJob n fun j => { j with blk := j.blk ++ [(g, b)], cursor := g + 1 }
                      if j.blk.length + 1 < j.block then (true, s)
                      else (true, s.dataRecord n { j with blk := j.blk ++ [(g, b)] } key)
            else
              let t := if kind = 2 then 4 else 5
              match j.run with
              | some (t', g', k) =>
                if t' = t ∧ g' + k = g then (true, s.modJob n fun j => { j with run := some (t, g', k + 1), cursor := g + 1 })
                else (true, s.modJob n fun j => j.runRecord key)
              | none => (true, s.modJob n fun j => { j with run := some (t, g, 1), cursor := g + 1 })
    | _, _, _ => (false, s)

/-! ## Application (R307) -/

/-- A record of the target is refused (R308): 0x1466 and the job fails. -/
def State.rejectRecord (s : State) (n rseq rtype reason status : Nat) (have_ : Bool) (endOff : Nat) : State :=
  (s.event 0x1466 n n (lo32 rseq) rtype reason).failJob n 1 status (some (have_, endOff))

/-- The fields of a record that its type leaves unused are zero. -/
def recFieldsOk (b : Bytes) : Bool :=
  let t := (b.headD 0).toNat
  let grain := leNat ((b.drop 16).take 8)
  let count := leNat ((b.drop 24).take 4)
  let batch := leNat ((b.drop 28).take 4)
  leNat ((b.drop 1).take 3) == 0 && [1, 2, 3, 4, 5, 6, 8].contains t && (t == 4 || t == 5 || grain == 0) &&
    (t == 2 || t == 3 || t == 8 || batch == 0) && (t != 1 && t != 6 || count == 0)

/-- Queue pair number under which a job's own writes are kept. -/
def replQp (n : Nat) : Nat := 40000 + n

/-- Issue the writes that a record calls for, as class 7 writes of the target volume (R104, R307): each goes through admission
and the write path as a host write does. -/
def State.replWrite (s : State) (n : Nat) (g : Nat) (data : Option Bytes) (go : State → Cmd → State) : State :=
  match tget s.snap.jobs n with
  | none => s
  | some j =>
    let c : Cmd := {
      qp := replQp n, cid := j.applied % 65536, port := 0, sess := 65535, opc := if data.isSome then opWrite else opZero, vol := j.vol
      lba := 2 * g, nsect := 2, cls := 7, start := s.dt, data := data.toList }
    match s.capacity c with
    | some st => s.failJob n 2 st (some (false, j.base))
    | none => go ((s.modCqe fun q => { q with cmds := q.cmds ++ [c] }).modJob n fun j => { j with applied := j.applied + 1 }) c

/-- A run of LOST grains sets the map entries LOST, as R286 does (R307). -/
def State.replLose (s : State) (v g : Nat) : Nat → State
  | 0 => s
  | k + 1 =>
    let s := (s.wc.frames.filter fun f => f.2.desc.vol == v && f.2.desc.grain == g && f.2.st == .dirty).foldl (fun s f => s.releaseFrame f.1) s
    (s.loseGrain v g 1 2).replLose v (g + 1) k

/-- The HAVE bits of an OFFER, entry by entry (R306): the target's own grain, its token, and the compare word. -/
def State.answerOffer (s : State) (n : Nat) (key : Bytes) : Nat → State
  | 0 => s
  | k + 1 =>
    match tget s.snap.jobs n with
    | none => s
    | some j =>
      match j.toks with
      | none => s
      | some (batch, [], bs) =>
        let body := (List.range (ceilDiv bs.length 8)).map fun i =>
          BitVec.ofNat 8 (lsum ((List.range 8).map fun b => bit (bs.getD (8 * i + b) false) * 2 ^ b))
        s.modJob n fun j => { j with toks := none, haveStream := j.haveStream ++ recBytes key 8 j.haveSeq 0 bs.length batch body,
                                     haveSeq := j.haveSeq + 1 }
      | some (batch, (g, tok) :: rest, bs) =>
        match s.plainOf j j.vol g (s.ve j.vol) with
        | none => if j.fetching then s else s.replFetch n j.vol g (s.ve j.vol)
        | some b =>
          let same := match b with | some x => compareWord (hmacSha256 key x == tok) == 0xA55A | none => false
          (s.modJob n fun j => { j with toks := some (batch, rest, bs ++ [same]) }).answerOffer n key k

/-- One record of the records region is acted on: what it asks of the target. -/
def State.applyRecord (s : State) (n : Nat) (j : Job) (b : Bytes) (endOff : Nat) : State :=
  let t := (b.headD 0).toNat
  let len := leNat ((b.drop 4).take 4)
  let body := (b.drop 32).take len
  let grain := leNat ((b.drop 16).take 8)
  let count := leNat ((b.drop 24).take 4)
  let batch := leNat ((b.drop 28).take 4)
  if t = 1 then s.openStream n true (leNat (body.take 8))
  else if t = 2 then
    let es := (List.range count).map fun i => (leNat ((body.drop (40 * i)).take 8), (body.drop (40 * i + 8)).take 32)
    s.modJob n fun j => { j with toks := some (batch, es, []) }
  else if t = 3 then
    let gs := (List.range count).map fun i => leNat ((body.drop (8 * i)).take 8)
    let blk := body.drop (8 * count)
    match j.ctx.bind fun c => (tget s.cpe.ctx c).map fun x => (c, x) with
    | none => s.rejectRecord n j.rseq t 4 stDecodeError false endOff
    | some (c, x) =>
      match codeBlock x (some (hdrOf (blk.take 32))) (blk.drop 32) with
      | (x', none) =>
        let out := match x'.result with | some (_, o) => o | none => []
        if out.length ≠ 8192 * count then s.rejectRecord n j.rseq t 4 stDecodeError false endOff
        else
          let ws := (List.range count).map fun i => (gs.getD i 0, some ((out.drop (8192 * i)).take 8192))
          (s.modCpe fun p => { p with ctx := tput p.ctx c { x' with result := none } }).modJob n fun j => { j with apply := j.apply ++ ws }
      | (_, some e) =>
        let s := (s.event 0x1109 c c e.code x.owner x.bseq).modCpe fun p => p.countErr e
        s.rejectRecord n j.rseq t 4 (if e.code = 5 ∨ e.code = 6 then stCheckMismatch else stDecodeError) false endOff
  else if t = 4 then
    let ws : List (Nat × Option Bytes) := (List.range count).map fun i => (grain + i, none)
    s.modJob n fun j => { j with apply := j.apply ++ ws }
  else if t = 5 then s.replLose j.vol grain count
  else if t = 6 then s.modJob n fun j => { j with ended := some endOff, nData := leNat (body.take 8), nSkip := leNat ((body.drop 8).take 8),
                                                  nZero := leNat ((body.drop 16).take 8), nLost := leNat ((body.drop 24).take 8) }
  else s

/-- The checks of a received record (R305): RMAC, RSEQ, reserved fields; 0 none fails. -/
def recFault (key : Bytes) (b : Bytes) (rseq : Nat) (have_ : Bool) : Nat :=
  let x := b.take (b.length - 16)
  let t := (b.headD 0).toNat
  if b.drop (b.length - 16) ≠ (hmacSha256 key x).take 16 then 1
  else if leNat ((b.drop 8).take 8) ≠ rseq then 2
  else if !recFieldsOk b ∨ (t = 8) ≠ (have_ = true) then 3
  else 0

/-- One step of the target: a write to issue, a token to compare, a record to act on; false when nothing can go on. -/
def State.consumeStep (s : State) (n : Nat) (go : State → Cmd → State) : Bool × State :=
  match tget s.snap.jobs n with
  | none => (false, s)
  | some j =>
    match tget s.dge.jobKeys n with
    | none => (false, s)
    | some key =>
      if j.st ≠ .running ∨ j.role ≠ 2 ∨ s.cqe.cmds.any (fun c => c.qp == replQp n) then (false, s)
      else match j.apply with
        | (g, d) :: rest => (true, (s.modJob n fun j => { j with apply := rest }).replWrite n g d go)
        | [] =>
          if j.toks.isSome then
            let s' := s.answerOffer n key 258
            ((tget s'.snap.jobs n).elim false fun j => j.toks.isNone, s')
          else if j.ended.isSome then
            (false, ((s.event 0x1467 n n (lo32 j.nData) (lo32 j.nSkip) (lo32 (j.nZero + j.nLost))).setJob n .done 0))
          else match recLen j.stream with
            | none => (false, s)
            | some len =>
              let b := j.stream.take len
              let endOff := j.base + len
              let bad := recFault key b j.rseq false
              if bad ≠ 0 then (false, s.rejectRecord n j.rseq (b.headD 0).toNat bad stCheckMismatch false endOff)
              else
                let s' := s.applyRecord n j b endOff
                (true, s'.modJob n fun k => if k.st = .running then
                  { k with stream := k.stream.drop len, base := endOff, bytes := endOff, rseq := k.rseq + 1 } else k)

/-- The HAVE records that the source has received (R306). -/
def State.haveStep (s : State) (n : Nat) : Bool × State :=
  match tget s.snap.jobs n with
  | none => (false, s)
  | some j =>
    match tget s.dge.jobKeys n, recLen j.haveStream with
    | some key, some len =>
      if j.st ≠ .running ∨ j.role ≠ 1 then (false, s)
      else
        let b := j.haveStream.take len
        let endOff := j.haveBase + len
        let bad := recFault key b j.haveSeq true
        if bad ≠ 0 then (false, s.rejectRecord n j.haveSeq (b.headD 0).toNat bad stCheckMismatch true endOff)
        else
          let batch := leNat ((b.drop 28).take 4)
          let bits_ := (b.drop 32).take (leNat ((b.drop 4).take 4))
          (true, s.modJob n fun j => { j with
            haveStream := j.haveStream.drop len, haveBase := endOff, haveSeq := j.haveSeq + 1
            offered := j.offered.map fun x => if x.1 == batch && x.2.2.isNone then (x.1, x.2.1, some bits_) else x })
    | _, _ => (false, s)

/-- A fixed number of steps of a job. -/
def jobSteps (step : State → Bool × State) : Nat → State → State
  | 0, s => s
  | k + 1, s => match step s with
    | (true, s) => jobSteps step k s
    | (false, s) => s

/-! ## Portal commands (R303) -/

def half44 : Nat := 2 ^ 44

/-- Whether a portal takes a command: READ or WRITE by the job's role and the region. -/
def portalKindOk (kind opc lba : Nat) : Bool :=
  let upper := decide (half44 ≤ lba)
  if kind = 4 then (if upper then opc == opWrite else opc == opRead) else (if upper then opc == opRead else opc == opWrite)

/-- The job of a portal. -/
def State.portalJob (s : State) (v : Nat) : Option (Nat × Job) := s.snap.jobs.find? fun j => j.2.portal == v

/-- Bytes of a produced region that a READ asks for, once they are there; bytes after END are zero. -/
def Job.produced (j : Job) (have_ : Bool) (off len : Nat) : Option Bytes :=
  let base := if have_ then j.haveBase else j.base
  let b := if have_ then j.haveStream else j.stream
  if off + len ≤ base + b.length then some ((b.drop (off - base)).take len)
  else if !have_ ∧ j.ended.isSome then
    let x := (b.drop (off - base)).take len
    some (x ++ List.replicate (len - x.length) 0)
  else none

/-- A READ has gone this far: the window keeps the latest 64 MiB that has been read (R303). -/
def Job.readUpTo (j : Job) (have_ : Bool) (upTo : Nat) : Job :=
  if have_ then
    let r := max j.haveRead upTo
    let d := min (r - window64 - j.haveBase) j.haveStream.length
    { j with haveRead := r, haveStream := j.haveStream.drop d, haveBase := j.haveBase + d }
  else
    let r := max j.readTo upTo
    let d := min (r - window64 - j.base) j.stream.length
    { j with readTo := r, stream := j.stream.drop d, base := j.base + d }

/-- Join received pieces to the bytes not yet parsed. -/
def Job.join : Nat → Job → Job
  | 0, j => j
  | k + 1, j =>
    let endOf (h : Bool) : Nat := if h then j.haveBase + j.haveStream.length else j.base + j.stream.length
    match j.pieces.find? fun p => decide (p.2.1 ≤ endOf p.1) with
    | none => j
    | some p =>
      let b := p.2.2.drop (endOf p.1 - p.2.1)
      let j := { j with pieces := j.pieces.erase p }
      Job.join k (if p.1 then { j with haveStream := j.haveStream ++ b } else { j with stream := j.stream ++ b })

/-- Portal WRITEs whose every whole record has been applied complete with SUCCESS (R307). -/
def State.settleWrites (s : State) (n : Nat) : State :=
  match tget s.snap.jobs n with
  | none => s
  | some j =>
    let busy := !j.apply.isEmpty || j.toks.isSome || s.cqe.cmds.any fun c => c.qp == replQp n
    let open_ (h : Bool) (e : Nat) : Bool :=
      let base := if h then j.haveBase else j.base
      let b := if h then j.haveStream else j.stream
      let got := base + b.length
      (!h && busy && decide (base ≤ e)) || decide (got < e) ||
        (j.ended.isNone && match recLen b with | some len => decide (base + len ≤ e) | none => false)
    let done := j.writes.filter fun w => !open_ w.2.2.1 w.2.2.2
    let s := s.modJob n fun j => { j with writes := j.writes.filter fun w => open_ w.2.2.1 w.2.2.2 }
    done.foldl (fun s w => match s.cqe.cmd w.1 w.2.1 with
      | some c => s.finish (s.tagged c) ((s.tagged c).completion stSuccess 0 0 0 0)
      | none => s) s

/-- Try the READs that wait on a job's portal (R303, R104). -/
def State.tryPortalReads (s : State) (n : Nat) : State :=
  match tget s.snap.jobs n with
  | none => s
  | some j =>
    ((s.portalWaits j.portal).filter fun c => c.opc == opRead).foldl (fun s c =>
      match tget s.snap.jobs n with
      | none => s
      | some j =>
        let h := decide (half44 ≤ c.lba)
        let off := 4096 * (c.lba % half44)
        let len := 4096 * c.nsect
        let c := s.tagged c
        if off < (if h then j.haveBase else j.base) then s.failCmd c stInvalidField
        else if j.st = .failed then s.failCmd c stVolumeNotReady
        else match j.produced h off len with
          | none => s
          | some b => ((s.modJob n fun j => j.readUpTo h (off + len)).sendData c b).finish c (c.completion stSuccess 0 0 0 0)) s

/-- A SOURCE whose END has been read is DONE (R304). -/
def State.sourceDone (s : State) (n : Nat) : State :=
  match tget s.snap.jobs n with
  | some j =>
    let read : Bool := match j.ended with | some e => decide (e ≤ j.readTo) | none => false
    if j.role = 1 ∧ j.st = .running ∧ read then
      (s.event 0x1467 n n (lo32 j.nData) (lo32 j.nSkip) (lo32 (j.nZero + j.nLost))).setJob n .done 0
    else s
  | none => s

/-- A job goes on as far as it can. `go` admits and starts a write of the job. -/
def State.runJob (s : State) (n : Nat) (go : State → Cmd → State) : State :=
  let s := jobSteps (fun s => s.haveStep n) 4096 s
  let s := jobSteps (fun s => s.produceStep n) 65536 s
  let s := (jobSteps (fun s => s.consumeStep n go) 4096 s).settleWrites n
  (s.tryPortalReads n).sourceDone n

/-- A write of a job that DSC admits starts; one that waits stays. -/
def State.goWrite (s : State) (c : Cmd) : State :=
  match s.judge c with
  | (.admitted c, s) =>
    let s := s.startCmd c
    if c.opc = opZero then s
    else match s.cqe.cmd c.qp c.cid with
      | some c => s.launchWrite c (c.sectors c.carries)
      | none => s
  | (_, s) => s

/-- Every running job goes on. -/
def State.runJobs (s : State) : State :=
  (s.snap.jobs.filter fun j => j.2.st == .running).foldl (fun s j => s.runJob j.1 State.goWrite) s

/-- The stored grain that a job waits for has come, or a source of it failed (R239). -/
def State.replGot (s : State) (f : Fetch) (n g : Nat) (b : Option Bytes) : State :=
  match tget s.snap.jobs n with
  | none => s.dropFetch f.num
  | some j =>
    let have_ (s : State) (x : Option Bytes) : State :=
      (s.modJob n fun j => { j with fetching := false, held := some (g, x) }).runJob n State.goWrite
    match b with
    | none => s.nextOr f fun s => have_ s none
    | some x => match s.openFor j.vol x with
      | some out => have_ (s.dropFetch f.num) (some out)
      | none => (s.noteBadCopy j.vol f x).nextOr f fun s => have_ s none

/-- A portal command that has passed its checks at the owning head (R303): a READ waits for its bytes; a WRITE's place is
checked at once. -/
def State.startPortal (s : State) (c : Cmd) : State :=
  match s.portalJob c.vol with
  | none => s.failCmd c stVolumeNotReady
  | some (n, j) =>
    let s := s.modJob n fun j => { j with lastAt := s.dt, idleS := s.snap.idleS }
    let s := s.modCmd c.qp c.cid fun x => { x with waiting7 := true }
    if c.opc = opRead then s.runJob n State.goWrite
    else
      let parsed := if half44 ≤ c.lba then j.haveBase else j.base
      if 4096 * (c.lba % half44) > parsed + 16777216 then s.failCmd c stInvalidField
      else if j.st = .failed then s.failCmd c stVolumeNotReady
      else s

/-- A portal WRITE's data is complete (R303, R307). -/
def State.portalData (s : State) (c : Cmd) : State :=
  match s.portalJob c.vol with
  | none => s
  | some (n, j) =>
    let h := decide (half44 ≤ c.lba)
    let off := 4096 * (c.lba % half44)
    let b := (c.sectors c.nsect).flatten
    let base := if h then j.haveBase else j.base
    let t := s.tagged c
    if off + b.length ≤ base then s.finish t (t.completion stSuccess 0 0 0 0)
    else
      let s := s.modJob n fun j =>
        let x : Job := { j with
          pieces := if !h && j.ended.isSome then j.pieces else j.pieces ++ [(h, off, b)]
          writes := j.writes ++ [(c.qp, c.cid, h, off + b.length)] }
        Job.join (x.pieces.length + 1) x
      s.runJob n State.goWrite

/-- REPL_JOB_START (R304): a QUEUED job starts while fewer than 64 run on this head, which owns its volume's lease group. -/
def execReplJobStart (job : Fin 256) (s : State) : Host.Outcome State Fault Refusal :=
  match tget s.snap.jobs job.val with
  | none => .next s
  | some j =>
    let mine : Bool := match s.cfg.volume j.vol with | some v => s.ownsGroup v.group | none => false
    if j.st ≠ .queued ∨ !mine ∨ (s.snap.jobs.filter fun x => x.2.st == .running).length ≥ 64 then .next s
    else .next (((s.modJob job.val fun j => { j with lastAt := s.dt, idleS := s.snap.idleS }).setJob job.val .running 0).runJob job.val State.goWrite)

/-- REPL_IDLE_TIMEOUT (R308): no portal command for REPL_IDLE_S: the job fails. -/
def execReplIdleTimeout (job : Fin 256) (s : State) : Host.Outcome State Fault Refusal :=
  match tget s.snap.jobs job.val with
  | none => .next s
  | some j =>
    if j.st ≠ .running then .next s
    else .next ((s.advanceTo (j.lastAt + secNs j.idleS)).failJob job.val 3 stVolumeNotReady none)

/-! ## Snapshots -/

/-- A snapshot changes state (R292): event 0x1460 and the notice. -/
def State.setSnap (s : State) (vol id : Nat) (st : SnapSt) : State :=
  match s.snap.find vol id with
  | none => s
  | some x =>
    if x.st = st then s
    else
      let moved (y : Snap) : Snap :=
        if y.vol == vol && y.id == id then { y with st := st, deletedAt := if st = .deleting then s.dt else y.deletedAt } else y
      let s := (s.event 0x1460 0 vol id (snapStNum x.st) (snapStNum st)).modSnap fun c => { c with snaps := c.snaps.map moved }
      s.snapNotice vol id (snapStNum st) 1 0xFFFF x.e (s.charge x)

/-- SNAPSHOT_READY (R292): no command of the volume tagged before the snapshot's switch is outstanding. -/
def execSnapshotReady (vol snap : Nat) (s : State) : Host.Outcome State Fault Refusal :=
  match s.snap.find vol snap with
  | none => .next s
  | some x =>
    if x.st ≠ .creating ∨ s.cqe.cmds.any (fun c => c.vol == vol && c.admitted && c.opc != opAbort && decide (c.tag < x.cut)) then .next s
    else .next (s.setSnap vol snap .ready)

/-- Versions of a volume that no image needs any more (R295). -/
def State.idleVersions (s : State) (v : Nat) : List MapPage :=
  let own := s.ftu.pages.filter fun p => p.vol == v
  let gone := (s.cfg.volume v).isNone
  let snaps := s.snap.snaps.filter fun x => x.vol == v && x.st != .released && x.st != .deleting
  own.filter fun p =>
    let newer := own.filter fun q => q.page == p.page && decide (q.epoch > p.epoch)
    let next := newer.foldl (fun m q => min m q.epoch) (2 ^ 32)
    (gone || newer != []) && !snaps.any (fun x => decide (p.epoch ≤ x.e) && decide (x.e < next)) && p.pins == []

/-- Release one version: every reference it holds (R187, R301). -/
def State.releaseVersion (s : State) (p : MapPage) : State :=
  let refs := (p.entries.map (·.2)).filter isMapped
  let s := s.modFtu fun f => { f with pages := f.pages.filter fun q => !(q.vol == p.vol && q.page == p.page && q.epoch == p.epoch) }
  let s := refs.foldl (fun s e =>
    let kept := s.ftu.pages.any fun q => q.entries.any fun x => isMapped x.2 && samePlace x.2 e
    let s := if e.shared then s.dropRef e else s
    if kept then s else s.addValid e (-1)) s
  let named (f : Ftu) (b : Nat × Nat × Nat × Nat × Nat) : Bool := f.pages.any fun q => q.vol == b.2.2.2.1 && q.page == b.2.2.2.2 / 512
  s.modFtu fun f => { f with backrefs := f.backrefs.filter fun b => !(b.2.2.2.1 == p.vol && b.2.2.2.2 / 512 == p.page) || named f b }

/-- A deleted volume is undeclared once its last version and snapshot have gone (R301, R413). -/
def State.freeVolumes (s : State) : State :=
  let done (v : Nat) : Bool := !(s.ftu.pages.any fun p => p.vol == v) && !(s.snap.snaps.any fun x => x.vol == v && x.st != .released)
  (s.cfg.volumes.filter fun v => v.2 == .deleting && done v.1).foldl (fun s v =>
    (s.modCfg fun c => { c with volumes := tdel c.volumes v.1 }).modSnap fun c => { c with
      ve := tdel c.ve v.1, veAt := c.veAt.filter fun x => x.1 != v.1 }) s

/-- Deletion in the snapshot share (R301): versions that no image needs go; a snapshot in DELETING that kept the last of them is
released with event 0x1464. -/
def State.deleteSnaps (s : State) : State :=
  let vols := ((s.snap.snaps.filter fun x => x.st == .deleting).map (·.vol) ++ (s.cfg.volumes.filter fun v => v.2 == .deleting).map (·.1)).eraseDups
  let s := vols.foldl (fun s v =>
    let gone := s.idleVersions v
    let slots := lsum (gone.map fun p => lsum ((p.entries.filter fun x => isMapped x.2).map fun x => x.2.cls.toNat + 1))
    let s := gone.foldl (fun s p => s.releaseVersion p) s
    let more (x : Snap) : Snap := if x.vol == v && x.st == .deleting then { x with freed := x.freed + slots } else x
    s.modSnap fun c => { c with snaps := c.snaps.map more }) s
  let s := s.freeVolumes
  (s.snap.snaps.filter fun x => x.st == .deleting && (s.idleVersions x.vol).isEmpty).foldl (fun s x =>
    let s := s.event 0x1464 0 x.vol x.id (lo32 x.freed) ((s.dt - x.deletedAt) / 1000000000)
    (s.setSnap x.vol x.id .released).modSnap fun c => { c with snaps := c.snaps.filter fun y => !(y.vol == x.vol && y.id == x.id) }) s

end Sys2Proof.Machine
end

