-- ==== Sys2Proof/Machine/ResetOps.lean ====
section
/-! DEFINITION. Chapter 16: what the reset scopes clear (R436), how reset sources meet (R437), the cause register (R438). The
release of the chip and the block resets stand in Machine/Boot.lean and Machine/Blocks.lean. -/

namespace Sys2Proof.Machine

open Sys2Proof

/-! ## What the scopes clear (R436) -/

/-- EVR through a chip reset: the island's mirror and counter stay; the ring stays where DRAM does; the registers return to
their reset values, and what the health record on flash holds stays (R438, R471). -/
def Evr.reset (e : Evr) (dram : Bool) : Evr :=
  { seq := e.seq, mirror := e.mirror, ring := if dram then e.ring else [], recSeq := e.recSeq, lifePoh := e.lifePoh,
    lifeCold := e.lifeCold, lifeWarm := e.lifeWarm, lifeTrips := e.lifeTrips, juncHist := e.juncHist, tempLife := e.tempLife,
    stExtPass := if dram then e.stExtPass else none, stResult := 0, juncHour := if dram then e.juncHour else [],
    tallies := if dram then e.tallies else [] }

/-- A segment as the durable table names it: a change whose commit was not issued has not been made, and an erase in progress is
found as RECLAIMED (R234, R247). -/
def Ftu.durableSeg (f : Ftu) (g : Segment) : Segment :=
  let open_ (st : SegSt) : Bool := f.commits.any fun c => c.issuedAt.isNone && c.updates.any fun u => u == .segSt g.pool g.headB g.seq st
  if open_ .reclaimed then { g with st := .victim, erasing := [] }
  else if g.st = .erasing ∨ open_ .free then { g with st := .reclaimed, erasing := [] }
  else if open_ .victim then { g with st := .sealed }
  else g

/-- Copies of garbage collection whose commit was not issued are orphans (R247): pool and slots. -/
def Ftu.orphaned (f : Ftu) : List (Nat × Nat) :=
  f.commits.filterMap fun c =>
    let n := lsum (c.updates.map fun u => match u with | .moveMap _ _ o _ => o.cls.toNat + 1 | _ => 0)
    if c.issuedAt.isNone && n != 0 then some (c.pool, n) else none

/-- Flash keeps its contents through every reset: map and index pages, segments, erase counts, retired blocks, serial marks. Reads,
partly filled stripes and commits not yet issued go; dies are owned again once the configuration is applied. -/
def Ftu.flash (f : Ftu) : Ftu :=
  { pages := f.pages.map fun p => { p with cached := false, pins := [] }
    commits := f.commits.filter fun c => c.issuedAt.isSome
    commitSeq := f.commitSeq
    segs := f.segs.map f.durableSeg
    orphans := f.orphans ++ f.orphaned
    stripes := f.stripes.filter (·.issued)
    nextStripe := f.nextStripe
    rows := f.rows
    dies := f.dies.map fun d => (d.1, { d.2 with own := false, uecc := [], rber := [], failSince := none })
    types := f.types
    halves := f.halves.map fun h => { h with serial := max h.serial h.mark, credit := 0 }
    backrefs := f.backrefs }

/-- FTU through a warm reset: DRAM keeps the map cache, the tail and the journal; stripe buffers are discarded (R372). -/
def Ftu.warm (f : Ftu) : Ftu :=
  { f with fetches := [], recovery := f.recovery, scrubDays := 14, wlDelta := 500, lastUs := 0, mapHit := 0, mapMiss := 0, repaired := 0,
           lost := 0, retired := 0
           stripes := f.stripes.filter (·.issued)
           pages := f.pages.map fun p => { p with pins := [] } }

/-- Vault stripes that are durable on flash. -/
def Wc.durableVault (w : Wc) : List (Nat × List (Bool × Nat × Frame)) :=
  w.vaultPlan.filter fun p => !w.vaultLeft.any fun l => l.1 == p.1

/-- The write cache through a cold reset: DRAM is lost; the vault on flash stays. -/
def Wc.cold (w : Wc) : Wc := { vault := w.vault, vaultPlan := w.durableVault, vaultSeq := w.vaultSeq }

/-- The write cache through a warm reset: the frames and the mirror area stay (R158). -/
def Wc.warm (w : Wc) : Wc :=
  { frames := w.frames, mirror := w.mirror, gen := w.gen, nextFrame := w.nextFrame, vault := w.vault, vaultPlan := w.durableVault,
    vaultSeq := w.vaultSeq, sizeGib := w.sizeGib, peerSizeGib := w.peerSizeGib, lastDirty := w.lastDirty }

/-- Domains through a cold reset: index entries and logs are durable; the filter, in DRAM, is loaded again. -/
def Dxu.cold (x : Dxu) : Dxu :=
  { doms := x.doms.map fun d => (d.1, { d.2 with st := .loading, slots := [], unsent := [], hits := 0, failed := 0, drops := 0, fpread := 0 }) }

/-- Parity layouts, members, remap entries and the dirty-region log are durable; a member is ABSENT until its lane is up. -/
def Pxe.flash (p : Pxe) : Pxe :=
  { layouts := p.layouts
    members := p.members.map fun m => (m.1, if m.2.st == .lost then m.2 else { m.2 with st := .absent, wasPresent := m.2.wasPresent || m.2.st == .present, downAt := none, bothAt := none })
    drb := p.drb.map fun d => { d with acked := false }
    drbSeq := p.drbSeq, remaps := p.remaps
    rebuild := [] }

/-- Snapshots and volume epochs are durable; a replication job that was RUNNING is FAILED with cause 4 (R308). -/
def SnapCtl.flash (c : SnapCtl) : SnapCtl :=
  let keep (j : Job) : Job :=
    let run := j.st == .running
    { role := j.role, vol := j.vol, snapA := j.snapA, snapB := j.snapB, portal := j.portal, block := j.block,
      negotiate := j.negotiate, st := if run then .failed else j.st, cause := if run then 4 else j.cause,
      bytes := j.bytes, resetLost := run }
  { ve := c.ve, veAt := c.veAt, snaps := c.snaps
    jobs := (c.jobs.filter fun j => j.2.st == .running || j.2.st == .done || j.2.st == .failed).map fun j => (j.1, keep j.2) }

/-- ROT keeps its fuses and the island's code; a warm reset also the slot and ROT_BOOT_DIGEST (R436). -/
def Rot.reset (r : Rot) (warm : Bool) : Rot :=
  let base : Rot := { lifecycle := r.lifecycle, wrapErased := r.wrapErased, ownerAnchor := r.ownerAnchor, fuseSvn := r.fuseSvn,
                      serial := r.serial, islandCode := r.islandCode }
  if warm then { base with bootDigest := r.bootDigest, slotB := r.slotB, trial := r.trial, image := r.image } else base

/-- The NVM keeps its contents. -/
def Nvi.reset (n : Nvi) : Nvi :=
  { activeB := n.activeB, stA := n.stA, stB := n.stB, tries := n.tries, bseq := n.bseq, slotA := n.slotA, slotB := n.slotB }

/-- Two-head state through a warm reset: the fencing epoch in use, the nonce drawn at cold boot and the failbacks counted. -/
def Ha.warm (h : Ha) : Ha := { epoch := h.epoch, nonce := h.nonce, failbacks := h.failbacks, flap := h.flap, goDone := h.goDone, owner := h.owner }

/-- Straps stay at their last sample; the I3C target keeps answering through a warm reset (R440, R441). -/
def Glb.reset (g : Glb) (warm : Bool) : Glb :=
  let base : Glb := { headB := g.headB, bootForce := g.bootForce, nvmVsel := g.nvmVsel }
  if warm then { base with i3cUp := g.i3cUp, i3cOff := g.i3cOff, i3cAddr := g.i3cAddr } else base

/-- Lanes taken out of service by their tests stay out until the next cold boot. -/
def Dge.warm (d : Dge) : Dge := { bad := d.bad, tested := d.tested }
def Cpe.warm (c : Cpe) : Cpe := { bad := c.bad, tested := c.tested, dicts := c.dicts, lostDicts := c.lostDicts }
def Xts.warm (x : Xts) : Xts := { bad := x.bad, tested := x.tested, purged := x.purged }

/-- COLD scope. -/
def State.clearCold (s : State) : State :=
  { s with
    link := {}, cqe := {}, dsc := {}, wc := s.wc.cold, dge := {}, dxu := s.dxu.cold, cpe := {}, ftu := s.ftu.flash,
    pxe := s.pxe.flash, snap := s.snap.flash, ha := {}, gov := {}, mcu := { ueLife := s.mcu.ueLife }, slc := {},
    rot := s.rot.reset false, nvi := s.nvi.reset, xts := {}, cfg := {}, pmu := {}, dbg := {}, evr := s.evr.reset false,
    glb := s.glb.reset false }

/-- WARM scope. -/
def State.clearWarm (s : State) : State :=
  { s with
    link := {}, cqe := {}, dsc := {}, wc := s.wc.warm, dge := s.dge.warm, dxu := { doms := s.dxu.doms }, cpe := s.cpe.warm,
    ftu := s.ftu.warm, pxe := { s.pxe.flash with rebuild := s.pxe.rebuild }, snap := s.snap.flash, ha := s.ha.warm, gov := {}
    mcu := s.mcu, slc := { retired := s.slc.retired, limitSaid := s.slc.limitSaid }, rot := s.rot.reset true, nvi := s.nvi.reset,
    xts := s.xts.warm, cfg := { wall := s.cfg.wall }, pmu := {},
    dbg := { level := if s.dbg.level ≤ 1 then 0 else s.dbg.level }, evr := s.evr.reset true, glb := s.glb.reset true }

/-! ## Sources (R435, R437) -/

def Rcc.setCause (r : Rcc) (b : Nat) : Rcc := { r with cause := r.cause ||| BitVec.ofNat 13 (2 ^ b) }

/-- The vault runs: P4 before step 7 of R151. -/
def State.vaulting (s : State) : Bool := s.pmu.pstate == .p4 && !s.wc.vaultDone

/-- A reset ends a debug level (R422): event 0x1801. -/
def State.levelEnds (s : State) : State := if s.dbg.level = 0 then s else s.event 0x1801 0 s.dbg.level 0 0xFFFF 3

/-- Domains whose clock runs through a warm reset (R450). -/
def warmClocks : BitVec 72 := (List.range 12).foldl (fun m i => m ||| BitVec.ofNat 72 (2 ^ (36 + i))) (BitVec.ofNat 72 (2 ^ 59 + 2 ^ 61 + 2 ^ 62 + 2 ^ 64 + 2 ^ 69 + 2 ^ 71))

/-- A source of COLD scope: its bit, and the cold sequence from its step 2 unless one already runs. -/
def State.coldSource (s : State) (b : Nat) : State :=
  let s := s.modRcc fun r => r.setCause b
  if s.rcc.hold = .cold then s
  else s.levelEnds.clearCold.modRcc fun r => { r with
    hold := .cold, since := s.dt, fromPor := false, heldWarm := [], acting := none, pendingBlocks := 0, clkGood := 0, idleHeld := 0
    pendingChip := false }

/-- A source of WARM scope: held in P4 until step 7 of R151; without further effect in a chip reset. -/
def State.warmSource (s : State) (b : Nat) : State :=
  if s.rcc.hold ≠ .run then s.modRcc fun r => r.setCause b
  else if s.vaulting then s.modRcc fun r => { r with heldWarm := if r.heldWarm.contains b then r.heldWarm else b :: r.heldWarm }
  else (if s.dbg.level = 1 then s.levelEnds else s).clearWarm.modRcc fun r => { (r.setCause b) with
    hold := .warm, since := s.dt, clkGood := r.clkGood &&& warmClocks, fromPor := false, heldWarm := [], acting := none, pendingBlocks := 0, idleHeld := 0, pendingChip := false }

/-- Step 7 of R151: the WARM sources that were held act. -/
def State.releaseHeld (s : State) : State :=
  match s.rcc.heldWarm with
  | [] => s
  | b :: bs => bs.foldl (fun s b => s.modRcc fun r => r.setCause b) (s.warmSource b)

/-- ROT or the firmware resets the chip (sources 7 and 8). -/
def State.coldReset (s : State) : State := s.coldSource 7
def State.warmReset (s : State) : State := s.warmSource 8

/-- POR: everything but flash, NVM and fuses is lost; the island's state too. -/
def State.porReset (s : State) : State :=
  let s := s.clearCold
  { s with snw := {}, rcc := {}, evr := { s.evr with seq := 0, mirror := [] }, rot := { s.rot with islandCode := none } }

/-- POR (R435). -/
def execPor (s : State) : Host.Outcome State Fault Refusal := .next s.porReset

/-- PWRGD_LOSS (R435). -/
def execPwrgdLoss (s : State) : Host.Outcome State Fault Refusal := .next (s.coldSource 1)

/-- RESET_N (R439); a thermal trip ends once it has been asserted and released (R447). -/
def execResetN (s : State) : Host.Outcome State Fault Refusal :=
  .next ((s.coldSource 2).modRcc fun r => { r with tripReset := r.trip || r.tripReset })

/-- CORE_WATCHDOG (R446): event 0x1701, then source 5. Halted at D2 and D3 the watchdog does not run. -/
def execCoreWatchdog (cluster : Fin 4) (core : Fin 16) (s : State) : Host.Outcome State Fault Refusal :=
  if s.dbg.level ≥ 2 ∨ s.rcc.hold ≠ .run then .next s
  else .next ((s.event 0x1701 cluster.val cluster.val core.val 0 0).warmSource 5)

/-- ROT_WATCHDOG (R446): event 0x0208, then source 6. -/
def execRotWatchdog (s : State) : Host.Outcome State Fault Refusal :=
  if s.dbg.level ≥ 2 ∨ s.rcc.hold ≠ .run then .next s
  else .next ((s.event 0x0208 0 0 0 0 0).coldSource 6)

/-- THERMAL_TRIP (R447): event 0x0207, THERMTRIP_N low, COLD scope held. The sensors run in every scope. -/
def execThermalTrip (sensor : Fin 40) (temp : Int) (s : State) : Host.Outcome State Fault Refusal :=
  if s.rcc.trip then .next (s.modRcc fun r => r.setCause 10)
  else
    let s := (s.event 0x0207 sensor.val sensor.val (twos 32 temp) 0 0).modEvr fun e => { e with lifeTrips := e.lifeTrips + 1 }
    .next ((s.coldSource 10).modRcc fun r => { r with trip := true, tripReset := false })

/-- The sub-cause and domain of a source 11 reset (R438). -/
def State.glitchReset (s : State) (sub domain : Nat) : State :=
  (s.coldSource 11).modRcc fun r => { r with glitchSub := sub, glitchDomain := domain }

/-- GLITCH (R448): sub-causes 1 VDD_CORE to 6 the tamper mesh; a domain for a PLL only. -/
def execGlitch (sub : Fin 7) (domain : Fin 72) (s : State) : Host.Outcome State Fault Refusal :=
  .next (if sub.val = 0 then s else s.glitchReset sub.val (if sub.val = 5 then domain.val else 0))

/-- REFCLK_FAULT (R449): event 0x0205 and source 11; in operation only. -/
def execRefclkFault (outOfRange : Bool) (s : State) : Host.Outcome State Fault Refusal :=
  if s.rcc.hold ≠ .run then .next s
  else
    let k := if outOfRange then 2 else 1
    .next ((s.event 0x0205 0 k 0 0 0).glitchReset (if outOfRange then 4 else 3) 0)

/-! ## Software resets (R437) -/

/-- The answer to the write of RCC_SWRST still waits for credit. -/
def State.answersWait (s : State) : Bool :=
  s.link.ports.any fun p => p.2.txq.any fun t => match t.item with | .answer .. => true | _ => false

/-- A RCC_SWRST write acts once its answer has been transmitted. -/
def State.actSwrst (s : State) : State :=
  if s.answersWait then s
  else match s.rcc.acting with
    | some 2 => s.coldReset
    | some _ => (s.modRcc fun r => { r with acting := none }).warmReset
    | none => s

/-- A write of RCC_SWRST: KEY 0xA5C3, COLD before WARM. -/
def State.writeSwrst (s : State) (v : Nat) : State :=
  if bits v 31 16 ≠ 0xA5C3 ∨ s.rcc.hold ≠ .run then s
  else if tbit v 1 then s.modRcc fun r => { r with acting := some 2 }
  else if tbit v 0 then s.modRcc fun r => { r with acting := if r.acting = some 2 then some 2 else some 1 }
  else s

/-- SW_COLD_RESET: a CSR_WRITE of RCC_SWRST. -/
def execSwColdReset (m : Vc3) (value : Word) (s : State) : Host.Outcome State Fault Refusal :=
  .next (s.regWrite m 0x10004 3 fun s => s.writeSwrst value.toNat).actSwrst

/-- SW_WARM_RESET: a CSR_WRITE of RCC_SWRST. -/
def execSwWarmReset (m : Vc3) (value : Word) (s : State) : Host.Outcome State Fault Refusal :=
  .next (s.regWrite m 0x10004 3 fun s => s.writeSwrst value.toNat).actSwrst

end Sys2Proof.Machine
end

