-- ==== Sys2Proof/Machine/Responses.lean ====
section
/-! DEFINITION. Media operations issued and answered (R23, R24, R57 to R62, R64, R110, R248), and the reads the peer forwards
(R59, R314). -/

namespace Sys2Proof.Machine

open Sys2Proof

/-! ## Where the data of a fetch goes -/

/-- A source of a fetch has given its units, or failed. -/
def State.fetchResult (s : State) (f : Fetch) (b : Option Bytes) : State :=
  match f.work with
  | .hostRead qp cid part => s.hostGot f qp cid part b
  | .mapRead vol page => s.mapGot f vol page b
  | .mergeRead i => s.mergeGot f i b
  | .verifyRead i => s.verifyGot f i b
  | .gcRead die chunk slot => s.gcGot f die chunk slot b
  | .recover vol grain => s.recoverGot f vol grain b
  | .rebuild pool die chunk => s.rebuildGot f pool die chunk b
  | .repl job grain => s.replGot f job grain b
  | _ => s.dropFetch f.num

/-- A scrub read has ended (R242): a failed chunk is refreshed and its grains recovered. -/
def State.scrubbed (s : State) (die chunk : Nat) (b : Option Bytes) : State :=
  match b with
  | some _ => s
  | none => (s.grainsIn die chunk).foldl (fun s g => s.recoverLater g.1 g.2) (s.refreshAt die chunk)

/-- The work of a read gets its data, or its failure. -/
def State.readResult (s : State) (work : Work) (die status : Nat) (b : Option Bytes) : State :=
  match work with
  | .fetch num =>
    match s.piece num die b with
    | (some (f, r), s) => s.fetchResult f r
    | (none, s) => s
  | .scrub d c => s.scrubbed d c b
  | .soft vol grain set => s.softGot vol grain set b
  | .peerRead tag => s.transmit .peer 5 (.peerMediaAnswer tag status (b.getD []))
  | .peerSoft tag => s.transmit .peer 5 (.peerMediaAnswer tag status (b.getD []))
  | _ => s

/-! ## Answers -/

def opDie (o : MediaOp) : Nat := 256 * o.pos + o.die

/-- A READ or SOFT_READ that went to the peer (R23). -/
def State.viaPeer (s : State) (o : MediaOp) : Bool := (o.opc == mRead || o.opc == mSoft) && !(s.ftu.die (opDie o)).own

def State.dropOp (s : State) (tag : Nat) : State := s.modLink fun l => { l with ops := tdel l.ops tag }

/-- A media violation (R64): position, tag, OPC, status. -/
def State.mediaViolation (s : State) (pos : Nat) (code : BitVec 16) (tag opc status : Nat) : State :=
  s.portViolation (mediaPort pos) code tag opc status

/-- The second malformed answer to a request: its module is an unavailable stripe member (R64). -/
def State.memberUnavailable (s : State) (pos : Nat) : State :=
  (s.modLink fun l => { l with modules := tput l.modules pos { (tgetD l.modules pos {}) with unavailable := true } }).memberLeaves pos

/-- Send a request again under a new tag (R64). -/
def State.retryOp (s : State) (tag : Nat) (o : MediaOp) : State :=
  let s := s.dropOp tag
  let new := s.link.nextTag
  let s := s.sendMedia o.pos o.die o.opc o.addr o.arg (s.dt + (o.deadline - o.issuedAt)) o.resv o.work o.body
  s.modLink fun l => { l with ops := tmod l.ops new fun x => { x with retried := true } }

/-- An answer of a bridge: unknown, late, malformed, or for its operation (R61, R64). `gone`: what a request does that stays
without an answer. -/
def State.mediaAnswer (s : State) (pos tag opc status : Nat) (hdrOk : Bool) (gone act : MediaOp → State → State) : State :=
  match tget s.link.ops tag with
  | none =>
    if s.link.lateTags.contains tag then
      (s.mediaViolation pos 0x0B07 tag opc status).modLink fun l => { l with lateTags := l.lateTags.filter (· != tag) }
    else s.mediaViolation pos 0x0B06 tag opc status
  | some o =>
    if o.pos ≠ pos ∨ o.opc ≠ opc ∨ s.viaPeer o then s.mediaViolation pos 0x0B06 tag opc status
    else if !hdrOk then
      let s := s.mediaViolation pos 0x0B08 tag opc status
      if !o.retried then s.retryOp tag o else (gone o (s.dropOp tag)).memberUnavailable pos
    else act o (s.dropOp tag)

/-- EPOCH_STALE (R330): event 0x0A39 with the epoch last read on the bridge, programs stop, and a warm reset. -/
def State.epochStale (s : State) (pos opc bridge : Nat) : State :=
  ((s.event 0x0A39 pos pos s.ha.epoch bridge opc).modHa fun h => { h with stale := true }).warmReset

/-- A READ on an own die failed, in the answer or by timeout (R61, R113). -/
def State.readLost (s : State) (o : MediaOp) (status : Nat) : State :=
  ((s.readFailed (opDie o)).resumeDie (opDie o)).readResult o.work (opDie o) status none

/-- READ_RESPONSE (R58, R61, R113, R242). -/
def execReadResponse (pos : Fin 96) (tag : Word) (status : BitVec 16) (hdrOk : Bool) (maxCorr : Nat) (data : Bytes) (s : State) :
    Host.Outcome State Fault Refusal :=
  .next (s.mediaAnswer pos.val tag.toNat mRead status.toNat hdrOk (fun o s => s.readLost o 1) fun o s =>
    let die := opDie o
    if status = 0 then
      let s := (s.readGood die (2048 * (o.arg / 32))).resumeDie die
      let s := if maxCorr ≥ (s.ftu.dieType die).refreshBits then s.refreshAt die o.addr else s
      s.readResult o.work die 0 (some data)
    else if status = 1 then s.readLost o 1
    else if status = 2 then s.epochStale pos.val mRead (tgetD s.ha.epochAt pos.val 0)
    else (s.resumeDie die).readResult o.work die status.toNat none)

/-- MEDIA_READ_TIMEOUT (R61): treated as DECODE_FAIL; an answer that comes later is a violation. A read that went to the peer is
not judged against the die. -/
def execMediaReadTimeout (tag : Word) (s : State) : Host.Outcome State Fault Refusal :=
  match tget s.link.ops tag.toNat with
  | none => .next s
  | some o =>
    if o.opc ≠ mRead ∧ o.opc ≠ mSoft then .next s
    else
      let far := s.viaPeer o
      let s := ((s.advanceTo o.deadline).dropOp tag.toNat).modLink fun l => { l with lateTags := tag.toNat :: l.lateTags }
      .next (if far then s.readResult o.work (opDie o) 1 none else s.readLost o 1)

/-- SOFT_READ_RESPONSE (R241). -/
def execSoftReadResponse (pos : Fin 96) (tag : Word) (status : BitVec 16) (hdrOk : Bool) (data : Bytes) (s : State) :
    Host.Outcome State Fault Refusal :=
  .next (s.mediaAnswer pos.val tag.toNat mSoft status.toNat hdrOk (fun o s => (s.resumeDie (opDie o)).readResult o.work (opDie o) 1 none) fun o s =>
    if status = 2 then s.epochStale pos.val mSoft (tgetD s.ha.epochAt pos.val 0)
    else (s.resumeDie (opDie o)).readResult o.work (opDie o) status.toNat (if status = 0 then some data else none))

/-! ## Programs and erases -/

/-- The XOR chunk of a row is durable (R223, R238). -/
def State.rowDurable (s : State) (die block row : Nat) : State :=
  match s.ftu.placeOf die with
  | none => s
  | some (g, _) =>
    let half := (s.ftu.die die).half
    let hit (r : XorRow) : Bool := r.pos == die / 256 && r.headB == half && r.group == g && r.block == block && r.row == row
    let s := s.modFtu fun f => { f with rows := f.rows.filter fun r => !hit r }
    match s.segmentAt die (1024 * block + row) with
    | some x => s.clearRegions x.pool x.seq
    | none => s

/-- The vault die set (R148): 16 of this head's dies on each declared module that answers. -/
def State.vaultDies (s : State) : List (List Nat) :=
  (s.cfg.modules.filter s.moduleUp).filterMap fun p =>
    let ds := ((s.ftu.dies.filter fun d => d.1 / 256 == p && d.2.own && dieGood d.2).map (·.1)).take 16
    if ds = [] then none else some ds

/-- Reserve a vault program on a die, after the last one there; GOV's limits do not apply (R152). Where the vault blocks lie is not
stated: a free value (log entry 10). -/
def State.placeVault (s : State) (die : Nat) (work : Work) : State :=
  let start := (s.dsc.ofDie die).foldl (fun m r => max m r.stop) s.dt
  let r : Resv := { num := 0, die := die, start := start, stop := start + (s.ftu.dieType die).tPROG * 100, kind := .vault, work := work
                    chunk := s.freeNat 23 }
  s.freshen.modDsc fun d => d.enter r

/-- The vault header goes to three modules in different failure positions (R153). -/
def State.placeHeader (s : State) : State :=
  let pick (a : List Nat) (ds : List Nat) : List Nat :=
    match ds with
    | [] => a
    | d :: _ => if a.any (fun x => s.failPos (x / 256) == s.failPos (d / 256)) then a else a ++ [d]
  ((s.vaultDies.foldl pick []).take 3).foldl (fun s d => s.placeVault d .vaultHeader) s

/-- A chunk of the vault is durable (R151): with the last one the header is written SEALED. -/
def State.vaultChunk (s : State) (stripe : Nat) : State :=
  let s' := s.modWc fun w => { w with vaultLeft := (w.vaultLeft.map fun x => if x.1 == stripe then (x.1, x.2 - 1) else x).filter fun x => x.2 != 0 }
  if s.wc.vaultLeft ≠ [] ∧ s'.wc.vaultLeft = [] then s'.placeHeader else s'

/-- The SEALED header is on flash (R151 step 7): event 0x1443, and the resets that waited act (R153). -/
def State.vaultSealed (s : State) : State :=
  match s.wc.vault with
  | none => s
  | some h =>
    if !s.wc.frozen ∨ s.wc.vaultLeft ≠ [] ∨ s.wc.vaultDone ∨ s.underWay .vaultHeader then s
    else
      let ms := (s.dt - h.dtPf) / 1000000
      let s := (s.event 0x1443 0 h.stripes ms h.own h.mirr).modWc fun w => { w with
        vault := some { h with st := 2 }, vaultDone := true, lastValid := true, lastOutcome := 1, lastMs := sat 16 ms }
      let s := s.releaseHeld
      if s.wc.pwrfailRose then s.warmReset else s

/-- PROGRAM_RESPONSE (R58, R248): a durable chunk goes to its owner; PROGRAM_FAIL retires the block and the stripe is written
again in full; where nothing was done the program is planned again. -/
def execProgramResponse (pos : Fin 96) (tag : Word) (status : BitVec 16) (hdrOk : Bool) (s : State) : Host.Outcome State Fault Refusal :=
  .next (s.mediaAnswer pos.val tag.toNat mProgram status.toNat hdrOk (fun _ s => s) fun o s =>
    let die := opDie o
    if status = 0 then
      match o.work with
      | .destage num m => s.memberDurable num m die o.addr
      | .xorRow _ block row => s.rowDurable die block row
      | .cellWrite pool d c => s.cellWritten pool d c
      | .vault stripe _ => s.vaultChunk stripe
      | .vaultHeader => s.vaultSealed
      | _ => s
    else if status = 5 then
      let s := s.retireBlock die (o.addr / 1024) 1
      match o.work with
      | .destage num _ => (match s.stripeOf num with | some t => s.restripe t | none => s)
      | .xorRow _ block row => s.rowDurable die block row
      | .cellWrite pool d c => s.modCell pool d c fun c => { c with running := false, target := none, got := [] }
      | .vault stripe _ => s.vaultChunk stripe
      | _ => s
    else if status = 2 then s.epochStale pos.val mProgram (tgetD s.ha.epochAt pos.val 0)
    else s)

/-- ERASE_RESPONSE (R248, R252): one more erase of the block, or its retirement. -/
def execEraseResponse (pos : Fin 96) (tag : Word) (status : BitVec 16) (hdrOk : Bool) (s : State) : Host.Outcome State Fault Refusal :=
  .next (s.mediaAnswer pos.val tag.toNat mErase status.toNat hdrOk (fun _ s => s) fun o s =>
    let die := opDie o
    let block := o.addr / 1024
    let done (s : State) : State := match o.work with | .eraseSeg pool seg => s.blockErased pool seg die | _ => s
    if status = 0 then
      (done (s.modDie die fun d => { d with pe := tput d.pe block (tgetD d.pe block 0 + 1) })).refreshPools
    else if status = 6 then done (s.retireBlock die block 2)
    else if status = 2 then s.epochStale pos.val mErase (tgetD s.ha.epochAt pos.val 0)
    else s)

/-- SUSPEND_RESPONSE (R110): the program or erase is suspended, or had ended. -/
def execSuspendResponse (pos : Fin 96) (tag : Word) (status : BitVec 16) (hdrOk : Bool) (s : State) : Host.Outcome State Fault Refusal :=
  .next (s.mediaAnswer pos.val tag.toNat mSuspend status.toNat hdrOk (fun _ s => s) fun _ s => s)

/-- RESUME_RESPONSE (R110). -/
def execResumeResponse (pos : Fin 96) (tag : Word) (status : BitVec 16) (hdrOk : Bool) (s : State) : Host.Outcome State Fault Refusal :=
  .next (s.mediaAnswer pos.val tag.toNat mResume status.toNat hdrOk (fun _ s => s) fun _ s => s)

/-! ## Telemetry (R62) -/

/-- TELEMETRY: stamped with DT; corrected bits since the last one count for the module's own dies (R252, log entry 24). -/
def execTelemetry (pos : Fin 96) (hdrOk : Bool) (powerMw energyMj : Nat) (temps : List Int) (corrected : Nat) (s : State) :
    Host.Outcome State Fault Refusal :=
  if !hdrOk then .next (s.mediaViolation pos.val 0x0B08 0 7 0)
  else
    let m := tgetD s.link.modules pos.val {}
    let more := if corrected ≥ m.corrected then corrected - m.corrected else corrected
    let m' : Module := { m with telemAt := some s.dt, missing := false, powerMw := powerMw, energyMj := energyMj, temps := temps, corrected := corrected }
    let add (d : Die) : Die := { d with rber := match d.rber with
      | x :: xs => if x.1 / 3600000000000 = s.dt / 3600000000000 then (x.1, x.2.1 + more, x.2.2) :: xs
        else (s.dt, more, 0) :: (x :: xs).filter fun y => decide (y.1 + dayNs > s.dt)
      | [] => [(s.dt, more, 0)] }
    let mine (d : Nat × Die) : Bool := d.1 / 256 == pos.val && d.2.own
    let s := (s.modLink fun l => { l with modules := tput l.modules pos.val m' }).modFtu fun f =>
      { f with dies := f.dies.map fun d => if mine d then (d.1, add d.2) else d }
    let hot := temps.foldl max (temps.headD 0)
    let s := if temps = [] then s else s.modEvr fun e => { e with tempLife := tput e.tempLife pos.val (max hot (tgetD e.tempLife pos.val hot)) }
    .next ((s.ftu.dies.filter mine).foldl (fun s d => s.judgeDie d.1) s)

/-- TELEMETRY_MISSING: 1 ms has passed since the last TELEMETRY; the module has no measurement. -/
def execTelemetryMissing (pos : Fin 96) (s : State) : Host.Outcome State Fault Refusal :=
  let m := tgetD s.link.modules pos.val {}
  match m.telemAt with
  | none => .next s
  | some t =>
    if m.missing then .next s
    else .next ((s.advanceTo (t + msNs 1)).modLink fun l => { l with modules := tput l.modules pos.val { m with missing := true } })

/-! ## Issuing (R24) -/

/-- Bytes of a vault header (R153). -/
def vaultHdrBytes (h : VaultHdr) : Bytes :=
  let b := leBytes 4 0x56414C54 ++ leBytes 2 7 ++ leBytes 1 h.st ++ leBytes 1 (bit h.headB) ++ leBytes 8 h.vseq ++ leBytes 8 h.dtPf ++
    leBytes 8 h.cepoch ++ leBytes 4 h.stripes ++ leBytes 4 h.own ++ leBytes 4 h.mirr ++ leBytes 2 h.limitGib ++ leBytes 14 0
  b ++ leBytes 4 (crc32c b).toNat

/-- The bytes a program writes; a vault chunk's layout is not in the spec (log entry 12). -/
def State.programBody (s : State) (work : Work) (die chunk : Nat) : Bytes :=
  match work with
  | .destage num m => (match s.stripeOf num with | some t => s.memberBytes t m | none => [])
  | .xorRow _ block row =>
    (match s.ftu.placeOf die with
      | none => []
      | some (g, _) =>
        let half := (s.ftu.die die).half
        let hit (r : XorRow) : Bool := r.pos == die / 256 && r.headB == half && r.group == g && r.block == block && r.row == row
        (s.ftu.rows.find? hit).elim [] (·.acc))
  | .cellWrite pool d c =>
    (((tgetD s.pxe.rebuild pool {}).cells.find? fun x => x.die == d && x.chunk == c).bind fun x => x.got.head?.map (·.2)).getD []
  | .vault stripe m => leBytes 65536 (Config.freeValue 524288 (stripe * 32 + m + chunk)).toNat
  | .vaultHeader => (s.wc.vault.map fun h => vaultHdrBytes { h with st := if s.wc.vaultLeft = [] then 2 else 1 }).getD []
  | _ => []

/-- Address of the chunk that a program reservation writes, by its work. -/
def State.programChunk (s : State) (r : Resv) : Option Nat :=
  match r.work with
  | .destage num m => (s.stripeOf num).bind fun t => (t.left.find? fun c => c.1 == m).map (·.2.2)
  | .xorRow _ block row => some (1024 * block + row)
  | .cellWrite pool d c =>
    ((tgetD s.pxe.rebuild pool {}).cells.find? fun x => x.die == d && x.chunk == c).bind fun x => x.target.map (·.2)
  | .vault _ _ => some r.chunk
  | .vaultHeader => some r.chunk
  | _ => none

/-- The block that an erase reservation erases. -/
def State.eraseBlock (s : State) (r : Resv) : Option Nat :=
  match r.work with
  | .eraseSeg pool seg => (s.ftu.segs.find? fun g => g.pool == pool && g.seq == seg && g.st == .erasing && g.erasing.contains r.die).map (·.block)
  | _ => none

/-- Issue a reservation's operation; at D2 and D3 no media operation leaves (R424). -/
def State.issue (s : State) (r : Resv) : State :=
  if s.dbg.level ≥ 2 ∨ s.dbg.action.isSome then s
  else
  let dieOk := (s.ftu.die r.die).own
  match r.kind with
  | .read | .claim =>
    let live : Bool := match r.work with | .fetch n => (s.fetchOf n).isSome | _ => true
    if !live ∨ r.unit ≥ 32 then s
    else if !dieOk then s.readResult r.work r.die 3 none
    else match r.work with
      | .soft v g j => s.sendRead mSoft r.die r.chunk r.unit r.units r.num (.soft v g j) (softOffsets j)
      | .peerSoft t => s.sendRead mSoft r.die r.chunk r.unit r.units r.num (.peerSoft t) []
      | w => s.sendRead mRead r.die r.chunk r.unit r.units r.num w []
  | .program | .vault =>
    if s.ha.stale ∨ !dieOk then s
    else match s.programChunk r with
      | none => s
      | some c => s.sendMedia (r.die / 256) (r.die % 256) mProgram c 0 0 r.num r.work (s.programBody r.work r.die c)
  | .erase =>
    if s.ha.stale ∨ !dieOk then s
    else match s.eraseBlock r with
      | none => s
      | some b => s.sendMedia (r.die / 256) (r.die % 256) mErase (1024 * b) 0 0 r.num r.work []
  | _ => s

/-- MEDIA_OP_ISSUE (R24): a reservation has reached its start and its operation goes to the bridge of a die this head owns
(R23). -/
def execMediaOpIssue (resv : Nat) (s : State) : Host.Outcome State Fault Refusal :=
  match s.dsc.cal.find? fun r => r.num == resv && !r.issued with
  | none => .next s
  | some r =>
    let s := (s.advanceTo r.start).modDsc fun d => { d with cal := d.cal.map fun x => if x.num == resv then { x with issued := true } else x }
    .next (s.issue r)

/-! ## Reads the peer forwards (R59, R314) -/

/-- PEER_MEDIA_READ: the die owner reads the chunk for the peer, at the time it granted, else by claim; a die this head does
not own is a request it does not understand. -/
def execPeerMediaRead (tag : Word) (soft : Bool) (pos : Nat) (die : Byte) (chunk unit count : Nat) (offs : Bytes) (s : State) :
    Host.Outcome State Fault Refusal :=
  let d := 256 * pos + die.toNat
  if pos ≥ 96 ∨ !(s.ftu.die d).own ∨ count = 0 ∨ unit + count > 32 ∨ (soft ∧ offs.length ≠ 16) then
    .next ((s.portViolation .peer 0x0A05 0 0 0).transmit .peer 5 (.peerMediaAnswer tag.toNat 9 []))
  else
    let work : Work := if soft then .peerSoft tag.toNat else .peerRead tag.toNat
    match s.dsc.cal.find? fun r => r.die == d && r.work == work && !r.issued with
    | some r => .next (s.modDsc fun c => { c with cal := c.cal.map fun x =>
        if x.num == r.num then { x with unit := unit, units := count, chunk := chunk } else x })
    | none =>
      let ty := s.ftu.dieType d
      .next (s.modDsc fun c => (c.putClaim s.dt d (costE ty count 0) (costE ty count 1) work unit count chunk).1)

/-- PEER_MEDIA_READ_RESPONSE: the die owner has answered a read this head forwarded. -/
def execPeerMediaReadResponse (tag : Word) (status : BitVec 16) (data : Bytes) (s : State) : Host.Outcome State Fault Refusal :=
  match tget s.link.ops tag.toNat with
  | some o =>
    if !s.viaPeer o then .next (s.portViolation .peer 0x0A05 0 0 0)
    else .next ((s.dropOp tag.toNat).readResult o.work (opDie o) status.toNat (if status = 0 then some data else none))
  | none => .next (s.portViolation .peer 0x0A05 0 0 0)

end Sys2Proof.Machine
end

