-- ==== Sys2Proof/Machine/Link.lean ====
section
/-! DEFINITION. Chapter 02: lane states and training (R50 to R54, R482, R504), port restarts and retraining (R51), credits and
retries (R44 to R49). -/

namespace Sys2Proof.Machine

open Sys2Proof

/-! ## Lanes (R50) -/

/-- The event of a lane's state change (R504). -/
def State.laneEvent (s : State) (n : Nat) (old new : LaneSt) (cause : Nat) : State :=
  let o := laneStNum old
  let k := laneStNum new
  if n < 32 then s.event 0x0901 n n o k cause
  else if n < 128 then s.event 0x0B01 (s.link.posOf n) (s.link.posOf n) o k cause
  else s.event 0x0A01 (n - 128) n o k cause

/-- Credits this head advertises by group (R45). -/
def advertised : PortId → List Nat
  | .host _ => [512, 4096, 512, 64, 0, 0]
  | .peer => [1024, 8192, 1024, 64, 512, 4096]
  | .media _ => [0, 0, 0, 16, 0, 1024]

/-- Credits required of the far end by group: 0 for a VC the group does not carry (R34, R45). -/
def required : PortId → List Nat
  | .host _ => [8, 64, 8, 4, 0, 0]
  | .peer => [8, 64, 8, 4, 8, 16]
  | .media _ => [0, 0, 0, 4, 0, 16]

/-- Virtual channels a group carries (R34); completions leave on VC2 of host ports. -/
def carries (p : PortId) (vc : Nat) : Bool :=
  match p with
  | .host _ => vc == 0 || vc == 1 || vc == 3
  | .peer => vc ≤ 5
  | .media _ => vc == 3 || vc == 5

/-- A message of which some flits were sent already. -/
def partSent (cap : Nat) (t : TxItem) : Bool := decide (t.flits < flitsOf cap t.item)

/-- A notice lost in a port restart is dropped and counted (R97). -/
def Session.loseNotice (x : Session) (nseq : Nat) : Session :=
  { x with dropped := x.dropped + 1, firstDropped := if x.dropped = 0 then nseq else min nseq x.firstDropped }

def State.loseItems (s : State) (items : List Sent) : State :=
  items.eraseDups.foldl (fun s i => match i with
    | .notice _ sess _ nseq _ _ _ => s.modSession sess fun x => x.loseNotice nseq
    | _ => s) s

/-- Every lane of a port has passed through DOWN (R51): SEQ 0, fresh credits, no keys (R54); unacknowledged flits and the
messages they belong to are lost, messages not begun are kept. -/
def State.restartPort (s : State) (p : PortId) : State :=
  let q := s.link.port p
  let cap := s.link.payload p
  let lost := q.unacked.map (·.2.item) ++ ((q.txq.filter (partSent cap)).map (·.item))
  let s := s.modPort p fun q => { q with
    txSeq := 0, unacked := [], txq := q.txq.filter fun t => !partSent cap t, ackAt := s.dt, replays := 0, replayed := 0, rxSeq := 0, naked := false,
    sinceAck := 0, ackDue := none, granted := [0, 0, 0, 0, 0, 0], sent := [0, 0, 0, 0, 0, 0], rxGranted := [0, 0, 0, 0, 0, 0],
    rxTaken := [0, 0, 0, 0, 0, 0], rxSaid := [0, 0, 0, 0, 0, 0], keyed := false, keyTx := 0, keyRx := 0 }
  s.loseItems lost

/-- Commands in flight on a port: those received on a host port, those forwarded over the peer port (R51, R80). -/
def Cmd.onPort (c : Cmd) (p : PortId) : Bool :=
  match p with
  | .host h => c.fromPeer.isNone && c.port == h.val
  | .peer => c.fwdAt.isSome
  | .media _ => false

/-- The port carries MSG flits again (R51): the time since the trigger is excluded time of its commands, the retraining is
reported, and the unacknowledged flits are sent again. -/
def State.endRetrain (s : State) (p : PortId) : State :=
  let q := s.link.port p
  match q.retrain with
  | none => s
  | some (trigger, t0) =>
    let took := s.dt - t0
    let add (x : Cmd) : Cmd := if x.onPort p then { x with excl := x.excl + took } else x
    let s := s.modCqe fun c => { c with cmds := c.cmds.map add }
    let n := q.replayed + q.unacked.length
    let s := match q.unacked.head? with | some u => s.emit (.replay p u.1 q.unacked.length) | none => s
    let s := s.modPort p fun q => { q with retrain := none, replayed := 0, replays := 0, ackAt := s.dt }
    let s := match p with
      | .host h => s.event 0x0902 h.val h.val trigger (took / 1000) n
      | .peer => s.event 0x0A02 0 trigger (took / 1000) n (s.link.activeLanes .peer)
      | .media _ => s
    s.pump p

/-- PEER_CFG_FETCH leaves while this head has no answer to an earlier one. -/
def State.fetchCfg (s : State) : State :=
  if s.cfg.fetching ∨ !s.portUp .peer then s else (s.modCfg fun c => { c with fetching := true }).transmit .peer 3 .cfgFetch

/-- The mirror follows the peer port's lanes (R139); a head that waits for a configuration asks the peer for one (R405). -/
def State.peerLanes (s : State) (up : Bool) : State :=
  if up then
    let s := if s.rot.waitSince.isSome then s.fetchCfg else s
    if s.wc.mirrorSt = .stalled then s.setMirror .mirrored 2 else s
  else if s.wc.mirrorSt = .mirrored ∧ !s.ha.peerFailed then s.setMirror .stalled 1 else s

/-- The last ACTIVE lane of a port has gone. -/
def State.portDown (s : State) (p : PortId) : State :=
  let s := s.modPort p fun q => { q with lostAt := q.lostAt.orElse fun _ => some s.dt }
  match p with
  | .host _ => s
  | .peer => s.peerLanes false
  | .media m => s.modPxe fun x => { x with members := tmod x.members m.val fun k => { k with downAt := k.downAt.orElse fun _ => some s.dt } }

/-- A port has an ACTIVE lane again. -/
def State.portBack (s : State) (p : PortId) : State :=
  let s := (s.modPort p fun q => { q with lostAt := none, lostDone := false, ackAt := s.dt, creditAt := s.dt }).endRetrain p
  let s := s.pump p
  match p with
  | .host _ => s
  | .peer => s.peerLanes true
  | .media m => (s.modPxe fun x => { x with members := tmod x.members m.val fun k => { k with downAt := none } }).memberReturns m.val

/-- A lane enters another state (R50, R51): its consecutive failures, its back-off, its retrains. -/
def Lane.enters (dt : Nat) (st : LaneSt) (cause : Nat) (l : Lane) : Lane :=
  let failed := st = .down ∧ cause ≠ 11 ∧ cause ≠ 9
  let fails := if st = .active ∨ st = .quarantine then 0 else if failed then l.fails + 1 else l.fails
  let back := if cause = 9 then 1000000000 else min 1000000000 (10000000 * 2 ^ (min 7 (fails - 1)))
  { l with
    st := st, since := dt, fails := fails, backoff := if st = .down then back else l.backoff
    retrains := if st = .retrain then sat 8 (l.retrains + 1) else l.retrains
    enc := if st = .active then l.enc else false
    uncorrAt := if st = .retrain ∨ st = .down then [] else l.uncorrAt }

/-- A lane enters a state (R50): its event, the DOWN backoff, and what its port makes of it. -/
def State.setLane (s : State) (n : Nat) (st : LaneSt) (cause : Nat) : State :=
  let l := s.link.lane n
  if l.st = st then s
  else
    let owner := s.link.laneOwner n
    let before := match owner with | some p => s.link.activeLanes p | none => 0
    let s := (s.laneEvent n l.st st cause).modLane n (Lane.enters s.dt st cause)
    match owner with
    | none => s
    | some p =>
      let after := s.link.activeLanes p
      let s := if before > 0 ∧ after = 0 then s.portDown p else s
      let alive := (s.link.portLanes p).any fun k => (s.link.lane k).st == .active || (s.link.lane k).st == .retrain
      let s := if st = .down ∧ !alive then s.restartPort p else s
      if before = 0 ∧ after > 0 then s.portBack p else s

/-- Lanes that the lifecycle lets train: in RETURN and END the host lanes alone, in BLANK none (R415, R416). -/
def State.laneServed (s : State) (n : Nat) : Bool :=
  match s.rot.lifecycle with
  | .provisioned => true
  | .field => true
  | .blank => false
  | _ => decide (n < 32)

/-- The lane map gives the lane a port; of the peer lanes it enables those it lists (R393). -/
def State.laneMapped (s : State) (n : Nat) : Bool :=
  (s.link.laneOwner n).isSome && (decide (n < 128) || (match s.rot.image with | some i => i.peerLanes.contains n | none => false))

/-- LANE_ENABLED: the lane map enables or disables a lane. -/
def execLaneEnabled (lane : Fin 144) (enable : Bool) (s : State) : Host.Outcome State Fault Refusal :=
  let n := lane.val
  if !s.link.mapRead ∨ (enable ∧ !(s.laneServed n && s.laneMapped n)) ∨ s.dbg.scan then .next s
  else if enable then
    let s := s.modLane n fun l => { l with enabled := true }
    .next (if (s.link.lane n).st = .idle then s.setLane n .detect 1 else s)
  else .next ((s.modLane n fun l => { l with enabled := false }).setLane n .idle 1)

/-- SIGNAL_DETECTED. -/
def execSignalDetected (lane : Fin 144) (s : State) : Host.Outcome State Fault Refusal :=
  .next (if (s.link.lane lane.val).st = .detect then s.setLane lane.val .eq 2 else s)

/-- EQ_COMPLETE. -/
def execEqComplete (lane : Fin 144) (s : State) : Host.Outcome State Fault Refusal :=
  .next (if (s.link.lane lane.val).st = .eq then s.setLane lane.val .lock 3 else s)

/-- The timeout of the state a lane is in: it goes DOWN. -/
def State.laneTimeout (s : State) (n : Nat) (st : LaneSt) (ns cause : Nat) : State :=
  if (s.link.lane n).st = st then (s.advanceTo ((s.link.lane n).since + ns)).setLane n .down cause else s

/-- EQ_TIMEOUT (R50): 20 ms. -/
def execEqTimeout (lane : Fin 144) (s : State) : Host.Outcome State Fault Refusal := .next (s.laneTimeout lane.val .eq (msNs 20) 4)

/-- LOCK_COMPLETE (R37, R38, R52): the head sends its parameters. -/
def execLockComplete (lane : Fin 144) (polarityInverted : Bool) (s : State) : Host.Outcome State Fault Refusal :=
  let n := lane.val
  if (s.link.lane n).st ≠ .lock then .next s
  else
    let s := (s.modLane n fun l => { l with pol := polarityInverted }).setLane n .param 3
    .next (match s.link.laneOwner n with | some p => s.emit (.lctlParam n (advertised p)) | none => s)

/-- LOCK_TIMEOUT: 1 ms. -/
def execLockTimeout (lane : Fin 144) (s : State) : Host.Outcome State Fault Refusal := .next (s.laneTimeout lane.val .lock (msNs 1) 4)

/-- The far end's parameters are acceptable (R45, R50, R482). -/
def State.paramOk (s : State) (p : PortId) (x : LaneParams) : Bool :=
  let enough := (List.range 6).all fun v => decide ((required p).getD v 0 ≤ (x.credits.getD v 0).toNat)
  let same : Bool := match p with | .peer => x.headId == s.glb.headB | _ => false
  enough && x.groupOk && !same && x.encMode == (s.link.port p).gcm

/-- The initial credits of a port that has just restarted (R44). -/
def State.firstCredits (s : State) (p : PortId) (x : LaneParams) : State :=
  if s.portUp p ∨ (s.link.portLanes p).any (fun n => (s.link.lane n).st == .retrain) then s
  else s.modPort p fun q => { q with
    granted := (List.range 6).map fun v => (x.credits.getD v 0).toNat
    rxGranted := advertised p, rxSaid := advertised p }

/-- A trained lane comes into use: a media lane whose position is undeclared or quarantined is held in QUARANTINE (R50). -/
def State.laneUp (s : State) (n : Nat) : State :=
  if 32 ≤ n ∧ n < 128 then
    let pos := s.link.posOf n
    if !s.cfg.moduleDeclared pos then (s.event 0x0B02 pos pos n 0 0).setLane n .quarantine 8
    else if (tgetD s.link.modules pos {}).quarantined then s.setLane n .quarantine 8
    else s.setLane n .active 3
  else s.setLane n .active 3

/-- PARAM_COMPLETE (R45, R50, R482). -/
def execParamComplete (lane : Fin 144) (p : LaneParams) (s : State) : Host.Outcome State Fault Refusal :=
  let n := lane.val
  match s.link.laneOwner n with
  | none => .next s
  | some q =>
    if (s.link.lane n).st ≠ .param then .next s
    else if !s.paramOk q p then .next (s.setLane n .down 10)
    else
      let s := s.firstCredits q p
      .next (if (s.link.port q).gcm then (s.setLane n .secure 3).emit (.lctlSecure q) else s.laneUp n)

/-- PARAM_TIMEOUT: 2 ms. -/
def execParamTimeout (lane : Fin 144) (s : State) : Host.Outcome State Fault Refusal := .next (s.laneTimeout lane.val .param (msNs 2) 4)

/-- SECURE_COMPLETE (R53, R54): keys installed; it also ends a pause for key replacement. -/
def execSecureComplete (lane : Fin 144) (s : State) : Host.Outcome State Fault Refusal :=
  let n := lane.val
  match s.link.laneOwner n with
  | none => .next s
  | some q =>
    let pause : Bool := match (s.link.port q).retrain with | some (5, _) => true | _ => false
    if (s.link.lane n).st = .secure then
      let s := if (s.link.port q).keyed then s else s.modPort q fun x => { x with keyed := true, keyTx := 0, keyRx := 0, tagAt := [] }
      .next ((s.setLane n .active 3).modLane n fun l => { l with enc := true })
    else if (s.link.lane n).st = .active ∧ pause then
      .next ((s.modPort q fun x => { x with keyed := true, keyTx := 0, keyRx := 0, tagAt := [] }).endRetrain q)
    else .next s

/-- SECURE_TIMEOUT: 500 ms, of the state or of a key replacement. -/
def execSecureTimeout (lane : Fin 144) (s : State) : Host.Outcome State Fault Refusal :=
  let n := lane.val
  match s.link.laneOwner n with
  | none => .next s
  | some q =>
    match (s.link.lane n).st, (s.link.port q).retrain with
    | .secure, _ => .next (s.laneTimeout n .secure (msNs 500) 4)
    | .active, some (5, t) =>
      let s := (s.advanceTo (t + msNs 500)).modPort q fun x => { x with retrain := none }
      .next ((s.link.portLanes q).foldl (fun s k => if (s.link.lane k).st = .active then s.setLane k .down 4 else s) s)
    | _, _ => .next s

/-- A trigger of R49: the port's ACTIVE lanes retrain. -/
def State.retrainPort (s : State) (p : PortId) (trigger : Nat) : State :=
  if !s.portUp p then s
  else
    let s := s.modPort p fun q => { q with retrain := some (trigger, s.dt), replayed := 0, tagAt := if trigger = 4 then [] else q.tagAt }
    let s := s.tally (0x100 + portNum p)
    let s := match p with | .media m => s.tally (0x600 + m.val) | _ => s
    (s.link.portLanes p).foldl (fun s n => if (s.link.lane n).st = .active then s.setLane n .retrain 5 else s) s

/-- RETRAIN_COMPLETE (R51): SEQ, credits and replay buffer go on. -/
def execRetrainComplete (lane : Fin 144) (s : State) : Host.Outcome State Fault Refusal :=
  .next (if (s.link.lane lane.val).st = .retrain then s.setLane lane.val .active 3 else s)

/-- RETRAIN_TIMEOUT: 5 ms. -/
def execRetrainTimeout (lane : Fin 144) (s : State) : Host.Outcome State Fault Refusal :=
  .next (s.laneTimeout lane.val .retrain (msNs 5) 6)

/-- DOWN_BACKOFF_EXPIRY: not while the lane's quad PLL is out of lock (R451). -/
def execDownBackoffExpiry (lane : Fin 144) (s : State) : Host.Outcome State Fault Refusal :=
  let l := s.link.lane lane.val
  if l.st ≠ .down then .next s
  else
    let s := s.advanceTo (l.since + l.backoff)
    .next (if s.link.quadDown.any fun q => q.1 == lane.val / 4 then s else s.setLane lane.val .detect 7)

/-- HOST_PORT_LOST (R51): 500 ms without an ACTIVE lane; the port's sessions end. -/
def execHostPortLost (port : Fin 16) (s : State) : Host.Outcome State Fault Refusal :=
  let q := s.link.port (.host port)
  match q.lostAt with
  | none => .next s
  | some t =>
    if q.lostDone ∨ s.portUp (.host port) then .next s
    else
      let s := s.advanceTo (t + msNs 500)
      let mine := s.cqe.sessions.filter fun x => x.2.port == port.val && x.2.closing.isNone
      let n := (s.cqe.cmds.filter fun c => c.port == port.val && c.fromPeer.isNone && c.open_).length
      let s := s.event 0x0903 port.val port.val mine.length n 0
      let s := mine.foldl (fun s x => s.endSession x.1 3) s
      .next (((s.modLink fun l => { l with half := l.half.filter fun h => h.port != port.val }).modPort (.host port)) fun q => { q with lostDone := true })

/-- KEY_REPLACEMENT (R54): 2^32 flits in a direction; traffic pauses for a new exchange, which counts as retraining. -/
def execKeyReplacement (port : PortId) (s : State) : Host.Outcome State Fault Refusal :=
  let q := s.link.port port
  if !q.keyed ∨ q.retrain.isSome ∨ !s.portUp port ∨ (q.keyTx < 2 ^ 32 ∧ q.keyRx < 2 ^ 32) then .next s
  else .next ((s.modPort port fun q => { q with retrain := some (5, s.dt), replayed := 0 }).emit (.lctlSecure port))

/-! ## Violations of the link (R64) -/

/-- A link violation of a port's merged stream or of a lane: the event's parameters by group. -/
def State.linkViolation (s : State) (p : PortId) (lane : Nat) (host peer media : BitVec 16) (word : Nat) : State :=
  match p with
  | .host _ => s.portViolation p host 0xFFFF 0xFFFF word
  | .peer => (s.event peer 0 lane 0 0 word).modPort .peer fun q => q.violate s.dt
  | .media _ => s.portViolation p media 0 0 0

/-- The header word of a flit, bits [31:0] (R40). -/
def flitWord (f : Flit) : Nat :=
  f.typ.toNat + 16 * f.vc.toNat + 2 ^ 7 * bit f.last + 2 ^ 8 * f.seq.toNat + 2 ^ 18 * f.ack.toNat + 2 ^ 28 * bit f.ackv + 2 ^ 29 * f.rsv.toNat

/-- Bytes 0 to 247 of a flit. -/
def flitCovered (f : Flit) : Bytes := leBytes 4 (flitWord f) ++ leBytes 4 f.bind.toNat ++ f.payload

/-- The flit arrived whole (R38, R39, R54). -/
def flitWhole (f : Flit) (keyed : Bool) : Bool :=
  f.fecOk && f.payload.length == 240 && crc64 (flitCovered f) == f.crc && (!keyed || f.typ != 1 || f.tagOk)

/-! ## Acknowledgements and replay (R47, R48) -/

/-- An acknowledgement of a SEQ: everything up to it is delivered; a SEQ that is not outstanding and was not sent last is ignored
and counted. -/
def State.acked (s : State) (p : PortId) (seq : Nat) (word : Nat) : State :=
  let q := s.link.port p
  if q.unacked.any fun u => u.1 == seq then
    s.modPort p fun q => { q with unacked := (q.unacked.dropWhile fun u => u.1 != seq).drop 1, ackAt := s.dt, replays := 0 }
  else if (seq + 1) % 1024 = q.unacked.head?.elim q.txSeq (·.1) then s
  else s.linkViolation p 0xFFFF 0x0906 0x0A06 0x0B09 word

/-- Go back to a SEQ and send again from it. -/
def State.replayFrom (s : State) (p : PortId) (seq : Nat) : State :=
  let q := s.link.port p
  let n := (q.unacked.dropWhile fun u => u.1 != seq).length
  if n = 0 then s
  else ((s.emit (.replay p seq n)).modPort p fun q => { q with replays := q.replays + 1, replayed := q.replayed + n, ackAt := s.dt }).tally (0x300 + portNum p)

/-- NAK_RECEIVED (R47): the expected SEQ acknowledges those before it. -/
def execNakReceived (port : PortId) (seq : BitVec 10) (s : State) : Host.Outcome State Fault Refusal :=
  let q := s.link.port port
  let n := seq.toNat
  if !q.unacked.any (fun u => u.1 == n) then
    .next (if n = q.txSeq then s.modPort port fun q => { q with unacked := [], ackAt := s.dt, replays := 0 }
      else s.linkViolation port 0xFFFF 0x0906 0x0A06 0x0B09 0)
  else
    let fresh := decide (q.unacked.head?.elim n (·.1) ≠ n)
    let s := s.modPort port fun q => { q with unacked := q.unacked.dropWhile fun u => u.1 != n, replays := if fresh then 0 else q.replays }
    .next ((s.replayFrom port n).pump port)

/-- REPLAY_TIMEOUT (R48): acknowledgements have stood still for 2 us. -/
def execReplayTimeout (port : PortId) (s : State) : Host.Outcome State Fault Refusal :=
  let q := s.link.port port
  match q.unacked with
  | [] => .next s
  | u :: _ =>
    if !s.portUp port then .next s
    else .next ((s.advanceTo (q.ackAt + usNs 2)).replayFrom port u.1)

/-- REPLAY_LIMIT (R49 trigger 1). -/
def execReplayLimit (port : PortId) (s : State) : Host.Outcome State Fault Refusal :=
  .next (if (s.link.port port).replays ≥ 8 then s.retrainPort port 1 else s)

/-- UNCORRECTABLE_CODEWORD_LIMIT (R49 trigger 2): 16 within 1 ms. -/
def execUncorrectableCodewordLimit (lane : Fin 144) (s : State) : Host.Outcome State Fault Refusal :=
  let l := s.link.lane lane.val
  let recent := l.uncorrAt.filter fun t => decide (t + msNs 1 > s.dt)
  match s.link.laneOwner lane.val with
  | some p => .next (if recent.length ≥ 16 then s.retrainPort p 2 else s)
  | none => .next s

/-- LOCK_LOSS_TIMEOUT (R49 trigger 3). -/
def execLockLossTimeout (lane : Fin 144) (s : State) : Host.Outcome State Fault Refusal :=
  match s.link.laneOwner lane.val with
  | some p => .next (if (s.link.lane lane.val).st = .active then s.retrainPort p 3 else s)
  | none => .next s

/-- TAG_FAILURE_LIMIT (R49 trigger 4): 8 within 1 s. -/
def execTagFailureLimit (port : PortId) (s : State) : Host.Outcome State Fault Refusal :=
  let q := s.link.port port
  .next (if q.keyed ∧ (q.tagAt.filter fun t => decide (t + secNs 1 > s.dt)).length ≥ 8 then s.retrainPort port 4 else s)

/-! ## Credits (R44, R46) -/

/-- Send the six cumulative counts. -/
def State.sayCredits (s : State) (p : PortId) : State :=
  let q := s.link.port p
  (s.emit (.lctlCredits p q.rxGranted)).modPort p fun q => { q with rxSaid := q.rxGranted, creditAt := s.dt }

/-- CREDIT_ADVERTISE_TIMER: every 1 us on an ACTIVE port. -/
def execCreditAdvertiseTimer (port : PortId) (s : State) : Host.Outcome State Fault Refusal :=
  if !s.portUp port then .next s
  else .next ((s.advanceTo ((s.link.port port).creditAt + usNs 1)).sayCredits port)

/-- Send an acknowledgement of the last SEQ in order. -/
def State.sayAck (s : State) (p : PortId) : State :=
  (s.emit (.lctlAck p (((s.link.port p).rxSeq + 1023) % 1024))).modPort p fun q => { q with sinceAck := 0, ackDue := none }

/-- ACK_TIMER (R47): 200 ns since the oldest unacknowledged accepted flit. -/
def execAckTimer (port : PortId) (s : State) : Host.Outcome State Fault Refusal :=
  match (s.link.port port).ackDue with
  | none => .next s
  | some t => .next ((s.advanceTo (t + 200)).sayAck port)

/-- Credit has come: time that commands of the port spent without it is excluded time (R46). -/
def State.endBlocked (s : State) (p : PortId) : State :=
  match p with
  | .host h =>
    s.modCqe fun c => { c with cmds := c.cmds.map fun x =>
      match x.blockedAt with
      | some t => if x.port == h.val && x.fromPeer.isNone && !s.dataWaits x && (x.decided.isNone || s.room p 2 != 0) then
          { x with excl := x.excl + (s.dt - t), blockedAt := none } else x
      | none => x }
  | _ => s

/-- LCTL_FLIT_RECEIVED (R41, R44): cumulative credits, an acknowledgement; a flit with a bad CRC-64 is discarded. -/
def execLctlFlitReceived (port : PortId) (f : Lctl) (s : State) : Host.Outcome State Fault Refusal :=
  if !f.ok ∨ !s.portUp port then .next s
  else
    let s := match f.ack with | some a => s.acked port a.toNat 0 | none => s
    let s := if f.credits.length = 6 then s.modPort port fun q => { q with granted := f.credits.map (·.toNat) } else s
    .next (((s.pump port).endBlocked port).actSwrst)

/-! ## MSG flits (R38 to R40, R47) -/

/-- Send a NAK for the expected SEQ and discard what follows. -/
def State.sayNak (s : State) (p : PortId) : State :=
  (s.emit (.lctlNak p (s.link.port p).rxSeq)).modPort p fun q => { q with naked := true }

/-- A discarded flit of a lane (R39, R49, R54): counted; the receiver NAKs unless it waits for a SEQ already. -/
def State.badFlit (s : State) (p : PortId) (lane : Nat) (f : Flit) : State :=
  let s := if f.fecOk then s
    else (s.modLane lane fun l => { l with uncorr := sat 8 (l.uncorr + 1), uncorrAt := s.dt :: l.uncorrAt.take 31 }).tally (0x200 + lane)
  let s := if f.fecOk ∧ !f.tagOk ∧ (s.link.port p).keyed ∧ crc64 (flitCovered f) = f.crc then s.modPort p fun q => { q with tagAt := s.dt :: q.tagAt.take 15 } else s
  if (s.link.port p).naked then s else s.sayNak p

/-- Reserved parts of a VC0 container on a host port (R42): queue pair words' bits [15:14], bytes 198, 199 and 200 to P - 1. -/
def vc0Bad (b : Bytes) (count cap : Nat) (bind : Nat) : Bool :=
  count == 0 || bind / 4 != 0 ||
  (List.range 3).any (fun i =>
    let w := leNat ((b.drop (192 + 2 * i)).take 2)
    decide (w ≥ 2 ^ 14) || (decide (i ≥ count) && w != 0)) ||
  ((b.take cap).drop 198).any (· != 0)

/-- A VC0 flit that its container check refuses (R64): MALFORMED for the queue pairs it names, and a violation. -/
def State.refuseContainer (s : State) (h : Fin 16) (f : Flit) : State :=
  let count := f.bind.toNat % 4
  let named := (List.range (min 3 count)).filterMap fun i =>
    let qp := leNat ((f.payload.drop (192 + 2 * i)).take 2) % 2 ^ 14
    match tget s.cqe.qps qp with
    | some q => if q.port = h.val then some (qp, leNat ((f.payload.drop (64 * i + 2)).take 2), q.sess) else none
    | none => none
  let s := match named with
    | [] => s.portViolation (.host h) 0x0907 0xFFFF 0xFFFF (flitWord f)
    | n :: _ => (s.event 0x0907 h.val h.val n.1 n.2.2 (flitWord f)).modSession n.2.2 fun x => x.violate s.dt 0x0907
  s.modCqe fun c => { c with ready := c.ready ++ named.map fun n =>
    (h.val, { cid := BitVec.ofNat 16 n.2.1, qp := BitVec.ofNat 14 n.1, status := BitVec.ofNat 16 stMalformed, cflags := 1, exclUs := 0, retryUs := 0,
              cs0 := 0, cs1 := 0, cs2 := 0, cepoch := 0 }) }

/-- A MSG flit in order, with credit: taken, its buffer freed at once (R44, R47). -/
def State.acceptFlit (s : State) (p : PortId) (f : Flit) : State :=
  let vc := f.vc.toNat
  let s := s.modPort p fun q => { q with
    rxSeq := (q.rxSeq + 1) % 1024, naked := false, sinceAck := q.sinceAck + 1, ackDue := q.ackDue.orElse fun _ => some s.dt
    rxTaken := lmod q.rxTaken vc fun n => (n + 1) % 65536
    rxGranted := lmod q.rxGranted vc fun n => (n + 1) % 65536
    keyRx := q.keyRx + 1 }
  let s := if (s.link.port p).sinceAck ≥ 16 then s.sayAck p else s
  let q := s.link.port p
  let s := if (List.range 6).any fun v => decide ((q.rxGranted.getD v 0 + 65536 - q.rxSaid.getD v 0) % 65536 ≥ 32) then s.sayCredits p else s
  match p with
  | .host h =>
    if vc = 0 ∧ vc0Bad f.payload (f.bind.toNat % 4) (s.link.payload p) f.bind.toNat then s.refuseContainer h f else s
  | _ => s

/-- MSG_FLIT_RECEIVED: link-level handling of a flit on a lane of a port (R38 to R40, R44, R47, R54, R64). What the flit carries
arrives as the command of its message (log entry 12). -/
def execMsgFlitReceived (port : PortId) (lane : Fin 144) (f : Flit) (s : State) : Host.Outcome State Fault Refusal :=
  let n := lane.val
  if (s.link.lane n).st ≠ .active ∨ s.link.laneOwner n ≠ some port then .next s
  else
    let q := s.link.port port
    let vc := f.vc.toNat
    if !flitWhole f q.keyed then .next (s.badFlit port n f)
    else if f.typ.toNat > 2 ∨ vc > 5 ∨ f.rsv ≠ 0 ∨ (f.typ ≠ 1 ∧ (vc ≠ 0 ∨ f.seq ≠ 0)) then
      .next (s.linkViolation port n 0x0905 0x0A05 0x0B05 (flitWord f))
    else if f.typ = 1 ∧ !carries port vc then .next (s.linkViolation port n 0x0905 0x0A05 0x0B05 (flitWord f))
    else
      let s := if f.ackv then (s.acked port f.ack.toNat (flitWord f)).pump port else s
      if f.typ ≠ 1 then .next s
      else
        let seq := f.seq.toNat
        let behind := (q.rxSeq + 1024 - seq) % 1024
        if seq ≠ q.rxSeq then
          .next (if 0 < behind ∧ behind ≤ 511 then s.sayAck port else if q.naked then s else s.sayNak port)
        else if q.rxGranted.getD vc 0 = q.rxTaken.getD vc 0 then .next (s.linkViolation port 0xFFFF 0x0904 0x0A04 0x0B04 (flitWord f))
        else .next (s.acceptFlit port f)

end Sys2Proof.Machine
end

