-- ==== Sys2Proof/Machine/Sessions.lean ====
section
/-! DEFINITION. Chapters 02 and 03: the session handshake (R55, R56), sessions (R69 to R71), queue pairs (R72 to R76), notices
(R97), violations and quarantine (R65, R99). -/

namespace Sys2Proof.Machine

open Sys2Proof

/-! ## Handshake (R55, R56) -/

/-- Usage mask of a trust anchor: the image's anchors 0 to 15, the declared ones from 16 on. -/
def State.anchorUsage (s : State) (a : Nat) : Option (BitVec 8) :=
  match s.rot.image.bind fun i => i.anchors.find? fun x => x.1 == a with
  | some x => some x.2
  | none => match s.cfg.find 3 a with | some (.anchor u _) => some u | _ => none

/-- A half-open session. -/
def Link.halfOf (l : Link) (port reqId : Nat) : Option HalfOpen := l.half.find? fun h => h.port == port && h.reqId == reqId

def Link.dropHalf (l : Link) (port reqId : Nat) : Link := { l with half := l.half.filter fun h => !(h.port == port && h.reqId == reqId) }

/-- HELLO (R55): a half-open session; a malformed step discards it (R64). -/
def execHello (port : Fin 16) (reqId : BitVec 64) (h : Hello) (s : State) : Host.Outcome State Fault Refusal :=
  let id := reqId.toNat
  let priv := h.privilege.toNat
  if !s.portUp (.host port) then .next s
  else if !h.wellFormed ∨ priv = 0 ∨ priv > 3 ∨ (s.link.halfOf port.val id).isSome then
    .next ((s.modLink fun l => l.dropHalf port.val id).hostViolation port 0x090A 0xFFFF 0xFFFF)
  else
    let x : HalfOpen := { port := port.val, reqId := id, startedAt := s.dt, lastAt := s.dt, privilege := priv }
    .next ((s.modLink fun l => { l with half := l.half ++ [x] }).transmit (.host port) 3 (.helloAck port.val id))

/-- The privilege granted for a request, with the anchor that authorises it; the device CA, which is no anchor, authorises
Vendor alone (R56). -/
def State.grantFor (s : State) (f : Finish) (want : Nat) : Option (Nat × Nat) :=
  let by_ (p : Nat) : Option Nat := if p = 3 then (if f.vendorCa then some 255 else none)
    else (f.anchors.map (·.val)).find? fun a => match s.anchorUsage a with | some u => u.getLsbD (p - 1) | none => false
  ([3, 2, 1].filter fun p => decide (p ≤ want)).findSome? fun p => (by_ p).map fun a => (p, a)

/-- The lowest session identifier that is free. -/
def Cqe.freeSession (c : Cqe) : Option Nat := (List.range 4096).find? fun n => (tget c.sessions n).isNone

/-- The result of a FINISH, judged in the order of R56: 0 with the session's privilege and anchor, or the lowest that applies. -/
def State.judgeFinish (s : State) (f : Finish) (want : Nat) : Nat × Option (Nat × Nat) :=
  if !f.sigOk then (1, none)
  else if !f.vendorCa ∧ !(f.anchors.any fun a => (s.anchorUsage a.val).isSome) then (2, none)
  else match s.grantFor f want with
    | none => (3, none)
    | some g => if s.cqe.freeSession.isNone then (4, none) else (0, some g)

/-- FINISH (R55, R56): SESSION_OPEN with its result. -/
def execFinish (port : Fin 16) (reqId : BitVec 64) (f : Finish) (s : State) : Host.Outcome State Fault Refusal :=
  let id := reqId.toNat
  match s.link.halfOf port.val id with
  | none => .next (s.hostViolation port 0x090A 0xFFFF 0xFFFF)
  | some h =>
    let s := s.modLink fun l => l.dropHalf port.val id
    if !f.wellFormed then .next (s.hostViolation port 0x090A 0xFFFF 0xFFFF)
    else match s.judgeFinish f h.privilege, s.cqe.freeSession with
      | (0, some (priv, anchor)), some n =>
        let x : Session := { port := port.val, privilege := priv, anchor := anchor, lastAt := s.dt }
        let s := s.modCqe fun c => { c with sessions := tput c.sessions n x }
        .next ((s.event 0x090B n n port.val priv anchor).transmit (.host port) 3 (.sessionOpen port.val id 0 n priv))
      | (r, _), _ =>
        .next ((s.event 0x090C port.val port.val r 0 0).transmit (.host port) 3 (.sessionOpen port.val id r 0 0))

/-- HANDSHAKE_TIMEOUT (R55): 100 ms since the last step, 500 ms in all. -/
def execHandshakeTimeout (port : Fin 16) (reqId : BitVec 64) (s : State) : Host.Outcome State Fault Refusal :=
  match s.link.halfOf port.val reqId.toNat with
  | none => .next s
  | some h =>
    let s := s.advanceTo (min (h.lastAt + msNs 100) (h.startedAt + msNs 500))
    .next ((s.modLink fun l => l.dropHalf port.val reqId.toNat).hostViolation port 0x090A 0xFFFF 0xFFFF)

/-! ## Sessions (R69, R70) -/

/-- SESSION_CLOSE: the answer follows the last command. -/
def execSessionClose (m : Vc3) (s : State) : Host.Outcome State Fault Refusal :=
  .next (s.vc3 m 0x10 true true 1 fun _ s =>
    ((s.holdAnswer m).modSession m.sess.toNat fun x => { x with closeReq := some m.reqId.toNat }).endSession m.sess.toNat 1)

/-- KEEPALIVE: no answer. -/
def execKeepalive (m : Vc3) (s : State) : Host.Outcome State Fault Refusal :=
  .next (s.vc3 m 0x12 true true 1 fun _ s => s)

/-- KEEPALIVE_SILENCE: 3 s without a VC3 message. -/
def execKeepaliveSilence (sess : Fin 4096) (s : State) : Host.Outcome State Fault Refusal :=
  match tget s.cqe.sessions sess.val with
  | none => .next s
  | some x => .next (if x.closing.isSome then s else (s.advanceTo (x.lastAt + secNs 3)).endSession sess.val 2)

/-! ## Queue pairs (R72 to R76) -/

def Cqe.depthSum (c : Cqe) : Nat := lsum (c.qps.map fun q => q.2.depth)

/-- The outcome of QP_CREATE in the order of R73. -/
def State.qpCreateStatus (s : State) (x : Session) (sess cls depthLog2 : Nat) : Nat :=
  match s.dsc.classes[cls]? with
  | none => stInvalidField
  | some r =>
    if !r.anchors.getLsbD x.anchor then stAccess
    else if depthLog2 < 3 ∨ depthLog2 > 12 then stInvalidField
    else if s.cqe.qps.length ≥ 16384 ∨ (s.cqe.qps.filter fun q => q.2.sess == sess).length ≥ 1024 ∨
        s.cqe.depthSum + 2 ^ depthLog2 > 131072 then stResourceLimit
    else stSuccess

/-- The lowest queue pair number that is free. -/
def Cqe.freeQp (c : Cqe) : Nat := ((List.range (c.qps.length + 1)).find? fun n => (tget c.qps n).isNone).getD 0

/-- QP_CREATE (R73): event 0x0C02. -/
def execQpCreate (m : Vc3) (cls depthLog2 : Byte) (s : State) : Host.Outcome State Fault Refusal :=
  .next (s.vc3 m 0x20 false true 2 fun x s =>
    let n := m.sess.toNat
    let st := s.qpCreateStatus x n cls.toNat depthLog2.toNat
    if st ≠ stSuccess then s.answer m 0x20 st (leBytes 4 0)
    else
      let q := s.cqe.freeQp
      let d := 2 ^ depthLog2.toNat
      let e : Qp := { sess := n, port := m.port.val, cls := cls.toNat, depth := d }
      let s := s.modCqe fun c => { c with qps := tput c.qps q e }
      (s.event 0x0C02 n n q cls.toNat d).answer m 0x20 stSuccess (leBytes 2 q ++ leBytes 2 0))

/-- Every outstanding command of a queue pair is the target of an ABORT (R76, R95). -/
def State.abortQp (s : State) (qp : Nat) : State :=
  let mine := s.cqe.cmds.filter fun c => c.qp == qp && c.open_ && c.opc != opAbort
  let s := s.modCqe fun c => { c with qps := tmod c.qps qp fun q => { q with aborted := q.aborted + mine.length } }
  mine.foldl (fun s c => s.endEarly c stAbortedRequest) s

/-- QP_DELETE (R76). -/
def State.qpDelete (s : State) (m : Vc3) (qp mode : Nat) : State :=
  s.vc3 m 0x21 false true 2 fun _ s =>
    match tget s.cqe.qps qp with
    | none => s.answer m 0x21 stInvalidField []
    | some q =>
      if q.sess ≠ m.sess.toNat ∨ mode > 1 then s.answer m 0x21 stInvalidField []
      else
        let now : Nat := match q.deleting with | some d => max d mode | none => mode
        let begins := decide (mode = 1) && q.deleting != some 1
        let s := (s.holdAnswer m).modCqe fun c => { c with qps := tput c.qps qp { q with deleting := some now, delReqs := m.reqId.toNat :: q.delReqs } }
        if begins then s.abortQp qp else s

/-- QP_DELETE with MODE 0. -/
def execQpDeleteDrain (m : Vc3) (qp : BitVec 16) (s : State) : Host.Outcome State Fault Refusal := .next (s.qpDelete m qp.toNat 0)

/-- QP_DELETE with another MODE. -/
def execQpDeleteAbort (m : Vc3) (qp : BitVec 16) (mode : Byte) (s : State) : Host.Outcome State Fault Refusal :=
  .next (s.qpDelete m qp.toNat mode.toNat)

/-- QP_DELETE_DONE: no command is outstanding; the number and the depth are free. -/
def execQpDeleteDone (qp : BitVec 14) (s : State) : Host.Outcome State Fault Refusal :=
  let n := qp.toNat
  match tget s.cqe.qps n with
  | none => .next s
  | some q =>
    match q.deleting with
    | some d =>
      if d = 2 ∨ s.cqe.cmds.any (fun c => c.qp == n) then .next s
      else
        let s := s.event 0x0C03 q.sess q.sess n d q.aborted
        let s := q.delReqs.reverse.foldl (fun s r => s.answerTo q.port q.sess r 0x21 stSuccess []) s
        .next (s.modCqe fun c => { c with qps := tdel c.qps n })
    | none => .next s

/-! ## Notices (R97) -/

/-- NOTICE_MASK. -/
def execNoticeMask (m : Vc3) (mask : BitVec 64) (s : State) : Host.Outcome State Fault Refusal :=
  .next (s.vc3 m 0x41 false true 1 fun _ s => (s.modSession m.sess.toNat fun x => { x with mask := mask }).answer m 0x41 stSuccess [])

/-- NOTICES_LOST is generated ahead of the queue once drops have occurred: event 0x0C06. -/
def State.noticesLost (s : State) (n : Nat) (x : Session) : State :=
  if x.dropped = 0 then s
  else
    let lost : Notice := ⟨0, x.nseq, s.dt, s.cfg.epoch, leBytes 4 x.dropped ++ leBytes 4 x.firstDropped⟩
    (s.event 0x0C06 n n x.dropped x.firstDropped 0).modSession n fun x =>
      { x with nseq := x.nseq + 1, notices := lost :: x.notices, dropped := 0, firstDropped := 0 }

/-- Send queued notices while credit and room allow. -/
def State.sendNotices (s : State) (n : Nat) : Nat → State
  | 0 => s
  | k + 1 =>
    match tget s.cqe.sessions n with
    | none => s
    | some x => match x.notices with
      | [] => s
      | t :: rest =>
        let p := hostPort x.port
        let item : Sent := .notice x.port n t.ntype t.nseq t.stamp t.epoch t.body
        if s.room p 3 < flitsOf (s.link.payload p) item then s
        else (((s.modSession n fun x => { x with notices := rest }).transmit p 3 item)).sendNotices n k

/-- NOTICE_TRANSMIT. -/
def execNoticeTransmit (sess : Fin 4096) (s : State) : Host.Outcome State Fault Refusal :=
  match tget s.cqe.sessions sess.val with
  | none => .next s
  | some x =>
    if x.closing.isSome ∨ s.room (hostPort x.port) 3 = 0 then .next s
    else .next ((s.noticesLost sess.val x).sendNotices sess.val 257)

/-! ## Quarantine (R65, R71, R99) -/

/-- The QUARANTINE notice. -/
def State.quarantineNotice (s : State) (kind action target : Nat) : State :=
  s.notifyAll 2 (leBytes 1 kind ++ leBytes 1 action ++ leBytes 2 target ++ leBytes 4 0)

/-- A session enters quarantine: event 0x0C04. -/
def State.quarantineSession (s : State) (n : Nat) : State :=
  match tget s.cqe.sessions n with
  | none => s
  | some x =>
    if x.quarantined ∨ x.closing.isSome then s
    else
      let count := if x.violWin = secOf s.dt then x.violCount else 0
      (((s.event 0x0C04 n n x.port count x.lastViol).modSession n fun x => { x with quarantined := true, quarAt := s.dt })).quarantineNotice 1 1 n

/-- A session leaves quarantine and its window restarts empty: event 0x0C05. -/
def State.liftSession (s : State) (n lifter : Nat) : State :=
  match tget s.cqe.sessions n with
  | none => s
  | some x =>
    if !x.quarantined then s
    else ((s.event 0x0C05 n n lifter 0 0).modSession n fun x => { x with quarantined := false, violCount := 0, warned := false }).quarantineNotice 1 0 n

def State.setModuleQuarantine (s : State) (pos : Nat) (on : Bool) : State :=
  s.modLink fun l => { l with modules := tput l.modules pos { (tgetD l.modules pos {}) with quarantined := on } }

/-- A module link enters quarantine: event 0x0B03, its lane QUARANTINE, its module an unavailable member (R65). -/
def State.quarantineModule (s : State) (pos : Nat) : State :=
  if (tgetD s.link.modules pos {}).quarantined then s
  else
    let q := s.link.port (mediaPort pos)
    let count := if q.violWin = secOf s.dt then q.violCount else 0
    let s := ((s.event 0x0B03 pos pos 1 count 0).setModuleQuarantine pos true).memberLeaves pos
    let s := (s.link.portLanes (mediaPort pos)).foldl (fun s n => if (s.link.lane n).st = .active then s.setLane n .quarantine 8 else s) s
    s.quarantineNotice 2 1 pos

/-- A module position leaves quarantine; its lane is ACTIVE again when its position is declared. -/
def State.liftModule (s : State) (pos : Nat) : State :=
  if !(tgetD s.link.modules pos {}).quarantined then s
  else
    let q := s.link.port (mediaPort pos)
    let count := if q.violWin = secOf s.dt then q.violCount else 0
    let s := (s.event 0x0B03 pos pos 0 count 0).setModuleQuarantine pos false
    let s := if s.cfg.moduleDeclared pos then
        (s.link.portLanes (mediaPort pos)).foldl (fun s n => if (s.link.lane n).st = .quarantine then s.setLane n .active 8 else s) s
      else s
    (s.memberReturns pos).quarantineNotice 2 0 pos

/-- QUARANTINE_SET (R71). -/
def State.quarantineReq (s : State) (m : Vc3) (kind action target : Nat) : State :=
  s.vc3 m 0x50 false true 2 fun _ s =>
    let good := (kind == 1 && s.sessionOpen target) || (kind == 2 && decide (target ≤ 95))
    if !good ∨ action > 1 then s.answer m 0x50 stInvalidField []
    else
      let s := match kind, action with
        | 1, 1 => s.quarantineSession target
        | 1, _ => if target = m.sess.toNat then s else s.liftSession target m.sess.toNat
        | _, 1 => s.quarantineModule target
        | _, _ => s.liftModule target
      s.answer m 0x50 stSuccess []

/-- QUARANTINE_SET that places; another action value than 0 or 1 is refused. -/
def execQuarantineSet (m : Vc3) (kind action : Byte) (target : BitVec 16) (s : State) : Host.Outcome State Fault Refusal :=
  .next (s.quarantineReq m kind.toNat action.toNat target.toNat)

/-- QUARANTINE_SET that lifts. -/
def execQuarantineLift (m : Vc3) (kind : Byte) (target : BitVec 16) (s : State) : Host.Outcome State Fault Refusal :=
  .next (s.quarantineReq m kind.toNat 0 target.toNat)

/-- VC3_UNKNOWN_TYPE: INVALID_OPCODE at step 5 of R499. -/
def execVc3UnknownType (m : Vc3) (typ : BitVec 16) (s : State) : Host.Outcome State Fault Refusal :=
  .next (s.vc3 m typ.toNat false false 0 fun _ s => s)

/-- SESSION_QUARANTINED: the 65th violation of a window. -/
def execSessionQuarantined (sess : Fin 4096) (s : State) : Host.Outcome State Fault Refusal :=
  match tget s.cqe.sessions sess.val with
  | none => .next s
  | some x => .next (if x.violCount > 64 then s.quarantineSession sess.val else s)

/-- VIOLATION_WARNING: the count of the window first exceeds 32. -/
def execViolationWarning (sess : Fin 4096) (s : State) : Host.Outcome State Fault Refusal :=
  match tget s.cqe.sessions sess.val with
  | none => .next s
  | some x =>
    if x.violCount ≤ 32 ∨ x.warned then .next s
    else .next (s.modSession sess.val fun x => { (x.notify s.dt s.cfg.epoch 1 (leBytes 4 x.violCount)) with warned := true })

/-- QUARANTINE_TIMEOUT: 60 s. -/
def execQuarantineTimeout (sess : Fin 4096) (s : State) : Host.Outcome State Fault Refusal :=
  match tget s.cqe.sessions sess.val with
  | none => .next s
  | some x => .next (if !x.quarantined ∨ x.closing.isSome then s else (s.advanceTo (x.quarAt + secNs 60)).endSession sess.val 4)

/-- PORT_VIOLATION_LIMIT (R65): more than 256 unattributed violations; every lane of the port goes DOWN for 1 s. -/
def execPortViolationLimit (port : Fin 16) (s : State) : Host.Outcome State Fault Refusal :=
  if (s.link.port (.host port)).violCount ≤ 256 then .next s
  else
    let s := s.modPort (.host port) fun q => { q with violCount := 0 }
    .next ((s.link.portLanes (.host port)).foldl (fun s n => if (s.link.lane n).st = .idle then s else s.setLane n .down 9) s)

/-- MODULE_LINK_QUARANTINE (R65): more than 64 violations in a window. -/
def execModuleLinkQuarantine (pos : Fin 96) (s : State) : Host.Outcome State Fault Refusal :=
  .next (if (s.link.port (mediaPort pos.val)).violCount > 64 then s.quarantineModule pos.val else s)

end Sys2Proof.Machine
end

