-- ==== Sys2Proof/Machine/Commands.lean ====
section
/-! DEFINITION. Chapter 03: the checks of a command (R77, R78, R94), forwarding (R22, R502), ABORT and FLUSH (R84, R95), and the
data flits (R88 to R91). -/

namespace Sys2Proof.Machine

open Sys2Proof

/-! ## Checks 6 to 11 of R94 -/

/-- Opcodes with a range of sectors. -/
def ranged (opc : Nat) : Bool := decide (1 ≤ opc ∧ opc ≤ 7) && opc != opFlush

/-- Opcodes that write. -/
def writing (opc : Nat) : Bool := opc == opWrite || opc == opZero || opc == opCaw

/-- Check 7: reserved fields are zero and NSECT is in range (R77, R82). -/
def fieldsOk (opc : Nat) (e : CmdEntry) : Bool :=
  let zeros (n : Nat) : Bool := (e.cdw.drop n).all (· == 0)
  e.flags == 0 && e.rsv == 0 && decide (e.vol.toNat < 65536) &&
  if opc = opAbort then
    e.vol == 0 && e.lba == 0 && e.nsect == 0 && decide ((e.cdw.getD 0 0).toNat < 16384) && decide ((e.cdw.getD 1 0).toNat < 65536) && zeros 2
  else if opc = opFlush then e.lba == 0 && e.nsect == 0 && zeros 0
  else zeros 0 && decide (1 ≤ e.nsect.toNat ∧ e.nsect.toNat ≤ 256) && (opc != opCaw || e.nsect == 1)

/-- Size of a volume in sectors (R303, R403). -/
def volSectors (v : VolumeRec) : Nat := if v.kind = 4 ∨ v.kind = 5 then 2 ^ 45 else v.sectors

/-- No volume is ready after PM_SET 2 or PM_SET 3 (R428). -/
def State.quiesced (s : State) : Bool :=
  s.pmu.pstate == .p2 || s.pmu.pstate == .p3 || (match s.pmu.trans with | some t => decide (2 ≤ t.target) | none => false)

/-- Check 9: the volume is declared and ready; a view needs its snapshot READY (R292); a FAILED job's target is not read
(R304). -/
def State.volReady (s : State) (v opc : Nat) : Bool :=
  !s.quiesced && tget s.cfg.volumes v == some .ready &&
  (match s.cfg.volume v with
   | none => false
   | some r => r.kind != 2 || (match s.snap.find r.source r.snap with | some x => x.st == .ready | none => false)) &&
  !(!writing opc && opc != opFlush && s.snap.jobs.any fun j => j.2.role == 2 && j.2.vol == v && j.2.st == .failed)

/-- Check 11: writes are accepted: no view, no target of a declared replication job (R297, R304). -/
def State.volWrites (s : State) (v : Nat) (r : VolumeRec) : Bool :=
  r.kind != 2 && !s.snap.jobs.any fun j => j.2.role == 2 && j.2.vol == v

/-- Checks 8 to 11 of R94: the status of the first that fails. `granted`: check 8. A portal takes only class 7 and the command of
its region (R303). -/
def State.volStatus (s : State) (opc vol lba nsect cls : Nat) (granted : Bool) : Option Nat :=
  match s.cfg.volume vol with
  | none => some (if granted then stVolumeNotReady else stAccess)
  | some r =>
    if !granted then some stAccess
    else if !s.volReady vol opc then some stVolumeNotReady
    else if opc = opFlush then none
    else if lba + nsect > volSectors r then some stLbaRange
    else if (r.kind = 4 ∨ r.kind = 5) ∧ (cls ≠ 7 ∨ !portalKindOk r.kind opc lba) then some stInvalidField
    else if writing opc ∧ !s.volWrites vol r then some stWriteProtected
    else none

/-- Who owns a lease group (R94 check 12): 1 this head, 2 the peer, 0 neither or in handover. -/
def State.groupOwner (s : State) (g : Nat) : Nat :=
  if s.ownsGroup g then 1
  else match tget s.ha.leases g with
    | some l => if l.view = 0 ∧ l.holder = 3 - s.me ∧ !s.ha.peerFailed then 2 else 0
    | none => 0

/-! ## Deciding -/

/-- A command that its owning head has checked goes to its portal or to DSC, and starts when it is admitted. -/
def State.decideCmd (s : State) (c : Cmd) : State :=
  let portal : Bool := match s.cfg.volume c.vol with | some r => r.kind == 4 || r.kind == 5 | none => false
  if portal then s.startPortal c
  else match s.judge c with
    | (.admitted c, s) =>
      let s := s.startCmd c
      if c.opc = opWrite ∧ c.complete then
        match s.cqe.cmd c.qp c.cid with
        | some c => s.launchWrite c (c.sectors c.carries)
        | none => s
      else s
    | (_, s) => s

/-- A command reaches the DSC of its owning head (R104, R122). -/
def State.toDsc (s : State) (c : Cmd) : State :=
  match s.intake with
  | (true, s) => s.refuseCmd c 6 20
  | (false, s) => s.decideCmd c

/-- Forward a command to its owning head (R22, R502); without an ACTIVE peer lane it is refused here (R123). -/
def State.forward (s : State) (c : Cmd) (e : CmdEntry) : State :=
  if !s.portUp .peer then s.refuseCmd c 4 2560
  else
    let s := s.modCmd c.qp c.cid fun x => { x with fwdAt := some s.dt }
    s.transmit .peer 0 (.fwdCommand c.qp c.opc e 0 (s.link.activeLanes (hostPort c.port)) (s.link.port (hostPort c.port)).keyed)

/-- A command entry as the command it spells. -/
def cmdOf (qp port sess cls opc dt : Nat) (e : CmdEntry) : Cmd :=
  { qp := qp, cid := e.cid.toNat, port := port, sess := sess, opc := opc, vol := e.vol.toNat, lba := e.lba.toNat,
    nsect := e.nsect.toNat, cls := cls, start := dt }

/-- A command that fails a check at the receiving head: its completion is ready; its CID drains unless another outstanding
command holds it, in which case DUP is set (R78, R89). -/
def State.rejectHost (s : State) (c : Cmd) (status retry : Nat) (held : Bool) : State :=
  let k := c.completion status retry 0 0 0
  let k := if held then { k with cflags := k.cflags ||| cfDup } else k
  let s := if held then s else s.drainCid c.qp c.cid
  if !s.sends c then s
  else
    let p := hostPort c.port
    let blocked := if s.room p 2 = 0 ∧ s.portUp p ∧ (s.link.port p).retrain.isNone then some s.dt else none
    s.modCqe fun q => { q with cmds := q.cmds ++ [{ c with decided := some k, blockedAt := blocked }], ready := q.ready ++ [(c.port, k)] }

/-- Commands in a queue pair's ring (R75). -/
def Cqe.outstanding (q : Cqe) (qp : Nat) : Nat :=
  (q.cmds.filter fun c => c.qp == qp && !(match c.decided with | some k => k.status.toNat == stRingOverrun | none => false)).length

/-- ABORT (R95): it may name only a queue pair of its own session; the target's fate is decided at its owning head. -/
def State.startAbort (s : State) (a : Cmd) (tq tcid : Nat) : State :=
  let mine : Bool := match tget s.cqe.qps tq with | some t => t.sess == a.sess | none => false
  match (if mine then s.cqe.cmd tq tcid else none) with
  | none => s.finish a (a.completion stSuccess 0 3 0 0)
  | some c =>
    if c.fwdAt.isSome ∧ c.open_ then
      (s.modCmd c.qp c.cid fun x => { x with aborters := (a.qp, a.cid) :: x.aborters }).sendAbort c
    else s.abortCmd c (a.qp, a.cid)

/-- A command that passed every check of R94 but the lease group goes where its group is owned. -/
def State.routeCmd (s : State) (c : Cmd) (e : CmdEntry) (group : Nat) : State :=
  match s.groupOwner group with
  | 1 => s.toDsc c
  | 2 => s.forward c e
  | _ => s.failRetry c stLease 1000

/-- A command entry from a host port (R94). -/
def State.hostCommand (s : State) (opc : Nat) (h : HostCmd) : State :=
  let e := h.entry
  let qp := h.qp.toNat
  let cid := e.cid.toNat
  let wrongPort := s.hostViolation h.port 0x0908 qp 0xFFFF
  match tget s.cqe.qps qp with
  | none => wrongPort
  | some q =>
    if q.port ≠ h.port.val then wrongPort
    else
      let held := (s.cqe.cmd qp cid).isSome
      let c := cmdOf qp q.port q.sess q.cls opc s.dt e
      let quarantined : Bool := match tget s.cqe.sessions q.sess with | some x => x.quarantined | none => false
      let anchor := match tget s.cqe.sessions q.sess with | some x => x.anchor | none => 255
      if quarantined then s.rejectHost c stQuarantined 0 held
      else if q.deleting.isSome then s.rejectHost c stQpClosing 0 held
      else if s.cqe.outstanding qp ≥ q.depth then (s.sessionViolation 0x0C10 q.sess qp cid opc).rejectHost c stRingOverrun 0 held
      else if held then (s.sessionViolation 0x0C11 q.sess qp cid opc).rejectHost c stCidInUse 0 true
      else
        let s := s.modCqe fun x => { x with drain := x.drain.filter (· != (qp, cid)) }
        if opc = 0 ∨ opc > 8 then s.rejectHost c stInvalidOpcode 0 false
        else if !fieldsOk opc e then s.rejectHost c stInvalidField 0 false
        else if opc = opAbort then
          let c := { c with admitted := true, tag := s.cfg.epoch }
          (s.modCqe fun x => { x with cmds := x.cmds ++ [c] }).startAbort c (e.cdw.getD 0 0).toNat (e.cdw.getD 1 0).toNat
        else
          let granted := s.granted anchor c.vol
          match s.volStatus opc c.vol c.lba c.nsect c.cls granted with
          | some st =>
            let s := if st = stAccess then s.event 0x0C20 q.sess q.sess qp c.vol 1 else s
            s.rejectHost c st 0 false
          | none =>
            let c := { c with expect := expectOf opc c.nsect (s.cmdPort c).2 }
            let c := { c with window := s.windowOf c, timerAt := s.dt + usNs s.cqe.dataTimeoutUs }
            let s := s.modCqe fun x => { x with cmds := x.cmds ++ [c] }
            if opc = opFlush then s.finish c (c.completion stSuccess 0 0 0 0)
            else s.routeCmd c e (match s.cfg.volume c.vol with | some r => r.group | none => 0)

/-- READ (R82, R85). -/
def execRead (c : HostCmd) (s : State) : Host.Outcome State Fault Refusal := .next (s.hostCommand opRead c)

/-- WRITE (R82, R17). -/
def execWrite (c : HostCmd) (s : State) : Host.Outcome State Fault Refusal := .next (s.hostCommand opWrite c)

/-- FLUSH (R84). -/
def execFlush (c : HostCmd) (s : State) : Host.Outcome State Fault Refusal := .next (s.hostCommand opFlush c)

/-- ZERO_RANGE (R86). -/
def execZeroRange (c : HostCmd) (s : State) : Host.Outcome State Fault Refusal := .next (s.hostCommand opZero c)

/-- COMPARE (R82). -/
def execCompare (c : HostCmd) (s : State) : Host.Outcome State Fault Refusal := .next (s.hostCommand opCompare c)

/-- COMPARE_AND_WRITE (R87). -/
def execCompareAndWrite (c : HostCmd) (s : State) : Host.Outcome State Fault Refusal := .next (s.hostCommand opCaw c)

/-- VERIFY (R82, R85). -/
def execVerify (c : HostCmd) (s : State) : Host.Outcome State Fault Refusal := .next (s.hostCommand opVerify c)

/-- ABORT (R95). -/
def execAbort (c : HostCmd) (s : State) : Host.Outcome State Fault Refusal := .next ((s.hostCommand opAbort c).pokeCaws)

/-- COMMAND_INVALID_OPCODE: an entry with any opcode byte; one that R82 does not list fails check 6 of R94. -/
def execCommandInvalidOpcode (c : HostCmd) (opc : Byte) (s : State) : Host.Outcome State Fault Refusal :=
  .next (s.hostCommand opc.toNat c)

/-! ## Commands between the heads (R22, R411, R501, R502) -/

/-- The key of a command that the peer forwarded. -/
def peerQp (qp : Nat) : Nat := 16384 + qp

/-- ABORT of a command that the peer forwarded: decided here, its target's completion carries the outcome (R95, R501). -/
def State.peerAbort (s : State) (tq tcid : Nat) : State :=
  match s.cqe.cmd (peerQp tq) tcid with
  | none => s
  | some c => if c.open_ then (s.endUncommitted c (c.completion stAbortedRequest 0 0 0 0) (s.dt + 40000)).pokeCaws else s

/-- FORWARDED_COMMAND (R22, R411, R502): checks 8 to 11 under this head's epoch, then DSC. The start of the bound is DT less
ELAPSED less 1,000 ns. The entry carries neither class nor anchor: the class is a free value, and check 8 fails only where no
anchor is granted the volume (log entries 10 and 50). -/
def execForwardedCommand (qp : BitVec 14) (opc : Byte) (e : CmdEntry) (elapsed lanes : Nat) (enc : Bool) (s : State) :
    Host.Outcome State Fault Refusal :=
  let op := opc.toNat
  if op = opFlush then .next (s.peerViolation 0 op)
  else if op = opAbort then .next (s.peerAbort (e.cdw.getD 0 0).toNat (e.cdw.getD 1 0).toNat)
  else if !ranged op then .next s
  else
    let cls := s.freeNat 3
    let s := s.freshen
    let c := { cmdOf (peerQp qp.toNat) 0 65535 cls op (s.dt - elapsed - 1000) e with fromPeer := some (lanes, enc) }
    let c := { c with expect := expectOf op c.nsect (s.cmdPort c).2 }
    let c := { c with window := s.windowOf c, timerAt := s.dt + usNs s.cqe.dataTimeoutUs }
    let portal : Bool := match s.cfg.volume c.vol with | some r => r.kind == 4 || r.kind == 5 | none => false
    let c : Cmd := bif portal then { c with cls := 7 } else c
    let s := s.modCqe fun x => { x with cmds := x.cmds ++ [c], drain := x.drain.filter (· != (c.qp, c.cid)) }
    let granted : Bool := match s.cfg.volume c.vol with | some r => r.grants != 0 | none => true
    match s.volStatus op c.vol c.lba c.nsect c.cls granted with
    | some st => .next ((s.drainCid c.qp c.cid).finish c (c.completion st 0 0 0 0))
    | none =>
      let group := match s.cfg.volume c.vol with | some r => r.group | none => 0
      if s.ownsGroup group then .next (s.toDsc c) else .next (s.failRetry c stLease 1000)

/-- A forwarded command of an ended session that the owning head did not catch keeps its outcome (R501): it is not among the
terminated ones. -/
def State.notCaught (s : State) (x : Cmd) (ok : Bool) : State :=
  match x.pendingEnd with
  | some e =>
    if e.status.toNat ≠ stAbortedSession then s
    else
      let s := s.modSession x.sess fun t => { t with terminated := t.terminated - 1, kept := t.kept + bit (ok && writing x.opc) }
      s.modCqe fun c => { c with qps := tmod c.qps x.qp fun q => { q with aborted := q.aborted - 1 } }
  | none => s

/-- FORWARDED_COMPLETION (R22, R501): the owning head's outcome; flag FWD is set, and a command ended early at this head takes
the status of its end when it was caught. -/
def execForwardedCompletion (c : Completion) (s : State) : Host.Outcome State Fault Refusal :=
  match s.cqe.cmd c.qp.toNat c.cid.toNat with
  | none => .next s
  | some x =>
    if x.fwdAt.isNone ∨ x.decided.isSome then .next s
    else
      let late : BitVec 16 := if x.late.isSome then cfLate else 0
      let k := { c with cflags := (c.cflags &&& cfRetry) ||| cfFwd ||| late }
      let k := match x.pendingEnd with
        | some e => if c.status.toNat = stAbortedRequest then e else k
        | none => k
      let caught := c.status.toNat = stAbortedRequest
      let s := s.modWc fun w => { w with fwdData := w.fwdData.filter fun d => !(d.1 == x.qp && d.2.1 == x.cid) }
      let s := if c.status = 0 then s else s.drainCid x.qp x.cid
      let s := if caught then s else s.notCaught x (c.status == 0)
      let s := s.modCmd x.qp x.cid fun y => { y with pendingEnd := none, aborters := [] }
      .next (((s.letGo x).deliver { x with pendingEnd := none } k).answerAborts x.aborters (if caught then 1 else 2))

/-! ## Data flits (R43, R88 to R91) -/

/-- Grains that a write covers whole, of a volume in a dedup domain, are snooped (R167, R168). -/
def State.snoopWrite (s : State) (c : Cmd) : State :=
  if c.opc ≠ opWrite ∨ ((s.cfg.volume c.vol).bind (·.domain)).isNone then s
  else (rangeGrains c.lba c.nsect).foldl (fun s g => if (c.sectorsIn g).length = 2 then s.snoopStage c.qp c.cid g else s) s

/-- Inbound data takes staging entries, 32 MiB over the SLC (R376); a producer that finds none waits, and is counted. -/
def State.stage (s : State) (c : Cmd) (bytes : Nat) : State :=
  let used := lsum (s.slc.staging.map fun x => x.2.2.1)
  let mine := lsum ((s.slc.staging.filter fun x => x.1 == c.qp && x.2.1 == c.cid).map fun x => x.2.2.1)
  if used + bytes > 32 * 2 ^ 20 then s.modSlc fun l => { l with stageWait := sat 6 (l.stageWait + 1) }
  else (s.unstage c.qp c.cid).modSlc fun l => { l with staging := l.staging ++ [(c.qp, c.cid, mine + bytes, s.dt)] }

/-- The declared data of a command is complete (R89). -/
def State.dataComplete (s : State) (c : Cmd) : State :=
  if c.fwdAt.isSome then
    let s := if s.portUp .peer then s.unstage c.qp c.cid else s
    if c.opc = opWrite ∨ c.opc = opCaw then
      s.modWc fun w => { w with fwdData := w.fwdData ++ [(c.qp, c.cid, c.sectors c.carries)] }
    else s
  else
    let portal : Bool := match s.cfg.volume c.vol with | some r => r.kind == 4 || r.kind == 5 | none => false
    if portal then s.portalData c
    else if !c.admitted ∨ c.waiting7 then s
    else if c.opc = opWrite then (s.snoopWrite c).launchWrite c (c.sectors c.carries)
    else (s.tryCmd c.qp c.cid).pokeCaws

/-- A data flit of an open command (R88, R89): counted, kept, passed on to the owning head of a forwarded command. -/
def State.countData (s : State) (c : Cmd) (payload : Bytes) : State :=
  let got := c.got + 1
  let late := if got = c.expect ∧ s.dt ≥ c.window then some s.dt else c.late
  let c := { c with got := got, late := late, timerAt := s.dt + usNs s.cqe.dataTimeoutUs, data := c.data ++ [payload] }
  let s := (s.modCmd c.qp c.cid fun _ => c).stage c payload.length
  let s := if c.fwdAt.isSome then s.transmit .peer 1 (.fwdData c.qp c.cid payload) else s
  if got = c.expect then s.dataComplete c else s

/-- DATA_FLIT_RECEIVED (R89, R90, R98): from a host port, counted by BIND, or discarded once its command is to end early (R501); from the peer, the data of a forwarded command, or of a
READ that this head forwarded. -/
def execDataFlitReceived (port : PortId) (qp : BitVec 14) (cid : BitVec 16) (payload : Bytes) (s : State) :
    Host.Outcome State Fault Refusal :=
  let q := qp.toNat
  let i := cid.toNat
  match port with
  | .media _ => .next s
  | .peer =>
    if s.cqe.drain.contains (peerQp q, i) then .next s
    else match s.cqe.cmd (peerQp q) i, s.cqe.cmd q i with
      | some c, _ => if !c.open_ ∨ c.got ≥ c.expect then .next s else .next (s.countData c payload)
      | none, some c => if c.fwdAt.isSome ∧ c.opc = opRead ∧ c.decided.isNone then .next (s.sendData c payload) else .next s
      | none, none => .next s
  | .host p =>
    match tget s.cqe.qps q with
    | none => .next (s.hostViolation p 0x0908 q 0xFFFF)
    | some k =>
      if k.port ≠ p.val then .next (s.hostViolation p 0x0908 q 0xFFFF)
      else if s.cqe.drain.contains (q, i) ∨ ((s.cqe.cmd q i).any fun c => c.pendingEnd.isSome) then .next s
      else match s.cqe.cmd q i with
        | none => .next (s.sessionViolation 0x0C12 k.sess q i 0)
        | some c =>
          if c.carries = 0 ∨ c.committed ∨ c.decided.isSome then .next (s.sessionViolation 0x0C12 k.sess q i c.opc)
          else if c.got ≥ c.expect then
            .next ((s.sessionViolation 0x0C13 k.sess q i c.opc).endEarly c stLength).pokeCaws
          else .next (s.countData c payload)

/-- DATA_TIMER_EXPIRY (R89, R98): the data of a command is short: nothing is committed and its CID drains. -/
def execDataTimerExpiry (qp : BitVec 14) (cid : BitVec 16) (s : State) : Host.Outcome State Fault Refusal :=
  match s.cqe.cmd qp.toNat cid.toNat with
  | none => .next s
  | some c =>
    if c.got ≥ c.expect ∨ !c.open_ then .next s
    else
      let s := s.advanceTo c.timerAt
      .next (((s.sessionViolation 0x0C14 c.sess c.qp c.cid c.opc).endEarly c stLength).pokeCaws)

/-- A class 7 command that waits is decided again (R104), unless an element of it is asked of the peer. -/
def State.retry7 (s : State) (c : Cmd) : State :=
  if c.waiting7 ∧ c.open_ ∧ !s.dsc.asks.any (fun a => a.qp == c.qp && a.cid == c.cid && !a.answered) then s.decideCmd c else s

/-- CLASS7_RESOURCE_FREED (R104). -/
def execClass7ResourceFreed (qp : BitVec 14) (cid : BitVec 16) (s : State) : Host.Outcome State Fault Refusal :=
  match (s.cqe.cmd qp.toNat cid.toNat).filter (·.waiting7), s.cqe.cmd (peerQp qp.toNat) cid.toNat with
  | some c, _ => .next (s.retry7 c)
  | none, some c => .next (s.retry7 c)
  | none, none => .next s

end Sys2Proof.Machine
end

