-- ==== Sys2Proof/Machine/Leases.lean ====
section
/-! DEFINITION. Chapter 11: lease records and permits on the bridges (R325 to R328), the mirror's resynchronisation (R144), and how
commands end when a group is lost (R128, R316, R324, R327). -/

namespace Sys2Proof.Machine

open Sys2Proof

/-! ## Records -/

/-- A record that a reset bridge holds (R325). -/
def emptyLease : Lease := ⟨0, 0, 0, 0, 0⟩

/-- The 16 bytes of a lease record (R325). -/
def leaseBytes (l : Lease) : Bytes :=
  leBytes 1 l.holder.toNat ++ leBytes 1 l.st.toNat ++ leBytes 2 l.durMs ++ leBytes 4 l.epoch ++ leBytes 8 l.rseq

/-- T_W of R328 in ns. -/
def leaseWaitNs : Nat := 152300000

def Ha.seenAt (h : Ha) (rec pos : Nat) : Option Lease := (h.seen.find? fun x => x.1 == rec && x.2.1 == pos).map (·.2.2)

def State.leaseOf (s : State) (rec : Nat) : LeaseSt := tgetD s.ha.leases rec {}

def State.modLease (s : State) (rec : Nat) (f : LeaseSt → LeaseSt) : State :=
  s.modHa fun h => { h with leases := tput h.leases rec (f (tgetD h.leases rec {})) }

/-- The bridges that hold a record: the lease bridge set, or every declared module for a permit (R325). -/
def State.recordBridges (s : State) (rec : Nat) : List Nat := if rec < 256 then s.ha.bridges else if s.ha.bridges = [] then [] else s.cfg.modules

/-- Bridges that must accept a round (R325, R327). -/
def State.leaseNeed (s : State) (rec : Nat) : Nat := if rec < 256 then s.ha.majority else 1

/-- This head's permit (R325). -/
def State.permit (s : State) : Nat := 256 + s.headNum

/-- A record has been read on a bridge: what the majority of the set holds is known anew. -/
def Ha.see (h : Ha) (rec pos : Nat) (l : Lease) : Ha :=
  let seen := (rec, pos, l) :: h.seen.filter fun x => !(x.1 == rec && x.2.1 == pos)
  let count (who : Nat) : Nat := (seen.filter fun x => x.1 == rec && x.2.2.st == 1 && x.2.2.holder.toNat == who).length
  let holder := if count 1 ≥ h.majority then 1 else if count 2 ≥ h.majority then 2 else 0
  let set (x : LeaseSt) : LeaseSt :=
    if rec ≥ 256 then x
    else if x.view = 0 then { x with holder := holder, rseq := max x.rseq l.rseq } else x
  { h with seen := seen, leases := tput h.leases rec (set (tgetD h.leases rec {})) }

/-- Send a LEASE_CAS (R326). -/
def State.sendCas (s : State) (pos rec : Nat) (expected new : Lease) : State :=
  s.sendMedia pos 255 mCas 0 0 (s.dt + msNs 1) 0 (.lease rec) (leBytes 2 rec ++ leBytes 2 0 ++ leaseBytes expected ++ leaseBytes new)

/-- Read a record: a CAS whose expected HOLDER is 0xFF (R326). -/
def State.readLease (s : State) (pos rec : Nat) : State := s.sendCas pos rec { emptyLease with holder := 0xFF } emptyLease

/-- The RSEQ of the next round: one above the highest seen (R325, R327). -/
def Ha.nextRseq (h : Ha) (rec : Nat) : Nat :=
  ((h.seen.filter fun x => x.1 == rec).foldl (fun m x => max m x.2.2.rseq) (tgetD h.leases rec {}).rseq) + 1

/-- Bridges of a record that can be reached. -/
def State.reachable (s : State) (rec : Nat) : List Nat := (s.recordBridges rec).filter s.moduleUp

/-- One round on every bridge of a record: a HELD record with RSEQ one higher (R327). EPOCH_STALE has ended CASes (R330). -/
def State.leaseRound (s : State) (rec : Nat) : State :=
  if s.ha.stale then s
  else
    let ps := s.reachable rec
    let new : Lease := ⟨BitVec.ofNat 8 s.me, 1, 150, s.ha.epoch, s.ha.nextRseq rec⟩
    let s := s.modLease rec fun l => { l with asked := ps, yes := [], roundAt := s.dt }
    ps.foldl (fun s p => s.sendCas p rec ((s.ha.seenAt rec p).getD emptyLease) new) s

/-- A head may take leases: a set is in force, no WC_SIZE mismatch, no HELD or debug state, lifecycle PROVISIONED or FIELD. -/
def State.mayLease (s : State) : Bool :=
  s.ha.bridges != [] && !s.wc.mismatch && s.ha.role != .held && !s.ha.goingHeld && s.dbg.level < 2 && !s.ha.stale &&
  s.mcu.popOk && s.rot.ready && (s.rot.lifecycle == .provisioned || s.rot.lifecycle == .field)

/-- Try to take a record (R328). -/
def State.takeLease (s : State) (rec : Nat) : State := if s.mayLease ∧ (s.leaseOf rec).view = 0 then s.leaseRound rec else s

/-- Write a record RELEASED (R324): from now on the group is not held. -/
def State.releaseLease (s : State) (rec : Nat) : State :=
  let new : Lease := ⟨BitVec.ofNat 8 s.me, 2, 150, s.ha.epoch, s.ha.nextRseq rec⟩
  let s := s.modLease rec fun l => { l with view := 0, holder := 0, asked := [], yes := [], roundAt := s.dt }
  (s.reachable rec).foldl (fun s p => s.sendCas p rec ((s.ha.seenAt rec p).getD emptyLease) new) s

/-! ## Notes and notices -/

/-- Contiguous runs of rising numbers: first and count. -/
def runsOf : List Nat → List (Nat × Nat)
  | [] => []
  | g :: gs =>
    match runsOf gs with
    | (f, n) :: rest => if f = g + 1 then (g, n + 1) :: rest else (g, 1) :: (f, n) :: rest
    | [] => [(g, 1)]

/-- LEASE_NOTE records for groups (R318): 1 releasing, 2 released, 3 taken, 4 lost. -/
def State.leaseNotes (s : State) (groups : List Nat) (action : Nat) : State :=
  (runsOf (sortNat groups)).foldl (fun s r => s.toPeer (.leaseNote r.1 r.2 action s.ha.epoch)) s

/-- Event 0x0A34 for each run of groups moved. -/
def State.leaseMoved (s : State) (groups : List Nat) (src dst : Nat) : State :=
  (runsOf (sortNat groups)).foldl (fun s r => s.event 0x0A34 r.1 r.1 r.2 src dst) s

/-- The LEASE_MOVED notice (R346). -/
def State.leaseNotice (s : State) (groups : List Nat) (src dst cause : Nat) : State :=
  if groups = [] then s
  else s.notifyGranted (fun _ v => groups.contains v.group) 11
    (leBytes 32 (groups.foldl (fun m g => m ||| 2 ^ g) 0) ++ leBytes 1 src ++ leBytes 1 dst ++ leBytes 1 cause ++ leBytes 1 0)

/-- The PEER_STATE notice (R346). -/
def State.peerNotice (s : State) (head old new cause : Nat) : State :=
  s.notifyAll 12 (leBytes 1 head ++ leBytes 1 old ++ leBytes 1 new ++ leBytes 1 cause ++ leBytes 8 s.dt)

def State.peerNum (s : State) : Nat := 1 - s.headNum

/-- A disagreement (R344): event 0x0A38. The spec gives its outcome no coding: a free value (log entry 10). -/
def State.disagreement (s : State) (subject own peer : Nat) : State :=
  (s.event 0x0A38 0 subject own peer (s.freeNat 32)).freshen

/-! ## Commands that end -/

/-- The owning head of forwarded commands has failed (R128): LEASE_TRANSITION with RETRY 1,000, the time since the forwarding
excluded; event 0x0D08. -/
def State.endForwarded (s : State) : State :=
  let mine := s.cqe.cmds.filter fun c => c.fwdAt.isSome && c.decided.isNone
  if mine = [] then s
  else
    let s := mine.foldl (fun s c =>
      let c := { c with excl := c.excl + (s.dt - c.fwdAt.getD s.dt), pendingEnd := none }
      let s := (s.modCmd c.qp c.cid fun _ => c).drainCid c.qp c.cid
      let s := s.modWc fun w => { w with fwdData := w.fwdData.filter fun d => !(d.1 == c.qp && d.2.1 == c.cid) }
      s.finish c (c.completion stLease 1000 0 0 0)) s
    s.event 0x0D08 0 mine.length (mine.filter fun c => writing c.opc).length 0 0

/-- Group of a command's volume. -/
def State.cmdGroup (s : State) (c : Cmd) : Option Nat := (s.cfg.volume c.vol).map (·.group)

/-- Commands of groups that this head serves end before their commit point (R327); `copies`: whether discards are sent for what the
peer may hold. -/
def State.endGroups (s : State) (groups : Nat → Bool) (copies : Bool) : State :=
  let hit (c : Cmd) : Bool := c.open_ && c.fwdAt.isNone && c.opc != opAbort && (match s.cmdGroup c with | some g => groups g | none => false)
  (s.cqe.cmds.filter hit).foldl (fun s c =>
    s.endUncommitted { c with mirrorSent := c.mirrorSent && copies } (c.completion stLease 1000 0 0 0) (s.dt + 40000)) s

/-- Every admitted command ends as a failover would (R316, R324). -/
def State.endAll (s : State) : State := ((s.endGroups (fun _ => true) false).endForwarded).pokeCaws

/-- A running replication job of a group that moves fails with cause 4 (R308). -/
def State.failJobs (s : State) (groups : Nat → Bool) : State :=
  (s.snap.jobs.filter fun j => j.2.st == .running && (match s.cfg.volume j.2.vol with | some v => groups v.group | none => false)).foldl
    (fun s j => s.failJob j.1 4 stLease none) s

/-! ## Resynchronisation (R144) -/

/-- The frame's copy for the peer: its committed sectors. -/
def Frame.wholeCopy (f : Frame) : Desc × List Bytes :=
  let m := f.desc.committed
  ({ f.desc with present := m }, ([0, 1].filter fun k => m.getLsbD k).map fun k => f.data.getD k [])

/-- RESYNC is complete: event 0x0A23, the record to the peer, MIRRORED. Copies of domains that were out of date are the peer's to rebuild
from here on (R190). -/
def State.resyncEnd (s : State) : State :=
  let ms := (s.dt - s.wc.resyncAt) / 1000000
  let s := (s.event 0x0A23 0 s.wc.resyncDone ms 0 0).modDxu fun x => { x with doms := x.doms.map fun d => (d.1, { d.2 with peerStale := false }) }
  (s.toPeer (.resyncDone s.wc.resyncDone)).setMirror .mirrored 5

/-- Enter RESYNC: every live frame is copied to the peer (R144). -/
def State.resyncStart (s : State) : State :=
  let s := s.setMirror .resync 4
  let live := s.wc.frames.filter fun f => f.2.desc.committed != 0
  let s := s.modWc fun w => { w with resync := live.map fun f => (f.1, f.2.desc.gen), resyncDone := 0, resyncAt := s.dt }
  let s := live.foldl (fun s f => let k := f.2.wholeCopy; s.transmit .peer 5 (.mirrorCopy f.1 k.1 k.2)) s
  if live = [] then s.resyncEnd else s

/-! ## Going HELD (R316) and yielding (R324) -/

/-- CASes of group records in flight. -/
def State.casOpen (s : State) : Bool := s.link.ops.any fun o => o.2.opc == mCas && (match o.2.work with | .lease r => decide (r < 256) | _ => false)

/-- This head is HELD. -/
def State.nowHeld (s : State) : State :=
  let old := s.ha.role
  let s := s.modHa fun h => { h with role := .held, goingHeld := false }
  if old = .held then s else s.peerNotice s.headNum (roleNum old) 4 7

/-- Steps 2 and 3 of R316: every command ends, every record is written RELEASED. -/
def State.heldSteps (s : State) : State :=
  let s := s.endAll
  let groups := s.ha.held
  let s := s.leaseNotes groups 1
  let s := (groups ++ [s.permit]).foldl (fun s g => s.releaseLease g) s
  if s.casOpen then s else s.nowHeld

/-- A head must go HELD (R315, R316), for the subject of a disagreement or 0. -/
def State.goHeld (s : State) (subject : Nat) : State :=
  if s.ha.role = .held ∨ s.ha.goingHeld then s
  else
    let s := s.modHa fun h => { h with disagree := subject }
    if s.ha.held = [] then (if (s.leaseOf s.permit).view = 0 then s else s.releaseLease s.permit).nowHeld
    else
      let s := s.modHa fun h => { h with goingHeld := true }
      if s.wc.mirrorSt = .solo ∨ s.wc.mirrorSt = .resync then
        (if s.wc.mirrorSt = .solo ∧ s.portUp .peer then s.resyncStart else s)
      else s.heldSteps

/-- What follows the end of RESYNC. -/
def State.afterResync (s : State) : State := if s.ha.goingHeld then s.heldSteps else s

/-- After a mirror acknowledgement: RESYNC ends with the last one. -/
def State.pokeResync (s : State) : State :=
  if s.wc.mirrorSt = .resync ∧ s.wc.resync = [] then s.resyncEnd.afterResync else s

/-- The yielding head (R324): YIELD 2, commands end, records are released; the warm reset follows the bridges' answers. -/
def State.yieldNow (s : State) : State :=
  let s := s.modHa fun h => { h with yieldSt := 2 }
  let s := s.endAll
  let s := (s.ha.held ++ [s.permit]).foldl (fun s g => s.releaseLease g) s
  if s.casOpen then s else s.warmReset

/-! ## Leases lost (R327) -/

/-- LEASE_LOST: s + DUR_MS has come without a later round; 0x0A33, the note and notice, the group's commands end. The head tries
to take the record again where nobody else holds it (log entry 51). -/
def execLeaseLost (record : Nat) (s : State) : Host.Outcome State Fault Refusal :=
  let l := s.leaseOf record
  match l.sentAt with
  | none => .next s
  | some t =>
    if l.view = 0 then .next s
    else
      let s := s.advanceTo (t + msNs 150)
      let s := s.event 0x0A33 (record % 65536) record l.yes.length l.cause 0
      let s := s.modLease record fun l => { l with view := 0, holder := 0, sentAt := none, accepted := l.yes.length, asked := s.reachable record }
      if record ≥ 256 then .next s
      else
        let s := (s.endGroups (fun g => g == record) true).failJobs fun g => g == record
        .next ((((s.leaseNotes [record] 4).leaseMoved [record] s.headNum 0xFF).leaseNotice [record] s.headNum 0xFF 3).pokeCaws)

/-- LEASE_RENEWAL_TIMER (R327): every 25 ms a round of every record held; a round that missed its majority shows in VIEW. -/
def execLeaseRenewalTimer (s : State) : Host.Outcome State Fault Refusal :=
  let held := (s.ha.leases.filter fun l => l.2.view != 0).map (·.1)
  if s.ha.bridges = [] ∨ held = [] ∨ s.ha.stale then .next s
  else
    let s := (s.advanceTo s.ha.renewDue).modHa fun h => { h with renewDue := max s.dt h.renewDue + msNs 25 }
    .next (held.foldl (fun s g =>
      let l := s.leaseOf g
      let missed := decide (l.yes.length < s.leaseNeed g)
      let s := s.modLease g fun l => { l with
        accepted := l.yes.length
        cause := if missed then (if l.cause = 2 then 2 else 1) else 1
        view := if missed ∧ l.view = 1 then 3 else l.view }
      s.leaseRound g) s)

/-- LEASE_RETRY_TIMER (R328): 5 ms after a round, records that are wanted and not held are tried again. -/
def execLeaseRetryTimer (s : State) : Host.Outcome State Fault Refusal :=
  let want := s.ha.leases.filter fun l => l.2.view == 0 && l.2.asked != []
  match want with
  | [] => .next s
  | w :: ws =>
    let t := ws.foldl (fun m l => max m l.2.roundAt) w.2.roundAt
    .next (want.foldl (fun s l => s.takeLease l.1) (s.advanceTo (t + msNs 5)))

end Sys2Proof.Machine
end

