-- ==== Sys2Proof/Machine/Takeover.lean ====
section
/-! DEFINITION. Chapter 11: the Snowdrop island's messages (R331 to R336), and the takeover (R337 to R339). -/

namespace Sys2Proof.Machine

open Sys2Proof

/-! ## The island (R331, R333 to R336) -/

/-- The island sends a PSB frame under the next counter (R333). -/
def State.sendPsb (s : State) (typ : Nat) (body : Bytes) : State :=
  let n := s.snw.ctrTx + 1
  (s.modSnw fun w => { w with ctrTx := n }).emit (.psb typ n body)

/-- FENCE to the peer's island, once a pair key exists (R332, R334). -/
def State.sendFence (s : State) (reason : Nat) : State :=
  if s.snw.paired then s.sendPsb 1 (leBytes 4 (s.ha.epoch + 1) ++ leBytes 1 reason) else s

/-- The next EVENTS_REQ (R336), 32 records at a time. -/
def State.readPeerEvents (s : State) : State :=
  let first := s.snw.peerEvents.length
  if first < s.snw.evrAvail then s.sendPsb 3 (leBytes 2 first ++ leBytes 2 (min 32 (s.snw.evrAvail - first))) else s

/-- RELEASE once the takeover is done and the peer's events are read (R336, R337 step 9): event 0x0505. -/
def State.releasePeer (s : State) : State :=
  if !s.snw.peerHeld ∨ s.ha.takeover.isSome ∨ s.snw.peerEvents.length < s.snw.evrAvail then s
  else (s.event 0x0505 0 s.ha.epoch ((s.dt - s.snw.heldAt) / 1000000) 0 0).sendPsb 4 (leBytes 4 s.ha.epoch)

/-! ## Steps of a takeover (R337) -/

def State.modTakeover (s : State) (f : Takeover → Takeover) : State := s.modHa fun h => { h with takeover := h.takeover.map f }

/-- Modules whose bridges can be reached. -/
def State.upModules (s : State) : List Nat := s.cfg.modules.filter s.moduleUp

/-- EPOCH requests unanswered. -/
def State.epochOpen (s : State) : Bool := s.link.ops.any fun o => o.2.opc == mEpoch

/-- Send an EPOCH request: raise to the epoch in use, or read (R58). -/
def State.sendEpoch (s : State) (pos : Nat) (raise : Bool) : State :=
  s.sendMedia pos 255 mEpoch 0 (bit raise) (s.dt + msNs 1) 0 .epoch []

/-- The ownership map that gives this head every die of a module (R312): bit set for head A. -/
def State.allMine (s : State) : BitVec 192 := if s.glb.headB then 0 else BitVec.allOnes 192

/-- OWNER read or set (R58). -/
def State.sendOwner (s : State) (pos : Nat) (set : Option (BitVec 192)) : State :=
  match set with
  | none => s.sendMedia pos 255 mOwner 0 0 (s.dt + msNs 1) 0 .owner []
  | some m => if s.ha.stale then s else s.sendMedia pos 255 mOwner 0 1 (s.dt + msNs 1) 0 .owner (leBytes 24 m.toNat)

/-- Dies this head has gained from the other half of the split. -/
def State.gainedDies (s : State) : Nat := (s.ftu.dies.filter fun d => d.2.own && d.2.half != s.glb.headB).length

/-- The union of the peer's DRB copies is resynchronised (R275): event 0x1307 for each pool with regions set, and
0x1308 for the peer's write cache, which yields no copy. What the members'
directories show is not this head's to know before it reads them: a free value (log entry 10). -/
def State.unionDrb (s : State) : State :=
  let pools := ((s.pxe.drb.filter (·.peers)).map (·.pool)).eraseDups
  let s := pools.foldl (fun s p =>
    let n := lsum ((s.pxe.drb.filter fun d => d.peers && d.pool == p).map fun d => ((List.range 256).filter fun r => d.regions.getLsbD r).length)
    if n = 0 then s else ((s.event 0x1307 p p (bit (!s.glb.headB)) n (s.freeNat 32)).freshen).event 0x1308 p p (bit (!s.glb.headB)) 1 0) s
  s.modPxe fun p => { p with drb := p.drb.filter fun d => !d.peers }

/-- What gaining the peer's groups brings (R337 step 7): SURVIVOR, SOLO with adoption, domains REBUILDING, the DRB union, notes and
notices. Causes of the notice: 1 takeover, 4 yield, 5 peer in P4. -/
def State.gainGroups (s : State) (groups : List Nat) (cause : Nat) : State :=
  let s := s.modHa fun h => { h with role := .survivor, stableAt := none }
  let s := ((s.setMirror .solo 3).adoptMirror).commitWaiting
  let s := s.modWc fun w => { w with keepRestored := false }
  let s := (s.dxu.doms.filter fun d => groups.contains d.2.group).foldl (fun s d => s.setDomain d.1 .rebuilding 3) s
  let s := s.unionDrb
  let s := ((s.leaseMoved groups s.peerNum s.headNum).leaseNotes groups 3).leaseNotice groups s.peerNum s.headNum cause
  s.pokeCaws

/-- The cause of the LEASE_MOVED notice by the takeover's mode. -/
def modeCause (mode : Nat) : Nat := if mode = 4 then 4 else if mode = 5 then 5 else 1

/-- TAKEOVER_DONE (R337 steps 7 to 9): events 0x0A32 and 0x0D05, PEER_STATE, RELEASE where the island holds the peer. -/
def State.takeoverDone (s : State) (t : Takeover) : State :=
  let s := if s.ha.role = .survivor ∧ t.groups = [] then s else s.gainGroups t.groups (modeCause t.mode)
  let n := s.gainedDies
  let s := s.event 0x0A32 0 t.mode s.ha.epoch t.groups.length n
  let s := if n = 0 then s else
    let ty := (s.ftu.types.head?.map (·.2)).getD {}
    s.event 0x0D05 0 n (eraseNs ty / 1000) 0 0
  let s := if t.mode = 1 ∨ t.mode = 2 then s.peerNotice s.peerNum (roleNum s.ha.peerRole) (roleNum s.ha.peerRole) (t.mode + 1) else s
  (s.modHa fun h => { h with takeover := none, lastFence := if t.mode ≤ 2 then t.mode else 3 }).releasePeer

/-- Step 6: the records of every group not held are taken (R328, R343). -/
def State.takePeerGroups (s : State) (mode : Nat) : State :=
  let groups := (List.range 256).filter fun g => (s.leaseOf g).view == 0
  let s := s.modTakeover fun t => { t with step := 6, mode := mode, groups := if t.groups = [] then groups else t.groups }
  let s := groups.foldl (fun s g => s.takeLease g) (s.takeLease s.permit)
  match s.ha.takeover with
  | some t => if groups = [] then s.takeoverDone t else s
  | none => s

/-- Step 5: the epoch is raised on every bridge that can be reached (R329); where none can, the takeover goes no further. -/
def State.raiseEpochs (s : State) (mode : Nat) : State :=
  let top := s.ha.epochAt.foldl (fun m e => max m e.2) s.ha.epoch
  let s := (s.modHa fun h => { h with epoch := top + 1 }).modTakeover fun t => { t with step := 5, mode := mode }
  s.upModules.foldl (fun s p => s.sendEpoch p true) s

/-- A takeover begins. -/
def State.startTakeover (s : State) (step mode : Nat) : State :=
  let t : Takeover := { step := step, declaredAt := s.dt, attempts := 0, fenceAt := s.dt, mode := mode }
  let keep (l : Nat × LeaseSt) : Nat × LeaseSt := if l.2.view = 2 then (l.1, { l.2 with view := 1 }) else l
  let s := s.modHa fun h => { h with
    takeover := some t, peerFailed := true, failback := none, stableAt := none, lostWaits := [], leases := h.leases.map keep }
  (s.modFtu fun f => { f with dies := f.dies.map fun d => (d.1, { d.2 with leaving := false }) })

/-- First read of the peer's records on every bridge of the set (R328). -/
def State.readPeerRecords (s : State) : State :=
  let groups := (List.range 256).filter fun g => (s.leaseOf g).view == 0
  groups.foldl (fun s g => (s.reachable g).foldl (fun s p => s.readLease p g) s) s

/-- The dies of a module that this head gains enter their settle period, RESUME is sent and the map is set (R129, R337 step 5). -/
def State.gainModule (s : State) (pos : Nat) : State :=
  let dies := s.ftu.dies.filter fun d => d.1 / 256 == pos && !d.2.own && d.2.st != .absent
  let s := s.sendOwner pos (some s.allMine)
  dies.foldl (fun s d =>
    let s := s.modDsc fun c => c.enter { num := 0, die := d.1, start := s.dt, stop := s.dt + eraseNs (s.ftu.dieType d.1), kind := .settle, issued := true }
    s.sendMedia pos (d.1 % 256) mResume 0 0 0 0 .suspend []) s

/-- PEER_DECLARED_FAILED (R321, R322, R337 step 2): both paths have been silent for 30 ms; a peer never heard, 60 s after this head
became ready. Not a peer whose latest heartbeats reported P3 (R431), nor without a bridge set (R325). A peer found HELD before is
fenced with reason 2 (R338). -/
def execPeerDeclaredFailed (s : State) : Host.Outcome State Fault Refusal :=
  let h := s.ha
  match h.readyAt with
  | none => .next s
  | some ready =>
    let heard := max (h.plkAt.getD 0) (h.mboxAt.getD 0)
    let never := h.plkAt.isNone && h.mboxAt.isNone
    let t := if never then ready + secNs 60 else heard + msNs 30
    if h.bridges = [] ∨ h.role = .held ∨ s.pmu.pstate = .p3 ∨ s.pmu.pstate = .p4 ∨ (h.peerP3Plk ∧ h.peerP3Mbox) ∨ (never ∧ h.peerFailed) then .next s
    else if h.peerFailed then
      if h.peerRole = .held ∧ !s.snw.peerHeld then .next (((s.advanceTo t).sendFence 2).modHa fun h => { h with plkSilent := true, mboxSilent := true })
      else match h.takeover with
        | some k => if k.mode = 5 ∧ k.step = 8 then .next ((s.advanceTo t).raiseEpochs 5) else .next s
        | none => .next s
    else
      let s := s.advanceTo t
      let ago (x : Option Nat) : Nat := match x with | some t => (s.dt - t) / 1000000 | none => (s.dt - ready) / 1000000
      let s := s.event 0x0A31 0 h.peerHb (ago h.plkAt) (ago h.mboxAt) 0
      let s := (s.startTakeover 2 2).modHa fun h => { h with plkSilent := true, mboxSilent := true }
      let s := (s.peerNotice s.peerNum (roleNum h.peerRole) (roleNum h.peerRole) 1).endForwarded
      let s := (s.readPeerRecords.sendFence 1).modTakeover fun k => { k with attempts := 1, fenceAt := s.dt }
      .next s

/-- FENCE_NO_ANSWER (R337 step 3): 5 ms without FENCED: event 0x0503. What a head that gave no answer was doing is a free value. -/
def execFenceNoAnswer (s : State) : Host.Outcome State Fault Refusal :=
  match s.ha.takeover with
  | none => .next s
  | some t =>
    if t.step > 3 ∨ t.step < 2 then .next s
    else
      let s := s.advanceTo (t.fenceAt + msNs 5)
      .next ((((s.event 0x0503 0 2 t.attempts (s.freeNat 8) (Config.freeValue 8 (s.fresh + 1)).toNat).freshen).freshen).modTakeover
        fun k => { k with step := 4, mode := 2 })

/-- FENCE_RETRY: every 20 ms of the lease wait FENCE is sent again, and the peer's records are read again (R328). -/
def execFenceRetry (s : State) : Host.Outcome State Fault Refusal :=
  match s.ha.takeover with
  | none => .next s
  | some t =>
    if t.step ≠ 4 then .next s
    else
      let s := s.advanceTo (t.fenceAt + msNs 20)
      .next ((s.sendFence 1).readPeerRecords.modTakeover fun k => { k with attempts := k.attempts + 1, fenceAt := s.dt })

/-- LEASE_WAIT_EXPIRY (R328, R337 step 4): every record read has stayed unchanged for T_W: a takeover goes on to step 5; groups the
peer reported lost are taken (R339). -/
def execLeaseWaitExpiry (s : State) : Host.Outcome State Fault Refusal :=
  match s.ha.takeover with
  | some t =>
    if t.step ≠ 4 ∨ t.waits = [] then .next s
    else .next ((s.advanceTo (t.waits.foldl (fun m w => max m w.2.2.2) 0 + leaseWaitNs)).raiseEpochs 2)
  | none =>
    match s.ha.lostWaits with
    | [] => .next s
    | w :: ws =>
      let s := (s.advanceTo (ws.foldl (fun m x => max m x.2) w.2 + leaseWaitNs)).modHa fun h => { h with lostWaits := [] }
      .next ((w :: ws).foldl (fun s x => s.takeLease x.1) s)

/-! ## Frames of the PSB -/

/-- A PSB frame is accepted when the PSB is not ignored, a pair key exists, its length and MAC hold and its counter is new (R333,
R345); else it is discarded without an answer: event 0x0507 with the frames rejected in the window. -/
def State.psbFrame (s : State) (p : Psb) (typ : Nat) (act : State → State) : State :=
  let ignored : Bool := match s.snw.ignoreUntil with | some t => decide (s.dt < t) | none => false
  if ignored then s
  else
    let cause := if p.len > 1040 then 3 else if !p.macOk ∨ !s.snw.paired then 1 else if p.ctr ≤ s.snw.ctrRx then 2 else 0
    if cause = 0 then act (s.modSnw fun w => { w with ctrRx := p.ctr, acceptedAt := some s.dt })
    else
      let n := if s.snw.rejWin = secOf s.dt then s.snw.rejCount + 1 else 1
      (s.event 0x0507 0 n typ cause 0).modSnw fun w => { w with rejected := sat 16 (w.rejected + 1), rejWin := secOf s.dt, rejCount := n }

/-- FENCE (R335): the peer-fence reset is asserted and kept; event 0x0504 in the island's mirror; FENCED tells what the head was
doing at the hold. -/
def execFence (p : Psb) (epoch : Nat) (reason : Byte) (s : State) : Host.Outcome State Fault Refusal :=
  .next (s.psbFrame p 1 fun s =>
    let ps := pstateNum s.pmu.pstate
    let role := roleNum s.ha.role
    let s := (s.event 0x0504 0 epoch reason.toNat 0 0).coldSource 4
    let s := s.modRcc fun r => { r with fenceHold := true }
    s.sendPsb 0x81 (leBytes 1 ps ++ leBytes 1 role ++ leBytes 2 0 ++ leBytes 4 s.evr.mirror.length))

/-- FENCED (R337): event 0x0503; during the wait the takeover goes to step 5 at once, after step 4 the answer is RELEASE at once. -/
def execFenced (p : Psb) (pstate role : Byte) (records : Nat) (s : State) : Host.Outcome State Fault Refusal :=
  .next (s.psbFrame p 0x81 fun s =>
    let attempts := match s.ha.takeover with | some t => t.attempts | none => 1
    let s := (s.event 0x0503 0 1 attempts role.toNat pstate.toNat).modSnw fun w => { w with
      peerHeld := true, heldAt := s.dt, evrAvail := min 1024 records, peerEvents := [] }
    match s.ha.takeover with
    | some t => if t.step ≤ 4 then s.readPeerEvents.raiseEpochs 1
                else (s.event 0x0505 0 s.ha.epoch 0 0 0).sendPsb 4 (leBytes 4 s.ha.epoch)
    | none => (s.event 0x0505 0 s.ha.epoch 0 0 0).sendPsb 4 (leBytes 4 s.ha.epoch))

/-- SNW_STAT.FEED: 1 VSTBY, 2 PSB, 3 both. -/
def State.feedNum (s : State) : Nat := bit s.snw.vstby + 2 * bit s.snw.psb

/-- The main supplies are good: the head is not held for want of them (PWRGD). -/
def State.suppliesGood (s : State) : Bool := s.rcc.hold == .run || s.rcc.hold == .warm || s.rcc.fenceHold

/-- STATUS_REQ: STATUS within 1 ms (R334). -/
def execStatusReq (p : Psb) (s : State) : Host.Outcome State Fault Refusal :=
  .next (s.psbFrame p 2 fun s => s.sendPsb 0x82 (leBytes 1 s.feedNum ++ leBytes 1 (bit s.rcc.fenceHold) ++ leBytes 1 (bit s.suppliesGood) ++
    leBytes 1 (roleNum s.ha.role) ++ leBytes 4 s.evr.mirror.length))

/-- STATUS: the records last reported available (SNW_STAT.EVR_AVAIL). -/
def execStatus (p : Psb) (_feed _held _supplies _role : Byte) (records : Nat) (s : State) : Host.Outcome State Fault Refusal :=
  .next (s.psbFrame p 0x82 fun s => s.modSnw fun w => { w with evrAvail := min 1024 records })

/-- EVENTS_REQ: records of the mirror from an index, 0 the oldest, 1 to 32 of them; another count is not answered. -/
def execEventsReq (p : Psb) (first count : Nat) (s : State) : Host.Outcome State Fault Refusal :=
  .next (s.psbFrame p 3 fun s =>
    if count = 0 ∨ count > 32 then s
    else
      let recs := (s.evr.mirror.reverse.drop first).take count
      (s.sendPsb 0x83 []).emit (.events recs))

/-- EVENTS (R336): the peer's records; once all are read event 0x0506, and RELEASE where the takeover is done. -/
def execEvents (p : Psb) (recs : List EvRec) (s : State) : Host.Outcome State Fault Refusal :=
  .next (s.psbFrame p 0x83 fun s =>
    let all := s.snw.peerEvents ++ recs
    let s := s.modSnw fun w => { w with peerEvents := all.take 1024 }
    if recs ≠ [] ∧ all.length < s.snw.evrAvail then s.readPeerEvents
    else
      let first := match all with | r :: _ => r.seq | [] => 0
      let last := match all.reverse with | r :: _ => r.seq | [] => 0
      let s := (s.event 0x0506 0 all.length first last 0).modSnw fun w => { w with evrAvail := min w.evrAvail all.length }
      s.releasePeer)

/-- RELEASE (R335): the hold ends; the head starts from cold boot once it is released. -/
def execPsbRelease (p : Psb) (_epoch : Nat) (s : State) : Host.Outcome State Fault Refusal :=
  .next (s.psbFrame p 4 fun s => (s.modRcc fun r => { r with fenceHold := false }).sendPsb 0x84 [])

/-- RELEASED: this head no longer holds the peer. -/
def execReleased (p : Psb) (s : State) : Host.Outcome State Fault Refusal :=
  .next (s.psbFrame p 0x84 fun s => s.modSnw fun w => { w with peerHeld := false })

/-- PSB_REJECT_LIMIT (R345): after 16 rejected frames in a window the PSB is ignored for 1 s. -/
def execPsbRejectLimit (s : State) : Host.Outcome State Fault Refusal :=
  .next (if s.snw.rejWin = secOf s.dt ∧ s.snw.rejCount ≥ 16 ∧ s.snw.ignoreUntil.isNone then
    s.modSnw fun w => { w with ignoreUntil := some (s.dt + secNs 1) } else s)

/-- PSB_IGNORE_END. -/
def execPsbIgnoreEnd (s : State) : Host.Outcome State Fault Refusal :=
  match s.snw.ignoreUntil with
  | none => .next s
  | some t => .next ((s.advanceTo t).modSnw fun w => { w with ignoreUntil := none, rejCount := 0 })

/-- ISLAND_FEED (R331): event 0x0501; with neither feed the island loses the pair key, the counters, its mirror and the hold. -/
def execIslandFeed (vstby psb : Bool) (s : State) : Host.Outcome State Fault Refusal :=
  let old := s.feedNum
  let s1 := s.modSnw fun w => { w with vstby := vstby, psb := psb }
  if s1.feedNum = old then .next s
  else if s1.feedNum = 0 then
    .next ((s1.modSnw fun _ => {}).modEvr (fun e => { e with mirror := [] }) |>.modRcc fun r => { r with fenceHold := false })
  else .next (s1.event 0x0501 0 old s1.feedNum 0 0)

end Sys2Proof.Machine
end

