-- ==== Sys2Proof/Machine/Failback.lean ====
section
/-! DEFINITION. Chapter 11: failback (R340 to R343), on the survivor's side and on the returning head's. -/

namespace Sys2Proof.Machine

open Sys2Proof

/-! ## Conditions (R340) -/

/-- The preferred head of a group is B (R311). -/
def Ha.prefersB (h : Ha) (g : Nat) : Bool := h.pref.contains g

/-- Firmware compatibility (R344): majors equal, and each minor at least the other's lowest compatible minor. -/
def compatible (ownFw : BitVec 24) (ownMin : BitVec 8) (peerFw peerMin : Nat) : Bool :=
  ownFw.toNat / 65536 == peerFw / 65536 && decide (peerMin ≤ ownFw.toNat / 256 % 256) && decide (ownMin.toNat ≤ peerFw / 256 % 256)

def State.fwOk (s : State) : Bool :=
  match s.rot.image with
  | some i => compatible i.fwver i.compatMinor s.ha.peerFw s.ha.peerCompat
  | none => false

/-- Groups of the survivor that prefer the peer. -/
def State.peerGroups (s : State) : List Nat :=
  (List.range 256).filter fun g => (s.leaseOf g).view != 0 && s.ha.prefersB g != s.glb.headB

/-- The conditions of R340 that the survivor can see; the self-test and the filter copies of the returning head show in its role and
in the copies this head knows to be in step (log entry 52). -/
def State.failbackReady (s : State) : Bool :=
  s.ha.role == .survivor && s.ha.peerRole == .standby && s.wc.mirrorSt == .mirrored && s.fwOk &&
  s.ha.peerCepoch == s.cfg.epoch % 2 ^ 32 && !s.ha.plkSilent && !s.ha.mboxSilent && s.ha.takeover.isNone && s.ha.failback.isNone &&
  !s.dxu.doms.any fun d => d.2.peerStale && s.ha.prefersB d.2.group != s.glb.headB

/-- The time since which the conditions hold without a break. -/
def State.refreshStable (s : State) : State :=
  let ok := s.failbackReady
  s.modHa fun h => { h with stableAt := if ok then h.stableAt.orElse fun _ => some s.dt else none }

/-- Failbacks completed in the last 3,600 s (R342). -/
def State.failbackCount (s : State) : Nat := (s.ha.failbacks.filter fun t => decide (t + secNs 3600 > s.dt)).length

/-! ## Dies (R341 steps 2 and 3) -/

/-- The ownership map of a module once its leaving dies are the peer's. -/
def State.splitMap (s : State) (pos : Nat) : BitVec 192 :=
  (List.range 192).foldl (fun m i =>
    let d := s.ftu.die (256 * pos + i)
    let mine := d.own && !d.leaving
    if mine != s.glb.headB then m ||| BitVec.ofNat 192 (2 ^ i) else m) 0

/-- OWNER set of each module whose leaving dies have no reservation and no operation left. -/
def State.returnDies (s : State) : State :=
  let leaving := s.ftu.dies.filter fun d => d.2.leaving && d.2.own
  let mods := (leaving.map fun d => d.1 / 256).eraseDups
  let busy (pos : Nat) : Bool :=
    s.dsc.cal.any (fun r => r.die / 256 == pos && (s.ftu.die r.die).leaving && r.kind != ResvKind.settle && decide (s.dt < r.stop)) ||
    s.link.ops.any fun o => o.2.pos == pos && (o.2.opc == mOwner || (o.2.die != 255 && (s.ftu.die (opDie o.2)).leaving))
  (mods.filter fun m => !busy m && s.moduleUp m).foldl (fun s m => s.sendOwner m (some (s.splitMap m))) s

/-! ## Batches (R341 steps 4 to 8) -/

/-- The batch in hand: the next 16 groups. -/
def Failback.batch (f : Failback) : List Nat := f.groups.take 16

/-- The failback is complete: event 0x0A36. A migration of R405 ends without one. -/
def State.failbackEnd (s : State) (f : Failback) : State :=
  if f.migration then s.modHa fun h => { h with failback := none }
  else
  let groups := ((List.range 256).filter fun g => s.ha.prefersB g != s.glb.headB && (s.leaseOf g).view == 0).length
  let s := s.modHa fun h => { h with failbacks := s.dt :: h.failbacks.filter (fun t => decide (t + secNs 3600 > s.dt)), failback := none,
                                     goDone := false, stableAt := none }
  s.event 0x0A36 0 groups f.dies ((s.dt - f.startAt) / 1000000) s.failbackCount

/-- The next batch: HANDOVER phase 1; its groups answer LEASE_TRANSITION from now on; class 7 commands that wait and writes whose data
has not all come end. -/
def State.nextBatch (s : State) (f : Failback) : State :=
  match f.batch with
  | [] => s.failbackEnd f
  | g :: gs =>
    let batch := g :: gs
    let s := batch.foldl (fun s g => s.modLease g fun l => { l with view := 2 }) s
    let s := s.modHa fun h => { h with failback := some { f with first := g, phase := 1 } }
    let s := (s.leaseNotes batch 1).toPeer (.handover g batch.length 1)
    let hit (c : Cmd) : Bool := c.open_ && c.fwdAt.isNone && (c.waiting7 || (writing c.opc && !c.complete)) &&
      (match s.cmdGroup c with | some x => batch.contains x | none => false)
    (s.cqe.cmds.filter hit).foldl (fun s c => s.failRetry c stLease 1000) s

/-- Step 2: nothing new is reserved on the dies that return. -/
def State.failbackStart (s : State) : State :=
  let groups := s.peerGroups
  let out (d : Die) : Bool := d.own && d.half != s.glb.headB
  let n := (s.ftu.dies.filter fun d => out d.2).length
  let s := s.event 0x0A35 0 groups.length n s.failbackCount 0
  let f : Failback := { startAt := s.dt, first := 0, phase := 0, groups := groups, dies := n }
  let s := (s.modHa fun h => { h with failback := some f }).modFtu fun u => { u with
    dies := u.dies.map fun d => if out d.2 then (d.1, { d.2 with leaving := true }) else d }
  if n = 0 then s.nextBatch f else s.returnDies

/-- FAILBACK_STABLE (R340, R342): the conditions have held for FAILBACK_STABLE_S; at three failbacks in the window event 0x0A37 and
FLAP_HOLD instead. -/
def execFailbackStable (s : State) : Host.Outcome State Fault Refusal :=
  match s.ha.stableAt with
  | none => .next s
  | some t =>
    let s := s.advanceTo (t + secNs s.ha.stableS)
    if !s.failbackReady then .next s
    else
      let n := s.failbackCount
      if n ≥ 3 ∧ !s.ha.goDone then
        .next (if s.ha.flap then s else (s.event 0x0A37 0 n 0 0 0).modHa fun h => { h with flap := true })
      else .next s.failbackStart

/-- A write of PLK_HA_FAILBACK: GO ends the hold; ignored when none is in force. -/
def State.writeFailback (s : State) (v : Nat) : State :=
  if tbit v 31 ∧ s.ha.flap then s.modHa fun h => { h with flap := false, goDone := true } else s

/-- FAILBACK_GO: a CSR_WRITE of PLK_HA_FAILBACK. -/
def execFailbackGo (m : Vc3) (value : Word) (s : State) : Host.Outcome State Fault Refusal :=
  .next (s.regWrite m 0x20200C 2 fun s => s.writeFailback value.toNat)

/-- HANDOVER_DRAINED (R341 steps 5 to 7): no command of the batch is outstanding: phase 2; the batch's frames become mirror entries and
its records are written RELEASED. -/
def execHandoverDrained (first : Nat) (s : State) : Host.Outcome State Fault Refusal :=
  match s.ha.failback with
  | none => .next s
  | some f =>
    let batch := f.batch
    let inBatch (v : Nat) : Bool := match s.cfg.volume v with | some r => batch.contains r.group | none => false
    if f.phase ≠ 1 ∨ f.first ≠ first ∨ s.ha.role ≠ .survivor ∧ s.ha.role ≠ .active ∨ (s.cqe.cmds.any fun c => c.fwdAt.isNone && inBatch c.vol) then .next s
    else
      let s := (s.failJobs fun g => batch.contains g).toPeer (.handover first batch.length 2)
      let mine := s.wc.frames.filter fun x => inBatch x.2.desc.vol
      let s := s.modWc fun w => { w with
        frames := w.frames.filter fun x => !inBatch x.2.desc.vol
        mirror := mine.foldl (fun t x => tput t x.1 { x.2 with st := .dirty, stage := 0, commit := none }) w.mirror }
      let s := s.modHa fun h => { h with failback := some { f with phase := 2 } }
      .next (batch.foldl (fun s g => s.releaseLease g) s)

/-! ## HANDOVER at the other head -/

/-- The groups that a HANDOVER record names: `count` of the receiver's preferred groups from `first` on (log entry 53). -/
def State.handoverBatch (s : State) (first count : Nat) : List Nat :=
  (((List.range 256).filter fun g => decide (first ≤ g) && s.ha.prefersB g == s.glb.headB)).take count

/-- The returning head adopts its mirror entries of the batch as its own DIRTY frames; an entry keeps its index where that is free
(R341 step 6). -/
def Wc.adoptKeep (w : Wc) (i : Nat) (e : Frame) : Wc :=
  if (tget w.frames i).isSome then w.adopt e
  else
    let d := { e.desc with committed := e.desc.present }
    { w with frames := tput w.frames i { e with desc := d, st := .dirty, fp := none, pend := [], mirrored := true, stage := 0, commit := none }
             gen := max w.gen e.desc.gen }

def State.adoptBatch (s : State) (batch : List Nat) : State :=
  let mine (e : Nat × Frame) : Bool := match s.cfg.volume e.2.desc.vol with | some v => batch.contains v.group | none => false
  s.modWc fun w => { ((w.mirror.filter mine).foldl (fun w e => w.adoptKeep e.1 e.2) w) with mirror := w.mirror.filter fun e => !mine e }

/-- Every group of the batch has been taken by the returning head: HANDOVER phase 3 and the notice (R341 step 7). -/
def State.batchTaken (s : State) (f : Failback) : State :=
  let old := s.ha.role
  let s := ((s.leaseNotes f.groups 3).leaseMoved f.groups s.peerNum s.headNum).leaseNotice f.groups s.peerNum s.headNum 2
  let s := (s.modHa fun h => { h with failback := none, role := .active }).toPeer (.handover f.first f.groups.length 3)
  if old = .active then s else s.peerNotice s.headNum (roleNum old) 1 4

/-- HANDOVER (R318, R341). -/
def execHandover (h : RecHdr) (first count : Nat) (phase : Byte) (s : State) : Host.Outcome State Fault Refusal :=
  .next (s.peerRecord 0x0C h fun s =>
    let p := phase.toNat
    if p = 1 ∧ s.ha.role = .standby ∨ p = 1 ∧ s.ha.role = .active then
      s.modHa fun h => { h with failback := some { startAt := s.dt, first := first, phase := 1, groups := s.handoverBatch first count, dies := 0 } }
    else match s.ha.failback with
      | none => s
      | some f =>
        if f.first ≠ first then s
        else if p = 2 then (s.adoptBatch f.groups).modHa fun h => { h with failback := some { f with phase := 2 } }
        else if p = 3 ∧ f.phase = 2 then
          let batch := f.batch
          let s := batch.foldl (fun s g => s.modLease g fun l => { l with view := 0, holder := 3 - s.me }) s
          let s := (s.leaseMoved batch s.headNum s.peerNum).leaseNotice batch s.headNum s.peerNum 2
          let old := s.ha.role
          let s := s.modHa fun h => { h with role := .active }
          let s := if old = .active then s else s.peerNotice s.headNum (roleNum old) 1 4
          s.nextBatch { f with groups := f.groups.drop 16 }
        else s)

end Sys2Proof.Machine
end

