-- ==== Sys2Proof/Machine/Bridges.lean ====
section
/-! DEFINITION. Chapter 11: the bridges' answers to LEASE_CAS, EPOCH and OWNER (R326, R329, R312), and the mailbox (R320, R324). -/

namespace Sys2Proof.Machine

open Sys2Proof

/-! ## Leases (R326 to R328) -/

/-- Every group of a takeover that is still to be taken has been. -/
def State.takeoverTaken (s : State) (t : Takeover) : Bool := t.groups.all fun g => (s.leaseOf g).view != 0

/-- All groups are the survivor's; in a peer's P4 its dies are waited for (R339). -/
def State.takeoverGroupsIn (s : State) (t : Takeover) : State :=
  if t.mode = 5 ∧ s.ha.role ≠ .survivor then (s.gainGroups t.groups 5).modTakeover fun k => { k with step := 8 }
  else s.takeoverDone t

/-- A group's record has been taken on a majority: it is part of a takeover, of a failback batch, or taken at start or from a peer
that lost it (R315, R318, R339). -/
def State.groupTaken (s : State) (g old : Nat) : State :=
  match s.ha.takeover with
  | some t => if t.step = 6 ∧ s.takeoverTaken t then s.takeoverGroupsIn t else s
  | none =>
    match s.ha.failback with
    | some f =>
      if f.phase = 2 ∧ f.groups.contains g then
        (if f.groups.all fun x => (s.leaseOf x).view != 0 then s.batchTaken f else s)
      else s.leaseNotes [g] 3
    | none =>
      let src := if old = 0 then 0xFF else old - 1
      let s := (s.leaseNotes [g] 3).leaseMoved [g] src s.headNum
      let s := if old = 3 - s.me then s.leaseNotice [g] src s.headNum 3 else s
      let role := s.ha.role
      if (role = .starting ∧ s.wc.mirrorSt = .mirrored) ∨ role = .standby then s.modHa fun h => { h with role := .active } else s

/-- A bridge has accepted a HELD record of this head; with the majority the lease stands from the round's sending (R327).
`old`: the majority's holder before it. -/
def State.leaseAccepted (s : State) (g pos old : Nat) : State :=
  let l := s.leaseOf g
  let yes := if l.yes.contains pos then l.yes else pos :: l.yes
  let s := s.modLease g fun l => { l with yes := yes }
  if yes.length < s.leaseNeed g then s
  else
    let s := s.modLease g fun l => { l with
      view := if l.view = 2 then 2 else 1, accepted := yes.length, sentAt := some l.roundAt, holder := s.me, rseq := s.ha.nextRseq g - 1 }
    let s := if s.ha.renewDue ≤ s.dt then s.modHa fun h => { h with renewDue := s.dt + msNs 25 } else s
    if l.view = 0 ∧ g < 256 then s.groupTaken g old else s

/-- A bridge has accepted a RELEASED record; with the majority the peer is told. The last answer lets a HELD entry or a yield go on
(R316, R324). -/
def State.leaseReleased (s : State) (g pos : Nat) : State :=
  let l := s.leaseOf g
  let yes := if l.yes.contains pos then l.yes else pos :: l.yes
  let s := s.modLease g fun l => { l with yes := yes }
  let s := if g < 256 ∧ yes.length = s.ha.majority then s.leaseNotes [g] 2 else s
  if s.casOpen then s
  else if s.ha.yieldSt = 2 then s.warmReset
  else if s.ha.goingHeld ∧ s.ha.held = [] then s.nowHeld
  else s

/-- The renewals of a peer declared failed still advance (R323): event 0x0A3B, the declaration is withdrawn. -/
def State.withdraw (s : State) (g pos rseq : Nat) : State :=
  let s := s.event 0x0A3B 0 g 1 rseq pos
  let s := s.modHa fun h => { h with takeover := none, peerFailed := false }
  if s.wc.mirrorSt = .mirrored then s.setMirror .stalled 1 else s

/-- A record read that stayed as it was, or did not, since this head's first read of it (R328). -/
def State.watchRecord (s : State) (t : Takeover) (g pos : Nat) (cur : Lease) : State :=
  match t.waits.find? fun w => w.1 == g && w.2.1 == pos with
  | none =>
    if cur.st = 1 ∧ cur.holder.toNat = 3 - s.me then s.modTakeover fun k => { k with waits := k.waits ++ [(g, pos, cur, s.dt)] } else s
  | some w => if w.2.2.1 = cur then s else if t.step ≤ 4 then s.withdraw g pos cur.rseq else s

/-- A CAS whose expected record did not match, or that found the peer's record valid. -/
def State.leaseRefused (s : State) (g pos : Nat) (cur : Lease) : State :=
  let l := s.leaseOf g
  let s := s.modLease g fun l => { l with cause := 2 }
  let theirs := decide (cur.st = 1 ∧ cur.holder.toNat = 3 - s.me)
  if l.view ≠ 0 then
    (if theirs ∧ g < 256 then s.disagreement 5 (s.leaseOf g).rseq cur.rseq else s)
  else if !l.asked.contains pos then s
  else if !theirs then
    s.sendCas pos g cur ⟨BitVec.ofNat 8 s.me, 1, 150, s.ha.epoch, max (s.ha.nextRseq g) (cur.rseq + 1)⟩
  else
    match s.ha.takeover with
    | some t => if t.step = 6 then s.event 0x0A3B 0 g 2 cur.rseq pos else s
    | none => s.modLease g fun l => { l with asked := l.asked.filter (· != pos) }

/-- LEASE_CAS_RESPONSE (R326): every answer carries the current record. -/
def execLeaseCasResponse (pos : Fin 96) (tag : Word) (status : BitVec 16) (hdrOk : Bool) (cur : Lease) (s : State) :
    Host.Outcome State Fault Refusal :=
  .next (s.mediaAnswer pos.val tag.toNat mCas status.toNat hdrOk (fun _ s => s) fun o s =>
    match o.work with
    | .lease g =>
      if status = 2 then
        (s.modLease g fun l => { l with cause := 3 }).epochStale pos.val mCas (tgetD s.ha.epochAt pos.val 0)
      else
        let s := match s.ha.takeover with
          | some t => if g < 256 ∧ (s.leaseOf g).view = 0 ∧ t.step ≤ 4 then s.watchRecord t g pos.val cur else s
          | none => s
        let old := (s.leaseOf g).holder
        let s := s.modHa fun h => h.see g pos.val cur
        if status = 0 then
          (if cur.st = 1 ∧ cur.holder.toNat = s.me then s.leaseAccepted g pos.val old
           else if cur.st = 2 ∧ cur.holder.toNat = s.me then s.leaseReleased g pos.val else s)
        else if status = 8 then s.leaseRefused g pos.val cur
        else s
    | _ => s)

/-! ## The fencing epoch (R329) and ownership (R312) -/

/-- EPOCH_RESPONSE: the epoch of a bridge. In step 5 of a takeover its dies are gained, and with the last bridge step 6 follows; a bridge
that lags is raised (R344). -/
def execEpochResponse (pos : Fin 96) (tag : Word) (status : BitVec 16) (hdrOk : Bool) (epoch : Nat) (s : State) : Host.Outcome State Fault Refusal :=
  .next (s.mediaAnswer pos.val tag.toNat mEpoch status.toNat hdrOk (fun _ s => s) fun o s =>
    let s := s.modHa fun h => { h with epochAt := tput h.epochAt pos.val epoch }
    if status = 2 ∧ o.arg = 1 then s.epochStale pos.val mEpoch epoch
    else if status ≠ 0 then s
    else if o.arg = 1 then
      match s.ha.takeover with
      | some t =>
        if t.step ≠ 5 then s
        else
          let s := s.gainModule pos.val
          if s.epochOpen then s else s.takePeerGroups t.mode
      | none => s
    else if epoch > s.ha.epoch ∧ !s.rot.ready then s.modHa fun h => { h with epoch := epoch }
    else if epoch < s.ha.epoch then (s.disagreement 6 s.ha.epoch epoch).sendEpoch pos.val true
    else s)

/-- The default split (R312): even dies to head A. -/
def evenMap : BitVec 192 := (List.range 96).foldl (fun m i => m ||| BitVec.ofNat 192 (2 ^ (2 * i))) 0

/-- The declared split of a module (R312). -/
def Cfg.splitOf (c : Cfg) (pos : Nat) : BitVec 192 := match c.find 0x19 pos with | some (.dieSplit m) => m | _ => evenMap

/-- What a bridge's map says about the dies of its module. -/
def State.applyOwner (s : State) (pos : Nat) (map : BitVec 192) : State :=
  let set (d : Nat × Die) : Nat × Die :=
    if d.1 / 256 ≠ pos then d
    else
      let own := map.getLsbD (d.1 % 256) != s.glb.headB
      (d.1, { d.2 with own := own, leaving := d.2.leaving && own })
  (s.modHa fun h => { h with owner := tput h.owner pos map }).modFtu fun f => { f with dies := f.dies.map set }

/-- OWNER_RESPONSE (R312): the map in force. A module whose map has never been written gets the declared split from head A (log entry
54). In a failback the last die gone starts the first batch (R341). -/
def execOwnerResponse (pos : Fin 96) (tag : Word) (status : BitVec 16) (hdrOk : Bool) (map : BitVec 192) (s : State) :
    Host.Outcome State Fault Refusal :=
  .next (s.mediaAnswer pos.val tag.toNat mOwner status.toNat hdrOk (fun _ s => s) fun o s =>
    if status = 2 then s.epochStale pos.val mOwner (tgetD s.ha.epochAt pos.val 0)
    else if status ≠ 0 then s
    else if o.arg = 0 ∧ map = 0 ∧ s.cfg.splitOf pos.val ≠ 0 ∧ !s.glb.headB then s.sendOwner pos.val (some (s.cfg.splitOf pos.val))
    else
      let s := (s.applyOwner pos.val map).refreshPools
      match s.ha.failback with
      | some f => if f.phase = 0 ∧ !(s.ftu.dies.any fun d => d.2.leaving) then s.nextBatch f else s
      | none => s)

/-! ## Paths (R321) -/

/-- A path is fresh again: event 0x0A30, the notice for the peer link, a yield offer withdrawn. -/
def State.pathFresh (s : State) (mailbox : Bool) : State :=
  let h := s.ha
  let was := if mailbox then h.mboxSilent else h.plkSilent
  let last := if mailbox then h.mboxAt else h.plkAt
  let s := s.modHa fun h => if mailbox then { h with mboxAt := some s.dt, mboxSilent := false }
    else { h with plkAt := some s.dt, plkSilent := false, yieldSt := if h.yieldSt = 1 then 0 else h.yieldSt }
  match was, last with
  | true, some t =>
    let s := s.event 0x0A30 0 (if mailbox then 2 else 1) 0 (roleNum h.peerRole) ((s.dt - t) / 1000000)
    if mailbox then s else s.peerNotice s.peerNum (roleNum h.peerRole) (roleNum h.peerRole) 6
  | _, _ => s

/-- PATH_SILENT (R321): 30 ms without a fresh heartbeat on a path: event 0x0A30; on the peer link also the notice. -/
def execPathSilent (mailbox : Bool) (s : State) : Host.Outcome State Fault Refusal :=
  let h := s.ha
  let last := if mailbox then h.mboxAt else h.plkAt
  let silent := if mailbox then h.mboxSilent else h.plkSilent
  match last with
  | none => .next s
  | some t =>
    if silent ∨ s.rcc.hold ≠ .run then .next s
    else
      let s := s.advanceTo (t + msNs 30)
      let s := s.modHa fun h => if mailbox then { h with mboxSilent := true } else { h with plkSilent := true }
      let s := s.event 0x0A30 0 (if mailbox then 2 else 1) 1 (roleNum h.peerRole) ((s.dt - t) / 1000000)
      .next (if mailbox then s else s.peerNotice s.peerNum (roleNum h.peerRole) (roleNum h.peerRole) 5)

/-! ## The peer's role and state as reported -/

/-- The peer is found HELD (R338): treated as failed and fenced; takeover at step 5. -/
def State.peerFoundHeld (s : State) : State :=
  if s.ha.peerFailed ∨ s.ha.readyAt.isNone ∨ s.ha.role = .held ∨ s.ha.bridges = [] then s
  else ((s.startTakeover 5 3).endForwarded).raiseEpochs 3

/-- The peer vaults (R339): it has written its records RELEASED, and this head takes its groups at once. -/
def State.peerVaults (s : State) : State :=
  if s.ha.peerFailed ∨ s.ha.readyAt.isNone ∨ s.ha.bridges = [] ∨ s.ha.role = .held ∨ s.pmu.pstate = .p4 then s
  else ((s.startTakeover 6 5).endForwarded).takePeerGroups 5

/-- The peer's vault is SEALED: its dies are taken (R339). -/
def State.peerSealed (s : State) : State :=
  match s.ha.takeover with
  | some t => if t.mode = 5 ∧ t.step = 8 then s.raiseEpochs 5 else s
  | none => s

/-- The peer enters or leaves P3 (R431): the mirror state is NONE while it sleeps. Events' causes for that change are not listed: a free
value (log entry 10). -/
def State.peerP3 (s : State) (mailbox on : Bool) : State :=
  let s := s.modHa fun h => if mailbox then { h with peerP3Mbox := on } else { h with peerP3Plk := on }
  if on ∧ s.wc.mirrorSt = .mirrored then (s.setMirror .none (s.freeNat 32)).freshen else s

/-- Role, power state and flags that a heartbeat of either path reports. -/
def State.peerReports (s : State) (mailbox : Bool) (role pstate flags cepoch : Nat) : State :=
  let old := s.ha.peerRole
  let new := roleOf role
  let s := s.modHa fun h => { h with peerRole := new, peerPstate := pstate, peerFlags := flags, peerCepoch := cepoch }
  let s := s.peerP3 mailbox (pstate == 3)
  let s := if old ≠ new ∧ new = .held then s.peerNotice s.peerNum (roleNum old) 4 7 else s
  let s := if new = .held then s.peerFoundHeld else s
  let s := if pstate = 4 ∧ tbit flags 2 then s.peerVaults else s
  if tbit flags 3 then s.peerSealed else s

/-! ## The mailbox (R320, R324) -/

/-- The bytes of this head's slot (R320). -/
def State.slotBytes (s : State) (flags : Nat) : Bytes :=
  let fw := match s.rot.image with | some i => i.fwver.toNat | none => 0
  let compat := match s.rot.image with | some i => i.compatMinor.toNat | none => 0
  let b := leBytes 4 0x58424D48 ++ leBytes 1 s.headNum ++ leBytes 1 (roleNum s.ha.role) ++ leBytes 1 (pstateNum s.pmu.pstate) ++
    leBytes 1 flags ++ leBytes 8 s.ha.hbseq ++ leBytes 4 s.ha.epoch ++ leBytes 4 s.cfg.epoch ++ leBytes 4 fw ++ leBytes 8 s.ha.nonce ++
    leBytes 2 s.ha.held.length ++ leBytes 1 s.ha.yieldSt ++ leBytes 1 compat ++ leBytes 20 0
  b ++ leBytes 4 (crc32c b).toNat

/-- Both heads offer to yield, or the peer yields (R324): the head with fewer groups yields, at equality the lower NONCE; event 0x0A3A.
The other takes over when it sees YIELD 2. -/
def State.judgeYield (s : State) (old : Nat) : State :=
  let h := s.ha
  if h.yieldSt = 1 ∧ h.peerYield = 2 then
    (if h.peerFailed then s else ((s.startTakeover 5 4).endForwarded).raiseEpochs 4)
  else if h.yieldSt = 1 ∧ h.peerYield = 1 ∧ old ≠ 1 then
    let mine := h.held.length
    let go := decide (mine < h.peerGroups ∨ (mine = h.peerGroups ∧ h.nonce < h.peerNonce))
    let s := s.event 0x0A3A 0 (bit go) h.nonce h.peerNonce mine
    if go then s.yieldNow else s
  else s

/-- Firmware outside the window (R344): the head that holds no lease goes HELD; where neither holds one, the lower version. -/
def State.judgeFw (s : State) : State :=
  match s.rot.image with
  | none => s
  | some i =>
    if s.fwOk ∨ s.ha.disagree = 2 ∨ s.ha.peerFw = 0 then s
    else
      let s := (s.disagreement 2 i.fwver.toNat s.ha.peerFw).modHa fun h => { h with disagree := 2 }
      let mine := s.ha.held.length
      if mine = 0 ∧ (s.ha.peerGroups > 0 ∨ i.fwver.toNat < s.ha.peerFw) then s.goHeld 2 else s

/-- The peer's slot gives how many groups it holds: where that is every group this head does not hold and none is moving, the
peer owns them, though its LEASE_NOTEs went out before this head listened (DEDUCED from R94 check 12 and R320). -/
def State.learnOwners (s : State) : State :=
  if s.ha.held.length + s.ha.peerGroups = 256 ∧ s.ha.failback.isNone ∧ s.ha.takeover.isNone ∧ s.ha.yieldSt = 0 ∧ s.ha.peerYield = 0 ∧ !s.ha.peerFailed then
    (List.range 256).foldl (fun s g => if (s.leaseOf g).view = 0 ∧ (s.leaseOf g).holder = 0 then s.modLease g fun l => { l with holder := 3 - s.me } else s) s
  else s

/-- MBOX_RESPONSE (R320, R321): the answer to a write of the own slot, or the peer's slot. HBSEQ that differs from the last read of the
bridge is a fresh heartbeat. -/
def execMboxResponse (pos : Fin 96) (tag : Word) (status : BitVec 16) (hdrOk : Bool) (slot : MboxSlot) (s : State) : Host.Outcome State Fault Refusal :=
  .next (s.mediaAnswer pos.val tag.toNat mMbox status.toNat hdrOk (fun _ s => s) fun o s =>
    if status ≠ 0 ∨ o.arg = 0 ∨ !slot.crcOk ∨ slot.head = s.glb.headB then s
    else if tget s.ha.mboxHb pos.val = some slot.hbseq then s
    else
      let old := s.ha.peerYield
      let s := (s.pathFresh true).modHa fun h => { h with
        mboxHb := tput h.mboxHb pos.val slot.hbseq, peerNonce := slot.nonce, peerGroups := slot.groups, peerYield := slot.yieldSt.toNat
        peerFw := slot.fwver.toNat, peerCompat := slot.compatMinor.toNat }
      (((s.peerReports true slot.role.toNat slot.pstate.toNat slot.flags.toNat slot.cepoch).judgeFw).judgeYield old).learnOwners)

/-- YIELD_TIMER (R324): the peer link path has been silent for YIELD_MS while the mailbox path is fresh; 0 disables it. -/
def execYieldTimer (s : State) : Host.Outcome State Fault Refusal :=
  match s.ha.plkAt with
  | none => .next s
  | some t =>
    if s.ha.yieldMs = 0 ∨ !s.ha.plkSilent ∨ s.ha.mboxSilent ∨ s.ha.yieldSt ≠ 0 ∨ s.ha.peerFailed ∨ s.ha.role = .held then .next s
    else .next (((s.advanceTo (t + msNs (30 + s.ha.yieldMs))).modHa fun h => { h with yieldSt := 1 }).judgeYield 0)

end Sys2Proof.Machine
end

