-- ==== Sys2Proof/Machine/Records.lean ====
section
/-! DEFINITION. Chapter 11: the VC4 records of the peer (R317 to R319, R345) but for HEARTBEAT, and the reads it reserves (R314). -/

namespace Sys2Proof.Machine

open Sys2Proof

/-- MIRROR_ACK (R138): of a copy that is awaited; of another it is a violation. -/
def execMirrorAck (h : RecHdr) (frame gen : Nat) (_mask : BitVec 8) (s : State) : Host.Outcome State Fault Refusal :=
  .next (s.peerRecord 2 h fun s =>
    let held : Bool := match tget s.wc.frames frame with | some f => f.desc.gen == gen && !f.mirrored | none => false
    if !held ∧ !(s.cqe.cmds.any fun c => c.acks.contains (frame, gen)) ∧ !s.wc.resync.contains (frame, gen) then s.peerViolation 2 h.word0.toNat
    else ((s.mirrorAcked frame gen).pokeResync).pokeCaws.runJobs)

/-- MIRROR_META (R319). -/
def execMirrorMeta (h : RecHdr) (frame gen : Nat) (cid qp : BitVec 16) (cepoch : Nat) (mask : BitVec 8) (s : State) : Host.Outcome State Fault Refusal :=
  .next (s.peerRecord 3 h fun s => s.mirrorMetaIn frame gen cid.toNat qp.toNat cepoch mask.toNat)

/-- An entry of the mirror area that a record names. -/
def State.mirrorNamed (s : State) (frame gen : Nat) : Bool :=
  match tget s.wc.mirror frame with | some f => f.desc.gen == gen | none => false

/-- RELEASE (R20). -/
def execRelease (h : RecHdr) (frame gen : Nat) (s : State) : Host.Outcome State Fault Refusal :=
  .next (s.peerRecord 4 h fun s => if s.mirrorNamed frame gen then s.releaseMirror frame gen else s.peerViolation 4 h.word0.toNat)

/-- DISCARD (R140): the copy goes and DISCARD_ACK answers. -/
def execDiscard (h : RecHdr) (frame gen : Nat) (s : State) : Host.Outcome State Fault Refusal :=
  .next (s.peerRecord 5 h fun s =>
    if s.mirrorNamed frame gen then (s.modWc fun w => w.discardMirror frame gen).toPeer (.discardAck frame gen)
    else s.peerViolation 5 h.word0.toNat)

/-- DISCARD_ACK. -/
def execDiscardAck (h : RecHdr) (frame gen : Nat) (s : State) : Host.Outcome State Fault Refusal :=
  .next (s.peerRecord 6 h fun s => (s.discardAcked frame gen).pokeCaws)

/-- FILTER_SLOT (R190). -/
def execFilterSlot (h : RecHdr) (domain bucket slot : Nat) (tag : BitVec 16) (_kind : Byte) (iseq : Nat) (s : State) : Host.Outcome State Fault Refusal :=
  .next (s.peerRecord 7 h fun s => s.applySlot domain bucket slot tag.toNat iseq)

/-- DRB_SET (R274): a region of the peer's half is held for it, and acknowledged. -/
def execDrbSet (h : RecHdr) (pool slot region segSeq rseq : Nat) (s : State) : Host.Outcome State Fault Refusal :=
  .next (s.peerRecord 8 h fun s =>
    let here (d : DrbSlot) : Bool := d.peers && d.pool == pool && d.slot == slot
    let old := match s.pxe.drb.find? here with | some d => if d.segSeq = segSeq then d.regions else 0 | none => 0
    let d : DrbSlot := { pool := pool, slot := slot, segSeq := segSeq, lgen := 0, regions := old ||| BitVec.ofNat 256 (2 ^ region), rseq := rseq, peers := true }
    (s.modPxe fun p => { p with drb := p.drb.filter (fun x => !here x) ++ [d] }).toPeer (.drbAck pool rseq))

/-- DRB_ACK: the peer holds the region; programs of it may go (R274). -/
def execDrbAck (h : RecHdr) (pool rseq : Nat) (s : State) : Host.Outcome State Fault Refusal :=
  .next (s.peerRecord 9 h fun s =>
    let open_ (d : DrbSlot) : Bool := !d.peers && d.pool == pool && !d.acked
    let hit (d : DrbSlot) : Bool := open_ d && decide (d.rseq ≤ rseq)
    if !s.pxe.drb.any fun d => open_ d && decide (rseq ≤ d.rseq) then s.peerViolation 9 h.word0.toNat
    else s.modPxe fun p => { p with drb := p.drb.map fun d => if hit d then { d with acked := true } else d })

/-- No copy of a domain of a group is LOADING or REBUILDING on this head (R192). -/
def State.copiesReady (s : State) (g : Nat) : Bool :=
  !s.dxu.doms.any fun d => d.2.group == g && (d.2.st == .loading || d.2.st == .rebuilding)

/-- Take the groups of a failback batch that the survivor has released, where the copies of their domains are ready (R192, R341). -/
def State.takeBatch (s : State) (groups : List Nat) : State :=
  match s.ha.failback with
  | some f =>
    if f.phase = 2 then
      (groups.filter fun g => f.groups.contains g && s.ha.prefersB g == s.glb.headB && (s.leaseOf g).view == 0 && (s.leaseOf g).holder == 0 &&
        s.copiesReady g).foldl (fun s g => s.takeLease g) s
    else s
  | none => s

/-- LEASE_NOTE (R318, R339): what the peer does with its groups. Released groups are taken in a failback batch and in the peer's P4;
lost ones after T_W. -/
def execLeaseNote (h : RecHdr) (first count : Nat) (action : Byte) (_epoch : Nat) (s : State) : Host.Outcome State Fault Refusal :=
  .next (s.peerRecord 0x0B h fun s =>
    let groups := ((List.range 256).filter fun g => decide (first ≤ g ∧ g < first + count)).filter fun g => (s.leaseOf g).view == 0
    let holder := if action = 3 then 3 - s.me else 0
    let s := groups.foldl (fun s g => s.modLease g fun l => { l with holder := holder }) s
    if action = 2 then
      match s.ha.failback, s.ha.takeover with
      | some _, none => s.takeBatch groups
      | _, some t => if t.mode = 5 ∧ t.step = 6 then groups.foldl (fun s g => s.takeLease g) s else s
      | none, none => s
    else if action = 4 ∧ s.mayLease then
      let s := s.modHa fun h => { h with lostWaits := h.lostWaits ++ groups.map fun g => (g, s.dt) }
      groups.foldl (fun s g => (s.reachable g).foldl (fun s p => s.readLease p g) s) s
    else s)

/-- PARTITION_REFILLED (R183): LOADING or REBUILDING ends; events 0x1008 and 0x1001, the notice. Groups of a failback batch that waited
for it are taken (R192). -/
def execPartitionRefilled (domain entries : Nat) (s : State) : Host.Outcome State Fault Refusal :=
  match tget s.dxu.doms domain with
  | none => .next s
  | some d =>
    if d.st ≠ .loading ∧ d.st ≠ .rebuilding then .next s
    else
      let r := refill (fescueN d.capLog2) d.log s.fresh
      let s := (s.setFresh r.2).modDomain domain fun d => { d with slots := r.1, peerStale := false }
      let s := (s.event 0x1008 domain domain (lo32 entries) ((s.dt - d.since) / 1000000) (if d.st = .loading then 1 else 2)).setDomain domain .active 2
      .next (s.takeBatch [d.group])

/-! ## Reads reserved for the peer (R314) -/

/-- PEER_RESERVE: the element and its opening on the own die, at the first time inside the window; refused where none fits, and for a
die this head does not own, which is a violation. -/
def execPeerReserve (h : RecHdr) (tag : Word) (die units earliestOff latestOff : Nat) (s : State) : Host.Outcome State Fault Refusal :=
  .next (s.peerRecord 0x0F h fun s =>
    let refuse (s : State) : State := s.toPeer (.peerGrant tag.toNat none 0)
    if !(s.ftu.die die).own then refuse (s.peerViolation 0x0F h.word0.toNat)
    else if (s.ftu.die die).leaving ∨ units = 0 ∨ units > 32 ∨ s.pmu.pstate = .p4 ∨ s.dbg.level ≥ 2 ∨ s.dbg.action.isSome ∨ s.dt < s.dsc.closedUntil then refuse s
    else
      let ty := s.ftu.dieType die
      let last := s.dt + latestOff - 1000
      match earliest (s.dsc.ofDie die) s.dt (up100 (s.dt + earliestOff)) (costE ty units 0) (costE ty units 1)
          (fun c len => decide (c < last) && s.hostFits s.dsc die c len) with
      | none => refuse s
      | some (c, sus, len) =>
        (s.modDsc fun d => d.putRead die c sus len (.peerRead tag.toNat) 32 units 0 none).toPeer (.peerGrant tag.toNat (some (c - s.dt)) (len / 100)))

/-- The command whose PEER_RESERVEs have all been answered is decided. -/
def State.askAnswered (s : State) (tag : Nat) (grant : Option (Nat × Nat)) : State :=
  match s.dsc.asks.find? fun a => a.tag == tag && !a.answered with
  | none => s
  | some a =>
    let s := s.modDsc fun d => { d with asks := d.asks.map fun x => if x.tag == tag then { x with answered := true, grant := grant } else x }
    if s.dsc.asks.any fun x => x.qp == a.qp && x.cid == a.cid && !x.answered then s
    else match s.cqe.cmd a.qp a.cid with
      | some c => if c.open_ ∧ (!c.admitted ∨ c.waiting7) then s.decideCmd c else s
      | none => s.modDsc fun d => { d with asks := d.asks.filter fun x => !(x.qp == a.qp && x.cid == a.cid) }

/-- PEER_GRANT (R314): the start counts from this head's DT at receipt; all ones is a refusal. -/
def execPeerGrant (h : RecHdr) (tag : Word) (start : BitVec 64) (len100 : Nat) (s : State) : Host.Outcome State Fault Refusal :=
  .next (s.peerRecord 0x10 h fun s =>
    s.askAnswered tag.toNat (if start = BitVec.allOnes 64 then none else some (s.dt + start.toNat, 100 * len100)))

/-- PEER_GRANT_TIMEOUT: 2.0 µs without a grant: no path through that die. -/
def execPeerGrantTimeout (tag : Word) (s : State) : Host.Outcome State Fault Refusal :=
  match s.dsc.asks.find? fun a => a.tag == tag.toNat && !a.answered with
  | none => .next s
  | some a => .next ((s.advanceTo (a.sentAt + 2000)).askAnswered tag.toNat none)

/-! ## Restart and resynchronisation -/

/-- REPLAY_DONE (R156): the peer's replay has finished; restored entries of its frames go, and its copies follow as in RESYNC. -/
def execReplayDone (h : RecHdr) (_vseq : Nat) (s : State) : Host.Outcome State Fault Refusal :=
  .next (s.peerRecord 0x11 h fun s => if s.wc.keepRestored then s.modWc fun w => { w with mirror := [], keepRestored := false } else s)

/-- RESYNC_DONE (R144): the peer has copied every live frame; this head's mirror area is whole, and it is MIRRORED. -/
def execResyncDone (h : RecHdr) (_frames : Nat) (s : State) : Host.Outcome State Fault Refusal :=
  .next (s.peerRecord 0x12 h fun s => if s.wc.mirrorSt = .none ∧ s.ha.paired then s.setMirror .mirrored 5 else s)

/-- PEER_PORT_VIOLATION_LIMIT (R345): more than 64 violations in a window: the lanes go DOWN for the first backoff of 10 ms, whatever
failed before. -/
def execPeerPortViolationLimit (s : State) : Host.Outcome State Fault Refusal :=
  if (s.link.port .peer).violCount ≤ 64 then .next s
  else
    let s := s.modPort .peer fun q => { q with violCount := 0 }
    .next ((s.link.portLanes .peer).foldl (fun s n =>
      if (s.link.lane n).st = .idle then s
      else (s.setLane n .down 9).modLane n fun l => { l with backoff := msNs 10, fails := 1 }) s)

end Sys2Proof.Machine
end

