-- ==== Sys2Proof/Machine/Declare.lean ====
section
/-! DEFINITION. Chapter 14: a record set and its delta (R400), and the checks that refuse a record (R402, R403, R405 steps 2 and 3),
each owning chapter's among them. -/

namespace Sys2Proof.Machine

open Sys2Proof

/-! ## Record sets (R400) -/

/-- Ascending order of (TYPE, KEY). -/
def recBefore (a b : CfgRec) : Bool := decide (a.typ < b.typ ∨ (a.typ = b.typ ∧ a.key < b.key))

def recNamed (r : CfgRec) (typ key : Nat) : Bool := r.typ == typ && r.key == key

/-- Put one record into a set in canonical order. -/
def putRec (r : CfgRec) : List CfgRec → List CfgRec
  | [] => [r]
  | x :: xs => if recBefore r x then r :: x :: xs else if recNamed x r.typ r.key then r :: xs else x :: putRec r xs

/-- The set that a delta makes of another; the snapshots of a removed volume go with it (R403). -/
def applyDelta (base : List CfgRec) (delta : List CfgRec) : List CfgRec :=
  let rs := delta.foldl (fun rs r => if r.put then putRec r rs else rs.filter fun x => !recNamed x r.typ r.key) base
  rs.filter fun r => r.typ != 0x16 || rs.any fun v => recNamed v 0x15 (r.key / 2 ^ 32)

/-- The first record that breaks canonical order, repeats a (TYPE, KEY), or removes in a complete set. -/
def disorder (complete : Bool) : Nat → Option CfgRec → List CfgRec → Option Nat
  | _, _, [] => none
  | i, last, r :: rs =>
    let late : Bool := match last with | some l => !recBefore l r | none => false
    if late || (complete && !r.put) then some i else disorder complete (i + 1) (some r) rs

/-- The (TYPE, KEY) whose records differ between two sets. -/
def changedKeys (old new : List CfgRec) : List (Nat × Nat) :=
  ((old.filter fun r => !new.contains r) ++ (new.filter fun r => !old.contains r && !old.any fun o => recNamed o r.typ r.key)).map fun r => (r.typ, r.key)

/-! ## Fields -/

/-- K and S with their defaults (R265); S is read as 8 bits (log entry 55). -/
def poolKs (k s : Nat) : Nat × Nat := (if k = 0 then 16 else k, if s = 0xFF then 2 else s)

structure ModuleRec where
  serial : Nat
  typ : Nat
  failPos : Nat
  dies : Nat
  reuse : Bool
  deriving DecidableEq, Repr

def Cfg.module (c : Cfg) (pos : Nat) : Option ModuleRec :=
  match c.find 0x11 pos with | some (.module s t f d r) => some ⟨s, t, f, d, r⟩ | _ => none

/-- K, S, SEED and MODULES of a pool, with the defaults. -/
def Cfg.poolDecl (c : Cfg) (p : Nat) : Option (Nat × Nat × BitVec 64 × List Nat) :=
  match c.find 0x12 p with | some (.pool k s seed ms _ _) => some ((poolKs k s).1, (poolKs k s).2, seed, ms) | _ => none

def Cfg.dieTypeRec (c : Cfg) (t : Nat) : Option DieType := match c.find 0x10 t with | some (.dieType d) => some d | _ => none

/-- Every die type declared, by its index. -/
def Cfg.dieTypes (c : Cfg) : Tbl DieType :=
  c.recs.filterMap fun r => match r.body with | some (.dieType d) => some (r.key, d) | _ => none

/-- The ARRAY record: identity, L, bridge set. -/
def Cfg.arrayRec (c : Cfg) : Option (Nat × Nat × List Nat) := match c.find 1 0 with | some (.array i l b) => some (i, l, b) | _ => none

/-- The wrapped keys of a record, and whether each is an XTS key of two halves (R406). -/
def keysOf : CfgBody → List (WrappedKey × Bool)
  | .pool _ _ _ _ km dk => [(km, true), (dk, true)]
  | .domain _ _ _ _ fk dk => [(fk, false), (dk, true)]
  | .replJob _ _ _ _ _ _ _ jk => [(jk, false)]
  | .vaultKey w => [(w, true)]
  | _ => []

/-- The KEK envelope of this head: AKEK_ID and its unwrap. -/
def State.kekOf (s : State) (c : Cfg) : Option (Nat × WrappedKey) :=
  match c.find 4 s.rot.serial with | some (.kek i w) => some (i, w) | _ => none

/-! ## Refusals -/

/-- A refused record: its TYPE and KEY, the event code of its owning chapter (0 where it has none), and the events' instance and
parameters. -/
structure CfgFault where
  typ : Nat
  key : Nat
  code : Nat := 0
  events : List (Nat × Nat × Nat × Nat × Nat) := []
  deriving DecidableEq, Repr

def plainFault (typ key : Nat) : Option CfgFault := some { typ := typ, key := key }

def eventFault (typ key code inst p0 p1 p2 p3 : Nat) : Option CfgFault :=
  some { typ := typ, key := key, code := code, events := [(inst, p0, p1, p2, p3)] }

/-- The first of two. -/
def orFault (a : Option CfgFault) (b : Unit → Option CfgFault) : Option CfgFault := match a with | some f => some f | none => b ()

/-- A value outside a range, with the limit it breaks. -/
def outOf (v lo hi : Nat) : Option (Nat × Nat) := if v < lo then some (v, lo) else if v > hi then some (v, hi) else none

/-! ## Die types (R108, R220, R349) -/

/-- Largest power of two below a value. -/
def powBelow (v : Nat) : Nat := ((List.range 16).map fun i => 2 ^ i).foldl (fun m x => if x < v then max m x else m) 1

/-- Parameters outside their limits: index, value, limit, in the order of R108 and R220. -/
def timingFaults (d : DieType) : List (Nat × Nat × Nat) :=
  let cycle := cycleNs d / 100
  let rng (i v lo hi : Nat) : List (Nat × Nat × Nat) := match outOf v lo hi with | some x => [(i, x.1, x.2)] | none => []
  let top (i v : Nat) : List (Nat × Nat × Nat) := if v > 25600 then [(i, v, 25600)] else []
  let pblk : List (Nat × Nat × Nat) :=
    if 64 ≤ d.pBlk ∧ d.pBlk ≤ 1024 ∧ !((List.range 11).map fun i => 2 ^ i).contains d.pBlk then [(9, d.pBlk, powBelow d.pBlk)] else rng 9 d.pBlk 64 1024
  rng 0 d.tR 50 600 ++ rng 1 d.tSUS 10 200 ++ rng 2 d.tRES 10 200 ++ top 3 (d.tPROG + d.sProg * cycle) ++ top 4 (d.tBERS + d.sErase * cycle) ++
    rng 5 d.sProg 4 16 ++ rng 6 d.sErase 4 24 ++ rng 7 d.planes 4 4 ++ rng 8 d.page 16384 16384 ++ pblk ++ rng 10 d.nBlk 256 8192 ++
    rng 11 d.peRated 500 100000 ++ rng 12 d.refreshBits 1 255

/-- The energy parameters are in range (R349). -/
def energyOk (d : DieType) : Bool :=
  [d.pProg, d.pBers, d.pRead].all (fun p => decide (1 ≤ p ∧ p ≤ 1000)) && decide (1 ≤ d.pIdle ∧ d.pIdle ≤ 100000)

/-! ## Class tables (R103) -/

def fixedBounds : List (Nat × Nat) := [(250, 40), (400, 60), (700, 100), (1500, 250)]

/-- A class table holds for die types: the fixed bounds, the ranges, MISS_MIN and WRITE_MIN. -/
def classTableOk (rows : List ClassRow) (types : List DieType) : Bool :=
  decide (rows.length = 8) && (rows.take 4).map (fun r => (r.readUs, r.writeUs)) == fixedBounds &&
  ((rows.drop 4).take 3).all (fun r => decide (250 ≤ r.readUs ∧ r.readUs ≤ 2300 ∧ 40 ≤ r.writeUs ∧ r.writeUs ≤ 1000)) &&
  (rows.take 7).all fun r => decide (writeMin ≤ usNs r.writeUs) && types.all fun d => decide (missMin d ≤ usNs r.readUs)

/-! ## The dirty limit (R148, R149) -/

/-- D of R148 in bytes. -/
def vaultBytes (l : Nat) : Nat := 2 * l * 2 ^ 30 + 2 * l * 2 ^ 22 + 2 ^ 28

/-- T_V in ms for a declaration of `n` modules with the longest program time `tProg` in 0.1 µs. -/
def vaultMsOf (l n tProg : Nat) : Nat := 20 + ceilDiv (vaultBytes l * tProg * 18) (16 * n * 65536 * 16 * 10000)

/-- Longest program time among the die types of the declared modules. -/
def Cfg.longestProg (c : Cfg) : Nat :=
  (c.modules.map fun p => match (c.module p).bind fun m => c.dieTypeRec m.typ with | some d => d.tPROG | none => 0).foldl max 0

/-- The conditions of R149 for a limit of 1 GiB or more. -/
def limitOk (l wc h n tProg : Nat) : Bool :=
  decide (vaultMsOf l n tProg + 200 ≤ h) && decide (l ≤ (2 * wc - 1) * 128 / 257) && decide (18 ≤ n)

def largestLimit (wc h n tProg : Nat) : Nat := ((List.range 257).filter fun l => decide (1 ≤ l) && limitOk l wc h n tProg).foldl max 0

/-! ## Volumes, snapshots, jobs -/

/-- Depth of a chain of clones (R298). -/
def Cfg.chainDepth (c : Cfg) : Nat → Nat → Nat
  | 0, _ => 0
  | n + 1, v => match c.volume v with | some r => if r.kind = 3 then 1 + c.chainDepth n r.source else 0 | none => 0

/-- A view of a snapshot that is declared. -/
def Cfg.viewOf (c : Cfg) (vol snap : Nat) : Option Nat := (c.volumesWhere fun v => v.kind == 2 && v.source == vol && v.snap == snap).head?

/-- Snapshots that a set creates: declared, and not held yet. -/
def State.newSnaps (s : State) (c : Cfg) : List (Nat × Nat) :=
  c.recs.filterMap fun r =>
    if r.typ == 0x16 && (s.snap.find (r.key / 2 ^ 32) (r.key % 2 ^ 32)).isNone then some (r.key / 2 ^ 32, r.key % 2 ^ 32) else none

/-- A volume that this head does not know yet: its volume epoch has never been set. -/
def State.newVolume (s : State) (v : Nat) : Bool := (tget s.snap.ve v).isNone

/-! ## Changes allowed (R402, R403) -/

/-- The peer is declared failed or HELD. -/
def State.peerAway (s : State) : Bool := s.ha.peerFailed || s.ha.peerRole == .held

/-- A position is released: LOST, and no segment of any generation names it (R271). -/
def State.released (s : State) (pool pos : Nat) : Bool :=
  s.memberSt pos == .lost && !s.ftu.segs.any fun g => g.pool == pool && (match tget s.pxe.layouts pool with | some l => (l.list g.lgen).contains pos | none => false)

/-- Why a domain that exists may not become another (R175): reason 5 with the new and the old value. -/
def domainChange (key : Nat) (a b : CfgBody) : Option CfgFault :=
  match a, b with
  | .domain p g c _ fk dk, .domain p' g' c' _ fk' dk' =>
    let five (x y : Nat) : Option CfgFault := eventFault 0x14 key 0x1009 key key 5 x y
    if p ≠ p' then five p' p else if g ≠ g' then five g' g else if c ≠ c' then five c' c
    else if fk.key ≠ fk'.key then five 0 0 else if dk.key ≠ dk'.key then plainFault 0x14 key else none
  | _, _ => plainFault 0x14 key

/-- A snapshot may be deleted (R301). -/
def State.deleteFault (s : State) (new : Cfg) (vol id : Nat) : Option CfgFault :=
  let key := 2 ^ 32 * vol + id
  match new.viewOf vol id with
  | some v => eventFault 0x16 key 0x1462 0 vol id 2 v
  | none =>
    match s.snap.jobs.find? fun j => (j.2.st == .queued || j.2.st == .running) && j.2.role == 1 && j.2.vol == vol && (j.2.snapA == id || j.2.snapB == id) with
    | some j => eventFault 0x16 key 0x1462 0 vol id 3 j.1
    | none => none

/-- R402's last column for a record in force that a set changes or leaves out. -/
def State.changeFault (s : State) (old new : Cfg) (typ key : Nat) : Option CfgFault :=
  match old.find typ key with
  | none => none
  | some o =>
    let n := new.find typ key
    if typ = 0x16 then (if n.isNone then s.deleteFault new (key / 2 ^ 32) (key % 2 ^ 32) else none)
    else if n = some o then none
    else
      let no := plainFault typ key
      let ok : Option CfgFault := none
      match typ, o, n with
      | 1, .array i _ _, some (.array j _ _) => if i = j then ok else no
      | 1, _, _ => no
      | 2, _, _ => if s.peerAway then ok else no
      | 0x10, _, _ => if new.recs.any fun r => match r.body with | some (.module _ t _ _ _) => t == key | _ => false then no else ok
      | 0x11, _, some _ => no
      | 0x11, _, none => if (new.poolOf key).isSome then no else ok
      | 0x12, .pool k s' seed ms km dk, some (.pool k' s'' seed' ms' km' dk') =>
        let same := decide (poolKs k s' = poolKs k' s'' ∧ seed = seed' ∧ km.key = km'.key ∧ dk.key = dk'.key)
        if same && ms.all (fun m => ms'.contains m || s.released key m) then ok else no
      | 0x12, _, some _ => no
      | 0x12, _, none =>
        let used := new.recs.any fun r => match r.body with
          | some (.volume v) => v.pool == key
          | some (.domain p _ _ _ _ _) => p == key
          | _ => false
        if used then no else ok
      | 0x13, _, some _ => eventFault 0x13 key 0x1106 0 (key / 256) (key % 256) 3 (key % 256)
      | 0x13, _, none => if (new.find 0x12 (key / 256)).isSome then no else ok
      | 0x14, _, some b => domainChange key o b
      | 0x14, _, none => if (new.volumesWhere fun v => v.domain == some key) ≠ [] then no else ok
      | 0x15, .volume a, some (.volume b) =>
        let same := decide (a.kind = b.kind ∧ a.pool = b.pool ∧ a.group = b.group ∧ a.domain = b.domain ∧ a.source = b.source ∧ a.snap = b.snap)
        if same && decide (a.sectors ≤ b.sectors) then ok else no
      | 0x1C, .vaultKey a, some (.vaultKey b) => if a.key = b.key then ok else no
      | 0x1C, _, _ => no
      | _, _, _ => ok

/-! ## Contents -/

/-- ARRAY (R149, R325). -/
def State.arrayFault (s : State) (new : Cfg) (l : Nat) (bridges : List Nat) : Option CfgFault :=
  let spread := (bridges.filterMap fun p => (new.module p).map (·.failPos)).eraseDups
  if bridges ≠ [] ∧ (!([3, 5, 7].contains bridges.length) ∨ spread.length ≠ bridges.length) then plainFault 1 0
  else
    let n := new.modules.length
    let t := new.longestProg
    if l = 0 ∨ limitOk l s.wc.sizeGib s.wc.holdup n t then none
    else eventFault 1 0 0x1441 0 l (if n = 0 then s.freeNat 16 else vaultMsOf l n t) s.wc.holdup (largestLimit s.wc.sizeGib s.wc.holdup n t)

/-- POOL (R265): the reasons in list order, each with the value and the limit it breaks. -/
def poolFault (new : Cfg) (key k0 s0 : Nat) (ms : List Nat) : Option CfgFault :=
  let (k, sp) := poolKs k0 s0
  let f (reason v l : Nat) : Option CfgFault := eventFault 0x12 key 0x1309 key key reason v l
  let other := ms.findSome? fun m => new.recs.findSome? fun r => match r.body with
    | some (.pool _ _ _ ms' _ _) => if r.key ≠ key ∧ ms'.contains m then some (m, r.key) else none | _ => none
  if key > 15 then f 1 key 15
  else match outOf k 6 22 with
    | some x => f 1 x.1 x.2
    | none =>
      if sp > 4 then f 1 sp 4
      else if ms.length < 1 then f 1 ms.length 1
      else if ms.length > 96 ∨ ms.eraseDups.length ≠ ms.length then f 1 ms.length 96
      else match ms.find? fun m => !new.moduleDeclared m with
        | some m => f 1 m 95
        | none =>
          match other with
          | some x => f 2 x.1 x.2
          | none =>
            if ms.length < k + 2 + sp then f 3 ms.length (k + 2 + sp)
            else
              let spread := (ms.filterMap fun m => (new.module m).map (·.failPos)).eraseDups.length
              if spread < 3 then f 4 spread 3 else none

/-- DICTIONARY (R204). -/
def dictFault (new : Cfg) (key : Nat) (b : Bytes) (crc : Word) : Option CfgFault :=
  let f (reason v : Nat) : Option CfgFault := eventFault 0x13 key 0x1106 0 (key / 256) (key % 256) reason v
  let all := new.recs.filterMap fun r => match r.body with | some (.dictionary x _) => some x.length | _ => none
  if crc32c b ≠ crc then f 1 crc.toNat
  else if (new.find 0x12 (key / 256)).isNone then f 2 (key / 256)
  else if b.length < 1 ∨ b.length > 32768 then f 2 b.length
  else if all.length > 512 then f 4 all.length
  else if lsum all > 2 ^ 24 then f 4 (lsum all)
  else none

/-- DOMAIN (R175). -/
def State.domainFault (s : State) (new : Cfg) (key pool group cap : Nat) : Option CfgFault :=
  let f (reason v l : Nat) : Option CfgFault := eventFault 0x14 key 0x1009 key key reason v l
  let room := match s.mcu.sizes with | some z => z.filter * 2 ^ 29 | none => 0
  let all := lsum (new.recs.filterMap fun r => match r.body with | some (.domain _ _ c _ _ _) => some (2 ^ min c 40) | _ => none)
  if key > 4095 then f 1 key 4095
  else if (new.find 0x12 pool).isNone then f 1 pool 15
  else if group > 255 then f 1 group 255
  else match outOf cap 16 38 with
    | some x => f 1 x.1 x.2
    | none =>
      match (new.volumesWhere fun v => v.domain == some key && (v.group != group || v.pool != pool)).head?.bind new.volume with
      | some v => if v.group ≠ group then f 2 v.group group else f 2 v.pool pool
      | none => if all > min (2 ^ 38) room then f 4 all (min (2 ^ 38) room) else none

/-- VOLUME (R205, R297, R298, R299, R303, R403). -/
def State.volumeFault (s : State) (old new : Cfg) (key : Nat) (v : VolumeRec) : Option CfgFault :=
  let no := plainFault 0x15 key
  let f (reason x : Nat) : Option CfgFault := eventFault 0x15 key 0x1462 0 v.source v.snap reason x
  let dictOk : Bool := match v.dict with | some d => (new.find 0x13 (256 * v.pool + d)).isSome | none => true
  let domOk : Bool := match v.domain with | some d => (new.find 0x14 d).isSome | none => true
  let src := (new.volume v.source).orElse fun _ => old.volume v.source
  if tget s.cfg.volumes key = some .deleting ∨ key > 65535 ∨ v.kind < 1 ∨ v.kind > 5 ∨ v.group > 255 ∨ (new.find 0x12 v.pool).isNone ∨ !dictOk ∨ !domOk then no
  else if v.kind = 4 ∨ v.kind = 5 then (if v.sectors = 2 ^ 45 then none else no)
  else if v.kind = 1 ∨ !s.newVolume key then none
  else match src with
    | none => no
    | some r =>
      if v.kind = 2 then
        (if (new.find 0x16 (2 ^ 32 * v.source + v.snap)).isNone then no
         else if r.pool ≠ v.pool then f 5 v.pool else if r.group ≠ v.group then f 5 v.group else none)
      else
        let ready : Bool := match s.snap.find v.source v.snap with | some x => x.st == .ready | none => false
        let depth := new.chainDepth 18 key
        if !ready then f 4 (match s.snap.find v.source v.snap with | some x => snapStNum x.st | none => s.freeNat 32)
        else if r.pool ≠ v.pool then f 5 v.pool else if r.domain ≠ v.domain then f 5 (v.domain.getD 0xFFFF) else if r.group ≠ v.group then f 5 v.group
        else if v.sectors < volSectors r then no
        else if depth > 16 then f 1 depth else none

/-- SNAPSHOT (R290, R299): one that a set creates. -/
def State.snapFault (s : State) (new : Cfg) (key : Nat) : Option CfgFault :=
  let vol := key / 2 ^ 32
  let id := key % 2 ^ 32
  let f (x : Nat) : Option CfgFault := eventFault 0x16 key 0x1462 0 vol id 1 x
  match new.volume vol with
  | none => plainFault 0x16 key
  | some v =>
    match s.snap.find vol id with
    | some x => if (s.cfg.find 0x16 key).isNone ∧ (x.st = .hidden ∨ x.st = .deleting) then plainFault 0x16 key else none
    | none =>
      if v.kind ≠ 1 ∧ v.kind ≠ 3 then plainFault 0x16 key
      else
        let news := s.newSnaps new
        let live := s.snap.snaps.filter fun x => x.st != .released
        let here := (live.filter fun x => x.vol == vol).length + (news.filter fun x => x.1 == vol).length
        if here > 1024 then f here
        else if live.length + news.length > 262144 then f (live.length + news.length)
        else if news.length > 4096 then f news.length else none

/-- REPL_JOB (R302). -/
def jobFault (new : Cfg) (key role vol a b portal block : Nat) (k : WrappedKey) : Option CfgFault :=
  let no := plainFault 0x17 key
  let declared (id : Nat) : Bool := (new.find 0x16 (2 ^ 32 * vol + id)).isSome
  let clash := new.recs.any fun r => match r.body with | some (.domain _ _ _ _ fk _) => fk.key == k.key | _ => false
  match new.volume vol, new.volume portal with
  | some v, some p =>
    if key > 255 ∨ (role ≠ 1 ∧ role ≠ 2) ∨ block < 1 ∨ block > 8 ∨ p.kind ≠ 3 + role ∨ p.group ≠ v.group ∨ clash then no
    else if role = 1 ∧ !(declared b && (a == 0xFFFFFFFF || declared a)) then no else none
  | _, _ => no

/-- The head as it would be with a set's die types, modules and their dies. -/
def State.withModules (s : State) (new : Cfg) : State :=
  let fresh : Tbl Die := new.modules.flatMap fun p =>
    match new.module p with
    | some m => (List.range m.dies).filterMap fun d =>
        let n := 256 * p + d
        if (tget s.ftu.dies n).isSome then none else some (n, ({ typ := m.typ, half := d % 2 == 1 } : Die))
    | none => []
  let s := s.modFtu fun f => { f with types := new.dieTypes, dies := fresh.foldl (fun t d => tput t d.1 d.2) f.dies }
  s.modCfg fun c => { c with recs := new.recs }

/-- What the owning chapter says of a record of the new set. -/
def State.contentFault (s : State) (old new : Cfg) (r : CfgRec) : Option CfgFault :=
  let no := plainFault r.typ r.key
  let at0 (f : Option CfgFault) : Option CfgFault := if r.key = 0 then f else no
  match r.typ, r.body with
  | 1, some (.array _ l bs) => at0 (s.arrayFault new l bs)
  | 2, some (.peer _) => at0 none
  | 3, some (.anchor u _) => if 16 ≤ r.key ∧ r.key ≤ 63 ∧ u.toNat < 8 then none else no
  | 4, some (.kek _ _) => none
  | 0x10, some (.dieType d) =>
    if r.key > 15 then no
    else match timingFaults d with
      | [] =>
        let image := match s.rot.image with | some i => i.classTable | none => s.dsc.classes
        if !energyOk d ∨ ((new.find 0x1A 0).isNone ∧ !classTableOk image [d]) then no else none
      | fs => some { typ := 0x10, key := r.key, code := 0x0D07, events := fs.map fun x => (0, r.key, x.1, x.2.1, x.2.2) }
  | 0x11, some (.module _ t f d _) => if r.key ≤ 95 ∧ (new.dieTypeRec t).isSome ∧ f ≤ 31 ∧ 1 ≤ d ∧ d ≤ 192 then none else no
  | 0x12, some (.pool k sp _ ms _ _) => poolFault new r.key k sp ms
  | 0x13, some (.dictionary b crc) => dictFault new r.key b crc
  | 0x14, some (.domain p g c _ _ _) => s.domainFault new r.key p g c
  | 0x15, some (.volume v) => s.volumeFault old new r.key v
  | 0x16, some .snapshot => s.snapFault new r.key
  | 0x17, some (.replJob role vol a b portal block _ k) => jobFault new r.key role vol a b portal block k
  | 0x18, some (.leasePref _) => at0 none
  | 0x19, some (.dieSplit _) => if r.key ≤ 95 then none else no
  | 0x1A, some (.classTable rows) => at0 (if classTableOk rows (new.dieTypes.map (·.2)) then none else no)
  | 0x1B, some (.power p) =>
    let t := s.withModules new
    let reason := t.powerRefusal p
    at0 (if reason = 0 then none else eventFault 0x1B 0 0x0806 0 p.pb (ceilDiv (t.pIdleT + t.uMin) 1000) reason 0)
  | 0x1C, some (.vaultKey _) => at0 none
  | _, _ => no

/-- Step 3's unwrapping (R406): the AKEK with this head's wrap key, then every wrapped key; an XTS key of equal halves. A new AKEK_ID
wants every wrapped key again. At D2 and D3 nothing is unwrapped (R423). -/
def State.keyFault (s : State) (old new : Cfg) (delta : List CfgRec) (r : CfgRec) : Option CfgFault :=
  let bad (k : Nat) : Option CfgFault := eventFault r.typ r.key 0x060A 0 r.typ r.key k 0
  let kek := s.kekOf new
  let able := !s.rot.wrapErased && decide (s.dbg.level < 2) && (match kek with | some k => k.2.ok | none => false)
  let rewrap : Bool := match s.kekOf old, kek with | some a, some b => a.1 != b.1 | _, _ => false
  match r.body with
  | none => none
  | some (.kek _ w) => if r.key = s.rot.serial ∧ !(w.ok && !s.rot.wrapErased) then bad 1 else none
  | some b =>
    let ks := keysOf b
    if ks = [] then none
    else if !able ∨ ks.any (fun k => !k.1.ok) ∨ (rewrap ∧ !delta.any fun d => recNamed d r.typ r.key) then bad 1
    else if ks.any (fun k => k.2 && k.1.key.take 32 == k.1.key.drop 32) then bad 2 else none

/-! ## The whole set -/

/-- The first refused record of a set in canonical order: changes, contents, then keys. -/
def State.setFault (s : State) (old new : Cfg) (delta : List CfgRec) : Option CfgFault :=
  let keys := ((old.recs.filter fun r => !new.recs.any fun n => recNamed n r.typ r.key) ++ new.recs).foldl (fun rs r => putRec r rs) []
  orFault (keys.findSome? fun r => orFault (s.changeFault old new r.typ r.key) fun _ =>
      if new.recs.any fun n => recNamed n r.typ r.key then s.contentFault old new r else none)
    fun _ => new.recs.findSome? fun r => s.keyFault old new delta r

/-- The position in the delta of the record that causes a refusal (R405): the refused record itself, or the first whose presence makes
it refused; all ones where no record does. -/
def State.faultIndex (s : State) (old : Cfg) (base delta : List CfgRec) (complete : Bool) (f : CfgFault) : Nat :=
  match delta.findIdx? fun r => recNamed r f.typ f.key with
  | some i => i
  | none =>
    if complete then 0xFFFFFFFF
    else ((List.range delta.length).find? fun i =>
      let part := delta.take (i + 1)
      match s.setFault old { old with recs := applyDelta base part } part with
      | some g => g.typ == f.typ && g.key == f.key | none => false).getD 0xFFFFFFFF

end Sys2Proof.Machine
end

