-- ==== Sys2Proof/Machine/Horizon.lean ====
section
/-! DEFINITION. FRAME_ENTERS_HORIZON (R107, R117, R125, R127, R351): the 20 µs rhythm of the calendars and of background work. -/

namespace Sys2Proof.Machine

open Sys2Proof

/-- The calendars at the start of a frame: the entering frame gets its shares and limit; the frame 8 ahead opens destage's
unplanned budget, the frame 32 ahead turns share time into slack; what is past is dropped. -/
def State.enterFrame (s : State) (e : Nat) : State :=
  let now := frameOf s.dt
  let p4 := s.pmu.pstate == .p4
  let limit := if s.gov.mode = .off ∨ p4 then none else some (s.gov.bOwn.toNat)
  let fb : FrameBud := { shares := s.dsc.shareCur, limit := limit, vaultTime := p4 }
  let past := (s.dsc.bud (now - 1)).pxe
  let s := s.modDsc fun d =>
    let d := { d with
      frames := tput (d.frames.filter fun f => decide (now ≤ f.1)) e fb
      lastFrame := e
      cal := d.cal.filter fun r => decide (s.dt < r.stop) || (!r.issued && r.kind != ResvKind.settle && r.kind != ResvKind.busy && r.kind != ResvKind.opening) }
    (d.modBud (now + 8) fun b => { b with heldOpen := true }).modBud (now + 32) fun b => { b with slack := true }
  let s := s.modGov fun g => { g with frame := g.bOwn }
  s.modPxe fun p =>
    if p.busyWin = secOf s.dt then { p with busyNow := p.busyNow + past }
    else { p with busyWin := secOf s.dt, busyPrev := p.busyNow, busyNow := past }

/-- Copies of rebuilt cells that are placed nowhere yet (R279). -/
def State.replaceCells (s : State) : State :=
  s.pxe.rebuild.foldl (fun s r => (r.2.cells.filter fun c => c.target.isSome && c.got != []).foldl (fun s c =>
    match c.target with
    | some t =>
      if s.underWay (.cellWrite r.1 c.die c.chunk) then s
      else (s.placeOp t.1 .program (.cellWrite r.1 c.die c.chunk) (some 1)).2
    | none => s) s) s

/-- Background work of one frame: destage, the programs of issued stripes, XOR rows, GC, erases, recovery, scrub, rebuild,
snapshot deletion, replication, class 7. In P4 only the vault runs (R151); in P3 and at D2 and D3 nothing does (R424, R429). -/
def State.background (s : State) : State :=
  if s.pmu.pstate = .p4 ∨ s.pmu.pstate = .p3 ∨ (s.pmu.trans.any fun t => t.target == 3) ∨ s.ha.stale ∨ !s.rot.ready ∨ s.dbg.level ≥ 2 ∨ s.dbg.action.isSome then s
  else
    let s := s.refreshPools.destageNow
    let s := (s.ftu.stripes.filter (·.issued)).foldl (fun s t => match s.stripeOf t.num with | some t => s.planStripe t | none => s) s
    let s := s.planRows
    let s := (s.ftu.halves.filter fun h => s.holdsHalf h.headB).foldl (fun s h => s.gcHalf h) s
    let s := s.eraseNow.recoverNow.scrubNow
    let s := s.pxe.rebuild.foldl (fun s r => s.rebuildNow r.1) s
    let s := s.replaceCells.deleteSnaps.runJobs.returnDies
    (s.cqe.cmds.filter fun c => c.waiting7).foldl (fun s c => match s.cqe.cmd c.qp c.cid with | some c => s.retry7 c | none => s) s

/-- FRAME_ENTERS_HORIZON: DT reaches the next multiple of 20 µs. -/
def execFrameEntersHorizon (s : State) : Host.Outcome State Fault Refusal :=
  let e := s.entering
  .next (((s.advanceTo (20000 * (frameOf s.dt + 1))).enterFrame e).background)

end Sys2Proof.Machine
end

