-- ==== Sys2Proof/Machine/Switch.lean ====
section
/-! DEFINITION. Chapter 14: the switch (R410) and what it brings into force: modules and pools (R265, R266, R271), keys (R406), domains
(R175), volumes and their states (R413), snapshots and clones (R290, R298, R301), replication jobs (R304), the class table (R131), the
dirty limit (R149, R150), the power record (R349), bridges and preferences (R311, R325), and the migrations of R405. -/

namespace Sys2Proof.Machine

open Sys2Proof

/-! ## Heartbeats on the peer link (R318, R410) -/

/-- FLAGS of a heartbeat: PLK_HEARD, MBOX_HEARD, VAULTING, SEALED. -/
def State.hbFlags (s : State) : Nat :=
  let p4 := s.pmu.pstate == .p4
  bit (!s.ha.plkSilent) + 2 * bit (!s.ha.mboxSilent) + 4 * bit (p4 && s.wc.frozen) + 8 * bit (p4 && s.wc.vaultDone)

/-- A HEARTBEAT record under the next HBSEQ. -/
def State.sendHeartbeat (s : State) : State :=
  let s := s.modHa fun h => { h with hbseq := h.hbseq + 1 }
  let b : HbBody := {
    hbseq := lo32 s.ha.hbseq, fepoch := s.ha.epoch, cepoch := lo32 s.cfg.epoch, role := BitVec.ofNat 8 (roleNum s.ha.role)
    pstate := BitVec.ofNat 8 (pstateNum s.pmu.pstate), flags := BitVec.ofNat 16 s.hbFlags, dt := s.dt, wall := BitVec.ofInt 32 s.cfg.wall }
  if s.portUp .peer then s.toPeer (.heartbeat b) else s

/-! ## Measurements (R385) -/

/-- Extend a measurement with a digest. -/
def State.extend (s : State) (m : Nat) (d : Bytes) : State :=
  s.modRot fun r => { r with meas := lmod r.meas m fun x => sha384 (x ++ d) }

/-! ## Modules and pools -/

/-- A module enters its pool (R271): PRESENT where its lane is ACTIVE, else ABSENT; event 0x1301 and the record to the peer. -/
def State.enterMember (s : State) (pool pos : Nat) : State :=
  let up := s.moduleUp pos && !(tgetD s.link.modules pos {}).quarantined
  let st : MemberSt := if up then .present else .absent
  let m : Member := { pool := pool, st := st, absentAt := s.dt, downAt := if up then none else some s.dt }
  ((s.event 0x1301 pos pos pool 0 (memberStNum st)).modPxe fun p => { p with members := tput p.members pos m }).toPeer (.memberState pos pool (memberStNum st))

/-- Modules declared and removed: their dies, their lanes in and out of QUARANTINE (R50, R412), the epoch and ownership map of their
bridges (R312, R329). A new module's dies are halved by the declared split (R312). -/
def State.applyModules (s : State) (old : Cfg) : State :=
  let new := s.cfg
  let s := s.withModules new
  let fresh := new.modules.filter fun p => !old.modules.contains p
  let gone := old.modules.filter fun p => !new.modules.contains p
  let used (d : Nat) : Bool := s.ftu.segs.any fun g => new.poolOf (d / 256) == some g.pool
  let halve (d : Nat × Die) : Nat × Die :=
    if used d.1 ∨ !fresh.contains (d.1 / 256) then d else (d.1, { d.2 with half := !(new.splitOf (d.1 / 256)).getLsbD (d.1 % 256) })
  let s := s.modFtu fun f => { f with dies := (f.dies.filter fun d => !gone.contains (d.1 / 256)).map halve }
  let s := gone.foldl (fun s p =>
    let n := s.link.mediaMap.getD p (32 + p)
    let s := s.modPxe fun x => { x with members := tdel x.members p }
    if (s.link.lane n).st = .active then (s.event 0x0B02 p p n 0 0).setLane n .quarantine 8 else s) s
  fresh.foldl (fun s p =>
    let n := s.link.mediaMap.getD p (32 + p)
    let s := if (s.link.lane n).st = .quarantine ∧ !(tgetD s.link.modules p {}).quarantined then s.setLane n .active 8 else s
    if s.moduleUp p then (s.sendEpoch p false).sendOwner p none else s) s

/-- One declared pool: its layout and this head's half; new members enter and one generation follows (R266); released positions
leave. Members kept through a reset come back with their lanes. -/
def State.applyPool (s : State) (old : Cfg) (p : Nat) : State :=
  match s.cfg.poolDecl p with
  | none => s
  | some (k, sp, seed, ms) =>
    let fresh := (tget s.pxe.layouts p).isNone
    let was : Layout := tgetD s.pxe.layouts p { k := k, s := sp, seed := seed, modules := ms }
    let s := s.modPxe fun x => { x with
      layouts := tput x.layouts p { was with k := k, s := sp, seed := seed, modules := ms }
      members := x.members.filter fun m => !(m.2.pool == p && !ms.contains m.1) }
    let h : Half := { pool := p, headB := s.glb.headB, st := .undeclared }
    let s := if (s.ftu.half p s.glb.headB).isSome then s else s.modFtu fun f => { f with halves := f.halves ++ [h] }
    let added := ms.filter fun m => (tget s.pxe.members m).isNone
    let s := added.foldl (fun s m => s.enterMember p m) s
    let s := (ms.filter fun m => !added.contains m && old.poolOf m != some p).foldl (fun s m => s.memberReturns m) s
    if fresh ∨ added ≠ [] then (s.newGeneration p).refreshRebuild p else s.refreshPools

/-- A removed pool: its layout, members, segments and remap entries go, and its flash data with them (R402, R412). -/
def State.removePool (s : State) (old : Cfg) (p : Nat) : State :=
  let mine (die : Nat) : Bool := old.poolOf (die / 256) == some p
  let s := s.modPxe fun x => { x with
    layouts := tdel x.layouts p, members := x.members.filter fun m => m.2.pool != p
    drb := x.drb.filter fun d => d.pool != p, drbSeq := tdel x.drbSeq p, rebuild := tdel x.rebuild p
    remaps := x.remaps.filter fun r => !mine r.1 }
  s.modFtu fun f => { f with
    segs := f.segs.filter fun g => g.pool != p, stripes := f.stripes.filter fun t => t.pool != p
    commits := f.commits.filter fun c => c.pool != p, halves := f.halves.filter fun h => h.pool != p
    rows := f.rows.filter fun r => old.poolOf r.pos != some p, backrefs := f.backrefs.filter fun b => !mine b.1 }

def State.applyPools (s : State) (old : Cfg) : State :=
  let s := (old.pools.filter fun p => !s.cfg.pools.contains p).foldl (fun s p => s.removePool old p) s
  s.cfg.pools.foldl (fun s p => s.applyPool old p) s

/-! ## Keys and dictionaries (R406, R409) -/

/-- The XTS key slots of a set: slot and key. -/
def Cfg.keySlots (c : Cfg) : Tbl Bytes :=
  let one (r : CfgRec) : List (Nat × Bytes) := match r.body with
    | some (.domain _ _ _ _ _ k) => [(r.key, k.key)]
    | some (.pool _ _ _ _ m d) => [(4096 + r.key, d.key), (metaSlot r.key, m.key)]
    | some (.vaultKey k) => [(vaultSlot, k.key)]
    | _ => []
  (c.recs.flatMap one).foldl (fun t k => tput t k.1 k.2) []

/-- Domain fingerprint keys and JOB_KEYs of a set. -/
def Cfg.dgeKeys (c : Cfg) : Tbl Bytes × Tbl Bytes :=
  (c.recs.filterMap fun r => match r.body with | some (.domain _ _ _ _ k _) => some (r.key, k.key) | _ => none,
   c.recs.filterMap fun r => match r.body with | some (.replJob _ _ _ _ _ _ _ k) => some (r.key, k.key) | _ => none)

/-- The keys of the set are installed; event 0x1203 when a slot is loaded that did not hold its key. -/
def State.applyKeys (s : State) : State :=
  let slots := s.cfg.keySlots
  let n := (slots.filter fun k => tget s.xts.keys k.1 != some k.2).length
  let s := s.modXts fun x => { x with keys := slots, purged := [], reload := [] }
  let s := s.modDge fun d => { d with fpKeys := s.cfg.dgeKeys.1, jobKeys := s.cfg.dgeKeys.2 }
  let s := s.modRot fun r => { r with akek := (s.kekOf s.cfg).map (·.1) }
  if n = 0 then s else s.event 0x1203 0 n (lo32 s.cfg.epoch) 0 0

/-- Dictionaries are loaded, but for those that are lost (R204, R218). -/
def State.applyDicts (s : State) : State :=
  let ds : Tbl Bytes := s.cfg.recs.filterMap fun r => match r.body with | some (.dictionary b _) => some (r.key, b) | _ => none
  s.modCpe fun c => { c with dicts := ds.filter (fun d => !c.lostDicts.contains d.1), lostDicts := c.lostDicts.filter fun k => ds.any fun d => d.1 == k }

/-! ## Domains (R175) -/

def State.applyDomains (s : State) (old : Cfg) : State :=
  let gone := s.dxu.doms.filter fun d => (old.find 0x14 d.1).isSome && (s.cfg.find 0x14 d.1).isNone
  let s := gone.foldl (fun s d => (s.setDomain d.1 .retiring 5).modDxu fun x => { x with doms := tdel x.doms d.1 }) s
  s.cfg.recs.foldl (fun s r => match r.body with
    | some (.domain p g c v _ _) =>
      (match tget s.dxu.doms r.key with
        | none =>
          let d : Domain := { pool := p, group := g, capLog2 := c, verify := v, st := .undeclared }
          (s.modDxu fun x => { x with doms := tput x.doms r.key d }).setDomain r.key .active 1
        | some d =>
          let s := s.modDomain r.key fun d => { d with verify := v }
          if d.st = .loading ∧ (old.find 0x14 r.key).isNone then
            (s.event 0x1001 r.key r.key 0 (domStNum .loading) 1).modDomain r.key fun d => { d with since := s.dt }
          else s)
    | _ => s) s

/-! ## Volumes, snapshots and clones -/

/-- The VOLUME_STATE notice (R413). -/
def State.volumeNotice (s : State) (v : Nat) (old new : VolSt) : State :=
  s.notifyGranted (fun k _ => k == v) 4 (leBytes 4 v ++ leBytes 1 (volStNum old) ++ leBytes 1 (volStNum new) ++ leBytes 2 0)

/-- A key slot is empty, and is not being loaded again (R409). -/
def State.keyGone (s : State) (slot : Nat) : Bool := (tget s.xts.keys slot).isNone && !s.xts.reload.any fun r => r.1 == slot

/-- The state of a volume (R413): PREPARING until the head is ready, KEY_ABSENT while a key it needs is not installed. -/
def State.volumeSt (s : State) (v : Nat) (r : VolumeRec) : VolSt :=
  if tget s.cfg.volumes v = some .deleting then .deleting
  else if !s.rot.ready then .preparing
  else if s.keyGone (s.dataSlot v) || s.keyGone (metaSlot r.pool) then .keyAbsent else .ready

/-- Bring the volume states up to date, with a notice at each change. -/
def State.refreshVolumes (s : State) : State :=
  s.cfg.recs.foldl (fun s r => match r.body with
    | some (.volume v) =>
      let old := tgetD s.cfg.volumes r.key .undeclared
      let new := s.volumeSt r.key v
      if old = new then s else (s.modCfg fun c => { c with volumes := tput c.volumes r.key new }).volumeNotice r.key old new
    | _ => s) s

/-- A snapshot is deleted (R292, R301): HIDDEN while a clone of the new set depends on it, else DELETING. -/
def State.deleteSnap (s : State) (new : Cfg) (vol id : Nat) : State :=
  let cloned := (new.volumesWhere fun v => v.kind == 3 && v.source == vol && v.snap == id) ≠ []
  s.setSnap vol id (if cloned then .hidden else .deleting)

/-- What a set takes away, judged under the old grants: snapshots, and volumes with their frames and snapshots (R301, R403). -/
def State.takeAway (s : State) (old new : Cfg) : State :=
  let gone := (old.volumesWhere fun _ => true).filter fun v => (new.volume v).isNone
  let snaps := s.snap.snaps.filter fun x => gone.contains x.vol || ((old.find 0x16 (2 ^ 32 * x.vol + x.id)).isSome && (new.find 0x16 (2 ^ 32 * x.vol + x.id)).isNone)
  let hidden := s.snap.snaps.filter fun x => x.st == .hidden
  let s := (snaps.filter fun x => x.st == .creating || x.st == .ready).foldl (fun s x => s.deleteSnap new x.vol x.id) s
  let s := hidden.foldl (fun s x => s.deleteSnap new x.vol x.id) s
  gone.foldl (fun s v =>
    let was := tgetD s.cfg.volumes v .undeclared
    let s := (s.modCfg fun c => { c with volumes := tput c.volumes v .deleting }).volumeNotice v was .deleting
    let s := (s.wc.frames.filter fun f => f.2.desc.vol == v).foldl (fun s f => s.releaseFrame f.1) s
    s.modFtu fun f => { f with recovery := f.recovery.filter fun r => r.1 != v, tailGen := f.tailGen.filter fun t => t.1 != v }) s

/-- New volumes start at volume epoch 0; a clone records event 0x1461 (R290, R298). -/
def State.newVolumes (s : State) : State :=
  s.cfg.recs.foldl (fun s r => match r.body with
    | some (.volume v) =>
      if !s.newVolume r.key then s
      else
        let s := s.modSnap fun c => { c with ve := tput c.ve r.key 0 }
        if v.kind = 3 then s.event 0x1461 0 r.key v.source v.snap (s.cfg.chainDepth 18 r.key) else s
    | _ => s) s

/-- The snapshots of one switch (R290, R292): each takes e = VE, and VE becomes e + 1, once for a volume. Their old state in event
0x1460 has no coding: a free value (log entry 10). -/
def State.takeSnaps (s : State) (news : List (Nat × Nat)) : State :=
  let cut := s.cfg.epoch
  let vols := (news.map (·.1)).eraseDups
  let add (s : State) (x : Nat × Nat) : State :=
    let y : Snap := { vol := x.1, id := x.2, e := s.ve x.1, cut := cut }
    s.modSnap fun c => { c with snaps := c.snaps ++ [y] }
  let s := news.foldl add s
  let s := vols.foldl (fun s v =>
    let e := s.ve v
    s.modSnap fun c => { c with ve := tput c.ve v (e + 1), veAt := c.veAt ++ [(v, cut, e + 1)] }) s
  news.foldl (fun s x =>
    let s := (s.event 0x1460 0 x.1 x.2 (s.freeNat 32) (snapStNum .creating)).freshen
    match s.snap.find x.1 x.2 with
    | some y => s.snapNotice x.1 x.2 (snapStNum .creating) 1 0xFFFF y.e (s.charge y)
    | none => s) s

/-! ## Replication jobs (R302, R304, R308) -/

/-- The job a record declares. -/
def jobDecl : CfgBody → Option Job
  | .replJob role vol a b portal block neg _ => some { role := role, vol := vol, snapA := a, snapB := b, portal := portal, block := block, negotiate := neg, st := .undeclared }
  | _ => none

def Job.same (a b : Job) : Bool :=
  a.role == b.role && a.vol == b.vol && a.snapA == b.snapA && a.snapB == b.snapB && a.portal == b.portal && a.block == b.block && a.negotiate == b.negotiate

/-- A job's record has gone: a running job fails first. -/
def State.removeJob (s : State) (n : Nat) : State :=
  let s := match tget s.snap.jobs n with | some j => if j.st = JobSt.running then s.failJob n 4 stVolumeNotReady none else s | none => s
  (s.setJob n .undeclared 0).modSnap fun c => { c with jobs := tdel c.jobs n }

def State.declareJob (s : State) (n : Nat) (j : Job) : State :=
  match tget s.snap.jobs n with
  | none => (s.modSnap fun c => { c with jobs := tput c.jobs n j }).setJob n .queued 0
  | some k =>
    if !j.same k then ((s.removeJob n).modSnap fun c => { c with jobs := tput c.jobs n j }).setJob n .queued 0
    else if k.resetLost then (s.event 0x1465 n n (jobStNum JobSt.running) (jobStNum JobSt.failed) 4).modJob n fun j => { j with resetLost := false }
    else s

def State.applyJobs (s : State) (old : Cfg) : State :=
  let gone := s.snap.jobs.filter fun j => (old.find 0x17 j.1).isSome && (s.cfg.find 0x17 j.1).isNone
  let s := gone.foldl (fun s j => s.removeJob j.1) s
  s.cfg.recs.foldl (fun s r => match r.body.bind jobDecl with | some j => s.declareJob r.key j | none => s) s

/-! ## The class table (R103, R131) -/

/-- The class table of a set: its CLASS_TABLE record, else the image's. -/
def State.classRows (s : State) (c : Cfg) : List ClassRow :=
  match c.find 0x1A 0, s.rot.image with
  | some (.classTable rows), _ => rows
  | _, some i => if i.classTable.length = 8 then i.classTable else s.dsc.classes
  | _, none => s.dsc.classes

/-- The word of DSC_CLASS_n. -/
def classWord (r : ClassRow) : Nat := r.writeUs * 65536 + r.readUs

/-- A changed class table: event 0x0D01 and the CLASS_TABLE notice; commands in flight keep the table of their tag. -/
def State.applyClasses (s : State) : State :=
  let old := s.dsc.classes
  let new := s.classRows s.cfg
  if old = new then s
  else
    let mask := lsum ((List.range 8).map fun i => if old.getD i ⟨0, 0, 0⟩ = new.getD i ⟨0, 0, 0⟩ then 0 else 2 ^ i)
    let needed (t : Nat × List ClassRow) : Bool := s.cqe.cmds.any fun c => decide (c.tag < t.1)
    let s := s.modDsc fun d => { d with classes := new, tables := (d.tables ++ [(s.cfg.epoch, old)]).filter needed }
    (s.event 0x0D01 0 (lo32 s.cfg.epoch) mask 0 0).notifyAll 5 ((List.range 8).flatMap fun i => leBytes 4 (classWord (new.getD i ⟨0, 0, 0⟩)))

/-! ## The dirty limit (R149, R150) -/

/-- The limit in force after R150: the erased area is D of the declared limit less what a vault on flash takes; event 0x144A when it
falls short. -/
def State.refreshLimit (s : State) : State :=
  let l := match s.cfg.arrayRec with | some a => a.2.1 | none => 0
  let erased := vaultBytes l - s.wc.vaultPlan.length * 2 ^ 20
  let force := ((List.range (l + 1)).filter fun x => decide (vaultBytes x ≤ erased)).foldl max 0
  let s' := s.modWc fun w => { w with erased := erased, limit := force, vaultMs := if force = 0 then 0 else vaultMsOf force s.cfg.modules.length s.cfg.longestProg }
  if force < l ∧ force ≠ s.wc.limit then s'.event 0x144A 0 force l 0 0 else s'

/-- A limit is accepted: event 0x1440 (R149). -/
def State.applyLimit (s : State) (old : Cfg) : State :=
  match s.cfg.arrayRec with
  | none => s
  | some (_, l, _) =>
    let before := old.arrayRec.map fun a => a.2.1
    let n := s.cfg.modules.length
    let s := if before = some l then s else s.event 0x1440 0 l (if n = 0 then 0 else vaultMsOf l n s.cfg.longestProg) s.wc.holdup (16 * n)
    s.refreshLimit

/-! ## Power, bridges, preferences, ownership -/

/-- The POWER record, or none (R349, R354). -/
def State.applyPowerRec (s : State) (old : Cfg) : State :=
  match s.cfg.find 0x1B 0 with
  | some (.power p) => if old.find 0x1B 0 = some (.power p) then s else s.applyPower p
  | _ => if s.gov.power.isSome then (s.modGov fun g => { g with power := none }).setGovMode .off 1 else s

/-- Leases and the permit are claimed (R315, R325): a head whose mirror stands takes its preferred groups. -/
def State.claimLeases (s : State) : State :=
  if s.wc.mirrorSt ≠ .mirrored ∨ !s.mayLease then s
  else ((List.range 256).filter fun g => s.ha.prefersB g == s.glb.headB).foldl (fun s g => s.takeLease g) (s.takeLease s.permit)

/-- The lease bridge set: the holder writes its records on a new set (R325). -/
def State.applyBridges (s : State) (old : Cfg) : State :=
  let set : List Nat := match s.cfg.arrayRec with | some a => a.2.2 | none => []
  let before : List Nat := match old.arrayRec with | some a => a.2.2 | none => []
  let s := s.modHa fun h => { h with bridges := set }
  if set = before then s
  else
    let held := (s.ha.leases.filter fun l => l.2.view != 0).map (·.1)
    (held.foldl (fun s g => s.leaseRound g) s).claimLeases

/-- LEASE_PREF (R311): groups move in handover batches while both heads are ACTIVE (R405). -/
def State.applyPref (s : State) : State :=
  let pref := match s.cfg.find 0x18 0 with | some (.leasePref m) => (List.range 256).filter fun g => m.getLsbD g | _ => (List.range 256).filter fun g => g % 2 == 1
  if pref = s.ha.pref then s
  else
    let s := s.modHa fun h => { h with pref := pref }
    if s.ha.role ≠ .active ∨ s.ha.peerRole ≠ .active ∨ s.ha.failback.isSome ∨ s.peerGroups = [] then s
    else s.nextBatch { startAt := s.dt, first := 0, phase := 0, groups := s.peerGroups, dies := 0, migration := true }

/-- DIE_SPLIT (R312, R405): own dies that the new split gives the peer leave as in failback steps 2 and 3. -/
def State.applySplit (s : State) (old : Cfg) : State :=
  let changed := s.cfg.modules.filter fun p => old.modules.contains p && old.splitOf p != s.cfg.splitOf p
  if changed = [] ∨ s.ha.role ≠ .active ∨ s.ha.peerRole ≠ .active then s
  else
    let out (d : Nat × Die) : Bool := d.2.own && changed.contains (d.1 / 256) && (s.cfg.splitOf (d.1 / 256)).getLsbD (d.1 % 256) == s.glb.headB
    (s.modFtu fun f => { f with dies := f.dies.map fun d => if out d then (d.1, { d.2 with leaving := true }) else d }).returnDies

/-! ## The switch (R410) -/

/-- The switch to a commit and its record set; source 1 a host, 2 the peer. -/
def State.switchTo (s : State) (c : CommitRec) (recs : List CfgRec) (source : Nat) : State :=
  let old := s.cfg
  let changed := (changedKeys old.recs recs).length
  let news := s.newSnaps { old with recs := recs }
  let s := s.takeAway old { old with recs := recs }
  let s := s.modCfg fun f => { f with epoch := c.epoch, digest := c.digestFull, recs := recs, commit := some c, offer := none, taking := none, fetching := false }
  let s := if s.peerAway then s else s.sendHeartbeat
  let s := s.extend 6 (sha384 (beBytes 48 c.digestFull ++ leBytes 8 c.epoch))
  let s := s.applyModules old
  let s := (s.applyPools old).applyKeys.applyDicts.applyDomains old
  let s := (s.newVolumes.takeSnaps news).applyJobs old
  let s := (s.applyClasses.applyLimit old).applyPowerRec old
  let s := if old.find 2 0 ≠ none ∧ old.find 2 0 ≠ s.cfg.find 2 0 then s.modHa fun h => { h with paired := false } else s
  let s := ((s.applyPref.applySplit old).applyBridges old).refreshVolumes
  let s := match s.rot.waitSince with
    | some t => s.modRot fun r => { r with waitSince := none, bootWaited := sat 16 (r.bootWaited + (s.dt - t) / 1000000), stage := if s.rcc.fromWarm then 8 else 12 }
    | none => s
  let s := s.event 0x0606 0 (lo32 c.epoch) (hi32 c.epoch) source changed
  s.notifyAll 3 (leBytes 8 c.epoch ++ leBytes 8 old.epoch ++ beBytes 48 c.digestFull ++ leBytes 1 source ++ leBytes 3 0 ++ leBytes 4 changed)

end Sys2Proof.Machine
end

