-- ==== Sys2Proof/Machine/Configure.lean ====
section
/-! DEFINITION. Chapter 14: staging and committing a configuration (R404, R405), the peer's offer and its own configuration, and the
identification of new modules (R407). -/

namespace Sys2Proof.Machine

open Sys2Proof

/-! ## Steps 1 and 2 of R405 -/

/-- A refused commit: RESULT, the record's index, and the record. -/
structure CommitFault where
  result : Nat
  index : Nat := 0
  rec_ : Option CfgFault := none
  deriving DecidableEq, Repr

/-- The set that a delta makes of the configuration in force; a commit with BASE 0 brings a complete set. -/
def Cfg.after (c : Cfg) (k : CommitRec) (delta : List CfgRec) : List CfgRec := applyDelta (if k.base = 0 then [] else c.recs) delta

/-- The array identity a commit must name: that in force, else that of the new set. -/
def Cfg.identity (old new : Cfg) : Option Nat := (old.arrayRec.orElse fun _ => new.arrayRec).map (·.1)

/-- Signature, chain, epochs and identity, digests, canonical order, then every record (R404 RESULTs 2 to 6). -/
def State.commitFault (s : State) (k : CommitRec) (delta : List CfgRec) : Option CommitFault :=
  let complete := k.base == 0
  let recs := s.cfg.after k delta
  let new : Cfg := { s.cfg with recs := recs }
  if !k.sigOk then some ⟨2, 0, none⟩
  else if !k.chainOk then some ⟨3, 0, none⟩
  else if k.epoch ≤ s.cfg.epoch ∨ (k.base ≠ 0 ∧ k.base ≠ s.cfg.epoch) ∨ s.cfg.identity new ≠ some k.array then some ⟨4, 0, none⟩
  else if !k.digestOk then some ⟨5, 0, none⟩
  else match disorder complete 0 none delta with
    | some i => some ⟨6, i, (delta[i]?).map fun r => { typ := r.typ, key := r.key }⟩
    | none =>
      match s.setFault s.cfg new delta with
      | some f => some ⟨6, s.faultIndex s.cfg (if complete then [] else s.cfg.recs) delta complete f, some f⟩
      | none => none

/-- What a refusal records: the refused record's own events, and 0x0607. The index that 0x0607 gives for a RESULT other than 6 is not
stated: a free value (log entry 10). -/
def State.recordRefusal (s : State) (epoch : Nat) (f : CommitFault) : State :=
  let code := match f.rec_ with | some r => r.code | none => 0
  let events := match f.rec_ with | some r => r.events | none => []
  let s := events.foldl (fun s e => s.event (BitVec.ofNat 16 code) e.1 e.2.1 e.2.2.1 e.2.2.2.1 e.2.2.2.2) s
  let idx := if f.result = 6 then f.index else s.freeNat 32
  (s.event 0x0607 0 (lo32 epoch) f.result idx code).freshen

/-- The answer's body: RESULT, and for RESULT 6 the index, the event code, TYPE and KEY. -/
def CommitFault.body (f : CommitFault) : Bytes :=
  leBytes 1 f.result ++ if f.result ≠ 6 then [] else
    match f.rec_ with
    | some r => leBytes 4 f.index ++ leBytes 2 r.code ++ leBytes 2 r.typ ++ leBytes 8 r.key
    | none => leBytes 4 f.index ++ leBytes 2 0 ++ leBytes 2 0 ++ leBytes 8 0

/-! ## Identification (R407) -/

/-- Modules of a set that the configuration in force does not declare. -/
def State.freshModules (s : State) (recs : List CfgRec) : List Nat :=
  (Cfg.modules { s.cfg with recs := recs }).filter fun p => !s.cfg.moduleDeclared p

/-- Their lanes that can carry IDENT: ACTIVE, or held in QUARANTINE for want of a declaration. -/
def State.identifiable (s : State) (recs : List CfgRec) : List Nat :=
  (s.freshModules recs).filter fun p =>
    let l := (s.link.lane (s.link.mediaMap.getD p (32 + p))).st
    (l == .active || l == .quarantine) && !(tgetD s.link.modules p {}).quarantined

/-- IDENT to each; a lane in QUARANTINE is taken out of it. -/
def State.identify (s : State) (ps : List Nat) : State :=
  ps.foldl (fun s p =>
    let n := s.link.mediaMap.getD p (32 + p)
    let s := if (s.link.lane n).st = .quarantine then s.setLane n .active 8 else s
    s.sendIdent p) s

/-- Lanes of modules that stay undeclared go back into QUARANTINE. -/
def State.unidentify (s : State) (recs : List CfgRec) : State :=
  (s.freshModules recs).foldl (fun s p =>
    let n := s.link.mediaMap.getD p (32 + p)
    if (s.link.lane n).st = .active then s.setLane n .quarantine 8 else s) s

/-! ## Steps 4 and 5 at the head with the session -/

/-- The staging's new set. -/
def State.stagedSet (s : State) (g : Staging) (k : CommitRec) : List CfgRec := s.cfg.after k g.recs

/-- The commit of the staging is refused: the staging is discarded, and the session answered. -/
def State.refuseStaged (s : State) (f : CommitFault) : State :=
  match s.cfg.staging with
  | none => s
  | some g =>
    match g.commit with
    | none => s
    | some (k, port, req) =>
      let s := (s.unidentify (s.stagedSet g k)).recordRefusal k.epoch f
      (s.modCfg fun c => { c with staging := none }).answerTo port g.sess req 0x62 stInvalidField f.body

/-- Step 5: the head switches, and answers the commit with RESULT 0. -/
def State.commitStaged (s : State) : State :=
  match s.cfg.staging with
  | none => s
  | some g =>
    match g.commit with
    | none => s
    | some (k, port, req) =>
      let recs := s.stagedSet g k
      let s := (s.modCfg fun c => { c with staging := none }).switchTo k recs 1
      s.answerTo port g.sess req 0x62 stSuccess [0]

/-- Step 4: the delta and the commit are offered to the peer, unless it is declared failed or HELD. -/
def State.offerStaged (s : State) : State :=
  if s.peerAway then s.commitStaged
  else match s.cfg.staging with
    | none => s
    | some g =>
      match g.commit with
      | none => s
      | some (k, _, _) =>
        let s := s.modCfg fun c => { c with staging := some { g with offeredAt := some s.dt } }
        (s.transmit .peer 3 (.cfgOffer k g.len)).transmit .peer 3 (.cfgData g.recs)

/-! ## The staging messages (R404) -/

def maxDelta : Nat := 64 * 2 ^ 20

/-- An answer with RESULT: SUCCESS for 0 and 1, INVALID_FIELD for the others. -/
def State.cfgAnswer (s : State) (m : Vc3) (typ result : Nat) (more : Bytes) : State :=
  s.answer m typ (if result ≤ 1 then stSuccess else stInvalidField) (leBytes 1 result ++ more)

/-- CFG_BEGIN: one staging at a time; the delta's size is limited. -/
def execCfgBegin (m : Vc3) (epoch base len : Nat) (s : State) : Host.Outcome State Fault Refusal :=
  .next (s.vc3 m 0x60 false true 2 fun _ s =>
    if s.cfg.staging.isSome then s.cfgAnswer m 0x60 7 []
    else if len > maxDelta then s.cfgAnswer m 0x60 10 []
    else
      let g : Staging := { sess := m.sess.toNat, epoch := epoch, base := base, len := len, off := 0, recs := [], lastAt := s.dt }
      (s.modCfg fun c => { c with staging := some g }).cfgAnswer m 0x60 1 [])

/-- CFG_STAGE: bytes in order; busy while another session stages or a commit is carried out. Bytes out of order, or with nothing begun,
get a RESULT that R404 does not give: a free value (log entry 10). -/
def execCfgStage (m : Vc3) (offset len : Nat) (recs : List CfgRec) (s : State) : Host.Outcome State Fault Refusal :=
  .next (s.vc3 m 0x61 false true 2 fun _ s =>
    let odd (s : State) : State := (s.answer m 0x61 stInvalidField (leBytes 1 (s.freeNat 8))).freshen
    match s.cfg.staging with
    | none => odd s
    | some g =>
      if g.sess ≠ m.sess.toNat ∨ g.commit.isSome then s.cfgAnswer m 0x61 7 []
      else if offset ≠ g.off ∨ g.off + len > g.len then odd s
      else (s.modCfg fun c => { c with staging := some { g with off := g.off + len, recs := g.recs ++ recs, lastAt := s.dt } }).cfgAnswer m 0x61 1 [])

/-- A commit refused before it is carried out: the session's staging is discarded. -/
def State.refuseCommit (s : State) (m : Vc3) (k : CommitRec) (f : CommitFault) : State :=
  let own : Bool := match s.cfg.staging with | some g => g.sess == m.sess.toNat && g.commit.isNone | none => false
  let s := (if own then s.modCfg fun c => { c with staging := none } else s).recordRefusal k.epoch f
  s.answer m 0x62 stInvalidField f.body

/-- CFG_COMMIT (R405). -/
def execCfgCommit (m : Vc3) (c : CommitRec) (s : State) : Host.Outcome State Fault Refusal :=
  .next (s.vc3 m 0x62 false true 2 fun _ s =>
    let same := c.epoch == s.cfg.epoch && c.digestFull == s.cfg.digest
    if !c.sigOk then s.refuseCommit m c ⟨2, 0, none⟩
    else if !c.chainOk then s.refuseCommit m c ⟨3, 0, none⟩
    else if same then
      let own : Bool := match s.cfg.staging with | some g => g.sess == m.sess.toNat && g.commit.isNone | none => false
      (if own then s.modCfg fun k => { k with staging := none } else s).cfgAnswer m 0x62 0 []
    else match s.cfg.staging with
      | none => s.refuseCommit m c ⟨4, 0, none⟩
      | some g =>
        if g.sess ≠ m.sess.toNat ∨ g.commit.isSome then s.refuseCommit m c ⟨7, 0, none⟩
        else if c.epoch ≠ g.epoch ∨ c.base ≠ g.base then s.refuseCommit m c ⟨4, 0, none⟩
        else match s.commitFault c g.recs with
          | some f => s.refuseCommit m c f
          | none =>
            let clash : Bool := match s.cfg.offer with | some o => o.commit.epoch == c.epoch && o.commit.digestFull != c.digestFull | none => false
            if clash then s.refuseCommit m c ⟨8, 0, none⟩
            else
              let ps := s.identifiable (s.cfg.after c g.recs)
              let s := (s.modCfg fun k => { k with staging := some { g with commit := some (c, m.port.val, m.reqId.toNat), idents := ps } }).holdAnswer m
              if ps = [] then s.offerStaged else s.identify ps)

/-- CFG_ABORT: the session's staging is discarded; another session's is left alone. -/
def execCfgAbort (m : Vc3) (s : State) : Host.Outcome State Fault Refusal :=
  .next (s.vc3 m 0x63 false true 2 fun _ s =>
    match s.cfg.staging with
    | none => s.cfgAnswer m 0x63 0 []
    | some g =>
      if g.sess ≠ m.sess.toNat ∨ g.commit.isSome then s.cfgAnswer m 0x63 7 []
      else (s.modCfg fun c => { c with staging := none }).cfgAnswer m 0x63 0 [])

/-- CFG_STATUS: epoch in force, DIGEST_FULL, staged EPOCH, staging state; the last has no coding: a free value (log entry 10). -/
def execCfgStatus (m : Vc3) (s : State) : Host.Outcome State Fault Refusal :=
  .next (s.vc3 m 0x64 false true 1 fun _ s =>
    let staged := match s.cfg.staging with | some g => g.epoch | none => 0
    (s.cfgAnswer m 0x64 0 (leBytes 8 s.cfg.epoch ++ beBytes 48 s.cfg.digest ++ leBytes 8 staged ++ leBytes 1 (s.freeNat 8))).freshen)

/-- TIME_SET (R11): event 0x060B; no epoch changes. -/
def execTimeSet (m : Vc3) (offset : Int) (s : State) : Host.Outcome State Fault Refusal :=
  .next (s.vc3 m 0x65 false true 2 fun _ s =>
    let a := twos 64 s.cfg.wall
    let b := twos 64 offset
    ((s.event 0x060B 0 (lo32 a) (hi32 a) (lo32 b) (hi32 b)).modCfg fun c => { c with wall := offset }).cfgAnswer m 0x65 0 [])

/-- STAGING_ABANDONED (R404): the session has ended, or has sent nothing for 10 s. -/
def execStagingAbandoned (s : State) : Host.Outcome State Fault Refusal :=
  match s.cfg.staging with
  | none => .next s
  | some g =>
    let drop (s : State) (cause : Nat) : State :=
      let s := match g.commit with | some k => s.unidentify (s.stagedSet g k.1) | none => s
      (s.event 0x060E 0 g.sess cause g.off 0).modCfg fun c => { c with staging := none }
    if !s.sessionOpen g.sess then .next (drop s 1)
    else match tget s.cqe.sessions g.sess with
      | some x => if g.commit.isSome then .next s else .next (drop (s.advanceTo (x.lastAt + secNs 10)) 2)
      | none => .next s

/-! ## The peer's side of step 4 -/

/-- Answer the offer. -/
def State.offerAnswer (s : State) (epoch result : Nat) : State := s.transmit .peer 3 (.cfgResult epoch result)

/-- The offered change is refused here: its events, and the RESULT to the peer. -/
def State.refuseOffer (s : State) (o : Offer) (f : CommitFault) : State :=
  let s := (s.unidentify (s.cfg.after o.commit o.recs)).recordRefusal o.commit.epoch f
  (s.modCfg fun c => { c with offer := none }).offerAnswer o.commit.epoch f.result

/-- Every module of the offer is identified: prepared. -/
def State.prepared (s : State) (o : Offer) : State :=
  (s.modCfg fun c => { c with offer := some { o with prepared := true, idents := [] } }).offerAnswer o.commit.epoch 0

/-- PEER_CFG_OFFER: a configuration of the same EPOCH that this head itself is committing, with another digest, is a conflict; one in
force or the same needs nothing more. -/
def execPeerCfgOffer (c : CommitRec) (len : Nat) (s : State) : Host.Outcome State Fault Refusal :=
  let mine : Option CommitRec := s.cfg.staging.bind fun g => g.commit.map (·.1)
  let clash : Bool := match mine with | some k => k.epoch == c.epoch && k.digestFull != c.digestFull | none => false
  if clash then .next (s.offerAnswer c.epoch 8)
  else .next (s.modCfg fun x => { x with offer := some { commit := c, len := len, off := 0, recs := [] } })

/-- PEER_CFG_DATA: with the last byte steps 1 to 3 are carried out. -/
def execPeerCfgData (offset len : Nat) (recs : List CfgRec) (s : State) : Host.Outcome State Fault Refusal :=
  match s.cfg.offer with
  | none => .next s
  | some o =>
    if offset ≠ o.off ∨ o.prepared then .next s
    else
      let o := { o with off := o.off + len, recs := o.recs ++ recs }
      let s := s.modCfg fun c => { c with offer := some o }
      let mine : Option CommitRec := s.cfg.staging.bind fun g => g.commit.map (·.1)
      let known := (o.commit.epoch == s.cfg.epoch && o.commit.digestFull == s.cfg.digest) ||
        (match mine with | some k => k.epoch == o.commit.epoch && k.digestFull == o.commit.digestFull | none => false)
      if o.off < o.len then .next s
      else if known then .next ((s.modCfg fun c => { c with offer := none }).offerAnswer o.commit.epoch 0)
      else match s.commitFault o.commit o.recs with
        | some f => .next (s.refuseOffer o f)
        | none =>
          let ps := s.identifiable (s.cfg.after o.commit o.recs)
          if ps = [] then .next (s.prepared o)
          else .next ((s.modCfg fun c => { c with offer := some { o with idents := ps } }).identify ps)

/-- A HEARTBEAT with the epoch of the prepared offer: the head switches (R410). -/
def State.switchPrepared (s : State) (cepoch : Nat) : State :=
  match s.cfg.offer with
  | some o => if o.prepared ∧ lo32 o.commit.epoch = cepoch then s.switchTo o.commit (s.cfg.after o.commit o.recs) 2 else s
  | none => s

/-- PEER_CFG_RESULT: prepared, and the head switches; a conflict answers RESULT 8, any other refusal RESULT 9. -/
def execPeerCfgResult (epoch : Nat) (result : Byte) (s : State) : Host.Outcome State Fault Refusal :=
  match s.cfg.staging with
  | none => .next s
  | some g =>
    match g.commit, g.offeredAt with
    | some (k, _, _), some _ =>
      if k.epoch ≠ epoch then .next s
      else if result = 0 then .next s.commitStaged
      else .next (s.refuseStaged ⟨if result = 8 then 8 else 9, 0, none⟩)
    | _, _ => .next s

/-- PEER_CFG_TIMEOUT: 2 s after the offer without a prepared answer. -/
def execPeerCfgTimeout (s : State) : Host.Outcome State Fault Refusal :=
  match s.cfg.staging.bind (·.offeredAt) with
  | none => .next s
  | some t => .next ((s.advanceTo (t + secNs 2)).refuseStaged ⟨9, 0, none⟩)

/-! ## The peer's own configuration -/

/-- A configuration taken from the peer fails: event 0x0607, and the head goes HELD at its own epoch (R344, R405). -/
def State.takingFails (s : State) (o : Offer) (f : CommitFault) : State :=
  let s := (s.unidentify (s.cfg.after o.commit o.recs)).recordRefusal o.commit.epoch f
  (s.modCfg fun c => { c with taking := none, fetching := false }).goHeld 1

/-- PEER_CFG_FETCH: the peer's request is answered with the configuration in force; or the peer's complete configuration arrives, and
steps 1 to 3 are applied with BASE 0. -/
def execPeerCfgFetch (got : Option (CommitRec × List CfgRec)) (s : State) : Host.Outcome State Fault Refusal :=
  match got with
  | none => .next (match s.cfg.commit with | some k => s.transmit .peer 3 (.cfgFull k s.cfg.recs) | none => s)
  | some (k, recs) =>
    if !s.cfg.fetching then .next s
    else if k.epoch ≤ s.cfg.epoch then .next (s.modCfg fun c => { c with fetching := false })
    else
      let k0 := { k with base := 0 }
      let o : Offer := { commit := k0, len := 0, off := 0, recs := recs }
      match s.commitFault k0 recs with
      | some f => .next (s.takingFails o f)
      | none =>
        let ps := s.identifiable (s.cfg.after k0 recs)
        if ps = [] then .next (s.switchTo k0 (s.cfg.after k0 recs) 2)
        else .next ((s.modCfg fun c => { c with taking := some { o with idents := ps } }).identify ps)

/-! ## IDENT answers (R407) -/

/-- Why a module fails: 1 signature, 2 serial, 3 a foreign array without REUSE; 0 it is the declared one. -/
def identFault (new : Cfg) (pos serial : Nat) (sigOk foreign : Bool) : Nat :=
  match new.module pos with
  | none => 0
  | some m => if !sigOk then 1 else if serial ≠ m.serial then 2 else if foreign && !m.reuse then 3 else 0

/-- The refused MODULE record of a module that fails. -/
def identRefusal (pos : Nat) (index : Nat) : CommitFault := ⟨6, index, some { typ := 0x11, key := pos, code := 0x060D }⟩

/-- An answer for the staging's commit, for the peer's offer, for the configuration being taken. -/
def State.identStaged (s : State) (pos reason : Nat) : State :=
  match s.cfg.staging with
  | none => s
  | some g =>
    if !g.idents.contains pos then s
    else if reason ≠ 0 then
      s.refuseStaged (identRefusal pos ((g.recs.findIdx? fun r => recNamed r 0x11 pos).getD 0xFFFFFFFF))
    else
      let left := g.idents.filter (· != pos)
      let s := s.modCfg fun c => { c with staging := some { g with idents := left } }
      if left = [] then s.offerStaged else s

def State.identOffer (s : State) (pos reason : Nat) : State :=
  match s.cfg.offer with
  | none => s
  | some o =>
    if !o.idents.contains pos then s
    else if reason ≠ 0 then s.refuseOffer o (identRefusal pos ((o.recs.findIdx? fun r => recNamed r 0x11 pos).getD 0xFFFFFFFF))
    else
      let o := { o with idents := o.idents.filter (· != pos) }
      if o.idents = [] then s.prepared o else s.modCfg fun c => { c with offer := some o }

def State.identTaking (s : State) (pos reason : Nat) : State :=
  match s.cfg.taking with
  | none => s
  | some o =>
    if !o.idents.contains pos then s
    else if reason ≠ 0 then s.takingFails o (identRefusal pos ((o.recs.findIdx? fun r => recNamed r 0x11 pos).getD 0xFFFFFFFF))
    else
      let left := o.idents.filter (· != pos)
      if left = [] then s.switchTo o.commit (s.cfg.after o.commit o.recs) 2
      else s.modCfg fun c => { c with taking := some { o with idents := left } }

/-- The set whose commit waits for a position's IDENT. -/
def State.identSet (s : State) (pos : Nat) : Option Cfg :=
  let own := s.cfg.staging.bind fun g => if g.idents.contains pos then g.commit.map fun k => s.cfg.after k.1 g.recs else none
  let theirs := s.cfg.offer.bind fun o => if o.idents.contains pos then some (s.cfg.after o.commit o.recs) else none
  let taken := s.cfg.taking.bind fun o => if o.idents.contains pos then some (s.cfg.after o.commit o.recs) else none
  (own.orElse fun _ => theirs.orElse fun _ => taken).map fun recs => { s.cfg with recs := recs }

/-- The judgement of a position: event 0x060D where it fails. -/
def State.identified (s : State) (pos reason : Nat) : State :=
  let s := if reason = 0 ∨ (s.identSet pos).isNone then s else s.event 0x060D pos pos reason 0 0
  ((s.identStaged pos reason).identOffer pos reason).identTaking pos reason

/-- IDENT_RESPONSE (R58, R407): for a declared position being identified, or for a LOST module whose serial reappears (R271). A bridge
whose answers stay malformed fails as by its signature. -/
def execIdentResponse (pos : Fin 96) (tag : Word) (hdrOk : Bool) (serial : Nat) (sigOk foreign : Bool) (s : State) : Host.Outcome State Fault Refusal :=
  .next (s.mediaAnswer pos.val tag.toNat mIdent 0 hdrOk (fun _ s => s.identified pos.val 1) fun _ s =>
    match s.identSet pos.val with
    | some new => s.identified pos.val (identFault new pos.val serial sigOk foreign)
    | none =>
      match s.cfg.module pos.val with
      | some m => if s.memberSt pos.val = .lost ∧ sigOk ∧ serial = m.serial then s.event 0x130C pos.val pos.val (lo32 serial) 0 0 else s
      | none => s)

end Sys2Proof.Machine
end

