-- ==== Sys2Proof/Machine/Heartbeats.lean ====
section
/-! DEFINITION. Chapter 11: the heartbeats of both paths (R320, R344), pairing (R332), and what a paired head enters (R139, R144,
R315). -/

namespace Sys2Proof.Machine

open Sys2Proof

/-! ## What a paired and ready head enters -/

/-- The peer's mirror area is ready (log entry 47): a survivor begins resynchronisation; a head that starts finds the peer holding
every group, or takes its preferred groups; any other comes back from NONE. The causes of changes out of NONE have no coding: free
values (log entry 10). -/
def State.joinArray (s : State) : State :=
  if !s.ha.paired ∨ !s.rot.ready ∨ s.wc.mismatch ∨ s.ha.plkAt.isNone then s
  else
    let mirrored (s : State) : State := (s.setMirror .mirrored (s.freeNat 32)).freshen
    match s.ha.role with
    | .held => s
    | .survivor => if s.wc.mirrorSt = .solo then s.resyncStart else if s.wc.mirrorSt = .none then mirrored s else s
    | .starting =>
      if s.ha.peerRole = .survivor ∨ s.ha.peerGroups = 256 then s.modHa fun h => { h with role := .standby }
      else if s.wc.mirrorSt = .none then (mirrored s).claimLeases else s
    | _ => if s.wc.mirrorSt = .none ∧ !(s.ha.peerP3Plk && s.ha.peerP3Mbox) then mirrored s else s

/-! ## Comparisons (R344) -/

/-- Configuration epochs: the lower head asks for the higher configuration; recorded by the lower head (log entry 60). -/
def State.judgeEpoch (s : State) (peer : Nat) : State :=
  if peer ≤ lo32 s.cfg.epoch ∨ s.cfg.fetching ∨ s.cfg.offer.isSome ∨ s.cfg.taking.isSome then s
  else (s.disagreement 1 (lo32 s.cfg.epoch) peer).fetchCfg

/-- Wall times more than 1 ms apart (R12), compared as far as the record carries them: both sums of DT and offset in 32 bits. Recorded
once while the disagreement lasts. -/
def State.judgeWall (s : State) (dt wall : Nat) : State :=
  let own := (s.dt + twos 32 s.cfg.wall) % 2 ^ 32
  let peer := (dt + wall) % 2 ^ 32
  let gap := (own + 2 ^ 32 - peer) % 2 ^ 32
  if min gap (2 ^ 32 - gap) ≤ 1000000 then s.modHa fun h => { h with wallSaid := false }
  else if s.ha.wallSaid then s
  else (s.disagreement 3 own peer).modHa fun h => { h with wallSaid := true }

/-! ## HEARTBEAT (R318, R320) -/

/-- HEARTBEAT: the peer link path is fresh; its report is taken, the prepared configuration of its epoch switched to, the subjects of
R344 compared. -/
def execHeartbeat (h : RecHdr) (b : HbBody) (s : State) : Host.Outcome State Fault Refusal :=
  .next (s.peerRecord 1 h fun s =>
    let s := (s.pathFresh false).modHa fun a => { a with peerHb := b.hbseq }
    let s := (s.peerReports false b.role.toNat b.pstate.toNat b.flags.toNat b.cepoch).switchPrepared b.cepoch
    let s := ((s.judgeEpoch b.cepoch).judgeWall b.dt b.wall.toNat).refreshStable
    if s.ha.role = .starting then s.joinArray else s)

/-- Lease bridges whose module answers. -/
def State.upBridges (s : State) : List Nat := s.ha.bridges.filter s.moduleUp

/-- The mailbox half of a heartbeat: a write of the own slot and a read of the peer's on each lease bridge. -/
def State.sendMailbox (s : State) : State :=
  s.upBridges.foldl (fun s p =>
    (s.sendMedia p 255 mMbox 0 0 (s.dt + msNs 1) 0 .mailbox (s.slotBytes (s.hbFlags % 256))).sendMedia p 255 mMbox 0 1 (s.dt + msNs 1) 0 .mailbox []) s

/-- Modules of whose dies the declared split gives this head some that the ownership map does not yet: a DIE_SPLIT migration from the
peer, seen by reading the map again (R405, R312). -/
def State.unsettledModules (s : State) : List Nat :=
  if s.ha.role ≠ .active ∨ s.ha.peerRole ≠ .active then []
  else s.upModules.filter fun p =>
    !(s.link.ops.any fun o => o.2.pos == p && o.2.opc == mOwner) &&
    s.ftu.dies.any fun d => d.1 / 256 == p && dieGood d.2 && !d.2.own && (s.cfg.splitOf p).getLsbD (d.1 % 256) != s.glb.headB

/-- The stack cores run: released at a start (R396 step 9, R398 step 5), and not held by the JTAG core reset (R436). -/
def State.coresRun (s : State) : Bool :=
  s.rcc.hold == .run && !s.rcc.coresHeld && decide (7 ≤ s.rot.stage) && decide (s.rot.stage < 15)

/-- HEARTBEAT_TIMER: every 5 ms a heartbeat on both paths under one HBSEQ; the mailbox path runs once bridges are declared. -/
def execHeartbeatTimer (s : State) : Host.Outcome State Fault Refusal :=
  if !s.coresRun then .next s
  else
    let s := s.advanceTo s.ha.hbDue
    let s := (s.modHa fun h => { h with hbDue := s.dt + msNs 5 }).sendHeartbeat.sendMailbox.refreshStable
    .next (s.unsettledModules.foldl (fun s p => s.sendOwner p none) s)

/-! ## PAIRING (R332) -/

/-- The peer paired: the pair key, both counters at 0, event 0x0502; the comparisons at pairing. -/
def State.pairedWith (s : State) (serial wcGib : Nat) (fwver : BitVec 24) (compat : BitVec 8) (cepoch : Nat) : State :=
  let s := s.modSnw fun n => { n with paired := true, ctrTx := 0, ctrRx := 0 }
  let s := s.event 0x0502 0 (lo32 serial) 0 0 0
  let s := s.modHa fun h => { h with
    paired := true, peerFailed := false
    peerFw := fwver.toNat, peerCompat := compat.toNat, peerCepoch := cepoch }
  let s := s.modWc fun w => { w with peerSizeGib := wcGib }
  let s := if wcGib = s.wc.sizeGib then s
    else ((s.event 0x1448 0 s.wc.sizeGib wcGib 0 0).modWc fun w => { w with mismatch := true }).disagreement 4 s.wc.sizeGib wcGib
  let s := (s.judgeEpoch cepoch).judgeFw
  (s.upModules.foldl (fun s p => (s.sendEpoch p false).sendOwner p none) s).joinArray

/-- PAIRING: both heads have an accepted declaration and a peer lane is ACTIVE. A certificate serial other than the declared identity
does not pair. -/
def execPairing (serial : Nat) (sigOk : Bool) (wcGib : Nat) (fwver : BitVec 24) (compatMinor : BitVec 8) (cepoch : Nat) (s : State) :
    Host.Outcome State Fault Refusal :=
  let declared : Option Nat := match s.cfg.find 2 0 with | some (.peer n) => some n | _ => none
  if s.cfg.epoch = 0 ∨ !s.portUp .peer ∨ s.rcc.hold ≠ .run ∨ s.pmu.pstate = .p3 ∨ !sigOk then .next s
  else if s.rot.lifecycle ≠ .provisioned ∧ s.rot.lifecycle ≠ .field then .next s
  else if declared ≠ some serial then .next s
  else .next (s.pairedWith serial wcGib fwver compatMinor cepoch)

end Sys2Proof.Machine
end

