-- ==== Sys2Proof/Machine/Images.lean ====
section
/-! DEFINITION. Chapter 14: the checks of an Opilsar image (R392 to R395), the boot control block (R389), image updates (R399),
certificates and attestation (R386, R387), and XTS key slots emptied and filled again (R409). -/

namespace Sys2Proof.Machine

open Sys2Proof

/-! ## Image checks (R395) -/

/-- Record types, and those that must be present (R393). -/
def recordTypes : List Nat := [0x01, 0x02, 0x03, 0x10, 0x11, 0x12, 0x13, 0x14, 0x15, 0x16, 0x17, 0xFF]
def requiredTypes : List Nat := recordTypes.filter (· != 0x17)

/-- Size limits by type (R393). -/
def recordLimit (typ : Nat) : Option Nat := if typ = 2 then some (192 * 1024) else if typ = 3 then some (96 * 2 ^ 20) else none

/-- A record by itself is of an unknown type, a second of its type, over its limit, or beyond LENGTH. -/
def recordMisplaced (before : List ImageRec) (r : ImageRec) : Bool :=
  !recordTypes.contains r.typ || before.any (fun b => b.typ == r.typ) || !r.inImage ||
  (match recordLimit r.typ with | some l => decide (l < r.len) | none => false)

/-- The index of the first record that a check given the records before it refuses. -/
def firstRecord (bad : List ImageRec → ImageRec → Bool) : List ImageRec → List ImageRec → Option Nat
  | _, [] => none
  | before, r :: rs => if bad before r then some before.length else firstRecord bad (before ++ [r]) rs

/-- The owner signature is required (R394, R415): in FIELD; in END where an owner anchor is fused (log entry 61). -/
def Rot.ownerNeeded (r : Rot) : Bool := r.lifecycle == .field || (r.lifecycle == .ended && r.ownerAnchor.isSome)

/-- The reason for which an image fails, 0 if it passes, and the record's index where a record is at fault. Where several hold the
lowest list position is the reason (log entry 61). -/
def imageReason (r : Rot) (i : Image) : Nat × Option Nat :=
  let n := i.records.length
  let digest := firstRecord (fun _ r => r.digest != r.manifest) [] i.records
  let poisoned := firstRecord (fun _ r => r.readLen != r.len) [] i.records
  let misplaced := firstRecord recordMisplaced [] i.records
  if !i.headerOk ∨ n < 2 ∨ n > 64 ∨ i.length > 127 * 2 ^ 20 then (1, none)
  else if !i.vendorSigOk ∨ (r.ownerNeeded ∧ !i.ownerSigOk) then (2, none)
  else if i.svn < r.fuseSvn then (3, none)
  else if digest.isSome then (4, digest)
  else if poisoned.isSome then (5, poisoned)
  else if misplaced.isSome then (6, misplaced)
  else if !requiredTypes.all fun t => i.records.any fun x => x.typ == t then (6, none)
  else (0, none)

/-- Event 0x0602. The index where no record is at fault and the value are not stated: free values (log entry 10). -/
def State.rejectImage (s : State) (slotB : Bool) (f : Nat × Option Nat) : State :=
  let idx := f.2.getD (s.freeNat 32)
  let s := s.freshen
  (s.event 0x0602 0 (bit slotB) f.1 idx (s.freeNat 32)).freshen

/-! ## The boot control block (R389) -/

/-- A write of the BCB goes to the other copy under the next BSEQ. -/
def State.writeBcb (s : State) (f : Nvi → Nvi) : State := s.modNvi fun n => f { n with bseq := n.bseq + 1 }

def Nvi.slot (n : Nvi) (b : Bool) : Option Image := if b then n.slotB else n.slotA
def Nvi.slotSt (n : Nvi) (b : Bool) : SlotSt := if b then n.stB else n.stA
def Nvi.setSt (n : Nvi) (b : Bool) (st : SlotSt) : Nvi := if b then { n with stB := st } else { n with stA := st }
def Nvi.setSlot (n : Nvi) (b : Bool) (i : Option Image) : Nvi := if b then { n with slotB := i } else { n with slotA := i }

/-- Bytes 0 to 15 of the BCB in use. -/
def Nvi.bcbBytes (n : Nvi) : Bytes :=
  leBytes 4 0x42434F50 ++ leBytes 2 7 ++ leBytes 1 (bit n.activeB) ++ leBytes 1 (slotStNum n.stA) ++ leBytes 1 (slotStNum n.stB) ++
    leBytes 1 n.tries ++ leBytes 6 0

/-! ## Image updates (R399) -/

/-- The update a session has open. -/
def Nvi.update (n : Nvi) (sess : Nat) : Option Update := n.updates.find? fun u => u.sess == sess

def State.modUpdate (s : State) (sess : Nat) (f : Update → Update) : State :=
  s.modNvi fun n => { n with updates := n.updates.map fun u => if u.sess == sess then f u else u }

def State.endUpdate (s : State) (sess : Nat) : State := s.modNvi fun n => { n with updates := n.updates.filter (·.sess != sess) }

/-- An IMAGE message: the idle time of the session's update starts again. -/
def State.imageVc3 (s : State) (m : Vc3) (typ : Nat) (act : State → State) : State :=
  s.vc3 m typ false true 2 fun _ s => act (s.modUpdate m.sess.toNat fun u => { u with lastAt := s.dt })

/-- IMAGE_BEGIN: the other slot is EMPTY and erased; one update a session. -/
def execImageBegin (m : Vc3) (len : Nat) (s : State) : Host.Outcome State Fault Refusal :=
  .next (s.imageVc3 m 0x68 fun s =>
    if (s.nvi.update m.sess.toNat).isSome ∨ len > 127 * 2 ^ 20 then s.answer m 0x68 stInvalidField []
    else
      let other := !s.rot.slotB
      let u : Update := { sess := m.sess.toNat, len := len, off := 0, lastAt := s.dt }
      let s := (s.writeBcb fun n => n.setSt other .empty).modNvi fun n => { n.setSlot other none with updates := n.updates ++ [u] }
      s.answer m 0x68 stSuccess [])

/-- IMAGE_WRITE: offsets follow on from the last write. -/
def execImageWrite (m : Vc3) (offset len : Nat) (s : State) : Host.Outcome State Fault Refusal :=
  .next (s.imageVc3 m 0x69 fun s =>
    match s.nvi.update m.sess.toNat with
    | none => s.answer m 0x69 stInvalidField []
    | some u =>
      if offset ≠ u.off ∨ u.off + len > u.len then s.answer m 0x69 stInvalidField []
      else (s.modUpdate m.sess.toNat fun u => { u with off := u.off + len }).answer m 0x69 stSuccess [])

/-- IMAGE_COMMIT: the slot is read back and checked without running; when it passes it is TRIAL with TRIES 3; event 0x060C. -/
def execImageCommit (m : Vc3) (img : Image) (s : State) : Host.Outcome State Fault Refusal :=
  .next (s.imageVc3 m 0x6A fun s =>
    if (s.nvi.update m.sess.toNat).isNone then s.answer m 0x6A stInvalidField []
    else
      let other := !s.rot.slotB
      let f := imageReason s.rot img
      let s := (s.endUpdate m.sess.toNat).modNvi fun n => n.setSlot other (some img)
      let s := if f.1 = 0 then s.writeBcb fun n => { n.setSt other .trial with tries := 3 } else s.rejectImage other f
      let s := s.event 0x060C 0 (bit other) img.svn img.fwver.toNat f.1
      s.answer m 0x6A (if f.1 = 0 then stSuccess else stInvalidField) [])

/-- IMAGE_CONFIRM: a TRIAL slot is running and the head is ready: the slot is ACTIVE and VALID, and FUSE_SVN rises to its SVN; event
0x0605. -/
def execImageConfirm (m : Vc3) (s : State) : Host.Outcome State Fault Refusal :=
  .next (s.imageVc3 m 0x6B fun s =>
    if !s.rot.trial ∨ !s.rot.ready then s.answer m 0x6B stInvalidField []
    else
      let b := s.rot.slotB
      let svn := match s.rot.image with | some i => i.svn | none => 0
      let old := s.rot.fuseSvn
      let s := s.writeBcb fun n => { n.setSt b .valid with activeB := b }
      let s := s.modRot fun r => { r with trial := false, fuseSvn := max old svn }
      (s.event 0x0605 0 old (max old svn) (bit b) 0).answer m 0x6B stSuccess [])

/-- IMAGE_STATUS: BCB bytes 0 to 15, and FUSE_SVN in a byte (log entry 61). -/
def execImageStatus (m : Vc3) (s : State) : Host.Outcome State Fault Refusal :=
  .next (s.imageVc3 m 0x6C fun s => s.answer m 0x6C stSuccess (s.nvi.bcbBytes ++ leBytes 1 s.rot.fuseSvn))

/-- IMAGE_IDLE_TIMEOUT: the session has ended, or has sent no IMAGE message for 10 s: the update is abandoned; its slot is EMPTY since it
began. -/
def execImageIdleTimeout (s : State) : Host.Outcome State Fault Refusal :=
  match s.nvi.updates.find? fun u => !s.sessionOpen u.sess with
  | some u => .next (s.endUpdate u.sess)
  | none =>
    match s.nvi.updates with
    | [] => .next s
    | u :: us =>
      let first := us.foldl (fun a b => if b.lastAt < a.lastAt then b else a) u
      .next ((s.advanceTo (first.lastAt + secNs 10)).endUpdate first.sess)

/-! ## Certificates and attestation (R386, R387) -/

/-- A certificate with its 32-bit length: its bytes are free values (log entry 10). -/
def State.freeCert (s : State) : Bytes × State :=
  let n := s.freeNat 11
  let s := s.freshen
  (leBytes 4 n ++ leBytes n (s.freeNat (8 * n)), s.freshen)

/-- A chain of so many certificates. -/
def State.freeChain (s : State) : Nat → Bytes × State
  | 0 => ([], s)
  | k + 1 =>
    let c := s.freeCert
    let r := State.freeChain c.2 k
    (c.1 ++ r.1, r.2)

/-- CERT_READ: chain 1 is the device chain of three certificates, chain 2 the wrap chain of four (R384). -/
def execCertRead (m : Vc3) (chain : Byte) (s : State) : Host.Outcome State Fault Refusal :=
  .next (s.vc3 m 0x80 false true 1 fun _ s =>
    if chain ≠ 1 ∧ chain ≠ 2 then s.answer m 0x80 stInvalidField []
    else
      let c := s.freeChain (if chain = 1 then 3 else 4)
      c.2.answer m 0x80 stSuccess c.1)

/-- Bytes 0 to 463 of the attestation report. -/
def State.reportBody (s : State) (nonce : Bytes) : Bytes :=
  let svn := match s.rot.image with | some i => i.svn | none => 0
  let fw := match s.rot.image with | some i => i.fwver.toNat | none => 0
  leBytes 4 0x54415452 ++ leBytes 2 7 ++ leBytes 1 (lifecycleNum s.rot.lifecycle) ++ leBytes 1 s.dbg.level ++ leBytes 8 s.rot.serial ++
    (nonce ++ leBytes 32 0).take 32 ++ leBytes 8 s.dt ++ leBytes 1 (bit s.rot.slotB) ++ leBytes 1 svn ++ leBytes 1 s.rot.fuseSvn ++
    leBytes 1 0 ++ leBytes 4 fw ++ leBytes 8 s.cfg.epoch ++ leBytes 8 0 ++ s.rot.meas.flatMap fun m => m

/-- ATTEST: the report under the device key, whose signature is a free value (log entry 10); event 0x0608. -/
def execAttest (m : Vc3) (nonce : Bytes) (s : State) : Host.Outcome State Fault Refusal :=
  .next (s.vc3 m 0x81 false true 1 fun _ s =>
    let body := s.reportBody nonce ++ leBytes 96 (s.freeNat 768)
    (s.freshen.event 0x0608 m.sess.toNat m.sess.toNat 0 0 0).answer m 0x81 stSuccess body)

/-! ## XTS key slots (R409) -/

/-- KEY_SLOT_PARITY: the slot is empty until ROT has unwrapped its key again; event 0x1202. At D2 and D3 ROT unwraps nothing. -/
def execKeySlotParity (slot : Fin 4129) (s : State) : Host.Outcome State Fault Refusal :=
  if (tget s.xts.keys slot.val).isNone then .next s
  else
    let again : List (Nat × Nat) := if s.dbg.level < 2 then [(slot.val, s.dt)] else []
    let s := s.modXts fun x => { x with parity := bump 16 x.parity, keys := tdel x.keys slot.val, reload := x.reload ++ again }
    .next (s.event 0x1202 slot.val slot.val 0 0 0)

/-- KEYS_INSTALLED: the key of a slot is unwrapped again from the configuration in force. -/
def execKeysInstalled (slot : Fin 4129) (s : State) : Host.Outcome State Fault Refusal :=
  if !(s.xts.reload.any fun r => r.1 == slot.val) ∨ s.dbg.level ≥ 2 then .next s
  else
    let s := s.modXts fun x => { x with reload := x.reload.filter fun r => r.1 != slot.val }
    match tget s.cfg.keySlots slot.val with
    | none => .next s.refreshVolumes
    | some k =>
      .next (((s.modXts fun x => { x with keys := tput x.keys slot.val k }).event 0x1203 0 1 (lo32 s.cfg.epoch) 0 0).refreshVolumes)

end Sys2Proof.Machine
end

