-- ==== Sys2Proof/Machine/Memory.lean ====
section
/-! DEFINITION. Chapter 13: DRAM and the system cache: population, training and refresh (R367 to R370), DRAM errors and what they damage
(R371, R372), staging (R376), SLC errors (R378), way retirement (R379), scratchpad (R380) and disabling (R381). DRAM is not held as
addressed bytes: what lies in each region is state of its block, and an error names what it damages (log entry 62). -/

namespace Sys2Proof.Machine

open Sys2Proof

/-! ## Population and regions (R367, R372) -/

/-- The first rule of R367 that a population breaks: the value and its limit. -/
def populationFault (p : Population) : Option (Nat × Nat) :=
  if p.channels ≠ 12 then some (p.channels, 12)
  else if p.dpc ≠ 1 ∧ p.dpc ≠ 2 then some (p.dpc, 2)
  else if !p.rdimm then some (0, 1)
  else if p.ranks ≠ 1 ∧ p.ranks ≠ 2 then some (p.ranks, 2)
  else if !([16, 32, 64, 128].contains p.dimmGib) then some (p.dimmGib, 128)
  else if !p.uniform then some (0, 1)
  else none

/-- GiB populated. -/
def populated (p : Population) : Nat := 12 * p.dpc * p.dimmGib

/-- GiB of rows 1 to 9, the mirror area taken as large as the own write cache (R134). -/
def rowsGib (z : MemSizes) : Nat := z.wc + z.wc + 4 + z.dir + z.mapCache + z.indexCache + z.filter + z.version + z.remap

/-- MiB of rows 10 to 13. -/
def rowsMib (z : MemSizes) : Nat := z.wc * 1024 / 256 + 65 + 2 + 512

/-- MiB left for firmware data; none when the regions do not fit. -/
def firmwareMib (p : Population) (z : MemSizes) : Option Nat :=
  let need := rowsGib z * 1024 + rowsMib z
  if need > populated p * 1024 then none else some (populated p * 1024 - need)

/-- Why a population is refused: reason, value and limit of event 0x1602, in GiB. -/
def popFault (p : Population) (z : MemSizes) : Option (Nat × Nat × Nat) :=
  match populationFault p with
  | some f => some (1, f.1, f.2)
  | none =>
    if z.wc < 8 ∨ z.wc > 256 then some (2, z.wc, 256)
    else if z.filter > 512 then some (2, z.filter, 512)
    else match firmwareMib p z with
      | none => some (2, rowsGib z + ceilDiv (rowsMib z) 1024, populated p)
      | some m => if m < 16 * 1024 then some (3, m / 1024, 16) else none

/-- The regions are carved: event 0x1602 when they cannot be (R369, R372). -/
def State.carve (s : State) : State :=
  match s.rot.image with
  | none => s
  | some i =>
    let s := (s.modMcu fun m => { m with pop := some i.population, sizes := some i.sizes }).modWc fun w => { w with sizeGib := i.sizes.wc, holdup := i.holdupMs }
    match popFault i.population i.sizes with
    | some f => (s.event 0x1602 0 f.1 f.2.1 f.2.2 0).modMcu fun m => { m with popOk := false }
    | none => s.modMcu fun m => { m with popOk := true }

/-! ## Refresh and self-refresh (R370) -/

/-- DRAM is trained and clocked. -/
def Mcu.running (m : Mcu) : Bool := m.chSt.all fun c => c == .ready

/-- ZQ_CALIBRATION: every 128 ms inside refresh windows; the trained state is kept. -/
def execZqCalibration (s : State) : Host.Outcome State Fault Refusal :=
  if !s.mcu.running then .next s
  else
    let s := s.advanceTo (s.mcu.zqAt + msNs 128)
    .next (s.modMcu fun m => { m with zqAt := s.dt })

/-- ECS_READ: the devices' error counts, every 24 h for the health report (R368). -/
def execEcsRead (counts : List (Nat × Nat)) (s : State) : Host.Outcome State Fault Refusal :=
  if !s.mcu.running then .next s
  else
    let s := s.advanceTo (s.mcu.ecsRead + secNs 86400)
    .next (s.modMcu fun m => { m with ecs := counts, ecsRead := s.dt })

/-! ## DRAM errors (R371) -/

/-- A corrected error of a channel and rank: counted, written back; event 0x1603 once a second and channel; 0x1605 once for a rank with
more than 1,000 in 24 h. -/
def State.dramCe (s : State) (ch rank : Nat) : State :=
  let recent := (ch, rank, s.dt) :: s.mcu.ceAt.filter fun x => decide (x.2.2 + secNs 86400 > s.dt)
  let s := s.modMcu fun m => { m with ce := lmod m.ce ch (bump 32), ceAt := recent }
  let n := (recent.filter fun x => x.1 == ch && secOf x.2.2 == secOf s.dt).length
  let s := if tget s.mcu.ceSec ch = some (secOf s.dt) then s
    else (s.event 0x1603 ch ch rank n 0).modMcu fun m => { m with ceSec := tput m.ceSec ch (secOf s.dt) }
  let day := (recent.filter fun x => x.1 == ch && x.2.1 == rank).length
  if day ≤ 1000 ∨ s.mcu.degraded.contains (ch, rank) then s
  else (s.event 0x1605 ch ch rank day 0).modMcu fun m => { m with degraded := (ch, rank) :: m.degraded }

/-- DRAM_CORRECTED. -/
def execDramCorrected (channel : Fin 12) (rank : Nat) (s : State) : Host.Outcome State Fault Refusal :=
  if s.mcu.chSt.getD channel.val .untrained ≠ .ready then .next s else .next (s.dramCe channel.val rank)

/-- A frame is damaged (R372 row 1, R210): the peer's copy serves where it holds, which a free value says (log entry 42); otherwise the
sector is lost. A frame whose grain is already coded is stored from the stripe buffers (log entry 62). -/
def State.frameDamaged (s : State) (i : Nat) : State :=
  match tget s.wc.frames i with
  | none => s
  | some f =>
    if f.desc.committed = 0 ∨ f.stage ≥ 4 then s
    else
      let k := s.freeNat 1
      let s := s.freshen
      if !f.desc.committed.getLsbD k then s
      else
        let copy := decide (s.wc.mirrorSt = .mirrored) && f.mirrored
        let saved := copy && s.freeNat 1 == 1
        let s := if copy then s.freshen else s
        let s := if f.st = .destaging then s.undoDestage i else s
        if saved then s
        else
          let left := f.desc.committed &&& ~~~ (BitVec.ofNat 2 (2 ^ k))
          let s := s.loseGrain f.desc.vol f.desc.grain 1 4
          if left = 0 ∧ f.pend = [] then s.releaseFrame i
          else s.modFrame i fun f => { f with desc := { f.desc with committed := left, present := left }, data := f.data.set k zeroSector, fp := none }

/-- What an uncorrectable error damages (R372). Directory, tail, version and remap entries, code copies and clean pages are rebuilt
within the error's handling and leave no trace. -/
def State.regionDamaged (s : State) (region index : Nat) : State :=
  match region with
  | 1 => s.frameDamaged index
  | 2 => s.modWc fun w => { w with mirror := tdel w.mirror index }
  | 5 => s.modFtu fun f => { f with pages := lmod f.pages index fun p => { p with cached := p.loc.isNone } }
  | 7 => s.setDomain index .rebuilding 4
  | 10 => s.modWc fun w => { w with frames := tmod w.frames index fun f => { f with fp := none } }
  | 11 => s.streamParity index
  | 12 =>
    match tget s.evr.ring (index % 65536) with
    | none => s
    | some r =>
      if r.code = 0 then s
      else s.modEvr fun e => { e with
        ring := tput e.ring (index % 65536) { r with code := 0 }, invalid := bump 16 e.invalid, damaged := e.damaged + 1
        damagedFirst := if e.damaged = 0 then lo32 r.seq else e.damagedFirst }
  | 14 => s.warmReset
  | _ => s

/-- An uncorrectable error: counted, event 0x1604, what it damages. -/
def State.dramUe (s : State) (ch rank addr region index : Nat) : State :=
  let s := s.modMcu fun m => { m with ue := lmod m.ue ch (bump 32), ueLife := lmod m.ueLife ch (bump 32) }
  (s.event 0x1604 ch ch rank (lo32 addr) region).regionDamaged region index

/-- DRAM_UNCORRECTABLE. -/
def execDramUncorrectable (channel : Fin 12) (rank : Nat) (addr : BitVec 48) (region index : Nat) (s : State) : Host.Outcome State Fault Refusal :=
  if s.mcu.chSt.getD channel.val .untrained ≠ .ready then .next s else .next (s.dramUe channel.val rank addr.toNat region index)

/-- DRAM_PATROL_SCRUB: a round every 24 h; what it finds is treated in the same way. -/
def execDramPatrolScrub (found : List (Nat × Nat × Option (Nat × Nat × Nat))) (s : State) : Host.Outcome State Fault Refusal :=
  if !s.mcu.running then .next s
  else
    let s := s.advanceTo (s.mcu.patrolAt + secNs 86400)
    let s := s.modMcu fun m => { m with patrolAt := s.dt }
    .next (found.foldl (fun s f =>
      match f.2.2 with
      | none => s.dramCe (f.1 % 12) f.2.1
      | some u => s.dramUe (f.1 % 12) f.2.1 u.1 u.2.1 u.2.2) s)

/-! ## Staging (R376) -/

/-- STAGING_RELEASE_TIMEOUT: 16 µs after the last data flit of a command the entries go; PLK reads the copy from DRAM. -/
def execStagingReleaseTimeout (qp : BitVec 14) (cid : BitVec 16) (s : State) : Host.Outcome State Fault Refusal :=
  match s.cqe.cmd qp.toNat cid.toNat with
  | none => .next s
  | some c =>
    match s.slc.staging.find? fun x => x.1 == c.qp && x.2.1 == c.cid with
    | none => .next s
    | some x => if !c.complete then .next s else .next ((s.advanceTo (x.2.2.2 + 16000)).unstage c.qp c.cid)

/-! ## Ways (R375, R379) -/

/-- Retired ways of a slice. -/
def Slc.retiredIn (l : Slc) (slice : Nat) : Nat :=
  let r := tgetD l.retired slice 0
  ((List.range 16).filter fun w => r.getLsbD w).length

/-- Cache ways of a slice with so many scratchpad ways: a retired way's role moves to a cache way, so each costs one. -/
def Slc.cacheWays (l : Slc) (slice spad : Nat) : Nat := 14 - spad - l.retiredIn slice

/-- Scratchpad ways, counting those of a conversion that runs. -/
def Slc.waysWanted (l : Slc) : Nat := match l.busy with | some b => max l.ways b.2 | none => l.ways

/-- Retire a pair of slice and way: cause 1 corrected count, 2 uncorrectable, 3 boot test. -/
def State.retireWay (s : State) (slice way cause : Nat) : State :=
  let l := s.slc
  let r := tgetD l.retired slice 0
  if r.getLsbD way then s
  else if l.retiredIn slice ≥ 2 ∨ l.cacheWays slice l.waysWanted < 3 then
    (if l.limitSaid.contains slice then s
     else (s.event 0x1505 slice slice way (l.retiredIn slice) (l.cacheWays slice l.ways)).modSlc fun l => { l with limitSaid := slice :: l.limitSaid })
  else
    let s := s.modSlc fun l => { l with retired := tput l.retired slice (r ||| BitVec.ofNat 16 (2 ^ way)) }
    s.event 0x1504 slice slice way cause (s.slc.retiredIn slice)

/-- SLC_CORRECTED (R378): counted against slice and way; more than 8 in an hour retire the pair. -/
def execSlcCorrected (slice : Fin 64) (way : Fin 16) (s : State) : Host.Outcome State Fault Refusal :=
  if (tgetD s.slc.retired slice.val 0).getLsbD way.val ∨ s.rcc.hold ≠ .run then .next s
  else
    let recent := (slice.val, way.val, s.dt) :: s.slc.corrAt.filter fun x => decide (x.2.2 + secNs 3600 > s.dt)
    let key := 16 * slice.val + way.val
    let mine := recent.filter fun x => x.1 == slice.val && x.2.1 == way.val
    let s := s.modSlc fun l => { l with corr := bump 16 l.corr, corrAt := recent }
    let s := if tget s.slc.corrSec key = some (secOf s.dt) then s
      else (s.event 0x1502 slice.val slice.val way.val (mine.filter fun x => secOf x.2.2 == secOf s.dt).length 0).modSlc fun l =>
        { l with corrSec := tput l.corrSec key (secOf s.dt) }
    .next (if mine.length > 8 then s.retireWay slice.val way.val 1 else s)

/-! ## Uncorrectable SLC errors (R378) -/

/-- Outbound data of a sector is lost: the sector fails with DATA_LOST, and its grain is read again in the background. -/
def State.outboundLost (s : State) (c : Cmd) (off : Nat) : State :=
  let holds (p : Part) : Bool := p.sectors.any fun x => x.1 == off
  match c.parts.find? holds with
  | none => s
  | some p =>
    let s := s.recoverLater c.vol p.grain
    match c.decided with
    | none =>
      let keep := c.parts.map fun q => if holds q then { q with sectors := q.sectors.filter fun x => x.1 != off } else q
      let bad : Part := { p with sectors := p.sectors.filter (fun x => x.1 == off), result := some (stDataLost, 0), fetch := none }
      s.modCmd c.qp c.cid fun x => { x with parts := keep ++ [bad] }
    | some k =>
      if k.status ≠ 0 ∨ !s.cqe.ready.contains (c.port, k) then s
      else
        let k' := c.completion stDataLost 0 0 off 1
        let mine (t : TxItem) : Bool := match t.item with | .readData _ q i _ => q == c.qp && i == c.cid | _ => false
        let s := s.modPort (hostPort c.port) fun q => { q with txq := q.txq.filter fun t => !mine t }
        (s.modCmd c.qp c.cid fun x => { x with decided := some k' }).modCqe fun q => { q with ready := q.ready.map fun r => if r = (c.port, k) then (c.port, k') else r }

/-- What the line held. -/
def State.lineLost (s : State) (holds region index : Nat) : State :=
  if holds = 2 then s.regionDamaged region index
  else if holds = 3 then
    match s.cqe.cmd (index / 65536) (index % 65536) with
    | none => s
    | some c =>
      if region = 0 then (if c.open_ then (s.endEarly c stInternal).pokeCaws else s) else s.outboundLost c (region - 1)
  else s

/-- SLC_UNCORRECTABLE: counted, event 0x1503, the line's outcome; the pair is retired. -/
def execSlcUncorrectable (slice : Fin 64) (way : Fin 16) (holds : Fin 5) (region index : Nat) (s : State) : Host.Outcome State Fault Refusal :=
  if (tgetD s.slc.retired slice.val 0).getLsbD way.val ∨ s.rcc.hold ≠ .run then .next s
  else
    let s := s.modSlc fun l => { l with uncorr := bump 16 l.uncorr }
    let s := s.event 0x1503 slice.val slice.val way.val holds.val (if holds.val < 3 then region else 0)
    .next ((s.retireWay slice.val way.val 2).lineLost holds.val region index)

/-! ## Scratchpad (R380) -/

/-- A change of the cache's state: event 0x1501. -/
def State.setSlc (s : State) (st : SlcSt) (sess : Nat) : State :=
  if s.slc.st = st then s else (s.event 0x1501 0 (slcStNum s.slc.st) (slcStNum st) sess 0).modSlc fun l => { l with st := st }

/-- Some slice would keep fewer than 2 cache ways with so many scratchpad ways. -/
def Slc.tooFew (l : Slc) (n : Nat) : Bool := (List.range 64).any fun x => decide (l.cacheWays x n < 2)

/-- A request for n scratchpad ways: refused for the reasons of R380 in their order, or a conversion starts. -/
def State.requestWays (s : State) (n sess : Nat) : State :=
  let reason := if n < 2 ∨ n > 12 then 1 else if s.slc.tooFew n then 2 else if s.slc.busy.isSome then 3 else 0
  let s := s.modSlc fun l => { l with waysReq := n }
  if n = s.slc.ways ∧ s.slc.busy.isNone then s
  else if reason ≠ 0 then (s.event 0x1507 0 n reason 0 0).modSlc fun l => { l with reqErr := true }
  else
    let s := s.modSlc fun l => { l with busy := some (s.dt, n) }
    if s.slc.st = .enabled then s.setSlc .converting sess else s

/-- A write of SLC_SPAD: REQ_ERR clears, WAYS_REQ is requested. -/
def State.writeSpad (s : State) (v sess : Nat) : State :=
  let s := s.modSlc fun l => { l with reqErr := l.reqErr && !tbit v 31 }
  s.requestWays (bits v 11 8) sess

/-- SPAD_WAYS_REQ: a CSR_WRITE of SLC_SPAD. -/
def execSpadWaysReq (m : Vc3) (value : Word) (s : State) : Host.Outcome State Fault Refusal :=
  .next (s.regWrite m 0xA00008 2 fun s => s.writeSpad value.toNat m.sess.toNat)

/-- SPAD_CHANGED: the conversion ends, at the earliest with the zeroing of the ways, 5 µs; event 0x1506. The session that event 0x1501
names here is not stated: a free value (log entry 10). -/
def execSpadChanged (s : State) : Host.Outcome State Fault Refusal :=
  match s.slc.busy with
  | none => .next s
  | some (t, n) =>
    let s := s.advanceTo (t + 5000)
    let s := s.event 0x1506 0 s.slc.ways n ((s.dt - t) / 1000) 0
    let s := s.modSlc fun l => { l with ways := n, busy := none }
    .next (if s.slc.st = .converting then (s.setSlc .enabled (s.freeNat 32)).freshen else s)

/-! ## Disabling (R381) -/

/-- A write of SLC_CTRL. -/
def State.writeSlcCtrl (s : State) (v sess : Nat) : State :=
  if s.pmu.pstate ≠ .p2 then (s.event 0x1508 0 sess (pstateNum s.pmu.pstate) 0 0).modSlc fun l => { l with enRefused := true }
  else
    let en := tbit v 0
    let s := s.modSlc fun l => { l with en := en }
    if !en then (if s.slc.st = .enabled ∨ s.slc.st = .converting then s.setSlc .flushing sess else s)
    else if s.slc.st = .flushing ∨ s.slc.st = .disabled then s.setSlc .enabled sess
    else s

/-- SLC_DISABLE: a CSR_WRITE of SLC_CTRL. -/
def execSlcDisable (m : Vc3) (value : Word) (s : State) : Host.Outcome State Fault Refusal :=
  .next (s.regWrite m 0xA00000 3 fun s => s.writeSlcCtrl value.toNat m.sess.toNat)

/-- SLC_ENABLE: a CSR_WRITE of SLC_CTRL. -/
def execSlcEnable (m : Vc3) (value : Word) (s : State) : Host.Outcome State Fault Refusal :=
  .next (s.regWrite m 0xA00000 3 fun s => s.writeSlcCtrl value.toNat m.sess.toNat)

/-- SLC_FLUSH_DONE: no dirty line remains: the cache ways are bypassed. The session of event 0x1501 is a free value (log entry 10). -/
def execSlcFlushDone (s : State) : Host.Outcome State Fault Refusal :=
  if s.slc.st ≠ .flushing then .next s else .next (s.setSlc .disabled (s.freeNat 32)).freshen

end Sys2Proof.Machine
end

