-- ==== Sys2Proof/Machine/Lifecycle.lean ====
section
/-! DEFINITION. Chapter 15: tokens and lifecycle changes (R415 to R421), debug levels and purges (R422 to R425), JTAG (R426), and the
power states up to P3 (R427 to R429). The wake stands with the starts in Machine/Boot.lean. -/

namespace Sys2Proof.Machine

open Sys2Proof

/-! ## Answers of R418 -/

/-- A message of R418 carried out, or refused with a REASON. -/
def State.reasonTo (s : State) (port sess reqId typ reason : Nat) (more : Bytes) : State :=
  s.answerTo port sess reqId typ (if reason = 0 then stSuccess else stInvalidField) (leBytes 1 reason ++ more)

def State.reason (s : State) (m : Vc3) (typ reason : Nat) (more : Bytes) : State := s.reasonTo m.port.val m.sess.toNat m.reqId.toNat typ reason more

/-! ## Challenges and nonces (R417) -/

/-- The privilege an ACTION requires in a lifecycle state (R420); one outside 1 to 5 needs none of its own. -/
def actionPrivilege (l : Lifecycle) (action : Nat) : Nat :=
  if action = 3 ∨ (action = 5 ∧ l = .field) then 2 else if 1 ≤ action ∧ action ≤ 5 then 3 else 1

/-- DBG_CHALLENGE: a new nonce, a free value (log entry 10), bound to the ACTION and the session. -/
def execDbgChallenge (m : Vc3) (action : Byte) (s : State) : Host.Outcome State Fault Refusal :=
  .next (s.vc3 m 0x88 false true (actionPrivilege s.rot.lifecycle action.toNat) fun _ s =>
    if action = 0 ∨ action.toNat > 5 then s.reason m 0x88 5 []
    else
      let n := s.freeNat 256
      let s := s.freshen.modDbg fun d => { d with nonce := some { action := action.toNat, sess := m.sess.toNat, value := n, issuedAt := s.dt } }
      s.reason m 0x88 0 (leBytes 8 s.rot.serial ++ leBytes 1 (lifecycleNum s.rot.lifecycle) ++ leBytes 1 s.dbg.level ++ leBytes 6 0 ++ leBytes 32 n))

/-- NONCE_EXPIRY: 60 s after issue. -/
def execNonceExpiry (s : State) : Host.Outcome State Fault Refusal :=
  match s.dbg.nonce with
  | none => .next s
  | some n => .next ((s.advanceTo (n.issuedAt + secNs 60)).modDbg fun d => { d with nonce := none })

/-! ## Measurement and levels -/

/-- M5 (R385): SHA-384 of lifecycle state, debug level and fuse SVN, one byte each. -/
def State.extendM5 (s : State) : State :=
  s.extend 5 (sha384 (leBytes 1 (lifecycleNum s.rot.lifecycle) ++ leBytes 1 s.dbg.level ++ leBytes 1 s.rot.fuseSvn))

/-- A change of debug level: event 0x1801, M5. -/
def State.setLevel (s : State) (new sess cause : Nat) : State :=
  if s.dbg.level = new then s
  else ((s.event 0x1801 0 s.dbg.level new sess cause).modDbg fun d => { d with level := new, trace := new ≠ 0 }).extendM5

/-- A purge (R423): every XTS slot, the DGE fingerprint and JOB_KEY slots, the AKEK; event 0x1803. -/
def State.purge (s : State) (cause : Nat) : State :=
  let x := s.xts.keys.length
  let d := s.dge.fpKeys.length + s.dge.jobKeys.length
  let s := (s.modXts fun x => { x with keys := [], reload := [] }).modDge fun d => { d with fpKeys := [], jobKeys := [] }
  ((s.modRot fun r => { r with akek := none }).event 0x1803 0 x d cause 0).refreshVolumes

/-! ## Tokens (R419, R420) -/

/-- A token refused: counted, event 0x1802, the answer. -/
def State.refuseToken (s : State) (m : Vc3) (action reason : Nat) : State :=
  let s := s.modDbg fun d => { d with refused := bump 16 d.refused, lastReason := reason }
  (s.event 0x1802 0 action reason m.sess.toNat (lifecycleNum s.rot.lifecycle)).reason m 0x89 reason []

/-- The owner signature is needed (R420). -/
def ownerSigned (l : Lifecycle) (action : Nat) : Bool := action == 3 || (l == .field && action != 2)

/-- The vendor signature is needed. -/
def vendorSigned (l : Lifecycle) (action : Nat) : Bool := action != 3 && !(l == .field && action == 5)

/-- The owner chain of a token: under the anchor fused, or under the one that TO_FIELD brings (R419, R421). -/
def Rot.ownerHolds (r : Rot) (action : Nat) (t : Token) : Bool :=
  t.ownerOk && (match r.ownerAnchor with | some a => a == t.anchor | none => action == 3)

/-- The action is allowed from the state (R420); D2 and D3 are entered from a lower level only. -/
def actionAllowed (l : Lifecycle) (level action : Nat) : Bool :=
  match action with
  | 1 => (l == .provisioned || l == .field || l == .ret) && decide (level < 2)
  | 2 => l == .ret && decide (level < 3)
  | 3 => l == .provisioned
  | 4 => l == .provisioned || l == .field
  | 5 => l == .provisioned || l == .field || l == .ret
  | _ => false

/-- No live frame, no live mirror entry (R420). -/
def State.cacheEmpty (s : State) : Bool := s.wc.frames.isEmpty && s.wc.mirror.isEmpty

/-- TO_FIELD: the owner signature of the running slot, and of the other slot if VALID, verifies under the anchor. -/
def State.slotsOwned (s : State) : Bool :=
  let other := !s.rot.slotB
  (match s.rot.image with | some i => i.ownerSigOk | none => false) &&
  (s.nvi.slotSt other != .valid || (match s.nvi.slot other with | some i => i.ownerSigOk | none => false))

/-- The nonce of a token is the valid one, for its action and session. -/
def State.nonceHolds (s : State) (m : Vc3) (action : Nat) (t : Token) : Bool :=
  match s.dbg.nonce with
  | some n => n.action == action && n.sess == m.sess.toNat && n.value == t.nonce
  | none => false

/-- The REASON for which a token is refused; 0 if it is not. The coincidences of R432 come first, then the REASONs in their order (log
entry 63). -/
def State.tokenReason (s : State) (m : Vc3) (action : Nat) (t : Token) : Nat :=
  let l := s.rot.lifecycle
  if s.pmu.pstate = .p4 then 6
  else if s.pmu.trans.isSome then 2
  else if s.dbg.action.isSome then 8
  else if !s.nonceHolds m action t then 1
  else if t.serial ≠ s.rot.serial then 2
  else if vendorSigned l action ∧ !t.vendorOk then 3
  else if ownerSigned l action ∧ !s.rot.ownerHolds action t then 4
  else if !actionAllowed l s.dbg.level action then 5
  else if s.pmu.pstate ≠ .p2 then 6
  else if action ≠ 2 ∧ s.ha.held ≠ [] then 7
  else if action ≥ 3 ∧ !s.cacheEmpty then 7
  else if action = 3 ∧ !s.slotsOwned then 4
  else 0

/-- A DBG_TOKEN of an action. The nonce ends with its first use; a token of a bad format is refused for a REASON that is not listed: a
free value (log entry 10). -/
def State.token (s : State) (m : Vc3) (action : Nat) (t : Token) (act : State → State) : State :=
  s.vc3 m 0x89 false true (actionPrivilege s.rot.lifecycle action) fun _ s =>
    if !t.fmtOk then (s.refuseToken m action (s.freeNat 8)).freshen
    else
      let r := s.tokenReason m action t
      let s := if s.nonceHolds m action t then s.modDbg fun d => { d with nonce := none } else s
      if r ≠ 0 then s.refuseToken m action r else act s

/-- Step 1 of R424: from now on nothing is admitted and no media operation issued. -/
def State.startDebug (s : State) (m : Vc3) (level : Nat) : State :=
  (s.holdAnswer m).modDbg fun d => { d with
    action := some { level := level, port := m.port.val, sess := m.sess.toNat, reqId := m.reqId.toNat, at_ := s.dt } }

/-- DEBUG_D2. -/
def execDebugD2 (m : Vc3) (t : Token) (s : State) : Host.Outcome State Fault Refusal := .next (s.token m 1 t fun s => s.startDebug m 2)

/-- DEBUG_D3. -/
def execDebugD3 (m : Vc3) (t : Token) (s : State) : Host.Outcome State Fault Refusal := .next (s.token m 2 t fun s => s.startDebug m 3)

/-- A media operation on a die is in flight. -/
def State.dieOps (s : State) : Bool := s.link.ops.any fun o => o.2.opc == mRead || o.2.opc == mSoft || o.2.opc == mProgram || o.2.opc == mErase

/-- D2_QUIESCED (R424 steps 2 to 4): the purge, the level, role HELD, the answer. -/
def execD2Quiesced (s : State) : Host.Outcome State Fault Refusal :=
  match s.dbg.action with
  | none => .next s
  | some a =>
    if s.dieOps then .next s
    else
      let s := (s.purge (a.level - 1)).modDbg fun d => { d with action := none }
      let s := (s.setLevel a.level a.sess 1).goHeld 0
      .next (s.reasonTo a.port a.sess a.reqId 0x89 0 [])

/-- The lifecycle fuses are blown: the answer, event 0x060F, and the cold reset once the answer has left (R421). -/
def State.toLifecycle (s : State) (m : Vc3) (new : Lifecycle) (action : Nat) : State :=
  let old := s.rot.lifecycle
  let s := (s.modRot fun r => { r with lifecycle := new }).reason m 0x89 0 []
  ((s.event 0x060F 0 (lifecycleNum old) (lifecycleNum new) action m.sess.toNat).modRcc fun r => { r with acting := some 2 }).actSwrst

/-- TO_FIELD: the owner anchor is fused, then the lifecycle. -/
def execToField (m : Vc3) (t : Token) (s : State) : Host.Outcome State Fault Refusal :=
  .next (s.token m 3 t fun s => (s.modRot fun r => { r with ownerAnchor := some t.anchor }).toLifecycle m .field 3)

/-- Steps 1 to 3 of R421: the purge, the pair key, the wrap-key erase fuse. -/
def State.eraseKeys (s : State) : State :=
  ((s.purge 3).modSnw fun n => { n with paired := false }).modRot fun r => { r with wrapErased := true }

/-- TO_RETURN. -/
def execToReturn (m : Vc3) (t : Token) (s : State) : Host.Outcome State Fault Refusal :=
  .next (s.token m 4 t fun s => s.eraseKeys.toLifecycle m .ret 4)

/-- TO_END. -/
def execToEnd (m : Vc3) (t : Token) (s : State) : Host.Outcome State Fault Refusal :=
  .next (s.token m 5 t fun s => s.eraseKeys.toLifecycle m .ended 5)

/-! ## DBG_OBSERVE (R422) -/

/-- DBG_OBSERVE 1: D1 from D0; no change at a higher level. -/
def execDbgObserveOn (m : Vc3) (s : State) : Host.Outcome State Fault Refusal :=
  .next (s.vc3 m 0x8A false true 3 fun _ s => (if s.dbg.level = 0 then s.setLevel 1 m.sess.toNat 2 else s).reason m 0x8A 0 [])

/-- DBG_OBSERVE 0: D0 from D1. -/
def execDbgObserveOff (m : Vc3) (s : State) : Host.Outcome State Fault Refusal :=
  .next (s.vc3 m 0x8A false true 3 fun _ s => (if s.dbg.level = 1 then s.setLevel 0 m.sess.toNat 2 else s).reason m 0x8A 0 [])

/-! ## JTAG (R426, R435) -/

/-- The instruction is allowed in the lifecycle state at the debug level. -/
def tapAllowed (l : Lifecycle) (level : Nat) (i : TapInstr) : Bool :=
  match i with
  | .extest => l == .blank || l == .provisioned || l == .ret || (l == .field && level == 2)
  | .clamp => l == .blank || l == .provisioned || l == .ret || (l == .field && level == 2)
  | .highz => l == .blank || l == .provisioned || l == .ret || (l == .field && level == 2)
  | .debugPort => l == .blank || (l != .ended && decide (level ≥ 1))
  | _ => true

/-- The pins are taken from their blocks: every lane as though DOWN, DRAM contents lost; only a cold reset restores the blocks. -/
def State.scanPins (s : State) : State :=
  let s := (List.range 144).foldl (fun s n => if (s.link.lane n).st = .idle then s else s.setLane n .down 11) s
  let s := (s.modWc fun w => { w with frames := [], mirror := [], fwdData := [] }).modMcu fun m => { m with chSt := List.replicate 12 .untrained }
  (s.modEvr fun e => { e with up := false, ring := [] }).modDbg fun d => { d with scan := true }

/-- JTAG_INSTRUCTION: a disallowed one selects BYPASS, sets JTAG_REFUSED and records event 0x1804. -/
def execJtagInstruction (i : TapInstr) (code : Byte) (s : State) : Host.Outcome State Fault Refusal :=
  if !tapAllowed s.rot.lifecycle s.dbg.level i then
    let s := s.event 0x1804 0 code.toNat (lifecycleNum s.rot.lifecycle) s.dbg.level 0
    .next (s.modDbg fun d => { d with tap := .bypass, jtagRefused := true })
  else
    let s := s.modDbg fun d => { d with tap := if i = .other then .bypass else i }
    .next (if i = .extest ∨ i = .clamp ∨ i = .highz then s.scanPins else s)

/-- JTAG_CORE_RESET (R435 source 12, R437): at D2 or D3, or in BLANK; the stack cores are held while the command is asserted. Its code in
event 0x1804 is a free value (log entry 10). -/
def execJtagCoreReset (asserted : Bool) (s : State) : Host.Outcome State Fault Refusal :=
  if s.dbg.level < 2 ∧ s.rot.lifecycle ≠ .blank then
    .next (if asserted then (s.event 0x1804 0 (s.freeNat 32) (lifecycleNum s.rot.lifecycle) s.dbg.level 0).freshen else s)
  else if !asserted then .next (s.modRcc fun r => { r with coresHeld := false })
  else
    let s := s.modRcc fun r => { r.setCause 12 with coresHeld := s.rcc.hold == .run || r.coresHeld }
    .next (if s.rcc.hold = .run then s.modDbg fun d => { d with nonce := none } else s)

/-! ## Power states (R427 to R429) -/

/-- A PM_SET refused: event 0x0302, the answer. -/
def State.refusePm (s : State) (m : Vc3) (target reason : Nat) : State :=
  ((s.event 0x0302 0 target reason m.sess.toNat 0).modPmu fun p => { p with lastReason := reason }).reason m 0x8B reason []

/-- A PM_SET of a target: refused in P4 (6) and during a transition or a DEBUG action (2). -/
def State.pmSet (s : State) (m : Vc3) (target : Nat) (act : State → State) : State :=
  s.vc3 m 0x8B false true 2 fun _ s =>
    if s.pmu.pstate = .p4 then s.refusePm m target 6
    else if target = 3 ∧ s.pmu.pstate ≠ .p2 then s.refusePm m target 1
    else if s.pmu.trans.isSome ∨ s.dbg.action.isSome then s.refusePm m target 2
    else act s

/-- The transition begins: TARGET and BUSY show it; its answer waits. -/
def State.startPm (s : State) (m : Vc3) (target : Nat) : State :=
  (s.holdAnswer m).modPmu fun p => { p with
    trans := some { target := target, port := m.port.val, sess := m.sess.toNat, reqId := m.reqId.toNat, at_ := s.dt } }

/-- PM_SET 0: at once from P2 at D0 or D1; P1 where GOV is CAPPED. -/
def execPmSetP0 (m : Vc3) (s : State) : Host.Outcome State Fault Refusal :=
  .next (s.pmSet m 0 fun s =>
    if s.dbg.level ≥ 2 then s.refusePm m 0 5
    else (if s.pmu.pstate = .p2 then s.setPstate (if s.gov.capped then .p1 else .p0) 1 m.sess.toNat else s).reason m 0x8B 0 [])

/-- PM_SET 2 (R428): no volume is ready from now on; class 7 commands that wait and writes whose data has not all come end. -/
def execPmSetP2 (m : Vc3) (s : State) : Host.Outcome State Fault Refusal :=
  .next (s.pmSet m 2 fun s =>
    if s.pmu.pstate = .p2 then s.reason m 0x8B 0 []
    else
      let s := s.startPm m 2
      let hit (c : Cmd) : Bool := c.open_ && c.fwdAt.isNone && (c.waiting7 || (c.admitted && writing c.opc && !c.complete))
      (s.cqe.cmds.filter hit).foldl (fun s c => s.failCmd c stVolumeNotReady) s)

/-- P2_REACHED: no command is outstanding; PM_SET is answered. -/
def execP2Reached (s : State) : Host.Outcome State Fault Refusal :=
  match s.pmu.trans with
  | none => .next s
  | some t =>
    if t.target ≠ 2 ∨ s.cqe.cmds ≠ [] then .next s
    else .next (((s.setPstate .p2 1 t.sess).modPmu fun p => { p with trans := none }).reasonTo t.port t.sess t.reqId 0x8B 0 [])

/-- PM_SET 3 (R429): steps 1 and 2. -/
def execPmSetP3 (m : Vc3) (s : State) : Host.Outcome State Fault Refusal :=
  .next (s.pmSet m 3 fun s =>
    if !s.cacheEmpty ∨ s.ftu.commits.any (fun c => !c.durable) then s.refusePm m 3 3
    else if s.ha.held ≠ [] then s.refusePm m 3 4
    else if s.dbg.level ≥ 2 ∨ (s.rot.lifecycle ≠ .provisioned ∧ s.rot.lifecycle ≠ .field) then s.refusePm m 3 5
    else
      let s := if s.evr.stRunning then s.selfTestAbort else s
      (s.startPm m 3).modCpe fun c => { c with ctx := [] })

/-- The end of the last reservation. -/
def Dsc.lastStop (d : Dsc) : Nat := d.cal.foldl (fun m r => max m r.stop) 0

/-- P3_ENTERED (R429 steps 3 to 5): heartbeats with PSTATE 3, the DIMMs in self-refresh, the other blocks without power; entry ends D1. -/
def execP3Entered (s : State) : Host.Outcome State Fault Refusal :=
  match s.pmu.trans with
  | none => .next s
  | some t =>
    if t.target ≠ 3 then .next s
    else
      let s := s.advanceTo s.dsc.lastStop
      let s := ((s.setPstate .p3 1 t.sess).modPmu fun p => { p with trans := none }).sendHeartbeat.sendMailbox
      let s := (s.setLevel 0 0xFFFF 4).event 0x1606 0 0xFFF 1 0 0
      let s := s.reasonTo t.port t.sess t.reqId 0x8B 0 []
      let p := { s.pmu with p3At := s.dt }
      let s := s.clearWarm.modMcu fun m => { m with chSt := List.replicate 12 .selfRefresh }
      .next (s.modPmu fun _ => p)

/-- The words of PMU_STAT and DBG_STAT. -/
def State.pmuStat (s : State) : Nat :=
  let target := match s.pmu.trans with | some t => t.target | none => 0
  pstateNum s.pmu.pstate * 2 ^ 29 + target * 2 ^ 26 + bit s.pmu.trans.isSome * 2 ^ 25 + bit (s.ha.peerP3Plk && s.ha.peerP3Mbox) * 2 ^ 24 +
    s.pmu.lastReason * 256 + s.pmu.lastCause

def State.dbgStat (s : State) : Nat :=
  s.dbg.level * 2 ^ 30 + bit s.dbg.nonce.isSome * 2 ^ 29 + bit s.dbg.jtagRefused * 2 ^ 28 + bit s.dbg.trace * 2 ^ 27 +
    lifecycleNum s.rot.lifecycle * 2 ^ 24 + s.dbg.lastReason * 2 ^ 16 + s.dbg.refused

/-- PM_STATUS: both registers of one instant; DBG_STAT.REFUSED clears only with a CSR_READ (log entry 63). -/
def execPmStatus (m : Vc3) (s : State) : Host.Outcome State Fault Refusal :=
  .next (s.vc3 m 0x8C false true 1 fun _ s => s.reason m 0x8C 0 (leBytes 4 s.pmuStat ++ leBytes 4 s.dbgStat))

end Sys2Proof.Machine
end

