-- ==== Sys2Proof/Machine/Vault.lean ====
section
/-! DEFINITION. Chapter 05: the power-fail warning and the vault (R151 to R153), and what the vault and DRAM give back at a start (R154
to R157). -/

namespace Sys2Proof.Machine

open Sys2Proof

/-! ## PWRFAIL_N (R151) -/

/-- A reservation of background work: neither a host command's nor the peer's. -/
def State.isBackground (s : State) (r : Resv) : Bool :=
  let host (w : Work) : Bool := match w with
    | .hostRead _ _ _ => true
    | .mapRead _ _ => true
    | .peerRead _ => true
    | .peerSoft _ => true
    | .vault _ _ => true
    | .vaultHeader => true
    | _ => false
  r.kind != .settle && r.kind != .busy &&
  (match r.work with
   | .fetch n => (match s.fetchOf n with | some f => !host f.work | none => true)
   | .none => false
   | w => !host w)

/-- PWRFAIL_SEEN: step 2 of R151, 2 µs after the falling edge. In P3 and during a reset there is nothing to do (R432). -/
def execPwrfailSeen (s : State) : Host.Outcome State Fault Refusal :=
  if s.rcc.hold ≠ .run ∨ s.pmu.pstate = .p3 ∨ s.pmu.pstate = .p4 then .next s
  else
    let s := (s.modWc fun w => { w with pwrfail := some s.dt, pwrfailRose := false }).setPstate .p4 4 0xFFFF
    let s := (s.event 0x1442 0 s.wc.frames.length s.wc.mirror.length s.wc.vaultMs 0).modPmu fun p => { p with trans := none }
    let s := if s.evr.stRunning then s.selfTestAbort else s
    let s := s.modDsc fun d => { d with cal := d.cal.filter fun r => r.issued || !s.isBackground r }
    let hit (c : Cmd) : Bool := c.open_ && c.fwdAt.isNone && (c.waiting7 || (c.admitted && writing c.opc && !c.complete))
    .next ((s.cqe.cmds.filter hit).foldl (fun s c => s.failCmd c stVolumeNotReady) s)

/-! ## The vault (R152, R153) -/

/-- Frames and mirror entries in one vault stripe: 16 chunks of 64 KiB over 8,224 bytes each (log entry 64). -/
def framesPerStripe : Nat := 16 * 65536 / 8224

/-- Lists of at most n. -/
def chunksOf {α : Type} (n : Nat) : Nat → List α → List (List α)
  | 0, _ => []
  | k + 1, xs => if xs.isEmpty then [] else xs.take n :: chunksOf n k (xs.drop n)

/-- Own frames with committed sectors, oldest commit first, then the mirror area's live entries. -/
def Wc.vaultItems (w : Wc) : List (Bool × Nat × Frame) :=
  let put (x : Nat × Frame) (xs : List (Nat × Frame)) : List (Nat × Frame) :=
    xs.takeWhile (fun y => decide (y.2.firstCommit ≤ x.2.firstCommit)) ++ x :: xs.dropWhile fun y => decide (y.2.firstCommit ≤ x.2.firstCommit)
  let own := (w.frames.filter fun f => f.2.desc.committed != 0).foldl (fun xs x => put x xs) []
  (own.map fun f => (false, f.1, f.2)) ++ (w.mirror.filter fun f => f.2.desc.committed != 0).map fun f => (true, f.1, f.2)

/-- Places of stripe k's 18 members on the vault die set, one module after another (log entry 64). -/
def stripeDies (dies : List (List Nat)) (k : Nat) : List Nat :=
  let n := dies.length
  (List.range 18).filterMap fun m =>
    let i := 18 * k + m
    (dies[i % max 1 n]?).bind fun ds => ds[i / max 1 n % max 1 ds.length]?

/-- The header and the stripes are planned. -/
def State.planVault (s : State) : State :=
  let items := s.wc.vaultItems
  let own := (items.filter fun x => !x.1).length
  let stripes := (chunksOf framesPerStripe items.length items).zipIdx
  let seq := s.wc.vaultSeq + 1
  let hdr : VaultHdr := {
    st := 1, headB := s.glb.headB, vseq := seq, dtPf := s.wc.pwrfail.getD s.dt, cepoch := s.cfg.epoch, stripes := stripes.length
    own := own, mirr := items.length - own, limitGib := s.wc.limit }
  let s := s.modWc fun w => { w with
    vault := some hdr, vaultSeq := seq, vaultPlan := stripes.map fun x => (x.2, x.1), vaultLeft := stripes.map fun x => (x.2, 18) }
  let dies := s.vaultDies
  stripes.foldl (fun s x => ((stripeDies dies x.2).zipIdx).foldl (fun s d => s.placeVault d.1 (.vault x.2 d.2)) s) s.placeHeader

/-- Nothing is vaulted: no live frame or entry, no vault key, or debug or lifecycle states without keys (R432, R433). -/
def State.nothingToVault (s : State) : Bool :=
  s.wc.vaultItems.isEmpty || (tget s.xts.keys vaultSlot).isNone || decide (s.dbg.level ≥ 2)

/-- VAULT_FREEZE: steps 4 and 5 of R151, 3 ms after the falling edge: the lease records are written RELEASED (R339), commands still
outstanding are abandoned, the write cache is frozen, the header is written OPEN. -/
def execVaultFreeze (s : State) : Host.Outcome State Fault Refusal :=
  match s.wc.pwrfail with
  | none => .next s
  | some t =>
    if s.pmu.pstate ≠ .p4 ∨ s.wc.frozen then .next s
    else
      let s := s.advanceTo (t + 2998000)
      let held := (s.ha.leases.filter fun l => l.2.view != 0).map (·.1)
      let s := (s.leaseNotes s.ha.held 1)
      let s := held.foldl (fun s g => s.releaseLease g) s
      let s := s.cqe.cmds.foldl (fun s c => s.letGo c) s
      let s := s.modCqe fun c => { c with cmds := [], ready := [] }
      let s := s.modWc fun w => { w with frozen := true, frames := w.frames.map fun f => (f.1, { f.2 with pend := [] }) }
      if s.nothingToVault then
        let s := (s.modWc fun w => { w with vaultDone := true }).releaseHeld
        .next (if s.wc.pwrfailRose then s.warmReset else s)
      else .next s.planVault

/-- PWRFAIL_RISE (R153): the vault runs to its step 7; then a warm reset. -/
def execPwrfailRise (s : State) : Host.Outcome State Fault Refusal :=
  if s.pmu.pstate ≠ .p4 then .next s
  else
    let s := s.modWc fun w => { w with pwrfailRose := true }
    .next (if s.wc.vaultDone then s.warmReset else s)

/-! ## Recovery (R154 to R157) -/

/-- Restore one vaulted frame: the copy with the higher generation stays. -/
def restoreFrame (t : Tbl Frame) (i : Nat) (f : Frame) : Tbl Frame :=
  match tget t i with
  | some g => if f.desc.gen > g.desc.gen then tput t i f else t
  | none => tput t i f

/-- A frame as it comes back: DIRTY, nothing pending, no commit under way. -/
def Frame.restored (f : Frame) : Frame := { f with st := .dirty, pend := [], stage := 0, commit := none, mirrored := false }

/-- An own frame that the peer's vault or mirror area gives. -/
def peerFrame (d : Desc) (data : List Bytes) (dt : Nat) : Frame := { desc := d, st := .dirty, data := data, firstCommit := dt }

/-- Vault stripes that can be read, and what they carry. -/
def Wc.readable (w : Wc) (unreadable : List Nat) : List (Bool × Nat × Frame) :=
  (w.vaultPlan.filter fun p => !unreadable.contains p.1).flatMap (·.2)

/-- Grains lost with the vault (R155): event 0x1404 and the notices of lost stripes. -/
def State.loseGrains (s : State) (lost : List (Nat × Nat)) : State := lost.foldl (fun s g => s.loseGrain g.1 g.2 1 1) s

/-- The vault found after a cold boot (R154): its readable stripes, the peer's copies, the losses; the header becomes REPLAYED. -/
def State.replayVault (s : State) (unreadable : List Nat) (peer : List (Nat × Desc × List Bytes)) (lost : List (Nat × Nat)) : State :=
  match s.wc.vault with
  | none => s
  | some h =>
    if h.st = 3 then s
    else
      let items := s.wc.readable unreadable
      let own := items.filter fun x => !x.1
      let mirr := items.filter fun x => x.1
      -- the vault holds them oldest commit first (R152); DT has begun anew
      let frames := own.zipIdx.foldl (fun t x => restoreFrame t x.1.2.1 { x.1.2.2.restored with firstCommit := x.2 }) []
      let frames' := peer.foldl (fun t x => restoreFrame t x.1 (peerFrame x.2.1 x.2.2 s.dt)) frames
      let top := (frames'.map fun f => f.2.desc.gen).foldl max s.wc.gen
      let s := s.modWc fun w => { w with
        frames := frames', mirror := mirr.foldl (fun t x => restoreFrame t x.2.1 x.2.2.restored) [], gen := top, nextFrame := 0
        vault := some { h with st := 3 }, vaultPlan := [], vaultLeft := [], keepRestored := mirr != [], lastValid := true
        lastOutcome := if h.st = 2 then 3 else 2, lastMs := 0 }
      let s := s.loseGrains lost
      if h.st = 2 then s.event 0x1445 0 own.length mirr.length lost.length 0
      else
        let taken := frames'.length - frames.length
        s.event 0x1444 0 ((h.stripes - unreadable.length)) own.length taken (h.own - own.length - taken)

/-- After a warm reset (R157): frames whose descriptor fails go; then the cache is kept, or discarded when the peer has raised the
fencing epoch. A vault found is superseded (R153). -/
def State.retainCache (s : State) (descBad : List (Bool × Nat)) (raised : Bool) : State :=
  let s := descBad.foldl (fun s b =>
    let t := if b.1 then s.wc.mirror else s.wc.frames
    if (tget t b.2).isNone then s
    else (s.event 0x1449 0 b.2 (bit b.1) 0 0).modWc fun w => if b.1 then { w with mirror := tdel w.mirror b.2 } else { w with frames := tdel w.frames b.2 }) s
  let n := s.wc.frames.length + s.wc.mirror.length
  let s := s.modWc fun w => if w.vault.isSome ∧ w.vaultPlan ≠ [] then { w with lastValid := true, lastOutcome := 4, vault := w.vault.map fun h => { h with st := 3 }, vaultPlan := [], vaultLeft := [] } else w
  if raised then
    (s.event 0x1446 0 0 n 0 0).modWc fun w => { w with frames := [], mirror := [] }
  else
    let kept := (s.wc.frames.filter fun f => f.2.desc.committed != 0).map fun f => (f.1, f.2.restored)
    let s := s.modWc fun w => { w with frames := kept }
    let m := kept.length + s.wc.mirror.length
    s.event 0x1446 0 m (n - m) 1 0

end Sys2Proof.Machine
end

