-- ==== Sys2Proof/Machine/Boot.lean ====
section
/-! DEFINITION. Chapters 14 to 16: the release of the chip (R439, R440, R445), slot selection (R390), the cold and warm boot steps (R396 to
R398), training (R370), readiness, and the wake from P3 (R430). -/

namespace Sys2Proof.Machine

open Sys2Proof

/-! ## The event recorder at a start (R438, R459) -/

/-- The mirror's records from a sequence number on go into the ring, each to its own slot. -/
def Evr.copyMirror (e : Evr) (lowest : Nat) : Evr :=
  { e with ring := (e.mirror.filter fun r => decide (lowest ≤ r.seq)).foldl (fun t r => tput t (r.seq % 65536) r) e.ring }

/-- One above the highest sequence in the ring. -/
def Evr.ringNext (e : Evr) : Nat := e.ring.foldl (fun m r => max m (r.2.seq + 1)) 0

/-- Event 0x0401, with its own sequence, then 0x0201. -/
def State.startRecords (s : State) (cause copied waitedUs : Nat) : State :=
  let s := s.event 0x0401 0 cause copied (lo32 s.evr.seq) 0
  s.event 0x0201 0 s.rcc.cause.toNat (256 * s.rcc.glitchDomain + s.rcc.glitchSub) (if s.rcc.fromWarm then 2 else 1) waitedUs

/-- EVR at a cold start: records are in the mirror alone until DRAM is trained (log entry 65). -/
def State.evrCold (s : State) (waitedUs : Nat) : State :=
  let s := s.modEvr fun e => { e with ring := [], up := false, lifeCold := e.lifeCold + 1 }
  s.startRecords (if s.rcc.fromPor then 3 else 1) (if s.rcc.fromPor then 0 else s.evr.mirror.length) waitedUs

/-- DRAM is trained: the ring takes the mirror's records and is written from now on. -/
def State.evrUp (s : State) : State := s.modEvr fun e => { e.copyMirror 0 with up := true }

/-- EVR at a warm start. -/
def State.evrWarm (s : State) (waitedUs : Nat) : State :=
  let low := s.evr.ringNext
  let n := (s.evr.mirror.filter fun r => decide (low ≤ r.seq)).length
  let s := s.modEvr fun e => { e.copyMirror low with up := true, lifeWarm := e.lifeWarm + 1 }
  s.startRecords 2 n waitedUs

/-! ## Slot selection (R390) -/

/-- Rule 4. -/
def State.activeSlot (s : State) : Option (Bool × Nat) :=
  let a := s.nvi.activeB
  if s.nvi.slotSt a = .valid then some (a, 4) else if s.nvi.slotSt (!a) = .valid then some (!a, 4) else none

/-- The slot chosen and the rule that chose it. -/
def State.chooseSlot (s : State) : Option (Bool × Nat) × State :=
  if s.glb.bootForce = 1 ∨ s.glb.bootForce = 2 then (some (s.glb.bootForce == 2, 1), s)
  else if s.nvi.stA = .trial ∨ s.nvi.stB = .trial then
    let b := s.nvi.stA != .trial
    if s.nvi.tries > 0 then (some (b, 2), s.writeBcb fun n => { n with tries := n.tries - 1 })
    else
      let s := s.writeBcb fun n => n.setSt b .bad
      (s.activeSlot, s)
  else (s.activeSlot, s)

/-- Event 0x0601; the SVN of a slot that holds no image is a free value (log entry 10). -/
def State.slotSelected (s : State) (b : Bool) (rule : Nat) : State :=
  match s.nvi.slot b with
  | some i => s.event 0x0601 0 (bit b) rule s.nvi.tries i.svn
  | none => (s.event 0x0601 0 (bit b) rule s.nvi.tries (s.freeNat 32)).freshen

/-- Why a slot fails; one that holds no image has no header. -/
def State.slotReason (s : State) (b : Bool) : Nat × Option Nat :=
  match s.nvi.slot b with
  | some i => imageReason s.rot i
  | none => (1, none)

/-- BOOT_FAIL: stage 15, the alert released, event 0x0603. The reason of a slot that was not tried is a free value (log entry 10). -/
def State.bootFail (s : State) (reasons : Bool → Option Nat) : State :=
  let a := (reasons false).getD (s.freeNat 32)
  let s := s.freshen
  let b := (reasons true).getD (s.freeNat 32)
  let s := (s.freshen.modRot fun r => { r with stage := 15, image := none }).modGlb fun g => { g with alert := false }
  s.event 0x0603 0 a b 0 0

/-! ## What an image brings (R392 to R397) -/

/-- The digest of a record. -/
def imageDigest (i : Image) (typ : Nat) : Option Bytes := (i.records.find? fun r => r.typ == typ).map (·.digest)

/-- Measurements M0 to M5 (R385). -/
def State.measure (s : State) (i : Image) : State :=
  let one (s : State) (m typ : Nat) : State := match imageDigest i typ with | some d => s.extend m d | none => s
  let s := (i.records.filter fun r => decide (0x10 ≤ r.typ) && decide (r.typ ≤ 0x17)).foldl (fun s r => s.extend 3 r.digest) s
  (one (one (one (one s 4 0x16) 0 1) 1 2) 2 3).extendM5

/-- ISLAND_CODE goes into the island where its code differs; the pair key is cleared (R397). -/
def State.loadIsland (s : State) (i : Image) : State :=
  match imageDigest i 2 with
  | none => s
  | some d => if s.rot.islandCode = some d then s else (s.modRot fun r => { r with islandCode := some d }).modSnw fun n => { n with paired := false }

/-- GOV_COEF of the image, or the reset values (R393). -/
def State.loadCoef (s : State) : State :=
  match s.rot.image.bind (·.govCoef) with
  | some (form, cs) => s.modGov fun g => { g with form := form, formAct := form, coef := cs, coefAct := cs }
  | none => s

/-- The static records in use: lane map, population and sizes, class table, coefficients; the AVS loop starts (R396 step 6). -/
def State.applyStatic (s : State) (i : Image) : State :=
  let s := s.modLink fun l => { l with splits := i.splits, mediaMap := i.mediaMap, mapRead := true }
  let s := (i.gcmPorts.filter (· < 113)).foldl (fun s p => s.modLink fun l => { l with ports := tput l.ports p { tgetD l.ports p {} with gcm := true } }) s
  let s := (s.modDsc fun d => { d with classes := if i.classTable.length = 8 then i.classTable else d.classes }).loadCoef
  let s := s.modWc fun w => { w with sizeGib := i.sizes.wc, holdup := i.holdupMs }
  (s.modMcu fun m => { m with pop := some i.population }).modGlb fun g => { g with avsRun := i.vrAddrs != [] }

/-- An image that has passed its checks runs. -/
def State.runImage (s : State) (b : Bool) (i : Image) : State :=
  let s := s.modRot fun r => { r with image := some i, slotB := b, trial := s.nvi.slotSt b == .trial }
  (s.measure i).applyStatic i |>.loadIsland i

/-! ## Tests of a cold boot -/

/-- DGE lanes that fail a known-answer test (R161): lane and algorithm. -/
def State.testDge (s : State) (bad : List (Nat × Nat)) : State :=
  let bad := bad.filter fun b => decide (b.1 < 32)
  let s := s.modDge fun d => { d with tested := true, bad := [] }
  bad.foldl (fun s b =>
    if s.dge.bad.contains b.1 then s
    else
      let s := s.modDge fun d => { d with bad := b.1 :: d.bad }
      s.event 0x0F05 b.1 b.1 b.2 s.dge.lanesOk 0) s

/-- CPE (0) and XTS (1) lanes that fail theirs (R196, R409): engine, lane, test. -/
def State.testEngines (s : State) (bad : List (Nat × Nat × Nat)) : State :=
  let s := (s.modCpe fun c => { c with tested := true, bad := [] }).modXts fun x => { x with tested := true, bad := [] }
  bad.foldl (fun s b =>
    let n := b.2.1
    if b.1 = 0 then
      if n ≥ 48 ∨ s.cpe.bad.contains n then s
      else
        let s := s.modCpe fun c => { c with bad := n :: c.bad }
        s.event 0x1102 n n b.2.2 s.cpe.lanesOk 0
    else if n ≥ 32 ∨ s.xts.bad.contains n then s
    else
      let s := s.modXts fun x => { x with bad := n :: x.bad }
      s.event 0x1201 n n b.2.2 s.xts.lanesOk 0) s

/-! ## Cold boot -/

/-- Steps 3 to 6 of R396; training begins (step 7). -/
def State.bootCold (s : State) (badLanes : List (Nat × Nat)) : State :=
  let train (s : State) : State := (s.modMcu fun m => { m with chSt := List.replicate 12 .training }).modRot fun r => { r with stage := 6 }
  let run (s : State) (b : Bool) : State := match s.nvi.slot b with
    | some i => train ((s.runImage b i).modRot fun r => { r with bootDigest := i.manifestDigest })
    | none => s
  match s.chooseSlot with
  | (none, s) => (s.testDge badLanes).bootFail fun _ => none
  | (some (b, rule), s) =>
    let s := (s.slotSelected b rule).testDge badLanes
    let f := s.slotReason b
    if f.1 = 0 then run s b
    else
      let s := s.rejectImage b f
      let s := if rule = 1 then s else s.writeBcb fun n => n.setSt b .bad
      let s := s.slotSelected (!b) 5
      let g := s.slotReason (!b)
      if g.1 = 0 then run s !b
      else (s.rejectImage (!b) g).bootFail fun x => some (if x == b then f.1 else g.1)

/-- Straps, device time, clocks and the island's records at the release of a cold sequence (R439 step 5). -/
def State.releaseCold (s : State) (st : Straps) (waitedUs : Nat) (nvm : Option (Option Image × Option Image)) : State :=
  let s := (s.setDt 0).modGlb fun g => { g with headB := st.headB, bootForce := st.bootForce.toNat, nvmVsel := st.nvmVsel, i3cUp := true }
  let s := s.modRcc fun r => { r with
    hold := .run, fromWarm := false, trip := false, tripReset := false, coresHeld := false, pendingChip := r.pendingChip || decide (0 < waitedUs)
    coldStarts := if r.fromPor then r.coldStarts else bump 16 r.coldStarts, clkGood := BitVec.allOnes 72 }
  let s := match nvm with
    | none => s
    | some (a, b) =>
      let put (i : Option Image) : SlotSt := if i.isSome then .valid else .empty
      s.modNvi fun n => { n with slotA := a, slotB := b, activeB := false, stA := put a, stB := put b, tries := 0, bseq := n.bseq + 1 }
  let s := s.modHa fun h => { h with nonce := s.freeNat 64 }
  (s.freshen.modRot fun r => { r with startAt := 0 }).evrCold waitedUs

/-! ## Warm start (R398) -/

/-- A level kept through a warm reset (R432): event 0x1801. -/
def State.levelKept (s : State) : State := if s.dbg.level < 2 then s else s.event 0x1801 0 s.dbg.level s.dbg.level 0xFFFF 3

/-- The head waits for a configuration (R396 step 11, R398 step 7); it asks the peer once a lane is ACTIVE. -/
def State.awaitConfig (s : State) (stage : Nat) : State :=
  (s.modRot fun r => { r with stage := stage, waitSince := some s.dt }).fetchCfg

/-- Steps 2 to 6: the slot of the last cold boot is read and checked again; a manifest digest that differs means a cold reset. -/
def State.bootWarm (s : State) : State :=
  let b := s.rot.slotB
  match s.nvi.slot b with
  | none => (s.rejectImage b (1, none)).bootFail fun x => if x == b then some 1 else none
  | some i =>
    let f := imageReason s.rot i
    if i.manifestDigest ≠ s.rot.bootDigest then (s.event 0x0609 0 (bit b) 0 0 0).coldReset
    else if f.1 ≠ 0 then (s.rejectImage b f).bootFail fun x => if x == b then some f.1 else none
    else (s.runImage b i).awaitConfig 7

/-- A warm start, of a warm reset or of a wake. -/
def State.startWarm (s : State) (waitedUs : Nat) : State :=
  let s := s.modRcc fun r => { r with
    hold := .run, fromWarm := true, fromPor := false, coresHeld := false, pendingChip := r.pendingChip || decide (0 < waitedUs)
    warmStarts := bump 16 r.warmStarts, clkGood := BitVec.allOnes 72 }
  ((s.modRot fun r => { r with startAt := s.dt }).evrWarm waitedUs).levelKept.bootWarm

/-- CHIP_RELEASE (R445): the reset source has ended and the clocks are good. A peer fence (R335) and a thermal trip without RESET_N
(R447) hold the reset. -/
def execChipRelease (straps : Straps) (waitedUs : Nat) (nvm : Option (Option Image × Option Image)) (badLanes : List (Nat × Nat))
    (badWays : List (Nat × Nat)) (s : State) : Host.Outcome State Fault Refusal :=
  match s.rcc.hold with
  | .run => .next s
  | .warm => .next (s.startWarm waitedUs)
  | .cold =>
    if s.rcc.fenceHold ∨ (s.rcc.trip ∧ !s.rcc.tripReset) then .next s
    else
      let s := s.releaseCold straps waitedUs nvm
      let s := if s.rot.lifecycle = .blank then s else s.bootCold badLanes
      .next (badWays.foldl (fun s w => if w.1 < 64 ∧ w.2 < 16 then s.retireWay w.1 w.2 3 else s) s)

/-! ## Training (R370, R396 steps 7 to 11) -/

/-- DDR_TRAINING_DONE: event 0x1601 for a channel that fails, after which the head answers management sessions only (R369). -/
def execDdrTrainingDone (failures : List (Nat × Nat × Nat)) (badLanes : List (Nat × Nat × Nat)) (s : State) : Host.Outcome State Fault Refusal :=
  if s.rcc.hold ≠ .run ∨ !(s.mcu.chSt.any fun c => c == .training) then .next s
  else
    let failed := failures.filter fun f => decide (f.1 < 12)
    let s := s.modMcu fun m => { m with
      chSt := (List.range 12).map fun c => if failed.any fun f => f.1 == c then .failed else .ready
      failStep := (List.range 12).map fun c => ((failed.find? fun f => f.1 == c).map (·.2.1)).getD 0 }
    let s := failed.foldl (fun s f => s.event 0x1601 f.1 f.1 f.2.1 f.2.2 0) s
    let s := s.carve
    let s := if failed = [] then s.evrUp else s.modMcu fun m => { m with popOk := false }
    .next ((s.testEngines badLanes).awaitConfig 11)

/-! ## Ready -/

/-- Dictionaries after a cold boot (R218): each declared one from the first copy that holds, or lost. -/
def State.loadDicts (s : State) (found : List (Nat × Option Nat)) : State :=
  let declared := s.cfg.recs.filterMap fun r => match r.body with | some (.dictionary _ _) => some r.key | _ => none
  declared.foldl (fun s k =>
    match (found.find? fun f => f.1 == k).map (·.2) with
    | some none =>
      (s.event 0x1108 (k / 256) (k / 256) (k % 256) 0 0).modCpe fun c => { c with dicts := tdel c.dicts k, lostDicts := if c.lostDicts.contains k then c.lostDicts else k :: c.lostDicts }
    | x =>
      let len := match tget s.cpe.dicts k with | some b => b.length | none => 0
      s.event 0x1107 (k / 256) (k / 256) (k % 256) len ((x.bind fun y => y).getD 0)) s

/-- Places of the DRB that yield no copy (R273, R275): the write cache when neither DRAM nor a vault kept it, the peer when its link is
down. The log is readable (log entry 40). -/
def State.drbLost (s : State) (kept : Bool) : List Nat := (if kept then [] else [1]) ++ (if s.portUp .peer then [] else [2])

/-- The journal is replayed, and the dirty regions are resynchronised (R234, R275): issued commits are durable; stripes in flight are
garbage, since what they carry is destaged again; event 0x1307 for a pool half with set regions and 0x1308 for each place without a copy
(`kept`: DRAM or a vault kept the write cache's); RECLAIMED segments are erased again
(event 0x1407), and copies no commit names are reported as orphans (event 0x140A, R247). -/
def State.replayJournal (s : State) (kept : Bool) : State :=
  let s := s.modFtu fun f => { f with segs := f.segs.map fun g => if g.st = .erasing then { g with st := .reclaimed, erasing := [] } else g }
  let garbage := s.ftu.stripes.filter fun t => t.commit.isNone
  let s := s.modFtu fun f => { f with stripes := [], rows := f.rows.map fun r => { r with issued := false } }
  let s := (s.ftu.commits.filter fun c => c.issuedAt.isSome).foldl (fun s c => s.commitDurable c.seq) s
  let s := s.cfg.pools.foldl (fun s p =>
    let mine := s.pxe.drb.filter fun d => d.pool == p && !d.peers
    let n := lsum (mine.map fun d => ((List.range 256).filter fun r => d.regions.getLsbD r).length)
    if n = 0 then s
    else
      let s := s.event 0x1307 p p (bit s.glb.headB) n (garbage.filter fun t => t.pool == p).length
      let s := (s.drbLost kept).foldl (fun s x => s.event 0x1308 p p (bit s.glb.headB) x 0) s
      mine.foldl (fun s d => s.clearRegions p d.segSeq) s) s
  let again := s.ftu.segs.filter fun g => g.st == .reclaimed && g.headB == s.glb.headB
  let s := if again = [] then s else s.event 0x1407 0 again.length (lsum (again.map fun g => (s.segDies g).length)) 0 0
  let s := (s.ftu.orphans.foldl (fun s o => s.event 0x140A o.1 o.1 (lo32 o.2) 0 0) s).modFtu fun f => { f with orphans := [] }
  s.planRows

/-- The peer has raised the fencing epoch on some bridge (R157). -/
def State.epochRaised (s : State) : Bool := s.ha.epochAt.any fun e => decide (s.ha.epoch < e.2)

/-- What DRAM or flash gives back at a start (R154 to R157, R192, R218). -/
def State.recover (s : State) (unreadable : List Nat) (peerCopies : List (Nat × Desc × List Bytes)) (lost : List (Nat × Nat))
    (descBad : List (Bool × Nat)) (dicts : List (Nat × Option Nat)) : State :=
  if s.rcc.fromWarm then
    let raised := s.epochRaised
    let s := s.retainCache descBad raised
    if raised then (s.dxu.doms.map (·.1)).foldl (fun s n => s.setDomain n .rebuilding 4) s else s
  else (s.replayVault unreadable peerCopies lost).loadDicts dicts

/-- The power state at readiness (R427, R432): P0, P1 under a cap, P2 at D2 and D3. -/
def State.readyPower (s : State) : State :=
  if s.dbg.level ≥ 2 then s.modHa fun h => { h with role := .held } else s.setPstate (if s.gov.capped then .p1 else .p0) 3 0xFFFF

/-- BOOT_READY: the configuration is applied, and recovery has ended (R396 step 13, R398 step 9): event 0x0604, then the role of R315 as
the pairing allows. A head without trained or fitting memory, or in RETURN or END, never gets here (R369, R416). -/
def execBootReady (unreadable : List Nat) (peerCopies : List (Nat × Desc × List Bytes)) (lost : List (Nat × Nat)) (descBad : List (Bool × Nat))
    (dicts : List (Nat × Option Nat)) (s : State) : Host.Outcome State Fault Refusal :=
  if s.rcc.hold ≠ .run ∨ s.cfg.epoch = 0 ∨ s.rot.ready ∨ !s.mcu.popOk ∨ !s.mcu.running ∨ !s.coresRun then .next s
  else if s.rot.lifecycle ≠ .provisioned ∧ s.rot.lifecycle ≠ .field then .next s
  else
    let kept := s.rcc.fromWarm || (match s.wc.vault with | some h => h.st != 3 | none => false)
    let s := (s.recover unreadable peerCopies lost descBad dicts).replayJournal kept
    let ms := (s.dt - s.rot.startAt) / 1000000 - s.rot.bootWaited
    let s := s.modRot fun r => { r with ready := true, stage := if s.rcc.fromWarm then 9 else 13, bootCounted := sat 16 ms }
    let s := s.modHa fun h => { h with readyAt := some s.dt }
    let s := s.event 0x0604 0 (if s.rcc.fromWarm then 2 else 1) ms s.rot.bootWaited (bit s.rot.slotB)
    let s := s.refreshLimit.refreshPools.refreshVolumes.readyPower
    let s := match s.rot.image with | some i => s.requestWays i.sizes.spadWays 0xFFFF | none => s
    .next (s.joinArray.claimLeases)

/-! ## Wake (R430) -/

/-- The end of P3: DRAM leaves self-refresh, the head goes to P2 and starts as from a warm reset. -/
def State.wake (s : State) (source : Nat) : State :=
  let ms := (s.dt - s.pmu.p3At) / 1000000
  let s := (s.event 0x0303 0 source (lo32 ms) 0 0).setPstate .p2 5 0xFFFF
  let s := (s.event 0x1606 0 0xFFF 0 0 0).modMcu fun m => { m with chSt := List.replicate 12 .ready }
  s.startWarm 0

/-- PMU_WAKE: written through the I3C target; it acts in P3 alone. -/
def execPmuWake (s : State) : Host.Outcome State Fault Refusal :=
  .next (if s.pmu.pstate = .p3 ∧ s.rcc.hold = .run then s.wake 1 else s)

/-- WRESET_N: source 3 (R435); in P3 it is a wake, and its RCC_CAUSE bit is set. -/
def execWresetN (s : State) : Host.Outcome State Fault Refusal :=
  .next (if s.pmu.pstate = .p3 ∧ s.rcc.hold = .run then (s.modRcc fun r => r.setCause 3).wake 2 else s.warmSource 3)

end Sys2Proof.Machine
end

