-- ==== Sys2Proof/Machine/Blocks.lean ====
section
/-! DEFINITION. Chapter 16: block resets (R443, R444), releases that wait (R445), and quad PLLs (R451). -/

namespace Sys2Proof.Machine

open Sys2Proof

/-! ## Idle blocks (R444) -/

def Port.idle (q : Port) : Bool := q.unacked == [] && q.txq == [] && q.retrain.isNone

/-- The block has no fabric transaction outstanding and no operation in progress, as far as its state shows. -/
def State.blockIdle (s : State) (b : Nat) : Bool :=
  let port (p : Nat) : Bool := (tgetD s.link.ports p {}).idle
  match b with
  | 0 => (List.range 16).all port
  | 1 => port 16 && s.dsc.asks == []
  | 2 => s.link.ops == [] && s.link.ports.all fun p => decide (p.1 < 17) || p.2.idle
  | 3 => s.cqe.cmds == [] && s.cqe.ready == []
  | 4 => s.dsc.cal == [] && s.dsc.mapReads == [] && s.dsc.asks == []
  | 5 => s.dge.ctx == [] && s.dge.snoop == []
  | 6 => s.dxu.inflight == []
  | 7 => s.cpe.decodes == [] && s.cpe.comps == [] && s.cpe.ctx.all fun c => c.2.st != .running
  | 8 => true
  | 9 => s.pxe.rebuild.all fun r => r.2.cells.all fun c => !c.running
  | 10 => s.ftu.fetches == [] && s.ftu.commits.all (·.durable) && s.ftu.stripes.all fun t => !t.issued
  | 11 => s.gov.inj.isNone && !s.gov.capRun && !s.gov.loadReq
  | 12 => s.nvi.updates == []
  | 13 => !s.evr.stRunning
  | _ => false

/-- RCC_IDLE. -/
def State.idleBlocks (s : State) : Nat :=
  if s.rcc.hold ≠ .run then s.rcc.idleHeld.toNat
  else lsum ((List.range 14).map fun b => if !s.rcc.pendingBlocks.getLsbD b && s.blockIdle b then 2 ^ b else 0)

/-! ## Work that is lost -/

/-- Commands of a list end with INTERNAL_ERROR: how many, and the state. -/
def State.failLost (s : State) (hit : Cmd → Bool) : Nat × State :=
  let cs := s.cqe.cmds.filter fun c => c.open_ && c.fwdAt.isNone && hit c
  (cs.length, cs.foldl (fun s c => s.failCmd c stInternal) s)

/-- A command reads for itself with one of these fetches. -/
def Cmd.waitsFetch (c : Cmd) (nums : List Nat) : Bool :=
  c.parts.any fun p => p.result.isNone && (match p.fetch with | some n => nums.contains n | none => false)

/-- Work that a reservation or a fetch was for goes back to where it came from. -/
def State.workLost (s : State) (w : Work) : State :=
  match w with
  | .verifyRead i => s.undoDestage i
  | .mergeRead i => s.undoDestage i
  | .rebuild p d c => s.modCell p d c fun x => { x with running := false, waits := 0, got := [] }
  | .cellWrite p d c => s.modCell p d c fun x => { x with running := false, waits := 0, got := [] }
  | .repl j _ => s.modJob j fun j => { j with fetching := false }
  | .destage n _ => match s.stripeOf n with | some t => s.restripe t | none => s
  | _ => s

/-- Fetches that lose a read: what they were for goes back, and the commands that wait for them fail. -/
def State.fetchesLost (s : State) (nums : List Nat) : Nat × State :=
  let lost := s.ftu.fetches.filter fun f => nums.contains f.num
  let s := s.modFtu fun f => { f with fetches := f.fetches.filter fun x => !nums.contains x.num }
  let s := s.modDsc fun d => { d with cal := d.cal.filter fun r => match r.work with | .fetch n => r.issued || !nums.contains n | _ => true }
  let s := lost.foldl (fun s f => s.workLost f.work) s
  s.failLost fun c => c.waitsFetch nums

/-! ## What each block loses (R444) -/

/-- Lanes pass through DOWN. -/
def State.lanesDown (s : State) (ns : List Nat) : State :=
  ns.foldl (fun s n => if (s.link.lane n).st = .idle then s else s.setLane n .down 11) s

/-- Lane counters at their reset values. -/
def State.laneRegs (s : State) (ns : List Nat) : State :=
  s.modLink fun l => { l with lanes := l.lanes.map fun x => if ns.contains x.1 then (x.1, { x.2 with retrains := 0, uncorr := 0, corrLog := 0, pol := false }) else x }

/-- CQE: every session ends as for a lost port. -/
def State.resetCqe (s : State) : Nat × State :=
  let n := (s.cqe.cmds.filter Cmd.open_).length
  let s := s.cqe.sessions.foldl (fun s x => s.endSession x.1 3) s
  (n, (s.modLink fun l => { l with half := [] }).modCqe fun c => { c with dataTimeoutUs := 2000, violations := 0 })

/-- DSC: calendars restart empty; what was reserved and not issued is lost; nothing is admitted for 2,560 us after the release. -/
def State.resetDsc (s : State) : Nat × State :=
  let lost := s.dsc.cal.filter fun r => !r.issued
  let nums := lost.filterMap fun r => match r.work with | .fetch n => some n | _ => none
  let maps := s.dsc.mapReads
  let keep := s.dsc
  let d : Dsc := {
    classes := keep.classes, tables := keep.tables, nextResv := keep.nextResv, lastFrame := keep.lastFrame, nextPeerTag := keep.nextPeerTag
    nextFetch := keep.nextFetch, closedUntil := s.dt + 2561000 }
  let s := s.modDsc fun _ => d
  let a := s.fetchesLost nums
  let s := lost.foldl (fun s r => s.workLost r.work) a.2
  let b := s.failLost fun c => c.admitted && c.parts.any fun p => p.result.isNone && p.fetch.isNone && maps.any fun m => m.1 == c.vol && m.2.1 == p.grain / 512
  (a.1 + b.1, b.2)

/-- DGE: every context FREE, key slots emptied. -/
def State.resetDge (s : State) : State :=
  s.modDge fun d => { bad := d.bad, tested := d.tested }

/-- DXU: domains with an insert in flight are REBUILDING (R183). -/
def State.resetDxu (s : State) : State :=
  let doms := (s.dxu.inflight.map (·.1)).eraseDups
  let frames := (s.dxu.inflight.map fun x => x.2.2).eraseDups
  let s := frames.foldl (fun s i => s.undoDestage i) s
  let s := s.modDxu fun x => { x with
    inflight := [], cmpFault := 0, doms := x.doms.map fun d => (d.1, { d.2 with hits := 0, failed := 0, drops := 0, fpread := 0 }) }
  doms.foldl (fun s d => s.setDomain d .rebuilding 4) s

/-- CPE: every stream context FREE; grains being compressed start again; decodes are lost. -/
def State.resetCpe (s : State) : Nat × State :=
  let ds := s.cpe.decodes
  let frames := s.cpe.comps.map (·.1)
  let s := s.modCpe fun c => { bad := c.bad, tested := c.tested, dicts := c.dicts, lostDicts := c.lostDicts }
  let s := frames.foldl (fun s _ => s.giveComp) s
  s.failLost fun c => ds.any fun d => d.qp == c.qp && d.cid == c.cid

/-- XTS: key slots emptied; ROT unwraps them again as after a parity fault; at D2 and D3 nothing unwraps. -/
def State.resetXts (s : State) : State :=
  let again := s.xts.keys.map fun k => (k.1, s.dt)
  s.modXts fun x => { bad := x.bad, tested := x.tested, purged := x.purged, reload := if s.dbg.level < 2 then again else [] }

/-- FTU: fetches are lost; issued commits are replayed, and so are durable; the registers of its window return to their reset values. -/
def State.resetFtu (s : State) : Nat × State :=
  let r := s.fetchesLost (s.ftu.fetches.map (·.num))
  let s := r.2.modFtu fun f => { f with scrubDays := 14, wlDelta := 500, lastUs := 0, mapHit := 0, mapMiss := 0, repaired := 0, lost := 0, retired := 0 }
  let s := (s.modWc fun w => { w with lastValid := false, lastOutcome := 0, lastMs := 0 }).modSnap fun c => { c with idleS := 300 }
  (r.1, (s.ftu.commits.filter fun c => c.issuedAt.isSome).foldl (fun s c => s.commitDurable c.seq) s)

/-- GOV: OFF; its registers at their reset values; frames inside the horizon keep their limits. The cause of the change has no coding: a
free value (log entry 10). -/
def State.resetGov (s : State) : State :=
  let s := (s.setGovMode .off (s.freeNat 32)).freshen
  s.modGov fun g => { power := g.power, sample := g.sample, rdHist := g.rdHist }

/-- EVR: the registers return to their reset values; the ring, the mirror and the counter stay; a self-test is lost. -/
def State.resetEvr (s : State) : State :=
  s.modEvr fun e => { e with
    winCount := [], winDrop := [], rateDrops := 0, invalid := 0, damaged := 0, stRunning := false, stKind := 0, stResult := 0, stProgress := 0
    stFail := 0, stRefuse := 0 }

/-- One block is reset: commands that fail, and the state. -/
def State.resetBlock (s : State) (b : Nat) : Nat × State :=
  match b with
  | 0 => (0, (s.lanesDown (List.range 32)).laneRegs (List.range 32))
  | 1 =>
    let ns := (List.range 16).map (· + 128)
    (0, ((s.lanesDown ns).laneRegs ns).modHa fun h => { h with stableS := 60, yieldMs := 2000 })
  | 2 =>
    let ns := (List.range 96).map (· + 32)
    (0, (s.lanesDown ns).laneRegs ns)
  | 3 => s.resetCqe
  | 4 => s.resetDsc
  | 5 => (0, s.resetDge)
  | 6 => (0, s.resetDxu)
  | 7 => s.resetCpe
  | 8 => (0, s.resetXts)
  | 9 => (0, s.modPxe fun p => { p with lossS := 600, critShare := 25, busyPrev := 0, busyNow := 0 })
  | 10 => s.resetFtu
  | 11 => (0, s.resetGov)
  | 12 => (0, s.modNvi fun n => { n with readErr := 0 })
  | 13 => (0, s.resetEvr)
  | _ => (0, s)

/-! ## BLOCK_RESET and BLOCK_RELEASE -/

/-- A write of RCC_BLKRST (R437, R443, R444): dropped while a write of RCC_SWRST acts; a block whose release waits is merged. Event 0x0202;
0x0203 for blocks that were busy, whose lost fabric transactions are a free value (log entry 10). -/
def State.writeBlkrst (s : State) (v sess : Nat) : State :=
  let mask := bits v 13 0
  if mask = 0 ∨ s.rcc.hold ≠ .run ∨ s.rcc.acting.isSome then s
  else
    let idle := s.idleBlocks
    let bs := (List.range 14).filter fun b => tbit mask b && !s.rcc.pendingBlocks.getLsbD b
    let busy := bs.filter fun b => !tbit idle b
    let s := s.event 0x0202 0 mask idle sess 0
    let s := s.modRcc fun r => { (r.setCause 9) with pendingBlocks := r.pendingBlocks ||| BitVec.ofNat 14 mask, blockAt := s.dt }
    let s := s.modDbg fun d => { d with nonce := none }
    let r := bs.foldl (fun (r : Nat × State) b => let x := r.2.resetBlock b; (r.1 + x.1, x.2)) (0, s)
    let s := r.2
    if busy = [] then s else (s.event 0x0203 0 (lsum (busy.map fun b => 2 ^ b)) (s.freeNat 32) r.1 0).freshen

/-- BLOCK_RESET: a CSR_WRITE of RCC_BLKRST. -/
def execBlockReset (m : Vc3) (value : Word) (s : State) : Host.Outcome State Fault Refusal :=
  .next (s.regWrite m 0x10008 3 fun s => s.writeBlkrst value.toNat m.sess.toNat)

/-- What the firmware loads again into a block that is released (R443). -/
def State.reloadBlock (s : State) (b : Nat) : State :=
  match b with
  | 5 => if s.dbg.level ≥ 2 then s else s.modDge fun d => { d with fpKeys := s.cfg.dgeKeys.1, jobKeys := s.cfg.dgeKeys.2 }
  | 7 => s.applyDicts
  | 11 =>
    let s := s.loadCoef
    match s.gov.power with
    | some p => (s.modGov fun g => { g with power := none }).applyPower p
    | none => s
  | _ => s

/-- BLOCK_RELEASE (R445): at the earliest 1 us after the reset. -/
def execBlockRelease (block : Fin 14) (s : State) : Host.Outcome State Fault Refusal :=
  let b := block.val
  if !s.rcc.pendingBlocks.getLsbD b ∨ s.rcc.hold ≠ .run then .next s
  else
    let s := s.advanceTo (s.rcc.blockAt + 1000)
    let s := s.modRcc fun r => { r with pendingBlocks := r.pendingBlocks &&& ~~~ (BitVec.ofNat 14 (2 ^ b)) }
    .next (s.reloadBlock b)

/-- RELEASE_DEFERRED (R445): a release has waited 1 ms; event 0x0204. -/
def execReleaseDeferred (mask : BitVec 16) (domain : Fin 72) (s : State) : Host.Outcome State Fault Refusal :=
  if mask = 0xFFFF then
    if s.rcc.hold = .run then .next s
    else
      let s := (s.advanceTo (s.rcc.since + msNs 1)).modRcc fun r => { r with pendingChip := true }
      .next (s.event 0x0204 0 0xFFFF domain.val 0 0)
  else
    let waiting := mask.toNat &&& s.rcc.pendingBlocks.toNat
    if waiting = 0 then .next s
    else .next ((s.advanceTo (s.rcc.blockAt + msNs 1)).event 0x0204 0 waiting domain.val 0 0)

/-! ## Quad PLLs (R451) -/

/-- QUAD_PLL_UNLOCK: the quad's lanes go DOWN and stay there until the PLL has locked again. -/
def execQuadPllUnlock (quad : Fin 36) (s : State) : Host.Outcome State Fault Refusal :=
  let q := quad.val
  if s.rcc.hold ≠ .run ∨ s.pmu.pstate = .p3 ∨ (s.link.quadDown.any fun x => x.1 == q) then .next s
  else
    let s := s.modLink fun l => { l with quadDown := l.quadDown ++ [(q, s.dt)] }
    let s := s.modRcc fun r => { r with clkGood := r.clkGood &&& ~~~ (BitVec.ofNat 72 (2 ^ q)) }
    .next (s.lanesDown ((List.range 4).map (· + 4 * q)))

/-- QUAD_PLL_LOCKED: event 0x0206 with the relock time; the lanes retrain from their DOWN state. -/
def execQuadPllLocked (quad : Fin 36) (s : State) : Host.Outcome State Fault Refusal :=
  let q := quad.val
  match s.link.quadDown.find? fun x => x.1 == q with
  | none => .next s
  | some x =>
    let s := s.modLink fun l => { l with quadDown := l.quadDown.filter fun y => y.1 != q }
    let s := s.modRcc fun r => { r with clkGood := r.clkGood ||| BitVec.ofNat 72 (2 ^ q) }
    .next (s.event 0x0206 q q ((s.dt - x.2) / 1000) 0 0)

end Sys2Proof.Machine
end

