-- ==== Sys2Proof/Machine/Registers.lean ====
section
/-! DEFINITION. The CSR space (R6 to R8, R32): what every register of the head reads, what a read clears or latches, what a
write does, and the privilege it needs; CSR_READ and CSR_WRITE (R71). Offsets are from CSR_BASE. -/

namespace Sys2Proof.Machine

open Sys2Proof

/-! ## Values -/

/-- The index of a register in an array of `count` registers, `stride` bytes apart from `base`. -/
def arr (off base stride count : Nat) : Option Nat :=
  if base ≤ off ∧ off < base + stride * count ∧ (off - base) % stride = 0 then some ((off - base) / stride) else none

/-- The index of the block of `stride` bytes that holds an offset, and the offset in it. -/
def blk (off base stride count : Nat) : Option (Nat × Nat) :=
  if base ≤ off ∧ off < base + stride * count then some ((off - base) / stride, (off - base) % stride) else none

/-- Fields as value and lowest bit. -/
def pack (fs : List (Nat × Nat)) : Nat := lsum (fs.map fun f => f.1 * 2 ^ f.2)

/-- A lane status register (R66). -/
def laneWord (l : Lane) : Nat :=
  pack [(laneStNum l.st, 28), (bit l.pol, 27), (bit l.enc, 26), (l.retrains, 16), (l.uncorr, 8), (l.corrLog, 0)]

/-- GLB registers: identity, straps (R481), fabric errors (R33), AVS (R487). -/
def Glb.reg (g : Glb) (off : Nat) : Option Nat :=
  match off with
  | 0x00 => some 0x72400200
  | 0x04 => some (pack [(bit g.nvmVsel, 3), (g.bootForce, 1), (bit g.headB, 0)])
  | 0x10 => some (lo32 g.ferrAddr)
  | 0x14 => some (hi32 g.ferrAddr % 65536)
  | 0x18 => some (pack [(bit g.ferrValid, 31), (g.ferrCount, 16), (bit g.ferrWrite, 15), (g.ferrReq, 0)])
  | 0x20 => some (pack [(bit g.avsFault, 31), (bit g.avsRun, 30), (g.avsAddr, 24), (g.avsStatus, 16), (g.avsMv, 0)])
  | _ => none

/-- RCC registers (chapter 16). -/
def State.rccReg (s : State) (off : Nat) : Option Nat :=
  match off with
  | 0x00 => some s.rcc.cause.toNat
  | 0x04 | 0x08 => some 0
  | 0x0C => some s.idleBlocks
  | 0x10 => some (pack [(bit s.rcc.pendingChip, 31), (s.rcc.pendingBlocks.toNat, 0)])
  | 0x20 => some (lo32 s.rcc.clkGood.toNat)
  | 0x24 => some (hi32 s.rcc.clkGood.toNat)
  | 0x28 => some (s.rcc.clkGood.toNat / 2 ^ 64)
  | 0x30 => some (pack [(s.rcc.glitchDomain, 8), (s.rcc.glitchSub, 0)])
  | 0x34 => some (pack [(s.rcc.warmStarts, 16), (s.rcc.coldStarts, 0)])
  | _ => none

/-- Word `w` of an event record (R455). -/
def evWord (r : EvRec) (w : Nat) : Nat :=
  match w with
  | 0 => lo32 r.dt
  | 1 => hi32 r.dt
  | 2 => pack [(r.inst % 65536, 16), (r.code.toNat, 0)]
  | 3 => pack [(r.seq % 65536, 16), (r.repeats, 0)]
  | 4 => r.p0
  | 5 => r.p1
  | 6 => r.p2
  | _ => r.p3

/-- EVR registers, the health report and the record window at a page (chapter 17). -/
def Evr.reg (e : Evr) (page off : Nat) : Option Nat :=
  if 0x8000 ≤ off then
    some (match tget e.ring (1024 * page + (off - 0x8000) / 32) with
      | some r => evWord r ((off - 0x8000) % 32 / 4)
      | none => 0)
  else if 0x4000 ≤ off then some (tgetD e.report off (0 : Word)).toNat
  else match off with
  | 0x00 => some (lo32 e.seq)
  | 0x04 => some (hi32 e.seq)
  | 0x08 => some (pack [(e.rateDrops, 16), (e.invalid, 0)])
  | 0x0C => some page
  | 0x20 => some 0
  | 0x24 => some (pack [(bit e.stRunning, 30), (e.stKind, 28), (e.stResult, 26), (e.stProgress, 16), (e.stFail, 8), (e.stRefuse, 4)])
  | 0x30 => some (lo32 e.hrSeq)
  | 0x34 => some (hi32 e.hrSeq)
  | _ => none

/-- SNW_STAT. -/
def State.snwStat (s : State) : Nat :=
  let w := s.snw
  let up : Bool := match w.acceptedAt with | some t => decide (s.dt < t + msNs 100) | none => false
  pack [(bit w.psb, 31), (bit w.vstby, 30), (bit w.paired, 29), (bit up, 28), (bit w.peerHeld, 27), (w.evrAvail, 16), (w.rejected, 0)]

/-- ROT registers (chapter 14). -/
def State.rotReg (s : State) (off : Nat) : Option Nat :=
  let r := s.rot
  match off with
  | 0x00 => some (pack [(r.stage, 28), (lifecycleNum r.lifecycle, 25), (s.dbg.level, 23), (bit r.slotB, 22), (bit r.trial, 21),
      (bit s.rcc.fromWarm, 20)])
  | 0x04 => some (pack [(r.fuseSvn, 8), (match r.image with | some i => i.svn % 64 | none => 0, 0)])
  | 0x08 => some (lo32 r.serial)
  | 0x0C => some (hi32 r.serial)
  | 0x10 => some (lo32 s.cfg.epoch)
  | 0x14 => some (hi32 s.cfg.epoch)
  | 0x18 => some (pack [(r.bootWaited, 16), (r.bootCounted, 0)])
  | _ =>
    match arr off 0x100 4 12, arr off 0x1000 4 96 with
    | some w, _ => some (leNat ((r.bootDigest.drop (4 * w)).take 4))
    | _, some n => some (leNat (((r.meas.getD (n / 12) []).drop (4 * (n % 12))).take 4))
    | _, _ => none

/-- NVI_STAT. -/
def Nvi.stat (n : Nvi) : Nat :=
  pack [(n.tries, 29), (bit n.activeB, 28), (slotStNum n.stB, 26), (slotStNum n.stA, 24), (n.readErr, 0)]

/-- GOV registers (chapter 12). -/
def Gov.reg (g : Gov) (off : Nat) : Option Nat :=
  let mw (v : Int) : Option Nat := some (twos 32 v)
  match off with
  | 0x00 => some (pack [(bit g.compat, 2), (bit g.form, 1), (bit g.modeReq, 0)])
  | 0x04 => some (pack [(govModeNum g.mode, 30), (bit g.capped, 29), (bit g.inj.isSome, 28), (g.implRun, 16), (g.fPermille, 0)])
  | 0x08 => some g.sticky.toNat
  | 0x10 => mw g.target
  | 0x14 => mw g.rp
  | 0x18 => mw g.y
  | 0x1C => mw g.u
  | 0x20 => mw g.frame
  | 0x24 => mw g.yLo
  | 0x28 => mw g.yHi
  | 0x200 => some (pack [(g.injKind, 28), (bit g.injPoint, 27), (g.injHold, 21), (g.injDur, 0)])
  | 0x204 => some (lo32 g.injAmp)
  | 0x208 => some (pack [(g.injF1, 16), (g.injF0, 0)])
  | 0x300 => some (pack [(bit g.capRun, 29), (bit g.oneShot, 28), (bit g.onInj, 27), (g.decim, 16), (g.ring.length, 0)])
  | 0x304 => some g.capIdx
  | _ =>
    match arr off 0x100 4 7, arr off 0x120 4 7, arr off 0x140 4 5, arr off 0x310 4 4 with
    | some k, _, _, _ => some (g.coef.getD k 0).toNat
    | _, some k, _, _ => some (g.coefAct.getD k 0).toNat
    | _, _, some k, _ => some (g.c5160.getD k 0).toNat
    | _, _, _, some m =>
      match g.capRun, g.ring[g.capIdx]? with
      | false, some (a, b, c, d) => mw (match m with | 0 => a | 1 => b | 2 => c | _ => d)
      | _, _ => some 0
    | _, _, _, _ => none

/-- PLK registers beside the lane status: two heads (chapter 11). -/
def State.haReg (s : State) (off : Nat) : Option Nat :=
  let h := s.ha
  match off with
  | 0x2000 => some (pack [(h.stableS, 16), (h.yieldMs, 0)])
  | 0x2004 => some (pack [(roleNum h.role, 29), (roleNum h.peerRole, 26), (bit !h.plkSilent, 25), (bit !h.mboxSilent, 24), (h.lastFence, 22),
      (min 3 (h.failbacks.filter fun t => decide (s.dt < t + secNs 3600)).length, 20), (bit h.flap, 19), (h.held.length, 0)])
  | 0x2008 => some (lo32 h.epoch)
  | 0x200C => some 0
  | _ =>
    match arr off 0x2100 4 256 with
    | some g =>
      let l := tgetD h.leases g {}
      some (pack [(l.holder, 30), (l.view, 28), (l.accepted, 25), (bit (h.pref.contains g), 24), (l.rseq % 65536, 0)])
    | none => none

/-- CQE registers (chapter 03). -/
def State.cqeReg (s : State) (off : Nat) : Option Nat :=
  match off with
  | 0x00 => some s.cqe.dataTimeoutUs
  | 0x10 => some (s.cqe.cmds.filter fun c => c.fromPeer.isNone && c.qp < 16384).length
  | 0x14 => some (lsum (s.cqe.qps.map fun q => q.2.depth))
  | 0x18 => some (pack [((s.cqe.sessions.filter fun x => x.2.closing.isNone).length, 16), (s.cqe.qps.length, 0)])
  | 0x1C => some (pack [((s.cqe.sessions.filter fun x => x.2.quarantined).length, 16), (s.cqe.violations, 0)])
  | _ => none

/-- DSC registers (chapter 04). -/
def State.dscReg (s : State) (off : Nat) : Option Nat :=
  let d := s.dsc
  match off with
  | 0x00 => some (pack [(bit d.raOuter, 1), (bit d.raInner, 0)])
  | 0x08 => some (lo32 (frameOf s.dt))
  | 0x0C => some (hi32 (frameOf s.dt))
  | 0x400 => some (pack [(bit d.lastValid, 31), (d.lastClass, 24), (d.lastCause, 20), (d.lastRetry, 0)])
  | _ =>
    match arr off 0x100 4 8, arr off 0x200 4 7, arr off 0x300 4 8, arr off 0x340 4 8, arr off 0x380 4 8 with
    | some n, _, _, _, _ => some (match d.classes[n]? with | some r => classWord r | none => 0)
    | _, some n, _, _, _ => some (pack [(d.shareCur.getD n 0, 16), (d.shareCfg.getD n 0, 0)])
    | _, _, some n, _, _ => some (d.admits.getD n 0)
    | _, _, _, some n, _ => some (d.refuse.getD n 0)
    | _, _, _, _, some n => some (d.miss.getD n 0)
    | _, _, _, _, _ => none

/-- DGE registers (chapter 06). No keyed digest appears in one (R173). -/
def Dge.reg (d : Dge) (off : Nat) : Option Nat :=
  match off with
  | 0x00 => some (pack [(d.snoopMax, 16), (d.feedTimeout, 0)])
  | 0x04 => some (pack [(d.lanesOk, 24), ((d.ctx.filter fun x => x.2.lane.isSome).length, 8), ((d.ctx.filter fun x => x.2.st != .free).length, 0)])
  | 0x08 => some d.dropped
  | _ =>
    match blk off 0x10000 0x80 128 with
    | none => none
    | some (n, w) =>
      let x := d.ctxAt n
      match w with
      | 0x00 => some (pack [(dgeStNum x.st, 28), (x.alg, 24), (bit (algKeyed x.alg), 23), (bit x.snoop, 22), (x.err, 19), (x.owner, 8)])
      | 0x04 => some (lo32 x.fed)
      | 0x08 => some (hi32 x.fed)
      | 0x0C => some x.cmp
      | _ =>
        match arr w 0x40 4 16 with
        | some m => some (if x.st = .done ∧ !algKeyed x.alg then leNat ((x.digest.drop (4 * m)).take 4) else 0)
        | none => none

/-- DXU registers (chapter 06). -/
def State.dxuReg (s : State) (off : Nat) : Option Nat :=
  match off with
  | 0x00 => some (pack [(s.dxu.doms.length, 16), (s.dxu.inflight.length, 0)])
  | 0x04 => some (lsum (s.dxu.doms.map fun d => 2 ^ d.2.capLog2) / 65536)
  | 0x08 => some s.dxu.cmpFault
  | _ =>
    match blk off 0x10000 0x20 4096 with
    | none => none
    | some (n, w) =>
      match tget s.dxu.doms n with
      | none => some 0
      | some d => some (match w with
        | 0x00 => pack [(domStNum d.st, 29), (bit d.verify, 28), (bit (s.ownsGroup d.group), 27), (d.capLog2, 20),
            (d.curGen + 1 - d.oldGen, 16), (d.curGen % 256, 0)]
        | 0x04 => lo32 d.unique
        | 0x08 => hi32 d.unique
        | 0x0C => lo32 d.hits
        | 0x10 => hi32 d.hits
        | 0x14 => sat 32 d.failed
        | 0x18 => lo32 d.drops
        | _ => sat 32 d.fpread)

/-- CPE registers (chapter 07). -/
def Cpe.reg (c : Cpe) (off : Nat) : Option Nat :=
  match off with
  | 0x00 => some (bit c.forceRaw)
  | 0x04 => some (pack [(c.lanesOk, 26), ((c.decodes.filter fun x => x.lane.isSome).length, 20), (c.comps.length, 14),
      ((c.ctx.filter fun x => x.2.st == .running).length, 11), ((c.ctx.filter fun x => x.2.st != .free).length, 0)])
  | 0x20 => some c.verifyFail
  | 0x50 => some (pack [(c.dicts.length, 22), (ceilDiv (lsum (c.dicts.map fun d => d.2.length)) 1024, 0)])
  | _ =>
    match arr off 0x10 4 4, arr off 0x30 4 6, blk off 0x10000 0x10 1024 with
    | some k, _, _ => some (((c.latched.find? fun p => p.1 == k).map (·.2)).getD (c.classes.getD k 0))
    | _, some e, _ => some (c.decErr.getD e 0)
    | _, _, some (n, w) =>
      let x := tgetD c.ctx n {}
      match w with
      | 0x0 => some (pack [(streamStNum x.st, 28), (bit x.decompress, 27), (x.err, 24), (x.owner, 16), (x.bseq % 65536, 0)])
      | 0x4 => some x.hist.length
      | _ => none
    | _, _, _ => none

/-- XTS registers (chapter 14). -/
def Xts.reg (x : Xts) (off : Nat) : Option Nat :=
  match off with
  | 0x0 => some (pack [(x.lanesOk, 26), (x.keys.length, 0)])
  | 0x4 => some x.parity
  | _ => none

/-- PXE registers (chapter 09). -/
def State.pxeReg (s : State) (off : Nat) : Option Nat :=
  let halves (p : Nat) : Nat := (s.ftu.halves.filter fun h => h.pool == p && s.holdsHalf h.headB).length
  let halvesIn (f : Rebuild → Bool) : Nat := lsum ((s.pxe.rebuild.filter fun r => f r.2).map fun r => halves r.1)
  match off with
  | 0x0 => some (pack [(s.pxe.lossS, 16), (s.pxe.critShare, 0)])
  | 0x4 => some 0
  | 0x8 => some (pack [(min 1000 (s.pxe.busyPrev / 1000000), 20), (halvesIn fun r => r.st == 3, 12), (halvesIn fun r => r.st == 2 || r.st == 3, 6),
      (lsum (s.pxe.layouts.map fun l => if s.missingMembers l.1 = 0 then 0 else halves l.1), 0)])
  | _ =>
    match blk off 0x1000 0x40 16, arr off 0x2000 4 96 with
    | some (p, w), _ =>
      let lay := tget s.pxe.layouts p
      let gen : Option (Nat × List Nat) := lay.bind fun l => l.gens.getLast?
      let rb := tgetD s.pxe.rebuild p {}
      match w with
      | 0x00 => some (match lay, gen with
        | some l, some g => pack [(g.1 % 65536, 16), (g.2.length, 8), (l.s % 8, 5), (l.k, 0)]
        | _, _ => 0)
      | 0x04 => some (match lay, gen with | some l, some g => (tableCrc l.seed g.1 g.2).toNat | _, _ => 0)
      | 0x08 => some (pack [(rb.st, 29), (min 7 (s.missingMembers p), 24), (rb.permille, 0)])
      | 0x0C => some (lo32 rb.cells.length)
      | 0x10 => some (hi32 rb.cells.length)
      | 0x14 => some (lo32 rb.critical)
      | 0x18 => some (hi32 rb.critical)
      | 0x1C => some (match lay with | some l => lo32 l.lostg | none => 0)
      | 0x20 => some (match lay with | some l => hi32 l.lostg | none => 0)
      | 0x24 => some (lo32 (s.remapped p))
      | 0x28 => some (hi32 (s.remapped p))
      | _ => none
    | _, some m =>
      some (match tget s.pxe.members m with
        | some x => pack [(memberStNum x.st, 30), (bit x.peerAbsent, 29), (x.pool, 20),
            (if x.st = .absent then sat 16 ((s.dt - x.absentAt) / 1000000000) else 0, 0)]
        | none => 0)
    | _, _ => none

/-- The largest dirty limit whose D the erased vault area covers (FTU_WC_STAT.READY_GIB, R150). -/
def Wc.readyGib (w : Wc) : Nat := ((List.range 512).filter fun l => decide (vaultBytes l ≤ w.erased)).foldl max 0

/-- Write-cache registers (chapter 05). -/
def State.wcReg (s : State) (off : Nat) : Option Nat :=
  let w := s.wc
  match off with
  | 0x00 => some (pack [(w.sizeGib, 16), (w.limit, 0)])
  | 0x04 => some (pack [(w.holdup, 16), (w.vaultMs, 0)])
  | 0x08 => some (pack [(mirrorNum w.mirrorSt, 29), (bit (s.pmu.pstate == .p4), 28), (w.readyGib, 16)])
  | 0x10 => some w.frames.length
  | 0x14 => some w.mirror.length
  | 0x18 => some (pack [(bit w.lastValid, 31), (w.lastOutcome, 28), (sat 16 w.lastMs, 0)])
  | _ => none

/-- The share of the version region in use in permille (R293): 12 bytes a version. -/
def State.vregPermille (s : State) : Nat :=
  match s.mcu.sizes with
  | some z => if z.version = 0 then 0 else min 1000 (s.ftu.pages.length * 12 * 1000 / (z.version * 2 ^ 30))
  | none => 0

/-- Snapshot and replication registers (chapter 10). -/
def State.replReg (s : State) (off : Nat) : Option Nat :=
  match off with
  | 0x0 => some s.snap.idleS
  | 0x4 => some (pack [((s.snap.snaps.filter fun x => x.st != .released).length, 13), (s.vregPermille, 0)])
  | _ =>
    match blk off 0x1000 0x10 256 with
    | none => none
    | some (n, w) =>
      match w, tget s.snap.jobs n with
      | 0xC, _ => none
      | _, none => some 0
      | 0x0, some j => some (pack [(jobStNum j.st, 29), (bit (j.role == 2), 28), (j.cause, 24),
          (min 64 (j.offered.filter fun o => o.2.2.isNone).length, 0)])
      | 0x4, some j => some (lo32 j.bytes)
      | _, some j => some (hi32 j.bytes)

/-- FTU registers (chapters 05, 08 and 10). -/
def State.ftuReg (s : State) (off : Nat) : Option Nat :=
  let f := s.ftu
  if 0x90000 ≤ off then s.replReg (off - 0x90000)
  else if 0x80000 ≤ off then s.wcReg (off - 0x80000)
  else match off with
  | 0x00 => some (pack [(f.scrubDays, 16), (f.wlDelta, 0)])
  | 0x10 => some (f.pages.filter (·.cached)).length
  | 0x14 => some f.mapHit
  | 0x18 => some f.mapMiss
  | 0x20 => some (pack [(sat 16 (f.segs.filter fun g => g.st == .victim).length, 16),
      (sat 16 (f.segs.filter fun g => g.st == .reclaimed || g.st == .erasing).length, 0)])
  | 0x24 => some (pack [(sat 16 (f.commits.filter fun c => c.issuedAt.isSome && !c.durable).length, 16), (f.lastUs, 0)])
  | 0x30 => some f.repaired
  | 0x34 => some f.lost
  | 0x38 => some f.retired
  | _ =>
    match blk off 0x1000 0x40 16, blk off 0x10000 8 24576 with
    | some (p, w), _ =>
      let h := f.half p s.glb.headB
      match w with
      | 0x00 => some (match h with
        | some h => pack [(poolStNum h.st, 29), (1000 * s.freeSlots h / max 1 (s.dsSlots h), 10), (min 1023 (s.poolWear h), 0)]
        | none => 0)
      | 0x04 => some (match h with | some h => lo32 (s.dsSlots h) | none => 0)
      | 0x08 => some (match h with | some h => hi32 (s.dsSlots h) | none => 0)
      | 0x0C => some (match h with | some h => lo32 (s.freeSlots h) | none => 0)
      | 0x10 => some (match h with | some h => hi32 (s.freeSlots h) | none => 0)
      | _ => none
    | _, some (n, w) =>
      let d := f.die n
      if d.st = .absent then some 0
      else if w = 0 then
        some (pack [(dieStNum d.st, 30), (bit d.own, 29), (d.retired.length, 16), (rberOf d, 8),
          (sat 8 (d.uecc.filter fun t => decide (s.dt < t + secNs 86400)).length, 0)])
      else some (pack [(peMax d, 16), (peMean (f.dieType n) d, 0)])
    | _, _ => none

/-- SLC registers (chapter 13). -/
def Slc.reg (l : Slc) (off : Nat) : Option Nat :=
  let pairs : Nat := lsum (l.retired.map fun p => ((List.range 16).filter fun w => p.2.getLsbD w).length)
  match off with
  | 0x0 => some (bit l.en)
  | 0x4 => some (pack [(slcStNum l.st, 29), (bit l.enRefused, 28), (sat 8 pairs, 20), (l.stageWait, 14),
      (lsum (l.staging.map fun e => ceilDiv e.2.2.1 4096), 0)])
  | 0x8 => some (pack [(bit l.reqErr, 31), (bit l.busy.isSome, 30), (l.waysReq, 8), (l.ways, 0)])
  | 0xC => some (pack [(l.corr, 16), (l.uncorr, 0)])
  | _ => match arr off 0x100 4 64 with | some n => some (tgetD l.retired n 0).toNat | none => none

/-- MCU registers (chapter 13). -/
def Mcu.reg (m : Mcu) (off : Nat) : Option Nat :=
  if off = 0 then
    some ((match m.pop with
      | some p => pack [(p.dimmGib, 16), (p.dpc, 6), (p.ranks, 4), (bit p.x8, 3)]
      | none => 0) + bit (m.chSt.all (· == .ready)))
  else match blk off 0x100 0x10 12 with
  | none => none
  | some (n, w) =>
    match w with
    | 0x0 => some (pack [(chStNum (m.chSt.getD n .untrained), 29), (m.failStep.getD n 0, 16)])
    | 0x4 => some (m.ce.getD n 0)
    | 0x8 => some (m.ue.getD n 0)
    | _ => none

/-- What the register at an offset reads, the EVR window at a page; none where no register lies (R32). -/
def State.regAt (s : State) (page off : Nat) : Option Nat :=
  let lanes (base : Nat) (n first : Nat) : Option Nat :=
    match arr off base 4 n with | some i => some (laneWord (s.link.lane (first + i))) | none => none
  if off % 4 ≠ 0 then none
  else if off < 0x10000 then s.glb.reg off
  else if off < 0x20000 then s.rccReg (off - 0x10000)
  else if off < 0x30000 then (match off - 0x20000 with | 0 => some s.pmuStat | 4 => some 0 | _ => none)
  else if off < 0x40000 then s.evr.reg page (off - 0x30000)
  else if off < 0x50000 then (if off = 0x40000 then some s.snwStat else none)
  else if off < 0x60000 then s.rotReg (off - 0x50000)
  else if off < 0x70000 then (if off = 0x60000 then some s.nvi.stat else none)
  else if off < 0x80000 then s.gov.reg (off - 0x70000)
  else if off < 0x100000 then none
  else if off < 0x200000 then lanes 0x101000 32 0
  else if off < 0x300000 then (match lanes 0x201000 16 128 with | some v => some v | none => s.haReg (off - 0x200000))
  else if off < 0x400000 then lanes 0x301000 96 32
  else if off < 0x500000 then none
  else if off < 0x600000 then s.cqeReg (off - 0x500000)
  else if off < 0x700000 then none
  else if off < 0x800000 then s.dscReg (off - 0x700000)
  else if off < 0x840000 then s.dge.reg (off - 0x800000)
  else if off < 0x880000 then s.dxuReg (off - 0x840000)
  else if off < 0x8C0000 then s.cpe.reg (off - 0x880000)
  else if off < 0x900000 then s.xts.reg (off - 0x8C0000)
  else if off < 0x940000 then s.pxeReg (off - 0x900000)
  else if off < 0xA00000 then s.ftuReg (off - 0x940000)
  else if off < 0xB00000 then s.slc.reg (off - 0xA00000)
  else if off < 0xC00000 then s.mcu.reg (off - 0xB00000)
  else if off < 0xD00000 then none
  else if off = 0xD00000 then some s.dbgStat
  else none

/-! ## Reading -/

/-- Offsets of the low word of a 64-bit pair; the high word lies above it (R8). -/
def isLow (off : Nat) : Bool :=
  let inBlk (base stride count : Nat) (ws : List Nat) : Bool :=
    match blk off base stride count with | some (_, w) => ws.contains w | none => false
  [0x10, 0x30000, 0x30030, 0x50008, 0x50010, 0x700008].contains off || inBlk 0x810000 0x80 128 [4] ||
    inBlk 0x850000 0x20 4096 [4, 0xC] || inBlk 0x941000 0x40 16 [4, 0xC] || inBlk 0x9D1000 0x10 256 [4] ||
    inBlk 0x901000 0x40 16 [0xC, 0x14, 0x1C, 0x24]

/-- Clear the count of a lane status register. -/
def State.clearUncorr (s : State) (n : Nat) : State := s.modLane n fun l => { l with uncorr := 0 }

/-- A read of a CPE_CLASS counter (R219): CLASS_1 latches the other three, and each clears when it is itself read. -/
def Cpe.readClass (c : Cpe) (k : Nat) : Cpe :=
  if k = 0 then { c with classes := lmod c.classes 0 fun _ => 0, latched := [1, 2, 3].map fun i => (i, c.classes.getD i 0) }
  else match c.latched.find? fun p => p.1 == k with
  | some p => { c with classes := lmod c.classes k fun n => n - p.2, latched := c.latched.filter fun q => q.1 != k }
  | none => { c with classes := lmod c.classes k fun _ => 0 }

/-- The counter of an array of RC counters that an offset names. -/
def clearAt (xs : List Nat) (i : Option Nat) : List Nat := match i with | some k => lmod xs k fun _ => 0 | none => xs

/-- What a read of a register clears (access code RC, R6). -/
def State.readClears (s : State) (off : Nat) : State :=
  match off with
  | 0x30008 => s.modEvr fun e => { e with rateDrops := 0, invalid := 0 }
  | 0x40000 => s.modSnw fun w => { w with rejected := 0 }
  | 0x60000 => s.modNvi fun n => { n with readErr := 0 }
  | 0x50001C => s.modCqe fun c => { c with violations := 0 }
  | 0x800008 => s.modDge fun d => { d with dropped := 0 }
  | 0x840008 => s.modDxu fun x => { x with cmpFault := 0 }
  | 0x880020 => s.modCpe fun c => { c with verifyFail := 0 }
  | 0x8C0004 => s.modXts fun x => { x with parity := 0 }
  | 0x940014 => s.modFtu fun f => { f with mapHit := 0 }
  | 0x940018 => s.modFtu fun f => { f with mapMiss := 0 }
  | 0x940030 => s.modFtu fun f => { f with repaired := 0 }
  | 0x940034 => s.modFtu fun f => { f with lost := 0 }
  | 0x940038 => s.modFtu fun f => { f with retired := 0 }
  | 0xA00004 => s.modSlc fun l => { l with stageWait := 0 }
  | 0xA0000C => s.modSlc fun l => { l with corr := 0, uncorr := 0 }
  | 0xD00000 => s.modDbg fun d => { d with refused := 0 }
  | _ =>
    if off < 0x100000 then s
    else if off < 0x200000 then (match arr off 0x101000 4 32 with | some n => s.clearUncorr n | none => s)
    else if off < 0x300000 then (match arr off 0x201000 4 16 with | some n => s.clearUncorr (128 + n) | none => s)
    else if off < 0x400000 then (match arr off 0x301000 4 96 with | some n => s.clearUncorr (32 + n) | none => s)
    else if off < 0x700000 then s
    else if off < 0x800000 then s.modDsc fun d =>
      { d with admits := clearAt d.admits (arr off 0x700300 4 8), refuse := clearAt d.refuse (arr off 0x700340 4 8),
               miss := clearAt d.miss (arr off 0x700380 4 8) }
    else if off < 0x880000 then s
    else if off < 0x8C0000 then s.modCpe fun c =>
      let c := { c with decErr := clearAt c.decErr (arr off 0x880030 4 6) }
      match arr off 0x880010 4 4 with | some k => c.readClass k | none => c
    else if off < 0xB00000 then s
    else match blk off 0xB00100 0x10 12 with
    | some (n, 4) => s.modMcu fun m => { m with ce := lmod m.ce n fun _ => 0 }
    | some (n, 8) => s.modMcu fun m => { m with ue := lmod m.ue n fun _ => 0 }
    | _ => s

/-- Read one register, with the high words its reader has latched (R8): the value, what stays latched, and the state. -/
def State.readReg (s : State) (page : Nat) (latch : List (Nat × Word)) (off : Nat) : Word × List (Nat × Word) × State :=
  let v := BitVec.ofNat 32 ((s.regAt page off).getD 0)
  match latch.find? fun l => l.1 == off with
  | some l => (l.2, latch.filter fun x => x.1 != off, s)
  | none =>
    if isLow off then
      (v, (off + 4, BitVec.ofNat 32 ((s.regAt page (off + 4)).getD 0)) :: latch.filter fun x => x.1 != off + 4, s)
    else (v, latch, s.readClears off)

/-- Read registers in ascending order (R71). -/
def State.readRegs (s : State) (page : Nat) (latch : List (Nat × Word)) : List Nat → List Word × List (Nat × Word) × State
  | [] => ([], latch, s)
  | o :: os =>
    let r := s.readReg page latch o
    let q := r.2.2.readRegs page r.2.1 os
    (r.1 :: q.1, q.2)

/-! ## Writing -/

/-- A value in a range replaces a field; any other leaves it. -/
def inRange (lo hi old new : Nat) : Nat := if lo ≤ new ∧ new ≤ hi then new else old

/-- A write of one register (R6, and the register's own behaviour). -/
def State.writeReg (s : State) (sess off v : Nat) : State :=
  match off with
  | 0x18 => if tbit v 31 then s.modGlb fun g => { g with ferrValid := false, ferrCount := 0 } else s
  | 0x20 => s.modGlb fun g => { g with avsFault := g.avsFault && !tbit v 31 }
  | 0x10000 => s.modRcc fun r => { r with cause := r.cause &&& ~~~ (BitVec.ofNat 13 v) }
  | 0x10004 => s.writeSwrst v
  | 0x10008 => s.writeBlkrst v sess
  | 0x10010 => s.modRcc fun r => { r with pendingChip := r.pendingChip && !tbit v 31 }
  | 0x3000C => s.modSession sess fun x => { x with evrPage := bits v 5 0 }
  | 0x30020 => s.writeStCtrl v
  | 0x70000 => s.writeGovCtrl v
  | 0x70008 => s.modGov fun g => { g with sticky := g.sticky &&& ~~~ (BitVec.ofNat 8 v) }
  | 0x70200 => s.writeInjCfg v
  | 0x70204 => s.modGov fun g => { g with injAmp := v }
  | 0x70208 => s.modGov fun g => { g with injF1 := bits v 31 16, injF0 := bits v 15 0 }
  | 0x70300 => s.writeCapCtrl v
  | 0x70304 => s.modGov fun g => { g with capIdx := bits v 11 0 }
  | 0x202000 => s.modHa fun h =>
      { h with stableS := inRange 10 3600 h.stableS (bits v 31 16)
               yieldMs := if bits v 15 0 = 0 then 0 else inRange 500 60000 h.yieldMs (bits v 15 0) }
  | 0x20200C => s.writeFailback v
  | 0x500000 => s.modCqe fun c => { c with dataTimeoutUs := inRange 100 10000 c.dataTimeoutUs (bits v 15 0) }
  | 0x700000 => s.modDsc fun d => { d with raOuter := tbit v 1, raInner := tbit v 0 }
  | 0x700400 => s.modDsc fun d => { d with lastValid := d.lastValid && !tbit v 31 }
  | 0x800000 => s.modDge fun d =>
      { d with snoopMax := inRange 0 26 d.snoopMax (bits v 20 16), feedTimeout := inRange 100 10000 d.feedTimeout (bits v 15 0) }
  | 0x880000 => s.writeForceRaw v sess
  | 0x900000 => (s.modPxe fun p =>
      { p with lossS := inRange 10 65535 p.lossS (bits v 31 16), critShare := inRange 10 40 p.critShare (bits v 7 0) }).refreshShares
  | 0x900004 => s.writeLose v sess
  | 0x940000 => s.modFtu fun f =>
      { f with scrubDays := inRange 1 90 f.scrubDays (bits v 23 16), wlDelta := inRange 50 5000 f.wlDelta (bits v 15 0) }
  | 0x9C0018 => s.modWc fun w => { w with lastValid := w.lastValid && !tbit v 31 }
  | 0x9D0000 => s.modSnap fun c => { c with idleS := inRange 10 3600 c.idleS (bits v 15 0) }
  | 0xA00000 => s.writeSlcCtrl v sess
  | 0xA00004 => s.modSlc fun l => { l with enRefused := l.enRefused && !tbit v 28 }
  | 0xA00008 => s.writeSpad v sess
  | 0xD00000 => s.modDbg fun d => { d with jtagRefused := d.jtagRefused && !tbit v 28 }
  | _ =>
    let retrains (n : Nat) : State := s.modLane n fun l =>
      { l with retrains := (BitVec.ofNat 8 l.retrains &&& ~~~ (BitVec.ofNat 8 (bits v 23 16))).toNat }
    if off < 0x70000 then s
    else if off < 0x80000 then
      (match arr off 0x70100 4 7, arr off 0x70140 4 5 with
      | some k, _ => s.modGov fun g => { g with coef := lmod g.coef k fun _ => BitVec.ofNat 32 v }
      | _, some k => s.modGov fun g => { g with c5160 := lmod g.c5160 k fun _ => BitVec.ofNat 16 v }
      | _, _ => s)
    else if off < 0x200000 then (match arr off 0x101000 4 32 with | some n => retrains n | none => s)
    else if off < 0x300000 then (match arr off 0x201000 4 16 with | some n => retrains (128 + n) | none => s)
    else if off < 0x400000 then (match arr off 0x301000 4 96 with | some n => retrains (32 + n) | none => s)
    else s

/-- The privilege a write of a register needs (R67): Operator where the chapter names none; 4, which no session has, for
PMU_WAKE. The health report and the record window ignore a write of any session. -/
def writePrivilege (off : Nat) : Nat :=
  if off = 0x3000C ∨ (0x34000 ≤ off ∧ off < 0x40000) then 1
  else if off = 0x10004 ∨ off = 0x10008 ∨ off = 0xA00000 then 3
  else if off = 0x20004 then 4
  else 2

/-- Write registers in ascending order (R71). -/
def State.writeRegs (s : State) (sess : Nat) : List (Nat × Word) → State
  | [] => s
  | (o, v) :: ws => (s.writeReg sess o v.toNat).writeRegs sess ws

/-! ## The messages -/

/-- Checks 1 and 2 of R71. -/
def State.regsExist (s : State) (off count : Nat) : Bool :=
  decide (1 ≤ count) && decide (count ≤ 64) && off % 4 == 0 && decide (off + 4 * count ≤ 0x1000000) &&
    (List.range count).all fun i => (s.regAt 0 (off + 4 * i)).isSome

/-- CSR_READ: every register is readable by an Observer. -/
def execCsrRead (m : Vc3) (offset : Word) (count : BitVec 16) (s : State) : Host.Outcome State Fault Refusal :=
  .next (s.vc3 m 0x30 false true 1 fun x s =>
    if !s.regsExist offset.toNat count.toNat then s.answer m 0x30 stInvalidField []
    else
      let r := s.readRegs x.evrPage x.latch ((List.range count.toNat).map fun i => offset.toNat + 4 * i)
      (r.2.2.modSession m.sess.toNat fun x => { x with latch := r.2.1 }).answer m 0x30 stSuccess (r.1.flatMap fun w => leBytes 4 w.toNat))

/-- CSR_WRITE. A reset that a register starts acts once the answer has been transmitted (R437). -/
def execCsrWrite (m : Vc3) (offset : Word) (values : List Word) (s : State) : Host.Outcome State Fault Refusal :=
  .next (s.vc3 m 0x31 false true 1 fun x s =>
    if !s.regsExist offset.toNat values.length then s.answer m 0x31 stInvalidField []
    else
      let offs := (List.range values.length).map fun i => offset.toNat + 4 * i
      match offs.find? fun o => decide (x.privilege < writePrivilege o) with
      | some o => s.registerDenied m 0x31 o
      | none => (s.writeRegs m.sess.toNat (offs.zip values)).answer m 0x31 stSuccess []).actSwrst

end Sys2Proof.Machine
end

