-- ==== Sys2Proof/Machine/Board.lean ====
section
/-! DEFINITION. Chapter 18: adaptive core voltage over PMBus (R487) and the I3C target (R494); and the 1 s windows of R13 that
EVR_RATE_WINDOW ends. -/

namespace Sys2Proof.Machine

open Sys2Proof

/-! ## Windows -/

/-- EVR_RATE_WINDOW: the next 1 s window begins (R461, R193). -/
def execEvrRateWindow (s : State) : Host.Outcome State Fault Refusal :=
  .next ((s.advanceTo (secNs (secOf s.dt + 1))).dedupWindows.modEvr fun e => e.roll (secNs (secOf s.dt + 1)))

/-! ## AVS (R487) -/

/-- VR_MAP of the running image. -/
def State.vrAddrs (s : State) : List Nat := match s.rot.image with | some i => i.vrAddrs | none => []

/-- The loop runs: it has been started, no fault has stopped it, and its block has power and is out of reset. -/
def State.avsOn (s : State) : Bool := s.glb.avsRun && s.rcc.hold == .run && s.pmu.pstate != .p3

/-- The next set-point: at most 5 mV from the last one, towards the target within VMIN to VMAX. -/
def avsNext (old target vmin vmax : Nat) : Nat :=
  let goal := max vmin (min vmax target)
  if old ≤ goal then min goal (old + 5) else max goal (old - 5)

/-- STATUS_WORD is read from every regulator; its low byte is kept. -/
def State.avsStatusRead (s : State) (status : Nat) : State :=
  (s.vrAddrs.foldl (fun s a => s.emit (.pmbusStatusRead a)) s).modGlb fun g => { g with avsStatus := status % 256 }

/-- AVS_TICK: every 1 ms a set-point to every regulator. Before the first one of a start the set-point the regulators hold is a
free value of their range (log entry 97). -/
def execAvsTick (targetMv : Nat) (status : BitVec 16) (s : State) : Host.Outcome State Fault Refusal :=
  if !s.avsOn then .next s
  else
    let s := s.advanceTo (msNs (s.dt / 1000000 + 1))
    let r : Nat × State := if s.glb.avsMv = 0 then (700 + s.freeNat 16 % 121, s.freshen) else (s.glb.avsMv, s)
    let s := r.2
    let mv := match s.rot.image with | some i => avsNext r.1 targetMv i.vmin i.vmax | none => r.1
    let s := s.vrAddrs.foldl (fun s a => s.emit (.pmbus a mv)) s
    .next ((s.modGlb fun g => { g with avsMv := mv, avsRetry := 0 }).avsStatusRead status.toNat)

/-- PMBUS_ALERT: PMBUS_ALERT_N is low; STATUS_WORD is read at once. -/
def execPmbusAlert (status : BitVec 16) (s : State) : Host.Outcome State Fault Refusal :=
  .next (if s.avsOn then s.avsStatusRead status.toNat else s)

/-- PMBUS_TIMEOUT: a transaction with a regulator is NACKed or has not finished within 10 ms: retried 3 times, then the loop stops
with FAULT. -/
def execPmbusTimeout (addr : Fin 4) (s : State) : Host.Outcome State Fault Refusal :=
  match s.avsOn, s.vrAddrs[addr.val]? with
  | true, some a =>
    if s.glb.avsRetry < 3 then .next ((s.modGlb fun g => { g with avsRetry := g.avsRetry + 1 }).emit (.pmbus a s.glb.avsMv))
    else .next (s.modGlb fun g => { g with avsRun := false, avsFault := true, avsAddr := addr.val, avsRetry := 0 })
  | _, _ => .next s

/-! ## I3C (R494) -/

/-- The offset after the last of the run of reachable registers an offset lies in; none where the target does not reach it. -/
def i3cEnd (off : Nat) : Option Nat :=
  let runs := [(0x0, 0x8), (0x20, 0x24), (0x10000, 0x10004), (0x10030, 0x10034), (0x20000, 0x20004), (0x30000, 0x30038), (0x34000, 0x38000)]
  if off % 4 = 0 then (runs.find? fun r => decide (r.1 ≤ off) && decide (off < r.2)).map (·.2) else none

/-- I3C_SET_OFFSET: a private write of 4 bytes sets the offset; one that cannot be read is NACKed (log entry 98). -/
def execI3cSetOffset (offset : Word) (s : State) : Host.Outcome State Fault Refusal :=
  if s.glb.i3cUp ∧ (i3cEnd offset.toNat).isSome then .next ((s.modGlb fun g => { g with i3cOff := offset.toNat }).emit .i3cAck)
  else .next (s.emit .i3cNack)

/-- I3C_PRIVATE_READ: the registers from the offset upwards, to the end of the run it lies in (log entry 98). A read of EVR_HR_SEQ_LO
releases ALERT_N (R495). -/
def execI3cPrivateRead (s : State) : Host.Outcome State Fault Refusal :=
  match s.glb.i3cUp, i3cEnd s.glb.i3cOff with
  | true, some e =>
    let offs := (List.range ((e - s.glb.i3cOff) / 4)).map fun i => s.glb.i3cOff + 4 * i
    let r := s.readRegs 0 [] offs
    let s := r.2.2.emit (.i3cRead (offs.zip r.1))
    .next (if offs.contains 0x30030 then s.modGlb fun g => { g with alert := false } else s)
  | _, _ => .next (s.emit .i3cNack)

/-- I3C_REGISTER_WRITE: only PMU_WAKE is reached (R430). -/
def execI3cRegisterWrite (offset : Word) (value : Word) (s : State) : Host.Outcome State Fault Refusal :=
  if s.glb.i3cUp ∧ offset = 0x20004 then
    let s := s.emit .i3cAck
    .next (if value.getLsbD 0 ∧ s.pmu.pstate = .p3 ∧ s.rcc.hold = .run then s.wake 1 else s)
  else .next (s.emit .i3cNack)

/-- I3C_DYNAMIC_ADDRESS: SETDASA or ENTDAA. -/
def execI3cDynamicAddress (addr : BitVec 7) (s : State) : Host.Outcome State Fault Refusal :=
  if s.glb.i3cUp then .next ((s.modGlb fun g => { g with i3cAddr := some addr.toNat }).emit .i3cAck) else .next (s.emit .i3cNack)

end Sys2Proof.Machine
end

