-- ==== Sys2Proof/Machine/Dispatch.lean ====
section
/-! DEFINITION. The dispatch of the commands: one arm a constructor of `Instr`. -/

namespace Sys2Proof.Machine

open Sys2Proof

def exec (i : Instr) (s : State) : Host.Outcome State Fault Refusal :=
  match i with
  | .msgFlitReceived port lane f => Sys2Proof.Machine.execMsgFlitReceived port lane f s
  | .lctlFlitReceived port f => Sys2Proof.Machine.execLctlFlitReceived port f s
  | .nakReceived port seq => Sys2Proof.Machine.execNakReceived port seq s
  | .creditAdvertiseTimer port => Sys2Proof.Machine.execCreditAdvertiseTimer port s
  | .ackTimer port => Sys2Proof.Machine.execAckTimer port s
  | .replayTimeout port => Sys2Proof.Machine.execReplayTimeout port s
  | .replayLimit port => Sys2Proof.Machine.execReplayLimit port s
  | .uncorrectableCodewordLimit lane => Sys2Proof.Machine.execUncorrectableCodewordLimit lane s
  | .lockLossTimeout lane => Sys2Proof.Machine.execLockLossTimeout lane s
  | .tagFailureLimit port => Sys2Proof.Machine.execTagFailureLimit port s
  | .laneEnabled lane enable => Sys2Proof.Machine.execLaneEnabled lane enable s
  | .signalDetected lane => Sys2Proof.Machine.execSignalDetected lane s
  | .eqComplete lane => Sys2Proof.Machine.execEqComplete lane s
  | .eqTimeout lane => Sys2Proof.Machine.execEqTimeout lane s
  | .lockComplete lane polarityInverted => Sys2Proof.Machine.execLockComplete lane polarityInverted s
  | .lockTimeout lane => Sys2Proof.Machine.execLockTimeout lane s
  | .paramComplete lane p => Sys2Proof.Machine.execParamComplete lane p s
  | .paramTimeout lane => Sys2Proof.Machine.execParamTimeout lane s
  | .secureComplete lane => Sys2Proof.Machine.execSecureComplete lane s
  | .secureTimeout lane => Sys2Proof.Machine.execSecureTimeout lane s
  | .retrainComplete lane => Sys2Proof.Machine.execRetrainComplete lane s
  | .retrainTimeout lane => Sys2Proof.Machine.execRetrainTimeout lane s
  | .downBackoffExpiry lane => Sys2Proof.Machine.execDownBackoffExpiry lane s
  | .hostPortLost port => Sys2Proof.Machine.execHostPortLost port s
  | .keyReplacement port => Sys2Proof.Machine.execKeyReplacement port s
  | .hello port reqId h => Sys2Proof.Machine.execHello port reqId h s
  | .finish port reqId f => Sys2Proof.Machine.execFinish port reqId f s
  | .handshakeTimeout port reqId => Sys2Proof.Machine.execHandshakeTimeout port reqId s
  | .sessionClose m => Sys2Proof.Machine.execSessionClose m s
  | .keepalive m => Sys2Proof.Machine.execKeepalive m s
  | .keepaliveSilence sess => Sys2Proof.Machine.execKeepaliveSilence sess s
  | .qpCreate m cls depthLog2 => Sys2Proof.Machine.execQpCreate m cls depthLog2 s
  | .qpDeleteDrain m qp => Sys2Proof.Machine.execQpDeleteDrain m qp s
  | .qpDeleteAbort m qp mode => Sys2Proof.Machine.execQpDeleteAbort m qp mode s
  | .qpDeleteDone qp => Sys2Proof.Machine.execQpDeleteDone qp s
  | .csrRead m offset count => Sys2Proof.Machine.execCsrRead m offset count s
  | .csrWrite m offset values => Sys2Proof.Machine.execCsrWrite m offset values s
  | .noticeMask m mask => Sys2Proof.Machine.execNoticeMask m mask s
  | .quarantineSet m kind action target => Sys2Proof.Machine.execQuarantineSet m kind action target s
  | .quarantineLift m kind target => Sys2Proof.Machine.execQuarantineLift m kind target s
  | .vc3UnknownType m typ => Sys2Proof.Machine.execVc3UnknownType m typ s
  | .sessionQuarantined sess => Sys2Proof.Machine.execSessionQuarantined sess s
  | .violationWarning sess => Sys2Proof.Machine.execViolationWarning sess s
  | .quarantineTimeout sess => Sys2Proof.Machine.execQuarantineTimeout sess s
  | .portViolationLimit port => Sys2Proof.Machine.execPortViolationLimit port s
  | .moduleLinkQuarantine pos => Sys2Proof.Machine.execModuleLinkQuarantine pos s
  | .noticeTransmit sess => Sys2Proof.Machine.execNoticeTransmit sess s
  | .read c => Sys2Proof.Machine.execRead c s
  | .write c => Sys2Proof.Machine.execWrite c s
  | .flush c => Sys2Proof.Machine.execFlush c s
  | .zeroRange c => Sys2Proof.Machine.execZeroRange c s
  | .compare c => Sys2Proof.Machine.execCompare c s
  | .compareAndWrite c => Sys2Proof.Machine.execCompareAndWrite c s
  | .verify c => Sys2Proof.Machine.execVerify c s
  | .abort c => Sys2Proof.Machine.execAbort c s
  | .commandInvalidOpcode c opc => Sys2Proof.Machine.execCommandInvalidOpcode c opc s
  | .forwardedCommand qp opc e elapsed lanes enc => Sys2Proof.Machine.execForwardedCommand qp opc e elapsed lanes enc s
  | .forwardedCompletion c => Sys2Proof.Machine.execForwardedCompletion c s
  | .dataFlitReceived port qp cid payload => Sys2Proof.Machine.execDataFlitReceived port qp cid payload s
  | .dataTimerExpiry qp cid => Sys2Proof.Machine.execDataTimerExpiry qp cid s
  | .completionTransmit port => Sys2Proof.Machine.execCompletionTransmit port s
  | .class7ResourceFreed qp cid => Sys2Proof.Machine.execClass7ResourceFreed qp cid s
  | .mediaOpIssue resv => Sys2Proof.Machine.execMediaOpIssue resv s
  | .settleEnd die => Sys2Proof.Machine.execSettleEnd die s
  | .readResponse pos tag status hdrOk maxCorr data => Sys2Proof.Machine.execReadResponse pos tag status hdrOk maxCorr data s
  | .mediaReadTimeout tag => Sys2Proof.Machine.execMediaReadTimeout tag s
  | .dieFailTimeout die => Sys2Proof.Machine.execDieFailTimeout die s
  | .softReadResponse pos tag status hdrOk data => Sys2Proof.Machine.execSoftReadResponse pos tag status hdrOk data s
  | .programResponse pos tag status hdrOk => Sys2Proof.Machine.execProgramResponse pos tag status hdrOk s
  | .eraseResponse pos tag status hdrOk => Sys2Proof.Machine.execEraseResponse pos tag status hdrOk s
  | .suspendResponse pos tag status hdrOk => Sys2Proof.Machine.execSuspendResponse pos tag status hdrOk s
  | .resumeResponse pos tag status hdrOk => Sys2Proof.Machine.execResumeResponse pos tag status hdrOk s
  | .telemetry pos hdrOk powerMw energyMj temps corrected => Sys2Proof.Machine.execTelemetry pos hdrOk powerMw energyMj temps corrected s
  | .telemetryMissing pos => Sys2Proof.Machine.execTelemetryMissing pos s
  | .mboxResponse pos tag status hdrOk slot => Sys2Proof.Machine.execMboxResponse pos tag status hdrOk slot s
  | .leaseCasResponse pos tag status hdrOk cur => Sys2Proof.Machine.execLeaseCasResponse pos tag status hdrOk cur s
  | .epochResponse pos tag status hdrOk epoch => Sys2Proof.Machine.execEpochResponse pos tag status hdrOk epoch s
  | .ownerResponse pos tag status hdrOk map => Sys2Proof.Machine.execOwnerResponse pos tag status hdrOk map s
  | .identResponse pos tag hdrOk serial sigOk foreign => Sys2Proof.Machine.execIdentResponse pos tag hdrOk serial sigOk foreign s
  | .mirrorCopy frame desc crcOk data => Sys2Proof.Machine.execMirrorCopy frame desc crcOk data s
  | .peerMediaRead tag soft pos die chunk unit count offs => Sys2Proof.Machine.execPeerMediaRead tag soft pos die chunk unit count offs s
  | .peerMediaReadResponse tag status data => Sys2Proof.Machine.execPeerMediaReadResponse tag status data s
  | .heartbeat h b => Sys2Proof.Machine.execHeartbeat h b s
  | .mirrorAck h frame gen mask => Sys2Proof.Machine.execMirrorAck h frame gen mask s
  | .mirrorMeta h frame gen cid qp cepoch mask => Sys2Proof.Machine.execMirrorMeta h frame gen cid qp cepoch mask s
  | .release h frame gen => Sys2Proof.Machine.execRelease h frame gen s
  | .discard h frame gen => Sys2Proof.Machine.execDiscard h frame gen s
  | .discardAck h frame gen => Sys2Proof.Machine.execDiscardAck h frame gen s
  | .discardAckTimeout qp cid => Sys2Proof.Machine.execDiscardAckTimeout qp cid s
  | .mirrorDeadline qp cid => Sys2Proof.Machine.execMirrorDeadline qp cid s
  | .filterSlot h domain bucket slot tag kind iseq => Sys2Proof.Machine.execFilterSlot h domain bucket slot tag kind iseq s
  | .drbSet h pool slot region segSeq rseq => Sys2Proof.Machine.execDrbSet h pool slot region segSeq rseq s
  | .drbAck h pool rseq => Sys2Proof.Machine.execDrbAck h pool rseq s
  | .memberState h pos pool st => Sys2Proof.Machine.execMemberState h pos pool st s
  | .leaseNote h first count action epoch => Sys2Proof.Machine.execLeaseNote h first count action epoch s
  | .handover h first count phase => Sys2Proof.Machine.execHandover h first count phase s
  | .mapMove h vol grain old new => Sys2Proof.Machine.execMapMove h vol grain old new s
  | .mapMoveAck h vol grain result => Sys2Proof.Machine.execMapMoveAck h vol grain result s
  | .peerReserve h tag die units earliest latest => Sys2Proof.Machine.execPeerReserve h tag die units earliest latest s
  | .peerGrant h tag start len100 => Sys2Proof.Machine.execPeerGrant h tag start len100 s
  | .peerGrantTimeout tag => Sys2Proof.Machine.execPeerGrantTimeout tag s
  | .replayDone h vseq => Sys2Proof.Machine.execReplayDone h vseq s
  | .resyncDone h frames => Sys2Proof.Machine.execResyncDone h frames s
  | .pathSilent mailbox => Sys2Proof.Machine.execPathSilent mailbox s
  | .leaseLost record => Sys2Proof.Machine.execLeaseLost record s
  | .pairing serial sigOk wcGib fwver compatMinor cepoch => Sys2Proof.Machine.execPairing serial sigOk wcGib fwver compatMinor cepoch s
  | .failbackGo m value => Sys2Proof.Machine.execFailbackGo m value s
  | .handoverDrained first => Sys2Proof.Machine.execHandoverDrained first s
  | .fence p epoch reason => Sys2Proof.Machine.execFence p epoch reason s
  | .fenced p pstate role records => Sys2Proof.Machine.execFenced p pstate role records s
  | .statusReq p => Sys2Proof.Machine.execStatusReq p s
  | .status p feed held supplies role records => Sys2Proof.Machine.execStatus p feed held supplies role records s
  | .eventsReq p first count => Sys2Proof.Machine.execEventsReq p first count s
  | .events p recs => Sys2Proof.Machine.execEvents p recs s
  | .psbRelease p epoch => Sys2Proof.Machine.execPsbRelease p epoch s
  | .released p => Sys2Proof.Machine.execReleased p s
  | .islandFeed vstby psb => Sys2Proof.Machine.execIslandFeed vstby psb s
  | .destagePad pool => Sys2Proof.Machine.execDestagePad pool s
  | .dgeCtxOpen ctx user alg key declared expected snoop => Sys2Proof.Machine.execDgeCtxOpen ctx user alg key declared expected snoop s
  | .dgeCtxFeed ctx seg => Sys2Proof.Machine.execDgeCtxFeed ctx seg s
  | .dgeCtxFinal ctx => Sys2Proof.Machine.execDgeCtxFinal ctx s
  | .dgeCtxRelease ctx => Sys2Proof.Machine.execDgeCtxRelease ctx s
  | .dgeFeedTimeout ctx => Sys2Proof.Machine.execDgeFeedTimeout ctx s
  | .dgeBlockBoundary lane => Sys2Proof.Machine.execDgeBlockBoundary lane s
  | .partitionRefilled domain entries => Sys2Proof.Machine.execPartitionRefilled domain entries s
  | .compressDone frame lane laneFault inputCrcOk => Sys2Proof.Machine.execCompressDone frame lane laneFault inputCrcOk s
  | .decodeDone tag lane => Sys2Proof.Machine.execDecodeDone tag lane s
  | .streamCtxOpen ctx user decompress blockKib streamId bseq => Sys2Proof.Machine.execStreamCtxOpen ctx user decompress blockKib streamId bseq s
  | .streamBlockOffer ctx hdr block => Sys2Proof.Machine.execStreamBlockOffer ctx hdr block s
  | .streamBlockDone ctx => Sys2Proof.Machine.execStreamBlockDone ctx s
  | .streamCtxClose ctx => Sys2Proof.Machine.execStreamCtxClose ctx s
  | .forceRawWrite m value => Sys2Proof.Machine.execForceRawWrite m value s
  | .segmentReclaimed seg => Sys2Proof.Machine.execSegmentReclaimed seg s
  | .memberAbsent pos => Sys2Proof.Machine.execMemberAbsent pos s
  | .memberLossTimeout pos => Sys2Proof.Machine.execMemberLossTimeout pos s
  | .pxeLoseGo m value => Sys2Proof.Machine.execPxeLoseGo m value s
  | .rebuildNoticeTimer pool => Sys2Proof.Machine.execRebuildNoticeTimer pool s
  | .snapshotReady vol snap => Sys2Proof.Machine.execSnapshotReady vol snap s
  | .replJobStart job => Sys2Proof.Machine.execReplJobStart job s
  | .replIdleTimeout job => Sys2Proof.Machine.execReplIdleTimeout job s
  | .govLoad m value => Sys2Proof.Machine.execGovLoad m value s
  | .govModeReq m value => Sys2Proof.Machine.execGovModeReq m value s
  | .govInjGo m value => Sys2Proof.Machine.execGovInjGo m value s
  | .govInjStop m value => Sys2Proof.Machine.execGovInjStop m value s
  | .govCapStart m value => Sys2Proof.Machine.execGovCapStart m value s
  | .govCapStop m value => Sys2Proof.Machine.execGovCapStop m value s
  | .dramCorrected channel rank => Sys2Proof.Machine.execDramCorrected channel rank s
  | .dramUncorrectable channel rank addr region index => Sys2Proof.Machine.execDramUncorrectable channel rank addr region index s
  | .dramPatrolScrub found => Sys2Proof.Machine.execDramPatrolScrub found s
  | .ecsRead counts => Sys2Proof.Machine.execEcsRead counts s
  | .ddrTrainingDone failures badLanes => Sys2Proof.Machine.execDdrTrainingDone failures badLanes s
  | .slcCorrected slice way => Sys2Proof.Machine.execSlcCorrected slice way s
  | .slcUncorrectable slice way holds region index => Sys2Proof.Machine.execSlcUncorrectable slice way holds region index s
  | .stagingReleaseTimeout qp cid => Sys2Proof.Machine.execStagingReleaseTimeout qp cid s
  | .spadWaysReq m value => Sys2Proof.Machine.execSpadWaysReq m value s
  | .slcDisable m value => Sys2Proof.Machine.execSlcDisable m value s
  | .slcEnable m value => Sys2Proof.Machine.execSlcEnable m value s
  | .cfgBegin m epoch base len => Sys2Proof.Machine.execCfgBegin m epoch base len s
  | .cfgStage m offset len recs => Sys2Proof.Machine.execCfgStage m offset len recs s
  | .cfgCommit m c => Sys2Proof.Machine.execCfgCommit m c s
  | .cfgAbort m => Sys2Proof.Machine.execCfgAbort m s
  | .cfgStatus m => Sys2Proof.Machine.execCfgStatus m s
  | .timeSet m offset => Sys2Proof.Machine.execTimeSet m offset s
  | .peerCfgOffer c len => Sys2Proof.Machine.execPeerCfgOffer c len s
  | .peerCfgData offset len recs => Sys2Proof.Machine.execPeerCfgData offset len recs s
  | .peerCfgResult epoch result => Sys2Proof.Machine.execPeerCfgResult epoch result s
  | .peerCfgFetch got => Sys2Proof.Machine.execPeerCfgFetch got s
  | .imageBegin m len => Sys2Proof.Machine.execImageBegin m len s
  | .imageWrite m offset len => Sys2Proof.Machine.execImageWrite m offset len s
  | .imageCommit m img => Sys2Proof.Machine.execImageCommit m img s
  | .imageConfirm m => Sys2Proof.Machine.execImageConfirm m s
  | .imageStatus m => Sys2Proof.Machine.execImageStatus m s
  | .certRead m chain => Sys2Proof.Machine.execCertRead m chain s
  | .attest m nonce => Sys2Proof.Machine.execAttest m nonce s
  | .keySlotParity slot => Sys2Proof.Machine.execKeySlotParity slot s
  | .dbgChallenge m action => Sys2Proof.Machine.execDbgChallenge m action s
  | .debugD2 m t => Sys2Proof.Machine.execDebugD2 m t s
  | .debugD3 m t => Sys2Proof.Machine.execDebugD3 m t s
  | .toField m t => Sys2Proof.Machine.execToField m t s
  | .toReturn m t => Sys2Proof.Machine.execToReturn m t s
  | .toEnd m t => Sys2Proof.Machine.execToEnd m t s
  | .dbgObserveOn m => Sys2Proof.Machine.execDbgObserveOn m s
  | .dbgObserveOff m => Sys2Proof.Machine.execDbgObserveOff m s
  | .pmSetP0 m => Sys2Proof.Machine.execPmSetP0 m s
  | .pmSetP2 m => Sys2Proof.Machine.execPmSetP2 m s
  | .pmSetP3 m => Sys2Proof.Machine.execPmSetP3 m s
  | .pmStatus m => Sys2Proof.Machine.execPmStatus m s
  | .jtagInstruction tap code => Sys2Proof.Machine.execJtagInstruction tap code s
  | .jtagCoreReset asserted => Sys2Proof.Machine.execJtagCoreReset asserted s
  | .coreWatchdog cluster core => Sys2Proof.Machine.execCoreWatchdog cluster core s
  | .swColdReset m value => Sys2Proof.Machine.execSwColdReset m value s
  | .swWarmReset m value => Sys2Proof.Machine.execSwWarmReset m value s
  | .blockReset m value => Sys2Proof.Machine.execBlockReset m value s
  | .thermalTrip sensor temp => Sys2Proof.Machine.execThermalTrip sensor temp s
  | .glitch sub domain => Sys2Proof.Machine.execGlitch sub domain s
  | .refclkFault outOfRange => Sys2Proof.Machine.execRefclkFault outOfRange s
  | .quadPllUnlock quad => Sys2Proof.Machine.execQuadPllUnlock quad s
  | .chipRelease straps waitedUs nvm badLanes badWays => Sys2Proof.Machine.execChipRelease straps waitedUs nvm badLanes badWays s
  | .blockRelease block => Sys2Proof.Machine.execBlockRelease block s
  | .releaseDeferred mask domain => Sys2Proof.Machine.execReleaseDeferred mask domain s
  | .bootReady unreadable peerCopies lost descBad dicts => Sys2Proof.Machine.execBootReady unreadable peerCopies lost descBad dicts s
  | .junctionHotWindow sensor temp => Sys2Proof.Machine.execJunctionHotWindow sensor temp s
  | .selfTestStart m value => Sys2Proof.Machine.execSelfTestStart m value s
  | .selfTestAbort m value => Sys2Proof.Machine.execSelfTestAbort m value s
  | .selfTestItemDone findings failures => Sys2Proof.Machine.execSelfTestItemDone findings failures s
  | .avsTick targetMv status => Sys2Proof.Machine.execAvsTick targetMv status s
  | .pmbusAlert status => Sys2Proof.Machine.execPmbusAlert status s
  | .pmbusTimeout addr => Sys2Proof.Machine.execPmbusTimeout addr s
  | .i3cSetOffset offset => Sys2Proof.Machine.execI3cSetOffset offset s
  | .i3cRegisterWrite offset value => Sys2Proof.Machine.execI3cRegisterWrite offset value s
  | .i3cDynamicAddress addr => Sys2Proof.Machine.execI3cDynamicAddress addr s
  | .quadPllLocked quad => Sys2Proof.Machine.execQuadPllLocked quad s
  | .keysInstalled slot => Sys2Proof.Machine.execKeysInstalled slot s
  | .frameEntersHorizon => Sys2Proof.Machine.execFrameEntersHorizon s
  | .refusals => Sys2Proof.Machine.execRefusals s
  | .heartbeatTimer => Sys2Proof.Machine.execHeartbeatTimer s
  | .peerDeclaredFailed => Sys2Proof.Machine.execPeerDeclaredFailed s
  | .fenceNoAnswer => Sys2Proof.Machine.execFenceNoAnswer s
  | .fenceRetry => Sys2Proof.Machine.execFenceRetry s
  | .leaseWaitExpiry => Sys2Proof.Machine.execLeaseWaitExpiry s
  | .leaseRetryTimer => Sys2Proof.Machine.execLeaseRetryTimer s
  | .leaseRenewalTimer => Sys2Proof.Machine.execLeaseRenewalTimer s
  | .yieldTimer => Sys2Proof.Machine.execYieldTimer s
  | .failbackStable => Sys2Proof.Machine.execFailbackStable s
  | .psbRejectLimit => Sys2Proof.Machine.execPsbRejectLimit s
  | .psbIgnoreEnd => Sys2Proof.Machine.execPsbIgnoreEnd s
  | .peerPortViolationLimit => Sys2Proof.Machine.execPeerPortViolationLimit s
  | .pwrfailSeen => Sys2Proof.Machine.execPwrfailSeen s
  | .vaultFreeze => Sys2Proof.Machine.execVaultFreeze s
  | .pwrfailRise => Sys2Proof.Machine.execPwrfailRise s
  | .commitCloseTimer => Sys2Proof.Machine.execCommitCloseTimer s
  | .govSample => Sys2Proof.Machine.execGovSample s
  | .feedbackImplausible => Sys2Proof.Machine.execFeedbackImplausible s
  | .govPlausibleRun => Sys2Proof.Machine.execGovPlausibleRun s
  | .budgetUnreachable => Sys2Proof.Machine.execBudgetUnreachable s
  | .capWindow => Sys2Proof.Machine.execCapWindow s
  | .injectionEnd => Sys2Proof.Machine.execInjectionEnd s
  | .captureFull => Sys2Proof.Machine.execCaptureFull s
  | .zqCalibration => Sys2Proof.Machine.execZqCalibration s
  | .spadChanged => Sys2Proof.Machine.execSpadChanged s
  | .slcFlushDone => Sys2Proof.Machine.execSlcFlushDone s
  | .stagingAbandoned => Sys2Proof.Machine.execStagingAbandoned s
  | .peerCfgTimeout => Sys2Proof.Machine.execPeerCfgTimeout s
  | .imageIdleTimeout => Sys2Proof.Machine.execImageIdleTimeout s
  | .nonceExpiry => Sys2Proof.Machine.execNonceExpiry s
  | .d2Quiesced => Sys2Proof.Machine.execD2Quiesced s
  | .p2Reached => Sys2Proof.Machine.execP2Reached s
  | .p3Entered => Sys2Proof.Machine.execP3Entered s
  | .pmuWake => Sys2Proof.Machine.execPmuWake s
  | .por => Sys2Proof.Machine.execPor s
  | .pwrgdLoss => Sys2Proof.Machine.execPwrgdLoss s
  | .resetN => Sys2Proof.Machine.execResetN s
  | .wresetN => Sys2Proof.Machine.execWresetN s
  | .rotWatchdog => Sys2Proof.Machine.execRotWatchdog s
  | .evrRateWindow => Sys2Proof.Machine.execEvrRateWindow s
  | .healthReportRebuild => Sys2Proof.Machine.execHealthReportRebuild s
  | .healthRecordPersist => Sys2Proof.Machine.execHealthRecordPersist s
  | .selfTestTimeout => Sys2Proof.Machine.execSelfTestTimeout s
  | .i3cPrivateRead => Sys2Proof.Machine.execI3cPrivateRead s

end Sys2Proof.Machine
end

