-- ==== Sys2Proof/Safety.lean ====
section
/-! DEFINITION. What counts as safe of this block, in the terms the statements use: the fuses, which never go back (R383, R391, R415,
R421); parts of the state, for saying what a command leaves alone; a request that passes R499; what has been given to a port. -/

namespace Sys2Proof.Machine

open Sys2Proof

/-! ## Fuses -/

/-- The fuses fit their lifecycle: no owner anchor before TO_FIELD, one in FIELD, and no wrap key in RETURN or END (R415, R421). -/
def State.FusesFit (s : State) : Prop :=
  (s.rot.lifecycle = .blank ∨ s.rot.lifecycle = .provisioned → s.rot.ownerAnchor = none) ∧
  (s.rot.lifecycle = .field → s.rot.ownerAnchor.isSome = true) ∧
  (s.rot.lifecycle = .ret ∨ s.rot.lifecycle = .ended → s.rot.wrapErased = true)

/-- The fuses of `t` may follow those of `s`: nothing that is blown is undone (R391, R415, R421). -/
def State.fusesFollow (s t : State) : Prop :=
  lifecycleNum s.rot.lifecycle ≤ lifecycleNum t.rot.lifecycle ∧ (s.rot.wrapErased = true → t.rot.wrapErased = true) ∧
  (s.rot.ownerAnchor.isSome = true → t.rot.ownerAnchor = s.rot.ownerAnchor) ∧ s.rot.fuseSvn ≤ t.rot.fuseSvn ∧ t.rot.serial = s.rot.serial

/-! ## Parts of the state -/

/-- The parts of the state beside the queue. -/
inductive Blk where
  | dt
  | out
  | fresh
  | link
  | cqe
  | dsc
  | wc
  | dge
  | dxu
  | cpe
  | ftu
  | pxe
  | snap
  | ha
  | snw
  | gov
  | mcu
  | slc
  | rot
  | nvi
  | xts
  | cfg
  | pmu
  | dbg
  | rcc
  | evr
  | glb
  deriving DecidableEq, Repr

/-- The state with one part blanked. -/
def State.blank (s : State) (b : Blk) : State :=
  match b with
  | .dt => { s with dt := 0 }
  | .out => { s with out := [] }
  | .fresh => { s with fresh := 0 }
  | .link => { s with link := {} }
  | .cqe => { s with cqe := {} }
  | .dsc => { s with dsc := {} }
  | .wc => { s with wc := {} }
  | .dge => { s with dge := {} }
  | .dxu => { s with dxu := {} }
  | .cpe => { s with cpe := {} }
  | .ftu => { s with ftu := {} }
  | .pxe => { s with pxe := {} }
  | .snap => { s with snap := {} }
  | .ha => { s with ha := {} }
  | .snw => { s with snw := {} }
  | .gov => { s with gov := {} }
  | .mcu => { s with mcu := {} }
  | .slc => { s with slc := {} }
  | .rot => { s with rot := {} }
  | .nvi => { s with nvi := {} }
  | .xts => { s with xts := {} }
  | .cfg => { s with cfg := {} }
  | .pmu => { s with pmu := {} }
  | .dbg => { s with dbg := {} }
  | .rcc => { s with rcc := {} }
  | .evr => { s with evr := {} }
  | .glb => { s with glb := {} }

/-- The state without some parts. `t.without bs = s.without bs` says that every other part, the queue included, is the same in both. -/
def State.without (s : State) (bs : List Blk) : State := bs.foldl State.blank s

/-! ## Requests -/

/-- A VC3 request passes every step of R499 and is carried out by session `x`. `free`: its type is one that quarantine lets pass. -/
abbrev State.accepts (s : State) (m : Vc3) (typ : Nat) (free : Bool) (priv : Nat) (x : Session) : Prop :=
  s.sessionOf m = some x ∧ m.lenMacOk = true ∧ m.rsvWord = 0 ∧ x.pendingReq.contains m.reqId.toNat = false ∧
  (x.quarantined = true → free = true) ∧ priv ≤ x.privilege ∧ m.bodyOk = true ∧ (s.rot.lifecycle = .ended → endServes typ = true)

/-- A CSR_WRITE of a register with write privilege `priv` is carried out (R71, R499). -/
abbrev State.writes (s : State) (m : Vc3) (priv : Nat) (x : Session) : Prop := s.accepts m 0x31 false 1 x ∧ priv ≤ x.privilege

/-- The state once a session's request is noted (R97). -/
def State.heard (s : State) (m : Vc3) : State := s.modSession m.sess.toNat fun x => { x with lastAt := s.dt }

/-- How often something has been given to a port: sent, or still in its transmitter. -/
def State.given (s : State) (p : PortId) (x : Sent) : Nat := s.out.count x + ((s.link.port p).txq.map (·.item)).count x

/-- Between `s` and `t` one answer is given to the port of a request. -/
def State.answers (s t : State) (m : Vc3) (typ status : Nat) (body : Bytes) : Prop :=
  let a : Sent := .answer m.port.val m.sess.toNat (typ + 0x8000) m.reqId.toNat status body
  t.given (hostPort m.port.val) a = s.given (hostPort m.port.val) a + 1

/-- What a VC3 request may always touch: the port, the session, the log. -/
def vcParts : List Blk := [.fresh, .out, .link, .cqe, .evr]

/-- The event log after one happening (R456 to R461). -/
def State.logged (s : State) (code : BitVec 16) (inst p0 p1 p2 p3 : Nat) : Evr := s.evr.happen s.dt code inst p0 p1 p2 p3

/-! ## Lanes -/

/-- What a lane's change of state may touch: its port, the commands and members that depend on it, the mirror, events, notices. -/
def laneParts : List Blk := [.fresh, .out, .link, .cqe, .dsc, .wc, .ftu, .pxe, .gov, .cfg, .evr, .glb]

/-- The command takes lane `n` to a state and no other lane anywhere. -/
def LaneMove (c : Instr) (s : State) (n : Nat) (st : LaneSt) : Prop :=
  ∃ t, exec c s = .next t ∧ (t.link.lane n).st = st ∧ (∀ k, k ≠ n → t.link.lane k = s.link.lane k) ∧ t.without laneParts = s.without laneParts

/-- The command is a timer of lane `n` that ends `ns` after the lane entered its state: DT has reached that moment, and the lane goes to
a state. -/
def LaneTimer (c : Instr) (s : State) (n : Nat) (ns : Nat) (st : LaneSt) : Prop :=
  ∃ t, exec c s = .next t ∧ (t.link.lane n).st = st ∧ t.dt = max s.dt ((s.link.lane n).since + ns) ∧
    (∀ k, k ≠ n → t.link.lane k = s.link.lane k) ∧ t.without (.dt :: laneParts) = s.without (.dt :: laneParts)

/-- A media lane that trains is held in QUARANTINE: its position is undeclared or its link quarantined (R50, R65). -/
def State.laneHeld (s : State) (n : Nat) : Bool :=
  decide (32 ≤ n) && decide (n < 128) &&
    (!s.cfg.moduleDeclared (s.link.posOf n) || (tgetD s.link.modules (s.link.posOf n) {}).quarantined)

/-- The command takes every ACTIVE lane of a port to RETRAIN, and no other lane anywhere. -/
def PortRetrains (c : Instr) (s : State) (p : PortId) : Prop :=
  ∃ t, exec c s = .next t ∧ (∀ n, n ∈ s.link.portLanes p → (s.link.lane n).st = .active → (t.link.lane n).st = .retrain) ∧
    (∀ n, ¬ (n ∈ s.link.portLanes p ∧ (s.link.lane n).st = .active) → t.link.lane n = s.link.lane n) ∧
    t.without laneParts = s.without laneParts

/-- A session and its queue pairs are gone. -/
def SessionGone (t : State) (n : Nat) : Prop := tget t.cqe.sessions n = none ∧ ∀ q ∈ t.cqe.qps, q.2.sess ≠ n

/-! ## Host commands -/

/-- What a command of a host may touch. -/
def cmdParts : List Blk := [.fresh, .out, .link, .cqe, .dsc, .wc, .dge, .dxu, .cpe, .ftu, .pxe, .snap, .slc, .evr]

/-- A command entry passes checks 1 to 5 of R94: its queue pair and session are in order, and its CID is free. -/
abbrev State.rings (s : State) (h : HostCmd) (q : Qp) (x : Session) : Prop :=
  tget s.cqe.qps h.qp.toNat = some q ∧ q.port = h.port.val ∧ tget s.cqe.sessions q.sess = some x ∧ x.closing = none ∧ x.quarantined = false ∧
  q.deleting = none ∧ s.cqe.outstanding h.qp.toNat < q.depth ∧ s.cqe.cmd h.qp.toNat h.entry.cid.toNat = none

/-- It passes checks 1 to 11 of R94, on a volume that is no portal (R303). -/
abbrev State.passes (s : State) (opc : Nat) (h : HostCmd) (q : Qp) (x : Session) (r : VolumeRec) : Prop :=
  s.rings h q x ∧ fieldsOk opc h.entry = true ∧ s.cfg.volume h.entry.vol.toNat = some r ∧ r.kind ≠ 4 ∧ r.kind ≠ 5 ∧
  s.volStatus opc h.entry.vol.toNat h.entry.lba.toNat h.entry.nsect.toNat q.cls (s.granted x.anchor h.entry.vol.toNat) = none

/-- A command entry in the ring: the state that holds it, and the command it spells. -/
def State.ringed (s : State) (opc : Nat) (h : HostCmd) (q : Qp) : State × Cmd :=
  let c := cmdOf h.qp.toNat q.port q.sess q.cls opc s.dt h.entry
  let c := { c with expect := expectOf opc c.nsect (s.cmdPort c).2 }
  let c := { c with window := s.windowOf c, timerAt := s.dt + usNs s.cqe.dataTimeoutUs }
  (s.modCqe fun x => { x with drain := x.drain.filter (· != (h.qp.toNat, h.entry.cid.toNat)), cmds := x.cmds ++ [c] }, c)

/-- What DSC decides of a command entry that reached it (R104, R122). -/
def State.judged (s : State) (opc : Nat) (h : HostCmd) (q : Qp) : Decision × State :=
  let r := s.ringed opc h q
  r.1.intake.2.judge r.2

/-- A command that the peer forwarded, in the ring under the peer's queue pair (R22, R502). -/
def State.peerRinged (s : State) (qp : BitVec 14) (opc : Nat) (e : CmdEntry) (elapsed lanes : Nat) (enc : Bool) : State × Cmd :=
  let c := { cmdOf (peerQp qp.toNat) 0 65535 (s.freeNat 3) opc (s.dt - elapsed - 1000) e with fromPeer := some (lanes, enc) }
  let c := { c with expect := expectOf opc c.nsect (s.cmdPort c).2 }
  let c := { c with window := s.windowOf c, timerAt := s.dt + usNs s.cqe.dataTimeoutUs }
  (s.freshen.modCqe fun x => { x with cmds := x.cmds ++ [c], drain := x.drain.filter (· != (c.qp, c.cid)) }, c)

/-- The command that spells a ranged opcode of R82. -/
def rangedCmd (opc : Nat) (h : HostCmd) : Option Instr :=
  match opc with
  | 1 => some (.read h)
  | 2 => some (.write h)
  | 4 => some (.zeroRange h)
  | 5 => some (.compare h)
  | 6 => some (.compareAndWrite h)
  | 7 => some (.verify h)
  | _ => none

/-- One more completion is ready for a port, of this queue pair and CID, with this status. -/
def State.completes (s t : State) (port : Nat) (qp : BitVec 14) (cid : BitVec 16) (status : Nat) (more : Completion → Prop) : Prop :=
  ∃ k, t.cqe.ready = s.cqe.ready ++ [(port, k)] ∧ k.qp = qp ∧ k.cid = cid ∧ k.status = BitVec.ofNat 16 status ∧ more k

/-- A command of a host that has not reached its commit point, is not forwarded, holds no frame and sent no mirror copy, and whose
session is open. -/
abbrev State.plainOpen (s : State) (c : Cmd) (x : Session) : Prop :=
  c.open_ = true ∧ c.fwdAt = none ∧ c.fromPeer = none ∧ c.frames = [] ∧ c.credit = 0 ∧ c.mirrorSent = false ∧ c.aborters = [] ∧
  tget s.cqe.sessions c.sess = some x ∧ x.closing = none

/-! ## Media -/

/-- An operation that went to a bridge on this head's own dies is in flight under a tag. -/
abbrev State.inFlight (s : State) (pos : Fin 96) (tag : Word) (opc : Nat) (o : MediaOp) : Prop :=
  tget s.link.ops tag.toNat = some o ∧ o.pos = pos.val ∧ o.opc = opc ∧ s.viaPeer o = false

/-- Between `s` and `t` an operation left for a bridge under the next tag (R57). -/
def MediaSent (s t : State) (pos die opc addr arg epoch : Nat) (body : Bytes) : Prop :=
  (tget t.link.ops s.link.nextTag).map (fun o => (o.pos, o.die, o.opc, o.addr)) = some (pos, die, opc, addr) ∧
  t.given (mediaPort pos) (.media pos s.link.nextTag opc die addr arg epoch body) =
    s.given (mediaPort pos) (.media pos s.link.nextTag opc die addr arg epoch body) + 1

/-- A direct read of a grain of a command is the last that its fetch waits for, and another grain of the command is still to come. -/
abbrev State.lastPiece (s : State) (num : Nat) (f : Fetch) (qp cid idx : Nat) (c : Cmd) : Prop :=
  s.fetchOf num = some f ∧ f.waits = 1 ∧ f.path = 1 ∧ f.tried = [] ∧ f.failed = false ∧ f.got = [] ∧ f.work = .hostRead qp cid idx ∧
  s.cqe.cmd qp cid = some c ∧ idx < c.parts.length ∧ ∃ j p, j ≠ idx ∧ c.parts[j]? = some p ∧ p.result = none

/-- A stored grain of a volume that was kept raw, with its bytes (R201, R215). -/
abbrev State.storedRaw (s : State) (vol : Nat) (data out : Bytes) : Prop :=
  ∃ h d, s.openGrain vol data = some (h, d) ∧ hdrDict h = false ∧ hdrRaw h = true ∧ s.decodeGrain vol h d = .ok out

/-- The command with the sectors of one of its grains. -/
def Cmd.withGrain (c : Cmd) (idx : Nat) (out : Bytes) : Cmd :=
  { c with parts := lmod c.parts idx fun p => { p with result := some (0, 0), data := sectorsOf out } }

/-! ## Between the heads -/

/-- The place a PEER_RESERVE finds: start, suspension, length (R314). -/
def State.peerSlot (s : State) (die units earliestOff latestOff : Nat) : Option (Nat × Nat × Nat) :=
  earliest (s.dsc.ofDie die) s.dt (up100 (s.dt + earliestOff)) (costE (s.ftu.dieType die) units 0) (costE (s.ftu.dieType die) units 1)
    fun c len => decide (c < s.dt + latestOff - 1000) && s.hostFits s.dsc die c len

/-- One more of a message is given to a port. -/
def Gives (s t : State) (p : PortId) (x : Sent) : Prop := t.given p x = s.given p x + 1

/-! ## The island's frames -/

/-- A PSB frame passes R333: the PSB is not ignored, the pair key exists, the length and the MAC hold, the counter is new. -/
abbrev State.hearsPsb (s : State) (p : Psb) : Prop :=
  (∀ t, s.snw.ignoreUntil = some t → t ≤ s.dt) ∧ p.len ≤ 1040 ∧ p.macOk = true ∧ s.snw.paired = true ∧ s.snw.ctrRx < p.ctr

/-- The island's memory of a frame that passed. -/
def State.psbHeard (s : State) (p : Psb) : Snw :=
  { s.snw with
    ctrRx := p.ctr
    acceptedAt := some s.dt }

/-- The PSB frame that a command is, with its type (R334). -/
def psbOf (c : Instr) : Option (Psb × Nat) :=
  match c with
  | .fence p _ _ => some (p, 1)
  | .statusReq p => some (p, 2)
  | .eventsReq p _ _ => some (p, 3)
  | .psbRelease p _ => some (p, 4)
  | .fenced p _ _ _ => some (p, 0x81)
  | .status p _ _ _ _ _ => some (p, 0x82)
  | .events p _ => some (p, 0x83)
  | .released p => some (p, 0x84)
  | _ => none

/-! ## Resets -/

/-- What COLD scope leaves (R436): the host's and the peer's traffic, DRAM, the engines, the configuration and the debug level are gone;
fuses, NVM, flash and the island's switches stay. -/
def ColdCleared (s t : State) : Prop :=
  t.link = {} ∧ t.cqe = {} ∧ t.dsc = {} ∧ t.wc.frames = [] ∧ t.wc.mirror = [] ∧ t.dge = {} ∧ t.cpe = {} ∧ t.xts = {} ∧ t.gov = {} ∧ t.slc = {} ∧
  t.ha = {} ∧ t.cfg = {} ∧ t.pmu = {} ∧ t.dbg = {} ∧ t.rot.image = none ∧ t.rot.lifecycle = s.rot.lifecycle ∧
  t.rot.ownerAnchor = s.rot.ownerAnchor ∧ t.rot.fuseSvn = s.rot.fuseSvn ∧ t.nvi.slotA = s.nvi.slotA ∧ t.nvi.slotB = s.nvi.slotB ∧
  t.wc.vault = s.wc.vault ∧ t.ftu.halves.map (·.pool) = s.ftu.halves.map (·.pool) ∧ t.dt = s.dt ∧ t.out = s.out

/-- The command takes a head that is not in a cold reset into one, with this bit of RCC_CAUSE. -/
def ColdHeld (c : Instr) (s : State) (bit : Nat) (more : State → Prop) : Prop :=
  ∃ t, exec c s = .next t ∧ ColdCleared s t ∧ t.rcc.hold = .cold ∧ t.rcc.cause.getLsbD bit = true ∧ t.rcc.since = s.dt ∧ t.snw = s.snw ∧ more t

/-- What WARM scope leaves (R436): sessions and calendars are gone; the write cache, DRAM, the image, the epoch and the wall time stay. -/
def WarmCleared (s t : State) : Prop :=
  t.link = {} ∧ t.cqe = {} ∧ t.dsc = {} ∧ t.gov = {} ∧ t.pmu = {} ∧ t.wc.frames = s.wc.frames ∧ t.wc.mirror = s.wc.mirror ∧ t.dxu.doms = s.dxu.doms ∧
  t.mcu = s.mcu ∧ t.rot.image = s.rot.image ∧ t.rot.lifecycle = s.rot.lifecycle ∧ t.ha.epoch = s.ha.epoch ∧ t.cfg = { wall := s.cfg.wall } ∧
  t.snw = s.snw ∧ t.dt = s.dt ∧ t.out = s.out

/-- The command takes a running head into a warm reset, with this bit of RCC_CAUSE. -/
def WarmHeld (c : Instr) (s : State) (bit : Nat) : Prop :=
  ∃ t, exec c s = .next t ∧ WarmCleared s t ∧ t.rcc.hold = .warm ∧ t.rcc.cause.getLsbD bit = true ∧ t.rcc.since = s.dt

/-- The image of a slot passes its checks (R391). -/
abbrev State.slotGood (s : State) (b : Bool) (i : Image) : Prop := s.nvi.slot b = some i ∧ (imageReason s.rot i).1 = 0

/-! ## Tokens -/

/-- A DBG_TOKEN of an action is accepted (R417, R419, R420). -/
abbrev State.tokenHolds (s : State) (m : Vc3) (action : Nat) (k : Token) (x : Session) : Prop :=
  s.accepts m 0x89 false (actionPrivilege s.rot.lifecycle action) x ∧ k.fmtOk = true ∧ s.tokenReason m action k = 0

end Sys2Proof.Machine
end

