-- ==== Sys2Proof/WellFormed.lean ====
section
/-! DEFINITION. Well-formed commands: operands within the ranges the spec gives them, where the operand's type is wider. The machine is
defined on every command; a command that is not well-formed cannot come from the hardware around the head. -/

namespace Sys2Proof

/-- A command entry carries ten command words beside its named fields (R77). -/
def CmdEntry.wf (e : CmdEntry) : Bool := e.cdw.length == 10

/-- A flit carries at most 240 bytes of payload (R42). -/
def Flit.wf (f : Flit) : Bool := decide (f.payload.length ≤ 240)

/-- A global die number: 256 times the position plus the die (R28, R57). -/
def wfDie (d : Nat) : Bool := decide (d < 24576) && decide (d % 256 < 192)

/-- A rank of a DDR channel: two DIMMs of two ranks (R367). -/
def wfRank (r : Nat) : Bool := decide (r < 4)

/-- The operands of a command lie in the ranges the spec gives them. A command whose operand types already say so is well-formed. -/
def Instr.wf : Instr → Bool
  | .msgFlitReceived _ _ f => f.wf
  | .lctlFlitReceived _ f => f.credits.length == 6
  | .paramComplete _ p => p.credits.length == 6
  | .csrWrite _ _ vs => decide (vs.length ≤ 64)
  | .read c | .write c | .flush c | .zeroRange c | .compare c | .compareAndWrite c | .verify c | .abort c
  | .commandInvalidOpcode c _ => c.entry.wf
  | .forwardedCommand _ _ e _ lanes _ => e.wf && decide (lanes ≤ 16)
  | .dataFlitReceived _ _ _ p => decide (p.length ≤ 240)
  | .settleEnd die | .dieFailTimeout die => wfDie die
  | .mirrorCopy _ _ _ data => data.all fun x => x.length == 4096
  | .memberState _ pos pool _ => decide (pos < 96) && decide (pool < 16)
  | .leaseLost record => decide (record < 258)
  | .handoverDrained first => decide (first < 256)
  | .partitionRefilled domain _ => decide (domain < 4096)
  | .dramCorrected _ rank => wfRank rank
  | .dramUncorrectable _ rank _ region _ => wfRank rank && decide (1 ≤ region) && decide (region ≤ 14)
  | .attest _ nonce => nonce.length == 32
  | _ => true

end Sys2Proof
end

