-- ==== Sys2Proof/Certificates/Slice0/Obligations.lean ====
section
/-! DEFINITION. The statements for the provers. Where a statement says that a command answers a next state, its hypotheses speak of the
state and the operands alone. A frame `t.without ps = s.without ps` says that every part of the state outside `ps` is the same in `t`. -/

open Sys2Proof Sys2Proof.Machine

/-! ## The queue and reset -/

/-- A step carries out the command at the front of the queue on the head with the queue's rest; with an empty queue one nanosecond
passes (log entry 1: the model's choice). -/
def Obligations.StepRunsTheFrontCommand : Prop :=
  (∀ (c : Instr) (s : State), step { s with pending := c :: s.pending } = exec c s) ∧
  ∀ s : State, s.pending = [] → step s = .next { s with dt := s.dt + 1 }

/-- Every command answers a next state, and no command adds to, takes from or reorders the commands that wait. -/
def Obligations.EveryCommandKeepsTheQueue : Prop :=
  ∀ (c : Instr) (s : State), ∃ t, exec c s = .next t ∧ t.pending = s.pending

/-- What the spec gives for the state after a power-on reset: DT is 0 (R10), no lane has left IDLE (R50, R52), the role is STARTING
(R315), the write cache is empty, the debug level is 0 (R422), the registers stand at the reset values of their tables, the fuses fit their lifecycle (R415,
R421). -/
def Obligations.ResetState : Prop :=
  State.reset.dt = 0 ∧ (∀ n, (State.reset.link.lane n).st = .idle) ∧ State.reset.ha.role = .starting ∧ State.reset.wc.frames = [] ∧
  State.reset.wc.mirrorSt = .none ∧ State.reset.dbg.level = 0 ∧ State.reset.cqe.sessions = [] ∧ State.reset.cqe.dataTimeoutUs = 2000 ∧
  State.reset.ftu.scrubDays = 14 ∧ State.reset.ftu.wlDelta = 500 ∧ State.reset.gov.mode = .off ∧ State.reset.evr.seq = 0 ∧
  State.reset.pending = [] ∧ State.reset.FusesFit

/-! ## Fuses -/

/-- Every step keeps the fuses fitting their lifecycle and undoes nothing that is blown: the lifecycle moves only forward (R415), the
wrap-key erase fuse and the owner anchor stay (R421), FUSE_SVN never falls (R391), the serial stays (R383). -/
def Obligations.FusesNeverGoBack : Prop :=
  ∀ s t : State, s.FusesFit → step s = .next t → t.FusesFit ∧ s.fusesFollow t

/-! ## Chapter 02: lanes, ports, flits, the handshake -/

/-- Training takes a lane from state to state (R50): DETECT, EQ, LOCK, PARAM; then, by its port's encryption mode, SECURE or ACTIVE, or
QUARANTINE at a media position that is undeclared or quarantined, or DOWN when the parameters are refused; RETRAIN back to ACTIVE; the
lane map takes it out of IDLE and back. No other lane changes. -/
def Obligations.LanesTrainStateByState : Prop :=
  ∀ (lane : Fin 144) (s : State),
    ((s.link.lane lane.val).st = .detect → LaneMove (.signalDetected lane) s lane.val .eq) ∧
    ((s.link.lane lane.val).st = .eq → LaneMove (.eqComplete lane) s lane.val .lock) ∧
    (∀ inv, (s.link.lane lane.val).st = .lock → LaneMove (.lockComplete lane inv) s lane.val .param ∧
      ∃ t, exec (.lockComplete lane inv) s = .next t ∧ (t.link.lane lane.val).pol = inv) ∧
    (∀ x q, s.link.laneOwner lane.val = some q → (s.link.lane lane.val).st = .param →
      (s.paramOk q x = false → LaneMove (.paramComplete lane x) s lane.val .down) ∧
      (s.paramOk q x = true → (s.link.port q).gcm = true → LaneMove (.paramComplete lane x) s lane.val .secure) ∧
      (s.paramOk q x = true → (s.link.port q).gcm = false →
        LaneMove (.paramComplete lane x) s lane.val (if s.laneHeld lane.val then .quarantine else .active))) ∧
    (∀ q, s.link.laneOwner lane.val = some q → (s.link.lane lane.val).st = .secure →
      LaneMove (.secureComplete lane) s lane.val .active) ∧
    ((s.link.lane lane.val).st = .retrain → LaneMove (.retrainComplete lane) s lane.val .active) ∧
    (s.link.mapRead = true → s.dbg.scan = false → s.laneServed lane.val = true → s.laneMapped lane.val = true →
      (s.link.lane lane.val).st = .idle → LaneMove (.laneEnabled lane true) s lane.val .detect) ∧
    (s.link.mapRead = true → s.dbg.scan = false → (s.link.lane lane.val).st ≠ .idle → LaneMove (.laneEnabled lane false) s lane.val .idle)

/-- A lane that outstays EQ (20 ms), LOCK (1 ms), PARAM (2 ms), SECURE (500 ms) or RETRAIN (5 ms) goes DOWN, and a DOWN lane whose back-off
ends goes to DETECT unless its quad's PLL is out of lock (R50, R451). DT has reached that moment; no other lane changes. -/
def Obligations.LaneTimeoutsTakeALaneDown : Prop :=
  ∀ (lane : Fin 144) (s : State),
    ((s.link.lane lane.val).st = .eq → LaneTimer (.eqTimeout lane) s lane.val (msNs 20) .down) ∧
    ((s.link.lane lane.val).st = .lock → LaneTimer (.lockTimeout lane) s lane.val (msNs 1) .down) ∧
    ((s.link.lane lane.val).st = .param → LaneTimer (.paramTimeout lane) s lane.val (msNs 2) .down) ∧
    ((s.link.lane lane.val).st = .secure → (s.link.laneOwner lane.val).isSome = true →
      LaneTimer (.secureTimeout lane) s lane.val (msNs 500) .down) ∧
    ((s.link.lane lane.val).st = .retrain → LaneTimer (.retrainTimeout lane) s lane.val (msNs 5) .down) ∧
    ((s.link.lane lane.val).st = .down → (∀ q ∈ s.link.quadDown, q.1 ≠ lane.val / 4) →
      LaneTimer (.downBackoffExpiry lane) s lane.val (s.link.lane lane.val).backoff .detect)

/-- The four triggers of R49 take every ACTIVE lane of a port that is up to RETRAIN, and no other lane anywhere: eight replays without
progress, 16 uncorrectable codewords on a lane within 1 ms, a lost lock, eight failed tags within 1 s. -/
def Obligations.PortsRetrainOnTheirTriggers : Prop :=
  ∀ (p : PortId) (s : State), s.portUp p = true →
    (8 ≤ (s.link.port p).replays → PortRetrains (.replayLimit p) s p) ∧
    (∀ lane : Fin 144, s.link.laneOwner lane.val = some p →
      16 ≤ ((s.link.lane lane.val).uncorrAt.filter fun t => decide (t + msNs 1 > s.dt)).length →
      PortRetrains (.uncorrectableCodewordLimit lane) s p) ∧
    (∀ lane : Fin 144, s.link.laneOwner lane.val = some p → (s.link.lane lane.val).st = .active →
      PortRetrains (.lockLossTimeout lane) s p) ∧
    ((s.link.port p).keyed = true → 8 ≤ ((s.link.port p).tagAt.filter fun t => decide (t + secNs 1 > s.dt)).length →
      PortRetrains (.tagFailureLimit p) s p)

/-- A MSG flit on an ACTIVE lane of its port (R39, R40, R44, R47): whole, in order and with credit it is taken, and the next SEQ is
expected; damaged, or ahead of the expected SEQ, it is discarded and the port asks once for the expected SEQ. -/
def Obligations.FlitsAreTakenInOrder : Prop :=
  ∀ (p : PortId) (lane : Fin 144) (f : Flit) (s : State),
    (s.link.lane lane.val).st = .active → s.link.laneOwner lane.val = some p →
    (flitWhole f (s.link.port p).keyed = true → f.typ = 1 → f.rsv = 0 → f.vc.toNat ≤ 5 → carries p f.vc.toNat = true → f.ackv = false →
      f.seq.toNat = (s.link.port p).rxSeq → (s.link.port p).rxGranted.getD f.vc.toNat 0 ≠ (s.link.port p).rxTaken.getD f.vc.toNat 0 →
      ∃ t, exec (.msgFlitReceived p lane f) s = .next t ∧ (t.link.port p).rxSeq = ((s.link.port p).rxSeq + 1) % 1024 ∧
        (t.link.port p).rxTaken = lmod (s.link.port p).rxTaken f.vc.toNat (fun n => (n + 1) % 65536) ∧ (t.link.port p).naked = false ∧
        t.without [.out, .link, .cqe, .evr] = s.without [.out, .link, .cqe, .evr]) ∧
    (flitWhole f (s.link.port p).keyed = false → (s.link.port p).naked = false →
      ∃ t, exec (.msgFlitReceived p lane f) s = .next t ∧ t.out = .lctlNak p (s.link.port p).rxSeq :: s.out ∧
        (t.link.port p).rxSeq = (s.link.port p).rxSeq ∧ (t.link.port p).naked = true ∧
        t.without [.out, .link, .evr] = s.without [.out, .link, .evr]) ∧
    (flitWhole f (s.link.port p).keyed = true → f.typ = 1 → f.rsv = 0 → f.vc.toNat ≤ 5 → carries p f.vc.toNat = true → f.ackv = false →
      f.seq.toNat ≠ (s.link.port p).rxSeq → 511 < ((s.link.port p).rxSeq + 1024 - f.seq.toNat) % 1024 → (s.link.port p).naked = false →
      ∃ t, exec (.msgFlitReceived p lane f) s = .next t ∧ t.out = .lctlNak p (s.link.port p).rxSeq :: s.out ∧
        (t.link.port p).rxSeq = (s.link.port p).rxSeq ∧ t.without [.out, .link] = s.without [.out, .link])

/-- The transmit side of a port: cumulative credits replace the counts (R44); a NAK and a silence of 2 us send again from the oldest SEQ
still asked for (R47, R48); credits are advertised every 1 us, and the oldest accepted flit is acknowledged after 200 ns; after 2^32
flits in a direction traffic pauses for new keys (R54). -/
def Obligations.CreditsAcksAndReplays : Prop :=
  ∀ (p : PortId) (s : State),
    (∀ f : Lctl, f.ok = true → s.portUp p = true → f.ack = none → f.credits.length = 6 → s.rcc.acting = none →
      ∃ t, exec (.lctlFlitReceived p f) s = .next t ∧ (t.link.port p).granted = f.credits.map (·.toNat) ∧
        t.without [.out, .link, .cqe] = s.without [.out, .link, .cqe]) ∧
    (∀ seq : BitVec 10, (s.link.port p).unacked.any (fun u => u.1 == seq.toNat) = true →
      ∃ t, exec (.nakReceived p seq) s = .next t ∧ (t.link.port p).unacked.head?.map (·.1) = some seq.toNat ∧
        (∃ n, Sent.replay p seq.toNat n ∈ t.out) ∧ t.without [.out, .link, .evr] = s.without [.out, .link, .evr]) ∧
    (∀ u us, (s.link.port p).unacked = u :: us → s.portUp p = true →
      ∃ t, exec (.replayTimeout p) s = .next t ∧ t.out = .replay p u.1 (us.length + 1) :: s.out ∧
        t.dt = max s.dt ((s.link.port p).ackAt + usNs 2) ∧ (t.link.port p).unacked = u :: us ∧
        t.without [.dt, .out, .link, .evr] = s.without [.dt, .out, .link, .evr]) ∧
    (s.portUp p = true →
      ∃ t, exec (.creditAdvertiseTimer p) s = .next t ∧ t.out = .lctlCredits p (s.link.port p).rxGranted :: s.out ∧
        t.dt = max s.dt ((s.link.port p).creditAt + usNs 1) ∧ (t.link.port p).rxSaid = (s.link.port p).rxGranted ∧
        t.without [.dt, .out, .link] = s.without [.dt, .out, .link]) ∧
    (∀ due, (s.link.port p).ackDue = some due →
      ∃ t, exec (.ackTimer p) s = .next t ∧ t.out = .lctlAck p (((s.link.port p).rxSeq + 1023) % 1024) :: s.out ∧
        t.dt = max s.dt (due + 200) ∧ (t.link.port p).ackDue = none ∧ t.without [.dt, .out, .link] = s.without [.dt, .out, .link]) ∧
    ((s.link.port p).keyed = true → (s.link.port p).retrain = none → s.portUp p = true →
      2 ^ 32 ≤ (s.link.port p).keyTx ∨ 2 ^ 32 ≤ (s.link.port p).keyRx →
      ∃ t, exec (.keyReplacement p) s = .next t ∧ t.out = .lctlSecure p :: s.out ∧ (t.link.port p).retrain = some (5, s.dt) ∧
        t.without [.out, .link] = s.without [.out, .link])

/-- The session handshake (R55, R56): HELLO leaves a half-open session and its answer; FINISH opens the lowest free session with the highest
privilege that the anchors authorise, or answers the lowest result that applies; 100 ms without a step, or 500 ms in all, discard it. -/
def Obligations.HandshakesOpenSessions : Prop :=
  ∀ (port : Fin 16) (reqId : BitVec 64) (s : State),
    (∀ h : Hello, s.portUp (.host port) = true → h.wellFormed = true → 1 ≤ h.privilege.toNat → h.privilege.toNat ≤ 3 →
      s.link.halfOf port.val reqId.toNat = none →
      ∃ t, exec (.hello port reqId h) s = .next t ∧
        t.link.half = s.link.half ++ [{ port := port.val, reqId := reqId.toNat, startedAt := s.dt, lastAt := s.dt, privilege := h.privilege.toNat }] ∧
        t.given (.host port) (.helloAck port.val reqId.toNat) = s.given (.host port) (.helloAck port.val reqId.toNat) + 1 ∧
        t.without [.out, .link] = s.without [.out, .link]) ∧
    (∀ (f : Finish) h priv anchor n, s.link.halfOf port.val reqId.toNat = some h → f.wellFormed = true →
      s.judgeFinish f h.privilege = (0, some (priv, anchor)) → s.cqe.freeSession = some n →
      ∃ t, exec (.finish port reqId f) s = .next t ∧
        tget t.cqe.sessions n = some { port := port.val, privilege := priv, anchor := anchor, lastAt := s.dt } ∧
        t.link.halfOf port.val reqId.toNat = none ∧ t.evr = s.logged 0x090B n n port.val priv anchor ∧
        t.given (.host port) (.sessionOpen port.val reqId.toNat 0 n priv) = s.given (.host port) (.sessionOpen port.val reqId.toNat 0 n priv) + 1 ∧
        t.without [.out, .link, .cqe, .evr] = s.without [.out, .link, .cqe, .evr]) ∧
    (∀ (f : Finish) h r g, s.link.halfOf port.val reqId.toNat = some h → f.wellFormed = true → s.judgeFinish f h.privilege = (r + 1, g) →
      ∃ t, exec (.finish port reqId f) s = .next t ∧ t.cqe = s.cqe ∧ t.link.halfOf port.val reqId.toNat = none ∧
        t.evr = s.logged 0x090C port.val port.val (r + 1) 0 0 ∧
        t.given (.host port) (.sessionOpen port.val reqId.toNat (r + 1) 0 0) =
          s.given (.host port) (.sessionOpen port.val reqId.toNat (r + 1) 0 0) + 1) ∧
    (∀ h, s.link.halfOf port.val reqId.toNat = some h →
      ∃ t, exec (.handshakeTimeout port reqId) s = .next t ∧ t.link.halfOf port.val reqId.toNat = none ∧
        t.dt = max s.dt (min (h.lastAt + msNs 100) (h.startedAt + msNs 500)) ∧
        t.without [.dt, .fresh, .link, .evr] = s.without [.dt, .fresh, .link, .evr])

/-! ## Chapters 02 and 03: sessions, queue pairs, quarantine -/

/-- A session of which no command is outstanding ends at once, with every queue pair of it (R70): on SESSION_CLOSE, after 3 s without a VC3
message, after 60 s in quarantine (R99), and, where the head holds no command, with its port lost for 500 ms (R51). -/
def Obligations.SessionsEndWithTheirQueuePairs : Prop :=
  ∀ s : State,
    (∀ m x, s.accepts m 0x10 true 1 x → (∀ c ∈ s.cqe.cmds, c.sess ≠ m.sess.toNat ∨ c.fromPeer.isSome = true) →
      ∃ t, exec (.sessionClose m) s = .next t ∧ SessionGone t m.sess.toNat ∧
        0 < t.given (hostPort m.port.val) (.answer m.port.val m.sess.toNat 0x8010 m.reqId.toNat stSuccess []) ∧
        t.without vcParts = s.without vcParts) ∧
    (∀ (n : Fin 4096) x, tget s.cqe.sessions n.val = some x → x.closing = none → (∀ c ∈ s.cqe.cmds, c.sess ≠ n.val ∨ c.fromPeer.isSome = true) →
      (∃ t, exec (.keepaliveSilence n) s = .next t ∧ SessionGone t n.val ∧ t.dt = max s.dt (x.lastAt + secNs 3) ∧
        t.without (.dt :: vcParts) = s.without (.dt :: vcParts)) ∧
      (x.quarantined = true →
        ∃ t, exec (.quarantineTimeout n) s = .next t ∧ SessionGone t n.val ∧ t.dt = max s.dt (x.quarAt + secNs 60) ∧
          t.without (.dt :: vcParts) = s.without (.dt :: vcParts))) ∧
    (∀ (port : Fin 16) lost, (s.link.port (.host port)).lostAt = some lost → (s.link.port (.host port)).lostDone = false →
      s.portUp (.host port) = false → s.cqe.cmds = [] →
      ∃ t, exec (.hostPortLost port) s = .next t ∧ (t.link.port (.host port)).lostDone = true ∧ t.dt = max s.dt (lost + msNs 500) ∧
        (∀ n x, tget t.cqe.sessions n = some x → x.port = port.val → x.closing.isSome = true) ∧
        (∀ h ∈ t.link.half, h.port ≠ port.val) ∧ t.without (.dt :: vcParts) = s.without (.dt :: vcParts))

/-- Queue pairs (R73, R76): QP_CREATE takes the lowest free number, with its class and depth; QP_DELETE marks the pair, aborting what is
outstanding in MODE 1, and is answered when nothing of it is left, and then the number is free. -/
def Obligations.QueuePairsComeAndGo : Prop :=
  ∀ s : State,
    (∀ m cls depthLog2 x, s.accepts m 0x20 false 2 x → s.qpCreateStatus x m.sess.toNat cls.toNat depthLog2.toNat = stSuccess →
      ∃ t, exec (.qpCreate m cls depthLog2) s = .next t ∧
        tget t.cqe.qps s.cqe.freeQp = some { sess := m.sess.toNat, port := m.port.val, cls := cls.toNat, depth := 2 ^ depthLog2.toNat } ∧
        (∀ k, k ≠ s.cqe.freeQp → tget t.cqe.qps k = tget s.cqe.qps k) ∧
        t.evr = s.logged 0x0C02 m.sess.toNat m.sess.toNat s.cqe.freeQp cls.toNat (2 ^ depthLog2.toNat) ∧
        s.answers t m 0x20 stSuccess (leBytes 2 s.cqe.freeQp ++ leBytes 2 0) ∧ t.without vcParts = s.without vcParts) ∧
    (∀ m cls depthLog2 x, s.accepts m 0x20 false 2 x → s.qpCreateStatus x m.sess.toNat cls.toNat depthLog2.toNat ≠ stSuccess →
      ∃ t, exec (.qpCreate m cls depthLog2) s = .next t ∧ t.cqe.qps = s.cqe.qps ∧
        s.answers t m 0x20 (s.qpCreateStatus x m.sess.toNat cls.toNat depthLog2.toNat) (leBytes 4 0) ∧ t.without vcParts = s.without vcParts) ∧
    (∀ m qp x q, s.accepts m 0x21 false 2 x → tget s.cqe.qps qp.toNat = some q → q.sess = m.sess.toNat → q.deleting = none →
      ∃ t, exec (.qpDeleteDrain m qp) s = .next t ∧
        tget t.cqe.qps qp.toNat = some { q with deleting := some 0, delReqs := m.reqId.toNat :: q.delReqs } ∧
        (∀ k, k ≠ qp.toNat → tget t.cqe.qps k = tget s.cqe.qps k) ∧ t.cqe.cmds = s.cqe.cmds ∧ t.without [.cqe] = s.without [.cqe]) ∧
    (∀ m qp x q, s.accepts m 0x21 false 2 x → tget s.cqe.qps qp.toNat = some q → q.sess = m.sess.toNat → q.deleting = none →
      (∀ c ∈ s.cqe.cmds, c.qp ≠ qp.toNat) →
      ∃ t, exec (.qpDeleteAbort m qp 1) s = .next t ∧
        tget t.cqe.qps qp.toNat = some { q with deleting := some 1, delReqs := m.reqId.toNat :: q.delReqs } ∧
        (∀ k, k ≠ qp.toNat → tget t.cqe.qps k = tget s.cqe.qps k) ∧ t.without [.cqe] = s.without [.cqe]) ∧
    (∀ (qp : BitVec 14) q d, tget s.cqe.qps qp.toNat = some q → q.deleting = some d → d ≠ 2 → (∀ c ∈ s.cqe.cmds, c.qp ≠ qp.toNat) →
      ∃ t, exec (.qpDeleteDone qp) s = .next t ∧ tget t.cqe.qps qp.toNat = none ∧ (∀ k, k ≠ qp.toNat → tget t.cqe.qps k = tget s.cqe.qps k) ∧
        t.evr = s.logged 0x0C03 q.sess q.sess qp.toNat d q.aborted ∧ t.without vcParts = s.without vcParts)

/-- Messages of a session (R70, R71, R97, R499): KEEPALIVE is noted and not answered; NOTICE_MASK sets the mask; a type that is none of the
table's is answered INVALID_OPCODE; a queued notice leaves when the port has room for it. -/
def Obligations.SessionsSpeakAndAreHeard : Prop :=
  ∀ s : State,
    (∀ m x, s.accepts m 0x12 true 1 x →
      ∃ t, exec (.keepalive m) s = .next t ∧ tget t.cqe.sessions m.sess.toNat = some { x with lastAt := s.dt } ∧
        (∀ k, k ≠ m.sess.toNat → tget t.cqe.sessions k = tget s.cqe.sessions k) ∧ t.without [.cqe] = s.without [.cqe]) ∧
    (∀ m mask x, s.accepts m 0x41 false 1 x →
      ∃ t, exec (.noticeMask m mask) s = .next t ∧ (tget t.cqe.sessions m.sess.toNat).map (·.mask) = some mask ∧
        s.answers t m 0x41 stSuccess [] ∧ t.without vcParts = s.without vcParts) ∧
    (∀ (m : Vc3) (typ : BitVec 16) x, s.sessionOf m = some x → m.lenMacOk = true → m.rsvWord = 0 →
      x.pendingReq.contains m.reqId.toNat = false → x.quarantined = false → s.rot.lifecycle ≠ .ended →
      ∃ t, exec (.vc3UnknownType m typ) s = .next t ∧ s.answers t m typ.toNat stInvalidOpcode (refusalBody typ.toNat) ∧
        t.without vcParts = s.without vcParts) ∧
    (∀ (n : Fin 4096) x nt rest, tget s.cqe.sessions n.val = some x → x.closing = none → x.dropped = 0 → x.notices = nt :: rest →
      let item : Sent := .notice x.port n.val nt.ntype nt.nseq nt.stamp nt.epoch nt.body
      flitsOf (s.link.payload (hostPort x.port)) item ≤ s.room (hostPort x.port) 3 → s.room (hostPort x.port) 3 ≠ 0 →
      ∃ t, exec (.noticeTransmit n) s = .next t ∧ s.given (hostPort x.port) item < t.given (hostPort x.port) item ∧
        t.without [.out, .link, .cqe] = s.without [.out, .link, .cqe])

/-- Quarantine (R65, R71, R99): QUARANTINE_SET places a session, the 65th violation of a window does so unasked, and the lift takes it back;
above 32 the session is warned once; a module link is quarantined above 64 violations; a host port above 256 has its lanes taken
DOWN. -/
def Obligations.QuarantineIsSetAndLifted : Prop :=
  ∀ s : State,
    (∀ m (target : BitVec 16) x y, s.accepts m 0x50 false 2 x → tget s.cqe.sessions target.toNat = some y → y.closing = none → y.quarantined = false →
      ∃ t, exec (.quarantineSet m 1 1 target) s = .next t ∧
        (tget t.cqe.sessions target.toNat).map (fun z => (z.quarantined, z.quarAt)) = some (true, s.dt) ∧
        t.evr = s.logged 0x0C04 target.toNat target.toNat y.port (if y.violWin = secOf s.dt then y.violCount else 0) y.lastViol ∧
        s.answers t m 0x50 stSuccess [] ∧ t.without vcParts = s.without vcParts) ∧
    (∀ m (target : BitVec 16) x y, s.accepts m 0x50 false 2 x → tget s.cqe.sessions target.toNat = some y → y.closing = none → y.quarantined = true →
      target ≠ m.sess →
      ∃ t, exec (.quarantineLift m 1 target) s = .next t ∧
        (tget t.cqe.sessions target.toNat).map (fun z => (z.quarantined, z.violCount)) = some (false, 0) ∧
        t.evr = s.logged 0x0C05 target.toNat target.toNat m.sess.toNat 0 0 ∧ s.answers t m 0x50 stSuccess [] ∧
        t.without vcParts = s.without vcParts) ∧
    (∀ (n : Fin 4096) x, tget s.cqe.sessions n.val = some x → x.closing = none → x.quarantined = false →
      (64 < x.violCount →
        ∃ t, exec (.sessionQuarantined n) s = .next t ∧ (tget t.cqe.sessions n.val).map (fun z => (z.quarantined, z.quarAt)) = some (true, s.dt) ∧
          t.without [.cqe, .evr] = s.without [.cqe, .evr]) ∧
      (32 < x.violCount → x.warned = false → x.mask.getLsbD 1 = true → x.notices.length < 256 →
        ∃ t, exec (.violationWarning n) s = .next t ∧
          tget t.cqe.sessions n.val = some { x with
            warned := true
            nseq := x.nseq + 1
            notices := x.notices ++ [⟨1, x.nseq, s.dt, s.cfg.epoch, leBytes 4 x.violCount⟩] } ∧
          (∀ k, k ≠ n.val → tget t.cqe.sessions k = tget s.cqe.sessions k) ∧ t.without [.cqe] = s.without [.cqe])) ∧
    (∀ port : Fin 16, 256 < (s.link.port (.host port)).violCount →
      ∃ t, exec (.portViolationLimit port) s = .next t ∧
        (∀ n ∈ s.link.portLanes (.host port), (s.link.lane n).st ≠ .idle → (t.link.lane n).st = .down) ∧
        (∀ n, n ∉ s.link.portLanes (.host port) → t.link.lane n = s.link.lane n) ∧ t.without laneParts = s.without laneParts) ∧
    (∀ pos : Fin 96, 64 < (s.link.port (mediaPort pos.val)).violCount → (tgetD s.link.modules pos.val {}).quarantined = false →
      ∃ t, exec (.moduleLinkQuarantine pos) s = .next t ∧
        (∀ n ∈ s.link.portLanes (mediaPort pos.val), (s.link.lane n).st = .active → (t.link.lane n).st = .quarantine) ∧
        (∀ n, n ∉ s.link.portLanes (mediaPort pos.val) → t.link.lane n = s.link.lane n) ∧
        t.without (.dxu :: laneParts) = s.without (.dxu :: laneParts))

/-! ## Chapters 03 and 04: commands of hosts -/

/-- READ, WRITE, ZERO_RANGE, COMPARE, COMPARE_AND_WRITE and VERIFY: an entry that passes checks 1 to 11 of R94, whose group this head owns,
that intake lets by and that DSC admits is outstanding, tagged with the configuration epoch (R81), and starts; nothing outside the parts
that commands may touch changes. -/
def Obligations.AdmittedCommandsAreTaggedAndStart : Prop :=
  ∀ (opc : Nat) (i : Instr) (h : HostCmd) (q : Qp) (x : Session) (r : VolumeRec) (c : Cmd) (s u : State),
    rangedCmd opc h = some i → s.passes opc h q x r → s.ownsGroup r.group = true → s.intake.1 = false → s.judged opc h q = (.admitted c, u) →
    ∃ t, exec i s = .next t ∧ t = u.startCmd c ∧ c.admitted = true ∧ c.tag = s.cfg.epoch ∧ c.opc = opc ∧ c.vol = h.entry.vol.toNat ∧
      c.lba = h.entry.lba.toNat ∧ c.nsect = h.entry.nsect.toNat ∧ c.start = s.dt ∧ u.cqe.cmd h.qp.toNat h.entry.cid.toNat = some c ∧
      t.without cmdParts = s.without cmdParts

/-- An admitted WRITE holds a frame of the write cache for each grain of its range, and waits for its data (R120, R135). -/
def Obligations.AdmittedWritesTakeAFrameForEachGrain : Prop :=
  ∀ (h : HostCmd) (q : Qp) (x : Session) (r : VolumeRec) (c : Cmd) (s u : State),
    s.passes opWrite h q x r → s.ownsGroup r.group = true → s.intake.1 = false → s.judged opWrite h q = (.admitted c, u) →
    ∃ t k, exec (.write h) s = .next t ∧ t.cqe.cmd h.qp.toNat h.entry.cid.toNat = some k ∧
      k.frames.length = (rangeGrains h.entry.lba.toNat h.entry.nsect.toNat).length ∧ k.admitted = true ∧ k.tag = s.cfg.epoch ∧
      k.decided = none ∧ k.committed = false ∧ t.cqe.ready = s.cqe.ready

/-- An admitted READ that needs no flash is answered with SUCCESS and with the newest committed sector of each (R21): those in the write
cache as they stand at the admission, and zeros for those that are neither there nor mapped. -/
def Obligations.ReadsGiveTheNewestCommittedData : Prop :=
  ∀ (h : HostCmd) (q : Qp) (x : Session) (r : VolumeRec) (c : Cmd) (s u : State),
    s.passes opRead h q x r → s.ownsGroup r.group = true → s.intake.1 = false → s.judged opRead h q = (.admitted c, u) →
    (∀ p ∈ c.parts, p.path = 0 ∧ p.result = none) →
    (∀ f ∈ u.ftu.fetches, f.path ≠ 1) →
    ∃ t k, exec (.read h) s = .next t ∧ (q.port, k) ∈ t.cqe.ready ∧ k.qp = h.qp ∧ k.cid = h.entry.cid ∧ k.status = BitVec.ofNat 16 stSuccess ∧
      (let item : Sent := .readData q.port h.qp.toNat h.entry.cid.toNat
        ((c.parts.flatMap fun p => p.sectors.map fun y => (u.cached c.vol p.grain y.2).getD zeroSector).flatten)
       t.given (hostPort q.port) item = s.given (hostPort q.port) item + 1)

/-- DATA_FLIT_RECEIVED: a flit that is not the last is counted and kept, and the data timer starts anew (R89). The last flit of an admitted
WRITE of one sector while the mirror is SOLO commits it (R17): its frame holds the sector, committed and DIRTY, and its completion
is ready with SUCCESS. -/
def Obligations.WritesCommitWithTheirLastFlit : Prop :=
  ∀ (p : Fin 16) (qp : BitVec 14) (cid : BitVec 16) (b : Bytes) (k : Qp) (c : Cmd) (s : State),
    tget s.cqe.qps qp.toNat = some k → k.port = p.val → s.cqe.drain.contains (qp.toNat, cid.toNat) = false →
    s.cqe.cmd qp.toNat cid.toNat = some c → c.carries ≠ 0 → c.committed = false → c.decided = none → c.fwdAt = none →
    (c.got + 1 < c.expect →
      ∃ t, exec (.dataFlitReceived (.host p) qp cid b) s = .next t ∧
        t.cqe.cmd qp.toNat cid.toNat =
          some { c with got := c.got + 1, timerAt := s.dt + usNs s.cqe.dataTimeoutUs, data := c.data ++ [b] } ∧
        t.without [.cqe, .slc] = s.without [.cqe, .slc]) ∧
    (∀ i g f r x, c.got + 1 = c.expect → c.opc = opWrite → c.admitted = true → c.waiting7 = false → c.nsect = 1 → c.frames = [(i, g)] →
      tget s.wc.frames i = some f → f.desc.vol = c.vol → f.desc.grain = c.lba / 2 → f.pend = [] → f.data.length = 2 → f.st = .filling →
      s.wc.mirrorSt = .solo → s.cfg.volume c.vol = some r → r.kind ≠ 4 → r.kind ≠ 5 → r.domain = none → c.fromPeer = none → c.aborters = [] →
      tget s.cqe.sessions c.sess = some x → x.closing = none →
      ∃ t f', exec (.dataFlitReceived (.host p) qp cid b) s = .next t ∧ tget t.wc.frames i = some f' ∧
        f'.data.getD (c.lba % 2) [] = ((c.data ++ [b]).flatten.take 4096) ∧ f'.desc.committed.getLsbD (c.lba % 2) = true ∧ f'.st = .dirty ∧
        f'.pend = [] ∧ s.completes t c.port qp cid stSuccess (fun _ => True))

/-- DATA_TIMER_EXPIRY: a command whose data is short fails with LENGTH_ERROR, its CID drains, and it is a violation of its session (R89, R98). -/
def Obligations.DataTimersFailShortCommands : Prop :=
  ∀ (qp : BitVec 14) (cid : BitVec 16) (c : Cmd) (x : Session) (s : State),
    s.cqe.cmd qp.toNat cid.toNat = some c → s.plainOpen c x → c.got < c.expect → (∀ k ∈ s.cqe.cmds, k.opc ≠ opCaw) →
    ∃ t, exec (.dataTimerExpiry qp cid) s = .next t ∧ t.dt = max s.dt c.timerAt ∧ s.completes t c.port qp cid stLength (fun _ => True) ∧
      t.cqe.drain.contains (qp.toNat, cid.toNat) = true ∧ t.evr = s.evr.happen (max s.dt c.timerAt) 0x0C14 c.sess c.sess c.qp c.cid c.opc ∧
      t.without (.dt :: cmdParts) = s.without (.dt :: cmdParts)

/-- FLUSH completes at once with SUCCESS (R84). ABORT answers CS0 3 when nothing holds the CID, and catches an open command, which then ends
with ABORTED_BY_REQUEST while the ABORT answers CS0 1 (R95). An opcode that R82 does not list is answered INVALID_OPCODE (R94). -/
def Obligations.FlushAbortAndUnknownOpcodes : Prop :=
  ∀ (h : HostCmd) (q : Qp) (x : Session) (s : State), s.rings h q x →
    (∀ r, s.passes opFlush h q x r →
      ∃ t, exec (.flush h) s = .next t ∧ s.completes t q.port h.qp h.entry.cid stSuccess (fun k => k.cepoch = 0) ∧
        t.without cmdParts = s.without cmdParts) ∧
    (fieldsOk opAbort h.entry = true → s.cqe.cmd (h.entry.cdw.getD 0 0).toNat (h.entry.cdw.getD 1 0).toNat = none →
      (∀ k ∈ s.cqe.cmds, k.opc ≠ opCaw) →
      ∃ t, exec (.abort h) s = .next t ∧ s.completes t q.port h.qp h.entry.cid stSuccess (fun k => k.cs0 = 3) ∧
        t.without cmdParts = s.without cmdParts) ∧
    (∀ c tq y, fieldsOk opAbort h.entry = true → (h.entry.cdw.getD 0 0).toNat = tq → tget s.cqe.qps tq = some y → y.sess = q.sess →
      s.cqe.cmd tq (h.entry.cdw.getD 1 0).toNat = some c → c.opc ≠ opAbort → c.sess = q.sess → s.plainOpen c x →
      (∀ k ∈ s.cqe.cmds, k.opc ≠ opCaw) →
      ∃ t k a, exec (.abort h) s = .next t ∧ t.cqe.ready = s.cqe.ready ++ [(c.port, k), (q.port, a)] ∧
        k.status = BitVec.ofNat 16 stAbortedRequest ∧ k.cid = BitVec.ofNat 16 c.cid ∧ a.status = BitVec.ofNat 16 stSuccess ∧
        a.cid = h.entry.cid ∧ a.cs0 = 1) ∧
    (∀ opc : Byte, opc = 0 ∨ 8 < opc.toNat →
      ∃ t, exec (.commandInvalidOpcode h opc) s = .next t ∧ s.completes t q.port h.qp h.entry.cid stInvalidOpcode (fun _ => True) ∧
        t.without [.cqe] = s.without [.cqe])

/-- Arrivals beyond the intake rate are refused with DEADLINE_REFUSED, RETRY set and RETRY_US 20, cause INTAKE in DSC_REFUSE_LAST (R122, R123);
that the rate is counted in frames of 20 us is the model's choice (DESIGN CHOICE, log entry 70). -/
def Obligations.SaturatedIntakeRefuses : Prop :=
  ∀ (opc : Nat) (i : Instr) (h : HostCmd) (q : Qp) (x : Session) (r : VolumeRec) (s : State),
    rangedCmd opc h = some i → s.passes opc h q x r → s.ownsGroup r.group = true → s.intake.1 = true →
    ∃ t, exec i s = .next t ∧ s.completes t q.port h.qp h.entry.cid stRefused (fun k => k.retryUs = 20 ∧ k.cflags.getLsbD 5 = true) ∧
      (t.dsc.lastValid, t.dsc.lastClass, t.dsc.lastCause, t.dsc.lastRetry) = (true, q.cls, 6, 20) ∧ t.wc = s.wc ∧
      t.without cmdParts = s.without cmdParts

/-- A command that the peer forwarded is decided here on the class the model leaves free (log entry 50) and starts when admitted; the
completion of a command that this head forwarded is ready for its adapter with the owning head's status and FWD set (R22, R501). -/
def Obligations.ForwardedCommandsAndTheirCompletions : Prop :=
  ∀ s : State,
    (∀ (qp : BitVec 14) (opc : Byte) e el lanes enc r c u, ranged opc.toNat = true → s.cfg.volume e.vol.toNat = some r → r.kind ≠ 4 → r.kind ≠ 5 →
      r.grants ≠ 0 → s.freshen.volStatus opc.toNat e.vol.toNat e.lba.toNat e.nsect.toNat (s.freeNat 3) true = none → s.ownsGroup r.group = true →
      s.intake.1 = false → (s.peerRinged qp opc.toNat e el lanes enc).1.intake.2.judge (s.peerRinged qp opc.toNat e el lanes enc).2 = (.admitted c, u) →
      0 < (s.peerRinged qp opc.toNat e el lanes enc).2.expect ∨ opc.toNat ≠ opWrite →
      ∃ t, exec (.forwardedCommand qp opc e el lanes enc) s = .next t ∧ t = u.startCmd c ∧ c.admitted = true ∧ c.fromPeer = some (lanes, enc) ∧
        c.start = s.dt - el - 1000 ∧ t.without cmdParts = s.without cmdParts) ∧
    (∀ (k : Completion) c x, s.cqe.cmd k.qp.toNat k.cid.toNat = some c → c.fwdAt.isSome = true → c.decided = none → c.pendingEnd = none →
      c.fromPeer = none → c.aborters = [] → tget s.cqe.sessions c.sess = some x → x.closing = none →
      ∃ t, exec (.forwardedCompletion k) s = .next t ∧
        s.completes t c.port k.qp k.cid k.status.toNat (fun j => j.cflags.getLsbD 2 = true ∧ j.cs0 = k.cs0 ∧ j.retryUs = k.retryUs) ∧
        t.without cmdParts = s.without cmdParts)

/-- COMPLETION_TRANSMIT: a ready completion whose data has left goes out on VC2, and with it the command leaves the ring (R80). -/
def Obligations.CompletionsLeaveWithTheirCommands : Prop :=
  ∀ (port : Fin 16) (k : Completion) (c : Cmd) (x : Session) (s : State),
    s.cqe.ready = [(port.val, k)] → s.cqe.owner k = some c → s.dataWaits c = false → s.room (hostPort port.val) 2 ≠ 0 →
    tget s.cqe.sessions c.sess = some x → x.closing = none →
    ∃ t, exec (.completionTransmit port) s = .next t ∧ t.cqe.ready = [] ∧ t.cqe.cmds = (s.cqe.removeOwner k).cmds ∧
      (let item : Sent := .completions port.val [(s.stampCompletion c k).1]
       t.given (hostPort port.val) item = s.given (hostPort port.val) item + 1) ∧
      t.without [.out, .link, .cqe, .dsc, .evr] = s.without [.out, .link, .cqe, .dsc, .evr]

/-- A class 7 command that waits is decided again and starts when admitted (R104); the refusals of a past second are summarised and the
window is new (R124); a settle period that ends leaves its die's calendar (R129). -/
def Obligations.WaitingCommandsAndEndedWindows : Prop :=
  ∀ s : State,
    (∀ (qp : BitVec 14) (cid : BitVec 16) c k u r, s.cqe.cmd qp.toNat cid.toNat = some c → c.waiting7 = true → c.open_ = true →
      (∀ a ∈ s.dsc.asks, a.qp = c.qp → a.cid = c.cid → a.answered = true) → s.cfg.volume c.vol = some r → r.kind ≠ 4 → r.kind ≠ 5 →
      s.judge c = (.admitted k, u) → k.opc ≠ opWrite →
      ∃ t, exec (.class7ResourceFreed qp cid) s = .next t ∧ t = (u.startCmd k) ∧ k.waiting7 = false ∧ t.without cmdParts = s.without cmdParts) ∧
    (s.dsc.refSec ≤ secOf s.dt →
      ∃ t, exec .refusals s = .next t ∧ t.dt = secNs (secOf s.dt + 1) ∧ t.dsc.refWin = [] ∧ t.dsc.intakeRefused = 0 ∧
        t.dsc.refSec = secOf s.dt + 1 ∧ t.without [.dt, .dsc, .evr] = s.without [.dt, .dsc, .evr]) ∧
    (∀ die : Nat,
      ∃ t, exec (.settleEnd die) s = .next t ∧ t.dsc.cal = s.dsc.cal.filter (fun r => !(r.die == die && r.kind == .settle)) ∧
        (∀ r ∈ s.dsc.cal, r.die = die → r.kind = .settle → r.stop ≤ t.dt) ∧ t.without [.dt, .dsc] = s.without [.dt, .dsc])

/-! ## Media operations and the calendars (chapters 02, 04, 08) -/

/-- MEDIA_OP_ISSUE: a reservation that reaches its start sends its READ, PROGRAM or ERASE to the bridge of a die that this head owns, under
the next tag; a program and an erase carry the fencing epoch (R23, R24, R57, R58). -/
def Obligations.MediaOperationsLeaveAtTheirStart : Prop :=
  ∀ (n : Nat) (r : Resv) (s : State),
    s.dsc.cal.find? (fun x => x.num == n && !x.issued) = some r → s.dbg.level < 2 → s.dbg.action = none → (s.ftu.die r.die).own = true →
    ((r.kind = .read ∨ r.kind = .claim) → ((∃ d c, r.work = .scrub d c) ∨ ∃ g, r.work = .peerRead g) → r.unit < 32 → s.opOn r.die = false →
      ∃ t, exec (.mediaOpIssue n) s = .next t ∧ t.dt = max s.dt r.start ∧
        MediaSent s t (r.die / 256) (r.die % 256) mRead r.chunk (r.unit + 32 * r.units) 0 [] ∧
        t.without [.dt, .out, .link, .dsc] = s.without [.dt, .out, .link, .dsc]) ∧
    (∀ c, r.kind = .program → s.ha.stale = false → s.programChunk r = some c →
      ∃ t, exec (.mediaOpIssue n) s = .next t ∧ t.dt = max s.dt r.start ∧
        MediaSent s t (r.die / 256) (r.die % 256) mProgram c 0 s.ha.epoch (s.programBody r.work r.die c) ∧
        t.without [.dt, .out, .link, .dsc] = s.without [.dt, .out, .link, .dsc]) ∧
    (∀ b, r.kind = .erase → s.ha.stale = false → s.eraseBlock r = some b →
      ∃ t, exec (.mediaOpIssue n) s = .next t ∧ t.dt = max s.dt r.start ∧
        MediaSent s t (r.die / 256) (r.die % 256) mErase (1024 * b) 0 s.ha.epoch [] ∧
        t.without [.dt, .out, .link, .dsc] = s.without [.dt, .out, .link, .dsc])

/-- Answers of a bridge to an operation in flight: a program that is durable leaves its stripe's list (R237), an erase counts for its block
(R252), a suspend and a resume end (R110); TELEMETRY is stamped and kept, and missing after 1 ms without one (R62). -/
def Obligations.BridgesAnswerProgramsErasesAndTelemetry : Prop :=
  ∀ (pos : Fin 96) (tag : Word) (o : MediaOp) (s : State),
    (∀ num m k, s.inFlight pos tag mProgram o → o.work = .destage num m → s.stripeOf num = some k → (k.left.filter fun c => c.1 != m) ≠ [] →
      ∃ t, exec (.programResponse pos tag 0 true) s = .next t ∧ t.link.ops = tdel s.link.ops tag.toNat ∧
        (t.stripeOf num).map (·.left) = some (k.left.filter fun c => c.1 != m) ∧
        t.without [.link, .dsc, .ftu, .gov] = s.without [.link, .dsc, .ftu, .gov]) ∧
    (∀ pool seg d, s.inFlight pos tag mErase o → o.work = .eraseSeg pool seg → tget s.ftu.dies (opDie o) = some d →
      ∃ t, exec (.eraseResponse pos tag 0 true) s = .next t ∧ t.link.ops = tdel s.link.ops tag.toNat ∧
        (tget t.ftu.dies (opDie o)).map (fun x => tgetD x.pe (o.addr / 1024) 0) = some (tgetD d.pe (o.addr / 1024) 0 + 1) ∧
        t.without [.link, .cqe, .dsc, .ftu, .evr, .glb] = s.without [.link, .cqe, .dsc, .ftu, .evr, .glb]) ∧
    (s.inFlight pos tag mSuspend o → ∀ st,
      ∃ t, exec (.suspendResponse pos tag st true) s = .next t ∧ t.link.ops = tdel s.link.ops tag.toNat ∧ t.without [.link] = s.without [.link]) ∧
    (s.inFlight pos tag mResume o → ∀ st,
      ∃ t, exec (.resumeResponse pos tag st true) s = .next t ∧ t.link.ops = tdel s.link.ops tag.toNat ∧ t.without [.link] = s.without [.link]) ∧
    (∀ mw mj temps bits,
      ∃ t, exec (.telemetry pos true mw mj temps bits) s = .next t ∧
        (let m := tgetD t.link.modules pos.val {}
         m.telemAt = some s.dt ∧ m.missing = false ∧ m.powerMw = mw ∧ m.energyMj = mj ∧ m.temps = temps) ∧
        t.without [.link, .cqe, .ftu, .evr, .glb] = s.without [.link, .cqe, .ftu, .evr, .glb]) ∧
    (∀ at_, (tgetD s.link.modules pos.val {}).telemAt = some at_ → (tgetD s.link.modules pos.val {}).missing = false →
      ∃ t, exec (.telemetryMissing pos) s = .next t ∧ t.dt = max s.dt (at_ + msNs 1) ∧ (tgetD t.link.modules pos.val {}).missing = true ∧
        t.without [.dt, .link] = s.without [.dt, .link])

/-- READ_RESPONSE and PEER_MEDIA_READ_RESPONSE: the last direct read of a raw grain of a host's command gives the command the sectors that the
grain decodes to (R215), and the operation is over; DECODE_DONE does so for a coded grain that had a lane (R197). -/
def Obligations.ReadsOfFlashGiveTheirSectors : Prop :=
  ∀ (tag : Word) (o : MediaOp) (num qp cid idx : Nat) (f : Fetch) (c : Cmd) (data out : Bytes) (s : State),
    (∀ (pos : Fin 96) corr, s.inFlight pos tag mRead o → o.work = .fetch num → s.lastPiece num f qp cid idx c → s.storedRaw c.vol data out →
      corr < (s.ftu.dieType (opDie o)).refreshBits → s.opOn (opDie o) = false →
      ∃ t, exec (.readResponse pos tag 0 true corr data) s = .next t ∧ t.cqe.cmd qp cid = some (c.withGrain idx out) ∧
        t.link.ops = tdel s.link.ops tag.toNat ∧ t.fetchOf num = none) ∧
    (tget s.link.ops tag.toNat = some o → s.viaPeer o = true → o.work = .fetch num → s.lastPiece num f qp cid idx c → s.storedRaw c.vol data out →
      ∃ t, exec (.peerMediaReadResponse tag 0 data) s = .next t ∧ t.cqe.cmd qp cid = some (c.withGrain idx out) ∧
        t.link.ops = tdel s.link.ops tag.toNat ∧ t.fetchOf num = none) ∧
    (∀ (lane : Fin 48) d, s.cpe.decodes.find? (fun d => d.tag == tag.toNat && d.lane == some lane.val) = some d → d.qp = qp → d.cid = cid →
      d.part = idx → s.lastPiece tag.toNat f qp cid idx c → s.decodeGrain c.vol d.header d.data = .ok out →
      ∃ t, exec (.decodeDone tag lane) s = .next t ∧ t.cqe.cmd qp cid = some (c.withGrain idx out) ∧
        (∀ x ∈ t.cpe.decodes, x.tag ≠ tag.toNat) ∧ t.fetchOf tag.toNat = none)

/-- A read that the peer asks for is claimed on its die (R59); a soft read's answer and a read's timeout go back to the peer, the timeout as
a failure of the die, and an answer that comes later is remembered as late (R61). -/
def Obligations.ReadsForThePeerAreClaimedAndAnswered : Prop :=
  ∀ (tag : Word) (s : State),
    (∀ pos (die : Byte) chunk unit count offs, pos < 96 → (s.ftu.die (256 * pos + die.toNat)).own = true → count ≠ 0 → unit + count ≤ 32 →
      s.dsc.cal.find? (fun r => r.die == 256 * pos + die.toNat && r.work == .peerRead tag.toNat && !r.issued) = none →
      ∃ t r, exec (.peerMediaRead tag false pos die chunk unit count offs) s = .next t ∧ r ∈ t.dsc.cal ∧ r.die = 256 * pos + die.toNat ∧
        r.kind = .claim ∧ r.work = .peerRead tag.toNat ∧ r.chunk = chunk ∧ r.unit = unit ∧ r.units = count ∧ r.issued = false ∧
        t.without [.dsc] = s.without [.dsc]) ∧
    (∀ (pos : Fin 96) o g data, s.inFlight pos tag mSoft o → o.work = .peerSoft g → s.opOn (opDie o) = false →
      ∃ t, exec (.softReadResponse pos tag 0 true data) s = .next t ∧ t.link.ops = tdel s.link.ops tag.toNat ∧
        t.given .peer (.peerMediaAnswer g 0 data) = s.given .peer (.peerMediaAnswer g 0 data) + 1 ∧
        t.without [.out, .link] = s.without [.out, .link]) ∧
    (∀ (pos : Fin 96) o g d, s.inFlight pos tag mRead o → o.work = .peerRead g → s.opOn (opDie o) = false → tget s.ftu.dies (opDie o) = some d →
      ∃ t, exec (.mediaReadTimeout tag) s = .next t ∧ t.dt = max s.dt o.deadline ∧ t.link.ops = tdel s.link.ops tag.toNat ∧
        tag.toNat ∈ t.link.lateTags ∧ (tget t.ftu.dies (opDie o)).map (·.uecc.head?) = some (some (max s.dt o.deadline)) ∧
        t.given .peer (.peerMediaAnswer g 1 []) = s.given .peer (.peerMediaAnswer g 1 []) + 1)

/-- FRAME_ENTERS_HORIZON: DT reaches the next multiple of 20 us (R107). Where no background work runs (R429), the frame that enters has the
shares in force and GOV's limit, and nothing but the calendars, GOV's frame and PXE's busy time changes (R125, R127, R351). -/
def Obligations.FramesEnterTheHorizon : Prop :=
  ∀ s : State,
    (∃ t, exec .frameEntersHorizon s = .next t ∧ t.dt = 20000 * (frameOf s.dt + 1)) ∧
    (s.pmu.pstate = .p3 →
      ∃ t, exec .frameEntersHorizon s = .next t ∧ t.dsc.lastFrame = s.entering ∧
        tget t.dsc.frames s.entering = some { shares := s.dsc.shareCur
                                              limit := if s.gov.mode = .off then none else some s.gov.bOwn.toNat
                                              vaultTime := false } ∧
        t.gov.frame = s.gov.bOwn ∧ t.without [.dt, .dsc, .gov, .pxe] = s.without [.dt, .dsc, .gov, .pxe])

/-! ## Chapter 05: the mirror and the vault -/

/-- This head's mirror area: MIRROR_COPY makes an entry live and is acknowledged (R138); MIRROR_META does so with data this head forwarded
(R319); RELEASE and DISCARD take the entry they name away, a discard is answered (R20, R140). -/
def Obligations.TheMirrorHoldsThePeersSectors : Prop :=
  ∀ (frame gen : Nat) (h : RecHdr) (s : State),
    (∀ (desc : Desc) (data : List Bytes), s.wc.frozen = false → data.length = ([0, 1].filter fun k => desc.present.getLsbD k).length →
      (∀ b ∈ data, b.length = 4096) → frame < s.wc.mirrorFrames →
      ∃ t f, exec (.mirrorCopy frame desc true data) s = .next t ∧ tget t.wc.mirror frame = some f ∧ f.desc = desc ∧ f.st = .dirty ∧
        (desc.present = 3 → tget s.wc.mirror frame = none → f.data = data) ∧
        (∀ k, k ≠ frame → tget t.wc.mirror k = tget s.wc.mirror k) ∧ t.wc.frames = s.wc.frames ∧
        Gives s t .peer (.mirrorAck frame desc.gen desc.present.toNat) ∧ t.without [.out, .link, .wc] = s.without [.out, .link, .wc]) ∧
    (∀ (cid qp : BitVec 16) ce (mask : BitVec 8) x c, h.rsvOk = true →
      s.wc.fwdData.find? (fun x => x.1 == qp.toNat && x.2.1 == cid.toNat) = some x → s.cqe.cmd qp.toNat cid.toNat = some c →
      ∃ t f, exec (.mirrorMeta h frame gen cid qp ce mask) s = .next t ∧ tget t.wc.mirror frame = some f ∧ f.desc.vol = c.vol ∧ f.desc.gen = gen ∧
        f.desc.cepoch = ce ∧ f.st = .dirty ∧ Gives s t .peer (.mirrorAck frame gen mask.toNat) ∧
        t.without [.out, .link, .cqe, .wc] = s.without [.out, .link, .cqe, .wc]) ∧
    (∀ f, h.rsvOk = true → tget s.wc.mirror frame = some f → f.desc.gen = gen →
      (∃ t, exec (.release h frame gen) s = .next t ∧ tget t.wc.mirror frame = none ∧
        (∀ k, k ≠ frame → tget t.wc.mirror k = tget s.wc.mirror k) ∧ t.without [.wc] = s.without [.wc]) ∧
      (f.pend = [] →
        ∃ t, exec (.discard h frame gen) s = .next t ∧ tget t.wc.mirror frame = none ∧
          (∀ k, k ≠ frame → tget t.wc.mirror k = tget s.wc.mirror k) ∧ Gives s t .peer (.discardAck frame gen) ∧
          t.without [.out, .link, .wc] = s.without [.out, .link, .wc]))

/-- The write that waits for the peer: with the last MIRROR_ACK it commits (R17, R138); without one by its mirror deadline it ends with
LEASE_TRANSITION and RETRY_US 1,000, event 0x0A21 (R141); a write that was discarded completes with the last DISCARD_ACK, or after its
time as possibly committed, event 0x0A22 (R140). -/
def Obligations.MirroredWritesCommitOrEnd : Prop :=
  ∀ (c : Cmd) (x : Session) (s : State), tget s.cqe.sessions c.sess = some x → x.closing = none → c.fromPeer = none → c.aborters = [] →
    (∀ (h : RecHdr) frame gen mask f k b r, h.rsvOk = true → s.cqe.cmds = [c] → c.decided = none → c.opc = opWrite → c.acks = [(frame, gen)] →
      c.frames = [(frame, gen)] → tget s.wc.frames frame = some f → f.desc.gen = gen → f.pend = [(c.qp, c.cid, k, b)] → k < 2 → f.data.length = 2 →
      s.cfg.volume c.vol = some r → r.domain = none → s.snap.jobs = [] → s.wc.mirrorSt = .mirrored →
      ∃ t f', exec (.mirrorAck h frame gen mask) s = .next t ∧ tget t.wc.frames frame = some f' ∧ f'.data.getD k [] = b ∧
        f'.desc.committed.getLsbD k = true ∧ f'.pend = [] ∧
        s.completes t c.port (BitVec.ofNat 14 c.qp) (BitVec.ofNat 16 c.cid) stSuccess (fun _ => True)) ∧
    (∀ (qp : BitVec 14) (cid : BitVec 16) b, s.cqe.cmd qp.toNat cid.toNat = some c → c.acks ≠ [] → s.wc.mirrorSt = .mirrored →
      boundNs (s.dsc.tableFor c.tag) c.cls c.opc c.nsect = some b →
      ∃ t, exec (.mirrorDeadline qp cid) s = .next t ∧ t.dt = max s.dt (c.late.getD c.start + b + c.excl - 1000) ∧
        s.completes t c.port qp cid stLease (fun k => k.retryUs = 1000) ∧ t.without (.dt :: cmdParts) = s.without (.dt :: cmdParts)) ∧
    (∀ (h : RecHdr) frame gen k, h.rsvOk = true → s.cqe.cmds = [c] → c.decided = none → c.opc = opWrite → c.discards = [(frame, gen)] →
      c.pendingEnd = some k →
      ∃ t, exec (.discardAck h frame gen) s = .next t ∧ t.cqe.ready = s.cqe.ready ++ [(c.port, k)] ∧ t.without cmdParts = s.without cmdParts) ∧
    (∀ (qp : BitVec 14) (cid : BitVec 16), s.cqe.cmd qp.toNat cid.toNat = some c → c.discards ≠ [] →
      ∃ t, exec (.discardAckTimeout qp cid) s = .next t ∧ t.dt = max s.dt c.discardBy ∧
        s.completes t c.port qp cid stLease (fun k => k.retryUs = 1000) ∧
        t.evr = s.evr.happen (max s.dt c.discardBy) 0x0A22 c.sess c.sess (c.qp % 16384) c.cid 0 ∧
        t.without (.dt :: cmdParts) = s.without (.dt :: cmdParts))

/-- The vault (R151): PWRFAIL_N takes the head to P4 and notes the moment; 3 ms after it the commands are gone, the cache is frozen and the
header is OPEN under the next sequence; a rise is remembered until the vault is done (R153). -/
def Obligations.PowerFailureFreezesTheCache : Prop :=
  ∀ s : State,
    (s.rcc.hold = .run → s.pmu.pstate ≠ .p3 → s.pmu.pstate ≠ .p4 →
      ∃ t, exec .pwrfailSeen s = .next t ∧ t.pmu.pstate = .p4 ∧ t.pmu.trans = none ∧
        (s.cqe.cmds = [] → t.wc = { s.wc with pwrfail := some s.dt, pwrfailRose := false }) ∧
        t.without (.pmu :: cmdParts) = s.without (.pmu :: cmdParts)) ∧
    (∀ fell, s.pmu.pstate = .p4 → s.wc.frozen = false → s.wc.pwrfail = some fell → (∀ f ∈ s.wc.frames, f.2.pend = []) → s.wc.vaultItems ≠ [] →
      (tget s.xts.keys vaultSlot).isSome = true → s.dbg.level < 2 →
      ∃ t v, exec .vaultFreeze s = .next t ∧ t.dt = max s.dt (fell + 2998000) ∧ t.wc.frozen = true ∧ t.cqe.cmds = [] ∧ t.cqe.ready = [] ∧
        t.wc.vault = some v ∧ v.st = 1 ∧ v.vseq = s.wc.vaultSeq + 1 ∧ v.dtPf = fell ∧ v.cepoch = s.cfg.epoch ∧
        v.own + v.mirr = s.wc.vaultItems.length ∧ t.wc.frames = s.wc.frames) ∧
    (s.pmu.pstate = .p4 → s.wc.vaultDone = false →
      ∃ t, exec .pwrfailRise s = .next t ∧ t.wc.pwrfailRose = true ∧ t.without [.wc] = s.without [.wc])

/-! ## Chapters 06 and 07: DGE, DXU, CPE -/

/-- DGE contexts: a FREE context of its user's range opens (R162); bytes within the declared length are added (R165); with the length reached
the context is DONE, with the digest of what was fed under its algorithm and key and the compare word (R163, R166, R174); a release frees
it; a silence with bytes short is an ERROR; a lane at a block boundary serves a context that waits (R164). -/
def Obligations.DigestContextsHashWhatTheyAreFed : Prop :=
  ∀ (ctx : Fin 128) (s : State),
    (∀ (alg : Byte) key declared expected snoop, tget s.dge.ctx ctx.val = none → 1 ≤ alg.toNat → alg.toNat ≤ 5 → declared < 2 ^ 40 →
      (algKeyed alg.toNat = true → (key.bind s.dge.keyOf).isSome = true) →
      ∃ t, exec (.dgeCtxOpen ctx (BitVec.ofNat 8 (ctxUser ctx.val)) alg key declared expected snoop) s = .next t ∧
        tget t.dge.ctx ctx.val = some { st := .opened, alg := alg.toNat, key := if algKeyed alg.toNat then key else none, declared := declared,
                                        expected := expected, snoop := snoop, owner := ctxUser ctx.val, lastFeed := s.dt, timeoutUs := s.dge.feedTimeout } ∧
        (∀ k, k ≠ ctx.val → tget t.dge.ctx k = tget s.dge.ctx k) ∧ t.without [.dge] = s.without [.dge]) ∧
    (∀ x seg, tget s.dge.ctx ctx.val = some x → (x.st = .opened ∨ x.st = .running ∨ x.st = .saved) → x.fed + seg.length ≤ x.declared →
      ∃ t y, exec (.dgeCtxFeed ctx seg) s = .next t ∧ tget t.dge.ctx ctx.val = some y ∧ y.msg = x.msg ++ seg ∧ y.fed = x.fed + seg.length ∧
        y.lastFeed = s.dt ∧ y.alg = x.alg ∧ (∀ k, k ≠ ctx.val → tget t.dge.ctx k = tget s.dge.ctx k) ∧ t.without [.dge] = s.without [.dge]) ∧
    (∀ x k, tget s.dge.ctx ctx.val = some x → (x.st = .opened ∨ x.st = .running ∨ x.st = .saved) → x.declared ≤ x.fed →
      (if algKeyed x.alg then x.key.bind s.dge.keyOf else some []) = some k → (x.lane = none ∨ ∀ y ∈ s.dge.ctx, y.2.readyAt = none) →
      ∃ t y, exec (.dgeCtxFinal ctx) s = .next t ∧ tget t.dge.ctx ctx.val = some y ∧ y.st = .done ∧ y.digest = digestOf x.alg k x.msg ∧
        y.cmp = (match x.expected with | some e => if e = digestOf x.alg k x.msg then 0xA55A else 0x5AA5 | none => 0) ∧
        t.without [.dge] = s.without [.dge]) ∧
    (∃ t, exec (.dgeCtxRelease ctx) s = .next t ∧ tget t.dge.ctx ctx.val = none ∧ t.without [.dge] = s.without [.dge]) ∧
    (∀ x, tget s.dge.ctx ctx.val = some x → (x.st = .opened ∨ x.st = .running ∨ x.st = .saved) → 0 < x.fed → x.fed < x.declared → x.lane = none →
      ∃ t y, exec (.dgeFeedTimeout ctx) s = .next t ∧ t.dt = max s.dt (x.lastFeed + usNs x.timeoutUs) ∧ tget t.dge.ctx ctx.val = some y ∧
        y.st = .error ∧ y.err = (if x.snoop then 3 else 1) ∧ y.digest = [] ∧ t.without [.dt, .dge, .evr] = s.without [.dt, .dge, .evr]) ∧
    (∀ (lane : Fin 32) x w, s.dge.openLanes.contains lane.val = true → s.dge.ctx = [(ctx.val, x)] → x.lane = none → x.readyAt = some w →
      ∃ t, exec (.dgeBlockBoundary lane) s = .next t ∧
        tget t.dge.ctx ctx.val = some { x with st := .running, lane := some lane.val, laneAt := s.dt, readyAt := none } ∧
        t.without [.dge] = s.without [.dge])

/-- CPE stream contexts: a FREE context opens READY; a block offered runs on a free stream lane, or waits (R214); when it is done the context
holds its coded form and counts it (R211, R212); a close frees a context that runs nothing (R213). CPE_CFG forces raw storage. A partition
that is refilled is ACTIVE (R183). -/
def Obligations.StreamContextsCodeTheirBlocks : Prop :=
  ∀ (ctx : Fin 1024) (s : State),
    (∀ user kib sid seq, tget s.cpe.ctx ctx.val = none → 4 ≤ kib → kib ≤ 64 → kib % 4 = 0 →
      ∃ t, exec (.streamCtxOpen ctx user false kib sid seq) s = .next t ∧
        tget t.cpe.ctx ctx.val = some { st := .ready, decompress := false, block := kib * 1024, sid := sid.toNat, bseq := seq, owner := user.toNat } ∧
        (∀ k, k ≠ ctx.val → tget t.cpe.ctx k = tget s.cpe.ctx k) ∧ t.without [.cpe] = s.without [.cpe]) ∧
    (∀ x hdr block, tget s.cpe.ctx ctx.val = some x → x.st = .ready →
      ∃ t y, exec (.streamBlockOffer ctx hdr block) s = .next t ∧ tget t.cpe.ctx ctx.val = some y ∧ y.offered = some (hdr, block) ∧
        y.st = (if s.cpe.freeStream.isSome then .running else .waiting) ∧ y.lane = (if s.cpe.freeStream.isSome then s.cpe.freeStream else x.lane) ∧
        (∀ k, k ≠ ctx.val → tget t.cpe.ctx k = tget s.cpe.ctx k) ∧ t.without [.cpe] = s.without [.cpe]) ∧
    (∀ x hdr block, tget s.cpe.ctx ctx.val = some x → x.st = .running → x.closing = false → x.offered = some (hdr, block) →
      (codeBlock x hdr block).2 = none → (∀ y ∈ s.cpe.ctx, y.2.st ≠ .waiting) →
      ∃ t, exec (.streamBlockDone ctx) s = .next t ∧
        tget t.cpe.ctx ctx.val = some { (codeBlock x hdr block).1 with st := .ready, offered := none, lane := none } ∧
        (x.decompress = false → (codeBlock x hdr block).1.bseq = x.bseq + 1) ∧
        (∀ k, k ≠ ctx.val → tget t.cpe.ctx k = tget s.cpe.ctx k) ∧ t.without [.cpe] = s.without [.cpe]) ∧
    (∀ x, tget s.cpe.ctx ctx.val = some x → x.st ≠ .running →
      ∃ t, exec (.streamCtxClose ctx) s = .next t ∧ tget t.cpe.ctx ctx.val = none ∧
        (∀ k, k ≠ ctx.val → tget t.cpe.ctx k = tget s.cpe.ctx k) ∧ t.without [.cpe] = s.without [.cpe]) ∧
    (∀ m value x, s.writes m 2 x →
      ∃ t, exec (.forceRawWrite m value) s = .next t ∧ t.cpe = { s.cpe with forceRaw := tbit value.toNat 0 } ∧ s.answers t m 0x31 stSuccess [] ∧
        t.without (.cpe :: vcParts) = s.without (.cpe :: vcParts)) ∧
    (∀ domain entries d, tget s.dxu.doms domain = some d → (d.st = .loading ∨ d.st = .rebuilding) →
      ∃ t, exec (.partitionRefilled domain entries) s = .next t ∧ (tget t.dxu.doms domain).map (·.st) = some .active ∧
        t.without [.fresh, .cqe, .dxu, .evr] = s.without [.fresh, .cqe, .dxu, .evr])

/-! ## Chapters 05, 09 and 11: records between the heads -/

/-- Records of the peer: a slot write in order reaches the filter's copy (R190); a DRB region is held and acknowledged, and an acknowledged
one may be programmed (R274); a LEASE_NOTE that claims groups moves their holder here (R318); a read of the peer is reserved at the first
place that fits and granted, and a grant or its absence is noted for the command that asked (R314); the end of the peer's replay and of
a resynchronisation (R144, R156). -/
def Obligations.PeerRecordsActOnThisHead : Prop :=
  ∀ (h : RecHdr) (s : State), h.rsvOk = true →
    (∀ domain bucket slot tag kind iseq d, tget s.dxu.doms domain = some d → s.ownsGroup d.group = false → iseq = d.iseq + 1 →
      ∃ t, exec (.filterSlot h domain bucket slot tag kind iseq) s = .next t ∧
        tget t.dxu.doms domain = some { d with slots := slotPut d.slots bucket slot tag.toNat, iseq := iseq } ∧
        (∀ k, k ≠ domain → tget t.dxu.doms k = tget s.dxu.doms k) ∧ t.without [.dxu] = s.without [.dxu]) ∧
    (∀ pool slot region segSeq rseq, region < 256 →
      ∃ t d, exec (.drbSet h pool slot region segSeq rseq) s = .next t ∧ d ∈ t.pxe.drb ∧ d.peers = true ∧ d.pool = pool ∧ d.slot = slot ∧
        d.segSeq = segSeq ∧ d.rseq = rseq ∧ d.regions.getLsbD region = true ∧ Gives s t .peer (.drbAck pool rseq) ∧
        t.without [.out, .link, .pxe] = s.without [.out, .link, .pxe]) ∧
    (∀ pool rseq d, d ∈ s.pxe.drb → d.peers = false → d.pool = pool → d.acked = false → rseq ≤ d.rseq →
      ∃ t, exec (.drbAck h pool rseq) s = .next t ∧
        (∀ e ∈ t.pxe.drb, e.peers = false → e.pool = pool → e.rseq ≤ rseq → e.acked = true) ∧ t.pxe.drb.length = s.pxe.drb.length ∧
        t.without [.pxe] = s.without [.pxe]) ∧
    (∀ first count epoch g, first ≤ g → g < first + count → g < 256 → (s.leaseOf g).view = 0 →
      ∃ t, exec (.leaseNote h first count 3 epoch) s = .next t ∧ t.leaseOf g = { s.leaseOf g with holder := 3 - s.me } ∧
        (∀ k, (k < first ∨ first + count ≤ k) → t.leaseOf k = s.leaseOf k) ∧ t.without [.ha] = s.without [.ha]) ∧
    (∀ tag die units e l c sus len, (s.ftu.die die).own = true → (s.ftu.die die).leaving = false → 1 ≤ units → units ≤ 32 → s.pmu.pstate ≠ .p4 →
      s.dbg.level < 2 → s.dbg.action = none → s.dsc.closedUntil ≤ s.dt → s.peerSlot die units e l = some (c, sus, len) →
      ∃ t r, exec (.peerReserve h tag die units e l) s = .next t ∧ r ∈ t.dsc.cal ∧ r.die = die ∧ r.work = .peerRead tag.toNat ∧ r.start = c ∧
        Gives s t .peer (.peerGrant tag.toNat (some (c - s.dt)) (len / 100)) ∧ t.without [.out, .link, .dsc] = s.without [.out, .link, .dsc]) ∧
    (∀ (tag : Word) a b, s.dsc.asks.find? (fun a => a.tag == tag.toNat && !a.answered) = some a → b ∈ s.dsc.asks → b.qp = a.qp → b.cid = a.cid →
      b.answered = false → b.tag ≠ a.tag →
      (∀ start len100, start ≠ BitVec.allOnes 64 →
        ∃ t, exec (.peerGrant h tag start len100) s = .next t ∧
          t.dsc.asks = s.dsc.asks.map (fun x => if x.tag = tag.toNat then
            { x with answered := true, grant := some (s.dt + start.toNat, 100 * len100) } else x) ∧ t.without [.dsc] = s.without [.dsc]) ∧
      ∃ t, exec (.peerGrantTimeout tag) s = .next t ∧ t.dt = max s.dt (a.sentAt + 2000) ∧
        t.dsc.asks = s.dsc.asks.map (fun x => if x.tag = tag.toNat then { x with answered := true, grant := none } else x) ∧
        t.without [.dt, .dsc] = s.without [.dt, .dsc]) ∧
    (∀ n, s.wc.keepRestored = true →
      ∃ t, exec (.replayDone h n) s = .next t ∧ t.wc.mirror = [] ∧ t.wc.keepRestored = false ∧ t.wc.frames = s.wc.frames ∧
        t.without [.wc] = s.without [.wc]) ∧
    (∀ n, s.wc.mirrorSt = .none → s.ha.paired = true →
      ∃ t, exec (.resyncDone h n) s = .next t ∧ t.wc = { s.wc with mirrorSt := .mirrored } ∧
        t.evr = s.logged 0x0A20 0 (mirrorNum .none) (mirrorNum .mirrored) 5 0 ∧ t.without [.wc, .evr] = s.without [.wc, .evr])


/-! ## Chapter 12: the power governor -/

/-- GOV's clocked happenings: a sample measures Y over the declared modules, keeps u between U_MIN and U_MAX and gives the head its part
(R353, R356); twenty implausible samples leave CLOSED (R360), 1,000 plausible ones enter it (R354); a floor that does not reach
the set-point is told (R352); a 100 ms window sets or clears CAPPED and moves P0 and P1 (R352); an injection and a one-shot capture
end. -/
def Obligations.TheGovernorSamplesAndLimits : Prop :=
  ∀ s : State,
    (let n := max (s.gov.sample + 1) (ceilDiv s.dt 100000)
     ∃ t, exec .govSample s = .next t ∧ t.gov.sample = n ∧ t.dt = max s.dt (n * 100000) ∧ t.gov.loadReq = false ∧
       t.gov.y = (lsum (s.cfg.modules.map fun p =>
         if s.measured p then (tgetD s.link.modules p {}).powerMw else (s.bounds (n * 100000) [p]).2) : Nat) ∧
       (∀ p, s.gov.power = some p → (s.uMin : Int) ≤ t.gov.u ∧ (t.gov.u ≤ s.uMax p ∨ t.gov.u = s.uMin) ∧ t.gov.bOwn = s.bOwnOf t.gov.u) ∧
       t.without [.dt, .gov, .evr] = s.without [.dt, .gov, .evr]) ∧
    (s.gov.mode = .closed → 20 ≤ s.gov.implRun →
      ∃ t, exec .feedbackImplausible s = .next t ∧ t.gov.mode = .model ∧ t.gov.inj = none ∧ t.gov.sticky.getLsbD 5 = true ∧
        t.without [.cqe, .gov, .evr] = s.without [.cqe, .gov, .evr]) ∧
    (s.gov.mode = .model → s.gov.modeReq = true → 1000 ≤ s.gov.plausRun →
      ∃ t, exec .govPlausibleRun s = .next t ∧ t.gov.mode = .closed ∧ t.gov.eHist = [0, 0, 0] ∧ t.gov.uHist = [s.gov.u, s.gov.u, s.gov.u] ∧
        t.gov.u = s.gov.u ∧ t.without [.cqe, .gov, .evr] = s.without [.cqe, .gov, .evr]) ∧
    (100 ≤ s.gov.floorRun → s.gov.unreachSec ≠ some (secOf s.dt) →
      ∃ t, exec .budgetUnreachable s = .next t ∧ t.gov = { s.gov with unreachSec := some (secOf s.dt) } ∧
        t.evr = s.logged 0x0804 0 (twos 32 (s.gov.target / 1000)) (twos 32 (s.gov.y / 1000)) (s.uMin / 1000) 0 ∧
        t.without [.cqe, .gov, .evr] = s.without [.cqe, .gov, .evr]) ∧
    (s.gov.capWin = s.dt / 100000000 →
      ∃ t, exec .capWindow s = .next t ∧ t.dt = (s.dt / 100000000 + 1) * 100000000 ∧ t.gov.capPrev = s.gov.capNow ∧ t.gov.capNow = 0 ∧
        t.gov.capped = decide (0 < s.gov.capNow) ∧
        t.pmu.pstate = (if t.gov.capped = s.gov.capped then s.pmu.pstate
          else if s.pmu.pstate = .p0 ∧ t.gov.capped = true then .p1 else if s.pmu.pstate = .p1 ∧ t.gov.capped = false then .p0 else s.pmu.pstate) ∧
        t.without [.dt, .cqe, .gov, .pmu, .evr] = s.without [.dt, .cqe, .gov, .pmu, .evr]) ∧
    (∀ i, s.gov.inj = some i → i.duration ≤ i.n →
      ∃ t, exec .injectionEnd s = .next t ∧ t.gov = { s.gov with inj := none } ∧ t.evr = s.logged 0x0808 0 i.kind 0 i.amp 1 ∧
        t.without [.gov, .evr] = s.without [.gov, .evr]) ∧
    (s.gov.capRun = true → s.gov.oneShot = true → 4096 ≤ s.gov.ring.length →
      ∃ t, exec .captureFull s = .next t ∧ t.gov = { s.gov with capRun := false } ∧ t.without [.gov] = s.without [.gov])

/-- Register writes of GOV: LOAD waits for the next sample (R357); MODE_REQ 0 leaves CLOSED at once (R354); GO starts an injection within its
limits and STOP ends it (R361); START empties the ring and runs the capture, STOP ends it (R362). Each is answered SUCCESS. -/
def Obligations.TheGovernorObeysItsRegisters : Prop :=
  ∀ (m : Vc3) (value : Word) (x : Session) (s : State), s.writes m 2 x →
    (tbit value.toNat 3 = true →
      ∃ t, exec (.govLoad m value) s = .next t ∧ t.gov.loadReq = true ∧ t.gov.form = tbit value.toNat 1 ∧ t.gov.compat = tbit value.toNat 2 ∧
        t.gov.coefAct = s.gov.coefAct ∧ s.answers t m 0x31 stSuccess [] ∧ t.without (.gov :: vcParts) = s.without (.gov :: vcParts)) ∧
    (∃ t, exec (.govModeReq m value) s = .next t ∧ t.gov.modeReq = tbit value.toNat 0 ∧
      t.gov.mode = (if tbit value.toNat 0 = false ∧ s.gov.mode = .closed then .model else s.gov.mode) ∧
      s.answers t m 0x31 stSuccess [] ∧ t.without (.gov :: vcParts) = s.without (.gov :: vcParts)) ∧
    (tbit value.toNat 31 = true → tbit value.toNat 30 = false → (s.gov.injAmp : Int) * 10 ≤ s.gov.target →
      (s.gov.mode = .closed ∨ s.gov.mode = .model ∧ tbit value.toNat 27 = false) → s.gov.inj = none → bits value.toNat 15 0 ≠ 0 →
      ∃ t, exec (.govInjGo m value) s = .next t ∧
        t.gov.inj = some ⟨bits value.toNat 29 28, tbit value.toNat 27, bits value.toNat 26 21, bits value.toNat 15 0, s.gov.injAmp, 0, BitVec.allOnes 11⟩ ∧
        t.evr = s.logged 0x0808 0 (bits value.toNat 29 28) 1 s.gov.injAmp 0 ∧
        s.answers t m 0x31 stSuccess [] ∧ t.without (.gov :: vcParts) = s.without (.gov :: vcParts)) ∧
    (∀ i, tbit value.toNat 31 = false → tbit value.toNat 30 = true → s.gov.inj = some i →
      ∃ t, exec (.govInjStop m value) s = .next t ∧ t.gov.inj = none ∧ t.evr = s.logged 0x0808 0 i.kind 0 i.amp 2 ∧
        s.answers t m 0x31 stSuccess [] ∧ t.without (.gov :: vcParts) = s.without (.gov :: vcParts)) ∧
    (tbit value.toNat 31 = true → tbit value.toNat 30 = false → s.gov.mode ≠ .hold →
      ∃ t, exec (.govCapStart m value) s = .next t ∧
        t.gov = { s.gov with
          oneShot := tbit value.toNat 28
          onInj := tbit value.toNat 27
          decim := bits value.toNat 23 16
          capRun := true
          ring := []
          capSkip := 0 } ∧
        s.answers t m 0x31 stSuccess [] ∧ t.without (.gov :: vcParts) = s.without (.gov :: vcParts)) ∧
    (tbit value.toNat 30 = true →
      ∃ t, exec (.govCapStop m value) s = .next t ∧ t.gov.capRun = false ∧
        s.answers t m 0x31 stSuccess [] ∧ t.without (.gov :: vcParts) = s.without (.gov :: vcParts))

/-! ## Chapter 13: memory and the system cache -/

/-- DRAM: the ZQ calibration, the reading of the devices' counts and the patrol's round come at their periods (R368, R370, R371); a corrected
error counts for its channel; an uncorrectable one counts, and the mirror entry it hits is dropped (R371, R372). -/
def Obligations.MemoryErrorsAreCounted : Prop :=
  ∀ s : State,
    (s.mcu.running = true →
      (∃ t, exec .zqCalibration s = .next t ∧ t.dt = max s.dt (s.mcu.zqAt + msNs 128) ∧ t.mcu = { s.mcu with zqAt := t.dt } ∧
        t.without [.dt, .mcu] = s.without [.dt, .mcu]) ∧
      (∀ counts, ∃ t, exec (.ecsRead counts) s = .next t ∧ t.dt = max s.dt (s.mcu.ecsRead + secNs 86400) ∧
        t.mcu = { s.mcu with
          ecs := counts
          ecsRead := t.dt } ∧ t.without [.dt, .mcu] = s.without [.dt, .mcu]) ∧
      (∀ found, (∀ f ∈ found, f.2.2 = none) →
        ∃ t, exec (.dramPatrolScrub found) s = .next t ∧ t.dt = max s.dt (s.mcu.patrolAt + secNs 86400) ∧ t.mcu.patrolAt = t.dt ∧
          t.mcu.ce = found.foldl (fun l f => lmod l (f.1 % 12) (bump 32)) s.mcu.ce ∧
          t.without [.dt, .mcu, .evr] = s.without [.dt, .mcu, .evr])) ∧
    (∀ (ch : Fin 12) rank, s.mcu.chSt.getD ch.val .untrained = .ready →
      (∃ t, exec (.dramCorrected ch rank) s = .next t ∧ t.mcu.ce = lmod s.mcu.ce ch.val (bump 32) ∧ t.mcu.ue = s.mcu.ue ∧
        t.without [.mcu, .evr] = s.without [.mcu, .evr]) ∧
      (∀ addr region index, region ≠ 14 →
        ∃ t, exec (.dramUncorrectable ch rank addr region index) s = .next t ∧ t.mcu.ue = lmod s.mcu.ue ch.val (bump 32) ∧
          t.mcu.ueLife = lmod s.mcu.ueLife ch.val (bump 32) ∧ t.mcu.ce = s.mcu.ce ∧
          (region = 2 → t.wc = { s.wc with mirror := tdel s.wc.mirror index } ∧
            t.evr = s.logged 0x1604 ch.val ch.val rank (lo32 addr.toNat) region ∧ t.without [.wc, .mcu, .evr] = s.without [.wc, .mcu, .evr])))

/-- The system cache: an error counts, and an uncorrectable one retires its pair of slice and way while R379 allows it (R378, R379); a
request for scratchpad ways within R380 starts a conversion, which ends no earlier than 5 us later; in P2 it is flushed, bypassed and enabled
(R381); staged data of a complete command goes 16 us after the last flit (R376). -/
def Obligations.TheSystemCacheConvertsAndRetires : Prop :=
  ∀ s : State,
    (∀ (slice : Fin 64) (way : Fin 16), (tgetD s.slc.retired slice.val 0).getLsbD way.val = false → s.rcc.hold = .run →
      (∃ t, exec (.slcCorrected slice way) s = .next t ∧ t.slc.corr = bump 16 s.slc.corr ∧ t.slc.uncorr = s.slc.uncorr ∧
        t.without [.slc, .evr] = s.without [.slc, .evr]) ∧
      (∀ (holds : Fin 5) region index, holds.val ≠ 2 → holds.val ≠ 3 →
        ∃ t, exec (.slcUncorrectable slice way holds region index) s = .next t ∧ t.slc.uncorr = bump 16 s.slc.uncorr ∧
          (s.slc.retiredIn slice.val < 2 → 3 ≤ s.slc.cacheWays slice.val s.slc.waysWanted →
            (tgetD t.slc.retired slice.val 0).getLsbD way.val = true) ∧
          t.without [.slc, .evr] = s.without [.slc, .evr])) ∧
    (∀ m value x, s.writes m 2 x → 2 ≤ bits value.toNat 11 8 → bits value.toNat 11 8 ≤ 12 → s.slc.tooFew (bits value.toNat 11 8) = false →
      s.slc.busy = none → bits value.toNat 11 8 ≠ s.slc.ways →
      ∃ t, exec (.spadWaysReq m value) s = .next t ∧ t.slc.busy = some (s.dt, bits value.toNat 11 8) ∧ t.slc.ways = s.slc.ways ∧
        t.slc.st = (if s.slc.st = .enabled then .converting else s.slc.st) ∧ s.answers t m 0x31 stSuccess [] ∧
        t.without (.slc :: vcParts) = s.without (.slc :: vcParts)) ∧
    (∀ at_ n, s.slc.busy = some (at_, n) →
      ∃ t, exec .spadChanged s = .next t ∧ t.dt = max s.dt (at_ + 5000) ∧ t.slc.ways = n ∧ t.slc.busy = none ∧
        t.slc.st = (if s.slc.st = .converting then .enabled else s.slc.st) ∧
        t.without [.dt, .fresh, .slc, .evr] = s.without [.dt, .fresh, .slc, .evr]) ∧
    (∀ m value x, s.writes m 3 x → s.pmu.pstate = .p2 →
      (tbit value.toNat 0 = false → s.slc.st = .enabled ∨ s.slc.st = .converting →
        ∃ t, exec (.slcDisable m value) s = .next t ∧ t.slc.st = .flushing ∧ t.slc.en = false ∧ s.answers t m 0x31 stSuccess [] ∧
          t.without (.slc :: vcParts) = s.without (.slc :: vcParts)) ∧
      (tbit value.toNat 0 = true → s.slc.st = .flushing ∨ s.slc.st = .disabled →
        ∃ t, exec (.slcEnable m value) s = .next t ∧ t.slc.st = .enabled ∧ t.slc.en = true ∧ s.answers t m 0x31 stSuccess [] ∧
          t.without (.slc :: vcParts) = s.without (.slc :: vcParts))) ∧
    (s.slc.st = .flushing →
      ∃ t, exec .slcFlushDone s = .next t ∧ t.slc.st = .disabled ∧ t.without [.fresh, .slc, .evr] = s.without [.fresh, .slc, .evr]) ∧
    (∀ (qp : BitVec 14) (cid : BitVec 16) c e, s.cqe.cmd qp.toNat cid.toNat = some c → c.complete = true →
      s.slc.staging.find? (fun y => y.1 == c.qp && y.2.1 == c.cid) = some e →
      ∃ t, exec (.stagingReleaseTimeout qp cid) s = .next t ∧ t.dt = max s.dt (e.2.2.2 + 16000) ∧
        (∀ y ∈ t.slc.staging, ¬ (y.1 = c.qp ∧ y.2.1 = c.cid)) ∧ t.without [.dt, .slc] = s.without [.dt, .slc])

/-! ## Chapters 14 to 16: resets, starts, debug, power -/

/-- Reset sources (R435 to R438, R446 to R449): each clears its scope, holds the chip and sets its bit of RCC_CAUSE, with a sub-cause where it
has one. A POR takes the island's state too. A write of RCC_SWRST acts once its answer has been transmitted. -/
def Obligations.ResetSourcesClearTheirScopes : Prop :=
  ∀ s : State,
    (∃ t, exec .por s = .next t ∧ ColdCleared s t ∧ t.rcc = {} ∧ t.snw = {} ∧ t.evr.seq = 0 ∧ t.evr.mirror = []) ∧
    (s.rcc.hold ≠ .cold →
      ColdHeld .pwrgdLoss s 1 (fun _ => True) ∧
      ColdHeld .resetN s 2 (fun t => t.rcc.tripReset = (s.rcc.trip || s.rcc.tripReset)) ∧
      (∀ sensor temp, s.rcc.trip = false → ColdHeld (.thermalTrip sensor temp) s 10 fun t => t.rcc.trip = true ∧ t.rcc.tripReset = false) ∧
      ∀ sub domain, sub ≠ 0 →
        ColdHeld (.glitch sub domain) s 11 fun t =>
          t.rcc.glitchSub = sub.val ∧ t.rcc.glitchDomain = (if sub.val = 5 then domain.val else 0)) ∧
    (s.rcc.hold = .run →
      (s.dbg.level < 2 → ColdHeld .rotWatchdog s 6 fun _ => True) ∧
      (∀ r, ColdHeld (.refclkFault r) s 11 fun t => t.rcc.glitchSub = if r = true then 4 else 3) ∧
      (s.vaulting = false →
        (∀ cluster core, s.dbg.level < 2 → WarmHeld (.coreWatchdog cluster core) s 5) ∧ (s.pmu.pstate ≠ .p3 → WarmHeld .wresetN s 3)) ∧
      ∀ m (value : Word) x, s.writes m 3 x → bits value.toNat 31 16 = 0xA5C3 →
        (tbit value.toNat 1 = true →
          ∃ t, exec (.swColdReset m value) s = .next t ∧
            (t.rcc.acting = some 2 ∧ t.answersWait = true ∧ s.answers t m 0x31 stSuccess [] ∧ t.without (.rcc :: vcParts) = s.without (.rcc :: vcParts) ∨
             ∃ u, ColdCleared u t ∧ s.answers u m 0x31 stSuccess [] ∧ t.rcc.hold = .cold ∧ t.rcc.cause.getLsbD 7 = true)) ∧
        (tbit value.toNat 1 = false → tbit value.toNat 0 = true → s.rcc.acting = none → s.vaulting = false →
          ∃ t, exec (.swWarmReset m value) s = .next t ∧
            (t.rcc.acting = some 1 ∧ t.answersWait = true ∧ s.answers t m 0x31 stSuccess [] ∧ t.without (.rcc :: vcParts) = s.without (.rcc :: vcParts) ∨
             ∃ u, WarmCleared u t ∧ s.answers u m 0x31 stSuccess [] ∧ t.rcc.hold = .warm ∧ t.rcc.cause.getLsbD 8 = true)))

/-- Starts (R390, R396, R398, R430, R439, R445): the release of a cold reset sets DT to 0, samples the straps, and runs the active slot's image where it
passes its checks; DRAM is then trained; a head whose configuration is applied becomes ready; a warm reset and a wake from P3 run the same
slot again. A fence, or a thermal trip without RESET_N, holds the reset. -/
def Obligations.HeadsStartFromTheirSlot : Prop :=
  ∀ s : State,
    (∀ (straps : Straps) waited badLanes badWays, s.rcc.hold = .cold → s.rcc.fenceHold = false → (s.rcc.trip = true → s.rcc.tripReset = true) →
      (∃ t, exec (.chipRelease straps waited none badLanes badWays) s = .next t ∧ t.rcc.hold = .run ∧ t.rcc.fromWarm = false ∧ t.dt = 0 ∧
        t.glb.headB = straps.headB ∧ t.rcc.clkGood = BitVec.allOnes 72) ∧
      (s.rot.lifecycle ≠ .blank → straps.bootForce = 0 → s.nvi.stA ≠ .trial → s.nvi.stB ≠ .trial → s.nvi.slotSt s.nvi.activeB = .valid →
        ∀ i, s.slotGood s.nvi.activeB i →
        ∃ t, exec (.chipRelease straps waited none badLanes badWays) s = .next t ∧ t.rot.image = some i ∧ t.rot.slotB = s.nvi.activeB ∧
          t.rot.stage = 6 ∧ t.mcu.chSt = List.replicate 12 .training ∧ t.rot.bootDigest = i.manifestDigest)) ∧
    (∀ straps waited nvm badLanes badWays i, s.rcc.hold = .warm → s.slotGood s.rot.slotB i → i.manifestDigest = s.rot.bootDigest →
      ∃ t, exec (.chipRelease straps waited nvm badLanes badWays) s = .next t ∧ t.rcc.hold = .run ∧ t.rcc.fromWarm = true ∧ t.rot.image = some i ∧
        t.rot.stage = 7 ∧ t.dt = s.dt ∧ t.wc.frames = s.wc.frames) ∧
    (∀ badLanes, s.rcc.hold = .run → (∃ c ∈ s.mcu.chSt, c = .training) →
      ∃ t, exec (.ddrTrainingDone [] badLanes) s = .next t ∧ t.mcu.chSt = List.replicate 12 .ready ∧ t.evr.up = true ∧ t.rot.stage = 11) ∧
    (∀ failures badLanes, s.rcc.hold = .run → (∃ c ∈ s.mcu.chSt, c = .training) → (∃ f ∈ failures, f.1 < 12) →
      ∃ t, exec (.ddrTrainingDone failures badLanes) s = .next t ∧ t.mcu.popOk = false ∧
        (∀ c, c < 12 → t.mcu.chSt[c]? = some (if failures.any (fun f => f.1 == c) then .failed else .ready))) ∧
    (∀ unreadable copies lost descBad dicts, s.rcc.hold = .run → s.cfg.epoch ≠ 0 → s.rot.ready = false → s.mcu.popOk = true → s.mcu.running = true →
      s.coresRun = true → (s.rot.lifecycle = .provisioned ∨ s.rot.lifecycle = .field) →
      ∃ t, exec (.bootReady unreadable copies lost descBad dicts) s = .next t ∧ t.rot.ready = true ∧
        t.rot.stage = (if s.rcc.fromWarm = true then 9 else 13) ∧ t.dt = s.dt) ∧
    (∀ i, s.pmu.pstate = .p3 → s.rcc.hold = .run → s.slotGood s.rot.slotB i → i.manifestDigest = s.rot.bootDigest →
      (∃ t, exec .pmuWake s = .next t ∧ t.pmu.pstate = .p2 ∧ t.mcu.chSt = List.replicate 12 .ready ∧ t.rot.image = some i ∧ t.rot.stage = 7 ∧
        t.wc.frames = s.wc.frames) ∧
      ∃ t, exec .wresetN s = .next t ∧ t.pmu.pstate = .p2 ∧ t.rcc.cause.getLsbD 3 = true ∧ t.rot.image = some i)

/-- RCC_BLKRST holds the blocks of its mask and sets cause bit 9 (R443); a reset of DGE frees its contexts and keys (R444); a release comes
1 us later at the earliest, and DGE's keys are loaded again (R443, R445); a release that waited 1 ms is recorded (R445); a quad whose
PLL is unlocked has its lanes DOWN until it is locked (R451). -/
def Obligations.BlocksAndQuadsAreResetAndReleased : Prop :=
  ∀ s : State,
    (∀ m (value : Word) x, s.writes m 3 x → bits value.toNat 13 0 ≠ 0 → s.rcc.hold = .run → s.rcc.acting = none →
      (∃ t, exec (.blockReset m value) s = .next t ∧
        t.rcc = { s.rcc.setCause 9 with
          pendingBlocks := s.rcc.pendingBlocks ||| BitVec.ofNat 14 (bits value.toNat 13 0)
          blockAt := s.dt } ∧ t.dbg = { s.dbg with nonce := none } ∧ t.dt = s.dt) ∧
      (bits value.toNat 13 0 = 32 → s.rcc.pendingBlocks.getLsbD 5 = false →
        ∃ t, exec (.blockReset m value) s = .next t ∧ t.dge.ctx = [] ∧ t.dge.fpKeys = [] ∧ t.dge.jobKeys = [] ∧ t.dge.bad = s.dge.bad ∧
          s.answers t m 0x31 stSuccess [] ∧ t.without (.dge :: .dbg :: .rcc :: vcParts) = s.without (.dge :: .dbg :: .rcc :: vcParts))) ∧
    (∀ b : Fin 14, s.rcc.pendingBlocks.getLsbD b.val = true → s.rcc.hold = .run →
      ∃ t, exec (.blockRelease b) s = .next t ∧ t.dt = max s.dt (s.rcc.blockAt + 1000) ∧ t.rcc.pendingBlocks.getLsbD b.val = false ∧
        (∀ k, k ≠ b.val → t.rcc.pendingBlocks.getLsbD k = s.rcc.pendingBlocks.getLsbD k) ∧
        (b.val = 5 → s.dbg.level < 2 → t.dge.fpKeys = s.cfg.dgeKeys.1 ∧ t.dge.jobKeys = s.cfg.dgeKeys.2) ∧
        t.without [.dt, .cqe, .dge, .cpe, .gov, .rcc, .evr] = s.without [.dt, .cqe, .dge, .cpe, .gov, .rcc, .evr]) ∧
    (∀ domain : Fin 72,
      (s.rcc.hold ≠ .run →
        ∃ t, exec (.releaseDeferred 0xFFFF domain) s = .next t ∧ t.dt = max s.dt (s.rcc.since + msNs 1) ∧ t.rcc = { s.rcc with pendingChip := true } ∧
          t.without [.dt, .rcc, .evr] = s.without [.dt, .rcc, .evr]) ∧
      ∀ mask : BitVec 16, mask ≠ 0xFFFF → mask.toNat &&& s.rcc.pendingBlocks.toNat ≠ 0 →
        ∃ t, exec (.releaseDeferred mask domain) s = .next t ∧ t.dt = max s.dt (s.rcc.blockAt + msNs 1) ∧
          t.evr = s.evr.happen t.dt 0x0204 0 (mask.toNat &&& s.rcc.pendingBlocks.toNat) domain.val 0 0 ∧ t.without [.dt, .evr] = s.without [.dt, .evr]) ∧
    (∀ quad : Fin 36,
      (s.rcc.hold = .run → s.pmu.pstate ≠ .p3 → (∀ x ∈ s.link.quadDown, x.1 ≠ quad.val) →
        ∃ t, exec (.quadPllUnlock quad) s = .next t ∧ (quad.val, s.dt) ∈ t.link.quadDown ∧ t.rcc.clkGood.getLsbD quad.val = false ∧
          (∀ n, n / 4 = quad.val → (s.link.lane n).st ≠ .idle → (t.link.lane n).st = .down) ∧
          (∀ n, n / 4 ≠ quad.val → t.link.lane n = s.link.lane n) ∧ t.without (.rcc :: laneParts) = s.without (.rcc :: laneParts)) ∧
      ∀ x, s.link.quadDown.find? (fun x => x.1 == quad.val) = some x →
        ∃ t, exec (.quadPllLocked quad) s = .next t ∧ t.link.quadDown = s.link.quadDown.filter (fun y => y.1 != quad.val) ∧
          t.rcc.clkGood.getLsbD quad.val = true ∧ t.evr = s.logged 0x0206 quad.val quad.val ((s.dt - x.2) / 1000) 0 0 ∧
          t.without [.link, .rcc, .evr] = s.without [.link, .rcc, .evr])

/-- DBG messages (R417 to R424): a challenge issues a nonce for its action and session, for 60 s; an accepted DEBUG token begins its action, which
purges the keys and sets the level once no media operation runs; an accepted lifecycle token blows its fuses and resets the chip;
DBG_OBSERVE moves between D0 and D1. -/
def Obligations.TokensMoveTheDebugLevelAndLifecycle : Prop :=
  ∀ (m : Vc3) (x : Session) (s : State),
    (∀ action : Byte, s.accepts m 0x88 false (actionPrivilege s.rot.lifecycle action.toNat) x → action ≠ 0 → action.toNat ≤ 5 →
      ∃ t n, exec (.dbgChallenge m action) s = .next t ∧
        t.dbg = { s.dbg with nonce := some { action := action.toNat, sess := m.sess.toNat, value := n, issuedAt := s.dt } } ∧
        s.answers t m 0x88 stSuccess (leBytes 1 0 ++ (leBytes 8 s.rot.serial ++ leBytes 1 (lifecycleNum s.rot.lifecycle) ++ leBytes 1 s.dbg.level ++
          leBytes 6 0 ++ leBytes 32 n)) ∧
        t.without (.dbg :: vcParts) = s.without (.dbg :: vcParts)) ∧
    (∀ n, s.dbg.nonce = some n →
      ∃ t, exec .nonceExpiry s = .next t ∧ t.dt = max s.dt (n.issuedAt + secNs 60) ∧ t.dbg = { s.dbg with nonce := none } ∧
        t.without [.dt, .dbg] = s.without [.dt, .dbg]) ∧
    (∀ k : Token,
      (s.tokenHolds m 1 k x →
        ∃ t, exec (.debugD2 m k) s = .next t ∧
          t.dbg = { s.dbg with
            nonce := none
            action := some { level := 2, port := m.port.val, sess := m.sess.toNat, reqId := m.reqId.toNat, at_ := s.dt } } ∧
          t.without (.dbg :: vcParts) = s.without (.dbg :: vcParts)) ∧
      (s.tokenHolds m 2 k x →
        ∃ t, exec (.debugD3 m k) s = .next t ∧
          t.dbg = { s.dbg with
            nonce := none
            action := some { level := 3, port := m.port.val, sess := m.sess.toNat, reqId := m.reqId.toNat, at_ := s.dt } } ∧
          t.without (.dbg :: vcParts) = s.without (.dbg :: vcParts)) ∧
      (s.tokenHolds m 3 k x →
        ∃ t, exec (.toField m k) s = .next t ∧ t.rot.lifecycle = .field ∧ t.rot.ownerAnchor = some k.anchor ∧
          (t.rcc.acting = some 2 ∨ t.rcc.hold = .cold)) ∧
      (s.tokenHolds m 4 k x →
        ∃ t, exec (.toReturn m k) s = .next t ∧ t.rot.lifecycle = .ret ∧ t.rot.wrapErased = true ∧ t.rot.akek = none ∧ t.xts.keys = [] ∧
          t.dge.fpKeys = [] ∧ t.dge.jobKeys = [] ∧ t.snw.paired = false ∧ (t.rcc.acting = some 2 ∨ t.rcc.hold = .cold)) ∧
      (s.tokenHolds m 5 k x →
        ∃ t, exec (.toEnd m k) s = .next t ∧ t.rot.lifecycle = .ended ∧ t.rot.wrapErased = true ∧ t.rot.akek = none ∧ t.xts.keys = [] ∧
          t.dge.fpKeys = [] ∧ t.dge.jobKeys = [] ∧ t.snw.paired = false ∧ (t.rcc.acting = some 2 ∨ t.rcc.hold = .cold))) ∧
    (∀ a, s.dbg.action = some a → s.dieOps = false →
      ∃ t, exec .d2Quiesced s = .next t ∧ t.dbg.level = a.level ∧ t.dbg.action = none ∧ t.xts.keys = [] ∧ t.rot.akek = none ∧ t.dt = s.dt) ∧
    (s.accepts m 0x8A false 3 x →
      (∃ t, exec (.dbgObserveOn m) s = .next t ∧ t.dbg.level = (if s.dbg.level = 0 then 1 else s.dbg.level) ∧ s.answers t m 0x8A stSuccess (leBytes 1 0) ∧
        t.without (.rot :: .dbg :: vcParts) = s.without (.rot :: .dbg :: vcParts)) ∧
      ∃ t, exec (.dbgObserveOff m) s = .next t ∧ t.dbg.level = (if s.dbg.level = 1 then 0 else s.dbg.level) ∧ s.answers t m 0x8A stSuccess (leBytes 1 0) ∧
        t.without (.rot :: .dbg :: vcParts) = s.without (.rot :: .dbg :: vcParts))

/-- PM_SET (R427 to R429): P0 at once from P2; P2 once no command is outstanding; P3 with everything durable, then DRAM in self-refresh and the
rest of the chip at its warm scope; PM_STATUS answers both words. JTAG (R426): an instruction allowed is selected, one that is not selects
BYPASS; a scan takes every lane DOWN; a core reset holds the cores at D2 and above (R435). -/
def Obligations.PowerStatesAreEnteredAsAsked : Prop :=
  ∀ (m : Vc3) (x : Session) (s : State),
    (s.accepts m 0x8B false 2 x → s.pmu.pstate ≠ .p4 → s.pmu.trans = none → s.dbg.action = none →
      (s.dbg.level < 2 →
        ∃ t, exec (.pmSetP0 m) s = .next t ∧
          t.pmu.pstate = (if s.pmu.pstate = .p2 then (if s.gov.capped = true then .p1 else .p0) else s.pmu.pstate) ∧
          s.answers t m 0x8B stSuccess (leBytes 1 0) ∧ t.without (.pmu :: vcParts) = s.without (.pmu :: vcParts)) ∧
      (s.pmu.pstate ≠ .p2 →
        ∃ t, exec (.pmSetP2 m) s = .next t ∧
          t.pmu = { s.pmu with trans := some { target := 2, port := m.port.val, sess := m.sess.toNat, reqId := m.reqId.toNat, at_ := s.dt } } ∧
          t.dt = s.dt) ∧
      (s.pmu.pstate = .p2 → s.cacheEmpty = true → (∀ c ∈ s.ftu.commits, c.durable = true) → s.ha.held = [] → s.dbg.level < 2 →
        (s.rot.lifecycle = .provisioned ∨ s.rot.lifecycle = .field) →
        ∃ t, exec (.pmSetP3 m) s = .next t ∧
          t.pmu = { s.pmu with trans := some { target := 3, port := m.port.val, sess := m.sess.toNat, reqId := m.reqId.toNat, at_ := s.dt } } ∧
          t.cpe.ctx = [] ∧ t.evr.stRunning = false ∧ t.without (.dsc :: .cpe :: .pmu :: vcParts) = s.without (.dsc :: .cpe :: .pmu :: vcParts))) ∧
    (∀ k, s.pmu.trans = some k →
      (k.target = 2 → s.cqe.cmds = [] →
        ∃ t, exec .p2Reached s = .next t ∧ t.pmu.pstate = .p2 ∧ t.pmu.trans = none ∧
          Gives s t (hostPort k.port) (.answer k.port k.sess (0x8B + 0x8000) k.reqId stSuccess (leBytes 1 0)) ∧
          t.without [.out, .link, .cqe, .pmu, .evr] = s.without [.out, .link, .cqe, .pmu, .evr]) ∧
      (k.target = 3 →
        ∃ t, exec .p3Entered s = .next t ∧ t.dt = max s.dt s.dsc.lastStop ∧ t.pmu.pstate = .p3 ∧ t.pmu.trans = none ∧ t.pmu.p3At = t.dt ∧
          t.mcu.chSt = List.replicate 12 .selfRefresh ∧ t.dbg.level = 0 ∧ t.link = {} ∧ t.cqe = {} ∧ t.dsc = {} ∧ t.wc.frames = s.wc.frames ∧
          t.rcc = s.rcc)) ∧
    (s.accepts m 0x8C false 1 x →
      ∃ t, exec (.pmStatus m) s = .next t ∧ s.answers t m 0x8C stSuccess (leBytes 1 0 ++ (leBytes 4 s.pmuStat ++ leBytes 4 s.dbgStat)) ∧
        t.without vcParts = s.without vcParts) ∧
    (∀ (i : TapInstr) (code : Byte),
      (tapAllowed s.rot.lifecycle s.dbg.level i = true → i ≠ .extest → i ≠ .clamp → i ≠ .highz → i ≠ .other →
        ∃ t, exec (.jtagInstruction i code) s = .next t ∧ t.dbg = { s.dbg with tap := i } ∧ t.without [.dbg] = s.without [.dbg]) ∧
      (tapAllowed s.rot.lifecycle s.dbg.level i = true → i = .extest ∨ i = .clamp ∨ i = .highz →
        ∃ t, exec (.jtagInstruction i code) s = .next t ∧ t.dbg = { s.dbg with
          tap := i
          scan := true } ∧ (∀ n, n < 144 → (s.link.lane n).st ≠ .idle → (t.link.lane n).st = .down) ∧
          t.mcu = { s.mcu with chSt := List.replicate 12 .untrained } ∧ t.wc.frames = []) ∧
      (tapAllowed s.rot.lifecycle s.dbg.level i = false →
        ∃ t, exec (.jtagInstruction i code) s = .next t ∧ t.dbg = { s.dbg with
          tap := .bypass
          jtagRefused := true } ∧ t.evr = s.logged 0x1804 0 code.toNat (lifecycleNum s.rot.lifecycle) s.dbg.level 0 ∧
          t.without [.dbg, .evr] = s.without [.dbg, .evr])) ∧
    (2 ≤ s.dbg.level → s.rcc.hold = .run →
      (∃ t, exec (.jtagCoreReset true) s = .next t ∧ t.rcc = { s.rcc.setCause 12 with coresHeld := true } ∧ t.dbg = { s.dbg with nonce := none } ∧
        t.without [.rcc, .dbg] = s.without [.rcc, .dbg]) ∧
      ∃ t, exec (.jtagCoreReset false) s = .next t ∧ t.rcc = { s.rcc with coresHeld := false } ∧ t.without [.rcc] = s.without [.rcc])

/-! ## Chapters 01, 17 and 18: registers, records, board management -/

/-- CSR_READ answers the values of the registers in ascending order (R7, R8, R71). CSR_WRITE: the register takes the value, within its range
where it has one (R86, R245, R280), a write-one-to-clear bit clears (R6), and a session without the privilege is refused and recorded (R67,
R71). -/
def Obligations.RegistersAreReadAndWritten : Prop :=
  ∀ (m : Vc3) (x : Session) (s : State),
    (∀ (offset : Word) (count : BitVec 16), s.accepts m 0x30 false 1 x → (s.heard m).regsExist offset.toNat count.toNat = true →
      let r := (s.heard m).readRegs x.evrPage x.latch ((List.range count.toNat).map fun i => offset.toNat + 4 * i)
      ∃ t, exec (.csrRead m offset count) s = .next t ∧ s.answers t m 0x30 stSuccess (r.1.flatMap fun w => leBytes 4 w.toNat) ∧
        (tget t.cqe.sessions m.sess.toNat).map (·.latch) = some r.2.1 ∧
        t.without [.out, .link, .cqe, .dsc, .dge, .dxu, .cpe, .ftu, .snw, .mcu, .slc, .nvi, .xts, .dbg, .evr, .fresh] =
          s.without [.out, .link, .cqe, .dsc, .dge, .dxu, .cpe, .ftu, .snw, .mcu, .slc, .nvi, .xts, .dbg, .evr, .fresh]) ∧
    (s.writes m 2 x → s.rcc.acting = none → ∀ v : Word,
      (∃ t, exec (.csrWrite m 0x500000 [v]) s = .next t ∧ s.answers t m 0x31 stSuccess [] ∧
        t.cqe.dataTimeoutUs = (let n := bits v.toNat 15 0; if 100 ≤ n ∧ n ≤ 10000 then n else s.cqe.dataTimeoutUs) ∧
        t.without vcParts = s.without vcParts) ∧
      (∃ t, exec (.csrWrite m 0x940000 [v]) s = .next t ∧ s.answers t m 0x31 stSuccess [] ∧
        t.ftu = { s.ftu with
          scrubDays := (let n := bits v.toNat 23 16; if 1 ≤ n ∧ n ≤ 90 then n else s.ftu.scrubDays)
          wlDelta := (let n := bits v.toNat 15 0; if 50 ≤ n ∧ n ≤ 5000 then n else s.ftu.wlDelta) } ∧
        t.without (.ftu :: vcParts) = s.without (.ftu :: vcParts)) ∧
      (∃ t, exec (.csrWrite m 0x10000 [v]) s = .next t ∧ s.answers t m 0x31 stSuccess [] ∧
        (∀ k, t.rcc.cause.getLsbD k = (s.rcc.cause.getLsbD k && !v.getLsbD k)) ∧ t.without (.rcc :: vcParts) = s.without (.rcc :: vcParts)) ∧
      ∃ t, exec (.csrWrite m 0x70204 [v]) s = .next t ∧ s.answers t m 0x31 stSuccess [] ∧ t.gov = { s.gov with injAmp := v.toNat } ∧
        t.without (.gov :: vcParts) = s.without (.gov :: vcParts)) ∧
    (∀ (offset : Word) v, s.accepts m 0x31 false 1 x → (s.heard m).regsExist offset.toNat 1 = true → x.privilege < writePrivilege offset.toNat →
      s.rcc.acting = none →
      ∃ t, exec (.csrWrite m offset [v]) s = .next t ∧ s.answers t m 0x31 stAccess [] ∧
        t.evr = s.logged 0x0C20 m.sess.toNat m.sess.toNat 0xFFFF (offset.toNat % 65536) 2 ∧ t.without vcParts = s.without vcParts)

/-- EVR: a self-test that nothing refuses runs from item 1 (R465 to R467), goes item by item to its RESULT, is aborted or times out (R468); the
health report is built anew under the next even sequence (R470); the record is written each hour (R471); a window cooler than 100 degrees
ends a crossing (R473); the 1 s window turns (R461). -/
def Obligations.SelfTestsRunItemByItem : Prop :=
  ∀ s : State,
    (∀ m (value : Word) x, s.writes m 2 x →
      (tbit value.toNat 31 = true → tbit value.toNat 30 = false → s.selfTestRefusal (bits value.toNat 1 0) = 0 →
        40 ≤ (sharesGranted s.dsc.shareCfg ({ s with evr := { s.evr with stRunning := true } } : State).raises).getD 6 0 →
        ∃ t, exec (.selfTestStart m value) s = .next t ∧ t.evr.stRunning = true ∧ t.evr.stKind = bits value.toNat 1 0 ∧ t.evr.stItem = 1 ∧
          t.evr.stStart = s.dt ∧ t.evr.stResult = 0 ∧ s.answers t m 0x31 stSuccess [] ∧
          t.without (.dsc :: vcParts) = s.without (.dsc :: vcParts)) ∧
      (tbit value.toNat 31 = false → tbit value.toNat 30 = true → s.evr.stRunning = true →
        ∃ t, exec (.selfTestAbort m value) s = .next t ∧ t.evr.stRunning = false ∧ t.evr.stResult = 3 ∧ s.answers t m 0x31 stSuccess [] ∧
          t.without (.dsc :: vcParts) = s.without (.dsc :: vcParts))) ∧
    (s.evr.stRunning = true →
      (∀ findings failures, let last := if s.evr.stKind = 1 then 4 else 5
        ∃ t, exec (.selfTestItemDone findings failures) s = .next t ∧ t.evr.stItem = s.evr.stItem + 1 ∧
          t.evr.stFindings = s.evr.stFindings + findings.length ∧ t.evr.stProgress = stProgressAfter s.evr.stKind s.evr.stItem ∧
          t.evr.stRunning = decide (s.evr.stItem < last) ∧
          (last ≤ s.evr.stItem → t.evr.stResult = if s.evr.stFail = 0 ∧ failures = [] then 1 else 2) ∧
          (s.evr.stItem ≠ 1 → t.without [.cqe, .dsc, .evr] = s.without [.cqe, .dsc, .evr])) ∧
      ∃ t, exec .selfTestTimeout s = .next t ∧ t.dt = max s.dt (s.evr.stStart + (if s.evr.stKind = 1 then secNs 120 else s.tExt)) ∧
        t.evr.stRunning = false ∧ t.evr.stResult = 2 ∧ t.without [.dt, .cqe, .dsc, .evr] = s.without [.dt, .cqe, .dsc, .evr]) ∧
    (∃ t, exec .healthReportRebuild s = .next t ∧
      t.evr = { s.evr with
        hrSeq := s.evr.hrSeq + 2
        report := wordsFrom 0x4000 4096 (s.reportBytes ++ leBytes 4 (crc32c s.reportBytes).toNat) } ∧ t.without [.evr] = s.without [.evr]) ∧
    (∃ t, exec .healthRecordPersist s = .next t ∧ t.dt = (s.dt / 3600000000000 + 1) * 3600000000000 ∧ t.evr.lifePoh = s.evr.lifePoh + 1 ∧
      t.evr.recSeq = s.evr.recSeq + 1 ∧ t.without [.dt, .evr] = s.without [.dt, .evr]) ∧
    (∀ (sensor : Fin 40) temp, temp < 1000 →
      ∃ t, exec (.junctionHotWindow sensor temp) s = .next t ∧ t.dt = secNs (secOf s.dt + 1) ∧ t.evr.hotSaid = false ∧ t.evr.hotSince = none ∧
        t.without [.dt, .evr] = s.without [.dt, .evr]) ∧
    (∀ (sensor : Fin 40) temp, 1000 ≤ temp → s.evr.hotSaid = false →
      ∃ t, exec (.junctionHotWindow sensor temp) s = .next t ∧ t.dt = secNs (secOf s.dt + 1) ∧ t.evr.hotSaid = true ∧ t.evr.hotSince = some t.dt ∧
        (crossKey 6 sensor.val (twos 32 temp) 1000 ∉ s.evr.crossed → t.glb.alert = true) ∧
        t.without [.dt, .cqe, .evr, .glb] = s.without [.dt, .cqe, .evr, .glb]) ∧
    (∃ t, exec .evrRateWindow s = .next t ∧ t.dt = secNs (secOf s.dt + 1) ∧ t.evr.winSec = secOf s.dt + 1 ∧
      t.without [.dt, .cqe, .dge, .dxu, .evr] = s.without [.dt, .cqe, .dge, .dxu, .evr])

/-- AVS and I3C (R487, R494, R495): each tick moves the set-point by at most 5 mV towards its target and gives it to every regulator; an alert reads
STATUS_WORD; a timeout is tried again three times, then stops the loop; the I3C target takes an address and an offset it can read, answers a
read with the registers from there, and takes a write of PMU_WAKE only. -/
def Obligations.TheBoardIsManaged : Prop :=
  ∀ s : State,
    (s.avsOn = true →
      (∀ target (status : BitVec 16) i, s.glb.avsMv ≠ 0 → s.rot.image = some i →
        ∃ t, exec (.avsTick target status) s = .next t ∧ t.dt = msNs (s.dt / 1000000 + 1) ∧
          t.glb = { s.glb with
            avsMv := avsNext s.glb.avsMv target i.vmin i.vmax
            avsRetry := 0
            avsStatus := status.toNat % 256 } ∧
          (∀ a ∈ i.vrAddrs, Sent.pmbus a (avsNext s.glb.avsMv target i.vmin i.vmax) ∈ t.out) ∧
          t.without [.dt, .out, .glb] = s.without [.dt, .out, .glb]) ∧
      (∀ status : BitVec 16,
        ∃ t, exec (.pmbusAlert status) s = .next t ∧ t.glb = { s.glb with avsStatus := status.toNat % 256 } ∧
          (∀ a ∈ s.vrAddrs, Sent.pmbusStatusRead a ∈ t.out) ∧ t.without [.out, .glb] = s.without [.out, .glb]) ∧
      ∀ (k : Fin 4) a, s.vrAddrs[k.val]? = some a →
        (s.glb.avsRetry < 3 →
          ∃ t, exec (.pmbusTimeout k) s = .next t ∧ t.glb = { s.glb with avsRetry := s.glb.avsRetry + 1 } ∧ t.out = .pmbus a s.glb.avsMv :: s.out ∧
            t.without [.out, .glb] = s.without [.out, .glb]) ∧
        (3 ≤ s.glb.avsRetry →
          ∃ t, exec (.pmbusTimeout k) s = .next t ∧ t.glb = { s.glb with
            avsRun := false
            avsFault := true
            avsAddr := k.val
            avsRetry := 0 } ∧ t.without [.glb] = s.without [.glb])) ∧
    (s.glb.i3cUp = true →
      (∀ offset : Word, (i3cEnd offset.toNat).isSome = true →
        ∃ t, exec (.i3cSetOffset offset) s = .next t ∧ t.glb = { s.glb with i3cOff := offset.toNat } ∧ t.out = .i3cAck :: s.out ∧
          t.without [.out, .glb] = s.without [.out, .glb]) ∧
      (∀ e, i3cEnd s.glb.i3cOff = some e →
        let offs := (List.range ((e - s.glb.i3cOff) / 4)).map fun i => s.glb.i3cOff + 4 * i
        ∃ t, exec .i3cPrivateRead s = .next t ∧ t.out = .i3cRead (offs.zip (s.readRegs 0 [] offs).1) :: s.out ∧
          t.glb.alert = (s.glb.alert && !offs.contains 0x30030) ∧ t.glb.i3cOff = s.glb.i3cOff ∧ t.dt = s.dt) ∧
      (∀ value : Word, value.getLsbD 0 = false ∨ s.pmu.pstate ≠ .p3 ∨ s.rcc.hold ≠ .run →
        ∃ t, exec (.i3cRegisterWrite 0x20004 value) s = .next t ∧ t.out = .i3cAck :: s.out ∧ t.without [.out] = s.without [.out]) ∧
      (∀ (value : Word) i, value.getLsbD 0 = true → s.pmu.pstate = .p3 → s.rcc.hold = .run → s.slotGood s.rot.slotB i →
        i.manifestDigest = s.rot.bootDigest →
        ∃ t, exec (.i3cRegisterWrite 0x20004 value) s = .next t ∧ t.pmu.pstate = .p2 ∧ t.rot.image = some i) ∧
      ∀ addr : BitVec 7,
        ∃ t, exec (.i3cDynamicAddress addr) s = .next t ∧ t.glb = { s.glb with i3cAddr := some addr.toNat } ∧ t.out = .i3cAck :: s.out ∧
          t.without [.out, .glb] = s.without [.out, .glb])

/-! ## Chapter 14: configuration, images, keys -/

/-- CFG messages (R404, R405): BEGIN opens the one staging, STAGE adds records in order, ABORT discards it, STATUS answers epochs and digest, TIME_SET moves
the wall time alone (R11); a COMMIT that nothing refuses is offered to the peer, or, with the peer away, comes into force; a staging whose session ended or was
silent for 10 s is abandoned. -/
def Obligations.ConfigurationsAreStagedAndCommitted : Prop :=
  ∀ (m : Vc3) (x : Session) (s : State),
    (s.accepts m 0x60 false 2 x → s.cfg.staging = none → ∀ epoch base len, len ≤ maxDelta →
      ∃ t, exec (.cfgBegin m epoch base len) s = .next t ∧
        t.cfg = { s.cfg with staging := some { sess := m.sess.toNat, epoch := epoch, base := base, len := len, off := 0, recs := [], lastAt := s.dt } } ∧
        s.answers t m 0x60 stSuccess (leBytes 1 1) ∧ t.without (.cfg :: vcParts) = s.without (.cfg :: vcParts)) ∧
    (∀ g, s.cfg.staging = some g → g.sess = m.sess.toNat → g.commit = none →
      (s.accepts m 0x61 false 2 x → ∀ len recs, g.off + len ≤ g.len →
        ∃ t, exec (.cfgStage m g.off len recs) s = .next t ∧
          t.cfg = { s.cfg with staging := some { g with
            off := g.off + len
            recs := g.recs ++ recs
            lastAt := s.dt } } ∧
          s.answers t m 0x61 stSuccess (leBytes 1 1) ∧ t.without (.cfg :: vcParts) = s.without (.cfg :: vcParts)) ∧
      (s.accepts m 0x63 false 2 x →
        ∃ t, exec (.cfgAbort m) s = .next t ∧ t.cfg = { s.cfg with staging := none } ∧ s.answers t m 0x63 stSuccess (leBytes 1 0) ∧
          t.without (.cfg :: vcParts) = s.without (.cfg :: vcParts)) ∧
      (s.accepts m 0x62 false 2 x → ∀ c : CommitRec, c.sigOk = true → c.chainOk = true → c.epoch = g.epoch → c.base = g.base →
        (s.heard m).commitFault c g.recs = none → s.cfg.offer = none → (s.heard m).identifiable (s.cfg.after c g.recs) = [] →
        (s.peerAway = true →
          ∃ t, exec (.cfgCommit m c) s = .next t ∧ t.cfg.epoch = c.epoch ∧ t.cfg.digest = c.digestFull ∧ t.cfg.recs = s.cfg.after c g.recs ∧
            t.cfg.staging = none ∧ t.dt = s.dt) ∧
        (s.peerAway = false →
          ∃ t, exec (.cfgCommit m c) s = .next t ∧
            t.cfg = { s.cfg with staging := some { g with
              commit := some (c, m.port.val, m.reqId.toNat)
              idents := []
              offeredAt := some s.dt } } ∧
            Gives s t .peer (.cfgOffer c g.len) ∧ Gives s t .peer (.cfgData g.recs) ∧
            t.without [.out, .link, .cqe, .cfg] = s.without [.out, .link, .cqe, .cfg])) ∧
      (s.sessionOpen g.sess = false →
        ∃ t, exec .stagingAbandoned s = .next t ∧ t.cfg = { s.cfg with staging := none } ∧ t.evr = s.logged 0x060E 0 g.sess 1 g.off 0 ∧
          t.without [.cfg, .evr] = s.without [.cfg, .evr]) ∧
      (∀ y, tget s.cqe.sessions g.sess = some y → s.sessionOpen g.sess = true →
        ∃ t, exec .stagingAbandoned s = .next t ∧ t.dt = max s.dt (y.lastAt + secNs 10) ∧ t.cfg = { s.cfg with staging := none } ∧
          t.without [.dt, .cfg, .evr] = s.without [.dt, .cfg, .evr])) ∧
    (s.accepts m 0x64 false 1 x →
      ∃ t n, exec (.cfgStatus m) s = .next t ∧
        s.answers t m 0x64 stSuccess (leBytes 1 0 ++ (leBytes 8 s.cfg.epoch ++ beBytes 48 s.cfg.digest ++
          leBytes 8 (match s.cfg.staging with | some g => g.epoch | none => 0) ++ leBytes 1 n)) ∧
        t.without vcParts = s.without vcParts) ∧
    (s.accepts m 0x65 false 2 x → ∀ offset,
      ∃ t, exec (.timeSet m offset) s = .next t ∧ t.cfg = { s.cfg with wall := offset } ∧
        t.evr = s.logged 0x060B 0 (lo32 (twos 64 s.cfg.wall)) (hi32 (twos 64 s.cfg.wall)) (lo32 (twos 64 offset)) (hi32 (twos 64 offset)) ∧
        s.answers t m 0x65 stSuccess (leBytes 1 0) ∧ t.without (.cfg :: vcParts) = s.without (.cfg :: vcParts))

/-- Step 4 of R405 between the heads: an offer is held, its data collected and judged, and answered prepared; the head that offered switches at
RESULT 0 and discards its staging at a refusal or after 2 s; a head that asked takes the peer's configuration in force, and gives its
own when asked; the last IDENT of a commit lets it go on or refuses it (R407). -/
def Obligations.HeadsAgreeOnTheConfiguration : Prop :=
  ∀ s : State,
    (∀ (c : CommitRec) len, s.cfg.staging = none →
      ∃ t, exec (.peerCfgOffer c len) s = .next t ∧
        t.cfg = { s.cfg with offer := some { commit := c, len := len, off := 0, recs := [] } } ∧ t.without [.cfg] = s.without [.cfg]) ∧
    (∀ o len recs, s.cfg.offer = some o → o.prepared = false → s.cfg.staging = none →
      let o' : Offer := { o with
        off := o.off + len
        recs := o.recs ++ recs }
      let u : State := { s with cfg := { s.cfg with offer := some o' } }
      (o.off + len < o.len →
        ∃ t, exec (.peerCfgData o.off len recs) s = .next t ∧ t.cfg = u.cfg ∧ t.without [.cfg] = s.without [.cfg]) ∧
      (o.len ≤ o.off + len → o.commit.epoch ≠ s.cfg.epoch → u.commitFault o.commit o'.recs = none →
        u.identifiable (s.cfg.after o.commit o'.recs) = [] →
        ∃ t, exec (.peerCfgData o.off len recs) s = .next t ∧
          t.cfg = { s.cfg with offer := some { o' with
            prepared := true
            idents := [] } } ∧ Gives s t .peer (.cfgResult o.commit.epoch 0) ∧
          t.without [.out, .link, .cfg] = s.without [.out, .link, .cfg])) ∧
    (∀ g k port req, s.cfg.staging = some g → g.commit = some (k, port, req) →
      (∀ at_, g.offeredAt = some at_ →
        (∃ t, exec (.peerCfgResult k.epoch 0) s = .next t ∧ t.cfg.epoch = k.epoch ∧ t.cfg.digest = k.digestFull ∧ t.cfg.recs = s.stagedSet g k ∧
          t.cfg.staging = none ∧ t.dt = s.dt) ∧
        (∀ result : Byte, result ≠ 0 → s.freshModules (s.stagedSet g k) = [] →
          ∃ t, exec (.peerCfgResult k.epoch result) s = .next t ∧ t.cfg = { s.cfg with staging := none } ∧
            Gives s t (hostPort port) (.answer port g.sess (0x62 + 0x8000) req stInvalidField (leBytes 1 (if result = 8 then 8 else 9))) ∧
            t.without [.fresh, .out, .link, .cqe, .cfg, .evr] = s.without [.fresh, .out, .link, .cqe, .cfg, .evr]) ∧
        (s.freshModules (s.stagedSet g k) = [] →
          ∃ t, exec .peerCfgTimeout s = .next t ∧ t.dt = max s.dt (at_ + secNs 2) ∧ t.cfg = { s.cfg with staging := none } ∧
            Gives s t (hostPort port) (.answer port g.sess (0x62 + 0x8000) req stInvalidField (leBytes 1 9)) ∧
            t.without [.dt, .fresh, .out, .link, .cqe, .cfg, .evr] = s.without [.dt, .fresh, .out, .link, .cqe, .cfg, .evr])) ∧
      (∀ (pos : Fin 96) tag o serial sigOk foreign, s.inFlight pos tag mIdent o → g.idents = [pos.val] → s.cfg.offer = none → s.cfg.taking = none →
        (identFault { s.cfg with recs := s.cfg.after k g.recs } pos.val serial sigOk foreign = 0 → s.peerAway = false →
          ∃ t, exec (.identResponse pos tag true serial sigOk foreign) s = .next t ∧
            t.cfg = { s.cfg with staging := some { g with
              idents := []
              offeredAt := some s.dt } } ∧
            Gives s t .peer (.cfgOffer k g.len) ∧ t.without [.out, .link, .cfg] = s.without [.out, .link, .cfg]) ∧
        (identFault { s.cfg with recs := s.cfg.after k g.recs } pos.val serial sigOk foreign ≠ 0 →
          ∃ t, exec (.identResponse pos tag true serial sigOk foreign) s = .next t ∧ t.cfg.staging = none ∧ t.cfg.epoch = s.cfg.epoch ∧
            t.cfg.recs = s.cfg.recs ∧ t.dt = s.dt))) ∧
    (∀ k, s.cfg.commit = some k →
      ∃ t, exec (.peerCfgFetch none) s = .next t ∧ Gives s t .peer (.cfgFull k s.cfg.recs) ∧ t.without [.out, .link] = s.without [.out, .link]) ∧
    (∀ k recs, s.cfg.fetching = true → s.cfg.epoch < k.epoch → s.commitFault { k with base := 0 } recs = none →
      s.identifiable (s.cfg.after { k with base := 0 } recs) = [] →
      ∃ t, exec (.peerCfgFetch (some (k, recs))) s = .next t ∧ t.cfg.epoch = k.epoch ∧ t.cfg.recs = s.cfg.after { k with base := 0 } recs ∧
        t.dt = s.dt)

/-- IMAGE messages (R399): BEGIN empties the other slot, WRITE follows on, a COMMIT whose image passes makes it TRIAL with three tries, CONFIRM makes the
running trial ACTIVE and raises FUSE_SVN (R391), STATUS answers the BCB (R389); an update idle for 10 s is abandoned. CERT_READ and
ATTEST answer (R386, R387). A key slot with a parity error is emptied and filled again (R409). -/
def Obligations.ImagesAreUpdatedAndConfirmed : Prop :=
  ∀ (m : Vc3) (x : Session) (s : State),
    (s.accepts m 0x68 false 2 x → ∀ len, s.nvi.update m.sess.toNat = none → len ≤ 127 * 2 ^ 20 →
      ∃ t, exec (.imageBegin m len) s = .next t ∧ t.nvi.slotSt (!s.rot.slotB) = .empty ∧ t.nvi.slot (!s.rot.slotB) = none ∧
        t.nvi.slot s.rot.slotB = s.nvi.slot s.rot.slotB ∧ t.nvi.update m.sess.toNat = some { sess := m.sess.toNat, len := len, off := 0, lastAt := s.dt } ∧
        s.answers t m 0x68 stSuccess [] ∧ t.without (.nvi :: vcParts) = s.without (.nvi :: vcParts)) ∧
    (∀ u, s.nvi.update m.sess.toNat = some u →
      (s.accepts m 0x69 false 2 x → ∀ len, u.off + len ≤ u.len →
        ∃ t, exec (.imageWrite m u.off len) s = .next t ∧ (t.nvi.update m.sess.toNat).map (·.off) = some (u.off + len) ∧ t.nvi.slotA = s.nvi.slotA ∧
          t.nvi.slotB = s.nvi.slotB ∧ s.answers t m 0x69 stSuccess [] ∧ t.without (.nvi :: vcParts) = s.without (.nvi :: vcParts)) ∧
      (s.accepts m 0x6A false 2 x → ∀ img,
        ∃ t, exec (.imageCommit m img) s = .next t ∧ t.nvi.slot (!s.rot.slotB) = some img ∧ t.nvi.slot s.rot.slotB = s.nvi.slot s.rot.slotB ∧
          t.nvi.update m.sess.toNat = none ∧
          (if (imageReason s.rot img).1 = 0 then t.nvi.slotSt (!s.rot.slotB) = .trial ∧ t.nvi.tries = 3
            else t.nvi.slotSt (!s.rot.slotB) = s.nvi.slotSt (!s.rot.slotB)) ∧
          s.answers t m 0x6A (if (imageReason s.rot img).1 = 0 then stSuccess else stInvalidField) [] ∧
          t.without (.nvi :: vcParts) = s.without (.nvi :: vcParts))) ∧
    (s.accepts m 0x6B false 2 x → s.rot.trial = true → s.rot.ready = true → ∀ i, s.rot.image = some i →
      ∃ t, exec (.imageConfirm m) s = .next t ∧ t.nvi.activeB = s.rot.slotB ∧ t.nvi.slotSt s.rot.slotB = .valid ∧
        t.rot = { s.rot with
          trial := false
          fuseSvn := max s.rot.fuseSvn i.svn } ∧
        t.evr = s.logged 0x0605 0 s.rot.fuseSvn (max s.rot.fuseSvn i.svn) (bit s.rot.slotB) 0 ∧
        s.answers t m 0x6B stSuccess [] ∧ t.without (.rot :: .nvi :: vcParts) = s.without (.rot :: .nvi :: vcParts)) ∧
    (s.accepts m 0x6C false 2 x →
      ∃ t, exec (.imageStatus m) s = .next t ∧ s.answers t m 0x6C stSuccess (s.nvi.bcbBytes ++ leBytes 1 s.rot.fuseSvn) ∧
        t.without (.nvi :: vcParts) = s.without (.nvi :: vcParts)) ∧
    (∀ u, s.nvi.updates = [u] → s.sessionOpen u.sess = true →
      ∃ t, exec .imageIdleTimeout s = .next t ∧ t.dt = max s.dt (u.lastAt + secNs 10) ∧ t.nvi = { s.nvi with updates := [] } ∧
        t.without [.dt, .nvi] = s.without [.dt, .nvi]) ∧
    (s.accepts m 0x80 false 1 x → ∀ chain : Byte, chain = 1 ∨ chain = 2 →
      ∃ t, exec (.certRead m chain) s = .next t ∧ s.answers t m 0x80 stSuccess ((s.heard m).freeChain (if chain = 1 then 3 else 4)).1 ∧
        t.without vcParts = s.without vcParts) ∧
    (s.accepts m 0x81 false 1 x → ∀ nonce,
      ∃ t n, exec (.attest m nonce) s = .next t ∧ s.answers t m 0x81 stSuccess (s.reportBody nonce ++ leBytes 96 n) ∧
        t.evr = s.logged 0x0608 m.sess.toNat m.sess.toNat 0 0 0 ∧ t.without vcParts = s.without vcParts) ∧
    (∀ slot : Fin 4129,
      (∀ k, tget s.xts.keys slot.val = some k → s.dbg.level < 2 →
        ∃ t, exec (.keySlotParity slot) s = .next t ∧
          t.xts = { s.xts with
            parity := bump 16 s.xts.parity
            keys := tdel s.xts.keys slot.val
            reload := s.xts.reload ++ [(slot.val, s.dt)] } ∧
          t.evr = s.logged 0x1202 slot.val slot.val 0 0 0 ∧ t.without [.xts, .evr] = s.without [.xts, .evr]) ∧
      (∀ k, (∃ r ∈ s.xts.reload, r.1 = slot.val) → s.dbg.level < 2 → tget s.cfg.keySlots slot.val = some k →
        ∃ t, exec (.keysInstalled slot) s = .next t ∧ tget t.xts.keys slot.val = some k ∧ (∀ r ∈ t.xts.reload, r.1 ≠ slot.val) ∧
          t.without [.cqe, .xts, .cfg, .evr] = s.without [.cqe, .xts, .cfg, .evr]))

/-! ## Chapters 05, 08, 09 and 10: destage, commits, members, jobs -/

/-- Destage: a frame that a storage lane has coded goes into a stripe, or is DIRTY again where none can be had (R209); a stripe that was partly
assembled for 100 ms is completed with fill (R145); a commit that was open for 200 us goes out with a metadata stripe (R232); a dead
segment is RECLAIMED (R246); a move of a grain whose group the peer owns is asked for and answered (R244, R313). -/
def Obligations.FramesAreCodedPackedAndCommitted : Prop :=
  ∀ s : State,
    (∀ (frame : Nat) (lane : Fin 48) f key, (frame, lane.val) ∈ s.cpe.comps → tget s.wc.frames frame = some f →
      tget s.xts.keys (s.dataSlot f.desc.vol) = some key →
      ∃ t f', exec (.compressDone frame lane false true) s = .next t ∧ tget t.wc.frames frame = some f' ∧
        (f'.stage = 4 ∨ f'.stage = 0 ∧ f'.st = .dirty) ∧ f'.data = f.data ∧ f'.desc = f.desc ∧
        (∀ k, k ≠ frame → tget t.wc.frames k = tget s.wc.frames k) ∧
        t.without [.out, .link, .dsc, .wc, .dxu, .cpe, .ftu, .pxe, .gov] = s.without [.out, .link, .dsc, .wc, .dxu, .cpe, .ftu, .pxe, .gov]) ∧
    (∀ (pool : Fin 16) k, s.ftu.stripes.find? (fun t => t.pool == pool.val && t.kind == 0 && !t.issued && !t.grains.isEmpty) = some k →
      ∃ t, exec (.destagePad pool) s = .next t ∧ t.dt = max s.dt (max (tgetD s.wc.lastDirty pool.val 0) k.lastAt + msNs 100) ∧
        (t.stripeOf k.num).map (·.issued) = some true ∧ t.evr = s.evr.happen t.dt 0x1447 pool.val pool.val 1 (k.k - 1 - k.fillMember) 0 ∧
        t.without [.dt, .out, .link, .dsc, .ftu, .pxe, .gov, .evr] = s.without [.dt, .out, .link, .dsc, .ftu, .pxe, .gov, .evr]) ∧
    (∀ c k, s.ftu.commits = [c] → c.issuedAt = none → c.updates ≠ [] →
      (∀ u ∈ c.updates, (∀ r : State, r.heldVersion u = false) ∧ ∀ r : State, (r.applyUpdate u).ftu = r.ftu) →
      s.ftu.stripes.find? (fun t => t.pool == c.pool && t.kind == 2 && !t.issued && t.headB == s.glb.headB) = some k →
      ∃ t, exec .commitCloseTimer s = .next t ∧ t.dt = max s.dt (c.openedAt + usNs 200) ∧
        (t.stripeOf k.num).map (fun x => (x.issued, x.commit)) = some (true, some c.seq) ∧
        t.without [.dt, .out, .link, .cqe, .dsc, .dxu, .ftu, .pxe, .gov, .evr] = s.without [.dt, .out, .link, .cqe, .dsc, .dxu, .ftu, .pxe, .gov, .evr]) ∧
    (∀ seg g, s.ftu.segs.find? (fun g => g.seq == seg && (g.st == .victim || (g.kind == 3 && g.st == .sealed)) && s.segDead g && s.segQuiet g) = some g →
      ∃ t, exec (.segmentReclaimed seg) s = .next t ∧
        t.ftu.segs = s.ftu.segs.map (fun x => if x.isSeg g.pool g.headB g.seq then { x with st := .reclaimed } else x) ∧
        (∃ c ∈ t.ftu.commits, c.issuedAt = none ∧ Update1.segSt g.pool g.headB g.seq .reclaimed ∈ c.updates) ∧
        t.without [.cqe, .dsc, .ftu, .evr, .glb] = s.without [.cqe, .dsc, .ftu, .evr, .glb]) ∧
    (∀ (h : RecHdr) vol grain, h.rsvOk = true →
      (∀ old new : BitVec 64, s.moveOwner vol = true →
        (s.referenced (entryOf old.toNat) = true →
          ∃ t c, exec (.mapMove h vol grain old new) s = .next t ∧ c ∈ t.ftu.commits ∧ c.pool = s.volPool vol ∧ c.issuedAt = none ∧
            Update1.moveMap vol grain (entryOf old.toNat) (entryOf new.toNat) ∈ c.updates ∧ t.without [.ftu] = s.without [.ftu]) ∧
        (s.referenced (entryOf old.toNat) = false →
          ∃ t, exec (.mapMove h vol grain old new) s = .next t ∧ Gives s t .peer (.mapMoveAck vol grain 0) ∧
            t.without [.out, .link] = s.without [.out, .link])) ∧
      (∀ o e, s.ftu.moves.find? (fun m => m.1 == vol && m.2.1 == grain) = some (vol, grain, o, e) →
        (∃ t, exec (.mapMoveAck h vol grain 0) s = .next t ∧
          t.ftu = { s.ftu with moves := s.ftu.moves.filter fun m => !(m.1 == vol && m.2.1 == grain) } ∧ t.without [.ftu] = s.without [.ftu]) ∧
        (samePlace e o = false →
          ∃ t, exec (.mapMoveAck h vol grain 1) s = .next t ∧ (∀ m ∈ t.ftu.moves, ¬ (m.1 = vol ∧ m.2.1 = grain)) ∧
            (∀ p ∈ t.ftu.pages, ∀ x ∈ p.entries, isMapped x.2 = true → samePlace x.2 o = false) ∧
            t.without [.dxu, .ftu] = s.without [.dxu, .ftu])))

/-- Members (R271): a module whose lane was not ACTIVE for 1 s is ABSENT; one that both heads report ABSENT for LOSS_S, or that an Operator gives up, or that
the peer records as LOST, is LOST; the peer's view is kept. A die whose READs failed for 100 ms is RETIRED (R253). A rebuild that runs is told each
minute (R281). -/
def Obligations.MembersLeaveAndAreLost : Prop :=
  ∀ s : State,
    (∀ (pos : Fin 96) m, tget s.pxe.members pos.val = some m →
      (∀ at_, m.st = .present → (tgetD s.link.modules pos.val {}).quarantined = false → s.moduleUp pos.val = false → m.downAt = some at_ →
        ∃ t, exec (.memberAbsent pos) s = .next t ∧ t.dt = max s.dt (at_ + secNs 1) ∧ (tget t.pxe.members pos.val).map (·.st) = some .absent ∧
          (∀ k, k ≠ pos.val → tget t.pxe.members k = tget s.pxe.members k) ∧
          t.without [.dt, .fresh, .out, .link, .cqe, .dsc, .wc, .dxu, .ftu, .pxe, .gov, .evr, .glb] =
            s.without [.dt, .fresh, .out, .link, .cqe, .dsc, .wc, .dxu, .ftu, .pxe, .gov, .evr, .glb]) ∧
      (∀ at_, m.st = .absent → m.bothAt = some at_ →
        ∃ t, exec (.memberLossTimeout pos) s = .next t ∧ t.dt = max s.dt (at_ + secNs s.pxe.lossS) ∧ (tget t.pxe.members pos.val).map (·.st) = some .lost ∧
          (∀ k, k ≠ pos.val → tget t.pxe.members k = tget s.pxe.members k) ∧
          t.without [.dt, .fresh, .out, .link, .cqe, .dsc, .wc, .dxu, .ftu, .pxe, .gov, .evr, .glb] =
            s.without [.dt, .fresh, .out, .link, .cqe, .dsc, .wc, .dxu, .ftu, .pxe, .gov, .evr, .glb]) ∧
      (∀ r (value : Word) x, s.writes r 2 x → tbit value.toNat 31 = true → bits value.toNat 6 0 = pos.val → (m.st = .present ∨ m.st = .absent) →
        ∃ t, exec (.pxeLoseGo r value) s = .next t ∧ t.dt = s.dt ∧ (tget t.pxe.members pos.val).map (·.st) = some .lost ∧
          (∀ k, k ≠ pos.val → tget t.pxe.members k = tget s.pxe.members k) ∧
          t.without [.fresh, .out, .link, .cqe, .dsc, .wc, .dxu, .ftu, .pxe, .gov, .evr, .glb] =
            s.without [.fresh, .out, .link, .cqe, .dsc, .wc, .dxu, .ftu, .pxe, .gov, .evr, .glb]) ∧
      (∀ h : RecHdr, h.rsvOk = true →
        (m.st = .present ∨ m.st = .absent →
          ∃ t, exec (.memberState h pos.val m.pool 3) s = .next t ∧ (tget t.pxe.members pos.val).map (·.st) = some .lost ∧
            (∀ k, k ≠ pos.val → tget t.pxe.members k = tget s.pxe.members k)) ∧
        (m.st = .absent →
          ∃ t, exec (.memberState h pos.val m.pool 2) s = .next t ∧
            tget t.pxe.members pos.val = some { m with
              peerAbsent := true
              bothAt := some (m.bothAt.getD s.dt) } ∧
            (∀ k, k ≠ pos.val → tget t.pxe.members k = tget s.pxe.members k) ∧ t.without [.pxe] = s.without [.pxe]))) ∧
    (∀ die at_, (s.ftu.die die).failSince = some at_ → (s.ftu.die die).st ≠ .retired → (s.ftu.die die).st ≠ .absent →
      (∃ t, exec (.dieFailTimeout die) s = .next t ∧ t.dt = max s.dt (at_ + msNs 100) ∧
        t.without [.dt, .fresh, .out, .link, .cqe, .dsc, .wc, .dxu, .ftu, .pxe, .gov, .evr, .glb] =
          s.without [.dt, .fresh, .out, .link, .cqe, .dsc, .wc, .dxu, .ftu, .pxe, .gov, .evr, .glb]) ∧
      (s.diePool die = none →
        ∃ t, exec (.dieFailTimeout die) s = .next t ∧ (t.ftu.die die).st = .retired ∧
          t.without [.dt, .cqe, .ftu, .evr, .glb] = s.without [.dt, .cqe, .ftu, .evr, .glb])) ∧
    (∀ (pool : Fin 16) r, tget s.pxe.rebuild pool.val = some r → r.cells ≠ [] →
      ∃ t, exec (.rebuildNoticeTimer pool) s = .next t ∧ t.dt = max s.dt (r.noticeAt + secNs 60) ∧
        (tget t.pxe.rebuild pool.val).map (·.noticeAt) = some t.dt ∧ t.pxe.members = s.pxe.members ∧
        t.without [.dt, .cqe, .pxe] = s.without [.dt, .cqe, .pxe])

/-- A snapshot is READY once no earlier command of its volume is outstanding (R292); a QUEUED job that may run starts (R304); a running job to
whose portal no command came for REPL_IDLE_S fails with cause 3 (R308). -/
def Obligations.SnapshotsBecomeReadyAndJobsRun : Prop :=
  ∀ s : State,
    (∀ vol snap x, s.snap.find vol snap = some x → x.st = .creating →
      (∀ c ∈ s.cqe.cmds, ¬ (c.vol = vol ∧ c.admitted = true ∧ c.opc ≠ opAbort ∧ c.tag < x.cut)) →
      ∃ t, exec (.snapshotReady vol snap) s = .next t ∧ (t.snap.find vol snap).map (·.st) = some .ready ∧
        t.snap.jobs = s.snap.jobs ∧ t.evr = s.logged 0x1460 0 vol snap (snapStNum .creating) (snapStNum .ready) ∧
        t.without [.cqe, .snap, .evr] = s.without [.cqe, .snap, .evr]) ∧
    (∀ (job : Fin 256) j v, tget s.snap.jobs job.val = some j → s.cfg.volume j.vol = some v →
      (j.st = .queued → s.ownsGroup v.group = true → (s.snap.jobs.filter fun x => x.2.st == .running).length < 64 →
        (tget s.dge.jobKeys job.val = none ∨ j.role = 2 ∧ j.apply = [] ∧ j.toks = none ∧ recLen j.stream = none) →
        j.ended = none → j.writes = [] → s.portalWaits j.portal = [] →
        ∃ t, exec (.replJobStart job) s = .next t ∧
          tget t.snap.jobs job.val = some { j with
            lastAt := s.dt
            idleS := s.snap.idleS
            st := .running
            cause := 0 } ∧
          (∀ k, k ≠ job.val → tget t.snap.jobs k = tget s.snap.jobs k) ∧
          t.evr = s.logged 0x1465 job.val job.val (jobStNum .queued) (jobStNum .running) 0 ∧
          t.without [.cqe, .snap, .evr] = s.without [.cqe, .snap, .evr]) ∧
      (j.st = .running →
        ∃ t, exec (.replIdleTimeout job) s = .next t ∧ t.dt = max s.dt (j.lastAt + secNs j.idleS) ∧
          (tget t.snap.jobs job.val).map (fun x => (x.st, x.cause)) = some (.failed, 3) ∧
          (∀ k, k ≠ job.val → tget t.snap.jobs k = tget s.snap.jobs k) ∧
          t.without [.dt, .cqe, .cpe, .snap, .evr] = s.without [.dt, .cqe, .cpe, .snap, .evr]))

/-! ## Chapter 11: leases, takeover, failback, the island -/

/-- Leases: a round that a majority accepts lasts from its sending (R327); every 25 ms each record held is renewed (R327); a record wanted is tried again
5 ms after its round (R328; log entry 51); a lease not renewed for 150 ms is lost and its group's commands end (R327); records unchanged for
T_W let a takeover go on (R328, R337). A bridge's epoch and ownership map are kept as read; a bridge that lags is raised (R329, R312, R344). -/
def Obligations.LeasesAreTakenKeptAndLost : Prop :=
  ∀ s : State,
    (∀ (pos : Fin 96) (tag : Word) o,
      (∀ g cur, s.inFlight pos tag mCas o → o.work = .lease g → (256 ≤ g ∨ (s.leaseOf g).view ≠ 0) → cur.holder.toNat = s.me →
        let yes := if (s.leaseOf g).yes.contains pos.val then (s.leaseOf g).yes else pos.val :: (s.leaseOf g).yes
        (cur.st = 1 → s.leaseNeed g ≤ yes.length →
          ∃ t, exec (.leaseCasResponse pos tag 0 true cur) s = .next t ∧ (t.leaseOf g).view = (if (s.leaseOf g).view = 2 then 2 else 1) ∧
            (t.leaseOf g).sentAt = some (s.leaseOf g).roundAt ∧ (t.leaseOf g).holder = s.me ∧ (t.leaseOf g).accepted = yes.length ∧
            (∀ k, k ≠ g → t.leaseOf k = s.leaseOf k) ∧ t.without [.link, .ha] = s.without [.link, .ha]) ∧
        (cur.st = 1 → yes.length < s.leaseNeed g →
          ∃ t, exec (.leaseCasResponse pos tag 0 true cur) s = .next t ∧ (t.leaseOf g).view = (s.leaseOf g).view ∧ (t.leaseOf g).yes = yes ∧
            (t.leaseOf g).sentAt = (s.leaseOf g).sentAt ∧ (∀ k, k ≠ g → t.leaseOf k = s.leaseOf k) ∧
            t.without [.link, .ha] = s.without [.link, .ha])) ∧
      (s.inFlight pos tag mEpoch o →
        (∀ epoch, o.arg = 1 → s.ha.takeover = none →
          ∃ t, exec (.epochResponse pos tag 0 true epoch) s = .next t ∧
            t.ha = { s.ha with epochAt := tput s.ha.epochAt pos.val epoch } ∧ t.without [.link, .ha] = s.without [.link, .ha]) ∧
        (∀ epoch, o.arg = 0 → epoch < s.ha.epoch →
          ∃ t, exec (.epochResponse pos tag 0 true epoch) s = .next t ∧ t.ha = { s.ha with epochAt := tput s.ha.epochAt pos.val epoch } ∧
            MediaSent s t pos.val 255 mEpoch 0 1 s.ha.epoch [] ∧
            t.without [.fresh, .out, .link, .ha, .evr] = s.without [.fresh, .out, .link, .ha, .evr])) ∧
      (∀ map, s.inFlight pos tag mOwner o → (o.arg = 1 ∨ map ≠ 0) → s.ha.failback = none →
        ∃ t, exec (.ownerResponse pos tag 0 true map) s = .next t ∧ t.ha = { s.ha with owner := tput s.ha.owner pos.val map } ∧
          (∀ die d, tget s.ftu.dies die = some d → die / 256 = pos.val →
            (tget t.ftu.dies die).map (·.own) = some (map.getLsbD (die % 256) != s.glb.headB)) ∧
          (∀ die, die / 256 ≠ pos.val → tget t.ftu.dies die = tget s.ftu.dies die) ∧
          t.without [.link, .cqe, .dsc, .ftu, .ha, .evr, .glb] = s.without [.link, .cqe, .dsc, .ftu, .ha, .evr, .glb])) ∧
    (∀ g at_, (s.leaseOf g).view ≠ 0 → (s.leaseOf g).sentAt = some at_ →
      ∃ t, exec (.leaseLost g) s = .next t ∧ t.dt = max s.dt (at_ + msNs 150) ∧ (t.leaseOf g).view = 0 ∧ (t.leaseOf g).sentAt = none ∧
        (∀ k, k ≠ g → t.leaseOf k = s.leaseOf k) ∧
        (256 ≤ g → t.without [.dt, .ha, .evr] = s.without [.dt, .ha, .evr]) ∧
        t.without [.dt, .out, .link, .cqe, .wc, .dge, .cpe, .ftu, .snap, .ha, .slc, .evr] =
          s.without [.dt, .out, .link, .cqe, .wc, .dge, .cpe, .ftu, .snap, .ha, .slc, .evr]) ∧
    (∀ g, s.ha.bridges ≠ [] → s.ha.stale = false → (∃ l, (g, l) ∈ s.ha.leases ∧ l.view ≠ 0) →
      ∃ t, exec .leaseRenewalTimer s = .next t ∧ t.dt = max s.dt s.ha.renewDue ∧ t.ha.renewDue = t.dt + msNs 25 ∧
        (t.leaseOf g).asked = s.reachable g ∧ (t.leaseOf g).yes = [] ∧ (t.leaseOf g).roundAt = t.dt ∧
        t.without [.dt, .out, .link, .ha] = s.without [.dt, .out, .link, .ha]) ∧
    (∀ g l, s.ha.leases.filter (fun x => x.2.view == 0 && x.2.asked != []) = [(g, l)] → (s.leaseOf g).view = 0 → s.mayLease = true →
      ∃ t, exec .leaseRetryTimer s = .next t ∧ t.dt = max s.dt (l.roundAt + msNs 5) ∧ (t.leaseOf g).asked = s.reachable g ∧
        (t.leaseOf g).yes = [] ∧ (t.leaseOf g).roundAt = t.dt ∧ (∀ k, k ≠ g → t.leaseOf k = s.leaseOf k) ∧
        t.without [.dt, .out, .link, .ha] = s.without [.dt, .out, .link, .ha]) ∧
    (∀ k, s.ha.takeover = some k → k.step = 4 → k.waits ≠ [] →
      ∃ t, exec .leaseWaitExpiry s = .next t ∧ s.dt ≤ t.dt ∧ (∀ w ∈ k.waits, w.2.2.2 + leaseWaitNs ≤ t.dt) ∧
        t.ha.takeover = some { k with
          step := 5
          mode := 2 } ∧
        s.ha.epoch < t.ha.epoch ∧ (∀ e ∈ s.ha.epochAt, e.2 < t.ha.epoch) ∧ t.ha.leases = s.ha.leases ∧
        t.without [.dt, .out, .link, .ha] = s.without [.dt, .out, .link, .ha])

/-- The peer: its heartbeats and its mailbox slot make their path fresh (R320, R321); after 30 ms a path is silent, and after both it is declared failed and
fenced (R321, R322, R337); without an answer in 5 ms the lease wait begins, with FENCE again each 20 ms (R337); a head offers to yield after
YIELD_MS (R324); heartbeats leave every 5 ms (R320); pairing makes the key and clears the counters (R332); too many violations take
the peer port DOWN for 10 ms (R345). -/
def Obligations.SilentPeersAreFencedAndPaired : Prop :=
  ∀ s : State,
    (∀ (h : RecHdr) b, h.rsvOk = true → roleOf b.role.toNat = s.ha.peerRole → s.ha.peerRole ≠ .held → b.pstate.toNat ≠ 3 → b.pstate.toNat ≠ 4 →
      tbit b.flags.toNat 3 = false → b.cepoch ≤ lo32 s.cfg.epoch → s.cfg.offer = none → s.ha.role ≠ .starting →
      ∃ t, exec (.heartbeat h b) s = .next t ∧ t.ha.plkAt = some s.dt ∧ t.ha.plkSilent = false ∧ t.ha.peerHb = b.hbseq ∧
        t.ha.peerCepoch = b.cepoch ∧ t.ha.mboxAt = s.ha.mboxAt ∧ t.ha.leases = s.ha.leases ∧ t.ha.role = s.ha.role ∧
        t.without [.fresh, .cqe, .ha, .evr] = s.without [.fresh, .cqe, .ha, .evr]) ∧
    (∀ (pos : Fin 96) (tag : Word) o (x : MboxSlot), s.inFlight pos tag mMbox o →
      (o.arg = 0 → ∃ t, exec (.mboxResponse pos tag 0 true x) s = .next t ∧ t.link = { s.link with ops := tdel s.link.ops tag.toNat } ∧
        t.without [.link] = s.without [.link]) ∧
      (o.arg ≠ 0 → x.crcOk = true → x.head ≠ s.glb.headB → tget s.ha.mboxHb pos.val ≠ some x.hbseq → roleOf x.role.toNat = s.ha.peerRole →
        s.ha.peerRole ≠ .held → x.pstate.toNat ≠ 3 → x.pstate.toNat ≠ 4 → tbit x.flags.toNat 3 = false → x.yieldSt = 0 →
        (∀ i, s.rot.image = some i → compatible i.fwver i.compatMinor x.fwver.toNat x.compatMinor.toNat = true) →
        ∃ t, exec (.mboxResponse pos tag 0 true x) s = .next t ∧ t.ha.mboxAt = some s.dt ∧ t.ha.mboxSilent = false ∧
          tget t.ha.mboxHb pos.val = some x.hbseq ∧ t.ha.peerGroups = x.groups ∧ t.ha.peerNonce = x.nonce ∧ t.ha.plkAt = s.ha.plkAt ∧
          t.ha.role = s.ha.role ∧ t.without [.link, .ha, .evr] = s.without [.link, .ha, .evr])) ∧
    (∀ at_, s.rcc.hold = .run →
      (s.ha.mboxAt = some at_ → s.ha.mboxSilent = false →
        ∃ t, exec (.pathSilent true) s = .next t ∧ t.dt = max s.dt (at_ + msNs 30) ∧ t.ha = { s.ha with mboxSilent := true } ∧
          t.evr = s.evr.happen t.dt 0x0A30 0 2 1 (roleNum s.ha.peerRole) ((t.dt - at_) / 1000000) ∧
          t.without [.dt, .ha, .evr] = s.without [.dt, .ha, .evr]) ∧
      (s.ha.plkAt = some at_ → s.ha.plkSilent = false →
        ∃ t, exec (.pathSilent false) s = .next t ∧ t.dt = max s.dt (at_ + msNs 30) ∧ t.ha = { s.ha with plkSilent := true } ∧
          t.evr = s.evr.happen t.dt 0x0A30 0 1 1 (roleNum s.ha.peerRole) ((t.dt - at_) / 1000000) ∧
          t.without [.dt, .cqe, .ha, .evr] = s.without [.dt, .cqe, .ha, .evr])) ∧
    (∀ ready a b, s.ha.readyAt = some ready → s.ha.plkAt = some a → s.ha.mboxAt = some b → s.ha.bridges ≠ [] → s.ha.role ≠ .held →
      s.pmu.pstate ≠ .p3 → s.pmu.pstate ≠ .p4 → (s.ha.peerP3Plk && s.ha.peerP3Mbox) = false → s.ha.peerFailed = false →
      ∃ t, exec .peerDeclaredFailed s = .next t ∧ t.dt = max s.dt (max a b + msNs 30) ∧ t.ha.peerFailed = true ∧ t.ha.plkSilent = true ∧
        t.ha.mboxSilent = true ∧ t.ha.epoch = s.ha.epoch ∧
        t.ha.takeover = some { step := 2, declaredAt := t.dt, attempts := 1, fenceAt := t.dt, mode := 2 } ∧
        (s.snw.paired = true → t.out.head? = some (.psb 1 (s.snw.ctrTx + 1) (leBytes 4 (s.ha.epoch + 1) ++ leBytes 1 1))) ∧
        t.without [.dt, .out, .link, .cqe, .wc, .dge, .cpe, .ftu, .ha, .snw, .slc, .evr] =
          s.without [.dt, .out, .link, .cqe, .wc, .dge, .cpe, .ftu, .ha, .snw, .slc, .evr]) ∧
    (∀ k, s.ha.takeover = some k →
      (k.step = 2 ∨ k.step = 3 →
        ∃ t, exec .fenceNoAnswer s = .next t ∧ t.dt = max s.dt (k.fenceAt + msNs 5) ∧
          t.ha = { s.ha with takeover := some { k with
            step := 4
            mode := 2 } } ∧
          t.without [.dt, .fresh, .ha, .evr] = s.without [.dt, .fresh, .ha, .evr]) ∧
      (k.step = 4 →
        ∃ t, exec .fenceRetry s = .next t ∧ t.dt = max s.dt (k.fenceAt + msNs 20) ∧
          t.ha = { s.ha with takeover := some { k with
            attempts := k.attempts + 1
            fenceAt := t.dt } } ∧
          t.snw = { s.snw with ctrTx := s.snw.ctrTx + bit s.snw.paired } ∧
          t.without [.dt, .out, .link, .ha, .snw] = s.without [.dt, .out, .link, .ha, .snw])) ∧
    (∀ at_, s.ha.plkAt = some at_ → s.ha.yieldMs ≠ 0 → s.ha.plkSilent = true → s.ha.mboxSilent = false → s.ha.yieldSt = 0 →
      s.ha.peerFailed = false → s.ha.role ≠ .held → s.ha.peerYield = 0 →
      ∃ t, exec .yieldTimer s = .next t ∧ t.dt = max s.dt (at_ + msNs (30 + s.ha.yieldMs)) ∧ t.ha = { s.ha with yieldSt := 1 } ∧
        t.without [.dt, .ha] = s.without [.dt, .ha]) ∧
    (s.coresRun = true →
      ∃ t, exec .heartbeatTimer s = .next t ∧ t.dt = max s.dt s.ha.hbDue ∧ t.ha.hbDue = t.dt + msNs 5 ∧ t.ha.hbseq = s.ha.hbseq + 1 ∧
        (s.portUp .peer = true → ∃ b : HbBody, b.hbseq = lo32 t.ha.hbseq ∧ b.dt = t.dt ∧ b.role = BitVec.ofNat 8 (roleNum s.ha.role) ∧
          Gives s t .peer (.heartbeat b)) ∧
        t.without [.dt, .out, .link, .ha] = s.without [.dt, .out, .link, .ha]) ∧
    (∀ serial wcGib fwver compat cepoch, s.cfg.epoch ≠ 0 → s.portUp .peer = true → s.rcc.hold = .run → s.pmu.pstate ≠ .p3 →
      (s.rot.lifecycle = .provisioned ∨ s.rot.lifecycle = .field) → s.cfg.find 2 0 = some (.peer serial) →
      ∃ t, exec (.pairing serial true wcGib fwver compat cepoch) s = .next t ∧
        t.snw = { s.snw with
          paired := true
          ctrTx := 0
          ctrRx := 0 } ∧
        t.without [.fresh, .out, .link, .cqe, .wc, .dge, .cpe, .ftu, .ha, .snw, .slc, .cfg, .evr] =
          s.without [.fresh, .out, .link, .cqe, .wc, .dge, .cpe, .ftu, .ha, .snw, .slc, .cfg, .evr]) ∧
    (64 < (s.link.port .peer).violCount →
      ∃ t, exec .peerPortViolationLimit s = .next t ∧
        (∀ n, n ∈ s.link.portLanes .peer → (s.link.lane n).st ≠ .idle → (t.link.lane n).st = .down ∧ (t.link.lane n).backoff = msNs 10) ∧
        (∀ n, ¬ (n ∈ s.link.portLanes .peer ∧ (s.link.lane n).st ≠ .idle) → t.link.lane n = s.link.lane n) ∧
        t.without laneParts = s.without laneParts)

/-- The islands: FENCE holds this head in reset until RELEASE (R335); FENCED lets a takeover go on and has its events read (R336, R337); STATUS_REQ
and EVENTS_REQ are answered (R334, R336); a frame that repeats a counter changes nothing but the count of rejects (R333, R345), and 16 of
them have the PSB ignored for 1 s (R345); without either feed the island loses what it holds (R331). -/
def Obligations.IslandsExchangeFrames : Prop :=
  ∀ (p : Psb) (s : State),
    (s.hearsPsb p →
      let n := s.snw.ctrTx + 1
      let heard := { s.psbHeard p with ctrTx := n }
      (∀ epoch reason, s.rcc.hold ≠ .cold →
        ∃ t, exec (.fence p epoch reason) s = .next t ∧ t.rcc.fenceHold = true ∧ t.rcc.hold = .cold ∧ t.rcc.cause.getLsbD 4 = true ∧
          ColdCleared s { t with out := s.out } ∧ t.snw = heard ∧
          t.out = .psb 0x81 n (leBytes 1 (pstateNum s.pmu.pstate) ++ leBytes 1 (roleNum s.ha.role) ++ leBytes 2 0 ++
            leBytes 4 t.evr.mirror.length) :: s.out) ∧
      (∀ pstate role records,
        (s.ha.takeover = none →
          ∃ t, exec (.fenced p pstate role records) s = .next t ∧ t.out = .psb 4 n (leBytes 4 s.ha.epoch) :: s.out ∧
            t.snw = { heard with
              peerHeld := true
              heldAt := s.dt
              evrAvail := min 1024 records
              peerEvents := [] } ∧
            t.without [.out, .snw, .evr] = s.without [.out, .snw, .evr]) ∧
        (∀ k, s.ha.takeover = some k → k.step ≤ 4 →
          ∃ t, exec (.fenced p pstate role records) s = .next t ∧ t.snw.peerHeld = true ∧ t.snw.heldAt = s.dt ∧
            t.ha.takeover = some { k with
              step := 5
              mode := 1 } ∧
            s.ha.epoch < t.ha.epoch ∧ t.ha.leases = s.ha.leases ∧
            t.without [.out, .link, .ha, .snw, .evr] = s.without [.out, .link, .ha, .snw, .evr])) ∧
      (∃ t, exec (.statusReq p) s = .next t ∧ t.snw = heard ∧
        t.out = .psb 0x82 n (leBytes 1 (bit s.snw.vstby + 2 * bit s.snw.psb) ++ leBytes 1 (bit s.rcc.fenceHold) ++ leBytes 1 (bit s.suppliesGood) ++
          leBytes 1 (roleNum s.ha.role) ++ leBytes 4 s.evr.mirror.length) :: s.out ∧
        t.without [.out, .snw] = s.without [.out, .snw]) ∧
      (∀ feed held supplies role records,
        ∃ t, exec (.status p feed held supplies role records) s = .next t ∧ t.snw = { s.psbHeard p with evrAvail := min 1024 records } ∧
          t.without [.snw] = s.without [.snw]) ∧
      (∀ first count, 1 ≤ count → count ≤ 32 →
        ∃ t, exec (.eventsReq p first count) s = .next t ∧ t.snw = heard ∧
          t.out = .events ((s.evr.mirror.reverse.drop first).take count) :: .psb 0x83 n [] :: s.out ∧
          t.without [.out, .snw] = s.without [.out, .snw]) ∧
      (∀ recs,
        ∃ t, exec (.events p recs) s = .next t ∧ t.snw.peerEvents = (s.snw.peerEvents ++ recs).take 1024 ∧ t.snw.ctrRx = p.ctr ∧
          t.without [.out, .snw, .evr] = s.without [.out, .snw, .evr]) ∧
      (∀ epoch,
        ∃ t, exec (.psbRelease p epoch) s = .next t ∧ t.rcc = { s.rcc with fenceHold := false } ∧ t.snw = heard ∧ t.out = .psb 0x84 n [] :: s.out ∧
          t.without [.out, .snw, .rcc] = s.without [.out, .snw, .rcc]) ∧
      ∃ t, exec (.released p) s = .next t ∧ t.snw = { s.psbHeard p with peerHeld := false } ∧ t.without [.snw] = s.without [.snw]) ∧
    (∀ c typ, psbOf c = some (p, typ) → (∀ t, s.snw.ignoreUntil = some t → t ≤ s.dt) → p.len ≤ 1040 → p.macOk = true → s.snw.paired = true →
      p.ctr ≤ s.snw.ctrRx →
      ∃ t, exec c s = .next t ∧ t.snw.ctrRx = s.snw.ctrRx ∧ t.snw.rejected = min 65535 (s.snw.rejected + 1) ∧
        t.without [.snw, .evr] = s.without [.snw, .evr]) ∧
    (s.snw.rejWin = secOf s.dt → 16 ≤ s.snw.rejCount → s.snw.ignoreUntil = none →
      ∃ t, exec .psbRejectLimit s = .next t ∧ t.snw = { s.snw with ignoreUntil := some (s.dt + secNs 1) } ∧
        t.without [.snw] = s.without [.snw]) ∧
    (∀ at_, s.snw.ignoreUntil = some at_ →
      ∃ t, exec .psbIgnoreEnd s = .next t ∧ t.dt = max s.dt at_ ∧ t.snw.ignoreUntil = none ∧ t.snw.ctrRx = s.snw.ctrRx ∧
        t.without [.dt, .snw] = s.without [.dt, .snw]) ∧
    (∀ a b, (a, b) ≠ (s.snw.vstby, s.snw.psb) →
      ((a || b) = true →
        ∃ t, exec (.islandFeed a b) s = .next t ∧
          t.snw = { s.snw with
            vstby := a
            psb := b } ∧
          t.evr = s.logged 0x0501 0 (bit s.snw.vstby + 2 * bit s.snw.psb) (bit a + 2 * bit b) 0 0 ∧
          t.without [.snw, .evr] = s.without [.snw, .evr]) ∧
      ((a || b) = false →
        ∃ t, exec (.islandFeed a b) s = .next t ∧ t.snw = {} ∧ t.evr.mirror = [] ∧ t.rcc = { s.rcc with fenceHold := false } ∧
          t.without [.snw, .evr, .rcc] = s.without [.snw, .evr, .rcc]))

/-- Failback (R340 to R342): once the conditions held for FAILBACK_STABLE_S the survivor asks for the dies back, or, with none to return, for the first
batch; three failbacks in 3,600 s hold the next until an Operator writes GO (R342). The returning head takes part from HANDOVER phase 1 on and
adopts its mirror entries of the batch in phase 2; at the survivor a drained batch goes over (R341). -/
def Obligations.FailbacksMoveGroupsInBatches : Prop :=
  ∀ s : State,
    (∀ at_, s.ha.stableAt = some at_ → s.failbackReady = true →
      let now := max s.dt (at_ + secNs s.ha.stableS)
      let n := (s.ha.failbacks.filter fun t => decide (t + secNs 3600 > now)).length
      let out := s.ftu.dies.filter fun d => d.2.own && d.2.half != s.glb.headB
      (3 ≤ n → s.ha.goDone = false → s.ha.flap = false →
        ∃ t, exec .failbackStable s = .next t ∧ t.dt = now ∧ t.ha = { s.ha with flap := true } ∧ t.evr = s.evr.happen now 0x0A37 0 n 0 0 0 ∧
          t.without [.dt, .ha, .evr] = s.without [.dt, .ha, .evr]) ∧
      (n < 3 → out ≠ [] →
        ∃ t, exec .failbackStable s = .next t ∧ t.dt = now ∧
          t.ha = { s.ha with failback := some { startAt := now, first := 0, phase := 0, groups := s.peerGroups, dies := out.length } } ∧
          (∀ d ∈ t.ftu.dies, (d.2.own && d.2.half != s.glb.headB) = true → d.2.leaving = true) ∧
          t.without [.dt, .out, .link, .ftu, .ha, .evr] = s.without [.dt, .out, .link, .ftu, .ha, .evr]) ∧
      (∀ g gs, n < 3 → out = [] → s.peerGroups = g :: gs →
        ∃ t, exec .failbackStable s = .next t ∧ t.dt = now ∧
          t.ha.failback = some { startAt := now, first := g, phase := 1, groups := g :: gs, dies := 0 } ∧
          (∀ k ∈ (g :: gs).take 16, (t.leaseOf k).view = 2) ∧
          t.without [.dt, .out, .link, .cqe, .wc, .dge, .cpe, .ftu, .ha, .slc, .evr] =
            s.without [.dt, .out, .link, .cqe, .wc, .dge, .cpe, .ftu, .ha, .slc, .evr])) ∧
    (∀ m (value : Word) x, s.writes m 2 x → s.rcc.acting = none →
      ∃ t, exec (.failbackGo m value) s = .next t ∧ s.answers t m 0x31 stSuccess [] ∧
        t.ha = (if tbit value.toNat 31 && s.ha.flap then { s.ha with
          flap := false
          goDone := true } else s.ha) ∧
        t.without (.ha :: vcParts) = s.without (.ha :: vcParts)) ∧
    (∀ (h : RecHdr) first count, h.rsvOk = true →
      ((s.ha.role = .standby ∨ s.ha.role = .active) →
        ∃ t, exec (.handover h first count 1) s = .next t ∧
          t.ha = { s.ha with failback := some { startAt := s.dt, first := first, phase := 1, groups := s.handoverBatch first count, dies := 0 } } ∧
          t.without [.ha] = s.without [.ha]) ∧
      (∀ f, s.ha.failback = some f → f.first = first →
        ∃ t, exec (.handover h first count 2) s = .next t ∧ t.ha = { s.ha with failback := some { f with phase := 2 } } ∧
          (∀ e ∈ t.wc.mirror, ∀ v, s.cfg.volume e.2.desc.vol = some v → v.group ∉ f.groups) ∧
          (∀ e ∈ s.wc.mirror, (∀ v, s.cfg.volume e.2.desc.vol = some v → v.group ∉ f.groups) → e ∈ t.wc.mirror) ∧
          t.without [.wc, .ha] = s.without [.wc, .ha])) ∧
    (∀ f, s.ha.failback = some f → f.phase = 1 → (s.ha.role = .survivor ∨ s.ha.role = .active) → s.snap.jobs = [] →
      (∀ c ∈ s.cqe.cmds, c.fwdAt = none → ∀ v, s.cfg.volume c.vol = some v → v.group ∉ f.batch) →
      ∃ t, exec (.handoverDrained f.first) s = .next t ∧ t.ha.failback = some { f with phase := 2 } ∧
        Gives s t .peer (.handover f.first f.batch.length 2) ∧ (∀ g ∈ f.batch, (t.leaseOf g).view = 0) ∧
        (∀ x ∈ t.wc.frames, ∀ v, s.cfg.volume x.2.desc.vol = some v → v.group ∉ f.batch) ∧
        (∀ x ∈ s.wc.frames, (∀ v, s.cfg.volume x.2.desc.vol = some v → v.group ∉ f.batch) → x ∈ t.wc.frames) ∧
        t.without [.out, .link, .wc, .ha] = s.without [.out, .link, .wc, .ha])

/-! ## Whole rules -/

/-- R261: the arithmetic of PXE is the field GF(2^8) of 0x11D: addition is XOR; multiplication is commutative, associative and distributive, 1 is its
one and every other byte than 0 has an inverse; g is 2, its powers 0 to 254 are distinct and the 255th is 1; its inverse is 0x8E; a product with g
is the shift by one, with an XOR of 0x11D where bit 8 is then set. -/
def Obligations.TheFieldOfTheParity : Prop :=
  (∀ a b : Byte, xorBytes [a] [b] = [a ^^^ b]) ∧
  (∀ a b c : Byte, gmul a b = gmul b a ∧ gmul (gmul a b) c = gmul a (gmul b c) ∧ gmul a (b ^^^ c) = gmul a b ^^^ gmul a c ∧ gmul 1 a = a) ∧
  (∀ a : Byte, a ≠ 0 → gmul a (gInv a) = 1) ∧
  (∀ a : Byte,
    let w : BitVec 9 := a.setWidth 9 <<< 1
    gmul 2 a = (if w.getLsbD 8 then w ^^^ 0x11D else w).setWidth 8) ∧
  gPow 0 = 1 ∧ (∀ j, gPow (j + 1) = gmul 2 (gPow j)) ∧ gPow 255 = 1 ∧ (∀ i j, i < j → j < 255 → gPow i ≠ gPow j) ∧
  gmul 2 0x8E = 1 ∧ ∀ j, gmul (gPow j) (gNeg j) = 1

/-- P and Q recover a stripe (R262, R264): from the members of a stripe that remain when any one or two are lost, data or parity, each lost member is
recomputed byte for byte. -/
def Obligations.LostMembersAreRecovered : Prop :=
  ∀ (k n x y : Nat) (d : Nat → Bytes), k ≤ 255 → (∀ i, (d i).length = n) → x ≤ k + 1 → y ≤ k + 1 →
    let data := (List.range k).map fun i => (i, d i)
    let all := data ++ [(k, parityP data), (k + 1, parityQ data)]
    recoverMember k x (all.filter fun m => m.1 != x && m.1 != y) = (all.find? fun m => m.1 == x).map (·.2)

/-- R66: a write of a lane's register clears the bits of RETRAINS that it writes as 1 and no other bit; one that writes 0xFF to the field restarts the
count from 0. -/
def Obligations.RetrainsClearsBitByBit : Prop :=
  ∀ (m : Vc3) (x : Session) (lane : Fin 144) (v : Word) (s : State), s.writes m 2 x → s.rcc.acting = none → (s.link.lane lane.val).retrains < 256 →
    let offset := if lane.val < 32 then 0x101000 + 4 * lane.val else if lane.val < 128 then 0x301000 + 4 * (lane.val - 32) else 0x201000 + 4 * (lane.val - 128)
    ∃ t, exec (.csrWrite m (BitVec.ofNat 32 offset) [v]) s = .next t ∧ s.answers t m 0x31 stSuccess [] ∧
      (∀ k, k < 8 → (t.link.lane lane.val).retrains.testBit k = ((s.link.lane lane.val).retrains.testBit k && !v.getLsbD (16 + k))) ∧
      (bits v.toNat 23 16 = 0xFF → (t.link.lane lane.val).retrains = 0) ∧
      t.without vcParts = s.without vcParts
end

