-- ==== Sys2Proof/Laws/Keeps.lean ====
section
/-! SUPPORT. Views of the state that an update of one block cannot change. Each frame lemma of Laws/Frame<File>.lean asks this of the
blocks that its definition may write, directly or through what it calls, and of no others. -/

namespace Sys2Proof.Machine

open Sys2Proof

/-- The view sees of `link` at most the lanes. -/
abbrev KeepsLink {α : Type} (π : State → α) : Prop := ∀ (s : State) (f : Link → Link), (∀ l, (f l).lanes = l.lanes) → π (s.modLink f) = π s
/-- The view does not look into `link`. -/
abbrev KeepsLinkAll {α : Type} (π : State → α) : Prop := ∀ (s : State) (f : Link → Link), π (s.modLink f) = π s
/-- The view does not look into the block `cqe`. -/
abbrev KeepsCqe {α : Type} (π : State → α) : Prop := ∀ (s : State) (f : Cqe → Cqe), π (s.modCqe f) = π s
/-- The view does not look into the block `dsc`. -/
abbrev KeepsDsc {α : Type} (π : State → α) : Prop := ∀ (s : State) (f : Dsc → Dsc), π (s.modDsc f) = π s
/-- The view does not look into the block `wc`. -/
abbrev KeepsWc {α : Type} (π : State → α) : Prop := ∀ (s : State) (f : Wc → Wc), π (s.modWc f) = π s
/-- The view does not look into the block `dge`. -/
abbrev KeepsDge {α : Type} (π : State → α) : Prop := ∀ (s : State) (f : Dge → Dge), π (s.modDge f) = π s
/-- The view does not look into the block `dxu`. -/
abbrev KeepsDxu {α : Type} (π : State → α) : Prop := ∀ (s : State) (f : Dxu → Dxu), π (s.modDxu f) = π s
/-- The view does not look into the block `cpe`. -/
abbrev KeepsCpe {α : Type} (π : State → α) : Prop := ∀ (s : State) (f : Cpe → Cpe), π (s.modCpe f) = π s
/-- The view does not look into the block `ftu`. -/
abbrev KeepsFtu {α : Type} (π : State → α) : Prop := ∀ (s : State) (f : Ftu → Ftu), π (s.modFtu f) = π s
/-- The view sees of `pxe` at most the members. -/
abbrev KeepsPxe {α : Type} (π : State → α) : Prop := ∀ (s : State) (f : Pxe → Pxe), (∀ p, (f p).members = p.members) → π (s.modPxe f) = π s
/-- The view does not look into the block `pxe`. -/
abbrev KeepsPxeAll {α : Type} (π : State → α) : Prop := ∀ (s : State) (f : Pxe → Pxe), π (s.modPxe f) = π s
/-- The view does not look into the block `snap`. -/
abbrev KeepsSnap {α : Type} (π : State → α) : Prop := ∀ (s : State) (f : SnapCtl → SnapCtl), π (s.modSnap f) = π s
/-- The view does not look into the block `ha`. -/
abbrev KeepsHa {α : Type} (π : State → α) : Prop := ∀ (s : State) (f : Ha → Ha), π (s.modHa f) = π s
/-- The view does not look into the block `snw`. -/
abbrev KeepsSnw {α : Type} (π : State → α) : Prop := ∀ (s : State) (f : Snw → Snw), π (s.modSnw f) = π s
/-- The view does not look into the block `gov`. -/
abbrev KeepsGov {α : Type} (π : State → α) : Prop := ∀ (s : State) (f : Gov → Gov), π (s.modGov f) = π s
/-- The view does not look into the block `mcu`. -/
abbrev KeepsMcu {α : Type} (π : State → α) : Prop := ∀ (s : State) (f : Mcu → Mcu), π (s.modMcu f) = π s
/-- The view does not look into the block `slc`. -/
abbrev KeepsSlc {α : Type} (π : State → α) : Prop := ∀ (s : State) (f : Slc → Slc), π (s.modSlc f) = π s
/-- The view does not look into the block `nvi`. -/
abbrev KeepsNvi {α : Type} (π : State → α) : Prop := ∀ (s : State) (f : Nvi → Nvi), π (s.modNvi f) = π s
/-- The view does not look into the block `xts`. -/
abbrev KeepsXts {α : Type} (π : State → α) : Prop := ∀ (s : State) (f : Xts → Xts), π (s.modXts f) = π s
/-- The view sees of `cfg` at most the configuration in force. -/
abbrev KeepsCfg {α : Type} (π : State → α) : Prop := ∀ (s : State) (f : Cfg → Cfg), (∀ c, (f c).inForce = c.inForce) → π (s.modCfg f) = π s
/-- The view does not look into the block `cfg`. -/
abbrev KeepsCfgAll {α : Type} (π : State → α) : Prop := ∀ (s : State) (f : Cfg → Cfg), π (s.modCfg f) = π s
/-- The view does not look into the block `pmu`. -/
abbrev KeepsPmu {α : Type} (π : State → α) : Prop := ∀ (s : State) (f : Pmu → Pmu), π (s.modPmu f) = π s
/-- The view does not look into the block `dbg`. -/
abbrev KeepsDbg {α : Type} (π : State → α) : Prop := ∀ (s : State) (f : Dbg → Dbg), π (s.modDbg f) = π s
/-- The view does not look into the block `rcc`. -/
abbrev KeepsRcc {α : Type} (π : State → α) : Prop := ∀ (s : State) (f : Rcc → Rcc), π (s.modRcc f) = π s
/-- The view does not look into the block `evr`. -/
abbrev KeepsEvr {α : Type} (π : State → α) : Prop := ∀ (s : State) (f : Evr → Evr), π (s.modEvr f) = π s
/-- The view does not look into the block `glb`. -/
abbrev KeepsGlb {α : Type} (π : State → α) : Prop := ∀ (s : State) (f : Glb → Glb), π (s.modGlb f) = π s
/-- The view does not look into the ports. -/
abbrev KeepsPort {α : Type} (π : State → α) : Prop := ∀ (s : State) (p : PortId) (f : Port → Port), π (s.modPort p f) = π s
/-- The view does not look into the lanes. -/
abbrev KeepsLane {α : Type} (π : State → α) : Prop := ∀ (s : State) (n : Nat) (f : Lane → Lane), π (s.modLane n f) = π s
/-- The view does not look into the sessions. -/
abbrev KeepsSess {α : Type} (π : State → α) : Prop := ∀ (s : State) (n : Nat) (f : Session → Session), π (s.modSession n f) = π s
/-- The view sees of `rot` at most the fuses. -/
abbrev KeepsRot {α : Type} (π : State → α) : Prop := ∀ (s : State) (f : Rot → Rot), (∀ r, (f r).fuses = r.fuses) → π (s.modRot f) = π s
/-- The view does not look into `rot`. -/
abbrev KeepsFuses {α : Type} (π : State → α) : Prop := ∀ (s : State) (f : Rot → Rot), π (s.modRot f) = π s
/-- The view does not look at DT. -/
abbrev KeepsDt {α : Type} (π : State → α) : Prop := ∀ (s : State) (t : Nat), π (s.setDt t) = π s
/-- The view does not look at the counter of free values. -/
abbrev KeepsFresh {α : Type} (π : State → α) : Prop := ∀ (s : State) (n : Nat), π (s.setFresh n) = π s
/-- The view does not look at what has been sent. -/
abbrev KeepsOut {α : Type} (π : State → α) : Prop := ∀ (s : State) (x : Sent), π (s.emit x) = π s
/-- The view outlives a cold reset. -/
abbrev KeepsCold {α : Type} (π : State → α) : Prop := ∀ s : State, π s.clearCold = π s
/-- The view outlives a warm reset. -/
abbrev KeepsWarm {α : Type} (π : State → α) : Prop := ∀ s : State, π s.clearWarm = π s
/-- The view outlives a power-on reset. -/
abbrev KeepsPor {α : Type} (π : State → α) : Prop := ∀ s : State, π s.porReset = π s

theorem ite_frame {α : Type} {π : State → α} {c : Prop} {d : Decidable c} {s t : State} {k : α} (hs : π s = k) (ht : π t = k) :
    π (@ite _ c d s t) = k := by split <;> assumption

theorem ite_frame2 {α β : Type} {π : State → α} {c : Prop} {d : Decidable c} {s t : β × State} {k : α} (hs : π s.2 = k) (ht : π t.2 = k) :
    π (@ite _ c d s t).2 = k := by split <;> assumption

theorem cond_frame {α : Type} {π : State → α} {c : Bool} {s t : State} {k : α} (hs : π s = k) (ht : π t = k) :
    π (cond c s t) = k := by cases c <;> assumption

theorem pair_frame {α β : Type} {π : State → α} {a : β} {s' : State} {x : β × State} {k : α} (h : x = (a, s')) (hx : π x.2 = k) :
    π s' = k := by subst h; exact hx

theorem triple_frame {α β γ : Type} {π : State → α} {a : β} {b : γ} {s' : State} {x : β × γ × State} {k : α} (h : x = (a, b, s'))
    (hx : π x.2.2 = k) : π s' = k := by subst h; exact hx

/-- A view that each round leaves alone reads the same after all of them. -/
theorem foldl_frame {α β : Type} (π : State → α) (g : State → β → State) (h : ∀ s b, π (g s b) = π s) (l : List β) (s : State) :
    π (l.foldl g s) = π s := by
  induction l generalizing s with
  | nil => rfl
  | cons x xs ih => rw [List.foldl_cons, ih, h]

theorem foldl_frame2 {α β γ : Type} (π : State → α) (g : γ × State → β → γ × State) (h : ∀ a b, π (g a b).2 = π a.2) (l : List β)
    (a : γ × State) : π (l.foldl g a).2 = π a.2 := by
  induction l generalizing a with
  | nil => rfl
  | cons x xs ih => rw [List.foldl_cons, ih, h]

end Sys2Proof.Machine
end

