-- ==== Sys2Proof/Laws/FrameOps.lean ====
section
/-! SUPPORT. What the definitions of Machine/Ops.lean leave alone: a view of the state that no block they write can change reads
the same after them. -/

set_option linter.unusedSimpArgs false

namespace Sys2Proof.Machine

open Sys2Proof

theorem State.advanceTo_frame {α : Type} (π : State → α) (hDt : KeepsDt π) (s : State) (t : Nat) :
    π (State.advanceTo s t) = π s := by
  unfold State.advanceTo
  with_reducible
    repeat' first | (rfl) | (refine (hDt _ _).trans ?_)

theorem State.freshen_frame {α : Type} (π : State → α) (hFresh : KeepsFresh π) (s : State) :
    π (State.freshen s) = π s := by
  unfold State.freshen
  with_reducible
    repeat' first | (rfl) | (refine (hFresh _ _).trans ?_)

theorem State.event_frame {α : Type} (π : State → α) (hEvr : KeepsEvr π) (s : State) (code : BitVec 16) (inst : Nat) (p0 : Nat) (p1 : Nat) (p2 : Nat) (p3 : Nat) :
    π (State.event s code inst p0 p1 p2 p3) = π s := by
  unfold State.event
  with_reducible
    repeat' first | (rfl) | (refine (hEvr _ _).trans ?_)

theorem State.tally_frame {α : Type} (π : State → α) (hEvr : KeepsEvr π) (s : State) (key : Nat) :
    π (State.tally s key) = π s := by
  unfold State.tally
  with_reducible repeat' first
    | rfl
    | assumption
    | (intro)
    | refine ite_frame ?_ ?_
    | refine (hEvr _ _).trans ?_
    | refine pair_frame (by with_reducible assumption) ?_
    | split
    | (dsimp only)

theorem State.sendItem_frame {α : Type} (π : State → α) (hOut : KeepsOut π) (hPort : KeepsPort π) (s : State) (p : PortId) (it : TxItem) :
    π (State.sendItem s p it).2 = π s := by
  unfold State.sendItem
  with_reducible repeat' first
    | rfl
    | assumption
    | (intro)
    | refine ite_frame ?_ ?_
    | refine ite_frame2 ?_ ?_
    | refine (hPort _ _ _).trans ?_
    | refine (hOut _ _).trans ?_
    | refine pair_frame (by with_reducible assumption) ?_
    | split
    | (dsimp only)

theorem State.pumpList_frame {α : Type} (π : State → α) (hOut : KeepsOut π) (hPort : KeepsPort π) (s : State) (p : PortId) (blocked : List Nat) (kept : List TxItem) (x0 : List TxItem) :
    π (State.pumpList s p blocked kept x0).2 = π s := by
  induction x0 generalizing s blocked kept with
  | nil => rfl
  | cons it rest ih =>
    unfold State.pumpList
    split
    · exact ih ..
    · split
      · exact (ih ..).trans (pair_frame (by assumption) (State.sendItem_frame π hOut hPort ..))
      · exact (ih ..).trans (pair_frame (by assumption) (State.sendItem_frame π hOut hPort ..))

theorem State.pump_frame {α : Type} (π : State → α) (hOut : KeepsOut π) (hPort : KeepsPort π) (s : State) (p : PortId) :
    π (State.pump s p) = π s := by
  unfold State.pump
  with_reducible
    repeat' first | (rfl) | (refine (State.pumpList_frame π hOut hPort _ _ _ _ _).trans ?_) | (refine (pair_frame (by with_reducible assumption) (State.pumpList_frame π hOut hPort _ _ _ _ _)).trans ?_) | (refine (hPort _ _ _).trans ?_)

theorem State.transmit_frame {α : Type} (π : State → α) (hOut : KeepsOut π) (hPort : KeepsPort π) (s : State) (p : PortId) (vc : Nat) (x : Sent) :
    π (State.transmit s p vc x) = π s := by
  unfold State.transmit
  with_reducible
    repeat' first | (rfl) | (refine (State.pump_frame π hOut hPort _ _).trans ?_) | (refine (hPort _ _ _).trans ?_)

theorem State.toPeer_frame {α : Type} (π : State → α) (hOut : KeepsOut π) (hPort : KeepsPort π) (s : State) (x : Sent) :
    π (State.toPeer s x) = π s := by
  unfold State.toPeer
  with_reducible
    repeat' first | (rfl) | (refine (State.transmit_frame π hOut hPort _ _ _ _).trans ?_)

theorem State.notifyWhere_frame {α : Type} (π : State → α) (hCqe : KeepsCqe π) (s : State) (p : Session → Bool) (ntype : Nat) (body : Bytes) :
    π (State.notifyWhere s p ntype body) = π s := by
  unfold State.notifyWhere
  with_reducible repeat' first
    | rfl
    | assumption
    | (intro)
    | refine ite_frame ?_ ?_
    | refine (hCqe _ _).trans ?_
    | refine pair_frame (by with_reducible assumption) ?_
    | split
    | (dsimp only)

theorem State.notifyAll_frame {α : Type} (π : State → α) (hCqe : KeepsCqe π) (s : State) (ntype : Nat) (body : Bytes) :
    π (State.notifyAll s ntype body) = π s := by
  unfold State.notifyAll
  with_reducible
    repeat' first | (rfl) | (refine (State.notifyWhere_frame π hCqe _ _ _ _).trans ?_)

theorem State.notifyGranted_frame {α : Type} (π : State → α) (hCqe : KeepsCqe π) (s : State) (f : Nat → VolumeRec → Bool) (ntype : Nat) (body : Bytes) :
    π (State.notifyGranted s f ntype body) = π s := by
  unfold State.notifyGranted
  with_reducible repeat' first
    | rfl
    | assumption
    | (intro)
    | refine ite_frame ?_ ?_
    | refine (State.notifyWhere_frame π hCqe _ _ _ _).trans ?_
    | refine pair_frame (by with_reducible assumption) ?_
    | split
    | (dsimp only)

theorem State.notifyPool_frame {α : Type} (π : State → α) (hCqe : KeepsCqe π) (s : State) (pool : Nat) (ntype : Nat) (body : Bytes) :
    π (State.notifyPool s pool ntype body) = π s := by
  unfold State.notifyPool
  with_reducible
    repeat' first | (rfl) | (refine (State.notifyGranted_frame π hCqe _ _ _ _).trans ?_)

theorem State.sessionViolation_frame {α : Type} (π : State → α) (hCqe : KeepsCqe π) (hSess : KeepsSess π) (hEvr : KeepsEvr π) (s : State) (code : BitVec 16) (sess : Nat) (qp : Nat) (cid : Nat) (word : Nat) :
    π (State.sessionViolation s code sess qp cid word) = π s := by
  unfold State.sessionViolation
  with_reducible
    repeat' first | (rfl) | (refine (hCqe _ _).trans ?_) | (refine (hSess _ _ _).trans ?_) | (refine (State.event_frame π hEvr _ _ _ _ _ _ _).trans ?_)

theorem State.portViolation_frame {α : Type} (π : State → α) (hPort : KeepsPort π) (hEvr : KeepsEvr π) (s : State) (p : PortId) (code : BitVec 16) (p1 : Nat) (p2 : Nat) (p3 : Nat) :
    π (State.portViolation s p code p1 p2 p3) = π s := by
  unfold State.portViolation
  with_reducible repeat' first
    | rfl
    | assumption
    | (intro)
    | refine ite_frame ?_ ?_
    | refine (hPort _ _ _).trans ?_
    | refine (State.event_frame π hEvr _ _ _ _ _ _ _).trans ?_
    | refine (State.tally_frame π hEvr _ _).trans ?_
    | refine pair_frame (by with_reducible assumption) ?_
    | split
    | (dsimp only)

theorem State.hostViolation_frame {α : Type} (π : State → α) (hFresh : KeepsFresh π) (hPort : KeepsPort π) (hEvr : KeepsEvr π) (s : State) (h : Fin 16) (code : BitVec 16) (qp : Nat) (sess : Nat) :
    π (State.hostViolation s h code qp sess) = π s := by
  unfold State.hostViolation
  with_reducible
    repeat' first | (rfl) | (refine (State.freshen_frame π hFresh _).trans ?_) | (refine (State.portViolation_frame π hPort hEvr _ _ _ _ _ _).trans ?_)

theorem State.answerTo_frame {α : Type} (π : State → α) (hOut : KeepsOut π) (hPort : KeepsPort π) (hSess : KeepsSess π) (s : State) (port : Nat) (sess : Nat) (reqId : Nat) (typ : Nat) (status : Nat) (body : Bytes) :
    π (State.answerTo s port sess reqId typ status body) = π s := by
  unfold State.answerTo
  with_reducible
    repeat' first | (rfl) | (refine (State.transmit_frame π hOut hPort _ _ _ _).trans ?_) | (refine (hSess _ _ _).trans ?_)

theorem State.answer_frame {α : Type} (π : State → α) (hOut : KeepsOut π) (hPort : KeepsPort π) (hSess : KeepsSess π) (s : State) (m : Vc3) (typ : Nat) (status : Nat) (body : Bytes) :
    π (State.answer s m typ status body) = π s := by
  unfold State.answer
  with_reducible
    repeat' first | (rfl) | (refine (State.answerTo_frame π hOut hPort hSess _ _ _ _ _ _ _).trans ?_)

theorem State.holdAnswer_frame {α : Type} (π : State → α) (hSess : KeepsSess π) (s : State) (m : Vc3) :
    π (State.holdAnswer s m) = π s := by
  unfold State.holdAnswer
  with_reducible
    repeat' first | (rfl) | (refine (hSess _ _ _).trans ?_)

theorem State.vc3_frame {α : Type} (π : State → α) (hFresh : KeepsFresh π) (hOut : KeepsOut π) (hPort : KeepsPort π) (hCqe : KeepsCqe π) (hSess : KeepsSess π) (hEvr : KeepsEvr π) (s : State) (m : Vc3) (typ : Nat) (free : Bool) (ours : Bool) (priv : Nat) (act : Session → State → State) (h_act : ∀ a0 s, π (act a0 s) = π s) :
    π (State.vc3 s m typ free ours priv act) = π s := by
  unfold State.vc3
  with_reducible repeat' first
    | rfl
    | assumption
    | (intro)
    | refine ite_frame ?_ ?_
    | refine (State.hostViolation_frame π hFresh hPort hEvr _ _ _ _ _).trans ?_
    | refine (hSess _ _ _).trans ?_
    | refine (State.freshen_frame π hFresh _).trans ?_
    | refine (State.event_frame π hEvr _ _ _ _ _ _ _).trans ?_
    | refine (State.sessionViolation_frame π hCqe hSess hEvr _ _ _ _ _ _).trans ?_
    | refine (State.answer_frame π hOut hPort hSess _ _ _ _ _).trans ?_
    | refine (h_act _ _).trans ?_
    | refine pair_frame (by with_reducible assumption) ?_
    | split
    | (dsimp only)

theorem State.registerDenied_frame {α : Type} (π : State → α) (hOut : KeepsOut π) (hPort : KeepsPort π) (hSess : KeepsSess π) (hEvr : KeepsEvr π) (s : State) (m : Vc3) (typ : Nat) (off : Nat) :
    π (State.registerDenied s m typ off) = π s := by
  unfold State.registerDenied
  with_reducible
    repeat' first | (rfl) | (refine (State.answer_frame π hOut hPort hSess _ _ _ _ _).trans ?_) | (refine (State.event_frame π hEvr _ _ _ _ _ _ _).trans ?_)

theorem State.regWrite_frame {α : Type} (π : State → α) (hFresh : KeepsFresh π) (hOut : KeepsOut π) (hPort : KeepsPort π) (hCqe : KeepsCqe π) (hSess : KeepsSess π) (hEvr : KeepsEvr π) (s : State) (m : Vc3) (off : Nat) (priv : Nat) (act : State → State) (h_act : ∀ s, π (act s) = π s) :
    π (State.regWrite s m off priv act) = π s := by
  unfold State.regWrite
  with_reducible repeat' first
    | rfl
    | assumption
    | (intro)
    | refine ite_frame ?_ ?_
    | refine (State.vc3_frame π hFresh hOut hPort hCqe hSess hEvr _ _ _ _ _ _ _ ?_).trans ?_
    | refine (State.registerDenied_frame π hOut hPort hSess hEvr _ _ _ _).trans ?_
    | refine (State.answer_frame π hOut hPort hSess _ _ _ _ _).trans ?_
    | refine (h_act _).trans ?_
    | refine pair_frame (by with_reducible assumption) ?_
    | split
    | (dsimp only)

end Sys2Proof.Machine
end

