-- ==== Sys2Proof/Laws/FrameFlags.lean ====
section
/-! SUPPORT. What the definitions of Machine/Flags.lean leave alone: a view of the state that no block they write can change reads
the same after them. -/

set_option linter.unusedSimpArgs false

namespace Sys2Proof.Machine

open Sys2Proof

theorem State.selfTestNotice_frame {α : Type} (π : State → α) (hCqe : KeepsCqe π) (s : State) :
    π (State.selfTestNotice s) = π s := by
  unfold State.selfTestNotice
  with_reducible
    repeat' first | (rfl) | (refine (State.notifyAll_frame π hCqe _ _ _).trans ?_)

theorem State.starveTest_frame {α : Type} (π : State → α) (hCqe : KeepsCqe π) (hEvr : KeepsEvr π) (s : State) :
    π (State.starveTest s) = π s := by
  unfold State.starveTest
  with_reducible repeat' first
    | rfl
    | assumption
    | (intro)
    | refine ite_frame ?_ ?_
    | refine (State.selfTestNotice_frame π hCqe _).trans ?_
    | refine (hEvr _ _).trans ?_
    | refine (State.event_frame π hEvr _ _ _ _ _ _ _).trans ?_
    | refine pair_frame (by with_reducible assumption) ?_
    | split
    | (dsimp only)

theorem State.refreshShares_frame {α : Type} (π : State → α) (hCqe : KeepsCqe π) (hDsc : KeepsDsc π) (hEvr : KeepsEvr π) (s : State) :
    π (State.refreshShares s) = π s := by
  unfold State.refreshShares
  with_reducible repeat' first
    | rfl
    | assumption
    | (intro)
    | refine ite_frame ?_ ?_
    | refine (State.starveTest_frame π hCqe hEvr _).trans ?_
    | refine (State.event_frame π hEvr _ _ _ _ _ _ _).trans ?_
    | refine (hDsc _ _).trans ?_
    | refine (foldl_frame π _ ?_ _ _).trans ?_
    | refine (foldl_frame2 π _ ?_ _ _).trans ?_
    | refine pair_frame (by with_reducible assumption) ?_
    | split
    | (dsimp only)

theorem State.health_frame {α : Type} (π : State → α) (hCqe : KeepsCqe π) (hEvr : KeepsEvr π) (hGlb : KeepsGlb π) (s : State) (cause : Nat) (inst : Nat) (value : Nat) (threshold : Nat) :
    π (State.health s cause inst value threshold) = π s := by
  unfold State.health
  with_reducible repeat' first
    | rfl
    | assumption
    | (intro)
    | refine ite_frame ?_ ?_
    | refine (hEvr _ _).trans ?_
    | refine (State.event_frame π hEvr _ _ _ _ _ _ _).trans ?_
    | refine (hGlb _ _).trans ?_
    | refine (State.notifyAll_frame π hCqe _ _ _).trans ?_
    | refine pair_frame (by with_reducible assumption) ?_
    | split
    | (dsimp only)

theorem State.judgeSpare_frame {α : Type} (π : State → α) (hCqe : KeepsCqe π) (hEvr : KeepsEvr π) (hGlb : KeepsGlb π) (s : State) (h : Half) (raw : Nat × Nat) :
    π (State.judgeSpare s h raw) = π s := by
  unfold State.judgeSpare
  with_reducible repeat' first
    | rfl
    | assumption
    | (intro)
    | refine ite_frame ?_ ?_
    | refine ite_frame2 ?_ ?_
    | refine (State.health_frame π hCqe hEvr hGlb _ _ _ _ _).trans ?_
    | refine (hEvr _ _).trans ?_
    | refine pair_frame (by with_reducible assumption) ?_
    | split
    | (dsimp only)

theorem State.judgeMeta_frame {α : Type} (π : State → α) (hFtu : KeepsFtu π) (hEvr : KeepsEvr π) (s : State) (h : Half) (raw : Nat × Nat) :
    π (State.judgeMeta s h raw) = π s := by
  unfold State.judgeMeta
  with_reducible repeat' first
    | rfl
    | assumption
    | (intro)
    | refine ite_frame ?_ ?_
    | refine (State.event_frame π hEvr _ _ _ _ _ _ _).trans ?_
    | refine (hFtu _ _).trans ?_
    | refine pair_frame (by with_reducible assumption) ?_
    | split
    | (dsimp only)

theorem State.refreshHalf_frame {α : Type} (π : State → α) (hCqe : KeepsCqe π) (hFtu : KeepsFtu π) (hEvr : KeepsEvr π) (hGlb : KeepsGlb π) (s : State) (pool : Nat) (b : Bool) :
    π (State.refreshHalf s pool b) = π s := by
  unfold State.refreshHalf
  with_reducible repeat' first
    | rfl
    | assumption
    | (intro)
    | refine ite_frame ?_ ?_
    | refine (State.judgeMeta_frame π hFtu hEvr _ _ _).trans ?_
    | refine (State.judgeSpare_frame π hCqe hEvr hGlb _ _ _).trans ?_
    | refine (State.notifyPool_frame π hCqe _ _ _ _).trans ?_
    | refine (hFtu _ _).trans ?_
    | refine (State.event_frame π hEvr _ _ _ _ _ _ _).trans ?_
    | refine (State.health_frame π hCqe hEvr hGlb _ _ _ _ _).trans ?_
    | refine pair_frame (by with_reducible assumption) ?_
    | split
    | (dsimp only)

theorem State.refreshPools_frame {α : Type} (π : State → α) (hCqe : KeepsCqe π) (hDsc : KeepsDsc π) (hFtu : KeepsFtu π) (hEvr : KeepsEvr π) (hGlb : KeepsGlb π) (s : State) :
    π (State.refreshPools s) = π s := by
  unfold State.refreshPools
  with_reducible repeat' first
    | rfl
    | assumption
    | (intro)
    | refine (State.refreshShares_frame π hCqe hDsc hEvr _).trans ?_
    | refine (State.refreshHalf_frame π hCqe hFtu hEvr hGlb _ _ _).trans ?_
    | refine (foldl_frame π _ ?_ _ _).trans ?_
    | refine (foldl_frame2 π _ ?_ _ _).trans ?_
    | refine pair_frame (by with_reducible assumption) ?_
    | split
    | (dsimp only)

end Sys2Proof.Machine
end

