-- ==== Sys2Proof/Laws/FrameMap.lean ====
section
/-! SUPPORT. What the definitions of Machine/Map.lean leave alone: a view of the state that no block they write can change reads
the same after them. -/

set_option linter.unusedSimpArgs false

namespace Sys2Proof.Machine

open Sys2Proof

theorem State.putEntry_frame {α : Type} (π : State → α) (hFtu : KeepsFtu π) (s : State) (v : Nat) (grain : Nat) (ve : Nat) (e : MapEntry) :
    π (State.putEntry s v grain ve e) = π s := by
  unfold State.putEntry
  with_reducible repeat' first
    | rfl
    | assumption
    | (intro)
    | refine ite_frame ?_ ?_
    | refine (hFtu _ _).trans ?_
    | refine pair_frame (by with_reducible assumption) ?_
    | split
    | (dsimp only)

theorem State.lostNotice_frame {α : Type} (π : State → α) (hCqe : KeepsCqe π) (s : State) (v : Nat) (grain : Nat) (cause : Nat) :
    π (State.lostNotice s v grain cause) = π s := by
  unfold State.lostNotice
  with_reducible repeat' first
    | rfl
    | assumption
    | (intro)
    | refine ite_frame ?_ ?_
    | refine ite_frame2 ?_ ?_
    | refine (State.notifyGranted_frame π hCqe _ _ _ _).trans ?_
    | refine pair_frame (by with_reducible assumption) ?_
    | split
    | (dsimp only)

theorem State.loseGrain_frame {α : Type} (π : State → α) (hCqe : KeepsCqe π) (hDxu : KeepsDxu π) (hFtu : KeepsFtu π) (hPxe : KeepsPxe π) (hEvr : KeepsEvr π) (s : State) (v : Nat) (grain : Nat) (evCause : Nat) (noticeCause : Nat) :
    π (State.loseGrain s v grain evCause noticeCause) = π s := by
  unfold State.loseGrain
  with_reducible repeat' first
    | rfl
    | assumption
    | (intro)
    | refine ite_frame ?_ ?_
    | refine ite_frame2 ?_ ?_
    | refine (hFtu _ _).trans ?_
    | refine (State.putEntry_frame π hFtu _ _ _ _ _).trans ?_
    | refine (hDxu _ _).trans ?_
    | refine (hPxe _ _ ?_).trans ?_
    | refine (State.lostNotice_frame π hCqe _ _ _ _).trans ?_
    | refine (State.event_frame π hEvr _ _ _ _ _ _ _).trans ?_
    | refine (foldl_frame π _ ?_ _ _).trans ?_
    | refine (foldl_frame2 π _ ?_ _ _).trans ?_
    | refine pair_frame (by with_reducible assumption) ?_
    | split
    | (dsimp only)

theorem State.mapFaultAt_frame {α : Type} (π : State → α) (hCqe : KeepsCqe π) (hDxu : KeepsDxu π) (hFtu : KeepsFtu π) (hPxe : KeepsPxe π) (hEvr : KeepsEvr π) (s : State) (v : Nat) (grain : Nat) (cause : Nat) :
    π (State.mapFaultAt s v grain cause) = π s := by
  unfold State.mapFaultAt
  with_reducible
    repeat' first | (rfl) | (refine (State.loseGrain_frame π hCqe hDxu hFtu hPxe hEvr _ _ _ _ _).trans ?_) | (refine (State.event_frame π hEvr _ _ _ _ _ _ _).trans ?_)

end Sys2Proof.Machine
end

