-- ==== Sys2Proof/Laws/FrameDigest.lean ====
section
/-! SUPPORT. What the definitions of Machine/Digest.lean leave alone: a view of the state that no block they write can change reads
the same after them. -/

set_option linter.unusedSimpArgs false

namespace Sys2Proof.Machine

open Sys2Proof

theorem State.dgeFail_frame {α : Type} (π : State → α) (hDge : KeepsDge π) (hEvr : KeepsEvr π) (s : State) (n : Nat) (err : Nat) :
    π (State.dgeFail s n err) = π s := by
  unfold State.dgeFail
  with_reducible
    repeat' first | (rfl) | (refine (hDge _ _).trans ?_) | (refine (State.event_frame π hEvr _ _ _ _ _ _ _).trans ?_)

theorem execDgeCtxOpen_frame {α : Type} (π : State → α) (hDge : KeepsDge π) (hEvr : KeepsEvr π) (ctx : Fin 128) (user : Byte) (alg : Byte) (key : Option Nat) (declared : Nat) (expected : Option Bytes) (snoop : Bool) (s : State) :
    ∃ s', execDgeCtxOpen ctx user alg key declared expected snoop s = .next s' ∧ π s' = π s := by
  unfold execDgeCtxOpen
  with_reducible repeat' first
    | rfl
    | assumption
    | (intro)
    | refine ite_frame ?_ ?_
    | refine (hDge _ _).trans ?_
    | refine (State.dgeFail_frame π hDge hEvr _ _ _).trans ?_
    | refine ⟨_, rfl, ?_⟩
    | refine pair_frame (by with_reducible assumption) ?_
    | split
    | (dsimp only)

theorem execDgeCtxFeed_frame {α : Type} (π : State → α) (hDge : KeepsDge π) (hEvr : KeepsEvr π) (ctx : Fin 128) (seg : Bytes) (s : State) :
    ∃ s', execDgeCtxFeed ctx seg s = .next s' ∧ π s' = π s := by
  unfold execDgeCtxFeed
  with_reducible repeat' first
    | rfl
    | assumption
    | (intro)
    | refine ite_frame ?_ ?_
    | refine (State.dgeFail_frame π hDge hEvr _ _ _).trans ?_
    | refine (hDge _ _).trans ?_
    | refine ⟨_, rfl, ?_⟩
    | refine pair_frame (by with_reducible assumption) ?_
    | split
    | (dsimp only)

theorem execDgeCtxFinal_frame {α : Type} (π : State → α) (hDge : KeepsDge π) (hEvr : KeepsEvr π) (ctx : Fin 128) (s : State) :
    ∃ s', execDgeCtxFinal ctx s = .next s' ∧ π s' = π s := by
  unfold execDgeCtxFinal
  with_reducible repeat' first
    | rfl
    | assumption
    | (intro)
    | refine ite_frame ?_ ?_
    | refine (State.dgeFail_frame π hDge hEvr _ _ _).trans ?_
    | refine (hDge _ _).trans ?_
    | refine ⟨_, rfl, ?_⟩
    | refine pair_frame (by with_reducible assumption) ?_
    | split
    | (dsimp only)

theorem execDgeCtxRelease_frame {α : Type} (π : State → α) (hDge : KeepsDge π) (ctx : Fin 128) (s : State) :
    ∃ s', execDgeCtxRelease ctx s = .next s' ∧ π s' = π s := by
  unfold execDgeCtxRelease
  with_reducible repeat' first
    | rfl
    | assumption
    | (intro)
    | refine ite_frame ?_ ?_
    | refine (hDge _ _).trans ?_
    | refine ⟨_, rfl, ?_⟩
    | refine pair_frame (by with_reducible assumption) ?_
    | split
    | (dsimp only)

theorem execDgeFeedTimeout_frame {α : Type} (π : State → α) (hDt : KeepsDt π) (hDge : KeepsDge π) (hEvr : KeepsEvr π) (ctx : Fin 128) (s : State) :
    ∃ s', execDgeFeedTimeout ctx s = .next s' ∧ π s' = π s := by
  unfold execDgeFeedTimeout
  with_reducible repeat' first
    | rfl
    | assumption
    | (intro)
    | refine ite_frame ?_ ?_
    | refine (State.dgeFail_frame π hDge hEvr _ _ _).trans ?_
    | refine (State.advanceTo_frame π hDt _ _).trans ?_
    | refine ⟨_, rfl, ?_⟩
    | refine pair_frame (by with_reducible assumption) ?_
    | split
    | (dsimp only)

theorem execDgeBlockBoundary_frame {α : Type} (π : State → α) (hDge : KeepsDge π) (lane : Fin 32) (s : State) :
    ∃ s', execDgeBlockBoundary lane s = .next s' ∧ π s' = π s := by
  unfold execDgeBlockBoundary
  with_reducible repeat' first
    | rfl
    | assumption
    | (intro)
    | refine ite_frame ?_ ?_
    | refine ite_frame2 ?_ ?_
    | refine (hDge _ _).trans ?_
    | refine (foldl_frame π _ ?_ _ _).trans ?_
    | refine (foldl_frame2 π _ ?_ _ _).trans ?_
    | refine ⟨_, rfl, ?_⟩
    | refine pair_frame (by with_reducible assumption) ?_
    | split
    | (dsimp only)

theorem State.dgeKeyGone_frame {α : Type} (π : State → α) (hDge : KeepsDge π) (hEvr : KeepsEvr π) (s : State) (keep : Nat → Bool) :
    π (State.dgeKeyGone s keep) = π s := by
  unfold State.dgeKeyGone
  with_reducible repeat' first
    | rfl
    | assumption
    | (intro)
    | refine ite_frame ?_ ?_
    | refine (State.dgeFail_frame π hDge hEvr _ _ _).trans ?_
    | refine (foldl_frame π _ ?_ _ _).trans ?_
    | refine (foldl_frame2 π _ ?_ _ _).trans ?_
    | refine pair_frame (by with_reducible assumption) ?_
    | split
    | (dsimp only)

theorem State.dgePurge_frame {α : Type} (π : State → α) (hDge : KeepsDge π) (hEvr : KeepsEvr π) (s : State) :
    π (State.dgePurge s) = π s := by
  unfold State.dgePurge
  with_reducible
    repeat' first | (rfl) | (refine (State.dgeKeyGone_frame π hDge hEvr _ _).trans ?_) | (refine (hDge _ _).trans ?_)

theorem State.snoopStage_frame {α : Type} (π : State → α) (hDge : KeepsDge π) (s : State) (qp : Nat) (cid : Nat) (grain : Nat) :
    π (State.snoopStage s qp cid grain) = π s := by
  unfold State.snoopStage
  with_reducible repeat' first
    | rfl
    | assumption
    | (intro)
    | refine ite_frame ?_ ?_
    | refine (hDge _ _).trans ?_
    | refine pair_frame (by with_reducible assumption) ?_
    | split
    | (dsimp only)

theorem State.snoopDrop_frame {α : Type} (π : State → α) (hDge : KeepsDge π) (s : State) (qp : Nat) (cid : Nat) :
    π (State.snoopDrop s qp cid) = π s := by
  unfold State.snoopDrop
  with_reducible
    repeat' first | (rfl) | (refine (hDge _ _).trans ?_)

end Sys2Proof.Machine
end

