-- ==== Sys2Proof/Laws/FrameDedup.lean ====
section
/-! SUPPORT. What the definitions of Machine/Dedup.lean leave alone: a view of the state that no block they write can change reads
the same after them. -/

set_option linter.unusedSimpArgs false

namespace Sys2Proof.Machine

open Sys2Proof

theorem State.modDomain_frame {α : Type} (π : State → α) (hDxu : KeepsDxu π) (s : State) (n : Nat) (f : Domain → Domain) :
    π (State.modDomain s n f) = π s := by
  unfold State.modDomain
  with_reducible
    repeat' first | (rfl) | (refine (hDxu _ _).trans ?_)

theorem State.domNotice_frame {α : Type} (π : State → α) (hCqe : KeepsCqe π) (s : State) (n : Nat) (cause : Nat) :
    π (State.domNotice s n cause) = π s := by
  unfold State.domNotice
  with_reducible repeat' first
    | rfl
    | assumption
    | (intro)
    | refine ite_frame ?_ ?_
    | refine (State.notifyGranted_frame π hCqe _ _ _ _).trans ?_
    | refine pair_frame (by with_reducible assumption) ?_
    | split
    | (dsimp only)

theorem State.setDomain_frame {α : Type} (π : State → α) (hCqe : KeepsCqe π) (hDxu : KeepsDxu π) (hEvr : KeepsEvr π) (s : State) (n : Nat) (st : DomSt) (cause : Nat) :
    π (State.setDomain s n st cause) = π s := by
  unfold State.setDomain
  with_reducible repeat' first
    | rfl
    | assumption
    | (intro)
    | refine ite_frame ?_ ?_
    | refine (State.domNotice_frame π hCqe _ _ _).trans ?_
    | refine (State.modDomain_frame π hDxu _ _ _).trans ?_
    | refine (State.event_frame π hEvr _ _ _ _ _ _ _).trans ?_
    | refine pair_frame (by with_reducible assumption) ?_
    | split
    | (dsimp only)

theorem State.sendSlots_frame {α : Type} (π : State → α) (hOut : KeepsOut π) (hPort : KeepsPort π) (hDxu : KeepsDxu π) (hEvr : KeepsEvr π) (s : State) (n : Nat) (x0 : List SlotWrite) :
    π (State.sendSlots s n x0) = π s := by
  induction x0 generalizing s n with
  | nil => rfl
  | cons w ws ih =>
    unfold State.sendSlots
    with_reducible repeat' first
      | rfl
      | assumption
      | (intro)
      | refine (ih _ _).trans ?_
      | refine ite_frame ?_ ?_
      | refine ite_frame2 ?_ ?_
      | refine (State.toPeer_frame π hOut hPort _ _).trans ?_
      | refine (State.modDomain_frame π hDxu _ _ _).trans ?_
      | refine (State.event_frame π hEvr _ _ _ _ _ _ _).trans ?_
      | refine pair_frame (by with_reducible assumption) ?_
      | split
      | (dsimp only)

theorem State.flushSlots_frame {α : Type} (π : State → α) (hOut : KeepsOut π) (hPort : KeepsPort π) (hDxu : KeepsDxu π) (s : State) :
    π (State.flushSlots s) = π s := by
  unfold State.flushSlots
  with_reducible repeat' first
    | rfl
    | assumption
    | (intro)
    | refine (State.toPeer_frame π hOut hPort _ _).trans ?_
    | refine (State.modDomain_frame π hDxu _ _ _).trans ?_
    | refine (foldl_frame π _ ?_ _ _).trans ?_
    | refine (foldl_frame2 π _ ?_ _ _).trans ?_
    | refine pair_frame (by with_reducible assumption) ?_
    | split
    | (dsimp only)

theorem State.dropGeneration_frame {α : Type} (π : State → α) (hOut : KeepsOut π) (hPort : KeepsPort π) (hCqe : KeepsCqe π) (hDxu : KeepsDxu π) (hFtu : KeepsFtu π) (hEvr : KeepsEvr π) (s : State) (n : Nat) :
    π (State.dropGeneration s n) = π s := by
  unfold State.dropGeneration
  with_reducible repeat' first
    | rfl
    | assumption
    | (intro)
    | refine ite_frame ?_ ?_
    | refine ite_frame2 ?_ ?_
    | refine (State.modDomain_frame π hDxu _ _ _).trans ?_
    | refine (hFtu _ _).trans ?_
    | refine (State.domNotice_frame π hCqe _ _ _).trans ?_
    | refine (State.sendSlots_frame π hOut hPort hDxu hEvr _ _ _).trans ?_
    | refine (State.event_frame π hEvr _ _ _ _ _ _ _).trans ?_
    | refine (foldl_frame π _ ?_ _ _).trans ?_
    | refine (foldl_frame2 π _ ?_ _ _).trans ?_
    | refine pair_frame (by with_reducible assumption) ?_
    | split
    | (dsimp only)

theorem State.countUnique_frame {α : Type} (π : State → α) (hOut : KeepsOut π) (hPort : KeepsPort π) (hCqe : KeepsCqe π) (hDxu : KeepsDxu π) (hFtu : KeepsFtu π) (hEvr : KeepsEvr π) (s : State) (n : Nat) :
    π (State.countUnique s n) = π s := by
  unfold State.countUnique
  with_reducible repeat' first
    | rfl
    | assumption
    | (intro)
    | refine ite_frame ?_ ?_
    | refine (State.modDomain_frame π hDxu _ _ _).trans ?_
    | refine (State.dropGeneration_frame π hOut hPort hCqe hDxu hFtu hEvr _ _).trans ?_
    | refine pair_frame (by with_reducible assumption) ?_
    | split
    | (dsimp only)

theorem State.dxuInsert_frame {α : Type} (π : State → α) (hFresh : KeepsFresh π) (hOut : KeepsOut π) (hPort : KeepsPort π) (hCqe : KeepsCqe π) (hDxu : KeepsDxu π) (hFtu : KeepsFtu π) (hEvr : KeepsEvr π) (s : State) (n : Nat) (fp : Bytes) (loc : MapEntry) (serial : Nat) (ocrc : Word) (noInsert : Bool) :
    π (State.dxuInsert s n fp loc serial ocrc noInsert) = π s := by
  unfold State.dxuInsert
  with_reducible repeat' first
    | rfl
    | assumption
    | (intro)
    | refine ite_frame ?_ ?_
    | refine ite_frame2 ?_ ?_
    | refine (State.countUnique_frame π hOut hPort hCqe hDxu hFtu hEvr _ _).trans ?_
    | refine (State.modDomain_frame π hDxu _ _ _).trans ?_
    | refine (hFresh _ _).trans ?_
    | refine (State.sendSlots_frame π hOut hPort hDxu hEvr _ _ _).trans ?_
    | refine pair_frame (by with_reducible assumption) ?_
    | split
    | (dsimp only)

theorem State.takeRef_frame {α : Type} (π : State → α) (hDxu : KeepsDxu π) (s : State) (n : Nat) (x : IdxEntry) :
    π (State.takeRef s n x) = π s := by
  unfold State.takeRef
  with_reducible repeat' first
    | rfl
    | assumption
    | (intro)
    | refine ite_frame ?_ ?_
    | refine (State.modDomain_frame π hDxu _ _ _).trans ?_
    | refine pair_frame (by with_reducible assumption) ?_
    | split
    | (dsimp only)

theorem State.dropRef_frame {α : Type} (π : State → α) (hDxu : KeepsDxu π) (s : State) (old : MapEntry) :
    π (State.dropRef s old) = π s := by
  unfold State.dropRef
  with_reducible repeat' first
    | rfl
    | assumption
    | (intro)
    | refine ite_frame ?_ ?_
    | refine ite_frame2 ?_ ?_
    | refine (hDxu _ _).trans ?_
    | refine pair_frame (by with_reducible assumption) ?_
    | split
    | (dsimp only)

theorem State.dedup_frame {α : Type} (π : State → α) (hDxu : KeepsDxu π) (hEvr : KeepsEvr π) (s : State) (n : Nat) (fp : Bytes) (ocrc : Word) (same : IdxEntry → Bool) :
    π (State.dedup s n fp ocrc same).2 = π s := by
  unfold State.dedup
  with_reducible repeat' first
    | rfl
    | assumption
    | (intro)
    | refine ite_frame ?_ ?_
    | refine ite_frame2 ?_ ?_
    | refine (State.modDomain_frame π hDxu _ _ _).trans ?_
    | refine (State.event_frame π hEvr _ _ _ _ _ _ _).trans ?_
    | refine pair_frame (by with_reducible assumption) ?_
    | split
    | (dsimp only)

theorem State.loseIndexPage_frame {α : Type} (π : State → α) (hCqe : KeepsCqe π) (hDxu : KeepsDxu π) (hEvr : KeepsEvr π) (s : State) (n : Nat) (page : Nat) :
    π (State.loseIndexPage s n page) = π s := by
  unfold State.loseIndexPage
  with_reducible
    repeat' first | (rfl) | (refine (State.domNotice_frame π hCqe _ _ _).trans ?_) | (refine (State.modDomain_frame π hDxu _ _ _).trans ?_) | (refine (State.event_frame π hEvr _ _ _ _ _ _ _).trans ?_)

theorem State.applySlot_frame {α : Type} (π : State → α) (hCqe : KeepsCqe π) (hDxu : KeepsDxu π) (hEvr : KeepsEvr π) (s : State) (n : Nat) (bucket : Nat) (slot : Nat) (tag : Nat) (iseq : Nat) :
    π (State.applySlot s n bucket slot tag iseq) = π s := by
  unfold State.applySlot
  with_reducible repeat' first
    | rfl
    | assumption
    | (intro)
    | refine ite_frame ?_ ?_
    | refine (State.modDomain_frame π hDxu _ _ _).trans ?_
    | refine (State.setDomain_frame π hCqe hDxu hEvr _ _ _ _).trans ?_
    | refine pair_frame (by with_reducible assumption) ?_
    | split
    | (dsimp only)

theorem State.dxuCompareFault_frame {α : Type} (π : State → α) (hDxu : KeepsDxu π) (hEvr : KeepsEvr π) (s : State) (n : Nat) (word : Nat) :
    π (State.dxuCompareFault s n word) = π s := by
  unfold State.dxuCompareFault
  with_reducible
    repeat' first | (rfl) | (refine (hDxu _ _).trans ?_) | (refine (State.event_frame π hEvr _ _ _ _ _ _ _).trans ?_)

theorem State.dedupWindows_frame {α : Type} (π : State → α) (hCqe : KeepsCqe π) (hDge : KeepsDge π) (hDxu : KeepsDxu π) (hEvr : KeepsEvr π) (s : State) :
    π (State.dedupWindows s) = π s := by
  unfold State.dedupWindows
  with_reducible repeat' first
    | rfl
    | assumption
    | (intro)
    | refine ite_frame ?_ ?_
    | refine ite_frame2 ?_ ?_
    | refine (State.domNotice_frame π hCqe _ _ _).trans ?_
    | refine (State.modDomain_frame π hDxu _ _ _).trans ?_
    | refine (State.event_frame π hEvr _ _ _ _ _ _ _).trans ?_
    | refine (hDge _ _).trans ?_
    | refine (foldl_frame π _ ?_ _ _).trans ?_
    | refine (foldl_frame2 π _ ?_ _ _).trans ?_
    | refine pair_frame (by with_reducible assumption) ?_
    | split
    | (dsimp only)

end Sys2Proof.Machine
end

