-- ==== Sys2Proof/Laws/FrameFrames.lean ====
section
/-! SUPPORT. What the definitions of Machine/Frames.lean leave alone: a view of the state that no block they write can change reads
the same after them. -/

set_option linter.unusedSimpArgs false

namespace Sys2Proof.Machine

open Sys2Proof

theorem State.freeFrames_frame {α : Type} (π : State → α) (hWc : KeepsWc π) (s : State) (c : Cmd) :
    π (State.freeFrames s c) = π s := by
  unfold State.freeFrames
  with_reducible repeat' first
    | rfl
    | assumption
    | (intro)
    | refine ite_frame ?_ ?_
    | refine ite_frame2 ?_ ?_
    | refine (hWc _ _).trans ?_
    | refine (foldl_frame π _ ?_ _ _).trans ?_
    | refine (foldl_frame2 π _ ?_ _ _).trans ?_
    | refine pair_frame (by with_reducible assumption) ?_
    | split
    | (dsimp only)

theorem State.adoptMirror_frame {α : Type} (π : State → α) (hWc : KeepsWc π) (s : State) :
    π (State.adoptMirror s) = π s := by
  unfold State.adoptMirror
  with_reducible repeat' first
    | rfl
    | assumption
    | (intro)
    | refine (hWc _ _).trans ?_
    | refine (foldl_frame π _ ?_ _ _).trans ?_
    | refine (foldl_frame2 π _ ?_ _ _).trans ?_
    | refine pair_frame (by with_reducible assumption) ?_
    | split
    | (dsimp only)

theorem State.setMirror_frame {α : Type} (π : State → α) (hWc : KeepsWc π) (hEvr : KeepsEvr π) (s : State) (m : MirrorSt) (cause : Nat) :
    π (State.setMirror s m cause) = π s := by
  unfold State.setMirror
  with_reducible repeat' first
    | rfl
    | assumption
    | (intro)
    | refine ite_frame ?_ ?_
    | refine (hWc _ _).trans ?_
    | refine (State.event_frame π hEvr _ _ _ _ _ _ _).trans ?_
    | refine pair_frame (by with_reducible assumption) ?_
    | split
    | (dsimp only)

end Sys2Proof.Machine
end

