-- ==== Sys2Proof/Laws/FrameOutcome.lean ====
section
/-! SUPPORT. What the definitions of Machine/Outcome.lean leave alone: a view of the state that no block they write can change reads
the same after them. -/

set_option linter.unusedSimpArgs false

namespace Sys2Proof.Machine

open Sys2Proof

theorem State.modCmd_frame {α : Type} (π : State → α) (hCqe : KeepsCqe π) (s : State) (qp : Nat) (cid : Nat) (f : Cmd → Cmd) :
    π (State.modCmd s qp cid f) = π s := by
  unfold State.modCmd
  with_reducible repeat' first
    | rfl
    | assumption
    | (intro)
    | refine ite_frame ?_ ?_
    | refine (hCqe _ _).trans ?_
    | refine pair_frame (by with_reducible assumption) ?_
    | split
    | (dsimp only)

theorem State.dropCmd_frame {α : Type} (π : State → α) (hCqe : KeepsCqe π) (s : State) (qp : Nat) (cid : Nat) :
    π (State.dropCmd s qp cid) = π s := by
  unfold State.dropCmd
  with_reducible
    repeat' first | (rfl) | (refine (hCqe _ _).trans ?_)

theorem State.drainCid_frame {α : Type} (π : State → α) (hCqe : KeepsCqe π) (s : State) (qp : Nat) (cid : Nat) :
    π (State.drainCid s qp cid) = π s := by
  unfold State.drainCid
  with_reducible repeat' first
    | rfl
    | assumption
    | (intro)
    | refine ite_frame ?_ ?_
    | refine (hCqe _ _).trans ?_
    | refine pair_frame (by with_reducible assumption) ?_
    | split
    | (dsimp only)

theorem State.unstage_frame {α : Type} (π : State → α) (hSlc : KeepsSlc π) (s : State) (qp : Nat) (cid : Nat) :
    π (State.unstage s qp cid) = π s := by
  unfold State.unstage
  with_reducible
    repeat' first | (rfl) | (refine (hSlc _ _).trans ?_)

theorem State.letGo_frame {α : Type} (π : State → α) (hDge : KeepsDge π) (hCpe : KeepsCpe π) (hFtu : KeepsFtu π) (hSlc : KeepsSlc π) (s : State) (c : Cmd) :
    π (State.letGo s c) = π s := by
  unfold State.letGo
  with_reducible
    repeat' first | (rfl) | (refine (hCpe _ _).trans ?_) | (refine (hFtu _ _).trans ?_) | (refine (State.unstage_frame π hSlc _ _ _).trans ?_) | (refine (State.snoopDrop_frame π hDge _ _ _).trans ?_)

theorem State.settleSession_frame {α : Type} (π : State → α) (hOut : KeepsOut π) (hPort : KeepsPort π) (hCqe : KeepsCqe π) (hEvr : KeepsEvr π) (s : State) (n : Nat) :
    π (State.settleSession s n) = π s := by
  unfold State.settleSession
  with_reducible repeat' first
    | rfl
    | assumption
    | (intro)
    | refine ite_frame ?_ ?_
    | refine ite_frame2 ?_ ?_
    | refine (State.event_frame π hEvr _ _ _ _ _ _ _).trans ?_
    | refine (State.transmit_frame π hOut hPort _ _ _ _).trans ?_
    | refine (hCqe _ _).trans ?_
    | refine (foldl_frame π _ ?_ _ _).trans ?_
    | refine (foldl_frame2 π _ ?_ _ _).trans ?_
    | refine pair_frame (by with_reducible assumption) ?_
    | split
    | (dsimp only)

theorem State.deliver_frame {α : Type} (π : State → α) (hOut : KeepsOut π) (hPort : KeepsPort π) (hCqe : KeepsCqe π) (hEvr : KeepsEvr π) (s : State) (c : Cmd) (k : Completion) :
    π (State.deliver s c k) = π s := by
  unfold State.deliver
  with_reducible repeat' first
    | rfl
    | assumption
    | (intro)
    | refine ite_frame ?_ ?_
    | refine (State.transmit_frame π hOut hPort _ _ _ _).trans ?_
    | refine (State.dropCmd_frame π hCqe _ _ _).trans ?_
    | refine (hCqe _ _).trans ?_
    | refine (State.modCmd_frame π hCqe _ _ _ _).trans ?_
    | refine (State.settleSession_frame π hOut hPort hCqe hEvr _ _).trans ?_
    | refine pair_frame (by with_reducible assumption) ?_
    | split
    | (dsimp only)

theorem State.answerAborts_frame {α : Type} (π : State → α) (hOut : KeepsOut π) (hPort : KeepsPort π) (hCqe : KeepsCqe π) (hEvr : KeepsEvr π) (s : State) (ws : List (Nat × Nat)) (outcome : Nat) :
    π (State.answerAborts s ws outcome) = π s := by
  unfold State.answerAborts
  with_reducible repeat' first
    | rfl
    | assumption
    | (intro)
    | refine ite_frame ?_ ?_
    | refine (State.deliver_frame π hOut hPort hCqe hEvr _ _ _).trans ?_
    | refine (foldl_frame π _ ?_ _ _).trans ?_
    | refine (foldl_frame2 π _ ?_ _ _).trans ?_
    | refine pair_frame (by with_reducible assumption) ?_
    | split
    | (dsimp only)

theorem State.finish_frame {α : Type} (π : State → α) (hOut : KeepsOut π) (hPort : KeepsPort π) (hCqe : KeepsCqe π) (hDge : KeepsDge π) (hCpe : KeepsCpe π) (hFtu : KeepsFtu π) (hSlc : KeepsSlc π) (hEvr : KeepsEvr π) (s : State) (c : Cmd) (k : Completion) :
    π (State.finish s c k) = π s := by
  unfold State.finish
  with_reducible repeat' first
    | rfl
    | assumption
    | (intro)
    | refine ite_frame ?_ ?_
    | refine (State.answerAborts_frame π hOut hPort hCqe hEvr _ _ _).trans ?_
    | refine (State.deliver_frame π hOut hPort hCqe hEvr _ _ _).trans ?_
    | refine (State.letGo_frame π hDge hCpe hFtu hSlc _ _).trans ?_
    | refine pair_frame (by with_reducible assumption) ?_
    | split
    | (dsimp only)

theorem State.endUncommitted_frame {α : Type} (π : State → α) (hOut : KeepsOut π) (hPort : KeepsPort π) (hCqe : KeepsCqe π) (hWc : KeepsWc π) (hDge : KeepsDge π) (hCpe : KeepsCpe π) (hFtu : KeepsFtu π) (hSlc : KeepsSlc π) (hEvr : KeepsEvr π) (s : State) (c : Cmd) (k : Completion) (untilDt : Nat) :
    π (State.endUncommitted s c k untilDt) = π s := by
  unfold State.endUncommitted
  with_reducible repeat' first
    | rfl
    | assumption
    | (intro)
    | refine ite_frame ?_ ?_
    | refine ite_frame2 ?_ ?_
    | refine (State.freeFrames_frame π hWc _ _).trans ?_
    | refine (State.letGo_frame π hDge hCpe hFtu hSlc _ _).trans ?_
    | refine (hFtu _ _).trans ?_
    | refine (State.drainCid_frame π hCqe _ _ _).trans ?_
    | refine (State.toPeer_frame π hOut hPort _ _).trans ?_
    | refine (State.modCmd_frame π hCqe _ _ _ _).trans ?_
    | refine (State.finish_frame π hOut hPort hCqe hDge hCpe hFtu hSlc hEvr _ _ _).trans ?_
    | refine (foldl_frame π _ ?_ _ _).trans ?_
    | refine (foldl_frame2 π _ ?_ _ _).trans ?_
    | refine pair_frame (by with_reducible assumption) ?_
    | split
    | (dsimp only)

theorem State.failCmd_frame {α : Type} (π : State → α) (hOut : KeepsOut π) (hPort : KeepsPort π) (hCqe : KeepsCqe π) (hWc : KeepsWc π) (hDge : KeepsDge π) (hCpe : KeepsCpe π) (hFtu : KeepsFtu π) (hSlc : KeepsSlc π) (hEvr : KeepsEvr π) (s : State) (c : Cmd) (status : Nat) :
    π (State.failCmd s c status) = π s := by
  unfold State.failCmd
  with_reducible
    repeat' first | (rfl) | (refine (State.endUncommitted_frame π hOut hPort hCqe hWc hDge hCpe hFtu hSlc hEvr _ _ _ _).trans ?_)

theorem State.failRetry_frame {α : Type} (π : State → α) (hOut : KeepsOut π) (hPort : KeepsPort π) (hCqe : KeepsCqe π) (hWc : KeepsWc π) (hDge : KeepsDge π) (hCpe : KeepsCpe π) (hFtu : KeepsFtu π) (hSlc : KeepsSlc π) (hEvr : KeepsEvr π) (s : State) (c : Cmd) (status : Nat) (retry : Nat) :
    π (State.failRetry s c status retry) = π s := by
  unfold State.failRetry
  with_reducible
    repeat' first | (rfl) | (refine (State.endUncommitted_frame π hOut hPort hCqe hWc hDge hCpe hFtu hSlc hEvr _ _ _ _).trans ?_)

theorem State.sendAbort_frame {α : Type} (π : State → α) (hOut : KeepsOut π) (hPort : KeepsPort π) (s : State) (c : Cmd) :
    π (State.sendAbort s c) = π s := by
  unfold State.sendAbort
  with_reducible
    repeat' first | (rfl) | (refine (State.transmit_frame π hOut hPort _ _ _ _).trans ?_)

theorem State.endEarly_frame {α : Type} (π : State → α) (hOut : KeepsOut π) (hPort : KeepsPort π) (hCqe : KeepsCqe π) (hWc : KeepsWc π) (hDge : KeepsDge π) (hCpe : KeepsCpe π) (hFtu : KeepsFtu π) (hSlc : KeepsSlc π) (hEvr : KeepsEvr π) (s : State) (c : Cmd) (status : Nat) :
    π (State.endEarly s c status) = π s := by
  unfold State.endEarly
  with_reducible repeat' first
    | rfl
    | assumption
    | (intro)
    | refine ite_frame ?_ ?_
    | refine (State.modCmd_frame π hCqe _ _ _ _).trans ?_
    | refine (State.sendAbort_frame π hOut hPort _ _).trans ?_
    | refine (State.failCmd_frame π hOut hPort hCqe hWc hDge hCpe hFtu hSlc hEvr _ _ _).trans ?_
    | refine pair_frame (by with_reducible assumption) ?_
    | split
    | (dsimp only)

theorem State.abortCmd_frame {α : Type} (π : State → α) (hOut : KeepsOut π) (hPort : KeepsPort π) (hCqe : KeepsCqe π) (hWc : KeepsWc π) (hDge : KeepsDge π) (hCpe : KeepsCpe π) (hFtu : KeepsFtu π) (hSlc : KeepsSlc π) (hEvr : KeepsEvr π) (s : State) (c : Cmd) (aborter : Nat × Nat) :
    π (State.abortCmd s c aborter) = π s := by
  unfold State.abortCmd
  with_reducible repeat' first
    | rfl
    | assumption
    | (intro)
    | refine ite_frame ?_ ?_
    | refine ite_frame2 ?_ ?_
    | refine (State.deliver_frame π hOut hPort hCqe hEvr _ _ _).trans ?_
    | refine (State.modCmd_frame π hCqe _ _ _ _).trans ?_
    | refine (State.endUncommitted_frame π hOut hPort hCqe hWc hDge hCpe hFtu hSlc hEvr _ _ _ _).trans ?_
    | refine pair_frame (by with_reducible assumption) ?_
    | split
    | (dsimp only)

theorem State.endSession_frame {α : Type} (π : State → α) (hOut : KeepsOut π) (hLink : KeepsLink π) (hPort : KeepsPort π) (hCqe : KeepsCqe π) (hSess : KeepsSess π) (hWc : KeepsWc π) (hDge : KeepsDge π) (hCpe : KeepsCpe π) (hFtu : KeepsFtu π) (hSlc : KeepsSlc π) (hEvr : KeepsEvr π) (s : State) (n : Nat) (cause : Nat) :
    π (State.endSession s n cause) = π s := by
  unfold State.endSession
  with_reducible repeat' first
    | rfl
    | assumption
    | (intro)
    | refine ite_frame ?_ ?_
    | refine ite_frame2 ?_ ?_
    | refine (hSess _ _ _).trans ?_
    | refine (hCqe _ _).trans ?_
    | refine (State.dropCmd_frame π hCqe _ _ _).trans ?_
    | refine (State.endEarly_frame π hOut hPort hCqe hWc hDge hCpe hFtu hSlc hEvr _ _ _).trans ?_
    | refine (hLink _ _ ?_).trans ?_
    | refine (State.settleSession_frame π hOut hPort hCqe hEvr _ _).trans ?_
    | refine (foldl_frame π _ ?_ _ _).trans ?_
    | refine (foldl_frame2 π _ ?_ _ _).trans ?_
    | refine pair_frame (by with_reducible assumption) ?_
    | split
    | (dsimp only)

theorem State.sendOne_frame {α : Type} (π : State → α) (hCqe : KeepsCqe π) (hDsc : KeepsDsc π) (hEvr : KeepsEvr π) (s : State) (k : Completion) :
    π (State.sendOne s k).2 = π s := by
  unfold State.sendOne
  with_reducible repeat' first
    | rfl
    | assumption
    | (intro)
    | refine ite_frame ?_ ?_
    | refine ite_frame2 ?_ ?_
    | refine (hDsc _ _).trans ?_
    | refine (State.event_frame π hEvr _ _ _ _ _ _ _).trans ?_
    | refine (hCqe _ _).trans ?_
    | refine pair_frame (by with_reducible assumption) ?_
    | split
    | (dsimp only)

theorem execCompletionTransmit_frame {α : Type} (π : State → α) (hOut : KeepsOut π) (hPort : KeepsPort π) (hCqe : KeepsCqe π) (hDsc : KeepsDsc π) (hEvr : KeepsEvr π) (port : Fin 16) (s : State) :
    ∃ s', execCompletionTransmit port s = .next s' ∧ π s' = π s := by
  unfold execCompletionTransmit
  with_reducible repeat' first
    | rfl
    | assumption
    | (intro)
    | refine ite_frame ?_ ?_
    | refine ite_frame2 ?_ ?_
    | refine (hCqe _ _).trans ?_
    | refine (State.sendOne_frame π hCqe hDsc hEvr _ _).trans ?_
    | refine (pair_frame (by with_reducible assumption) (State.sendOne_frame π hCqe hDsc hEvr _ _)).trans ?_
    | refine (State.settleSession_frame π hOut hPort hCqe hEvr _ _).trans ?_
    | refine (State.transmit_frame π hOut hPort _ _ _ _).trans ?_
    | refine (foldl_frame π _ ?_ _ _).trans ?_
    | refine (foldl_frame2 π _ ?_ _ _).trans ?_
    | refine ⟨_, rfl, ?_⟩
    | refine pair_frame (by with_reducible assumption) ?_
    | split
    | (dsimp only)

theorem State.discardAcked_frame {α : Type} (π : State → α) (hOut : KeepsOut π) (hPort : KeepsPort π) (hCqe : KeepsCqe π) (hDge : KeepsDge π) (hCpe : KeepsCpe π) (hFtu : KeepsFtu π) (hSlc : KeepsSlc π) (hEvr : KeepsEvr π) (s : State) (frame : Nat) (gen : Nat) :
    π (State.discardAcked s frame gen) = π s := by
  unfold State.discardAcked
  with_reducible repeat' first
    | rfl
    | assumption
    | (intro)
    | refine ite_frame ?_ ?_
    | refine (State.modCmd_frame π hCqe _ _ _ _).trans ?_
    | refine (State.finish_frame π hOut hPort hCqe hDge hCpe hFtu hSlc hEvr _ _ _).trans ?_
    | refine (foldl_frame π _ ?_ _ _).trans ?_
    | refine (foldl_frame2 π _ ?_ _ _).trans ?_
    | refine pair_frame (by with_reducible assumption) ?_
    | split
    | (dsimp only)

theorem execDiscardAckTimeout_frame {α : Type} (π : State → α) (hDt : KeepsDt π) (hOut : KeepsOut π) (hPort : KeepsPort π) (hCqe : KeepsCqe π) (hDge : KeepsDge π) (hCpe : KeepsCpe π) (hFtu : KeepsFtu π) (hSlc : KeepsSlc π) (hEvr : KeepsEvr π) (qp : BitVec 14) (cid : BitVec 16) (s : State) :
    ∃ s', execDiscardAckTimeout qp cid s = .next s' ∧ π s' = π s := by
  unfold execDiscardAckTimeout
  with_reducible repeat' first
    | rfl
    | assumption
    | (intro)
    | refine ite_frame ?_ ?_
    | refine (State.advanceTo_frame π hDt _ _).trans ?_
    | refine (State.event_frame π hEvr _ _ _ _ _ _ _).trans ?_
    | refine (State.modCmd_frame π hCqe _ _ _ _).trans ?_
    | refine (State.finish_frame π hOut hPort hCqe hDge hCpe hFtu hSlc hEvr _ _ _).trans ?_
    | refine ⟨_, rfl, ?_⟩
    | refine pair_frame (by with_reducible assumption) ?_
    | split
    | (dsimp only)

end Sys2Proof.Machine
end

