-- ==== Sys2Proof/Laws/FrameAdmission.lean ====
section
/-! SUPPORT. What the definitions of Machine/Admission.lean leave alone: a view of the state that no block they write can change reads
the same after them. -/

set_option linter.unusedSimpArgs false

namespace Sys2Proof.Machine

open Sys2Proof

theorem State.rollRefusals_frame {α : Type} (π : State → α) (hDsc : KeepsDsc π) (hEvr : KeepsEvr π) (s : State) :
    π (State.rollRefusals s) = π s := by
  unfold State.rollRefusals
  with_reducible repeat' first
    | rfl
    | assumption
    | (intro)
    | refine ite_frame ?_ ?_
    | refine (State.event_frame π hEvr _ _ _ _ _ _ _).trans ?_
    | refine (hDsc _ _).trans ?_
    | refine (foldl_frame π _ ?_ _ _).trans ?_
    | refine (foldl_frame2 π _ ?_ _ _).trans ?_
    | refine pair_frame (by with_reducible assumption) ?_
    | split
    | (dsimp only)

theorem State.refuseCmd_frame {α : Type} (π : State → α) (hOut : KeepsOut π) (hPort : KeepsPort π) (hCqe : KeepsCqe π) (hDsc : KeepsDsc π) (hWc : KeepsWc π) (hDge : KeepsDge π) (hCpe : KeepsCpe π) (hFtu : KeepsFtu π) (hSlc : KeepsSlc π) (hEvr : KeepsEvr π) (s : State) (c : Cmd) (cause : Nat) (retry : Nat) :
    π (State.refuseCmd s c cause retry) = π s := by
  unfold State.refuseCmd
  with_reducible
    repeat' first | (rfl) | (refine (hDsc _ _).trans ?_) | (refine (State.rollRefusals_frame π hDsc hEvr _).trans ?_) | (refine (State.failRetry_frame π hOut hPort hCqe hWc hDge hCpe hFtu hSlc hEvr _ _ _ _).trans ?_)

theorem execRefusals_frame {α : Type} (π : State → α) (hDt : KeepsDt π) (hDsc : KeepsDsc π) (hEvr : KeepsEvr π) (s : State) :
    ∃ s', execRefusals s = .next s' ∧ π s' = π s := by
  unfold execRefusals
  with_reducible
    repeat' first | (rfl) | (refine ⟨_, rfl, ?_⟩) | (refine (State.rollRefusals_frame π hDsc hEvr _).trans ?_) | (refine (State.advanceTo_frame π hDt _ _).trans ?_)

theorem State.intake_frame {α : Type} (π : State → α) (hDsc : KeepsDsc π) (s : State) :
    π (State.intake s).2 = π s := by
  unfold State.intake
  with_reducible repeat' first
    | rfl
    | assumption
    | (intro)
    | refine ite_frame ?_ ?_
    | refine ite_frame2 ?_ ?_
    | refine (hDsc _ _).trans ?_
    | refine pair_frame (by with_reducible assumption) ?_
    | split
    | (dsimp only)

theorem State.askPeer_frame {α : Type} (π : State → α) (hOut : KeepsOut π) (hPort : KeepsPort π) (hDsc : KeepsDsc π) (s : State) (c : Cmd) (w : Nat × Nat × Nat × Nat) :
    π (State.askPeer s c w) = π s := by
  unfold State.askPeer
  with_reducible
    repeat' first | (rfl) | (refine (State.toPeer_frame π hOut hPort _ _).trans ?_) | (refine (hDsc _ _).trans ?_)

theorem State.admitPlan_frame {α : Type} (π : State → α) (hCqe : KeepsCqe π) (hDsc : KeepsDsc π) (hFtu : KeepsFtu π) (s : State) (c : Cmd) (p : Plan) :
    π (State.admitPlan s c p).2 = π s := by
  unfold State.admitPlan
  with_reducible repeat' first
    | rfl
    | assumption
    | (intro)
    | refine ite_frame ?_ ?_
    | refine ite_frame2 ?_ ?_
    | refine (hDsc _ _).trans ?_
    | refine (hFtu _ _).trans ?_
    | refine (State.modCmd_frame π hCqe _ _ _ _).trans ?_
    | refine pair_frame (by with_reducible assumption) ?_
    | split
    | (dsimp only)

theorem State.enqueue7_frame {α : Type} (π : State → α) (hCqe : KeepsCqe π) (hDsc : KeepsDsc π) (s : State) (c : Cmd) :
    π (State.enqueue7 s c).2 = π s := by
  unfold State.enqueue7
  with_reducible repeat' first
    | rfl
    | assumption
    | (intro)
    | refine ite_frame ?_ ?_
    | refine ite_frame2 ?_ ?_
    | refine (State.modCmd_frame π hCqe _ _ _ _).trans ?_
    | refine (hDsc _ _).trans ?_
    | refine pair_frame (by with_reducible assumption) ?_
    | split
    | (dsimp only)

theorem State.judge_frame {α : Type} (π : State → α) (hOut : KeepsOut π) (hPort : KeepsPort π) (hCqe : KeepsCqe π) (hDsc : KeepsDsc π) (hWc : KeepsWc π) (hDge : KeepsDge π) (hCpe : KeepsCpe π) (hFtu : KeepsFtu π) (hSlc : KeepsSlc π) (hEvr : KeepsEvr π) (s : State) (c : Cmd) :
    π (State.judge s c).2 = π s := by
  unfold State.judge
  with_reducible repeat' first
    | rfl
    | assumption
    | (intro)
    | refine ite_frame ?_ ?_
    | refine ite_frame2 ?_ ?_
    | refine (State.refuseCmd_frame π hOut hPort hCqe hDsc hWc hDge hCpe hFtu hSlc hEvr _ _ _ _).trans ?_
    | refine (State.enqueue7_frame π hCqe hDsc _ _).trans ?_
    | refine (pair_frame (by with_reducible assumption) (State.enqueue7_frame π hCqe hDsc _ _)).trans ?_
    | refine (State.askPeer_frame π hOut hPort hDsc _ _ _).trans ?_
    | refine (hDsc _ _).trans ?_
    | refine (State.failCmd_frame π hOut hPort hCqe hWc hDge hCpe hFtu hSlc hEvr _ _ _).trans ?_
    | refine (State.admitPlan_frame π hCqe hDsc hFtu _ _ _).trans ?_
    | refine (pair_frame (by with_reducible assumption) (State.admitPlan_frame π hCqe hDsc hFtu _ _ _)).trans ?_
    | refine (foldl_frame π _ ?_ _ _).trans ?_
    | refine (foldl_frame2 π _ ?_ _ _).trans ?_
    | refine pair_frame (by with_reducible assumption) ?_
    | split
    | (dsimp only)

theorem execSettleEnd_frame {α : Type} (π : State → α) (hDt : KeepsDt π) (hDsc : KeepsDsc π) (die : Nat) (s : State) :
    ∃ s', execSettleEnd die s = .next s' ∧ π s' = π s := by
  unfold execSettleEnd
  with_reducible repeat' first
    | rfl
    | assumption
    | (intro)
    | refine (hDsc _ _).trans ?_
    | refine (State.advanceTo_frame π hDt _ _).trans ?_
    | refine (foldl_frame π _ ?_ _ _).trans ?_
    | refine (foldl_frame2 π _ ?_ _ _).trans ?_
    | refine ⟨_, rfl, ?_⟩
    | refine pair_frame (by with_reducible assumption) ?_
    | split
    | (dsimp only)

end Sys2Proof.Machine
end

