-- ==== Sys2Proof/Laws/FrameEvents.lean ====
section
/-! SUPPORT. What the definitions of Machine/Events.lean leave alone: a view of the state that no block they write can change reads
the same after them. -/

set_option linter.unusedSimpArgs false

namespace Sys2Proof.Machine

open Sys2Proof

theorem State.selfTestStart_frame {α : Type} (π : State → α) (hCqe : KeepsCqe π) (hDsc : KeepsDsc π) (hEvr : KeepsEvr π) (s : State) (kind : Nat) :
    π (State.selfTestStart s kind) = π s := by
  unfold State.selfTestStart
  with_reducible repeat' first
    | rfl
    | assumption
    | (intro)
    | refine ite_frame ?_ ?_
    | refine (hEvr _ _).trans ?_
    | refine (State.event_frame π hEvr _ _ _ _ _ _ _).trans ?_
    | refine (State.refreshShares_frame π hCqe hDsc hEvr _).trans ?_
    | refine (State.selfTestNotice_frame π hCqe _).trans ?_
    | refine pair_frame (by with_reducible assumption) ?_
    | split
    | (dsimp only)

theorem State.selfTestEnd_frame {α : Type} (π : State → α) (hCqe : KeepsCqe π) (hDsc : KeepsDsc π) (hEvr : KeepsEvr π) (s : State) (result : Nat) :
    π (State.selfTestEnd s result) = π s := by
  unfold State.selfTestEnd
  with_reducible repeat' first
    | rfl
    | assumption
    | (intro)
    | refine ite_frame ?_ ?_
    | refine (hEvr _ _).trans ?_
    | refine (State.event_frame π hEvr _ _ _ _ _ _ _).trans ?_
    | refine (State.refreshShares_frame π hCqe hDsc hEvr _).trans ?_
    | refine (State.selfTestNotice_frame π hCqe _).trans ?_
    | refine pair_frame (by with_reducible assumption) ?_
    | split
    | (dsimp only)

theorem State.selfTestAbort_frame {α : Type} (π : State → α) (hCqe : KeepsCqe π) (hDsc : KeepsDsc π) (hEvr : KeepsEvr π) (s : State) :
    π (State.selfTestAbort s) = π s := by
  unfold State.selfTestAbort
  with_reducible
    repeat' first | (rfl) | (refine (State.selfTestEnd_frame π hCqe hDsc hEvr _ _).trans ?_)

theorem State.writeStCtrl_frame {α : Type} (π : State → α) (hCqe : KeepsCqe π) (hDsc : KeepsDsc π) (hEvr : KeepsEvr π) (s : State) (v : Nat) :
    π (State.writeStCtrl s v) = π s := by
  unfold State.writeStCtrl
  with_reducible repeat' first
    | rfl
    | assumption
    | (intro)
    | refine ite_frame ?_ ?_
    | refine (State.selfTestStart_frame π hCqe hDsc hEvr _ _).trans ?_
    | refine (State.selfTestAbort_frame π hCqe hDsc hEvr _).trans ?_
    | refine pair_frame (by with_reducible assumption) ?_
    | split
    | (dsimp only)

theorem execSelfTestStart_frame {α : Type} (π : State → α) (hFresh : KeepsFresh π) (hOut : KeepsOut π) (hPort : KeepsPort π) (hCqe : KeepsCqe π) (hSess : KeepsSess π) (hDsc : KeepsDsc π) (hEvr : KeepsEvr π) (m : Vc3) (value : Word) (s : State) :
    ∃ s', execSelfTestStart m value s = .next s' ∧ π s' = π s := by
  unfold execSelfTestStart
  with_reducible repeat' first
    | rfl
    | assumption
    | (intro)
    | refine (State.regWrite_frame π hFresh hOut hPort hCqe hSess hEvr _ _ _ _ _ ?_).trans ?_
    | refine (State.writeStCtrl_frame π hCqe hDsc hEvr _ _).trans ?_
    | refine ⟨_, rfl, ?_⟩
    | refine pair_frame (by with_reducible assumption) ?_
    | split
    | (dsimp only)

theorem execSelfTestAbort_frame {α : Type} (π : State → α) (hFresh : KeepsFresh π) (hOut : KeepsOut π) (hPort : KeepsPort π) (hCqe : KeepsCqe π) (hSess : KeepsSess π) (hDsc : KeepsDsc π) (hEvr : KeepsEvr π) (m : Vc3) (value : Word) (s : State) :
    ∃ s', execSelfTestAbort m value s = .next s' ∧ π s' = π s := by
  unfold execSelfTestAbort
  with_reducible repeat' first
    | rfl
    | assumption
    | (intro)
    | refine (State.regWrite_frame π hFresh hOut hPort hCqe hSess hEvr _ _ _ _ _ ?_).trans ?_
    | refine (State.writeStCtrl_frame π hCqe hDsc hEvr _ _).trans ?_
    | refine ⟨_, rfl, ?_⟩
    | refine pair_frame (by with_reducible assumption) ?_
    | split
    | (dsimp only)

theorem State.disableLane_frame {α : Type} (π : State → α) (hDge : KeepsDge π) (hCpe : KeepsCpe π) (hXts : KeepsXts π) (hEvr : KeepsEvr π) (s : State) (n : Nat) :
    π (State.disableLane s n) = π s := by
  unfold State.disableLane
  with_reducible repeat' first
    | rfl
    | assumption
    | (intro)
    | refine ite_frame ?_ ?_
    | refine (hDge _ _).trans ?_
    | refine (State.event_frame π hEvr _ _ _ _ _ _ _).trans ?_
    | refine (hCpe _ _).trans ?_
    | refine (hXts _ _).trans ?_
    | refine pair_frame (by with_reducible assumption) ?_
    | split
    | (dsimp only)

theorem execSelfTestItemDone_frame {α : Type} (π : State → α) (hCqe : KeepsCqe π) (hDsc : KeepsDsc π) (hDge : KeepsDge π) (hCpe : KeepsCpe π) (hXts : KeepsXts π) (hEvr : KeepsEvr π) (findings : List (Nat × Nat)) (failures : List (Nat × Nat)) (s : State) :
    ∃ s', execSelfTestItemDone findings failures s = .next s' ∧ π s' = π s := by
  unfold execSelfTestItemDone
  with_reducible repeat' first
    | rfl
    | assumption
    | (intro)
    | refine ite_frame ?_ ?_
    | refine ite_frame2 ?_ ?_
    | refine (State.event_frame π hEvr _ _ _ _ _ _ _).trans ?_
    | refine (State.disableLane_frame π hDge hCpe hXts hEvr _ _).trans ?_
    | refine (hEvr _ _).trans ?_
    | refine (State.selfTestEnd_frame π hCqe hDsc hEvr _ _).trans ?_
    | refine (State.selfTestNotice_frame π hCqe _).trans ?_
    | refine (foldl_frame π _ ?_ _ _).trans ?_
    | refine (foldl_frame2 π _ ?_ _ _).trans ?_
    | refine ⟨_, rfl, ?_⟩
    | refine pair_frame (by with_reducible assumption) ?_
    | split
    | (dsimp only)

theorem execSelfTestTimeout_frame {α : Type} (π : State → α) (hDt : KeepsDt π) (hCqe : KeepsCqe π) (hDsc : KeepsDsc π) (hEvr : KeepsEvr π) (s : State) :
    ∃ s', execSelfTestTimeout s = .next s' ∧ π s' = π s := by
  unfold execSelfTestTimeout
  with_reducible repeat' first
    | rfl
    | assumption
    | (intro)
    | refine ite_frame ?_ ?_
    | refine (State.advanceTo_frame π hDt _ _).trans ?_
    | refine (State.selfTestEnd_frame π hCqe hDsc hEvr _ _).trans ?_
    | refine (hEvr _ _).trans ?_
    | refine ⟨_, rfl, ?_⟩
    | refine pair_frame (by with_reducible assumption) ?_
    | split
    | (dsimp only)

theorem State.rebuildReport_frame {α : Type} (π : State → α) (hEvr : KeepsEvr π) (s : State) :
    π (State.rebuildReport s) = π s := by
  unfold State.rebuildReport
  with_reducible
    repeat' first | (rfl) | (refine (hEvr _ _).trans ?_)

theorem execHealthReportRebuild_frame {α : Type} (π : State → α) (hEvr : KeepsEvr π) (s : State) :
    ∃ s', execHealthReportRebuild s = .next s' ∧ π s' = π s := by
  unfold execHealthReportRebuild
  with_reducible
    repeat' first | (rfl) | (refine ⟨_, rfl, ?_⟩) | (refine (State.rebuildReport_frame π hEvr _).trans ?_)

theorem execHealthRecordPersist_frame {α : Type} (π : State → α) (hDt : KeepsDt π) (hEvr : KeepsEvr π) (s : State) :
    ∃ s', execHealthRecordPersist s = .next s' ∧ π s' = π s := by
  unfold execHealthRecordPersist
  with_reducible repeat' first
    | rfl
    | assumption
    | (intro)
    | refine ite_frame ?_ ?_
    | refine (State.advanceTo_frame π hDt _ _).trans ?_
    | refine (hEvr _ _).trans ?_
    | refine ⟨_, rfl, ?_⟩
    | refine pair_frame (by with_reducible assumption) ?_
    | split
    | (dsimp only)

theorem execJunctionHotWindow_frame {α : Type} (π : State → α) (hDt : KeepsDt π) (hCqe : KeepsCqe π) (hEvr : KeepsEvr π) (hGlb : KeepsGlb π) (sensor : Fin 40) (temp : Int) (s : State) :
    ∃ s', execJunctionHotWindow sensor temp s = .next s' ∧ π s' = π s := by
  unfold execJunctionHotWindow
  with_reducible repeat' first
    | rfl
    | assumption
    | (intro)
    | refine ite_frame ?_ ?_
    | refine (hEvr _ _).trans ?_
    | refine (State.advanceTo_frame π hDt _ _).trans ?_
    | refine (State.rebuildReport_frame π hEvr _).trans ?_
    | refine (State.health_frame π hCqe hEvr hGlb _ _ _ _ _).trans ?_
    | refine ⟨_, rfl, ?_⟩
    | refine pair_frame (by with_reducible assumption) ?_
    | split
    | (dsimp only)

end Sys2Proof.Machine
end

