-- ==== Sys2Proof/Laws/FrameGovernor.lean ====
section
/-! SUPPORT. What the definitions of Machine/Governor.lean leave alone: a view of the state that no block they write can change reads
the same after them. -/

set_option linter.unusedSimpArgs false

namespace Sys2Proof.Machine

open Sys2Proof

theorem State.powerNotice_frame {α : Type} (π : State → α) (hCqe : KeepsCqe π) (s : State) (cause : Nat) :
    π (State.powerNotice s cause) = π s := by
  unfold State.powerNotice
  with_reducible
    repeat' first | (rfl) | (refine (State.notifyAll_frame π hCqe _ _ _).trans ?_)

theorem State.endInjection_frame {α : Type} (π : State → α) (hGov : KeepsGov π) (hEvr : KeepsEvr π) (s : State) (cause : Nat) :
    π (State.endInjection s cause) = π s := by
  unfold State.endInjection
  with_reducible repeat' first
    | rfl
    | assumption
    | (intro)
    | refine ite_frame ?_ ?_
    | refine (hGov _ _).trans ?_
    | refine (State.event_frame π hEvr _ _ _ _ _ _ _).trans ?_
    | refine pair_frame (by with_reducible assumption) ?_
    | split
    | (dsimp only)

theorem State.setGovMode_frame {α : Type} (π : State → α) (hCqe : KeepsCqe π) (hGov : KeepsGov π) (hEvr : KeepsEvr π) (s : State) (new : GovMode) (cause : Nat) :
    π (State.setGovMode s new cause) = π s := by
  unfold State.setGovMode
  with_reducible repeat' first
    | rfl
    | assumption
    | (intro)
    | refine ite_frame ?_ ?_
    | refine (State.endInjection_frame π hGov hEvr _ _).trans ?_
    | refine (State.event_frame π hEvr _ _ _ _ _ _ _).trans ?_
    | refine (hGov _ _).trans ?_
    | refine (State.powerNotice_frame π hCqe _ _).trans ?_
    | refine pair_frame (by with_reducible assumption) ?_
    | split
    | (dsimp only)

theorem State.applyPower_frame {α : Type} (π : State → α) (hCqe : KeepsCqe π) (hGov : KeepsGov π) (hEvr : KeepsEvr π) (s : State) (p : PowerRec) :
    π (State.applyPower s p) = π s := by
  unfold State.applyPower
  with_reducible repeat' first
    | rfl
    | assumption
    | (intro)
    | refine ite_frame ?_ ?_
    | refine (State.endInjection_frame π hGov hEvr _ _).trans ?_
    | refine (hGov _ _).trans ?_
    | refine (State.powerNotice_frame π hCqe _ _).trans ?_
    | refine (State.event_frame π hEvr _ _ _ _ _ _ _).trans ?_
    | refine (State.setGovMode_frame π hCqe hGov hEvr _ _ _).trans ?_
    | refine pair_frame (by with_reducible assumption) ?_
    | split
    | (dsimp only)

theorem State.refusePower_frame {α : Type} (π : State → α) (hEvr : KeepsEvr π) (s : State) (p : PowerRec) (reason : Nat) :
    π (State.refusePower s p reason) = π s := by
  unfold State.refusePower
  with_reducible
    repeat' first | (rfl) | (refine (State.event_frame π hEvr _ _ _ _ _ _ _).trans ?_)

theorem State.govSticky_frame {α : Type} (π : State → α) (hGov : KeepsGov π) (hEvr : KeepsEvr π) (s : State) (b : BitVec 8) (e : Int) :
    π (State.govSticky s b e) = π s := by
  unfold State.govSticky
  with_reducible repeat' first
    | rfl
    | assumption
    | (intro)
    | refine ite_frame ?_ ?_
    | refine (State.event_frame π hEvr _ _ _ _ _ _ _).trans ?_
    | refine (hGov _ _).trans ?_
    | refine pair_frame (by with_reducible assumption) ?_
    | split
    | (dsimp only)

theorem State.govLoadNow_frame {α : Type} (π : State → α) (hGov : KeepsGov π) (hEvr : KeepsEvr π) (s : State) :
    π (State.govLoadNow s) = π s := by
  unfold State.govLoadNow
  with_reducible repeat' first
    | rfl
    | assumption
    | (intro)
    | refine ite_frame ?_ ?_
    | refine (hGov _ _).trans ?_
    | refine (State.event_frame π hEvr _ _ _ _ _ _ _).trans ?_
    | refine pair_frame (by with_reducible assumption) ?_
    | split
    | (dsimp only)

theorem execGovSample_frame {α : Type} (π : State → α) (hDt : KeepsDt π) (hGov : KeepsGov π) (hEvr : KeepsEvr π) (s : State) :
    ∃ s', execGovSample s = .next s' ∧ π s' = π s := by
  unfold execGovSample
  with_reducible repeat' first
    | rfl
    | assumption
    | (intro)
    | refine ite_frame ?_ ?_
    | refine ite_frame2 ?_ ?_
    | refine (State.govLoadNow_frame π hGov hEvr _).trans ?_
    | refine (State.advanceTo_frame π hDt _ _).trans ?_
    | refine (hGov _ _).trans ?_
    | refine (State.event_frame π hEvr _ _ _ _ _ _ _).trans ?_
    | refine (State.govSticky_frame π hGov hEvr _ _ _).trans ?_
    | refine ⟨_, rfl, ?_⟩
    | refine pair_frame (by with_reducible assumption) ?_
    | split
    | (dsimp only)

theorem execFeedbackImplausible_frame {α : Type} (π : State → α) (hCqe : KeepsCqe π) (hGov : KeepsGov π) (hEvr : KeepsEvr π) (s : State) :
    ∃ s', execFeedbackImplausible s = .next s' ∧ π s' = π s := by
  unfold execFeedbackImplausible
  with_reducible repeat' first
    | rfl
    | assumption
    | (intro)
    | refine ite_frame ?_ ?_
    | refine (State.event_frame π hEvr _ _ _ _ _ _ _).trans ?_
    | refine (State.govSticky_frame π hGov hEvr _ _ _).trans ?_
    | refine (State.setGovMode_frame π hCqe hGov hEvr _ _ _).trans ?_
    | refine ⟨_, rfl, ?_⟩
    | refine pair_frame (by with_reducible assumption) ?_
    | split
    | (dsimp only)

theorem execGovPlausibleRun_frame {α : Type} (π : State → α) (hCqe : KeepsCqe π) (hGov : KeepsGov π) (hEvr : KeepsEvr π) (s : State) :
    ∃ s', execGovPlausibleRun s = .next s' ∧ π s' = π s := by
  unfold execGovPlausibleRun
  with_reducible repeat' first
    | rfl
    | assumption
    | (intro)
    | refine ite_frame ?_ ?_
    | refine (State.setGovMode_frame π hCqe hGov hEvr _ _ _).trans ?_
    | refine ⟨_, rfl, ?_⟩
    | refine pair_frame (by with_reducible assumption) ?_
    | split
    | (dsimp only)

theorem execBudgetUnreachable_frame {α : Type} (π : State → α) (hCqe : KeepsCqe π) (hGov : KeepsGov π) (hEvr : KeepsEvr π) (s : State) :
    ∃ s', execBudgetUnreachable s = .next s' ∧ π s' = π s := by
  unfold execBudgetUnreachable
  with_reducible repeat' first
    | rfl
    | assumption
    | (intro)
    | refine ite_frame ?_ ?_
    | refine (hGov _ _).trans ?_
    | refine (State.powerNotice_frame π hCqe _ _).trans ?_
    | refine (State.event_frame π hEvr _ _ _ _ _ _ _).trans ?_
    | refine ⟨_, rfl, ?_⟩
    | refine pair_frame (by with_reducible assumption) ?_
    | split
    | (dsimp only)

theorem State.setPstate_frame {α : Type} (π : State → α) (hPmu : KeepsPmu π) (hEvr : KeepsEvr π) (s : State) (new : PState) (cause : Nat) (sess : Nat) :
    π (State.setPstate s new cause sess) = π s := by
  unfold State.setPstate
  with_reducible repeat' first
    | rfl
    | assumption
    | (intro)
    | refine ite_frame ?_ ?_
    | refine (hPmu _ _).trans ?_
    | refine (State.event_frame π hEvr _ _ _ _ _ _ _).trans ?_
    | refine pair_frame (by with_reducible assumption) ?_
    | split
    | (dsimp only)

theorem execCapWindow_frame {α : Type} (π : State → α) (hDt : KeepsDt π) (hCqe : KeepsCqe π) (hGov : KeepsGov π) (hPmu : KeepsPmu π) (hEvr : KeepsEvr π) (s : State) :
    ∃ s', execCapWindow s = .next s' ∧ π s' = π s := by
  unfold execCapWindow
  with_reducible repeat' first
    | rfl
    | assumption
    | (intro)
    | refine ite_frame ?_ ?_
    | refine (State.advanceTo_frame π hDt _ _).trans ?_
    | refine (hGov _ _).trans ?_
    | refine (State.powerNotice_frame π hCqe _ _).trans ?_
    | refine (State.event_frame π hEvr _ _ _ _ _ _ _).trans ?_
    | refine (State.setPstate_frame π hPmu hEvr _ _ _ _).trans ?_
    | refine ⟨_, rfl, ?_⟩
    | refine pair_frame (by with_reducible assumption) ?_
    | split
    | (dsimp only)

theorem State.writeGovCtrl_frame {α : Type} (π : State → α) (hCqe : KeepsCqe π) (hGov : KeepsGov π) (hEvr : KeepsEvr π) (s : State) (v : Nat) :
    π (State.writeGovCtrl s v) = π s := by
  unfold State.writeGovCtrl
  with_reducible repeat' first
    | rfl
    | assumption
    | (intro)
    | refine ite_frame ?_ ?_
    | refine (hGov _ _).trans ?_
    | refine (State.setGovMode_frame π hCqe hGov hEvr _ _ _).trans ?_
    | refine pair_frame (by with_reducible assumption) ?_
    | split
    | (dsimp only)

theorem State.injGo_frame {α : Type} (π : State → α) (hGov : KeepsGov π) (hEvr : KeepsEvr π) (s : State) :
    π (State.injGo s) = π s := by
  unfold State.injGo
  with_reducible repeat' first
    | rfl
    | assumption
    | (intro)
    | refine ite_frame ?_ ?_
    | refine (hGov _ _).trans ?_
    | refine (State.event_frame π hEvr _ _ _ _ _ _ _).trans ?_
    | refine pair_frame (by with_reducible assumption) ?_
    | split
    | (dsimp only)

theorem State.writeInjCfg_frame {α : Type} (π : State → α) (hGov : KeepsGov π) (hEvr : KeepsEvr π) (s : State) (v : Nat) :
    π (State.writeInjCfg s v) = π s := by
  unfold State.writeInjCfg
  with_reducible repeat' first
    | rfl
    | assumption
    | (intro)
    | refine ite_frame ?_ ?_
    | refine (hGov _ _).trans ?_
    | refine (State.injGo_frame π hGov hEvr _).trans ?_
    | refine (State.endInjection_frame π hGov hEvr _ _).trans ?_
    | refine pair_frame (by with_reducible assumption) ?_
    | split
    | (dsimp only)

theorem State.writeCapCtrl_frame {α : Type} (π : State → α) (hGov : KeepsGov π) (s : State) (v : Nat) :
    π (State.writeCapCtrl s v) = π s := by
  unfold State.writeCapCtrl
  with_reducible repeat' first
    | rfl
    | assumption
    | (intro)
    | refine ite_frame ?_ ?_
    | refine (hGov _ _).trans ?_
    | refine pair_frame (by with_reducible assumption) ?_
    | split
    | (dsimp only)

theorem execGovLoad_frame {α : Type} (π : State → α) (hFresh : KeepsFresh π) (hOut : KeepsOut π) (hPort : KeepsPort π) (hCqe : KeepsCqe π) (hSess : KeepsSess π) (hGov : KeepsGov π) (hEvr : KeepsEvr π) (m : Vc3) (value : Word) (s : State) :
    ∃ s', execGovLoad m value s = .next s' ∧ π s' = π s := by
  unfold execGovLoad
  with_reducible repeat' first
    | rfl
    | assumption
    | (intro)
    | refine (State.regWrite_frame π hFresh hOut hPort hCqe hSess hEvr _ _ _ _ _ ?_).trans ?_
    | refine (State.writeGovCtrl_frame π hCqe hGov hEvr _ _).trans ?_
    | refine ⟨_, rfl, ?_⟩
    | refine pair_frame (by with_reducible assumption) ?_
    | split
    | (dsimp only)

theorem execGovModeReq_frame {α : Type} (π : State → α) (hFresh : KeepsFresh π) (hOut : KeepsOut π) (hPort : KeepsPort π) (hCqe : KeepsCqe π) (hSess : KeepsSess π) (hGov : KeepsGov π) (hEvr : KeepsEvr π) (m : Vc3) (value : Word) (s : State) :
    ∃ s', execGovModeReq m value s = .next s' ∧ π s' = π s := by
  unfold execGovModeReq
  with_reducible repeat' first
    | rfl
    | assumption
    | (intro)
    | refine (State.regWrite_frame π hFresh hOut hPort hCqe hSess hEvr _ _ _ _ _ ?_).trans ?_
    | refine (State.writeGovCtrl_frame π hCqe hGov hEvr _ _).trans ?_
    | refine ⟨_, rfl, ?_⟩
    | refine pair_frame (by with_reducible assumption) ?_
    | split
    | (dsimp only)

theorem execGovInjGo_frame {α : Type} (π : State → α) (hFresh : KeepsFresh π) (hOut : KeepsOut π) (hPort : KeepsPort π) (hCqe : KeepsCqe π) (hSess : KeepsSess π) (hGov : KeepsGov π) (hEvr : KeepsEvr π) (m : Vc3) (value : Word) (s : State) :
    ∃ s', execGovInjGo m value s = .next s' ∧ π s' = π s := by
  unfold execGovInjGo
  with_reducible repeat' first
    | rfl
    | assumption
    | (intro)
    | refine (State.regWrite_frame π hFresh hOut hPort hCqe hSess hEvr _ _ _ _ _ ?_).trans ?_
    | refine (State.writeInjCfg_frame π hGov hEvr _ _).trans ?_
    | refine ⟨_, rfl, ?_⟩
    | refine pair_frame (by with_reducible assumption) ?_
    | split
    | (dsimp only)

theorem execGovInjStop_frame {α : Type} (π : State → α) (hFresh : KeepsFresh π) (hOut : KeepsOut π) (hPort : KeepsPort π) (hCqe : KeepsCqe π) (hSess : KeepsSess π) (hGov : KeepsGov π) (hEvr : KeepsEvr π) (m : Vc3) (value : Word) (s : State) :
    ∃ s', execGovInjStop m value s = .next s' ∧ π s' = π s := by
  unfold execGovInjStop
  with_reducible repeat' first
    | rfl
    | assumption
    | (intro)
    | refine (State.regWrite_frame π hFresh hOut hPort hCqe hSess hEvr _ _ _ _ _ ?_).trans ?_
    | refine (State.writeInjCfg_frame π hGov hEvr _ _).trans ?_
    | refine ⟨_, rfl, ?_⟩
    | refine pair_frame (by with_reducible assumption) ?_
    | split
    | (dsimp only)

theorem execInjectionEnd_frame {α : Type} (π : State → α) (hGov : KeepsGov π) (hEvr : KeepsEvr π) (s : State) :
    ∃ s', execInjectionEnd s = .next s' ∧ π s' = π s := by
  unfold execInjectionEnd
  with_reducible repeat' first
    | rfl
    | assumption
    | (intro)
    | refine ite_frame ?_ ?_
    | refine (State.endInjection_frame π hGov hEvr _ _).trans ?_
    | refine ⟨_, rfl, ?_⟩
    | refine pair_frame (by with_reducible assumption) ?_
    | split
    | (dsimp only)

theorem execGovCapStart_frame {α : Type} (π : State → α) (hFresh : KeepsFresh π) (hOut : KeepsOut π) (hPort : KeepsPort π) (hCqe : KeepsCqe π) (hSess : KeepsSess π) (hGov : KeepsGov π) (hEvr : KeepsEvr π) (m : Vc3) (value : Word) (s : State) :
    ∃ s', execGovCapStart m value s = .next s' ∧ π s' = π s := by
  unfold execGovCapStart
  with_reducible repeat' first
    | rfl
    | assumption
    | (intro)
    | refine (State.regWrite_frame π hFresh hOut hPort hCqe hSess hEvr _ _ _ _ _ ?_).trans ?_
    | refine (State.writeCapCtrl_frame π hGov _ _).trans ?_
    | refine ⟨_, rfl, ?_⟩
    | refine pair_frame (by with_reducible assumption) ?_
    | split
    | (dsimp only)

theorem execGovCapStop_frame {α : Type} (π : State → α) (hFresh : KeepsFresh π) (hOut : KeepsOut π) (hPort : KeepsPort π) (hCqe : KeepsCqe π) (hSess : KeepsSess π) (hGov : KeepsGov π) (hEvr : KeepsEvr π) (m : Vc3) (value : Word) (s : State) :
    ∃ s', execGovCapStop m value s = .next s' ∧ π s' = π s := by
  unfold execGovCapStop
  with_reducible repeat' first
    | rfl
    | assumption
    | (intro)
    | refine (State.regWrite_frame π hFresh hOut hPort hCqe hSess hEvr _ _ _ _ _ ?_).trans ?_
    | refine (State.writeCapCtrl_frame π hGov _ _).trans ?_
    | refine ⟨_, rfl, ?_⟩
    | refine pair_frame (by with_reducible assumption) ?_
    | split
    | (dsimp only)

theorem execCaptureFull_frame {α : Type} (π : State → α) (hGov : KeepsGov π) (s : State) :
    ∃ s', execCaptureFull s = .next s' ∧ π s' = π s := by
  unfold execCaptureFull
  with_reducible repeat' first
    | rfl
    | assumption
    | (intro)
    | refine ite_frame ?_ ?_
    | refine (hGov _ _).trans ?_
    | refine ⟨_, rfl, ?_⟩
    | refine pair_frame (by with_reducible assumption) ?_
    | split
    | (dsimp only)

end Sys2Proof.Machine
end

