-- ==== Sys2Proof/Laws/FrameCompression.lean ====
section
/-! SUPPORT. What the definitions of Machine/Compression.lean leave alone: a view of the state that no block they write can change reads
the same after them. -/

set_option linter.unusedSimpArgs false

namespace Sys2Proof.Machine

open Sys2Proof

theorem execStreamCtxOpen_frame {α : Type} (π : State → α) (hCpe : KeepsCpe π) (ctx : Fin 1024) (user : Byte) (decompress : Bool) (blockKib : Nat) (streamId : BitVec 64) (bseq : Nat) (s : State) :
    ∃ s', execStreamCtxOpen ctx user decompress blockKib streamId bseq s = .next s' ∧ π s' = π s := by
  unfold execStreamCtxOpen
  with_reducible repeat' first
    | rfl
    | assumption
    | (intro)
    | refine ite_frame ?_ ?_
    | refine (hCpe _ _).trans ?_
    | refine ⟨_, rfl, ?_⟩
    | refine pair_frame (by with_reducible assumption) ?_
    | split
    | (dsimp only)

theorem execStreamBlockOffer_frame {α : Type} (π : State → α) (hCpe : KeepsCpe π) (ctx : Fin 1024) (hdr : Option GrainHdr) (block : Bytes) (s : State) :
    ∃ s', execStreamBlockOffer ctx hdr block s = .next s' ∧ π s' = π s := by
  unfold execStreamBlockOffer
  with_reducible repeat' first
    | rfl
    | assumption
    | (intro)
    | refine ite_frame ?_ ?_
    | refine (hCpe _ _).trans ?_
    | refine ⟨_, rfl, ?_⟩
    | refine pair_frame (by with_reducible assumption) ?_
    | split
    | (dsimp only)

theorem execStreamBlockDone_frame {α : Type} (π : State → α) (hCpe : KeepsCpe π) (hEvr : KeepsEvr π) (ctx : Fin 1024) (s : State) :
    ∃ s', execStreamBlockDone ctx s = .next s' ∧ π s' = π s := by
  unfold execStreamBlockDone
  with_reducible repeat' first
    | rfl
    | assumption
    | (intro)
    | refine ite_frame ?_ ?_
    | refine ite_frame2 ?_ ?_
    | refine (hCpe _ _).trans ?_
    | refine (State.event_frame π hEvr _ _ _ _ _ _ _).trans ?_
    | refine ⟨_, rfl, ?_⟩
    | refine pair_frame (by with_reducible assumption) ?_
    | split
    | (dsimp only)

theorem execStreamCtxClose_frame {α : Type} (π : State → α) (hCpe : KeepsCpe π) (ctx : Fin 1024) (s : State) :
    ∃ s', execStreamCtxClose ctx s = .next s' ∧ π s' = π s := by
  unfold execStreamCtxClose
  with_reducible repeat' first
    | rfl
    | assumption
    | (intro)
    | refine ite_frame ?_ ?_
    | refine (hCpe _ _).trans ?_
    | refine ⟨_, rfl, ?_⟩
    | refine pair_frame (by with_reducible assumption) ?_
    | split
    | (dsimp only)

theorem State.streamParity_frame {α : Type} (π : State → α) (hCpe : KeepsCpe π) (hEvr : KeepsEvr π) (s : State) (n : Nat) :
    π (State.streamParity s n) = π s := by
  unfold State.streamParity
  with_reducible repeat' first
    | rfl
    | assumption
    | (intro)
    | refine ite_frame ?_ ?_
    | refine (hCpe _ _).trans ?_
    | refine (State.event_frame π hEvr _ _ _ _ _ _ _).trans ?_
    | refine pair_frame (by with_reducible assumption) ?_
    | split
    | (dsimp only)

theorem State.writeForceRaw_frame {α : Type} (π : State → α) (hCpe : KeepsCpe π) (hEvr : KeepsEvr π) (s : State) (v : Nat) (sess : Nat) :
    π (State.writeForceRaw s v sess) = π s := by
  unfold State.writeForceRaw
  with_reducible repeat' first
    | rfl
    | assumption
    | (intro)
    | refine ite_frame ?_ ?_
    | refine (State.event_frame π hEvr _ _ _ _ _ _ _).trans ?_
    | refine (hCpe _ _).trans ?_
    | refine pair_frame (by with_reducible assumption) ?_
    | split
    | (dsimp only)

theorem execForceRawWrite_frame {α : Type} (π : State → α) (hFresh : KeepsFresh π) (hOut : KeepsOut π) (hPort : KeepsPort π) (hCqe : KeepsCqe π) (hSess : KeepsSess π) (hCpe : KeepsCpe π) (hEvr : KeepsEvr π) (m : Vc3) (value : Word) (s : State) :
    ∃ s', execForceRawWrite m value s = .next s' ∧ π s' = π s := by
  unfold execForceRawWrite
  with_reducible repeat' first
    | rfl
    | assumption
    | (intro)
    | refine (State.regWrite_frame π hFresh hOut hPort hCqe hSess hEvr _ _ _ _ _ ?_).trans ?_
    | refine (State.writeForceRaw_frame π hCpe hEvr _ _ _).trans ?_
    | refine ⟨_, rfl, ?_⟩
    | refine pair_frame (by with_reducible assumption) ?_
    | split
    | (dsimp only)

end Sys2Proof.Machine
end

