-- ==== Sys2Proof/Laws/FrameMedia.lean ====
section
/-! SUPPORT. What the definitions of Machine/Media.lean leave alone: a view of the state that no block they write can change reads
the same after them. -/

set_option linter.unusedSimpArgs false

namespace Sys2Proof.Machine

open Sys2Proof

theorem State.sendMedia_frame {α : Type} (π : State → α) (hOut : KeepsOut π) (hLink : KeepsLink π) (hPort : KeepsPort π) (s : State) (pos : Nat) (die : Nat) (opc : Nat) (addr : Nat) (arg : Nat) (deadline : Nat) (resv : Nat) (work : Work) (body : Bytes) :
    π (State.sendMedia s pos die opc addr arg deadline resv work body) = π s := by
  unfold State.sendMedia
  with_reducible repeat' first
    | rfl
    | assumption
    | (intro)
    | refine ite_frame ?_ ?_
    | refine (State.transmit_frame π hOut hPort _ _ _ _).trans ?_
    | refine (hLink _ _ ?_).trans ?_
    | refine pair_frame (by with_reducible assumption) ?_
    | split
    | (dsimp only)

theorem State.sendRead_frame {α : Type} (π : State → α) (hOut : KeepsOut π) (hLink : KeepsLink π) (hPort : KeepsPort π) (s : State) (opc : Nat) (die : Nat) (chunk : Nat) (unit : Nat) (units : Nat) (resv : Nat) (work : Work) (body : Bytes) :
    π (State.sendRead s opc die chunk unit units resv work body) = π s := by
  unfold State.sendRead
  with_reducible repeat' first
    | rfl
    | assumption
    | (intro)
    | refine ite_frame ?_ ?_
    | refine (State.sendMedia_frame π hOut hLink hPort _ _ _ _ _ _ _ _ _ _).trans ?_
    | refine pair_frame (by with_reducible assumption) ?_
    | split
    | (dsimp only)

theorem State.resumeDie_frame {α : Type} (π : State → α) (hOut : KeepsOut π) (hLink : KeepsLink π) (hPort : KeepsPort π) (s : State) (die : Nat) :
    π (State.resumeDie s die) = π s := by
  unfold State.resumeDie
  with_reducible repeat' first
    | rfl
    | assumption
    | (intro)
    | refine ite_frame ?_ ?_
    | refine (State.sendMedia_frame π hOut hLink hPort _ _ _ _ _ _ _ _ _ _).trans ?_
    | refine pair_frame (by with_reducible assumption) ?_
    | split
    | (dsimp only)

theorem State.sendPeerRead_frame {α : Type} (π : State → α) (hOut : KeepsOut π) (hLink : KeepsLink π) (hPort : KeepsPort π) (s : State) (soft : Bool) (die : Nat) (chunk : Nat) (unit : Nat) (units : Nat) (deadline : Nat) (work : Work) :
    π (State.sendPeerRead s soft die chunk unit units deadline work) = π s := by
  unfold State.sendPeerRead
  with_reducible repeat' first
    | rfl
    | assumption
    | (intro)
    | refine ite_frame ?_ ?_
    | refine (State.transmit_frame π hOut hPort _ _ _ _).trans ?_
    | refine (hLink _ _ ?_).trans ?_
    | refine pair_frame (by with_reducible assumption) ?_
    | split
    | (dsimp only)

theorem State.modDie_frame {α : Type} (π : State → α) (hFtu : KeepsFtu π) (s : State) (die : Nat) (f : Die → Die) :
    π (State.modDie s die f) = π s := by
  unfold State.modDie
  with_reducible
    repeat' first | (rfl) | (refine (hFtu _ _).trans ?_)

theorem State.setDie_frame {α : Type} (π : State → α) (hCqe : KeepsCqe π) (hFtu : KeepsFtu π) (hEvr : KeepsEvr π) (hGlb : KeepsGlb π) (s : State) (die : Nat) (st : DieSt) :
    π (State.setDie s die st) = π s := by
  unfold State.setDie
  with_reducible repeat' first
    | rfl
    | assumption
    | (intro)
    | refine ite_frame ?_ ?_
    | refine (State.modDie_frame π hFtu _ _ _).trans ?_
    | refine (State.event_frame π hEvr _ _ _ _ _ _ _).trans ?_
    | refine (State.health_frame π hCqe hEvr hGlb _ _ _ _ _).trans ?_
    | refine pair_frame (by with_reducible assumption) ?_
    | split
    | (dsimp only)

theorem State.judgeDie_frame {α : Type} (π : State → α) (hCqe : KeepsCqe π) (hFtu : KeepsFtu π) (hEvr : KeepsEvr π) (hGlb : KeepsGlb π) (s : State) (die : Nat) :
    π (State.judgeDie s die) = π s := by
  unfold State.judgeDie
  with_reducible repeat' first
    | rfl
    | assumption
    | (intro)
    | refine ite_frame ?_ ?_
    | refine (State.setDie_frame π hCqe hFtu hEvr hGlb _ _ _).trans ?_
    | refine pair_frame (by with_reducible assumption) ?_
    | split
    | (dsimp only)

theorem State.readFailed_frame {α : Type} (π : State → α) (hCqe : KeepsCqe π) (hFtu : KeepsFtu π) (hEvr : KeepsEvr π) (hGlb : KeepsGlb π) (s : State) (die : Nat) :
    π (State.readFailed s die) = π s := by
  unfold State.readFailed
  with_reducible
    repeat' first | (rfl) | (refine (State.judgeDie_frame π hCqe hFtu hEvr hGlb _ _).trans ?_) | (refine (State.modDie_frame π hFtu _ _ _).trans ?_)

theorem State.readGood_frame {α : Type} (π : State → α) (hFtu : KeepsFtu π) (s : State) (die : Nat) (bytes : Nat) :
    π (State.readGood s die bytes) = π s := by
  unfold State.readGood
  with_reducible repeat' first
    | rfl
    | assumption
    | (intro)
    | refine ite_frame ?_ ?_
    | refine ite_frame2 ?_ ?_
    | refine (hFtu _ _).trans ?_
    | refine (State.modDie_frame π hFtu _ _ _).trans ?_
    | refine pair_frame (by with_reducible assumption) ?_
    | split
    | (dsimp only)

theorem State.modFetch_frame {α : Type} (π : State → α) (hFtu : KeepsFtu π) (s : State) (num : Nat) (g : Fetch → Fetch) :
    π (State.modFetch s num g) = π s := by
  unfold State.modFetch
  with_reducible repeat' first
    | rfl
    | assumption
    | (intro)
    | refine ite_frame ?_ ?_
    | refine (hFtu _ _).trans ?_
    | refine pair_frame (by with_reducible assumption) ?_
    | split
    | (dsimp only)

theorem State.dropFetch_frame {α : Type} (π : State → α) (hFtu : KeepsFtu π) (s : State) (num : Nat) :
    π (State.dropFetch s num) = π s := by
  unfold State.dropFetch
  with_reducible
    repeat' first | (rfl) | (refine (hFtu _ _).trans ?_)

theorem State.claimAll_frame {α : Type} (π : State → α) (hDsc : KeepsDsc π) (s : State) (num : Nat) (unit : Nat) (units : Nat) (path : Nat) (reads : List (Nat × Nat)) :
    π (State.claimAll s num unit units path reads) = π s := by
  unfold State.claimAll
  with_reducible repeat' first
    | rfl
    | assumption
    | (intro)
    | refine ite_frame ?_ ?_
    | refine ite_frame2 ?_ ?_
    | refine (hDsc _ _).trans ?_
    | refine (foldl_frame π _ ?_ _ _).trans ?_
    | refine (foldl_frame2 π _ ?_ _ _).trans ?_
    | refine pair_frame (by with_reducible assumption) ?_
    | split
    | (dsimp only)

theorem State.fetchNext_frame {α : Type} (π : State → α) (hDsc : KeepsDsc π) (hFtu : KeepsFtu π) (s : State) (f : Fetch) :
    π (State.fetchNext s f).2 = π s := by
  unfold State.fetchNext
  with_reducible repeat' first
    | rfl
    | assumption
    | (intro)
    | refine ite_frame ?_ ?_
    | refine ite_frame2 ?_ ?_
    | refine (State.modFetch_frame π hFtu _ _ _).trans ?_
    | refine (State.claimAll_frame π hDsc _ _ _ _ _ _).trans ?_
    | refine pair_frame (by with_reducible assumption) ?_
    | split
    | (dsimp only)

theorem State.startFetch_frame {α : Type} (π : State → α) (hOut : KeepsOut π) (hLink : KeepsLink π) (hPort : KeepsPort π) (hDsc : KeepsDsc π) (hFtu : KeepsFtu π) (s : State) (work : Work) (die : Nat) (chunk : Nat) (unit : Nat) (units : Nat) :
    π (State.startFetch s work die chunk unit units).2 = π s := by
  unfold State.startFetch
  with_reducible repeat' first
    | rfl
    | assumption
    | (intro)
    | refine ite_frame ?_ ?_
    | refine ite_frame2 ?_ ?_
    | refine (hFtu _ _).trans ?_
    | refine (hDsc _ _).trans ?_
    | refine (State.sendPeerRead_frame π hOut hLink hPort _ _ _ _ _ _ _ _).trans ?_
    | refine (State.modFetch_frame π hFtu _ _ _).trans ?_
    | refine (State.fetchNext_frame π hDsc hFtu _ _).trans ?_
    | refine (pair_frame (by with_reducible assumption) (State.fetchNext_frame π hDsc hFtu _ _)).trans ?_
    | refine (State.dropFetch_frame π hFtu _ _).trans ?_
    | refine pair_frame (by with_reducible assumption) ?_
    | split
    | (dsimp only)

theorem State.piece_frame {α : Type} (π : State → α) (hFtu : KeepsFtu π) (s : State) (num : Nat) (die : Nat) (b : Option Bytes) :
    π (State.piece s num die b).2 = π s := by
  unfold State.piece
  with_reducible repeat' first
    | rfl
    | assumption
    | (intro)
    | refine ite_frame ?_ ?_
    | refine ite_frame2 ?_ ?_
    | refine (State.modFetch_frame π hFtu _ _ _).trans ?_
    | refine pair_frame (by with_reducible assumption) ?_
    | split
    | (dsimp only)

theorem State.noteRepair_frame {α : Type} (π : State → α) (hFtu : KeepsFtu π) (hEvr : KeepsEvr π) (s : State) (f : Fetch) (inBound : Bool) :
    π (State.noteRepair s f inBound) = π s := by
  unfold State.noteRepair
  with_reducible repeat' first
    | rfl
    | assumption
    | (intro)
    | refine ite_frame ?_ ?_
    | refine (hFtu _ _).trans ?_
    | refine (State.event_frame π hEvr _ _ _ _ _ _ _).trans ?_
    | refine pair_frame (by with_reducible assumption) ?_
    | split
    | (dsimp only)

theorem State.recoverLater_frame {α : Type} (π : State → α) (hFtu : KeepsFtu π) (s : State) (v : Nat) (grain : Nat) :
    π (State.recoverLater s v grain) = π s := by
  unfold State.recoverLater
  with_reducible repeat' first
    | rfl
    | assumption
    | (intro)
    | refine ite_frame ?_ ?_
    | refine ite_frame2 ?_ ?_
    | refine (hFtu _ _).trans ?_
    | refine pair_frame (by with_reducible assumption) ?_
    | split
    | (dsimp only)

theorem State.refreshAt_frame {α : Type} (π : State → α) (hFtu : KeepsFtu π) (s : State) (die : Nat) (chunk : Nat) :
    π (State.refreshAt s die chunk) = π s := by
  unfold State.refreshAt
  with_reducible repeat' first
    | rfl
    | assumption
    | (intro)
    | refine ite_frame ?_ ?_
    | refine (hFtu _ _).trans ?_
    | refine pair_frame (by with_reducible assumption) ?_
    | split
    | (dsimp only)

end Sys2Proof.Machine
end

