-- ==== Sys2Proof/Laws/FrameWritePath.lean ====
section
/-! SUPPORT. What the definitions of Machine/WritePath.lean leave alone: a view of the state that no block they write can change reads
the same after them. -/

set_option linter.unusedSimpArgs false

namespace Sys2Proof.Machine

open Sys2Proof

theorem State.takeFrames_frame {α : Type} (π : State → α) (hCqe : KeepsCqe π) (hWc : KeepsWc π) (hFtu : KeepsFtu π) (s : State) (c : Cmd) :
    π (State.takeFrames s c).2 = π s := by
  unfold State.takeFrames
  with_reducible repeat' first
    | rfl
    | assumption
    | (intro)
    | refine ite_frame ?_ ?_
    | refine ite_frame2 ?_ ?_
    | refine (hWc _ _).trans ?_
    | refine (hFtu _ _).trans ?_
    | refine (State.modCmd_frame π hCqe _ _ _ _).trans ?_
    | refine pair_frame (by with_reducible assumption) ?_
    | split
    | (dsimp only)

theorem State.commitWrite_frame {α : Type} (π : State → α) (hOut : KeepsOut π) (hPort : KeepsPort π) (hCqe : KeepsCqe π) (hWc : KeepsWc π) (hDge : KeepsDge π) (hCpe : KeepsCpe π) (hFtu : KeepsFtu π) (hSlc : KeepsSlc π) (hEvr : KeepsEvr π) (s : State) (c : Cmd) (cs0 : Nat) :
    π (State.commitWrite s c cs0) = π s := by
  unfold State.commitWrite
  with_reducible repeat' first
    | rfl
    | assumption
    | (intro)
    | refine ite_frame ?_ ?_
    | refine (hWc _ _).trans ?_
    | refine (State.finish_frame π hOut hPort hCqe hDge hCpe hFtu hSlc hEvr _ _ _).trans ?_
    | refine (State.modCmd_frame π hCqe _ _ _ _).trans ?_
    | refine (foldl_frame π _ ?_ _ _).trans ?_
    | refine (foldl_frame2 π _ ?_ _ _).trans ?_
    | refine pair_frame (by with_reducible assumption) ?_
    | split
    | (dsimp only)

theorem State.sendCopies_frame {α : Type} (π : State → α) (hOut : KeepsOut π) (hPort : KeepsPort π) (hSlc : KeepsSlc π) (s : State) (c : Cmd) :
    π (State.sendCopies s c) = π s := by
  unfold State.sendCopies
  with_reducible repeat' first
    | rfl
    | assumption
    | (intro)
    | refine ite_frame ?_ ?_
    | refine ite_frame2 ?_ ?_
    | refine (State.unstage_frame π hSlc _ _ _).trans ?_
    | refine (State.toPeer_frame π hOut hPort _ _).trans ?_
    | refine (State.transmit_frame π hOut hPort _ _ _ _).trans ?_
    | refine (foldl_frame π _ ?_ _ _).trans ?_
    | refine (foldl_frame2 π _ ?_ _ _).trans ?_
    | refine pair_frame (by with_reducible assumption) ?_
    | split
    | (dsimp only)

theorem State.launchWrite_frame {α : Type} (π : State → α) (hOut : KeepsOut π) (hPort : KeepsPort π) (hCqe : KeepsCqe π) (hWc : KeepsWc π) (hDge : KeepsDge π) (hCpe : KeepsCpe π) (hFtu : KeepsFtu π) (hSlc : KeepsSlc π) (hEvr : KeepsEvr π) (s : State) (c : Cmd) (sectors : List Bytes) :
    π (State.launchWrite s c sectors) = π s := by
  unfold State.launchWrite
  with_reducible repeat' first
    | rfl
    | assumption
    | (intro)
    | refine ite_frame ?_ ?_
    | refine (hWc _ _).trans ?_
    | refine (State.sendCopies_frame π hOut hPort hSlc _ _).trans ?_
    | refine (State.modCmd_frame π hCqe _ _ _ _).trans ?_
    | refine (State.commitWrite_frame π hOut hPort hCqe hWc hDge hCpe hFtu hSlc hEvr _ _ _).trans ?_
    | refine pair_frame (by with_reducible assumption) ?_
    | split
    | (dsimp only)

theorem State.mirrorAcked_frame {α : Type} (π : State → α) (hOut : KeepsOut π) (hPort : KeepsPort π) (hCqe : KeepsCqe π) (hWc : KeepsWc π) (hDge : KeepsDge π) (hCpe : KeepsCpe π) (hFtu : KeepsFtu π) (hSlc : KeepsSlc π) (hEvr : KeepsEvr π) (s : State) (frame : Nat) (gen : Nat) :
    π (State.mirrorAcked s frame gen) = π s := by
  unfold State.mirrorAcked
  with_reducible repeat' first
    | rfl
    | assumption
    | (intro)
    | refine ite_frame ?_ ?_
    | refine (hWc _ _).trans ?_
    | refine (State.modCmd_frame π hCqe _ _ _ _).trans ?_
    | refine (State.commitWrite_frame π hOut hPort hCqe hWc hDge hCpe hFtu hSlc hEvr _ _ _).trans ?_
    | refine (foldl_frame π _ ?_ _ _).trans ?_
    | refine (foldl_frame2 π _ ?_ _ _).trans ?_
    | refine pair_frame (by with_reducible assumption) ?_
    | split
    | (dsimp only)

theorem State.commitWaiting_frame {α : Type} (π : State → α) (hOut : KeepsOut π) (hPort : KeepsPort π) (hCqe : KeepsCqe π) (hWc : KeepsWc π) (hDge : KeepsDge π) (hCpe : KeepsCpe π) (hFtu : KeepsFtu π) (hSlc : KeepsSlc π) (hEvr : KeepsEvr π) (s : State) :
    π (State.commitWaiting s) = π s := by
  unfold State.commitWaiting
  with_reducible repeat' first
    | rfl
    | assumption
    | (intro)
    | refine (State.commitWrite_frame π hOut hPort hCqe hWc hDge hCpe hFtu hSlc hEvr _ _ _).trans ?_
    | refine (foldl_frame π _ ?_ _ _).trans ?_
    | refine (foldl_frame2 π _ ?_ _ _).trans ?_
    | refine pair_frame (by with_reducible assumption) ?_
    | split
    | (dsimp only)

theorem execMirrorDeadline_frame {α : Type} (π : State → α) (hDt : KeepsDt π) (hOut : KeepsOut π) (hPort : KeepsPort π) (hCqe : KeepsCqe π) (hWc : KeepsWc π) (hDge : KeepsDge π) (hCpe : KeepsCpe π) (hFtu : KeepsFtu π) (hSlc : KeepsSlc π) (hEvr : KeepsEvr π) (qp : BitVec 14) (cid : BitVec 16) (s : State) :
    ∃ s', execMirrorDeadline qp cid s = .next s' ∧ π s' = π s := by
  unfold execMirrorDeadline
  with_reducible repeat' first
    | rfl
    | assumption
    | (intro)
    | refine ite_frame ?_ ?_
    | refine (State.advanceTo_frame π hDt _ _).trans ?_
    | refine (hWc _ _).trans ?_
    | refine (State.event_frame π hEvr _ _ _ _ _ _ _).trans ?_
    | refine (State.endUncommitted_frame π hOut hPort hCqe hWc hDge hCpe hFtu hSlc hEvr _ _ _ _).trans ?_
    | refine ⟨_, rfl, ?_⟩
    | refine pair_frame (by with_reducible assumption) ?_
    | split
    | (dsimp only)

theorem execMirrorCopy_frame {α : Type} (π : State → α) (hOut : KeepsOut π) (hPort : KeepsPort π) (hWc : KeepsWc π) (hEvr : KeepsEvr π) (frame : Nat) (desc : Desc) (crcOk : Bool) (data : List Bytes) (s : State) :
    ∃ s', execMirrorCopy frame desc crcOk data s = .next s' ∧ π s' = π s := by
  unfold execMirrorCopy
  with_reducible repeat' first
    | rfl
    | assumption
    | (intro)
    | refine ite_frame ?_ ?_
    | refine (State.portViolation_frame π hPort hEvr _ _ _ _ _ _).trans ?_
    | refine (hWc _ _).trans ?_
    | refine (State.toPeer_frame π hOut hPort _ _).trans ?_
    | refine ⟨_, rfl, ?_⟩
    | refine pair_frame (by with_reducible assumption) ?_
    | split
    | (dsimp only)

theorem State.releaseMirror_frame {α : Type} (π : State → α) (hWc : KeepsWc π) (s : State) (frame : Nat) (gen : Nat) :
    π (State.releaseMirror s frame gen) = π s := by
  unfold State.releaseMirror
  with_reducible repeat' first
    | rfl
    | assumption
    | (intro)
    | refine ite_frame ?_ ?_
    | refine (hWc _ _).trans ?_
    | refine pair_frame (by with_reducible assumption) ?_
    | split
    | (dsimp only)

theorem State.mirrorMetaIn_frame {α : Type} (π : State → α) (hOut : KeepsOut π) (hPort : KeepsPort π) (hCqe : KeepsCqe π) (hWc : KeepsWc π) (s : State) (frame : Nat) (gen : Nat) (cid : Nat) (qp : Nat) (cepoch : Nat) (mask : Nat) :
    π (State.mirrorMetaIn s frame gen cid qp cepoch mask) = π s := by
  unfold State.mirrorMetaIn
  with_reducible repeat' first
    | rfl
    | assumption
    | (intro)
    | refine ite_frame ?_ ?_
    | refine ite_frame2 ?_ ?_
    | refine (hWc _ _).trans ?_
    | refine (State.toPeer_frame π hOut hPort _ _).trans ?_
    | refine (State.modCmd_frame π hCqe _ _ _ _).trans ?_
    | refine pair_frame (by with_reducible assumption) ?_
    | split
    | (dsimp only)

theorem State.startWrite_frame {α : Type} (π : State → α) (hOut : KeepsOut π) (hPort : KeepsPort π) (hCqe : KeepsCqe π) (hWc : KeepsWc π) (hDge : KeepsDge π) (hCpe : KeepsCpe π) (hFtu : KeepsFtu π) (hSlc : KeepsSlc π) (hEvr : KeepsEvr π) (s : State) (c : Cmd) :
    π (State.startWrite s c) = π s := by
  unfold State.startWrite
  with_reducible repeat' first
    | rfl
    | assumption
    | (intro)
    | refine ite_frame ?_ ?_
    | refine ite_frame2 ?_ ?_
    | refine (State.takeFrames_frame π hCqe hWc hFtu _ _).trans ?_
    | refine (pair_frame (by with_reducible assumption) (State.takeFrames_frame π hCqe hWc hFtu _ _)).trans ?_
    | refine (State.launchWrite_frame π hOut hPort hCqe hWc hDge hCpe hFtu hSlc hEvr _ _ _).trans ?_
    | refine pair_frame (by with_reducible assumption) ?_
    | split
    | (dsimp only)

end Sys2Proof.Machine
end

