-- ==== Sys2Proof/Laws/FrameReadPath.lean ====
section
/-! SUPPORT. What the definitions of Machine/ReadPath.lean leave alone: a view of the state that no block they write can change reads
the same after them. -/

set_option linter.unusedSimpArgs false

namespace Sys2Proof.Machine

open Sys2Proof

theorem State.modPart_frame {α : Type} (π : State → α) (hCqe : KeepsCqe π) (s : State) (qp : Nat) (cid : Nat) (idx : Nat) (f : Part → Part) :
    π (State.modPart s qp cid idx f) = π s := by
  unfold State.modPart
  with_reducible
    repeat' first | (rfl) | (refine (State.modCmd_frame π hCqe _ _ _ _).trans ?_)

theorem State.sendData_frame {α : Type} (π : State → α) (hOut : KeepsOut π) (hPort : KeepsPort π) (hCqe : KeepsCqe π) (s : State) (c : Cmd) (b : Bytes) :
    π (State.sendData s c b) = π s := by
  unfold State.sendData
  with_reducible repeat' first
    | rfl
    | assumption
    | (intro)
    | refine ite_frame ?_ ?_
    | refine (State.transmit_frame π hOut hPort _ _ _ _).trans ?_
    | refine (State.modCmd_frame π hCqe _ _ _ _).trans ?_
    | refine pair_frame (by with_reducible assumption) ?_
    | split
    | (dsimp only)

theorem State.tryFinish_frame {α : Type} (π : State → α) (hOut : KeepsOut π) (hPort : KeepsPort π) (hCqe : KeepsCqe π) (hWc : KeepsWc π) (hDge : KeepsDge π) (hCpe : KeepsCpe π) (hFtu : KeepsFtu π) (hSlc : KeepsSlc π) (hEvr : KeepsEvr π) (s : State) (c : Cmd) :
    π (State.tryFinish s c) = π s := by
  unfold State.tryFinish
  with_reducible repeat' first
    | rfl
    | assumption
    | (intro)
    | refine ite_frame ?_ ?_
    | refine ite_frame2 ?_ ?_
    | refine (State.finish_frame π hOut hPort hCqe hDge hCpe hFtu hSlc hEvr _ _ _).trans ?_
    | refine (State.sendData_frame π hOut hPort hCqe _ _ _).trans ?_
    | refine (State.endUncommitted_frame π hOut hPort hCqe hWc hDge hCpe hFtu hSlc hEvr _ _ _ _).trans ?_
    | refine (State.drainCid_frame π hCqe _ _ _).trans ?_
    | refine (State.launchWrite_frame π hOut hPort hCqe hWc hDge hCpe hFtu hSlc hEvr _ _ _).trans ?_
    | refine pair_frame (by with_reducible assumption) ?_
    | split
    | (dsimp only)

theorem State.tryCmd_frame {α : Type} (π : State → α) (hOut : KeepsOut π) (hPort : KeepsPort π) (hCqe : KeepsCqe π) (hWc : KeepsWc π) (hDge : KeepsDge π) (hCpe : KeepsCpe π) (hFtu : KeepsFtu π) (hSlc : KeepsSlc π) (hEvr : KeepsEvr π) (s : State) (qp : Nat) (cid : Nat) :
    π (State.tryCmd s qp cid) = π s := by
  unfold State.tryCmd
  with_reducible repeat' first
    | rfl
    | assumption
    | (intro)
    | refine ite_frame ?_ ?_
    | refine (State.tryFinish_frame π hOut hPort hCqe hWc hDge hCpe hFtu hSlc hEvr _ _).trans ?_
    | refine pair_frame (by with_reducible assumption) ?_
    | split
    | (dsimp only)

theorem State.pokeCaws_frame {α : Type} (π : State → α) (hOut : KeepsOut π) (hPort : KeepsPort π) (hCqe : KeepsCqe π) (hWc : KeepsWc π) (hDge : KeepsDge π) (hCpe : KeepsCpe π) (hFtu : KeepsFtu π) (hSlc : KeepsSlc π) (hEvr : KeepsEvr π) (s : State) :
    π (State.pokeCaws s) = π s := by
  unfold State.pokeCaws
  with_reducible repeat' first
    | rfl
    | assumption
    | (intro)
    | refine (State.tryCmd_frame π hOut hPort hCqe hWc hDge hCpe hFtu hSlc hEvr _ _ _).trans ?_
    | refine (foldl_frame π _ ?_ _ _).trans ?_
    | refine (foldl_frame2 π _ ?_ _ _).trans ?_
    | refine pair_frame (by with_reducible assumption) ?_
    | split
    | (dsimp only)

theorem State.partDone_frame {α : Type} (π : State → α) (hOut : KeepsOut π) (hPort : KeepsPort π) (hCqe : KeepsCqe π) (hWc : KeepsWc π) (hDge : KeepsDge π) (hCpe : KeepsCpe π) (hFtu : KeepsFtu π) (hSlc : KeepsSlc π) (hEvr : KeepsEvr π) (s : State) (qp : Nat) (cid : Nat) (idx : Nat) (r : Nat × Nat) (data : List Bytes) :
    π (State.partDone s qp cid idx r data) = π s := by
  unfold State.partDone
  with_reducible
    repeat' first | (rfl) | (refine (State.tryCmd_frame π hOut hPort hCqe hWc hDge hCpe hFtu hSlc hEvr _ _ _).trans ?_) | (refine (State.modPart_frame π hCqe _ _ _ _ _).trans ?_)

theorem State.giveDecode_frame {α : Type} (π : State → α) (hCpe : KeepsCpe π) (s : State) :
    π (State.giveDecode s) = π s := by
  unfold State.giveDecode
  with_reducible repeat' first
    | rfl
    | assumption
    | (intro)
    | refine ite_frame ?_ ?_
    | refine (hCpe _ _).trans ?_
    | refine (foldl_frame π _ ?_ _ _).trans ?_
    | refine (foldl_frame2 π _ ?_ _ _).trans ?_
    | refine pair_frame (by with_reducible assumption) ?_
    | split
    | (dsimp only)

theorem State.hostDead_frame {α : Type} (π : State → α) (hOut : KeepsOut π) (hPort : KeepsPort π) (hCqe : KeepsCqe π) (hWc : KeepsWc π) (hDge : KeepsDge π) (hCpe : KeepsCpe π) (hFtu : KeepsFtu π) (hSlc : KeepsSlc π) (hEvr : KeepsEvr π) (s : State) (f : Fetch) (c : Cmd) (idx : Nat) (serial : Nat) :
    π (State.hostDead s f c idx serial) = π s := by
  unfold State.hostDead
  with_reducible repeat' first
    | rfl
    | assumption
    | (intro)
    | refine ite_frame ?_ ?_
    | refine (State.dropFetch_frame π hFtu _ _).trans ?_
    | refine (State.event_frame π hEvr _ _ _ _ _ _ _).trans ?_
    | refine (State.partDone_frame π hOut hPort hCqe hWc hDge hCpe hFtu hSlc hEvr _ _ _ _ _ _).trans ?_
    | refine (State.recoverLater_frame π hFtu _ _ _).trans ?_
    | refine pair_frame (by with_reducible assumption) ?_
    | split
    | (dsimp only)

theorem State.hostNext_frame {α : Type} (π : State → α) (hOut : KeepsOut π) (hPort : KeepsPort π) (hCqe : KeepsCqe π) (hDsc : KeepsDsc π) (hWc : KeepsWc π) (hDge : KeepsDge π) (hCpe : KeepsCpe π) (hFtu : KeepsFtu π) (hSlc : KeepsSlc π) (hEvr : KeepsEvr π) (s : State) (f : Fetch) (c : Cmd) (idx : Nat) (serial : Nat) :
    π (State.hostNext s f c idx serial) = π s := by
  unfold State.hostNext
  with_reducible repeat' first
    | rfl
    | assumption
    | (intro)
    | refine ite_frame ?_ ?_
    | refine (State.fetchNext_frame π hDsc hFtu _ _).trans ?_
    | refine (pair_frame (by with_reducible assumption) (State.fetchNext_frame π hDsc hFtu _ _)).trans ?_
    | refine (State.hostDead_frame π hOut hPort hCqe hWc hDge hCpe hFtu hSlc hEvr _ _ _ _ _).trans ?_
    | refine pair_frame (by with_reducible assumption) ?_
    | split
    | (dsimp only)

theorem State.judgeCopy_frame {α : Type} (π : State → α) (hOut : KeepsOut π) (hPort : KeepsPort π) (hCqe : KeepsCqe π) (hDsc : KeepsDsc π) (hWc : KeepsWc π) (hDge : KeepsDge π) (hCpe : KeepsCpe π) (hFtu : KeepsFtu π) (hSlc : KeepsSlc π) (hEvr : KeepsEvr π) (s : State) (f : Fetch) (c : Cmd) (idx : Nat) (h : GrainHdr) (d : Bytes) :
    π (State.judgeCopy s f c idx h d) = π s := by
  unfold State.judgeCopy
  with_reducible repeat' first
    | rfl
    | assumption
    | (intro)
    | refine ite_frame ?_ ?_
    | refine (State.dropFetch_frame π hFtu _ _).trans ?_
    | refine (State.noteRepair_frame π hFtu hEvr _ _ _).trans ?_
    | refine (State.recoverLater_frame π hFtu _ _ _).trans ?_
    | refine (State.partDone_frame π hOut hPort hCqe hWc hDge hCpe hFtu hSlc hEvr _ _ _ _ _ _).trans ?_
    | refine (hCpe _ _).trans ?_
    | refine (State.event_frame π hEvr _ _ _ _ _ _ _).trans ?_
    | refine (State.modPart_frame π hCqe _ _ _ _ _).trans ?_
    | refine (State.hostNext_frame π hOut hPort hCqe hDsc hWc hDge hCpe hFtu hSlc hEvr _ _ _ _ _).trans ?_
    | refine pair_frame (by with_reducible assumption) ?_
    | split
    | (dsimp only)

theorem State.hostGot_frame {α : Type} (π : State → α) (hOut : KeepsOut π) (hPort : KeepsPort π) (hCqe : KeepsCqe π) (hDsc : KeepsDsc π) (hWc : KeepsWc π) (hDge : KeepsDge π) (hCpe : KeepsCpe π) (hFtu : KeepsFtu π) (hSlc : KeepsSlc π) (hEvr : KeepsEvr π) (s : State) (f : Fetch) (qp : Nat) (cid : Nat) (idx : Nat) (b : Option Bytes) :
    π (State.hostGot s f qp cid idx b) = π s := by
  unfold State.hostGot
  with_reducible repeat' first
    | rfl
    | assumption
    | (intro)
    | refine ite_frame ?_ ?_
    | refine (State.dropFetch_frame π hFtu _ _).trans ?_
    | refine (State.hostNext_frame π hOut hPort hCqe hDsc hWc hDge hCpe hFtu hSlc hEvr _ _ _ _ _).trans ?_
    | refine (State.partDone_frame π hOut hPort hCqe hWc hDge hCpe hFtu hSlc hEvr _ _ _ _ _ _).trans ?_
    | refine (State.judgeCopy_frame π hOut hPort hCqe hDsc hWc hDge hCpe hFtu hSlc hEvr _ _ _ _ _ _).trans ?_
    | refine (State.giveDecode_frame π hCpe _).trans ?_
    | refine (hCpe _ _).trans ?_
    | refine pair_frame (by with_reducible assumption) ?_
    | split
    | (dsimp only)

theorem execDecodeDone_frame {α : Type} (π : State → α) (hOut : KeepsOut π) (hPort : KeepsPort π) (hCqe : KeepsCqe π) (hDsc : KeepsDsc π) (hWc : KeepsWc π) (hDge : KeepsDge π) (hCpe : KeepsCpe π) (hFtu : KeepsFtu π) (hSlc : KeepsSlc π) (hEvr : KeepsEvr π) (tag : Word) (lane : Fin 48) (s : State) :
    ∃ s', execDecodeDone tag lane s = .next s' ∧ π s' = π s := by
  unfold execDecodeDone
  with_reducible repeat' first
    | rfl
    | assumption
    | (intro)
    | refine ite_frame ?_ ?_
    | refine (State.giveDecode_frame π hCpe _).trans ?_
    | refine (hCpe _ _).trans ?_
    | refine (State.judgeCopy_frame π hOut hPort hCqe hDsc hWc hDge hCpe hFtu hSlc hEvr _ _ _ _ _ _).trans ?_
    | refine ⟨_, rfl, ?_⟩
    | refine pair_frame (by with_reducible assumption) ?_
    | split
    | (dsimp only)

theorem State.lateBind_frame {α : Type} (π : State → α) (hOut : KeepsOut π) (hLink : KeepsLink π) (hPort : KeepsPort π) (hCqe : KeepsCqe π) (hDsc : KeepsDsc π) (hWc : KeepsWc π) (hDge : KeepsDge π) (hDxu : KeepsDxu π) (hCpe : KeepsCpe π) (hFtu : KeepsFtu π) (hPxe : KeepsPxe π) (hSlc : KeepsSlc π) (hEvr : KeepsEvr π) (s : State) (c : Cmd) (idx : Nat) (grain : Nat) :
    π (State.lateBind s c idx grain) = π s := by
  unfold State.lateBind
  with_reducible repeat' first
    | rfl
    | assumption
    | (intro)
    | refine ite_frame ?_ ?_
    | refine (State.partDone_frame π hOut hPort hCqe hWc hDge hCpe hFtu hSlc hEvr _ _ _ _ _ _).trans ?_
    | refine (State.mapFaultAt_frame π hCqe hDxu hFtu hPxe hEvr _ _ _ _).trans ?_
    | refine (State.startFetch_frame π hOut hLink hPort hDsc hFtu _ _ _ _ _ _).trans ?_
    | refine (pair_frame (by with_reducible assumption) (State.startFetch_frame π hOut hLink hPort hDsc hFtu _ _ _ _ _ _)).trans ?_
    | refine (State.modPart_frame π hCqe _ _ _ _ _).trans ?_
    | refine (State.recoverLater_frame π hFtu _ _ _).trans ?_
    | refine pair_frame (by with_reducible assumption) ?_
    | split
    | (dsimp only)

theorem State.lateAll_frame {α : Type} (π : State → α) (hOut : KeepsOut π) (hLink : KeepsLink π) (hPort : KeepsPort π) (hCqe : KeepsCqe π) (hDsc : KeepsDsc π) (hWc : KeepsWc π) (hDge : KeepsDge π) (hDxu : KeepsDxu π) (hCpe : KeepsCpe π) (hFtu : KeepsFtu π) (hPxe : KeepsPxe π) (hSlc : KeepsSlc π) (hEvr : KeepsEvr π) (s : State) (vol : Nat) (page : Nat) :
    π (State.lateAll s vol page) = π s := by
  unfold State.lateAll
  with_reducible repeat' first
    | rfl
    | assumption
    | (intro)
    | refine ite_frame ?_ ?_
    | refine (State.lateBind_frame π hOut hLink hPort hCqe hDsc hWc hDge hDxu hCpe hFtu hPxe hSlc hEvr _ _ _ _).trans ?_
    | refine (foldl_frame π _ ?_ _ _).trans ?_
    | refine (foldl_frame2 π _ ?_ _ _).trans ?_
    | refine pair_frame (by with_reducible assumption) ?_
    | split
    | (dsimp only)

theorem State.mapGot_frame {α : Type} (π : State → α) (hOut : KeepsOut π) (hLink : KeepsLink π) (hPort : KeepsPort π) (hCqe : KeepsCqe π) (hDsc : KeepsDsc π) (hWc : KeepsWc π) (hDge : KeepsDge π) (hDxu : KeepsDxu π) (hCpe : KeepsCpe π) (hFtu : KeepsFtu π) (hPxe : KeepsPxe π) (hSlc : KeepsSlc π) (hEvr : KeepsEvr π) (s : State) (f : Fetch) (vol : Nat) (page : Nat) (b : Option Bytes) :
    π (State.mapGot s f vol page b) = π s := by
  unfold State.mapGot
  with_reducible repeat' first
    | rfl
    | assumption
    | (intro)
    | refine ite_frame ?_ ?_
    | refine ite_frame2 ?_ ?_
    | refine (State.fetchNext_frame π hDsc hFtu _ _).trans ?_
    | refine (pair_frame (by with_reducible assumption) (State.fetchNext_frame π hDsc hFtu _ _)).trans ?_
    | refine (hDsc _ _).trans ?_
    | refine (State.dropFetch_frame π hFtu _ _).trans ?_
    | refine (State.partDone_frame π hOut hPort hCqe hWc hDge hCpe hFtu hSlc hEvr _ _ _ _ _ _).trans ?_
    | refine (State.noteRepair_frame π hFtu hEvr _ _ _).trans ?_
    | refine (hFtu _ _).trans ?_
    | refine (State.lateAll_frame π hOut hLink hPort hCqe hDsc hWc hDge hDxu hCpe hFtu hPxe hSlc hEvr _ _ _).trans ?_
    | refine (foldl_frame π _ ?_ _ _).trans ?_
    | refine (foldl_frame2 π _ ?_ _ _).trans ?_
    | refine pair_frame (by with_reducible assumption) ?_
    | split
    | (dsimp only)

theorem State.startReads_frame {α : Type} (π : State → α) (hOut : KeepsOut π) (hLink : KeepsLink π) (hPort : KeepsPort π) (hCqe : KeepsCqe π) (hWc : KeepsWc π) (hDge : KeepsDge π) (hDxu : KeepsDxu π) (hCpe : KeepsCpe π) (hFtu : KeepsFtu π) (hPxe : KeepsPxe π) (hSlc : KeepsSlc π) (hEvr : KeepsEvr π) (s : State) (c : Cmd) :
    π (State.startReads s c) = π s := by
  unfold State.startReads
  with_reducible repeat' first
    | rfl
    | assumption
    | (intro)
    | refine ite_frame ?_ ?_
    | refine ite_frame2 ?_ ?_
    | refine (State.sendPeerRead_frame π hOut hLink hPort _ _ _ _ _ _ _ _).trans ?_
    | refine (State.mapFaultAt_frame π hCqe hDxu hFtu hPxe hEvr _ _ _ _).trans ?_
    | refine (State.modPart_frame π hCqe _ _ _ _ _).trans ?_
    | refine (State.tryCmd_frame π hOut hPort hCqe hWc hDge hCpe hFtu hSlc hEvr _ _ _).trans ?_
    | refine (foldl_frame π _ ?_ _ _).trans ?_
    | refine (foldl_frame2 π _ ?_ _ _).trans ?_
    | refine pair_frame (by with_reducible assumption) ?_
    | split
    | (dsimp only)

theorem State.startCmd_frame {α : Type} (π : State → α) (hOut : KeepsOut π) (hLink : KeepsLink π) (hPort : KeepsPort π) (hCqe : KeepsCqe π) (hWc : KeepsWc π) (hDge : KeepsDge π) (hDxu : KeepsDxu π) (hCpe : KeepsCpe π) (hFtu : KeepsFtu π) (hPxe : KeepsPxe π) (hSlc : KeepsSlc π) (hEvr : KeepsEvr π) (s : State) (c : Cmd) :
    π (State.startCmd s c) = π s := by
  unfold State.startCmd
  with_reducible repeat' first
    | rfl
    | assumption
    | (intro)
    | refine ite_frame ?_ ?_
    | refine ite_frame2 ?_ ?_
    | refine (State.startWrite_frame π hOut hPort hCqe hWc hDge hCpe hFtu hSlc hEvr _ _).trans ?_
    | refine (State.takeFrames_frame π hCqe hWc hFtu _ _).trans ?_
    | refine (pair_frame (by with_reducible assumption) (State.takeFrames_frame π hCqe hWc hFtu _ _)).trans ?_
    | refine (State.startReads_frame π hOut hLink hPort hCqe hWc hDge hDxu hCpe hFtu hPxe hSlc hEvr _ _).trans ?_
    | refine pair_frame (by with_reducible assumption) ?_
    | split
    | (dsimp only)

end Sys2Proof.Machine
end

