-- ==== Sys2Proof/Laws/FramePack.lean ====
section
/-! SUPPORT. What the definitions of Machine/Pack.lean leave alone: a view of the state that no block they write can change reads
the same after them. -/

set_option linter.unusedSimpArgs false

namespace Sys2Proof.Machine

open Sys2Proof

theorem State.placeOp_frame {α : Type} (π : State → α) (hDsc : KeepsDsc π) (hGov : KeepsGov π) (s : State) (die : Nat) (kind : ResvKind) (work : Work) (share : Option Nat) :
    π (State.placeOp s die kind work share).2 = π s := by
  unfold State.placeOp
  with_reducible repeat' first
    | rfl
    | assumption
    | (intro)
    | refine ite_frame ?_ ?_
    | refine ite_frame2 ?_ ?_
    | refine (hGov _ _).trans ?_
    | refine (hDsc _ _).trans ?_
    | refine pair_frame (by with_reducible assumption) ?_
    | split
    | (dsimp only)

theorem State.addUpdate_frame {α : Type} (π : State → α) (hFtu : KeepsFtu π) (s : State) (pool : Nat) (u : Update1) :
    π (State.addUpdate s pool u) = π s := by
  unfold State.addUpdate
  with_reducible repeat' first
    | rfl
    | assumption
    | (intro)
    | refine ite_frame ?_ ?_
    | refine (hFtu _ _).trans ?_
    | refine pair_frame (by with_reducible assumption) ?_
    | split
    | (dsimp only)

theorem State.modSegment_frame {α : Type} (π : State → α) (hFtu : KeepsFtu π) (s : State) (pool : Nat) (headB : Bool) (seq : Nat) (h : Segment → Segment) :
    π (State.modSegment s pool headB seq h) = π s := by
  unfold State.modSegment
  with_reducible repeat' first
    | rfl
    | assumption
    | (intro)
    | refine ite_frame ?_ ?_
    | refine (hFtu _ _).trans ?_
    | refine pair_frame (by with_reducible assumption) ?_
    | split
    | (dsimp only)

theorem State.setSegment_frame {α : Type} (π : State → α) (hFtu : KeepsFtu π) (s : State) (g : Segment) (st : SegSt) :
    π (State.setSegment s g st) = π s := by
  unfold State.setSegment
  with_reducible
    repeat' first | (rfl) | (refine (State.addUpdate_frame π hFtu _ _ _).trans ?_) | (refine (State.modSegment_frame π hFtu _ _ _ _ _).trans ?_)

theorem State.openSegment_frame {α : Type} (π : State → α) (hFtu : KeepsFtu π) (hPxe : KeepsPxe π) (s : State) (pool : Nat) (kind : Nat) (hot : Bool) :
    π (State.openSegment s pool kind hot).2 = π s := by
  unfold State.openSegment
  with_reducible repeat' first
    | rfl
    | assumption
    | (intro)
    | refine ite_frame ?_ ?_
    | refine ite_frame2 ?_ ?_
    | refine (hPxe _ _ ?_).trans ?_
    | refine (hFtu _ _).trans ?_
    | refine (State.addUpdate_frame π hFtu _ _ _).trans ?_
    | refine pair_frame (by with_reducible assumption) ?_
    | split
    | (dsimp only)

theorem State.addValid_frame {α : Type} (π : State → α) (hFtu : KeepsFtu π) (s : State) (e : MapEntry) (n : Int) :
    π (State.addValid s e n) = π s := by
  unfold State.addValid
  with_reducible repeat' first
    | rfl
    | assumption
    | (intro)
    | refine ite_frame ?_ ?_
    | refine (State.modSegment_frame π hFtu _ _ _ _ _).trans ?_
    | refine pair_frame (by with_reducible assumption) ?_
    | split
    | (dsimp only)

theorem State.setRegion_frame {α : Type} (π : State → α) (hOut : KeepsOut π) (hPort : KeepsPort π) (hPxe : KeepsPxe π) (s : State) (pool : Nat) (segSeq : Nat) (region : Nat) :
    π (State.setRegion s pool segSeq region) = π s := by
  unfold State.setRegion
  with_reducible repeat' first
    | rfl
    | assumption
    | (intro)
    | refine ite_frame ?_ ?_
    | refine (hPxe _ _ ?_).trans ?_
    | refine (State.toPeer_frame π hOut hPort _ _).trans ?_
    | refine pair_frame (by with_reducible assumption) ?_
    | split
    | (dsimp only)

theorem State.clearRegions_frame {α : Type} (π : State → α) (hPxe : KeepsPxe π) (s : State) (pool : Nat) (segSeq : Nat) :
    π (State.clearRegions s pool segSeq) = π s := by
  unfold State.clearRegions
  with_reducible repeat' first
    | rfl
    | assumption
    | (intro)
    | refine ite_frame ?_ ?_
    | refine ite_frame2 ?_ ?_
    | refine (hPxe _ _ ?_).trans ?_
    | refine (foldl_frame π _ ?_ _ _).trans ?_
    | refine (foldl_frame2 π _ ?_ _ _).trans ?_
    | refine pair_frame (by with_reducible assumption) ?_
    | split
    | (dsimp only)

theorem State.takeTarget_frame {α : Type} (π : State → α) (hFtu : KeepsFtu π) (hPxe : KeepsPxe π) (s : State) (pool : Nat) (home : Nat) (chunk : Nat) :
    π (State.takeTarget s pool home chunk).2 = π s := by
  unfold State.takeTarget
  with_reducible repeat' first
    | rfl
    | assumption
    | (intro)
    | refine ite_frame ?_ ?_
    | refine ite_frame2 ?_ ?_
    | refine (State.openSegment_frame π hFtu hPxe _ _ _ _).trans ?_
    | refine (pair_frame (by with_reducible assumption) (State.openSegment_frame π hFtu hPxe _ _ _ _)).trans ?_
    | refine pair_frame (by with_reducible assumption) ?_
    | split
    | (dsimp only)

theorem State.modStripe_frame {α : Type} (π : State → α) (hFtu : KeepsFtu π) (s : State) (num : Nat) (h : Stripe → Stripe) :
    π (State.modStripe s num h) = π s := by
  unfold State.modStripe
  with_reducible repeat' first
    | rfl
    | assumption
    | (intro)
    | refine ite_frame ?_ ?_
    | refine (hFtu _ _).trans ?_
    | refine pair_frame (by with_reducible assumption) ?_
    | split
    | (dsimp only)

theorem State.takeStripe_frame {α : Type} (π : State → α) (hFtu : KeepsFtu π) (hPxe : KeepsPxe π) (s : State) (pool : Nat) (kind : Nat) (hot : Bool) :
    π (State.takeStripe s pool kind hot).2 = π s := by
  unfold State.takeStripe
  with_reducible repeat' first
    | rfl
    | assumption
    | (intro)
    | refine ite_frame ?_ ?_
    | refine ite_frame2 ?_ ?_
    | refine (State.openSegment_frame π hFtu hPxe _ _ _ _).trans ?_
    | refine (pair_frame (by with_reducible assumption) (State.openSegment_frame π hFtu hPxe _ _ _ _)).trans ?_
    | refine (State.setSegment_frame π hFtu _ _ _).trans ?_
    | refine (State.modSegment_frame π hFtu _ _ _ _ _).trans ?_
    | refine (hFtu _ _).trans ?_
    | refine pair_frame (by with_reducible assumption) ?_
    | split
    | (dsimp only)

theorem State.planStripe_frame {α : Type} (π : State → α) (hDsc : KeepsDsc π) (hGov : KeepsGov π) (s : State) (t : Stripe) :
    π (State.planStripe s t) = π s := by
  unfold State.planStripe
  with_reducible repeat' first
    | rfl
    | assumption
    | (intro)
    | refine ite_frame ?_ ?_
    | refine ite_frame2 ?_ ?_
    | refine (State.placeOp_frame π hDsc hGov _ _ _ _ _).trans ?_
    | refine (pair_frame (by with_reducible assumption) (State.placeOp_frame π hDsc hGov _ _ _ _ _)).trans ?_
    | refine (foldl_frame π _ ?_ _ _).trans ?_
    | refine (foldl_frame2 π _ ?_ _ _).trans ?_
    | refine pair_frame (by with_reducible assumption) ?_
    | split
    | (dsimp only)

theorem State.issueStripe_frame {α : Type} (π : State → α) (hOut : KeepsOut π) (hPort : KeepsPort π) (hDsc : KeepsDsc π) (hFtu : KeepsFtu π) (hPxe : KeepsPxe π) (hGov : KeepsGov π) (s : State) (num : Nat) :
    π (State.issueStripe s num) = π s := by
  unfold State.issueStripe
  with_reducible repeat' first
    | rfl
    | assumption
    | (intro)
    | refine ite_frame ?_ ?_
    | refine ite_frame2 ?_ ?_
    | refine (State.takeTarget_frame π hFtu hPxe _ _ _ _).trans ?_
    | refine (pair_frame (by with_reducible assumption) (State.takeTarget_frame π hFtu hPxe _ _ _ _)).trans ?_
    | refine (State.setRegion_frame π hOut hPort hPxe _ _ _ _).trans ?_
    | refine (State.planStripe_frame π hDsc hGov _ _).trans ?_
    | refine (State.modStripe_frame π hFtu _ _ _).trans ?_
    | refine (foldl_frame π _ ?_ _ _).trans ?_
    | refine (foldl_frame2 π _ ?_ _ _).trans ?_
    | refine pair_frame (by with_reducible assumption) ?_
    | split
    | (dsimp only)

theorem State.packGrain_frame {α : Type} (π : State → α) (hOut : KeepsOut π) (hPort : KeepsPort π) (hDsc : KeepsDsc π) (hFtu : KeepsFtu π) (hPxe : KeepsPxe π) (hGov : KeepsGov π) (s : State) (kind : Nat) (hot : Bool) (pool : Nat) (p : Packed) (n : Nat) :
    π (State.packGrain s kind hot pool p n).2 = π s := by
  unfold State.packGrain
  with_reducible repeat' first
    | rfl
    | assumption
    | (intro)
    | refine ite_frame ?_ ?_
    | refine ite_frame2 ?_ ?_
    | refine (State.modStripe_frame π hFtu _ _ _).trans ?_
    | refine (State.issueStripe_frame π hOut hPort hDsc hFtu hPxe hGov _ _).trans ?_
    | refine (State.takeStripe_frame π hFtu hPxe _ _ _ _).trans ?_
    | refine (pair_frame (by with_reducible assumption) (State.takeStripe_frame π hFtu hPxe _ _ _ _)).trans ?_
    | refine pair_frame (by with_reducible assumption) ?_
    | split
    | (dsimp only)

theorem State.planRows_frame {α : Type} (π : State → α) (hDsc : KeepsDsc π) (hFtu : KeepsFtu π) (hGov : KeepsGov π) (s : State) :
    π (State.planRows s) = π s := by
  unfold State.planRows
  with_reducible repeat' first
    | rfl
    | assumption
    | (intro)
    | refine ite_frame ?_ ?_
    | refine ite_frame2 ?_ ?_
    | refine (hFtu _ _).trans ?_
    | refine (State.placeOp_frame π hDsc hGov _ _ _ _ _).trans ?_
    | refine (pair_frame (by with_reducible assumption) (State.placeOp_frame π hDsc hGov _ _ _ _ _)).trans ?_
    | refine (foldl_frame π _ ?_ _ _).trans ?_
    | refine (foldl_frame2 π _ ?_ _ _).trans ?_
    | refine pair_frame (by with_reducible assumption) ?_
    | split
    | (dsimp only)

theorem State.chunkDurable_frame {α : Type} (π : State → α) (hDsc : KeepsDsc π) (hFtu : KeepsFtu π) (hGov : KeepsGov π) (s : State) (die : Nat) (chunk : Nat) (b : Bytes) :
    π (State.chunkDurable s die chunk b) = π s := by
  unfold State.chunkDurable
  with_reducible repeat' first
    | rfl
    | assumption
    | (intro)
    | refine ite_frame ?_ ?_
    | refine (State.planRows_frame π hDsc hFtu hGov _).trans ?_
    | refine (hFtu _ _).trans ?_
    | refine pair_frame (by with_reducible assumption) ?_
    | split
    | (dsimp only)

theorem State.takeSerial_frame {α : Type} (π : State → α) (hFtu : KeepsFtu π) (s : State) (pool : Nat) :
    π (State.takeSerial s pool).2 = π s := by
  unfold State.takeSerial
  with_reducible repeat' first
    | rfl
    | assumption
    | (intro)
    | refine ite_frame ?_ ?_
    | refine ite_frame2 ?_ ?_
    | refine (hFtu _ _).trans ?_
    | refine (State.addUpdate_frame π hFtu _ _ _).trans ?_
    | refine pair_frame (by with_reducible assumption) ?_
    | split
    | (dsimp only)

theorem State.takeMetaSerial_frame {α : Type} (π : State → α) (hFtu : KeepsFtu π) (s : State) (pool : Nat) :
    π (State.takeMetaSerial s pool).2 = π s := by
  unfold State.takeMetaSerial
  with_reducible repeat' first
    | rfl
    | assumption
    | (intro)
    | refine ite_frame ?_ ?_
    | refine ite_frame2 ?_ ?_
    | refine (hFtu _ _).trans ?_
    | refine pair_frame (by with_reducible assumption) ?_
    | split
    | (dsimp only)

end Sys2Proof.Machine
end

