-- ==== Sys2Proof/Laws/FrameCommit.lean ====
section
/-! SUPPORT. What the definitions of Machine/Commit.lean leave alone: a view of the state that no block they write can change reads
the same after them. -/

set_option linter.unusedSimpArgs false

namespace Sys2Proof.Machine

open Sys2Proof

theorem State.giveCredit_frame {α : Type} (π : State → α) (hFtu : KeepsFtu π) (s : State) (die : Nat) (slots : Nat) :
    π (State.giveCredit s die slots) = π s := by
  unfold State.giveCredit
  with_reducible repeat' first
    | rfl
    | assumption
    | (intro)
    | refine ite_frame ?_ ?_
    | refine (hFtu _ _).trans ?_
    | refine pair_frame (by with_reducible assumption) ?_
    | split
    | (dsimp only)

theorem State.freePlace_frame {α : Type} (π : State → α) (hFtu : KeepsFtu π) (s : State) (e : MapEntry) :
    π (State.freePlace s e) = π s := by
  unfold State.freePlace
  with_reducible repeat' first
    | rfl
    | assumption
    | (intro)
    | refine ite_frame ?_ ?_
    | refine ite_frame2 ?_ ?_
    | refine (hFtu _ _).trans ?_
    | refine (State.giveCredit_frame π hFtu _ _ _).trans ?_
    | refine (State.addValid_frame π hFtu _ _ _).trans ?_
    | refine pair_frame (by with_reducible assumption) ?_
    | split
    | (dsimp only)

theorem State.raiseRef_frame {α : Type} (π : State → α) (hDxu : KeepsDxu π) (s : State) (e : MapEntry) :
    π (State.raiseRef s e) = π s := by
  unfold State.raiseRef
  with_reducible repeat' first
    | rfl
    | assumption
    | (intro)
    | refine ite_frame ?_ ?_
    | refine ite_frame2 ?_ ?_
    | refine (hDxu _ _).trans ?_
    | refine pair_frame (by with_reducible assumption) ?_
    | split
    | (dsimp only)

theorem State.markShared_frame {α : Type} (π : State → α) (hFtu : KeepsFtu π) (s : State) (e : MapEntry) :
    π (State.markShared s e) = π s := by
  unfold State.markShared
  with_reducible repeat' first
    | rfl
    | assumption
    | (intro)
    | refine ite_frame ?_ ?_
    | refine ite_frame2 ?_ ?_
    | refine (hFtu _ _).trans ?_
    | refine pair_frame (by with_reducible assumption) ?_
    | split
    | (dsimp only)

theorem State.applyMap_frame {α : Type} (π : State → α) (hDxu : KeepsDxu π) (hFtu : KeepsFtu π) (s : State) (vol : Nat) (grain : Nat) (ve : Nat) (new : MapEntry) :
    π (State.applyMap s vol grain ve new) = π s := by
  unfold State.applyMap
  with_reducible repeat' first
    | rfl
    | assumption
    | (intro)
    | refine ite_frame ?_ ?_
    | refine ite_frame2 ?_ ?_
    | refine (State.raiseRef_frame π hDxu _ _).trans ?_
    | refine (State.putEntry_frame π hFtu _ _ _ _ _).trans ?_
    | refine (State.addValid_frame π hFtu _ _ _).trans ?_
    | refine (State.freePlace_frame π hFtu _ _).trans ?_
    | refine (State.dropRef_frame π hDxu _ _).trans ?_
    | refine (foldl_frame π _ ?_ _ _).trans ?_
    | refine (foldl_frame2 π _ ?_ _ _).trans ?_
    | refine pair_frame (by with_reducible assumption) ?_
    | split
    | (dsimp only)

theorem State.applyMove_frame {α : Type} (π : State → α) (hDxu : KeepsDxu π) (hFtu : KeepsFtu π) (s : State) (old : MapEntry) (new : MapEntry) :
    π (State.applyMove s old new).2 = π s := by
  unfold State.applyMove
  with_reducible repeat' first
    | rfl
    | assumption
    | (intro)
    | refine ite_frame ?_ ?_
    | refine ite_frame2 ?_ ?_
    | refine (hFtu _ _).trans ?_
    | refine (hDxu _ _).trans ?_
    | refine (State.giveCredit_frame π hFtu _ _ _).trans ?_
    | refine (State.addValid_frame π hFtu _ _ _).trans ?_
    | refine pair_frame (by with_reducible assumption) ?_
    | split
    | (dsimp only)

theorem State.applyFrameMap_frame {α : Type} (π : State → α) (hCqe : KeepsCqe π) (hDxu : KeepsDxu π) (hFtu : KeepsFtu π) (hPxe : KeepsPxe π) (hEvr : KeepsEvr π) (s : State) (vol : Nat) (grain : Nat) (gen : Nat) (new : MapEntry) (cepoch : Nat) :
    π (State.applyFrameMap s vol grain gen new cepoch) = π s := by
  unfold State.applyFrameMap
  with_reducible repeat' first
    | rfl
    | assumption
    | (intro)
    | refine ite_frame ?_ ?_
    | refine ite_frame2 ?_ ?_
    | refine (hFtu _ _).trans ?_
    | refine (State.applyMap_frame π hDxu hFtu _ _ _ _ _).trans ?_
    | refine (State.mapFaultAt_frame π hCqe hDxu hFtu hPxe hEvr _ _ _ _).trans ?_
    | refine pair_frame (by with_reducible assumption) ?_
    | split
    | (dsimp only)

theorem State.applyUpdate_frame {α : Type} (π : State → α) (hCqe : KeepsCqe π) (hDxu : KeepsDxu π) (hFtu : KeepsFtu π) (hPxe : KeepsPxe π) (hEvr : KeepsEvr π) (s : State) (u : Update1) :
    π (State.applyUpdate s u) = π s := by
  unfold State.applyUpdate
  with_reducible repeat' first
    | rfl
    | assumption
    | (intro)
    | refine ite_frame ?_ ?_
    | refine ite_frame2 ?_ ?_
    | refine (State.applyFrameMap_frame π hCqe hDxu hFtu hPxe hEvr _ _ _ _ _ _).trans ?_
    | refine (State.markShared_frame π hFtu _ _).trans ?_
    | refine (State.applyMove_frame π hDxu hFtu _ _ _).trans ?_
    | refine (pair_frame (by with_reducible assumption) (State.applyMove_frame π hDxu hFtu _ _ _)).trans ?_
    | refine (hPxe _ _ ?_).trans ?_
    | refine pair_frame (by with_reducible assumption) ?_
    | split
    | (dsimp only)

theorem State.writeBack_frame {α : Type} (π : State → α) (hFtu : KeepsFtu π) (s : State) (pool : Nat) (num : Nat) (ps : List MapPage) :
    π (State.writeBack s pool num ps) = π s := by
  unfold State.writeBack
  with_reducible repeat' first
    | rfl
    | assumption
    | (intro)
    | refine ite_frame ?_ ?_
    | refine ite_frame2 ?_ ?_
    | refine (State.takeMetaSerial_frame π hFtu _ _).trans ?_
    | refine (pair_frame (by with_reducible assumption) (State.takeMetaSerial_frame π hFtu _ _)).trans ?_
    | refine (State.modStripe_frame π hFtu _ _ _).trans ?_
    | refine (hFtu _ _).trans ?_
    | refine (foldl_frame π _ ?_ _ _).trans ?_
    | refine (foldl_frame2 π _ ?_ _ _).trans ?_
    | refine pair_frame (by with_reducible assumption) ?_
    | split
    | (dsimp only)

theorem State.holdVersions_frame {α : Type} (π : State → α) (hFtu : KeepsFtu π) (hEvr : KeepsEvr π) (s : State) (held : List Update1) :
    π (State.holdVersions s held) = π s := by
  unfold State.holdVersions
  with_reducible repeat' first
    | rfl
    | assumption
    | (intro)
    | refine ite_frame ?_ ?_
    | refine (hFtu _ _).trans ?_
    | refine (State.event_frame π hEvr _ _ _ _ _ _ _).trans ?_
    | refine pair_frame (by with_reducible assumption) ?_
    | split
    | (dsimp only)

theorem State.closeCommit_frame {α : Type} (π : State → α) (hOut : KeepsOut π) (hPort : KeepsPort π) (hCqe : KeepsCqe π) (hDsc : KeepsDsc π) (hDxu : KeepsDxu π) (hFtu : KeepsFtu π) (hPxe : KeepsPxe π) (hGov : KeepsGov π) (hEvr : KeepsEvr π) (s : State) (pool : Nat) :
    π (State.closeCommit s pool) = π s := by
  unfold State.closeCommit
  with_reducible repeat' first
    | rfl
    | assumption
    | (intro)
    | refine ite_frame ?_ ?_
    | refine ite_frame2 ?_ ?_
    | refine (hFtu _ _).trans ?_
    | refine (State.holdVersions_frame π hFtu hEvr _ _).trans ?_
    | refine (State.takeStripe_frame π hFtu hPxe _ _ _ _).trans ?_
    | refine (pair_frame (by with_reducible assumption) (State.takeStripe_frame π hFtu hPxe _ _ _ _)).trans ?_
    | refine (State.applyUpdate_frame π hCqe hDxu hFtu hPxe hEvr _ _).trans ?_
    | refine (State.writeBack_frame π hFtu _ _ _ _).trans ?_
    | refine (State.modStripe_frame π hFtu _ _ _).trans ?_
    | refine (State.addUpdate_frame π hFtu _ _ _).trans ?_
    | refine (State.issueStripe_frame π hOut hPort hDsc hFtu hPxe hGov _ _).trans ?_
    | refine (foldl_frame π _ ?_ _ _).trans ?_
    | refine (foldl_frame2 π _ ?_ _ _).trans ?_
    | refine pair_frame (by with_reducible assumption) ?_
    | split
    | (dsimp only)

theorem execCommitCloseTimer_frame {α : Type} (π : State → α) (hDt : KeepsDt π) (hOut : KeepsOut π) (hPort : KeepsPort π) (hCqe : KeepsCqe π) (hDsc : KeepsDsc π) (hDxu : KeepsDxu π) (hFtu : KeepsFtu π) (hPxe : KeepsPxe π) (hGov : KeepsGov π) (hEvr : KeepsEvr π) (s : State) :
    ∃ s', execCommitCloseTimer s = .next s' ∧ π s' = π s := by
  unfold execCommitCloseTimer
  with_reducible repeat' first
    | rfl
    | assumption
    | (intro)
    | refine ite_frame ?_ ?_
    | refine (State.advanceTo_frame π hDt _ _).trans ?_
    | refine (State.closeCommit_frame π hOut hPort hCqe hDsc hDxu hFtu hPxe hGov hEvr _ _).trans ?_
    | refine (foldl_frame π _ ?_ _ _).trans ?_
    | refine (foldl_frame2 π _ ?_ _ _).trans ?_
    | refine ⟨_, rfl, ?_⟩
    | refine pair_frame (by with_reducible assumption) ?_
    | split
    | (dsimp only)

theorem State.releaseFrame_frame {α : Type} (π : State → α) (hOut : KeepsOut π) (hPort : KeepsPort π) (hWc : KeepsWc π) (hFtu : KeepsFtu π) (s : State) (i : Nat) :
    π (State.releaseFrame s i) = π s := by
  unfold State.releaseFrame
  with_reducible repeat' first
    | rfl
    | assumption
    | (intro)
    | refine ite_frame ?_ ?_
    | refine ite_frame2 ?_ ?_
    | refine (hWc _ _).trans ?_
    | refine (State.toPeer_frame π hOut hPort _ _).trans ?_
    | refine (hFtu _ _).trans ?_
    | refine pair_frame (by with_reducible assumption) ?_
    | split
    | (dsimp only)

theorem State.frameDurable_frame {α : Type} (π : State → α) (hFresh : KeepsFresh π) (hOut : KeepsOut π) (hPort : KeepsPort π) (hCqe : KeepsCqe π) (hWc : KeepsWc π) (hDxu : KeepsDxu π) (hFtu : KeepsFtu π) (hEvr : KeepsEvr π) (s : State) (i : Nat) (gen : Nat) (new : MapEntry) (serial : Nat) :
    π (State.frameDurable s i gen new serial) = π s := by
  unfold State.frameDurable
  with_reducible repeat' first
    | rfl
    | assumption
    | (intro)
    | refine ite_frame ?_ ?_
    | refine ite_frame2 ?_ ?_
    | refine (hDxu _ _).trans ?_
    | refine (State.dxuInsert_frame π hFresh hOut hPort hCqe hDxu hFtu hEvr _ _ _ _ _ _ _).trans ?_
    | refine (State.releaseFrame_frame π hOut hPort hWc hFtu _ _).trans ?_
    | refine pair_frame (by with_reducible assumption) ?_
    | split
    | (dsimp only)

theorem State.commitDurable_frame {α : Type} (π : State → α) (hFresh : KeepsFresh π) (hOut : KeepsOut π) (hPort : KeepsPort π) (hCqe : KeepsCqe π) (hDsc : KeepsDsc π) (hWc : KeepsWc π) (hDxu : KeepsDxu π) (hFtu : KeepsFtu π) (hEvr : KeepsEvr π) (hGlb : KeepsGlb π) (s : State) (seq : Nat) :
    π (State.commitDurable s seq) = π s := by
  unfold State.commitDurable
  with_reducible repeat' first
    | rfl
    | assumption
    | (intro)
    | refine ite_frame ?_ ?_
    | refine (hFtu _ _).trans ?_
    | refine (State.frameDurable_frame π hFresh hOut hPort hCqe hWc hDxu hFtu hEvr _ _ _ _ _).trans ?_
    | refine (State.toPeer_frame π hOut hPort _ _).trans ?_
    | refine (State.refreshPools_frame π hCqe hDsc hFtu hEvr hGlb _).trans ?_
    | refine (foldl_frame π _ ?_ _ _).trans ?_
    | refine (foldl_frame2 π _ ?_ _ _).trans ?_
    | refine pair_frame (by with_reducible assumption) ?_
    | split
    | (dsimp only)

theorem State.stripeDurable_frame {α : Type} (π : State → α) (hFresh : KeepsFresh π) (hOut : KeepsOut π) (hPort : KeepsPort π) (hCqe : KeepsCqe π) (hDsc : KeepsDsc π) (hWc : KeepsWc π) (hDxu : KeepsDxu π) (hFtu : KeepsFtu π) (hPxe : KeepsPxe π) (hEvr : KeepsEvr π) (hGlb : KeepsGlb π) (s : State) (t : Stripe) :
    π (State.stripeDurable s t) = π s := by
  unfold State.stripeDurable
  with_reducible repeat' first
    | rfl
    | assumption
    | (intro)
    | refine ite_frame ?_ ?_
    | refine ite_frame2 ?_ ?_
    | refine (hFtu _ _).trans ?_
    | refine (State.addUpdate_frame π hFtu _ _ _).trans ?_
    | refine (State.toPeer_frame π hOut hPort _ _).trans ?_
    | refine (hWc _ _).trans ?_
    | refine (State.addValid_frame π hFtu _ _ _).trans ?_
    | refine (State.clearRegions_frame π hPxe _ _ _).trans ?_
    | refine (State.commitDurable_frame π hFresh hOut hPort hCqe hDsc hWc hDxu hFtu hEvr hGlb _ _).trans ?_
    | refine (foldl_frame π _ ?_ _ _).trans ?_
    | refine (foldl_frame2 π _ ?_ _ _).trans ?_
    | refine pair_frame (by with_reducible assumption) ?_
    | split
    | (dsimp only)

theorem State.restripe_frame {α : Type} (π : State → α) (hOut : KeepsOut π) (hPort : KeepsPort π) (hDsc : KeepsDsc π) (hFtu : KeepsFtu π) (hPxe : KeepsPxe π) (hGov : KeepsGov π) (s : State) (t : Stripe) :
    π (State.restripe s t) = π s := by
  unfold State.restripe
  with_reducible repeat' first
    | rfl
    | assumption
    | (intro)
    | refine ite_frame ?_ ?_
    | refine ite_frame2 ?_ ?_
    | refine (hDsc _ _).trans ?_
    | refine (hFtu _ _).trans ?_
    | refine (State.packGrain_frame π hOut hPort hDsc hFtu hPxe hGov _ _ _ _ _ _).trans ?_
    | refine (pair_frame (by with_reducible assumption) (State.packGrain_frame π hOut hPort hDsc hFtu hPxe hGov _ _ _ _ _ _)).trans ?_
    | refine (State.takeStripe_frame π hFtu hPxe _ _ _ _).trans ?_
    | refine (pair_frame (by with_reducible assumption) (State.takeStripe_frame π hFtu hPxe _ _ _ _)).trans ?_
    | refine (State.issueStripe_frame π hOut hPort hDsc hFtu hPxe hGov _ _).trans ?_
    | refine (State.modStripe_frame π hFtu _ _ _).trans ?_
    | refine (foldl_frame π _ ?_ _ _).trans ?_
    | refine (foldl_frame2 π _ ?_ _ _).trans ?_
    | refine pair_frame (by with_reducible assumption) ?_
    | split
    | (dsimp only)

theorem State.memberDurable_frame {α : Type} (π : State → α) (hFresh : KeepsFresh π) (hOut : KeepsOut π) (hPort : KeepsPort π) (hCqe : KeepsCqe π) (hDsc : KeepsDsc π) (hWc : KeepsWc π) (hDxu : KeepsDxu π) (hFtu : KeepsFtu π) (hPxe : KeepsPxe π) (hGov : KeepsGov π) (hEvr : KeepsEvr π) (hGlb : KeepsGlb π) (s : State) (num : Nat) (m : Nat) (die : Nat) (chunk : Nat) :
    π (State.memberDurable s num m die chunk) = π s := by
  unfold State.memberDurable
  with_reducible repeat' first
    | rfl
    | assumption
    | (intro)
    | refine ite_frame ?_ ?_
    | refine (State.chunkDurable_frame π hDsc hFtu hGov _ _ _ _).trans ?_
    | refine (State.modStripe_frame π hFtu _ _ _).trans ?_
    | refine (State.stripeDurable_frame π hFresh hOut hPort hCqe hDsc hWc hDxu hFtu hPxe hEvr hGlb _ _).trans ?_
    | refine pair_frame (by with_reducible assumption) ?_
    | split
    | (dsimp only)

end Sys2Proof.Machine
end

