-- ==== Sys2Proof/Laws/FrameDestage.lean ====
section
/-! SUPPORT. What the definitions of Machine/Destage.lean leave alone: a view of the state that no block they write can change reads
the same after them. -/

set_option linter.unusedSimpArgs false

namespace Sys2Proof.Machine

open Sys2Proof

theorem State.modFrame_frame {α : Type} (π : State → α) (hWc : KeepsWc π) (s : State) (i : Nat) (h : Frame → Frame) :
    π (State.modFrame s i h) = π s := by
  unfold State.modFrame
  with_reducible
    repeat' first | (rfl) | (refine (hWc _ _).trans ?_)

theorem State.undoDestage_frame {α : Type} (π : State → α) (hWc : KeepsWc π) (hDxu : KeepsDxu π) (s : State) (i : Nat) :
    π (State.undoDestage s i) = π s := by
  unfold State.undoDestage
  with_reducible
    repeat' first | (rfl) | (refine (hDxu _ _).trans ?_) | (refine (State.modFrame_frame π hWc _ _ _).trans ?_)

theorem State.giveComp_frame {α : Type} (π : State → α) (hCpe : KeepsCpe π) (s : State) :
    π (State.giveComp s) = π s := by
  unfold State.giveComp
  with_reducible repeat' first
    | rfl
    | assumption
    | (intro)
    | refine ite_frame ?_ ?_
    | refine ite_frame2 ?_ ?_
    | refine (hCpe _ _).trans ?_
    | refine (foldl_frame π _ ?_ _ _).trans ?_
    | refine (foldl_frame2 π _ ?_ _ _).trans ?_
    | refine pair_frame (by with_reducible assumption) ?_
    | split
    | (dsimp only)

theorem State.queueComp_frame {α : Type} (π : State → α) (hWc : KeepsWc π) (hCpe : KeepsCpe π) (s : State) (i : Nat) :
    π (State.queueComp s i) = π s := by
  unfold State.queueComp
  with_reducible
    repeat' first | (rfl) | (refine (State.giveComp_frame π hCpe _).trans ?_) | (refine (State.modFrame_frame π hWc _ _ _).trans ?_)

theorem State.storeFrame_frame {α : Type} (π : State → α) (hOut : KeepsOut π) (hPort : KeepsPort π) (hDsc : KeepsDsc π) (hWc : KeepsWc π) (hDxu : KeepsDxu π) (hCpe : KeepsCpe π) (hFtu : KeepsFtu π) (hPxe : KeepsPxe π) (hGov : KeepsGov π) (s : State) (i : Nat) (raw : Bool) :
    π (State.storeFrame s i raw) = π s := by
  unfold State.storeFrame
  with_reducible repeat' first
    | rfl
    | assumption
    | (intro)
    | refine ite_frame ?_ ?_
    | refine (State.undoDestage_frame π hWc hDxu _ _).trans ?_
    | refine (State.takeSerial_frame π hFtu _ _).trans ?_
    | refine (pair_frame (by with_reducible assumption) (State.takeSerial_frame π hFtu _ _)).trans ?_
    | refine (State.packGrain_frame π hOut hPort hDsc hFtu hPxe hGov _ _ _ _ _ _).trans ?_
    | refine (pair_frame (by with_reducible assumption) (State.packGrain_frame π hOut hPort hDsc hFtu hPxe hGov _ _ _ _ _ _)).trans ?_
    | refine (hCpe _ _).trans ?_
    | refine (State.modFrame_frame π hWc _ _ _).trans ?_
    | refine pair_frame (by with_reducible assumption) ?_
    | split
    | (dsimp only)

theorem State.mapFrame_frame {α : Type} (π : State → α) (hWc : KeepsWc π) (hFtu : KeepsFtu π) (s : State) (i : Nat) (e : MapEntry) :
    π (State.mapFrame s i e) = π s := by
  unfold State.mapFrame
  with_reducible repeat' first
    | rfl
    | assumption
    | (intro)
    | refine ite_frame ?_ ?_
    | refine (State.addUpdate_frame π hFtu _ _ _).trans ?_
    | refine (State.modFrame_frame π hWc _ _ _).trans ?_
    | refine pair_frame (by with_reducible assumption) ?_
    | split
    | (dsimp only)

theorem State.settleDedup_frame {α : Type} (π : State → α) (hWc : KeepsWc π) (hDxu : KeepsDxu π) (hCpe : KeepsCpe π) (hFtu : KeepsFtu π) (hEvr : KeepsEvr π) (s : State) (i : Nat) (d : Nat) (fp : Bytes) (same : Bool) :
    π (State.settleDedup s i d fp same) = π s := by
  unfold State.settleDedup
  with_reducible repeat' first
    | rfl
    | assumption
    | (intro)
    | refine ite_frame ?_ ?_
    | refine (State.dedup_frame π hDxu hEvr _ _ _ _ _).trans ?_
    | refine (pair_frame (by with_reducible assumption) (State.dedup_frame π hDxu hEvr _ _ _ _ _)).trans ?_
    | refine (State.mapFrame_frame π hWc hFtu _ _ _).trans ?_
    | refine (State.takeRef_frame π hDxu _ _ _).trans ?_
    | refine (State.queueComp_frame π hWc hCpe _ _).trans ?_
    | refine (hDxu _ _).trans ?_
    | refine pair_frame (by with_reducible assumption) ?_
    | split
    | (dsimp only)

theorem State.dedupFrame_frame {α : Type} (π : State → α) (hOut : KeepsOut π) (hLink : KeepsLink π) (hPort : KeepsPort π) (hDsc : KeepsDsc π) (hWc : KeepsWc π) (hDxu : KeepsDxu π) (hCpe : KeepsCpe π) (hFtu : KeepsFtu π) (hEvr : KeepsEvr π) (s : State) (i : Nat) (d : Nat) (fp : Bytes) (seen : Option (Option Bool)) :
    π (State.dedupFrame s i d fp seen) = π s := by
  unfold State.dedupFrame
  with_reducible repeat' first
    | rfl
    | assumption
    | (intro)
    | refine ite_frame ?_ ?_
    | refine ite_frame2 ?_ ?_
    | refine (State.modFrame_frame π hWc _ _ _).trans ?_
    | refine (State.startFetch_frame π hOut hLink hPort hDsc hFtu _ _ _ _ _ _).trans ?_
    | refine (pair_frame (by with_reducible assumption) (State.startFetch_frame π hOut hLink hPort hDsc hFtu _ _ _ _ _ _)).trans ?_
    | refine (State.queueComp_frame π hWc hCpe _ _).trans ?_
    | refine (State.settleDedup_frame π hWc hDxu hCpe hFtu hEvr _ _ _ _ _).trans ?_
    | refine pair_frame (by with_reducible assumption) ?_
    | split
    | (dsimp only)

theorem State.destageFull_frame {α : Type} (π : State → α) (hOut : KeepsOut π) (hLink : KeepsLink π) (hPort : KeepsPort π) (hDsc : KeepsDsc π) (hWc : KeepsWc π) (hDxu : KeepsDxu π) (hCpe : KeepsCpe π) (hFtu : KeepsFtu π) (hEvr : KeepsEvr π) (s : State) (i : Nat) :
    π (State.destageFull s i) = π s := by
  unfold State.destageFull
  with_reducible repeat' first
    | rfl
    | assumption
    | (intro)
    | refine ite_frame ?_ ?_
    | refine (State.undoDestage_frame π hWc hDxu _ _).trans ?_
    | refine (State.queueComp_frame π hWc hCpe _ _).trans ?_
    | refine (State.dedupFrame_frame π hOut hLink hPort hDsc hWc hDxu hCpe hFtu hEvr _ _ _ _ _).trans ?_
    | refine (State.modFrame_frame π hWc _ _ _).trans ?_
    | refine pair_frame (by with_reducible assumption) ?_
    | split
    | (dsimp only)

theorem State.wakeDedup_frame {α : Type} (π : State → α) (hOut : KeepsOut π) (hLink : KeepsLink π) (hPort : KeepsPort π) (hDsc : KeepsDsc π) (hWc : KeepsWc π) (hDxu : KeepsDxu π) (hCpe : KeepsCpe π) (hFtu : KeepsFtu π) (hEvr : KeepsEvr π) (s : State) :
    π (State.wakeDedup s) = π s := by
  unfold State.wakeDedup
  with_reducible repeat' first
    | rfl
    | assumption
    | (intro)
    | refine (State.destageFull_frame π hOut hLink hPort hDsc hWc hDxu hCpe hFtu hEvr _ _).trans ?_
    | refine (foldl_frame π _ ?_ _ _).trans ?_
    | refine (foldl_frame2 π _ ?_ _ _).trans ?_
    | refine pair_frame (by with_reducible assumption) ?_
    | split
    | (dsimp only)

theorem State.destageFrame_frame {α : Type} (π : State → α) (hOut : KeepsOut π) (hLink : KeepsLink π) (hPort : KeepsPort π) (hDsc : KeepsDsc π) (hWc : KeepsWc π) (hDxu : KeepsDxu π) (hCpe : KeepsCpe π) (hFtu : KeepsFtu π) (hEvr : KeepsEvr π) (s : State) (i : Nat) :
    π (State.destageFrame s i) = π s := by
  unfold State.destageFrame
  with_reducible repeat' first
    | rfl
    | assumption
    | (intro)
    | refine ite_frame ?_ ?_
    | refine (State.modFrame_frame π hWc _ _ _).trans ?_
    | refine (State.releaseFrame_frame π hOut hPort hWc hFtu _ _).trans ?_
    | refine (State.mapFrame_frame π hWc hFtu _ _ _).trans ?_
    | refine (State.destageFull_frame π hOut hLink hPort hDsc hWc hDxu hCpe hFtu hEvr _ _).trans ?_
    | refine (State.startFetch_frame π hOut hLink hPort hDsc hFtu _ _ _ _ _ _).trans ?_
    | refine (pair_frame (by with_reducible assumption) (State.startFetch_frame π hOut hLink hPort hDsc hFtu _ _ _ _ _ _)).trans ?_
    | refine (State.undoDestage_frame π hWc hDxu _ _).trans ?_
    | refine (State.recoverLater_frame π hFtu _ _ _).trans ?_
    | refine pair_frame (by with_reducible assumption) ?_
    | split
    | (dsimp only)

theorem State.nextOr_frame {α : Type} (π : State → α) (hDsc : KeepsDsc π) (hFtu : KeepsFtu π) (s : State) (f : Fetch) (dead : State → State) (h_dead : ∀ s, π (dead s) = π s) :
    π (State.nextOr s f dead) = π s := by
  unfold State.nextOr
  with_reducible repeat' first
    | rfl
    | assumption
    | (intro)
    | refine ite_frame ?_ ?_
    | refine (State.fetchNext_frame π hDsc hFtu _ _).trans ?_
    | refine (pair_frame (by with_reducible assumption) (State.fetchNext_frame π hDsc hFtu _ _)).trans ?_
    | refine (State.dropFetch_frame π hFtu _ _).trans ?_
    | refine (h_dead _).trans ?_
    | refine pair_frame (by with_reducible assumption) ?_
    | split
    | (dsimp only)

theorem State.noteBadCopy_frame {α : Type} (π : State → α) (hCpe : KeepsCpe π) (hEvr : KeepsEvr π) (s : State) (v : Nat) (f : Fetch) (b : Bytes) :
    π (State.noteBadCopy s v f b) = π s := by
  unfold State.noteBadCopy
  with_reducible repeat' first
    | rfl
    | assumption
    | (intro)
    | refine ite_frame ?_ ?_
    | refine (hCpe _ _).trans ?_
    | refine (State.event_frame π hEvr _ _ _ _ _ _ _).trans ?_
    | refine pair_frame (by with_reducible assumption) ?_
    | split
    | (dsimp only)

theorem State.verifyGot_frame {α : Type} (π : State → α) (hOut : KeepsOut π) (hLink : KeepsLink π) (hPort : KeepsPort π) (hDsc : KeepsDsc π) (hWc : KeepsWc π) (hDxu : KeepsDxu π) (hCpe : KeepsCpe π) (hFtu : KeepsFtu π) (hEvr : KeepsEvr π) (s : State) (f : Fetch) (i : Nat) (b : Option Bytes) :
    π (State.verifyGot s f i b) = π s := by
  unfold State.verifyGot
  with_reducible repeat' first
    | rfl
    | assumption
    | (intro)
    | refine ite_frame ?_ ?_
    | refine (State.dropFetch_frame π hFtu _ _).trans ?_
    | refine (State.dedupFrame_frame π hOut hLink hPort hDsc hWc hDxu hCpe hFtu hEvr _ _ _ _ _).trans ?_
    | refine (State.queueComp_frame π hWc hCpe _ _).trans ?_
    | refine (State.nextOr_frame π hDsc hFtu _ _ _ ?_).trans ?_
    | refine (State.noteBadCopy_frame π hCpe hEvr _ _ _ _).trans ?_
    | refine pair_frame (by with_reducible assumption) ?_
    | split
    | (dsimp only)

theorem State.mergeGot_frame {α : Type} (π : State → α) (hOut : KeepsOut π) (hLink : KeepsLink π) (hPort : KeepsPort π) (hDsc : KeepsDsc π) (hWc : KeepsWc π) (hDxu : KeepsDxu π) (hCpe : KeepsCpe π) (hFtu : KeepsFtu π) (hEvr : KeepsEvr π) (s : State) (f : Fetch) (i : Nat) (b : Option Bytes) :
    π (State.mergeGot s f i b) = π s := by
  unfold State.mergeGot
  with_reducible repeat' first
    | rfl
    | assumption
    | (intro)
    | refine ite_frame ?_ ?_
    | refine (State.dropFetch_frame π hFtu _ _).trans ?_
    | refine (State.undoDestage_frame π hWc hDxu _ _).trans ?_
    | refine (State.recoverLater_frame π hFtu _ _ _).trans ?_
    | refine (State.nextOr_frame π hDsc hFtu _ _ _ ?_).trans ?_
    | refine (State.destageFull_frame π hOut hLink hPort hDsc hWc hDxu hCpe hFtu hEvr _ _).trans ?_
    | refine (State.modFrame_frame π hWc _ _ _).trans ?_
    | refine (State.noteBadCopy_frame π hCpe hEvr _ _ _ _).trans ?_
    | refine pair_frame (by with_reducible assumption) ?_
    | split
    | (dsimp only)

theorem State.badSectors_frame {α : Type} (π : State → α) (hFresh : KeepsFresh π) (s : State) (f : Frame) :
    π (State.badSectors s f).2 = π s := by
  unfold State.badSectors
  with_reducible repeat' first
    | rfl
    | assumption
    | (intro)
    | refine ite_frame ?_ ?_
    | refine ite_frame2 ?_ ?_
    | refine (State.freshen_frame π hFresh _).trans ?_
    | refine pair_frame (by with_reducible assumption) ?_
    | split
    | (dsimp only)

theorem State.inputMismatch_frame {α : Type} (π : State → α) (hFresh : KeepsFresh π) (hOut : KeepsOut π) (hPort : KeepsPort π) (hCqe : KeepsCqe π) (hWc : KeepsWc π) (hDxu : KeepsDxu π) (hFtu : KeepsFtu π) (hPxe : KeepsPxe π) (hEvr : KeepsEvr π) (s : State) (i : Nat) (f : Frame) :
    π (State.inputMismatch s i f) = π s := by
  unfold State.inputMismatch
  with_reducible repeat' first
    | rfl
    | assumption
    | (intro)
    | refine ite_frame ?_ ?_
    | refine ite_frame2 ?_ ?_
    | refine (State.badSectors_frame π hFresh _ _).trans ?_
    | refine (pair_frame (by with_reducible assumption) (State.badSectors_frame π hFresh _ _)).trans ?_
    | refine (State.freshen_frame π hFresh _).trans ?_
    | refine (State.undoDestage_frame π hWc hDxu _ _).trans ?_
    | refine (State.event_frame π hEvr _ _ _ _ _ _ _).trans ?_
    | refine (State.loseGrain_frame π hCqe hDxu hFtu hPxe hEvr _ _ _ _ _).trans ?_
    | refine (State.releaseFrame_frame π hOut hPort hWc hFtu _ _).trans ?_
    | refine (State.modFrame_frame π hWc _ _ _).trans ?_
    | refine (foldl_frame π _ ?_ _ _).trans ?_
    | refine (foldl_frame2 π _ ?_ _ _).trans ?_
    | refine pair_frame (by with_reducible assumption) ?_
    | split
    | (dsimp only)

theorem execCompressDone_frame {α : Type} (π : State → α) (hFresh : KeepsFresh π) (hOut : KeepsOut π) (hPort : KeepsPort π) (hCqe : KeepsCqe π) (hDsc : KeepsDsc π) (hWc : KeepsWc π) (hDxu : KeepsDxu π) (hCpe : KeepsCpe π) (hFtu : KeepsFtu π) (hPxe : KeepsPxe π) (hGov : KeepsGov π) (hEvr : KeepsEvr π) (frame : Nat) (lane : Fin 48) (laneFault : Bool) (inputCrcOk : Bool) (s : State) :
    ∃ s', execCompressDone frame lane laneFault inputCrcOk s = .next s' ∧ π s' = π s := by
  unfold execCompressDone
  with_reducible repeat' first
    | rfl
    | assumption
    | (intro)
    | refine ite_frame ?_ ?_
    | refine (hCpe _ _).trans ?_
    | refine (State.giveComp_frame π hCpe _).trans ?_
    | refine (State.inputMismatch_frame π hFresh hOut hPort hCqe hWc hDxu hFtu hPxe hEvr _ _ _).trans ?_
    | refine (State.event_frame π hEvr _ _ _ _ _ _ _).trans ?_
    | refine (State.storeFrame_frame π hOut hPort hDsc hWc hDxu hCpe hFtu hPxe hGov _ _ _).trans ?_
    | refine ⟨_, rfl, ?_⟩
    | refine pair_frame (by with_reducible assumption) ?_
    | split
    | (dsimp only)

theorem State.destageNow_frame {α : Type} (π : State → α) (hOut : KeepsOut π) (hLink : KeepsLink π) (hPort : KeepsPort π) (hDsc : KeepsDsc π) (hWc : KeepsWc π) (hDxu : KeepsDxu π) (hCpe : KeepsCpe π) (hFtu : KeepsFtu π) (hEvr : KeepsEvr π) (s : State) :
    π (State.destageNow s) = π s := by
  unfold State.destageNow
  with_reducible repeat' first
    | rfl
    | assumption
    | (intro)
    | refine ite_frame ?_ ?_
    | refine ite_frame2 ?_ ?_
    | refine (State.destageFrame_frame π hOut hLink hPort hDsc hWc hDxu hCpe hFtu hEvr _ _).trans ?_
    | refine (foldl_frame π _ ?_ _ _).trans ?_
    | refine (foldl_frame2 π _ ?_ _ _).trans ?_
    | refine pair_frame (by with_reducible assumption) ?_
    | split
    | (dsimp only)

theorem execDestagePad_frame {α : Type} (π : State → α) (hDt : KeepsDt π) (hOut : KeepsOut π) (hPort : KeepsPort π) (hDsc : KeepsDsc π) (hFtu : KeepsFtu π) (hPxe : KeepsPxe π) (hGov : KeepsGov π) (hEvr : KeepsEvr π) (pool : Fin 16) (s : State) :
    ∃ s', execDestagePad pool s = .next s' ∧ π s' = π s := by
  unfold execDestagePad
  with_reducible repeat' first
    | rfl
    | assumption
    | (intro)
    | refine ite_frame ?_ ?_
    | refine (State.advanceTo_frame π hDt _ _).trans ?_
    | refine (State.issueStripe_frame π hOut hPort hDsc hFtu hPxe hGov _ _).trans ?_
    | refine (State.event_frame π hEvr _ _ _ _ _ _ _).trans ?_
    | refine ⟨_, rfl, ?_⟩
    | refine pair_frame (by with_reducible assumption) ?_
    | split
    | (dsimp only)

end Sys2Proof.Machine
end

