-- ==== Sys2Proof/Laws/FrameMembers.lean ====
section
/-! SUPPORT. What the definitions of Machine/Members.lean leave alone: a view of the state that no block they write can change reads
the same after them. -/

set_option linter.unusedSimpArgs false

namespace Sys2Proof.Machine

open Sys2Proof

theorem State.peerViolation_frame {α : Type} (π : State → α) (hPort : KeepsPort π) (hEvr : KeepsEvr π) (s : State) (rtype : Nat) (word : Nat) :
    π (State.peerViolation s rtype word) = π s := by
  unfold State.peerViolation
  with_reducible
    repeat' first | (rfl) | (refine (hPort _ _ _).trans ?_) | (refine (State.event_frame π hEvr _ _ _ _ _ _ _).trans ?_)

theorem State.peerRecord_frame {α : Type} (π : State → α) (hPort : KeepsPort π) (hEvr : KeepsEvr π) (s : State) (rtype : Nat) (h : RecHdr) (act : State → State) (h_act : ∀ s, π (act s) = π s) :
    π (State.peerRecord s rtype h act) = π s := by
  unfold State.peerRecord
  with_reducible repeat' first
    | rfl
    | assumption
    | (intro)
    | refine ite_frame ?_ ?_
    | refine (State.peerViolation_frame π hPort hEvr _ _ _).trans ?_
    | refine (h_act _).trans ?_
    | refine pair_frame (by with_reducible assumption) ?_
    | split
    | (dsimp only)

theorem State.newGeneration_frame {α : Type} (π : State → α) (hCqe : KeepsCqe π) (hDsc : KeepsDsc π) (hFtu : KeepsFtu π) (hPxe : KeepsPxe π) (hEvr : KeepsEvr π) (hGlb : KeepsGlb π) (s : State) (pool : Nat) :
    π (State.newGeneration s pool) = π s := by
  unfold State.newGeneration
  with_reducible repeat' first
    | rfl
    | assumption
    | (intro)
    | refine ite_frame ?_ ?_
    | refine (hPxe _ _ ?_).trans ?_
    | refine (State.refreshPools_frame π hCqe hDsc hFtu hEvr hGlb _).trans ?_
    | refine (State.addUpdate_frame π hFtu _ _ _).trans ?_
    | refine (State.event_frame π hEvr _ _ _ _ _ _ _).trans ?_
    | refine pair_frame (by with_reducible assumption) ?_
    | split
    | (dsimp only)

theorem State.rebuildNotice_frame {α : Type} (π : State → α) (hCqe : KeepsCqe π) (hPxe : KeepsPxe π) (s : State) (pool : Nat) (position : Nat) :
    π (State.rebuildNotice s pool position) = π s := by
  unfold State.rebuildNotice
  with_reducible repeat' first
    | rfl
    | assumption
    | (intro)
    | refine (State.notifyPool_frame π hCqe _ _ _ _).trans ?_
    | refine (hPxe _ _ ?_).trans ?_
    | refine pair_frame (by with_reducible assumption) ?_
    | split
    | (dsimp only)

theorem State.refreshRebuild_frame {α : Type} (π : State → α) (hCqe : KeepsCqe π) (hDsc : KeepsDsc π) (hPxe : KeepsPxe π) (hEvr : KeepsEvr π) (s : State) (pool : Nat) :
    π (State.refreshRebuild s pool) = π s := by
  unfold State.refreshRebuild
  with_reducible repeat' first
    | rfl
    | assumption
    | (intro)
    | refine ite_frame ?_ ?_
    | refine (hPxe _ _ ?_).trans ?_
    | refine (State.event_frame π hEvr _ _ _ _ _ _ _).trans ?_
    | refine (State.refreshShares_frame π hCqe hDsc hEvr _).trans ?_
    | refine pair_frame (by with_reducible assumption) ?_
    | split
    | (dsimp only)

theorem State.startRebuild_frame {α : Type} (π : State → α) (hCqe : KeepsCqe π) (hDsc : KeepsDsc π) (hPxe : KeepsPxe π) (hEvr : KeepsEvr π) (s : State) (pool : Nat) (position : Nat) :
    π (State.startRebuild s pool position) = π s := by
  unfold State.startRebuild
  with_reducible repeat' first
    | rfl
    | assumption
    | (intro)
    | refine ite_frame ?_ ?_
    | refine ite_frame2 ?_ ?_
    | refine (State.refreshRebuild_frame π hCqe hDsc hPxe hEvr _ _).trans ?_
    | refine (hPxe _ _ ?_).trans ?_
    | refine (State.event_frame π hEvr _ _ _ _ _ _ _).trans ?_
    | refine (State.rebuildNotice_frame π hCqe hPxe _ _ _).trans ?_
    | refine (foldl_frame π _ ?_ _ _).trans ?_
    | refine (foldl_frame2 π _ ?_ _ _).trans ?_
    | refine pair_frame (by with_reducible assumption) ?_
    | split
    | (dsimp only)

theorem State.modCell_frame {α : Type} (π : State → α) (hPxe : KeepsPxe π) (s : State) (pool : Nat) (die : Nat) (chunk : Nat) (f : Cell → Cell) :
    π (State.modCell s pool die chunk f) = π s := by
  unfold State.modCell
  with_reducible repeat' first
    | rfl
    | assumption
    | (intro)
    | refine ite_frame ?_ ?_
    | refine (hPxe _ _ ?_).trans ?_
    | refine pair_frame (by with_reducible assumption) ?_
    | split
    | (dsimp only)

theorem State.cellDone_frame {α : Type} (π : State → α) (hCqe : KeepsCqe π) (hDsc : KeepsDsc π) (hPxe : KeepsPxe π) (hEvr : KeepsEvr π) (s : State) (pool : Nat) (die : Nat) (chunk : Nat) :
    π (State.cellDone s pool die chunk) = π s := by
  unfold State.cellDone
  with_reducible repeat' first
    | rfl
    | assumption
    | (intro)
    | refine ite_frame ?_ ?_
    | refine (State.refreshRebuild_frame π hCqe hDsc hPxe hEvr _ _).trans ?_
    | refine (hPxe _ _ ?_).trans ?_
    | refine (State.rebuildNotice_frame π hCqe hPxe _ _ _).trans ?_
    | refine (State.event_frame π hEvr _ _ _ _ _ _ _).trans ?_
    | refine pair_frame (by with_reducible assumption) ?_
    | split
    | (dsimp only)

theorem State.pauseRebuild_frame {α : Type} (π : State → α) (hCqe : KeepsCqe π) (hDsc : KeepsDsc π) (hPxe : KeepsPxe π) (hEvr : KeepsEvr π) (s : State) (pool : Nat) (cause : Nat) :
    π (State.pauseRebuild s pool cause) = π s := by
  unfold State.pauseRebuild
  with_reducible repeat' first
    | rfl
    | assumption
    | (intro)
    | refine ite_frame ?_ ?_
    | refine (State.refreshRebuild_frame π hCqe hDsc hPxe hEvr _ _).trans ?_
    | refine (hPxe _ _ ?_).trans ?_
    | refine (State.event_frame π hEvr _ _ _ _ _ _ _).trans ?_
    | refine pair_frame (by with_reducible assumption) ?_
    | split
    | (dsimp only)

theorem State.rebuildNow_frame {α : Type} (π : State → α) (hOut : KeepsOut π) (hLink : KeepsLink π) (hPort : KeepsPort π) (hCqe : KeepsCqe π) (hDsc : KeepsDsc π) (hFtu : KeepsFtu π) (hPxe : KeepsPxe π) (hEvr : KeepsEvr π) (s : State) (pool : Nat) :
    π (State.rebuildNow s pool) = π s := by
  unfold State.rebuildNow
  with_reducible repeat' first
    | rfl
    | assumption
    | (intro)
    | refine ite_frame ?_ ?_
    | refine (State.pauseRebuild_frame π hCqe hDsc hPxe hEvr _ _ _).trans ?_
    | refine (State.startFetch_frame π hOut hLink hPort hDsc hFtu _ _ _ _ _ _).trans ?_
    | refine (pair_frame (by with_reducible assumption) (State.startFetch_frame π hOut hLink hPort hDsc hFtu _ _ _ _ _ _)).trans ?_
    | refine (State.modCell_frame π hPxe _ _ _ _ _).trans ?_
    | refine (foldl_frame π _ ?_ _ _).trans ?_
    | refine (foldl_frame2 π _ ?_ _ _).trans ?_
    | refine pair_frame (by with_reducible assumption) ?_
    | split
    | (dsimp only)

theorem State.loseCell_frame {α : Type} (π : State → α) (hCqe : KeepsCqe π) (hDsc : KeepsDsc π) (hDxu : KeepsDxu π) (hFtu : KeepsFtu π) (hPxe : KeepsPxe π) (hEvr : KeepsEvr π) (s : State) (pool : Nat) (c : Cell) :
    π (State.loseCell s pool c) = π s := by
  unfold State.loseCell
  with_reducible repeat' first
    | rfl
    | assumption
    | (intro)
    | refine ite_frame ?_ ?_
    | refine ite_frame2 ?_ ?_
    | refine (State.event_frame π hEvr _ _ _ _ _ _ _).trans ?_
    | refine (State.refreshAt_frame π hFtu _ _ _).trans ?_
    | refine (State.loseGrain_frame π hCqe hDxu hFtu hPxe hEvr _ _ _ _ _).trans ?_
    | refine (hPxe _ _ ?_).trans ?_
    | refine (State.cellDone_frame π hCqe hDsc hPxe hEvr _ _ _ _).trans ?_
    | refine (foldl_frame π _ ?_ _ _).trans ?_
    | refine (foldl_frame2 π _ ?_ _ _).trans ?_
    | refine pair_frame (by with_reducible assumption) ?_
    | split
    | (dsimp only)

theorem State.rebuildGot_frame {α : Type} (π : State → α) (hCqe : KeepsCqe π) (hDsc : KeepsDsc π) (hDxu : KeepsDxu π) (hFtu : KeepsFtu π) (hPxe : KeepsPxe π) (hGov : KeepsGov π) (hEvr : KeepsEvr π) (s : State) (f : Fetch) (pool : Nat) (die : Nat) (chunk : Nat) (b : Option Bytes) :
    π (State.rebuildGot s f pool die chunk b) = π s := by
  unfold State.rebuildGot
  with_reducible repeat' first
    | rfl
    | assumption
    | (intro)
    | refine ite_frame ?_ ?_
    | refine (State.dropFetch_frame π hFtu _ _).trans ?_
    | refine (State.nextOr_frame π hDsc hFtu _ _ _ ?_).trans ?_
    | refine (State.loseCell_frame π hCqe hDsc hDxu hFtu hPxe hEvr _ _ _).trans ?_
    | refine (hPxe _ _ ?_).trans ?_
    | refine (State.takeTarget_frame π hFtu hPxe _ _ _ _).trans ?_
    | refine (pair_frame (by with_reducible assumption) (State.takeTarget_frame π hFtu hPxe _ _ _ _)).trans ?_
    | refine (State.pauseRebuild_frame π hCqe hDsc hPxe hEvr _ _ _).trans ?_
    | refine (State.modCell_frame π hPxe _ _ _ _ _).trans ?_
    | refine (State.placeOp_frame π hDsc hGov _ _ _ _ _).trans ?_
    | refine (pair_frame (by with_reducible assumption) (State.placeOp_frame π hDsc hGov _ _ _ _ _)).trans ?_
    | refine pair_frame (by with_reducible assumption) ?_
    | split
    | (dsimp only)

theorem State.cellWritten_frame {α : Type} (π : State → α) (hCqe : KeepsCqe π) (hDsc : KeepsDsc π) (hFtu : KeepsFtu π) (hPxe : KeepsPxe π) (hGov : KeepsGov π) (hEvr : KeepsEvr π) (s : State) (pool : Nat) (die : Nat) (chunk : Nat) :
    π (State.cellWritten s pool die chunk) = π s := by
  unfold State.cellWritten
  with_reducible repeat' first
    | rfl
    | assumption
    | (intro)
    | refine ite_frame ?_ ?_
    | refine (State.chunkDurable_frame π hDsc hFtu hGov _ _ _ _).trans ?_
    | refine (State.cellDone_frame π hCqe hDsc hPxe hEvr _ _ _ _).trans ?_
    | refine (State.addUpdate_frame π hFtu _ _ _).trans ?_
    | refine pair_frame (by with_reducible assumption) ?_
    | split
    | (dsimp only)

theorem execRebuildNoticeTimer_frame {α : Type} (π : State → α) (hDt : KeepsDt π) (hCqe : KeepsCqe π) (hPxe : KeepsPxe π) (pool : Fin 16) (s : State) :
    ∃ s', execRebuildNoticeTimer pool s = .next s' ∧ π s' = π s := by
  unfold execRebuildNoticeTimer
  with_reducible repeat' first
    | rfl
    | assumption
    | (intro)
    | refine ite_frame ?_ ?_
    | refine (State.rebuildNotice_frame π hCqe hPxe _ _ _).trans ?_
    | refine (State.advanceTo_frame π hDt _ _).trans ?_
    | refine ⟨_, rfl, ?_⟩
    | refine pair_frame (by with_reducible assumption) ?_
    | split
    | (dsimp only)

theorem State.setMember_frame {α : Type} (π : State → α) (hOut : KeepsOut π) (hPort : KeepsPort π) (hCqe : KeepsCqe π) (hDsc : KeepsDsc π) (hFtu : KeepsFtu π) (hPxe : KeepsPxe π) (hPxeAll : KeepsPxeAll π) (hEvr : KeepsEvr π) (hGlb : KeepsGlb π) (s : State) (pos : Nat) (st : MemberSt) :
    π (State.setMember s pos st) = π s := by
  unfold State.setMember
  with_reducible repeat' first
    | rfl
    | assumption
    | (intro)
    | refine ite_frame ?_ ?_
    | refine (hPxeAll _ _).trans ?_
    | refine (State.event_frame π hEvr _ _ _ _ _ _ _).trans ?_
    | refine (State.toPeer_frame π hOut hPort _ _).trans ?_
    | refine (State.newGeneration_frame π hCqe hDsc hFtu hPxe hEvr hGlb _ _).trans ?_
    | refine (State.refreshRebuild_frame π hCqe hDsc hPxe hEvr _ _).trans ?_
    | refine pair_frame (by with_reducible assumption) ?_
    | split
    | (dsimp only)

theorem State.stripesWithout_frame {α : Type} (π : State → α) (hFresh : KeepsFresh π) (hOut : KeepsOut π) (hPort : KeepsPort π) (hCqe : KeepsCqe π) (hDsc : KeepsDsc π) (hWc : KeepsWc π) (hDxu : KeepsDxu π) (hFtu : KeepsFtu π) (hPxe : KeepsPxe π) (hGov : KeepsGov π) (hEvr : KeepsEvr π) (hGlb : KeepsGlb π) (s : State) (pos : Nat) :
    π (State.stripesWithout s pos) = π s := by
  unfold State.stripesWithout
  with_reducible repeat' first
    | rfl
    | assumption
    | (intro)
    | refine ite_frame ?_ ?_
    | refine ite_frame2 ?_ ?_
    | refine (hDsc _ _).trans ?_
    | refine (State.restripe_frame π hOut hPort hDsc hFtu hPxe hGov _ _).trans ?_
    | refine (State.modStripe_frame π hFtu _ _ _).trans ?_
    | refine (State.stripeDurable_frame π hFresh hOut hPort hCqe hDsc hWc hDxu hFtu hPxe hEvr hGlb _ _).trans ?_
    | refine (foldl_frame π _ ?_ _ _).trans ?_
    | refine (foldl_frame2 π _ ?_ _ _).trans ?_
    | refine pair_frame (by with_reducible assumption) ?_
    | split
    | (dsimp only)

theorem State.memberLeaves_frame {α : Type} (π : State → α) (hFresh : KeepsFresh π) (hOut : KeepsOut π) (hPort : KeepsPort π) (hCqe : KeepsCqe π) (hDsc : KeepsDsc π) (hWc : KeepsWc π) (hDxu : KeepsDxu π) (hFtu : KeepsFtu π) (hPxe : KeepsPxe π) (hPxeAll : KeepsPxeAll π) (hGov : KeepsGov π) (hEvr : KeepsEvr π) (hGlb : KeepsGlb π) (s : State) (pos : Nat) :
    π (State.memberLeaves s pos) = π s := by
  unfold State.memberLeaves
  with_reducible repeat' first
    | rfl
    | assumption
    | (intro)
    | refine ite_frame ?_ ?_
    | refine (State.stripesWithout_frame π hFresh hOut hPort hCqe hDsc hWc hDxu hFtu hPxe hGov hEvr hGlb _ _).trans ?_
    | refine (State.setMember_frame π hOut hPort hCqe hDsc hFtu hPxe hPxeAll hEvr hGlb _ _ _).trans ?_
    | refine pair_frame (by with_reducible assumption) ?_
    | split
    | (dsimp only)

theorem execMemberAbsent_frame {α : Type} (π : State → α) (hDt : KeepsDt π) (hFresh : KeepsFresh π) (hOut : KeepsOut π) (hPort : KeepsPort π) (hCqe : KeepsCqe π) (hDsc : KeepsDsc π) (hWc : KeepsWc π) (hDxu : KeepsDxu π) (hFtu : KeepsFtu π) (hPxe : KeepsPxe π) (hPxeAll : KeepsPxeAll π) (hGov : KeepsGov π) (hEvr : KeepsEvr π) (hGlb : KeepsGlb π) (pos : Fin 96) (s : State) :
    ∃ s', execMemberAbsent pos s = .next s' ∧ π s' = π s := by
  unfold execMemberAbsent
  with_reducible repeat' first
    | rfl
    | assumption
    | (intro)
    | refine ite_frame ?_ ?_
    | refine (State.memberLeaves_frame π hFresh hOut hPort hCqe hDsc hWc hDxu hFtu hPxe hPxeAll hGov hEvr hGlb _ _).trans ?_
    | refine (State.advanceTo_frame π hDt _ _).trans ?_
    | refine ⟨_, rfl, ?_⟩
    | refine pair_frame (by with_reducible assumption) ?_
    | split
    | (dsimp only)

theorem State.loseMember_frame {α : Type} (π : State → α) (hFresh : KeepsFresh π) (hOut : KeepsOut π) (hPort : KeepsPort π) (hCqe : KeepsCqe π) (hDsc : KeepsDsc π) (hWc : KeepsWc π) (hDxu : KeepsDxu π) (hFtu : KeepsFtu π) (hPxe : KeepsPxe π) (hPxeAll : KeepsPxeAll π) (hGov : KeepsGov π) (hEvr : KeepsEvr π) (hGlb : KeepsGlb π) (s : State) (pos : Nat) (who : Nat) (cause : Nat) :
    π (State.loseMember s pos who cause) = π s := by
  unfold State.loseMember
  with_reducible repeat' first
    | rfl
    | assumption
    | (intro)
    | refine ite_frame ?_ ?_
    | refine ite_frame2 ?_ ?_
    | refine (State.event_frame π hEvr _ _ _ _ _ _ _).trans ?_
    | refine (State.setMember_frame π hOut hPort hCqe hDsc hFtu hPxe hPxeAll hEvr hGlb _ _ _).trans ?_
    | refine (State.memberLeaves_frame π hFresh hOut hPort hCqe hDsc hWc hDxu hFtu hPxe hPxeAll hGov hEvr hGlb _ _).trans ?_
    | refine (hPxe _ _ ?_).trans ?_
    | refine (State.startRebuild_frame π hCqe hDsc hPxe hEvr _ _ _).trans ?_
    | refine pair_frame (by with_reducible assumption) ?_
    | split
    | (dsimp only)

theorem execMemberLossTimeout_frame {α : Type} (π : State → α) (hDt : KeepsDt π) (hFresh : KeepsFresh π) (hOut : KeepsOut π) (hPort : KeepsPort π) (hCqe : KeepsCqe π) (hDsc : KeepsDsc π) (hWc : KeepsWc π) (hDxu : KeepsDxu π) (hFtu : KeepsFtu π) (hPxe : KeepsPxe π) (hPxeAll : KeepsPxeAll π) (hGov : KeepsGov π) (hEvr : KeepsEvr π) (hGlb : KeepsGlb π) (pos : Fin 96) (s : State) :
    ∃ s', execMemberLossTimeout pos s = .next s' ∧ π s' = π s := by
  unfold execMemberLossTimeout
  with_reducible repeat' first
    | rfl
    | assumption
    | (intro)
    | refine ite_frame ?_ ?_
    | refine (State.loseMember_frame π hFresh hOut hPort hCqe hDsc hWc hDxu hFtu hPxe hPxeAll hGov hEvr hGlb _ _ _ _).trans ?_
    | refine (State.advanceTo_frame π hDt _ _).trans ?_
    | refine ⟨_, rfl, ?_⟩
    | refine pair_frame (by with_reducible assumption) ?_
    | split
    | (dsimp only)

theorem State.writeLose_frame {α : Type} (π : State → α) (hFresh : KeepsFresh π) (hOut : KeepsOut π) (hPort : KeepsPort π) (hCqe : KeepsCqe π) (hDsc : KeepsDsc π) (hWc : KeepsWc π) (hDxu : KeepsDxu π) (hFtu : KeepsFtu π) (hPxe : KeepsPxe π) (hPxeAll : KeepsPxeAll π) (hGov : KeepsGov π) (hEvr : KeepsEvr π) (hGlb : KeepsGlb π) (s : State) (v : Nat) (sess : Nat) :
    π (State.writeLose s v sess) = π s := by
  unfold State.writeLose
  with_reducible repeat' first
    | rfl
    | assumption
    | (intro)
    | refine ite_frame ?_ ?_
    | refine (State.loseMember_frame π hFresh hOut hPort hCqe hDsc hWc hDxu hFtu hPxe hPxeAll hGov hEvr hGlb _ _ _ _).trans ?_
    | refine pair_frame (by with_reducible assumption) ?_
    | split
    | (dsimp only)

theorem execPxeLoseGo_frame {α : Type} (π : State → α) (hFresh : KeepsFresh π) (hOut : KeepsOut π) (hPort : KeepsPort π) (hCqe : KeepsCqe π) (hSess : KeepsSess π) (hDsc : KeepsDsc π) (hWc : KeepsWc π) (hDxu : KeepsDxu π) (hFtu : KeepsFtu π) (hPxe : KeepsPxe π) (hPxeAll : KeepsPxeAll π) (hGov : KeepsGov π) (hEvr : KeepsEvr π) (hGlb : KeepsGlb π) (m : Vc3) (value : Word) (s : State) :
    ∃ s', execPxeLoseGo m value s = .next s' ∧ π s' = π s := by
  unfold execPxeLoseGo
  with_reducible repeat' first
    | rfl
    | assumption
    | (intro)
    | refine (State.regWrite_frame π hFresh hOut hPort hCqe hSess hEvr _ _ _ _ _ ?_).trans ?_
    | refine (State.writeLose_frame π hFresh hOut hPort hCqe hDsc hWc hDxu hFtu hPxe hPxeAll hGov hEvr hGlb _ _ _).trans ?_
    | refine ⟨_, rfl, ?_⟩
    | refine pair_frame (by with_reducible assumption) ?_
    | split
    | (dsimp only)

theorem execMemberState_frame {α : Type} (π : State → α) (hFresh : KeepsFresh π) (hOut : KeepsOut π) (hPort : KeepsPort π) (hCqe : KeepsCqe π) (hDsc : KeepsDsc π) (hWc : KeepsWc π) (hDxu : KeepsDxu π) (hFtu : KeepsFtu π) (hPxe : KeepsPxe π) (hPxeAll : KeepsPxeAll π) (hGov : KeepsGov π) (hEvr : KeepsEvr π) (hGlb : KeepsGlb π) (h : RecHdr) (pos : Nat) (pool : Nat) (st : Byte) (s : State) :
    ∃ s', execMemberState h pos pool st s = .next s' ∧ π s' = π s := by
  unfold execMemberState
  with_reducible repeat' first
    | rfl
    | assumption
    | (intro)
    | refine ite_frame ?_ ?_
    | refine (State.peerRecord_frame π hPort hEvr _ _ _ _ ?_).trans ?_
    | refine (State.setMember_frame π hOut hPort hCqe hDsc hFtu hPxe hPxeAll hEvr hGlb _ _ _).trans ?_
    | refine (State.memberLeaves_frame π hFresh hOut hPort hCqe hDsc hWc hDxu hFtu hPxe hPxeAll hGov hEvr hGlb _ _).trans ?_
    | refine (State.startRebuild_frame π hCqe hDsc hPxe hEvr _ _ _).trans ?_
    | refine (hPxeAll _ _).trans ?_
    | refine ⟨_, rfl, ?_⟩
    | refine pair_frame (by with_reducible assumption) ?_
    | split
    | (dsimp only)

theorem State.resyncRegions_frame {α : Type} (π : State → α) (hOut : KeepsOut π) (hPort : KeepsPort π) (hDsc : KeepsDsc π) (hFtu : KeepsFtu π) (hPxe : KeepsPxe π) (hGov : KeepsGov π) (hEvr : KeepsEvr π) (s : State) (pool : Nat) (headB : Bool) :
    π (State.resyncRegions s pool headB) = π s := by
  unfold State.resyncRegions
  with_reducible repeat' first
    | rfl
    | assumption
    | (intro)
    | refine ite_frame ?_ ?_
    | refine (State.restripe_frame π hOut hPort hDsc hFtu hPxe hGov _ _).trans ?_
    | refine (State.planRows_frame π hDsc hFtu hGov _).trans ?_
    | refine (State.event_frame π hEvr _ _ _ _ _ _ _).trans ?_
    | refine (foldl_frame π _ ?_ _ _).trans ?_
    | refine (foldl_frame2 π _ ?_ _ _).trans ?_
    | refine pair_frame (by with_reducible assumption) ?_
    | split
    | (dsimp only)

theorem State.sendIdent_frame {α : Type} (π : State → α) (hFresh : KeepsFresh π) (hOut : KeepsOut π) (hLink : KeepsLink π) (hPort : KeepsPort π) (s : State) (pos : Nat) :
    π (State.sendIdent s pos) = π s := by
  unfold State.sendIdent
  with_reducible
    repeat' first | (rfl) | (refine (State.freshen_frame π hFresh _).trans ?_) | (refine (State.sendMedia_frame π hOut hLink hPort _ _ _ _ _ _ _ _ _ _).trans ?_)

theorem State.memberReturns_frame {α : Type} (π : State → α) (hFresh : KeepsFresh π) (hOut : KeepsOut π) (hLink : KeepsLink π) (hPort : KeepsPort π) (hCqe : KeepsCqe π) (hDsc : KeepsDsc π) (hFtu : KeepsFtu π) (hPxe : KeepsPxe π) (hPxeAll : KeepsPxeAll π) (hGov : KeepsGov π) (hEvr : KeepsEvr π) (hGlb : KeepsGlb π) (s : State) (pos : Nat) :
    π (State.memberReturns s pos) = π s := by
  unfold State.memberReturns
  with_reducible repeat' first
    | rfl
    | assumption
    | (intro)
    | refine ite_frame ?_ ?_
    | refine (State.sendIdent_frame π hFresh hOut hLink hPort _ _).trans ?_
    | refine (State.resyncRegions_frame π hOut hPort hDsc hFtu hPxe hGov hEvr _ _ _).trans ?_
    | refine (State.startRebuild_frame π hCqe hDsc hPxe hEvr _ _ _).trans ?_
    | refine (State.setMember_frame π hOut hPort hCqe hDsc hFtu hPxe hPxeAll hEvr hGlb _ _ _).trans ?_
    | refine pair_frame (by with_reducible assumption) ?_
    | split
    | (dsimp only)

theorem State.retireDie_frame {α : Type} (π : State → α) (hFresh : KeepsFresh π) (hOut : KeepsOut π) (hPort : KeepsPort π) (hCqe : KeepsCqe π) (hDsc : KeepsDsc π) (hWc : KeepsWc π) (hDxu : KeepsDxu π) (hFtu : KeepsFtu π) (hPxe : KeepsPxe π) (hPxeAll : KeepsPxeAll π) (hGov : KeepsGov π) (hEvr : KeepsEvr π) (hGlb : KeepsGlb π) (s : State) (die : Nat) :
    π (State.retireDie s die) = π s := by
  unfold State.retireDie
  with_reducible repeat' first
    | rfl
    | assumption
    | (intro)
    | refine ite_frame ?_ ?_
    | refine ite_frame2 ?_ ?_
    | refine (State.setDie_frame π hCqe hFtu hEvr hGlb _ _ _).trans ?_
    | refine (State.loseMember_frame π hFresh hOut hPort hCqe hDsc hWc hDxu hFtu hPxe hPxeAll hGov hEvr hGlb _ _ _ _).trans ?_
    | refine (State.refreshPools_frame π hCqe hDsc hFtu hEvr hGlb _).trans ?_
    | refine (State.startRebuild_frame π hCqe hDsc hPxe hEvr _ _ _).trans ?_
    | refine pair_frame (by with_reducible assumption) ?_
    | split
    | (dsimp only)

theorem State.retireBlock_frame {α : Type} (π : State → α) (hFresh : KeepsFresh π) (hOut : KeepsOut π) (hPort : KeepsPort π) (hCqe : KeepsCqe π) (hDsc : KeepsDsc π) (hWc : KeepsWc π) (hDxu : KeepsDxu π) (hFtu : KeepsFtu π) (hPxe : KeepsPxe π) (hPxeAll : KeepsPxeAll π) (hGov : KeepsGov π) (hEvr : KeepsEvr π) (hGlb : KeepsGlb π) (s : State) (die : Nat) (block : Nat) (cause : Nat) :
    π (State.retireBlock s die block cause) = π s := by
  unfold State.retireBlock
  with_reducible repeat' first
    | rfl
    | assumption
    | (intro)
    | refine ite_frame ?_ ?_
    | refine (hFtu _ _).trans ?_
    | refine (State.modDie_frame π hFtu _ _ _).trans ?_
    | refine (State.event_frame π hEvr _ _ _ _ _ _ _).trans ?_
    | refine (State.retireDie_frame π hFresh hOut hPort hCqe hDsc hWc hDxu hFtu hPxe hPxeAll hGov hEvr hGlb _ _).trans ?_
    | refine (State.refreshPools_frame π hCqe hDsc hFtu hEvr hGlb _).trans ?_
    | refine (State.startRebuild_frame π hCqe hDsc hPxe hEvr _ _ _).trans ?_
    | refine pair_frame (by with_reducible assumption) ?_
    | split
    | (dsimp only)

theorem execDieFailTimeout_frame {α : Type} (π : State → α) (hDt : KeepsDt π) (hFresh : KeepsFresh π) (hOut : KeepsOut π) (hPort : KeepsPort π) (hCqe : KeepsCqe π) (hDsc : KeepsDsc π) (hWc : KeepsWc π) (hDxu : KeepsDxu π) (hFtu : KeepsFtu π) (hPxe : KeepsPxe π) (hPxeAll : KeepsPxeAll π) (hGov : KeepsGov π) (hEvr : KeepsEvr π) (hGlb : KeepsGlb π) (die : Nat) (s : State) :
    ∃ s', execDieFailTimeout die s = .next s' ∧ π s' = π s := by
  unfold execDieFailTimeout
  with_reducible repeat' first
    | rfl
    | assumption
    | (intro)
    | refine ite_frame ?_ ?_
    | refine (State.retireDie_frame π hFresh hOut hPort hCqe hDsc hWc hDxu hFtu hPxe hPxeAll hGov hEvr hGlb _ _).trans ?_
    | refine (State.advanceTo_frame π hDt _ _).trans ?_
    | refine ⟨_, rfl, ?_⟩
    | refine pair_frame (by with_reducible assumption) ?_
    | split
    | (dsimp only)

end Sys2Proof.Machine
end

