-- ==== Sys2Proof/Laws/FrameCollect.lean ====
section
/-! SUPPORT. What the definitions of Machine/Collect.lean leave alone: a view of the state that no block they write can change reads
the same after them. -/

set_option linter.unusedSimpArgs false

namespace Sys2Proof.Machine

open Sys2Proof

theorem State.planRead_frame {α : Type} (π : State → α) (hOut : KeepsOut π) (hLink : KeepsLink π) (hPort : KeepsPort π) (hDsc : KeepsDsc π) (hFtu : KeepsFtu π) (s : State) (work : Work) (die : Nat) (chunk : Nat) (unit : Nat) (units : Nat) (share : Nat) :
    π (State.planRead s work die chunk unit units share).2 = π s := by
  unfold State.planRead
  with_reducible repeat' first
    | rfl
    | assumption
    | (intro)
    | refine ite_frame ?_ ?_
    | refine ite_frame2 ?_ ?_
    | refine (State.startFetch_frame π hOut hLink hPort hDsc hFtu _ _ _ _ _ _).trans ?_
    | refine (pair_frame (by with_reducible assumption) (State.startFetch_frame π hOut hLink hPort hDsc hFtu _ _ _ _ _ _)).trans ?_
    | refine (hDsc _ _).trans ?_
    | refine (hFtu _ _).trans ?_
    | refine pair_frame (by with_reducible assumption) ?_
    | split
    | (dsimp only)

theorem State.gcHalf_frame {α : Type} (π : State → α) (hOut : KeepsOut π) (hLink : KeepsLink π) (hPort : KeepsPort π) (hDsc : KeepsDsc π) (hFtu : KeepsFtu π) (hEvr : KeepsEvr π) (s : State) (h : Half) :
    π (State.gcHalf s h) = π s := by
  unfold State.gcHalf
  with_reducible repeat' first
    | rfl
    | assumption
    | (intro)
    | refine ite_frame ?_ ?_
    | refine ite_frame2 ?_ ?_
    | refine (State.setSegment_frame π hFtu _ _ _).trans ?_
    | refine (State.event_frame π hEvr _ _ _ _ _ _ _).trans ?_
    | refine (hFtu _ _).trans ?_
    | refine (State.planRead_frame π hOut hLink hPort hDsc hFtu _ _ _ _ _ _ _).trans ?_
    | refine (pair_frame (by with_reducible assumption) (State.planRead_frame π hOut hLink hPort hDsc hFtu _ _ _ _ _ _ _)).trans ?_
    | refine (foldl_frame π _ ?_ _ _).trans ?_
    | refine (foldl_frame2 π _ ?_ _ _).trans ?_
    | refine pair_frame (by with_reducible assumption) ?_
    | split
    | (dsimp only)

theorem State.packCopy_frame {α : Type} (π : State → α) (hOut : KeepsOut π) (hPort : KeepsPort π) (hDsc : KeepsDsc π) (hFtu : KeepsFtu π) (hPxe : KeepsPxe π) (hGov : KeepsGov π) (s : State) (e : MapEntry) (vol : Nat) (grain : Nat) (b : Bytes) :
    π (State.packCopy s e vol grain b) = π s := by
  unfold State.packCopy
  with_reducible repeat' first
    | rfl
    | assumption
    | (intro)
    | refine ite_frame ?_ ?_
    | refine (State.packGrain_frame π hOut hPort hDsc hFtu hPxe hGov _ _ _ _ _ _).trans ?_
    | refine (pair_frame (by with_reducible assumption) (State.packGrain_frame π hOut hPort hDsc hFtu hPxe hGov _ _ _ _ _ _)).trans ?_
    | refine pair_frame (by with_reducible assumption) ?_
    | split
    | (dsimp only)

theorem State.gcGot_frame {α : Type} (π : State → α) (hOut : KeepsOut π) (hPort : KeepsPort π) (hDsc : KeepsDsc π) (hFtu : KeepsFtu π) (hPxe : KeepsPxe π) (hGov : KeepsGov π) (hEvr : KeepsEvr π) (s : State) (f : Fetch) (die : Nat) (chunk : Nat) (slot : Nat) (b : Option Bytes) :
    π (State.gcGot s f die chunk slot b) = π s := by
  unfold State.gcGot
  with_reducible repeat' first
    | rfl
    | assumption
    | (intro)
    | refine ite_frame ?_ ?_
    | refine (State.nextOr_frame π hDsc hFtu _ _ _ ?_).trans ?_
    | refine (State.recoverLater_frame π hFtu _ _ _).trans ?_
    | refine (State.dropFetch_frame π hFtu _ _).trans ?_
    | refine (State.noteRepair_frame π hFtu hEvr _ _ _).trans ?_
    | refine (State.packCopy_frame π hOut hPort hDsc hFtu hPxe hGov _ _ _ _ _).trans ?_
    | refine pair_frame (by with_reducible assumption) ?_
    | split
    | (dsimp only)

theorem execSegmentReclaimed_frame {α : Type} (π : State → α) (hCqe : KeepsCqe π) (hDsc : KeepsDsc π) (hFtu : KeepsFtu π) (hEvr : KeepsEvr π) (hGlb : KeepsGlb π) (seg : Nat) (s : State) :
    ∃ s', execSegmentReclaimed seg s = .next s' ∧ π s' = π s := by
  unfold execSegmentReclaimed
  with_reducible repeat' first
    | rfl
    | assumption
    | (intro)
    | refine ite_frame ?_ ?_
    | refine (State.refreshPools_frame π hCqe hDsc hFtu hEvr hGlb _).trans ?_
    | refine (State.setSegment_frame π hFtu _ _ _).trans ?_
    | refine ⟨_, rfl, ?_⟩
    | refine pair_frame (by with_reducible assumption) ?_
    | split
    | (dsimp only)

theorem State.segFreed_frame {α : Type} (π : State → α) (hCqe : KeepsCqe π) (hDsc : KeepsDsc π) (hFtu : KeepsFtu π) (hEvr : KeepsEvr π) (hGlb : KeepsGlb π) (s : State) (g : Segment) :
    π (State.segFreed s g) = π s := by
  unfold State.segFreed
  with_reducible repeat' first
    | rfl
    | assumption
    | (intro)
    | refine ite_frame ?_ ?_
    | refine (State.refreshPools_frame π hCqe hDsc hFtu hEvr hGlb _).trans ?_
    | refine (State.setSegment_frame π hFtu _ _ _).trans ?_
    | refine pair_frame (by with_reducible assumption) ?_
    | split
    | (dsimp only)

theorem State.eraseNow_frame {α : Type} (π : State → α) (hCqe : KeepsCqe π) (hDsc : KeepsDsc π) (hFtu : KeepsFtu π) (hGov : KeepsGov π) (hEvr : KeepsEvr π) (hGlb : KeepsGlb π) (s : State) :
    π (State.eraseNow s) = π s := by
  unfold State.eraseNow
  with_reducible repeat' first
    | rfl
    | assumption
    | (intro)
    | refine ite_frame ?_ ?_
    | refine ite_frame2 ?_ ?_
    | refine (State.modSegment_frame π hFtu _ _ _ _ _).trans ?_
    | refine (State.segFreed_frame π hCqe hDsc hFtu hEvr hGlb _ _).trans ?_
    | refine (State.placeOp_frame π hDsc hGov _ _ _ _ _).trans ?_
    | refine (pair_frame (by with_reducible assumption) (State.placeOp_frame π hDsc hGov _ _ _ _ _)).trans ?_
    | refine (foldl_frame π _ ?_ _ _).trans ?_
    | refine (foldl_frame2 π _ ?_ _ _).trans ?_
    | refine pair_frame (by with_reducible assumption) ?_
    | split
    | (dsimp only)

theorem State.blockErased_frame {α : Type} (π : State → α) (hCqe : KeepsCqe π) (hDsc : KeepsDsc π) (hFtu : KeepsFtu π) (hEvr : KeepsEvr π) (hGlb : KeepsGlb π) (s : State) (pool : Nat) (seg : Nat) (die : Nat) :
    π (State.blockErased s pool seg die) = π s := by
  unfold State.blockErased
  with_reducible repeat' first
    | rfl
    | assumption
    | (intro)
    | refine ite_frame ?_ ?_
    | refine (State.segFreed_frame π hCqe hDsc hFtu hEvr hGlb _ _).trans ?_
    | refine (State.modSegment_frame π hFtu _ _ _ _ _).trans ?_
    | refine pair_frame (by with_reducible assumption) ?_
    | split
    | (dsimp only)

theorem State.setRecovery_frame {α : Type} (π : State → α) (hFtu : KeepsFtu π) (s : State) (vol : Nat) (grain : Nat) (set : Nat) :
    π (State.setRecovery s vol grain set) = π s := by
  unfold State.setRecovery
  with_reducible repeat' first
    | rfl
    | assumption
    | (intro)
    | refine ite_frame ?_ ?_
    | refine ite_frame2 ?_ ?_
    | refine (hFtu _ _).trans ?_
    | refine pair_frame (by with_reducible assumption) ?_
    | split
    | (dsimp only)

theorem State.dropRecovery_frame {α : Type} (π : State → α) (hFtu : KeepsFtu π) (s : State) (vol : Nat) (grain : Nat) :
    π (State.dropRecovery s vol grain) = π s := by
  unfold State.dropRecovery
  with_reducible
    repeat' first | (rfl) | (refine (hFtu _ _).trans ?_)

theorem State.recoverNow_frame {α : Type} (π : State → α) (hOut : KeepsOut π) (hLink : KeepsLink π) (hPort : KeepsPort π) (hCqe : KeepsCqe π) (hDsc : KeepsDsc π) (hDxu : KeepsDxu π) (hFtu : KeepsFtu π) (hPxe : KeepsPxe π) (hEvr : KeepsEvr π) (s : State) :
    π (State.recoverNow s) = π s := by
  unfold State.recoverNow
  with_reducible repeat' first
    | rfl
    | assumption
    | (intro)
    | refine ite_frame ?_ ?_
    | refine ite_frame2 ?_ ?_
    | refine (State.dropRecovery_frame π hFtu _ _ _).trans ?_
    | refine (hDsc _ _).trans ?_
    | refine (State.sendPeerRead_frame π hOut hLink hPort _ _ _ _ _ _ _ _).trans ?_
    | refine (State.startFetch_frame π hOut hLink hPort hDsc hFtu _ _ _ _ _ _).trans ?_
    | refine (pair_frame (by with_reducible assumption) (State.startFetch_frame π hOut hLink hPort hDsc hFtu _ _ _ _ _ _)).trans ?_
    | refine (State.loseGrain_frame π hCqe hDxu hFtu hPxe hEvr _ _ _ _ _).trans ?_
    | refine (foldl_frame π _ ?_ _ _).trans ?_
    | refine (foldl_frame2 π _ ?_ _ _).trans ?_
    | refine pair_frame (by with_reducible assumption) ?_
    | split
    | (dsimp only)

theorem State.recoverWith_frame {α : Type} (π : State → α) (hOut : KeepsOut π) (hPort : KeepsPort π) (hDsc : KeepsDsc π) (hFtu : KeepsFtu π) (hPxe : KeepsPxe π) (hGov : KeepsGov π) (s : State) (vol : Nat) (grain : Nat) (b : Bytes) :
    ∀ s', State.recoverWith s vol grain b = some s' → π s' = π s := by
  intro t h
  unfold State.recoverWith at h
  split at h
  · cases h
  · cases h
    with_reducible repeat' first
      | rfl
      | assumption
      | (intro)
      | refine ite_frame ?_ ?_
      | refine (hFtu _ _).trans ?_
      | refine (State.packCopy_frame π hOut hPort hDsc hFtu hPxe hGov _ _ _ _ _).trans ?_
      | refine (State.dropRecovery_frame π hFtu _ _ _).trans ?_
      | refine pair_frame (by with_reducible assumption) ?_
      | split
      | (dsimp only)

theorem State.softGot_frame {α : Type} (π : State → α) (hOut : KeepsOut π) (hPort : KeepsPort π) (hDsc : KeepsDsc π) (hFtu : KeepsFtu π) (hPxe : KeepsPxe π) (hGov : KeepsGov π) (hEvr : KeepsEvr π) (s : State) (vol : Nat) (grain : Nat) (set : Nat) (b : Option Bytes) :
    π (State.softGot s vol grain set b) = π s := by
  unfold State.softGot
  split
  · rename_i s' heq
    have hr : π s' = π s := by
      cases b with
      | none => cases heq
      | some y => exact State.recoverWith_frame π hOut hPort hDsc hFtu hPxe hGov s _ _ y _ heq
    with_reducible repeat' first
      | rfl
      | assumption
      | (intro)
      | refine ite_frame ?_ ?_
      | refine (State.recoverWith_frame π hOut hPort hDsc hFtu hPxe hGov _ _ _ _ _ (by assumption)).trans ?_
      | refine (State.event_frame π hEvr _ _ _ _ _ _ _).trans ?_
      | refine (State.setRecovery_frame π hFtu _ _ _ _).trans ?_
      | refine pair_frame (by with_reducible assumption) ?_
      | split
      | (dsimp only)
  · with_reducible repeat' first
      | rfl
      | assumption
      | (intro)
      | refine ite_frame ?_ ?_
      | refine (State.recoverWith_frame π hOut hPort hDsc hFtu hPxe hGov _ _ _ _ _ (by assumption)).trans ?_
      | refine (State.event_frame π hEvr _ _ _ _ _ _ _).trans ?_
      | refine (State.setRecovery_frame π hFtu _ _ _ _).trans ?_
      | refine pair_frame (by with_reducible assumption) ?_
      | split
      | (dsimp only)

theorem State.recoverGot_frame {α : Type} (π : State → α) (hOut : KeepsOut π) (hPort : KeepsPort π) (hCqe : KeepsCqe π) (hDsc : KeepsDsc π) (hDxu : KeepsDxu π) (hFtu : KeepsFtu π) (hPxe : KeepsPxe π) (hGov : KeepsGov π) (hEvr : KeepsEvr π) (s : State) (f : Fetch) (vol : Nat) (grain : Nat) (b : Option Bytes) :
    π (State.recoverGot s f vol grain b) = π s := by
  unfold State.recoverGot
  with_reducible repeat' first
    | rfl
    | assumption
    | (intro)
    | refine ite_frame ?_ ?_
    | refine (State.loseGrain_frame π hCqe hDxu hFtu hPxe hEvr _ _ _ _ _).trans ?_
    | refine (State.dropRecovery_frame π hFtu _ _ _).trans ?_
    | refine (State.nextOr_frame π hDsc hFtu _ _ _ ?_).trans ?_
    | refine (State.recoverWith_frame π hOut hPort hDsc hFtu hPxe hGov _ _ _ _ _ (by assumption)).trans ?_
    | refine (State.dropFetch_frame π hFtu _ _).trans ?_
    | refine (State.noteRepair_frame π hFtu hEvr _ _ _).trans ?_
    | refine pair_frame (by with_reducible assumption) ?_
    | split
    | (dsimp only)

theorem State.scrubNow_frame {α : Type} (π : State → α) (hDsc : KeepsDsc π) (hFtu : KeepsFtu π) (s : State) :
    π (State.scrubNow s) = π s := by
  unfold State.scrubNow
  with_reducible repeat' first
    | rfl
    | assumption
    | (intro)
    | refine ite_frame ?_ ?_
    | refine (hFtu _ _).trans ?_
    | refine (hDsc _ _).trans ?_
    | refine pair_frame (by with_reducible assumption) ?_
    | split
    | (dsimp only)

theorem execMapMove_frame {α : Type} (π : State → α) (hOut : KeepsOut π) (hPort : KeepsPort π) (hFtu : KeepsFtu π) (hEvr : KeepsEvr π) (h : RecHdr) (vol : Nat) (grain : Nat) (old : BitVec 64) (new : BitVec 64) (s : State) :
    ∃ s', execMapMove h vol grain old new s = .next s' ∧ π s' = π s := by
  unfold execMapMove
  with_reducible repeat' first
    | rfl
    | assumption
    | (intro)
    | refine ite_frame ?_ ?_
    | refine (State.peerRecord_frame π hPort hEvr _ _ _ _ ?_).trans ?_
    | refine (State.toPeer_frame π hOut hPort _ _).trans ?_
    | refine (State.peerViolation_frame π hPort hEvr _ _ _).trans ?_
    | refine (State.addUpdate_frame π hFtu _ _ _).trans ?_
    | refine ⟨_, rfl, ?_⟩
    | refine pair_frame (by with_reducible assumption) ?_
    | split
    | (dsimp only)

theorem execMapMoveAck_frame {α : Type} (π : State → α) (hPort : KeepsPort π) (hDxu : KeepsDxu π) (hFtu : KeepsFtu π) (hEvr : KeepsEvr π) (h : RecHdr) (vol : Nat) (grain : Nat) (result : Byte) (s : State) :
    ∃ s', execMapMoveAck h vol grain result s = .next s' ∧ π s' = π s := by
  unfold execMapMoveAck
  with_reducible repeat' first
    | rfl
    | assumption
    | (intro)
    | refine ite_frame ?_ ?_
    | refine ite_frame2 ?_ ?_
    | refine (State.peerRecord_frame π hPort hEvr _ _ _ _ ?_).trans ?_
    | refine (hFtu _ _).trans ?_
    | refine (State.applyMove_frame π hDxu hFtu _ _ _).trans ?_
    | refine (pair_frame (by with_reducible assumption) (State.applyMove_frame π hDxu hFtu _ _ _)).trans ?_
    | refine ⟨_, rfl, ?_⟩
    | refine pair_frame (by with_reducible assumption) ?_
    | split
    | (dsimp only)

end Sys2Proof.Machine
end

