-- ==== Sys2Proof/Laws/FramePortal.lean ====
section
/-! SUPPORT. What the definitions of Machine/Portal.lean leave alone: a view of the state that no block they write can change reads
the same after them. -/

set_option linter.unusedSimpArgs false

namespace Sys2Proof.Machine

open Sys2Proof

theorem State.modJob_frame {α : Type} (π : State → α) (hSnap : KeepsSnap π) (s : State) (n : Nat) (f : Job → Job) :
    π (State.modJob s n f) = π s := by
  unfold State.modJob
  with_reducible
    repeat' first | (rfl) | (refine (hSnap _ _).trans ?_)

theorem State.snapNotice_frame {α : Type} (π : State → α) (hCqe : KeepsCqe π) (s : State) (vol : Nat) (snap : Nat) (st : Nat) (kind : Nat) (job : Nat) (e : Nat) (charge : Nat) :
    π (State.snapNotice s vol snap st kind job e charge) = π s := by
  unfold State.snapNotice
  with_reducible
    repeat' first | (rfl) | (refine (State.notifyGranted_frame π hCqe _ _ _ _).trans ?_)

theorem State.setJob_frame {α : Type} (π : State → α) (hCqe : KeepsCqe π) (hCpe : KeepsCpe π) (hSnap : KeepsSnap π) (hEvr : KeepsEvr π) (s : State) (n : Nat) (st : JobSt) (cause : Nat) :
    π (State.setJob s n st cause) = π s := by
  unfold State.setJob
  with_reducible repeat' first
    | rfl
    | assumption
    | (intro)
    | refine ite_frame ?_ ?_
    | refine (State.modJob_frame π hSnap _ _ _).trans ?_
    | refine (State.event_frame π hEvr _ _ _ _ _ _ _).trans ?_
    | refine (State.snapNotice_frame π hCqe _ _ _ _ _ _ _ _).trans ?_
    | refine (hCpe _ _).trans ?_
    | refine pair_frame (by with_reducible assumption) ?_
    | split
    | (dsimp only)

theorem State.failJob_frame {α : Type} (π : State → α) (hOut : KeepsOut π) (hPort : KeepsPort π) (hCqe : KeepsCqe π) (hWc : KeepsWc π) (hDge : KeepsDge π) (hCpe : KeepsCpe π) (hFtu : KeepsFtu π) (hSnap : KeepsSnap π) (hSlc : KeepsSlc π) (hEvr : KeepsEvr π) (s : State) (n : Nat) (cause : Nat) (status : Nat) (endOff : Option (Bool × Nat)) :
    π (State.failJob s n cause status endOff) = π s := by
  unfold State.failJob
  with_reducible repeat' first
    | rfl
    | assumption
    | (intro)
    | refine ite_frame ?_ ?_
    | refine ite_frame2 ?_ ?_
    | refine (State.modJob_frame π hSnap _ _ _).trans ?_
    | refine (State.setJob_frame π hCqe hCpe hSnap hEvr _ _ _ _).trans ?_
    | refine (State.failCmd_frame π hOut hPort hCqe hWc hDge hCpe hFtu hSlc hEvr _ _ _).trans ?_
    | refine (foldl_frame π _ ?_ _ _).trans ?_
    | refine (foldl_frame2 π _ ?_ _ _).trans ?_
    | refine pair_frame (by with_reducible assumption) ?_
    | split
    | (dsimp only)

theorem State.replFetch_frame {α : Type} (π : State → α) (hOut : KeepsOut π) (hLink : KeepsLink π) (hPort : KeepsPort π) (hDsc : KeepsDsc π) (hFtu : KeepsFtu π) (hSnap : KeepsSnap π) (s : State) (n : Nat) (v : Nat) (g : Nat) (e : Nat) :
    π (State.replFetch s n v g e) = π s := by
  unfold State.replFetch
  with_reducible repeat' first
    | rfl
    | assumption
    | (intro)
    | refine ite_frame ?_ ?_
    | refine (State.startFetch_frame π hOut hLink hPort hDsc hFtu _ _ _ _ _ _).trans ?_
    | refine (pair_frame (by with_reducible assumption) (State.startFetch_frame π hOut hLink hPort hDsc hFtu _ _ _ _ _ _)).trans ?_
    | refine (State.modJob_frame π hSnap _ _ _).trans ?_
    | refine pair_frame (by with_reducible assumption) ?_
    | split
    | (dsimp only)

theorem State.openStream_frame {α : Type} (π : State → α) (hCpe : KeepsCpe π) (hSnap : KeepsSnap π) (s : State) (n : Nat) (decompress : Bool) (sid : Nat) :
    π (State.openStream s n decompress sid) = π s := by
  unfold State.openStream
  with_reducible repeat' first
    | rfl
    | assumption
    | (intro)
    | refine ite_frame ?_ ?_
    | refine (State.modJob_frame π hSnap _ _ _).trans ?_
    | refine (hCpe _ _).trans ?_
    | refine pair_frame (by with_reducible assumption) ?_
    | split
    | (dsimp only)

theorem State.dataRecord_frame {α : Type} (π : State → α) (hCpe : KeepsCpe π) (hSnap : KeepsSnap π) (s : State) (n : Nat) (j : Job) (key : Bytes) :
    π (State.dataRecord s n j key) = π s := by
  unfold State.dataRecord
  with_reducible repeat' first
    | rfl
    | assumption
    | (intro)
    | refine ite_frame ?_ ?_
    | refine (State.modJob_frame π hSnap _ _ _).trans ?_
    | refine (hCpe _ _).trans ?_
    | refine pair_frame (by with_reducible assumption) ?_
    | split
    | (dsimp only)

theorem State.produceStep_frame {α : Type} (π : State → α) (hFresh : KeepsFresh π) (hOut : KeepsOut π) (hLink : KeepsLink π) (hPort : KeepsPort π) (hDsc : KeepsDsc π) (hCpe : KeepsCpe π) (hFtu : KeepsFtu π) (hSnap : KeepsSnap π) (s : State) (n : Nat) :
    π (State.produceStep s n).2 = π s := by
  unfold State.produceStep
  with_reducible repeat' first
    | rfl
    | assumption
    | (intro)
    | refine ite_frame ?_ ?_
    | refine ite_frame2 ?_ ?_
    | refine (State.openStream_frame π hCpe hSnap _ _ _ _).trans ?_
    | refine (State.freshen_frame π hFresh _).trans ?_
    | refine (State.modJob_frame π hSnap _ _ _).trans ?_
    | refine (State.replFetch_frame π hOut hLink hPort hDsc hFtu hSnap _ _ _ _ _).trans ?_
    | refine (State.recoverLater_frame π hFtu _ _ _).trans ?_
    | refine (State.dataRecord_frame π hCpe hSnap _ _ _ _).trans ?_
    | refine pair_frame (by with_reducible assumption) ?_
    | split
    | (dsimp only)

theorem State.rejectRecord_frame {α : Type} (π : State → α) (hOut : KeepsOut π) (hPort : KeepsPort π) (hCqe : KeepsCqe π) (hWc : KeepsWc π) (hDge : KeepsDge π) (hCpe : KeepsCpe π) (hFtu : KeepsFtu π) (hSnap : KeepsSnap π) (hSlc : KeepsSlc π) (hEvr : KeepsEvr π) (s : State) (n : Nat) (rseq : Nat) (rtype : Nat) (reason : Nat) (status : Nat) (have_ : Bool) (endOff : Nat) :
    π (State.rejectRecord s n rseq rtype reason status have_ endOff) = π s := by
  unfold State.rejectRecord
  with_reducible
    repeat' first | (rfl) | (refine (State.failJob_frame π hOut hPort hCqe hWc hDge hCpe hFtu hSnap hSlc hEvr _ _ _ _ _).trans ?_) | (refine (State.event_frame π hEvr _ _ _ _ _ _ _).trans ?_)

theorem State.replWrite_frame {α : Type} (π : State → α) (hOut : KeepsOut π) (hPort : KeepsPort π) (hCqe : KeepsCqe π) (hWc : KeepsWc π) (hDge : KeepsDge π) (hCpe : KeepsCpe π) (hFtu : KeepsFtu π) (hSnap : KeepsSnap π) (hSlc : KeepsSlc π) (hEvr : KeepsEvr π) (s : State) (n : Nat) (g : Nat) (data : Option Bytes) (go : State → Cmd → State) (h_go : ∀ s a1, π (go s a1) = π s) :
    π (State.replWrite s n g data go) = π s := by
  unfold State.replWrite
  with_reducible repeat' first
    | rfl
    | assumption
    | (intro)
    | refine ite_frame ?_ ?_
    | refine (State.failJob_frame π hOut hPort hCqe hWc hDge hCpe hFtu hSnap hSlc hEvr _ _ _ _ _).trans ?_
    | refine (State.modJob_frame π hSnap _ _ _).trans ?_
    | refine (hCqe _ _).trans ?_
    | refine (h_go _ _).trans ?_
    | refine pair_frame (by with_reducible assumption) ?_
    | split
    | (dsimp only)

theorem State.replLose_frame {α : Type} (π : State → α) (hOut : KeepsOut π) (hPort : KeepsPort π) (hCqe : KeepsCqe π) (hWc : KeepsWc π) (hDxu : KeepsDxu π) (hFtu : KeepsFtu π) (hPxe : KeepsPxe π) (hEvr : KeepsEvr π) (s : State) (v : Nat) (g : Nat) (x0 : Nat) :
    π (State.replLose s v g x0) = π s := by
  induction x0 generalizing s v g with
  | zero => rfl
  | succ k ih =>
    unfold State.replLose
    with_reducible repeat' first
      | rfl
      | assumption
      | (intro)
      | refine (ih _ _ _).trans ?_
      | refine ite_frame ?_ ?_
      | refine (State.releaseFrame_frame π hOut hPort hWc hFtu _ _).trans ?_
      | refine (State.loseGrain_frame π hCqe hDxu hFtu hPxe hEvr _ _ _ _ _).trans ?_
      | refine (foldl_frame π _ ?_ _ _).trans ?_
      | refine (foldl_frame2 π _ ?_ _ _).trans ?_
      | refine pair_frame (by with_reducible assumption) ?_
      | split
      | (dsimp only)

theorem State.answerOffer_frame {α : Type} (π : State → α) (hOut : KeepsOut π) (hLink : KeepsLink π) (hPort : KeepsPort π) (hDsc : KeepsDsc π) (hFtu : KeepsFtu π) (hSnap : KeepsSnap π) (s : State) (n : Nat) (key : Bytes) (x0 : Nat) :
    π (State.answerOffer s n key x0) = π s := by
  induction x0 generalizing s n key with
  | zero => rfl
  | succ k ih =>
    unfold State.answerOffer
    with_reducible repeat' first
      | rfl
      | assumption
      | (intro)
      | refine (ih _ _ _).trans ?_
      | refine ite_frame ?_ ?_
      | refine (State.modJob_frame π hSnap _ _ _).trans ?_
      | refine (State.replFetch_frame π hOut hLink hPort hDsc hFtu hSnap _ _ _ _ _).trans ?_
      | refine pair_frame (by with_reducible assumption) ?_
      | split
      | (dsimp only)

theorem State.applyRecord_frame {α : Type} (π : State → α) (hOut : KeepsOut π) (hPort : KeepsPort π) (hCqe : KeepsCqe π) (hWc : KeepsWc π) (hDge : KeepsDge π) (hDxu : KeepsDxu π) (hCpe : KeepsCpe π) (hFtu : KeepsFtu π) (hPxe : KeepsPxe π) (hSnap : KeepsSnap π) (hSlc : KeepsSlc π) (hEvr : KeepsEvr π) (s : State) (n : Nat) (j : Job) (b : Bytes) (endOff : Nat) :
    π (State.applyRecord s n j b endOff) = π s := by
  unfold State.applyRecord
  with_reducible repeat' first
    | rfl
    | assumption
    | (intro)
    | refine ite_frame ?_ ?_
    | refine (State.openStream_frame π hCpe hSnap _ _ _ _).trans ?_
    | refine (State.modJob_frame π hSnap _ _ _).trans ?_
    | refine (State.rejectRecord_frame π hOut hPort hCqe hWc hDge hCpe hFtu hSnap hSlc hEvr _ _ _ _ _ _ _ _).trans ?_
    | refine (hCpe _ _).trans ?_
    | refine (State.event_frame π hEvr _ _ _ _ _ _ _).trans ?_
    | refine (State.replLose_frame π hOut hPort hCqe hWc hDxu hFtu hPxe hEvr _ _ _ _).trans ?_
    | refine pair_frame (by with_reducible assumption) ?_
    | split
    | (dsimp only)

theorem State.consumeStep_frame {α : Type} (π : State → α) (hOut : KeepsOut π) (hLink : KeepsLink π) (hPort : KeepsPort π) (hCqe : KeepsCqe π) (hDsc : KeepsDsc π) (hWc : KeepsWc π) (hDge : KeepsDge π) (hDxu : KeepsDxu π) (hCpe : KeepsCpe π) (hFtu : KeepsFtu π) (hPxe : KeepsPxe π) (hSnap : KeepsSnap π) (hSlc : KeepsSlc π) (hEvr : KeepsEvr π) (s : State) (n : Nat) (go : State → Cmd → State) (h_go : ∀ s a1, π (go s a1) = π s) :
    π (State.consumeStep s n go).2 = π s := by
  unfold State.consumeStep
  with_reducible repeat' first
    | rfl
    | assumption
    | (intro)
    | refine ite_frame ?_ ?_
    | refine ite_frame2 ?_ ?_
    | refine (State.replWrite_frame π hOut hPort hCqe hWc hDge hCpe hFtu hSnap hSlc hEvr _ _ _ _ _ ?_).trans ?_
    | refine (State.modJob_frame π hSnap _ _ _).trans ?_
    | refine (State.answerOffer_frame π hOut hLink hPort hDsc hFtu hSnap _ _ _ _).trans ?_
    | refine (State.setJob_frame π hCqe hCpe hSnap hEvr _ _ _ _).trans ?_
    | refine (State.event_frame π hEvr _ _ _ _ _ _ _).trans ?_
    | refine (State.rejectRecord_frame π hOut hPort hCqe hWc hDge hCpe hFtu hSnap hSlc hEvr _ _ _ _ _ _ _ _).trans ?_
    | refine (State.applyRecord_frame π hOut hPort hCqe hWc hDge hDxu hCpe hFtu hPxe hSnap hSlc hEvr _ _ _ _ _).trans ?_
    | refine (h_go _ _).trans ?_
    | refine pair_frame (by with_reducible assumption) ?_
    | split
    | (dsimp only)

theorem State.haveStep_frame {α : Type} (π : State → α) (hOut : KeepsOut π) (hPort : KeepsPort π) (hCqe : KeepsCqe π) (hWc : KeepsWc π) (hDge : KeepsDge π) (hCpe : KeepsCpe π) (hFtu : KeepsFtu π) (hSnap : KeepsSnap π) (hSlc : KeepsSlc π) (hEvr : KeepsEvr π) (s : State) (n : Nat) :
    π (State.haveStep s n).2 = π s := by
  unfold State.haveStep
  with_reducible repeat' first
    | rfl
    | assumption
    | (intro)
    | refine ite_frame ?_ ?_
    | refine ite_frame2 ?_ ?_
    | refine (State.rejectRecord_frame π hOut hPort hCqe hWc hDge hCpe hFtu hSnap hSlc hEvr _ _ _ _ _ _ _ _).trans ?_
    | refine (State.modJob_frame π hSnap _ _ _).trans ?_
    | refine pair_frame (by with_reducible assumption) ?_
    | split
    | (dsimp only)

theorem jobSteps_frame {α : Type} (π : State → α) (step : State → Bool × State) (x0 : Nat) (x1 : State) (h_step : ∀ s, π (step s).2 = π s) :
    π (jobSteps step x0 x1) = π x1 := by
  induction x0 generalizing x1 with
  | zero => rfl
  | succ k ih =>
    unfold jobSteps
    with_reducible repeat' first
      | rfl
      | assumption
      | (intro)
      | refine (ih _).trans ?_
      | refine ite_frame ?_ ?_
      | refine (h_step _).trans ?_
      | refine pair_frame (by with_reducible assumption) ?_
      | split
      | (dsimp only)

theorem State.settleWrites_frame {α : Type} (π : State → α) (hOut : KeepsOut π) (hPort : KeepsPort π) (hCqe : KeepsCqe π) (hDge : KeepsDge π) (hCpe : KeepsCpe π) (hFtu : KeepsFtu π) (hSnap : KeepsSnap π) (hSlc : KeepsSlc π) (hEvr : KeepsEvr π) (s : State) (n : Nat) :
    π (State.settleWrites s n) = π s := by
  unfold State.settleWrites
  with_reducible repeat' first
    | rfl
    | assumption
    | (intro)
    | refine ite_frame ?_ ?_
    | refine ite_frame2 ?_ ?_
    | refine (State.modJob_frame π hSnap _ _ _).trans ?_
    | refine (State.finish_frame π hOut hPort hCqe hDge hCpe hFtu hSlc hEvr _ _ _).trans ?_
    | refine (foldl_frame π _ ?_ _ _).trans ?_
    | refine (foldl_frame2 π _ ?_ _ _).trans ?_
    | refine pair_frame (by with_reducible assumption) ?_
    | split
    | (dsimp only)

theorem State.tryPortalReads_frame {α : Type} (π : State → α) (hOut : KeepsOut π) (hPort : KeepsPort π) (hCqe : KeepsCqe π) (hWc : KeepsWc π) (hDge : KeepsDge π) (hCpe : KeepsCpe π) (hFtu : KeepsFtu π) (hSnap : KeepsSnap π) (hSlc : KeepsSlc π) (hEvr : KeepsEvr π) (s : State) (n : Nat) :
    π (State.tryPortalReads s n) = π s := by
  unfold State.tryPortalReads
  with_reducible repeat' first
    | rfl
    | assumption
    | (intro)
    | refine ite_frame ?_ ?_
    | refine (State.failCmd_frame π hOut hPort hCqe hWc hDge hCpe hFtu hSlc hEvr _ _ _).trans ?_
    | refine (State.finish_frame π hOut hPort hCqe hDge hCpe hFtu hSlc hEvr _ _ _).trans ?_
    | refine (State.sendData_frame π hOut hPort hCqe _ _ _).trans ?_
    | refine (State.modJob_frame π hSnap _ _ _).trans ?_
    | refine (foldl_frame π _ ?_ _ _).trans ?_
    | refine (foldl_frame2 π _ ?_ _ _).trans ?_
    | refine pair_frame (by with_reducible assumption) ?_
    | split
    | (dsimp only)

theorem State.sourceDone_frame {α : Type} (π : State → α) (hCqe : KeepsCqe π) (hCpe : KeepsCpe π) (hSnap : KeepsSnap π) (hEvr : KeepsEvr π) (s : State) (n : Nat) :
    π (State.sourceDone s n) = π s := by
  unfold State.sourceDone
  with_reducible repeat' first
    | rfl
    | assumption
    | (intro)
    | refine ite_frame ?_ ?_
    | refine (State.setJob_frame π hCqe hCpe hSnap hEvr _ _ _ _).trans ?_
    | refine (State.event_frame π hEvr _ _ _ _ _ _ _).trans ?_
    | refine pair_frame (by with_reducible assumption) ?_
    | split
    | (dsimp only)

theorem State.runJob_frame {α : Type} (π : State → α) (hFresh : KeepsFresh π) (hOut : KeepsOut π) (hLink : KeepsLink π) (hPort : KeepsPort π) (hCqe : KeepsCqe π) (hDsc : KeepsDsc π) (hWc : KeepsWc π) (hDge : KeepsDge π) (hDxu : KeepsDxu π) (hCpe : KeepsCpe π) (hFtu : KeepsFtu π) (hPxe : KeepsPxe π) (hSnap : KeepsSnap π) (hSlc : KeepsSlc π) (hEvr : KeepsEvr π) (s : State) (n : Nat) (go : State → Cmd → State) (h_go : ∀ s a1, π (go s a1) = π s) :
    π (State.runJob s n go) = π s := by
  unfold State.runJob
  with_reducible repeat' first
    | rfl
    | assumption
    | (intro)
    | refine (jobSteps_frame π _ _ _ ?_).trans ?_
    | refine (State.haveStep_frame π hOut hPort hCqe hWc hDge hCpe hFtu hSnap hSlc hEvr _ _).trans ?_
    | refine (pair_frame (by with_reducible assumption) (State.haveStep_frame π hOut hPort hCqe hWc hDge hCpe hFtu hSnap hSlc hEvr _ _)).trans ?_
    | refine (State.produceStep_frame π hFresh hOut hLink hPort hDsc hCpe hFtu hSnap _ _).trans ?_
    | refine (pair_frame (by with_reducible assumption) (State.produceStep_frame π hFresh hOut hLink hPort hDsc hCpe hFtu hSnap _ _)).trans ?_
    | refine (State.settleWrites_frame π hOut hPort hCqe hDge hCpe hFtu hSnap hSlc hEvr _ _).trans ?_
    | refine (State.consumeStep_frame π hOut hLink hPort hCqe hDsc hWc hDge hDxu hCpe hFtu hPxe hSnap hSlc hEvr _ _ _ ?_).trans ?_
    | refine (pair_frame (by with_reducible assumption) (State.consumeStep_frame π hOut hLink hPort hCqe hDsc hWc hDge hDxu hCpe hFtu hPxe hSnap hSlc hEvr _ _ _ ?_)).trans ?_
    | refine (State.sourceDone_frame π hCqe hCpe hSnap hEvr _ _).trans ?_
    | refine (State.tryPortalReads_frame π hOut hPort hCqe hWc hDge hCpe hFtu hSnap hSlc hEvr _ _).trans ?_
    | refine (h_go _ _).trans ?_
    | refine pair_frame (by with_reducible assumption) ?_
    | split
    | (dsimp only)

theorem State.goWrite_frame {α : Type} (π : State → α) (hOut : KeepsOut π) (hLink : KeepsLink π) (hPort : KeepsPort π) (hCqe : KeepsCqe π) (hDsc : KeepsDsc π) (hWc : KeepsWc π) (hDge : KeepsDge π) (hDxu : KeepsDxu π) (hCpe : KeepsCpe π) (hFtu : KeepsFtu π) (hPxe : KeepsPxe π) (hSlc : KeepsSlc π) (hEvr : KeepsEvr π) (s : State) (c : Cmd) :
    π (State.goWrite s c) = π s := by
  unfold State.goWrite
  with_reducible repeat' first
    | rfl
    | assumption
    | (intro)
    | refine ite_frame ?_ ?_
    | refine (State.judge_frame π hOut hPort hCqe hDsc hWc hDge hCpe hFtu hSlc hEvr _ _).trans ?_
    | refine (pair_frame (by with_reducible assumption) (State.judge_frame π hOut hPort hCqe hDsc hWc hDge hCpe hFtu hSlc hEvr _ _)).trans ?_
    | refine (State.startCmd_frame π hOut hLink hPort hCqe hWc hDge hDxu hCpe hFtu hPxe hSlc hEvr _ _).trans ?_
    | refine (State.launchWrite_frame π hOut hPort hCqe hWc hDge hCpe hFtu hSlc hEvr _ _ _).trans ?_
    | refine pair_frame (by with_reducible assumption) ?_
    | split
    | (dsimp only)

theorem State.runJobs_frame {α : Type} (π : State → α) (hFresh : KeepsFresh π) (hOut : KeepsOut π) (hLink : KeepsLink π) (hPort : KeepsPort π) (hCqe : KeepsCqe π) (hDsc : KeepsDsc π) (hWc : KeepsWc π) (hDge : KeepsDge π) (hDxu : KeepsDxu π) (hCpe : KeepsCpe π) (hFtu : KeepsFtu π) (hPxe : KeepsPxe π) (hSnap : KeepsSnap π) (hSlc : KeepsSlc π) (hEvr : KeepsEvr π) (s : State) :
    π (State.runJobs s) = π s := by
  unfold State.runJobs
  with_reducible repeat' first
    | rfl
    | assumption
    | (intro)
    | refine (State.runJob_frame π hFresh hOut hLink hPort hCqe hDsc hWc hDge hDxu hCpe hFtu hPxe hSnap hSlc hEvr _ _ _ ?_).trans ?_
    | refine (State.goWrite_frame π hOut hLink hPort hCqe hDsc hWc hDge hDxu hCpe hFtu hPxe hSlc hEvr _ _).trans ?_
    | refine (foldl_frame π _ ?_ _ _).trans ?_
    | refine (foldl_frame2 π _ ?_ _ _).trans ?_
    | refine pair_frame (by with_reducible assumption) ?_
    | split
    | (dsimp only)

theorem State.replGot_frame {α : Type} (π : State → α) (hFresh : KeepsFresh π) (hOut : KeepsOut π) (hLink : KeepsLink π) (hPort : KeepsPort π) (hCqe : KeepsCqe π) (hDsc : KeepsDsc π) (hWc : KeepsWc π) (hDge : KeepsDge π) (hDxu : KeepsDxu π) (hCpe : KeepsCpe π) (hFtu : KeepsFtu π) (hPxe : KeepsPxe π) (hSnap : KeepsSnap π) (hSlc : KeepsSlc π) (hEvr : KeepsEvr π) (s : State) (f : Fetch) (n : Nat) (g : Nat) (b : Option Bytes) :
    π (State.replGot s f n g b) = π s := by
  unfold State.replGot
  with_reducible repeat' first
    | rfl
    | assumption
    | (intro)
    | refine ite_frame ?_ ?_
    | refine (State.dropFetch_frame π hFtu _ _).trans ?_
    | refine (State.runJob_frame π hFresh hOut hLink hPort hCqe hDsc hWc hDge hDxu hCpe hFtu hPxe hSnap hSlc hEvr _ _ _ ?_).trans ?_
    | refine (State.modJob_frame π hSnap _ _ _).trans ?_
    | refine (State.goWrite_frame π hOut hLink hPort hCqe hDsc hWc hDge hDxu hCpe hFtu hPxe hSlc hEvr _ _).trans ?_
    | refine (State.nextOr_frame π hDsc hFtu _ _ _ ?_).trans ?_
    | refine (State.noteBadCopy_frame π hCpe hEvr _ _ _ _).trans ?_
    | refine pair_frame (by with_reducible assumption) ?_
    | split
    | (dsimp only)

theorem State.startPortal_frame {α : Type} (π : State → α) (hFresh : KeepsFresh π) (hOut : KeepsOut π) (hLink : KeepsLink π) (hPort : KeepsPort π) (hCqe : KeepsCqe π) (hDsc : KeepsDsc π) (hWc : KeepsWc π) (hDge : KeepsDge π) (hDxu : KeepsDxu π) (hCpe : KeepsCpe π) (hFtu : KeepsFtu π) (hPxe : KeepsPxe π) (hSnap : KeepsSnap π) (hSlc : KeepsSlc π) (hEvr : KeepsEvr π) (s : State) (c : Cmd) :
    π (State.startPortal s c) = π s := by
  unfold State.startPortal
  with_reducible repeat' first
    | rfl
    | assumption
    | (intro)
    | refine ite_frame ?_ ?_
    | refine (State.failCmd_frame π hOut hPort hCqe hWc hDge hCpe hFtu hSlc hEvr _ _ _).trans ?_
    | refine (State.modJob_frame π hSnap _ _ _).trans ?_
    | refine (State.modCmd_frame π hCqe _ _ _ _).trans ?_
    | refine (State.runJob_frame π hFresh hOut hLink hPort hCqe hDsc hWc hDge hDxu hCpe hFtu hPxe hSnap hSlc hEvr _ _ _ ?_).trans ?_
    | refine (State.goWrite_frame π hOut hLink hPort hCqe hDsc hWc hDge hDxu hCpe hFtu hPxe hSlc hEvr _ _).trans ?_
    | refine pair_frame (by with_reducible assumption) ?_
    | split
    | (dsimp only)

theorem State.portalData_frame {α : Type} (π : State → α) (hFresh : KeepsFresh π) (hOut : KeepsOut π) (hLink : KeepsLink π) (hPort : KeepsPort π) (hCqe : KeepsCqe π) (hDsc : KeepsDsc π) (hWc : KeepsWc π) (hDge : KeepsDge π) (hDxu : KeepsDxu π) (hCpe : KeepsCpe π) (hFtu : KeepsFtu π) (hPxe : KeepsPxe π) (hSnap : KeepsSnap π) (hSlc : KeepsSlc π) (hEvr : KeepsEvr π) (s : State) (c : Cmd) :
    π (State.portalData s c) = π s := by
  unfold State.portalData
  with_reducible repeat' first
    | rfl
    | assumption
    | (intro)
    | refine ite_frame ?_ ?_
    | refine (State.finish_frame π hOut hPort hCqe hDge hCpe hFtu hSlc hEvr _ _ _).trans ?_
    | refine (State.modJob_frame π hSnap _ _ _).trans ?_
    | refine (State.runJob_frame π hFresh hOut hLink hPort hCqe hDsc hWc hDge hDxu hCpe hFtu hPxe hSnap hSlc hEvr _ _ _ ?_).trans ?_
    | refine (State.goWrite_frame π hOut hLink hPort hCqe hDsc hWc hDge hDxu hCpe hFtu hPxe hSlc hEvr _ _).trans ?_
    | refine pair_frame (by with_reducible assumption) ?_
    | split
    | (dsimp only)

theorem execReplJobStart_frame {α : Type} (π : State → α) (hFresh : KeepsFresh π) (hOut : KeepsOut π) (hLink : KeepsLink π) (hPort : KeepsPort π) (hCqe : KeepsCqe π) (hDsc : KeepsDsc π) (hWc : KeepsWc π) (hDge : KeepsDge π) (hDxu : KeepsDxu π) (hCpe : KeepsCpe π) (hFtu : KeepsFtu π) (hPxe : KeepsPxe π) (hSnap : KeepsSnap π) (hSlc : KeepsSlc π) (hEvr : KeepsEvr π) (job : Fin 256) (s : State) :
    ∃ s', execReplJobStart job s = .next s' ∧ π s' = π s := by
  unfold execReplJobStart
  with_reducible repeat' first
    | rfl
    | assumption
    | (intro)
    | refine ite_frame ?_ ?_
    | refine ite_frame2 ?_ ?_
    | refine (State.runJob_frame π hFresh hOut hLink hPort hCqe hDsc hWc hDge hDxu hCpe hFtu hPxe hSnap hSlc hEvr _ _ _ ?_).trans ?_
    | refine (State.setJob_frame π hCqe hCpe hSnap hEvr _ _ _ _).trans ?_
    | refine (State.modJob_frame π hSnap _ _ _).trans ?_
    | refine (State.goWrite_frame π hOut hLink hPort hCqe hDsc hWc hDge hDxu hCpe hFtu hPxe hSlc hEvr _ _).trans ?_
    | refine ⟨_, rfl, ?_⟩
    | refine pair_frame (by with_reducible assumption) ?_
    | split
    | (dsimp only)

theorem execReplIdleTimeout_frame {α : Type} (π : State → α) (hDt : KeepsDt π) (hOut : KeepsOut π) (hPort : KeepsPort π) (hCqe : KeepsCqe π) (hWc : KeepsWc π) (hDge : KeepsDge π) (hCpe : KeepsCpe π) (hFtu : KeepsFtu π) (hSnap : KeepsSnap π) (hSlc : KeepsSlc π) (hEvr : KeepsEvr π) (job : Fin 256) (s : State) :
    ∃ s', execReplIdleTimeout job s = .next s' ∧ π s' = π s := by
  unfold execReplIdleTimeout
  with_reducible repeat' first
    | rfl
    | assumption
    | (intro)
    | refine ite_frame ?_ ?_
    | refine (State.failJob_frame π hOut hPort hCqe hWc hDge hCpe hFtu hSnap hSlc hEvr _ _ _ _ _).trans ?_
    | refine (State.advanceTo_frame π hDt _ _).trans ?_
    | refine ⟨_, rfl, ?_⟩
    | refine pair_frame (by with_reducible assumption) ?_
    | split
    | (dsimp only)

theorem State.setSnap_frame {α : Type} (π : State → α) (hCqe : KeepsCqe π) (hSnap : KeepsSnap π) (hEvr : KeepsEvr π) (s : State) (vol : Nat) (id : Nat) (st : SnapSt) :
    π (State.setSnap s vol id st) = π s := by
  unfold State.setSnap
  with_reducible repeat' first
    | rfl
    | assumption
    | (intro)
    | refine ite_frame ?_ ?_
    | refine (hSnap _ _).trans ?_
    | refine (State.event_frame π hEvr _ _ _ _ _ _ _).trans ?_
    | refine (State.snapNotice_frame π hCqe _ _ _ _ _ _ _ _).trans ?_
    | refine pair_frame (by with_reducible assumption) ?_
    | split
    | (dsimp only)

theorem execSnapshotReady_frame {α : Type} (π : State → α) (hCqe : KeepsCqe π) (hSnap : KeepsSnap π) (hEvr : KeepsEvr π) (vol : Nat) (snap : Nat) (s : State) :
    ∃ s', execSnapshotReady vol snap s = .next s' ∧ π s' = π s := by
  unfold execSnapshotReady
  with_reducible repeat' first
    | rfl
    | assumption
    | (intro)
    | refine ite_frame ?_ ?_
    | refine (State.setSnap_frame π hCqe hSnap hEvr _ _ _ _).trans ?_
    | refine ⟨_, rfl, ?_⟩
    | refine pair_frame (by with_reducible assumption) ?_
    | split
    | (dsimp only)

theorem State.releaseVersion_frame {α : Type} (π : State → α) (hDxu : KeepsDxu π) (hFtu : KeepsFtu π) (s : State) (p : MapPage) :
    π (State.releaseVersion s p) = π s := by
  unfold State.releaseVersion
  with_reducible repeat' first
    | rfl
    | assumption
    | (intro)
    | refine ite_frame ?_ ?_
    | refine ite_frame2 ?_ ?_
    | refine (hFtu _ _).trans ?_
    | refine (State.dropRef_frame π hDxu _ _).trans ?_
    | refine (State.addValid_frame π hFtu _ _ _).trans ?_
    | refine (foldl_frame π _ ?_ _ _).trans ?_
    | refine (foldl_frame2 π _ ?_ _ _).trans ?_
    | refine pair_frame (by with_reducible assumption) ?_
    | split
    | (dsimp only)

theorem State.freeVolumes_frame {α : Type} (π : State → α) (hSnap : KeepsSnap π) (hCfg : KeepsCfg π) (s : State) :
    π (State.freeVolumes s) = π s := by
  unfold State.freeVolumes
  with_reducible repeat' first
    | rfl
    | assumption
    | (intro)
    | refine (hSnap _ _).trans ?_
    | refine (hCfg _ _ ?_).trans ?_
    | refine (foldl_frame π _ ?_ _ _).trans ?_
    | refine (foldl_frame2 π _ ?_ _ _).trans ?_
    | refine pair_frame (by with_reducible assumption) ?_
    | split
    | (dsimp only)

theorem State.deleteSnaps_frame {α : Type} (π : State → α) (hCqe : KeepsCqe π) (hDxu : KeepsDxu π) (hFtu : KeepsFtu π) (hSnap : KeepsSnap π) (hCfg : KeepsCfg π) (hEvr : KeepsEvr π) (s : State) :
    π (State.deleteSnaps s) = π s := by
  unfold State.deleteSnaps
  with_reducible repeat' first
    | rfl
    | assumption
    | (intro)
    | refine ite_frame ?_ ?_
    | refine ite_frame2 ?_ ?_
    | refine (State.releaseVersion_frame π hDxu hFtu _ _).trans ?_
    | refine (hSnap _ _).trans ?_
    | refine (State.freeVolumes_frame π hSnap hCfg _).trans ?_
    | refine (State.event_frame π hEvr _ _ _ _ _ _ _).trans ?_
    | refine (State.setSnap_frame π hCqe hSnap hEvr _ _ _ _).trans ?_
    | refine (foldl_frame π _ ?_ _ _).trans ?_
    | refine (foldl_frame2 π _ ?_ _ _).trans ?_
    | refine pair_frame (by with_reducible assumption) ?_
    | split
    | (dsimp only)

end Sys2Proof.Machine
end

