-- ==== Sys2Proof/Laws/FrameResetOps.lean ====
section
/-! SUPPORT. What the definitions of Machine/ResetOps.lean leave alone: a view of the state that no block they write can change reads
the same after them. -/

set_option linter.unusedSimpArgs false

namespace Sys2Proof.Machine

open Sys2Proof

theorem State.levelEnds_frame {α : Type} (π : State → α) (hEvr : KeepsEvr π) (s : State) :
    π (State.levelEnds s) = π s := by
  unfold State.levelEnds
  with_reducible repeat' first
    | rfl
    | assumption
    | (intro)
    | refine ite_frame ?_ ?_
    | refine (State.event_frame π hEvr _ _ _ _ _ _ _).trans ?_
    | refine pair_frame (by with_reducible assumption) ?_
    | split
    | (dsimp only)

theorem State.coldSource_frame {α : Type} (π : State → α) (hRcc : KeepsRcc π) (hEvr : KeepsEvr π) (hCold : KeepsCold π) (s : State) (b : Nat) :
    π (State.coldSource s b) = π s := by
  unfold State.coldSource
  with_reducible repeat' first
    | rfl
    | assumption
    | (intro)
    | refine ite_frame ?_ ?_
    | refine (hRcc _ _).trans ?_
    | refine (hCold _).trans ?_
    | refine (State.levelEnds_frame π hEvr _).trans ?_
    | refine pair_frame (by with_reducible assumption) ?_
    | split
    | (dsimp only)

theorem State.warmSource_frame {α : Type} (π : State → α) (hRcc : KeepsRcc π) (hEvr : KeepsEvr π) (hWarm : KeepsWarm π) (s : State) (b : Nat) :
    π (State.warmSource s b) = π s := by
  unfold State.warmSource
  with_reducible repeat' first
    | rfl
    | assumption
    | (intro)
    | refine ite_frame ?_ ?_
    | refine (hRcc _ _).trans ?_
    | refine (hWarm _).trans ?_
    | refine (State.levelEnds_frame π hEvr _).trans ?_
    | refine pair_frame (by with_reducible assumption) ?_
    | split
    | (dsimp only)

theorem State.releaseHeld_frame {α : Type} (π : State → α) (hRcc : KeepsRcc π) (hEvr : KeepsEvr π) (hWarm : KeepsWarm π) (s : State) :
    π (State.releaseHeld s) = π s := by
  unfold State.releaseHeld
  with_reducible repeat' first
    | rfl
    | assumption
    | (intro)
    | refine ite_frame ?_ ?_
    | refine (hRcc _ _).trans ?_
    | refine (State.warmSource_frame π hRcc hEvr hWarm _ _).trans ?_
    | refine (foldl_frame π _ ?_ _ _).trans ?_
    | refine (foldl_frame2 π _ ?_ _ _).trans ?_
    | refine pair_frame (by with_reducible assumption) ?_
    | split
    | (dsimp only)

theorem State.coldReset_frame {α : Type} (π : State → α) (hRcc : KeepsRcc π) (hEvr : KeepsEvr π) (hCold : KeepsCold π) (s : State) :
    π (State.coldReset s) = π s := by
  unfold State.coldReset
  with_reducible
    repeat' first | (rfl) | (refine (State.coldSource_frame π hRcc hEvr hCold _ _).trans ?_)

theorem State.warmReset_frame {α : Type} (π : State → α) (hRcc : KeepsRcc π) (hEvr : KeepsEvr π) (hWarm : KeepsWarm π) (s : State) :
    π (State.warmReset s) = π s := by
  unfold State.warmReset
  with_reducible
    repeat' first | (rfl) | (refine (State.warmSource_frame π hRcc hEvr hWarm _ _).trans ?_)

theorem execPor_frame {α : Type} (π : State → α) (hPor : KeepsPor π) (s : State) :
    ∃ s', execPor s = .next s' ∧ π s' = π s := by
  unfold execPor
  with_reducible
    repeat' first | (rfl) | (refine ⟨_, rfl, ?_⟩) | (refine (hPor _).trans ?_)

theorem execPwrgdLoss_frame {α : Type} (π : State → α) (hRcc : KeepsRcc π) (hEvr : KeepsEvr π) (hCold : KeepsCold π) (s : State) :
    ∃ s', execPwrgdLoss s = .next s' ∧ π s' = π s := by
  unfold execPwrgdLoss
  with_reducible
    repeat' first | (rfl) | (refine ⟨_, rfl, ?_⟩) | (refine (State.coldSource_frame π hRcc hEvr hCold _ _).trans ?_)

theorem execResetN_frame {α : Type} (π : State → α) (hRcc : KeepsRcc π) (hEvr : KeepsEvr π) (hCold : KeepsCold π) (s : State) :
    ∃ s', execResetN s = .next s' ∧ π s' = π s := by
  unfold execResetN
  with_reducible
    repeat' first | (rfl) | (refine ⟨_, rfl, ?_⟩) | (refine (hRcc _ _).trans ?_) | (refine (State.coldSource_frame π hRcc hEvr hCold _ _).trans ?_)

theorem execCoreWatchdog_frame {α : Type} (π : State → α) (hRcc : KeepsRcc π) (hEvr : KeepsEvr π) (hWarm : KeepsWarm π) (cluster : Fin 4) (core : Fin 16) (s : State) :
    ∃ s', execCoreWatchdog cluster core s = .next s' ∧ π s' = π s := by
  unfold execCoreWatchdog
  with_reducible repeat' first
    | rfl
    | assumption
    | (intro)
    | refine ite_frame ?_ ?_
    | refine (State.warmSource_frame π hRcc hEvr hWarm _ _).trans ?_
    | refine (State.event_frame π hEvr _ _ _ _ _ _ _).trans ?_
    | refine ⟨_, rfl, ?_⟩
    | refine pair_frame (by with_reducible assumption) ?_
    | split
    | (dsimp only)

theorem execRotWatchdog_frame {α : Type} (π : State → α) (hRcc : KeepsRcc π) (hEvr : KeepsEvr π) (hCold : KeepsCold π) (s : State) :
    ∃ s', execRotWatchdog s = .next s' ∧ π s' = π s := by
  unfold execRotWatchdog
  with_reducible repeat' first
    | rfl
    | assumption
    | (intro)
    | refine ite_frame ?_ ?_
    | refine (State.coldSource_frame π hRcc hEvr hCold _ _).trans ?_
    | refine (State.event_frame π hEvr _ _ _ _ _ _ _).trans ?_
    | refine ⟨_, rfl, ?_⟩
    | refine pair_frame (by with_reducible assumption) ?_
    | split
    | (dsimp only)

theorem execThermalTrip_frame {α : Type} (π : State → α) (hRcc : KeepsRcc π) (hEvr : KeepsEvr π) (hCold : KeepsCold π) (sensor : Fin 40) (temp : Int) (s : State) :
    ∃ s', execThermalTrip sensor temp s = .next s' ∧ π s' = π s := by
  unfold execThermalTrip
  with_reducible repeat' first
    | rfl
    | assumption
    | (intro)
    | refine ite_frame ?_ ?_
    | refine (hRcc _ _).trans ?_
    | refine (hEvr _ _).trans ?_
    | refine (State.event_frame π hEvr _ _ _ _ _ _ _).trans ?_
    | refine (State.coldSource_frame π hRcc hEvr hCold _ _).trans ?_
    | refine ⟨_, rfl, ?_⟩
    | refine pair_frame (by with_reducible assumption) ?_
    | split
    | (dsimp only)

theorem State.glitchReset_frame {α : Type} (π : State → α) (hRcc : KeepsRcc π) (hEvr : KeepsEvr π) (hCold : KeepsCold π) (s : State) (sub : Nat) (domain : Nat) :
    π (State.glitchReset s sub domain) = π s := by
  unfold State.glitchReset
  with_reducible
    repeat' first | (rfl) | (refine (hRcc _ _).trans ?_) | (refine (State.coldSource_frame π hRcc hEvr hCold _ _).trans ?_)

theorem execGlitch_frame {α : Type} (π : State → α) (hRcc : KeepsRcc π) (hEvr : KeepsEvr π) (hCold : KeepsCold π) (sub : Fin 7) (domain : Fin 72) (s : State) :
    ∃ s', execGlitch sub domain s = .next s' ∧ π s' = π s := by
  unfold execGlitch
  with_reducible repeat' first
    | rfl
    | assumption
    | (intro)
    | refine ite_frame ?_ ?_
    | refine (State.glitchReset_frame π hRcc hEvr hCold _ _ _).trans ?_
    | refine ⟨_, rfl, ?_⟩
    | refine pair_frame (by with_reducible assumption) ?_
    | split
    | (dsimp only)

theorem execRefclkFault_frame {α : Type} (π : State → α) (hRcc : KeepsRcc π) (hEvr : KeepsEvr π) (hCold : KeepsCold π) (outOfRange : Bool) (s : State) :
    ∃ s', execRefclkFault outOfRange s = .next s' ∧ π s' = π s := by
  unfold execRefclkFault
  with_reducible repeat' first
    | rfl
    | assumption
    | (intro)
    | refine ite_frame ?_ ?_
    | refine (State.glitchReset_frame π hRcc hEvr hCold _ _ _).trans ?_
    | refine (State.event_frame π hEvr _ _ _ _ _ _ _).trans ?_
    | refine ⟨_, rfl, ?_⟩
    | refine pair_frame (by with_reducible assumption) ?_
    | split
    | (dsimp only)

theorem State.actSwrst_frame {α : Type} (π : State → α) (hRcc : KeepsRcc π) (hEvr : KeepsEvr π) (hCold : KeepsCold π) (hWarm : KeepsWarm π) (s : State) :
    π (State.actSwrst s) = π s := by
  unfold State.actSwrst
  with_reducible repeat' first
    | rfl
    | assumption
    | (intro)
    | refine ite_frame ?_ ?_
    | refine (State.coldReset_frame π hRcc hEvr hCold _).trans ?_
    | refine (State.warmReset_frame π hRcc hEvr hWarm _).trans ?_
    | refine (hRcc _ _).trans ?_
    | refine pair_frame (by with_reducible assumption) ?_
    | split
    | (dsimp only)

theorem State.writeSwrst_frame {α : Type} (π : State → α) (hRcc : KeepsRcc π) (s : State) (v : Nat) :
    π (State.writeSwrst s v) = π s := by
  unfold State.writeSwrst
  with_reducible repeat' first
    | rfl
    | assumption
    | (intro)
    | refine ite_frame ?_ ?_
    | refine (hRcc _ _).trans ?_
    | refine pair_frame (by with_reducible assumption) ?_
    | split
    | (dsimp only)

theorem execSwColdReset_frame {α : Type} (π : State → α) (hFresh : KeepsFresh π) (hOut : KeepsOut π) (hPort : KeepsPort π) (hCqe : KeepsCqe π) (hSess : KeepsSess π) (hRcc : KeepsRcc π) (hEvr : KeepsEvr π) (hCold : KeepsCold π) (hWarm : KeepsWarm π) (m : Vc3) (value : Word) (s : State) :
    ∃ s', execSwColdReset m value s = .next s' ∧ π s' = π s := by
  unfold execSwColdReset
  with_reducible repeat' first
    | rfl
    | assumption
    | (intro)
    | refine (State.actSwrst_frame π hRcc hEvr hCold hWarm _).trans ?_
    | refine (State.regWrite_frame π hFresh hOut hPort hCqe hSess hEvr _ _ _ _ _ ?_).trans ?_
    | refine (State.writeSwrst_frame π hRcc _ _).trans ?_
    | refine ⟨_, rfl, ?_⟩
    | refine pair_frame (by with_reducible assumption) ?_
    | split
    | (dsimp only)

theorem execSwWarmReset_frame {α : Type} (π : State → α) (hFresh : KeepsFresh π) (hOut : KeepsOut π) (hPort : KeepsPort π) (hCqe : KeepsCqe π) (hSess : KeepsSess π) (hRcc : KeepsRcc π) (hEvr : KeepsEvr π) (hCold : KeepsCold π) (hWarm : KeepsWarm π) (m : Vc3) (value : Word) (s : State) :
    ∃ s', execSwWarmReset m value s = .next s' ∧ π s' = π s := by
  unfold execSwWarmReset
  with_reducible repeat' first
    | rfl
    | assumption
    | (intro)
    | refine (State.actSwrst_frame π hRcc hEvr hCold hWarm _).trans ?_
    | refine (State.regWrite_frame π hFresh hOut hPort hCqe hSess hEvr _ _ _ _ _ ?_).trans ?_
    | refine (State.writeSwrst_frame π hRcc _ _).trans ?_
    | refine ⟨_, rfl, ?_⟩
    | refine pair_frame (by with_reducible assumption) ?_
    | split
    | (dsimp only)

end Sys2Proof.Machine
end

