-- ==== Sys2Proof/Laws/FrameResponses.lean ====
section
/-! SUPPORT. What the definitions of Machine/Responses.lean leave alone: a view of the state that no block they write can change reads
the same after them. -/

set_option linter.unusedSimpArgs false

namespace Sys2Proof.Machine

open Sys2Proof

theorem State.fetchResult_frame {α : Type} (π : State → α) (hFresh : KeepsFresh π) (hOut : KeepsOut π) (hLink : KeepsLink π) (hPort : KeepsPort π) (hCqe : KeepsCqe π) (hDsc : KeepsDsc π) (hWc : KeepsWc π) (hDge : KeepsDge π) (hDxu : KeepsDxu π) (hCpe : KeepsCpe π) (hFtu : KeepsFtu π) (hPxe : KeepsPxe π) (hSnap : KeepsSnap π) (hGov : KeepsGov π) (hSlc : KeepsSlc π) (hEvr : KeepsEvr π) (s : State) (f : Fetch) (b : Option Bytes) :
    π (State.fetchResult s f b) = π s := by
  unfold State.fetchResult
  with_reducible repeat' first
    | rfl
    | assumption
    | (intro)
    | refine ite_frame ?_ ?_
    | refine (State.hostGot_frame π hOut hPort hCqe hDsc hWc hDge hCpe hFtu hSlc hEvr _ _ _ _ _ _).trans ?_
    | refine (State.mapGot_frame π hOut hLink hPort hCqe hDsc hWc hDge hDxu hCpe hFtu hPxe hSlc hEvr _ _ _ _ _).trans ?_
    | refine (State.mergeGot_frame π hOut hLink hPort hDsc hWc hDxu hCpe hFtu hEvr _ _ _ _).trans ?_
    | refine (State.verifyGot_frame π hOut hLink hPort hDsc hWc hDxu hCpe hFtu hEvr _ _ _ _).trans ?_
    | refine (State.gcGot_frame π hOut hPort hDsc hFtu hPxe hGov hEvr _ _ _ _ _ _).trans ?_
    | refine (State.recoverGot_frame π hOut hPort hCqe hDsc hDxu hFtu hPxe hGov hEvr _ _ _ _ _).trans ?_
    | refine (State.rebuildGot_frame π hCqe hDsc hDxu hFtu hPxe hGov hEvr _ _ _ _ _ _).trans ?_
    | refine (State.replGot_frame π hFresh hOut hLink hPort hCqe hDsc hWc hDge hDxu hCpe hFtu hPxe hSnap hSlc hEvr _ _ _ _ _).trans ?_
    | refine (State.dropFetch_frame π hFtu _ _).trans ?_
    | refine pair_frame (by with_reducible assumption) ?_
    | split
    | (dsimp only)

theorem State.scrubbed_frame {α : Type} (π : State → α) (hFtu : KeepsFtu π) (s : State) (die : Nat) (chunk : Nat) (b : Option Bytes) :
    π (State.scrubbed s die chunk b) = π s := by
  unfold State.scrubbed
  with_reducible repeat' first
    | rfl
    | assumption
    | (intro)
    | refine ite_frame ?_ ?_
    | refine (State.recoverLater_frame π hFtu _ _ _).trans ?_
    | refine (State.refreshAt_frame π hFtu _ _ _).trans ?_
    | refine (foldl_frame π _ ?_ _ _).trans ?_
    | refine (foldl_frame2 π _ ?_ _ _).trans ?_
    | refine pair_frame (by with_reducible assumption) ?_
    | split
    | (dsimp only)

theorem State.readResult_frame {α : Type} (π : State → α) (hFresh : KeepsFresh π) (hOut : KeepsOut π) (hLink : KeepsLink π) (hPort : KeepsPort π) (hCqe : KeepsCqe π) (hDsc : KeepsDsc π) (hWc : KeepsWc π) (hDge : KeepsDge π) (hDxu : KeepsDxu π) (hCpe : KeepsCpe π) (hFtu : KeepsFtu π) (hPxe : KeepsPxe π) (hSnap : KeepsSnap π) (hGov : KeepsGov π) (hSlc : KeepsSlc π) (hEvr : KeepsEvr π) (s : State) (work : Work) (die : Nat) (status : Nat) (b : Option Bytes) :
    π (State.readResult s work die status b) = π s := by
  unfold State.readResult
  with_reducible repeat' first
    | rfl
    | assumption
    | (intro)
    | refine ite_frame ?_ ?_
    | refine (State.piece_frame π hFtu _ _ _ _).trans ?_
    | refine (pair_frame (by with_reducible assumption) (State.piece_frame π hFtu _ _ _ _)).trans ?_
    | refine (State.fetchResult_frame π hFresh hOut hLink hPort hCqe hDsc hWc hDge hDxu hCpe hFtu hPxe hSnap hGov hSlc hEvr _ _ _).trans ?_
    | refine (State.scrubbed_frame π hFtu _ _ _ _).trans ?_
    | refine (State.softGot_frame π hOut hPort hDsc hFtu hPxe hGov hEvr _ _ _ _ _).trans ?_
    | refine (State.transmit_frame π hOut hPort _ _ _ _).trans ?_
    | refine pair_frame (by with_reducible assumption) ?_
    | split
    | (dsimp only)

theorem State.dropOp_frame {α : Type} (π : State → α) (hLink : KeepsLink π) (s : State) (tag : Nat) :
    π (State.dropOp s tag) = π s := by
  unfold State.dropOp
  with_reducible repeat' first
    | rfl
    | assumption
    | (intro)
    | refine (hLink _ _ ?_).trans ?_
    | refine pair_frame (by with_reducible assumption) ?_
    | split
    | (dsimp only)

theorem State.mediaViolation_frame {α : Type} (π : State → α) (hPort : KeepsPort π) (hEvr : KeepsEvr π) (s : State) (pos : Nat) (code : BitVec 16) (tag : Nat) (opc : Nat) (status : Nat) :
    π (State.mediaViolation s pos code tag opc status) = π s := by
  unfold State.mediaViolation
  with_reducible
    repeat' first | (rfl) | (refine (State.portViolation_frame π hPort hEvr _ _ _ _ _ _).trans ?_)

theorem State.memberUnavailable_frame {α : Type} (π : State → α) (hFresh : KeepsFresh π) (hOut : KeepsOut π) (hLink : KeepsLink π) (hPort : KeepsPort π) (hCqe : KeepsCqe π) (hDsc : KeepsDsc π) (hWc : KeepsWc π) (hDxu : KeepsDxu π) (hFtu : KeepsFtu π) (hPxe : KeepsPxe π) (hPxeAll : KeepsPxeAll π) (hGov : KeepsGov π) (hEvr : KeepsEvr π) (hGlb : KeepsGlb π) (s : State) (pos : Nat) :
    π (State.memberUnavailable s pos) = π s := by
  unfold State.memberUnavailable
  with_reducible repeat' first
    | rfl
    | assumption
    | (intro)
    | refine (State.memberLeaves_frame π hFresh hOut hPort hCqe hDsc hWc hDxu hFtu hPxe hPxeAll hGov hEvr hGlb _ _).trans ?_
    | refine (hLink _ _ ?_).trans ?_
    | refine pair_frame (by with_reducible assumption) ?_
    | split
    | (dsimp only)

theorem State.retryOp_frame {α : Type} (π : State → α) (hOut : KeepsOut π) (hLink : KeepsLink π) (hPort : KeepsPort π) (s : State) (tag : Nat) (o : MediaOp) :
    π (State.retryOp s tag o) = π s := by
  unfold State.retryOp
  with_reducible repeat' first
    | rfl
    | assumption
    | (intro)
    | refine (State.dropOp_frame π hLink _ _).trans ?_
    | refine (State.sendMedia_frame π hOut hLink hPort _ _ _ _ _ _ _ _ _ _).trans ?_
    | refine (hLink _ _ ?_).trans ?_
    | refine pair_frame (by with_reducible assumption) ?_
    | split
    | (dsimp only)

theorem State.mediaAnswer_frame {α : Type} (π : State → α) (hFresh : KeepsFresh π) (hOut : KeepsOut π) (hLink : KeepsLink π) (hPort : KeepsPort π) (hCqe : KeepsCqe π) (hDsc : KeepsDsc π) (hWc : KeepsWc π) (hDxu : KeepsDxu π) (hFtu : KeepsFtu π) (hPxe : KeepsPxe π) (hPxeAll : KeepsPxeAll π) (hGov : KeepsGov π) (hEvr : KeepsEvr π) (hGlb : KeepsGlb π) (s : State) (pos : Nat) (tag : Nat) (opc : Nat) (status : Nat) (hdrOk : Bool) (gone : MediaOp → State → State) (act : MediaOp → State → State) (h_gone : ∀ a0 s, π (gone a0 s) = π s) (h_act : ∀ a0 s, π (act a0 s) = π s) :
    π (State.mediaAnswer s pos tag opc status hdrOk gone act) = π s := by
  unfold State.mediaAnswer
  with_reducible repeat' first
    | rfl
    | assumption
    | (intro)
    | refine ite_frame ?_ ?_
    | refine (hLink _ _ ?_).trans ?_
    | refine (State.mediaViolation_frame π hPort hEvr _ _ _ _ _ _).trans ?_
    | refine (State.retryOp_frame π hOut hLink hPort _ _ _).trans ?_
    | refine (State.memberUnavailable_frame π hFresh hOut hLink hPort hCqe hDsc hWc hDxu hFtu hPxe hPxeAll hGov hEvr hGlb _ _).trans ?_
    | refine (State.dropOp_frame π hLink _ _).trans ?_
    | refine (h_gone _ _).trans ?_
    | refine (h_act _ _).trans ?_
    | refine pair_frame (by with_reducible assumption) ?_
    | split
    | (dsimp only)

theorem State.epochStale_frame {α : Type} (π : State → α) (hHa : KeepsHa π) (hRcc : KeepsRcc π) (hEvr : KeepsEvr π) (hWarm : KeepsWarm π) (s : State) (pos : Nat) (opc : Nat) (bridge : Nat) :
    π (State.epochStale s pos opc bridge) = π s := by
  unfold State.epochStale
  with_reducible
    repeat' first | (rfl) | (refine (State.warmReset_frame π hRcc hEvr hWarm _).trans ?_) | (refine (hHa _ _).trans ?_) | (refine (State.event_frame π hEvr _ _ _ _ _ _ _).trans ?_)

theorem State.readLost_frame {α : Type} (π : State → α) (hFresh : KeepsFresh π) (hOut : KeepsOut π) (hLink : KeepsLink π) (hPort : KeepsPort π) (hCqe : KeepsCqe π) (hDsc : KeepsDsc π) (hWc : KeepsWc π) (hDge : KeepsDge π) (hDxu : KeepsDxu π) (hCpe : KeepsCpe π) (hFtu : KeepsFtu π) (hPxe : KeepsPxe π) (hSnap : KeepsSnap π) (hGov : KeepsGov π) (hSlc : KeepsSlc π) (hEvr : KeepsEvr π) (hGlb : KeepsGlb π) (s : State) (o : MediaOp) (status : Nat) :
    π (State.readLost s o status) = π s := by
  unfold State.readLost
  with_reducible
    repeat' first | (rfl) | (refine (State.readResult_frame π hFresh hOut hLink hPort hCqe hDsc hWc hDge hDxu hCpe hFtu hPxe hSnap hGov hSlc hEvr _ _ _ _ _).trans ?_) | (refine (State.resumeDie_frame π hOut hLink hPort _ _).trans ?_) | (refine (State.readFailed_frame π hCqe hFtu hEvr hGlb _ _).trans ?_)

theorem execReadResponse_frame {α : Type} (π : State → α) (hFresh : KeepsFresh π) (hOut : KeepsOut π) (hLink : KeepsLink π) (hPort : KeepsPort π) (hCqe : KeepsCqe π) (hDsc : KeepsDsc π) (hWc : KeepsWc π) (hDge : KeepsDge π) (hDxu : KeepsDxu π) (hCpe : KeepsCpe π) (hFtu : KeepsFtu π) (hPxe : KeepsPxe π) (hPxeAll : KeepsPxeAll π) (hSnap : KeepsSnap π) (hHa : KeepsHa π) (hGov : KeepsGov π) (hSlc : KeepsSlc π) (hRcc : KeepsRcc π) (hEvr : KeepsEvr π) (hGlb : KeepsGlb π) (hWarm : KeepsWarm π) (pos : Fin 96) (tag : Word) (status : BitVec 16) (hdrOk : Bool) (maxCorr : Nat) (data : Bytes) (s : State) :
    ∃ s', execReadResponse pos tag status hdrOk maxCorr data s = .next s' ∧ π s' = π s := by
  unfold execReadResponse
  with_reducible repeat' first
    | rfl
    | assumption
    | (intro)
    | refine ite_frame ?_ ?_
    | refine (State.mediaAnswer_frame π hFresh hOut hLink hPort hCqe hDsc hWc hDxu hFtu hPxe hPxeAll hGov hEvr hGlb _ _ _ _ _ _ _ _ ?_ ?_).trans ?_
    | refine (State.readLost_frame π hFresh hOut hLink hPort hCqe hDsc hWc hDge hDxu hCpe hFtu hPxe hSnap hGov hSlc hEvr hGlb _ _ _).trans ?_
    | refine (State.resumeDie_frame π hOut hLink hPort _ _).trans ?_
    | refine (State.readGood_frame π hFtu _ _ _).trans ?_
    | refine (State.refreshAt_frame π hFtu _ _ _).trans ?_
    | refine (State.readResult_frame π hFresh hOut hLink hPort hCqe hDsc hWc hDge hDxu hCpe hFtu hPxe hSnap hGov hSlc hEvr _ _ _ _ _).trans ?_
    | refine (State.epochStale_frame π hHa hRcc hEvr hWarm _ _ _ _).trans ?_
    | refine ⟨_, rfl, ?_⟩
    | refine pair_frame (by with_reducible assumption) ?_
    | split
    | (dsimp only)

theorem execMediaReadTimeout_frame {α : Type} (π : State → α) (hDt : KeepsDt π) (hFresh : KeepsFresh π) (hOut : KeepsOut π) (hLink : KeepsLink π) (hPort : KeepsPort π) (hCqe : KeepsCqe π) (hDsc : KeepsDsc π) (hWc : KeepsWc π) (hDge : KeepsDge π) (hDxu : KeepsDxu π) (hCpe : KeepsCpe π) (hFtu : KeepsFtu π) (hPxe : KeepsPxe π) (hSnap : KeepsSnap π) (hGov : KeepsGov π) (hSlc : KeepsSlc π) (hEvr : KeepsEvr π) (hGlb : KeepsGlb π) (tag : Word) (s : State) :
    ∃ s', execMediaReadTimeout tag s = .next s' ∧ π s' = π s := by
  unfold execMediaReadTimeout
  with_reducible repeat' first
    | rfl
    | assumption
    | (intro)
    | refine ite_frame ?_ ?_
    | refine (hLink _ _ ?_).trans ?_
    | refine (State.dropOp_frame π hLink _ _).trans ?_
    | refine (State.advanceTo_frame π hDt _ _).trans ?_
    | refine (State.readResult_frame π hFresh hOut hLink hPort hCqe hDsc hWc hDge hDxu hCpe hFtu hPxe hSnap hGov hSlc hEvr _ _ _ _ _).trans ?_
    | refine (State.readLost_frame π hFresh hOut hLink hPort hCqe hDsc hWc hDge hDxu hCpe hFtu hPxe hSnap hGov hSlc hEvr hGlb _ _ _).trans ?_
    | refine ⟨_, rfl, ?_⟩
    | refine pair_frame (by with_reducible assumption) ?_
    | split
    | (dsimp only)

theorem execSoftReadResponse_frame {α : Type} (π : State → α) (hFresh : KeepsFresh π) (hOut : KeepsOut π) (hLink : KeepsLink π) (hPort : KeepsPort π) (hCqe : KeepsCqe π) (hDsc : KeepsDsc π) (hWc : KeepsWc π) (hDge : KeepsDge π) (hDxu : KeepsDxu π) (hCpe : KeepsCpe π) (hFtu : KeepsFtu π) (hPxe : KeepsPxe π) (hPxeAll : KeepsPxeAll π) (hSnap : KeepsSnap π) (hHa : KeepsHa π) (hGov : KeepsGov π) (hSlc : KeepsSlc π) (hRcc : KeepsRcc π) (hEvr : KeepsEvr π) (hGlb : KeepsGlb π) (hWarm : KeepsWarm π) (pos : Fin 96) (tag : Word) (status : BitVec 16) (hdrOk : Bool) (data : Bytes) (s : State) :
    ∃ s', execSoftReadResponse pos tag status hdrOk data s = .next s' ∧ π s' = π s := by
  unfold execSoftReadResponse
  with_reducible repeat' first
    | rfl
    | assumption
    | (intro)
    | refine ite_frame ?_ ?_
    | refine (State.mediaAnswer_frame π hFresh hOut hLink hPort hCqe hDsc hWc hDxu hFtu hPxe hPxeAll hGov hEvr hGlb _ _ _ _ _ _ _ _ ?_ ?_).trans ?_
    | refine (State.readResult_frame π hFresh hOut hLink hPort hCqe hDsc hWc hDge hDxu hCpe hFtu hPxe hSnap hGov hSlc hEvr _ _ _ _ _).trans ?_
    | refine (State.resumeDie_frame π hOut hLink hPort _ _).trans ?_
    | refine (State.epochStale_frame π hHa hRcc hEvr hWarm _ _ _ _).trans ?_
    | refine ⟨_, rfl, ?_⟩
    | refine pair_frame (by with_reducible assumption) ?_
    | split
    | (dsimp only)

theorem State.rowDurable_frame {α : Type} (π : State → α) (hFtu : KeepsFtu π) (hPxe : KeepsPxe π) (s : State) (die : Nat) (block : Nat) (row : Nat) :
    π (State.rowDurable s die block row) = π s := by
  unfold State.rowDurable
  with_reducible repeat' first
    | rfl
    | assumption
    | (intro)
    | refine ite_frame ?_ ?_
    | refine (hFtu _ _).trans ?_
    | refine (State.clearRegions_frame π hPxe _ _ _).trans ?_
    | refine pair_frame (by with_reducible assumption) ?_
    | split
    | (dsimp only)

theorem State.placeVault_frame {α : Type} (π : State → α) (hFresh : KeepsFresh π) (hDsc : KeepsDsc π) (s : State) (die : Nat) (work : Work) :
    π (State.placeVault s die work) = π s := by
  unfold State.placeVault
  with_reducible repeat' first
    | rfl
    | assumption
    | (intro)
    | refine (hDsc _ _).trans ?_
    | refine (State.freshen_frame π hFresh _).trans ?_
    | refine (foldl_frame π _ ?_ _ _).trans ?_
    | refine (foldl_frame2 π _ ?_ _ _).trans ?_
    | refine pair_frame (by with_reducible assumption) ?_
    | split
    | (dsimp only)

theorem State.placeHeader_frame {α : Type} (π : State → α) (hFresh : KeepsFresh π) (hDsc : KeepsDsc π) (s : State) :
    π (State.placeHeader s) = π s := by
  unfold State.placeHeader
  with_reducible repeat' first
    | rfl
    | assumption
    | (intro)
    | refine ite_frame ?_ ?_
    | refine (State.placeVault_frame π hFresh hDsc _ _ _).trans ?_
    | refine (foldl_frame π _ ?_ _ _).trans ?_
    | refine (foldl_frame2 π _ ?_ _ _).trans ?_
    | refine pair_frame (by with_reducible assumption) ?_
    | split
    | (dsimp only)

theorem State.vaultChunk_frame {α : Type} (π : State → α) (hFresh : KeepsFresh π) (hDsc : KeepsDsc π) (hWc : KeepsWc π) (s : State) (stripe : Nat) :
    π (State.vaultChunk s stripe) = π s := by
  unfold State.vaultChunk
  with_reducible repeat' first
    | rfl
    | assumption
    | (intro)
    | refine ite_frame ?_ ?_
    | refine ite_frame2 ?_ ?_
    | refine (hWc _ _).trans ?_
    | refine (State.placeHeader_frame π hFresh hDsc _).trans ?_
    | refine pair_frame (by with_reducible assumption) ?_
    | split
    | (dsimp only)

theorem State.vaultSealed_frame {α : Type} (π : State → α) (hWc : KeepsWc π) (hRcc : KeepsRcc π) (hEvr : KeepsEvr π) (hWarm : KeepsWarm π) (s : State) :
    π (State.vaultSealed s) = π s := by
  unfold State.vaultSealed
  with_reducible repeat' first
    | rfl
    | assumption
    | (intro)
    | refine ite_frame ?_ ?_
    | refine (hWc _ _).trans ?_
    | refine (State.event_frame π hEvr _ _ _ _ _ _ _).trans ?_
    | refine (State.releaseHeld_frame π hRcc hEvr hWarm _).trans ?_
    | refine (State.warmReset_frame π hRcc hEvr hWarm _).trans ?_
    | refine pair_frame (by with_reducible assumption) ?_
    | split
    | (dsimp only)

theorem execProgramResponse_frame {α : Type} (π : State → α) (hFresh : KeepsFresh π) (hOut : KeepsOut π) (hLink : KeepsLink π) (hPort : KeepsPort π) (hCqe : KeepsCqe π) (hDsc : KeepsDsc π) (hWc : KeepsWc π) (hDxu : KeepsDxu π) (hFtu : KeepsFtu π) (hPxe : KeepsPxe π) (hPxeAll : KeepsPxeAll π) (hHa : KeepsHa π) (hGov : KeepsGov π) (hRcc : KeepsRcc π) (hEvr : KeepsEvr π) (hGlb : KeepsGlb π) (hWarm : KeepsWarm π) (pos : Fin 96) (tag : Word) (status : BitVec 16) (hdrOk : Bool) (s : State) :
    ∃ s', execProgramResponse pos tag status hdrOk s = .next s' ∧ π s' = π s := by
  unfold execProgramResponse
  with_reducible repeat' first
    | rfl
    | assumption
    | (intro)
    | refine ite_frame ?_ ?_
    | refine (State.mediaAnswer_frame π hFresh hOut hLink hPort hCqe hDsc hWc hDxu hFtu hPxe hPxeAll hGov hEvr hGlb _ _ _ _ _ _ _ _ ?_ ?_).trans ?_
    | refine (State.memberDurable_frame π hFresh hOut hPort hCqe hDsc hWc hDxu hFtu hPxe hGov hEvr hGlb _ _ _ _ _).trans ?_
    | refine (State.rowDurable_frame π hFtu hPxe _ _ _ _).trans ?_
    | refine (State.cellWritten_frame π hCqe hDsc hFtu hPxe hGov hEvr _ _ _ _).trans ?_
    | refine (State.vaultChunk_frame π hFresh hDsc hWc _ _).trans ?_
    | refine (State.vaultSealed_frame π hWc hRcc hEvr hWarm _).trans ?_
    | refine (State.retireBlock_frame π hFresh hOut hPort hCqe hDsc hWc hDxu hFtu hPxe hPxeAll hGov hEvr hGlb _ _ _ _).trans ?_
    | refine (State.restripe_frame π hOut hPort hDsc hFtu hPxe hGov _ _).trans ?_
    | refine (State.modCell_frame π hPxe _ _ _ _ _).trans ?_
    | refine (State.epochStale_frame π hHa hRcc hEvr hWarm _ _ _ _).trans ?_
    | refine ⟨_, rfl, ?_⟩
    | refine pair_frame (by with_reducible assumption) ?_
    | split
    | (dsimp only)

theorem execEraseResponse_frame {α : Type} (π : State → α) (hFresh : KeepsFresh π) (hOut : KeepsOut π) (hLink : KeepsLink π) (hPort : KeepsPort π) (hCqe : KeepsCqe π) (hDsc : KeepsDsc π) (hWc : KeepsWc π) (hDxu : KeepsDxu π) (hFtu : KeepsFtu π) (hPxe : KeepsPxe π) (hPxeAll : KeepsPxeAll π) (hHa : KeepsHa π) (hGov : KeepsGov π) (hRcc : KeepsRcc π) (hEvr : KeepsEvr π) (hGlb : KeepsGlb π) (hWarm : KeepsWarm π) (pos : Fin 96) (tag : Word) (status : BitVec 16) (hdrOk : Bool) (s : State) :
    ∃ s', execEraseResponse pos tag status hdrOk s = .next s' ∧ π s' = π s := by
  unfold execEraseResponse
  with_reducible repeat' first
    | rfl
    | assumption
    | (intro)
    | refine ite_frame ?_ ?_
    | refine (State.mediaAnswer_frame π hFresh hOut hLink hPort hCqe hDsc hWc hDxu hFtu hPxe hPxeAll hGov hEvr hGlb _ _ _ _ _ _ _ _ ?_ ?_).trans ?_
    | refine (State.blockErased_frame π hCqe hDsc hFtu hEvr hGlb _ _ _ _).trans ?_
    | refine (State.refreshPools_frame π hCqe hDsc hFtu hEvr hGlb _).trans ?_
    | refine (State.modDie_frame π hFtu _ _ _).trans ?_
    | refine (State.retireBlock_frame π hFresh hOut hPort hCqe hDsc hWc hDxu hFtu hPxe hPxeAll hGov hEvr hGlb _ _ _ _).trans ?_
    | refine (State.epochStale_frame π hHa hRcc hEvr hWarm _ _ _ _).trans ?_
    | refine ⟨_, rfl, ?_⟩
    | refine pair_frame (by with_reducible assumption) ?_
    | split
    | (dsimp only)

theorem execSuspendResponse_frame {α : Type} (π : State → α) (hFresh : KeepsFresh π) (hOut : KeepsOut π) (hLink : KeepsLink π) (hPort : KeepsPort π) (hCqe : KeepsCqe π) (hDsc : KeepsDsc π) (hWc : KeepsWc π) (hDxu : KeepsDxu π) (hFtu : KeepsFtu π) (hPxe : KeepsPxe π) (hPxeAll : KeepsPxeAll π) (hGov : KeepsGov π) (hEvr : KeepsEvr π) (hGlb : KeepsGlb π) (pos : Fin 96) (tag : Word) (status : BitVec 16) (hdrOk : Bool) (s : State) :
    ∃ s', execSuspendResponse pos tag status hdrOk s = .next s' ∧ π s' = π s := by
  unfold execSuspendResponse
  with_reducible repeat' first
    | rfl
    | assumption
    | (intro)
    | refine (State.mediaAnswer_frame π hFresh hOut hLink hPort hCqe hDsc hWc hDxu hFtu hPxe hPxeAll hGov hEvr hGlb _ _ _ _ _ _ _ _ ?_ ?_).trans ?_
    | refine ⟨_, rfl, ?_⟩
    | refine pair_frame (by with_reducible assumption) ?_
    | split
    | (dsimp only)

theorem execResumeResponse_frame {α : Type} (π : State → α) (hFresh : KeepsFresh π) (hOut : KeepsOut π) (hLink : KeepsLink π) (hPort : KeepsPort π) (hCqe : KeepsCqe π) (hDsc : KeepsDsc π) (hWc : KeepsWc π) (hDxu : KeepsDxu π) (hFtu : KeepsFtu π) (hPxe : KeepsPxe π) (hPxeAll : KeepsPxeAll π) (hGov : KeepsGov π) (hEvr : KeepsEvr π) (hGlb : KeepsGlb π) (pos : Fin 96) (tag : Word) (status : BitVec 16) (hdrOk : Bool) (s : State) :
    ∃ s', execResumeResponse pos tag status hdrOk s = .next s' ∧ π s' = π s := by
  unfold execResumeResponse
  with_reducible repeat' first
    | rfl
    | assumption
    | (intro)
    | refine (State.mediaAnswer_frame π hFresh hOut hLink hPort hCqe hDsc hWc hDxu hFtu hPxe hPxeAll hGov hEvr hGlb _ _ _ _ _ _ _ _ ?_ ?_).trans ?_
    | refine ⟨_, rfl, ?_⟩
    | refine pair_frame (by with_reducible assumption) ?_
    | split
    | (dsimp only)

theorem execTelemetry_frame {α : Type} (π : State → α) (hLink : KeepsLink π) (hPort : KeepsPort π) (hCqe : KeepsCqe π) (hFtu : KeepsFtu π) (hEvr : KeepsEvr π) (hGlb : KeepsGlb π) (pos : Fin 96) (hdrOk : Bool) (powerMw : Nat) (energyMj : Nat) (temps : List Int) (corrected : Nat) (s : State) :
    ∃ s', execTelemetry pos hdrOk powerMw energyMj temps corrected s = .next s' ∧ π s' = π s := by
  unfold execTelemetry
  with_reducible repeat' first
    | rfl
    | assumption
    | (intro)
    | refine ite_frame ?_ ?_
    | refine ite_frame2 ?_ ?_
    | refine (State.mediaViolation_frame π hPort hEvr _ _ _ _ _ _).trans ?_
    | refine (hFtu _ _).trans ?_
    | refine (hLink _ _ ?_).trans ?_
    | refine (hEvr _ _).trans ?_
    | refine (State.judgeDie_frame π hCqe hFtu hEvr hGlb _ _).trans ?_
    | refine (foldl_frame π _ ?_ _ _).trans ?_
    | refine (foldl_frame2 π _ ?_ _ _).trans ?_
    | refine ⟨_, rfl, ?_⟩
    | refine pair_frame (by with_reducible assumption) ?_
    | split
    | (dsimp only)

theorem execTelemetryMissing_frame {α : Type} (π : State → α) (hDt : KeepsDt π) (hLink : KeepsLink π) (pos : Fin 96) (s : State) :
    ∃ s', execTelemetryMissing pos s = .next s' ∧ π s' = π s := by
  unfold execTelemetryMissing
  with_reducible repeat' first
    | rfl
    | assumption
    | (intro)
    | refine ite_frame ?_ ?_
    | refine (hLink _ _ ?_).trans ?_
    | refine (State.advanceTo_frame π hDt _ _).trans ?_
    | refine ⟨_, rfl, ?_⟩
    | refine pair_frame (by with_reducible assumption) ?_
    | split
    | (dsimp only)

theorem State.issue_frame {α : Type} (π : State → α) (hFresh : KeepsFresh π) (hOut : KeepsOut π) (hLink : KeepsLink π) (hPort : KeepsPort π) (hCqe : KeepsCqe π) (hDsc : KeepsDsc π) (hWc : KeepsWc π) (hDge : KeepsDge π) (hDxu : KeepsDxu π) (hCpe : KeepsCpe π) (hFtu : KeepsFtu π) (hPxe : KeepsPxe π) (hSnap : KeepsSnap π) (hGov : KeepsGov π) (hSlc : KeepsSlc π) (hEvr : KeepsEvr π) (s : State) (r : Resv) :
    π (State.issue s r) = π s := by
  unfold State.issue
  with_reducible repeat' first
    | rfl
    | assumption
    | (intro)
    | refine ite_frame ?_ ?_
    | refine (State.readResult_frame π hFresh hOut hLink hPort hCqe hDsc hWc hDge hDxu hCpe hFtu hPxe hSnap hGov hSlc hEvr _ _ _ _ _).trans ?_
    | refine (State.sendRead_frame π hOut hLink hPort _ _ _ _ _ _ _ _ _).trans ?_
    | refine (State.sendMedia_frame π hOut hLink hPort _ _ _ _ _ _ _ _ _ _).trans ?_
    | refine pair_frame (by with_reducible assumption) ?_
    | split
    | (dsimp only)

theorem execMediaOpIssue_frame {α : Type} (π : State → α) (hDt : KeepsDt π) (hFresh : KeepsFresh π) (hOut : KeepsOut π) (hLink : KeepsLink π) (hPort : KeepsPort π) (hCqe : KeepsCqe π) (hDsc : KeepsDsc π) (hWc : KeepsWc π) (hDge : KeepsDge π) (hDxu : KeepsDxu π) (hCpe : KeepsCpe π) (hFtu : KeepsFtu π) (hPxe : KeepsPxe π) (hSnap : KeepsSnap π) (hGov : KeepsGov π) (hSlc : KeepsSlc π) (hEvr : KeepsEvr π) (resv : Nat) (s : State) :
    ∃ s', execMediaOpIssue resv s = .next s' ∧ π s' = π s := by
  unfold execMediaOpIssue
  with_reducible repeat' first
    | rfl
    | assumption
    | (intro)
    | refine ite_frame ?_ ?_
    | refine (hDsc _ _).trans ?_
    | refine (State.advanceTo_frame π hDt _ _).trans ?_
    | refine (State.issue_frame π hFresh hOut hLink hPort hCqe hDsc hWc hDge hDxu hCpe hFtu hPxe hSnap hGov hSlc hEvr _ _).trans ?_
    | refine ⟨_, rfl, ?_⟩
    | refine pair_frame (by with_reducible assumption) ?_
    | split
    | (dsimp only)

theorem execPeerMediaRead_frame {α : Type} (π : State → α) (hOut : KeepsOut π) (hPort : KeepsPort π) (hDsc : KeepsDsc π) (hEvr : KeepsEvr π) (tag : Word) (soft : Bool) (pos : Nat) (die : Byte) (chunk : Nat) (unit : Nat) (count : Nat) (offs : Bytes) (s : State) :
    ∃ s', execPeerMediaRead tag soft pos die chunk unit count offs s = .next s' ∧ π s' = π s := by
  unfold execPeerMediaRead
  with_reducible repeat' first
    | rfl
    | assumption
    | (intro)
    | refine ite_frame ?_ ?_
    | refine (State.transmit_frame π hOut hPort _ _ _ _).trans ?_
    | refine (State.portViolation_frame π hPort hEvr _ _ _ _ _ _).trans ?_
    | refine (hDsc _ _).trans ?_
    | refine ⟨_, rfl, ?_⟩
    | refine pair_frame (by with_reducible assumption) ?_
    | split
    | (dsimp only)

theorem execPeerMediaReadResponse_frame {α : Type} (π : State → α) (hFresh : KeepsFresh π) (hOut : KeepsOut π) (hLink : KeepsLink π) (hPort : KeepsPort π) (hCqe : KeepsCqe π) (hDsc : KeepsDsc π) (hWc : KeepsWc π) (hDge : KeepsDge π) (hDxu : KeepsDxu π) (hCpe : KeepsCpe π) (hFtu : KeepsFtu π) (hPxe : KeepsPxe π) (hSnap : KeepsSnap π) (hGov : KeepsGov π) (hSlc : KeepsSlc π) (hEvr : KeepsEvr π) (tag : Word) (status : BitVec 16) (data : Bytes) (s : State) :
    ∃ s', execPeerMediaReadResponse tag status data s = .next s' ∧ π s' = π s := by
  unfold execPeerMediaReadResponse
  with_reducible repeat' first
    | rfl
    | assumption
    | (intro)
    | refine ite_frame ?_ ?_
    | refine (State.portViolation_frame π hPort hEvr _ _ _ _ _ _).trans ?_
    | refine (State.readResult_frame π hFresh hOut hLink hPort hCqe hDsc hWc hDge hDxu hCpe hFtu hPxe hSnap hGov hSlc hEvr _ _ _ _ _).trans ?_
    | refine (State.dropOp_frame π hLink _ _).trans ?_
    | refine ⟨_, rfl, ?_⟩
    | refine pair_frame (by with_reducible assumption) ?_
    | split
    | (dsimp only)

end Sys2Proof.Machine
end

