-- ==== Sys2Proof/Laws/FrameLink.lean ====
section
/-! SUPPORT. What the definitions of Machine/Link.lean leave alone: a view of the state that no block they write can change reads
the same after them. -/

set_option linter.unusedSimpArgs false

namespace Sys2Proof.Machine

open Sys2Proof

theorem State.laneEvent_frame {α : Type} (π : State → α) (hEvr : KeepsEvr π) (s : State) (n : Nat) (old : LaneSt) (new : LaneSt) (cause : Nat) :
    π (State.laneEvent s n old new cause) = π s := by
  unfold State.laneEvent
  with_reducible repeat' first
    | rfl
    | assumption
    | (intro)
    | refine ite_frame ?_ ?_
    | refine (State.event_frame π hEvr _ _ _ _ _ _ _).trans ?_
    | refine pair_frame (by with_reducible assumption) ?_
    | split
    | (dsimp only)

theorem State.loseItems_frame {α : Type} (π : State → α) (hSess : KeepsSess π) (s : State) (items : List Sent) :
    π (State.loseItems s items) = π s := by
  unfold State.loseItems
  with_reducible repeat' first
    | rfl
    | assumption
    | (intro)
    | refine ite_frame ?_ ?_
    | refine (hSess _ _ _).trans ?_
    | refine (foldl_frame π _ ?_ _ _).trans ?_
    | refine (foldl_frame2 π _ ?_ _ _).trans ?_
    | refine pair_frame (by with_reducible assumption) ?_
    | split
    | (dsimp only)

theorem State.restartPort_frame {α : Type} (π : State → α) (hPort : KeepsPort π) (hSess : KeepsSess π) (s : State) (p : PortId) :
    π (State.restartPort s p) = π s := by
  unfold State.restartPort
  with_reducible
    repeat' first | (rfl) | (refine (hPort _ _ _).trans ?_) | (refine (State.loseItems_frame π hSess _ _).trans ?_)

theorem State.endRetrain_frame {α : Type} (π : State → α) (hOut : KeepsOut π) (hPort : KeepsPort π) (hCqe : KeepsCqe π) (hEvr : KeepsEvr π) (s : State) (p : PortId) :
    π (State.endRetrain s p) = π s := by
  unfold State.endRetrain
  with_reducible repeat' first
    | rfl
    | assumption
    | (intro)
    | refine ite_frame ?_ ?_
    | refine (hCqe _ _).trans ?_
    | refine (hOut _ _).trans ?_
    | refine (hPort _ _ _).trans ?_
    | refine (State.event_frame π hEvr _ _ _ _ _ _ _).trans ?_
    | refine (State.pump_frame π hOut hPort _ _).trans ?_
    | refine pair_frame (by with_reducible assumption) ?_
    | split
    | (dsimp only)

theorem State.fetchCfg_frame {α : Type} (π : State → α) (hOut : KeepsOut π) (hPort : KeepsPort π) (hCfg : KeepsCfg π) (s : State) :
    π (State.fetchCfg s) = π s := by
  unfold State.fetchCfg
  with_reducible repeat' first
    | rfl
    | assumption
    | (intro)
    | refine ite_frame ?_ ?_
    | refine (State.transmit_frame π hOut hPort _ _ _ _).trans ?_
    | refine (hCfg _ _ ?_).trans ?_
    | refine pair_frame (by with_reducible assumption) ?_
    | split
    | (dsimp only)

theorem State.peerLanes_frame {α : Type} (π : State → α) (hOut : KeepsOut π) (hPort : KeepsPort π) (hWc : KeepsWc π) (hCfg : KeepsCfg π) (hEvr : KeepsEvr π) (s : State) (up : Bool) :
    π (State.peerLanes s up) = π s := by
  unfold State.peerLanes
  with_reducible repeat' first
    | rfl
    | assumption
    | (intro)
    | refine ite_frame ?_ ?_
    | refine (State.fetchCfg_frame π hOut hPort hCfg _).trans ?_
    | refine (State.setMirror_frame π hWc hEvr _ _ _).trans ?_
    | refine pair_frame (by with_reducible assumption) ?_
    | split
    | (dsimp only)

theorem State.portDown_frame {α : Type} (π : State → α) (hOut : KeepsOut π) (hPort : KeepsPort π) (hWc : KeepsWc π) (hPxeAll : KeepsPxeAll π) (hCfg : KeepsCfg π) (hEvr : KeepsEvr π) (s : State) (p : PortId) :
    π (State.portDown s p) = π s := by
  unfold State.portDown
  with_reducible repeat' first
    | rfl
    | assumption
    | (intro)
    | refine ite_frame ?_ ?_
    | refine (hPort _ _ _).trans ?_
    | refine (State.peerLanes_frame π hOut hPort hWc hCfg hEvr _ _).trans ?_
    | refine (hPxeAll _ _).trans ?_
    | refine pair_frame (by with_reducible assumption) ?_
    | split
    | (dsimp only)

theorem State.portBack_frame {α : Type} (π : State → α) (hFresh : KeepsFresh π) (hOut : KeepsOut π) (hLink : KeepsLink π) (hPort : KeepsPort π) (hCqe : KeepsCqe π) (hDsc : KeepsDsc π) (hWc : KeepsWc π) (hFtu : KeepsFtu π) (hPxe : KeepsPxe π) (hPxeAll : KeepsPxeAll π) (hGov : KeepsGov π) (hCfg : KeepsCfg π) (hEvr : KeepsEvr π) (hGlb : KeepsGlb π) (s : State) (p : PortId) :
    π (State.portBack s p) = π s := by
  unfold State.portBack
  with_reducible repeat' first
    | rfl
    | assumption
    | (intro)
    | refine ite_frame ?_ ?_
    | refine (State.endRetrain_frame π hOut hPort hCqe hEvr _ _).trans ?_
    | refine (hPort _ _ _).trans ?_
    | refine (State.pump_frame π hOut hPort _ _).trans ?_
    | refine (State.peerLanes_frame π hOut hPort hWc hCfg hEvr _ _).trans ?_
    | refine (State.memberReturns_frame π hFresh hOut hLink hPort hCqe hDsc hFtu hPxe hPxeAll hGov hEvr hGlb _ _).trans ?_
    | refine (hPxeAll _ _).trans ?_
    | refine pair_frame (by with_reducible assumption) ?_
    | split
    | (dsimp only)

theorem State.setLane_frame {α : Type} (π : State → α) (hFresh : KeepsFresh π) (hOut : KeepsOut π) (hLink : KeepsLink π) (hPort : KeepsPort π) (hLane : KeepsLane π) (hCqe : KeepsCqe π) (hSess : KeepsSess π) (hDsc : KeepsDsc π) (hWc : KeepsWc π) (hFtu : KeepsFtu π) (hPxe : KeepsPxe π) (hPxeAll : KeepsPxeAll π) (hGov : KeepsGov π) (hCfg : KeepsCfg π) (hEvr : KeepsEvr π) (hGlb : KeepsGlb π) (s : State) (n : Nat) (st : LaneSt) (cause : Nat) :
    π (State.setLane s n st cause) = π s := by
  unfold State.setLane
  with_reducible repeat' first
    | rfl
    | assumption
    | (intro)
    | refine ite_frame ?_ ?_
    | refine (hLane _ _ _).trans ?_
    | refine (State.laneEvent_frame π hEvr _ _ _ _ _).trans ?_
    | refine (State.portDown_frame π hOut hPort hWc hPxeAll hCfg hEvr _ _).trans ?_
    | refine (State.restartPort_frame π hPort hSess _ _).trans ?_
    | refine (State.portBack_frame π hFresh hOut hLink hPort hCqe hDsc hWc hFtu hPxe hPxeAll hGov hCfg hEvr hGlb _ _).trans ?_
    | refine pair_frame (by with_reducible assumption) ?_
    | split
    | (dsimp only)

theorem execLaneEnabled_frame {α : Type} (π : State → α) (hFresh : KeepsFresh π) (hOut : KeepsOut π) (hLink : KeepsLink π) (hPort : KeepsPort π) (hLane : KeepsLane π) (hCqe : KeepsCqe π) (hSess : KeepsSess π) (hDsc : KeepsDsc π) (hWc : KeepsWc π) (hFtu : KeepsFtu π) (hPxe : KeepsPxe π) (hPxeAll : KeepsPxeAll π) (hGov : KeepsGov π) (hCfg : KeepsCfg π) (hEvr : KeepsEvr π) (hGlb : KeepsGlb π) (lane : Fin 144) (enable : Bool) (s : State) :
    ∃ s', execLaneEnabled lane enable s = .next s' ∧ π s' = π s := by
  unfold execLaneEnabled
  with_reducible repeat' first
    | rfl
    | assumption
    | (intro)
    | refine ite_frame ?_ ?_
    | refine (hLane _ _ _).trans ?_
    | refine (State.setLane_frame π hFresh hOut hLink hPort hLane hCqe hSess hDsc hWc hFtu hPxe hPxeAll hGov hCfg hEvr hGlb _ _ _ _).trans ?_
    | refine ⟨_, rfl, ?_⟩
    | refine pair_frame (by with_reducible assumption) ?_
    | split
    | (dsimp only)

theorem execSignalDetected_frame {α : Type} (π : State → α) (hFresh : KeepsFresh π) (hOut : KeepsOut π) (hLink : KeepsLink π) (hPort : KeepsPort π) (hLane : KeepsLane π) (hCqe : KeepsCqe π) (hSess : KeepsSess π) (hDsc : KeepsDsc π) (hWc : KeepsWc π) (hFtu : KeepsFtu π) (hPxe : KeepsPxe π) (hPxeAll : KeepsPxeAll π) (hGov : KeepsGov π) (hCfg : KeepsCfg π) (hEvr : KeepsEvr π) (hGlb : KeepsGlb π) (lane : Fin 144) (s : State) :
    ∃ s', execSignalDetected lane s = .next s' ∧ π s' = π s := by
  unfold execSignalDetected
  with_reducible repeat' first
    | rfl
    | assumption
    | (intro)
    | refine ite_frame ?_ ?_
    | refine (State.setLane_frame π hFresh hOut hLink hPort hLane hCqe hSess hDsc hWc hFtu hPxe hPxeAll hGov hCfg hEvr hGlb _ _ _ _).trans ?_
    | refine ⟨_, rfl, ?_⟩
    | refine pair_frame (by with_reducible assumption) ?_
    | split
    | (dsimp only)

theorem execEqComplete_frame {α : Type} (π : State → α) (hFresh : KeepsFresh π) (hOut : KeepsOut π) (hLink : KeepsLink π) (hPort : KeepsPort π) (hLane : KeepsLane π) (hCqe : KeepsCqe π) (hSess : KeepsSess π) (hDsc : KeepsDsc π) (hWc : KeepsWc π) (hFtu : KeepsFtu π) (hPxe : KeepsPxe π) (hPxeAll : KeepsPxeAll π) (hGov : KeepsGov π) (hCfg : KeepsCfg π) (hEvr : KeepsEvr π) (hGlb : KeepsGlb π) (lane : Fin 144) (s : State) :
    ∃ s', execEqComplete lane s = .next s' ∧ π s' = π s := by
  unfold execEqComplete
  with_reducible repeat' first
    | rfl
    | assumption
    | (intro)
    | refine ite_frame ?_ ?_
    | refine (State.setLane_frame π hFresh hOut hLink hPort hLane hCqe hSess hDsc hWc hFtu hPxe hPxeAll hGov hCfg hEvr hGlb _ _ _ _).trans ?_
    | refine ⟨_, rfl, ?_⟩
    | refine pair_frame (by with_reducible assumption) ?_
    | split
    | (dsimp only)

theorem State.laneTimeout_frame {α : Type} (π : State → α) (hDt : KeepsDt π) (hFresh : KeepsFresh π) (hOut : KeepsOut π) (hLink : KeepsLink π) (hPort : KeepsPort π) (hLane : KeepsLane π) (hCqe : KeepsCqe π) (hSess : KeepsSess π) (hDsc : KeepsDsc π) (hWc : KeepsWc π) (hFtu : KeepsFtu π) (hPxe : KeepsPxe π) (hPxeAll : KeepsPxeAll π) (hGov : KeepsGov π) (hCfg : KeepsCfg π) (hEvr : KeepsEvr π) (hGlb : KeepsGlb π) (s : State) (n : Nat) (st : LaneSt) (ns : Nat) (cause : Nat) :
    π (State.laneTimeout s n st ns cause) = π s := by
  unfold State.laneTimeout
  with_reducible repeat' first
    | rfl
    | assumption
    | (intro)
    | refine ite_frame ?_ ?_
    | refine (State.setLane_frame π hFresh hOut hLink hPort hLane hCqe hSess hDsc hWc hFtu hPxe hPxeAll hGov hCfg hEvr hGlb _ _ _ _).trans ?_
    | refine (State.advanceTo_frame π hDt _ _).trans ?_
    | refine pair_frame (by with_reducible assumption) ?_
    | split
    | (dsimp only)

theorem execEqTimeout_frame {α : Type} (π : State → α) (hDt : KeepsDt π) (hFresh : KeepsFresh π) (hOut : KeepsOut π) (hLink : KeepsLink π) (hPort : KeepsPort π) (hLane : KeepsLane π) (hCqe : KeepsCqe π) (hSess : KeepsSess π) (hDsc : KeepsDsc π) (hWc : KeepsWc π) (hFtu : KeepsFtu π) (hPxe : KeepsPxe π) (hPxeAll : KeepsPxeAll π) (hGov : KeepsGov π) (hCfg : KeepsCfg π) (hEvr : KeepsEvr π) (hGlb : KeepsGlb π) (lane : Fin 144) (s : State) :
    ∃ s', execEqTimeout lane s = .next s' ∧ π s' = π s := by
  unfold execEqTimeout
  with_reducible
    repeat' first | (rfl) | (refine ⟨_, rfl, ?_⟩) | (refine (State.laneTimeout_frame π hDt hFresh hOut hLink hPort hLane hCqe hSess hDsc hWc hFtu hPxe hPxeAll hGov hCfg hEvr hGlb _ _ _ _ _).trans ?_)

theorem execLockComplete_frame {α : Type} (π : State → α) (hFresh : KeepsFresh π) (hOut : KeepsOut π) (hLink : KeepsLink π) (hPort : KeepsPort π) (hLane : KeepsLane π) (hCqe : KeepsCqe π) (hSess : KeepsSess π) (hDsc : KeepsDsc π) (hWc : KeepsWc π) (hFtu : KeepsFtu π) (hPxe : KeepsPxe π) (hPxeAll : KeepsPxeAll π) (hGov : KeepsGov π) (hCfg : KeepsCfg π) (hEvr : KeepsEvr π) (hGlb : KeepsGlb π) (lane : Fin 144) (polarityInverted : Bool) (s : State) :
    ∃ s', execLockComplete lane polarityInverted s = .next s' ∧ π s' = π s := by
  unfold execLockComplete
  with_reducible repeat' first
    | rfl
    | assumption
    | (intro)
    | refine ite_frame ?_ ?_
    | refine (State.setLane_frame π hFresh hOut hLink hPort hLane hCqe hSess hDsc hWc hFtu hPxe hPxeAll hGov hCfg hEvr hGlb _ _ _ _).trans ?_
    | refine (hLane _ _ _).trans ?_
    | refine (hOut _ _).trans ?_
    | refine ⟨_, rfl, ?_⟩
    | refine pair_frame (by with_reducible assumption) ?_
    | split
    | (dsimp only)

theorem execLockTimeout_frame {α : Type} (π : State → α) (hDt : KeepsDt π) (hFresh : KeepsFresh π) (hOut : KeepsOut π) (hLink : KeepsLink π) (hPort : KeepsPort π) (hLane : KeepsLane π) (hCqe : KeepsCqe π) (hSess : KeepsSess π) (hDsc : KeepsDsc π) (hWc : KeepsWc π) (hFtu : KeepsFtu π) (hPxe : KeepsPxe π) (hPxeAll : KeepsPxeAll π) (hGov : KeepsGov π) (hCfg : KeepsCfg π) (hEvr : KeepsEvr π) (hGlb : KeepsGlb π) (lane : Fin 144) (s : State) :
    ∃ s', execLockTimeout lane s = .next s' ∧ π s' = π s := by
  unfold execLockTimeout
  with_reducible
    repeat' first | (rfl) | (refine ⟨_, rfl, ?_⟩) | (refine (State.laneTimeout_frame π hDt hFresh hOut hLink hPort hLane hCqe hSess hDsc hWc hFtu hPxe hPxeAll hGov hCfg hEvr hGlb _ _ _ _ _).trans ?_)

theorem State.firstCredits_frame {α : Type} (π : State → α) (hPort : KeepsPort π) (s : State) (p : PortId) (x : LaneParams) :
    π (State.firstCredits s p x) = π s := by
  unfold State.firstCredits
  with_reducible repeat' first
    | rfl
    | assumption
    | (intro)
    | refine ite_frame ?_ ?_
    | refine (hPort _ _ _).trans ?_
    | refine pair_frame (by with_reducible assumption) ?_
    | split
    | (dsimp only)

theorem State.laneUp_frame {α : Type} (π : State → α) (hFresh : KeepsFresh π) (hOut : KeepsOut π) (hLink : KeepsLink π) (hPort : KeepsPort π) (hLane : KeepsLane π) (hCqe : KeepsCqe π) (hSess : KeepsSess π) (hDsc : KeepsDsc π) (hWc : KeepsWc π) (hFtu : KeepsFtu π) (hPxe : KeepsPxe π) (hPxeAll : KeepsPxeAll π) (hGov : KeepsGov π) (hCfg : KeepsCfg π) (hEvr : KeepsEvr π) (hGlb : KeepsGlb π) (s : State) (n : Nat) :
    π (State.laneUp s n) = π s := by
  unfold State.laneUp
  with_reducible repeat' first
    | rfl
    | assumption
    | (intro)
    | refine ite_frame ?_ ?_
    | refine (State.setLane_frame π hFresh hOut hLink hPort hLane hCqe hSess hDsc hWc hFtu hPxe hPxeAll hGov hCfg hEvr hGlb _ _ _ _).trans ?_
    | refine (State.event_frame π hEvr _ _ _ _ _ _ _).trans ?_
    | refine pair_frame (by with_reducible assumption) ?_
    | split
    | (dsimp only)

theorem execParamComplete_frame {α : Type} (π : State → α) (hFresh : KeepsFresh π) (hOut : KeepsOut π) (hLink : KeepsLink π) (hPort : KeepsPort π) (hLane : KeepsLane π) (hCqe : KeepsCqe π) (hSess : KeepsSess π) (hDsc : KeepsDsc π) (hWc : KeepsWc π) (hFtu : KeepsFtu π) (hPxe : KeepsPxe π) (hPxeAll : KeepsPxeAll π) (hGov : KeepsGov π) (hCfg : KeepsCfg π) (hEvr : KeepsEvr π) (hGlb : KeepsGlb π) (lane : Fin 144) (p : LaneParams) (s : State) :
    ∃ s', execParamComplete lane p s = .next s' ∧ π s' = π s := by
  unfold execParamComplete
  with_reducible repeat' first
    | rfl
    | assumption
    | (intro)
    | refine ite_frame ?_ ?_
    | refine (State.setLane_frame π hFresh hOut hLink hPort hLane hCqe hSess hDsc hWc hFtu hPxe hPxeAll hGov hCfg hEvr hGlb _ _ _ _).trans ?_
    | refine (State.firstCredits_frame π hPort _ _ _).trans ?_
    | refine (hOut _ _).trans ?_
    | refine (State.laneUp_frame π hFresh hOut hLink hPort hLane hCqe hSess hDsc hWc hFtu hPxe hPxeAll hGov hCfg hEvr hGlb _ _).trans ?_
    | refine ⟨_, rfl, ?_⟩
    | refine pair_frame (by with_reducible assumption) ?_
    | split
    | (dsimp only)

theorem execParamTimeout_frame {α : Type} (π : State → α) (hDt : KeepsDt π) (hFresh : KeepsFresh π) (hOut : KeepsOut π) (hLink : KeepsLink π) (hPort : KeepsPort π) (hLane : KeepsLane π) (hCqe : KeepsCqe π) (hSess : KeepsSess π) (hDsc : KeepsDsc π) (hWc : KeepsWc π) (hFtu : KeepsFtu π) (hPxe : KeepsPxe π) (hPxeAll : KeepsPxeAll π) (hGov : KeepsGov π) (hCfg : KeepsCfg π) (hEvr : KeepsEvr π) (hGlb : KeepsGlb π) (lane : Fin 144) (s : State) :
    ∃ s', execParamTimeout lane s = .next s' ∧ π s' = π s := by
  unfold execParamTimeout
  with_reducible
    repeat' first | (rfl) | (refine ⟨_, rfl, ?_⟩) | (refine (State.laneTimeout_frame π hDt hFresh hOut hLink hPort hLane hCqe hSess hDsc hWc hFtu hPxe hPxeAll hGov hCfg hEvr hGlb _ _ _ _ _).trans ?_)

theorem execSecureComplete_frame {α : Type} (π : State → α) (hFresh : KeepsFresh π) (hOut : KeepsOut π) (hLink : KeepsLink π) (hPort : KeepsPort π) (hLane : KeepsLane π) (hCqe : KeepsCqe π) (hSess : KeepsSess π) (hDsc : KeepsDsc π) (hWc : KeepsWc π) (hFtu : KeepsFtu π) (hPxe : KeepsPxe π) (hPxeAll : KeepsPxeAll π) (hGov : KeepsGov π) (hCfg : KeepsCfg π) (hEvr : KeepsEvr π) (hGlb : KeepsGlb π) (lane : Fin 144) (s : State) :
    ∃ s', execSecureComplete lane s = .next s' ∧ π s' = π s := by
  unfold execSecureComplete
  with_reducible repeat' first
    | rfl
    | assumption
    | (intro)
    | refine ite_frame ?_ ?_
    | refine (hPort _ _ _).trans ?_
    | refine (hLane _ _ _).trans ?_
    | refine (State.setLane_frame π hFresh hOut hLink hPort hLane hCqe hSess hDsc hWc hFtu hPxe hPxeAll hGov hCfg hEvr hGlb _ _ _ _).trans ?_
    | refine (State.endRetrain_frame π hOut hPort hCqe hEvr _ _).trans ?_
    | refine ⟨_, rfl, ?_⟩
    | refine pair_frame (by with_reducible assumption) ?_
    | split
    | (dsimp only)

theorem execSecureTimeout_frame {α : Type} (π : State → α) (hDt : KeepsDt π) (hFresh : KeepsFresh π) (hOut : KeepsOut π) (hLink : KeepsLink π) (hPort : KeepsPort π) (hLane : KeepsLane π) (hCqe : KeepsCqe π) (hSess : KeepsSess π) (hDsc : KeepsDsc π) (hWc : KeepsWc π) (hFtu : KeepsFtu π) (hPxe : KeepsPxe π) (hPxeAll : KeepsPxeAll π) (hGov : KeepsGov π) (hCfg : KeepsCfg π) (hEvr : KeepsEvr π) (hGlb : KeepsGlb π) (lane : Fin 144) (s : State) :
    ∃ s', execSecureTimeout lane s = .next s' ∧ π s' = π s := by
  unfold execSecureTimeout
  with_reducible repeat' first
    | rfl
    | assumption
    | (intro)
    | refine ite_frame ?_ ?_
    | refine (State.laneTimeout_frame π hDt hFresh hOut hLink hPort hLane hCqe hSess hDsc hWc hFtu hPxe hPxeAll hGov hCfg hEvr hGlb _ _ _ _ _).trans ?_
    | refine (hPort _ _ _).trans ?_
    | refine (State.advanceTo_frame π hDt _ _).trans ?_
    | refine (State.setLane_frame π hFresh hOut hLink hPort hLane hCqe hSess hDsc hWc hFtu hPxe hPxeAll hGov hCfg hEvr hGlb _ _ _ _).trans ?_
    | refine (foldl_frame π _ ?_ _ _).trans ?_
    | refine (foldl_frame2 π _ ?_ _ _).trans ?_
    | refine ⟨_, rfl, ?_⟩
    | refine pair_frame (by with_reducible assumption) ?_
    | split
    | (dsimp only)

theorem State.retrainPort_frame {α : Type} (π : State → α) (hFresh : KeepsFresh π) (hOut : KeepsOut π) (hLink : KeepsLink π) (hPort : KeepsPort π) (hLane : KeepsLane π) (hCqe : KeepsCqe π) (hSess : KeepsSess π) (hDsc : KeepsDsc π) (hWc : KeepsWc π) (hFtu : KeepsFtu π) (hPxe : KeepsPxe π) (hPxeAll : KeepsPxeAll π) (hGov : KeepsGov π) (hCfg : KeepsCfg π) (hEvr : KeepsEvr π) (hGlb : KeepsGlb π) (s : State) (p : PortId) (trigger : Nat) :
    π (State.retrainPort s p trigger) = π s := by
  unfold State.retrainPort
  with_reducible repeat' first
    | rfl
    | assumption
    | (intro)
    | refine ite_frame ?_ ?_
    | refine (hPort _ _ _).trans ?_
    | refine (State.tally_frame π hEvr _ _).trans ?_
    | refine (State.setLane_frame π hFresh hOut hLink hPort hLane hCqe hSess hDsc hWc hFtu hPxe hPxeAll hGov hCfg hEvr hGlb _ _ _ _).trans ?_
    | refine (foldl_frame π _ ?_ _ _).trans ?_
    | refine (foldl_frame2 π _ ?_ _ _).trans ?_
    | refine pair_frame (by with_reducible assumption) ?_
    | split
    | (dsimp only)

theorem execRetrainComplete_frame {α : Type} (π : State → α) (hFresh : KeepsFresh π) (hOut : KeepsOut π) (hLink : KeepsLink π) (hPort : KeepsPort π) (hLane : KeepsLane π) (hCqe : KeepsCqe π) (hSess : KeepsSess π) (hDsc : KeepsDsc π) (hWc : KeepsWc π) (hFtu : KeepsFtu π) (hPxe : KeepsPxe π) (hPxeAll : KeepsPxeAll π) (hGov : KeepsGov π) (hCfg : KeepsCfg π) (hEvr : KeepsEvr π) (hGlb : KeepsGlb π) (lane : Fin 144) (s : State) :
    ∃ s', execRetrainComplete lane s = .next s' ∧ π s' = π s := by
  unfold execRetrainComplete
  with_reducible repeat' first
    | rfl
    | assumption
    | (intro)
    | refine ite_frame ?_ ?_
    | refine (State.setLane_frame π hFresh hOut hLink hPort hLane hCqe hSess hDsc hWc hFtu hPxe hPxeAll hGov hCfg hEvr hGlb _ _ _ _).trans ?_
    | refine ⟨_, rfl, ?_⟩
    | refine pair_frame (by with_reducible assumption) ?_
    | split
    | (dsimp only)

theorem execRetrainTimeout_frame {α : Type} (π : State → α) (hDt : KeepsDt π) (hFresh : KeepsFresh π) (hOut : KeepsOut π) (hLink : KeepsLink π) (hPort : KeepsPort π) (hLane : KeepsLane π) (hCqe : KeepsCqe π) (hSess : KeepsSess π) (hDsc : KeepsDsc π) (hWc : KeepsWc π) (hFtu : KeepsFtu π) (hPxe : KeepsPxe π) (hPxeAll : KeepsPxeAll π) (hGov : KeepsGov π) (hCfg : KeepsCfg π) (hEvr : KeepsEvr π) (hGlb : KeepsGlb π) (lane : Fin 144) (s : State) :
    ∃ s', execRetrainTimeout lane s = .next s' ∧ π s' = π s := by
  unfold execRetrainTimeout
  with_reducible
    repeat' first | (rfl) | (refine ⟨_, rfl, ?_⟩) | (refine (State.laneTimeout_frame π hDt hFresh hOut hLink hPort hLane hCqe hSess hDsc hWc hFtu hPxe hPxeAll hGov hCfg hEvr hGlb _ _ _ _ _).trans ?_)

theorem execDownBackoffExpiry_frame {α : Type} (π : State → α) (hDt : KeepsDt π) (hFresh : KeepsFresh π) (hOut : KeepsOut π) (hLink : KeepsLink π) (hPort : KeepsPort π) (hLane : KeepsLane π) (hCqe : KeepsCqe π) (hSess : KeepsSess π) (hDsc : KeepsDsc π) (hWc : KeepsWc π) (hFtu : KeepsFtu π) (hPxe : KeepsPxe π) (hPxeAll : KeepsPxeAll π) (hGov : KeepsGov π) (hCfg : KeepsCfg π) (hEvr : KeepsEvr π) (hGlb : KeepsGlb π) (lane : Fin 144) (s : State) :
    ∃ s', execDownBackoffExpiry lane s = .next s' ∧ π s' = π s := by
  unfold execDownBackoffExpiry
  with_reducible repeat' first
    | rfl
    | assumption
    | (intro)
    | refine ite_frame ?_ ?_
    | refine (State.advanceTo_frame π hDt _ _).trans ?_
    | refine (State.setLane_frame π hFresh hOut hLink hPort hLane hCqe hSess hDsc hWc hFtu hPxe hPxeAll hGov hCfg hEvr hGlb _ _ _ _).trans ?_
    | refine ⟨_, rfl, ?_⟩
    | refine pair_frame (by with_reducible assumption) ?_
    | split
    | (dsimp only)

theorem execHostPortLost_frame {α : Type} (π : State → α) (hDt : KeepsDt π) (hOut : KeepsOut π) (hLink : KeepsLink π) (hPort : KeepsPort π) (hCqe : KeepsCqe π) (hSess : KeepsSess π) (hWc : KeepsWc π) (hDge : KeepsDge π) (hCpe : KeepsCpe π) (hFtu : KeepsFtu π) (hSlc : KeepsSlc π) (hEvr : KeepsEvr π) (port : Fin 16) (s : State) :
    ∃ s', execHostPortLost port s = .next s' ∧ π s' = π s := by
  unfold execHostPortLost
  with_reducible repeat' first
    | rfl
    | assumption
    | (intro)
    | refine ite_frame ?_ ?_
    | refine ite_frame2 ?_ ?_
    | refine (State.advanceTo_frame π hDt _ _).trans ?_
    | refine (State.event_frame π hEvr _ _ _ _ _ _ _).trans ?_
    | refine (State.endSession_frame π hOut hLink hPort hCqe hSess hWc hDge hCpe hFtu hSlc hEvr _ _ _).trans ?_
    | refine (hPort _ _ _).trans ?_
    | refine (hLink _ _ ?_).trans ?_
    | refine (foldl_frame π _ ?_ _ _).trans ?_
    | refine (foldl_frame2 π _ ?_ _ _).trans ?_
    | refine ⟨_, rfl, ?_⟩
    | refine pair_frame (by with_reducible assumption) ?_
    | split
    | (dsimp only)

theorem execKeyReplacement_frame {α : Type} (π : State → α) (hOut : KeepsOut π) (hPort : KeepsPort π) (port : PortId) (s : State) :
    ∃ s', execKeyReplacement port s = .next s' ∧ π s' = π s := by
  unfold execKeyReplacement
  with_reducible repeat' first
    | rfl
    | assumption
    | (intro)
    | refine ite_frame ?_ ?_
    | refine (hOut _ _).trans ?_
    | refine (hPort _ _ _).trans ?_
    | refine ⟨_, rfl, ?_⟩
    | refine pair_frame (by with_reducible assumption) ?_
    | split
    | (dsimp only)

theorem State.linkViolation_frame {α : Type} (π : State → α) (hPort : KeepsPort π) (hEvr : KeepsEvr π) (s : State) (p : PortId) (lane : Nat) (host : BitVec 16) (peer : BitVec 16) (media : BitVec 16) (word : Nat) :
    π (State.linkViolation s p lane host peer media word) = π s := by
  unfold State.linkViolation
  with_reducible repeat' first
    | rfl
    | assumption
    | (intro)
    | refine ite_frame ?_ ?_
    | refine (State.portViolation_frame π hPort hEvr _ _ _ _ _ _).trans ?_
    | refine (hPort _ _ _).trans ?_
    | refine (State.event_frame π hEvr _ _ _ _ _ _ _).trans ?_
    | refine pair_frame (by with_reducible assumption) ?_
    | split
    | (dsimp only)

theorem State.acked_frame {α : Type} (π : State → α) (hPort : KeepsPort π) (hEvr : KeepsEvr π) (s : State) (p : PortId) (seq : Nat) (word : Nat) :
    π (State.acked s p seq word) = π s := by
  unfold State.acked
  with_reducible repeat' first
    | rfl
    | assumption
    | (intro)
    | refine ite_frame ?_ ?_
    | refine (hPort _ _ _).trans ?_
    | refine (State.linkViolation_frame π hPort hEvr _ _ _ _ _ _ _).trans ?_
    | refine pair_frame (by with_reducible assumption) ?_
    | split
    | (dsimp only)

theorem State.replayFrom_frame {α : Type} (π : State → α) (hOut : KeepsOut π) (hPort : KeepsPort π) (hEvr : KeepsEvr π) (s : State) (p : PortId) (seq : Nat) :
    π (State.replayFrom s p seq) = π s := by
  unfold State.replayFrom
  with_reducible repeat' first
    | rfl
    | assumption
    | (intro)
    | refine ite_frame ?_ ?_
    | refine (State.tally_frame π hEvr _ _).trans ?_
    | refine (hPort _ _ _).trans ?_
    | refine (hOut _ _).trans ?_
    | refine pair_frame (by with_reducible assumption) ?_
    | split
    | (dsimp only)

theorem execNakReceived_frame {α : Type} (π : State → α) (hOut : KeepsOut π) (hPort : KeepsPort π) (hEvr : KeepsEvr π) (port : PortId) (seq : BitVec 10) (s : State) :
    ∃ s', execNakReceived port seq s = .next s' ∧ π s' = π s := by
  unfold execNakReceived
  with_reducible repeat' first
    | rfl
    | assumption
    | (intro)
    | refine ite_frame ?_ ?_
    | refine (hPort _ _ _).trans ?_
    | refine (State.linkViolation_frame π hPort hEvr _ _ _ _ _ _ _).trans ?_
    | refine (State.pump_frame π hOut hPort _ _).trans ?_
    | refine (State.replayFrom_frame π hOut hPort hEvr _ _ _).trans ?_
    | refine ⟨_, rfl, ?_⟩
    | refine pair_frame (by with_reducible assumption) ?_
    | split
    | (dsimp only)

theorem execReplayTimeout_frame {α : Type} (π : State → α) (hDt : KeepsDt π) (hOut : KeepsOut π) (hPort : KeepsPort π) (hEvr : KeepsEvr π) (port : PortId) (s : State) :
    ∃ s', execReplayTimeout port s = .next s' ∧ π s' = π s := by
  unfold execReplayTimeout
  with_reducible repeat' first
    | rfl
    | assumption
    | (intro)
    | refine ite_frame ?_ ?_
    | refine (State.replayFrom_frame π hOut hPort hEvr _ _ _).trans ?_
    | refine (State.advanceTo_frame π hDt _ _).trans ?_
    | refine ⟨_, rfl, ?_⟩
    | refine pair_frame (by with_reducible assumption) ?_
    | split
    | (dsimp only)

theorem execReplayLimit_frame {α : Type} (π : State → α) (hFresh : KeepsFresh π) (hOut : KeepsOut π) (hLink : KeepsLink π) (hPort : KeepsPort π) (hLane : KeepsLane π) (hCqe : KeepsCqe π) (hSess : KeepsSess π) (hDsc : KeepsDsc π) (hWc : KeepsWc π) (hFtu : KeepsFtu π) (hPxe : KeepsPxe π) (hPxeAll : KeepsPxeAll π) (hGov : KeepsGov π) (hCfg : KeepsCfg π) (hEvr : KeepsEvr π) (hGlb : KeepsGlb π) (port : PortId) (s : State) :
    ∃ s', execReplayLimit port s = .next s' ∧ π s' = π s := by
  unfold execReplayLimit
  with_reducible repeat' first
    | rfl
    | assumption
    | (intro)
    | refine ite_frame ?_ ?_
    | refine (State.retrainPort_frame π hFresh hOut hLink hPort hLane hCqe hSess hDsc hWc hFtu hPxe hPxeAll hGov hCfg hEvr hGlb _ _ _).trans ?_
    | refine ⟨_, rfl, ?_⟩
    | refine pair_frame (by with_reducible assumption) ?_
    | split
    | (dsimp only)

theorem execUncorrectableCodewordLimit_frame {α : Type} (π : State → α) (hFresh : KeepsFresh π) (hOut : KeepsOut π) (hLink : KeepsLink π) (hPort : KeepsPort π) (hLane : KeepsLane π) (hCqe : KeepsCqe π) (hSess : KeepsSess π) (hDsc : KeepsDsc π) (hWc : KeepsWc π) (hFtu : KeepsFtu π) (hPxe : KeepsPxe π) (hPxeAll : KeepsPxeAll π) (hGov : KeepsGov π) (hCfg : KeepsCfg π) (hEvr : KeepsEvr π) (hGlb : KeepsGlb π) (lane : Fin 144) (s : State) :
    ∃ s', execUncorrectableCodewordLimit lane s = .next s' ∧ π s' = π s := by
  unfold execUncorrectableCodewordLimit
  with_reducible repeat' first
    | rfl
    | assumption
    | (intro)
    | refine ite_frame ?_ ?_
    | refine (State.retrainPort_frame π hFresh hOut hLink hPort hLane hCqe hSess hDsc hWc hFtu hPxe hPxeAll hGov hCfg hEvr hGlb _ _ _).trans ?_
    | refine ⟨_, rfl, ?_⟩
    | refine pair_frame (by with_reducible assumption) ?_
    | split
    | (dsimp only)

theorem execLockLossTimeout_frame {α : Type} (π : State → α) (hFresh : KeepsFresh π) (hOut : KeepsOut π) (hLink : KeepsLink π) (hPort : KeepsPort π) (hLane : KeepsLane π) (hCqe : KeepsCqe π) (hSess : KeepsSess π) (hDsc : KeepsDsc π) (hWc : KeepsWc π) (hFtu : KeepsFtu π) (hPxe : KeepsPxe π) (hPxeAll : KeepsPxeAll π) (hGov : KeepsGov π) (hCfg : KeepsCfg π) (hEvr : KeepsEvr π) (hGlb : KeepsGlb π) (lane : Fin 144) (s : State) :
    ∃ s', execLockLossTimeout lane s = .next s' ∧ π s' = π s := by
  unfold execLockLossTimeout
  with_reducible repeat' first
    | rfl
    | assumption
    | (intro)
    | refine ite_frame ?_ ?_
    | refine (State.retrainPort_frame π hFresh hOut hLink hPort hLane hCqe hSess hDsc hWc hFtu hPxe hPxeAll hGov hCfg hEvr hGlb _ _ _).trans ?_
    | refine ⟨_, rfl, ?_⟩
    | refine pair_frame (by with_reducible assumption) ?_
    | split
    | (dsimp only)

theorem execTagFailureLimit_frame {α : Type} (π : State → α) (hFresh : KeepsFresh π) (hOut : KeepsOut π) (hLink : KeepsLink π) (hPort : KeepsPort π) (hLane : KeepsLane π) (hCqe : KeepsCqe π) (hSess : KeepsSess π) (hDsc : KeepsDsc π) (hWc : KeepsWc π) (hFtu : KeepsFtu π) (hPxe : KeepsPxe π) (hPxeAll : KeepsPxeAll π) (hGov : KeepsGov π) (hCfg : KeepsCfg π) (hEvr : KeepsEvr π) (hGlb : KeepsGlb π) (port : PortId) (s : State) :
    ∃ s', execTagFailureLimit port s = .next s' ∧ π s' = π s := by
  unfold execTagFailureLimit
  with_reducible repeat' first
    | rfl
    | assumption
    | (intro)
    | refine ite_frame ?_ ?_
    | refine (State.retrainPort_frame π hFresh hOut hLink hPort hLane hCqe hSess hDsc hWc hFtu hPxe hPxeAll hGov hCfg hEvr hGlb _ _ _).trans ?_
    | refine ⟨_, rfl, ?_⟩
    | refine pair_frame (by with_reducible assumption) ?_
    | split
    | (dsimp only)

theorem State.sayCredits_frame {α : Type} (π : State → α) (hOut : KeepsOut π) (hPort : KeepsPort π) (s : State) (p : PortId) :
    π (State.sayCredits s p) = π s := by
  unfold State.sayCredits
  with_reducible
    repeat' first | (rfl) | (refine (hPort _ _ _).trans ?_) | (refine (hOut _ _).trans ?_)

theorem execCreditAdvertiseTimer_frame {α : Type} (π : State → α) (hDt : KeepsDt π) (hOut : KeepsOut π) (hPort : KeepsPort π) (port : PortId) (s : State) :
    ∃ s', execCreditAdvertiseTimer port s = .next s' ∧ π s' = π s := by
  unfold execCreditAdvertiseTimer
  with_reducible repeat' first
    | rfl
    | assumption
    | (intro)
    | refine ite_frame ?_ ?_
    | refine (State.sayCredits_frame π hOut hPort _ _).trans ?_
    | refine (State.advanceTo_frame π hDt _ _).trans ?_
    | refine ⟨_, rfl, ?_⟩
    | refine pair_frame (by with_reducible assumption) ?_
    | split
    | (dsimp only)

theorem State.sayAck_frame {α : Type} (π : State → α) (hOut : KeepsOut π) (hPort : KeepsPort π) (s : State) (p : PortId) :
    π (State.sayAck s p) = π s := by
  unfold State.sayAck
  with_reducible
    repeat' first | (rfl) | (refine (hPort _ _ _).trans ?_) | (refine (hOut _ _).trans ?_)

theorem execAckTimer_frame {α : Type} (π : State → α) (hDt : KeepsDt π) (hOut : KeepsOut π) (hPort : KeepsPort π) (port : PortId) (s : State) :
    ∃ s', execAckTimer port s = .next s' ∧ π s' = π s := by
  unfold execAckTimer
  with_reducible repeat' first
    | rfl
    | assumption
    | (intro)
    | refine ite_frame ?_ ?_
    | refine (State.sayAck_frame π hOut hPort _ _).trans ?_
    | refine (State.advanceTo_frame π hDt _ _).trans ?_
    | refine ⟨_, rfl, ?_⟩
    | refine pair_frame (by with_reducible assumption) ?_
    | split
    | (dsimp only)

theorem State.endBlocked_frame {α : Type} (π : State → α) (hCqe : KeepsCqe π) (s : State) (p : PortId) :
    π (State.endBlocked s p) = π s := by
  unfold State.endBlocked
  with_reducible repeat' first
    | rfl
    | assumption
    | (intro)
    | refine ite_frame ?_ ?_
    | refine (hCqe _ _).trans ?_
    | refine pair_frame (by with_reducible assumption) ?_
    | split
    | (dsimp only)

theorem execLctlFlitReceived_frame {α : Type} (π : State → α) (hOut : KeepsOut π) (hPort : KeepsPort π) (hCqe : KeepsCqe π) (hRcc : KeepsRcc π) (hEvr : KeepsEvr π) (hCold : KeepsCold π) (hWarm : KeepsWarm π) (port : PortId) (f : Lctl) (s : State) :
    ∃ s', execLctlFlitReceived port f s = .next s' ∧ π s' = π s := by
  unfold execLctlFlitReceived
  with_reducible repeat' first
    | rfl
    | assumption
    | (intro)
    | refine ite_frame ?_ ?_
    | refine (State.acked_frame π hPort hEvr _ _ _ _).trans ?_
    | refine (hPort _ _ _).trans ?_
    | refine (State.actSwrst_frame π hRcc hEvr hCold hWarm _).trans ?_
    | refine (State.endBlocked_frame π hCqe _ _).trans ?_
    | refine (State.pump_frame π hOut hPort _ _).trans ?_
    | refine ⟨_, rfl, ?_⟩
    | refine pair_frame (by with_reducible assumption) ?_
    | split
    | (dsimp only)

theorem State.sayNak_frame {α : Type} (π : State → α) (hOut : KeepsOut π) (hPort : KeepsPort π) (s : State) (p : PortId) :
    π (State.sayNak s p) = π s := by
  unfold State.sayNak
  with_reducible
    repeat' first | (rfl) | (refine (hPort _ _ _).trans ?_) | (refine (hOut _ _).trans ?_)

theorem State.badFlit_frame {α : Type} (π : State → α) (hOut : KeepsOut π) (hPort : KeepsPort π) (hLane : KeepsLane π) (hEvr : KeepsEvr π) (s : State) (p : PortId) (lane : Nat) (f : Flit) :
    π (State.badFlit s p lane f) = π s := by
  unfold State.badFlit
  with_reducible repeat' first
    | rfl
    | assumption
    | (intro)
    | refine ite_frame ?_ ?_
    | refine (State.tally_frame π hEvr _ _).trans ?_
    | refine (hLane _ _ _).trans ?_
    | refine (hPort _ _ _).trans ?_
    | refine (State.sayNak_frame π hOut hPort _ _).trans ?_
    | refine pair_frame (by with_reducible assumption) ?_
    | split
    | (dsimp only)

theorem State.refuseContainer_frame {α : Type} (π : State → α) (hPort : KeepsPort π) (hCqe : KeepsCqe π) (hSess : KeepsSess π) (hEvr : KeepsEvr π) (s : State) (h : Fin 16) (f : Flit) :
    π (State.refuseContainer s h f) = π s := by
  unfold State.refuseContainer
  with_reducible repeat' first
    | rfl
    | assumption
    | (intro)
    | refine ite_frame ?_ ?_
    | refine ite_frame2 ?_ ?_
    | refine (State.portViolation_frame π hPort hEvr _ _ _ _ _ _).trans ?_
    | refine (hSess _ _ _).trans ?_
    | refine (State.event_frame π hEvr _ _ _ _ _ _ _).trans ?_
    | refine (hCqe _ _).trans ?_
    | refine pair_frame (by with_reducible assumption) ?_
    | split
    | (dsimp only)

theorem State.acceptFlit_frame {α : Type} (π : State → α) (hOut : KeepsOut π) (hPort : KeepsPort π) (hCqe : KeepsCqe π) (hSess : KeepsSess π) (hEvr : KeepsEvr π) (s : State) (p : PortId) (f : Flit) :
    π (State.acceptFlit s p f) = π s := by
  unfold State.acceptFlit
  with_reducible repeat' first
    | rfl
    | assumption
    | (intro)
    | refine ite_frame ?_ ?_
    | refine (hPort _ _ _).trans ?_
    | refine (State.sayAck_frame π hOut hPort _ _).trans ?_
    | refine (State.sayCredits_frame π hOut hPort _ _).trans ?_
    | refine (State.refuseContainer_frame π hPort hCqe hSess hEvr _ _ _).trans ?_
    | refine pair_frame (by with_reducible assumption) ?_
    | split
    | (dsimp only)

theorem execMsgFlitReceived_frame {α : Type} (π : State → α) (hOut : KeepsOut π) (hPort : KeepsPort π) (hLane : KeepsLane π) (hCqe : KeepsCqe π) (hSess : KeepsSess π) (hEvr : KeepsEvr π) (port : PortId) (lane : Fin 144) (f : Flit) (s : State) :
    ∃ s', execMsgFlitReceived port lane f s = .next s' ∧ π s' = π s := by
  unfold execMsgFlitReceived
  with_reducible repeat' first
    | rfl
    | assumption
    | (intro)
    | refine ite_frame ?_ ?_
    | refine (State.badFlit_frame π hOut hPort hLane hEvr _ _ _ _).trans ?_
    | refine (State.linkViolation_frame π hPort hEvr _ _ _ _ _ _ _).trans ?_
    | refine (State.pump_frame π hOut hPort _ _).trans ?_
    | refine (State.acked_frame π hPort hEvr _ _ _ _).trans ?_
    | refine (State.sayAck_frame π hOut hPort _ _).trans ?_
    | refine (State.sayNak_frame π hOut hPort _ _).trans ?_
    | refine (State.acceptFlit_frame π hOut hPort hCqe hSess hEvr _ _ _).trans ?_
    | refine ⟨_, rfl, ?_⟩
    | refine pair_frame (by with_reducible assumption) ?_
    | split
    | (dsimp only)

end Sys2Proof.Machine
end

