-- ==== Sys2Proof/Laws/FrameSessions.lean ====
section
/-! SUPPORT. What the definitions of Machine/Sessions.lean leave alone: a view of the state that no block they write can change reads
the same after them. -/

set_option linter.unusedSimpArgs false

namespace Sys2Proof.Machine

open Sys2Proof

theorem execHello_frame {α : Type} (π : State → α) (hFresh : KeepsFresh π) (hOut : KeepsOut π) (hLink : KeepsLink π) (hPort : KeepsPort π) (hEvr : KeepsEvr π) (port : Fin 16) (reqId : BitVec 64) (h : Hello) (s : State) :
    ∃ s', execHello port reqId h s = .next s' ∧ π s' = π s := by
  unfold execHello
  with_reducible repeat' first
    | rfl
    | assumption
    | (next => with_unfolding_all exact (rfl : Link.lanes _ = _))
    | (intro)
    | refine ite_frame ?_ ?_
    | refine (State.hostViolation_frame π hFresh hPort hEvr _ _ _ _ _).trans ?_
    | refine (hLink _ _ ?_).trans ?_
    | refine (State.transmit_frame π hOut hPort _ _ _ _).trans ?_
    | refine ⟨_, rfl, ?_⟩
    | refine pair_frame (by with_reducible assumption) ?_
    | split
    | (dsimp only)

theorem execFinish_frame {α : Type} (π : State → α) (hFresh : KeepsFresh π) (hOut : KeepsOut π) (hLink : KeepsLink π) (hPort : KeepsPort π) (hCqe : KeepsCqe π) (hEvr : KeepsEvr π) (port : Fin 16) (reqId : BitVec 64) (f : Finish) (s : State) :
    ∃ s', execFinish port reqId f s = .next s' ∧ π s' = π s := by
  unfold execFinish
  with_reducible repeat' first
    | rfl
    | assumption
    | (next => with_unfolding_all exact (rfl : Link.lanes _ = _))
    | (intro)
    | refine ite_frame ?_ ?_
    | refine (State.hostViolation_frame π hFresh hPort hEvr _ _ _ _ _).trans ?_
    | refine (hLink _ _ ?_).trans ?_
    | refine (hCqe _ _).trans ?_
    | refine (State.transmit_frame π hOut hPort _ _ _ _).trans ?_
    | refine (State.event_frame π hEvr _ _ _ _ _ _ _).trans ?_
    | refine ⟨_, rfl, ?_⟩
    | refine pair_frame (by with_reducible assumption) ?_
    | split
    | (dsimp only)

theorem execHandshakeTimeout_frame {α : Type} (π : State → α) (hDt : KeepsDt π) (hFresh : KeepsFresh π) (hLink : KeepsLink π) (hPort : KeepsPort π) (hEvr : KeepsEvr π) (port : Fin 16) (reqId : BitVec 64) (s : State) :
    ∃ s', execHandshakeTimeout port reqId s = .next s' ∧ π s' = π s := by
  unfold execHandshakeTimeout
  with_reducible repeat' first
    | rfl
    | assumption
    | (next => with_unfolding_all exact (rfl : Link.lanes _ = _))
    | (intro)
    | refine ite_frame ?_ ?_
    | refine (State.advanceTo_frame π hDt _ _).trans ?_
    | refine (State.hostViolation_frame π hFresh hPort hEvr _ _ _ _ _).trans ?_
    | refine (hLink _ _ ?_).trans ?_
    | refine ⟨_, rfl, ?_⟩
    | refine pair_frame (by with_reducible assumption) ?_
    | split
    | (dsimp only)

theorem execSessionClose_frame {α : Type} (π : State → α) (hFresh : KeepsFresh π) (hOut : KeepsOut π) (hLink : KeepsLink π) (hPort : KeepsPort π) (hCqe : KeepsCqe π) (hSess : KeepsSess π) (hWc : KeepsWc π) (hDge : KeepsDge π) (hCpe : KeepsCpe π) (hFtu : KeepsFtu π) (hSlc : KeepsSlc π) (hEvr : KeepsEvr π) (m : Vc3) (s : State) :
    ∃ s', execSessionClose m s = .next s' ∧ π s' = π s := by
  unfold execSessionClose
  with_reducible repeat' first
    | rfl
    | assumption
    | (intro)
    | refine (State.vc3_frame π hFresh hOut hPort hCqe hSess hEvr _ _ _ _ _ _ _ ?_).trans ?_
    | refine (State.endSession_frame π hOut hLink hPort hCqe hSess hWc hDge hCpe hFtu hSlc hEvr _ _ _).trans ?_
    | refine (hSess _ _ _).trans ?_
    | refine (State.holdAnswer_frame π hSess _ _).trans ?_
    | refine ⟨_, rfl, ?_⟩
    | refine pair_frame (by with_reducible assumption) ?_
    | split
    | (dsimp only)

theorem execKeepalive_frame {α : Type} (π : State → α) (hFresh : KeepsFresh π) (hOut : KeepsOut π) (hPort : KeepsPort π) (hCqe : KeepsCqe π) (hSess : KeepsSess π) (hEvr : KeepsEvr π) (m : Vc3) (s : State) :
    ∃ s', execKeepalive m s = .next s' ∧ π s' = π s := by
  unfold execKeepalive
  with_reducible repeat' first
    | rfl
    | assumption
    | (intro)
    | refine (State.vc3_frame π hFresh hOut hPort hCqe hSess hEvr _ _ _ _ _ _ _ ?_).trans ?_
    | refine ⟨_, rfl, ?_⟩
    | refine pair_frame (by with_reducible assumption) ?_
    | split
    | (dsimp only)

theorem execKeepaliveSilence_frame {α : Type} (π : State → α) (hDt : KeepsDt π) (hOut : KeepsOut π) (hLink : KeepsLink π) (hPort : KeepsPort π) (hCqe : KeepsCqe π) (hSess : KeepsSess π) (hWc : KeepsWc π) (hDge : KeepsDge π) (hCpe : KeepsCpe π) (hFtu : KeepsFtu π) (hSlc : KeepsSlc π) (hEvr : KeepsEvr π) (sess : Fin 4096) (s : State) :
    ∃ s', execKeepaliveSilence sess s = .next s' ∧ π s' = π s := by
  unfold execKeepaliveSilence
  with_reducible repeat' first
    | rfl
    | assumption
    | (intro)
    | refine ite_frame ?_ ?_
    | refine (State.endSession_frame π hOut hLink hPort hCqe hSess hWc hDge hCpe hFtu hSlc hEvr _ _ _).trans ?_
    | refine (State.advanceTo_frame π hDt _ _).trans ?_
    | refine ⟨_, rfl, ?_⟩
    | refine pair_frame (by with_reducible assumption) ?_
    | split
    | (dsimp only)

theorem execQpCreate_frame {α : Type} (π : State → α) (hFresh : KeepsFresh π) (hOut : KeepsOut π) (hPort : KeepsPort π) (hCqe : KeepsCqe π) (hSess : KeepsSess π) (hEvr : KeepsEvr π) (m : Vc3) (cls : Byte) (depthLog2 : Byte) (s : State) :
    ∃ s', execQpCreate m cls depthLog2 s = .next s' ∧ π s' = π s := by
  unfold execQpCreate
  with_reducible repeat' first
    | rfl
    | assumption
    | (intro)
    | refine ite_frame ?_ ?_
    | refine (State.vc3_frame π hFresh hOut hPort hCqe hSess hEvr _ _ _ _ _ _ _ ?_).trans ?_
    | refine (State.answer_frame π hOut hPort hSess _ _ _ _ _).trans ?_
    | refine (hCqe _ _).trans ?_
    | refine (State.event_frame π hEvr _ _ _ _ _ _ _).trans ?_
    | refine ⟨_, rfl, ?_⟩
    | refine pair_frame (by with_reducible assumption) ?_
    | split
    | (dsimp only)

theorem State.abortQp_frame {α : Type} (π : State → α) (hOut : KeepsOut π) (hPort : KeepsPort π) (hCqe : KeepsCqe π) (hWc : KeepsWc π) (hDge : KeepsDge π) (hCpe : KeepsCpe π) (hFtu : KeepsFtu π) (hSlc : KeepsSlc π) (hEvr : KeepsEvr π) (s : State) (qp : Nat) :
    π (State.abortQp s qp) = π s := by
  unfold State.abortQp
  with_reducible repeat' first
    | rfl
    | assumption
    | (intro)
    | refine (hCqe _ _).trans ?_
    | refine (State.endEarly_frame π hOut hPort hCqe hWc hDge hCpe hFtu hSlc hEvr _ _ _).trans ?_
    | refine (foldl_frame π _ ?_ _ _).trans ?_
    | refine (foldl_frame2 π _ ?_ _ _).trans ?_
    | refine pair_frame (by with_reducible assumption) ?_
    | split
    | (dsimp only)

theorem State.qpDelete_frame {α : Type} (π : State → α) (hFresh : KeepsFresh π) (hOut : KeepsOut π) (hPort : KeepsPort π) (hCqe : KeepsCqe π) (hSess : KeepsSess π) (hWc : KeepsWc π) (hDge : KeepsDge π) (hCpe : KeepsCpe π) (hFtu : KeepsFtu π) (hSlc : KeepsSlc π) (hEvr : KeepsEvr π) (s : State) (m : Vc3) (qp : Nat) (mode : Nat) :
    π (State.qpDelete s m qp mode) = π s := by
  unfold State.qpDelete
  with_reducible repeat' first
    | rfl
    | assumption
    | (intro)
    | refine ite_frame ?_ ?_
    | refine (State.vc3_frame π hFresh hOut hPort hCqe hSess hEvr _ _ _ _ _ _ _ ?_).trans ?_
    | refine (State.answer_frame π hOut hPort hSess _ _ _ _ _).trans ?_
    | refine (hCqe _ _).trans ?_
    | refine (State.holdAnswer_frame π hSess _ _).trans ?_
    | refine (State.abortQp_frame π hOut hPort hCqe hWc hDge hCpe hFtu hSlc hEvr _ _).trans ?_
    | refine pair_frame (by with_reducible assumption) ?_
    | split
    | (dsimp only)

theorem execQpDeleteDrain_frame {α : Type} (π : State → α) (hFresh : KeepsFresh π) (hOut : KeepsOut π) (hPort : KeepsPort π) (hCqe : KeepsCqe π) (hSess : KeepsSess π) (hWc : KeepsWc π) (hDge : KeepsDge π) (hCpe : KeepsCpe π) (hFtu : KeepsFtu π) (hSlc : KeepsSlc π) (hEvr : KeepsEvr π) (m : Vc3) (qp : BitVec 16) (s : State) :
    ∃ s', execQpDeleteDrain m qp s = .next s' ∧ π s' = π s := by
  unfold execQpDeleteDrain
  with_reducible
    repeat' first | (rfl) | (refine ⟨_, rfl, ?_⟩) | (refine (State.qpDelete_frame π hFresh hOut hPort hCqe hSess hWc hDge hCpe hFtu hSlc hEvr _ _ _ _).trans ?_)

theorem execQpDeleteAbort_frame {α : Type} (π : State → α) (hFresh : KeepsFresh π) (hOut : KeepsOut π) (hPort : KeepsPort π) (hCqe : KeepsCqe π) (hSess : KeepsSess π) (hWc : KeepsWc π) (hDge : KeepsDge π) (hCpe : KeepsCpe π) (hFtu : KeepsFtu π) (hSlc : KeepsSlc π) (hEvr : KeepsEvr π) (m : Vc3) (qp : BitVec 16) (mode : Byte) (s : State) :
    ∃ s', execQpDeleteAbort m qp mode s = .next s' ∧ π s' = π s := by
  unfold execQpDeleteAbort
  with_reducible
    repeat' first | (rfl) | (refine ⟨_, rfl, ?_⟩) | (refine (State.qpDelete_frame π hFresh hOut hPort hCqe hSess hWc hDge hCpe hFtu hSlc hEvr _ _ _ _).trans ?_)

theorem execQpDeleteDone_frame {α : Type} (π : State → α) (hOut : KeepsOut π) (hPort : KeepsPort π) (hCqe : KeepsCqe π) (hSess : KeepsSess π) (hEvr : KeepsEvr π) (qp : BitVec 14) (s : State) :
    ∃ s', execQpDeleteDone qp s = .next s' ∧ π s' = π s := by
  unfold execQpDeleteDone
  with_reducible repeat' first
    | rfl
    | assumption
    | (intro)
    | refine ite_frame ?_ ?_
    | refine (State.event_frame π hEvr _ _ _ _ _ _ _).trans ?_
    | refine (State.answerTo_frame π hOut hPort hSess _ _ _ _ _ _ _).trans ?_
    | refine (hCqe _ _).trans ?_
    | refine (foldl_frame π _ ?_ _ _).trans ?_
    | refine (foldl_frame2 π _ ?_ _ _).trans ?_
    | refine ⟨_, rfl, ?_⟩
    | refine pair_frame (by with_reducible assumption) ?_
    | split
    | (dsimp only)

theorem execNoticeMask_frame {α : Type} (π : State → α) (hFresh : KeepsFresh π) (hOut : KeepsOut π) (hPort : KeepsPort π) (hCqe : KeepsCqe π) (hSess : KeepsSess π) (hEvr : KeepsEvr π) (m : Vc3) (mask : BitVec 64) (s : State) :
    ∃ s', execNoticeMask m mask s = .next s' ∧ π s' = π s := by
  unfold execNoticeMask
  with_reducible repeat' first
    | rfl
    | assumption
    | (intro)
    | refine (State.vc3_frame π hFresh hOut hPort hCqe hSess hEvr _ _ _ _ _ _ _ ?_).trans ?_
    | refine (State.answer_frame π hOut hPort hSess _ _ _ _ _).trans ?_
    | refine (hSess _ _ _).trans ?_
    | refine ⟨_, rfl, ?_⟩
    | refine pair_frame (by with_reducible assumption) ?_
    | split
    | (dsimp only)

theorem State.noticesLost_frame {α : Type} (π : State → α) (hSess : KeepsSess π) (hEvr : KeepsEvr π) (s : State) (n : Nat) (x : Session) :
    π (State.noticesLost s n x) = π s := by
  unfold State.noticesLost
  with_reducible repeat' first
    | rfl
    | assumption
    | (intro)
    | refine ite_frame ?_ ?_
    | refine (hSess _ _ _).trans ?_
    | refine (State.event_frame π hEvr _ _ _ _ _ _ _).trans ?_
    | refine pair_frame (by with_reducible assumption) ?_
    | split
    | (dsimp only)

theorem State.sendNotices_frame {α : Type} (π : State → α) (hOut : KeepsOut π) (hPort : KeepsPort π) (hSess : KeepsSess π) (s : State) (n : Nat) (x0 : Nat) :
    π (State.sendNotices s n x0) = π s := by
  induction x0 generalizing s n with
  | zero => rfl
  | succ k ih =>
    unfold State.sendNotices
    with_reducible repeat' first
      | rfl
      | assumption
      | (intro)
      | refine (ih _ _).trans ?_
      | refine ite_frame ?_ ?_
      | refine (State.transmit_frame π hOut hPort _ _ _ _).trans ?_
      | refine (hSess _ _ _).trans ?_
      | refine pair_frame (by with_reducible assumption) ?_
      | split
      | (dsimp only)

theorem execNoticeTransmit_frame {α : Type} (π : State → α) (hOut : KeepsOut π) (hPort : KeepsPort π) (hSess : KeepsSess π) (hEvr : KeepsEvr π) (sess : Fin 4096) (s : State) :
    ∃ s', execNoticeTransmit sess s = .next s' ∧ π s' = π s := by
  unfold execNoticeTransmit
  with_reducible repeat' first
    | rfl
    | assumption
    | (intro)
    | refine ite_frame ?_ ?_
    | refine (State.sendNotices_frame π hOut hPort hSess _ _ _).trans ?_
    | refine (State.noticesLost_frame π hSess hEvr _ _ _).trans ?_
    | refine ⟨_, rfl, ?_⟩
    | refine pair_frame (by with_reducible assumption) ?_
    | split
    | (dsimp only)

theorem State.quarantineNotice_frame {α : Type} (π : State → α) (hCqe : KeepsCqe π) (s : State) (kind : Nat) (action : Nat) (target : Nat) :
    π (State.quarantineNotice s kind action target) = π s := by
  unfold State.quarantineNotice
  with_reducible
    repeat' first | (rfl) | (refine (State.notifyAll_frame π hCqe _ _ _).trans ?_)

theorem State.quarantineSession_frame {α : Type} (π : State → α) (hCqe : KeepsCqe π) (hSess : KeepsSess π) (hEvr : KeepsEvr π) (s : State) (n : Nat) :
    π (State.quarantineSession s n) = π s := by
  unfold State.quarantineSession
  with_reducible repeat' first
    | rfl
    | assumption
    | (intro)
    | refine ite_frame ?_ ?_
    | refine (State.quarantineNotice_frame π hCqe _ _ _ _).trans ?_
    | refine (hSess _ _ _).trans ?_
    | refine (State.event_frame π hEvr _ _ _ _ _ _ _).trans ?_
    | refine pair_frame (by with_reducible assumption) ?_
    | split
    | (dsimp only)

theorem State.liftSession_frame {α : Type} (π : State → α) (hCqe : KeepsCqe π) (hSess : KeepsSess π) (hEvr : KeepsEvr π) (s : State) (n : Nat) (lifter : Nat) :
    π (State.liftSession s n lifter) = π s := by
  unfold State.liftSession
  with_reducible repeat' first
    | rfl
    | assumption
    | (intro)
    | refine ite_frame ?_ ?_
    | refine (State.quarantineNotice_frame π hCqe _ _ _ _).trans ?_
    | refine (hSess _ _ _).trans ?_
    | refine (State.event_frame π hEvr _ _ _ _ _ _ _).trans ?_
    | refine pair_frame (by with_reducible assumption) ?_
    | split
    | (dsimp only)

theorem State.setModuleQuarantine_frame {α : Type} (π : State → α) (hLink : KeepsLink π) (s : State) (pos : Nat) (on : Bool) :
    π (State.setModuleQuarantine s pos on) = π s := by
  unfold State.setModuleQuarantine
  with_reducible repeat' first
    | rfl
    | assumption
    | (next => with_unfolding_all exact (rfl : Link.lanes _ = _))
    | (intro)
    | refine (hLink _ _ ?_).trans ?_
    | refine pair_frame (by with_reducible assumption) ?_
    | split
    | (dsimp only)

theorem State.quarantineModule_frame {α : Type} (π : State → α) (hFresh : KeepsFresh π) (hOut : KeepsOut π) (hLink : KeepsLink π) (hPort : KeepsPort π) (hLane : KeepsLane π) (hCqe : KeepsCqe π) (hSess : KeepsSess π) (hDsc : KeepsDsc π) (hWc : KeepsWc π) (hDxu : KeepsDxu π) (hFtu : KeepsFtu π) (hPxe : KeepsPxe π) (hPxeAll : KeepsPxeAll π) (hGov : KeepsGov π) (hCfg : KeepsCfg π) (hEvr : KeepsEvr π) (hGlb : KeepsGlb π) (s : State) (pos : Nat) :
    π (State.quarantineModule s pos) = π s := by
  unfold State.quarantineModule
  with_reducible repeat' first
    | rfl
    | assumption
    | (intro)
    | refine ite_frame ?_ ?_
    | refine (State.memberLeaves_frame π hFresh hOut hPort hCqe hDsc hWc hDxu hFtu hPxe hPxeAll hGov hEvr hGlb _ _).trans ?_
    | refine (State.setModuleQuarantine_frame π hLink _ _ _).trans ?_
    | refine (State.event_frame π hEvr _ _ _ _ _ _ _).trans ?_
    | refine (State.setLane_frame π hFresh hOut hLink hPort hLane hCqe hSess hDsc hWc hFtu hPxe hPxeAll hGov hCfg hEvr hGlb _ _ _ _).trans ?_
    | refine (State.quarantineNotice_frame π hCqe _ _ _ _).trans ?_
    | refine (foldl_frame π _ ?_ _ _).trans ?_
    | refine (foldl_frame2 π _ ?_ _ _).trans ?_
    | refine pair_frame (by with_reducible assumption) ?_
    | split
    | (dsimp only)

theorem State.liftModule_frame {α : Type} (π : State → α) (hFresh : KeepsFresh π) (hOut : KeepsOut π) (hLink : KeepsLink π) (hPort : KeepsPort π) (hLane : KeepsLane π) (hCqe : KeepsCqe π) (hSess : KeepsSess π) (hDsc : KeepsDsc π) (hWc : KeepsWc π) (hFtu : KeepsFtu π) (hPxe : KeepsPxe π) (hPxeAll : KeepsPxeAll π) (hGov : KeepsGov π) (hCfg : KeepsCfg π) (hEvr : KeepsEvr π) (hGlb : KeepsGlb π) (s : State) (pos : Nat) :
    π (State.liftModule s pos) = π s := by
  unfold State.liftModule
  with_reducible repeat' first
    | rfl
    | assumption
    | (intro)
    | refine ite_frame ?_ ?_
    | refine (State.setModuleQuarantine_frame π hLink _ _ _).trans ?_
    | refine (State.event_frame π hEvr _ _ _ _ _ _ _).trans ?_
    | refine (State.setLane_frame π hFresh hOut hLink hPort hLane hCqe hSess hDsc hWc hFtu hPxe hPxeAll hGov hCfg hEvr hGlb _ _ _ _).trans ?_
    | refine (State.quarantineNotice_frame π hCqe _ _ _ _).trans ?_
    | refine (State.memberReturns_frame π hFresh hOut hLink hPort hCqe hDsc hFtu hPxe hPxeAll hGov hEvr hGlb _ _).trans ?_
    | refine (foldl_frame π _ ?_ _ _).trans ?_
    | refine (foldl_frame2 π _ ?_ _ _).trans ?_
    | refine pair_frame (by with_reducible assumption) ?_
    | split
    | (dsimp only)

theorem State.quarantineReq_frame {α : Type} (π : State → α) (hFresh : KeepsFresh π) (hOut : KeepsOut π) (hLink : KeepsLink π) (hPort : KeepsPort π) (hLane : KeepsLane π) (hCqe : KeepsCqe π) (hSess : KeepsSess π) (hDsc : KeepsDsc π) (hWc : KeepsWc π) (hDxu : KeepsDxu π) (hFtu : KeepsFtu π) (hPxe : KeepsPxe π) (hPxeAll : KeepsPxeAll π) (hGov : KeepsGov π) (hCfg : KeepsCfg π) (hEvr : KeepsEvr π) (hGlb : KeepsGlb π) (s : State) (m : Vc3) (kind : Nat) (action : Nat) (target : Nat) :
    π (State.quarantineReq s m kind action target) = π s := by
  unfold State.quarantineReq
  with_reducible repeat' first
    | rfl
    | assumption
    | (intro)
    | refine ite_frame ?_ ?_
    | refine (State.vc3_frame π hFresh hOut hPort hCqe hSess hEvr _ _ _ _ _ _ _ ?_).trans ?_
    | refine (State.answer_frame π hOut hPort hSess _ _ _ _ _).trans ?_
    | refine (State.quarantineSession_frame π hCqe hSess hEvr _ _).trans ?_
    | refine (State.liftSession_frame π hCqe hSess hEvr _ _ _).trans ?_
    | refine (State.quarantineModule_frame π hFresh hOut hLink hPort hLane hCqe hSess hDsc hWc hDxu hFtu hPxe hPxeAll hGov hCfg hEvr hGlb _ _).trans ?_
    | refine (State.liftModule_frame π hFresh hOut hLink hPort hLane hCqe hSess hDsc hWc hFtu hPxe hPxeAll hGov hCfg hEvr hGlb _ _).trans ?_
    | refine pair_frame (by with_reducible assumption) ?_
    | split
    | (dsimp only)

theorem execQuarantineSet_frame {α : Type} (π : State → α) (hFresh : KeepsFresh π) (hOut : KeepsOut π) (hLink : KeepsLink π) (hPort : KeepsPort π) (hLane : KeepsLane π) (hCqe : KeepsCqe π) (hSess : KeepsSess π) (hDsc : KeepsDsc π) (hWc : KeepsWc π) (hDxu : KeepsDxu π) (hFtu : KeepsFtu π) (hPxe : KeepsPxe π) (hPxeAll : KeepsPxeAll π) (hGov : KeepsGov π) (hCfg : KeepsCfg π) (hEvr : KeepsEvr π) (hGlb : KeepsGlb π) (m : Vc3) (kind : Byte) (action : Byte) (target : BitVec 16) (s : State) :
    ∃ s', execQuarantineSet m kind action target s = .next s' ∧ π s' = π s := by
  unfold execQuarantineSet
  with_reducible
    repeat' first | (rfl) | (refine ⟨_, rfl, ?_⟩) | (refine (State.quarantineReq_frame π hFresh hOut hLink hPort hLane hCqe hSess hDsc hWc hDxu hFtu hPxe hPxeAll hGov hCfg hEvr hGlb _ _ _ _ _).trans ?_)

theorem execQuarantineLift_frame {α : Type} (π : State → α) (hFresh : KeepsFresh π) (hOut : KeepsOut π) (hLink : KeepsLink π) (hPort : KeepsPort π) (hLane : KeepsLane π) (hCqe : KeepsCqe π) (hSess : KeepsSess π) (hDsc : KeepsDsc π) (hWc : KeepsWc π) (hDxu : KeepsDxu π) (hFtu : KeepsFtu π) (hPxe : KeepsPxe π) (hPxeAll : KeepsPxeAll π) (hGov : KeepsGov π) (hCfg : KeepsCfg π) (hEvr : KeepsEvr π) (hGlb : KeepsGlb π) (m : Vc3) (kind : Byte) (target : BitVec 16) (s : State) :
    ∃ s', execQuarantineLift m kind target s = .next s' ∧ π s' = π s := by
  unfold execQuarantineLift
  with_reducible
    repeat' first | (rfl) | (refine ⟨_, rfl, ?_⟩) | (refine (State.quarantineReq_frame π hFresh hOut hLink hPort hLane hCqe hSess hDsc hWc hDxu hFtu hPxe hPxeAll hGov hCfg hEvr hGlb _ _ _ _ _).trans ?_)

theorem execVc3UnknownType_frame {α : Type} (π : State → α) (hFresh : KeepsFresh π) (hOut : KeepsOut π) (hPort : KeepsPort π) (hCqe : KeepsCqe π) (hSess : KeepsSess π) (hEvr : KeepsEvr π) (m : Vc3) (typ : BitVec 16) (s : State) :
    ∃ s', execVc3UnknownType m typ s = .next s' ∧ π s' = π s := by
  unfold execVc3UnknownType
  with_reducible repeat' first
    | rfl
    | assumption
    | (intro)
    | refine (State.vc3_frame π hFresh hOut hPort hCqe hSess hEvr _ _ _ _ _ _ _ ?_).trans ?_
    | refine ⟨_, rfl, ?_⟩
    | refine pair_frame (by with_reducible assumption) ?_
    | split
    | (dsimp only)

theorem execSessionQuarantined_frame {α : Type} (π : State → α) (hCqe : KeepsCqe π) (hSess : KeepsSess π) (hEvr : KeepsEvr π) (sess : Fin 4096) (s : State) :
    ∃ s', execSessionQuarantined sess s = .next s' ∧ π s' = π s := by
  unfold execSessionQuarantined
  with_reducible repeat' first
    | rfl
    | assumption
    | (intro)
    | refine ite_frame ?_ ?_
    | refine (State.quarantineSession_frame π hCqe hSess hEvr _ _).trans ?_
    | refine ⟨_, rfl, ?_⟩
    | refine pair_frame (by with_reducible assumption) ?_
    | split
    | (dsimp only)

theorem execViolationWarning_frame {α : Type} (π : State → α) (hSess : KeepsSess π) (sess : Fin 4096) (s : State) :
    ∃ s', execViolationWarning sess s = .next s' ∧ π s' = π s := by
  unfold execViolationWarning
  with_reducible repeat' first
    | rfl
    | assumption
    | (intro)
    | refine ite_frame ?_ ?_
    | refine (hSess _ _ _).trans ?_
    | refine ⟨_, rfl, ?_⟩
    | refine pair_frame (by with_reducible assumption) ?_
    | split
    | (dsimp only)

theorem execQuarantineTimeout_frame {α : Type} (π : State → α) (hDt : KeepsDt π) (hOut : KeepsOut π) (hLink : KeepsLink π) (hPort : KeepsPort π) (hCqe : KeepsCqe π) (hSess : KeepsSess π) (hWc : KeepsWc π) (hDge : KeepsDge π) (hCpe : KeepsCpe π) (hFtu : KeepsFtu π) (hSlc : KeepsSlc π) (hEvr : KeepsEvr π) (sess : Fin 4096) (s : State) :
    ∃ s', execQuarantineTimeout sess s = .next s' ∧ π s' = π s := by
  unfold execQuarantineTimeout
  with_reducible repeat' first
    | rfl
    | assumption
    | (intro)
    | refine ite_frame ?_ ?_
    | refine (State.endSession_frame π hOut hLink hPort hCqe hSess hWc hDge hCpe hFtu hSlc hEvr _ _ _).trans ?_
    | refine (State.advanceTo_frame π hDt _ _).trans ?_
    | refine ⟨_, rfl, ?_⟩
    | refine pair_frame (by with_reducible assumption) ?_
    | split
    | (dsimp only)

theorem execPortViolationLimit_frame {α : Type} (π : State → α) (hFresh : KeepsFresh π) (hOut : KeepsOut π) (hLink : KeepsLink π) (hPort : KeepsPort π) (hLane : KeepsLane π) (hCqe : KeepsCqe π) (hSess : KeepsSess π) (hDsc : KeepsDsc π) (hWc : KeepsWc π) (hFtu : KeepsFtu π) (hPxe : KeepsPxe π) (hPxeAll : KeepsPxeAll π) (hGov : KeepsGov π) (hCfg : KeepsCfg π) (hEvr : KeepsEvr π) (hGlb : KeepsGlb π) (port : Fin 16) (s : State) :
    ∃ s', execPortViolationLimit port s = .next s' ∧ π s' = π s := by
  unfold execPortViolationLimit
  with_reducible repeat' first
    | rfl
    | assumption
    | (intro)
    | refine ite_frame ?_ ?_
    | refine (hPort _ _ _).trans ?_
    | refine (State.setLane_frame π hFresh hOut hLink hPort hLane hCqe hSess hDsc hWc hFtu hPxe hPxeAll hGov hCfg hEvr hGlb _ _ _ _).trans ?_
    | refine (foldl_frame π _ ?_ _ _).trans ?_
    | refine (foldl_frame2 π _ ?_ _ _).trans ?_
    | refine ⟨_, rfl, ?_⟩
    | refine pair_frame (by with_reducible assumption) ?_
    | split
    | (dsimp only)

theorem execModuleLinkQuarantine_frame {α : Type} (π : State → α) (hFresh : KeepsFresh π) (hOut : KeepsOut π) (hLink : KeepsLink π) (hPort : KeepsPort π) (hLane : KeepsLane π) (hCqe : KeepsCqe π) (hSess : KeepsSess π) (hDsc : KeepsDsc π) (hWc : KeepsWc π) (hDxu : KeepsDxu π) (hFtu : KeepsFtu π) (hPxe : KeepsPxe π) (hPxeAll : KeepsPxeAll π) (hGov : KeepsGov π) (hCfg : KeepsCfg π) (hEvr : KeepsEvr π) (hGlb : KeepsGlb π) (pos : Fin 96) (s : State) :
    ∃ s', execModuleLinkQuarantine pos s = .next s' ∧ π s' = π s := by
  unfold execModuleLinkQuarantine
  with_reducible repeat' first
    | rfl
    | assumption
    | (intro)
    | refine ite_frame ?_ ?_
    | refine (State.quarantineModule_frame π hFresh hOut hLink hPort hLane hCqe hSess hDsc hWc hDxu hFtu hPxe hPxeAll hGov hCfg hEvr hGlb _ _).trans ?_
    | refine ⟨_, rfl, ?_⟩
    | refine pair_frame (by with_reducible assumption) ?_
    | split
    | (dsimp only)

end Sys2Proof.Machine
end

