-- ==== Sys2Proof/Laws/FrameCommands.lean ====
section
/-! SUPPORT. What the definitions of Machine/Commands.lean leave alone: a view of the state that no block they write can change reads
the same after them. -/

set_option linter.unusedSimpArgs false

namespace Sys2Proof.Machine

open Sys2Proof

theorem State.decideCmd_frame {α : Type} (π : State → α) (hFresh : KeepsFresh π) (hOut : KeepsOut π) (hLink : KeepsLink π) (hPort : KeepsPort π) (hCqe : KeepsCqe π) (hDsc : KeepsDsc π) (hWc : KeepsWc π) (hDge : KeepsDge π) (hDxu : KeepsDxu π) (hCpe : KeepsCpe π) (hFtu : KeepsFtu π) (hPxe : KeepsPxe π) (hSnap : KeepsSnap π) (hSlc : KeepsSlc π) (hEvr : KeepsEvr π) (s : State) (c : Cmd) :
    π (State.decideCmd s c) = π s := by
  unfold State.decideCmd
  with_reducible repeat' first
    | rfl
    | assumption
    | (intro)
    | refine ite_frame ?_ ?_
    | refine (State.startPortal_frame π hFresh hOut hLink hPort hCqe hDsc hWc hDge hDxu hCpe hFtu hPxe hSnap hSlc hEvr _ _).trans ?_
    | refine (State.judge_frame π hOut hPort hCqe hDsc hWc hDge hCpe hFtu hSlc hEvr _ _).trans ?_
    | refine (pair_frame (by with_reducible assumption) (State.judge_frame π hOut hPort hCqe hDsc hWc hDge hCpe hFtu hSlc hEvr _ _)).trans ?_
    | refine (State.startCmd_frame π hOut hLink hPort hCqe hWc hDge hDxu hCpe hFtu hPxe hSlc hEvr _ _).trans ?_
    | refine (State.launchWrite_frame π hOut hPort hCqe hWc hDge hCpe hFtu hSlc hEvr _ _ _).trans ?_
    | refine pair_frame (by with_reducible assumption) ?_
    | split
    | (dsimp only)

theorem State.toDsc_frame {α : Type} (π : State → α) (hFresh : KeepsFresh π) (hOut : KeepsOut π) (hLink : KeepsLink π) (hPort : KeepsPort π) (hCqe : KeepsCqe π) (hDsc : KeepsDsc π) (hWc : KeepsWc π) (hDge : KeepsDge π) (hDxu : KeepsDxu π) (hCpe : KeepsCpe π) (hFtu : KeepsFtu π) (hPxe : KeepsPxe π) (hSnap : KeepsSnap π) (hSlc : KeepsSlc π) (hEvr : KeepsEvr π) (s : State) (c : Cmd) :
    π (State.toDsc s c) = π s := by
  unfold State.toDsc
  with_reducible repeat' first
    | rfl
    | assumption
    | (intro)
    | refine ite_frame ?_ ?_
    | refine (State.intake_frame π hDsc _).trans ?_
    | refine (pair_frame (by with_reducible assumption) (State.intake_frame π hDsc _)).trans ?_
    | refine (State.refuseCmd_frame π hOut hPort hCqe hDsc hWc hDge hCpe hFtu hSlc hEvr _ _ _ _).trans ?_
    | refine (State.decideCmd_frame π hFresh hOut hLink hPort hCqe hDsc hWc hDge hDxu hCpe hFtu hPxe hSnap hSlc hEvr _ _).trans ?_
    | refine pair_frame (by with_reducible assumption) ?_
    | split
    | (dsimp only)

theorem State.forward_frame {α : Type} (π : State → α) (hOut : KeepsOut π) (hPort : KeepsPort π) (hCqe : KeepsCqe π) (hDsc : KeepsDsc π) (hWc : KeepsWc π) (hDge : KeepsDge π) (hCpe : KeepsCpe π) (hFtu : KeepsFtu π) (hSlc : KeepsSlc π) (hEvr : KeepsEvr π) (s : State) (c : Cmd) (e : CmdEntry) :
    π (State.forward s c e) = π s := by
  unfold State.forward
  with_reducible repeat' first
    | rfl
    | assumption
    | (intro)
    | refine ite_frame ?_ ?_
    | refine (State.refuseCmd_frame π hOut hPort hCqe hDsc hWc hDge hCpe hFtu hSlc hEvr _ _ _ _).trans ?_
    | refine (State.modCmd_frame π hCqe _ _ _ _).trans ?_
    | refine (State.transmit_frame π hOut hPort _ _ _ _).trans ?_
    | refine pair_frame (by with_reducible assumption) ?_
    | split
    | (dsimp only)

theorem State.rejectHost_frame {α : Type} (π : State → α) (hCqe : KeepsCqe π) (s : State) (c : Cmd) (status : Nat) (retry : Nat) (held : Bool) :
    π (State.rejectHost s c status retry held) = π s := by
  unfold State.rejectHost
  with_reducible repeat' first
    | rfl
    | assumption
    | (intro)
    | refine ite_frame ?_ ?_
    | refine (State.drainCid_frame π hCqe _ _ _).trans ?_
    | refine (hCqe _ _).trans ?_
    | refine pair_frame (by with_reducible assumption) ?_
    | split
    | (dsimp only)

theorem State.startAbort_frame {α : Type} (π : State → α) (hOut : KeepsOut π) (hPort : KeepsPort π) (hCqe : KeepsCqe π) (hWc : KeepsWc π) (hDge : KeepsDge π) (hCpe : KeepsCpe π) (hFtu : KeepsFtu π) (hSlc : KeepsSlc π) (hEvr : KeepsEvr π) (s : State) (a : Cmd) (tq : Nat) (tcid : Nat) :
    π (State.startAbort s a tq tcid) = π s := by
  unfold State.startAbort
  with_reducible repeat' first
    | rfl
    | assumption
    | (intro)
    | refine ite_frame ?_ ?_
    | refine (State.finish_frame π hOut hPort hCqe hDge hCpe hFtu hSlc hEvr _ _ _).trans ?_
    | refine (State.sendAbort_frame π hOut hPort _ _).trans ?_
    | refine (State.modCmd_frame π hCqe _ _ _ _).trans ?_
    | refine (State.abortCmd_frame π hOut hPort hCqe hWc hDge hCpe hFtu hSlc hEvr _ _ _).trans ?_
    | refine pair_frame (by with_reducible assumption) ?_
    | split
    | (dsimp only)

theorem State.routeCmd_frame {α : Type} (π : State → α) (hFresh : KeepsFresh π) (hOut : KeepsOut π) (hLink : KeepsLink π) (hPort : KeepsPort π) (hCqe : KeepsCqe π) (hDsc : KeepsDsc π) (hWc : KeepsWc π) (hDge : KeepsDge π) (hDxu : KeepsDxu π) (hCpe : KeepsCpe π) (hFtu : KeepsFtu π) (hPxe : KeepsPxe π) (hSnap : KeepsSnap π) (hSlc : KeepsSlc π) (hEvr : KeepsEvr π) (s : State) (c : Cmd) (e : CmdEntry) (group : Nat) :
    π (State.routeCmd s c e group) = π s := by
  unfold State.routeCmd
  with_reducible repeat' first
    | rfl
    | assumption
    | (intro)
    | refine ite_frame ?_ ?_
    | refine (State.toDsc_frame π hFresh hOut hLink hPort hCqe hDsc hWc hDge hDxu hCpe hFtu hPxe hSnap hSlc hEvr _ _).trans ?_
    | refine (State.forward_frame π hOut hPort hCqe hDsc hWc hDge hCpe hFtu hSlc hEvr _ _ _).trans ?_
    | refine (State.failRetry_frame π hOut hPort hCqe hWc hDge hCpe hFtu hSlc hEvr _ _ _ _).trans ?_
    | refine pair_frame (by with_reducible assumption) ?_
    | split
    | (dsimp only)

theorem State.hostCommand_frame {α : Type} (π : State → α) (hFresh : KeepsFresh π) (hOut : KeepsOut π) (hLink : KeepsLink π) (hPort : KeepsPort π) (hCqe : KeepsCqe π) (hSess : KeepsSess π) (hDsc : KeepsDsc π) (hWc : KeepsWc π) (hDge : KeepsDge π) (hDxu : KeepsDxu π) (hCpe : KeepsCpe π) (hFtu : KeepsFtu π) (hPxe : KeepsPxe π) (hSnap : KeepsSnap π) (hSlc : KeepsSlc π) (hEvr : KeepsEvr π) (s : State) (opc : Nat) (h : HostCmd) :
    π (State.hostCommand s opc h) = π s := by
  unfold State.hostCommand
  with_reducible repeat' first
    | rfl
    | assumption
    | (intro)
    | refine ite_frame ?_ ?_
    | refine ite_frame2 ?_ ?_
    | refine (State.hostViolation_frame π hFresh hPort hEvr _ _ _ _ _).trans ?_
    | refine (State.rejectHost_frame π hCqe _ _ _ _ _).trans ?_
    | refine (State.sessionViolation_frame π hCqe hSess hEvr _ _ _ _ _ _).trans ?_
    | refine (hCqe _ _).trans ?_
    | refine (State.startAbort_frame π hOut hPort hCqe hWc hDge hCpe hFtu hSlc hEvr _ _ _ _).trans ?_
    | refine (State.event_frame π hEvr _ _ _ _ _ _ _).trans ?_
    | refine (State.finish_frame π hOut hPort hCqe hDge hCpe hFtu hSlc hEvr _ _ _).trans ?_
    | refine (State.routeCmd_frame π hFresh hOut hLink hPort hCqe hDsc hWc hDge hDxu hCpe hFtu hPxe hSnap hSlc hEvr _ _ _ _).trans ?_
    | refine pair_frame (by with_reducible assumption) ?_
    | split
    | (dsimp only)

theorem execRead_frame {α : Type} (π : State → α) (hFresh : KeepsFresh π) (hOut : KeepsOut π) (hLink : KeepsLink π) (hPort : KeepsPort π) (hCqe : KeepsCqe π) (hSess : KeepsSess π) (hDsc : KeepsDsc π) (hWc : KeepsWc π) (hDge : KeepsDge π) (hDxu : KeepsDxu π) (hCpe : KeepsCpe π) (hFtu : KeepsFtu π) (hPxe : KeepsPxe π) (hSnap : KeepsSnap π) (hSlc : KeepsSlc π) (hEvr : KeepsEvr π) (c : HostCmd) (s : State) :
    ∃ s', execRead c s = .next s' ∧ π s' = π s := by
  unfold execRead
  with_reducible
    repeat' first | (rfl) | (refine ⟨_, rfl, ?_⟩) | (refine (State.hostCommand_frame π hFresh hOut hLink hPort hCqe hSess hDsc hWc hDge hDxu hCpe hFtu hPxe hSnap hSlc hEvr _ _ _).trans ?_)

theorem execWrite_frame {α : Type} (π : State → α) (hFresh : KeepsFresh π) (hOut : KeepsOut π) (hLink : KeepsLink π) (hPort : KeepsPort π) (hCqe : KeepsCqe π) (hSess : KeepsSess π) (hDsc : KeepsDsc π) (hWc : KeepsWc π) (hDge : KeepsDge π) (hDxu : KeepsDxu π) (hCpe : KeepsCpe π) (hFtu : KeepsFtu π) (hPxe : KeepsPxe π) (hSnap : KeepsSnap π) (hSlc : KeepsSlc π) (hEvr : KeepsEvr π) (c : HostCmd) (s : State) :
    ∃ s', execWrite c s = .next s' ∧ π s' = π s := by
  unfold execWrite
  with_reducible
    repeat' first | (rfl) | (refine ⟨_, rfl, ?_⟩) | (refine (State.hostCommand_frame π hFresh hOut hLink hPort hCqe hSess hDsc hWc hDge hDxu hCpe hFtu hPxe hSnap hSlc hEvr _ _ _).trans ?_)

theorem execFlush_frame {α : Type} (π : State → α) (hFresh : KeepsFresh π) (hOut : KeepsOut π) (hLink : KeepsLink π) (hPort : KeepsPort π) (hCqe : KeepsCqe π) (hSess : KeepsSess π) (hDsc : KeepsDsc π) (hWc : KeepsWc π) (hDge : KeepsDge π) (hDxu : KeepsDxu π) (hCpe : KeepsCpe π) (hFtu : KeepsFtu π) (hPxe : KeepsPxe π) (hSnap : KeepsSnap π) (hSlc : KeepsSlc π) (hEvr : KeepsEvr π) (c : HostCmd) (s : State) :
    ∃ s', execFlush c s = .next s' ∧ π s' = π s := by
  unfold execFlush
  with_reducible
    repeat' first | (rfl) | (refine ⟨_, rfl, ?_⟩) | (refine (State.hostCommand_frame π hFresh hOut hLink hPort hCqe hSess hDsc hWc hDge hDxu hCpe hFtu hPxe hSnap hSlc hEvr _ _ _).trans ?_)

theorem execZeroRange_frame {α : Type} (π : State → α) (hFresh : KeepsFresh π) (hOut : KeepsOut π) (hLink : KeepsLink π) (hPort : KeepsPort π) (hCqe : KeepsCqe π) (hSess : KeepsSess π) (hDsc : KeepsDsc π) (hWc : KeepsWc π) (hDge : KeepsDge π) (hDxu : KeepsDxu π) (hCpe : KeepsCpe π) (hFtu : KeepsFtu π) (hPxe : KeepsPxe π) (hSnap : KeepsSnap π) (hSlc : KeepsSlc π) (hEvr : KeepsEvr π) (c : HostCmd) (s : State) :
    ∃ s', execZeroRange c s = .next s' ∧ π s' = π s := by
  unfold execZeroRange
  with_reducible
    repeat' first | (rfl) | (refine ⟨_, rfl, ?_⟩) | (refine (State.hostCommand_frame π hFresh hOut hLink hPort hCqe hSess hDsc hWc hDge hDxu hCpe hFtu hPxe hSnap hSlc hEvr _ _ _).trans ?_)

theorem execCompare_frame {α : Type} (π : State → α) (hFresh : KeepsFresh π) (hOut : KeepsOut π) (hLink : KeepsLink π) (hPort : KeepsPort π) (hCqe : KeepsCqe π) (hSess : KeepsSess π) (hDsc : KeepsDsc π) (hWc : KeepsWc π) (hDge : KeepsDge π) (hDxu : KeepsDxu π) (hCpe : KeepsCpe π) (hFtu : KeepsFtu π) (hPxe : KeepsPxe π) (hSnap : KeepsSnap π) (hSlc : KeepsSlc π) (hEvr : KeepsEvr π) (c : HostCmd) (s : State) :
    ∃ s', execCompare c s = .next s' ∧ π s' = π s := by
  unfold execCompare
  with_reducible
    repeat' first | (rfl) | (refine ⟨_, rfl, ?_⟩) | (refine (State.hostCommand_frame π hFresh hOut hLink hPort hCqe hSess hDsc hWc hDge hDxu hCpe hFtu hPxe hSnap hSlc hEvr _ _ _).trans ?_)

theorem execCompareAndWrite_frame {α : Type} (π : State → α) (hFresh : KeepsFresh π) (hOut : KeepsOut π) (hLink : KeepsLink π) (hPort : KeepsPort π) (hCqe : KeepsCqe π) (hSess : KeepsSess π) (hDsc : KeepsDsc π) (hWc : KeepsWc π) (hDge : KeepsDge π) (hDxu : KeepsDxu π) (hCpe : KeepsCpe π) (hFtu : KeepsFtu π) (hPxe : KeepsPxe π) (hSnap : KeepsSnap π) (hSlc : KeepsSlc π) (hEvr : KeepsEvr π) (c : HostCmd) (s : State) :
    ∃ s', execCompareAndWrite c s = .next s' ∧ π s' = π s := by
  unfold execCompareAndWrite
  with_reducible
    repeat' first | (rfl) | (refine ⟨_, rfl, ?_⟩) | (refine (State.hostCommand_frame π hFresh hOut hLink hPort hCqe hSess hDsc hWc hDge hDxu hCpe hFtu hPxe hSnap hSlc hEvr _ _ _).trans ?_)

theorem execVerify_frame {α : Type} (π : State → α) (hFresh : KeepsFresh π) (hOut : KeepsOut π) (hLink : KeepsLink π) (hPort : KeepsPort π) (hCqe : KeepsCqe π) (hSess : KeepsSess π) (hDsc : KeepsDsc π) (hWc : KeepsWc π) (hDge : KeepsDge π) (hDxu : KeepsDxu π) (hCpe : KeepsCpe π) (hFtu : KeepsFtu π) (hPxe : KeepsPxe π) (hSnap : KeepsSnap π) (hSlc : KeepsSlc π) (hEvr : KeepsEvr π) (c : HostCmd) (s : State) :
    ∃ s', execVerify c s = .next s' ∧ π s' = π s := by
  unfold execVerify
  with_reducible
    repeat' first | (rfl) | (refine ⟨_, rfl, ?_⟩) | (refine (State.hostCommand_frame π hFresh hOut hLink hPort hCqe hSess hDsc hWc hDge hDxu hCpe hFtu hPxe hSnap hSlc hEvr _ _ _).trans ?_)

theorem execAbort_frame {α : Type} (π : State → α) (hFresh : KeepsFresh π) (hOut : KeepsOut π) (hLink : KeepsLink π) (hPort : KeepsPort π) (hCqe : KeepsCqe π) (hSess : KeepsSess π) (hDsc : KeepsDsc π) (hWc : KeepsWc π) (hDge : KeepsDge π) (hDxu : KeepsDxu π) (hCpe : KeepsCpe π) (hFtu : KeepsFtu π) (hPxe : KeepsPxe π) (hSnap : KeepsSnap π) (hSlc : KeepsSlc π) (hEvr : KeepsEvr π) (c : HostCmd) (s : State) :
    ∃ s', execAbort c s = .next s' ∧ π s' = π s := by
  unfold execAbort
  with_reducible
    repeat' first | (rfl) | (refine ⟨_, rfl, ?_⟩) | (refine (State.pokeCaws_frame π hOut hPort hCqe hWc hDge hCpe hFtu hSlc hEvr _).trans ?_) | (refine (State.hostCommand_frame π hFresh hOut hLink hPort hCqe hSess hDsc hWc hDge hDxu hCpe hFtu hPxe hSnap hSlc hEvr _ _ _).trans ?_)

theorem execCommandInvalidOpcode_frame {α : Type} (π : State → α) (hFresh : KeepsFresh π) (hOut : KeepsOut π) (hLink : KeepsLink π) (hPort : KeepsPort π) (hCqe : KeepsCqe π) (hSess : KeepsSess π) (hDsc : KeepsDsc π) (hWc : KeepsWc π) (hDge : KeepsDge π) (hDxu : KeepsDxu π) (hCpe : KeepsCpe π) (hFtu : KeepsFtu π) (hPxe : KeepsPxe π) (hSnap : KeepsSnap π) (hSlc : KeepsSlc π) (hEvr : KeepsEvr π) (c : HostCmd) (opc : Byte) (s : State) :
    ∃ s', execCommandInvalidOpcode c opc s = .next s' ∧ π s' = π s := by
  unfold execCommandInvalidOpcode
  with_reducible
    repeat' first | (rfl) | (refine ⟨_, rfl, ?_⟩) | (refine (State.hostCommand_frame π hFresh hOut hLink hPort hCqe hSess hDsc hWc hDge hDxu hCpe hFtu hPxe hSnap hSlc hEvr _ _ _).trans ?_)

theorem State.peerAbort_frame {α : Type} (π : State → α) (hOut : KeepsOut π) (hPort : KeepsPort π) (hCqe : KeepsCqe π) (hWc : KeepsWc π) (hDge : KeepsDge π) (hCpe : KeepsCpe π) (hFtu : KeepsFtu π) (hSlc : KeepsSlc π) (hEvr : KeepsEvr π) (s : State) (tq : Nat) (tcid : Nat) :
    π (State.peerAbort s tq tcid) = π s := by
  unfold State.peerAbort
  with_reducible repeat' first
    | rfl
    | assumption
    | (intro)
    | refine ite_frame ?_ ?_
    | refine (State.pokeCaws_frame π hOut hPort hCqe hWc hDge hCpe hFtu hSlc hEvr _).trans ?_
    | refine (State.endUncommitted_frame π hOut hPort hCqe hWc hDge hCpe hFtu hSlc hEvr _ _ _ _).trans ?_
    | refine pair_frame (by with_reducible assumption) ?_
    | split
    | (dsimp only)

theorem execForwardedCommand_frame {α : Type} (π : State → α) (hFresh : KeepsFresh π) (hOut : KeepsOut π) (hLink : KeepsLink π) (hPort : KeepsPort π) (hCqe : KeepsCqe π) (hDsc : KeepsDsc π) (hWc : KeepsWc π) (hDge : KeepsDge π) (hDxu : KeepsDxu π) (hCpe : KeepsCpe π) (hFtu : KeepsFtu π) (hPxe : KeepsPxe π) (hSnap : KeepsSnap π) (hSlc : KeepsSlc π) (hEvr : KeepsEvr π) (qp : BitVec 14) (opc : Byte) (e : CmdEntry) (elapsed : Nat) (lanes : Nat) (enc : Bool) (s : State) :
    ∃ s', execForwardedCommand qp opc e elapsed lanes enc s = .next s' ∧ π s' = π s := by
  unfold execForwardedCommand
  with_reducible repeat' first
    | rfl
    | assumption
    | (intro)
    | refine ite_frame ?_ ?_
    | refine ite_frame2 ?_ ?_
    | refine cond_frame ?_ ?_
    | refine (State.peerViolation_frame π hPort hEvr _ _ _).trans ?_
    | refine (State.peerAbort_frame π hOut hPort hCqe hWc hDge hCpe hFtu hSlc hEvr _ _ _).trans ?_
    | refine (State.freshen_frame π hFresh _).trans ?_
    | refine (hCqe _ _).trans ?_
    | refine (State.finish_frame π hOut hPort hCqe hDge hCpe hFtu hSlc hEvr _ _ _).trans ?_
    | refine (State.drainCid_frame π hCqe _ _ _).trans ?_
    | refine (State.toDsc_frame π hFresh hOut hLink hPort hCqe hDsc hWc hDge hDxu hCpe hFtu hPxe hSnap hSlc hEvr _ _).trans ?_
    | refine (State.failRetry_frame π hOut hPort hCqe hWc hDge hCpe hFtu hSlc hEvr _ _ _ _).trans ?_
    | refine ⟨_, rfl, ?_⟩
    | refine pair_frame (by with_reducible assumption) ?_
    | split
    | (dsimp only)

theorem State.notCaught_frame {α : Type} (π : State → α) (hCqe : KeepsCqe π) (hSess : KeepsSess π) (s : State) (x : Cmd) (ok : Bool) :
    π (State.notCaught s x ok) = π s := by
  unfold State.notCaught
  with_reducible repeat' first
    | rfl
    | assumption
    | (intro)
    | refine ite_frame ?_ ?_
    | refine (hSess _ _ _).trans ?_
    | refine (hCqe _ _).trans ?_
    | refine pair_frame (by with_reducible assumption) ?_
    | split
    | (dsimp only)

theorem execForwardedCompletion_frame {α : Type} (π : State → α) (hOut : KeepsOut π) (hPort : KeepsPort π) (hCqe : KeepsCqe π) (hSess : KeepsSess π) (hWc : KeepsWc π) (hDge : KeepsDge π) (hCpe : KeepsCpe π) (hFtu : KeepsFtu π) (hSlc : KeepsSlc π) (hEvr : KeepsEvr π) (c : Completion) (s : State) :
    ∃ s', execForwardedCompletion c s = .next s' ∧ π s' = π s := by
  unfold execForwardedCompletion
  with_reducible repeat' first
    | rfl
    | assumption
    | (intro)
    | refine ite_frame ?_ ?_
    | refine ite_frame2 ?_ ?_
    | refine (hWc _ _).trans ?_
    | refine (State.drainCid_frame π hCqe _ _ _).trans ?_
    | refine (State.notCaught_frame π hCqe hSess _ _ _).trans ?_
    | refine (State.modCmd_frame π hCqe _ _ _ _).trans ?_
    | refine (State.answerAborts_frame π hOut hPort hCqe hEvr _ _ _).trans ?_
    | refine (State.deliver_frame π hOut hPort hCqe hEvr _ _ _).trans ?_
    | refine (State.letGo_frame π hDge hCpe hFtu hSlc _ _).trans ?_
    | refine ⟨_, rfl, ?_⟩
    | refine pair_frame (by with_reducible assumption) ?_
    | split
    | (dsimp only)

theorem State.snoopWrite_frame {α : Type} (π : State → α) (hDge : KeepsDge π) (s : State) (c : Cmd) :
    π (State.snoopWrite s c) = π s := by
  unfold State.snoopWrite
  with_reducible repeat' first
    | rfl
    | assumption
    | (intro)
    | refine ite_frame ?_ ?_
    | refine (State.snoopStage_frame π hDge _ _ _ _).trans ?_
    | refine (foldl_frame π _ ?_ _ _).trans ?_
    | refine (foldl_frame2 π _ ?_ _ _).trans ?_
    | refine pair_frame (by with_reducible assumption) ?_
    | split
    | (dsimp only)

theorem State.stage_frame {α : Type} (π : State → α) (hSlc : KeepsSlc π) (s : State) (c : Cmd) (bytes : Nat) :
    π (State.stage s c bytes) = π s := by
  unfold State.stage
  with_reducible repeat' first
    | rfl
    | assumption
    | (intro)
    | refine ite_frame ?_ ?_
    | refine ite_frame2 ?_ ?_
    | refine (hSlc _ _).trans ?_
    | refine (State.unstage_frame π hSlc _ _ _).trans ?_
    | refine pair_frame (by with_reducible assumption) ?_
    | split
    | (dsimp only)

theorem State.dataComplete_frame {α : Type} (π : State → α) (hFresh : KeepsFresh π) (hOut : KeepsOut π) (hLink : KeepsLink π) (hPort : KeepsPort π) (hCqe : KeepsCqe π) (hDsc : KeepsDsc π) (hWc : KeepsWc π) (hDge : KeepsDge π) (hDxu : KeepsDxu π) (hCpe : KeepsCpe π) (hFtu : KeepsFtu π) (hPxe : KeepsPxe π) (hSnap : KeepsSnap π) (hSlc : KeepsSlc π) (hEvr : KeepsEvr π) (s : State) (c : Cmd) :
    π (State.dataComplete s c) = π s := by
  unfold State.dataComplete
  with_reducible repeat' first
    | rfl
    | assumption
    | (intro)
    | refine ite_frame ?_ ?_
    | refine (State.unstage_frame π hSlc _ _ _).trans ?_
    | refine (hWc _ _).trans ?_
    | refine (State.portalData_frame π hFresh hOut hLink hPort hCqe hDsc hWc hDge hDxu hCpe hFtu hPxe hSnap hSlc hEvr _ _).trans ?_
    | refine (State.launchWrite_frame π hOut hPort hCqe hWc hDge hCpe hFtu hSlc hEvr _ _ _).trans ?_
    | refine (State.snoopWrite_frame π hDge _ _).trans ?_
    | refine (State.pokeCaws_frame π hOut hPort hCqe hWc hDge hCpe hFtu hSlc hEvr _).trans ?_
    | refine (State.tryCmd_frame π hOut hPort hCqe hWc hDge hCpe hFtu hSlc hEvr _ _ _).trans ?_
    | refine pair_frame (by with_reducible assumption) ?_
    | split
    | (dsimp only)

theorem State.countData_frame {α : Type} (π : State → α) (hFresh : KeepsFresh π) (hOut : KeepsOut π) (hLink : KeepsLink π) (hPort : KeepsPort π) (hCqe : KeepsCqe π) (hDsc : KeepsDsc π) (hWc : KeepsWc π) (hDge : KeepsDge π) (hDxu : KeepsDxu π) (hCpe : KeepsCpe π) (hFtu : KeepsFtu π) (hPxe : KeepsPxe π) (hSnap : KeepsSnap π) (hSlc : KeepsSlc π) (hEvr : KeepsEvr π) (s : State) (c : Cmd) (payload : Bytes) :
    π (State.countData s c payload) = π s := by
  unfold State.countData
  with_reducible repeat' first
    | rfl
    | assumption
    | (intro)
    | refine ite_frame ?_ ?_
    | refine (State.stage_frame π hSlc _ _ _).trans ?_
    | refine (State.modCmd_frame π hCqe _ _ _ _).trans ?_
    | refine (State.transmit_frame π hOut hPort _ _ _ _).trans ?_
    | refine (State.dataComplete_frame π hFresh hOut hLink hPort hCqe hDsc hWc hDge hDxu hCpe hFtu hPxe hSnap hSlc hEvr _ _).trans ?_
    | refine pair_frame (by with_reducible assumption) ?_
    | split
    | (dsimp only)

theorem execDataFlitReceived_frame {α : Type} (π : State → α) (hFresh : KeepsFresh π) (hOut : KeepsOut π) (hLink : KeepsLink π) (hPort : KeepsPort π) (hCqe : KeepsCqe π) (hSess : KeepsSess π) (hDsc : KeepsDsc π) (hWc : KeepsWc π) (hDge : KeepsDge π) (hDxu : KeepsDxu π) (hCpe : KeepsCpe π) (hFtu : KeepsFtu π) (hPxe : KeepsPxe π) (hSnap : KeepsSnap π) (hSlc : KeepsSlc π) (hEvr : KeepsEvr π) (port : PortId) (qp : BitVec 14) (cid : BitVec 16) (payload : Bytes) (s : State) :
    ∃ s', execDataFlitReceived port qp cid payload s = .next s' ∧ π s' = π s := by
  unfold execDataFlitReceived
  with_reducible repeat' first
    | rfl
    | assumption
    | (intro)
    | refine ite_frame ?_ ?_
    | refine (State.countData_frame π hFresh hOut hLink hPort hCqe hDsc hWc hDge hDxu hCpe hFtu hPxe hSnap hSlc hEvr _ _ _).trans ?_
    | refine (State.sendData_frame π hOut hPort hCqe _ _ _).trans ?_
    | refine (State.hostViolation_frame π hFresh hPort hEvr _ _ _ _ _).trans ?_
    | refine (State.sessionViolation_frame π hCqe hSess hEvr _ _ _ _ _ _).trans ?_
    | refine (State.pokeCaws_frame π hOut hPort hCqe hWc hDge hCpe hFtu hSlc hEvr _).trans ?_
    | refine (State.endEarly_frame π hOut hPort hCqe hWc hDge hCpe hFtu hSlc hEvr _ _ _).trans ?_
    | refine ⟨_, rfl, ?_⟩
    | refine pair_frame (by with_reducible assumption) ?_
    | split
    | (dsimp only)

theorem execDataTimerExpiry_frame {α : Type} (π : State → α) (hDt : KeepsDt π) (hOut : KeepsOut π) (hPort : KeepsPort π) (hCqe : KeepsCqe π) (hSess : KeepsSess π) (hWc : KeepsWc π) (hDge : KeepsDge π) (hCpe : KeepsCpe π) (hFtu : KeepsFtu π) (hSlc : KeepsSlc π) (hEvr : KeepsEvr π) (qp : BitVec 14) (cid : BitVec 16) (s : State) :
    ∃ s', execDataTimerExpiry qp cid s = .next s' ∧ π s' = π s := by
  unfold execDataTimerExpiry
  with_reducible repeat' first
    | rfl
    | assumption
    | (intro)
    | refine ite_frame ?_ ?_
    | refine (State.advanceTo_frame π hDt _ _).trans ?_
    | refine (State.pokeCaws_frame π hOut hPort hCqe hWc hDge hCpe hFtu hSlc hEvr _).trans ?_
    | refine (State.endEarly_frame π hOut hPort hCqe hWc hDge hCpe hFtu hSlc hEvr _ _ _).trans ?_
    | refine (State.sessionViolation_frame π hCqe hSess hEvr _ _ _ _ _ _).trans ?_
    | refine ⟨_, rfl, ?_⟩
    | refine pair_frame (by with_reducible assumption) ?_
    | split
    | (dsimp only)

theorem State.retry7_frame {α : Type} (π : State → α) (hFresh : KeepsFresh π) (hOut : KeepsOut π) (hLink : KeepsLink π) (hPort : KeepsPort π) (hCqe : KeepsCqe π) (hDsc : KeepsDsc π) (hWc : KeepsWc π) (hDge : KeepsDge π) (hDxu : KeepsDxu π) (hCpe : KeepsCpe π) (hFtu : KeepsFtu π) (hPxe : KeepsPxe π) (hSnap : KeepsSnap π) (hSlc : KeepsSlc π) (hEvr : KeepsEvr π) (s : State) (c : Cmd) :
    π (State.retry7 s c) = π s := by
  unfold State.retry7
  with_reducible repeat' first
    | rfl
    | assumption
    | (intro)
    | refine ite_frame ?_ ?_
    | refine (State.decideCmd_frame π hFresh hOut hLink hPort hCqe hDsc hWc hDge hDxu hCpe hFtu hPxe hSnap hSlc hEvr _ _).trans ?_
    | refine pair_frame (by with_reducible assumption) ?_
    | split
    | (dsimp only)

theorem execClass7ResourceFreed_frame {α : Type} (π : State → α) (hFresh : KeepsFresh π) (hOut : KeepsOut π) (hLink : KeepsLink π) (hPort : KeepsPort π) (hCqe : KeepsCqe π) (hDsc : KeepsDsc π) (hWc : KeepsWc π) (hDge : KeepsDge π) (hDxu : KeepsDxu π) (hCpe : KeepsCpe π) (hFtu : KeepsFtu π) (hPxe : KeepsPxe π) (hSnap : KeepsSnap π) (hSlc : KeepsSlc π) (hEvr : KeepsEvr π) (qp : BitVec 14) (cid : BitVec 16) (s : State) :
    ∃ s', execClass7ResourceFreed qp cid s = .next s' ∧ π s' = π s := by
  unfold execClass7ResourceFreed
  with_reducible repeat' first
    | rfl
    | assumption
    | (intro)
    | refine ite_frame ?_ ?_
    | refine (State.retry7_frame π hFresh hOut hLink hPort hCqe hDsc hWc hDge hDxu hCpe hFtu hPxe hSnap hSlc hEvr _ _).trans ?_
    | refine ⟨_, rfl, ?_⟩
    | refine pair_frame (by with_reducible assumption) ?_
    | split
    | (dsimp only)

end Sys2Proof.Machine
end

