-- ==== Sys2Proof/Laws/FrameLeases.lean ====
section
/-! SUPPORT. What the definitions of Machine/Leases.lean leave alone: a view of the state that no block they write can change reads
the same after them. -/

set_option linter.unusedSimpArgs false

namespace Sys2Proof.Machine

open Sys2Proof

theorem State.modLease_frame {α : Type} (π : State → α) (hHa : KeepsHa π) (s : State) (rec : Nat) (f : LeaseSt → LeaseSt) :
    π (State.modLease s rec f) = π s := by
  unfold State.modLease
  with_reducible
    repeat' first | (rfl) | (refine (hHa _ _).trans ?_)

theorem State.sendCas_frame {α : Type} (π : State → α) (hOut : KeepsOut π) (hLink : KeepsLink π) (hPort : KeepsPort π) (s : State) (pos : Nat) (rec : Nat) (expected : Lease) (new : Lease) :
    π (State.sendCas s pos rec expected new) = π s := by
  unfold State.sendCas
  with_reducible
    repeat' first | (rfl) | (refine (State.sendMedia_frame π hOut hLink hPort _ _ _ _ _ _ _ _ _ _).trans ?_)

theorem State.readLease_frame {α : Type} (π : State → α) (hOut : KeepsOut π) (hLink : KeepsLink π) (hPort : KeepsPort π) (s : State) (pos : Nat) (rec : Nat) :
    π (State.readLease s pos rec) = π s := by
  unfold State.readLease
  with_reducible
    repeat' first | (rfl) | (refine (State.sendCas_frame π hOut hLink hPort _ _ _ _ _).trans ?_)

theorem State.leaseRound_frame {α : Type} (π : State → α) (hOut : KeepsOut π) (hLink : KeepsLink π) (hPort : KeepsPort π) (hHa : KeepsHa π) (s : State) (rec : Nat) :
    π (State.leaseRound s rec) = π s := by
  unfold State.leaseRound
  with_reducible repeat' first
    | rfl
    | assumption
    | (intro)
    | refine ite_frame ?_ ?_
    | refine (State.modLease_frame π hHa _ _ _).trans ?_
    | refine (State.sendCas_frame π hOut hLink hPort _ _ _ _ _).trans ?_
    | refine (foldl_frame π _ ?_ _ _).trans ?_
    | refine (foldl_frame2 π _ ?_ _ _).trans ?_
    | refine pair_frame (by with_reducible assumption) ?_
    | split
    | (dsimp only)

theorem State.takeLease_frame {α : Type} (π : State → α) (hOut : KeepsOut π) (hLink : KeepsLink π) (hPort : KeepsPort π) (hHa : KeepsHa π) (s : State) (rec : Nat) :
    π (State.takeLease s rec) = π s := by
  unfold State.takeLease
  with_reducible repeat' first
    | rfl
    | assumption
    | (intro)
    | refine ite_frame ?_ ?_
    | refine (State.leaseRound_frame π hOut hLink hPort hHa _ _).trans ?_
    | refine pair_frame (by with_reducible assumption) ?_
    | split
    | (dsimp only)

theorem State.releaseLease_frame {α : Type} (π : State → α) (hOut : KeepsOut π) (hLink : KeepsLink π) (hPort : KeepsPort π) (hHa : KeepsHa π) (s : State) (rec : Nat) :
    π (State.releaseLease s rec) = π s := by
  unfold State.releaseLease
  with_reducible repeat' first
    | rfl
    | assumption
    | (intro)
    | refine (State.modLease_frame π hHa _ _ _).trans ?_
    | refine (State.sendCas_frame π hOut hLink hPort _ _ _ _ _).trans ?_
    | refine (foldl_frame π _ ?_ _ _).trans ?_
    | refine (foldl_frame2 π _ ?_ _ _).trans ?_
    | refine pair_frame (by with_reducible assumption) ?_
    | split
    | (dsimp only)

theorem State.leaseNotes_frame {α : Type} (π : State → α) (hOut : KeepsOut π) (hPort : KeepsPort π) (s : State) (groups : List Nat) (action : Nat) :
    π (State.leaseNotes s groups action) = π s := by
  unfold State.leaseNotes
  with_reducible repeat' first
    | rfl
    | assumption
    | (intro)
    | refine (State.toPeer_frame π hOut hPort _ _).trans ?_
    | refine (foldl_frame π _ ?_ _ _).trans ?_
    | refine (foldl_frame2 π _ ?_ _ _).trans ?_
    | refine pair_frame (by with_reducible assumption) ?_
    | split
    | (dsimp only)

theorem State.leaseMoved_frame {α : Type} (π : State → α) (hEvr : KeepsEvr π) (s : State) (groups : List Nat) (src : Nat) (dst : Nat) :
    π (State.leaseMoved s groups src dst) = π s := by
  unfold State.leaseMoved
  with_reducible repeat' first
    | rfl
    | assumption
    | (intro)
    | refine (State.event_frame π hEvr _ _ _ _ _ _ _).trans ?_
    | refine (foldl_frame π _ ?_ _ _).trans ?_
    | refine (foldl_frame2 π _ ?_ _ _).trans ?_
    | refine pair_frame (by with_reducible assumption) ?_
    | split
    | (dsimp only)

theorem State.leaseNotice_frame {α : Type} (π : State → α) (hCqe : KeepsCqe π) (s : State) (groups : List Nat) (src : Nat) (dst : Nat) (cause : Nat) :
    π (State.leaseNotice s groups src dst cause) = π s := by
  unfold State.leaseNotice
  with_reducible repeat' first
    | rfl
    | assumption
    | (intro)
    | refine ite_frame ?_ ?_
    | refine (State.notifyGranted_frame π hCqe _ _ _ _).trans ?_
    | refine (foldl_frame π _ ?_ _ _).trans ?_
    | refine (foldl_frame2 π _ ?_ _ _).trans ?_
    | refine pair_frame (by with_reducible assumption) ?_
    | split
    | (dsimp only)

theorem State.peerNotice_frame {α : Type} (π : State → α) (hCqe : KeepsCqe π) (s : State) (head : Nat) (old : Nat) (new : Nat) (cause : Nat) :
    π (State.peerNotice s head old new cause) = π s := by
  unfold State.peerNotice
  with_reducible
    repeat' first | (rfl) | (refine (State.notifyAll_frame π hCqe _ _ _).trans ?_)

theorem State.disagreement_frame {α : Type} (π : State → α) (hFresh : KeepsFresh π) (hEvr : KeepsEvr π) (s : State) (subject : Nat) (own : Nat) (peer : Nat) :
    π (State.disagreement s subject own peer) = π s := by
  unfold State.disagreement
  with_reducible
    repeat' first | (rfl) | (refine (State.freshen_frame π hFresh _).trans ?_) | (refine (State.event_frame π hEvr _ _ _ _ _ _ _).trans ?_)

theorem State.endForwarded_frame {α : Type} (π : State → α) (hOut : KeepsOut π) (hPort : KeepsPort π) (hCqe : KeepsCqe π) (hWc : KeepsWc π) (hDge : KeepsDge π) (hCpe : KeepsCpe π) (hFtu : KeepsFtu π) (hSlc : KeepsSlc π) (hEvr : KeepsEvr π) (s : State) :
    π (State.endForwarded s) = π s := by
  unfold State.endForwarded
  with_reducible repeat' first
    | rfl
    | assumption
    | (intro)
    | refine ite_frame ?_ ?_
    | refine ite_frame2 ?_ ?_
    | refine (State.drainCid_frame π hCqe _ _ _).trans ?_
    | refine (State.modCmd_frame π hCqe _ _ _ _).trans ?_
    | refine (hWc _ _).trans ?_
    | refine (State.finish_frame π hOut hPort hCqe hDge hCpe hFtu hSlc hEvr _ _ _).trans ?_
    | refine (State.event_frame π hEvr _ _ _ _ _ _ _).trans ?_
    | refine (foldl_frame π _ ?_ _ _).trans ?_
    | refine (foldl_frame2 π _ ?_ _ _).trans ?_
    | refine pair_frame (by with_reducible assumption) ?_
    | split
    | (dsimp only)

theorem State.endGroups_frame {α : Type} (π : State → α) (hOut : KeepsOut π) (hPort : KeepsPort π) (hCqe : KeepsCqe π) (hWc : KeepsWc π) (hDge : KeepsDge π) (hCpe : KeepsCpe π) (hFtu : KeepsFtu π) (hSlc : KeepsSlc π) (hEvr : KeepsEvr π) (s : State) (groups : Nat → Bool) (copies : Bool) :
    π (State.endGroups s groups copies) = π s := by
  unfold State.endGroups
  with_reducible repeat' first
    | rfl
    | assumption
    | (intro)
    | refine ite_frame ?_ ?_
    | refine (State.endUncommitted_frame π hOut hPort hCqe hWc hDge hCpe hFtu hSlc hEvr _ _ _ _).trans ?_
    | refine (foldl_frame π _ ?_ _ _).trans ?_
    | refine (foldl_frame2 π _ ?_ _ _).trans ?_
    | refine pair_frame (by with_reducible assumption) ?_
    | split
    | (dsimp only)

theorem State.endAll_frame {α : Type} (π : State → α) (hOut : KeepsOut π) (hPort : KeepsPort π) (hCqe : KeepsCqe π) (hWc : KeepsWc π) (hDge : KeepsDge π) (hCpe : KeepsCpe π) (hFtu : KeepsFtu π) (hSlc : KeepsSlc π) (hEvr : KeepsEvr π) (s : State) :
    π (State.endAll s) = π s := by
  unfold State.endAll
  with_reducible
    repeat' first | (rfl) | (refine (State.pokeCaws_frame π hOut hPort hCqe hWc hDge hCpe hFtu hSlc hEvr _).trans ?_) | (refine (State.endForwarded_frame π hOut hPort hCqe hWc hDge hCpe hFtu hSlc hEvr _).trans ?_) | (refine (State.endGroups_frame π hOut hPort hCqe hWc hDge hCpe hFtu hSlc hEvr _ _ _).trans ?_)

theorem State.failJobs_frame {α : Type} (π : State → α) (hOut : KeepsOut π) (hPort : KeepsPort π) (hCqe : KeepsCqe π) (hWc : KeepsWc π) (hDge : KeepsDge π) (hCpe : KeepsCpe π) (hFtu : KeepsFtu π) (hSnap : KeepsSnap π) (hSlc : KeepsSlc π) (hEvr : KeepsEvr π) (s : State) (groups : Nat → Bool) :
    π (State.failJobs s groups) = π s := by
  unfold State.failJobs
  with_reducible repeat' first
    | rfl
    | assumption
    | (intro)
    | refine ite_frame ?_ ?_
    | refine (State.failJob_frame π hOut hPort hCqe hWc hDge hCpe hFtu hSnap hSlc hEvr _ _ _ _ _).trans ?_
    | refine (foldl_frame π _ ?_ _ _).trans ?_
    | refine (foldl_frame2 π _ ?_ _ _).trans ?_
    | refine pair_frame (by with_reducible assumption) ?_
    | split
    | (dsimp only)

theorem State.resyncEnd_frame {α : Type} (π : State → α) (hOut : KeepsOut π) (hPort : KeepsPort π) (hWc : KeepsWc π) (hDxu : KeepsDxu π) (hEvr : KeepsEvr π) (s : State) :
    π (State.resyncEnd s) = π s := by
  unfold State.resyncEnd
  with_reducible
    repeat' first | (rfl) | (refine (hDxu _ _).trans ?_) | (refine (State.event_frame π hEvr _ _ _ _ _ _ _).trans ?_) | (refine (State.setMirror_frame π hWc hEvr _ _ _).trans ?_) | (refine (State.toPeer_frame π hOut hPort _ _).trans ?_)

theorem State.resyncStart_frame {α : Type} (π : State → α) (hOut : KeepsOut π) (hPort : KeepsPort π) (hWc : KeepsWc π) (hDxu : KeepsDxu π) (hEvr : KeepsEvr π) (s : State) :
    π (State.resyncStart s) = π s := by
  unfold State.resyncStart
  with_reducible repeat' first
    | rfl
    | assumption
    | (intro)
    | refine ite_frame ?_ ?_
    | refine ite_frame2 ?_ ?_
    | refine (State.setMirror_frame π hWc hEvr _ _ _).trans ?_
    | refine (hWc _ _).trans ?_
    | refine (State.transmit_frame π hOut hPort _ _ _ _).trans ?_
    | refine (State.resyncEnd_frame π hOut hPort hWc hDxu hEvr _).trans ?_
    | refine (foldl_frame π _ ?_ _ _).trans ?_
    | refine (foldl_frame2 π _ ?_ _ _).trans ?_
    | refine pair_frame (by with_reducible assumption) ?_
    | split
    | (dsimp only)

theorem State.nowHeld_frame {α : Type} (π : State → α) (hCqe : KeepsCqe π) (hHa : KeepsHa π) (s : State) :
    π (State.nowHeld s) = π s := by
  unfold State.nowHeld
  with_reducible repeat' first
    | rfl
    | assumption
    | (intro)
    | refine ite_frame ?_ ?_
    | refine (hHa _ _).trans ?_
    | refine (State.peerNotice_frame π hCqe _ _ _ _ _).trans ?_
    | refine pair_frame (by with_reducible assumption) ?_
    | split
    | (dsimp only)

theorem State.heldSteps_frame {α : Type} (π : State → α) (hOut : KeepsOut π) (hLink : KeepsLink π) (hPort : KeepsPort π) (hCqe : KeepsCqe π) (hWc : KeepsWc π) (hDge : KeepsDge π) (hCpe : KeepsCpe π) (hFtu : KeepsFtu π) (hHa : KeepsHa π) (hSlc : KeepsSlc π) (hEvr : KeepsEvr π) (s : State) :
    π (State.heldSteps s) = π s := by
  unfold State.heldSteps
  with_reducible repeat' first
    | rfl
    | assumption
    | (intro)
    | refine ite_frame ?_ ?_
    | refine (State.endAll_frame π hOut hPort hCqe hWc hDge hCpe hFtu hSlc hEvr _).trans ?_
    | refine (State.leaseNotes_frame π hOut hPort _ _ _).trans ?_
    | refine (State.releaseLease_frame π hOut hLink hPort hHa _ _).trans ?_
    | refine (State.nowHeld_frame π hCqe hHa _).trans ?_
    | refine (foldl_frame π _ ?_ _ _).trans ?_
    | refine (foldl_frame2 π _ ?_ _ _).trans ?_
    | refine pair_frame (by with_reducible assumption) ?_
    | split
    | (dsimp only)

theorem State.goHeld_frame {α : Type} (π : State → α) (hOut : KeepsOut π) (hLink : KeepsLink π) (hPort : KeepsPort π) (hCqe : KeepsCqe π) (hWc : KeepsWc π) (hDge : KeepsDge π) (hDxu : KeepsDxu π) (hCpe : KeepsCpe π) (hFtu : KeepsFtu π) (hHa : KeepsHa π) (hSlc : KeepsSlc π) (hEvr : KeepsEvr π) (s : State) (subject : Nat) :
    π (State.goHeld s subject) = π s := by
  unfold State.goHeld
  with_reducible repeat' first
    | rfl
    | assumption
    | (intro)
    | refine ite_frame ?_ ?_
    | refine (hHa _ _).trans ?_
    | refine (State.nowHeld_frame π hCqe hHa _).trans ?_
    | refine (State.releaseLease_frame π hOut hLink hPort hHa _ _).trans ?_
    | refine (State.resyncStart_frame π hOut hPort hWc hDxu hEvr _).trans ?_
    | refine (State.heldSteps_frame π hOut hLink hPort hCqe hWc hDge hCpe hFtu hHa hSlc hEvr _).trans ?_
    | refine pair_frame (by with_reducible assumption) ?_
    | split
    | (dsimp only)

theorem State.afterResync_frame {α : Type} (π : State → α) (hOut : KeepsOut π) (hLink : KeepsLink π) (hPort : KeepsPort π) (hCqe : KeepsCqe π) (hWc : KeepsWc π) (hDge : KeepsDge π) (hCpe : KeepsCpe π) (hFtu : KeepsFtu π) (hHa : KeepsHa π) (hSlc : KeepsSlc π) (hEvr : KeepsEvr π) (s : State) :
    π (State.afterResync s) = π s := by
  unfold State.afterResync
  with_reducible repeat' first
    | rfl
    | assumption
    | (intro)
    | refine ite_frame ?_ ?_
    | refine (State.heldSteps_frame π hOut hLink hPort hCqe hWc hDge hCpe hFtu hHa hSlc hEvr _).trans ?_
    | refine pair_frame (by with_reducible assumption) ?_
    | split
    | (dsimp only)

theorem State.pokeResync_frame {α : Type} (π : State → α) (hOut : KeepsOut π) (hLink : KeepsLink π) (hPort : KeepsPort π) (hCqe : KeepsCqe π) (hWc : KeepsWc π) (hDge : KeepsDge π) (hDxu : KeepsDxu π) (hCpe : KeepsCpe π) (hFtu : KeepsFtu π) (hHa : KeepsHa π) (hSlc : KeepsSlc π) (hEvr : KeepsEvr π) (s : State) :
    π (State.pokeResync s) = π s := by
  unfold State.pokeResync
  with_reducible repeat' first
    | rfl
    | assumption
    | (intro)
    | refine ite_frame ?_ ?_
    | refine (State.afterResync_frame π hOut hLink hPort hCqe hWc hDge hCpe hFtu hHa hSlc hEvr _).trans ?_
    | refine (State.resyncEnd_frame π hOut hPort hWc hDxu hEvr _).trans ?_
    | refine pair_frame (by with_reducible assumption) ?_
    | split
    | (dsimp only)

theorem State.yieldNow_frame {α : Type} (π : State → α) (hOut : KeepsOut π) (hLink : KeepsLink π) (hPort : KeepsPort π) (hCqe : KeepsCqe π) (hWc : KeepsWc π) (hDge : KeepsDge π) (hCpe : KeepsCpe π) (hFtu : KeepsFtu π) (hHa : KeepsHa π) (hSlc : KeepsSlc π) (hRcc : KeepsRcc π) (hEvr : KeepsEvr π) (hWarm : KeepsWarm π) (s : State) :
    π (State.yieldNow s) = π s := by
  unfold State.yieldNow
  with_reducible repeat' first
    | rfl
    | assumption
    | (intro)
    | refine ite_frame ?_ ?_
    | refine (hHa _ _).trans ?_
    | refine (State.endAll_frame π hOut hPort hCqe hWc hDge hCpe hFtu hSlc hEvr _).trans ?_
    | refine (State.releaseLease_frame π hOut hLink hPort hHa _ _).trans ?_
    | refine (State.warmReset_frame π hRcc hEvr hWarm _).trans ?_
    | refine (foldl_frame π _ ?_ _ _).trans ?_
    | refine (foldl_frame2 π _ ?_ _ _).trans ?_
    | refine pair_frame (by with_reducible assumption) ?_
    | split
    | (dsimp only)

theorem execLeaseLost_frame {α : Type} (π : State → α) (hDt : KeepsDt π) (hOut : KeepsOut π) (hPort : KeepsPort π) (hCqe : KeepsCqe π) (hWc : KeepsWc π) (hDge : KeepsDge π) (hCpe : KeepsCpe π) (hFtu : KeepsFtu π) (hSnap : KeepsSnap π) (hHa : KeepsHa π) (hSlc : KeepsSlc π) (hEvr : KeepsEvr π) (record : Nat) (s : State) :
    ∃ s', execLeaseLost record s = .next s' ∧ π s' = π s := by
  unfold execLeaseLost
  with_reducible repeat' first
    | rfl
    | assumption
    | (intro)
    | refine ite_frame ?_ ?_
    | refine (State.advanceTo_frame π hDt _ _).trans ?_
    | refine (State.event_frame π hEvr _ _ _ _ _ _ _).trans ?_
    | refine (State.modLease_frame π hHa _ _ _).trans ?_
    | refine (State.failJobs_frame π hOut hPort hCqe hWc hDge hCpe hFtu hSnap hSlc hEvr _ _).trans ?_
    | refine (State.endGroups_frame π hOut hPort hCqe hWc hDge hCpe hFtu hSlc hEvr _ _ _).trans ?_
    | refine (State.pokeCaws_frame π hOut hPort hCqe hWc hDge hCpe hFtu hSlc hEvr _).trans ?_
    | refine (State.leaseNotice_frame π hCqe _ _ _ _ _).trans ?_
    | refine (State.leaseMoved_frame π hEvr _ _ _ _).trans ?_
    | refine (State.leaseNotes_frame π hOut hPort _ _ _).trans ?_
    | refine ⟨_, rfl, ?_⟩
    | refine pair_frame (by with_reducible assumption) ?_
    | split
    | (dsimp only)

theorem execLeaseRenewalTimer_frame {α : Type} (π : State → α) (hDt : KeepsDt π) (hOut : KeepsOut π) (hLink : KeepsLink π) (hPort : KeepsPort π) (hHa : KeepsHa π) (s : State) :
    ∃ s', execLeaseRenewalTimer s = .next s' ∧ π s' = π s := by
  unfold execLeaseRenewalTimer
  with_reducible repeat' first
    | rfl
    | assumption
    | (intro)
    | refine ite_frame ?_ ?_
    | refine ite_frame2 ?_ ?_
    | refine (hHa _ _).trans ?_
    | refine (State.advanceTo_frame π hDt _ _).trans ?_
    | refine (State.modLease_frame π hHa _ _ _).trans ?_
    | refine (State.leaseRound_frame π hOut hLink hPort hHa _ _).trans ?_
    | refine (foldl_frame π _ ?_ _ _).trans ?_
    | refine (foldl_frame2 π _ ?_ _ _).trans ?_
    | refine ⟨_, rfl, ?_⟩
    | refine pair_frame (by with_reducible assumption) ?_
    | split
    | (dsimp only)

theorem execLeaseRetryTimer_frame {α : Type} (π : State → α) (hDt : KeepsDt π) (hOut : KeepsOut π) (hLink : KeepsLink π) (hPort : KeepsPort π) (hHa : KeepsHa π) (s : State) :
    ∃ s', execLeaseRetryTimer s = .next s' ∧ π s' = π s := by
  unfold execLeaseRetryTimer
  with_reducible repeat' first
    | rfl
    | assumption
    | (intro)
    | refine ite_frame ?_ ?_
    | refine (State.takeLease_frame π hOut hLink hPort hHa _ _).trans ?_
    | refine (State.advanceTo_frame π hDt _ _).trans ?_
    | refine (foldl_frame π _ ?_ _ _).trans ?_
    | refine (foldl_frame2 π _ ?_ _ _).trans ?_
    | refine ⟨_, rfl, ?_⟩
    | refine pair_frame (by with_reducible assumption) ?_
    | split
    | (dsimp only)

end Sys2Proof.Machine
end

