-- ==== Sys2Proof/Laws/FrameTakeover.lean ====
section
/-! SUPPORT. What the definitions of Machine/Takeover.lean leave alone: a view of the state that no block they write can change reads
the same after them. -/

set_option linter.unusedSimpArgs false

namespace Sys2Proof.Machine

open Sys2Proof

theorem State.sendPsb_frame {α : Type} (π : State → α) (hOut : KeepsOut π) (hSnw : KeepsSnw π) (s : State) (typ : Nat) (body : Bytes) :
    π (State.sendPsb s typ body) = π s := by
  unfold State.sendPsb
  with_reducible
    repeat' first | (rfl) | (refine (hOut _ _).trans ?_) | (refine (hSnw _ _).trans ?_)

theorem State.sendFence_frame {α : Type} (π : State → α) (hOut : KeepsOut π) (hSnw : KeepsSnw π) (s : State) (reason : Nat) :
    π (State.sendFence s reason) = π s := by
  unfold State.sendFence
  with_reducible repeat' first
    | rfl
    | assumption
    | (intro)
    | refine ite_frame ?_ ?_
    | refine (State.sendPsb_frame π hOut hSnw _ _ _).trans ?_
    | refine pair_frame (by with_reducible assumption) ?_
    | split
    | (dsimp only)

theorem State.readPeerEvents_frame {α : Type} (π : State → α) (hOut : KeepsOut π) (hSnw : KeepsSnw π) (s : State) :
    π (State.readPeerEvents s) = π s := by
  unfold State.readPeerEvents
  with_reducible repeat' first
    | rfl
    | assumption
    | (intro)
    | refine ite_frame ?_ ?_
    | refine (State.sendPsb_frame π hOut hSnw _ _ _).trans ?_
    | refine pair_frame (by with_reducible assumption) ?_
    | split
    | (dsimp only)

theorem State.releasePeer_frame {α : Type} (π : State → α) (hOut : KeepsOut π) (hSnw : KeepsSnw π) (hEvr : KeepsEvr π) (s : State) :
    π (State.releasePeer s) = π s := by
  unfold State.releasePeer
  with_reducible repeat' first
    | rfl
    | assumption
    | (intro)
    | refine ite_frame ?_ ?_
    | refine (State.sendPsb_frame π hOut hSnw _ _ _).trans ?_
    | refine (State.event_frame π hEvr _ _ _ _ _ _ _).trans ?_
    | refine pair_frame (by with_reducible assumption) ?_
    | split
    | (dsimp only)

theorem State.modTakeover_frame {α : Type} (π : State → α) (hHa : KeepsHa π) (s : State) (f : Takeover → Takeover) :
    π (State.modTakeover s f) = π s := by
  unfold State.modTakeover
  with_reducible
    repeat' first | (rfl) | (refine (hHa _ _).trans ?_)

theorem State.sendEpoch_frame {α : Type} (π : State → α) (hOut : KeepsOut π) (hLink : KeepsLink π) (hPort : KeepsPort π) (s : State) (pos : Nat) (raise : Bool) :
    π (State.sendEpoch s pos raise) = π s := by
  unfold State.sendEpoch
  with_reducible
    repeat' first | (rfl) | (refine (State.sendMedia_frame π hOut hLink hPort _ _ _ _ _ _ _ _ _ _).trans ?_)

theorem State.sendOwner_frame {α : Type} (π : State → α) (hOut : KeepsOut π) (hLink : KeepsLink π) (hPort : KeepsPort π) (s : State) (pos : Nat) (set : Option (BitVec 192)) :
    π (State.sendOwner s pos set) = π s := by
  unfold State.sendOwner
  with_reducible repeat' first
    | rfl
    | assumption
    | (intro)
    | refine ite_frame ?_ ?_
    | refine (State.sendMedia_frame π hOut hLink hPort _ _ _ _ _ _ _ _ _ _).trans ?_
    | refine pair_frame (by with_reducible assumption) ?_
    | split
    | (dsimp only)

theorem State.unionDrb_frame {α : Type} (π : State → α) (hFresh : KeepsFresh π) (hPxe : KeepsPxe π) (hEvr : KeepsEvr π) (s : State) :
    π (State.unionDrb s) = π s := by
  unfold State.unionDrb
  with_reducible repeat' first
    | rfl
    | assumption
    | (intro)
    | refine ite_frame ?_ ?_
    | refine (State.event_frame π hEvr _ _ _ _ _ _ _).trans ?_
    | refine (State.freshen_frame π hFresh _).trans ?_
    | refine (hPxe _ _ ?_).trans ?_
    | refine (foldl_frame π _ ?_ _ _).trans ?_
    | refine (foldl_frame2 π _ ?_ _ _).trans ?_
    | refine pair_frame (by with_reducible assumption) ?_
    | split
    | (dsimp only)

theorem State.gainGroups_frame {α : Type} (π : State → α) (hFresh : KeepsFresh π) (hOut : KeepsOut π) (hPort : KeepsPort π) (hCqe : KeepsCqe π) (hWc : KeepsWc π) (hDge : KeepsDge π) (hDxu : KeepsDxu π) (hCpe : KeepsCpe π) (hFtu : KeepsFtu π) (hPxe : KeepsPxe π) (hHa : KeepsHa π) (hSlc : KeepsSlc π) (hEvr : KeepsEvr π) (s : State) (groups : List Nat) (cause : Nat) :
    π (State.gainGroups s groups cause) = π s := by
  unfold State.gainGroups
  with_reducible repeat' first
    | rfl
    | assumption
    | (intro)
    | refine (hHa _ _).trans ?_
    | refine (State.commitWaiting_frame π hOut hPort hCqe hWc hDge hCpe hFtu hSlc hEvr _).trans ?_
    | refine (State.adoptMirror_frame π hWc _).trans ?_
    | refine (State.setMirror_frame π hWc hEvr _ _ _).trans ?_
    | refine (hWc _ _).trans ?_
    | refine (State.setDomain_frame π hCqe hDxu hEvr _ _ _ _).trans ?_
    | refine (State.unionDrb_frame π hFresh hPxe hEvr _).trans ?_
    | refine (State.leaseNotice_frame π hCqe _ _ _ _ _).trans ?_
    | refine (State.leaseNotes_frame π hOut hPort _ _ _).trans ?_
    | refine (State.leaseMoved_frame π hEvr _ _ _ _).trans ?_
    | refine (State.pokeCaws_frame π hOut hPort hCqe hWc hDge hCpe hFtu hSlc hEvr _).trans ?_
    | refine (foldl_frame π _ ?_ _ _).trans ?_
    | refine (foldl_frame2 π _ ?_ _ _).trans ?_
    | refine pair_frame (by with_reducible assumption) ?_
    | split
    | (dsimp only)

theorem State.takeoverDone_frame {α : Type} (π : State → α) (hFresh : KeepsFresh π) (hOut : KeepsOut π) (hPort : KeepsPort π) (hCqe : KeepsCqe π) (hWc : KeepsWc π) (hDge : KeepsDge π) (hDxu : KeepsDxu π) (hCpe : KeepsCpe π) (hFtu : KeepsFtu π) (hPxe : KeepsPxe π) (hHa : KeepsHa π) (hSnw : KeepsSnw π) (hSlc : KeepsSlc π) (hEvr : KeepsEvr π) (s : State) (t : Takeover) :
    π (State.takeoverDone s t) = π s := by
  unfold State.takeoverDone
  with_reducible repeat' first
    | rfl
    | assumption
    | (intro)
    | refine ite_frame ?_ ?_
    | refine ite_frame2 ?_ ?_
    | refine (State.gainGroups_frame π hFresh hOut hPort hCqe hWc hDge hDxu hCpe hFtu hPxe hHa hSlc hEvr _ _ _).trans ?_
    | refine (State.event_frame π hEvr _ _ _ _ _ _ _).trans ?_
    | refine (State.peerNotice_frame π hCqe _ _ _ _ _).trans ?_
    | refine (State.releasePeer_frame π hOut hSnw hEvr _).trans ?_
    | refine (hHa _ _).trans ?_
    | refine pair_frame (by with_reducible assumption) ?_
    | split
    | (dsimp only)

theorem State.takePeerGroups_frame {α : Type} (π : State → α) (hFresh : KeepsFresh π) (hOut : KeepsOut π) (hLink : KeepsLink π) (hPort : KeepsPort π) (hCqe : KeepsCqe π) (hWc : KeepsWc π) (hDge : KeepsDge π) (hDxu : KeepsDxu π) (hCpe : KeepsCpe π) (hFtu : KeepsFtu π) (hPxe : KeepsPxe π) (hHa : KeepsHa π) (hSnw : KeepsSnw π) (hSlc : KeepsSlc π) (hEvr : KeepsEvr π) (s : State) (mode : Nat) :
    π (State.takePeerGroups s mode) = π s := by
  unfold State.takePeerGroups
  with_reducible repeat' first
    | rfl
    | assumption
    | (intro)
    | refine ite_frame ?_ ?_
    | refine (State.modTakeover_frame π hHa _ _).trans ?_
    | refine (State.takeLease_frame π hOut hLink hPort hHa _ _).trans ?_
    | refine (State.takeoverDone_frame π hFresh hOut hPort hCqe hWc hDge hDxu hCpe hFtu hPxe hHa hSnw hSlc hEvr _ _).trans ?_
    | refine (foldl_frame π _ ?_ _ _).trans ?_
    | refine (foldl_frame2 π _ ?_ _ _).trans ?_
    | refine pair_frame (by with_reducible assumption) ?_
    | split
    | (dsimp only)

theorem State.raiseEpochs_frame {α : Type} (π : State → α) (hOut : KeepsOut π) (hLink : KeepsLink π) (hPort : KeepsPort π) (hHa : KeepsHa π) (s : State) (mode : Nat) :
    π (State.raiseEpochs s mode) = π s := by
  unfold State.raiseEpochs
  with_reducible repeat' first
    | rfl
    | assumption
    | (intro)
    | refine (State.modTakeover_frame π hHa _ _).trans ?_
    | refine (hHa _ _).trans ?_
    | refine (State.sendEpoch_frame π hOut hLink hPort _ _ _).trans ?_
    | refine (foldl_frame π _ ?_ _ _).trans ?_
    | refine (foldl_frame2 π _ ?_ _ _).trans ?_
    | refine pair_frame (by with_reducible assumption) ?_
    | split
    | (dsimp only)

theorem State.startTakeover_frame {α : Type} (π : State → α) (hFtu : KeepsFtu π) (hHa : KeepsHa π) (s : State) (step : Nat) (mode : Nat) :
    π (State.startTakeover s step mode) = π s := by
  unfold State.startTakeover
  with_reducible repeat' first
    | rfl
    | assumption
    | (intro)
    | refine ite_frame ?_ ?_
    | refine ite_frame2 ?_ ?_
    | refine (hHa _ _).trans ?_
    | refine (hFtu _ _).trans ?_
    | refine pair_frame (by with_reducible assumption) ?_
    | split
    | (dsimp only)

theorem State.readPeerRecords_frame {α : Type} (π : State → α) (hOut : KeepsOut π) (hLink : KeepsLink π) (hPort : KeepsPort π) (s : State) :
    π (State.readPeerRecords s) = π s := by
  unfold State.readPeerRecords
  with_reducible repeat' first
    | rfl
    | assumption
    | (intro)
    | refine (State.readLease_frame π hOut hLink hPort _ _ _).trans ?_
    | refine (foldl_frame π _ ?_ _ _).trans ?_
    | refine (foldl_frame2 π _ ?_ _ _).trans ?_
    | refine pair_frame (by with_reducible assumption) ?_
    | split
    | (dsimp only)

theorem State.gainModule_frame {α : Type} (π : State → α) (hOut : KeepsOut π) (hLink : KeepsLink π) (hPort : KeepsPort π) (hDsc : KeepsDsc π) (s : State) (pos : Nat) :
    π (State.gainModule s pos) = π s := by
  unfold State.gainModule
  with_reducible repeat' first
    | rfl
    | assumption
    | (intro)
    | refine (State.sendOwner_frame π hOut hLink hPort _ _ _).trans ?_
    | refine (hDsc _ _).trans ?_
    | refine (State.sendMedia_frame π hOut hLink hPort _ _ _ _ _ _ _ _ _ _).trans ?_
    | refine (foldl_frame π _ ?_ _ _).trans ?_
    | refine (foldl_frame2 π _ ?_ _ _).trans ?_
    | refine pair_frame (by with_reducible assumption) ?_
    | split
    | (dsimp only)

theorem execPeerDeclaredFailed_frame {α : Type} (π : State → α) (hDt : KeepsDt π) (hOut : KeepsOut π) (hLink : KeepsLink π) (hPort : KeepsPort π) (hCqe : KeepsCqe π) (hWc : KeepsWc π) (hDge : KeepsDge π) (hCpe : KeepsCpe π) (hFtu : KeepsFtu π) (hHa : KeepsHa π) (hSnw : KeepsSnw π) (hSlc : KeepsSlc π) (hEvr : KeepsEvr π) (s : State) :
    ∃ s', execPeerDeclaredFailed s = .next s' ∧ π s' = π s := by
  unfold execPeerDeclaredFailed
  with_reducible repeat' first
    | rfl
    | assumption
    | (intro)
    | refine ite_frame ?_ ?_
    | refine (hHa _ _).trans ?_
    | refine (State.sendFence_frame π hOut hSnw _ _).trans ?_
    | refine (State.advanceTo_frame π hDt _ _).trans ?_
    | refine (State.raiseEpochs_frame π hOut hLink hPort hHa _ _).trans ?_
    | refine (State.event_frame π hEvr _ _ _ _ _ _ _).trans ?_
    | refine (State.startTakeover_frame π hFtu hHa _ _ _).trans ?_
    | refine (State.endForwarded_frame π hOut hPort hCqe hWc hDge hCpe hFtu hSlc hEvr _).trans ?_
    | refine (State.peerNotice_frame π hCqe _ _ _ _ _).trans ?_
    | refine (State.modTakeover_frame π hHa _ _).trans ?_
    | refine (State.readPeerRecords_frame π hOut hLink hPort _).trans ?_
    | refine ⟨_, rfl, ?_⟩
    | refine pair_frame (by with_reducible assumption) ?_
    | split
    | (dsimp only)

theorem execFenceNoAnswer_frame {α : Type} (π : State → α) (hDt : KeepsDt π) (hFresh : KeepsFresh π) (hHa : KeepsHa π) (hEvr : KeepsEvr π) (s : State) :
    ∃ s', execFenceNoAnswer s = .next s' ∧ π s' = π s := by
  unfold execFenceNoAnswer
  with_reducible repeat' first
    | rfl
    | assumption
    | (intro)
    | refine ite_frame ?_ ?_
    | refine (State.advanceTo_frame π hDt _ _).trans ?_
    | refine (State.modTakeover_frame π hHa _ _).trans ?_
    | refine (State.freshen_frame π hFresh _).trans ?_
    | refine (State.event_frame π hEvr _ _ _ _ _ _ _).trans ?_
    | refine ⟨_, rfl, ?_⟩
    | refine pair_frame (by with_reducible assumption) ?_
    | split
    | (dsimp only)

theorem execFenceRetry_frame {α : Type} (π : State → α) (hDt : KeepsDt π) (hOut : KeepsOut π) (hLink : KeepsLink π) (hPort : KeepsPort π) (hHa : KeepsHa π) (hSnw : KeepsSnw π) (s : State) :
    ∃ s', execFenceRetry s = .next s' ∧ π s' = π s := by
  unfold execFenceRetry
  with_reducible repeat' first
    | rfl
    | assumption
    | (intro)
    | refine ite_frame ?_ ?_
    | refine (State.advanceTo_frame π hDt _ _).trans ?_
    | refine (State.modTakeover_frame π hHa _ _).trans ?_
    | refine (State.readPeerRecords_frame π hOut hLink hPort _).trans ?_
    | refine (State.sendFence_frame π hOut hSnw _ _).trans ?_
    | refine ⟨_, rfl, ?_⟩
    | refine pair_frame (by with_reducible assumption) ?_
    | split
    | (dsimp only)

theorem execLeaseWaitExpiry_frame {α : Type} (π : State → α) (hDt : KeepsDt π) (hOut : KeepsOut π) (hLink : KeepsLink π) (hPort : KeepsPort π) (hHa : KeepsHa π) (s : State) :
    ∃ s', execLeaseWaitExpiry s = .next s' ∧ π s' = π s := by
  unfold execLeaseWaitExpiry
  with_reducible repeat' first
    | rfl
    | assumption
    | (intro)
    | refine ite_frame ?_ ?_
    | refine ite_frame2 ?_ ?_
    | refine (State.raiseEpochs_frame π hOut hLink hPort hHa _ _).trans ?_
    | refine (State.advanceTo_frame π hDt _ _).trans ?_
    | refine (hHa _ _).trans ?_
    | refine (State.takeLease_frame π hOut hLink hPort hHa _ _).trans ?_
    | refine (foldl_frame π _ ?_ _ _).trans ?_
    | refine (foldl_frame2 π _ ?_ _ _).trans ?_
    | refine ⟨_, rfl, ?_⟩
    | refine pair_frame (by with_reducible assumption) ?_
    | split
    | (dsimp only)

theorem State.psbFrame_frame {α : Type} (π : State → α) (hSnw : KeepsSnw π) (hEvr : KeepsEvr π) (s : State) (p : Psb) (typ : Nat) (act : State → State) (h_act : ∀ s, π (act s) = π s) :
    π (State.psbFrame s p typ act) = π s := by
  unfold State.psbFrame
  with_reducible repeat' first
    | rfl
    | assumption
    | (intro)
    | refine ite_frame ?_ ?_
    | refine (hSnw _ _).trans ?_
    | refine (State.event_frame π hEvr _ _ _ _ _ _ _).trans ?_
    | refine (h_act _).trans ?_
    | refine pair_frame (by with_reducible assumption) ?_
    | split
    | (dsimp only)

theorem execFence_frame {α : Type} (π : State → α) (hOut : KeepsOut π) (hSnw : KeepsSnw π) (hRcc : KeepsRcc π) (hEvr : KeepsEvr π) (hCold : KeepsCold π) (p : Psb) (epoch : Nat) (reason : Byte) (s : State) :
    ∃ s', execFence p epoch reason s = .next s' ∧ π s' = π s := by
  unfold execFence
  with_reducible repeat' first
    | rfl
    | assumption
    | (intro)
    | refine (State.psbFrame_frame π hSnw hEvr _ _ _ _ ?_).trans ?_
    | refine (State.coldSource_frame π hRcc hEvr hCold _ _).trans ?_
    | refine (State.event_frame π hEvr _ _ _ _ _ _ _).trans ?_
    | refine (hRcc _ _).trans ?_
    | refine (State.sendPsb_frame π hOut hSnw _ _ _).trans ?_
    | refine ⟨_, rfl, ?_⟩
    | refine pair_frame (by with_reducible assumption) ?_
    | split
    | (dsimp only)

theorem execFenced_frame {α : Type} (π : State → α) (hOut : KeepsOut π) (hLink : KeepsLink π) (hPort : KeepsPort π) (hHa : KeepsHa π) (hSnw : KeepsSnw π) (hEvr : KeepsEvr π) (p : Psb) (pstate : Byte) (role : Byte) (records : Nat) (s : State) :
    ∃ s', execFenced p pstate role records s = .next s' ∧ π s' = π s := by
  unfold execFenced
  with_reducible repeat' first
    | rfl
    | assumption
    | (intro)
    | refine ite_frame ?_ ?_
    | refine (State.psbFrame_frame π hSnw hEvr _ _ _ _ ?_).trans ?_
    | refine (hSnw _ _).trans ?_
    | refine (State.event_frame π hEvr _ _ _ _ _ _ _).trans ?_
    | refine (State.raiseEpochs_frame π hOut hLink hPort hHa _ _).trans ?_
    | refine (State.readPeerEvents_frame π hOut hSnw _).trans ?_
    | refine (State.sendPsb_frame π hOut hSnw _ _ _).trans ?_
    | refine ⟨_, rfl, ?_⟩
    | refine pair_frame (by with_reducible assumption) ?_
    | split
    | (dsimp only)

theorem execStatusReq_frame {α : Type} (π : State → α) (hOut : KeepsOut π) (hSnw : KeepsSnw π) (hEvr : KeepsEvr π) (p : Psb) (s : State) :
    ∃ s', execStatusReq p s = .next s' ∧ π s' = π s := by
  unfold execStatusReq
  with_reducible repeat' first
    | rfl
    | assumption
    | (intro)
    | refine (State.psbFrame_frame π hSnw hEvr _ _ _ _ ?_).trans ?_
    | refine (State.sendPsb_frame π hOut hSnw _ _ _).trans ?_
    | refine ⟨_, rfl, ?_⟩
    | refine pair_frame (by with_reducible assumption) ?_
    | split
    | (dsimp only)

theorem execStatus_frame {α : Type} (π : State → α) (hSnw : KeepsSnw π) (hEvr : KeepsEvr π) (p : Psb) (feed : Byte) (held : Byte) (supplies : Byte) (role : Byte) (records : Nat) (s : State) :
    ∃ s', execStatus p feed held supplies role records s = .next s' ∧ π s' = π s := by
  unfold execStatus
  with_reducible repeat' first
    | rfl
    | assumption
    | (intro)
    | refine (State.psbFrame_frame π hSnw hEvr _ _ _ _ ?_).trans ?_
    | refine (hSnw _ _).trans ?_
    | refine ⟨_, rfl, ?_⟩
    | refine pair_frame (by with_reducible assumption) ?_
    | split
    | (dsimp only)

theorem execEventsReq_frame {α : Type} (π : State → α) (hOut : KeepsOut π) (hSnw : KeepsSnw π) (hEvr : KeepsEvr π) (p : Psb) (first : Nat) (count : Nat) (s : State) :
    ∃ s', execEventsReq p first count s = .next s' ∧ π s' = π s := by
  unfold execEventsReq
  with_reducible repeat' first
    | rfl
    | assumption
    | (intro)
    | refine ite_frame ?_ ?_
    | refine (State.psbFrame_frame π hSnw hEvr _ _ _ _ ?_).trans ?_
    | refine (hOut _ _).trans ?_
    | refine (State.sendPsb_frame π hOut hSnw _ _ _).trans ?_
    | refine ⟨_, rfl, ?_⟩
    | refine pair_frame (by with_reducible assumption) ?_
    | split
    | (dsimp only)

theorem execEvents_frame {α : Type} (π : State → α) (hOut : KeepsOut π) (hSnw : KeepsSnw π) (hEvr : KeepsEvr π) (p : Psb) (recs : List EvRec) (s : State) :
    ∃ s', execEvents p recs s = .next s' ∧ π s' = π s := by
  unfold execEvents
  with_reducible repeat' first
    | rfl
    | assumption
    | (intro)
    | refine ite_frame ?_ ?_
    | refine (State.psbFrame_frame π hSnw hEvr _ _ _ _ ?_).trans ?_
    | refine (hSnw _ _).trans ?_
    | refine (State.readPeerEvents_frame π hOut hSnw _).trans ?_
    | refine (State.event_frame π hEvr _ _ _ _ _ _ _).trans ?_
    | refine (State.releasePeer_frame π hOut hSnw hEvr _).trans ?_
    | refine ⟨_, rfl, ?_⟩
    | refine pair_frame (by with_reducible assumption) ?_
    | split
    | (dsimp only)

theorem execPsbRelease_frame {α : Type} (π : State → α) (hOut : KeepsOut π) (hSnw : KeepsSnw π) (hRcc : KeepsRcc π) (hEvr : KeepsEvr π) (p : Psb) (epoch : Nat) (s : State) :
    ∃ s', execPsbRelease p epoch s = .next s' ∧ π s' = π s := by
  unfold execPsbRelease
  with_reducible repeat' first
    | rfl
    | assumption
    | (intro)
    | refine (State.psbFrame_frame π hSnw hEvr _ _ _ _ ?_).trans ?_
    | refine (State.sendPsb_frame π hOut hSnw _ _ _).trans ?_
    | refine (hRcc _ _).trans ?_
    | refine ⟨_, rfl, ?_⟩
    | refine pair_frame (by with_reducible assumption) ?_
    | split
    | (dsimp only)

theorem execReleased_frame {α : Type} (π : State → α) (hSnw : KeepsSnw π) (hEvr : KeepsEvr π) (p : Psb) (s : State) :
    ∃ s', execReleased p s = .next s' ∧ π s' = π s := by
  unfold execReleased
  with_reducible repeat' first
    | rfl
    | assumption
    | (intro)
    | refine (State.psbFrame_frame π hSnw hEvr _ _ _ _ ?_).trans ?_
    | refine (hSnw _ _).trans ?_
    | refine ⟨_, rfl, ?_⟩
    | refine pair_frame (by with_reducible assumption) ?_
    | split
    | (dsimp only)

theorem execPsbRejectLimit_frame {α : Type} (π : State → α) (hSnw : KeepsSnw π) (s : State) :
    ∃ s', execPsbRejectLimit s = .next s' ∧ π s' = π s := by
  unfold execPsbRejectLimit
  with_reducible repeat' first
    | rfl
    | assumption
    | (intro)
    | refine ite_frame ?_ ?_
    | refine (hSnw _ _).trans ?_
    | refine ⟨_, rfl, ?_⟩
    | refine pair_frame (by with_reducible assumption) ?_
    | split
    | (dsimp only)

theorem execPsbIgnoreEnd_frame {α : Type} (π : State → α) (hDt : KeepsDt π) (hSnw : KeepsSnw π) (s : State) :
    ∃ s', execPsbIgnoreEnd s = .next s' ∧ π s' = π s := by
  unfold execPsbIgnoreEnd
  with_reducible repeat' first
    | rfl
    | assumption
    | (intro)
    | refine ite_frame ?_ ?_
    | refine (hSnw _ _).trans ?_
    | refine (State.advanceTo_frame π hDt _ _).trans ?_
    | refine ⟨_, rfl, ?_⟩
    | refine pair_frame (by with_reducible assumption) ?_
    | split
    | (dsimp only)

theorem execIslandFeed_frame {α : Type} (π : State → α) (hSnw : KeepsSnw π) (hRcc : KeepsRcc π) (hEvr : KeepsEvr π) (vstby : Bool) (psb : Bool) (s : State) :
    ∃ s', execIslandFeed vstby psb s = .next s' ∧ π s' = π s := by
  unfold execIslandFeed
  with_reducible repeat' first
    | rfl
    | assumption
    | (intro)
    | refine ite_frame ?_ ?_
    | refine (hSnw _ _).trans ?_
    | refine (hRcc _ _).trans ?_
    | refine (hEvr _ _).trans ?_
    | refine (State.event_frame π hEvr _ _ _ _ _ _ _).trans ?_
    | refine ⟨_, rfl, ?_⟩
    | refine pair_frame (by with_reducible assumption) ?_
    | split
    | (dsimp only)

end Sys2Proof.Machine
end

