-- ==== Sys2Proof/Laws/FrameFailback.lean ====
section
/-! SUPPORT. What the definitions of Machine/Failback.lean leave alone: a view of the state that no block they write can change reads
the same after them. -/

set_option linter.unusedSimpArgs false

namespace Sys2Proof.Machine

open Sys2Proof

theorem State.refreshStable_frame {α : Type} (π : State → α) (hHa : KeepsHa π) (s : State) :
    π (State.refreshStable s) = π s := by
  unfold State.refreshStable
  with_reducible repeat' first
    | rfl
    | assumption
    | (intro)
    | refine ite_frame ?_ ?_
    | refine (hHa _ _).trans ?_
    | refine pair_frame (by with_reducible assumption) ?_
    | split
    | (dsimp only)

theorem State.returnDies_frame {α : Type} (π : State → α) (hOut : KeepsOut π) (hLink : KeepsLink π) (hPort : KeepsPort π) (s : State) :
    π (State.returnDies s) = π s := by
  unfold State.returnDies
  with_reducible repeat' first
    | rfl
    | assumption
    | (intro)
    | refine (State.sendOwner_frame π hOut hLink hPort _ _ _).trans ?_
    | refine (foldl_frame π _ ?_ _ _).trans ?_
    | refine (foldl_frame2 π _ ?_ _ _).trans ?_
    | refine pair_frame (by with_reducible assumption) ?_
    | split
    | (dsimp only)

theorem State.failbackEnd_frame {α : Type} (π : State → α) (hHa : KeepsHa π) (hEvr : KeepsEvr π) (s : State) (f : Failback) :
    π (State.failbackEnd s f) = π s := by
  unfold State.failbackEnd
  with_reducible repeat' first
    | rfl
    | assumption
    | (intro)
    | refine ite_frame ?_ ?_
    | refine (hHa _ _).trans ?_
    | refine (State.event_frame π hEvr _ _ _ _ _ _ _).trans ?_
    | refine pair_frame (by with_reducible assumption) ?_
    | split
    | (dsimp only)

theorem State.nextBatch_frame {α : Type} (π : State → α) (hOut : KeepsOut π) (hPort : KeepsPort π) (hCqe : KeepsCqe π) (hWc : KeepsWc π) (hDge : KeepsDge π) (hCpe : KeepsCpe π) (hFtu : KeepsFtu π) (hHa : KeepsHa π) (hSlc : KeepsSlc π) (hEvr : KeepsEvr π) (s : State) (f : Failback) :
    π (State.nextBatch s f) = π s := by
  unfold State.nextBatch
  with_reducible repeat' first
    | rfl
    | assumption
    | (intro)
    | refine ite_frame ?_ ?_
    | refine (State.failbackEnd_frame π hHa hEvr _ _).trans ?_
    | refine (State.modLease_frame π hHa _ _ _).trans ?_
    | refine (hHa _ _).trans ?_
    | refine (State.toPeer_frame π hOut hPort _ _).trans ?_
    | refine (State.leaseNotes_frame π hOut hPort _ _ _).trans ?_
    | refine (State.failRetry_frame π hOut hPort hCqe hWc hDge hCpe hFtu hSlc hEvr _ _ _ _).trans ?_
    | refine (foldl_frame π _ ?_ _ _).trans ?_
    | refine (foldl_frame2 π _ ?_ _ _).trans ?_
    | refine pair_frame (by with_reducible assumption) ?_
    | split
    | (dsimp only)

theorem State.failbackStart_frame {α : Type} (π : State → α) (hOut : KeepsOut π) (hLink : KeepsLink π) (hPort : KeepsPort π) (hCqe : KeepsCqe π) (hWc : KeepsWc π) (hDge : KeepsDge π) (hCpe : KeepsCpe π) (hFtu : KeepsFtu π) (hHa : KeepsHa π) (hSlc : KeepsSlc π) (hEvr : KeepsEvr π) (s : State) :
    π (State.failbackStart s) = π s := by
  unfold State.failbackStart
  with_reducible repeat' first
    | rfl
    | assumption
    | (intro)
    | refine ite_frame ?_ ?_
    | refine ite_frame2 ?_ ?_
    | refine (State.event_frame π hEvr _ _ _ _ _ _ _).trans ?_
    | refine (hFtu _ _).trans ?_
    | refine (hHa _ _).trans ?_
    | refine (State.nextBatch_frame π hOut hPort hCqe hWc hDge hCpe hFtu hHa hSlc hEvr _ _).trans ?_
    | refine (State.returnDies_frame π hOut hLink hPort _).trans ?_
    | refine pair_frame (by with_reducible assumption) ?_
    | split
    | (dsimp only)

theorem execFailbackStable_frame {α : Type} (π : State → α) (hDt : KeepsDt π) (hOut : KeepsOut π) (hLink : KeepsLink π) (hPort : KeepsPort π) (hCqe : KeepsCqe π) (hWc : KeepsWc π) (hDge : KeepsDge π) (hCpe : KeepsCpe π) (hFtu : KeepsFtu π) (hHa : KeepsHa π) (hSlc : KeepsSlc π) (hEvr : KeepsEvr π) (s : State) :
    ∃ s', execFailbackStable s = .next s' ∧ π s' = π s := by
  unfold execFailbackStable
  with_reducible repeat' first
    | rfl
    | assumption
    | (intro)
    | refine ite_frame ?_ ?_
    | refine (State.advanceTo_frame π hDt _ _).trans ?_
    | refine (hHa _ _).trans ?_
    | refine (State.event_frame π hEvr _ _ _ _ _ _ _).trans ?_
    | refine (State.failbackStart_frame π hOut hLink hPort hCqe hWc hDge hCpe hFtu hHa hSlc hEvr _).trans ?_
    | refine ⟨_, rfl, ?_⟩
    | refine pair_frame (by with_reducible assumption) ?_
    | split
    | (dsimp only)

theorem State.writeFailback_frame {α : Type} (π : State → α) (hHa : KeepsHa π) (s : State) (v : Nat) :
    π (State.writeFailback s v) = π s := by
  unfold State.writeFailback
  with_reducible repeat' first
    | rfl
    | assumption
    | (intro)
    | refine ite_frame ?_ ?_
    | refine (hHa _ _).trans ?_
    | refine pair_frame (by with_reducible assumption) ?_
    | split
    | (dsimp only)

theorem execFailbackGo_frame {α : Type} (π : State → α) (hFresh : KeepsFresh π) (hOut : KeepsOut π) (hPort : KeepsPort π) (hCqe : KeepsCqe π) (hSess : KeepsSess π) (hHa : KeepsHa π) (hEvr : KeepsEvr π) (m : Vc3) (value : Word) (s : State) :
    ∃ s', execFailbackGo m value s = .next s' ∧ π s' = π s := by
  unfold execFailbackGo
  with_reducible repeat' first
    | rfl
    | assumption
    | (intro)
    | refine (State.regWrite_frame π hFresh hOut hPort hCqe hSess hEvr _ _ _ _ _ ?_).trans ?_
    | refine (State.writeFailback_frame π hHa _ _).trans ?_
    | refine ⟨_, rfl, ?_⟩
    | refine pair_frame (by with_reducible assumption) ?_
    | split
    | (dsimp only)

theorem execHandoverDrained_frame {α : Type} (π : State → α) (hOut : KeepsOut π) (hLink : KeepsLink π) (hPort : KeepsPort π) (hCqe : KeepsCqe π) (hWc : KeepsWc π) (hDge : KeepsDge π) (hCpe : KeepsCpe π) (hFtu : KeepsFtu π) (hSnap : KeepsSnap π) (hHa : KeepsHa π) (hSlc : KeepsSlc π) (hEvr : KeepsEvr π) (first : Nat) (s : State) :
    ∃ s', execHandoverDrained first s = .next s' ∧ π s' = π s := by
  unfold execHandoverDrained
  with_reducible repeat' first
    | rfl
    | assumption
    | (intro)
    | refine ite_frame ?_ ?_
    | refine ite_frame2 ?_ ?_
    | refine (State.toPeer_frame π hOut hPort _ _).trans ?_
    | refine (State.failJobs_frame π hOut hPort hCqe hWc hDge hCpe hFtu hSnap hSlc hEvr _ _).trans ?_
    | refine (hWc _ _).trans ?_
    | refine (hHa _ _).trans ?_
    | refine (State.releaseLease_frame π hOut hLink hPort hHa _ _).trans ?_
    | refine (foldl_frame π _ ?_ _ _).trans ?_
    | refine (foldl_frame2 π _ ?_ _ _).trans ?_
    | refine ⟨_, rfl, ?_⟩
    | refine pair_frame (by with_reducible assumption) ?_
    | split
    | (dsimp only)

theorem State.adoptBatch_frame {α : Type} (π : State → α) (hWc : KeepsWc π) (s : State) (batch : List Nat) :
    π (State.adoptBatch s batch) = π s := by
  unfold State.adoptBatch
  with_reducible repeat' first
    | rfl
    | assumption
    | (intro)
    | refine ite_frame ?_ ?_
    | refine (hWc _ _).trans ?_
    | refine (foldl_frame π _ ?_ _ _).trans ?_
    | refine (foldl_frame2 π _ ?_ _ _).trans ?_
    | refine pair_frame (by with_reducible assumption) ?_
    | split
    | (dsimp only)

theorem State.batchTaken_frame {α : Type} (π : State → α) (hOut : KeepsOut π) (hPort : KeepsPort π) (hCqe : KeepsCqe π) (hHa : KeepsHa π) (hEvr : KeepsEvr π) (s : State) (f : Failback) :
    π (State.batchTaken s f) = π s := by
  unfold State.batchTaken
  with_reducible repeat' first
    | rfl
    | assumption
    | (intro)
    | refine ite_frame ?_ ?_
    | refine (State.leaseNotice_frame π hCqe _ _ _ _ _).trans ?_
    | refine (State.leaseMoved_frame π hEvr _ _ _ _).trans ?_
    | refine (State.leaseNotes_frame π hOut hPort _ _ _).trans ?_
    | refine (State.toPeer_frame π hOut hPort _ _).trans ?_
    | refine (hHa _ _).trans ?_
    | refine (State.peerNotice_frame π hCqe _ _ _ _ _).trans ?_
    | refine pair_frame (by with_reducible assumption) ?_
    | split
    | (dsimp only)

theorem execHandover_frame {α : Type} (π : State → α) (hOut : KeepsOut π) (hPort : KeepsPort π) (hCqe : KeepsCqe π) (hWc : KeepsWc π) (hDge : KeepsDge π) (hCpe : KeepsCpe π) (hFtu : KeepsFtu π) (hHa : KeepsHa π) (hSlc : KeepsSlc π) (hEvr : KeepsEvr π) (h : RecHdr) (first : Nat) (count : Nat) (phase : Byte) (s : State) :
    ∃ s', execHandover h first count phase s = .next s' ∧ π s' = π s := by
  unfold execHandover
  with_reducible repeat' first
    | rfl
    | assumption
    | (intro)
    | refine ite_frame ?_ ?_
    | refine (State.peerRecord_frame π hPort hEvr _ _ _ _ ?_).trans ?_
    | refine (hHa _ _).trans ?_
    | refine (State.adoptBatch_frame π hWc _ _).trans ?_
    | refine (State.modLease_frame π hHa _ _ _).trans ?_
    | refine (State.leaseNotice_frame π hCqe _ _ _ _ _).trans ?_
    | refine (State.leaseMoved_frame π hEvr _ _ _ _).trans ?_
    | refine (State.peerNotice_frame π hCqe _ _ _ _ _).trans ?_
    | refine (State.nextBatch_frame π hOut hPort hCqe hWc hDge hCpe hFtu hHa hSlc hEvr _ _).trans ?_
    | refine (foldl_frame π _ ?_ _ _).trans ?_
    | refine (foldl_frame2 π _ ?_ _ _).trans ?_
    | refine ⟨_, rfl, ?_⟩
    | refine pair_frame (by with_reducible assumption) ?_
    | split
    | (dsimp only)

end Sys2Proof.Machine
end

