-- ==== Sys2Proof/Laws/FrameBridges.lean ====
section
/-! SUPPORT. What the definitions of Machine/Bridges.lean leave alone: a view of the state that no block they write can change reads
the same after them. -/

set_option linter.unusedSimpArgs false

namespace Sys2Proof.Machine

open Sys2Proof

theorem State.takeoverGroupsIn_frame {α : Type} (π : State → α) (hFresh : KeepsFresh π) (hOut : KeepsOut π) (hPort : KeepsPort π) (hCqe : KeepsCqe π) (hWc : KeepsWc π) (hDge : KeepsDge π) (hDxu : KeepsDxu π) (hCpe : KeepsCpe π) (hFtu : KeepsFtu π) (hPxe : KeepsPxe π) (hHa : KeepsHa π) (hSnw : KeepsSnw π) (hSlc : KeepsSlc π) (hEvr : KeepsEvr π) (s : State) (t : Takeover) :
    π (State.takeoverGroupsIn s t) = π s := by
  unfold State.takeoverGroupsIn
  with_reducible repeat' first
    | rfl
    | assumption
    | (intro)
    | refine ite_frame ?_ ?_
    | refine (State.modTakeover_frame π hHa _ _).trans ?_
    | refine (State.gainGroups_frame π hFresh hOut hPort hCqe hWc hDge hDxu hCpe hFtu hPxe hHa hSlc hEvr _ _ _).trans ?_
    | refine (State.takeoverDone_frame π hFresh hOut hPort hCqe hWc hDge hDxu hCpe hFtu hPxe hHa hSnw hSlc hEvr _ _).trans ?_
    | refine pair_frame (by with_reducible assumption) ?_
    | split
    | (dsimp only)

theorem State.groupTaken_frame {α : Type} (π : State → α) (hFresh : KeepsFresh π) (hOut : KeepsOut π) (hPort : KeepsPort π) (hCqe : KeepsCqe π) (hWc : KeepsWc π) (hDge : KeepsDge π) (hDxu : KeepsDxu π) (hCpe : KeepsCpe π) (hFtu : KeepsFtu π) (hPxe : KeepsPxe π) (hHa : KeepsHa π) (hSnw : KeepsSnw π) (hSlc : KeepsSlc π) (hEvr : KeepsEvr π) (s : State) (g : Nat) (old : Nat) :
    π (State.groupTaken s g old) = π s := by
  unfold State.groupTaken
  with_reducible repeat' first
    | rfl
    | assumption
    | (intro)
    | refine ite_frame ?_ ?_
    | refine (State.takeoverGroupsIn_frame π hFresh hOut hPort hCqe hWc hDge hDxu hCpe hFtu hPxe hHa hSnw hSlc hEvr _ _).trans ?_
    | refine (State.batchTaken_frame π hOut hPort hCqe hHa hEvr _ _).trans ?_
    | refine (State.leaseNotes_frame π hOut hPort _ _ _).trans ?_
    | refine (State.leaseMoved_frame π hEvr _ _ _ _).trans ?_
    | refine (State.leaseNotice_frame π hCqe _ _ _ _ _).trans ?_
    | refine (hHa _ _).trans ?_
    | refine pair_frame (by with_reducible assumption) ?_
    | split
    | (dsimp only)

theorem State.leaseAccepted_frame {α : Type} (π : State → α) (hFresh : KeepsFresh π) (hOut : KeepsOut π) (hPort : KeepsPort π) (hCqe : KeepsCqe π) (hWc : KeepsWc π) (hDge : KeepsDge π) (hDxu : KeepsDxu π) (hCpe : KeepsCpe π) (hFtu : KeepsFtu π) (hPxe : KeepsPxe π) (hHa : KeepsHa π) (hSnw : KeepsSnw π) (hSlc : KeepsSlc π) (hEvr : KeepsEvr π) (s : State) (g : Nat) (pos : Nat) (old : Nat) :
    π (State.leaseAccepted s g pos old) = π s := by
  unfold State.leaseAccepted
  with_reducible repeat' first
    | rfl
    | assumption
    | (intro)
    | refine ite_frame ?_ ?_
    | refine (State.modLease_frame π hHa _ _ _).trans ?_
    | refine (hHa _ _).trans ?_
    | refine (State.groupTaken_frame π hFresh hOut hPort hCqe hWc hDge hDxu hCpe hFtu hPxe hHa hSnw hSlc hEvr _ _ _).trans ?_
    | refine pair_frame (by with_reducible assumption) ?_
    | split
    | (dsimp only)

theorem State.leaseReleased_frame {α : Type} (π : State → α) (hOut : KeepsOut π) (hPort : KeepsPort π) (hCqe : KeepsCqe π) (hHa : KeepsHa π) (hRcc : KeepsRcc π) (hEvr : KeepsEvr π) (hWarm : KeepsWarm π) (s : State) (g : Nat) (pos : Nat) :
    π (State.leaseReleased s g pos) = π s := by
  unfold State.leaseReleased
  with_reducible repeat' first
    | rfl
    | assumption
    | (intro)
    | refine ite_frame ?_ ?_
    | refine (State.modLease_frame π hHa _ _ _).trans ?_
    | refine (State.leaseNotes_frame π hOut hPort _ _ _).trans ?_
    | refine (State.warmReset_frame π hRcc hEvr hWarm _).trans ?_
    | refine (State.nowHeld_frame π hCqe hHa _).trans ?_
    | refine pair_frame (by with_reducible assumption) ?_
    | split
    | (dsimp only)

theorem State.withdraw_frame {α : Type} (π : State → α) (hWc : KeepsWc π) (hHa : KeepsHa π) (hEvr : KeepsEvr π) (s : State) (g : Nat) (pos : Nat) (rseq : Nat) :
    π (State.withdraw s g pos rseq) = π s := by
  unfold State.withdraw
  with_reducible repeat' first
    | rfl
    | assumption
    | (intro)
    | refine ite_frame ?_ ?_
    | refine (State.event_frame π hEvr _ _ _ _ _ _ _).trans ?_
    | refine (hHa _ _).trans ?_
    | refine (State.setMirror_frame π hWc hEvr _ _ _).trans ?_
    | refine pair_frame (by with_reducible assumption) ?_
    | split
    | (dsimp only)

theorem State.watchRecord_frame {α : Type} (π : State → α) (hWc : KeepsWc π) (hHa : KeepsHa π) (hEvr : KeepsEvr π) (s : State) (t : Takeover) (g : Nat) (pos : Nat) (cur : Lease) :
    π (State.watchRecord s t g pos cur) = π s := by
  unfold State.watchRecord
  with_reducible repeat' first
    | rfl
    | assumption
    | (intro)
    | refine ite_frame ?_ ?_
    | refine ite_frame2 ?_ ?_
    | refine (State.modTakeover_frame π hHa _ _).trans ?_
    | refine (State.withdraw_frame π hWc hHa hEvr _ _ _ _).trans ?_
    | refine pair_frame (by with_reducible assumption) ?_
    | split
    | (dsimp only)

theorem State.leaseRefused_frame {α : Type} (π : State → α) (hFresh : KeepsFresh π) (hOut : KeepsOut π) (hLink : KeepsLink π) (hPort : KeepsPort π) (hHa : KeepsHa π) (hEvr : KeepsEvr π) (s : State) (g : Nat) (pos : Nat) (cur : Lease) :
    π (State.leaseRefused s g pos cur) = π s := by
  unfold State.leaseRefused
  with_reducible repeat' first
    | rfl
    | assumption
    | (intro)
    | refine ite_frame ?_ ?_
    | refine (State.modLease_frame π hHa _ _ _).trans ?_
    | refine (State.disagreement_frame π hFresh hEvr _ _ _ _).trans ?_
    | refine (State.sendCas_frame π hOut hLink hPort _ _ _ _ _).trans ?_
    | refine (State.event_frame π hEvr _ _ _ _ _ _ _).trans ?_
    | refine pair_frame (by with_reducible assumption) ?_
    | split
    | (dsimp only)

theorem execLeaseCasResponse_frame {α : Type} (π : State → α) (hFresh : KeepsFresh π) (hOut : KeepsOut π) (hLink : KeepsLink π) (hPort : KeepsPort π) (hCqe : KeepsCqe π) (hDsc : KeepsDsc π) (hWc : KeepsWc π) (hDge : KeepsDge π) (hDxu : KeepsDxu π) (hCpe : KeepsCpe π) (hFtu : KeepsFtu π) (hPxe : KeepsPxe π) (hPxeAll : KeepsPxeAll π) (hHa : KeepsHa π) (hSnw : KeepsSnw π) (hGov : KeepsGov π) (hSlc : KeepsSlc π) (hRcc : KeepsRcc π) (hEvr : KeepsEvr π) (hGlb : KeepsGlb π) (hWarm : KeepsWarm π) (pos : Fin 96) (tag : Word) (status : BitVec 16) (hdrOk : Bool) (cur : Lease) (s : State) :
    ∃ s', execLeaseCasResponse pos tag status hdrOk cur s = .next s' ∧ π s' = π s := by
  unfold execLeaseCasResponse
  with_reducible repeat' first
    | rfl
    | assumption
    | (intro)
    | refine ite_frame ?_ ?_
    | refine (State.mediaAnswer_frame π hFresh hOut hLink hPort hCqe hDsc hWc hDxu hFtu hPxe hPxeAll hGov hEvr hGlb _ _ _ _ _ _ _ _ ?_ ?_).trans ?_
    | refine (State.epochStale_frame π hHa hRcc hEvr hWarm _ _ _ _).trans ?_
    | refine (State.modLease_frame π hHa _ _ _).trans ?_
    | refine (State.watchRecord_frame π hWc hHa hEvr _ _ _ _ _).trans ?_
    | refine (hHa _ _).trans ?_
    | refine (State.leaseAccepted_frame π hFresh hOut hPort hCqe hWc hDge hDxu hCpe hFtu hPxe hHa hSnw hSlc hEvr _ _ _ _).trans ?_
    | refine (State.leaseReleased_frame π hOut hPort hCqe hHa hRcc hEvr hWarm _ _ _).trans ?_
    | refine (State.leaseRefused_frame π hFresh hOut hLink hPort hHa hEvr _ _ _ _).trans ?_
    | refine ⟨_, rfl, ?_⟩
    | refine pair_frame (by with_reducible assumption) ?_
    | split
    | (dsimp only)

theorem execEpochResponse_frame {α : Type} (π : State → α) (hFresh : KeepsFresh π) (hOut : KeepsOut π) (hLink : KeepsLink π) (hPort : KeepsPort π) (hCqe : KeepsCqe π) (hDsc : KeepsDsc π) (hWc : KeepsWc π) (hDge : KeepsDge π) (hDxu : KeepsDxu π) (hCpe : KeepsCpe π) (hFtu : KeepsFtu π) (hPxe : KeepsPxe π) (hPxeAll : KeepsPxeAll π) (hHa : KeepsHa π) (hSnw : KeepsSnw π) (hGov : KeepsGov π) (hSlc : KeepsSlc π) (hRcc : KeepsRcc π) (hEvr : KeepsEvr π) (hGlb : KeepsGlb π) (hWarm : KeepsWarm π) (pos : Fin 96) (tag : Word) (status : BitVec 16) (hdrOk : Bool) (epoch : Nat) (s : State) :
    ∃ s', execEpochResponse pos tag status hdrOk epoch s = .next s' ∧ π s' = π s := by
  unfold execEpochResponse
  with_reducible repeat' first
    | rfl
    | assumption
    | (intro)
    | refine ite_frame ?_ ?_
    | refine (State.mediaAnswer_frame π hFresh hOut hLink hPort hCqe hDsc hWc hDxu hFtu hPxe hPxeAll hGov hEvr hGlb _ _ _ _ _ _ _ _ ?_ ?_).trans ?_
    | refine (hHa _ _).trans ?_
    | refine (State.epochStale_frame π hHa hRcc hEvr hWarm _ _ _ _).trans ?_
    | refine (State.gainModule_frame π hOut hLink hPort hDsc _ _).trans ?_
    | refine (State.takePeerGroups_frame π hFresh hOut hLink hPort hCqe hWc hDge hDxu hCpe hFtu hPxe hHa hSnw hSlc hEvr _ _).trans ?_
    | refine (State.sendEpoch_frame π hOut hLink hPort _ _ _).trans ?_
    | refine (State.disagreement_frame π hFresh hEvr _ _ _ _).trans ?_
    | refine ⟨_, rfl, ?_⟩
    | refine pair_frame (by with_reducible assumption) ?_
    | split
    | (dsimp only)

theorem State.applyOwner_frame {α : Type} (π : State → α) (hFtu : KeepsFtu π) (hHa : KeepsHa π) (s : State) (pos : Nat) (map : BitVec 192) :
    π (State.applyOwner s pos map) = π s := by
  unfold State.applyOwner
  with_reducible repeat' first
    | rfl
    | assumption
    | (intro)
    | refine ite_frame ?_ ?_
    | refine ite_frame2 ?_ ?_
    | refine (hFtu _ _).trans ?_
    | refine (hHa _ _).trans ?_
    | refine pair_frame (by with_reducible assumption) ?_
    | split
    | (dsimp only)

theorem execOwnerResponse_frame {α : Type} (π : State → α) (hFresh : KeepsFresh π) (hOut : KeepsOut π) (hLink : KeepsLink π) (hPort : KeepsPort π) (hCqe : KeepsCqe π) (hDsc : KeepsDsc π) (hWc : KeepsWc π) (hDge : KeepsDge π) (hDxu : KeepsDxu π) (hCpe : KeepsCpe π) (hFtu : KeepsFtu π) (hPxe : KeepsPxe π) (hPxeAll : KeepsPxeAll π) (hHa : KeepsHa π) (hGov : KeepsGov π) (hSlc : KeepsSlc π) (hRcc : KeepsRcc π) (hEvr : KeepsEvr π) (hGlb : KeepsGlb π) (hWarm : KeepsWarm π) (pos : Fin 96) (tag : Word) (status : BitVec 16) (hdrOk : Bool) (map : BitVec 192) (s : State) :
    ∃ s', execOwnerResponse pos tag status hdrOk map s = .next s' ∧ π s' = π s := by
  unfold execOwnerResponse
  with_reducible repeat' first
    | rfl
    | assumption
    | (intro)
    | refine ite_frame ?_ ?_
    | refine ite_frame2 ?_ ?_
    | refine (State.mediaAnswer_frame π hFresh hOut hLink hPort hCqe hDsc hWc hDxu hFtu hPxe hPxeAll hGov hEvr hGlb _ _ _ _ _ _ _ _ ?_ ?_).trans ?_
    | refine (State.epochStale_frame π hHa hRcc hEvr hWarm _ _ _ _).trans ?_
    | refine (State.sendOwner_frame π hOut hLink hPort _ _ _).trans ?_
    | refine (State.refreshPools_frame π hCqe hDsc hFtu hEvr hGlb _).trans ?_
    | refine (State.applyOwner_frame π hFtu hHa _ _ _).trans ?_
    | refine (State.nextBatch_frame π hOut hPort hCqe hWc hDge hCpe hFtu hHa hSlc hEvr _ _).trans ?_
    | refine ⟨_, rfl, ?_⟩
    | refine pair_frame (by with_reducible assumption) ?_
    | split
    | (dsimp only)

theorem State.pathFresh_frame {α : Type} (π : State → α) (hCqe : KeepsCqe π) (hHa : KeepsHa π) (hEvr : KeepsEvr π) (s : State) (mailbox : Bool) :
    π (State.pathFresh s mailbox) = π s := by
  unfold State.pathFresh
  with_reducible repeat' first
    | rfl
    | assumption
    | (intro)
    | refine ite_frame ?_ ?_
    | refine (hHa _ _).trans ?_
    | refine (State.event_frame π hEvr _ _ _ _ _ _ _).trans ?_
    | refine (State.peerNotice_frame π hCqe _ _ _ _ _).trans ?_
    | refine pair_frame (by with_reducible assumption) ?_
    | split
    | (dsimp only)

theorem execPathSilent_frame {α : Type} (π : State → α) (hDt : KeepsDt π) (hCqe : KeepsCqe π) (hHa : KeepsHa π) (hEvr : KeepsEvr π) (mailbox : Bool) (s : State) :
    ∃ s', execPathSilent mailbox s = .next s' ∧ π s' = π s := by
  unfold execPathSilent
  with_reducible repeat' first
    | rfl
    | assumption
    | (intro)
    | refine ite_frame ?_ ?_
    | refine (State.advanceTo_frame π hDt _ _).trans ?_
    | refine (hHa _ _).trans ?_
    | refine (State.event_frame π hEvr _ _ _ _ _ _ _).trans ?_
    | refine (State.peerNotice_frame π hCqe _ _ _ _ _).trans ?_
    | refine ⟨_, rfl, ?_⟩
    | refine pair_frame (by with_reducible assumption) ?_
    | split
    | (dsimp only)

theorem State.peerFoundHeld_frame {α : Type} (π : State → α) (hOut : KeepsOut π) (hLink : KeepsLink π) (hPort : KeepsPort π) (hCqe : KeepsCqe π) (hWc : KeepsWc π) (hDge : KeepsDge π) (hCpe : KeepsCpe π) (hFtu : KeepsFtu π) (hHa : KeepsHa π) (hSlc : KeepsSlc π) (hEvr : KeepsEvr π) (s : State) :
    π (State.peerFoundHeld s) = π s := by
  unfold State.peerFoundHeld
  with_reducible repeat' first
    | rfl
    | assumption
    | (intro)
    | refine ite_frame ?_ ?_
    | refine (State.raiseEpochs_frame π hOut hLink hPort hHa _ _).trans ?_
    | refine (State.endForwarded_frame π hOut hPort hCqe hWc hDge hCpe hFtu hSlc hEvr _).trans ?_
    | refine (State.startTakeover_frame π hFtu hHa _ _ _).trans ?_
    | refine pair_frame (by with_reducible assumption) ?_
    | split
    | (dsimp only)

theorem State.peerVaults_frame {α : Type} (π : State → α) (hFresh : KeepsFresh π) (hOut : KeepsOut π) (hLink : KeepsLink π) (hPort : KeepsPort π) (hCqe : KeepsCqe π) (hWc : KeepsWc π) (hDge : KeepsDge π) (hDxu : KeepsDxu π) (hCpe : KeepsCpe π) (hFtu : KeepsFtu π) (hPxe : KeepsPxe π) (hHa : KeepsHa π) (hSnw : KeepsSnw π) (hSlc : KeepsSlc π) (hEvr : KeepsEvr π) (s : State) :
    π (State.peerVaults s) = π s := by
  unfold State.peerVaults
  with_reducible repeat' first
    | rfl
    | assumption
    | (intro)
    | refine ite_frame ?_ ?_
    | refine (State.takePeerGroups_frame π hFresh hOut hLink hPort hCqe hWc hDge hDxu hCpe hFtu hPxe hHa hSnw hSlc hEvr _ _).trans ?_
    | refine (State.endForwarded_frame π hOut hPort hCqe hWc hDge hCpe hFtu hSlc hEvr _).trans ?_
    | refine (State.startTakeover_frame π hFtu hHa _ _ _).trans ?_
    | refine pair_frame (by with_reducible assumption) ?_
    | split
    | (dsimp only)

theorem State.peerSealed_frame {α : Type} (π : State → α) (hOut : KeepsOut π) (hLink : KeepsLink π) (hPort : KeepsPort π) (hHa : KeepsHa π) (s : State) :
    π (State.peerSealed s) = π s := by
  unfold State.peerSealed
  with_reducible repeat' first
    | rfl
    | assumption
    | (intro)
    | refine ite_frame ?_ ?_
    | refine (State.raiseEpochs_frame π hOut hLink hPort hHa _ _).trans ?_
    | refine pair_frame (by with_reducible assumption) ?_
    | split
    | (dsimp only)

theorem State.peerP3_frame {α : Type} (π : State → α) (hFresh : KeepsFresh π) (hWc : KeepsWc π) (hHa : KeepsHa π) (hEvr : KeepsEvr π) (s : State) (mailbox : Bool) (on : Bool) :
    π (State.peerP3 s mailbox on) = π s := by
  unfold State.peerP3
  with_reducible repeat' first
    | rfl
    | assumption
    | (intro)
    | refine ite_frame ?_ ?_
    | refine (hHa _ _).trans ?_
    | refine (State.freshen_frame π hFresh _).trans ?_
    | refine (State.setMirror_frame π hWc hEvr _ _ _).trans ?_
    | refine pair_frame (by with_reducible assumption) ?_
    | split
    | (dsimp only)

theorem State.peerReports_frame {α : Type} (π : State → α) (hFresh : KeepsFresh π) (hOut : KeepsOut π) (hLink : KeepsLink π) (hPort : KeepsPort π) (hCqe : KeepsCqe π) (hWc : KeepsWc π) (hDge : KeepsDge π) (hDxu : KeepsDxu π) (hCpe : KeepsCpe π) (hFtu : KeepsFtu π) (hPxe : KeepsPxe π) (hHa : KeepsHa π) (hSnw : KeepsSnw π) (hSlc : KeepsSlc π) (hEvr : KeepsEvr π) (s : State) (mailbox : Bool) (role : Nat) (pstate : Nat) (flags : Nat) (cepoch : Nat) :
    π (State.peerReports s mailbox role pstate flags cepoch) = π s := by
  unfold State.peerReports
  with_reducible repeat' first
    | rfl
    | assumption
    | (intro)
    | refine ite_frame ?_ ?_
    | refine (hHa _ _).trans ?_
    | refine (State.peerP3_frame π hFresh hWc hHa hEvr _ _ _).trans ?_
    | refine (State.peerNotice_frame π hCqe _ _ _ _ _).trans ?_
    | refine (State.peerFoundHeld_frame π hOut hLink hPort hCqe hWc hDge hCpe hFtu hHa hSlc hEvr _).trans ?_
    | refine (State.peerVaults_frame π hFresh hOut hLink hPort hCqe hWc hDge hDxu hCpe hFtu hPxe hHa hSnw hSlc hEvr _).trans ?_
    | refine (State.peerSealed_frame π hOut hLink hPort hHa _).trans ?_
    | refine pair_frame (by with_reducible assumption) ?_
    | split
    | (dsimp only)

theorem State.judgeYield_frame {α : Type} (π : State → α) (hOut : KeepsOut π) (hLink : KeepsLink π) (hPort : KeepsPort π) (hCqe : KeepsCqe π) (hWc : KeepsWc π) (hDge : KeepsDge π) (hCpe : KeepsCpe π) (hFtu : KeepsFtu π) (hHa : KeepsHa π) (hSlc : KeepsSlc π) (hRcc : KeepsRcc π) (hEvr : KeepsEvr π) (hWarm : KeepsWarm π) (s : State) (old : Nat) :
    π (State.judgeYield s old) = π s := by
  unfold State.judgeYield
  with_reducible repeat' first
    | rfl
    | assumption
    | (intro)
    | refine ite_frame ?_ ?_
    | refine (State.raiseEpochs_frame π hOut hLink hPort hHa _ _).trans ?_
    | refine (State.endForwarded_frame π hOut hPort hCqe hWc hDge hCpe hFtu hSlc hEvr _).trans ?_
    | refine (State.startTakeover_frame π hFtu hHa _ _ _).trans ?_
    | refine (State.event_frame π hEvr _ _ _ _ _ _ _).trans ?_
    | refine (State.yieldNow_frame π hOut hLink hPort hCqe hWc hDge hCpe hFtu hHa hSlc hRcc hEvr hWarm _).trans ?_
    | refine pair_frame (by with_reducible assumption) ?_
    | split
    | (dsimp only)

theorem State.judgeFw_frame {α : Type} (π : State → α) (hFresh : KeepsFresh π) (hOut : KeepsOut π) (hLink : KeepsLink π) (hPort : KeepsPort π) (hCqe : KeepsCqe π) (hWc : KeepsWc π) (hDge : KeepsDge π) (hDxu : KeepsDxu π) (hCpe : KeepsCpe π) (hFtu : KeepsFtu π) (hHa : KeepsHa π) (hSlc : KeepsSlc π) (hEvr : KeepsEvr π) (s : State) :
    π (State.judgeFw s) = π s := by
  unfold State.judgeFw
  with_reducible repeat' first
    | rfl
    | assumption
    | (intro)
    | refine ite_frame ?_ ?_
    | refine (hHa _ _).trans ?_
    | refine (State.disagreement_frame π hFresh hEvr _ _ _ _).trans ?_
    | refine (State.goHeld_frame π hOut hLink hPort hCqe hWc hDge hDxu hCpe hFtu hHa hSlc hEvr _ _).trans ?_
    | refine pair_frame (by with_reducible assumption) ?_
    | split
    | (dsimp only)

theorem State.learnOwners_frame {α : Type} (π : State → α) (hHa : KeepsHa π) (s : State) :
    π (State.learnOwners s) = π s := by
  unfold State.learnOwners
  with_reducible repeat' first
    | rfl
    | assumption
    | (intro)
    | refine ite_frame ?_ ?_
    | refine (State.modLease_frame π hHa _ _ _).trans ?_
    | refine (foldl_frame π _ ?_ _ _).trans ?_
    | refine (foldl_frame2 π _ ?_ _ _).trans ?_
    | refine pair_frame (by with_reducible assumption) ?_
    | split
    | (dsimp only)

theorem execMboxResponse_frame {α : Type} (π : State → α) (hFresh : KeepsFresh π) (hOut : KeepsOut π) (hLink : KeepsLink π) (hPort : KeepsPort π) (hCqe : KeepsCqe π) (hDsc : KeepsDsc π) (hWc : KeepsWc π) (hDge : KeepsDge π) (hDxu : KeepsDxu π) (hCpe : KeepsCpe π) (hFtu : KeepsFtu π) (hPxe : KeepsPxe π) (hPxeAll : KeepsPxeAll π) (hHa : KeepsHa π) (hSnw : KeepsSnw π) (hGov : KeepsGov π) (hSlc : KeepsSlc π) (hRcc : KeepsRcc π) (hEvr : KeepsEvr π) (hGlb : KeepsGlb π) (hWarm : KeepsWarm π) (pos : Fin 96) (tag : Word) (status : BitVec 16) (hdrOk : Bool) (slot : MboxSlot) (s : State) :
    ∃ s', execMboxResponse pos tag status hdrOk slot s = .next s' ∧ π s' = π s := by
  unfold execMboxResponse
  with_reducible repeat' first
    | rfl
    | assumption
    | (intro)
    | refine ite_frame ?_ ?_
    | refine (State.mediaAnswer_frame π hFresh hOut hLink hPort hCqe hDsc hWc hDxu hFtu hPxe hPxeAll hGov hEvr hGlb _ _ _ _ _ _ _ _ ?_ ?_).trans ?_
    | refine (hHa _ _).trans ?_
    | refine (State.pathFresh_frame π hCqe hHa hEvr _ _).trans ?_
    | refine (State.learnOwners_frame π hHa _).trans ?_
    | refine (State.judgeYield_frame π hOut hLink hPort hCqe hWc hDge hCpe hFtu hHa hSlc hRcc hEvr hWarm _ _).trans ?_
    | refine (State.judgeFw_frame π hFresh hOut hLink hPort hCqe hWc hDge hDxu hCpe hFtu hHa hSlc hEvr _).trans ?_
    | refine (State.peerReports_frame π hFresh hOut hLink hPort hCqe hWc hDge hDxu hCpe hFtu hPxe hHa hSnw hSlc hEvr _ _ _ _ _ _).trans ?_
    | refine ⟨_, rfl, ?_⟩
    | refine pair_frame (by with_reducible assumption) ?_
    | split
    | (dsimp only)

theorem execYieldTimer_frame {α : Type} (π : State → α) (hDt : KeepsDt π) (hOut : KeepsOut π) (hLink : KeepsLink π) (hPort : KeepsPort π) (hCqe : KeepsCqe π) (hWc : KeepsWc π) (hDge : KeepsDge π) (hCpe : KeepsCpe π) (hFtu : KeepsFtu π) (hHa : KeepsHa π) (hSlc : KeepsSlc π) (hRcc : KeepsRcc π) (hEvr : KeepsEvr π) (hWarm : KeepsWarm π) (s : State) :
    ∃ s', execYieldTimer s = .next s' ∧ π s' = π s := by
  unfold execYieldTimer
  with_reducible repeat' first
    | rfl
    | assumption
    | (intro)
    | refine ite_frame ?_ ?_
    | refine (State.judgeYield_frame π hOut hLink hPort hCqe hWc hDge hCpe hFtu hHa hSlc hRcc hEvr hWarm _ _).trans ?_
    | refine (hHa _ _).trans ?_
    | refine (State.advanceTo_frame π hDt _ _).trans ?_
    | refine ⟨_, rfl, ?_⟩
    | refine pair_frame (by with_reducible assumption) ?_
    | split
    | (dsimp only)

end Sys2Proof.Machine
end

