-- ==== Sys2Proof/Laws/FrameRecords.lean ====
section
/-! SUPPORT. What the definitions of Machine/Records.lean leave alone: a view of the state that no block they write can change reads
the same after them. -/

set_option linter.unusedSimpArgs false

namespace Sys2Proof.Machine

open Sys2Proof

theorem execMirrorAck_frame {α : Type} (π : State → α) (hFresh : KeepsFresh π) (hOut : KeepsOut π) (hLink : KeepsLink π) (hPort : KeepsPort π) (hCqe : KeepsCqe π) (hDsc : KeepsDsc π) (hWc : KeepsWc π) (hDge : KeepsDge π) (hDxu : KeepsDxu π) (hCpe : KeepsCpe π) (hFtu : KeepsFtu π) (hPxe : KeepsPxe π) (hSnap : KeepsSnap π) (hHa : KeepsHa π) (hSlc : KeepsSlc π) (hEvr : KeepsEvr π) (h : RecHdr) (frame : Nat) (gen : Nat) (mask : BitVec 8) (s : State) :
    ∃ s', execMirrorAck h frame gen mask s = .next s' ∧ π s' = π s := by
  unfold execMirrorAck
  with_reducible repeat' first
    | rfl
    | assumption
    | (intro)
    | refine ite_frame ?_ ?_
    | refine (State.peerRecord_frame π hPort hEvr _ _ _ _ ?_).trans ?_
    | refine (State.peerViolation_frame π hPort hEvr _ _ _).trans ?_
    | refine (State.runJobs_frame π hFresh hOut hLink hPort hCqe hDsc hWc hDge hDxu hCpe hFtu hPxe hSnap hSlc hEvr _).trans ?_
    | refine (State.pokeCaws_frame π hOut hPort hCqe hWc hDge hCpe hFtu hSlc hEvr _).trans ?_
    | refine (State.pokeResync_frame π hOut hLink hPort hCqe hWc hDge hDxu hCpe hFtu hHa hSlc hEvr _).trans ?_
    | refine (State.mirrorAcked_frame π hOut hPort hCqe hWc hDge hCpe hFtu hSlc hEvr _ _ _).trans ?_
    | refine ⟨_, rfl, ?_⟩
    | refine pair_frame (by with_reducible assumption) ?_
    | split
    | (dsimp only)

theorem execMirrorMeta_frame {α : Type} (π : State → α) (hOut : KeepsOut π) (hPort : KeepsPort π) (hCqe : KeepsCqe π) (hWc : KeepsWc π) (hEvr : KeepsEvr π) (h : RecHdr) (frame : Nat) (gen : Nat) (cid : BitVec 16) (qp : BitVec 16) (cepoch : Nat) (mask : BitVec 8) (s : State) :
    ∃ s', execMirrorMeta h frame gen cid qp cepoch mask s = .next s' ∧ π s' = π s := by
  unfold execMirrorMeta
  with_reducible repeat' first
    | rfl
    | assumption
    | (intro)
    | refine (State.peerRecord_frame π hPort hEvr _ _ _ _ ?_).trans ?_
    | refine (State.mirrorMetaIn_frame π hOut hPort hCqe hWc _ _ _ _ _ _ _).trans ?_
    | refine ⟨_, rfl, ?_⟩
    | refine pair_frame (by with_reducible assumption) ?_
    | split
    | (dsimp only)

theorem execRelease_frame {α : Type} (π : State → α) (hPort : KeepsPort π) (hWc : KeepsWc π) (hEvr : KeepsEvr π) (h : RecHdr) (frame : Nat) (gen : Nat) (s : State) :
    ∃ s', execRelease h frame gen s = .next s' ∧ π s' = π s := by
  unfold execRelease
  with_reducible repeat' first
    | rfl
    | assumption
    | (intro)
    | refine ite_frame ?_ ?_
    | refine (State.peerRecord_frame π hPort hEvr _ _ _ _ ?_).trans ?_
    | refine (State.releaseMirror_frame π hWc _ _ _).trans ?_
    | refine (State.peerViolation_frame π hPort hEvr _ _ _).trans ?_
    | refine ⟨_, rfl, ?_⟩
    | refine pair_frame (by with_reducible assumption) ?_
    | split
    | (dsimp only)

theorem execDiscard_frame {α : Type} (π : State → α) (hOut : KeepsOut π) (hPort : KeepsPort π) (hWc : KeepsWc π) (hEvr : KeepsEvr π) (h : RecHdr) (frame : Nat) (gen : Nat) (s : State) :
    ∃ s', execDiscard h frame gen s = .next s' ∧ π s' = π s := by
  unfold execDiscard
  with_reducible repeat' first
    | rfl
    | assumption
    | (intro)
    | refine ite_frame ?_ ?_
    | refine (State.peerRecord_frame π hPort hEvr _ _ _ _ ?_).trans ?_
    | refine (State.toPeer_frame π hOut hPort _ _).trans ?_
    | refine (hWc _ _).trans ?_
    | refine (State.peerViolation_frame π hPort hEvr _ _ _).trans ?_
    | refine ⟨_, rfl, ?_⟩
    | refine pair_frame (by with_reducible assumption) ?_
    | split
    | (dsimp only)

theorem execDiscardAck_frame {α : Type} (π : State → α) (hOut : KeepsOut π) (hPort : KeepsPort π) (hCqe : KeepsCqe π) (hWc : KeepsWc π) (hDge : KeepsDge π) (hCpe : KeepsCpe π) (hFtu : KeepsFtu π) (hSlc : KeepsSlc π) (hEvr : KeepsEvr π) (h : RecHdr) (frame : Nat) (gen : Nat) (s : State) :
    ∃ s', execDiscardAck h frame gen s = .next s' ∧ π s' = π s := by
  unfold execDiscardAck
  with_reducible repeat' first
    | rfl
    | assumption
    | (intro)
    | refine (State.peerRecord_frame π hPort hEvr _ _ _ _ ?_).trans ?_
    | refine (State.pokeCaws_frame π hOut hPort hCqe hWc hDge hCpe hFtu hSlc hEvr _).trans ?_
    | refine (State.discardAcked_frame π hOut hPort hCqe hDge hCpe hFtu hSlc hEvr _ _ _).trans ?_
    | refine ⟨_, rfl, ?_⟩
    | refine pair_frame (by with_reducible assumption) ?_
    | split
    | (dsimp only)

theorem execFilterSlot_frame {α : Type} (π : State → α) (hPort : KeepsPort π) (hCqe : KeepsCqe π) (hDxu : KeepsDxu π) (hEvr : KeepsEvr π) (h : RecHdr) (domain : Nat) (bucket : Nat) (slot : Nat) (tag : BitVec 16) (kind : Byte) (iseq : Nat) (s : State) :
    ∃ s', execFilterSlot h domain bucket slot tag kind iseq s = .next s' ∧ π s' = π s := by
  unfold execFilterSlot
  with_reducible repeat' first
    | rfl
    | assumption
    | (intro)
    | refine (State.peerRecord_frame π hPort hEvr _ _ _ _ ?_).trans ?_
    | refine (State.applySlot_frame π hCqe hDxu hEvr _ _ _ _ _ _).trans ?_
    | refine ⟨_, rfl, ?_⟩
    | refine pair_frame (by with_reducible assumption) ?_
    | split
    | (dsimp only)

theorem execDrbSet_frame {α : Type} (π : State → α) (hOut : KeepsOut π) (hPort : KeepsPort π) (hPxe : KeepsPxe π) (hEvr : KeepsEvr π) (h : RecHdr) (pool : Nat) (slot : Nat) (region : Nat) (segSeq : Nat) (rseq : Nat) (s : State) :
    ∃ s', execDrbSet h pool slot region segSeq rseq s = .next s' ∧ π s' = π s := by
  unfold execDrbSet
  with_reducible repeat' first
    | rfl
    | assumption
    | (intro)
    | refine ite_frame ?_ ?_
    | refine (State.peerRecord_frame π hPort hEvr _ _ _ _ ?_).trans ?_
    | refine (State.toPeer_frame π hOut hPort _ _).trans ?_
    | refine (hPxe _ _ ?_).trans ?_
    | refine ⟨_, rfl, ?_⟩
    | refine pair_frame (by with_reducible assumption) ?_
    | split
    | (dsimp only)

theorem execDrbAck_frame {α : Type} (π : State → α) (hPort : KeepsPort π) (hPxe : KeepsPxe π) (hEvr : KeepsEvr π) (h : RecHdr) (pool : Nat) (rseq : Nat) (s : State) :
    ∃ s', execDrbAck h pool rseq s = .next s' ∧ π s' = π s := by
  unfold execDrbAck
  with_reducible repeat' first
    | rfl
    | assumption
    | (intro)
    | refine ite_frame ?_ ?_
    | refine (State.peerRecord_frame π hPort hEvr _ _ _ _ ?_).trans ?_
    | refine (State.peerViolation_frame π hPort hEvr _ _ _).trans ?_
    | refine (hPxe _ _ ?_).trans ?_
    | refine ⟨_, rfl, ?_⟩
    | refine pair_frame (by with_reducible assumption) ?_
    | split
    | (dsimp only)

theorem State.takeBatch_frame {α : Type} (π : State → α) (hOut : KeepsOut π) (hLink : KeepsLink π) (hPort : KeepsPort π) (hHa : KeepsHa π) (s : State) (groups : List Nat) :
    π (State.takeBatch s groups) = π s := by
  unfold State.takeBatch
  with_reducible repeat' first
    | rfl
    | assumption
    | (intro)
    | refine ite_frame ?_ ?_
    | refine (State.takeLease_frame π hOut hLink hPort hHa _ _).trans ?_
    | refine (foldl_frame π _ ?_ _ _).trans ?_
    | refine (foldl_frame2 π _ ?_ _ _).trans ?_
    | refine pair_frame (by with_reducible assumption) ?_
    | split
    | (dsimp only)

theorem execLeaseNote_frame {α : Type} (π : State → α) (hOut : KeepsOut π) (hLink : KeepsLink π) (hPort : KeepsPort π) (hHa : KeepsHa π) (hEvr : KeepsEvr π) (h : RecHdr) (first : Nat) (count : Nat) (action : Byte) (epoch : Nat) (s : State) :
    ∃ s', execLeaseNote h first count action epoch s = .next s' ∧ π s' = π s := by
  unfold execLeaseNote
  with_reducible repeat' first
    | rfl
    | assumption
    | (intro)
    | refine ite_frame ?_ ?_
    | refine (State.peerRecord_frame π hPort hEvr _ _ _ _ ?_).trans ?_
    | refine (State.modLease_frame π hHa _ _ _).trans ?_
    | refine (State.takeBatch_frame π hOut hLink hPort hHa _ _).trans ?_
    | refine (State.takeLease_frame π hOut hLink hPort hHa _ _).trans ?_
    | refine (hHa _ _).trans ?_
    | refine (State.readLease_frame π hOut hLink hPort _ _ _).trans ?_
    | refine (foldl_frame π _ ?_ _ _).trans ?_
    | refine (foldl_frame2 π _ ?_ _ _).trans ?_
    | refine ⟨_, rfl, ?_⟩
    | refine pair_frame (by with_reducible assumption) ?_
    | split
    | (dsimp only)

theorem execPartitionRefilled_frame {α : Type} (π : State → α) (hFresh : KeepsFresh π) (hOut : KeepsOut π) (hLink : KeepsLink π) (hPort : KeepsPort π) (hCqe : KeepsCqe π) (hDxu : KeepsDxu π) (hHa : KeepsHa π) (hEvr : KeepsEvr π) (domain : Nat) (entries : Nat) (s : State) :
    ∃ s', execPartitionRefilled domain entries s = .next s' ∧ π s' = π s := by
  unfold execPartitionRefilled
  with_reducible repeat' first
    | rfl
    | assumption
    | (intro)
    | refine ite_frame ?_ ?_
    | refine ite_frame2 ?_ ?_
    | refine (State.modDomain_frame π hDxu _ _ _).trans ?_
    | refine (hFresh _ _).trans ?_
    | refine (State.setDomain_frame π hCqe hDxu hEvr _ _ _ _).trans ?_
    | refine (State.event_frame π hEvr _ _ _ _ _ _ _).trans ?_
    | refine (State.takeBatch_frame π hOut hLink hPort hHa _ _).trans ?_
    | refine ⟨_, rfl, ?_⟩
    | refine pair_frame (by with_reducible assumption) ?_
    | split
    | (dsimp only)

theorem execPeerReserve_frame {α : Type} (π : State → α) (hOut : KeepsOut π) (hPort : KeepsPort π) (hDsc : KeepsDsc π) (hEvr : KeepsEvr π) (h : RecHdr) (tag : Word) (die : Nat) (units : Nat) (earliestOff : Nat) (latestOff : Nat) (s : State) :
    ∃ s', execPeerReserve h tag die units earliestOff latestOff s = .next s' ∧ π s' = π s := by
  unfold execPeerReserve
  with_reducible repeat' first
    | rfl
    | assumption
    | (intro)
    | refine ite_frame ?_ ?_
    | refine (State.peerRecord_frame π hPort hEvr _ _ _ _ ?_).trans ?_
    | refine (State.toPeer_frame π hOut hPort _ _).trans ?_
    | refine (State.peerViolation_frame π hPort hEvr _ _ _).trans ?_
    | refine (hDsc _ _).trans ?_
    | refine ⟨_, rfl, ?_⟩
    | refine pair_frame (by with_reducible assumption) ?_
    | split
    | (dsimp only)

theorem State.askAnswered_frame {α : Type} (π : State → α) (hFresh : KeepsFresh π) (hOut : KeepsOut π) (hLink : KeepsLink π) (hPort : KeepsPort π) (hCqe : KeepsCqe π) (hDsc : KeepsDsc π) (hWc : KeepsWc π) (hDge : KeepsDge π) (hDxu : KeepsDxu π) (hCpe : KeepsCpe π) (hFtu : KeepsFtu π) (hPxe : KeepsPxe π) (hSnap : KeepsSnap π) (hSlc : KeepsSlc π) (hEvr : KeepsEvr π) (s : State) (tag : Nat) (grant : Option (Nat × Nat)) :
    π (State.askAnswered s tag grant) = π s := by
  unfold State.askAnswered
  with_reducible repeat' first
    | rfl
    | assumption
    | (intro)
    | refine ite_frame ?_ ?_
    | refine (hDsc _ _).trans ?_
    | refine (State.decideCmd_frame π hFresh hOut hLink hPort hCqe hDsc hWc hDge hDxu hCpe hFtu hPxe hSnap hSlc hEvr _ _).trans ?_
    | refine pair_frame (by with_reducible assumption) ?_
    | split
    | (dsimp only)

theorem execPeerGrant_frame {α : Type} (π : State → α) (hFresh : KeepsFresh π) (hOut : KeepsOut π) (hLink : KeepsLink π) (hPort : KeepsPort π) (hCqe : KeepsCqe π) (hDsc : KeepsDsc π) (hWc : KeepsWc π) (hDge : KeepsDge π) (hDxu : KeepsDxu π) (hCpe : KeepsCpe π) (hFtu : KeepsFtu π) (hPxe : KeepsPxe π) (hSnap : KeepsSnap π) (hSlc : KeepsSlc π) (hEvr : KeepsEvr π) (h : RecHdr) (tag : Word) (start : BitVec 64) (len100 : Nat) (s : State) :
    ∃ s', execPeerGrant h tag start len100 s = .next s' ∧ π s' = π s := by
  unfold execPeerGrant
  with_reducible repeat' first
    | rfl
    | assumption
    | (intro)
    | refine ite_frame ?_ ?_
    | refine (State.peerRecord_frame π hPort hEvr _ _ _ _ ?_).trans ?_
    | refine (State.askAnswered_frame π hFresh hOut hLink hPort hCqe hDsc hWc hDge hDxu hCpe hFtu hPxe hSnap hSlc hEvr _ _ _).trans ?_
    | refine ⟨_, rfl, ?_⟩
    | refine pair_frame (by with_reducible assumption) ?_
    | split
    | (dsimp only)

theorem execPeerGrantTimeout_frame {α : Type} (π : State → α) (hDt : KeepsDt π) (hFresh : KeepsFresh π) (hOut : KeepsOut π) (hLink : KeepsLink π) (hPort : KeepsPort π) (hCqe : KeepsCqe π) (hDsc : KeepsDsc π) (hWc : KeepsWc π) (hDge : KeepsDge π) (hDxu : KeepsDxu π) (hCpe : KeepsCpe π) (hFtu : KeepsFtu π) (hPxe : KeepsPxe π) (hSnap : KeepsSnap π) (hSlc : KeepsSlc π) (hEvr : KeepsEvr π) (tag : Word) (s : State) :
    ∃ s', execPeerGrantTimeout tag s = .next s' ∧ π s' = π s := by
  unfold execPeerGrantTimeout
  with_reducible repeat' first
    | rfl
    | assumption
    | (intro)
    | refine ite_frame ?_ ?_
    | refine (State.askAnswered_frame π hFresh hOut hLink hPort hCqe hDsc hWc hDge hDxu hCpe hFtu hPxe hSnap hSlc hEvr _ _ _).trans ?_
    | refine (State.advanceTo_frame π hDt _ _).trans ?_
    | refine ⟨_, rfl, ?_⟩
    | refine pair_frame (by with_reducible assumption) ?_
    | split
    | (dsimp only)

theorem execReplayDone_frame {α : Type} (π : State → α) (hPort : KeepsPort π) (hWc : KeepsWc π) (hEvr : KeepsEvr π) (h : RecHdr) (vseq : Nat) (s : State) :
    ∃ s', execReplayDone h vseq s = .next s' ∧ π s' = π s := by
  unfold execReplayDone
  with_reducible repeat' first
    | rfl
    | assumption
    | (intro)
    | refine ite_frame ?_ ?_
    | refine (State.peerRecord_frame π hPort hEvr _ _ _ _ ?_).trans ?_
    | refine (hWc _ _).trans ?_
    | refine ⟨_, rfl, ?_⟩
    | refine pair_frame (by with_reducible assumption) ?_
    | split
    | (dsimp only)

theorem execResyncDone_frame {α : Type} (π : State → α) (hPort : KeepsPort π) (hWc : KeepsWc π) (hEvr : KeepsEvr π) (h : RecHdr) (frames : Nat) (s : State) :
    ∃ s', execResyncDone h frames s = .next s' ∧ π s' = π s := by
  unfold execResyncDone
  with_reducible repeat' first
    | rfl
    | assumption
    | (intro)
    | refine ite_frame ?_ ?_
    | refine (State.peerRecord_frame π hPort hEvr _ _ _ _ ?_).trans ?_
    | refine (State.setMirror_frame π hWc hEvr _ _ _).trans ?_
    | refine ⟨_, rfl, ?_⟩
    | refine pair_frame (by with_reducible assumption) ?_
    | split
    | (dsimp only)

theorem execPeerPortViolationLimit_frame {α : Type} (π : State → α) (hFresh : KeepsFresh π) (hOut : KeepsOut π) (hLink : KeepsLink π) (hPort : KeepsPort π) (hLane : KeepsLane π) (hCqe : KeepsCqe π) (hSess : KeepsSess π) (hDsc : KeepsDsc π) (hWc : KeepsWc π) (hFtu : KeepsFtu π) (hPxe : KeepsPxe π) (hPxeAll : KeepsPxeAll π) (hGov : KeepsGov π) (hCfg : KeepsCfg π) (hEvr : KeepsEvr π) (hGlb : KeepsGlb π) (s : State) :
    ∃ s', execPeerPortViolationLimit s = .next s' ∧ π s' = π s := by
  unfold execPeerPortViolationLimit
  with_reducible repeat' first
    | rfl
    | assumption
    | (intro)
    | refine ite_frame ?_ ?_
    | refine (hPort _ _ _).trans ?_
    | refine (hLane _ _ _).trans ?_
    | refine (State.setLane_frame π hFresh hOut hLink hPort hLane hCqe hSess hDsc hWc hFtu hPxe hPxeAll hGov hCfg hEvr hGlb _ _ _ _).trans ?_
    | refine (foldl_frame π _ ?_ _ _).trans ?_
    | refine (foldl_frame2 π _ ?_ _ _).trans ?_
    | refine ⟨_, rfl, ?_⟩
    | refine pair_frame (by with_reducible assumption) ?_
    | split
    | (dsimp only)

end Sys2Proof.Machine
end

