-- ==== Sys2Proof/Laws/FrameDeclare.lean ====
section
/-! SUPPORT. What the definitions of Machine/Declare.lean leave alone: a view of the state that no block they write can change reads
the same after them. -/

set_option linter.unusedSimpArgs false

namespace Sys2Proof.Machine

open Sys2Proof

theorem State.withModules_frame {α : Type} (π : State → α) (hFtu : KeepsFtu π) (hCfgAll : KeepsCfgAll π) (s : State) (new : Cfg) :
    π (State.withModules s new) = π s := by
  unfold State.withModules
  with_reducible repeat' first
    | rfl
    | assumption
    | (intro)
    | refine ite_frame ?_ ?_
    | refine ite_frame2 ?_ ?_
    | refine (hFtu _ _).trans ?_
    | refine (hCfgAll _ _).trans ?_
    | refine (foldl_frame π _ ?_ _ _).trans ?_
    | refine (foldl_frame2 π _ ?_ _ _).trans ?_
    | refine pair_frame (by with_reducible assumption) ?_
    | split
    | (dsimp only)

end Sys2Proof.Machine
end

