-- ==== Sys2Proof/Laws/FrameHorizon.lean ====
section
/-! SUPPORT. What the definitions of Machine/Horizon.lean leave alone: a view of the state that no block they write can change reads
the same after them. -/

set_option linter.unusedSimpArgs false

namespace Sys2Proof.Machine

open Sys2Proof

theorem State.enterFrame_frame {α : Type} (π : State → α) (hDsc : KeepsDsc π) (hPxe : KeepsPxe π) (hGov : KeepsGov π) (s : State) (e : Nat) :
    π (State.enterFrame s e) = π s := by
  unfold State.enterFrame
  with_reducible repeat' first
    | rfl
    | assumption
    | (intro)
    | refine ite_frame ?_ ?_
    | refine (hDsc _ _).trans ?_
    | refine (hGov _ _).trans ?_
    | refine (hPxe _ _ ?_).trans ?_
    | refine pair_frame (by with_reducible assumption) ?_
    | split
    | (dsimp only)

theorem State.replaceCells_frame {α : Type} (π : State → α) (hDsc : KeepsDsc π) (hGov : KeepsGov π) (s : State) :
    π (State.replaceCells s) = π s := by
  unfold State.replaceCells
  with_reducible repeat' first
    | rfl
    | assumption
    | (intro)
    | refine ite_frame ?_ ?_
    | refine ite_frame2 ?_ ?_
    | refine (State.placeOp_frame π hDsc hGov _ _ _ _ _).trans ?_
    | refine (pair_frame (by with_reducible assumption) (State.placeOp_frame π hDsc hGov _ _ _ _ _)).trans ?_
    | refine (foldl_frame π _ ?_ _ _).trans ?_
    | refine (foldl_frame2 π _ ?_ _ _).trans ?_
    | refine pair_frame (by with_reducible assumption) ?_
    | split
    | (dsimp only)

theorem State.background_frame {α : Type} (π : State → α) (hFresh : KeepsFresh π) (hOut : KeepsOut π) (hLink : KeepsLink π) (hPort : KeepsPort π) (hCqe : KeepsCqe π) (hDsc : KeepsDsc π) (hWc : KeepsWc π) (hDge : KeepsDge π) (hDxu : KeepsDxu π) (hCpe : KeepsCpe π) (hFtu : KeepsFtu π) (hPxe : KeepsPxe π) (hSnap : KeepsSnap π) (hGov : KeepsGov π) (hSlc : KeepsSlc π) (hCfg : KeepsCfg π) (hEvr : KeepsEvr π) (hGlb : KeepsGlb π) (s : State) :
    π (State.background s) = π s := by
  unfold State.background
  with_reducible repeat' first
    | rfl
    | assumption
    | (intro)
    | refine ite_frame ?_ ?_
    | refine (State.destageNow_frame π hOut hLink hPort hDsc hWc hDxu hCpe hFtu hEvr _).trans ?_
    | refine (State.refreshPools_frame π hCqe hDsc hFtu hEvr hGlb _).trans ?_
    | refine (State.planStripe_frame π hDsc hGov _ _).trans ?_
    | refine (State.planRows_frame π hDsc hFtu hGov _).trans ?_
    | refine (State.gcHalf_frame π hOut hLink hPort hDsc hFtu hEvr _ _).trans ?_
    | refine (State.scrubNow_frame π hDsc hFtu _).trans ?_
    | refine (State.recoverNow_frame π hOut hLink hPort hCqe hDsc hDxu hFtu hPxe hEvr _).trans ?_
    | refine (State.eraseNow_frame π hCqe hDsc hFtu hGov hEvr hGlb _).trans ?_
    | refine (State.rebuildNow_frame π hOut hLink hPort hCqe hDsc hFtu hPxe hEvr _ _).trans ?_
    | refine (State.returnDies_frame π hOut hLink hPort _).trans ?_
    | refine (State.runJobs_frame π hFresh hOut hLink hPort hCqe hDsc hWc hDge hDxu hCpe hFtu hPxe hSnap hSlc hEvr _).trans ?_
    | refine (State.deleteSnaps_frame π hCqe hDxu hFtu hSnap hCfg hEvr _).trans ?_
    | refine (State.replaceCells_frame π hDsc hGov _).trans ?_
    | refine (State.retry7_frame π hFresh hOut hLink hPort hCqe hDsc hWc hDge hDxu hCpe hFtu hPxe hSnap hSlc hEvr _ _).trans ?_
    | refine (foldl_frame π _ ?_ _ _).trans ?_
    | refine (foldl_frame2 π _ ?_ _ _).trans ?_
    | refine pair_frame (by with_reducible assumption) ?_
    | split
    | (dsimp only)

theorem execFrameEntersHorizon_frame {α : Type} (π : State → α) (hDt : KeepsDt π) (hFresh : KeepsFresh π) (hOut : KeepsOut π) (hLink : KeepsLink π) (hPort : KeepsPort π) (hCqe : KeepsCqe π) (hDsc : KeepsDsc π) (hWc : KeepsWc π) (hDge : KeepsDge π) (hDxu : KeepsDxu π) (hCpe : KeepsCpe π) (hFtu : KeepsFtu π) (hPxe : KeepsPxe π) (hSnap : KeepsSnap π) (hGov : KeepsGov π) (hSlc : KeepsSlc π) (hCfg : KeepsCfg π) (hEvr : KeepsEvr π) (hGlb : KeepsGlb π) (s : State) :
    ∃ s', execFrameEntersHorizon s = .next s' ∧ π s' = π s := by
  unfold execFrameEntersHorizon
  with_reducible
    repeat' first | (rfl) | (refine ⟨_, rfl, ?_⟩) | (refine (State.background_frame π hFresh hOut hLink hPort hCqe hDsc hWc hDge hDxu hCpe hFtu hPxe hSnap hGov hSlc hCfg hEvr hGlb _).trans ?_) | (refine (State.enterFrame_frame π hDsc hPxe hGov _ _).trans ?_) | (refine (State.advanceTo_frame π hDt _ _).trans ?_)

end Sys2Proof.Machine
end

