-- ==== Sys2Proof/Laws/FrameSwitch.lean ====
section
/-! SUPPORT. What the definitions of Machine/Switch.lean leave alone: a view of the state that no block they write can change reads
the same after them. -/

set_option linter.unusedSimpArgs false

namespace Sys2Proof.Machine

open Sys2Proof

theorem State.sendHeartbeat_frame {α : Type} (π : State → α) (hOut : KeepsOut π) (hPort : KeepsPort π) (hHa : KeepsHa π) (s : State) :
    π (State.sendHeartbeat s) = π s := by
  unfold State.sendHeartbeat
  with_reducible repeat' first
    | rfl
    | assumption
    | (intro)
    | refine ite_frame ?_ ?_
    | refine (hHa _ _).trans ?_
    | refine (State.toPeer_frame π hOut hPort _ _).trans ?_
    | refine pair_frame (by with_reducible assumption) ?_
    | split
    | (dsimp only)

theorem State.extend_frame {α : Type} (π : State → α) (hRot : KeepsRot π) (s : State) (m : Nat) (d : Bytes) :
    π (State.extend s m d) = π s := by
  unfold State.extend
  with_reducible repeat' first
    | rfl
    | assumption
    | (intro)
    | refine (hRot _ _ ?_).trans ?_
    | refine pair_frame (by with_reducible assumption) ?_
    | split
    | (dsimp only)

theorem State.enterMember_frame {α : Type} (π : State → α) (hOut : KeepsOut π) (hPort : KeepsPort π) (hPxeAll : KeepsPxeAll π) (hEvr : KeepsEvr π) (s : State) (pool : Nat) (pos : Nat) :
    π (State.enterMember s pool pos) = π s := by
  unfold State.enterMember
  with_reducible repeat' first
    | rfl
    | assumption
    | (intro)
    | refine ite_frame ?_ ?_
    | refine (State.toPeer_frame π hOut hPort _ _).trans ?_
    | refine (hPxeAll _ _).trans ?_
    | refine (State.event_frame π hEvr _ _ _ _ _ _ _).trans ?_
    | refine pair_frame (by with_reducible assumption) ?_
    | split
    | (dsimp only)

theorem State.applyModules_frame {α : Type} (π : State → α) (hFresh : KeepsFresh π) (hOut : KeepsOut π) (hLink : KeepsLink π) (hPort : KeepsPort π) (hLane : KeepsLane π) (hCqe : KeepsCqe π) (hSess : KeepsSess π) (hDsc : KeepsDsc π) (hWc : KeepsWc π) (hFtu : KeepsFtu π) (hPxe : KeepsPxe π) (hPxeAll : KeepsPxeAll π) (hGov : KeepsGov π) (hCfg : KeepsCfg π) (hCfgAll : KeepsCfgAll π) (hEvr : KeepsEvr π) (hGlb : KeepsGlb π) (s : State) (old : Cfg) :
    π (State.applyModules s old) = π s := by
  unfold State.applyModules
  with_reducible repeat' first
    | rfl
    | assumption
    | (intro)
    | refine ite_frame ?_ ?_
    | refine ite_frame2 ?_ ?_
    | refine (State.withModules_frame π hFtu hCfgAll _ _).trans ?_
    | refine (hFtu _ _).trans ?_
    | refine (hPxeAll _ _).trans ?_
    | refine (State.setLane_frame π hFresh hOut hLink hPort hLane hCqe hSess hDsc hWc hFtu hPxe hPxeAll hGov hCfg hEvr hGlb _ _ _ _).trans ?_
    | refine (State.event_frame π hEvr _ _ _ _ _ _ _).trans ?_
    | refine (State.sendOwner_frame π hOut hLink hPort _ _ _).trans ?_
    | refine (State.sendEpoch_frame π hOut hLink hPort _ _ _).trans ?_
    | refine (foldl_frame π _ ?_ _ _).trans ?_
    | refine (foldl_frame2 π _ ?_ _ _).trans ?_
    | refine pair_frame (by with_reducible assumption) ?_
    | split
    | (dsimp only)

theorem State.applyPool_frame {α : Type} (π : State → α) (hFresh : KeepsFresh π) (hOut : KeepsOut π) (hLink : KeepsLink π) (hPort : KeepsPort π) (hCqe : KeepsCqe π) (hDsc : KeepsDsc π) (hFtu : KeepsFtu π) (hPxe : KeepsPxe π) (hPxeAll : KeepsPxeAll π) (hGov : KeepsGov π) (hEvr : KeepsEvr π) (hGlb : KeepsGlb π) (s : State) (old : Cfg) (p : Nat) :
    π (State.applyPool s old p) = π s := by
  unfold State.applyPool
  with_reducible repeat' first
    | rfl
    | assumption
    | (intro)
    | refine ite_frame ?_ ?_
    | refine ite_frame2 ?_ ?_
    | refine (hPxeAll _ _).trans ?_
    | refine (hFtu _ _).trans ?_
    | refine (State.enterMember_frame π hOut hPort hPxeAll hEvr _ _ _).trans ?_
    | refine (State.memberReturns_frame π hFresh hOut hLink hPort hCqe hDsc hFtu hPxe hPxeAll hGov hEvr hGlb _ _).trans ?_
    | refine (State.refreshRebuild_frame π hCqe hDsc hPxe hEvr _ _).trans ?_
    | refine (State.newGeneration_frame π hCqe hDsc hFtu hPxe hEvr hGlb _ _).trans ?_
    | refine (State.refreshPools_frame π hCqe hDsc hFtu hEvr hGlb _).trans ?_
    | refine (foldl_frame π _ ?_ _ _).trans ?_
    | refine (foldl_frame2 π _ ?_ _ _).trans ?_
    | refine pair_frame (by with_reducible assumption) ?_
    | split
    | (dsimp only)

theorem State.removePool_frame {α : Type} (π : State → α) (hFtu : KeepsFtu π) (hPxeAll : KeepsPxeAll π) (s : State) (old : Cfg) (p : Nat) :
    π (State.removePool s old p) = π s := by
  unfold State.removePool
  with_reducible
    repeat' first | (rfl) | (refine (hPxeAll _ _).trans ?_) | (refine (hFtu _ _).trans ?_)

theorem State.applyPools_frame {α : Type} (π : State → α) (hFresh : KeepsFresh π) (hOut : KeepsOut π) (hLink : KeepsLink π) (hPort : KeepsPort π) (hCqe : KeepsCqe π) (hDsc : KeepsDsc π) (hFtu : KeepsFtu π) (hPxe : KeepsPxe π) (hPxeAll : KeepsPxeAll π) (hGov : KeepsGov π) (hEvr : KeepsEvr π) (hGlb : KeepsGlb π) (s : State) (old : Cfg) :
    π (State.applyPools s old) = π s := by
  unfold State.applyPools
  with_reducible repeat' first
    | rfl
    | assumption
    | (intro)
    | refine (State.removePool_frame π hFtu hPxeAll _ _ _).trans ?_
    | refine (State.applyPool_frame π hFresh hOut hLink hPort hCqe hDsc hFtu hPxe hPxeAll hGov hEvr hGlb _ _ _).trans ?_
    | refine (foldl_frame π _ ?_ _ _).trans ?_
    | refine (foldl_frame2 π _ ?_ _ _).trans ?_
    | refine pair_frame (by with_reducible assumption) ?_
    | split
    | (dsimp only)

theorem State.applyKeys_frame {α : Type} (π : State → α) (hDge : KeepsDge π) (hRot : KeepsRot π) (hXts : KeepsXts π) (hEvr : KeepsEvr π) (s : State) :
    π (State.applyKeys s) = π s := by
  unfold State.applyKeys
  with_reducible repeat' first
    | rfl
    | assumption
    | (intro)
    | refine ite_frame ?_ ?_
    | refine ite_frame2 ?_ ?_
    | refine (hXts _ _).trans ?_
    | refine (hDge _ _).trans ?_
    | refine (hRot _ _ ?_).trans ?_
    | refine (State.event_frame π hEvr _ _ _ _ _ _ _).trans ?_
    | refine pair_frame (by with_reducible assumption) ?_
    | split
    | (dsimp only)

theorem State.applyDicts_frame {α : Type} (π : State → α) (hCpe : KeepsCpe π) (s : State) :
    π (State.applyDicts s) = π s := by
  unfold State.applyDicts
  with_reducible repeat' first
    | rfl
    | assumption
    | (intro)
    | refine ite_frame ?_ ?_
    | refine (hCpe _ _).trans ?_
    | refine pair_frame (by with_reducible assumption) ?_
    | split
    | (dsimp only)

theorem State.applyDomains_frame {α : Type} (π : State → α) (hCqe : KeepsCqe π) (hDxu : KeepsDxu π) (hEvr : KeepsEvr π) (s : State) (old : Cfg) :
    π (State.applyDomains s old) = π s := by
  unfold State.applyDomains
  with_reducible repeat' first
    | rfl
    | assumption
    | (intro)
    | refine ite_frame ?_ ?_
    | refine (hDxu _ _).trans ?_
    | refine (State.setDomain_frame π hCqe hDxu hEvr _ _ _ _).trans ?_
    | refine (State.modDomain_frame π hDxu _ _ _).trans ?_
    | refine (State.event_frame π hEvr _ _ _ _ _ _ _).trans ?_
    | refine (foldl_frame π _ ?_ _ _).trans ?_
    | refine (foldl_frame2 π _ ?_ _ _).trans ?_
    | refine pair_frame (by with_reducible assumption) ?_
    | split
    | (dsimp only)

theorem State.volumeNotice_frame {α : Type} (π : State → α) (hCqe : KeepsCqe π) (s : State) (v : Nat) (old : VolSt) (new : VolSt) :
    π (State.volumeNotice s v old new) = π s := by
  unfold State.volumeNotice
  with_reducible
    repeat' first | (rfl) | (refine (State.notifyGranted_frame π hCqe _ _ _ _).trans ?_)

theorem State.refreshVolumes_frame {α : Type} (π : State → α) (hCqe : KeepsCqe π) (hCfg : KeepsCfg π) (s : State) :
    π (State.refreshVolumes s) = π s := by
  unfold State.refreshVolumes
  with_reducible repeat' first
    | rfl
    | assumption
    | (intro)
    | refine ite_frame ?_ ?_
    | refine (State.volumeNotice_frame π hCqe _ _ _ _).trans ?_
    | refine (hCfg _ _ ?_).trans ?_
    | refine (foldl_frame π _ ?_ _ _).trans ?_
    | refine (foldl_frame2 π _ ?_ _ _).trans ?_
    | refine pair_frame (by with_reducible assumption) ?_
    | split
    | (dsimp only)

theorem State.deleteSnap_frame {α : Type} (π : State → α) (hCqe : KeepsCqe π) (hSnap : KeepsSnap π) (hEvr : KeepsEvr π) (s : State) (new : Cfg) (vol : Nat) (id : Nat) :
    π (State.deleteSnap s new vol id) = π s := by
  unfold State.deleteSnap
  with_reducible repeat' first
    | rfl
    | assumption
    | (intro)
    | refine ite_frame ?_ ?_
    | refine (State.setSnap_frame π hCqe hSnap hEvr _ _ _ _).trans ?_
    | refine pair_frame (by with_reducible assumption) ?_
    | split
    | (dsimp only)

theorem State.takeAway_frame {α : Type} (π : State → α) (hOut : KeepsOut π) (hPort : KeepsPort π) (hCqe : KeepsCqe π) (hWc : KeepsWc π) (hFtu : KeepsFtu π) (hSnap : KeepsSnap π) (hCfg : KeepsCfg π) (hEvr : KeepsEvr π) (s : State) (old : Cfg) (new : Cfg) :
    π (State.takeAway s old new) = π s := by
  unfold State.takeAway
  with_reducible repeat' first
    | rfl
    | assumption
    | (intro)
    | refine (State.deleteSnap_frame π hCqe hSnap hEvr _ _ _ _).trans ?_
    | refine (State.volumeNotice_frame π hCqe _ _ _ _).trans ?_
    | refine (hCfg _ _ ?_).trans ?_
    | refine (State.releaseFrame_frame π hOut hPort hWc hFtu _ _).trans ?_
    | refine (hFtu _ _).trans ?_
    | refine (foldl_frame π _ ?_ _ _).trans ?_
    | refine (foldl_frame2 π _ ?_ _ _).trans ?_
    | refine pair_frame (by with_reducible assumption) ?_
    | split
    | (dsimp only)

theorem State.newVolumes_frame {α : Type} (π : State → α) (hSnap : KeepsSnap π) (hEvr : KeepsEvr π) (s : State) :
    π (State.newVolumes s) = π s := by
  unfold State.newVolumes
  with_reducible repeat' first
    | rfl
    | assumption
    | (intro)
    | refine ite_frame ?_ ?_
    | refine (hSnap _ _).trans ?_
    | refine (State.event_frame π hEvr _ _ _ _ _ _ _).trans ?_
    | refine (foldl_frame π _ ?_ _ _).trans ?_
    | refine (foldl_frame2 π _ ?_ _ _).trans ?_
    | refine pair_frame (by with_reducible assumption) ?_
    | split
    | (dsimp only)

theorem State.takeSnaps_frame {α : Type} (π : State → α) (hFresh : KeepsFresh π) (hCqe : KeepsCqe π) (hSnap : KeepsSnap π) (hEvr : KeepsEvr π) (s : State) (news : List (Nat × Nat)) :
    π (State.takeSnaps s news) = π s := by
  unfold State.takeSnaps
  with_reducible repeat' first
    | rfl
    | assumption
    | (intro)
    | refine ite_frame ?_ ?_
    | refine (hSnap _ _).trans ?_
    | refine (State.freshen_frame π hFresh _).trans ?_
    | refine (State.event_frame π hEvr _ _ _ _ _ _ _).trans ?_
    | refine (State.snapNotice_frame π hCqe _ _ _ _ _ _ _ _).trans ?_
    | refine (foldl_frame π _ ?_ _ _).trans ?_
    | refine (foldl_frame2 π _ ?_ _ _).trans ?_
    | refine pair_frame (by with_reducible assumption) ?_
    | split
    | (dsimp only)

theorem State.removeJob_frame {α : Type} (π : State → α) (hOut : KeepsOut π) (hPort : KeepsPort π) (hCqe : KeepsCqe π) (hWc : KeepsWc π) (hDge : KeepsDge π) (hCpe : KeepsCpe π) (hFtu : KeepsFtu π) (hSnap : KeepsSnap π) (hSlc : KeepsSlc π) (hEvr : KeepsEvr π) (s : State) (n : Nat) :
    π (State.removeJob s n) = π s := by
  unfold State.removeJob
  with_reducible repeat' first
    | rfl
    | assumption
    | (intro)
    | refine ite_frame ?_ ?_
    | refine (State.failJob_frame π hOut hPort hCqe hWc hDge hCpe hFtu hSnap hSlc hEvr _ _ _ _ _).trans ?_
    | refine (hSnap _ _).trans ?_
    | refine (State.setJob_frame π hCqe hCpe hSnap hEvr _ _ _ _).trans ?_
    | refine pair_frame (by with_reducible assumption) ?_
    | split
    | (dsimp only)

theorem State.declareJob_frame {α : Type} (π : State → α) (hOut : KeepsOut π) (hPort : KeepsPort π) (hCqe : KeepsCqe π) (hWc : KeepsWc π) (hDge : KeepsDge π) (hCpe : KeepsCpe π) (hFtu : KeepsFtu π) (hSnap : KeepsSnap π) (hSlc : KeepsSlc π) (hEvr : KeepsEvr π) (s : State) (n : Nat) (j : Job) :
    π (State.declareJob s n j) = π s := by
  unfold State.declareJob
  with_reducible repeat' first
    | rfl
    | assumption
    | (intro)
    | refine ite_frame ?_ ?_
    | refine (State.setJob_frame π hCqe hCpe hSnap hEvr _ _ _ _).trans ?_
    | refine (hSnap _ _).trans ?_
    | refine (State.removeJob_frame π hOut hPort hCqe hWc hDge hCpe hFtu hSnap hSlc hEvr _ _).trans ?_
    | refine (State.modJob_frame π hSnap _ _ _).trans ?_
    | refine (State.event_frame π hEvr _ _ _ _ _ _ _).trans ?_
    | refine pair_frame (by with_reducible assumption) ?_
    | split
    | (dsimp only)

theorem State.applyJobs_frame {α : Type} (π : State → α) (hOut : KeepsOut π) (hPort : KeepsPort π) (hCqe : KeepsCqe π) (hWc : KeepsWc π) (hDge : KeepsDge π) (hCpe : KeepsCpe π) (hFtu : KeepsFtu π) (hSnap : KeepsSnap π) (hSlc : KeepsSlc π) (hEvr : KeepsEvr π) (s : State) (old : Cfg) :
    π (State.applyJobs s old) = π s := by
  unfold State.applyJobs
  with_reducible repeat' first
    | rfl
    | assumption
    | (intro)
    | refine ite_frame ?_ ?_
    | refine (State.removeJob_frame π hOut hPort hCqe hWc hDge hCpe hFtu hSnap hSlc hEvr _ _).trans ?_
    | refine (State.declareJob_frame π hOut hPort hCqe hWc hDge hCpe hFtu hSnap hSlc hEvr _ _ _).trans ?_
    | refine (foldl_frame π _ ?_ _ _).trans ?_
    | refine (foldl_frame2 π _ ?_ _ _).trans ?_
    | refine pair_frame (by with_reducible assumption) ?_
    | split
    | (dsimp only)

theorem State.applyClasses_frame {α : Type} (π : State → α) (hCqe : KeepsCqe π) (hDsc : KeepsDsc π) (hEvr : KeepsEvr π) (s : State) :
    π (State.applyClasses s) = π s := by
  unfold State.applyClasses
  with_reducible repeat' first
    | rfl
    | assumption
    | (intro)
    | refine ite_frame ?_ ?_
    | refine (hDsc _ _).trans ?_
    | refine (State.notifyAll_frame π hCqe _ _ _).trans ?_
    | refine (State.event_frame π hEvr _ _ _ _ _ _ _).trans ?_
    | refine pair_frame (by with_reducible assumption) ?_
    | split
    | (dsimp only)

theorem State.refreshLimit_frame {α : Type} (π : State → α) (hWc : KeepsWc π) (hEvr : KeepsEvr π) (s : State) :
    π (State.refreshLimit s) = π s := by
  unfold State.refreshLimit
  with_reducible repeat' first
    | rfl
    | assumption
    | (intro)
    | refine ite_frame ?_ ?_
    | refine ite_frame2 ?_ ?_
    | refine (hWc _ _).trans ?_
    | refine (State.event_frame π hEvr _ _ _ _ _ _ _).trans ?_
    | refine (foldl_frame π _ ?_ _ _).trans ?_
    | refine (foldl_frame2 π _ ?_ _ _).trans ?_
    | refine pair_frame (by with_reducible assumption) ?_
    | split
    | (dsimp only)

theorem State.applyLimit_frame {α : Type} (π : State → α) (hWc : KeepsWc π) (hEvr : KeepsEvr π) (s : State) (old : Cfg) :
    π (State.applyLimit s old) = π s := by
  unfold State.applyLimit
  with_reducible repeat' first
    | rfl
    | assumption
    | (intro)
    | refine ite_frame ?_ ?_
    | refine ite_frame2 ?_ ?_
    | refine (State.event_frame π hEvr _ _ _ _ _ _ _).trans ?_
    | refine (State.refreshLimit_frame π hWc hEvr _).trans ?_
    | refine pair_frame (by with_reducible assumption) ?_
    | split
    | (dsimp only)

theorem State.applyPowerRec_frame {α : Type} (π : State → α) (hCqe : KeepsCqe π) (hGov : KeepsGov π) (hEvr : KeepsEvr π) (s : State) (old : Cfg) :
    π (State.applyPowerRec s old) = π s := by
  unfold State.applyPowerRec
  with_reducible repeat' first
    | rfl
    | assumption
    | (intro)
    | refine ite_frame ?_ ?_
    | refine (State.applyPower_frame π hCqe hGov hEvr _ _).trans ?_
    | refine (State.setGovMode_frame π hCqe hGov hEvr _ _ _).trans ?_
    | refine (hGov _ _).trans ?_
    | refine pair_frame (by with_reducible assumption) ?_
    | split
    | (dsimp only)

theorem State.claimLeases_frame {α : Type} (π : State → α) (hOut : KeepsOut π) (hLink : KeepsLink π) (hPort : KeepsPort π) (hHa : KeepsHa π) (s : State) :
    π (State.claimLeases s) = π s := by
  unfold State.claimLeases
  with_reducible repeat' first
    | rfl
    | assumption
    | (intro)
    | refine ite_frame ?_ ?_
    | refine (State.takeLease_frame π hOut hLink hPort hHa _ _).trans ?_
    | refine (foldl_frame π _ ?_ _ _).trans ?_
    | refine (foldl_frame2 π _ ?_ _ _).trans ?_
    | refine pair_frame (by with_reducible assumption) ?_
    | split
    | (dsimp only)

theorem State.applyBridges_frame {α : Type} (π : State → α) (hOut : KeepsOut π) (hLink : KeepsLink π) (hPort : KeepsPort π) (hHa : KeepsHa π) (s : State) (old : Cfg) :
    π (State.applyBridges s old) = π s := by
  unfold State.applyBridges
  with_reducible repeat' first
    | rfl
    | assumption
    | (intro)
    | refine ite_frame ?_ ?_
    | refine ite_frame2 ?_ ?_
    | refine (hHa _ _).trans ?_
    | refine (State.claimLeases_frame π hOut hLink hPort hHa _).trans ?_
    | refine (State.leaseRound_frame π hOut hLink hPort hHa _ _).trans ?_
    | refine (foldl_frame π _ ?_ _ _).trans ?_
    | refine (foldl_frame2 π _ ?_ _ _).trans ?_
    | refine pair_frame (by with_reducible assumption) ?_
    | split
    | (dsimp only)

theorem State.applyPref_frame {α : Type} (π : State → α) (hOut : KeepsOut π) (hPort : KeepsPort π) (hCqe : KeepsCqe π) (hWc : KeepsWc π) (hDge : KeepsDge π) (hCpe : KeepsCpe π) (hFtu : KeepsFtu π) (hHa : KeepsHa π) (hSlc : KeepsSlc π) (hEvr : KeepsEvr π) (s : State) :
    π (State.applyPref s) = π s := by
  unfold State.applyPref
  with_reducible repeat' first
    | rfl
    | assumption
    | (intro)
    | refine ite_frame ?_ ?_
    | refine (hHa _ _).trans ?_
    | refine (State.nextBatch_frame π hOut hPort hCqe hWc hDge hCpe hFtu hHa hSlc hEvr _ _).trans ?_
    | refine pair_frame (by with_reducible assumption) ?_
    | split
    | (dsimp only)

theorem State.applySplit_frame {α : Type} (π : State → α) (hOut : KeepsOut π) (hLink : KeepsLink π) (hPort : KeepsPort π) (hFtu : KeepsFtu π) (s : State) (old : Cfg) :
    π (State.applySplit s old) = π s := by
  unfold State.applySplit
  with_reducible repeat' first
    | rfl
    | assumption
    | (intro)
    | refine ite_frame ?_ ?_
    | refine ite_frame2 ?_ ?_
    | refine (State.returnDies_frame π hOut hLink hPort _).trans ?_
    | refine (hFtu _ _).trans ?_
    | refine pair_frame (by with_reducible assumption) ?_
    | split
    | (dsimp only)

theorem State.switchTo_frame {α : Type} (π : State → α) (hFresh : KeepsFresh π) (hOut : KeepsOut π) (hLink : KeepsLink π) (hPort : KeepsPort π) (hLane : KeepsLane π) (hCqe : KeepsCqe π) (hSess : KeepsSess π) (hDsc : KeepsDsc π) (hWc : KeepsWc π) (hDge : KeepsDge π) (hDxu : KeepsDxu π) (hCpe : KeepsCpe π) (hFtu : KeepsFtu π) (hPxe : KeepsPxe π) (hPxeAll : KeepsPxeAll π) (hSnap : KeepsSnap π) (hHa : KeepsHa π) (hGov : KeepsGov π) (hSlc : KeepsSlc π) (hRot : KeepsRot π) (hXts : KeepsXts π) (hCfg : KeepsCfg π) (hCfgAll : KeepsCfgAll π) (hEvr : KeepsEvr π) (hGlb : KeepsGlb π) (s : State) (c : CommitRec) (recs : List CfgRec) (source : Nat) :
    π (State.switchTo s c recs source) = π s := by
  unfold State.switchTo
  with_reducible repeat' first
    | rfl
    | assumption
    | (intro)
    | refine ite_frame ?_ ?_
    | refine (State.takeAway_frame π hOut hPort hCqe hWc hFtu hSnap hCfg hEvr _ _ _).trans ?_
    | refine (hCfgAll _ _).trans ?_
    | refine (State.sendHeartbeat_frame π hOut hPort hHa _).trans ?_
    | refine (State.extend_frame π hRot _ _ _).trans ?_
    | refine (State.applyModules_frame π hFresh hOut hLink hPort hLane hCqe hSess hDsc hWc hFtu hPxe hPxeAll hGov hCfg hCfgAll hEvr hGlb _ _).trans ?_
    | refine (State.applyDomains_frame π hCqe hDxu hEvr _ _).trans ?_
    | refine (State.applyDicts_frame π hCpe _).trans ?_
    | refine (State.applyKeys_frame π hDge hRot hXts hEvr _).trans ?_
    | refine (State.applyPools_frame π hFresh hOut hLink hPort hCqe hDsc hFtu hPxe hPxeAll hGov hEvr hGlb _ _).trans ?_
    | refine (State.applyJobs_frame π hOut hPort hCqe hWc hDge hCpe hFtu hSnap hSlc hEvr _ _).trans ?_
    | refine (State.takeSnaps_frame π hFresh hCqe hSnap hEvr _ _).trans ?_
    | refine (State.newVolumes_frame π hSnap hEvr _).trans ?_
    | refine (State.applyPowerRec_frame π hCqe hGov hEvr _ _).trans ?_
    | refine (State.applyLimit_frame π hWc hEvr _ _).trans ?_
    | refine (State.applyClasses_frame π hCqe hDsc hEvr _).trans ?_
    | refine (hHa _ _).trans ?_
    | refine (State.refreshVolumes_frame π hCqe hCfg _).trans ?_
    | refine (State.applyBridges_frame π hOut hLink hPort hHa _ _).trans ?_
    | refine (State.applySplit_frame π hOut hLink hPort hFtu _ _).trans ?_
    | refine (State.applyPref_frame π hOut hPort hCqe hWc hDge hCpe hFtu hHa hSlc hEvr _).trans ?_
    | refine (hRot _ _ ?_).trans ?_
    | refine (State.event_frame π hEvr _ _ _ _ _ _ _).trans ?_
    | refine (State.notifyAll_frame π hCqe _ _ _).trans ?_
    | refine pair_frame (by with_reducible assumption) ?_
    | split
    | (dsimp only)

end Sys2Proof.Machine
end

