-- ==== Sys2Proof/Laws/FrameConfigure.lean ====
section
/-! SUPPORT. What the definitions of Machine/Configure.lean leave alone: a view of the state that no block they write can change reads
the same after them. -/

set_option linter.unusedSimpArgs false

namespace Sys2Proof.Machine

open Sys2Proof

theorem State.recordRefusal_frame {α : Type} (π : State → α) (hFresh : KeepsFresh π) (hEvr : KeepsEvr π) (s : State) (epoch : Nat) (f : CommitFault) :
    π (State.recordRefusal s epoch f) = π s := by
  unfold State.recordRefusal
  with_reducible repeat' first
    | rfl
    | assumption
    | (intro)
    | refine ite_frame ?_ ?_
    | refine ite_frame2 ?_ ?_
    | refine (State.event_frame π hEvr _ _ _ _ _ _ _).trans ?_
    | refine (State.freshen_frame π hFresh _).trans ?_
    | refine (foldl_frame π _ ?_ _ _).trans ?_
    | refine (foldl_frame2 π _ ?_ _ _).trans ?_
    | refine pair_frame (by with_reducible assumption) ?_
    | split
    | (dsimp only)

theorem State.identify_frame {α : Type} (π : State → α) (hFresh : KeepsFresh π) (hOut : KeepsOut π) (hLink : KeepsLink π) (hPort : KeepsPort π) (hLane : KeepsLane π) (hCqe : KeepsCqe π) (hSess : KeepsSess π) (hDsc : KeepsDsc π) (hWc : KeepsWc π) (hFtu : KeepsFtu π) (hPxe : KeepsPxe π) (hPxeAll : KeepsPxeAll π) (hGov : KeepsGov π) (hCfg : KeepsCfg π) (hEvr : KeepsEvr π) (hGlb : KeepsGlb π) (s : State) (ps : List Nat) :
    π (State.identify s ps) = π s := by
  unfold State.identify
  with_reducible repeat' first
    | rfl
    | assumption
    | (intro)
    | refine ite_frame ?_ ?_
    | refine (State.setLane_frame π hFresh hOut hLink hPort hLane hCqe hSess hDsc hWc hFtu hPxe hPxeAll hGov hCfg hEvr hGlb _ _ _ _).trans ?_
    | refine (State.sendIdent_frame π hFresh hOut hLink hPort _ _).trans ?_
    | refine (foldl_frame π _ ?_ _ _).trans ?_
    | refine (foldl_frame2 π _ ?_ _ _).trans ?_
    | refine pair_frame (by with_reducible assumption) ?_
    | split
    | (dsimp only)

theorem State.unidentify_frame {α : Type} (π : State → α) (hFresh : KeepsFresh π) (hOut : KeepsOut π) (hLink : KeepsLink π) (hPort : KeepsPort π) (hLane : KeepsLane π) (hCqe : KeepsCqe π) (hSess : KeepsSess π) (hDsc : KeepsDsc π) (hWc : KeepsWc π) (hFtu : KeepsFtu π) (hPxe : KeepsPxe π) (hPxeAll : KeepsPxeAll π) (hGov : KeepsGov π) (hCfg : KeepsCfg π) (hEvr : KeepsEvr π) (hGlb : KeepsGlb π) (s : State) (recs : List CfgRec) :
    π (State.unidentify s recs) = π s := by
  unfold State.unidentify
  with_reducible repeat' first
    | rfl
    | assumption
    | (intro)
    | refine ite_frame ?_ ?_
    | refine (State.setLane_frame π hFresh hOut hLink hPort hLane hCqe hSess hDsc hWc hFtu hPxe hPxeAll hGov hCfg hEvr hGlb _ _ _ _).trans ?_
    | refine (foldl_frame π _ ?_ _ _).trans ?_
    | refine (foldl_frame2 π _ ?_ _ _).trans ?_
    | refine pair_frame (by with_reducible assumption) ?_
    | split
    | (dsimp only)

theorem State.refuseStaged_frame {α : Type} (π : State → α) (hFresh : KeepsFresh π) (hOut : KeepsOut π) (hLink : KeepsLink π) (hPort : KeepsPort π) (hLane : KeepsLane π) (hCqe : KeepsCqe π) (hSess : KeepsSess π) (hDsc : KeepsDsc π) (hWc : KeepsWc π) (hFtu : KeepsFtu π) (hPxe : KeepsPxe π) (hPxeAll : KeepsPxeAll π) (hGov : KeepsGov π) (hCfg : KeepsCfg π) (hEvr : KeepsEvr π) (hGlb : KeepsGlb π) (s : State) (f : CommitFault) :
    π (State.refuseStaged s f) = π s := by
  unfold State.refuseStaged
  with_reducible repeat' first
    | rfl
    | assumption
    | (intro)
    | refine ite_frame ?_ ?_
    | refine (State.recordRefusal_frame π hFresh hEvr _ _ _).trans ?_
    | refine (State.unidentify_frame π hFresh hOut hLink hPort hLane hCqe hSess hDsc hWc hFtu hPxe hPxeAll hGov hCfg hEvr hGlb _ _).trans ?_
    | refine (State.answerTo_frame π hOut hPort hSess _ _ _ _ _ _ _).trans ?_
    | refine (hCfg _ _ ?_).trans ?_
    | refine pair_frame (by with_reducible assumption) ?_
    | split
    | (dsimp only)

theorem State.commitStaged_frame {α : Type} (π : State → α) (hFresh : KeepsFresh π) (hOut : KeepsOut π) (hLink : KeepsLink π) (hPort : KeepsPort π) (hLane : KeepsLane π) (hCqe : KeepsCqe π) (hSess : KeepsSess π) (hDsc : KeepsDsc π) (hWc : KeepsWc π) (hDge : KeepsDge π) (hDxu : KeepsDxu π) (hCpe : KeepsCpe π) (hFtu : KeepsFtu π) (hPxe : KeepsPxe π) (hPxeAll : KeepsPxeAll π) (hSnap : KeepsSnap π) (hHa : KeepsHa π) (hGov : KeepsGov π) (hSlc : KeepsSlc π) (hRot : KeepsRot π) (hXts : KeepsXts π) (hCfg : KeepsCfg π) (hCfgAll : KeepsCfgAll π) (hEvr : KeepsEvr π) (hGlb : KeepsGlb π) (s : State) :
    π (State.commitStaged s) = π s := by
  unfold State.commitStaged
  with_reducible repeat' first
    | rfl
    | assumption
    | (intro)
    | refine ite_frame ?_ ?_
    | refine (State.switchTo_frame π hFresh hOut hLink hPort hLane hCqe hSess hDsc hWc hDge hDxu hCpe hFtu hPxe hPxeAll hSnap hHa hGov hSlc hRot hXts hCfg hCfgAll hEvr hGlb _ _ _ _).trans ?_
    | refine (hCfg _ _ ?_).trans ?_
    | refine (State.answerTo_frame π hOut hPort hSess _ _ _ _ _ _ _).trans ?_
    | refine pair_frame (by with_reducible assumption) ?_
    | split
    | (dsimp only)

theorem State.offerStaged_frame {α : Type} (π : State → α) (hFresh : KeepsFresh π) (hOut : KeepsOut π) (hLink : KeepsLink π) (hPort : KeepsPort π) (hLane : KeepsLane π) (hCqe : KeepsCqe π) (hSess : KeepsSess π) (hDsc : KeepsDsc π) (hWc : KeepsWc π) (hDge : KeepsDge π) (hDxu : KeepsDxu π) (hCpe : KeepsCpe π) (hFtu : KeepsFtu π) (hPxe : KeepsPxe π) (hPxeAll : KeepsPxeAll π) (hSnap : KeepsSnap π) (hHa : KeepsHa π) (hGov : KeepsGov π) (hSlc : KeepsSlc π) (hRot : KeepsRot π) (hXts : KeepsXts π) (hCfg : KeepsCfg π) (hCfgAll : KeepsCfgAll π) (hEvr : KeepsEvr π) (hGlb : KeepsGlb π) (s : State) :
    π (State.offerStaged s) = π s := by
  unfold State.offerStaged
  with_reducible repeat' first
    | rfl
    | assumption
    | (intro)
    | refine ite_frame ?_ ?_
    | refine (State.commitStaged_frame π hFresh hOut hLink hPort hLane hCqe hSess hDsc hWc hDge hDxu hCpe hFtu hPxe hPxeAll hSnap hHa hGov hSlc hRot hXts hCfg hCfgAll hEvr hGlb _).trans ?_
    | refine (hCfg _ _ ?_).trans ?_
    | refine (State.transmit_frame π hOut hPort _ _ _ _).trans ?_
    | refine pair_frame (by with_reducible assumption) ?_
    | split
    | (dsimp only)

theorem State.cfgAnswer_frame {α : Type} (π : State → α) (hOut : KeepsOut π) (hPort : KeepsPort π) (hSess : KeepsSess π) (s : State) (m : Vc3) (typ : Nat) (result : Nat) (more : Bytes) :
    π (State.cfgAnswer s m typ result more) = π s := by
  unfold State.cfgAnswer
  with_reducible repeat' first
    | rfl
    | assumption
    | (intro)
    | refine ite_frame ?_ ?_
    | refine (State.answer_frame π hOut hPort hSess _ _ _ _ _).trans ?_
    | refine pair_frame (by with_reducible assumption) ?_
    | split
    | (dsimp only)

theorem execCfgBegin_frame {α : Type} (π : State → α) (hFresh : KeepsFresh π) (hOut : KeepsOut π) (hPort : KeepsPort π) (hCqe : KeepsCqe π) (hSess : KeepsSess π) (hCfg : KeepsCfg π) (hEvr : KeepsEvr π) (m : Vc3) (epoch : Nat) (base : Nat) (len : Nat) (s : State) :
    ∃ s', execCfgBegin m epoch base len s = .next s' ∧ π s' = π s := by
  unfold execCfgBegin
  with_reducible repeat' first
    | rfl
    | assumption
    | (intro)
    | refine ite_frame ?_ ?_
    | refine (State.vc3_frame π hFresh hOut hPort hCqe hSess hEvr _ _ _ _ _ _ _ ?_).trans ?_
    | refine (State.cfgAnswer_frame π hOut hPort hSess _ _ _ _ _).trans ?_
    | refine (hCfg _ _ ?_).trans ?_
    | refine ⟨_, rfl, ?_⟩
    | refine pair_frame (by with_reducible assumption) ?_
    | split
    | (dsimp only)

theorem execCfgStage_frame {α : Type} (π : State → α) (hFresh : KeepsFresh π) (hOut : KeepsOut π) (hPort : KeepsPort π) (hCqe : KeepsCqe π) (hSess : KeepsSess π) (hCfg : KeepsCfg π) (hEvr : KeepsEvr π) (m : Vc3) (offset : Nat) (len : Nat) (recs : List CfgRec) (s : State) :
    ∃ s', execCfgStage m offset len recs s = .next s' ∧ π s' = π s := by
  unfold execCfgStage
  with_reducible repeat' first
    | rfl
    | assumption
    | (intro)
    | refine ite_frame ?_ ?_
    | refine (State.vc3_frame π hFresh hOut hPort hCqe hSess hEvr _ _ _ _ _ _ _ ?_).trans ?_
    | refine (State.freshen_frame π hFresh _).trans ?_
    | refine (State.answer_frame π hOut hPort hSess _ _ _ _ _).trans ?_
    | refine (State.cfgAnswer_frame π hOut hPort hSess _ _ _ _ _).trans ?_
    | refine (hCfg _ _ ?_).trans ?_
    | refine ⟨_, rfl, ?_⟩
    | refine pair_frame (by with_reducible assumption) ?_
    | split
    | (dsimp only)

theorem State.refuseCommit_frame {α : Type} (π : State → α) (hFresh : KeepsFresh π) (hOut : KeepsOut π) (hPort : KeepsPort π) (hSess : KeepsSess π) (hCfg : KeepsCfg π) (hEvr : KeepsEvr π) (s : State) (m : Vc3) (k : CommitRec) (f : CommitFault) :
    π (State.refuseCommit s m k f) = π s := by
  unfold State.refuseCommit
  with_reducible repeat' first
    | rfl
    | assumption
    | (intro)
    | refine ite_frame ?_ ?_
    | refine (State.recordRefusal_frame π hFresh hEvr _ _ _).trans ?_
    | refine (hCfg _ _ ?_).trans ?_
    | refine (State.answer_frame π hOut hPort hSess _ _ _ _ _).trans ?_
    | refine pair_frame (by with_reducible assumption) ?_
    | split
    | (dsimp only)

theorem execCfgCommit_frame {α : Type} (π : State → α) (hFresh : KeepsFresh π) (hOut : KeepsOut π) (hLink : KeepsLink π) (hPort : KeepsPort π) (hLane : KeepsLane π) (hCqe : KeepsCqe π) (hSess : KeepsSess π) (hDsc : KeepsDsc π) (hWc : KeepsWc π) (hDge : KeepsDge π) (hDxu : KeepsDxu π) (hCpe : KeepsCpe π) (hFtu : KeepsFtu π) (hPxe : KeepsPxe π) (hPxeAll : KeepsPxeAll π) (hSnap : KeepsSnap π) (hHa : KeepsHa π) (hGov : KeepsGov π) (hSlc : KeepsSlc π) (hRot : KeepsRot π) (hXts : KeepsXts π) (hCfg : KeepsCfg π) (hCfgAll : KeepsCfgAll π) (hEvr : KeepsEvr π) (hGlb : KeepsGlb π) (m : Vc3) (c : CommitRec) (s : State) :
    ∃ s', execCfgCommit m c s = .next s' ∧ π s' = π s := by
  unfold execCfgCommit
  with_reducible repeat' first
    | rfl
    | assumption
    | (intro)
    | refine ite_frame ?_ ?_
    | refine (State.vc3_frame π hFresh hOut hPort hCqe hSess hEvr _ _ _ _ _ _ _ ?_).trans ?_
    | refine (State.refuseCommit_frame π hFresh hOut hPort hSess hCfg hEvr _ _ _ _).trans ?_
    | refine (State.cfgAnswer_frame π hOut hPort hSess _ _ _ _ _).trans ?_
    | refine (hCfg _ _ ?_).trans ?_
    | refine (State.holdAnswer_frame π hSess _ _).trans ?_
    | refine (State.offerStaged_frame π hFresh hOut hLink hPort hLane hCqe hSess hDsc hWc hDge hDxu hCpe hFtu hPxe hPxeAll hSnap hHa hGov hSlc hRot hXts hCfg hCfgAll hEvr hGlb _).trans ?_
    | refine (State.identify_frame π hFresh hOut hLink hPort hLane hCqe hSess hDsc hWc hFtu hPxe hPxeAll hGov hCfg hEvr hGlb _ _).trans ?_
    | refine ⟨_, rfl, ?_⟩
    | refine pair_frame (by with_reducible assumption) ?_
    | split
    | (dsimp only)

theorem execCfgAbort_frame {α : Type} (π : State → α) (hFresh : KeepsFresh π) (hOut : KeepsOut π) (hPort : KeepsPort π) (hCqe : KeepsCqe π) (hSess : KeepsSess π) (hCfg : KeepsCfg π) (hEvr : KeepsEvr π) (m : Vc3) (s : State) :
    ∃ s', execCfgAbort m s = .next s' ∧ π s' = π s := by
  unfold execCfgAbort
  with_reducible repeat' first
    | rfl
    | assumption
    | (intro)
    | refine ite_frame ?_ ?_
    | refine (State.vc3_frame π hFresh hOut hPort hCqe hSess hEvr _ _ _ _ _ _ _ ?_).trans ?_
    | refine (State.cfgAnswer_frame π hOut hPort hSess _ _ _ _ _).trans ?_
    | refine (hCfg _ _ ?_).trans ?_
    | refine ⟨_, rfl, ?_⟩
    | refine pair_frame (by with_reducible assumption) ?_
    | split
    | (dsimp only)

theorem execCfgStatus_frame {α : Type} (π : State → α) (hFresh : KeepsFresh π) (hOut : KeepsOut π) (hPort : KeepsPort π) (hCqe : KeepsCqe π) (hSess : KeepsSess π) (hEvr : KeepsEvr π) (m : Vc3) (s : State) :
    ∃ s', execCfgStatus m s = .next s' ∧ π s' = π s := by
  unfold execCfgStatus
  with_reducible repeat' first
    | rfl
    | assumption
    | (intro)
    | refine ite_frame ?_ ?_
    | refine (State.vc3_frame π hFresh hOut hPort hCqe hSess hEvr _ _ _ _ _ _ _ ?_).trans ?_
    | refine (State.freshen_frame π hFresh _).trans ?_
    | refine (State.cfgAnswer_frame π hOut hPort hSess _ _ _ _ _).trans ?_
    | refine ⟨_, rfl, ?_⟩
    | refine pair_frame (by with_reducible assumption) ?_
    | split
    | (dsimp only)

theorem execTimeSet_frame {α : Type} (π : State → α) (hFresh : KeepsFresh π) (hOut : KeepsOut π) (hPort : KeepsPort π) (hCqe : KeepsCqe π) (hSess : KeepsSess π) (hCfg : KeepsCfg π) (hEvr : KeepsEvr π) (m : Vc3) (offset : Int) (s : State) :
    ∃ s', execTimeSet m offset s = .next s' ∧ π s' = π s := by
  unfold execTimeSet
  with_reducible repeat' first
    | rfl
    | assumption
    | (intro)
    | refine (State.vc3_frame π hFresh hOut hPort hCqe hSess hEvr _ _ _ _ _ _ _ ?_).trans ?_
    | refine (State.cfgAnswer_frame π hOut hPort hSess _ _ _ _ _).trans ?_
    | refine (hCfg _ _ ?_).trans ?_
    | refine (State.event_frame π hEvr _ _ _ _ _ _ _).trans ?_
    | refine ⟨_, rfl, ?_⟩
    | refine pair_frame (by with_reducible assumption) ?_
    | split
    | (dsimp only)

theorem execStagingAbandoned_frame {α : Type} (π : State → α) (hDt : KeepsDt π) (hFresh : KeepsFresh π) (hOut : KeepsOut π) (hLink : KeepsLink π) (hPort : KeepsPort π) (hLane : KeepsLane π) (hCqe : KeepsCqe π) (hSess : KeepsSess π) (hDsc : KeepsDsc π) (hWc : KeepsWc π) (hFtu : KeepsFtu π) (hPxe : KeepsPxe π) (hPxeAll : KeepsPxeAll π) (hGov : KeepsGov π) (hCfg : KeepsCfg π) (hEvr : KeepsEvr π) (hGlb : KeepsGlb π) (s : State) :
    ∃ s', execStagingAbandoned s = .next s' ∧ π s' = π s := by
  unfold execStagingAbandoned
  with_reducible repeat' first
    | rfl
    | assumption
    | (intro)
    | refine ite_frame ?_ ?_
    | refine (State.unidentify_frame π hFresh hOut hLink hPort hLane hCqe hSess hDsc hWc hFtu hPxe hPxeAll hGov hCfg hEvr hGlb _ _).trans ?_
    | refine (hCfg _ _ ?_).trans ?_
    | refine (State.event_frame π hEvr _ _ _ _ _ _ _).trans ?_
    | refine (State.advanceTo_frame π hDt _ _).trans ?_
    | refine ⟨_, rfl, ?_⟩
    | refine pair_frame (by with_reducible assumption) ?_
    | split
    | (dsimp only)

theorem State.offerAnswer_frame {α : Type} (π : State → α) (hOut : KeepsOut π) (hPort : KeepsPort π) (s : State) (epoch : Nat) (result : Nat) :
    π (State.offerAnswer s epoch result) = π s := by
  unfold State.offerAnswer
  with_reducible
    repeat' first | (rfl) | (refine (State.transmit_frame π hOut hPort _ _ _ _).trans ?_)

theorem State.refuseOffer_frame {α : Type} (π : State → α) (hFresh : KeepsFresh π) (hOut : KeepsOut π) (hLink : KeepsLink π) (hPort : KeepsPort π) (hLane : KeepsLane π) (hCqe : KeepsCqe π) (hSess : KeepsSess π) (hDsc : KeepsDsc π) (hWc : KeepsWc π) (hFtu : KeepsFtu π) (hPxe : KeepsPxe π) (hPxeAll : KeepsPxeAll π) (hGov : KeepsGov π) (hCfg : KeepsCfg π) (hEvr : KeepsEvr π) (hGlb : KeepsGlb π) (s : State) (o : Offer) (f : CommitFault) :
    π (State.refuseOffer s o f) = π s := by
  unfold State.refuseOffer
  with_reducible repeat' first
    | rfl
    | assumption
    | (intro)
    | refine (State.recordRefusal_frame π hFresh hEvr _ _ _).trans ?_
    | refine (State.unidentify_frame π hFresh hOut hLink hPort hLane hCqe hSess hDsc hWc hFtu hPxe hPxeAll hGov hCfg hEvr hGlb _ _).trans ?_
    | refine (State.offerAnswer_frame π hOut hPort _ _ _).trans ?_
    | refine (hCfg _ _ ?_).trans ?_
    | refine pair_frame (by with_reducible assumption) ?_
    | split
    | (dsimp only)

theorem State.prepared_frame {α : Type} (π : State → α) (hOut : KeepsOut π) (hPort : KeepsPort π) (hCfg : KeepsCfg π) (s : State) (o : Offer) :
    π (State.prepared s o) = π s := by
  unfold State.prepared
  with_reducible repeat' first
    | rfl
    | assumption
    | (intro)
    | refine (State.offerAnswer_frame π hOut hPort _ _ _).trans ?_
    | refine (hCfg _ _ ?_).trans ?_
    | refine pair_frame (by with_reducible assumption) ?_
    | split
    | (dsimp only)

theorem execPeerCfgOffer_frame {α : Type} (π : State → α) (hOut : KeepsOut π) (hPort : KeepsPort π) (hCfg : KeepsCfg π) (c : CommitRec) (len : Nat) (s : State) :
    ∃ s', execPeerCfgOffer c len s = .next s' ∧ π s' = π s := by
  unfold execPeerCfgOffer
  with_reducible repeat' first
    | rfl
    | assumption
    | (intro)
    | refine ite_frame ?_ ?_
    | refine (State.offerAnswer_frame π hOut hPort _ _ _).trans ?_
    | refine (hCfg _ _ ?_).trans ?_
    | refine ⟨_, rfl, ?_⟩
    | refine pair_frame (by with_reducible assumption) ?_
    | split
    | (dsimp only)

theorem execPeerCfgData_frame {α : Type} (π : State → α) (hFresh : KeepsFresh π) (hOut : KeepsOut π) (hLink : KeepsLink π) (hPort : KeepsPort π) (hLane : KeepsLane π) (hCqe : KeepsCqe π) (hSess : KeepsSess π) (hDsc : KeepsDsc π) (hWc : KeepsWc π) (hFtu : KeepsFtu π) (hPxe : KeepsPxe π) (hPxeAll : KeepsPxeAll π) (hGov : KeepsGov π) (hCfg : KeepsCfg π) (hEvr : KeepsEvr π) (hGlb : KeepsGlb π) (offset : Nat) (len : Nat) (recs : List CfgRec) (s : State) :
    ∃ s', execPeerCfgData offset len recs s = .next s' ∧ π s' = π s := by
  unfold execPeerCfgData
  with_reducible repeat' first
    | rfl
    | assumption
    | (intro)
    | refine ite_frame ?_ ?_
    | refine (hCfg _ _ ?_).trans ?_
    | refine (State.offerAnswer_frame π hOut hPort _ _ _).trans ?_
    | refine (State.refuseOffer_frame π hFresh hOut hLink hPort hLane hCqe hSess hDsc hWc hFtu hPxe hPxeAll hGov hCfg hEvr hGlb _ _ _).trans ?_
    | refine (State.prepared_frame π hOut hPort hCfg _ _).trans ?_
    | refine (State.identify_frame π hFresh hOut hLink hPort hLane hCqe hSess hDsc hWc hFtu hPxe hPxeAll hGov hCfg hEvr hGlb _ _).trans ?_
    | refine ⟨_, rfl, ?_⟩
    | refine pair_frame (by with_reducible assumption) ?_
    | split
    | (dsimp only)

theorem State.switchPrepared_frame {α : Type} (π : State → α) (hFresh : KeepsFresh π) (hOut : KeepsOut π) (hLink : KeepsLink π) (hPort : KeepsPort π) (hLane : KeepsLane π) (hCqe : KeepsCqe π) (hSess : KeepsSess π) (hDsc : KeepsDsc π) (hWc : KeepsWc π) (hDge : KeepsDge π) (hDxu : KeepsDxu π) (hCpe : KeepsCpe π) (hFtu : KeepsFtu π) (hPxe : KeepsPxe π) (hPxeAll : KeepsPxeAll π) (hSnap : KeepsSnap π) (hHa : KeepsHa π) (hGov : KeepsGov π) (hSlc : KeepsSlc π) (hRot : KeepsRot π) (hXts : KeepsXts π) (hCfg : KeepsCfg π) (hCfgAll : KeepsCfgAll π) (hEvr : KeepsEvr π) (hGlb : KeepsGlb π) (s : State) (cepoch : Nat) :
    π (State.switchPrepared s cepoch) = π s := by
  unfold State.switchPrepared
  with_reducible repeat' first
    | rfl
    | assumption
    | (intro)
    | refine ite_frame ?_ ?_
    | refine (State.switchTo_frame π hFresh hOut hLink hPort hLane hCqe hSess hDsc hWc hDge hDxu hCpe hFtu hPxe hPxeAll hSnap hHa hGov hSlc hRot hXts hCfg hCfgAll hEvr hGlb _ _ _ _).trans ?_
    | refine pair_frame (by with_reducible assumption) ?_
    | split
    | (dsimp only)

theorem execPeerCfgResult_frame {α : Type} (π : State → α) (hFresh : KeepsFresh π) (hOut : KeepsOut π) (hLink : KeepsLink π) (hPort : KeepsPort π) (hLane : KeepsLane π) (hCqe : KeepsCqe π) (hSess : KeepsSess π) (hDsc : KeepsDsc π) (hWc : KeepsWc π) (hDge : KeepsDge π) (hDxu : KeepsDxu π) (hCpe : KeepsCpe π) (hFtu : KeepsFtu π) (hPxe : KeepsPxe π) (hPxeAll : KeepsPxeAll π) (hSnap : KeepsSnap π) (hHa : KeepsHa π) (hGov : KeepsGov π) (hSlc : KeepsSlc π) (hRot : KeepsRot π) (hXts : KeepsXts π) (hCfg : KeepsCfg π) (hCfgAll : KeepsCfgAll π) (hEvr : KeepsEvr π) (hGlb : KeepsGlb π) (epoch : Nat) (result : Byte) (s : State) :
    ∃ s', execPeerCfgResult epoch result s = .next s' ∧ π s' = π s := by
  unfold execPeerCfgResult
  with_reducible repeat' first
    | rfl
    | assumption
    | (intro)
    | refine ite_frame ?_ ?_
    | refine (State.commitStaged_frame π hFresh hOut hLink hPort hLane hCqe hSess hDsc hWc hDge hDxu hCpe hFtu hPxe hPxeAll hSnap hHa hGov hSlc hRot hXts hCfg hCfgAll hEvr hGlb _).trans ?_
    | refine (State.refuseStaged_frame π hFresh hOut hLink hPort hLane hCqe hSess hDsc hWc hFtu hPxe hPxeAll hGov hCfg hEvr hGlb _ _).trans ?_
    | refine ⟨_, rfl, ?_⟩
    | refine pair_frame (by with_reducible assumption) ?_
    | split
    | (dsimp only)

theorem execPeerCfgTimeout_frame {α : Type} (π : State → α) (hDt : KeepsDt π) (hFresh : KeepsFresh π) (hOut : KeepsOut π) (hLink : KeepsLink π) (hPort : KeepsPort π) (hLane : KeepsLane π) (hCqe : KeepsCqe π) (hSess : KeepsSess π) (hDsc : KeepsDsc π) (hWc : KeepsWc π) (hFtu : KeepsFtu π) (hPxe : KeepsPxe π) (hPxeAll : KeepsPxeAll π) (hGov : KeepsGov π) (hCfg : KeepsCfg π) (hEvr : KeepsEvr π) (hGlb : KeepsGlb π) (s : State) :
    ∃ s', execPeerCfgTimeout s = .next s' ∧ π s' = π s := by
  unfold execPeerCfgTimeout
  with_reducible repeat' first
    | rfl
    | assumption
    | (intro)
    | refine ite_frame ?_ ?_
    | refine (State.refuseStaged_frame π hFresh hOut hLink hPort hLane hCqe hSess hDsc hWc hFtu hPxe hPxeAll hGov hCfg hEvr hGlb _ _).trans ?_
    | refine (State.advanceTo_frame π hDt _ _).trans ?_
    | refine ⟨_, rfl, ?_⟩
    | refine pair_frame (by with_reducible assumption) ?_
    | split
    | (dsimp only)

theorem State.takingFails_frame {α : Type} (π : State → α) (hFresh : KeepsFresh π) (hOut : KeepsOut π) (hLink : KeepsLink π) (hPort : KeepsPort π) (hLane : KeepsLane π) (hCqe : KeepsCqe π) (hSess : KeepsSess π) (hDsc : KeepsDsc π) (hWc : KeepsWc π) (hDge : KeepsDge π) (hDxu : KeepsDxu π) (hCpe : KeepsCpe π) (hFtu : KeepsFtu π) (hPxe : KeepsPxe π) (hPxeAll : KeepsPxeAll π) (hHa : KeepsHa π) (hGov : KeepsGov π) (hSlc : KeepsSlc π) (hCfg : KeepsCfg π) (hEvr : KeepsEvr π) (hGlb : KeepsGlb π) (s : State) (o : Offer) (f : CommitFault) :
    π (State.takingFails s o f) = π s := by
  unfold State.takingFails
  with_reducible repeat' first
    | rfl
    | assumption
    | (intro)
    | refine (State.recordRefusal_frame π hFresh hEvr _ _ _).trans ?_
    | refine (State.unidentify_frame π hFresh hOut hLink hPort hLane hCqe hSess hDsc hWc hFtu hPxe hPxeAll hGov hCfg hEvr hGlb _ _).trans ?_
    | refine (State.goHeld_frame π hOut hLink hPort hCqe hWc hDge hDxu hCpe hFtu hHa hSlc hEvr _ _).trans ?_
    | refine (hCfg _ _ ?_).trans ?_
    | refine pair_frame (by with_reducible assumption) ?_
    | split
    | (dsimp only)

theorem execPeerCfgFetch_frame {α : Type} (π : State → α) (hFresh : KeepsFresh π) (hOut : KeepsOut π) (hLink : KeepsLink π) (hPort : KeepsPort π) (hLane : KeepsLane π) (hCqe : KeepsCqe π) (hSess : KeepsSess π) (hDsc : KeepsDsc π) (hWc : KeepsWc π) (hDge : KeepsDge π) (hDxu : KeepsDxu π) (hCpe : KeepsCpe π) (hFtu : KeepsFtu π) (hPxe : KeepsPxe π) (hPxeAll : KeepsPxeAll π) (hSnap : KeepsSnap π) (hHa : KeepsHa π) (hGov : KeepsGov π) (hSlc : KeepsSlc π) (hRot : KeepsRot π) (hXts : KeepsXts π) (hCfg : KeepsCfg π) (hCfgAll : KeepsCfgAll π) (hEvr : KeepsEvr π) (hGlb : KeepsGlb π) (got : Option (CommitRec × List CfgRec)) (s : State) :
    ∃ s', execPeerCfgFetch got s = .next s' ∧ π s' = π s := by
  unfold execPeerCfgFetch
  with_reducible repeat' first
    | rfl
    | assumption
    | (intro)
    | refine ite_frame ?_ ?_
    | refine (State.transmit_frame π hOut hPort _ _ _ _).trans ?_
    | refine (hCfg _ _ ?_).trans ?_
    | refine (State.takingFails_frame π hFresh hOut hLink hPort hLane hCqe hSess hDsc hWc hDge hDxu hCpe hFtu hPxe hPxeAll hHa hGov hSlc hCfg hEvr hGlb _ _ _).trans ?_
    | refine (State.switchTo_frame π hFresh hOut hLink hPort hLane hCqe hSess hDsc hWc hDge hDxu hCpe hFtu hPxe hPxeAll hSnap hHa hGov hSlc hRot hXts hCfg hCfgAll hEvr hGlb _ _ _ _).trans ?_
    | refine (State.identify_frame π hFresh hOut hLink hPort hLane hCqe hSess hDsc hWc hFtu hPxe hPxeAll hGov hCfg hEvr hGlb _ _).trans ?_
    | refine ⟨_, rfl, ?_⟩
    | refine pair_frame (by with_reducible assumption) ?_
    | split
    | (dsimp only)

theorem State.identStaged_frame {α : Type} (π : State → α) (hFresh : KeepsFresh π) (hOut : KeepsOut π) (hLink : KeepsLink π) (hPort : KeepsPort π) (hLane : KeepsLane π) (hCqe : KeepsCqe π) (hSess : KeepsSess π) (hDsc : KeepsDsc π) (hWc : KeepsWc π) (hDge : KeepsDge π) (hDxu : KeepsDxu π) (hCpe : KeepsCpe π) (hFtu : KeepsFtu π) (hPxe : KeepsPxe π) (hPxeAll : KeepsPxeAll π) (hSnap : KeepsSnap π) (hHa : KeepsHa π) (hGov : KeepsGov π) (hSlc : KeepsSlc π) (hRot : KeepsRot π) (hXts : KeepsXts π) (hCfg : KeepsCfg π) (hCfgAll : KeepsCfgAll π) (hEvr : KeepsEvr π) (hGlb : KeepsGlb π) (s : State) (pos : Nat) (reason : Nat) :
    π (State.identStaged s pos reason) = π s := by
  unfold State.identStaged
  with_reducible repeat' first
    | rfl
    | assumption
    | (intro)
    | refine ite_frame ?_ ?_
    | refine (State.refuseStaged_frame π hFresh hOut hLink hPort hLane hCqe hSess hDsc hWc hFtu hPxe hPxeAll hGov hCfg hEvr hGlb _ _).trans ?_
    | refine (hCfg _ _ ?_).trans ?_
    | refine (State.offerStaged_frame π hFresh hOut hLink hPort hLane hCqe hSess hDsc hWc hDge hDxu hCpe hFtu hPxe hPxeAll hSnap hHa hGov hSlc hRot hXts hCfg hCfgAll hEvr hGlb _).trans ?_
    | refine pair_frame (by with_reducible assumption) ?_
    | split
    | (dsimp only)

theorem State.identOffer_frame {α : Type} (π : State → α) (hFresh : KeepsFresh π) (hOut : KeepsOut π) (hLink : KeepsLink π) (hPort : KeepsPort π) (hLane : KeepsLane π) (hCqe : KeepsCqe π) (hSess : KeepsSess π) (hDsc : KeepsDsc π) (hWc : KeepsWc π) (hFtu : KeepsFtu π) (hPxe : KeepsPxe π) (hPxeAll : KeepsPxeAll π) (hGov : KeepsGov π) (hCfg : KeepsCfg π) (hEvr : KeepsEvr π) (hGlb : KeepsGlb π) (s : State) (pos : Nat) (reason : Nat) :
    π (State.identOffer s pos reason) = π s := by
  unfold State.identOffer
  with_reducible repeat' first
    | rfl
    | assumption
    | (intro)
    | refine ite_frame ?_ ?_
    | refine (State.refuseOffer_frame π hFresh hOut hLink hPort hLane hCqe hSess hDsc hWc hFtu hPxe hPxeAll hGov hCfg hEvr hGlb _ _ _).trans ?_
    | refine (State.prepared_frame π hOut hPort hCfg _ _).trans ?_
    | refine (hCfg _ _ ?_).trans ?_
    | refine pair_frame (by with_reducible assumption) ?_
    | split
    | (dsimp only)

theorem State.identTaking_frame {α : Type} (π : State → α) (hFresh : KeepsFresh π) (hOut : KeepsOut π) (hLink : KeepsLink π) (hPort : KeepsPort π) (hLane : KeepsLane π) (hCqe : KeepsCqe π) (hSess : KeepsSess π) (hDsc : KeepsDsc π) (hWc : KeepsWc π) (hDge : KeepsDge π) (hDxu : KeepsDxu π) (hCpe : KeepsCpe π) (hFtu : KeepsFtu π) (hPxe : KeepsPxe π) (hPxeAll : KeepsPxeAll π) (hSnap : KeepsSnap π) (hHa : KeepsHa π) (hGov : KeepsGov π) (hSlc : KeepsSlc π) (hRot : KeepsRot π) (hXts : KeepsXts π) (hCfg : KeepsCfg π) (hCfgAll : KeepsCfgAll π) (hEvr : KeepsEvr π) (hGlb : KeepsGlb π) (s : State) (pos : Nat) (reason : Nat) :
    π (State.identTaking s pos reason) = π s := by
  unfold State.identTaking
  with_reducible repeat' first
    | rfl
    | assumption
    | (intro)
    | refine ite_frame ?_ ?_
    | refine (State.takingFails_frame π hFresh hOut hLink hPort hLane hCqe hSess hDsc hWc hDge hDxu hCpe hFtu hPxe hPxeAll hHa hGov hSlc hCfg hEvr hGlb _ _ _).trans ?_
    | refine (State.switchTo_frame π hFresh hOut hLink hPort hLane hCqe hSess hDsc hWc hDge hDxu hCpe hFtu hPxe hPxeAll hSnap hHa hGov hSlc hRot hXts hCfg hCfgAll hEvr hGlb _ _ _ _).trans ?_
    | refine (hCfg _ _ ?_).trans ?_
    | refine pair_frame (by with_reducible assumption) ?_
    | split
    | (dsimp only)

theorem State.identified_frame {α : Type} (π : State → α) (hFresh : KeepsFresh π) (hOut : KeepsOut π) (hLink : KeepsLink π) (hPort : KeepsPort π) (hLane : KeepsLane π) (hCqe : KeepsCqe π) (hSess : KeepsSess π) (hDsc : KeepsDsc π) (hWc : KeepsWc π) (hDge : KeepsDge π) (hDxu : KeepsDxu π) (hCpe : KeepsCpe π) (hFtu : KeepsFtu π) (hPxe : KeepsPxe π) (hPxeAll : KeepsPxeAll π) (hSnap : KeepsSnap π) (hHa : KeepsHa π) (hGov : KeepsGov π) (hSlc : KeepsSlc π) (hRot : KeepsRot π) (hXts : KeepsXts π) (hCfg : KeepsCfg π) (hCfgAll : KeepsCfgAll π) (hEvr : KeepsEvr π) (hGlb : KeepsGlb π) (s : State) (pos : Nat) (reason : Nat) :
    π (State.identified s pos reason) = π s := by
  unfold State.identified
  with_reducible repeat' first
    | rfl
    | assumption
    | (intro)
    | refine ite_frame ?_ ?_
    | refine (State.event_frame π hEvr _ _ _ _ _ _ _).trans ?_
    | refine (State.identTaking_frame π hFresh hOut hLink hPort hLane hCqe hSess hDsc hWc hDge hDxu hCpe hFtu hPxe hPxeAll hSnap hHa hGov hSlc hRot hXts hCfg hCfgAll hEvr hGlb _ _ _).trans ?_
    | refine (State.identOffer_frame π hFresh hOut hLink hPort hLane hCqe hSess hDsc hWc hFtu hPxe hPxeAll hGov hCfg hEvr hGlb _ _ _).trans ?_
    | refine (State.identStaged_frame π hFresh hOut hLink hPort hLane hCqe hSess hDsc hWc hDge hDxu hCpe hFtu hPxe hPxeAll hSnap hHa hGov hSlc hRot hXts hCfg hCfgAll hEvr hGlb _ _ _).trans ?_
    | refine pair_frame (by with_reducible assumption) ?_
    | split
    | (dsimp only)

theorem execIdentResponse_frame {α : Type} (π : State → α) (hFresh : KeepsFresh π) (hOut : KeepsOut π) (hLink : KeepsLink π) (hPort : KeepsPort π) (hLane : KeepsLane π) (hCqe : KeepsCqe π) (hSess : KeepsSess π) (hDsc : KeepsDsc π) (hWc : KeepsWc π) (hDge : KeepsDge π) (hDxu : KeepsDxu π) (hCpe : KeepsCpe π) (hFtu : KeepsFtu π) (hPxe : KeepsPxe π) (hPxeAll : KeepsPxeAll π) (hSnap : KeepsSnap π) (hHa : KeepsHa π) (hGov : KeepsGov π) (hSlc : KeepsSlc π) (hRot : KeepsRot π) (hXts : KeepsXts π) (hCfg : KeepsCfg π) (hCfgAll : KeepsCfgAll π) (hEvr : KeepsEvr π) (hGlb : KeepsGlb π) (pos : Fin 96) (tag : Word) (hdrOk : Bool) (serial : Nat) (sigOk : Bool) (foreign : Bool) (s : State) :
    ∃ s', execIdentResponse pos tag hdrOk serial sigOk foreign s = .next s' ∧ π s' = π s := by
  unfold execIdentResponse
  with_reducible repeat' first
    | rfl
    | assumption
    | (intro)
    | refine ite_frame ?_ ?_
    | refine (State.mediaAnswer_frame π hFresh hOut hLink hPort hCqe hDsc hWc hDxu hFtu hPxe hPxeAll hGov hEvr hGlb _ _ _ _ _ _ _ _ ?_ ?_).trans ?_
    | refine (State.identified_frame π hFresh hOut hLink hPort hLane hCqe hSess hDsc hWc hDge hDxu hCpe hFtu hPxe hPxeAll hSnap hHa hGov hSlc hRot hXts hCfg hCfgAll hEvr hGlb _ _ _).trans ?_
    | refine (State.event_frame π hEvr _ _ _ _ _ _ _).trans ?_
    | refine ⟨_, rfl, ?_⟩
    | refine pair_frame (by with_reducible assumption) ?_
    | split
    | (dsimp only)

end Sys2Proof.Machine
end

