-- ==== Sys2Proof/Laws/FrameHeartbeats.lean ====
section
/-! SUPPORT. What the definitions of Machine/Heartbeats.lean leave alone: a view of the state that no block they write can change reads
the same after them. -/

set_option linter.unusedSimpArgs false

namespace Sys2Proof.Machine

open Sys2Proof

theorem State.joinArray_frame {α : Type} (π : State → α) (hFresh : KeepsFresh π) (hOut : KeepsOut π) (hLink : KeepsLink π) (hPort : KeepsPort π) (hWc : KeepsWc π) (hDxu : KeepsDxu π) (hHa : KeepsHa π) (hEvr : KeepsEvr π) (s : State) :
    π (State.joinArray s) = π s := by
  unfold State.joinArray
  with_reducible repeat' first
    | rfl
    | assumption
    | (intro)
    | refine ite_frame ?_ ?_
    | refine (State.freshen_frame π hFresh _).trans ?_
    | refine (State.setMirror_frame π hWc hEvr _ _ _).trans ?_
    | refine (State.resyncStart_frame π hOut hPort hWc hDxu hEvr _).trans ?_
    | refine (hHa _ _).trans ?_
    | refine (State.claimLeases_frame π hOut hLink hPort hHa _).trans ?_
    | refine pair_frame (by with_reducible assumption) ?_
    | split
    | (dsimp only)

theorem State.judgeEpoch_frame {α : Type} (π : State → α) (hFresh : KeepsFresh π) (hOut : KeepsOut π) (hPort : KeepsPort π) (hCfg : KeepsCfg π) (hEvr : KeepsEvr π) (s : State) (peer : Nat) :
    π (State.judgeEpoch s peer) = π s := by
  unfold State.judgeEpoch
  with_reducible repeat' first
    | rfl
    | assumption
    | (intro)
    | refine ite_frame ?_ ?_
    | refine (State.fetchCfg_frame π hOut hPort hCfg _).trans ?_
    | refine (State.disagreement_frame π hFresh hEvr _ _ _ _).trans ?_
    | refine pair_frame (by with_reducible assumption) ?_
    | split
    | (dsimp only)

theorem State.judgeWall_frame {α : Type} (π : State → α) (hFresh : KeepsFresh π) (hHa : KeepsHa π) (hEvr : KeepsEvr π) (s : State) (dt : Nat) (wall : Nat) :
    π (State.judgeWall s dt wall) = π s := by
  unfold State.judgeWall
  with_reducible repeat' first
    | rfl
    | assumption
    | (intro)
    | refine ite_frame ?_ ?_
    | refine (hHa _ _).trans ?_
    | refine (State.disagreement_frame π hFresh hEvr _ _ _ _).trans ?_
    | refine pair_frame (by with_reducible assumption) ?_
    | split
    | (dsimp only)

theorem execHeartbeat_frame {α : Type} (π : State → α) (hFresh : KeepsFresh π) (hOut : KeepsOut π) (hLink : KeepsLink π) (hPort : KeepsPort π) (hLane : KeepsLane π) (hCqe : KeepsCqe π) (hSess : KeepsSess π) (hDsc : KeepsDsc π) (hWc : KeepsWc π) (hDge : KeepsDge π) (hDxu : KeepsDxu π) (hCpe : KeepsCpe π) (hFtu : KeepsFtu π) (hPxe : KeepsPxe π) (hPxeAll : KeepsPxeAll π) (hSnap : KeepsSnap π) (hHa : KeepsHa π) (hSnw : KeepsSnw π) (hGov : KeepsGov π) (hSlc : KeepsSlc π) (hRot : KeepsRot π) (hXts : KeepsXts π) (hCfg : KeepsCfg π) (hCfgAll : KeepsCfgAll π) (hEvr : KeepsEvr π) (hGlb : KeepsGlb π) (h : RecHdr) (b : HbBody) (s : State) :
    ∃ s', execHeartbeat h b s = .next s' ∧ π s' = π s := by
  unfold execHeartbeat
  with_reducible repeat' first
    | rfl
    | assumption
    | (intro)
    | refine ite_frame ?_ ?_
    | refine (State.peerRecord_frame π hPort hEvr _ _ _ _ ?_).trans ?_
    | refine (hHa _ _).trans ?_
    | refine (State.pathFresh_frame π hCqe hHa hEvr _ _).trans ?_
    | refine (State.switchPrepared_frame π hFresh hOut hLink hPort hLane hCqe hSess hDsc hWc hDge hDxu hCpe hFtu hPxe hPxeAll hSnap hHa hGov hSlc hRot hXts hCfg hCfgAll hEvr hGlb _ _).trans ?_
    | refine (State.peerReports_frame π hFresh hOut hLink hPort hCqe hWc hDge hDxu hCpe hFtu hPxe hHa hSnw hSlc hEvr _ _ _ _ _ _).trans ?_
    | refine (State.refreshStable_frame π hHa _).trans ?_
    | refine (State.judgeWall_frame π hFresh hHa hEvr _ _ _).trans ?_
    | refine (State.judgeEpoch_frame π hFresh hOut hPort hCfg hEvr _ _).trans ?_
    | refine (State.joinArray_frame π hFresh hOut hLink hPort hWc hDxu hHa hEvr _).trans ?_
    | refine ⟨_, rfl, ?_⟩
    | refine pair_frame (by with_reducible assumption) ?_
    | split
    | (dsimp only)

theorem State.sendMailbox_frame {α : Type} (π : State → α) (hOut : KeepsOut π) (hLink : KeepsLink π) (hPort : KeepsPort π) (s : State) :
    π (State.sendMailbox s) = π s := by
  unfold State.sendMailbox
  with_reducible repeat' first
    | rfl
    | assumption
    | (intro)
    | refine (State.sendMedia_frame π hOut hLink hPort _ _ _ _ _ _ _ _ _ _).trans ?_
    | refine (foldl_frame π _ ?_ _ _).trans ?_
    | refine (foldl_frame2 π _ ?_ _ _).trans ?_
    | refine pair_frame (by with_reducible assumption) ?_
    | split
    | (dsimp only)

theorem execHeartbeatTimer_frame {α : Type} (π : State → α) (hDt : KeepsDt π) (hOut : KeepsOut π) (hLink : KeepsLink π) (hPort : KeepsPort π) (hHa : KeepsHa π) (s : State) :
    ∃ s', execHeartbeatTimer s = .next s' ∧ π s' = π s := by
  unfold execHeartbeatTimer
  with_reducible repeat' first
    | rfl
    | assumption
    | (intro)
    | refine ite_frame ?_ ?_
    | refine (State.advanceTo_frame π hDt _ _).trans ?_
    | refine (State.refreshStable_frame π hHa _).trans ?_
    | refine (State.sendMailbox_frame π hOut hLink hPort _).trans ?_
    | refine (State.sendHeartbeat_frame π hOut hPort hHa _).trans ?_
    | refine (hHa _ _).trans ?_
    | refine (State.sendOwner_frame π hOut hLink hPort _ _ _).trans ?_
    | refine (foldl_frame π _ ?_ _ _).trans ?_
    | refine (foldl_frame2 π _ ?_ _ _).trans ?_
    | refine ⟨_, rfl, ?_⟩
    | refine pair_frame (by with_reducible assumption) ?_
    | split
    | (dsimp only)

theorem State.pairedWith_frame {α : Type} (π : State → α) (hFresh : KeepsFresh π) (hOut : KeepsOut π) (hLink : KeepsLink π) (hPort : KeepsPort π) (hCqe : KeepsCqe π) (hWc : KeepsWc π) (hDge : KeepsDge π) (hDxu : KeepsDxu π) (hCpe : KeepsCpe π) (hFtu : KeepsFtu π) (hHa : KeepsHa π) (hSnw : KeepsSnw π) (hSlc : KeepsSlc π) (hCfg : KeepsCfg π) (hEvr : KeepsEvr π) (s : State) (serial : Nat) (wcGib : Nat) (fwver : BitVec 24) (compat : BitVec 8) (cepoch : Nat) :
    π (State.pairedWith s serial wcGib fwver compat cepoch) = π s := by
  unfold State.pairedWith
  with_reducible repeat' first
    | rfl
    | assumption
    | (intro)
    | refine ite_frame ?_ ?_
    | refine (hSnw _ _).trans ?_
    | refine (State.event_frame π hEvr _ _ _ _ _ _ _).trans ?_
    | refine (hHa _ _).trans ?_
    | refine (hWc _ _).trans ?_
    | refine (State.disagreement_frame π hFresh hEvr _ _ _ _).trans ?_
    | refine (State.judgeFw_frame π hFresh hOut hLink hPort hCqe hWc hDge hDxu hCpe hFtu hHa hSlc hEvr _).trans ?_
    | refine (State.judgeEpoch_frame π hFresh hOut hPort hCfg hEvr _ _).trans ?_
    | refine (State.joinArray_frame π hFresh hOut hLink hPort hWc hDxu hHa hEvr _).trans ?_
    | refine (State.sendOwner_frame π hOut hLink hPort _ _ _).trans ?_
    | refine (State.sendEpoch_frame π hOut hLink hPort _ _ _).trans ?_
    | refine (foldl_frame π _ ?_ _ _).trans ?_
    | refine (foldl_frame2 π _ ?_ _ _).trans ?_
    | refine pair_frame (by with_reducible assumption) ?_
    | split
    | (dsimp only)

theorem execPairing_frame {α : Type} (π : State → α) (hFresh : KeepsFresh π) (hOut : KeepsOut π) (hLink : KeepsLink π) (hPort : KeepsPort π) (hCqe : KeepsCqe π) (hWc : KeepsWc π) (hDge : KeepsDge π) (hDxu : KeepsDxu π) (hCpe : KeepsCpe π) (hFtu : KeepsFtu π) (hHa : KeepsHa π) (hSnw : KeepsSnw π) (hSlc : KeepsSlc π) (hCfg : KeepsCfg π) (hEvr : KeepsEvr π) (serial : Nat) (sigOk : Bool) (wcGib : Nat) (fwver : BitVec 24) (compatMinor : BitVec 8) (cepoch : Nat) (s : State) :
    ∃ s', execPairing serial sigOk wcGib fwver compatMinor cepoch s = .next s' ∧ π s' = π s := by
  unfold execPairing
  with_reducible repeat' first
    | rfl
    | assumption
    | (intro)
    | refine ite_frame ?_ ?_
    | refine (State.pairedWith_frame π hFresh hOut hLink hPort hCqe hWc hDge hDxu hCpe hFtu hHa hSnw hSlc hCfg hEvr _ _ _ _ _ _).trans ?_
    | refine ⟨_, rfl, ?_⟩
    | refine pair_frame (by with_reducible assumption) ?_
    | split
    | (dsimp only)

end Sys2Proof.Machine
end

