-- ==== Sys2Proof/Laws/FrameImages.lean ====
section
/-! SUPPORT. What the definitions of Machine/Images.lean leave alone: a view of the state that no block they write can change reads
the same after them. -/

set_option linter.unusedSimpArgs false

namespace Sys2Proof.Machine

open Sys2Proof

theorem State.rejectImage_frame {α : Type} (π : State → α) (hFresh : KeepsFresh π) (hEvr : KeepsEvr π) (s : State) (slotB : Bool) (f : Nat × Option Nat) :
    π (State.rejectImage s slotB f) = π s := by
  unfold State.rejectImage
  with_reducible
    repeat' first | (rfl) | (refine (State.freshen_frame π hFresh _).trans ?_) | (refine (State.event_frame π hEvr _ _ _ _ _ _ _).trans ?_)

theorem State.writeBcb_frame {α : Type} (π : State → α) (hNvi : KeepsNvi π) (s : State) (f : Nvi → Nvi) :
    π (State.writeBcb s f) = π s := by
  unfold State.writeBcb
  with_reducible
    repeat' first | (rfl) | (refine (hNvi _ _).trans ?_)

theorem State.modUpdate_frame {α : Type} (π : State → α) (hNvi : KeepsNvi π) (s : State) (sess : Nat) (f : Update → Update) :
    π (State.modUpdate s sess f) = π s := by
  unfold State.modUpdate
  with_reducible repeat' first
    | rfl
    | assumption
    | (intro)
    | refine ite_frame ?_ ?_
    | refine (hNvi _ _).trans ?_
    | refine pair_frame (by with_reducible assumption) ?_
    | split
    | (dsimp only)

theorem State.endUpdate_frame {α : Type} (π : State → α) (hNvi : KeepsNvi π) (s : State) (sess : Nat) :
    π (State.endUpdate s sess) = π s := by
  unfold State.endUpdate
  with_reducible
    repeat' first | (rfl) | (refine (hNvi _ _).trans ?_)

theorem State.imageVc3_frame {α : Type} (π : State → α) (hFresh : KeepsFresh π) (hOut : KeepsOut π) (hPort : KeepsPort π) (hCqe : KeepsCqe π) (hSess : KeepsSess π) (hNvi : KeepsNvi π) (hEvr : KeepsEvr π) (s : State) (m : Vc3) (typ : Nat) (act : State → State) (h_act : ∀ s, π (act s) = π s) :
    π (State.imageVc3 s m typ act) = π s := by
  unfold State.imageVc3
  with_reducible repeat' first
    | rfl
    | assumption
    | (intro)
    | refine (State.vc3_frame π hFresh hOut hPort hCqe hSess hEvr _ _ _ _ _ _ _ ?_).trans ?_
    | refine (State.modUpdate_frame π hNvi _ _ _).trans ?_
    | refine (h_act _).trans ?_
    | refine pair_frame (by with_reducible assumption) ?_
    | split
    | (dsimp only)

theorem execImageBegin_frame {α : Type} (π : State → α) (hFresh : KeepsFresh π) (hOut : KeepsOut π) (hPort : KeepsPort π) (hCqe : KeepsCqe π) (hSess : KeepsSess π) (hNvi : KeepsNvi π) (hEvr : KeepsEvr π) (m : Vc3) (len : Nat) (s : State) :
    ∃ s', execImageBegin m len s = .next s' ∧ π s' = π s := by
  unfold execImageBegin
  with_reducible repeat' first
    | rfl
    | assumption
    | (intro)
    | refine ite_frame ?_ ?_
    | refine (State.imageVc3_frame π hFresh hOut hPort hCqe hSess hNvi hEvr _ _ _ _ ?_).trans ?_
    | refine (State.answer_frame π hOut hPort hSess _ _ _ _ _).trans ?_
    | refine (hNvi _ _).trans ?_
    | refine (State.writeBcb_frame π hNvi _ _).trans ?_
    | refine ⟨_, rfl, ?_⟩
    | refine pair_frame (by with_reducible assumption) ?_
    | split
    | (dsimp only)

theorem execImageWrite_frame {α : Type} (π : State → α) (hFresh : KeepsFresh π) (hOut : KeepsOut π) (hPort : KeepsPort π) (hCqe : KeepsCqe π) (hSess : KeepsSess π) (hNvi : KeepsNvi π) (hEvr : KeepsEvr π) (m : Vc3) (offset : Nat) (len : Nat) (s : State) :
    ∃ s', execImageWrite m offset len s = .next s' ∧ π s' = π s := by
  unfold execImageWrite
  with_reducible repeat' first
    | rfl
    | assumption
    | (intro)
    | refine ite_frame ?_ ?_
    | refine (State.imageVc3_frame π hFresh hOut hPort hCqe hSess hNvi hEvr _ _ _ _ ?_).trans ?_
    | refine (State.answer_frame π hOut hPort hSess _ _ _ _ _).trans ?_
    | refine (State.modUpdate_frame π hNvi _ _ _).trans ?_
    | refine ⟨_, rfl, ?_⟩
    | refine pair_frame (by with_reducible assumption) ?_
    | split
    | (dsimp only)

theorem execImageCommit_frame {α : Type} (π : State → α) (hFresh : KeepsFresh π) (hOut : KeepsOut π) (hPort : KeepsPort π) (hCqe : KeepsCqe π) (hSess : KeepsSess π) (hNvi : KeepsNvi π) (hEvr : KeepsEvr π) (m : Vc3) (img : Image) (s : State) :
    ∃ s', execImageCommit m img s = .next s' ∧ π s' = π s := by
  unfold execImageCommit
  with_reducible repeat' first
    | rfl
    | assumption
    | (intro)
    | refine ite_frame ?_ ?_
    | refine (State.imageVc3_frame π hFresh hOut hPort hCqe hSess hNvi hEvr _ _ _ _ ?_).trans ?_
    | refine (State.answer_frame π hOut hPort hSess _ _ _ _ _).trans ?_
    | refine (hNvi _ _).trans ?_
    | refine (State.endUpdate_frame π hNvi _ _).trans ?_
    | refine (State.writeBcb_frame π hNvi _ _).trans ?_
    | refine (State.rejectImage_frame π hFresh hEvr _ _ _).trans ?_
    | refine (State.event_frame π hEvr _ _ _ _ _ _ _).trans ?_
    | refine ⟨_, rfl, ?_⟩
    | refine pair_frame (by with_reducible assumption) ?_
    | split
    | (dsimp only)

theorem execImageConfirm_frame {α : Type} (π : State → α) (hFresh : KeepsFresh π) (hOut : KeepsOut π) (hPort : KeepsPort π) (hCqe : KeepsCqe π) (hSess : KeepsSess π) (hRot : KeepsRot π) (hFuses : KeepsFuses π) (hNvi : KeepsNvi π) (hEvr : KeepsEvr π) (m : Vc3) (s : State) :
    ∃ s', execImageConfirm m s = .next s' ∧ π s' = π s := by
  unfold execImageConfirm
  with_reducible repeat' first
    | rfl
    | assumption
    | (intro)
    | refine ite_frame ?_ ?_
    | refine (State.imageVc3_frame π hFresh hOut hPort hCqe hSess hNvi hEvr _ _ _ _ ?_).trans ?_
    | refine (State.answer_frame π hOut hPort hSess _ _ _ _ _).trans ?_
    | refine (State.writeBcb_frame π hNvi _ _).trans ?_
    | refine (hFuses _ _).trans ?_
    | refine (State.event_frame π hEvr _ _ _ _ _ _ _).trans ?_
    | refine ⟨_, rfl, ?_⟩
    | refine pair_frame (by with_reducible assumption) ?_
    | split
    | (dsimp only)

theorem execImageStatus_frame {α : Type} (π : State → α) (hFresh : KeepsFresh π) (hOut : KeepsOut π) (hPort : KeepsPort π) (hCqe : KeepsCqe π) (hSess : KeepsSess π) (hNvi : KeepsNvi π) (hEvr : KeepsEvr π) (m : Vc3) (s : State) :
    ∃ s', execImageStatus m s = .next s' ∧ π s' = π s := by
  unfold execImageStatus
  with_reducible repeat' first
    | rfl
    | assumption
    | (intro)
    | refine (State.imageVc3_frame π hFresh hOut hPort hCqe hSess hNvi hEvr _ _ _ _ ?_).trans ?_
    | refine (State.answer_frame π hOut hPort hSess _ _ _ _ _).trans ?_
    | refine ⟨_, rfl, ?_⟩
    | refine pair_frame (by with_reducible assumption) ?_
    | split
    | (dsimp only)

theorem execImageIdleTimeout_frame {α : Type} (π : State → α) (hDt : KeepsDt π) (hNvi : KeepsNvi π) (s : State) :
    ∃ s', execImageIdleTimeout s = .next s' ∧ π s' = π s := by
  unfold execImageIdleTimeout
  with_reducible repeat' first
    | rfl
    | assumption
    | (intro)
    | refine ite_frame ?_ ?_
    | refine (State.endUpdate_frame π hNvi _ _).trans ?_
    | refine (State.advanceTo_frame π hDt _ _).trans ?_
    | refine (foldl_frame π _ ?_ _ _).trans ?_
    | refine (foldl_frame2 π _ ?_ _ _).trans ?_
    | refine ⟨_, rfl, ?_⟩
    | refine pair_frame (by with_reducible assumption) ?_
    | split
    | (dsimp only)

theorem State.freeCert_frame {α : Type} (π : State → α) (hFresh : KeepsFresh π) (s : State) :
    π (State.freeCert s).2 = π s := by
  unfold State.freeCert
  with_reducible
    repeat' first | (rfl) | (refine (State.freshen_frame π hFresh _).trans ?_)

theorem State.freeChain_frame {α : Type} (π : State → α) (hFresh : KeepsFresh π) (s : State) (x0 : Nat) :
    π (State.freeChain s x0).2 = π s := by
  induction x0 generalizing s with
  | zero => rfl
  | succ k ih =>
    unfold State.freeChain
    with_reducible repeat' first
      | rfl
      | assumption
      | (intro)
      | refine (ih _).trans ?_
      | refine ite_frame ?_ ?_
      | refine ite_frame2 ?_ ?_
      | refine (State.freeCert_frame π hFresh _).trans ?_
      | refine (pair_frame (by with_reducible assumption) (State.freeCert_frame π hFresh _)).trans ?_
      | refine pair_frame (by with_reducible assumption) ?_
      | split
      | (dsimp only)

theorem execCertRead_frame {α : Type} (π : State → α) (hFresh : KeepsFresh π) (hOut : KeepsOut π) (hPort : KeepsPort π) (hCqe : KeepsCqe π) (hSess : KeepsSess π) (hEvr : KeepsEvr π) (m : Vc3) (chain : Byte) (s : State) :
    ∃ s', execCertRead m chain s = .next s' ∧ π s' = π s := by
  unfold execCertRead
  with_reducible repeat' first
    | rfl
    | assumption
    | (intro)
    | refine ite_frame ?_ ?_
    | refine ite_frame2 ?_ ?_
    | refine (State.vc3_frame π hFresh hOut hPort hCqe hSess hEvr _ _ _ _ _ _ _ ?_).trans ?_
    | refine (State.answer_frame π hOut hPort hSess _ _ _ _ _).trans ?_
    | refine (State.freeChain_frame π hFresh _ _).trans ?_
    | refine (pair_frame (by with_reducible assumption) (State.freeChain_frame π hFresh _ _)).trans ?_
    | refine ⟨_, rfl, ?_⟩
    | refine pair_frame (by with_reducible assumption) ?_
    | split
    | (dsimp only)

theorem execAttest_frame {α : Type} (π : State → α) (hFresh : KeepsFresh π) (hOut : KeepsOut π) (hPort : KeepsPort π) (hCqe : KeepsCqe π) (hSess : KeepsSess π) (hEvr : KeepsEvr π) (m : Vc3) (nonce : Bytes) (s : State) :
    ∃ s', execAttest m nonce s = .next s' ∧ π s' = π s := by
  unfold execAttest
  with_reducible repeat' first
    | rfl
    | assumption
    | (intro)
    | refine (State.vc3_frame π hFresh hOut hPort hCqe hSess hEvr _ _ _ _ _ _ _ ?_).trans ?_
    | refine (State.answer_frame π hOut hPort hSess _ _ _ _ _).trans ?_
    | refine (State.event_frame π hEvr _ _ _ _ _ _ _).trans ?_
    | refine (State.freshen_frame π hFresh _).trans ?_
    | refine ⟨_, rfl, ?_⟩
    | refine pair_frame (by with_reducible assumption) ?_
    | split
    | (dsimp only)

theorem execKeySlotParity_frame {α : Type} (π : State → α) (hXts : KeepsXts π) (hEvr : KeepsEvr π) (slot : Fin 4129) (s : State) :
    ∃ s', execKeySlotParity slot s = .next s' ∧ π s' = π s := by
  unfold execKeySlotParity
  with_reducible repeat' first
    | rfl
    | assumption
    | (intro)
    | refine ite_frame ?_ ?_
    | refine (hXts _ _).trans ?_
    | refine (State.event_frame π hEvr _ _ _ _ _ _ _).trans ?_
    | refine ⟨_, rfl, ?_⟩
    | refine pair_frame (by with_reducible assumption) ?_
    | split
    | (dsimp only)

theorem execKeysInstalled_frame {α : Type} (π : State → α) (hCqe : KeepsCqe π) (hXts : KeepsXts π) (hCfg : KeepsCfg π) (hEvr : KeepsEvr π) (slot : Fin 4129) (s : State) :
    ∃ s', execKeysInstalled slot s = .next s' ∧ π s' = π s := by
  unfold execKeysInstalled
  with_reducible repeat' first
    | rfl
    | assumption
    | (intro)
    | refine ite_frame ?_ ?_
    | refine (hXts _ _).trans ?_
    | refine (State.refreshVolumes_frame π hCqe hCfg _).trans ?_
    | refine (State.event_frame π hEvr _ _ _ _ _ _ _).trans ?_
    | refine ⟨_, rfl, ?_⟩
    | refine pair_frame (by with_reducible assumption) ?_
    | split
    | (dsimp only)

end Sys2Proof.Machine
end

