-- ==== Sys2Proof/Laws/FrameMemory.lean ====
section
/-! SUPPORT. What the definitions of Machine/Memory.lean leave alone: a view of the state that no block they write can change reads
the same after them. -/

set_option linter.unusedSimpArgs false

namespace Sys2Proof.Machine

open Sys2Proof

theorem State.carve_frame {α : Type} (π : State → α) (hWc : KeepsWc π) (hMcu : KeepsMcu π) (hEvr : KeepsEvr π) (s : State) :
    π (State.carve s) = π s := by
  unfold State.carve
  with_reducible repeat' first
    | rfl
    | assumption
    | (intro)
    | refine ite_frame ?_ ?_
    | refine (hWc _ _).trans ?_
    | refine (hMcu _ _).trans ?_
    | refine (State.event_frame π hEvr _ _ _ _ _ _ _).trans ?_
    | refine pair_frame (by with_reducible assumption) ?_
    | split
    | (dsimp only)

theorem execZqCalibration_frame {α : Type} (π : State → α) (hDt : KeepsDt π) (hMcu : KeepsMcu π) (s : State) :
    ∃ s', execZqCalibration s = .next s' ∧ π s' = π s := by
  unfold execZqCalibration
  with_reducible repeat' first
    | rfl
    | assumption
    | (intro)
    | refine ite_frame ?_ ?_
    | refine (State.advanceTo_frame π hDt _ _).trans ?_
    | refine (hMcu _ _).trans ?_
    | refine ⟨_, rfl, ?_⟩
    | refine pair_frame (by with_reducible assumption) ?_
    | split
    | (dsimp only)

theorem execEcsRead_frame {α : Type} (π : State → α) (hDt : KeepsDt π) (hMcu : KeepsMcu π) (counts : List (Nat × Nat)) (s : State) :
    ∃ s', execEcsRead counts s = .next s' ∧ π s' = π s := by
  unfold execEcsRead
  with_reducible repeat' first
    | rfl
    | assumption
    | (intro)
    | refine ite_frame ?_ ?_
    | refine (State.advanceTo_frame π hDt _ _).trans ?_
    | refine (hMcu _ _).trans ?_
    | refine ⟨_, rfl, ?_⟩
    | refine pair_frame (by with_reducible assumption) ?_
    | split
    | (dsimp only)

theorem State.dramCe_frame {α : Type} (π : State → α) (hMcu : KeepsMcu π) (hEvr : KeepsEvr π) (s : State) (ch : Nat) (rank : Nat) :
    π (State.dramCe s ch rank) = π s := by
  unfold State.dramCe
  with_reducible repeat' first
    | rfl
    | assumption
    | (intro)
    | refine ite_frame ?_ ?_
    | refine ite_frame2 ?_ ?_
    | refine (hMcu _ _).trans ?_
    | refine (State.event_frame π hEvr _ _ _ _ _ _ _).trans ?_
    | refine pair_frame (by with_reducible assumption) ?_
    | split
    | (dsimp only)

theorem execDramCorrected_frame {α : Type} (π : State → α) (hMcu : KeepsMcu π) (hEvr : KeepsEvr π) (channel : Fin 12) (rank : Nat) (s : State) :
    ∃ s', execDramCorrected channel rank s = .next s' ∧ π s' = π s := by
  unfold execDramCorrected
  with_reducible repeat' first
    | rfl
    | assumption
    | (intro)
    | refine ite_frame ?_ ?_
    | refine (State.dramCe_frame π hMcu hEvr _ _ _).trans ?_
    | refine ⟨_, rfl, ?_⟩
    | refine pair_frame (by with_reducible assumption) ?_
    | split
    | (dsimp only)

theorem State.frameDamaged_frame {α : Type} (π : State → α) (hFresh : KeepsFresh π) (hOut : KeepsOut π) (hPort : KeepsPort π) (hCqe : KeepsCqe π) (hWc : KeepsWc π) (hDxu : KeepsDxu π) (hFtu : KeepsFtu π) (hPxe : KeepsPxe π) (hEvr : KeepsEvr π) (s : State) (i : Nat) :
    π (State.frameDamaged s i) = π s := by
  unfold State.frameDamaged
  with_reducible repeat' first
    | rfl
    | assumption
    | (intro)
    | refine ite_frame ?_ ?_
    | refine (State.freshen_frame π hFresh _).trans ?_
    | refine (State.undoDestage_frame π hWc hDxu _ _).trans ?_
    | refine (State.loseGrain_frame π hCqe hDxu hFtu hPxe hEvr _ _ _ _ _).trans ?_
    | refine (State.releaseFrame_frame π hOut hPort hWc hFtu _ _).trans ?_
    | refine (State.modFrame_frame π hWc _ _ _).trans ?_
    | refine pair_frame (by with_reducible assumption) ?_
    | split
    | (dsimp only)

theorem State.regionDamaged_frame {α : Type} (π : State → α) (hFresh : KeepsFresh π) (hOut : KeepsOut π) (hPort : KeepsPort π) (hCqe : KeepsCqe π) (hWc : KeepsWc π) (hDxu : KeepsDxu π) (hCpe : KeepsCpe π) (hFtu : KeepsFtu π) (hPxe : KeepsPxe π) (hRcc : KeepsRcc π) (hEvr : KeepsEvr π) (hWarm : KeepsWarm π) (s : State) (region : Nat) (index : Nat) :
    π (State.regionDamaged s region index) = π s := by
  unfold State.regionDamaged
  with_reducible repeat' first
    | rfl
    | assumption
    | (intro)
    | refine ite_frame ?_ ?_
    | refine (State.frameDamaged_frame π hFresh hOut hPort hCqe hWc hDxu hFtu hPxe hEvr _ _).trans ?_
    | refine (hWc _ _).trans ?_
    | refine (hFtu _ _).trans ?_
    | refine (State.setDomain_frame π hCqe hDxu hEvr _ _ _ _).trans ?_
    | refine (State.streamParity_frame π hCpe hEvr _ _).trans ?_
    | refine (hEvr _ _).trans ?_
    | refine (State.warmReset_frame π hRcc hEvr hWarm _).trans ?_
    | refine pair_frame (by with_reducible assumption) ?_
    | split
    | (dsimp only)

theorem State.dramUe_frame {α : Type} (π : State → α) (hFresh : KeepsFresh π) (hOut : KeepsOut π) (hPort : KeepsPort π) (hCqe : KeepsCqe π) (hWc : KeepsWc π) (hDxu : KeepsDxu π) (hCpe : KeepsCpe π) (hFtu : KeepsFtu π) (hPxe : KeepsPxe π) (hMcu : KeepsMcu π) (hRcc : KeepsRcc π) (hEvr : KeepsEvr π) (hWarm : KeepsWarm π) (s : State) (ch : Nat) (rank : Nat) (addr : Nat) (region : Nat) (index : Nat) :
    π (State.dramUe s ch rank addr region index) = π s := by
  unfold State.dramUe
  with_reducible
    repeat' first | (rfl) | (refine (hMcu _ _).trans ?_) | (refine (State.regionDamaged_frame π hFresh hOut hPort hCqe hWc hDxu hCpe hFtu hPxe hRcc hEvr hWarm _ _ _).trans ?_) | (refine (State.event_frame π hEvr _ _ _ _ _ _ _).trans ?_)

theorem execDramUncorrectable_frame {α : Type} (π : State → α) (hFresh : KeepsFresh π) (hOut : KeepsOut π) (hPort : KeepsPort π) (hCqe : KeepsCqe π) (hWc : KeepsWc π) (hDxu : KeepsDxu π) (hCpe : KeepsCpe π) (hFtu : KeepsFtu π) (hPxe : KeepsPxe π) (hMcu : KeepsMcu π) (hRcc : KeepsRcc π) (hEvr : KeepsEvr π) (hWarm : KeepsWarm π) (channel : Fin 12) (rank : Nat) (addr : BitVec 48) (region : Nat) (index : Nat) (s : State) :
    ∃ s', execDramUncorrectable channel rank addr region index s = .next s' ∧ π s' = π s := by
  unfold execDramUncorrectable
  with_reducible repeat' first
    | rfl
    | assumption
    | (intro)
    | refine ite_frame ?_ ?_
    | refine (State.dramUe_frame π hFresh hOut hPort hCqe hWc hDxu hCpe hFtu hPxe hMcu hRcc hEvr hWarm _ _ _ _ _ _).trans ?_
    | refine ⟨_, rfl, ?_⟩
    | refine pair_frame (by with_reducible assumption) ?_
    | split
    | (dsimp only)

theorem execDramPatrolScrub_frame {α : Type} (π : State → α) (hDt : KeepsDt π) (hFresh : KeepsFresh π) (hOut : KeepsOut π) (hPort : KeepsPort π) (hCqe : KeepsCqe π) (hWc : KeepsWc π) (hDxu : KeepsDxu π) (hCpe : KeepsCpe π) (hFtu : KeepsFtu π) (hPxe : KeepsPxe π) (hMcu : KeepsMcu π) (hRcc : KeepsRcc π) (hEvr : KeepsEvr π) (hWarm : KeepsWarm π) (found : List (Nat × Nat × Option (Nat × Nat × Nat))) (s : State) :
    ∃ s', execDramPatrolScrub found s = .next s' ∧ π s' = π s := by
  unfold execDramPatrolScrub
  with_reducible repeat' first
    | rfl
    | assumption
    | (intro)
    | refine ite_frame ?_ ?_
    | refine ite_frame2 ?_ ?_
    | refine (State.advanceTo_frame π hDt _ _).trans ?_
    | refine (hMcu _ _).trans ?_
    | refine (State.dramCe_frame π hMcu hEvr _ _ _).trans ?_
    | refine (State.dramUe_frame π hFresh hOut hPort hCqe hWc hDxu hCpe hFtu hPxe hMcu hRcc hEvr hWarm _ _ _ _ _ _).trans ?_
    | refine (foldl_frame π _ ?_ _ _).trans ?_
    | refine (foldl_frame2 π _ ?_ _ _).trans ?_
    | refine ⟨_, rfl, ?_⟩
    | refine pair_frame (by with_reducible assumption) ?_
    | split
    | (dsimp only)

theorem execStagingReleaseTimeout_frame {α : Type} (π : State → α) (hDt : KeepsDt π) (hSlc : KeepsSlc π) (qp : BitVec 14) (cid : BitVec 16) (s : State) :
    ∃ s', execStagingReleaseTimeout qp cid s = .next s' ∧ π s' = π s := by
  unfold execStagingReleaseTimeout
  with_reducible repeat' first
    | rfl
    | assumption
    | (intro)
    | refine ite_frame ?_ ?_
    | refine ite_frame2 ?_ ?_
    | refine (State.unstage_frame π hSlc _ _ _).trans ?_
    | refine (State.advanceTo_frame π hDt _ _).trans ?_
    | refine ⟨_, rfl, ?_⟩
    | refine pair_frame (by with_reducible assumption) ?_
    | split
    | (dsimp only)

theorem State.retireWay_frame {α : Type} (π : State → α) (hSlc : KeepsSlc π) (hEvr : KeepsEvr π) (s : State) (slice : Nat) (way : Nat) (cause : Nat) :
    π (State.retireWay s slice way cause) = π s := by
  unfold State.retireWay
  with_reducible repeat' first
    | rfl
    | assumption
    | (intro)
    | refine ite_frame ?_ ?_
    | refine (hSlc _ _).trans ?_
    | refine (State.event_frame π hEvr _ _ _ _ _ _ _).trans ?_
    | refine pair_frame (by with_reducible assumption) ?_
    | split
    | (dsimp only)

theorem execSlcCorrected_frame {α : Type} (π : State → α) (hSlc : KeepsSlc π) (hEvr : KeepsEvr π) (slice : Fin 64) (way : Fin 16) (s : State) :
    ∃ s', execSlcCorrected slice way s = .next s' ∧ π s' = π s := by
  unfold execSlcCorrected
  with_reducible repeat' first
    | rfl
    | assumption
    | (intro)
    | refine ite_frame ?_ ?_
    | refine ite_frame2 ?_ ?_
    | refine (hSlc _ _).trans ?_
    | refine (State.event_frame π hEvr _ _ _ _ _ _ _).trans ?_
    | refine (State.retireWay_frame π hSlc hEvr _ _ _ _).trans ?_
    | refine ⟨_, rfl, ?_⟩
    | refine pair_frame (by with_reducible assumption) ?_
    | split
    | (dsimp only)

theorem State.outboundLost_frame {α : Type} (π : State → α) (hPort : KeepsPort π) (hCqe : KeepsCqe π) (hFtu : KeepsFtu π) (s : State) (c : Cmd) (off : Nat) :
    π (State.outboundLost s c off) = π s := by
  unfold State.outboundLost
  with_reducible repeat' first
    | rfl
    | assumption
    | (intro)
    | refine ite_frame ?_ ?_
    | refine (State.recoverLater_frame π hFtu _ _ _).trans ?_
    | refine (State.modCmd_frame π hCqe _ _ _ _).trans ?_
    | refine (hPort _ _ _).trans ?_
    | refine (hCqe _ _).trans ?_
    | refine pair_frame (by with_reducible assumption) ?_
    | split
    | (dsimp only)

theorem State.lineLost_frame {α : Type} (π : State → α) (hFresh : KeepsFresh π) (hOut : KeepsOut π) (hPort : KeepsPort π) (hCqe : KeepsCqe π) (hWc : KeepsWc π) (hDge : KeepsDge π) (hDxu : KeepsDxu π) (hCpe : KeepsCpe π) (hFtu : KeepsFtu π) (hPxe : KeepsPxe π) (hSlc : KeepsSlc π) (hRcc : KeepsRcc π) (hEvr : KeepsEvr π) (hWarm : KeepsWarm π) (s : State) (holds : Nat) (region : Nat) (index : Nat) :
    π (State.lineLost s holds region index) = π s := by
  unfold State.lineLost
  with_reducible repeat' first
    | rfl
    | assumption
    | (intro)
    | refine ite_frame ?_ ?_
    | refine (State.regionDamaged_frame π hFresh hOut hPort hCqe hWc hDxu hCpe hFtu hPxe hRcc hEvr hWarm _ _ _).trans ?_
    | refine (State.pokeCaws_frame π hOut hPort hCqe hWc hDge hCpe hFtu hSlc hEvr _).trans ?_
    | refine (State.endEarly_frame π hOut hPort hCqe hWc hDge hCpe hFtu hSlc hEvr _ _ _).trans ?_
    | refine (State.outboundLost_frame π hPort hCqe hFtu _ _ _).trans ?_
    | refine pair_frame (by with_reducible assumption) ?_
    | split
    | (dsimp only)

theorem execSlcUncorrectable_frame {α : Type} (π : State → α) (hFresh : KeepsFresh π) (hOut : KeepsOut π) (hPort : KeepsPort π) (hCqe : KeepsCqe π) (hWc : KeepsWc π) (hDge : KeepsDge π) (hDxu : KeepsDxu π) (hCpe : KeepsCpe π) (hFtu : KeepsFtu π) (hPxe : KeepsPxe π) (hSlc : KeepsSlc π) (hRcc : KeepsRcc π) (hEvr : KeepsEvr π) (hWarm : KeepsWarm π) (slice : Fin 64) (way : Fin 16) (holds : Fin 5) (region : Nat) (index : Nat) (s : State) :
    ∃ s', execSlcUncorrectable slice way holds region index s = .next s' ∧ π s' = π s := by
  unfold execSlcUncorrectable
  with_reducible repeat' first
    | rfl
    | assumption
    | (intro)
    | refine ite_frame ?_ ?_
    | refine (hSlc _ _).trans ?_
    | refine (State.event_frame π hEvr _ _ _ _ _ _ _).trans ?_
    | refine (State.lineLost_frame π hFresh hOut hPort hCqe hWc hDge hDxu hCpe hFtu hPxe hSlc hRcc hEvr hWarm _ _ _ _).trans ?_
    | refine (State.retireWay_frame π hSlc hEvr _ _ _ _).trans ?_
    | refine ⟨_, rfl, ?_⟩
    | refine pair_frame (by with_reducible assumption) ?_
    | split
    | (dsimp only)

theorem State.setSlc_frame {α : Type} (π : State → α) (hSlc : KeepsSlc π) (hEvr : KeepsEvr π) (s : State) (st : SlcSt) (sess : Nat) :
    π (State.setSlc s st sess) = π s := by
  unfold State.setSlc
  with_reducible repeat' first
    | rfl
    | assumption
    | (intro)
    | refine ite_frame ?_ ?_
    | refine (hSlc _ _).trans ?_
    | refine (State.event_frame π hEvr _ _ _ _ _ _ _).trans ?_
    | refine pair_frame (by with_reducible assumption) ?_
    | split
    | (dsimp only)

theorem State.requestWays_frame {α : Type} (π : State → α) (hSlc : KeepsSlc π) (hEvr : KeepsEvr π) (s : State) (n : Nat) (sess : Nat) :
    π (State.requestWays s n sess) = π s := by
  unfold State.requestWays
  with_reducible repeat' first
    | rfl
    | assumption
    | (intro)
    | refine ite_frame ?_ ?_
    | refine (hSlc _ _).trans ?_
    | refine (State.event_frame π hEvr _ _ _ _ _ _ _).trans ?_
    | refine (State.setSlc_frame π hSlc hEvr _ _ _).trans ?_
    | refine pair_frame (by with_reducible assumption) ?_
    | split
    | (dsimp only)

theorem State.writeSpad_frame {α : Type} (π : State → α) (hSlc : KeepsSlc π) (hEvr : KeepsEvr π) (s : State) (v : Nat) (sess : Nat) :
    π (State.writeSpad s v sess) = π s := by
  unfold State.writeSpad
  with_reducible
    repeat' first | (rfl) | (refine (hSlc _ _).trans ?_) | (refine (State.requestWays_frame π hSlc hEvr _ _ _).trans ?_)

theorem execSpadWaysReq_frame {α : Type} (π : State → α) (hFresh : KeepsFresh π) (hOut : KeepsOut π) (hPort : KeepsPort π) (hCqe : KeepsCqe π) (hSess : KeepsSess π) (hSlc : KeepsSlc π) (hEvr : KeepsEvr π) (m : Vc3) (value : Word) (s : State) :
    ∃ s', execSpadWaysReq m value s = .next s' ∧ π s' = π s := by
  unfold execSpadWaysReq
  with_reducible repeat' first
    | rfl
    | assumption
    | (intro)
    | refine (State.regWrite_frame π hFresh hOut hPort hCqe hSess hEvr _ _ _ _ _ ?_).trans ?_
    | refine (State.writeSpad_frame π hSlc hEvr _ _ _).trans ?_
    | refine ⟨_, rfl, ?_⟩
    | refine pair_frame (by with_reducible assumption) ?_
    | split
    | (dsimp only)

theorem execSpadChanged_frame {α : Type} (π : State → α) (hDt : KeepsDt π) (hFresh : KeepsFresh π) (hSlc : KeepsSlc π) (hEvr : KeepsEvr π) (s : State) :
    ∃ s', execSpadChanged s = .next s' ∧ π s' = π s := by
  unfold execSpadChanged
  with_reducible repeat' first
    | rfl
    | assumption
    | (intro)
    | refine ite_frame ?_ ?_
    | refine (State.advanceTo_frame π hDt _ _).trans ?_
    | refine (State.event_frame π hEvr _ _ _ _ _ _ _).trans ?_
    | refine (hSlc _ _).trans ?_
    | refine (State.freshen_frame π hFresh _).trans ?_
    | refine (State.setSlc_frame π hSlc hEvr _ _ _).trans ?_
    | refine ⟨_, rfl, ?_⟩
    | refine pair_frame (by with_reducible assumption) ?_
    | split
    | (dsimp only)

theorem State.writeSlcCtrl_frame {α : Type} (π : State → α) (hSlc : KeepsSlc π) (hEvr : KeepsEvr π) (s : State) (v : Nat) (sess : Nat) :
    π (State.writeSlcCtrl s v sess) = π s := by
  unfold State.writeSlcCtrl
  with_reducible repeat' first
    | rfl
    | assumption
    | (intro)
    | refine ite_frame ?_ ?_
    | refine (hSlc _ _).trans ?_
    | refine (State.event_frame π hEvr _ _ _ _ _ _ _).trans ?_
    | refine (State.setSlc_frame π hSlc hEvr _ _ _).trans ?_
    | refine pair_frame (by with_reducible assumption) ?_
    | split
    | (dsimp only)

theorem execSlcDisable_frame {α : Type} (π : State → α) (hFresh : KeepsFresh π) (hOut : KeepsOut π) (hPort : KeepsPort π) (hCqe : KeepsCqe π) (hSess : KeepsSess π) (hSlc : KeepsSlc π) (hEvr : KeepsEvr π) (m : Vc3) (value : Word) (s : State) :
    ∃ s', execSlcDisable m value s = .next s' ∧ π s' = π s := by
  unfold execSlcDisable
  with_reducible repeat' first
    | rfl
    | assumption
    | (intro)
    | refine (State.regWrite_frame π hFresh hOut hPort hCqe hSess hEvr _ _ _ _ _ ?_).trans ?_
    | refine (State.writeSlcCtrl_frame π hSlc hEvr _ _ _).trans ?_
    | refine ⟨_, rfl, ?_⟩
    | refine pair_frame (by with_reducible assumption) ?_
    | split
    | (dsimp only)

theorem execSlcEnable_frame {α : Type} (π : State → α) (hFresh : KeepsFresh π) (hOut : KeepsOut π) (hPort : KeepsPort π) (hCqe : KeepsCqe π) (hSess : KeepsSess π) (hSlc : KeepsSlc π) (hEvr : KeepsEvr π) (m : Vc3) (value : Word) (s : State) :
    ∃ s', execSlcEnable m value s = .next s' ∧ π s' = π s := by
  unfold execSlcEnable
  with_reducible repeat' first
    | rfl
    | assumption
    | (intro)
    | refine (State.regWrite_frame π hFresh hOut hPort hCqe hSess hEvr _ _ _ _ _ ?_).trans ?_
    | refine (State.writeSlcCtrl_frame π hSlc hEvr _ _ _).trans ?_
    | refine ⟨_, rfl, ?_⟩
    | refine pair_frame (by with_reducible assumption) ?_
    | split
    | (dsimp only)

theorem execSlcFlushDone_frame {α : Type} (π : State → α) (hFresh : KeepsFresh π) (hSlc : KeepsSlc π) (hEvr : KeepsEvr π) (s : State) :
    ∃ s', execSlcFlushDone s = .next s' ∧ π s' = π s := by
  unfold execSlcFlushDone
  with_reducible repeat' first
    | rfl
    | assumption
    | (intro)
    | refine ite_frame ?_ ?_
    | refine (State.freshen_frame π hFresh _).trans ?_
    | refine (State.setSlc_frame π hSlc hEvr _ _ _).trans ?_
    | refine ⟨_, rfl, ?_⟩
    | refine pair_frame (by with_reducible assumption) ?_
    | split
    | (dsimp only)

end Sys2Proof.Machine
end

