-- ==== Sys2Proof/Laws/FrameLifecycle.lean ====
section
/-! SUPPORT. What the definitions of Machine/Lifecycle.lean leave alone: a view of the state that no block they write can change reads
the same after them. -/

set_option linter.unusedSimpArgs false

namespace Sys2Proof.Machine

open Sys2Proof

theorem State.reasonTo_frame {α : Type} (π : State → α) (hOut : KeepsOut π) (hPort : KeepsPort π) (hSess : KeepsSess π) (s : State) (port : Nat) (sess : Nat) (reqId : Nat) (typ : Nat) (reason : Nat) (more : Bytes) :
    π (State.reasonTo s port sess reqId typ reason more) = π s := by
  unfold State.reasonTo
  with_reducible repeat' first
    | rfl
    | assumption
    | (intro)
    | refine ite_frame ?_ ?_
    | refine (State.answerTo_frame π hOut hPort hSess _ _ _ _ _ _ _).trans ?_
    | refine pair_frame (by with_reducible assumption) ?_
    | split
    | (dsimp only)

theorem State.reason_frame {α : Type} (π : State → α) (hOut : KeepsOut π) (hPort : KeepsPort π) (hSess : KeepsSess π) (s : State) (m : Vc3) (typ : Nat) (reason : Nat) (more : Bytes) :
    π (State.reason s m typ reason more) = π s := by
  unfold State.reason
  with_reducible
    repeat' first | (rfl) | (refine (State.reasonTo_frame π hOut hPort hSess _ _ _ _ _ _ _).trans ?_)

theorem execDbgChallenge_frame {α : Type} (π : State → α) (hFresh : KeepsFresh π) (hOut : KeepsOut π) (hPort : KeepsPort π) (hCqe : KeepsCqe π) (hSess : KeepsSess π) (hDbg : KeepsDbg π) (hEvr : KeepsEvr π) (m : Vc3) (action : Byte) (s : State) :
    ∃ s', execDbgChallenge m action s = .next s' ∧ π s' = π s := by
  unfold execDbgChallenge
  with_reducible repeat' first
    | rfl
    | assumption
    | (intro)
    | refine ite_frame ?_ ?_
    | refine (State.vc3_frame π hFresh hOut hPort hCqe hSess hEvr _ _ _ _ _ _ _ ?_).trans ?_
    | refine (State.reason_frame π hOut hPort hSess _ _ _ _ _).trans ?_
    | refine (hDbg _ _).trans ?_
    | refine (State.freshen_frame π hFresh _).trans ?_
    | refine ⟨_, rfl, ?_⟩
    | refine pair_frame (by with_reducible assumption) ?_
    | split
    | (dsimp only)

theorem execNonceExpiry_frame {α : Type} (π : State → α) (hDt : KeepsDt π) (hDbg : KeepsDbg π) (s : State) :
    ∃ s', execNonceExpiry s = .next s' ∧ π s' = π s := by
  unfold execNonceExpiry
  with_reducible repeat' first
    | rfl
    | assumption
    | (intro)
    | refine ite_frame ?_ ?_
    | refine (hDbg _ _).trans ?_
    | refine (State.advanceTo_frame π hDt _ _).trans ?_
    | refine ⟨_, rfl, ?_⟩
    | refine pair_frame (by with_reducible assumption) ?_
    | split
    | (dsimp only)

theorem State.extendM5_frame {α : Type} (π : State → α) (hRot : KeepsRot π) (s : State) :
    π (State.extendM5 s) = π s := by
  unfold State.extendM5
  with_reducible
    repeat' first | (rfl) | (refine (State.extend_frame π hRot _ _ _).trans ?_)

theorem State.setLevel_frame {α : Type} (π : State → α) (hRot : KeepsRot π) (hDbg : KeepsDbg π) (hEvr : KeepsEvr π) (s : State) (new : Nat) (sess : Nat) (cause : Nat) :
    π (State.setLevel s new sess cause) = π s := by
  unfold State.setLevel
  with_reducible repeat' first
    | rfl
    | assumption
    | (intro)
    | refine ite_frame ?_ ?_
    | refine (State.extendM5_frame π hRot _).trans ?_
    | refine (hDbg _ _).trans ?_
    | refine (State.event_frame π hEvr _ _ _ _ _ _ _).trans ?_
    | refine pair_frame (by with_reducible assumption) ?_
    | split
    | (dsimp only)

theorem State.purge_frame {α : Type} (π : State → α) (hCqe : KeepsCqe π) (hDge : KeepsDge π) (hRot : KeepsRot π) (hXts : KeepsXts π) (hCfg : KeepsCfg π) (hEvr : KeepsEvr π) (s : State) (cause : Nat) :
    π (State.purge s cause) = π s := by
  unfold State.purge
  with_reducible repeat' first
    | rfl
    | assumption
    | (intro)
    | refine (hDge _ _).trans ?_
    | refine (hXts _ _).trans ?_
    | refine (State.refreshVolumes_frame π hCqe hCfg _).trans ?_
    | refine (State.event_frame π hEvr _ _ _ _ _ _ _).trans ?_
    | refine (hRot _ _ ?_).trans ?_
    | refine pair_frame (by with_reducible assumption) ?_
    | split
    | (dsimp only)

theorem State.refuseToken_frame {α : Type} (π : State → α) (hOut : KeepsOut π) (hPort : KeepsPort π) (hSess : KeepsSess π) (hDbg : KeepsDbg π) (hEvr : KeepsEvr π) (s : State) (m : Vc3) (action : Nat) (reason : Nat) :
    π (State.refuseToken s m action reason) = π s := by
  unfold State.refuseToken
  with_reducible
    repeat' first | (rfl) | (refine (hDbg _ _).trans ?_) | (refine (State.reason_frame π hOut hPort hSess _ _ _ _ _).trans ?_) | (refine (State.event_frame π hEvr _ _ _ _ _ _ _).trans ?_)

theorem State.token_frame {α : Type} (π : State → α) (hFresh : KeepsFresh π) (hOut : KeepsOut π) (hPort : KeepsPort π) (hCqe : KeepsCqe π) (hSess : KeepsSess π) (hDbg : KeepsDbg π) (hEvr : KeepsEvr π) (s : State) (m : Vc3) (action : Nat) (t : Token) (act : State → State) (h_act : ∀ s, π (act s) = π s) :
    π (State.token s m action t act) = π s := by
  unfold State.token
  with_reducible repeat' first
    | rfl
    | assumption
    | (intro)
    | refine ite_frame ?_ ?_
    | refine (State.vc3_frame π hFresh hOut hPort hCqe hSess hEvr _ _ _ _ _ _ _ ?_).trans ?_
    | refine (State.freshen_frame π hFresh _).trans ?_
    | refine (State.refuseToken_frame π hOut hPort hSess hDbg hEvr _ _ _ _).trans ?_
    | refine (hDbg _ _).trans ?_
    | refine (h_act _).trans ?_
    | refine pair_frame (by with_reducible assumption) ?_
    | split
    | (dsimp only)

theorem State.startDebug_frame {α : Type} (π : State → α) (hSess : KeepsSess π) (hDbg : KeepsDbg π) (s : State) (m : Vc3) (level : Nat) :
    π (State.startDebug s m level) = π s := by
  unfold State.startDebug
  with_reducible
    repeat' first | (rfl) | (refine (hDbg _ _).trans ?_) | (refine (State.holdAnswer_frame π hSess _ _).trans ?_)

theorem execDebugD2_frame {α : Type} (π : State → α) (hFresh : KeepsFresh π) (hOut : KeepsOut π) (hPort : KeepsPort π) (hCqe : KeepsCqe π) (hSess : KeepsSess π) (hDbg : KeepsDbg π) (hEvr : KeepsEvr π) (m : Vc3) (t : Token) (s : State) :
    ∃ s', execDebugD2 m t s = .next s' ∧ π s' = π s := by
  unfold execDebugD2
  with_reducible repeat' first
    | rfl
    | assumption
    | (intro)
    | refine (State.token_frame π hFresh hOut hPort hCqe hSess hDbg hEvr _ _ _ _ _ ?_).trans ?_
    | refine (State.startDebug_frame π hSess hDbg _ _ _).trans ?_
    | refine ⟨_, rfl, ?_⟩
    | refine pair_frame (by with_reducible assumption) ?_
    | split
    | (dsimp only)

theorem execDebugD3_frame {α : Type} (π : State → α) (hFresh : KeepsFresh π) (hOut : KeepsOut π) (hPort : KeepsPort π) (hCqe : KeepsCqe π) (hSess : KeepsSess π) (hDbg : KeepsDbg π) (hEvr : KeepsEvr π) (m : Vc3) (t : Token) (s : State) :
    ∃ s', execDebugD3 m t s = .next s' ∧ π s' = π s := by
  unfold execDebugD3
  with_reducible repeat' first
    | rfl
    | assumption
    | (intro)
    | refine (State.token_frame π hFresh hOut hPort hCqe hSess hDbg hEvr _ _ _ _ _ ?_).trans ?_
    | refine (State.startDebug_frame π hSess hDbg _ _ _).trans ?_
    | refine ⟨_, rfl, ?_⟩
    | refine pair_frame (by with_reducible assumption) ?_
    | split
    | (dsimp only)

theorem execD2Quiesced_frame {α : Type} (π : State → α) (hOut : KeepsOut π) (hLink : KeepsLink π) (hPort : KeepsPort π) (hCqe : KeepsCqe π) (hSess : KeepsSess π) (hWc : KeepsWc π) (hDge : KeepsDge π) (hDxu : KeepsDxu π) (hCpe : KeepsCpe π) (hFtu : KeepsFtu π) (hHa : KeepsHa π) (hSlc : KeepsSlc π) (hRot : KeepsRot π) (hXts : KeepsXts π) (hCfg : KeepsCfg π) (hDbg : KeepsDbg π) (hEvr : KeepsEvr π) (s : State) :
    ∃ s', execD2Quiesced s = .next s' ∧ π s' = π s := by
  unfold execD2Quiesced
  with_reducible repeat' first
    | rfl
    | assumption
    | (intro)
    | refine ite_frame ?_ ?_
    | refine (hDbg _ _).trans ?_
    | refine (State.purge_frame π hCqe hDge hRot hXts hCfg hEvr _ _).trans ?_
    | refine (State.goHeld_frame π hOut hLink hPort hCqe hWc hDge hDxu hCpe hFtu hHa hSlc hEvr _ _).trans ?_
    | refine (State.setLevel_frame π hRot hDbg hEvr _ _ _ _).trans ?_
    | refine (State.reasonTo_frame π hOut hPort hSess _ _ _ _ _ _ _).trans ?_
    | refine ⟨_, rfl, ?_⟩
    | refine pair_frame (by with_reducible assumption) ?_
    | split
    | (dsimp only)

theorem State.toLifecycle_frame {α : Type} (π : State → α) (hOut : KeepsOut π) (hPort : KeepsPort π) (hSess : KeepsSess π) (hRot : KeepsRot π) (hFuses : KeepsFuses π) (hRcc : KeepsRcc π) (hEvr : KeepsEvr π) (hCold : KeepsCold π) (hWarm : KeepsWarm π) (s : State) (m : Vc3) (new : Lifecycle) (action : Nat) :
    π (State.toLifecycle s m new action) = π s := by
  unfold State.toLifecycle
  with_reducible
    repeat' first | (rfl) | (refine (State.reason_frame π hOut hPort hSess _ _ _ _ _).trans ?_) | (refine (hFuses _ _).trans ?_) | (refine (State.actSwrst_frame π hRcc hEvr hCold hWarm _).trans ?_) | (refine (hRcc _ _).trans ?_) | (refine (State.event_frame π hEvr _ _ _ _ _ _ _).trans ?_)

theorem execToField_frame {α : Type} (π : State → α) (hFresh : KeepsFresh π) (hOut : KeepsOut π) (hPort : KeepsPort π) (hCqe : KeepsCqe π) (hSess : KeepsSess π) (hRot : KeepsRot π) (hFuses : KeepsFuses π) (hDbg : KeepsDbg π) (hRcc : KeepsRcc π) (hEvr : KeepsEvr π) (hCold : KeepsCold π) (hWarm : KeepsWarm π) (m : Vc3) (t : Token) (s : State) :
    ∃ s', execToField m t s = .next s' ∧ π s' = π s := by
  unfold execToField
  with_reducible repeat' first
    | rfl
    | assumption
    | (intro)
    | refine (State.token_frame π hFresh hOut hPort hCqe hSess hDbg hEvr _ _ _ _ _ ?_).trans ?_
    | refine (State.toLifecycle_frame π hOut hPort hSess hRot hFuses hRcc hEvr hCold hWarm _ _ _ _).trans ?_
    | refine (hFuses _ _).trans ?_
    | refine ⟨_, rfl, ?_⟩
    | refine pair_frame (by with_reducible assumption) ?_
    | split
    | (dsimp only)

theorem State.eraseKeys_frame {α : Type} (π : State → α) (hCqe : KeepsCqe π) (hDge : KeepsDge π) (hSnw : KeepsSnw π) (hRot : KeepsRot π) (hFuses : KeepsFuses π) (hXts : KeepsXts π) (hCfg : KeepsCfg π) (hEvr : KeepsEvr π) (s : State) :
    π (State.eraseKeys s) = π s := by
  unfold State.eraseKeys
  with_reducible
    repeat' first | (rfl) | (refine (hFuses _ _).trans ?_) | (refine (hSnw _ _).trans ?_) | (refine (State.purge_frame π hCqe hDge hRot hXts hCfg hEvr _ _).trans ?_)

theorem execToReturn_frame {α : Type} (π : State → α) (hFresh : KeepsFresh π) (hOut : KeepsOut π) (hPort : KeepsPort π) (hCqe : KeepsCqe π) (hSess : KeepsSess π) (hDge : KeepsDge π) (hSnw : KeepsSnw π) (hRot : KeepsRot π) (hFuses : KeepsFuses π) (hXts : KeepsXts π) (hCfg : KeepsCfg π) (hDbg : KeepsDbg π) (hRcc : KeepsRcc π) (hEvr : KeepsEvr π) (hCold : KeepsCold π) (hWarm : KeepsWarm π) (m : Vc3) (t : Token) (s : State) :
    ∃ s', execToReturn m t s = .next s' ∧ π s' = π s := by
  unfold execToReturn
  with_reducible repeat' first
    | rfl
    | assumption
    | (intro)
    | refine (State.token_frame π hFresh hOut hPort hCqe hSess hDbg hEvr _ _ _ _ _ ?_).trans ?_
    | refine (State.toLifecycle_frame π hOut hPort hSess hRot hFuses hRcc hEvr hCold hWarm _ _ _ _).trans ?_
    | refine (State.eraseKeys_frame π hCqe hDge hSnw hRot hFuses hXts hCfg hEvr _).trans ?_
    | refine ⟨_, rfl, ?_⟩
    | refine pair_frame (by with_reducible assumption) ?_
    | split
    | (dsimp only)

theorem execToEnd_frame {α : Type} (π : State → α) (hFresh : KeepsFresh π) (hOut : KeepsOut π) (hPort : KeepsPort π) (hCqe : KeepsCqe π) (hSess : KeepsSess π) (hDge : KeepsDge π) (hSnw : KeepsSnw π) (hRot : KeepsRot π) (hFuses : KeepsFuses π) (hXts : KeepsXts π) (hCfg : KeepsCfg π) (hDbg : KeepsDbg π) (hRcc : KeepsRcc π) (hEvr : KeepsEvr π) (hCold : KeepsCold π) (hWarm : KeepsWarm π) (m : Vc3) (t : Token) (s : State) :
    ∃ s', execToEnd m t s = .next s' ∧ π s' = π s := by
  unfold execToEnd
  with_reducible repeat' first
    | rfl
    | assumption
    | (intro)
    | refine (State.token_frame π hFresh hOut hPort hCqe hSess hDbg hEvr _ _ _ _ _ ?_).trans ?_
    | refine (State.toLifecycle_frame π hOut hPort hSess hRot hFuses hRcc hEvr hCold hWarm _ _ _ _).trans ?_
    | refine (State.eraseKeys_frame π hCqe hDge hSnw hRot hFuses hXts hCfg hEvr _).trans ?_
    | refine ⟨_, rfl, ?_⟩
    | refine pair_frame (by with_reducible assumption) ?_
    | split
    | (dsimp only)

theorem execDbgObserveOn_frame {α : Type} (π : State → α) (hFresh : KeepsFresh π) (hOut : KeepsOut π) (hPort : KeepsPort π) (hCqe : KeepsCqe π) (hSess : KeepsSess π) (hRot : KeepsRot π) (hDbg : KeepsDbg π) (hEvr : KeepsEvr π) (m : Vc3) (s : State) :
    ∃ s', execDbgObserveOn m s = .next s' ∧ π s' = π s := by
  unfold execDbgObserveOn
  with_reducible repeat' first
    | rfl
    | assumption
    | (intro)
    | refine ite_frame ?_ ?_
    | refine (State.vc3_frame π hFresh hOut hPort hCqe hSess hEvr _ _ _ _ _ _ _ ?_).trans ?_
    | refine (State.reason_frame π hOut hPort hSess _ _ _ _ _).trans ?_
    | refine (State.setLevel_frame π hRot hDbg hEvr _ _ _ _).trans ?_
    | refine ⟨_, rfl, ?_⟩
    | refine pair_frame (by with_reducible assumption) ?_
    | split
    | (dsimp only)

theorem execDbgObserveOff_frame {α : Type} (π : State → α) (hFresh : KeepsFresh π) (hOut : KeepsOut π) (hPort : KeepsPort π) (hCqe : KeepsCqe π) (hSess : KeepsSess π) (hRot : KeepsRot π) (hDbg : KeepsDbg π) (hEvr : KeepsEvr π) (m : Vc3) (s : State) :
    ∃ s', execDbgObserveOff m s = .next s' ∧ π s' = π s := by
  unfold execDbgObserveOff
  with_reducible repeat' first
    | rfl
    | assumption
    | (intro)
    | refine ite_frame ?_ ?_
    | refine (State.vc3_frame π hFresh hOut hPort hCqe hSess hEvr _ _ _ _ _ _ _ ?_).trans ?_
    | refine (State.reason_frame π hOut hPort hSess _ _ _ _ _).trans ?_
    | refine (State.setLevel_frame π hRot hDbg hEvr _ _ _ _).trans ?_
    | refine ⟨_, rfl, ?_⟩
    | refine pair_frame (by with_reducible assumption) ?_
    | split
    | (dsimp only)

theorem State.scanPins_frame {α : Type} (π : State → α) (hFresh : KeepsFresh π) (hOut : KeepsOut π) (hLink : KeepsLink π) (hPort : KeepsPort π) (hLane : KeepsLane π) (hCqe : KeepsCqe π) (hSess : KeepsSess π) (hDsc : KeepsDsc π) (hWc : KeepsWc π) (hFtu : KeepsFtu π) (hPxe : KeepsPxe π) (hPxeAll : KeepsPxeAll π) (hGov : KeepsGov π) (hMcu : KeepsMcu π) (hCfg : KeepsCfg π) (hDbg : KeepsDbg π) (hEvr : KeepsEvr π) (hGlb : KeepsGlb π) (s : State) :
    π (State.scanPins s) = π s := by
  unfold State.scanPins
  with_reducible repeat' first
    | rfl
    | assumption
    | (intro)
    | refine ite_frame ?_ ?_
    | refine (State.setLane_frame π hFresh hOut hLink hPort hLane hCqe hSess hDsc hWc hFtu hPxe hPxeAll hGov hCfg hEvr hGlb _ _ _ _).trans ?_
    | refine (hMcu _ _).trans ?_
    | refine (hWc _ _).trans ?_
    | refine (hDbg _ _).trans ?_
    | refine (hEvr _ _).trans ?_
    | refine (foldl_frame π _ ?_ _ _).trans ?_
    | refine (foldl_frame2 π _ ?_ _ _).trans ?_
    | refine pair_frame (by with_reducible assumption) ?_
    | split
    | (dsimp only)

theorem execJtagInstruction_frame {α : Type} (π : State → α) (hFresh : KeepsFresh π) (hOut : KeepsOut π) (hLink : KeepsLink π) (hPort : KeepsPort π) (hLane : KeepsLane π) (hCqe : KeepsCqe π) (hSess : KeepsSess π) (hDsc : KeepsDsc π) (hWc : KeepsWc π) (hFtu : KeepsFtu π) (hPxe : KeepsPxe π) (hPxeAll : KeepsPxeAll π) (hGov : KeepsGov π) (hMcu : KeepsMcu π) (hCfg : KeepsCfg π) (hDbg : KeepsDbg π) (hEvr : KeepsEvr π) (hGlb : KeepsGlb π) (i : TapInstr) (code : Byte) (s : State) :
    ∃ s', execJtagInstruction i code s = .next s' ∧ π s' = π s := by
  unfold execJtagInstruction
  with_reducible repeat' first
    | rfl
    | assumption
    | (intro)
    | refine ite_frame ?_ ?_
    | refine (State.event_frame π hEvr _ _ _ _ _ _ _).trans ?_
    | refine (hDbg _ _).trans ?_
    | refine (State.scanPins_frame π hFresh hOut hLink hPort hLane hCqe hSess hDsc hWc hFtu hPxe hPxeAll hGov hMcu hCfg hDbg hEvr hGlb _).trans ?_
    | refine ⟨_, rfl, ?_⟩
    | refine pair_frame (by with_reducible assumption) ?_
    | split
    | (dsimp only)

theorem execJtagCoreReset_frame {α : Type} (π : State → α) (hFresh : KeepsFresh π) (hDbg : KeepsDbg π) (hRcc : KeepsRcc π) (hEvr : KeepsEvr π) (asserted : Bool) (s : State) :
    ∃ s', execJtagCoreReset asserted s = .next s' ∧ π s' = π s := by
  unfold execJtagCoreReset
  with_reducible repeat' first
    | rfl
    | assumption
    | (intro)
    | refine ite_frame ?_ ?_
    | refine (State.freshen_frame π hFresh _).trans ?_
    | refine (State.event_frame π hEvr _ _ _ _ _ _ _).trans ?_
    | refine (hRcc _ _).trans ?_
    | refine (hDbg _ _).trans ?_
    | refine ⟨_, rfl, ?_⟩
    | refine pair_frame (by with_reducible assumption) ?_
    | split
    | (dsimp only)

theorem State.refusePm_frame {α : Type} (π : State → α) (hOut : KeepsOut π) (hPort : KeepsPort π) (hSess : KeepsSess π) (hPmu : KeepsPmu π) (hEvr : KeepsEvr π) (s : State) (m : Vc3) (target : Nat) (reason : Nat) :
    π (State.refusePm s m target reason) = π s := by
  unfold State.refusePm
  with_reducible
    repeat' first | (rfl) | (refine (State.reason_frame π hOut hPort hSess _ _ _ _ _).trans ?_) | (refine (hPmu _ _).trans ?_) | (refine (State.event_frame π hEvr _ _ _ _ _ _ _).trans ?_)

theorem State.pmSet_frame {α : Type} (π : State → α) (hFresh : KeepsFresh π) (hOut : KeepsOut π) (hPort : KeepsPort π) (hCqe : KeepsCqe π) (hSess : KeepsSess π) (hPmu : KeepsPmu π) (hEvr : KeepsEvr π) (s : State) (m : Vc3) (target : Nat) (act : State → State) (h_act : ∀ s, π (act s) = π s) :
    π (State.pmSet s m target act) = π s := by
  unfold State.pmSet
  with_reducible repeat' first
    | rfl
    | assumption
    | (intro)
    | refine ite_frame ?_ ?_
    | refine (State.vc3_frame π hFresh hOut hPort hCqe hSess hEvr _ _ _ _ _ _ _ ?_).trans ?_
    | refine (State.refusePm_frame π hOut hPort hSess hPmu hEvr _ _ _ _).trans ?_
    | refine (h_act _).trans ?_
    | refine pair_frame (by with_reducible assumption) ?_
    | split
    | (dsimp only)

theorem State.startPm_frame {α : Type} (π : State → α) (hSess : KeepsSess π) (hPmu : KeepsPmu π) (s : State) (m : Vc3) (target : Nat) :
    π (State.startPm s m target) = π s := by
  unfold State.startPm
  with_reducible
    repeat' first | (rfl) | (refine (hPmu _ _).trans ?_) | (refine (State.holdAnswer_frame π hSess _ _).trans ?_)

theorem execPmSetP0_frame {α : Type} (π : State → α) (hFresh : KeepsFresh π) (hOut : KeepsOut π) (hPort : KeepsPort π) (hCqe : KeepsCqe π) (hSess : KeepsSess π) (hPmu : KeepsPmu π) (hEvr : KeepsEvr π) (m : Vc3) (s : State) :
    ∃ s', execPmSetP0 m s = .next s' ∧ π s' = π s := by
  unfold execPmSetP0
  with_reducible repeat' first
    | rfl
    | assumption
    | (intro)
    | refine ite_frame ?_ ?_
    | refine (State.pmSet_frame π hFresh hOut hPort hCqe hSess hPmu hEvr _ _ _ _ ?_).trans ?_
    | refine (State.refusePm_frame π hOut hPort hSess hPmu hEvr _ _ _ _).trans ?_
    | refine (State.reason_frame π hOut hPort hSess _ _ _ _ _).trans ?_
    | refine (State.setPstate_frame π hPmu hEvr _ _ _ _).trans ?_
    | refine ⟨_, rfl, ?_⟩
    | refine pair_frame (by with_reducible assumption) ?_
    | split
    | (dsimp only)

theorem execPmSetP2_frame {α : Type} (π : State → α) (hFresh : KeepsFresh π) (hOut : KeepsOut π) (hPort : KeepsPort π) (hCqe : KeepsCqe π) (hSess : KeepsSess π) (hWc : KeepsWc π) (hDge : KeepsDge π) (hCpe : KeepsCpe π) (hFtu : KeepsFtu π) (hSlc : KeepsSlc π) (hPmu : KeepsPmu π) (hEvr : KeepsEvr π) (m : Vc3) (s : State) :
    ∃ s', execPmSetP2 m s = .next s' ∧ π s' = π s := by
  unfold execPmSetP2
  with_reducible repeat' first
    | rfl
    | assumption
    | (intro)
    | refine ite_frame ?_ ?_
    | refine (State.pmSet_frame π hFresh hOut hPort hCqe hSess hPmu hEvr _ _ _ _ ?_).trans ?_
    | refine (State.reason_frame π hOut hPort hSess _ _ _ _ _).trans ?_
    | refine (State.startPm_frame π hSess hPmu _ _ _).trans ?_
    | refine (State.failCmd_frame π hOut hPort hCqe hWc hDge hCpe hFtu hSlc hEvr _ _ _).trans ?_
    | refine (foldl_frame π _ ?_ _ _).trans ?_
    | refine (foldl_frame2 π _ ?_ _ _).trans ?_
    | refine ⟨_, rfl, ?_⟩
    | refine pair_frame (by with_reducible assumption) ?_
    | split
    | (dsimp only)

theorem execP2Reached_frame {α : Type} (π : State → α) (hOut : KeepsOut π) (hPort : KeepsPort π) (hSess : KeepsSess π) (hPmu : KeepsPmu π) (hEvr : KeepsEvr π) (s : State) :
    ∃ s', execP2Reached s = .next s' ∧ π s' = π s := by
  unfold execP2Reached
  with_reducible repeat' first
    | rfl
    | assumption
    | (intro)
    | refine ite_frame ?_ ?_
    | refine (State.reasonTo_frame π hOut hPort hSess _ _ _ _ _ _ _).trans ?_
    | refine (hPmu _ _).trans ?_
    | refine (State.setPstate_frame π hPmu hEvr _ _ _ _).trans ?_
    | refine ⟨_, rfl, ?_⟩
    | refine pair_frame (by with_reducible assumption) ?_
    | split
    | (dsimp only)

theorem execPmSetP3_frame {α : Type} (π : State → α) (hFresh : KeepsFresh π) (hOut : KeepsOut π) (hPort : KeepsPort π) (hCqe : KeepsCqe π) (hSess : KeepsSess π) (hDsc : KeepsDsc π) (hCpe : KeepsCpe π) (hPmu : KeepsPmu π) (hEvr : KeepsEvr π) (m : Vc3) (s : State) :
    ∃ s', execPmSetP3 m s = .next s' ∧ π s' = π s := by
  unfold execPmSetP3
  with_reducible repeat' first
    | rfl
    | assumption
    | (intro)
    | refine ite_frame ?_ ?_
    | refine (State.pmSet_frame π hFresh hOut hPort hCqe hSess hPmu hEvr _ _ _ _ ?_).trans ?_
    | refine (State.refusePm_frame π hOut hPort hSess hPmu hEvr _ _ _ _).trans ?_
    | refine (State.selfTestAbort_frame π hCqe hDsc hEvr _).trans ?_
    | refine (hCpe _ _).trans ?_
    | refine (State.startPm_frame π hSess hPmu _ _ _).trans ?_
    | refine ⟨_, rfl, ?_⟩
    | refine pair_frame (by with_reducible assumption) ?_
    | split
    | (dsimp only)

theorem execP3Entered_frame {α : Type} (π : State → α) (hDt : KeepsDt π) (hOut : KeepsOut π) (hLink : KeepsLink π) (hPort : KeepsPort π) (hSess : KeepsSess π) (hHa : KeepsHa π) (hMcu : KeepsMcu π) (hRot : KeepsRot π) (hPmu : KeepsPmu π) (hDbg : KeepsDbg π) (hEvr : KeepsEvr π) (hWarm : KeepsWarm π) (s : State) :
    ∃ s', execP3Entered s = .next s' ∧ π s' = π s := by
  unfold execP3Entered
  with_reducible repeat' first
    | rfl
    | assumption
    | (intro)
    | refine ite_frame ?_ ?_
    | refine (State.advanceTo_frame π hDt _ _).trans ?_
    | refine (State.sendMailbox_frame π hOut hLink hPort _).trans ?_
    | refine (State.sendHeartbeat_frame π hOut hPort hHa _).trans ?_
    | refine (hPmu _ _).trans ?_
    | refine (State.setPstate_frame π hPmu hEvr _ _ _ _).trans ?_
    | refine (State.event_frame π hEvr _ _ _ _ _ _ _).trans ?_
    | refine (State.setLevel_frame π hRot hDbg hEvr _ _ _ _).trans ?_
    | refine (State.reasonTo_frame π hOut hPort hSess _ _ _ _ _ _ _).trans ?_
    | refine (hMcu _ _).trans ?_
    | refine (hWarm _).trans ?_
    | refine ⟨_, rfl, ?_⟩
    | refine pair_frame (by with_reducible assumption) ?_
    | split
    | (dsimp only)

theorem execPmStatus_frame {α : Type} (π : State → α) (hFresh : KeepsFresh π) (hOut : KeepsOut π) (hPort : KeepsPort π) (hCqe : KeepsCqe π) (hSess : KeepsSess π) (hEvr : KeepsEvr π) (m : Vc3) (s : State) :
    ∃ s', execPmStatus m s = .next s' ∧ π s' = π s := by
  unfold execPmStatus
  with_reducible repeat' first
    | rfl
    | assumption
    | (intro)
    | refine (State.vc3_frame π hFresh hOut hPort hCqe hSess hEvr _ _ _ _ _ _ _ ?_).trans ?_
    | refine (State.reason_frame π hOut hPort hSess _ _ _ _ _).trans ?_
    | refine ⟨_, rfl, ?_⟩
    | refine pair_frame (by with_reducible assumption) ?_
    | split
    | (dsimp only)

end Sys2Proof.Machine
end

