-- ==== Sys2Proof/Laws/FrameVault.lean ====
section
/-! SUPPORT. What the definitions of Machine/Vault.lean leave alone: a view of the state that no block they write can change reads
the same after them. -/

set_option linter.unusedSimpArgs false

namespace Sys2Proof.Machine

open Sys2Proof

theorem execPwrfailSeen_frame {α : Type} (π : State → α) (hOut : KeepsOut π) (hPort : KeepsPort π) (hCqe : KeepsCqe π) (hDsc : KeepsDsc π) (hWc : KeepsWc π) (hDge : KeepsDge π) (hCpe : KeepsCpe π) (hFtu : KeepsFtu π) (hSlc : KeepsSlc π) (hPmu : KeepsPmu π) (hEvr : KeepsEvr π) (s : State) :
    ∃ s', execPwrfailSeen s = .next s' ∧ π s' = π s := by
  unfold execPwrfailSeen
  with_reducible repeat' first
    | rfl
    | assumption
    | (intro)
    | refine ite_frame ?_ ?_
    | refine (State.setPstate_frame π hPmu hEvr _ _ _ _).trans ?_
    | refine (hWc _ _).trans ?_
    | refine (hPmu _ _).trans ?_
    | refine (State.event_frame π hEvr _ _ _ _ _ _ _).trans ?_
    | refine (State.selfTestAbort_frame π hCqe hDsc hEvr _).trans ?_
    | refine (hDsc _ _).trans ?_
    | refine (State.failCmd_frame π hOut hPort hCqe hWc hDge hCpe hFtu hSlc hEvr _ _ _).trans ?_
    | refine (foldl_frame π _ ?_ _ _).trans ?_
    | refine (foldl_frame2 π _ ?_ _ _).trans ?_
    | refine ⟨_, rfl, ?_⟩
    | refine pair_frame (by with_reducible assumption) ?_
    | split
    | (dsimp only)

theorem State.planVault_frame {α : Type} (π : State → α) (hFresh : KeepsFresh π) (hDsc : KeepsDsc π) (hWc : KeepsWc π) (s : State) :
    π (State.planVault s) = π s := by
  unfold State.planVault
  with_reducible repeat' first
    | rfl
    | assumption
    | (intro)
    | refine (hWc _ _).trans ?_
    | refine (State.placeVault_frame π hFresh hDsc _ _ _).trans ?_
    | refine (State.placeHeader_frame π hFresh hDsc _).trans ?_
    | refine (foldl_frame π _ ?_ _ _).trans ?_
    | refine (foldl_frame2 π _ ?_ _ _).trans ?_
    | refine pair_frame (by with_reducible assumption) ?_
    | split
    | (dsimp only)

theorem execVaultFreeze_frame {α : Type} (π : State → α) (hDt : KeepsDt π) (hFresh : KeepsFresh π) (hOut : KeepsOut π) (hLink : KeepsLink π) (hPort : KeepsPort π) (hCqe : KeepsCqe π) (hDsc : KeepsDsc π) (hWc : KeepsWc π) (hDge : KeepsDge π) (hCpe : KeepsCpe π) (hFtu : KeepsFtu π) (hHa : KeepsHa π) (hSlc : KeepsSlc π) (hRcc : KeepsRcc π) (hEvr : KeepsEvr π) (hWarm : KeepsWarm π) (s : State) :
    ∃ s', execVaultFreeze s = .next s' ∧ π s' = π s := by
  unfold execVaultFreeze
  with_reducible repeat' first
    | rfl
    | assumption
    | (intro)
    | refine ite_frame ?_ ?_
    | refine ite_frame2 ?_ ?_
    | refine (State.advanceTo_frame π hDt _ _).trans ?_
    | refine (State.leaseNotes_frame π hOut hPort _ _ _).trans ?_
    | refine (State.releaseLease_frame π hOut hLink hPort hHa _ _).trans ?_
    | refine (State.letGo_frame π hDge hCpe hFtu hSlc _ _).trans ?_
    | refine (hCqe _ _).trans ?_
    | refine (hWc _ _).trans ?_
    | refine (State.releaseHeld_frame π hRcc hEvr hWarm _).trans ?_
    | refine (State.warmReset_frame π hRcc hEvr hWarm _).trans ?_
    | refine (State.planVault_frame π hFresh hDsc hWc _).trans ?_
    | refine (foldl_frame π _ ?_ _ _).trans ?_
    | refine (foldl_frame2 π _ ?_ _ _).trans ?_
    | refine ⟨_, rfl, ?_⟩
    | refine pair_frame (by with_reducible assumption) ?_
    | split
    | (dsimp only)

theorem execPwrfailRise_frame {α : Type} (π : State → α) (hWc : KeepsWc π) (hRcc : KeepsRcc π) (hEvr : KeepsEvr π) (hWarm : KeepsWarm π) (s : State) :
    ∃ s', execPwrfailRise s = .next s' ∧ π s' = π s := by
  unfold execPwrfailRise
  with_reducible repeat' first
    | rfl
    | assumption
    | (intro)
    | refine ite_frame ?_ ?_
    | refine (hWc _ _).trans ?_
    | refine (State.warmReset_frame π hRcc hEvr hWarm _).trans ?_
    | refine ⟨_, rfl, ?_⟩
    | refine pair_frame (by with_reducible assumption) ?_
    | split
    | (dsimp only)

theorem State.loseGrains_frame {α : Type} (π : State → α) (hCqe : KeepsCqe π) (hDxu : KeepsDxu π) (hFtu : KeepsFtu π) (hPxe : KeepsPxe π) (hEvr : KeepsEvr π) (s : State) (lost : List (Nat × Nat)) :
    π (State.loseGrains s lost) = π s := by
  unfold State.loseGrains
  with_reducible repeat' first
    | rfl
    | assumption
    | (intro)
    | refine (State.loseGrain_frame π hCqe hDxu hFtu hPxe hEvr _ _ _ _ _).trans ?_
    | refine (foldl_frame π _ ?_ _ _).trans ?_
    | refine (foldl_frame2 π _ ?_ _ _).trans ?_
    | refine pair_frame (by with_reducible assumption) ?_
    | split
    | (dsimp only)

theorem State.replayVault_frame {α : Type} (π : State → α) (hCqe : KeepsCqe π) (hWc : KeepsWc π) (hDxu : KeepsDxu π) (hFtu : KeepsFtu π) (hPxe : KeepsPxe π) (hEvr : KeepsEvr π) (s : State) (unreadable : List Nat) (peer : List (Nat × Desc × List Bytes)) (lost : List (Nat × Nat)) :
    π (State.replayVault s unreadable peer lost) = π s := by
  unfold State.replayVault
  with_reducible repeat' first
    | rfl
    | assumption
    | (intro)
    | refine ite_frame ?_ ?_
    | refine ite_frame2 ?_ ?_
    | refine (hWc _ _).trans ?_
    | refine (State.loseGrains_frame π hCqe hDxu hFtu hPxe hEvr _ _).trans ?_
    | refine (State.event_frame π hEvr _ _ _ _ _ _ _).trans ?_
    | refine (foldl_frame π _ ?_ _ _).trans ?_
    | refine (foldl_frame2 π _ ?_ _ _).trans ?_
    | refine pair_frame (by with_reducible assumption) ?_
    | split
    | (dsimp only)

theorem State.retainCache_frame {α : Type} (π : State → α) (hWc : KeepsWc π) (hEvr : KeepsEvr π) (s : State) (descBad : List (Bool × Nat)) (raised : Bool) :
    π (State.retainCache s descBad raised) = π s := by
  unfold State.retainCache
  with_reducible repeat' first
    | rfl
    | assumption
    | (intro)
    | refine ite_frame ?_ ?_
    | refine ite_frame2 ?_ ?_
    | refine (hWc _ _).trans ?_
    | refine (State.event_frame π hEvr _ _ _ _ _ _ _).trans ?_
    | refine (foldl_frame π _ ?_ _ _).trans ?_
    | refine (foldl_frame2 π _ ?_ _ _).trans ?_
    | refine pair_frame (by with_reducible assumption) ?_
    | split
    | (dsimp only)

end Sys2Proof.Machine
end

