-- ==== Sys2Proof/Laws/FrameBoot.lean ====
section
/-! SUPPORT. What the definitions of Machine/Boot.lean leave alone: a view of the state that no block they write can change reads
the same after them. -/

set_option linter.unusedSimpArgs false

namespace Sys2Proof.Machine

open Sys2Proof

theorem State.startRecords_frame {α : Type} (π : State → α) (hEvr : KeepsEvr π) (s : State) (cause : Nat) (copied : Nat) (waitedUs : Nat) :
    π (State.startRecords s cause copied waitedUs) = π s := by
  unfold State.startRecords
  with_reducible repeat' first
    | rfl
    | assumption
    | (intro)
    | refine ite_frame ?_ ?_
    | refine (State.event_frame π hEvr _ _ _ _ _ _ _).trans ?_
    | refine pair_frame (by with_reducible assumption) ?_
    | split
    | (dsimp only)

theorem State.evrCold_frame {α : Type} (π : State → α) (hEvr : KeepsEvr π) (s : State) (waitedUs : Nat) :
    π (State.evrCold s waitedUs) = π s := by
  unfold State.evrCold
  with_reducible repeat' first
    | rfl
    | assumption
    | (intro)
    | refine ite_frame ?_ ?_
    | refine (hEvr _ _).trans ?_
    | refine (State.startRecords_frame π hEvr _ _ _ _).trans ?_
    | refine pair_frame (by with_reducible assumption) ?_
    | split
    | (dsimp only)

theorem State.evrUp_frame {α : Type} (π : State → α) (hEvr : KeepsEvr π) (s : State) :
    π (State.evrUp s) = π s := by
  unfold State.evrUp
  with_reducible
    repeat' first | (rfl) | (refine (hEvr _ _).trans ?_)

theorem State.evrWarm_frame {α : Type} (π : State → α) (hEvr : KeepsEvr π) (s : State) (waitedUs : Nat) :
    π (State.evrWarm s waitedUs) = π s := by
  unfold State.evrWarm
  with_reducible
    repeat' first | (rfl) | (refine (hEvr _ _).trans ?_) | (refine (State.startRecords_frame π hEvr _ _ _ _).trans ?_)

theorem State.chooseSlot_frame {α : Type} (π : State → α) (hNvi : KeepsNvi π) (s : State) :
    π (State.chooseSlot s).2 = π s := by
  unfold State.chooseSlot
  with_reducible repeat' first
    | rfl
    | assumption
    | (intro)
    | refine ite_frame ?_ ?_
    | refine ite_frame2 ?_ ?_
    | refine (State.writeBcb_frame π hNvi _ _).trans ?_
    | refine pair_frame (by with_reducible assumption) ?_
    | split
    | (dsimp only)

theorem State.slotSelected_frame {α : Type} (π : State → α) (hFresh : KeepsFresh π) (hEvr : KeepsEvr π) (s : State) (b : Bool) (rule : Nat) :
    π (State.slotSelected s b rule) = π s := by
  unfold State.slotSelected
  with_reducible repeat' first
    | rfl
    | assumption
    | (intro)
    | refine ite_frame ?_ ?_
    | refine (State.event_frame π hEvr _ _ _ _ _ _ _).trans ?_
    | refine (State.freshen_frame π hFresh _).trans ?_
    | refine pair_frame (by with_reducible assumption) ?_
    | split
    | (dsimp only)

theorem State.bootFail_frame {α : Type} (π : State → α) (hFresh : KeepsFresh π) (hRot : KeepsRot π) (hEvr : KeepsEvr π) (hGlb : KeepsGlb π) (s : State) (reasons : Bool → Option Nat) :
    π (State.bootFail s reasons) = π s := by
  unfold State.bootFail
  with_reducible repeat' first
    | rfl
    | assumption
    | (intro)
    | refine (State.freshen_frame π hFresh _).trans ?_
    | refine (hGlb _ _).trans ?_
    | refine (hRot _ _ ?_).trans ?_
    | refine (State.event_frame π hEvr _ _ _ _ _ _ _).trans ?_
    | refine pair_frame (by with_reducible assumption) ?_
    | split
    | (dsimp only)

theorem State.measure_frame {α : Type} (π : State → α) (hRot : KeepsRot π) (s : State) (i : Image) :
    π (State.measure s i) = π s := by
  unfold State.measure
  with_reducible repeat' first
    | rfl
    | assumption
    | (intro)
    | refine ite_frame ?_ ?_
    | refine (State.extend_frame π hRot _ _ _).trans ?_
    | refine (State.extendM5_frame π hRot _).trans ?_
    | refine (foldl_frame π _ ?_ _ _).trans ?_
    | refine (foldl_frame2 π _ ?_ _ _).trans ?_
    | refine pair_frame (by with_reducible assumption) ?_
    | split
    | (dsimp only)

theorem State.loadIsland_frame {α : Type} (π : State → α) (hSnw : KeepsSnw π) (hRot : KeepsRot π) (s : State) (i : Image) :
    π (State.loadIsland s i) = π s := by
  unfold State.loadIsland
  with_reducible repeat' first
    | rfl
    | assumption
    | (intro)
    | refine ite_frame ?_ ?_
    | refine (hSnw _ _).trans ?_
    | refine (hRot _ _ ?_).trans ?_
    | refine pair_frame (by with_reducible assumption) ?_
    | split
    | (dsimp only)

theorem State.loadCoef_frame {α : Type} (π : State → α) (hGov : KeepsGov π) (s : State) :
    π (State.loadCoef s) = π s := by
  unfold State.loadCoef
  with_reducible repeat' first
    | rfl
    | assumption
    | (intro)
    | refine ite_frame ?_ ?_
    | refine (hGov _ _).trans ?_
    | refine pair_frame (by with_reducible assumption) ?_
    | split
    | (dsimp only)

theorem State.applyStatic_frame {α : Type} (π : State → α) (hLink : KeepsLink π) (hDsc : KeepsDsc π) (hWc : KeepsWc π) (hGov : KeepsGov π) (hMcu : KeepsMcu π) (hGlb : KeepsGlb π) (s : State) (i : Image) :
    π (State.applyStatic s i) = π s := by
  unfold State.applyStatic
  with_reducible repeat' first
    | rfl
    | assumption
    | (intro)
    | refine ite_frame ?_ ?_
    | refine (hLink _ _ ?_).trans ?_
    | refine (State.loadCoef_frame π hGov _).trans ?_
    | refine (hDsc _ _).trans ?_
    | refine (hWc _ _).trans ?_
    | refine (hGlb _ _).trans ?_
    | refine (hMcu _ _).trans ?_
    | refine (foldl_frame π _ ?_ _ _).trans ?_
    | refine (foldl_frame2 π _ ?_ _ _).trans ?_
    | refine pair_frame (by with_reducible assumption) ?_
    | split
    | (dsimp only)

theorem State.runImage_frame {α : Type} (π : State → α) (hLink : KeepsLink π) (hDsc : KeepsDsc π) (hWc : KeepsWc π) (hSnw : KeepsSnw π) (hGov : KeepsGov π) (hMcu : KeepsMcu π) (hRot : KeepsRot π) (hGlb : KeepsGlb π) (s : State) (b : Bool) (i : Image) :
    π (State.runImage s b i) = π s := by
  unfold State.runImage
  with_reducible repeat' first
    | rfl
    | assumption
    | (intro)
    | refine (hRot _ _ ?_).trans ?_
    | refine (State.loadIsland_frame π hSnw hRot _ _).trans ?_
    | refine (State.applyStatic_frame π hLink hDsc hWc hGov hMcu hGlb _ _).trans ?_
    | refine (State.measure_frame π hRot _ _).trans ?_
    | refine pair_frame (by with_reducible assumption) ?_
    | split
    | (dsimp only)

theorem State.testDge_frame {α : Type} (π : State → α) (hDge : KeepsDge π) (hEvr : KeepsEvr π) (s : State) (bad : List (Nat × Nat)) :
    π (State.testDge s bad) = π s := by
  unfold State.testDge
  with_reducible repeat' first
    | rfl
    | assumption
    | (intro)
    | refine ite_frame ?_ ?_
    | refine ite_frame2 ?_ ?_
    | refine (hDge _ _).trans ?_
    | refine (State.event_frame π hEvr _ _ _ _ _ _ _).trans ?_
    | refine (foldl_frame π _ ?_ _ _).trans ?_
    | refine (foldl_frame2 π _ ?_ _ _).trans ?_
    | refine pair_frame (by with_reducible assumption) ?_
    | split
    | (dsimp only)

theorem State.testEngines_frame {α : Type} (π : State → α) (hCpe : KeepsCpe π) (hXts : KeepsXts π) (hEvr : KeepsEvr π) (s : State) (bad : List (Nat × Nat × Nat)) :
    π (State.testEngines s bad) = π s := by
  unfold State.testEngines
  with_reducible repeat' first
    | rfl
    | assumption
    | (intro)
    | refine ite_frame ?_ ?_
    | refine ite_frame2 ?_ ?_
    | refine (hXts _ _).trans ?_
    | refine (hCpe _ _).trans ?_
    | refine (State.event_frame π hEvr _ _ _ _ _ _ _).trans ?_
    | refine (foldl_frame π _ ?_ _ _).trans ?_
    | refine (foldl_frame2 π _ ?_ _ _).trans ?_
    | refine pair_frame (by with_reducible assumption) ?_
    | split
    | (dsimp only)

theorem State.bootCold_frame {α : Type} (π : State → α) (hFresh : KeepsFresh π) (hLink : KeepsLink π) (hDsc : KeepsDsc π) (hWc : KeepsWc π) (hDge : KeepsDge π) (hSnw : KeepsSnw π) (hGov : KeepsGov π) (hMcu : KeepsMcu π) (hRot : KeepsRot π) (hNvi : KeepsNvi π) (hEvr : KeepsEvr π) (hGlb : KeepsGlb π) (s : State) (badLanes : List (Nat × Nat)) :
    π (State.bootCold s badLanes) = π s := by
  unfold State.bootCold
  with_reducible repeat' first
    | rfl
    | assumption
    | (intro)
    | refine ite_frame ?_ ?_
    | refine (hRot _ _ ?_).trans ?_
    | refine (hMcu _ _).trans ?_
    | refine (State.runImage_frame π hLink hDsc hWc hSnw hGov hMcu hRot hGlb _ _ _).trans ?_
    | refine (State.chooseSlot_frame π hNvi _).trans ?_
    | refine (pair_frame (by with_reducible assumption) (State.chooseSlot_frame π hNvi _)).trans ?_
    | refine (State.bootFail_frame π hFresh hRot hEvr hGlb _ _).trans ?_
    | refine (State.testDge_frame π hDge hEvr _ _).trans ?_
    | refine (State.slotSelected_frame π hFresh hEvr _ _ _).trans ?_
    | refine (State.rejectImage_frame π hFresh hEvr _ _ _).trans ?_
    | refine (State.writeBcb_frame π hNvi _ _).trans ?_
    | refine pair_frame (by with_reducible assumption) ?_
    | split
    | (dsimp only)

theorem State.releaseCold_frame {α : Type} (π : State → α) (hDt : KeepsDt π) (hFresh : KeepsFresh π) (hHa : KeepsHa π) (hRot : KeepsRot π) (hNvi : KeepsNvi π) (hRcc : KeepsRcc π) (hEvr : KeepsEvr π) (hGlb : KeepsGlb π) (s : State) (st : Straps) (waitedUs : Nat) (nvm : Option (Option Image × Option Image)) :
    π (State.releaseCold s st waitedUs nvm) = π s := by
  unfold State.releaseCold
  with_reducible repeat' first
    | rfl
    | assumption
    | (intro)
    | refine ite_frame ?_ ?_
    | refine (hGlb _ _).trans ?_
    | refine (hDt _ _).trans ?_
    | refine (hRcc _ _).trans ?_
    | refine (hNvi _ _).trans ?_
    | refine (hHa _ _).trans ?_
    | refine (State.evrCold_frame π hEvr _ _).trans ?_
    | refine (hRot _ _ ?_).trans ?_
    | refine (State.freshen_frame π hFresh _).trans ?_
    | refine pair_frame (by with_reducible assumption) ?_
    | split
    | (dsimp only)

theorem State.levelKept_frame {α : Type} (π : State → α) (hEvr : KeepsEvr π) (s : State) :
    π (State.levelKept s) = π s := by
  unfold State.levelKept
  with_reducible repeat' first
    | rfl
    | assumption
    | (intro)
    | refine ite_frame ?_ ?_
    | refine (State.event_frame π hEvr _ _ _ _ _ _ _).trans ?_
    | refine pair_frame (by with_reducible assumption) ?_
    | split
    | (dsimp only)

theorem State.awaitConfig_frame {α : Type} (π : State → α) (hOut : KeepsOut π) (hPort : KeepsPort π) (hRot : KeepsRot π) (hCfg : KeepsCfg π) (s : State) (stage : Nat) :
    π (State.awaitConfig s stage) = π s := by
  unfold State.awaitConfig
  with_reducible repeat' first
    | rfl
    | assumption
    | (intro)
    | refine (State.fetchCfg_frame π hOut hPort hCfg _).trans ?_
    | refine (hRot _ _ ?_).trans ?_
    | refine pair_frame (by with_reducible assumption) ?_
    | split
    | (dsimp only)

theorem State.bootWarm_frame {α : Type} (π : State → α) (hFresh : KeepsFresh π) (hOut : KeepsOut π) (hLink : KeepsLink π) (hPort : KeepsPort π) (hDsc : KeepsDsc π) (hWc : KeepsWc π) (hSnw : KeepsSnw π) (hGov : KeepsGov π) (hMcu : KeepsMcu π) (hRot : KeepsRot π) (hCfg : KeepsCfg π) (hRcc : KeepsRcc π) (hEvr : KeepsEvr π) (hGlb : KeepsGlb π) (hCold : KeepsCold π) (s : State) :
    π (State.bootWarm s) = π s := by
  unfold State.bootWarm
  with_reducible repeat' first
    | rfl
    | assumption
    | (intro)
    | refine ite_frame ?_ ?_
    | refine (State.bootFail_frame π hFresh hRot hEvr hGlb _ _).trans ?_
    | refine (State.rejectImage_frame π hFresh hEvr _ _ _).trans ?_
    | refine (State.coldReset_frame π hRcc hEvr hCold _).trans ?_
    | refine (State.event_frame π hEvr _ _ _ _ _ _ _).trans ?_
    | refine (State.awaitConfig_frame π hOut hPort hRot hCfg _ _).trans ?_
    | refine (State.runImage_frame π hLink hDsc hWc hSnw hGov hMcu hRot hGlb _ _ _).trans ?_
    | refine pair_frame (by with_reducible assumption) ?_
    | split
    | (dsimp only)

theorem State.startWarm_frame {α : Type} (π : State → α) (hFresh : KeepsFresh π) (hOut : KeepsOut π) (hLink : KeepsLink π) (hPort : KeepsPort π) (hDsc : KeepsDsc π) (hWc : KeepsWc π) (hSnw : KeepsSnw π) (hGov : KeepsGov π) (hMcu : KeepsMcu π) (hRot : KeepsRot π) (hCfg : KeepsCfg π) (hRcc : KeepsRcc π) (hEvr : KeepsEvr π) (hGlb : KeepsGlb π) (hCold : KeepsCold π) (s : State) (waitedUs : Nat) :
    π (State.startWarm s waitedUs) = π s := by
  unfold State.startWarm
  with_reducible repeat' first
    | rfl
    | assumption
    | (intro)
    | refine (hRcc _ _).trans ?_
    | refine (State.bootWarm_frame π hFresh hOut hLink hPort hDsc hWc hSnw hGov hMcu hRot hCfg hRcc hEvr hGlb hCold _).trans ?_
    | refine (State.levelKept_frame π hEvr _).trans ?_
    | refine (State.evrWarm_frame π hEvr _ _).trans ?_
    | refine (hRot _ _ ?_).trans ?_
    | refine pair_frame (by with_reducible assumption) ?_
    | split
    | (dsimp only)

theorem execChipRelease_frame {α : Type} (π : State → α) (hDt : KeepsDt π) (hFresh : KeepsFresh π) (hOut : KeepsOut π) (hLink : KeepsLink π) (hPort : KeepsPort π) (hDsc : KeepsDsc π) (hWc : KeepsWc π) (hDge : KeepsDge π) (hHa : KeepsHa π) (hSnw : KeepsSnw π) (hGov : KeepsGov π) (hMcu : KeepsMcu π) (hSlc : KeepsSlc π) (hRot : KeepsRot π) (hNvi : KeepsNvi π) (hCfg : KeepsCfg π) (hRcc : KeepsRcc π) (hEvr : KeepsEvr π) (hGlb : KeepsGlb π) (hCold : KeepsCold π) (straps : Straps) (waitedUs : Nat) (nvm : Option (Option Image × Option Image)) (badLanes : List (Nat × Nat)) (badWays : List (Nat × Nat)) (s : State) :
    ∃ s', execChipRelease straps waitedUs nvm badLanes badWays s = .next s' ∧ π s' = π s := by
  unfold execChipRelease
  with_reducible repeat' first
    | rfl
    | assumption
    | (intro)
    | refine ite_frame ?_ ?_
    | refine ite_frame2 ?_ ?_
    | refine (State.startWarm_frame π hFresh hOut hLink hPort hDsc hWc hSnw hGov hMcu hRot hCfg hRcc hEvr hGlb hCold _ _).trans ?_
    | refine (State.releaseCold_frame π hDt hFresh hHa hRot hNvi hRcc hEvr hGlb _ _ _ _).trans ?_
    | refine (State.bootCold_frame π hFresh hLink hDsc hWc hDge hSnw hGov hMcu hRot hNvi hEvr hGlb _ _).trans ?_
    | refine (State.retireWay_frame π hSlc hEvr _ _ _ _).trans ?_
    | refine (foldl_frame π _ ?_ _ _).trans ?_
    | refine (foldl_frame2 π _ ?_ _ _).trans ?_
    | refine ⟨_, rfl, ?_⟩
    | refine pair_frame (by with_reducible assumption) ?_
    | split
    | (dsimp only)

theorem execDdrTrainingDone_frame {α : Type} (π : State → α) (hOut : KeepsOut π) (hPort : KeepsPort π) (hWc : KeepsWc π) (hCpe : KeepsCpe π) (hMcu : KeepsMcu π) (hRot : KeepsRot π) (hXts : KeepsXts π) (hCfg : KeepsCfg π) (hEvr : KeepsEvr π) (failures : List (Nat × Nat × Nat)) (badLanes : List (Nat × Nat × Nat)) (s : State) :
    ∃ s', execDdrTrainingDone failures badLanes s = .next s' ∧ π s' = π s := by
  unfold execDdrTrainingDone
  with_reducible repeat' first
    | rfl
    | assumption
    | (intro)
    | refine ite_frame ?_ ?_
    | refine ite_frame2 ?_ ?_
    | refine (hMcu _ _).trans ?_
    | refine (State.event_frame π hEvr _ _ _ _ _ _ _).trans ?_
    | refine (State.carve_frame π hWc hMcu hEvr _).trans ?_
    | refine (State.evrUp_frame π hEvr _).trans ?_
    | refine (State.awaitConfig_frame π hOut hPort hRot hCfg _ _).trans ?_
    | refine (State.testEngines_frame π hCpe hXts hEvr _ _).trans ?_
    | refine (foldl_frame π _ ?_ _ _).trans ?_
    | refine (foldl_frame2 π _ ?_ _ _).trans ?_
    | refine ⟨_, rfl, ?_⟩
    | refine pair_frame (by with_reducible assumption) ?_
    | split
    | (dsimp only)

theorem State.loadDicts_frame {α : Type} (π : State → α) (hCpe : KeepsCpe π) (hEvr : KeepsEvr π) (s : State) (found : List (Nat × Option Nat)) :
    π (State.loadDicts s found) = π s := by
  unfold State.loadDicts
  with_reducible repeat' first
    | rfl
    | assumption
    | (intro)
    | refine ite_frame ?_ ?_
    | refine ite_frame2 ?_ ?_
    | refine (hCpe _ _).trans ?_
    | refine (State.event_frame π hEvr _ _ _ _ _ _ _).trans ?_
    | refine (foldl_frame π _ ?_ _ _).trans ?_
    | refine (foldl_frame2 π _ ?_ _ _).trans ?_
    | refine pair_frame (by with_reducible assumption) ?_
    | split
    | (dsimp only)

theorem State.replayJournal_frame {α : Type} (π : State → α) (hFresh : KeepsFresh π) (hOut : KeepsOut π) (hPort : KeepsPort π) (hCqe : KeepsCqe π) (hDsc : KeepsDsc π) (hWc : KeepsWc π) (hDxu : KeepsDxu π) (hFtu : KeepsFtu π) (hPxe : KeepsPxe π) (hGov : KeepsGov π) (hEvr : KeepsEvr π) (hGlb : KeepsGlb π) (s : State) (kept : Bool) :
    π (State.replayJournal s kept) = π s := by
  unfold State.replayJournal
  with_reducible repeat' first
    | rfl
    | assumption
    | (intro)
    | refine ite_frame ?_ ?_
    | refine ite_frame2 ?_ ?_
    | refine (hFtu _ _).trans ?_
    | refine (State.commitDurable_frame π hFresh hOut hPort hCqe hDsc hWc hDxu hFtu hEvr hGlb _ _).trans ?_
    | refine (State.event_frame π hEvr _ _ _ _ _ _ _).trans ?_
    | refine (State.clearRegions_frame π hPxe _ _ _).trans ?_
    | refine (State.planRows_frame π hDsc hFtu hGov _).trans ?_
    | refine (foldl_frame π _ ?_ _ _).trans ?_
    | refine (foldl_frame2 π _ ?_ _ _).trans ?_
    | refine pair_frame (by with_reducible assumption) ?_
    | split
    | (dsimp only)

theorem State.recover_frame {α : Type} (π : State → α) (hCqe : KeepsCqe π) (hWc : KeepsWc π) (hDxu : KeepsDxu π) (hCpe : KeepsCpe π) (hFtu : KeepsFtu π) (hPxe : KeepsPxe π) (hEvr : KeepsEvr π) (s : State) (unreadable : List Nat) (peerCopies : List (Nat × Desc × List Bytes)) (lost : List (Nat × Nat)) (descBad : List (Bool × Nat)) (dicts : List (Nat × Option Nat)) :
    π (State.recover s unreadable peerCopies lost descBad dicts) = π s := by
  unfold State.recover
  with_reducible repeat' first
    | rfl
    | assumption
    | (intro)
    | refine ite_frame ?_ ?_
    | refine (State.retainCache_frame π hWc hEvr _ _ _).trans ?_
    | refine (State.setDomain_frame π hCqe hDxu hEvr _ _ _ _).trans ?_
    | refine (State.loadDicts_frame π hCpe hEvr _ _).trans ?_
    | refine (State.replayVault_frame π hCqe hWc hDxu hFtu hPxe hEvr _ _ _ _).trans ?_
    | refine (foldl_frame π _ ?_ _ _).trans ?_
    | refine (foldl_frame2 π _ ?_ _ _).trans ?_
    | refine pair_frame (by with_reducible assumption) ?_
    | split
    | (dsimp only)

theorem State.readyPower_frame {α : Type} (π : State → α) (hHa : KeepsHa π) (hPmu : KeepsPmu π) (hEvr : KeepsEvr π) (s : State) :
    π (State.readyPower s) = π s := by
  unfold State.readyPower
  with_reducible repeat' first
    | rfl
    | assumption
    | (intro)
    | refine ite_frame ?_ ?_
    | refine (hHa _ _).trans ?_
    | refine (State.setPstate_frame π hPmu hEvr _ _ _ _).trans ?_
    | refine pair_frame (by with_reducible assumption) ?_
    | split
    | (dsimp only)

theorem execBootReady_frame {α : Type} (π : State → α) (hFresh : KeepsFresh π) (hOut : KeepsOut π) (hLink : KeepsLink π) (hPort : KeepsPort π) (hCqe : KeepsCqe π) (hDsc : KeepsDsc π) (hWc : KeepsWc π) (hDxu : KeepsDxu π) (hCpe : KeepsCpe π) (hFtu : KeepsFtu π) (hPxe : KeepsPxe π) (hHa : KeepsHa π) (hGov : KeepsGov π) (hSlc : KeepsSlc π) (hRot : KeepsRot π) (hCfg : KeepsCfg π) (hPmu : KeepsPmu π) (hEvr : KeepsEvr π) (hGlb : KeepsGlb π) (unreadable : List Nat) (peerCopies : List (Nat × Desc × List Bytes)) (lost : List (Nat × Nat)) (descBad : List (Bool × Nat)) (dicts : List (Nat × Option Nat)) (s : State) :
    ∃ s', execBootReady unreadable peerCopies lost descBad dicts s = .next s' ∧ π s' = π s := by
  unfold execBootReady
  with_reducible repeat' first
    | rfl
    | assumption
    | (intro)
    | refine ite_frame ?_ ?_
    | refine (State.replayJournal_frame π hFresh hOut hPort hCqe hDsc hWc hDxu hFtu hPxe hGov hEvr hGlb _ _).trans ?_
    | refine (State.recover_frame π hCqe hWc hDxu hCpe hFtu hPxe hEvr _ _ _ _ _ _).trans ?_
    | refine (hRot _ _ ?_).trans ?_
    | refine (hHa _ _).trans ?_
    | refine (State.event_frame π hEvr _ _ _ _ _ _ _).trans ?_
    | refine (State.readyPower_frame π hHa hPmu hEvr _).trans ?_
    | refine (State.refreshVolumes_frame π hCqe hCfg _).trans ?_
    | refine (State.refreshPools_frame π hCqe hDsc hFtu hEvr hGlb _).trans ?_
    | refine (State.refreshLimit_frame π hWc hEvr _).trans ?_
    | refine (State.requestWays_frame π hSlc hEvr _ _ _).trans ?_
    | refine (State.claimLeases_frame π hOut hLink hPort hHa _).trans ?_
    | refine (State.joinArray_frame π hFresh hOut hLink hPort hWc hDxu hHa hEvr _).trans ?_
    | refine ⟨_, rfl, ?_⟩
    | refine pair_frame (by with_reducible assumption) ?_
    | split
    | (dsimp only)

theorem State.wake_frame {α : Type} (π : State → α) (hFresh : KeepsFresh π) (hOut : KeepsOut π) (hLink : KeepsLink π) (hPort : KeepsPort π) (hDsc : KeepsDsc π) (hWc : KeepsWc π) (hSnw : KeepsSnw π) (hGov : KeepsGov π) (hMcu : KeepsMcu π) (hRot : KeepsRot π) (hCfg : KeepsCfg π) (hPmu : KeepsPmu π) (hRcc : KeepsRcc π) (hEvr : KeepsEvr π) (hGlb : KeepsGlb π) (hCold : KeepsCold π) (s : State) (source : Nat) :
    π (State.wake s source) = π s := by
  unfold State.wake
  with_reducible
    repeat' first | (rfl) | (refine (State.setPstate_frame π hPmu hEvr _ _ _ _).trans ?_) | (refine (State.event_frame π hEvr _ _ _ _ _ _ _).trans ?_) | (refine (hMcu _ _).trans ?_) | (refine (State.startWarm_frame π hFresh hOut hLink hPort hDsc hWc hSnw hGov hMcu hRot hCfg hRcc hEvr hGlb hCold _ _).trans ?_)

theorem execPmuWake_frame {α : Type} (π : State → α) (hFresh : KeepsFresh π) (hOut : KeepsOut π) (hLink : KeepsLink π) (hPort : KeepsPort π) (hDsc : KeepsDsc π) (hWc : KeepsWc π) (hSnw : KeepsSnw π) (hGov : KeepsGov π) (hMcu : KeepsMcu π) (hRot : KeepsRot π) (hCfg : KeepsCfg π) (hPmu : KeepsPmu π) (hRcc : KeepsRcc π) (hEvr : KeepsEvr π) (hGlb : KeepsGlb π) (hCold : KeepsCold π) (s : State) :
    ∃ s', execPmuWake s = .next s' ∧ π s' = π s := by
  unfold execPmuWake
  with_reducible repeat' first
    | rfl
    | assumption
    | (intro)
    | refine ite_frame ?_ ?_
    | refine (State.wake_frame π hFresh hOut hLink hPort hDsc hWc hSnw hGov hMcu hRot hCfg hPmu hRcc hEvr hGlb hCold _ _).trans ?_
    | refine ⟨_, rfl, ?_⟩
    | refine pair_frame (by with_reducible assumption) ?_
    | split
    | (dsimp only)

theorem execWresetN_frame {α : Type} (π : State → α) (hFresh : KeepsFresh π) (hOut : KeepsOut π) (hLink : KeepsLink π) (hPort : KeepsPort π) (hDsc : KeepsDsc π) (hWc : KeepsWc π) (hSnw : KeepsSnw π) (hGov : KeepsGov π) (hMcu : KeepsMcu π) (hRot : KeepsRot π) (hCfg : KeepsCfg π) (hPmu : KeepsPmu π) (hRcc : KeepsRcc π) (hEvr : KeepsEvr π) (hGlb : KeepsGlb π) (hCold : KeepsCold π) (hWarm : KeepsWarm π) (s : State) :
    ∃ s', execWresetN s = .next s' ∧ π s' = π s := by
  unfold execWresetN
  with_reducible repeat' first
    | rfl
    | assumption
    | (intro)
    | refine ite_frame ?_ ?_
    | refine (State.wake_frame π hFresh hOut hLink hPort hDsc hWc hSnw hGov hMcu hRot hCfg hPmu hRcc hEvr hGlb hCold _ _).trans ?_
    | refine (hRcc _ _).trans ?_
    | refine (State.warmSource_frame π hRcc hEvr hWarm _ _).trans ?_
    | refine ⟨_, rfl, ?_⟩
    | refine pair_frame (by with_reducible assumption) ?_
    | split
    | (dsimp only)

end Sys2Proof.Machine
end

