-- ==== Sys2Proof/Laws/FrameBlocks.lean ====
section
/-! SUPPORT. What the definitions of Machine/Blocks.lean leave alone: a view of the state that no block they write can change reads
the same after them. -/

set_option linter.unusedSimpArgs false

namespace Sys2Proof.Machine

open Sys2Proof

theorem State.failLost_frame {α : Type} (π : State → α) (hOut : KeepsOut π) (hPort : KeepsPort π) (hCqe : KeepsCqe π) (hWc : KeepsWc π) (hDge : KeepsDge π) (hCpe : KeepsCpe π) (hFtu : KeepsFtu π) (hSlc : KeepsSlc π) (hEvr : KeepsEvr π) (s : State) (hit : Cmd → Bool) :
    π (State.failLost s hit).2 = π s := by
  unfold State.failLost
  with_reducible repeat' first
    | rfl
    | assumption
    | (intro)
    | refine ite_frame2 ?_ ?_
    | refine (State.failCmd_frame π hOut hPort hCqe hWc hDge hCpe hFtu hSlc hEvr _ _ _).trans ?_
    | refine (foldl_frame π _ ?_ _ _).trans ?_
    | refine (foldl_frame2 π _ ?_ _ _).trans ?_
    | refine pair_frame (by with_reducible assumption) ?_
    | split
    | (dsimp only)

theorem State.workLost_frame {α : Type} (π : State → α) (hOut : KeepsOut π) (hPort : KeepsPort π) (hDsc : KeepsDsc π) (hWc : KeepsWc π) (hDxu : KeepsDxu π) (hFtu : KeepsFtu π) (hPxe : KeepsPxe π) (hSnap : KeepsSnap π) (hGov : KeepsGov π) (s : State) (w : Work) :
    π (State.workLost s w) = π s := by
  unfold State.workLost
  with_reducible repeat' first
    | rfl
    | assumption
    | (intro)
    | refine ite_frame ?_ ?_
    | refine (State.undoDestage_frame π hWc hDxu _ _).trans ?_
    | refine (State.modCell_frame π hPxe _ _ _ _ _).trans ?_
    | refine (State.modJob_frame π hSnap _ _ _).trans ?_
    | refine (State.restripe_frame π hOut hPort hDsc hFtu hPxe hGov _ _).trans ?_
    | refine pair_frame (by with_reducible assumption) ?_
    | split
    | (dsimp only)

theorem State.fetchesLost_frame {α : Type} (π : State → α) (hOut : KeepsOut π) (hPort : KeepsPort π) (hCqe : KeepsCqe π) (hDsc : KeepsDsc π) (hWc : KeepsWc π) (hDge : KeepsDge π) (hDxu : KeepsDxu π) (hCpe : KeepsCpe π) (hFtu : KeepsFtu π) (hPxe : KeepsPxe π) (hSnap : KeepsSnap π) (hGov : KeepsGov π) (hSlc : KeepsSlc π) (hEvr : KeepsEvr π) (s : State) (nums : List Nat) :
    π (State.fetchesLost s nums).2 = π s := by
  unfold State.fetchesLost
  with_reducible repeat' first
    | rfl
    | assumption
    | (intro)
    | refine ite_frame ?_ ?_
    | refine ite_frame2 ?_ ?_
    | refine (hFtu _ _).trans ?_
    | refine (hDsc _ _).trans ?_
    | refine (State.workLost_frame π hOut hPort hDsc hWc hDxu hFtu hPxe hSnap hGov _ _).trans ?_
    | refine (State.failLost_frame π hOut hPort hCqe hWc hDge hCpe hFtu hSlc hEvr _ _).trans ?_
    | refine (pair_frame (by with_reducible assumption) (State.failLost_frame π hOut hPort hCqe hWc hDge hCpe hFtu hSlc hEvr _ _)).trans ?_
    | refine (foldl_frame π _ ?_ _ _).trans ?_
    | refine (foldl_frame2 π _ ?_ _ _).trans ?_
    | refine pair_frame (by with_reducible assumption) ?_
    | split
    | (dsimp only)

theorem State.lanesDown_frame {α : Type} (π : State → α) (hFresh : KeepsFresh π) (hOut : KeepsOut π) (hLink : KeepsLink π) (hPort : KeepsPort π) (hLane : KeepsLane π) (hCqe : KeepsCqe π) (hSess : KeepsSess π) (hDsc : KeepsDsc π) (hWc : KeepsWc π) (hFtu : KeepsFtu π) (hPxe : KeepsPxe π) (hPxeAll : KeepsPxeAll π) (hGov : KeepsGov π) (hCfg : KeepsCfg π) (hEvr : KeepsEvr π) (hGlb : KeepsGlb π) (s : State) (ns : List Nat) :
    π (State.lanesDown s ns) = π s := by
  unfold State.lanesDown
  with_reducible repeat' first
    | rfl
    | assumption
    | (intro)
    | refine ite_frame ?_ ?_
    | refine (State.setLane_frame π hFresh hOut hLink hPort hLane hCqe hSess hDsc hWc hFtu hPxe hPxeAll hGov hCfg hEvr hGlb _ _ _ _).trans ?_
    | refine (foldl_frame π _ ?_ _ _).trans ?_
    | refine (foldl_frame2 π _ ?_ _ _).trans ?_
    | refine pair_frame (by with_reducible assumption) ?_
    | split
    | (dsimp only)

theorem State.laneRegs_frame {α : Type} (π : State → α) (hLinkAll : KeepsLinkAll π) (s : State) (ns : List Nat) :
    π (State.laneRegs s ns) = π s := by
  unfold State.laneRegs
  with_reducible repeat' first
    | rfl
    | assumption
    | (intro)
    | refine ite_frame ?_ ?_
    | refine ite_frame2 ?_ ?_
    | refine (hLinkAll _ _).trans ?_
    | refine pair_frame (by with_reducible assumption) ?_
    | split
    | (dsimp only)

theorem State.resetCqe_frame {α : Type} (π : State → α) (hOut : KeepsOut π) (hLink : KeepsLink π) (hPort : KeepsPort π) (hCqe : KeepsCqe π) (hSess : KeepsSess π) (hWc : KeepsWc π) (hDge : KeepsDge π) (hCpe : KeepsCpe π) (hFtu : KeepsFtu π) (hSlc : KeepsSlc π) (hEvr : KeepsEvr π) (s : State) :
    π (State.resetCqe s).2 = π s := by
  unfold State.resetCqe
  with_reducible repeat' first
    | rfl
    | assumption
    | (intro)
    | refine ite_frame2 ?_ ?_
    | refine (State.endSession_frame π hOut hLink hPort hCqe hSess hWc hDge hCpe hFtu hSlc hEvr _ _ _).trans ?_
    | refine (hCqe _ _).trans ?_
    | refine (hLink _ _ ?_).trans ?_
    | refine (foldl_frame π _ ?_ _ _).trans ?_
    | refine (foldl_frame2 π _ ?_ _ _).trans ?_
    | refine pair_frame (by with_reducible assumption) ?_
    | split
    | (dsimp only)

theorem State.resetDsc_frame {α : Type} (π : State → α) (hOut : KeepsOut π) (hPort : KeepsPort π) (hCqe : KeepsCqe π) (hDsc : KeepsDsc π) (hWc : KeepsWc π) (hDge : KeepsDge π) (hDxu : KeepsDxu π) (hCpe : KeepsCpe π) (hFtu : KeepsFtu π) (hPxe : KeepsPxe π) (hSnap : KeepsSnap π) (hGov : KeepsGov π) (hSlc : KeepsSlc π) (hEvr : KeepsEvr π) (s : State) :
    π (State.resetDsc s).2 = π s := by
  unfold State.resetDsc
  with_reducible repeat' first
    | rfl
    | assumption
    | (intro)
    | refine ite_frame ?_ ?_
    | refine ite_frame2 ?_ ?_
    | refine (hDsc _ _).trans ?_
    | refine (State.fetchesLost_frame π hOut hPort hCqe hDsc hWc hDge hDxu hCpe hFtu hPxe hSnap hGov hSlc hEvr _ _).trans ?_
    | refine (pair_frame (by with_reducible assumption) (State.fetchesLost_frame π hOut hPort hCqe hDsc hWc hDge hDxu hCpe hFtu hPxe hSnap hGov hSlc hEvr _ _)).trans ?_
    | refine (State.workLost_frame π hOut hPort hDsc hWc hDxu hFtu hPxe hSnap hGov _ _).trans ?_
    | refine (State.failLost_frame π hOut hPort hCqe hWc hDge hCpe hFtu hSlc hEvr _ _).trans ?_
    | refine (pair_frame (by with_reducible assumption) (State.failLost_frame π hOut hPort hCqe hWc hDge hCpe hFtu hSlc hEvr _ _)).trans ?_
    | refine (foldl_frame π _ ?_ _ _).trans ?_
    | refine (foldl_frame2 π _ ?_ _ _).trans ?_
    | refine pair_frame (by with_reducible assumption) ?_
    | split
    | (dsimp only)

theorem State.resetDge_frame {α : Type} (π : State → α) (hDge : KeepsDge π) (s : State) :
    π (State.resetDge s) = π s := by
  unfold State.resetDge
  with_reducible
    repeat' first | (rfl) | (refine (hDge _ _).trans ?_)

theorem State.resetDxu_frame {α : Type} (π : State → α) (hCqe : KeepsCqe π) (hWc : KeepsWc π) (hDxu : KeepsDxu π) (hEvr : KeepsEvr π) (s : State) :
    π (State.resetDxu s) = π s := by
  unfold State.resetDxu
  with_reducible repeat' first
    | rfl
    | assumption
    | (intro)
    | refine (State.undoDestage_frame π hWc hDxu _ _).trans ?_
    | refine (hDxu _ _).trans ?_
    | refine (State.setDomain_frame π hCqe hDxu hEvr _ _ _ _).trans ?_
    | refine (foldl_frame π _ ?_ _ _).trans ?_
    | refine (foldl_frame2 π _ ?_ _ _).trans ?_
    | refine pair_frame (by with_reducible assumption) ?_
    | split
    | (dsimp only)

theorem State.resetCpe_frame {α : Type} (π : State → α) (hOut : KeepsOut π) (hPort : KeepsPort π) (hCqe : KeepsCqe π) (hWc : KeepsWc π) (hDge : KeepsDge π) (hCpe : KeepsCpe π) (hFtu : KeepsFtu π) (hSlc : KeepsSlc π) (hEvr : KeepsEvr π) (s : State) :
    π (State.resetCpe s).2 = π s := by
  unfold State.resetCpe
  with_reducible repeat' first
    | rfl
    | assumption
    | (intro)
    | refine ite_frame2 ?_ ?_
    | refine (hCpe _ _).trans ?_
    | refine (State.giveComp_frame π hCpe _).trans ?_
    | refine (State.failLost_frame π hOut hPort hCqe hWc hDge hCpe hFtu hSlc hEvr _ _).trans ?_
    | refine (pair_frame (by with_reducible assumption) (State.failLost_frame π hOut hPort hCqe hWc hDge hCpe hFtu hSlc hEvr _ _)).trans ?_
    | refine (foldl_frame π _ ?_ _ _).trans ?_
    | refine (foldl_frame2 π _ ?_ _ _).trans ?_
    | refine pair_frame (by with_reducible assumption) ?_
    | split
    | (dsimp only)

theorem State.resetXts_frame {α : Type} (π : State → α) (hXts : KeepsXts π) (s : State) :
    π (State.resetXts s) = π s := by
  unfold State.resetXts
  with_reducible repeat' first
    | rfl
    | assumption
    | (intro)
    | refine ite_frame ?_ ?_
    | refine (hXts _ _).trans ?_
    | refine pair_frame (by with_reducible assumption) ?_
    | split
    | (dsimp only)

theorem State.resetFtu_frame {α : Type} (π : State → α) (hFresh : KeepsFresh π) (hOut : KeepsOut π) (hPort : KeepsPort π) (hCqe : KeepsCqe π) (hDsc : KeepsDsc π) (hWc : KeepsWc π) (hDge : KeepsDge π) (hDxu : KeepsDxu π) (hCpe : KeepsCpe π) (hFtu : KeepsFtu π) (hPxe : KeepsPxe π) (hSnap : KeepsSnap π) (hGov : KeepsGov π) (hSlc : KeepsSlc π) (hEvr : KeepsEvr π) (hGlb : KeepsGlb π) (s : State) :
    π (State.resetFtu s).2 = π s := by
  unfold State.resetFtu
  with_reducible repeat' first
    | rfl
    | assumption
    | (intro)
    | refine ite_frame2 ?_ ?_
    | refine (State.fetchesLost_frame π hOut hPort hCqe hDsc hWc hDge hDxu hCpe hFtu hPxe hSnap hGov hSlc hEvr _ _).trans ?_
    | refine (pair_frame (by with_reducible assumption) (State.fetchesLost_frame π hOut hPort hCqe hDsc hWc hDge hDxu hCpe hFtu hPxe hSnap hGov hSlc hEvr _ _)).trans ?_
    | refine (hFtu _ _).trans ?_
    | refine (hSnap _ _).trans ?_
    | refine (hWc _ _).trans ?_
    | refine (State.commitDurable_frame π hFresh hOut hPort hCqe hDsc hWc hDxu hFtu hEvr hGlb _ _).trans ?_
    | refine (foldl_frame π _ ?_ _ _).trans ?_
    | refine (foldl_frame2 π _ ?_ _ _).trans ?_
    | refine pair_frame (by with_reducible assumption) ?_
    | split
    | (dsimp only)

theorem State.resetGov_frame {α : Type} (π : State → α) (hFresh : KeepsFresh π) (hCqe : KeepsCqe π) (hGov : KeepsGov π) (hEvr : KeepsEvr π) (s : State) :
    π (State.resetGov s) = π s := by
  unfold State.resetGov
  with_reducible
    repeat' first | (rfl) | (refine (State.freshen_frame π hFresh _).trans ?_) | (refine (State.setGovMode_frame π hCqe hGov hEvr _ _ _).trans ?_) | (refine (hGov _ _).trans ?_)

theorem State.resetEvr_frame {α : Type} (π : State → α) (hEvr : KeepsEvr π) (s : State) :
    π (State.resetEvr s) = π s := by
  unfold State.resetEvr
  with_reducible
    repeat' first | (rfl) | (refine (hEvr _ _).trans ?_)

theorem State.resetBlock_frame {α : Type} (π : State → α) (hFresh : KeepsFresh π) (hOut : KeepsOut π) (hLink : KeepsLink π) (hLinkAll : KeepsLinkAll π) (hPort : KeepsPort π) (hLane : KeepsLane π) (hCqe : KeepsCqe π) (hSess : KeepsSess π) (hDsc : KeepsDsc π) (hWc : KeepsWc π) (hDge : KeepsDge π) (hDxu : KeepsDxu π) (hCpe : KeepsCpe π) (hFtu : KeepsFtu π) (hPxe : KeepsPxe π) (hPxeAll : KeepsPxeAll π) (hSnap : KeepsSnap π) (hHa : KeepsHa π) (hGov : KeepsGov π) (hSlc : KeepsSlc π) (hNvi : KeepsNvi π) (hXts : KeepsXts π) (hCfg : KeepsCfg π) (hEvr : KeepsEvr π) (hGlb : KeepsGlb π) (s : State) (b : Nat) :
    π (State.resetBlock s b).2 = π s := by
  unfold State.resetBlock
  with_reducible repeat' first
    | rfl
    | assumption
    | (intro)
    | refine ite_frame ?_ ?_
    | refine ite_frame2 ?_ ?_
    | refine (State.laneRegs_frame π hLinkAll _ _).trans ?_
    | refine (State.lanesDown_frame π hFresh hOut hLink hPort hLane hCqe hSess hDsc hWc hFtu hPxe hPxeAll hGov hCfg hEvr hGlb _ _).trans ?_
    | refine (hHa _ _).trans ?_
    | refine (State.resetCqe_frame π hOut hLink hPort hCqe hSess hWc hDge hCpe hFtu hSlc hEvr _).trans ?_
    | refine (pair_frame (by with_reducible assumption) (State.resetCqe_frame π hOut hLink hPort hCqe hSess hWc hDge hCpe hFtu hSlc hEvr _)).trans ?_
    | refine (State.resetDsc_frame π hOut hPort hCqe hDsc hWc hDge hDxu hCpe hFtu hPxe hSnap hGov hSlc hEvr _).trans ?_
    | refine (pair_frame (by with_reducible assumption) (State.resetDsc_frame π hOut hPort hCqe hDsc hWc hDge hDxu hCpe hFtu hPxe hSnap hGov hSlc hEvr _)).trans ?_
    | refine (State.resetDge_frame π hDge _).trans ?_
    | refine (State.resetDxu_frame π hCqe hWc hDxu hEvr _).trans ?_
    | refine (State.resetCpe_frame π hOut hPort hCqe hWc hDge hCpe hFtu hSlc hEvr _).trans ?_
    | refine (pair_frame (by with_reducible assumption) (State.resetCpe_frame π hOut hPort hCqe hWc hDge hCpe hFtu hSlc hEvr _)).trans ?_
    | refine (State.resetXts_frame π hXts _).trans ?_
    | refine (hPxe _ _ ?_).trans ?_
    | refine (State.resetFtu_frame π hFresh hOut hPort hCqe hDsc hWc hDge hDxu hCpe hFtu hPxe hSnap hGov hSlc hEvr hGlb _).trans ?_
    | refine (pair_frame (by with_reducible assumption) (State.resetFtu_frame π hFresh hOut hPort hCqe hDsc hWc hDge hDxu hCpe hFtu hPxe hSnap hGov hSlc hEvr hGlb _)).trans ?_
    | refine (State.resetGov_frame π hFresh hCqe hGov hEvr _).trans ?_
    | refine (hNvi _ _).trans ?_
    | refine (State.resetEvr_frame π hEvr _).trans ?_
    | refine pair_frame (by with_reducible assumption) ?_
    | split
    | (dsimp only)

theorem State.writeBlkrst_frame {α : Type} (π : State → α) (hFresh : KeepsFresh π) (hOut : KeepsOut π) (hLink : KeepsLink π) (hLinkAll : KeepsLinkAll π) (hPort : KeepsPort π) (hLane : KeepsLane π) (hCqe : KeepsCqe π) (hSess : KeepsSess π) (hDsc : KeepsDsc π) (hWc : KeepsWc π) (hDge : KeepsDge π) (hDxu : KeepsDxu π) (hCpe : KeepsCpe π) (hFtu : KeepsFtu π) (hPxe : KeepsPxe π) (hPxeAll : KeepsPxeAll π) (hSnap : KeepsSnap π) (hHa : KeepsHa π) (hGov : KeepsGov π) (hSlc : KeepsSlc π) (hNvi : KeepsNvi π) (hXts : KeepsXts π) (hCfg : KeepsCfg π) (hDbg : KeepsDbg π) (hRcc : KeepsRcc π) (hEvr : KeepsEvr π) (hGlb : KeepsGlb π) (s : State) (v : Nat) (sess : Nat) :
    π (State.writeBlkrst s v sess) = π s := by
  unfold State.writeBlkrst
  with_reducible repeat' first
    | rfl
    | assumption
    | (intro)
    | refine ite_frame ?_ ?_
    | refine ite_frame2 ?_ ?_
    | refine (State.event_frame π hEvr _ _ _ _ _ _ _).trans ?_
    | refine (hRcc _ _).trans ?_
    | refine (hDbg _ _).trans ?_
    | refine (State.resetBlock_frame π hFresh hOut hLink hLinkAll hPort hLane hCqe hSess hDsc hWc hDge hDxu hCpe hFtu hPxe hPxeAll hSnap hHa hGov hSlc hNvi hXts hCfg hEvr hGlb _ _).trans ?_
    | refine (pair_frame (by with_reducible assumption) (State.resetBlock_frame π hFresh hOut hLink hLinkAll hPort hLane hCqe hSess hDsc hWc hDge hDxu hCpe hFtu hPxe hPxeAll hSnap hHa hGov hSlc hNvi hXts hCfg hEvr hGlb _ _)).trans ?_
    | refine (State.freshen_frame π hFresh _).trans ?_
    | refine (foldl_frame π _ ?_ _ _).trans ?_
    | refine (foldl_frame2 π _ ?_ _ _).trans ?_
    | refine pair_frame (by with_reducible assumption) ?_
    | split
    | (dsimp only)

theorem execBlockReset_frame {α : Type} (π : State → α) (hFresh : KeepsFresh π) (hOut : KeepsOut π) (hLink : KeepsLink π) (hLinkAll : KeepsLinkAll π) (hPort : KeepsPort π) (hLane : KeepsLane π) (hCqe : KeepsCqe π) (hSess : KeepsSess π) (hDsc : KeepsDsc π) (hWc : KeepsWc π) (hDge : KeepsDge π) (hDxu : KeepsDxu π) (hCpe : KeepsCpe π) (hFtu : KeepsFtu π) (hPxe : KeepsPxe π) (hPxeAll : KeepsPxeAll π) (hSnap : KeepsSnap π) (hHa : KeepsHa π) (hGov : KeepsGov π) (hSlc : KeepsSlc π) (hNvi : KeepsNvi π) (hXts : KeepsXts π) (hCfg : KeepsCfg π) (hDbg : KeepsDbg π) (hRcc : KeepsRcc π) (hEvr : KeepsEvr π) (hGlb : KeepsGlb π) (m : Vc3) (value : Word) (s : State) :
    ∃ s', execBlockReset m value s = .next s' ∧ π s' = π s := by
  unfold execBlockReset
  with_reducible repeat' first
    | rfl
    | assumption
    | (intro)
    | refine (State.regWrite_frame π hFresh hOut hPort hCqe hSess hEvr _ _ _ _ _ ?_).trans ?_
    | refine (State.writeBlkrst_frame π hFresh hOut hLink hLinkAll hPort hLane hCqe hSess hDsc hWc hDge hDxu hCpe hFtu hPxe hPxeAll hSnap hHa hGov hSlc hNvi hXts hCfg hDbg hRcc hEvr hGlb _ _ _).trans ?_
    | refine ⟨_, rfl, ?_⟩
    | refine pair_frame (by with_reducible assumption) ?_
    | split
    | (dsimp only)

theorem State.reloadBlock_frame {α : Type} (π : State → α) (hCqe : KeepsCqe π) (hDge : KeepsDge π) (hCpe : KeepsCpe π) (hGov : KeepsGov π) (hEvr : KeepsEvr π) (s : State) (b : Nat) :
    π (State.reloadBlock s b) = π s := by
  unfold State.reloadBlock
  with_reducible repeat' first
    | rfl
    | assumption
    | (intro)
    | refine ite_frame ?_ ?_
    | refine ite_frame2 ?_ ?_
    | refine (hDge _ _).trans ?_
    | refine (State.applyDicts_frame π hCpe _).trans ?_
    | refine (State.loadCoef_frame π hGov _).trans ?_
    | refine (State.applyPower_frame π hCqe hGov hEvr _ _).trans ?_
    | refine (hGov _ _).trans ?_
    | refine pair_frame (by with_reducible assumption) ?_
    | split
    | (dsimp only)

theorem execBlockRelease_frame {α : Type} (π : State → α) (hDt : KeepsDt π) (hCqe : KeepsCqe π) (hDge : KeepsDge π) (hCpe : KeepsCpe π) (hGov : KeepsGov π) (hRcc : KeepsRcc π) (hEvr : KeepsEvr π) (block : Fin 14) (s : State) :
    ∃ s', execBlockRelease block s = .next s' ∧ π s' = π s := by
  unfold execBlockRelease
  with_reducible repeat' first
    | rfl
    | assumption
    | (intro)
    | refine ite_frame ?_ ?_
    | refine (State.advanceTo_frame π hDt _ _).trans ?_
    | refine (hRcc _ _).trans ?_
    | refine (State.reloadBlock_frame π hCqe hDge hCpe hGov hEvr _ _).trans ?_
    | refine ⟨_, rfl, ?_⟩
    | refine pair_frame (by with_reducible assumption) ?_
    | split
    | (dsimp only)

theorem execReleaseDeferred_frame {α : Type} (π : State → α) (hDt : KeepsDt π) (hRcc : KeepsRcc π) (hEvr : KeepsEvr π) (mask : BitVec 16) (domain : Fin 72) (s : State) :
    ∃ s', execReleaseDeferred mask domain s = .next s' ∧ π s' = π s := by
  unfold execReleaseDeferred
  with_reducible repeat' first
    | rfl
    | assumption
    | (intro)
    | refine ite_frame ?_ ?_
    | refine (hRcc _ _).trans ?_
    | refine (State.advanceTo_frame π hDt _ _).trans ?_
    | refine (State.event_frame π hEvr _ _ _ _ _ _ _).trans ?_
    | refine ⟨_, rfl, ?_⟩
    | refine pair_frame (by with_reducible assumption) ?_
    | split
    | (dsimp only)

theorem execQuadPllUnlock_frame {α : Type} (π : State → α) (hFresh : KeepsFresh π) (hOut : KeepsOut π) (hLink : KeepsLink π) (hPort : KeepsPort π) (hLane : KeepsLane π) (hCqe : KeepsCqe π) (hSess : KeepsSess π) (hDsc : KeepsDsc π) (hWc : KeepsWc π) (hFtu : KeepsFtu π) (hPxe : KeepsPxe π) (hPxeAll : KeepsPxeAll π) (hGov : KeepsGov π) (hCfg : KeepsCfg π) (hRcc : KeepsRcc π) (hEvr : KeepsEvr π) (hGlb : KeepsGlb π) (quad : Fin 36) (s : State) :
    ∃ s', execQuadPllUnlock quad s = .next s' ∧ π s' = π s := by
  unfold execQuadPllUnlock
  with_reducible repeat' first
    | rfl
    | assumption
    | (intro)
    | refine ite_frame ?_ ?_
    | refine (hLink _ _ ?_).trans ?_
    | refine (hRcc _ _).trans ?_
    | refine (State.lanesDown_frame π hFresh hOut hLink hPort hLane hCqe hSess hDsc hWc hFtu hPxe hPxeAll hGov hCfg hEvr hGlb _ _).trans ?_
    | refine ⟨_, rfl, ?_⟩
    | refine pair_frame (by with_reducible assumption) ?_
    | split
    | (dsimp only)

theorem execQuadPllLocked_frame {α : Type} (π : State → α) (hLink : KeepsLink π) (hRcc : KeepsRcc π) (hEvr : KeepsEvr π) (quad : Fin 36) (s : State) :
    ∃ s', execQuadPllLocked quad s = .next s' ∧ π s' = π s := by
  unfold execQuadPllLocked
  with_reducible repeat' first
    | rfl
    | assumption
    | (intro)
    | refine ite_frame ?_ ?_
    | refine (hLink _ _ ?_).trans ?_
    | refine (hRcc _ _).trans ?_
    | refine (State.event_frame π hEvr _ _ _ _ _ _ _).trans ?_
    | refine ⟨_, rfl, ?_⟩
    | refine pair_frame (by with_reducible assumption) ?_
    | split
    | (dsimp only)

end Sys2Proof.Machine
end

