-- ==== Sys2Proof/Laws/FrameRegisters.lean ====
section
/-! SUPPORT. What the definitions of Machine/Registers.lean leave alone: a view of the state that no block they write can change reads
the same after them. -/

set_option linter.unusedSimpArgs false

namespace Sys2Proof.Machine

open Sys2Proof

theorem State.clearUncorr_frame {α : Type} (π : State → α) (hLane : KeepsLane π) (s : State) (n : Nat) :
    π (State.clearUncorr s n) = π s := by
  unfold State.clearUncorr
  with_reducible
    repeat' first | (rfl) | (refine (hLane _ _ _).trans ?_)

theorem State.readClears_frame {α : Type} (π : State → α) (hLane : KeepsLane π) (hCqe : KeepsCqe π) (hDsc : KeepsDsc π) (hDge : KeepsDge π) (hDxu : KeepsDxu π) (hCpe : KeepsCpe π) (hFtu : KeepsFtu π) (hSnw : KeepsSnw π) (hMcu : KeepsMcu π) (hSlc : KeepsSlc π) (hNvi : KeepsNvi π) (hXts : KeepsXts π) (hDbg : KeepsDbg π) (hEvr : KeepsEvr π) (s : State) (off : Nat) :
    π (State.readClears s off) = π s := by
  unfold State.readClears
  with_reducible repeat' first
    | rfl
    | assumption
    | (intro)
    | refine ite_frame ?_ ?_
    | refine (hEvr _ _).trans ?_
    | refine (hSnw _ _).trans ?_
    | refine (hNvi _ _).trans ?_
    | refine (hCqe _ _).trans ?_
    | refine (hDge _ _).trans ?_
    | refine (hDxu _ _).trans ?_
    | refine (hCpe _ _).trans ?_
    | refine (hXts _ _).trans ?_
    | refine (hFtu _ _).trans ?_
    | refine (hSlc _ _).trans ?_
    | refine (hDbg _ _).trans ?_
    | refine (State.clearUncorr_frame π hLane _ _).trans ?_
    | refine (hDsc _ _).trans ?_
    | refine (hMcu _ _).trans ?_
    | refine pair_frame (by with_reducible assumption) ?_
    | split
    | (dsimp only)

theorem State.readReg_frame {α : Type} (π : State → α) (hLane : KeepsLane π) (hCqe : KeepsCqe π) (hDsc : KeepsDsc π) (hDge : KeepsDge π) (hDxu : KeepsDxu π) (hCpe : KeepsCpe π) (hFtu : KeepsFtu π) (hSnw : KeepsSnw π) (hMcu : KeepsMcu π) (hSlc : KeepsSlc π) (hNvi : KeepsNvi π) (hXts : KeepsXts π) (hDbg : KeepsDbg π) (hEvr : KeepsEvr π) (s : State) (page : Nat) (latch : List (Nat × Word)) (off : Nat) :
    π (State.readReg s page latch off).2.2 = π s := by
  unfold State.readReg
  with_reducible repeat' first
    | rfl
    | assumption
    | (intro)
    | refine ite_frame ?_ ?_
    | refine ite_frame2 ?_ ?_
    | refine (State.readClears_frame π hLane hCqe hDsc hDge hDxu hCpe hFtu hSnw hMcu hSlc hNvi hXts hDbg hEvr _ _).trans ?_
    | refine pair_frame (by with_reducible assumption) ?_
    | split
    | (dsimp only)

theorem State.readRegs_frame {α : Type} (π : State → α) (hLane : KeepsLane π) (hCqe : KeepsCqe π) (hDsc : KeepsDsc π) (hDge : KeepsDge π) (hDxu : KeepsDxu π) (hCpe : KeepsCpe π) (hFtu : KeepsFtu π) (hSnw : KeepsSnw π) (hMcu : KeepsMcu π) (hSlc : KeepsSlc π) (hNvi : KeepsNvi π) (hXts : KeepsXts π) (hDbg : KeepsDbg π) (hEvr : KeepsEvr π) (s : State) (page : Nat) (latch : List (Nat × Word)) (x0 : List Nat) :
    π (State.readRegs s page latch x0).2.2 = π s := by
  induction x0 generalizing s page latch with
  | nil => rfl
  | cons w ws ih =>
    unfold State.readRegs
    with_reducible repeat' first
      | rfl
      | assumption
      | (intro)
      | refine (ih _ _ _).trans ?_
      | refine ite_frame ?_ ?_
      | refine (State.readReg_frame π hLane hCqe hDsc hDge hDxu hCpe hFtu hSnw hMcu hSlc hNvi hXts hDbg hEvr _ _ _ _).trans ?_
      | refine (triple_frame (by with_reducible assumption) (State.readReg_frame π hLane hCqe hDsc hDge hDxu hCpe hFtu hSnw hMcu hSlc hNvi hXts hDbg hEvr _ _ _ _)).trans ?_
      | refine pair_frame (by with_reducible assumption) ?_
      | split
      | (dsimp only)

theorem State.writeReg_frame {α : Type} (π : State → α) (hFresh : KeepsFresh π) (hOut : KeepsOut π) (hLink : KeepsLink π) (hLinkAll : KeepsLinkAll π) (hPort : KeepsPort π) (hLane : KeepsLane π) (hCqe : KeepsCqe π) (hSess : KeepsSess π) (hDsc : KeepsDsc π) (hWc : KeepsWc π) (hDge : KeepsDge π) (hDxu : KeepsDxu π) (hCpe : KeepsCpe π) (hFtu : KeepsFtu π) (hPxe : KeepsPxe π) (hPxeAll : KeepsPxeAll π) (hSnap : KeepsSnap π) (hHa : KeepsHa π) (hGov : KeepsGov π) (hSlc : KeepsSlc π) (hNvi : KeepsNvi π) (hXts : KeepsXts π) (hCfg : KeepsCfg π) (hDbg : KeepsDbg π) (hRcc : KeepsRcc π) (hEvr : KeepsEvr π) (hGlb : KeepsGlb π) (s : State) (sess : Nat) (off : Nat) (v : Nat) :
    π (State.writeReg s sess off v) = π s := by
  unfold State.writeReg
  with_reducible repeat' first
    | rfl
    | assumption
    | (intro)
    | refine ite_frame ?_ ?_
    | refine (hGlb _ _).trans ?_
    | refine (hRcc _ _).trans ?_
    | refine (State.writeSwrst_frame π hRcc _ _).trans ?_
    | refine (State.writeBlkrst_frame π hFresh hOut hLink hLinkAll hPort hLane hCqe hSess hDsc hWc hDge hDxu hCpe hFtu hPxe hPxeAll hSnap hHa hGov hSlc hNvi hXts hCfg hDbg hRcc hEvr hGlb _ _ _).trans ?_
    | refine (hSess _ _ _).trans ?_
    | refine (State.writeStCtrl_frame π hCqe hDsc hEvr _ _).trans ?_
    | refine (State.writeGovCtrl_frame π hCqe hGov hEvr _ _).trans ?_
    | refine (hGov _ _).trans ?_
    | refine (State.writeInjCfg_frame π hGov hEvr _ _).trans ?_
    | refine (State.writeCapCtrl_frame π hGov _ _).trans ?_
    | refine (hHa _ _).trans ?_
    | refine (State.writeFailback_frame π hHa _ _).trans ?_
    | refine (hCqe _ _).trans ?_
    | refine (hDsc _ _).trans ?_
    | refine (hDge _ _).trans ?_
    | refine (State.writeForceRaw_frame π hCpe hEvr _ _ _).trans ?_
    | refine (State.refreshShares_frame π hCqe hDsc hEvr _).trans ?_
    | refine (hPxe _ _ ?_).trans ?_
    | refine (State.writeLose_frame π hFresh hOut hPort hCqe hDsc hWc hDxu hFtu hPxe hPxeAll hGov hEvr hGlb _ _ _).trans ?_
    | refine (hFtu _ _).trans ?_
    | refine (hWc _ _).trans ?_
    | refine (hSnap _ _).trans ?_
    | refine (State.writeSlcCtrl_frame π hSlc hEvr _ _ _).trans ?_
    | refine (hSlc _ _).trans ?_
    | refine (State.writeSpad_frame π hSlc hEvr _ _ _).trans ?_
    | refine (hDbg _ _).trans ?_
    | refine (hLane _ _ _).trans ?_
    | refine pair_frame (by with_reducible assumption) ?_
    | split
    | (dsimp only)

theorem State.writeRegs_frame {α : Type} (π : State → α) (hFresh : KeepsFresh π) (hOut : KeepsOut π) (hLink : KeepsLink π) (hLinkAll : KeepsLinkAll π) (hPort : KeepsPort π) (hLane : KeepsLane π) (hCqe : KeepsCqe π) (hSess : KeepsSess π) (hDsc : KeepsDsc π) (hWc : KeepsWc π) (hDge : KeepsDge π) (hDxu : KeepsDxu π) (hCpe : KeepsCpe π) (hFtu : KeepsFtu π) (hPxe : KeepsPxe π) (hPxeAll : KeepsPxeAll π) (hSnap : KeepsSnap π) (hHa : KeepsHa π) (hGov : KeepsGov π) (hSlc : KeepsSlc π) (hNvi : KeepsNvi π) (hXts : KeepsXts π) (hCfg : KeepsCfg π) (hDbg : KeepsDbg π) (hRcc : KeepsRcc π) (hEvr : KeepsEvr π) (hGlb : KeepsGlb π) (s : State) (sess : Nat) (x0 : List (Nat × Word)) :
    π (State.writeRegs s sess x0) = π s := by
  induction x0 generalizing s sess with
  | nil => rfl
  | cons w ws ih =>
    unfold State.writeRegs
    with_reducible repeat' first
      | rfl
      | assumption
      | (intro)
      | refine (ih _ _).trans ?_
      | refine ite_frame ?_ ?_
      | refine (State.writeReg_frame π hFresh hOut hLink hLinkAll hPort hLane hCqe hSess hDsc hWc hDge hDxu hCpe hFtu hPxe hPxeAll hSnap hHa hGov hSlc hNvi hXts hCfg hDbg hRcc hEvr hGlb _ _ _ _).trans ?_
      | refine pair_frame (by with_reducible assumption) ?_
      | split
      | (dsimp only)

theorem execCsrRead_frame {α : Type} (π : State → α) (hFresh : KeepsFresh π) (hOut : KeepsOut π) (hPort : KeepsPort π) (hLane : KeepsLane π) (hCqe : KeepsCqe π) (hSess : KeepsSess π) (hDsc : KeepsDsc π) (hDge : KeepsDge π) (hDxu : KeepsDxu π) (hCpe : KeepsCpe π) (hFtu : KeepsFtu π) (hSnw : KeepsSnw π) (hMcu : KeepsMcu π) (hSlc : KeepsSlc π) (hNvi : KeepsNvi π) (hXts : KeepsXts π) (hDbg : KeepsDbg π) (hEvr : KeepsEvr π) (m : Vc3) (offset : Word) (count : BitVec 16) (s : State) :
    ∃ s', execCsrRead m offset count s = .next s' ∧ π s' = π s := by
  unfold execCsrRead
  with_reducible repeat' first
    | rfl
    | assumption
    | (intro)
    | refine ite_frame ?_ ?_
    | refine ite_frame2 ?_ ?_
    | refine (State.vc3_frame π hFresh hOut hPort hCqe hSess hEvr _ _ _ _ _ _ _ ?_).trans ?_
    | refine (State.answer_frame π hOut hPort hSess _ _ _ _ _).trans ?_
    | refine (State.readRegs_frame π hLane hCqe hDsc hDge hDxu hCpe hFtu hSnw hMcu hSlc hNvi hXts hDbg hEvr _ _ _ _).trans ?_
    | refine (triple_frame (by with_reducible assumption) (State.readRegs_frame π hLane hCqe hDsc hDge hDxu hCpe hFtu hSnw hMcu hSlc hNvi hXts hDbg hEvr _ _ _ _)).trans ?_
    | refine (hSess _ _ _).trans ?_
    | refine ⟨_, rfl, ?_⟩
    | refine pair_frame (by with_reducible assumption) ?_
    | split
    | (dsimp only)

theorem execCsrWrite_frame {α : Type} (π : State → α) (hFresh : KeepsFresh π) (hOut : KeepsOut π) (hLink : KeepsLink π) (hLinkAll : KeepsLinkAll π) (hPort : KeepsPort π) (hLane : KeepsLane π) (hCqe : KeepsCqe π) (hSess : KeepsSess π) (hDsc : KeepsDsc π) (hWc : KeepsWc π) (hDge : KeepsDge π) (hDxu : KeepsDxu π) (hCpe : KeepsCpe π) (hFtu : KeepsFtu π) (hPxe : KeepsPxe π) (hPxeAll : KeepsPxeAll π) (hSnap : KeepsSnap π) (hHa : KeepsHa π) (hGov : KeepsGov π) (hSlc : KeepsSlc π) (hNvi : KeepsNvi π) (hXts : KeepsXts π) (hCfg : KeepsCfg π) (hDbg : KeepsDbg π) (hRcc : KeepsRcc π) (hEvr : KeepsEvr π) (hGlb : KeepsGlb π) (hCold : KeepsCold π) (hWarm : KeepsWarm π) (m : Vc3) (offset : Word) (values : List Word) (s : State) :
    ∃ s', execCsrWrite m offset values s = .next s' ∧ π s' = π s := by
  unfold execCsrWrite
  with_reducible repeat' first
    | rfl
    | assumption
    | (intro)
    | refine ite_frame ?_ ?_
    | refine (State.actSwrst_frame π hRcc hEvr hCold hWarm _).trans ?_
    | refine (State.vc3_frame π hFresh hOut hPort hCqe hSess hEvr _ _ _ _ _ _ _ ?_).trans ?_
    | refine (State.answer_frame π hOut hPort hSess _ _ _ _ _).trans ?_
    | refine (State.registerDenied_frame π hOut hPort hSess hEvr _ _ _ _).trans ?_
    | refine (State.writeRegs_frame π hFresh hOut hLink hLinkAll hPort hLane hCqe hSess hDsc hWc hDge hDxu hCpe hFtu hPxe hPxeAll hSnap hHa hGov hSlc hNvi hXts hCfg hDbg hRcc hEvr hGlb _ _ _).trans ?_
    | refine ⟨_, rfl, ?_⟩
    | refine pair_frame (by with_reducible assumption) ?_
    | split
    | (dsimp only)

end Sys2Proof.Machine
end

