-- ==== Sys2Proof/Laws/FrameBoard.lean ====
section
/-! SUPPORT. What the definitions of Machine/Board.lean leave alone: a view of the state that no block they write can change reads
the same after them. -/

set_option linter.unusedSimpArgs false

namespace Sys2Proof.Machine

open Sys2Proof

theorem execEvrRateWindow_frame {α : Type} (π : State → α) (hDt : KeepsDt π) (hCqe : KeepsCqe π) (hDge : KeepsDge π) (hDxu : KeepsDxu π) (hEvr : KeepsEvr π) (s : State) :
    ∃ s', execEvrRateWindow s = .next s' ∧ π s' = π s := by
  unfold execEvrRateWindow
  with_reducible
    repeat' first | (rfl) | (refine ⟨_, rfl, ?_⟩) | (refine (hEvr _ _).trans ?_) | (refine (State.dedupWindows_frame π hCqe hDge hDxu hEvr _).trans ?_) | (refine (State.advanceTo_frame π hDt _ _).trans ?_)

theorem State.avsStatusRead_frame {α : Type} (π : State → α) (hOut : KeepsOut π) (hGlb : KeepsGlb π) (s : State) (status : Nat) :
    π (State.avsStatusRead s status) = π s := by
  unfold State.avsStatusRead
  with_reducible repeat' first
    | rfl
    | assumption
    | (intro)
    | refine (hGlb _ _).trans ?_
    | refine (hOut _ _).trans ?_
    | refine (foldl_frame π _ ?_ _ _).trans ?_
    | refine (foldl_frame2 π _ ?_ _ _).trans ?_
    | refine pair_frame (by with_reducible assumption) ?_
    | split
    | (dsimp only)

theorem execAvsTick_frame {α : Type} (π : State → α) (hDt : KeepsDt π) (hFresh : KeepsFresh π) (hOut : KeepsOut π) (hGlb : KeepsGlb π) (targetMv : Nat) (status : BitVec 16) (s : State) :
    ∃ s', execAvsTick targetMv status s = .next s' ∧ π s' = π s := by
  unfold execAvsTick
  with_reducible repeat' first
    | rfl
    | assumption
    | (intro)
    | refine ite_frame ?_ ?_
    | refine ite_frame2 ?_ ?_
    | refine (State.advanceTo_frame π hDt _ _).trans ?_
    | refine (State.freshen_frame π hFresh _).trans ?_
    | refine (hOut _ _).trans ?_
    | refine (State.avsStatusRead_frame π hOut hGlb _ _).trans ?_
    | refine (hGlb _ _).trans ?_
    | refine (foldl_frame π _ ?_ _ _).trans ?_
    | refine (foldl_frame2 π _ ?_ _ _).trans ?_
    | refine ⟨_, rfl, ?_⟩
    | refine pair_frame (by with_reducible assumption) ?_
    | split
    | (dsimp only)

theorem execPmbusAlert_frame {α : Type} (π : State → α) (hOut : KeepsOut π) (hGlb : KeepsGlb π) (status : BitVec 16) (s : State) :
    ∃ s', execPmbusAlert status s = .next s' ∧ π s' = π s := by
  unfold execPmbusAlert
  with_reducible repeat' first
    | rfl
    | assumption
    | (intro)
    | refine ite_frame ?_ ?_
    | refine (State.avsStatusRead_frame π hOut hGlb _ _).trans ?_
    | refine ⟨_, rfl, ?_⟩
    | refine pair_frame (by with_reducible assumption) ?_
    | split
    | (dsimp only)

theorem execPmbusTimeout_frame {α : Type} (π : State → α) (hOut : KeepsOut π) (hGlb : KeepsGlb π) (addr : Fin 4) (s : State) :
    ∃ s', execPmbusTimeout addr s = .next s' ∧ π s' = π s := by
  unfold execPmbusTimeout
  with_reducible repeat' first
    | rfl
    | assumption
    | (intro)
    | refine ite_frame ?_ ?_
    | refine (hOut _ _).trans ?_
    | refine (hGlb _ _).trans ?_
    | refine ⟨_, rfl, ?_⟩
    | refine pair_frame (by with_reducible assumption) ?_
    | split
    | (dsimp only)

theorem execI3cSetOffset_frame {α : Type} (π : State → α) (hOut : KeepsOut π) (hGlb : KeepsGlb π) (offset : Word) (s : State) :
    ∃ s', execI3cSetOffset offset s = .next s' ∧ π s' = π s := by
  unfold execI3cSetOffset
  with_reducible repeat' first
    | rfl
    | assumption
    | (intro)
    | refine ite_frame ?_ ?_
    | refine (hOut _ _).trans ?_
    | refine (hGlb _ _).trans ?_
    | refine ⟨_, rfl, ?_⟩
    | refine pair_frame (by with_reducible assumption) ?_
    | split
    | (dsimp only)

theorem execI3cPrivateRead_frame {α : Type} (π : State → α) (hOut : KeepsOut π) (hLane : KeepsLane π) (hCqe : KeepsCqe π) (hDsc : KeepsDsc π) (hDge : KeepsDge π) (hDxu : KeepsDxu π) (hCpe : KeepsCpe π) (hFtu : KeepsFtu π) (hSnw : KeepsSnw π) (hMcu : KeepsMcu π) (hSlc : KeepsSlc π) (hNvi : KeepsNvi π) (hXts : KeepsXts π) (hDbg : KeepsDbg π) (hEvr : KeepsEvr π) (hGlb : KeepsGlb π) (s : State) :
    ∃ s', execI3cPrivateRead s = .next s' ∧ π s' = π s := by
  unfold execI3cPrivateRead
  with_reducible repeat' first
    | rfl
    | assumption
    | (intro)
    | refine ite_frame ?_ ?_
    | refine ite_frame2 ?_ ?_
    | refine (State.readRegs_frame π hLane hCqe hDsc hDge hDxu hCpe hFtu hSnw hMcu hSlc hNvi hXts hDbg hEvr _ _ _ _).trans ?_
    | refine (triple_frame (by with_reducible assumption) (State.readRegs_frame π hLane hCqe hDsc hDge hDxu hCpe hFtu hSnw hMcu hSlc hNvi hXts hDbg hEvr _ _ _ _)).trans ?_
    | refine (hOut _ _).trans ?_
    | refine (hGlb _ _).trans ?_
    | refine ⟨_, rfl, ?_⟩
    | refine pair_frame (by with_reducible assumption) ?_
    | split
    | (dsimp only)

theorem execI3cRegisterWrite_frame {α : Type} (π : State → α) (hFresh : KeepsFresh π) (hOut : KeepsOut π) (hLink : KeepsLink π) (hPort : KeepsPort π) (hDsc : KeepsDsc π) (hWc : KeepsWc π) (hSnw : KeepsSnw π) (hGov : KeepsGov π) (hMcu : KeepsMcu π) (hRot : KeepsRot π) (hCfg : KeepsCfg π) (hPmu : KeepsPmu π) (hRcc : KeepsRcc π) (hEvr : KeepsEvr π) (hGlb : KeepsGlb π) (hCold : KeepsCold π) (offset : Word) (value : Word) (s : State) :
    ∃ s', execI3cRegisterWrite offset value s = .next s' ∧ π s' = π s := by
  unfold execI3cRegisterWrite
  with_reducible repeat' first
    | rfl
    | assumption
    | (intro)
    | refine ite_frame ?_ ?_
    | refine (hOut _ _).trans ?_
    | refine (State.wake_frame π hFresh hOut hLink hPort hDsc hWc hSnw hGov hMcu hRot hCfg hPmu hRcc hEvr hGlb hCold _ _).trans ?_
    | refine ⟨_, rfl, ?_⟩
    | refine pair_frame (by with_reducible assumption) ?_
    | split
    | (dsimp only)

theorem execI3cDynamicAddress_frame {α : Type} (π : State → α) (hOut : KeepsOut π) (hGlb : KeepsGlb π) (addr : BitVec 7) (s : State) :
    ∃ s', execI3cDynamicAddress addr s = .next s' ∧ π s' = π s := by
  unfold execI3cDynamicAddress
  with_reducible repeat' first
    | rfl
    | assumption
    | (intro)
    | refine ite_frame ?_ ?_
    | refine (hOut _ _).trans ?_
    | refine (hGlb _ _).trans ?_
    | refine ⟨_, rfl, ?_⟩
    | refine pair_frame (by with_reducible assumption) ?_
    | split
    | (dsimp only)

end Sys2Proof.Machine
end

