-- ==== Sys2Proof/Laws/State.lean ====
section
/-! SUPPORT. Every field of the state after every setter: one lemma each, true by definition, so that no proof unfolds a record update. -/

namespace Sys2Proof.Machine

open Sys2Proof

@[simp] theorem State.modLink_pending (s : State) (f : Link → Link) : (s.modLink f).pending = s.pending := rfl
@[simp] theorem State.modLink_dt (s : State) (f : Link → Link) : (s.modLink f).dt = s.dt := rfl
@[simp] theorem State.modLink_out (s : State) (f : Link → Link) : (s.modLink f).out = s.out := rfl
@[simp] theorem State.modLink_fresh (s : State) (f : Link → Link) : (s.modLink f).fresh = s.fresh := rfl
@[simp] theorem State.modLink_link (s : State) (f : Link → Link) : (s.modLink f).link = f s.link := rfl
@[simp] theorem State.modLink_cqe (s : State) (f : Link → Link) : (s.modLink f).cqe = s.cqe := rfl
@[simp] theorem State.modLink_dsc (s : State) (f : Link → Link) : (s.modLink f).dsc = s.dsc := rfl
@[simp] theorem State.modLink_wc (s : State) (f : Link → Link) : (s.modLink f).wc = s.wc := rfl
@[simp] theorem State.modLink_dge (s : State) (f : Link → Link) : (s.modLink f).dge = s.dge := rfl
@[simp] theorem State.modLink_dxu (s : State) (f : Link → Link) : (s.modLink f).dxu = s.dxu := rfl
@[simp] theorem State.modLink_cpe (s : State) (f : Link → Link) : (s.modLink f).cpe = s.cpe := rfl
@[simp] theorem State.modLink_ftu (s : State) (f : Link → Link) : (s.modLink f).ftu = s.ftu := rfl
@[simp] theorem State.modLink_pxe (s : State) (f : Link → Link) : (s.modLink f).pxe = s.pxe := rfl
@[simp] theorem State.modLink_snap (s : State) (f : Link → Link) : (s.modLink f).snap = s.snap := rfl
@[simp] theorem State.modLink_ha (s : State) (f : Link → Link) : (s.modLink f).ha = s.ha := rfl
@[simp] theorem State.modLink_snw (s : State) (f : Link → Link) : (s.modLink f).snw = s.snw := rfl
@[simp] theorem State.modLink_gov (s : State) (f : Link → Link) : (s.modLink f).gov = s.gov := rfl
@[simp] theorem State.modLink_mcu (s : State) (f : Link → Link) : (s.modLink f).mcu = s.mcu := rfl
@[simp] theorem State.modLink_slc (s : State) (f : Link → Link) : (s.modLink f).slc = s.slc := rfl
@[simp] theorem State.modLink_rot (s : State) (f : Link → Link) : (s.modLink f).rot = s.rot := rfl
@[simp] theorem State.modLink_nvi (s : State) (f : Link → Link) : (s.modLink f).nvi = s.nvi := rfl
@[simp] theorem State.modLink_xts (s : State) (f : Link → Link) : (s.modLink f).xts = s.xts := rfl
@[simp] theorem State.modLink_cfg (s : State) (f : Link → Link) : (s.modLink f).cfg = s.cfg := rfl
@[simp] theorem State.modLink_pmu (s : State) (f : Link → Link) : (s.modLink f).pmu = s.pmu := rfl
@[simp] theorem State.modLink_dbg (s : State) (f : Link → Link) : (s.modLink f).dbg = s.dbg := rfl
@[simp] theorem State.modLink_rcc (s : State) (f : Link → Link) : (s.modLink f).rcc = s.rcc := rfl
@[simp] theorem State.modLink_evr (s : State) (f : Link → Link) : (s.modLink f).evr = s.evr := rfl
@[simp] theorem State.modLink_glb (s : State) (f : Link → Link) : (s.modLink f).glb = s.glb := rfl

@[simp] theorem State.modCqe_pending (s : State) (f : Cqe → Cqe) : (s.modCqe f).pending = s.pending := rfl
@[simp] theorem State.modCqe_dt (s : State) (f : Cqe → Cqe) : (s.modCqe f).dt = s.dt := rfl
@[simp] theorem State.modCqe_out (s : State) (f : Cqe → Cqe) : (s.modCqe f).out = s.out := rfl
@[simp] theorem State.modCqe_fresh (s : State) (f : Cqe → Cqe) : (s.modCqe f).fresh = s.fresh := rfl
@[simp] theorem State.modCqe_link (s : State) (f : Cqe → Cqe) : (s.modCqe f).link = s.link := rfl
@[simp] theorem State.modCqe_cqe (s : State) (f : Cqe → Cqe) : (s.modCqe f).cqe = f s.cqe := rfl
@[simp] theorem State.modCqe_dsc (s : State) (f : Cqe → Cqe) : (s.modCqe f).dsc = s.dsc := rfl
@[simp] theorem State.modCqe_wc (s : State) (f : Cqe → Cqe) : (s.modCqe f).wc = s.wc := rfl
@[simp] theorem State.modCqe_dge (s : State) (f : Cqe → Cqe) : (s.modCqe f).dge = s.dge := rfl
@[simp] theorem State.modCqe_dxu (s : State) (f : Cqe → Cqe) : (s.modCqe f).dxu = s.dxu := rfl
@[simp] theorem State.modCqe_cpe (s : State) (f : Cqe → Cqe) : (s.modCqe f).cpe = s.cpe := rfl
@[simp] theorem State.modCqe_ftu (s : State) (f : Cqe → Cqe) : (s.modCqe f).ftu = s.ftu := rfl
@[simp] theorem State.modCqe_pxe (s : State) (f : Cqe → Cqe) : (s.modCqe f).pxe = s.pxe := rfl
@[simp] theorem State.modCqe_snap (s : State) (f : Cqe → Cqe) : (s.modCqe f).snap = s.snap := rfl
@[simp] theorem State.modCqe_ha (s : State) (f : Cqe → Cqe) : (s.modCqe f).ha = s.ha := rfl
@[simp] theorem State.modCqe_snw (s : State) (f : Cqe → Cqe) : (s.modCqe f).snw = s.snw := rfl
@[simp] theorem State.modCqe_gov (s : State) (f : Cqe → Cqe) : (s.modCqe f).gov = s.gov := rfl
@[simp] theorem State.modCqe_mcu (s : State) (f : Cqe → Cqe) : (s.modCqe f).mcu = s.mcu := rfl
@[simp] theorem State.modCqe_slc (s : State) (f : Cqe → Cqe) : (s.modCqe f).slc = s.slc := rfl
@[simp] theorem State.modCqe_rot (s : State) (f : Cqe → Cqe) : (s.modCqe f).rot = s.rot := rfl
@[simp] theorem State.modCqe_nvi (s : State) (f : Cqe → Cqe) : (s.modCqe f).nvi = s.nvi := rfl
@[simp] theorem State.modCqe_xts (s : State) (f : Cqe → Cqe) : (s.modCqe f).xts = s.xts := rfl
@[simp] theorem State.modCqe_cfg (s : State) (f : Cqe → Cqe) : (s.modCqe f).cfg = s.cfg := rfl
@[simp] theorem State.modCqe_pmu (s : State) (f : Cqe → Cqe) : (s.modCqe f).pmu = s.pmu := rfl
@[simp] theorem State.modCqe_dbg (s : State) (f : Cqe → Cqe) : (s.modCqe f).dbg = s.dbg := rfl
@[simp] theorem State.modCqe_rcc (s : State) (f : Cqe → Cqe) : (s.modCqe f).rcc = s.rcc := rfl
@[simp] theorem State.modCqe_evr (s : State) (f : Cqe → Cqe) : (s.modCqe f).evr = s.evr := rfl
@[simp] theorem State.modCqe_glb (s : State) (f : Cqe → Cqe) : (s.modCqe f).glb = s.glb := rfl

@[simp] theorem State.modDsc_pending (s : State) (f : Dsc → Dsc) : (s.modDsc f).pending = s.pending := rfl
@[simp] theorem State.modDsc_dt (s : State) (f : Dsc → Dsc) : (s.modDsc f).dt = s.dt := rfl
@[simp] theorem State.modDsc_out (s : State) (f : Dsc → Dsc) : (s.modDsc f).out = s.out := rfl
@[simp] theorem State.modDsc_fresh (s : State) (f : Dsc → Dsc) : (s.modDsc f).fresh = s.fresh := rfl
@[simp] theorem State.modDsc_link (s : State) (f : Dsc → Dsc) : (s.modDsc f).link = s.link := rfl
@[simp] theorem State.modDsc_cqe (s : State) (f : Dsc → Dsc) : (s.modDsc f).cqe = s.cqe := rfl
@[simp] theorem State.modDsc_dsc (s : State) (f : Dsc → Dsc) : (s.modDsc f).dsc = f s.dsc := rfl
@[simp] theorem State.modDsc_wc (s : State) (f : Dsc → Dsc) : (s.modDsc f).wc = s.wc := rfl
@[simp] theorem State.modDsc_dge (s : State) (f : Dsc → Dsc) : (s.modDsc f).dge = s.dge := rfl
@[simp] theorem State.modDsc_dxu (s : State) (f : Dsc → Dsc) : (s.modDsc f).dxu = s.dxu := rfl
@[simp] theorem State.modDsc_cpe (s : State) (f : Dsc → Dsc) : (s.modDsc f).cpe = s.cpe := rfl
@[simp] theorem State.modDsc_ftu (s : State) (f : Dsc → Dsc) : (s.modDsc f).ftu = s.ftu := rfl
@[simp] theorem State.modDsc_pxe (s : State) (f : Dsc → Dsc) : (s.modDsc f).pxe = s.pxe := rfl
@[simp] theorem State.modDsc_snap (s : State) (f : Dsc → Dsc) : (s.modDsc f).snap = s.snap := rfl
@[simp] theorem State.modDsc_ha (s : State) (f : Dsc → Dsc) : (s.modDsc f).ha = s.ha := rfl
@[simp] theorem State.modDsc_snw (s : State) (f : Dsc → Dsc) : (s.modDsc f).snw = s.snw := rfl
@[simp] theorem State.modDsc_gov (s : State) (f : Dsc → Dsc) : (s.modDsc f).gov = s.gov := rfl
@[simp] theorem State.modDsc_mcu (s : State) (f : Dsc → Dsc) : (s.modDsc f).mcu = s.mcu := rfl
@[simp] theorem State.modDsc_slc (s : State) (f : Dsc → Dsc) : (s.modDsc f).slc = s.slc := rfl
@[simp] theorem State.modDsc_rot (s : State) (f : Dsc → Dsc) : (s.modDsc f).rot = s.rot := rfl
@[simp] theorem State.modDsc_nvi (s : State) (f : Dsc → Dsc) : (s.modDsc f).nvi = s.nvi := rfl
@[simp] theorem State.modDsc_xts (s : State) (f : Dsc → Dsc) : (s.modDsc f).xts = s.xts := rfl
@[simp] theorem State.modDsc_cfg (s : State) (f : Dsc → Dsc) : (s.modDsc f).cfg = s.cfg := rfl
@[simp] theorem State.modDsc_pmu (s : State) (f : Dsc → Dsc) : (s.modDsc f).pmu = s.pmu := rfl
@[simp] theorem State.modDsc_dbg (s : State) (f : Dsc → Dsc) : (s.modDsc f).dbg = s.dbg := rfl
@[simp] theorem State.modDsc_rcc (s : State) (f : Dsc → Dsc) : (s.modDsc f).rcc = s.rcc := rfl
@[simp] theorem State.modDsc_evr (s : State) (f : Dsc → Dsc) : (s.modDsc f).evr = s.evr := rfl
@[simp] theorem State.modDsc_glb (s : State) (f : Dsc → Dsc) : (s.modDsc f).glb = s.glb := rfl

@[simp] theorem State.modWc_pending (s : State) (f : Wc → Wc) : (s.modWc f).pending = s.pending := rfl
@[simp] theorem State.modWc_dt (s : State) (f : Wc → Wc) : (s.modWc f).dt = s.dt := rfl
@[simp] theorem State.modWc_out (s : State) (f : Wc → Wc) : (s.modWc f).out = s.out := rfl
@[simp] theorem State.modWc_fresh (s : State) (f : Wc → Wc) : (s.modWc f).fresh = s.fresh := rfl
@[simp] theorem State.modWc_link (s : State) (f : Wc → Wc) : (s.modWc f).link = s.link := rfl
@[simp] theorem State.modWc_cqe (s : State) (f : Wc → Wc) : (s.modWc f).cqe = s.cqe := rfl
@[simp] theorem State.modWc_dsc (s : State) (f : Wc → Wc) : (s.modWc f).dsc = s.dsc := rfl
@[simp] theorem State.modWc_wc (s : State) (f : Wc → Wc) : (s.modWc f).wc = f s.wc := rfl
@[simp] theorem State.modWc_dge (s : State) (f : Wc → Wc) : (s.modWc f).dge = s.dge := rfl
@[simp] theorem State.modWc_dxu (s : State) (f : Wc → Wc) : (s.modWc f).dxu = s.dxu := rfl
@[simp] theorem State.modWc_cpe (s : State) (f : Wc → Wc) : (s.modWc f).cpe = s.cpe := rfl
@[simp] theorem State.modWc_ftu (s : State) (f : Wc → Wc) : (s.modWc f).ftu = s.ftu := rfl
@[simp] theorem State.modWc_pxe (s : State) (f : Wc → Wc) : (s.modWc f).pxe = s.pxe := rfl
@[simp] theorem State.modWc_snap (s : State) (f : Wc → Wc) : (s.modWc f).snap = s.snap := rfl
@[simp] theorem State.modWc_ha (s : State) (f : Wc → Wc) : (s.modWc f).ha = s.ha := rfl
@[simp] theorem State.modWc_snw (s : State) (f : Wc → Wc) : (s.modWc f).snw = s.snw := rfl
@[simp] theorem State.modWc_gov (s : State) (f : Wc → Wc) : (s.modWc f).gov = s.gov := rfl
@[simp] theorem State.modWc_mcu (s : State) (f : Wc → Wc) : (s.modWc f).mcu = s.mcu := rfl
@[simp] theorem State.modWc_slc (s : State) (f : Wc → Wc) : (s.modWc f).slc = s.slc := rfl
@[simp] theorem State.modWc_rot (s : State) (f : Wc → Wc) : (s.modWc f).rot = s.rot := rfl
@[simp] theorem State.modWc_nvi (s : State) (f : Wc → Wc) : (s.modWc f).nvi = s.nvi := rfl
@[simp] theorem State.modWc_xts (s : State) (f : Wc → Wc) : (s.modWc f).xts = s.xts := rfl
@[simp] theorem State.modWc_cfg (s : State) (f : Wc → Wc) : (s.modWc f).cfg = s.cfg := rfl
@[simp] theorem State.modWc_pmu (s : State) (f : Wc → Wc) : (s.modWc f).pmu = s.pmu := rfl
@[simp] theorem State.modWc_dbg (s : State) (f : Wc → Wc) : (s.modWc f).dbg = s.dbg := rfl
@[simp] theorem State.modWc_rcc (s : State) (f : Wc → Wc) : (s.modWc f).rcc = s.rcc := rfl
@[simp] theorem State.modWc_evr (s : State) (f : Wc → Wc) : (s.modWc f).evr = s.evr := rfl
@[simp] theorem State.modWc_glb (s : State) (f : Wc → Wc) : (s.modWc f).glb = s.glb := rfl

@[simp] theorem State.modDge_pending (s : State) (f : Dge → Dge) : (s.modDge f).pending = s.pending := rfl
@[simp] theorem State.modDge_dt (s : State) (f : Dge → Dge) : (s.modDge f).dt = s.dt := rfl
@[simp] theorem State.modDge_out (s : State) (f : Dge → Dge) : (s.modDge f).out = s.out := rfl
@[simp] theorem State.modDge_fresh (s : State) (f : Dge → Dge) : (s.modDge f).fresh = s.fresh := rfl
@[simp] theorem State.modDge_link (s : State) (f : Dge → Dge) : (s.modDge f).link = s.link := rfl
@[simp] theorem State.modDge_cqe (s : State) (f : Dge → Dge) : (s.modDge f).cqe = s.cqe := rfl
@[simp] theorem State.modDge_dsc (s : State) (f : Dge → Dge) : (s.modDge f).dsc = s.dsc := rfl
@[simp] theorem State.modDge_wc (s : State) (f : Dge → Dge) : (s.modDge f).wc = s.wc := rfl
@[simp] theorem State.modDge_dge (s : State) (f : Dge → Dge) : (s.modDge f).dge = f s.dge := rfl
@[simp] theorem State.modDge_dxu (s : State) (f : Dge → Dge) : (s.modDge f).dxu = s.dxu := rfl
@[simp] theorem State.modDge_cpe (s : State) (f : Dge → Dge) : (s.modDge f).cpe = s.cpe := rfl
@[simp] theorem State.modDge_ftu (s : State) (f : Dge → Dge) : (s.modDge f).ftu = s.ftu := rfl
@[simp] theorem State.modDge_pxe (s : State) (f : Dge → Dge) : (s.modDge f).pxe = s.pxe := rfl
@[simp] theorem State.modDge_snap (s : State) (f : Dge → Dge) : (s.modDge f).snap = s.snap := rfl
@[simp] theorem State.modDge_ha (s : State) (f : Dge → Dge) : (s.modDge f).ha = s.ha := rfl
@[simp] theorem State.modDge_snw (s : State) (f : Dge → Dge) : (s.modDge f).snw = s.snw := rfl
@[simp] theorem State.modDge_gov (s : State) (f : Dge → Dge) : (s.modDge f).gov = s.gov := rfl
@[simp] theorem State.modDge_mcu (s : State) (f : Dge → Dge) : (s.modDge f).mcu = s.mcu := rfl
@[simp] theorem State.modDge_slc (s : State) (f : Dge → Dge) : (s.modDge f).slc = s.slc := rfl
@[simp] theorem State.modDge_rot (s : State) (f : Dge → Dge) : (s.modDge f).rot = s.rot := rfl
@[simp] theorem State.modDge_nvi (s : State) (f : Dge → Dge) : (s.modDge f).nvi = s.nvi := rfl
@[simp] theorem State.modDge_xts (s : State) (f : Dge → Dge) : (s.modDge f).xts = s.xts := rfl
@[simp] theorem State.modDge_cfg (s : State) (f : Dge → Dge) : (s.modDge f).cfg = s.cfg := rfl
@[simp] theorem State.modDge_pmu (s : State) (f : Dge → Dge) : (s.modDge f).pmu = s.pmu := rfl
@[simp] theorem State.modDge_dbg (s : State) (f : Dge → Dge) : (s.modDge f).dbg = s.dbg := rfl
@[simp] theorem State.modDge_rcc (s : State) (f : Dge → Dge) : (s.modDge f).rcc = s.rcc := rfl
@[simp] theorem State.modDge_evr (s : State) (f : Dge → Dge) : (s.modDge f).evr = s.evr := rfl
@[simp] theorem State.modDge_glb (s : State) (f : Dge → Dge) : (s.modDge f).glb = s.glb := rfl

@[simp] theorem State.modDxu_pending (s : State) (f : Dxu → Dxu) : (s.modDxu f).pending = s.pending := rfl
@[simp] theorem State.modDxu_dt (s : State) (f : Dxu → Dxu) : (s.modDxu f).dt = s.dt := rfl
@[simp] theorem State.modDxu_out (s : State) (f : Dxu → Dxu) : (s.modDxu f).out = s.out := rfl
@[simp] theorem State.modDxu_fresh (s : State) (f : Dxu → Dxu) : (s.modDxu f).fresh = s.fresh := rfl
@[simp] theorem State.modDxu_link (s : State) (f : Dxu → Dxu) : (s.modDxu f).link = s.link := rfl
@[simp] theorem State.modDxu_cqe (s : State) (f : Dxu → Dxu) : (s.modDxu f).cqe = s.cqe := rfl
@[simp] theorem State.modDxu_dsc (s : State) (f : Dxu → Dxu) : (s.modDxu f).dsc = s.dsc := rfl
@[simp] theorem State.modDxu_wc (s : State) (f : Dxu → Dxu) : (s.modDxu f).wc = s.wc := rfl
@[simp] theorem State.modDxu_dge (s : State) (f : Dxu → Dxu) : (s.modDxu f).dge = s.dge := rfl
@[simp] theorem State.modDxu_dxu (s : State) (f : Dxu → Dxu) : (s.modDxu f).dxu = f s.dxu := rfl
@[simp] theorem State.modDxu_cpe (s : State) (f : Dxu → Dxu) : (s.modDxu f).cpe = s.cpe := rfl
@[simp] theorem State.modDxu_ftu (s : State) (f : Dxu → Dxu) : (s.modDxu f).ftu = s.ftu := rfl
@[simp] theorem State.modDxu_pxe (s : State) (f : Dxu → Dxu) : (s.modDxu f).pxe = s.pxe := rfl
@[simp] theorem State.modDxu_snap (s : State) (f : Dxu → Dxu) : (s.modDxu f).snap = s.snap := rfl
@[simp] theorem State.modDxu_ha (s : State) (f : Dxu → Dxu) : (s.modDxu f).ha = s.ha := rfl
@[simp] theorem State.modDxu_snw (s : State) (f : Dxu → Dxu) : (s.modDxu f).snw = s.snw := rfl
@[simp] theorem State.modDxu_gov (s : State) (f : Dxu → Dxu) : (s.modDxu f).gov = s.gov := rfl
@[simp] theorem State.modDxu_mcu (s : State) (f : Dxu → Dxu) : (s.modDxu f).mcu = s.mcu := rfl
@[simp] theorem State.modDxu_slc (s : State) (f : Dxu → Dxu) : (s.modDxu f).slc = s.slc := rfl
@[simp] theorem State.modDxu_rot (s : State) (f : Dxu → Dxu) : (s.modDxu f).rot = s.rot := rfl
@[simp] theorem State.modDxu_nvi (s : State) (f : Dxu → Dxu) : (s.modDxu f).nvi = s.nvi := rfl
@[simp] theorem State.modDxu_xts (s : State) (f : Dxu → Dxu) : (s.modDxu f).xts = s.xts := rfl
@[simp] theorem State.modDxu_cfg (s : State) (f : Dxu → Dxu) : (s.modDxu f).cfg = s.cfg := rfl
@[simp] theorem State.modDxu_pmu (s : State) (f : Dxu → Dxu) : (s.modDxu f).pmu = s.pmu := rfl
@[simp] theorem State.modDxu_dbg (s : State) (f : Dxu → Dxu) : (s.modDxu f).dbg = s.dbg := rfl
@[simp] theorem State.modDxu_rcc (s : State) (f : Dxu → Dxu) : (s.modDxu f).rcc = s.rcc := rfl
@[simp] theorem State.modDxu_evr (s : State) (f : Dxu → Dxu) : (s.modDxu f).evr = s.evr := rfl
@[simp] theorem State.modDxu_glb (s : State) (f : Dxu → Dxu) : (s.modDxu f).glb = s.glb := rfl

@[simp] theorem State.modCpe_pending (s : State) (f : Cpe → Cpe) : (s.modCpe f).pending = s.pending := rfl
@[simp] theorem State.modCpe_dt (s : State) (f : Cpe → Cpe) : (s.modCpe f).dt = s.dt := rfl
@[simp] theorem State.modCpe_out (s : State) (f : Cpe → Cpe) : (s.modCpe f).out = s.out := rfl
@[simp] theorem State.modCpe_fresh (s : State) (f : Cpe → Cpe) : (s.modCpe f).fresh = s.fresh := rfl
@[simp] theorem State.modCpe_link (s : State) (f : Cpe → Cpe) : (s.modCpe f).link = s.link := rfl
@[simp] theorem State.modCpe_cqe (s : State) (f : Cpe → Cpe) : (s.modCpe f).cqe = s.cqe := rfl
@[simp] theorem State.modCpe_dsc (s : State) (f : Cpe → Cpe) : (s.modCpe f).dsc = s.dsc := rfl
@[simp] theorem State.modCpe_wc (s : State) (f : Cpe → Cpe) : (s.modCpe f).wc = s.wc := rfl
@[simp] theorem State.modCpe_dge (s : State) (f : Cpe → Cpe) : (s.modCpe f).dge = s.dge := rfl
@[simp] theorem State.modCpe_dxu (s : State) (f : Cpe → Cpe) : (s.modCpe f).dxu = s.dxu := rfl
@[simp] theorem State.modCpe_cpe (s : State) (f : Cpe → Cpe) : (s.modCpe f).cpe = f s.cpe := rfl
@[simp] theorem State.modCpe_ftu (s : State) (f : Cpe → Cpe) : (s.modCpe f).ftu = s.ftu := rfl
@[simp] theorem State.modCpe_pxe (s : State) (f : Cpe → Cpe) : (s.modCpe f).pxe = s.pxe := rfl
@[simp] theorem State.modCpe_snap (s : State) (f : Cpe → Cpe) : (s.modCpe f).snap = s.snap := rfl
@[simp] theorem State.modCpe_ha (s : State) (f : Cpe → Cpe) : (s.modCpe f).ha = s.ha := rfl
@[simp] theorem State.modCpe_snw (s : State) (f : Cpe → Cpe) : (s.modCpe f).snw = s.snw := rfl
@[simp] theorem State.modCpe_gov (s : State) (f : Cpe → Cpe) : (s.modCpe f).gov = s.gov := rfl
@[simp] theorem State.modCpe_mcu (s : State) (f : Cpe → Cpe) : (s.modCpe f).mcu = s.mcu := rfl
@[simp] theorem State.modCpe_slc (s : State) (f : Cpe → Cpe) : (s.modCpe f).slc = s.slc := rfl
@[simp] theorem State.modCpe_rot (s : State) (f : Cpe → Cpe) : (s.modCpe f).rot = s.rot := rfl
@[simp] theorem State.modCpe_nvi (s : State) (f : Cpe → Cpe) : (s.modCpe f).nvi = s.nvi := rfl
@[simp] theorem State.modCpe_xts (s : State) (f : Cpe → Cpe) : (s.modCpe f).xts = s.xts := rfl
@[simp] theorem State.modCpe_cfg (s : State) (f : Cpe → Cpe) : (s.modCpe f).cfg = s.cfg := rfl
@[simp] theorem State.modCpe_pmu (s : State) (f : Cpe → Cpe) : (s.modCpe f).pmu = s.pmu := rfl
@[simp] theorem State.modCpe_dbg (s : State) (f : Cpe → Cpe) : (s.modCpe f).dbg = s.dbg := rfl
@[simp] theorem State.modCpe_rcc (s : State) (f : Cpe → Cpe) : (s.modCpe f).rcc = s.rcc := rfl
@[simp] theorem State.modCpe_evr (s : State) (f : Cpe → Cpe) : (s.modCpe f).evr = s.evr := rfl
@[simp] theorem State.modCpe_glb (s : State) (f : Cpe → Cpe) : (s.modCpe f).glb = s.glb := rfl

@[simp] theorem State.modFtu_pending (s : State) (f : Ftu → Ftu) : (s.modFtu f).pending = s.pending := rfl
@[simp] theorem State.modFtu_dt (s : State) (f : Ftu → Ftu) : (s.modFtu f).dt = s.dt := rfl
@[simp] theorem State.modFtu_out (s : State) (f : Ftu → Ftu) : (s.modFtu f).out = s.out := rfl
@[simp] theorem State.modFtu_fresh (s : State) (f : Ftu → Ftu) : (s.modFtu f).fresh = s.fresh := rfl
@[simp] theorem State.modFtu_link (s : State) (f : Ftu → Ftu) : (s.modFtu f).link = s.link := rfl
@[simp] theorem State.modFtu_cqe (s : State) (f : Ftu → Ftu) : (s.modFtu f).cqe = s.cqe := rfl
@[simp] theorem State.modFtu_dsc (s : State) (f : Ftu → Ftu) : (s.modFtu f).dsc = s.dsc := rfl
@[simp] theorem State.modFtu_wc (s : State) (f : Ftu → Ftu) : (s.modFtu f).wc = s.wc := rfl
@[simp] theorem State.modFtu_dge (s : State) (f : Ftu → Ftu) : (s.modFtu f).dge = s.dge := rfl
@[simp] theorem State.modFtu_dxu (s : State) (f : Ftu → Ftu) : (s.modFtu f).dxu = s.dxu := rfl
@[simp] theorem State.modFtu_cpe (s : State) (f : Ftu → Ftu) : (s.modFtu f).cpe = s.cpe := rfl
@[simp] theorem State.modFtu_ftu (s : State) (f : Ftu → Ftu) : (s.modFtu f).ftu = f s.ftu := rfl
@[simp] theorem State.modFtu_pxe (s : State) (f : Ftu → Ftu) : (s.modFtu f).pxe = s.pxe := rfl
@[simp] theorem State.modFtu_snap (s : State) (f : Ftu → Ftu) : (s.modFtu f).snap = s.snap := rfl
@[simp] theorem State.modFtu_ha (s : State) (f : Ftu → Ftu) : (s.modFtu f).ha = s.ha := rfl
@[simp] theorem State.modFtu_snw (s : State) (f : Ftu → Ftu) : (s.modFtu f).snw = s.snw := rfl
@[simp] theorem State.modFtu_gov (s : State) (f : Ftu → Ftu) : (s.modFtu f).gov = s.gov := rfl
@[simp] theorem State.modFtu_mcu (s : State) (f : Ftu → Ftu) : (s.modFtu f).mcu = s.mcu := rfl
@[simp] theorem State.modFtu_slc (s : State) (f : Ftu → Ftu) : (s.modFtu f).slc = s.slc := rfl
@[simp] theorem State.modFtu_rot (s : State) (f : Ftu → Ftu) : (s.modFtu f).rot = s.rot := rfl
@[simp] theorem State.modFtu_nvi (s : State) (f : Ftu → Ftu) : (s.modFtu f).nvi = s.nvi := rfl
@[simp] theorem State.modFtu_xts (s : State) (f : Ftu → Ftu) : (s.modFtu f).xts = s.xts := rfl
@[simp] theorem State.modFtu_cfg (s : State) (f : Ftu → Ftu) : (s.modFtu f).cfg = s.cfg := rfl
@[simp] theorem State.modFtu_pmu (s : State) (f : Ftu → Ftu) : (s.modFtu f).pmu = s.pmu := rfl
@[simp] theorem State.modFtu_dbg (s : State) (f : Ftu → Ftu) : (s.modFtu f).dbg = s.dbg := rfl
@[simp] theorem State.modFtu_rcc (s : State) (f : Ftu → Ftu) : (s.modFtu f).rcc = s.rcc := rfl
@[simp] theorem State.modFtu_evr (s : State) (f : Ftu → Ftu) : (s.modFtu f).evr = s.evr := rfl
@[simp] theorem State.modFtu_glb (s : State) (f : Ftu → Ftu) : (s.modFtu f).glb = s.glb := rfl

@[simp] theorem State.modPxe_pending (s : State) (f : Pxe → Pxe) : (s.modPxe f).pending = s.pending := rfl
@[simp] theorem State.modPxe_dt (s : State) (f : Pxe → Pxe) : (s.modPxe f).dt = s.dt := rfl
@[simp] theorem State.modPxe_out (s : State) (f : Pxe → Pxe) : (s.modPxe f).out = s.out := rfl
@[simp] theorem State.modPxe_fresh (s : State) (f : Pxe → Pxe) : (s.modPxe f).fresh = s.fresh := rfl
@[simp] theorem State.modPxe_link (s : State) (f : Pxe → Pxe) : (s.modPxe f).link = s.link := rfl
@[simp] theorem State.modPxe_cqe (s : State) (f : Pxe → Pxe) : (s.modPxe f).cqe = s.cqe := rfl
@[simp] theorem State.modPxe_dsc (s : State) (f : Pxe → Pxe) : (s.modPxe f).dsc = s.dsc := rfl
@[simp] theorem State.modPxe_wc (s : State) (f : Pxe → Pxe) : (s.modPxe f).wc = s.wc := rfl
@[simp] theorem State.modPxe_dge (s : State) (f : Pxe → Pxe) : (s.modPxe f).dge = s.dge := rfl
@[simp] theorem State.modPxe_dxu (s : State) (f : Pxe → Pxe) : (s.modPxe f).dxu = s.dxu := rfl
@[simp] theorem State.modPxe_cpe (s : State) (f : Pxe → Pxe) : (s.modPxe f).cpe = s.cpe := rfl
@[simp] theorem State.modPxe_ftu (s : State) (f : Pxe → Pxe) : (s.modPxe f).ftu = s.ftu := rfl
@[simp] theorem State.modPxe_pxe (s : State) (f : Pxe → Pxe) : (s.modPxe f).pxe = f s.pxe := rfl
@[simp] theorem State.modPxe_snap (s : State) (f : Pxe → Pxe) : (s.modPxe f).snap = s.snap := rfl
@[simp] theorem State.modPxe_ha (s : State) (f : Pxe → Pxe) : (s.modPxe f).ha = s.ha := rfl
@[simp] theorem State.modPxe_snw (s : State) (f : Pxe → Pxe) : (s.modPxe f).snw = s.snw := rfl
@[simp] theorem State.modPxe_gov (s : State) (f : Pxe → Pxe) : (s.modPxe f).gov = s.gov := rfl
@[simp] theorem State.modPxe_mcu (s : State) (f : Pxe → Pxe) : (s.modPxe f).mcu = s.mcu := rfl
@[simp] theorem State.modPxe_slc (s : State) (f : Pxe → Pxe) : (s.modPxe f).slc = s.slc := rfl
@[simp] theorem State.modPxe_rot (s : State) (f : Pxe → Pxe) : (s.modPxe f).rot = s.rot := rfl
@[simp] theorem State.modPxe_nvi (s : State) (f : Pxe → Pxe) : (s.modPxe f).nvi = s.nvi := rfl
@[simp] theorem State.modPxe_xts (s : State) (f : Pxe → Pxe) : (s.modPxe f).xts = s.xts := rfl
@[simp] theorem State.modPxe_cfg (s : State) (f : Pxe → Pxe) : (s.modPxe f).cfg = s.cfg := rfl
@[simp] theorem State.modPxe_pmu (s : State) (f : Pxe → Pxe) : (s.modPxe f).pmu = s.pmu := rfl
@[simp] theorem State.modPxe_dbg (s : State) (f : Pxe → Pxe) : (s.modPxe f).dbg = s.dbg := rfl
@[simp] theorem State.modPxe_rcc (s : State) (f : Pxe → Pxe) : (s.modPxe f).rcc = s.rcc := rfl
@[simp] theorem State.modPxe_evr (s : State) (f : Pxe → Pxe) : (s.modPxe f).evr = s.evr := rfl
@[simp] theorem State.modPxe_glb (s : State) (f : Pxe → Pxe) : (s.modPxe f).glb = s.glb := rfl

@[simp] theorem State.modSnap_pending (s : State) (f : SnapCtl → SnapCtl) : (s.modSnap f).pending = s.pending := rfl
@[simp] theorem State.modSnap_dt (s : State) (f : SnapCtl → SnapCtl) : (s.modSnap f).dt = s.dt := rfl
@[simp] theorem State.modSnap_out (s : State) (f : SnapCtl → SnapCtl) : (s.modSnap f).out = s.out := rfl
@[simp] theorem State.modSnap_fresh (s : State) (f : SnapCtl → SnapCtl) : (s.modSnap f).fresh = s.fresh := rfl
@[simp] theorem State.modSnap_link (s : State) (f : SnapCtl → SnapCtl) : (s.modSnap f).link = s.link := rfl
@[simp] theorem State.modSnap_cqe (s : State) (f : SnapCtl → SnapCtl) : (s.modSnap f).cqe = s.cqe := rfl
@[simp] theorem State.modSnap_dsc (s : State) (f : SnapCtl → SnapCtl) : (s.modSnap f).dsc = s.dsc := rfl
@[simp] theorem State.modSnap_wc (s : State) (f : SnapCtl → SnapCtl) : (s.modSnap f).wc = s.wc := rfl
@[simp] theorem State.modSnap_dge (s : State) (f : SnapCtl → SnapCtl) : (s.modSnap f).dge = s.dge := rfl
@[simp] theorem State.modSnap_dxu (s : State) (f : SnapCtl → SnapCtl) : (s.modSnap f).dxu = s.dxu := rfl
@[simp] theorem State.modSnap_cpe (s : State) (f : SnapCtl → SnapCtl) : (s.modSnap f).cpe = s.cpe := rfl
@[simp] theorem State.modSnap_ftu (s : State) (f : SnapCtl → SnapCtl) : (s.modSnap f).ftu = s.ftu := rfl
@[simp] theorem State.modSnap_pxe (s : State) (f : SnapCtl → SnapCtl) : (s.modSnap f).pxe = s.pxe := rfl
@[simp] theorem State.modSnap_snap (s : State) (f : SnapCtl → SnapCtl) : (s.modSnap f).snap = f s.snap := rfl
@[simp] theorem State.modSnap_ha (s : State) (f : SnapCtl → SnapCtl) : (s.modSnap f).ha = s.ha := rfl
@[simp] theorem State.modSnap_snw (s : State) (f : SnapCtl → SnapCtl) : (s.modSnap f).snw = s.snw := rfl
@[simp] theorem State.modSnap_gov (s : State) (f : SnapCtl → SnapCtl) : (s.modSnap f).gov = s.gov := rfl
@[simp] theorem State.modSnap_mcu (s : State) (f : SnapCtl → SnapCtl) : (s.modSnap f).mcu = s.mcu := rfl
@[simp] theorem State.modSnap_slc (s : State) (f : SnapCtl → SnapCtl) : (s.modSnap f).slc = s.slc := rfl
@[simp] theorem State.modSnap_rot (s : State) (f : SnapCtl → SnapCtl) : (s.modSnap f).rot = s.rot := rfl
@[simp] theorem State.modSnap_nvi (s : State) (f : SnapCtl → SnapCtl) : (s.modSnap f).nvi = s.nvi := rfl
@[simp] theorem State.modSnap_xts (s : State) (f : SnapCtl → SnapCtl) : (s.modSnap f).xts = s.xts := rfl
@[simp] theorem State.modSnap_cfg (s : State) (f : SnapCtl → SnapCtl) : (s.modSnap f).cfg = s.cfg := rfl
@[simp] theorem State.modSnap_pmu (s : State) (f : SnapCtl → SnapCtl) : (s.modSnap f).pmu = s.pmu := rfl
@[simp] theorem State.modSnap_dbg (s : State) (f : SnapCtl → SnapCtl) : (s.modSnap f).dbg = s.dbg := rfl
@[simp] theorem State.modSnap_rcc (s : State) (f : SnapCtl → SnapCtl) : (s.modSnap f).rcc = s.rcc := rfl
@[simp] theorem State.modSnap_evr (s : State) (f : SnapCtl → SnapCtl) : (s.modSnap f).evr = s.evr := rfl
@[simp] theorem State.modSnap_glb (s : State) (f : SnapCtl → SnapCtl) : (s.modSnap f).glb = s.glb := rfl

@[simp] theorem State.modHa_pending (s : State) (f : Ha → Ha) : (s.modHa f).pending = s.pending := rfl
@[simp] theorem State.modHa_dt (s : State) (f : Ha → Ha) : (s.modHa f).dt = s.dt := rfl
@[simp] theorem State.modHa_out (s : State) (f : Ha → Ha) : (s.modHa f).out = s.out := rfl
@[simp] theorem State.modHa_fresh (s : State) (f : Ha → Ha) : (s.modHa f).fresh = s.fresh := rfl
@[simp] theorem State.modHa_link (s : State) (f : Ha → Ha) : (s.modHa f).link = s.link := rfl
@[simp] theorem State.modHa_cqe (s : State) (f : Ha → Ha) : (s.modHa f).cqe = s.cqe := rfl
@[simp] theorem State.modHa_dsc (s : State) (f : Ha → Ha) : (s.modHa f).dsc = s.dsc := rfl
@[simp] theorem State.modHa_wc (s : State) (f : Ha → Ha) : (s.modHa f).wc = s.wc := rfl
@[simp] theorem State.modHa_dge (s : State) (f : Ha → Ha) : (s.modHa f).dge = s.dge := rfl
@[simp] theorem State.modHa_dxu (s : State) (f : Ha → Ha) : (s.modHa f).dxu = s.dxu := rfl
@[simp] theorem State.modHa_cpe (s : State) (f : Ha → Ha) : (s.modHa f).cpe = s.cpe := rfl
@[simp] theorem State.modHa_ftu (s : State) (f : Ha → Ha) : (s.modHa f).ftu = s.ftu := rfl
@[simp] theorem State.modHa_pxe (s : State) (f : Ha → Ha) : (s.modHa f).pxe = s.pxe := rfl
@[simp] theorem State.modHa_snap (s : State) (f : Ha → Ha) : (s.modHa f).snap = s.snap := rfl
@[simp] theorem State.modHa_ha (s : State) (f : Ha → Ha) : (s.modHa f).ha = f s.ha := rfl
@[simp] theorem State.modHa_snw (s : State) (f : Ha → Ha) : (s.modHa f).snw = s.snw := rfl
@[simp] theorem State.modHa_gov (s : State) (f : Ha → Ha) : (s.modHa f).gov = s.gov := rfl
@[simp] theorem State.modHa_mcu (s : State) (f : Ha → Ha) : (s.modHa f).mcu = s.mcu := rfl
@[simp] theorem State.modHa_slc (s : State) (f : Ha → Ha) : (s.modHa f).slc = s.slc := rfl
@[simp] theorem State.modHa_rot (s : State) (f : Ha → Ha) : (s.modHa f).rot = s.rot := rfl
@[simp] theorem State.modHa_nvi (s : State) (f : Ha → Ha) : (s.modHa f).nvi = s.nvi := rfl
@[simp] theorem State.modHa_xts (s : State) (f : Ha → Ha) : (s.modHa f).xts = s.xts := rfl
@[simp] theorem State.modHa_cfg (s : State) (f : Ha → Ha) : (s.modHa f).cfg = s.cfg := rfl
@[simp] theorem State.modHa_pmu (s : State) (f : Ha → Ha) : (s.modHa f).pmu = s.pmu := rfl
@[simp] theorem State.modHa_dbg (s : State) (f : Ha → Ha) : (s.modHa f).dbg = s.dbg := rfl
@[simp] theorem State.modHa_rcc (s : State) (f : Ha → Ha) : (s.modHa f).rcc = s.rcc := rfl
@[simp] theorem State.modHa_evr (s : State) (f : Ha → Ha) : (s.modHa f).evr = s.evr := rfl
@[simp] theorem State.modHa_glb (s : State) (f : Ha → Ha) : (s.modHa f).glb = s.glb := rfl

@[simp] theorem State.modSnw_pending (s : State) (f : Snw → Snw) : (s.modSnw f).pending = s.pending := rfl
@[simp] theorem State.modSnw_dt (s : State) (f : Snw → Snw) : (s.modSnw f).dt = s.dt := rfl
@[simp] theorem State.modSnw_out (s : State) (f : Snw → Snw) : (s.modSnw f).out = s.out := rfl
@[simp] theorem State.modSnw_fresh (s : State) (f : Snw → Snw) : (s.modSnw f).fresh = s.fresh := rfl
@[simp] theorem State.modSnw_link (s : State) (f : Snw → Snw) : (s.modSnw f).link = s.link := rfl
@[simp] theorem State.modSnw_cqe (s : State) (f : Snw → Snw) : (s.modSnw f).cqe = s.cqe := rfl
@[simp] theorem State.modSnw_dsc (s : State) (f : Snw → Snw) : (s.modSnw f).dsc = s.dsc := rfl
@[simp] theorem State.modSnw_wc (s : State) (f : Snw → Snw) : (s.modSnw f).wc = s.wc := rfl
@[simp] theorem State.modSnw_dge (s : State) (f : Snw → Snw) : (s.modSnw f).dge = s.dge := rfl
@[simp] theorem State.modSnw_dxu (s : State) (f : Snw → Snw) : (s.modSnw f).dxu = s.dxu := rfl
@[simp] theorem State.modSnw_cpe (s : State) (f : Snw → Snw) : (s.modSnw f).cpe = s.cpe := rfl
@[simp] theorem State.modSnw_ftu (s : State) (f : Snw → Snw) : (s.modSnw f).ftu = s.ftu := rfl
@[simp] theorem State.modSnw_pxe (s : State) (f : Snw → Snw) : (s.modSnw f).pxe = s.pxe := rfl
@[simp] theorem State.modSnw_snap (s : State) (f : Snw → Snw) : (s.modSnw f).snap = s.snap := rfl
@[simp] theorem State.modSnw_ha (s : State) (f : Snw → Snw) : (s.modSnw f).ha = s.ha := rfl
@[simp] theorem State.modSnw_snw (s : State) (f : Snw → Snw) : (s.modSnw f).snw = f s.snw := rfl
@[simp] theorem State.modSnw_gov (s : State) (f : Snw → Snw) : (s.modSnw f).gov = s.gov := rfl
@[simp] theorem State.modSnw_mcu (s : State) (f : Snw → Snw) : (s.modSnw f).mcu = s.mcu := rfl
@[simp] theorem State.modSnw_slc (s : State) (f : Snw → Snw) : (s.modSnw f).slc = s.slc := rfl
@[simp] theorem State.modSnw_rot (s : State) (f : Snw → Snw) : (s.modSnw f).rot = s.rot := rfl
@[simp] theorem State.modSnw_nvi (s : State) (f : Snw → Snw) : (s.modSnw f).nvi = s.nvi := rfl
@[simp] theorem State.modSnw_xts (s : State) (f : Snw → Snw) : (s.modSnw f).xts = s.xts := rfl
@[simp] theorem State.modSnw_cfg (s : State) (f : Snw → Snw) : (s.modSnw f).cfg = s.cfg := rfl
@[simp] theorem State.modSnw_pmu (s : State) (f : Snw → Snw) : (s.modSnw f).pmu = s.pmu := rfl
@[simp] theorem State.modSnw_dbg (s : State) (f : Snw → Snw) : (s.modSnw f).dbg = s.dbg := rfl
@[simp] theorem State.modSnw_rcc (s : State) (f : Snw → Snw) : (s.modSnw f).rcc = s.rcc := rfl
@[simp] theorem State.modSnw_evr (s : State) (f : Snw → Snw) : (s.modSnw f).evr = s.evr := rfl
@[simp] theorem State.modSnw_glb (s : State) (f : Snw → Snw) : (s.modSnw f).glb = s.glb := rfl

@[simp] theorem State.modGov_pending (s : State) (f : Gov → Gov) : (s.modGov f).pending = s.pending := rfl
@[simp] theorem State.modGov_dt (s : State) (f : Gov → Gov) : (s.modGov f).dt = s.dt := rfl
@[simp] theorem State.modGov_out (s : State) (f : Gov → Gov) : (s.modGov f).out = s.out := rfl
@[simp] theorem State.modGov_fresh (s : State) (f : Gov → Gov) : (s.modGov f).fresh = s.fresh := rfl
@[simp] theorem State.modGov_link (s : State) (f : Gov → Gov) : (s.modGov f).link = s.link := rfl
@[simp] theorem State.modGov_cqe (s : State) (f : Gov → Gov) : (s.modGov f).cqe = s.cqe := rfl
@[simp] theorem State.modGov_dsc (s : State) (f : Gov → Gov) : (s.modGov f).dsc = s.dsc := rfl
@[simp] theorem State.modGov_wc (s : State) (f : Gov → Gov) : (s.modGov f).wc = s.wc := rfl
@[simp] theorem State.modGov_dge (s : State) (f : Gov → Gov) : (s.modGov f).dge = s.dge := rfl
@[simp] theorem State.modGov_dxu (s : State) (f : Gov → Gov) : (s.modGov f).dxu = s.dxu := rfl
@[simp] theorem State.modGov_cpe (s : State) (f : Gov → Gov) : (s.modGov f).cpe = s.cpe := rfl
@[simp] theorem State.modGov_ftu (s : State) (f : Gov → Gov) : (s.modGov f).ftu = s.ftu := rfl
@[simp] theorem State.modGov_pxe (s : State) (f : Gov → Gov) : (s.modGov f).pxe = s.pxe := rfl
@[simp] theorem State.modGov_snap (s : State) (f : Gov → Gov) : (s.modGov f).snap = s.snap := rfl
@[simp] theorem State.modGov_ha (s : State) (f : Gov → Gov) : (s.modGov f).ha = s.ha := rfl
@[simp] theorem State.modGov_snw (s : State) (f : Gov → Gov) : (s.modGov f).snw = s.snw := rfl
@[simp] theorem State.modGov_gov (s : State) (f : Gov → Gov) : (s.modGov f).gov = f s.gov := rfl
@[simp] theorem State.modGov_mcu (s : State) (f : Gov → Gov) : (s.modGov f).mcu = s.mcu := rfl
@[simp] theorem State.modGov_slc (s : State) (f : Gov → Gov) : (s.modGov f).slc = s.slc := rfl
@[simp] theorem State.modGov_rot (s : State) (f : Gov → Gov) : (s.modGov f).rot = s.rot := rfl
@[simp] theorem State.modGov_nvi (s : State) (f : Gov → Gov) : (s.modGov f).nvi = s.nvi := rfl
@[simp] theorem State.modGov_xts (s : State) (f : Gov → Gov) : (s.modGov f).xts = s.xts := rfl
@[simp] theorem State.modGov_cfg (s : State) (f : Gov → Gov) : (s.modGov f).cfg = s.cfg := rfl
@[simp] theorem State.modGov_pmu (s : State) (f : Gov → Gov) : (s.modGov f).pmu = s.pmu := rfl
@[simp] theorem State.modGov_dbg (s : State) (f : Gov → Gov) : (s.modGov f).dbg = s.dbg := rfl
@[simp] theorem State.modGov_rcc (s : State) (f : Gov → Gov) : (s.modGov f).rcc = s.rcc := rfl
@[simp] theorem State.modGov_evr (s : State) (f : Gov → Gov) : (s.modGov f).evr = s.evr := rfl
@[simp] theorem State.modGov_glb (s : State) (f : Gov → Gov) : (s.modGov f).glb = s.glb := rfl

@[simp] theorem State.modMcu_pending (s : State) (f : Mcu → Mcu) : (s.modMcu f).pending = s.pending := rfl
@[simp] theorem State.modMcu_dt (s : State) (f : Mcu → Mcu) : (s.modMcu f).dt = s.dt := rfl
@[simp] theorem State.modMcu_out (s : State) (f : Mcu → Mcu) : (s.modMcu f).out = s.out := rfl
@[simp] theorem State.modMcu_fresh (s : State) (f : Mcu → Mcu) : (s.modMcu f).fresh = s.fresh := rfl
@[simp] theorem State.modMcu_link (s : State) (f : Mcu → Mcu) : (s.modMcu f).link = s.link := rfl
@[simp] theorem State.modMcu_cqe (s : State) (f : Mcu → Mcu) : (s.modMcu f).cqe = s.cqe := rfl
@[simp] theorem State.modMcu_dsc (s : State) (f : Mcu → Mcu) : (s.modMcu f).dsc = s.dsc := rfl
@[simp] theorem State.modMcu_wc (s : State) (f : Mcu → Mcu) : (s.modMcu f).wc = s.wc := rfl
@[simp] theorem State.modMcu_dge (s : State) (f : Mcu → Mcu) : (s.modMcu f).dge = s.dge := rfl
@[simp] theorem State.modMcu_dxu (s : State) (f : Mcu → Mcu) : (s.modMcu f).dxu = s.dxu := rfl
@[simp] theorem State.modMcu_cpe (s : State) (f : Mcu → Mcu) : (s.modMcu f).cpe = s.cpe := rfl
@[simp] theorem State.modMcu_ftu (s : State) (f : Mcu → Mcu) : (s.modMcu f).ftu = s.ftu := rfl
@[simp] theorem State.modMcu_pxe (s : State) (f : Mcu → Mcu) : (s.modMcu f).pxe = s.pxe := rfl
@[simp] theorem State.modMcu_snap (s : State) (f : Mcu → Mcu) : (s.modMcu f).snap = s.snap := rfl
@[simp] theorem State.modMcu_ha (s : State) (f : Mcu → Mcu) : (s.modMcu f).ha = s.ha := rfl
@[simp] theorem State.modMcu_snw (s : State) (f : Mcu → Mcu) : (s.modMcu f).snw = s.snw := rfl
@[simp] theorem State.modMcu_gov (s : State) (f : Mcu → Mcu) : (s.modMcu f).gov = s.gov := rfl
@[simp] theorem State.modMcu_mcu (s : State) (f : Mcu → Mcu) : (s.modMcu f).mcu = f s.mcu := rfl
@[simp] theorem State.modMcu_slc (s : State) (f : Mcu → Mcu) : (s.modMcu f).slc = s.slc := rfl
@[simp] theorem State.modMcu_rot (s : State) (f : Mcu → Mcu) : (s.modMcu f).rot = s.rot := rfl
@[simp] theorem State.modMcu_nvi (s : State) (f : Mcu → Mcu) : (s.modMcu f).nvi = s.nvi := rfl
@[simp] theorem State.modMcu_xts (s : State) (f : Mcu → Mcu) : (s.modMcu f).xts = s.xts := rfl
@[simp] theorem State.modMcu_cfg (s : State) (f : Mcu → Mcu) : (s.modMcu f).cfg = s.cfg := rfl
@[simp] theorem State.modMcu_pmu (s : State) (f : Mcu → Mcu) : (s.modMcu f).pmu = s.pmu := rfl
@[simp] theorem State.modMcu_dbg (s : State) (f : Mcu → Mcu) : (s.modMcu f).dbg = s.dbg := rfl
@[simp] theorem State.modMcu_rcc (s : State) (f : Mcu → Mcu) : (s.modMcu f).rcc = s.rcc := rfl
@[simp] theorem State.modMcu_evr (s : State) (f : Mcu → Mcu) : (s.modMcu f).evr = s.evr := rfl
@[simp] theorem State.modMcu_glb (s : State) (f : Mcu → Mcu) : (s.modMcu f).glb = s.glb := rfl

@[simp] theorem State.modSlc_pending (s : State) (f : Slc → Slc) : (s.modSlc f).pending = s.pending := rfl
@[simp] theorem State.modSlc_dt (s : State) (f : Slc → Slc) : (s.modSlc f).dt = s.dt := rfl
@[simp] theorem State.modSlc_out (s : State) (f : Slc → Slc) : (s.modSlc f).out = s.out := rfl
@[simp] theorem State.modSlc_fresh (s : State) (f : Slc → Slc) : (s.modSlc f).fresh = s.fresh := rfl
@[simp] theorem State.modSlc_link (s : State) (f : Slc → Slc) : (s.modSlc f).link = s.link := rfl
@[simp] theorem State.modSlc_cqe (s : State) (f : Slc → Slc) : (s.modSlc f).cqe = s.cqe := rfl
@[simp] theorem State.modSlc_dsc (s : State) (f : Slc → Slc) : (s.modSlc f).dsc = s.dsc := rfl
@[simp] theorem State.modSlc_wc (s : State) (f : Slc → Slc) : (s.modSlc f).wc = s.wc := rfl
@[simp] theorem State.modSlc_dge (s : State) (f : Slc → Slc) : (s.modSlc f).dge = s.dge := rfl
@[simp] theorem State.modSlc_dxu (s : State) (f : Slc → Slc) : (s.modSlc f).dxu = s.dxu := rfl
@[simp] theorem State.modSlc_cpe (s : State) (f : Slc → Slc) : (s.modSlc f).cpe = s.cpe := rfl
@[simp] theorem State.modSlc_ftu (s : State) (f : Slc → Slc) : (s.modSlc f).ftu = s.ftu := rfl
@[simp] theorem State.modSlc_pxe (s : State) (f : Slc → Slc) : (s.modSlc f).pxe = s.pxe := rfl
@[simp] theorem State.modSlc_snap (s : State) (f : Slc → Slc) : (s.modSlc f).snap = s.snap := rfl
@[simp] theorem State.modSlc_ha (s : State) (f : Slc → Slc) : (s.modSlc f).ha = s.ha := rfl
@[simp] theorem State.modSlc_snw (s : State) (f : Slc → Slc) : (s.modSlc f).snw = s.snw := rfl
@[simp] theorem State.modSlc_gov (s : State) (f : Slc → Slc) : (s.modSlc f).gov = s.gov := rfl
@[simp] theorem State.modSlc_mcu (s : State) (f : Slc → Slc) : (s.modSlc f).mcu = s.mcu := rfl
@[simp] theorem State.modSlc_slc (s : State) (f : Slc → Slc) : (s.modSlc f).slc = f s.slc := rfl
@[simp] theorem State.modSlc_rot (s : State) (f : Slc → Slc) : (s.modSlc f).rot = s.rot := rfl
@[simp] theorem State.modSlc_nvi (s : State) (f : Slc → Slc) : (s.modSlc f).nvi = s.nvi := rfl
@[simp] theorem State.modSlc_xts (s : State) (f : Slc → Slc) : (s.modSlc f).xts = s.xts := rfl
@[simp] theorem State.modSlc_cfg (s : State) (f : Slc → Slc) : (s.modSlc f).cfg = s.cfg := rfl
@[simp] theorem State.modSlc_pmu (s : State) (f : Slc → Slc) : (s.modSlc f).pmu = s.pmu := rfl
@[simp] theorem State.modSlc_dbg (s : State) (f : Slc → Slc) : (s.modSlc f).dbg = s.dbg := rfl
@[simp] theorem State.modSlc_rcc (s : State) (f : Slc → Slc) : (s.modSlc f).rcc = s.rcc := rfl
@[simp] theorem State.modSlc_evr (s : State) (f : Slc → Slc) : (s.modSlc f).evr = s.evr := rfl
@[simp] theorem State.modSlc_glb (s : State) (f : Slc → Slc) : (s.modSlc f).glb = s.glb := rfl

@[simp] theorem State.modRot_pending (s : State) (f : Rot → Rot) : (s.modRot f).pending = s.pending := rfl
@[simp] theorem State.modRot_dt (s : State) (f : Rot → Rot) : (s.modRot f).dt = s.dt := rfl
@[simp] theorem State.modRot_out (s : State) (f : Rot → Rot) : (s.modRot f).out = s.out := rfl
@[simp] theorem State.modRot_fresh (s : State) (f : Rot → Rot) : (s.modRot f).fresh = s.fresh := rfl
@[simp] theorem State.modRot_link (s : State) (f : Rot → Rot) : (s.modRot f).link = s.link := rfl
@[simp] theorem State.modRot_cqe (s : State) (f : Rot → Rot) : (s.modRot f).cqe = s.cqe := rfl
@[simp] theorem State.modRot_dsc (s : State) (f : Rot → Rot) : (s.modRot f).dsc = s.dsc := rfl
@[simp] theorem State.modRot_wc (s : State) (f : Rot → Rot) : (s.modRot f).wc = s.wc := rfl
@[simp] theorem State.modRot_dge (s : State) (f : Rot → Rot) : (s.modRot f).dge = s.dge := rfl
@[simp] theorem State.modRot_dxu (s : State) (f : Rot → Rot) : (s.modRot f).dxu = s.dxu := rfl
@[simp] theorem State.modRot_cpe (s : State) (f : Rot → Rot) : (s.modRot f).cpe = s.cpe := rfl
@[simp] theorem State.modRot_ftu (s : State) (f : Rot → Rot) : (s.modRot f).ftu = s.ftu := rfl
@[simp] theorem State.modRot_pxe (s : State) (f : Rot → Rot) : (s.modRot f).pxe = s.pxe := rfl
@[simp] theorem State.modRot_snap (s : State) (f : Rot → Rot) : (s.modRot f).snap = s.snap := rfl
@[simp] theorem State.modRot_ha (s : State) (f : Rot → Rot) : (s.modRot f).ha = s.ha := rfl
@[simp] theorem State.modRot_snw (s : State) (f : Rot → Rot) : (s.modRot f).snw = s.snw := rfl
@[simp] theorem State.modRot_gov (s : State) (f : Rot → Rot) : (s.modRot f).gov = s.gov := rfl
@[simp] theorem State.modRot_mcu (s : State) (f : Rot → Rot) : (s.modRot f).mcu = s.mcu := rfl
@[simp] theorem State.modRot_slc (s : State) (f : Rot → Rot) : (s.modRot f).slc = s.slc := rfl
@[simp] theorem State.modRot_rot (s : State) (f : Rot → Rot) : (s.modRot f).rot = f s.rot := rfl
@[simp] theorem State.modRot_nvi (s : State) (f : Rot → Rot) : (s.modRot f).nvi = s.nvi := rfl
@[simp] theorem State.modRot_xts (s : State) (f : Rot → Rot) : (s.modRot f).xts = s.xts := rfl
@[simp] theorem State.modRot_cfg (s : State) (f : Rot → Rot) : (s.modRot f).cfg = s.cfg := rfl
@[simp] theorem State.modRot_pmu (s : State) (f : Rot → Rot) : (s.modRot f).pmu = s.pmu := rfl
@[simp] theorem State.modRot_dbg (s : State) (f : Rot → Rot) : (s.modRot f).dbg = s.dbg := rfl
@[simp] theorem State.modRot_rcc (s : State) (f : Rot → Rot) : (s.modRot f).rcc = s.rcc := rfl
@[simp] theorem State.modRot_evr (s : State) (f : Rot → Rot) : (s.modRot f).evr = s.evr := rfl
@[simp] theorem State.modRot_glb (s : State) (f : Rot → Rot) : (s.modRot f).glb = s.glb := rfl

@[simp] theorem State.modNvi_pending (s : State) (f : Nvi → Nvi) : (s.modNvi f).pending = s.pending := rfl
@[simp] theorem State.modNvi_dt (s : State) (f : Nvi → Nvi) : (s.modNvi f).dt = s.dt := rfl
@[simp] theorem State.modNvi_out (s : State) (f : Nvi → Nvi) : (s.modNvi f).out = s.out := rfl
@[simp] theorem State.modNvi_fresh (s : State) (f : Nvi → Nvi) : (s.modNvi f).fresh = s.fresh := rfl
@[simp] theorem State.modNvi_link (s : State) (f : Nvi → Nvi) : (s.modNvi f).link = s.link := rfl
@[simp] theorem State.modNvi_cqe (s : State) (f : Nvi → Nvi) : (s.modNvi f).cqe = s.cqe := rfl
@[simp] theorem State.modNvi_dsc (s : State) (f : Nvi → Nvi) : (s.modNvi f).dsc = s.dsc := rfl
@[simp] theorem State.modNvi_wc (s : State) (f : Nvi → Nvi) : (s.modNvi f).wc = s.wc := rfl
@[simp] theorem State.modNvi_dge (s : State) (f : Nvi → Nvi) : (s.modNvi f).dge = s.dge := rfl
@[simp] theorem State.modNvi_dxu (s : State) (f : Nvi → Nvi) : (s.modNvi f).dxu = s.dxu := rfl
@[simp] theorem State.modNvi_cpe (s : State) (f : Nvi → Nvi) : (s.modNvi f).cpe = s.cpe := rfl
@[simp] theorem State.modNvi_ftu (s : State) (f : Nvi → Nvi) : (s.modNvi f).ftu = s.ftu := rfl
@[simp] theorem State.modNvi_pxe (s : State) (f : Nvi → Nvi) : (s.modNvi f).pxe = s.pxe := rfl
@[simp] theorem State.modNvi_snap (s : State) (f : Nvi → Nvi) : (s.modNvi f).snap = s.snap := rfl
@[simp] theorem State.modNvi_ha (s : State) (f : Nvi → Nvi) : (s.modNvi f).ha = s.ha := rfl
@[simp] theorem State.modNvi_snw (s : State) (f : Nvi → Nvi) : (s.modNvi f).snw = s.snw := rfl
@[simp] theorem State.modNvi_gov (s : State) (f : Nvi → Nvi) : (s.modNvi f).gov = s.gov := rfl
@[simp] theorem State.modNvi_mcu (s : State) (f : Nvi → Nvi) : (s.modNvi f).mcu = s.mcu := rfl
@[simp] theorem State.modNvi_slc (s : State) (f : Nvi → Nvi) : (s.modNvi f).slc = s.slc := rfl
@[simp] theorem State.modNvi_rot (s : State) (f : Nvi → Nvi) : (s.modNvi f).rot = s.rot := rfl
@[simp] theorem State.modNvi_nvi (s : State) (f : Nvi → Nvi) : (s.modNvi f).nvi = f s.nvi := rfl
@[simp] theorem State.modNvi_xts (s : State) (f : Nvi → Nvi) : (s.modNvi f).xts = s.xts := rfl
@[simp] theorem State.modNvi_cfg (s : State) (f : Nvi → Nvi) : (s.modNvi f).cfg = s.cfg := rfl
@[simp] theorem State.modNvi_pmu (s : State) (f : Nvi → Nvi) : (s.modNvi f).pmu = s.pmu := rfl
@[simp] theorem State.modNvi_dbg (s : State) (f : Nvi → Nvi) : (s.modNvi f).dbg = s.dbg := rfl
@[simp] theorem State.modNvi_rcc (s : State) (f : Nvi → Nvi) : (s.modNvi f).rcc = s.rcc := rfl
@[simp] theorem State.modNvi_evr (s : State) (f : Nvi → Nvi) : (s.modNvi f).evr = s.evr := rfl
@[simp] theorem State.modNvi_glb (s : State) (f : Nvi → Nvi) : (s.modNvi f).glb = s.glb := rfl

@[simp] theorem State.modXts_pending (s : State) (f : Xts → Xts) : (s.modXts f).pending = s.pending := rfl
@[simp] theorem State.modXts_dt (s : State) (f : Xts → Xts) : (s.modXts f).dt = s.dt := rfl
@[simp] theorem State.modXts_out (s : State) (f : Xts → Xts) : (s.modXts f).out = s.out := rfl
@[simp] theorem State.modXts_fresh (s : State) (f : Xts → Xts) : (s.modXts f).fresh = s.fresh := rfl
@[simp] theorem State.modXts_link (s : State) (f : Xts → Xts) : (s.modXts f).link = s.link := rfl
@[simp] theorem State.modXts_cqe (s : State) (f : Xts → Xts) : (s.modXts f).cqe = s.cqe := rfl
@[simp] theorem State.modXts_dsc (s : State) (f : Xts → Xts) : (s.modXts f).dsc = s.dsc := rfl
@[simp] theorem State.modXts_wc (s : State) (f : Xts → Xts) : (s.modXts f).wc = s.wc := rfl
@[simp] theorem State.modXts_dge (s : State) (f : Xts → Xts) : (s.modXts f).dge = s.dge := rfl
@[simp] theorem State.modXts_dxu (s : State) (f : Xts → Xts) : (s.modXts f).dxu = s.dxu := rfl
@[simp] theorem State.modXts_cpe (s : State) (f : Xts → Xts) : (s.modXts f).cpe = s.cpe := rfl
@[simp] theorem State.modXts_ftu (s : State) (f : Xts → Xts) : (s.modXts f).ftu = s.ftu := rfl
@[simp] theorem State.modXts_pxe (s : State) (f : Xts → Xts) : (s.modXts f).pxe = s.pxe := rfl
@[simp] theorem State.modXts_snap (s : State) (f : Xts → Xts) : (s.modXts f).snap = s.snap := rfl
@[simp] theorem State.modXts_ha (s : State) (f : Xts → Xts) : (s.modXts f).ha = s.ha := rfl
@[simp] theorem State.modXts_snw (s : State) (f : Xts → Xts) : (s.modXts f).snw = s.snw := rfl
@[simp] theorem State.modXts_gov (s : State) (f : Xts → Xts) : (s.modXts f).gov = s.gov := rfl
@[simp] theorem State.modXts_mcu (s : State) (f : Xts → Xts) : (s.modXts f).mcu = s.mcu := rfl
@[simp] theorem State.modXts_slc (s : State) (f : Xts → Xts) : (s.modXts f).slc = s.slc := rfl
@[simp] theorem State.modXts_rot (s : State) (f : Xts → Xts) : (s.modXts f).rot = s.rot := rfl
@[simp] theorem State.modXts_nvi (s : State) (f : Xts → Xts) : (s.modXts f).nvi = s.nvi := rfl
@[simp] theorem State.modXts_xts (s : State) (f : Xts → Xts) : (s.modXts f).xts = f s.xts := rfl
@[simp] theorem State.modXts_cfg (s : State) (f : Xts → Xts) : (s.modXts f).cfg = s.cfg := rfl
@[simp] theorem State.modXts_pmu (s : State) (f : Xts → Xts) : (s.modXts f).pmu = s.pmu := rfl
@[simp] theorem State.modXts_dbg (s : State) (f : Xts → Xts) : (s.modXts f).dbg = s.dbg := rfl
@[simp] theorem State.modXts_rcc (s : State) (f : Xts → Xts) : (s.modXts f).rcc = s.rcc := rfl
@[simp] theorem State.modXts_evr (s : State) (f : Xts → Xts) : (s.modXts f).evr = s.evr := rfl
@[simp] theorem State.modXts_glb (s : State) (f : Xts → Xts) : (s.modXts f).glb = s.glb := rfl

@[simp] theorem State.modCfg_pending (s : State) (f : Cfg → Cfg) : (s.modCfg f).pending = s.pending := rfl
@[simp] theorem State.modCfg_dt (s : State) (f : Cfg → Cfg) : (s.modCfg f).dt = s.dt := rfl
@[simp] theorem State.modCfg_out (s : State) (f : Cfg → Cfg) : (s.modCfg f).out = s.out := rfl
@[simp] theorem State.modCfg_fresh (s : State) (f : Cfg → Cfg) : (s.modCfg f).fresh = s.fresh := rfl
@[simp] theorem State.modCfg_link (s : State) (f : Cfg → Cfg) : (s.modCfg f).link = s.link := rfl
@[simp] theorem State.modCfg_cqe (s : State) (f : Cfg → Cfg) : (s.modCfg f).cqe = s.cqe := rfl
@[simp] theorem State.modCfg_dsc (s : State) (f : Cfg → Cfg) : (s.modCfg f).dsc = s.dsc := rfl
@[simp] theorem State.modCfg_wc (s : State) (f : Cfg → Cfg) : (s.modCfg f).wc = s.wc := rfl
@[simp] theorem State.modCfg_dge (s : State) (f : Cfg → Cfg) : (s.modCfg f).dge = s.dge := rfl
@[simp] theorem State.modCfg_dxu (s : State) (f : Cfg → Cfg) : (s.modCfg f).dxu = s.dxu := rfl
@[simp] theorem State.modCfg_cpe (s : State) (f : Cfg → Cfg) : (s.modCfg f).cpe = s.cpe := rfl
@[simp] theorem State.modCfg_ftu (s : State) (f : Cfg → Cfg) : (s.modCfg f).ftu = s.ftu := rfl
@[simp] theorem State.modCfg_pxe (s : State) (f : Cfg → Cfg) : (s.modCfg f).pxe = s.pxe := rfl
@[simp] theorem State.modCfg_snap (s : State) (f : Cfg → Cfg) : (s.modCfg f).snap = s.snap := rfl
@[simp] theorem State.modCfg_ha (s : State) (f : Cfg → Cfg) : (s.modCfg f).ha = s.ha := rfl
@[simp] theorem State.modCfg_snw (s : State) (f : Cfg → Cfg) : (s.modCfg f).snw = s.snw := rfl
@[simp] theorem State.modCfg_gov (s : State) (f : Cfg → Cfg) : (s.modCfg f).gov = s.gov := rfl
@[simp] theorem State.modCfg_mcu (s : State) (f : Cfg → Cfg) : (s.modCfg f).mcu = s.mcu := rfl
@[simp] theorem State.modCfg_slc (s : State) (f : Cfg → Cfg) : (s.modCfg f).slc = s.slc := rfl
@[simp] theorem State.modCfg_rot (s : State) (f : Cfg → Cfg) : (s.modCfg f).rot = s.rot := rfl
@[simp] theorem State.modCfg_nvi (s : State) (f : Cfg → Cfg) : (s.modCfg f).nvi = s.nvi := rfl
@[simp] theorem State.modCfg_xts (s : State) (f : Cfg → Cfg) : (s.modCfg f).xts = s.xts := rfl
@[simp] theorem State.modCfg_cfg (s : State) (f : Cfg → Cfg) : (s.modCfg f).cfg = f s.cfg := rfl
@[simp] theorem State.modCfg_pmu (s : State) (f : Cfg → Cfg) : (s.modCfg f).pmu = s.pmu := rfl
@[simp] theorem State.modCfg_dbg (s : State) (f : Cfg → Cfg) : (s.modCfg f).dbg = s.dbg := rfl
@[simp] theorem State.modCfg_rcc (s : State) (f : Cfg → Cfg) : (s.modCfg f).rcc = s.rcc := rfl
@[simp] theorem State.modCfg_evr (s : State) (f : Cfg → Cfg) : (s.modCfg f).evr = s.evr := rfl
@[simp] theorem State.modCfg_glb (s : State) (f : Cfg → Cfg) : (s.modCfg f).glb = s.glb := rfl

@[simp] theorem State.modPmu_pending (s : State) (f : Pmu → Pmu) : (s.modPmu f).pending = s.pending := rfl
@[simp] theorem State.modPmu_dt (s : State) (f : Pmu → Pmu) : (s.modPmu f).dt = s.dt := rfl
@[simp] theorem State.modPmu_out (s : State) (f : Pmu → Pmu) : (s.modPmu f).out = s.out := rfl
@[simp] theorem State.modPmu_fresh (s : State) (f : Pmu → Pmu) : (s.modPmu f).fresh = s.fresh := rfl
@[simp] theorem State.modPmu_link (s : State) (f : Pmu → Pmu) : (s.modPmu f).link = s.link := rfl
@[simp] theorem State.modPmu_cqe (s : State) (f : Pmu → Pmu) : (s.modPmu f).cqe = s.cqe := rfl
@[simp] theorem State.modPmu_dsc (s : State) (f : Pmu → Pmu) : (s.modPmu f).dsc = s.dsc := rfl
@[simp] theorem State.modPmu_wc (s : State) (f : Pmu → Pmu) : (s.modPmu f).wc = s.wc := rfl
@[simp] theorem State.modPmu_dge (s : State) (f : Pmu → Pmu) : (s.modPmu f).dge = s.dge := rfl
@[simp] theorem State.modPmu_dxu (s : State) (f : Pmu → Pmu) : (s.modPmu f).dxu = s.dxu := rfl
@[simp] theorem State.modPmu_cpe (s : State) (f : Pmu → Pmu) : (s.modPmu f).cpe = s.cpe := rfl
@[simp] theorem State.modPmu_ftu (s : State) (f : Pmu → Pmu) : (s.modPmu f).ftu = s.ftu := rfl
@[simp] theorem State.modPmu_pxe (s : State) (f : Pmu → Pmu) : (s.modPmu f).pxe = s.pxe := rfl
@[simp] theorem State.modPmu_snap (s : State) (f : Pmu → Pmu) : (s.modPmu f).snap = s.snap := rfl
@[simp] theorem State.modPmu_ha (s : State) (f : Pmu → Pmu) : (s.modPmu f).ha = s.ha := rfl
@[simp] theorem State.modPmu_snw (s : State) (f : Pmu → Pmu) : (s.modPmu f).snw = s.snw := rfl
@[simp] theorem State.modPmu_gov (s : State) (f : Pmu → Pmu) : (s.modPmu f).gov = s.gov := rfl
@[simp] theorem State.modPmu_mcu (s : State) (f : Pmu → Pmu) : (s.modPmu f).mcu = s.mcu := rfl
@[simp] theorem State.modPmu_slc (s : State) (f : Pmu → Pmu) : (s.modPmu f).slc = s.slc := rfl
@[simp] theorem State.modPmu_rot (s : State) (f : Pmu → Pmu) : (s.modPmu f).rot = s.rot := rfl
@[simp] theorem State.modPmu_nvi (s : State) (f : Pmu → Pmu) : (s.modPmu f).nvi = s.nvi := rfl
@[simp] theorem State.modPmu_xts (s : State) (f : Pmu → Pmu) : (s.modPmu f).xts = s.xts := rfl
@[simp] theorem State.modPmu_cfg (s : State) (f : Pmu → Pmu) : (s.modPmu f).cfg = s.cfg := rfl
@[simp] theorem State.modPmu_pmu (s : State) (f : Pmu → Pmu) : (s.modPmu f).pmu = f s.pmu := rfl
@[simp] theorem State.modPmu_dbg (s : State) (f : Pmu → Pmu) : (s.modPmu f).dbg = s.dbg := rfl
@[simp] theorem State.modPmu_rcc (s : State) (f : Pmu → Pmu) : (s.modPmu f).rcc = s.rcc := rfl
@[simp] theorem State.modPmu_evr (s : State) (f : Pmu → Pmu) : (s.modPmu f).evr = s.evr := rfl
@[simp] theorem State.modPmu_glb (s : State) (f : Pmu → Pmu) : (s.modPmu f).glb = s.glb := rfl

@[simp] theorem State.modDbg_pending (s : State) (f : Dbg → Dbg) : (s.modDbg f).pending = s.pending := rfl
@[simp] theorem State.modDbg_dt (s : State) (f : Dbg → Dbg) : (s.modDbg f).dt = s.dt := rfl
@[simp] theorem State.modDbg_out (s : State) (f : Dbg → Dbg) : (s.modDbg f).out = s.out := rfl
@[simp] theorem State.modDbg_fresh (s : State) (f : Dbg → Dbg) : (s.modDbg f).fresh = s.fresh := rfl
@[simp] theorem State.modDbg_link (s : State) (f : Dbg → Dbg) : (s.modDbg f).link = s.link := rfl
@[simp] theorem State.modDbg_cqe (s : State) (f : Dbg → Dbg) : (s.modDbg f).cqe = s.cqe := rfl
@[simp] theorem State.modDbg_dsc (s : State) (f : Dbg → Dbg) : (s.modDbg f).dsc = s.dsc := rfl
@[simp] theorem State.modDbg_wc (s : State) (f : Dbg → Dbg) : (s.modDbg f).wc = s.wc := rfl
@[simp] theorem State.modDbg_dge (s : State) (f : Dbg → Dbg) : (s.modDbg f).dge = s.dge := rfl
@[simp] theorem State.modDbg_dxu (s : State) (f : Dbg → Dbg) : (s.modDbg f).dxu = s.dxu := rfl
@[simp] theorem State.modDbg_cpe (s : State) (f : Dbg → Dbg) : (s.modDbg f).cpe = s.cpe := rfl
@[simp] theorem State.modDbg_ftu (s : State) (f : Dbg → Dbg) : (s.modDbg f).ftu = s.ftu := rfl
@[simp] theorem State.modDbg_pxe (s : State) (f : Dbg → Dbg) : (s.modDbg f).pxe = s.pxe := rfl
@[simp] theorem State.modDbg_snap (s : State) (f : Dbg → Dbg) : (s.modDbg f).snap = s.snap := rfl
@[simp] theorem State.modDbg_ha (s : State) (f : Dbg → Dbg) : (s.modDbg f).ha = s.ha := rfl
@[simp] theorem State.modDbg_snw (s : State) (f : Dbg → Dbg) : (s.modDbg f).snw = s.snw := rfl
@[simp] theorem State.modDbg_gov (s : State) (f : Dbg → Dbg) : (s.modDbg f).gov = s.gov := rfl
@[simp] theorem State.modDbg_mcu (s : State) (f : Dbg → Dbg) : (s.modDbg f).mcu = s.mcu := rfl
@[simp] theorem State.modDbg_slc (s : State) (f : Dbg → Dbg) : (s.modDbg f).slc = s.slc := rfl
@[simp] theorem State.modDbg_rot (s : State) (f : Dbg → Dbg) : (s.modDbg f).rot = s.rot := rfl
@[simp] theorem State.modDbg_nvi (s : State) (f : Dbg → Dbg) : (s.modDbg f).nvi = s.nvi := rfl
@[simp] theorem State.modDbg_xts (s : State) (f : Dbg → Dbg) : (s.modDbg f).xts = s.xts := rfl
@[simp] theorem State.modDbg_cfg (s : State) (f : Dbg → Dbg) : (s.modDbg f).cfg = s.cfg := rfl
@[simp] theorem State.modDbg_pmu (s : State) (f : Dbg → Dbg) : (s.modDbg f).pmu = s.pmu := rfl
@[simp] theorem State.modDbg_dbg (s : State) (f : Dbg → Dbg) : (s.modDbg f).dbg = f s.dbg := rfl
@[simp] theorem State.modDbg_rcc (s : State) (f : Dbg → Dbg) : (s.modDbg f).rcc = s.rcc := rfl
@[simp] theorem State.modDbg_evr (s : State) (f : Dbg → Dbg) : (s.modDbg f).evr = s.evr := rfl
@[simp] theorem State.modDbg_glb (s : State) (f : Dbg → Dbg) : (s.modDbg f).glb = s.glb := rfl

@[simp] theorem State.modRcc_pending (s : State) (f : Rcc → Rcc) : (s.modRcc f).pending = s.pending := rfl
@[simp] theorem State.modRcc_dt (s : State) (f : Rcc → Rcc) : (s.modRcc f).dt = s.dt := rfl
@[simp] theorem State.modRcc_out (s : State) (f : Rcc → Rcc) : (s.modRcc f).out = s.out := rfl
@[simp] theorem State.modRcc_fresh (s : State) (f : Rcc → Rcc) : (s.modRcc f).fresh = s.fresh := rfl
@[simp] theorem State.modRcc_link (s : State) (f : Rcc → Rcc) : (s.modRcc f).link = s.link := rfl
@[simp] theorem State.modRcc_cqe (s : State) (f : Rcc → Rcc) : (s.modRcc f).cqe = s.cqe := rfl
@[simp] theorem State.modRcc_dsc (s : State) (f : Rcc → Rcc) : (s.modRcc f).dsc = s.dsc := rfl
@[simp] theorem State.modRcc_wc (s : State) (f : Rcc → Rcc) : (s.modRcc f).wc = s.wc := rfl
@[simp] theorem State.modRcc_dge (s : State) (f : Rcc → Rcc) : (s.modRcc f).dge = s.dge := rfl
@[simp] theorem State.modRcc_dxu (s : State) (f : Rcc → Rcc) : (s.modRcc f).dxu = s.dxu := rfl
@[simp] theorem State.modRcc_cpe (s : State) (f : Rcc → Rcc) : (s.modRcc f).cpe = s.cpe := rfl
@[simp] theorem State.modRcc_ftu (s : State) (f : Rcc → Rcc) : (s.modRcc f).ftu = s.ftu := rfl
@[simp] theorem State.modRcc_pxe (s : State) (f : Rcc → Rcc) : (s.modRcc f).pxe = s.pxe := rfl
@[simp] theorem State.modRcc_snap (s : State) (f : Rcc → Rcc) : (s.modRcc f).snap = s.snap := rfl
@[simp] theorem State.modRcc_ha (s : State) (f : Rcc → Rcc) : (s.modRcc f).ha = s.ha := rfl
@[simp] theorem State.modRcc_snw (s : State) (f : Rcc → Rcc) : (s.modRcc f).snw = s.snw := rfl
@[simp] theorem State.modRcc_gov (s : State) (f : Rcc → Rcc) : (s.modRcc f).gov = s.gov := rfl
@[simp] theorem State.modRcc_mcu (s : State) (f : Rcc → Rcc) : (s.modRcc f).mcu = s.mcu := rfl
@[simp] theorem State.modRcc_slc (s : State) (f : Rcc → Rcc) : (s.modRcc f).slc = s.slc := rfl
@[simp] theorem State.modRcc_rot (s : State) (f : Rcc → Rcc) : (s.modRcc f).rot = s.rot := rfl
@[simp] theorem State.modRcc_nvi (s : State) (f : Rcc → Rcc) : (s.modRcc f).nvi = s.nvi := rfl
@[simp] theorem State.modRcc_xts (s : State) (f : Rcc → Rcc) : (s.modRcc f).xts = s.xts := rfl
@[simp] theorem State.modRcc_cfg (s : State) (f : Rcc → Rcc) : (s.modRcc f).cfg = s.cfg := rfl
@[simp] theorem State.modRcc_pmu (s : State) (f : Rcc → Rcc) : (s.modRcc f).pmu = s.pmu := rfl
@[simp] theorem State.modRcc_dbg (s : State) (f : Rcc → Rcc) : (s.modRcc f).dbg = s.dbg := rfl
@[simp] theorem State.modRcc_rcc (s : State) (f : Rcc → Rcc) : (s.modRcc f).rcc = f s.rcc := rfl
@[simp] theorem State.modRcc_evr (s : State) (f : Rcc → Rcc) : (s.modRcc f).evr = s.evr := rfl
@[simp] theorem State.modRcc_glb (s : State) (f : Rcc → Rcc) : (s.modRcc f).glb = s.glb := rfl

@[simp] theorem State.modEvr_pending (s : State) (f : Evr → Evr) : (s.modEvr f).pending = s.pending := rfl
@[simp] theorem State.modEvr_dt (s : State) (f : Evr → Evr) : (s.modEvr f).dt = s.dt := rfl
@[simp] theorem State.modEvr_out (s : State) (f : Evr → Evr) : (s.modEvr f).out = s.out := rfl
@[simp] theorem State.modEvr_fresh (s : State) (f : Evr → Evr) : (s.modEvr f).fresh = s.fresh := rfl
@[simp] theorem State.modEvr_link (s : State) (f : Evr → Evr) : (s.modEvr f).link = s.link := rfl
@[simp] theorem State.modEvr_cqe (s : State) (f : Evr → Evr) : (s.modEvr f).cqe = s.cqe := rfl
@[simp] theorem State.modEvr_dsc (s : State) (f : Evr → Evr) : (s.modEvr f).dsc = s.dsc := rfl
@[simp] theorem State.modEvr_wc (s : State) (f : Evr → Evr) : (s.modEvr f).wc = s.wc := rfl
@[simp] theorem State.modEvr_dge (s : State) (f : Evr → Evr) : (s.modEvr f).dge = s.dge := rfl
@[simp] theorem State.modEvr_dxu (s : State) (f : Evr → Evr) : (s.modEvr f).dxu = s.dxu := rfl
@[simp] theorem State.modEvr_cpe (s : State) (f : Evr → Evr) : (s.modEvr f).cpe = s.cpe := rfl
@[simp] theorem State.modEvr_ftu (s : State) (f : Evr → Evr) : (s.modEvr f).ftu = s.ftu := rfl
@[simp] theorem State.modEvr_pxe (s : State) (f : Evr → Evr) : (s.modEvr f).pxe = s.pxe := rfl
@[simp] theorem State.modEvr_snap (s : State) (f : Evr → Evr) : (s.modEvr f).snap = s.snap := rfl
@[simp] theorem State.modEvr_ha (s : State) (f : Evr → Evr) : (s.modEvr f).ha = s.ha := rfl
@[simp] theorem State.modEvr_snw (s : State) (f : Evr → Evr) : (s.modEvr f).snw = s.snw := rfl
@[simp] theorem State.modEvr_gov (s : State) (f : Evr → Evr) : (s.modEvr f).gov = s.gov := rfl
@[simp] theorem State.modEvr_mcu (s : State) (f : Evr → Evr) : (s.modEvr f).mcu = s.mcu := rfl
@[simp] theorem State.modEvr_slc (s : State) (f : Evr → Evr) : (s.modEvr f).slc = s.slc := rfl
@[simp] theorem State.modEvr_rot (s : State) (f : Evr → Evr) : (s.modEvr f).rot = s.rot := rfl
@[simp] theorem State.modEvr_nvi (s : State) (f : Evr → Evr) : (s.modEvr f).nvi = s.nvi := rfl
@[simp] theorem State.modEvr_xts (s : State) (f : Evr → Evr) : (s.modEvr f).xts = s.xts := rfl
@[simp] theorem State.modEvr_cfg (s : State) (f : Evr → Evr) : (s.modEvr f).cfg = s.cfg := rfl
@[simp] theorem State.modEvr_pmu (s : State) (f : Evr → Evr) : (s.modEvr f).pmu = s.pmu := rfl
@[simp] theorem State.modEvr_dbg (s : State) (f : Evr → Evr) : (s.modEvr f).dbg = s.dbg := rfl
@[simp] theorem State.modEvr_rcc (s : State) (f : Evr → Evr) : (s.modEvr f).rcc = s.rcc := rfl
@[simp] theorem State.modEvr_evr (s : State) (f : Evr → Evr) : (s.modEvr f).evr = f s.evr := rfl
@[simp] theorem State.modEvr_glb (s : State) (f : Evr → Evr) : (s.modEvr f).glb = s.glb := rfl

@[simp] theorem State.modGlb_pending (s : State) (f : Glb → Glb) : (s.modGlb f).pending = s.pending := rfl
@[simp] theorem State.modGlb_dt (s : State) (f : Glb → Glb) : (s.modGlb f).dt = s.dt := rfl
@[simp] theorem State.modGlb_out (s : State) (f : Glb → Glb) : (s.modGlb f).out = s.out := rfl
@[simp] theorem State.modGlb_fresh (s : State) (f : Glb → Glb) : (s.modGlb f).fresh = s.fresh := rfl
@[simp] theorem State.modGlb_link (s : State) (f : Glb → Glb) : (s.modGlb f).link = s.link := rfl
@[simp] theorem State.modGlb_cqe (s : State) (f : Glb → Glb) : (s.modGlb f).cqe = s.cqe := rfl
@[simp] theorem State.modGlb_dsc (s : State) (f : Glb → Glb) : (s.modGlb f).dsc = s.dsc := rfl
@[simp] theorem State.modGlb_wc (s : State) (f : Glb → Glb) : (s.modGlb f).wc = s.wc := rfl
@[simp] theorem State.modGlb_dge (s : State) (f : Glb → Glb) : (s.modGlb f).dge = s.dge := rfl
@[simp] theorem State.modGlb_dxu (s : State) (f : Glb → Glb) : (s.modGlb f).dxu = s.dxu := rfl
@[simp] theorem State.modGlb_cpe (s : State) (f : Glb → Glb) : (s.modGlb f).cpe = s.cpe := rfl
@[simp] theorem State.modGlb_ftu (s : State) (f : Glb → Glb) : (s.modGlb f).ftu = s.ftu := rfl
@[simp] theorem State.modGlb_pxe (s : State) (f : Glb → Glb) : (s.modGlb f).pxe = s.pxe := rfl
@[simp] theorem State.modGlb_snap (s : State) (f : Glb → Glb) : (s.modGlb f).snap = s.snap := rfl
@[simp] theorem State.modGlb_ha (s : State) (f : Glb → Glb) : (s.modGlb f).ha = s.ha := rfl
@[simp] theorem State.modGlb_snw (s : State) (f : Glb → Glb) : (s.modGlb f).snw = s.snw := rfl
@[simp] theorem State.modGlb_gov (s : State) (f : Glb → Glb) : (s.modGlb f).gov = s.gov := rfl
@[simp] theorem State.modGlb_mcu (s : State) (f : Glb → Glb) : (s.modGlb f).mcu = s.mcu := rfl
@[simp] theorem State.modGlb_slc (s : State) (f : Glb → Glb) : (s.modGlb f).slc = s.slc := rfl
@[simp] theorem State.modGlb_rot (s : State) (f : Glb → Glb) : (s.modGlb f).rot = s.rot := rfl
@[simp] theorem State.modGlb_nvi (s : State) (f : Glb → Glb) : (s.modGlb f).nvi = s.nvi := rfl
@[simp] theorem State.modGlb_xts (s : State) (f : Glb → Glb) : (s.modGlb f).xts = s.xts := rfl
@[simp] theorem State.modGlb_cfg (s : State) (f : Glb → Glb) : (s.modGlb f).cfg = s.cfg := rfl
@[simp] theorem State.modGlb_pmu (s : State) (f : Glb → Glb) : (s.modGlb f).pmu = s.pmu := rfl
@[simp] theorem State.modGlb_dbg (s : State) (f : Glb → Glb) : (s.modGlb f).dbg = s.dbg := rfl
@[simp] theorem State.modGlb_rcc (s : State) (f : Glb → Glb) : (s.modGlb f).rcc = s.rcc := rfl
@[simp] theorem State.modGlb_evr (s : State) (f : Glb → Glb) : (s.modGlb f).evr = s.evr := rfl
@[simp] theorem State.modGlb_glb (s : State) (f : Glb → Glb) : (s.modGlb f).glb = f s.glb := rfl

@[simp] theorem State.setDt_pending (s : State) (t : Nat) : (s.setDt t).pending = s.pending := rfl
@[simp] theorem State.setDt_dt (s : State) (t : Nat) : (s.setDt t).dt = t := rfl
@[simp] theorem State.setDt_out (s : State) (t : Nat) : (s.setDt t).out = s.out := rfl
@[simp] theorem State.setDt_fresh (s : State) (t : Nat) : (s.setDt t).fresh = s.fresh := rfl
@[simp] theorem State.setDt_link (s : State) (t : Nat) : (s.setDt t).link = s.link := rfl
@[simp] theorem State.setDt_cqe (s : State) (t : Nat) : (s.setDt t).cqe = s.cqe := rfl
@[simp] theorem State.setDt_dsc (s : State) (t : Nat) : (s.setDt t).dsc = s.dsc := rfl
@[simp] theorem State.setDt_wc (s : State) (t : Nat) : (s.setDt t).wc = s.wc := rfl
@[simp] theorem State.setDt_dge (s : State) (t : Nat) : (s.setDt t).dge = s.dge := rfl
@[simp] theorem State.setDt_dxu (s : State) (t : Nat) : (s.setDt t).dxu = s.dxu := rfl
@[simp] theorem State.setDt_cpe (s : State) (t : Nat) : (s.setDt t).cpe = s.cpe := rfl
@[simp] theorem State.setDt_ftu (s : State) (t : Nat) : (s.setDt t).ftu = s.ftu := rfl
@[simp] theorem State.setDt_pxe (s : State) (t : Nat) : (s.setDt t).pxe = s.pxe := rfl
@[simp] theorem State.setDt_snap (s : State) (t : Nat) : (s.setDt t).snap = s.snap := rfl
@[simp] theorem State.setDt_ha (s : State) (t : Nat) : (s.setDt t).ha = s.ha := rfl
@[simp] theorem State.setDt_snw (s : State) (t : Nat) : (s.setDt t).snw = s.snw := rfl
@[simp] theorem State.setDt_gov (s : State) (t : Nat) : (s.setDt t).gov = s.gov := rfl
@[simp] theorem State.setDt_mcu (s : State) (t : Nat) : (s.setDt t).mcu = s.mcu := rfl
@[simp] theorem State.setDt_slc (s : State) (t : Nat) : (s.setDt t).slc = s.slc := rfl
@[simp] theorem State.setDt_rot (s : State) (t : Nat) : (s.setDt t).rot = s.rot := rfl
@[simp] theorem State.setDt_nvi (s : State) (t : Nat) : (s.setDt t).nvi = s.nvi := rfl
@[simp] theorem State.setDt_xts (s : State) (t : Nat) : (s.setDt t).xts = s.xts := rfl
@[simp] theorem State.setDt_cfg (s : State) (t : Nat) : (s.setDt t).cfg = s.cfg := rfl
@[simp] theorem State.setDt_pmu (s : State) (t : Nat) : (s.setDt t).pmu = s.pmu := rfl
@[simp] theorem State.setDt_dbg (s : State) (t : Nat) : (s.setDt t).dbg = s.dbg := rfl
@[simp] theorem State.setDt_rcc (s : State) (t : Nat) : (s.setDt t).rcc = s.rcc := rfl
@[simp] theorem State.setDt_evr (s : State) (t : Nat) : (s.setDt t).evr = s.evr := rfl
@[simp] theorem State.setDt_glb (s : State) (t : Nat) : (s.setDt t).glb = s.glb := rfl

@[simp] theorem State.setFresh_pending (s : State) (n : Nat) : (s.setFresh n).pending = s.pending := rfl
@[simp] theorem State.setFresh_dt (s : State) (n : Nat) : (s.setFresh n).dt = s.dt := rfl
@[simp] theorem State.setFresh_out (s : State) (n : Nat) : (s.setFresh n).out = s.out := rfl
@[simp] theorem State.setFresh_fresh (s : State) (n : Nat) : (s.setFresh n).fresh = n := rfl
@[simp] theorem State.setFresh_link (s : State) (n : Nat) : (s.setFresh n).link = s.link := rfl
@[simp] theorem State.setFresh_cqe (s : State) (n : Nat) : (s.setFresh n).cqe = s.cqe := rfl
@[simp] theorem State.setFresh_dsc (s : State) (n : Nat) : (s.setFresh n).dsc = s.dsc := rfl
@[simp] theorem State.setFresh_wc (s : State) (n : Nat) : (s.setFresh n).wc = s.wc := rfl
@[simp] theorem State.setFresh_dge (s : State) (n : Nat) : (s.setFresh n).dge = s.dge := rfl
@[simp] theorem State.setFresh_dxu (s : State) (n : Nat) : (s.setFresh n).dxu = s.dxu := rfl
@[simp] theorem State.setFresh_cpe (s : State) (n : Nat) : (s.setFresh n).cpe = s.cpe := rfl
@[simp] theorem State.setFresh_ftu (s : State) (n : Nat) : (s.setFresh n).ftu = s.ftu := rfl
@[simp] theorem State.setFresh_pxe (s : State) (n : Nat) : (s.setFresh n).pxe = s.pxe := rfl
@[simp] theorem State.setFresh_snap (s : State) (n : Nat) : (s.setFresh n).snap = s.snap := rfl
@[simp] theorem State.setFresh_ha (s : State) (n : Nat) : (s.setFresh n).ha = s.ha := rfl
@[simp] theorem State.setFresh_snw (s : State) (n : Nat) : (s.setFresh n).snw = s.snw := rfl
@[simp] theorem State.setFresh_gov (s : State) (n : Nat) : (s.setFresh n).gov = s.gov := rfl
@[simp] theorem State.setFresh_mcu (s : State) (n : Nat) : (s.setFresh n).mcu = s.mcu := rfl
@[simp] theorem State.setFresh_slc (s : State) (n : Nat) : (s.setFresh n).slc = s.slc := rfl
@[simp] theorem State.setFresh_rot (s : State) (n : Nat) : (s.setFresh n).rot = s.rot := rfl
@[simp] theorem State.setFresh_nvi (s : State) (n : Nat) : (s.setFresh n).nvi = s.nvi := rfl
@[simp] theorem State.setFresh_xts (s : State) (n : Nat) : (s.setFresh n).xts = s.xts := rfl
@[simp] theorem State.setFresh_cfg (s : State) (n : Nat) : (s.setFresh n).cfg = s.cfg := rfl
@[simp] theorem State.setFresh_pmu (s : State) (n : Nat) : (s.setFresh n).pmu = s.pmu := rfl
@[simp] theorem State.setFresh_dbg (s : State) (n : Nat) : (s.setFresh n).dbg = s.dbg := rfl
@[simp] theorem State.setFresh_rcc (s : State) (n : Nat) : (s.setFresh n).rcc = s.rcc := rfl
@[simp] theorem State.setFresh_evr (s : State) (n : Nat) : (s.setFresh n).evr = s.evr := rfl
@[simp] theorem State.setFresh_glb (s : State) (n : Nat) : (s.setFresh n).glb = s.glb := rfl

@[simp] theorem State.emit_pending (s : State) (x : Sent) : (s.emit x).pending = s.pending := rfl
@[simp] theorem State.emit_dt (s : State) (x : Sent) : (s.emit x).dt = s.dt := rfl
@[simp] theorem State.emit_out (s : State) (x : Sent) : (s.emit x).out = x :: s.out := rfl
@[simp] theorem State.emit_fresh (s : State) (x : Sent) : (s.emit x).fresh = s.fresh := rfl
@[simp] theorem State.emit_link (s : State) (x : Sent) : (s.emit x).link = s.link := rfl
@[simp] theorem State.emit_cqe (s : State) (x : Sent) : (s.emit x).cqe = s.cqe := rfl
@[simp] theorem State.emit_dsc (s : State) (x : Sent) : (s.emit x).dsc = s.dsc := rfl
@[simp] theorem State.emit_wc (s : State) (x : Sent) : (s.emit x).wc = s.wc := rfl
@[simp] theorem State.emit_dge (s : State) (x : Sent) : (s.emit x).dge = s.dge := rfl
@[simp] theorem State.emit_dxu (s : State) (x : Sent) : (s.emit x).dxu = s.dxu := rfl
@[simp] theorem State.emit_cpe (s : State) (x : Sent) : (s.emit x).cpe = s.cpe := rfl
@[simp] theorem State.emit_ftu (s : State) (x : Sent) : (s.emit x).ftu = s.ftu := rfl
@[simp] theorem State.emit_pxe (s : State) (x : Sent) : (s.emit x).pxe = s.pxe := rfl
@[simp] theorem State.emit_snap (s : State) (x : Sent) : (s.emit x).snap = s.snap := rfl
@[simp] theorem State.emit_ha (s : State) (x : Sent) : (s.emit x).ha = s.ha := rfl
@[simp] theorem State.emit_snw (s : State) (x : Sent) : (s.emit x).snw = s.snw := rfl
@[simp] theorem State.emit_gov (s : State) (x : Sent) : (s.emit x).gov = s.gov := rfl
@[simp] theorem State.emit_mcu (s : State) (x : Sent) : (s.emit x).mcu = s.mcu := rfl
@[simp] theorem State.emit_slc (s : State) (x : Sent) : (s.emit x).slc = s.slc := rfl
@[simp] theorem State.emit_rot (s : State) (x : Sent) : (s.emit x).rot = s.rot := rfl
@[simp] theorem State.emit_nvi (s : State) (x : Sent) : (s.emit x).nvi = s.nvi := rfl
@[simp] theorem State.emit_xts (s : State) (x : Sent) : (s.emit x).xts = s.xts := rfl
@[simp] theorem State.emit_cfg (s : State) (x : Sent) : (s.emit x).cfg = s.cfg := rfl
@[simp] theorem State.emit_pmu (s : State) (x : Sent) : (s.emit x).pmu = s.pmu := rfl
@[simp] theorem State.emit_dbg (s : State) (x : Sent) : (s.emit x).dbg = s.dbg := rfl
@[simp] theorem State.emit_rcc (s : State) (x : Sent) : (s.emit x).rcc = s.rcc := rfl
@[simp] theorem State.emit_evr (s : State) (x : Sent) : (s.emit x).evr = s.evr := rfl
@[simp] theorem State.emit_glb (s : State) (x : Sent) : (s.emit x).glb = s.glb := rfl

end Sys2Proof.Machine
end

