-- ==== Sys2Proof/Laws/Shared.lean ====
section
/-! SUPPORT. What the shared operations of Machine/Ops.lean do: tables, the transmitter, the judging of VC3 requests. -/

namespace Sys2Proof.Machine

open Sys2Proof

/-! ## Tables -/

@[simp] theorem tget_nil {α : Type} (n : Nat) : tget ([] : Tbl α) n = none := rfl

/-- A key just set reads as it was set. -/
@[simp] theorem tget_tput_self {α : Type} (t : Tbl α) (n : Nat) (v : α) : tget (tput t n v) n = some v := by
  induction t with
  | nil => simp [tput, tget]
  | cons p t ih =>
    obtain ⟨k, w⟩ := p
    unfold tput
    split
    · simp [tget]
    · split
      · simp [tget]
      · rename_i h1 h2
        simp [tget, Ne.symm h2, ih]

/-- Setting a key leaves every other one alone. -/
theorem tget_tput_ne {α : Type} (t : Tbl α) (n m : Nat) (v : α) (h : m ≠ n) : tget (tput t n v) m = tget t m := by
  induction t with
  | nil => simp [tput, tget, Ne.symm h]
  | cons p t ih =>
    obtain ⟨k, w⟩ := p
    unfold tput
    split
    · simp [tget, Ne.symm h]
    · split
      · rename_i h1 h2
        subst h2
        simp [tget, Ne.symm h]
      · simp [tget, ih]

/-- A key just removed is absent. -/
@[simp] theorem tget_tdel_self {α : Type} (t : Tbl α) (n : Nat) : tget (tdel t n) n = none := by
  induction t with
  | nil => rfl
  | cons p t ih =>
    unfold tdel at *
    by_cases h : p.1 = n
    · simpa [List.filter_cons, h] using ih
    · simp [h, tget, ih]

/-- Removing a key leaves every other one alone. -/
theorem tget_tdel_ne {α : Type} (t : Tbl α) (n m : Nat) (h : m ≠ n) : tget (tdel t n) m = tget t m := by
  induction t with
  | nil => rfl
  | cons p t ih =>
    unfold tdel at *
    by_cases hp : p.1 = n
    · simp [hp, tget, Ne.symm h, ih]
    · simp [hp, tget, ih]

/-- Changing a key's entry: there when it was there. -/
theorem tget_tmod_self {α : Type} (t : Tbl α) (n : Nat) (f : α → α) : tget (tmod t n f) n = (tget t n).map f := by
  unfold tmod
  cases h : tget t n <;> simp [h]

theorem tget_tmod_ne {α : Type} (t : Tbl α) (n m : Nat) (f : α → α) (h : m ≠ n) : tget (tmod t n f) m = tget t m := by
  unfold tmod
  cases tget t n
  · rfl
  · exact tget_tput_ne _ _ _ _ h

/-! ## Lanes and ports -/

@[simp] theorem State.modLane_lane (s : State) (n : Nat) (f : Lane → Lane) : (s.modLane n f).link.lane n = f (s.link.lane n) := by
  simp [State.modLane, State.modLink, Link.lane, tgetD]

theorem State.modLane_lane_ne (s : State) (n k : Nat) (f : Lane → Lane) (h : k ≠ n) : (s.modLane n f).link.lane k = s.link.lane k := by
  simp [State.modLane, State.modLink, Link.lane, tgetD, tget_tput_ne _ _ _ _ h]

@[simp] theorem State.modPort_port (s : State) (p : PortId) (f : Port → Port) : (s.modPort p f).link.port p = f (s.link.port p) := by
  simp [State.modPort, State.modLink, Link.port, tgetD]

@[simp] theorem State.modPort_lane (s : State) (p : PortId) (n : Nat) (f : Port → Port) : (s.modPort p f).link.lane n = s.link.lane n := rfl

@[simp] theorem State.modPort_out (s : State) (p : PortId) (f : Port → Port) : (s.modPort p f).out = s.out := rfl

/-! ## The transmitter -/

theorem sendFlits_txq (q : Port) (vc : Nat) (it : TxItem) (k : Nat) : (sendFlits q vc it k).txq = q.txq := by
  induction k generalizing q with
  | zero => rfl
  | succ k ih => rw [sendFlits, ih]

/-- Sending part of a queued message: sent whole and logged, or kept with fewer flits. -/
theorem State.sendItem_spec (s : State) (p : PortId) (it : TxItem) :
    ((s.sendItem p it).1 = none ∧ (s.sendItem p it).2.out = it.item :: s.out ∨
      (∃ it', (s.sendItem p it).1 = some it' ∧ it'.item = it.item) ∧ (s.sendItem p it).2.out = s.out) ∧
    ((s.sendItem p it).2.link.port p).txq = (s.link.port p).txq := by
  unfold State.sendItem
  extract_lets k s'
  have hp : (s'.link.port p).txq = (s.link.port p).txq := by
    simp only [s']; split
    · rfl
    · simp [sendFlits_txq]
  have ho : s'.out = s.out := by simp only [s']; split <;> rfl
  split
  · exact ⟨.inl ⟨rfl, by simp [ho]⟩, by simpa using hp⟩
  · exact ⟨.inr ⟨⟨_, rfl, rfl⟩, ho⟩, hp⟩

/-- What the transmitter does to its queue: every message is either sent and logged or kept. -/
theorem State.pumpList_spec (s : State) (p : PortId) (blocked : List Nat) (kept items : List TxItem) (x : Sent) :
    (s.pumpList p blocked kept items).2.out.count x + ((s.pumpList p blocked kept items).1.map (·.item)).count x =
      s.out.count x + (kept.map (·.item)).count x + (items.map (·.item)).count x := by
  induction items generalizing s blocked kept with
  | nil => simp [State.pumpList]
  | cons it rest ih =>
    unfold State.pumpList
    split
    · rw [ih]; simp [List.count_cons]; omega
    · have hs := (s.sendItem_spec p it).1
      split
      · rename_i heq
        rw [heq] at hs
        rcases hs with ⟨-, h⟩ | ⟨⟨_, h, _⟩, _⟩
        · simp only at h; rw [ih, h]; simp [List.count_cons]; omega
        · cases h
      · rename_i heq
        rw [heq] at hs
        rcases hs with ⟨h, -⟩ | ⟨⟨_, h, hi⟩, ho⟩
        · cases h
        · cases h; simp only at ho; rw [ih, ho]; simp [List.count_cons, hi]; omega

/-- Pumping neither makes nor loses a message. -/
theorem State.given_pump (s : State) (p : PortId) (x : Sent) : (s.pump p).given p x = s.given p x := by
  unfold State.pump State.given
  extract_lets r
  have h := s.pumpList_spec p [] [] (s.link.port p).txq x
  simpa using h

/-- A message given to a port is sent or queued, once; every other count is as it was. -/
theorem State.given_transmit (s : State) (p : PortId) (vc : Nat) (x y : Sent) :
    (s.transmit p vc x).given p y = s.given p y + if x = y then 1 else 0 := by
  unfold State.transmit
  rw [State.given_pump]
  unfold State.given
  by_cases h : x = y <;> simp [List.count_append, h] <;> omega

/-! ## VC3 requests -/

theorem State.hostPort_val (p : Fin 16) : hostPort p.val = .host p := by
  unfold hostPort; congr 1; exact Fin.ext (by simp [Fin.ofNat, Nat.mod_eq_of_lt p.isLt])

/-- A request that passes R499 is carried out, by its session, on the state in which its arrival is noted. -/
theorem State.vc3_accepts (s : State) (m : Vc3) (typ : Nat) (free : Bool) (priv : Nat) (act : Session → State → State) (x : Session)
    (h : s.accepts m typ free priv x) : s.vc3 m typ free true priv act = act x (s.heard m) := by
  obtain ⟨h1, h2, h3, h4, h5, h6, h7, h8⟩ := h
  unfold State.vc3 State.heard
  rw [h1]
  have hv : verdict x m free true priv = .accept := by
    unfold verdict
    have h6' : ¬ x.privilege < priv := by omega
    simp only [h2, h3, h4, h6', h7]
    cases hq : x.quarantined with
    | false => simp
    | true => simp [h5 hq]
  have he : ¬ ((s.modSession m.sess.toNat fun x => { x with lastAt := s.dt }).rot.lifecycle = .ended ∧ (!endServes typ) = true) := by
    rintro ⟨he, hn⟩
    have := h8 he
    simp [this] at hn
  simp only [he, if_false, hv]

/-- A register write that passes R499 and has the register's privilege acts and is answered. -/
theorem State.regWrite_writes (s : State) (m : Vc3) (off priv : Nat) (act : State → State) (x : Session) (h : s.writes m priv x) :
    s.regWrite m off priv act = (act (s.heard m)).answer m 0x31 stSuccess [] := by
  unfold State.regWrite
  rw [s.vc3_accepts m _ _ _ _ x h.1]
  have : ¬ x.privilege < priv := by have := h.2; omega
  simp [this]

/-- The count of what was given depends on the log of what was sent and on the link alone. -/
theorem State.given_congr (s u : State) (ho : u.out = s.out) (hl : u.link = s.link) (p : PortId) (x : Sent) : u.given p x = s.given p x := by
  unfold State.given; rw [ho, hl]

/-- Answering gives the answer to the port of the request once. -/
theorem State.answer_answers (s u : State) (ho : u.out = s.out) (hl : u.link = s.link) (m : Vc3) (typ status : Nat) (body : Bytes) :
    s.answers (u.answer m typ status body) m typ status body := by
  unfold State.answers State.answer State.answerTo
  intro a
  rw [State.given_transmit, State.given_congr s (u.modSession _ _) ho hl]
  simp [a]

end Sys2Proof.Machine
end

