-- ==== Sys2Proof/Laws/Lanes.lean ====
section
/-! SUPPORT. What a lane's change of state does (R50): the lane enters the state, and no other lane changes. -/

namespace Sys2Proof.Machine

open Sys2Proof

/-- Losing, regaining and restarting a port leave every lane as it is. -/
theorem State.portDown_lane (s : State) (p : PortId) (k : Nat) : (s.portDown p).link.lane k = s.link.lane k := by
  apply State.portDown_frame (fun s => s.link.lane k) <;> first | exact fun _ _ => rfl | exact fun _ _ _ => rfl

theorem State.restartPort_lane (s : State) (p : PortId) (k : Nat) : (s.restartPort p).link.lane k = s.link.lane k := by
  apply State.restartPort_frame (fun s => s.link.lane k) <;> exact fun _ _ _ => rfl

theorem State.portBack_lane (s : State) (p : PortId) (k : Nat) : (s.portBack p).link.lane k = s.link.lane k := by
  apply State.portBack_frame (fun s => s.link.lane k) <;>
    first | exact fun _ _ => rfl | exact fun _ _ _ => rfl | exact fun _ _ h => by simp [Link.lane, h]

theorem State.laneEvent_lane (s : State) (n : Nat) (a b : LaneSt) (c k : Nat) : (s.laneEvent n a b c).link.lane k = s.link.lane k :=
  State.laneEvent_frame (fun s => s.link.lane k) (fun _ _ => rfl) s n a b c

/-- A lane enters another state: it is as `Lane.enters` says, and no other lane changes. -/
theorem State.setLane_lane (s : State) (n : Nat) (st : LaneSt) (cause k : Nat) (h : (s.link.lane n).st ≠ st) :
    (s.setLane n st cause).link.lane k = if k = n then (s.link.lane n).enters s.dt st cause else s.link.lane k := by
  have key : (s.setLane n st cause).link.lane k =
      ((s.laneEvent n (s.link.lane n).st st cause).modLane n (Lane.enters s.dt st cause)).link.lane k := by
    unfold State.setLane
    rw [if_neg h]
    cases hw : s.link.laneOwner n with
    | none => rfl
    | some p =>
      dsimp only
      split <;> split <;> split <;> simp only [State.portBack_lane, State.restartPort_lane, State.portDown_lane]
  rw [key]
  by_cases hk : k = n
  · subst hk; rw [State.modLane_lane, State.laneEvent_lane, if_pos rfl]
  · rw [State.modLane_lane_ne _ _ _ _ hk, State.laneEvent_lane, if_neg hk]

end Sys2Proof.Machine
end

