-- ==== Sys2Proof/Tests/Slice0.lean ====
section
/-! SUPPORT. Tests: ill-formed terms that each check of WellFormed refuses; one step of commands on small states, with results taken
from the spec's rules; and for each clause of the statements a state and operands that meet its hypotheses (`witness_…`). -/

set_option linter.unusedVariables false
set_option maxRecDepth 20000

namespace Sys2Proof.Tests

open Sys2Proof Sys2Proof.Machine

/-! ## Small states -/

/-- A session of privilege 3 on host port 0, number 1; a request of it. -/
def tX : Session := { port := 0, privilege := 3, anchor := 0, lastAt := 0 }
def tM : Vc3 := ⟨0, 1, 7, 0, true, true⟩
def tSes (x : Session) : Cqe := { sessions := [(1, x)] }
def tS : State := { cqe := tSes tX }
def tRun : Rcc := { hold := .run }

/-- One lane in a state. -/
def tLane (n : Nat) (st : LaneSt) : State := { link := { lanes := [(n, { st := st })] } }

/-- The peer port up, with its port record. -/
def tPeer (p : Port) : Link := { lanes := [(128, { st := .active })], ports := [(16, p)] }

/-- Host port 0 up, with its port record. -/
def tHost (p : Port) : Link := { lanes := [(0, { st := .active })], ports := [(0, p)], splits := [.x4] }

/-- Volume 5 of group 3 in pool 0, READY. -/
def tVol : VolumeRec := ⟨1, 1024, 0, 3, none, none, none, 0, 0, 1⟩
def tCfg : Cfg := { epoch := 1, recs := [⟨0x15, true, 5, some (.volume tVol)⟩], volumes := [(5, .ready)] }
def tHa : Ha := { leases := [(3, { view := 1 })], role := .active }

/-- Queue pair 2 of the session, class 0, depth 8; a command entry for one sector at LBA 0; a command in the ring. -/
def tQp : Qp := { sess := 1, port := 0, cls := 0, depth := 8 }
def tEntry : CmdEntry := ⟨0, 9, 5, 0, 1, 0, List.replicate 10 0⟩
def tCmdIn : HostCmd := ⟨0, 2, tEntry⟩
def tCmd : Cmd := { qp := 2, cid := 9, port := 0, sess := 1, opc := 1, vol := 5, lba := 0, nsect := 1, cls := 0, start := 0 }
def tRing (cs : List Cmd) : Cqe := { sessions := [(1, tX)], qps := [(2, tQp)], cmds := cs }
def tHead : State := { cqe := tRing [], cfg := tCfg, ha := tHa, pmu := { pstate := .p0 }, rcc := tRun, link := tHost {} }

/-- A media operation in flight under tag 4 at position 8, die 0, which is this head's. -/
def tOp (opc arg : Nat) (w : Work) : MediaOp := { pos := 8, die := 0, opc := opc, addr := 0, arg := arg, work := w, issuedAt := 0, deadline := 0 }
def tFly (o : MediaOp) : Link := { ops := [(4, o)], nextTag := 5 }
def tDies : Ftu := { dies := [(2048, { own := true })] }
def tHdr : RecHdr := ⟨true, 0⟩

/-- A frame of grain 0 of volume 5, both sectors committed. -/
def tDesc : Desc := ⟨5, 0, 3, 3, 1, 1, 0, 0⟩
def tFrame : Frame := { desc := tDesc, st := .dirty, data := [[], []] }

/-- An image that passes R395, and a completion. -/
def tRec (t : Nat) : ImageRec := ⟨t, 16, [], [], 16, true⟩
def tImage : Image := ⟨true, 0, 0, 0, 64, true, true, [], requiredTypes.map tRec, List.replicate 8 .x4, [], [], [128], ⟨12, 1, 32, 2, false, true, true⟩,
  [0x20], 700, 820, 0, ⟨0, 0, 0, 0, 0, 0, 0, 0⟩, [], [], none⟩
def tDone : Completion := ⟨9, 2, 0, 0, 0, 0, 0, 0, 0, 1⟩
def tResv (k : ResvKind) (w : Work) : Resv := { num := 1, die := 2048, start := 0, stop := 100, kind := k, work := w }

/-- The command that a decision admits. -/
def admitted? : Decision × State → Option Cmd
  | (.admitted c, _) => some c
  | _ => none

theorem admitted?_eq (d : Decision × State) (h : (admitted? d).isSome = true) : d = (.admitted ((admitted? d).getD tCmd), d.2) := by
  obtain ⟨a, u⟩ := d
  cases a <;> simp_all [admitted?]

/-- A flit under its own CRC is whole. -/
def sealed (f : Flit) : Flit := { f with crc := crc64 (flitCovered f) }

theorem sealed_whole (f : Flit) (h1 : f.fecOk = true) (h2 : f.payload.length = 240) : flitWhole (sealed f) false = true := by
  have h : flitCovered (sealed f) = flitCovered f := rfl
  have hp : (sealed f).payload = f.payload := rfl
  have hf : (sealed f).fecOk = f.fecOk := rfl
  have hc : (sealed f).crc = crc64 (flitCovered f) := rfl
  simp [flitWhole, h, hp, hf, hc, h1, h2]

/-- A whole MSG flit. -/
def tFlit (vc : BitVec 3) (seq : BitVec 10) : Flit :=
  sealed ⟨1, vc, true, seq, 0, false, 0, 0, List.replicate 240 0, 0, true, true⟩

theorem tFlit_whole (vc : BitVec 3) (seq : BitVec 10) : flitWhole (tFlit vc seq) false = true :=
  sealed_whole _ rfl (List.length_replicate ..)

/-- A SOLO head with room in its cache. -/
def tSolo : State := { tHead with wc := { mirrorSt := .solo, limit := 64, sizeGib := 16 } }

/-- The head with the class 7 queue in use, and the peer's forwarded command in its ring. -/
def tWait : State := { tHead with cqe := tRing [{ tCmd with waiting7 := true, cls := 7 }] }
def tTwo : State := { tHead with link := { lanes := [(0, { st := .active }), (128, { st := .active })], splits := [.x4] } }
def tFwd : State × Cmd := tTwo.peerRinged 2 1 tEntry 0 16 false

/-- It is admitted whatever its class, which is a free value. -/
theorem tFwd_any (n : Fin 8) : (admitted? (tFwd.1.intake.2.judge { tFwd.2 with cls := n.val })).isSome = true := by
  revert n
  decide

theorem tFwd_admitted : (admitted? (tFwd.1.intake.2.judge tFwd.2)).isSome = true :=
  tFwd_any ⟨tTwo.freeNat 3, (Config.freeValue 3 tTwo.fresh).isLt⟩

/-- Writes of one sector: with one flit to come, and with a copy at the peer. -/
def tWrite : Cmd := { tCmd with opc := 2, expect := 18, got := 17, admitted := true, frames := [(0, 1)] }
def tAck : Cmd := { tCmd with opc := 2, expect := 18, got := 18, admitted := true, frames := [(0, 1)], acks := [(0, 1)] }
def tPend : Frame := { tFrame with st := .filling, pend := [(2, 9, 1, [])] }

def tSeg (st : SegSt) : Segment := { pool := 0, headB := false, seq := 3, block := 6, st := st, erasing := [2048] }
def tStripe : Stripe := { num := 1, pool := 0, headB := false, segSeq := 3, stripe := 0, k := 6, left := [(2, 2048, 0), (3, 2049, 0)] }
def tStream : StreamCtx := { st := .running, offered := some (none, []) }
def tDom (st : DomSt) : Domain := { pool := 0, group := 3, capLog2 := 10, verify := true, st := st }
def tMem : State := { mcu := { chSt := List.replicate 12 .ready } }

/-- A read of a stored grain of volume 5 (raw; its slots empty, so that no cipher has to be evaluated) on the die of `tOp`, the second grain of the command still to come. -/
def tKey : Bytes := List.replicate 64 0
def tPlain : Bytes := []
def tGHdr : GrainHdr := ⟨0x4D, 7, 3, 0, 0, 0, 0, 0, 0, 0, 0x2A8ADAD2⟩
def tStored : Bytes := hdrAll tGHdr
def tPart : Part := { grain := 1, sectors := [], path := 1, result := none, data := [] }
def tGets : Cmd := { tCmd with nsect := 4, parts := [tPart, tPart] }
def tFetch : Fetch := { num := 6, work := .hostRead 2 9 0, die := 2048, chunk := 0, unit := 0, units := 1, path := 1, waits := 1 }
def tGet : State := { tHead with
  link := tFly (tOp mRead 0 (.fetch 6)), cqe := tRing [tGets], ftu := { tDies with fetches := [tFetch] }, xts := { keys := [(4096, tKey)] } }

theorem ok_of_beq (e : Except DecErr Bytes) (p : Bytes) (h : (match e with | .ok b => b == p | .error _ => false) = true) : e = .ok p := by
  cases e with
  | ok b => exact congrArg _ (eq_of_beq h)
  | error _ => cases h

theorem openGrain_eq (s : State) (v : Nat) (data body k : Bytes) (h : GrainHdr) (hk : tget s.xts.keys (s.dataSlot v) = some k)
    (hh : hdrOf data = h) (hb : data.drop 32 = body) : s.openGrain v data = some (h, xtsCrypt false k h.serial.toNat body) := by
  simp [State.openGrain, hk, hh, hb]

theorem tPlain_decodes : tGet.decodeGrain 5 tGHdr tPlain = .ok tPlain := ok_of_beq _ _ (by decide +kernel)

def tDec : State := { tGet with cpe := { decodes := [⟨6, 2, 9, 0, tGHdr, tPlain, 0, some 47, 5⟩] } }

theorem tDec_decodes : tDec.decodeGrain 5 tGHdr tPlain = .ok tPlain := ok_of_beq _ _ (by decide +kernel)

theorem tStored_opens : tGet.openGrain 5 tStored = some (tGHdr, tPlain) :=
  openGrain_eq tGet 5 tStored [] tKey tGHdr (by decide) (by decide +kernel) (by decide +kernel)

theorem tStored_raw : tGet.storedRaw 5 tStored tPlain := ⟨tGHdr, tPlain, tStored_opens, rfl, rfl, tPlain_decodes⟩

/-- A configuration staged by session 1: the ARRAY record alone, committed under epoch 1. -/
def tArray : CfgRec := ⟨1, true, 0, some (.array 1 0 [])⟩
def tModule : CfgRec := ⟨0x11, true, 8, some (.module 1 0 0 192 false)⟩
def tCommit : CommitRec := ⟨1, 0, 1, 0, true, true, true⟩
def tStage : Staging := { sess := 1, epoch := 1, base := 0, len := 64, off := 0, recs := [tArray], lastAt := 0 }
def tOffered : Staging := { tStage with commit := some (tCommit, 0, 7), offeredAt := some 0 }

def tPacked : Packed := { frame := some 0, vol := 5, grain := 0, gen := 1, hdr := tGHdr, slots := [], member := 0, slot := 1 }
def tCell : Cell := { pool := 15, die := 2048, chunk := 0, segSeq := 0, stripe := 0, member := 0, critical := false, kind := 0 }
def tJob : Job := { role := 1, vol := 5, snapA := 0, snapB := 0, portal := 6, block := 64, negotiate := false }
def tVolt : State := { rcc := tRun, rot := { image := some tImage }, glb := { avsRun := true } }

/-- A survivor whose failback conditions hold. -/
def tReady : State := {
  ha := { role := .survivor, peerRole := .standby, plkSilent := false, mboxSilent := false, stableAt := some 0 }
  wc := { mirrorSt := .mirrored }
  rot := { image := some tImage } }


/-! ## Ill-formed commands: one for each check of WellFormed, and a well-formed one -/

def badEntry : CmdEntry := ⟨0, 9, 5, 0, 1, 0, List.replicate 9 0⟩
def badCmd : HostCmd := ⟨0, 2, badEntry⟩
def badFlit : Flit := ⟨1, 0, true, 0, 0, false, 0, 0, List.replicate 241 0, 0, true, true⟩

theorem test_wf_entry : [Instr.read tCmdIn, .write tCmdIn, .flush tCmdIn, .zeroRange tCmdIn, .compare tCmdIn, .compareAndWrite tCmdIn,
  .verify tCmdIn, .abort tCmdIn, .commandInvalidOpcode tCmdIn 99, .forwardedCommand 2 1 tEntry 0 16 false].all Instr.wf = true := by decide
theorem test_wf_short_entry_refused : [Instr.read badCmd, .write badCmd, .flush badCmd, .zeroRange badCmd, .compare badCmd,
  .compareAndWrite badCmd, .verify badCmd, .abort badCmd, .commandInvalidOpcode badCmd 99, .forwardedCommand 2 1 badEntry 0 16 false].any
  Instr.wf = false := by decide
theorem test_wf_forwarded_lanes_refused : (Instr.forwardedCommand 2 1 tEntry 0 17 false).wf = false := by decide
theorem test_wf_flit_payload_refused : (Instr.msgFlitReceived .peer 128 badFlit).wf = false := by decide
theorem test_wf_lctl_credits_refused : (Instr.lctlFlitReceived .peer ⟨true, List.replicate 5 0, none, none⟩).wf = false := by decide
theorem test_wf_param_credits_refused : (Instr.paramComplete 0 ⟨false, List.replicate 7 0, false, true⟩).wf = false := by decide
theorem test_wf_csr_words_refused : (Instr.csrWrite tM 0 (List.replicate 65 0)).wf = false := by decide
theorem test_wf_data_payload_refused : (Instr.dataFlitReceived (.host 0) 2 9 (List.replicate 241 0)).wf = false := by decide
theorem test_wf_settle_die_refused : (Instr.settleEnd 192).wf = false := by decide
theorem test_wf_fail_die_refused : (Instr.dieFailTimeout 24576).wf = false := by decide
theorem test_wf_mirror_sector_refused : (Instr.mirrorCopy 0 tDesc true [List.replicate 4095 0]).wf = false := by decide
theorem test_wf_member_pos_refused : (Instr.memberState tHdr 96 0 0).wf = false := by decide
theorem test_wf_member_pool_refused : (Instr.memberState tHdr 8 16 0).wf = false := by decide
theorem test_wf_lease_record_refused : (Instr.leaseLost 258).wf = false := by decide
theorem test_wf_handover_refused : (Instr.handoverDrained 256).wf = false := by decide
theorem test_wf_partition_refused : (Instr.partitionRefilled 4096 0).wf = false := by decide
theorem test_wf_corrected_rank_refused : (Instr.dramCorrected 0 4).wf = false := by decide
theorem test_wf_uncorrectable_rank_refused : (Instr.dramUncorrectable 0 4 0 1 0).wf = false := by decide
theorem test_wf_region_low_refused : (Instr.dramUncorrectable 0 0 0 0 0).wf = false := by decide
theorem test_wf_region_high_refused : (Instr.dramUncorrectable 0 0 0 15 0).wf = false := by decide
theorem test_wf_nonce_refused : (Instr.attest tM (List.replicate 31 0)).wf = false := by decide
theorem test_wf_holds : (Instr.dramUncorrectable 11 3 0 14 0).wf && (Instr.settleEnd 24511).wf && (Instr.leaseLost 257).wf = true := by decide

/-! ## The spec's worked examples -/

/-- The check values of R39 and R202 over "123456789". -/
def digits : Bytes := [0x31, 0x32, 0x33, 0x34, 0x35, 0x36, 0x37, 0x38, 0x39]
theorem test_crc64_check_value : crc64 digits = 0x62EC59E3F1A4F00A := by decide
theorem test_crc32c_check_value : crc32c digits = 0xE3069283 := by decide

/-- The example of R264: k = 16, members 0 to 2 hold 0x11, 0x22 and 0x80. -/
def parityData : List (Nat × Bytes) := [(0, [0x11]), (1, [0x22]), (2, [0x80])] ++ (List.range 13).map fun j => (j + 3, [0])
def parityGot : List (Nat × Bytes) := [(0, [0x11])] ++ (List.range 13).map (fun j => (j + 3, [0])) ++ [(16, [0xB3]), (17, [0x6F])]
theorem test_parity_example : parityP parityData = [0xB3] ∧ parityQ parityData = [0x6F] := by decide
theorem test_recovery_example : recover 16 1 parityGot = some [0x22] ∧ recover 16 2 parityGot = some [0x80] := by decide

/-- The example of R203: 8,192 zero bytes in ten coded bytes, and its damaged forms. -/
def zerosCoded (fill lo dist : Byte) : Bytes := [0, 0, 0, fill, lo, 0x9F, dist, 0, 0, 0xC0]
def decodesTo (coded : Bytes) (e : DecErr) : Bool := match milletDecode [] none none 8192 coded with | .error f => f == e | .ok _ => false
theorem test_millet_illegal_code : decodesTo (zerosCoded 1 0xFC 1) .illegal = true := by decide
theorem test_millet_distance : decodesTo (zerosCoded 0 0xFC 2) .distance = true := by decide
theorem test_millet_overrun : decodesTo (zerosCoded 0 0xFD 1) .overrun = true := by decide
theorem test_millet_truncated : (match milletDecode [] none none 8 [0, 0, 0, 0, 4, 0x80, 1, 0] with
  | .error f => f == .truncated | .ok _ => false) = true := by decide
theorem test_millet_zeros : (match milletDecode [] none none 8 [0, 0, 0, 0, 4, 0x80, 1, 0, 0, 0xC0] with
  | .ok r => r.1 == List.replicate 8 0 | .error _ => false) = true := by decide

/-- A calendar frame is 20 us (R117); a second of the device time is 10^9 ns. -/
theorem test_calendar_frames : frameOf 60000 = 3 ∧ frameOf 79999 = 3 ∧ frameOf 80000 = 4 := by decide
theorem test_seconds : secOf 5999999999 = 5 ∧ secOf 6000000000 = 6 := by decide

/-- The example of R102: a class 1 READ of 16 sectors is bound to 412 us. -/
theorem test_bound_example : boundNs [⟨200, 200, 0⟩, ⟨400, 400, 0⟩] 1 opRead 16 = some 412000 := by decide
theorem test_class7_has_no_bound : boundNs [] 7 opRead 16 = none := by decide

/-- A band of W = 18 over 24 modules: 3 lines of 4 stripes (R268). -/
theorem test_band : bandLines 18 24 = 3 ∧ bandStripes 18 24 = 4 := by decide

/-! ## One step -/

/-- What holds after one command. -/
def after (c : Instr) (s : State) (p : State → Bool) : Bool := match exec c s with | .next t => p t | _ => false

theorem test_no_word_spells_a_command : decodeTableWord 32 5 = none := by decide
theorem test_idle_step_is_one_tick : (match step State.reset with | .next t => t.dt == 1 | _ => false) = true := by decide
theorem test_front_command_first : (match step { tLane 40 .detect with pending := [.signalDetected 40, .laneEnabled 40 false] } with
  | .next t => t.pending == [.laneEnabled 40 false] | _ => false) = true := by decide

/-- R50: DETECT to EQ at a signal; the limit of EQ is 20 ms. -/
theorem test_signal_starts_training : after (.signalDetected 40) (tLane 40 .detect) (fun t => (t.link.lane 40).st == .eq) = true := by decide
theorem test_signal_ignored_elsewhere : after (.signalDetected 40) (tLane 40 .lock) (fun t => (t.link.lane 40).st == .lock) = true := by decide
theorem test_eq_timeout_at_its_limit : after (.eqTimeout 40) (tLane 40 .eq) (fun t => t.dt == 20000000 && (t.link.lane 40).st == .down) = true := by
  decide

/-- The device time starts at 0 at a chip release (R445). -/
theorem test_chip_release_zeroes_time : after (.chipRelease ⟨false, 0, false⟩ 0 none [] []) { State.reset with dt := 7000 } (fun t => t.dt == 0) = true := by
  decide

/-- A FLUSH with nothing outstanding completes SUCCESS under its CID (R84). -/
theorem test_flush_succeeds : after (.flush ⟨0, 2, { tEntry with nsect := 0 }⟩) tHead (fun t => t.cqe.ready.any fun r => r.2.status == 0 && r.2.cid == 9) = true := by decide

/-- SESSION_CLOSE with nothing outstanding ends the session (R69). -/
theorem test_session_closes : after (.sessionClose tM) { cqe := tSes tX, rcc := tRun, link := tHost {} }
  (fun t => t.cqe.sessions.all (fun x => x.1 != 1 || x.2.closing.isSome)) = true := by decide

/-- R331: with neither feed the island loses the hold; with one of two feeds it keeps it. -/
theorem test_island_dark : after (.islandFeed false false) { snw := { vstby := true }, rcc := { fenceHold := true } } (fun t => !t.rcc.fenceHold) = true := by decide
theorem test_island_one_feed : after (.islandFeed true false) { snw := { vstby := true, psb := true }, rcc := { fenceHold := true } } (fun t => t.rcc.fenceHold) = true := by decide

/-- R446: a core watchdog asks for a warm reset, and is halted at debug level 2. -/
theorem test_core_watchdog : after (.coreWatchdog 2 5) tHead (fun t => t.rcc.hold != .run) = true := by decide
theorem test_core_watchdog_halted : after (.coreWatchdog 2 5) { tHead with dbg := { level := 2 } } (fun t => t.rcc.hold == .run) = true := by decide

/-- R447: a thermal trip holds the chip until the reset pin has been asserted. -/
theorem test_thermal_trip : after (.thermalTrip 3 131) tHead (fun t => t.rcc.trip && !t.rcc.tripReset) = true := by decide

/-- RCC_SWRST acts on its key alone. -/
theorem test_cold_reset_needs_key : after (.swColdReset tM 1) tHead (fun t => t.rcc.hold == .run) = true := by decide

/-- R327: a lease granted at DT 2,000,000 is lost 150 ms later. -/
theorem test_lease_lost : after (.leaseLost 3) { tHead with ha := { tHa with leases := [(3, { view := 1, sentAt := some 2000000 })] } }
  (fun t => t.dt == 152000000) = true := by decide

/-- The I3C target NACKs an offset that cannot be read (log entry 98). -/
theorem test_i3c_hole : after (.i3cSetOffset 0x00F00000) { glb := { i3cUp := true } } (fun t => t.glb.i3cOff == 0) = true := by decide

/-! ## For each clause of the statements, a state and operands that meet its hypotheses -/

/-! StepRunsTheFrontCommand -/

theorem witness_StepRunsTheFrontCommand_2 : ∃ (s : State),
    s.pending = [] :=
  ⟨State.reset, by decide⟩

/-! FusesNeverGoBack -/

theorem witness_FusesNeverGoBack_1 : ∃ (s : State) (t : State),
    s.FusesFit ∧ step s = .next t :=
  ⟨State.reset, { State.reset with dt := 1 }, ⟨by unfold State.FusesFit; decide, rfl⟩⟩

/-! LanesTrainStateByState -/

theorem witness_LanesTrainStateByState_1 : ∃ (lane : Fin 144) (s : State),
    (s.link.lane lane.val).st = LaneSt.detect :=
  ⟨40, tLane 40 .detect, by decide⟩

theorem witness_LanesTrainStateByState_2 : ∃ (lane : Fin 144) (s : State),
    (s.link.lane lane.val).st = LaneSt.eq :=
  ⟨40, tLane 40 .eq, by decide⟩

theorem witness_LanesTrainStateByState_3 : ∃ (lane : Fin 144) (s : State),
    (s.link.lane lane.val).st = LaneSt.lock :=
  ⟨40, tLane 40 .lock, by decide⟩

theorem witness_LanesTrainStateByState_5 : ∃ (lane : Fin 144) (s : State) (x : LaneParams) (q : PortId),
    s.link.laneOwner lane.val = some q ∧ (s.link.lane lane.val).st = LaneSt.param ∧ s.paramOk q x = false :=
  ⟨128, tLane 128 .param, ⟨false, List.replicate 6 64, false, true⟩, .peer, by decide⟩

theorem witness_LanesTrainStateByState_6 : ∃ (lane : Fin 144) (s : State) (x : LaneParams) (q : PortId),
    s.link.laneOwner lane.val = some q ∧ (s.link.lane lane.val).st = LaneSt.param ∧ s.paramOk q x = true ∧ (s.link.port q).gcm = true :=
  ⟨128, { link := { lanes := [(128, { st := .param })], ports := [(16, { gcm := true })] } }, ⟨true, List.replicate 6 64, true, true⟩, .peer, by decide⟩

theorem witness_LanesTrainStateByState_7 : ∃ (lane : Fin 144) (s : State) (x : LaneParams) (q : PortId),
    s.link.laneOwner lane.val = some q ∧ (s.link.lane lane.val).st = LaneSt.param ∧ s.paramOk q x = true ∧ (s.link.port q).gcm = false :=
  ⟨128, tLane 128 .param, ⟨true, List.replicate 6 64, false, true⟩, .peer, by decide⟩

theorem witness_LanesTrainStateByState_8 : ∃ (lane : Fin 144) (s : State) (q : PortId),
    s.link.laneOwner lane.val = some q ∧ (s.link.lane lane.val).st = LaneSt.secure :=
  ⟨128, tLane 128 .secure, .peer, by decide⟩

theorem witness_LanesTrainStateByState_9 : ∃ (lane : Fin 144) (s : State),
    (s.link.lane lane.val).st = LaneSt.retrain :=
  ⟨40, tLane 40 .retrain, by decide⟩

theorem witness_LanesTrainStateByState_10 : ∃ (lane : Fin 144) (s : State),
    s.link.mapRead = true ∧ s.dbg.scan = false ∧ s.laneServed lane.val = true ∧ s.laneMapped lane.val = true ∧
     (s.link.lane lane.val).st = LaneSt.idle :=
  ⟨40, { link := { mapRead := true } }, by decide⟩

theorem witness_LanesTrainStateByState_11 : ∃ (lane : Fin 144) (s : State),
    s.link.mapRead = true ∧ s.dbg.scan = false ∧ (s.link.lane lane.val).st ≠ LaneSt.idle :=
  ⟨40, { link := { mapRead := true, lanes := [(40, { st := .active })] } }, by decide⟩

/-! LaneTimeoutsTakeALaneDown -/

theorem witness_LaneTimeoutsTakeALaneDown_1 : ∃ (lane : Fin 144) (s : State),
    (s.link.lane lane.val).st = LaneSt.eq :=
  ⟨143, tLane 143 .eq, by decide⟩

theorem witness_LaneTimeoutsTakeALaneDown_2 : ∃ (lane : Fin 144) (s : State),
    (s.link.lane lane.val).st = LaneSt.lock :=
  ⟨143, tLane 143 .lock, by decide⟩

theorem witness_LaneTimeoutsTakeALaneDown_3 : ∃ (lane : Fin 144) (s : State),
    (s.link.lane lane.val).st = LaneSt.param :=
  ⟨143, tLane 143 .param, by decide⟩

theorem witness_LaneTimeoutsTakeALaneDown_4 : ∃ (lane : Fin 144) (s : State),
    (s.link.lane lane.val).st = LaneSt.secure ∧ (s.link.laneOwner lane.val).isSome = true :=
  ⟨143, tLane 143 .secure, by decide⟩

theorem witness_LaneTimeoutsTakeALaneDown_5 : ∃ (lane : Fin 144) (s : State),
    (s.link.lane lane.val).st = LaneSt.retrain :=
  ⟨143, tLane 143 .retrain, by decide⟩

theorem witness_LaneTimeoutsTakeALaneDown_6 : ∃ (lane : Fin 144) (s : State),
    (s.link.lane lane.val).st = LaneSt.down ∧ (∀ (q : Nat × Nat), q ∈ s.link.quadDown → q.fst ≠ lane.val / 4) :=
  ⟨143, tLane 143 .down, by decide⟩

/-! PortsRetrainOnTheirTriggers -/

theorem witness_PortsRetrainOnTheirTriggers_1 : ∃ (p : PortId) (s : State),
    s.portUp p = true ∧ 8 ≤ (s.link.port p).replays :=
  ⟨.peer, { link := tPeer { replays := 8 } }, by decide⟩

theorem witness_PortsRetrainOnTheirTriggers_2 : ∃ (p : PortId) (s : State) (lane : Fin 144),
    s.portUp p = true ∧ s.link.laneOwner lane.val = some p ∧
     16 ≤ (List.filter (fun t => decide (t + msNs 1 > s.dt)) (s.link.lane lane.val).uncorrAt).length :=
  ⟨.peer, { link := { lanes := [(128, { st := .active, uncorrAt := List.replicate 16 0 })] } }, 128, by decide⟩

theorem witness_PortsRetrainOnTheirTriggers_3 : ∃ (p : PortId) (s : State) (lane : Fin 144),
    s.portUp p = true ∧ s.link.laneOwner lane.val = some p ∧ (s.link.lane lane.val).st = LaneSt.active :=
  ⟨.peer, { link := tPeer {} }, 128, by decide⟩

theorem witness_PortsRetrainOnTheirTriggers_4 : ∃ (p : PortId) (s : State),
    s.portUp p = true ∧ (s.link.port p).keyed = true ∧ 8 ≤ (List.filter (fun t => decide (t + secNs 1 > s.dt)) (s.link.port p).tagAt).length :=
  ⟨.peer, { link := tPeer { keyed := true, tagAt := List.replicate 8 0 } }, by decide⟩

/-! FlitsAreTakenInOrder -/

theorem witness_FlitsAreTakenInOrder_1 : ∃ (p : PortId) (lane : Fin 144) (f : Flit) (s : State),
    (s.link.lane lane.val).st = LaneSt.active ∧ s.link.laneOwner lane.val = some p ∧ flitWhole f (s.link.port p).keyed = true ∧ f.typ = 1 ∧
     f.rsv = 0 ∧ f.vc.toNat ≤ 5 ∧ carries p f.vc.toNat = true ∧ f.ackv = false ∧ f.seq.toNat = (s.link.port p).rxSeq ∧
     (s.link.port p).rxGranted.getD f.vc.toNat 0 ≠ (s.link.port p).rxTaken.getD f.vc.toNat 0 :=
  ⟨.peer, 128, tFlit 0 0, { link := tPeer { rxGranted := [1, 0, 0, 0, 0, 0] } }, ⟨by decide, by decide, tFlit_whole 0 0, by decide⟩⟩

theorem witness_FlitsAreTakenInOrder_2 : ∃ (p : PortId) (lane : Fin 144) (f : Flit) (s : State),
    (s.link.lane lane.val).st = LaneSt.active ∧ s.link.laneOwner lane.val = some p ∧ flitWhole f (s.link.port p).keyed = false ∧
     (s.link.port p).naked = false :=
  ⟨.peer, 128, { tFlit 0 0 with fecOk := false }, { link := tPeer {} }, ⟨by decide, by decide, rfl, by decide⟩⟩

theorem witness_FlitsAreTakenInOrder_3 : ∃ (p : PortId) (lane : Fin 144) (f : Flit) (s : State),
    (s.link.lane lane.val).st = LaneSt.active ∧ s.link.laneOwner lane.val = some p ∧ flitWhole f (s.link.port p).keyed = true ∧ f.typ = 1 ∧
     f.rsv = 0 ∧ f.vc.toNat ≤ 5 ∧ carries p f.vc.toNat = true ∧ f.ackv = false ∧ f.seq.toNat ≠ (s.link.port p).rxSeq ∧
     511 < ((s.link.port p).rxSeq + 1024 - f.seq.toNat) % 1024 ∧ (s.link.port p).naked = false :=
  ⟨.peer, 128, tFlit 0 1, { link := tPeer {} }, ⟨by decide, by decide, tFlit_whole 0 1, by decide⟩⟩

/-! CreditsAcksAndReplays -/

theorem witness_CreditsAcksAndReplays_1 : ∃ (p : PortId) (s : State) (f : Lctl),
    f.ok = true ∧ s.portUp p = true ∧ f.ack = none ∧ f.credits.length = 6 ∧ s.rcc.acting = none :=
  ⟨.peer, { link := tPeer {} }, ⟨true, List.replicate 6 1, none, none⟩, by decide⟩

theorem witness_CreditsAcksAndReplays_2 : ∃ (p : PortId) (s : State) (seq : BitVec 10),
    ((s.link.port p).unacked.any fun u => u.fst == seq.toNat) = true :=
  ⟨.peer, { link := tPeer { unacked := [(0, ⟨4, 1, .pairHello⟩)] } }, 0, by decide⟩

theorem witness_CreditsAcksAndReplays_3 : ∃ (p : PortId) (s : State) (u : Nat × TxItem) (us : List (Nat × TxItem)),
    (s.link.port p).unacked = u :: us ∧ s.portUp p = true :=
  ⟨.peer, { link := tPeer { unacked := [(0, ⟨4, 1, .pairHello⟩)] } }, (0, ⟨4, 1, .pairHello⟩), [], by decide⟩

theorem witness_CreditsAcksAndReplays_4 : ∃ (p : PortId) (s : State),
    s.portUp p = true :=
  ⟨.peer, { link := tPeer {} }, by decide⟩

theorem witness_CreditsAcksAndReplays_5 : ∃ (p : PortId) (s : State) (due : Nat),
    (s.link.port p).ackDue = some due :=
  ⟨.peer, { link := tPeer { ackDue := some 0 } }, 0, by decide⟩

theorem witness_CreditsAcksAndReplays_6 : ∃ (p : PortId) (s : State),
    (s.link.port p).keyed = true ∧ (s.link.port p).retrain = none ∧ s.portUp p = true ∧
     (2 ^ 32 ≤ (s.link.port p).keyTx ∨ 2 ^ 32 ≤ (s.link.port p).keyRx) :=
  ⟨.peer, { link := tPeer { keyed := true, keyTx := 2 ^ 32 } }, by decide⟩

/-! HandshakesOpenSessions -/

theorem witness_HandshakesOpenSessions_1 : ∃ (port : Fin 16) (reqId : BitVec 64) (s : State) (h : Hello),
    s.portUp (PortId.host port) = true ∧ h.wellFormed = true ∧ 1 ≤ h.privilege.toNat ∧ h.privilege.toNat ≤ 3 ∧
     s.link.halfOf port.val reqId.toNat = none :=
  ⟨0, 7, { link := tHost {} }, ⟨3, true, [], []⟩, by decide⟩

theorem witness_HandshakesOpenSessions_2 : ∃ (port : Fin 16) (reqId : BitVec 64) (s : State) (f : Finish) (h : HalfOpen) (priv : Nat) (anchor : Nat) (n : Nat),
    s.link.halfOf port.val reqId.toNat = some h ∧ f.wellFormed = true ∧ s.judgeFinish f h.privilege = (0, some (priv, anchor)) ∧
     s.cqe.freeSession = some n :=
  ⟨0, 7, { link := { half := [⟨0, 7, 0, 0, 3⟩] } }, ⟨true, true, [], true⟩, ⟨0, 7, 0, 0, 3⟩, 3, 255, 0, by decide⟩

theorem witness_HandshakesOpenSessions_3 : ∃ (port : Fin 16) (reqId : BitVec 64) (s : State) (f : Finish) (h : HalfOpen) (r : Nat) (g : Option (Nat × Nat)),
    s.link.halfOf port.val reqId.toNat = some h ∧ f.wellFormed = true ∧ s.judgeFinish f h.privilege = (r + 1, g) :=
  ⟨0, 7, { link := { half := [⟨0, 7, 0, 0, 3⟩] } }, ⟨true, true, [], false⟩, ⟨0, 7, 0, 0, 3⟩, 1, none, by decide⟩

theorem witness_HandshakesOpenSessions_4 : ∃ (port : Fin 16) (reqId : BitVec 64) (s : State) (h : HalfOpen),
    s.link.halfOf port.val reqId.toNat = some h :=
  ⟨0, 7, { link := { half := [⟨0, 7, 0, 0, 3⟩] } }, ⟨0, 7, 0, 0, 3⟩, by decide⟩

/-! SessionsEndWithTheirQueuePairs -/

theorem witness_SessionsEndWithTheirQueuePairs_1 : ∃ (s : State) (m : Vc3) (x : Session),
    s.accepts m 16 true 1 x ∧ (∀ (c : Cmd), c ∈ s.cqe.cmds → c.sess ≠ m.sess.toNat ∨ c.fromPeer.isSome = true) :=
  ⟨tS, tM, tX, by decide⟩

theorem witness_SessionsEndWithTheirQueuePairs_2 : ∃ (s : State) (n : Fin 4096) (x : Session),
    tget s.cqe.sessions n.val = some x ∧ x.closing = none ∧ (∀ (c : Cmd), c ∈ s.cqe.cmds → c.sess ≠ n.val ∨ c.fromPeer.isSome = true) :=
  ⟨tS, 1, tX, by decide⟩

theorem witness_SessionsEndWithTheirQueuePairs_3 : ∃ (s : State) (n : Fin 4096) (x : Session),
    tget s.cqe.sessions n.val = some x ∧ x.closing = none ∧ (∀ (c : Cmd), c ∈ s.cqe.cmds → c.sess ≠ n.val ∨ c.fromPeer.isSome = true) ∧
     x.quarantined = true :=
  ⟨{ cqe := tSes { tX with quarantined := true } }, 1, { tX with quarantined := true }, by decide⟩

theorem witness_SessionsEndWithTheirQueuePairs_4 : ∃ (s : State) (port : Fin 16) (lost : Nat),
    (s.link.port (PortId.host port)).lostAt = some lost ∧ (s.link.port (PortId.host port)).lostDone = false ∧
     s.portUp (PortId.host port) = false ∧ s.cqe.cmds = [] :=
  ⟨{ link := { ports := [(0, { lostAt := some 0 })] } }, 0, 0, by decide⟩

/-! QueuePairsComeAndGo -/

theorem witness_QueuePairsComeAndGo_1 : ∃ (s : State) (m : Vc3) (cls : Byte) (depthLog2 : Byte) (x : Session),
    s.accepts m 32 false 2 x ∧ s.qpCreateStatus x m.sess.toNat (BitVec.toNat cls) (BitVec.toNat depthLog2) = stSuccess :=
  ⟨{ cqe := tSes tX, dsc := { classes := [⟨250, 40, 1⟩] } }, tM, 0, 12, tX, by decide⟩

theorem witness_QueuePairsComeAndGo_2 : ∃ (s : State) (m : Vc3) (cls : Byte) (depthLog2 : Byte) (x : Session),
    s.accepts m 32 false 2 x ∧ s.qpCreateStatus x m.sess.toNat (BitVec.toNat cls) (BitVec.toNat depthLog2) ≠ stSuccess :=
  ⟨tS, tM, 8, 3, tX, by decide⟩

theorem witness_QueuePairsComeAndGo_3 : ∃ (s : State) (m : Vc3) (qp : BitVec 16) (x : Session) (q : Qp),
    s.accepts m 33 false 2 x ∧ tget s.cqe.qps qp.toNat = some q ∧ q.sess = m.sess.toNat ∧ q.deleting = none :=
  ⟨tHead, tM, 2, tX, tQp, by decide⟩

theorem witness_QueuePairsComeAndGo_4 : ∃ (s : State) (m : Vc3) (qp : BitVec 16) (x : Session) (q : Qp),
    s.accepts m 33 false 2 x ∧ tget s.cqe.qps qp.toNat = some q ∧ q.sess = m.sess.toNat ∧ q.deleting = none ∧
     (∀ (c : Cmd), c ∈ s.cqe.cmds → c.qp ≠ qp.toNat) :=
  ⟨tHead, tM, 2, tX, tQp, by decide⟩

theorem witness_QueuePairsComeAndGo_5 : ∃ (s : State) (qp : BitVec 14) (q : Qp) (d : Nat),
    tget s.cqe.qps qp.toNat = some q ∧ q.deleting = some d ∧ d ≠ 2 ∧ (∀ (c : Cmd), c ∈ s.cqe.cmds → c.qp ≠ qp.toNat) :=
  ⟨{ cqe := { qps := [(2, { tQp with deleting := some 0 })] } }, 2, { tQp with deleting := some 0 }, 0, by decide⟩

/-! SessionsSpeakAndAreHeard -/

theorem witness_SessionsSpeakAndAreHeard_1 : ∃ (s : State) (m : Vc3) (x : Session),
    s.accepts m 18 true 1 x :=
  ⟨tS, tM, tX, by decide⟩

theorem witness_SessionsSpeakAndAreHeard_2 : ∃ (s : State) (m : Vc3) (x : Session),
    s.accepts m 65 false 1 x :=
  ⟨tS, tM, tX, by decide⟩

theorem witness_SessionsSpeakAndAreHeard_3 : ∃ (s : State) (m : Vc3) (x : Session),
    s.sessionOf m = some x ∧ m.lenMacOk = true ∧ m.rsvWord = 0 ∧ x.pendingReq.contains m.reqId.toNat = false ∧ x.quarantined = false ∧
     s.rot.lifecycle ≠ Lifecycle.ended :=
  ⟨tS, tM, tX, by decide⟩

theorem witness_SessionsSpeakAndAreHeard_4 : ∃ (s : State) (n : Fin 4096) (x : Session) (nt : Notice) (rest : List Notice),
    tget s.cqe.sessions n.val = some x ∧ x.closing = none ∧ x.dropped = 0 ∧ x.notices = nt :: rest ∧
     flitsOf (s.link.payload (hostPort x.port)) (.notice x.port n.val nt.ntype nt.nseq nt.stamp nt.epoch nt.body) ≤ s.room (hostPort x.port) 3 ∧
     s.room (hostPort x.port) 3 ≠ 0 :=
  ⟨{ cqe := tSes { tX with notices := [⟨1, 0, 0, 0, []⟩] }, link := tHost { granted := [0, 0, 0, 1, 0, 0] } }, 1, { tX with notices := [⟨1, 0, 0, 0, []⟩] }, ⟨1, 0, 0, 0, []⟩, [], by decide⟩

/-! QuarantineIsSetAndLifted -/

theorem witness_QuarantineIsSetAndLifted_1 : ∃ (s : State) (m : Vc3) (target : BitVec 16) (x : Session) (y : Session),
    s.accepts m 80 false 2 x ∧ tget s.cqe.sessions target.toNat = some y ∧ y.closing = none ∧ y.quarantined = false :=
  ⟨tS, tM, 1, tX, tX, by decide⟩

theorem witness_QuarantineIsSetAndLifted_2 : ∃ (s : State) (m : Vc3) (target : BitVec 16) (x : Session) (y : Session),
    s.accepts m 80 false 2 x ∧ tget s.cqe.sessions target.toNat = some y ∧ y.closing = none ∧ y.quarantined = true ∧ target ≠ m.sess :=
  ⟨{ cqe := { sessions := [(1, tX), (2, { tX with quarantined := true })] } }, tM, 2, tX, { tX with quarantined := true }, by decide⟩

theorem witness_QuarantineIsSetAndLifted_3 : ∃ (s : State) (n : Fin 4096) (x : Session),
    tget s.cqe.sessions n.val = some x ∧ x.closing = none ∧ x.quarantined = false ∧ 64 < x.violCount :=
  ⟨{ cqe := tSes { tX with violCount := 65 } }, 1, { tX with violCount := 65 }, by decide⟩

theorem witness_QuarantineIsSetAndLifted_4 : ∃ (s : State) (n : Fin 4096) (x : Session),
    tget s.cqe.sessions n.val = some x ∧ x.closing = none ∧ x.quarantined = false ∧ 32 < x.violCount ∧ x.warned = false ∧
     x.mask.getLsbD 1 = true ∧ x.notices.length < 256 :=
  ⟨{ cqe := tSes { tX with violCount := 33 } }, 1, { tX with violCount := 33 }, by decide⟩

theorem witness_QuarantineIsSetAndLifted_5 : ∃ (s : State) (port : Fin 16),
    256 < (s.link.port (PortId.host port)).violCount :=
  ⟨{ link := tHost { violCount := 257 } }, 0, by decide⟩

theorem witness_QuarantineIsSetAndLifted_6 : ∃ (s : State) (pos : Fin 96),
    64 < (s.link.port (mediaPort pos.val)).violCount ∧ (tgetD s.link.modules pos.val { }).quarantined = false :=
  ⟨{ link := { ports := [(25, { violCount := 65 })] } }, 8, by decide⟩

/-! AdmittedCommandsAreTaggedAndStart -/

theorem witness_AdmittedCommandsAreTaggedAndStart_1 : ∃ (opc : Nat) (i : Instr) (h : HostCmd) (q : Qp) (x : Session) (r : VolumeRec) (c : Cmd) (s : State) (u : State),
    rangedCmd opc h = some i ∧ s.passes opc h q x r ∧ s.ownsGroup r.group = true ∧ s.intake.fst = false ∧
     s.judged opc h q = (Decision.admitted c, u) :=
  ⟨1, .read tCmdIn, tCmdIn, tQp, tX, tVol, (admitted? (tHead.judged 1 tCmdIn tQp)).getD tCmd, tHead, (tHead.judged 1 tCmdIn tQp).2, ⟨rfl, by decide, by decide, by decide, admitted?_eq _ (by decide)⟩⟩

/-! AdmittedWritesTakeAFrameForEachGrain -/

theorem witness_AdmittedWritesTakeAFrameForEachGrain_1 : ∃ (h : HostCmd) (q : Qp) (x : Session) (r : VolumeRec) (c : Cmd) (s : State) (u : State),
    s.passes opWrite h q x r ∧ s.ownsGroup r.group = true ∧ s.intake.fst = false ∧ s.judged opWrite h q = (Decision.admitted c, u) :=
  ⟨tCmdIn, tQp, tX, tVol, (admitted? (tSolo.judged opWrite tCmdIn tQp)).getD tCmd, tSolo, (tSolo.judged opWrite tCmdIn tQp).2, ⟨by decide, by decide, by decide, admitted?_eq _ (by decide)⟩⟩

/-! ReadsGiveTheNewestCommittedData -/

theorem witness_ReadsGiveTheNewestCommittedData_1 : ∃ (h : HostCmd) (q : Qp) (x : Session) (r : VolumeRec) (c : Cmd) (s : State) (u : State),
    s.passes opRead h q x r ∧ s.ownsGroup r.group = true ∧ s.intake.fst = false ∧ s.judged opRead h q = (Decision.admitted c, u) ∧
     (∀ (p : Part), p ∈ c.parts → p.path = 0 ∧ p.result = none) ∧ (∀ (f : Fetch), f ∈ u.ftu.fetches → f.path ≠ 1) :=
  ⟨tCmdIn, tQp, tX, tVol, (admitted? (tHead.judged opRead tCmdIn tQp)).getD tCmd, tHead, (tHead.judged opRead tCmdIn tQp).2, ⟨by decide, by decide, by decide, admitted?_eq _ (by decide), by decide, by decide⟩⟩

/-! WritesCommitWithTheirLastFlit -/

theorem witness_WritesCommitWithTheirLastFlit_1 : ∃ (p : Fin 16) (qp : BitVec 14) (cid : BitVec 16) (k : Qp) (c : Cmd) (s : State),
    tget s.cqe.qps qp.toNat = some k ∧ k.port = p.val ∧ s.cqe.drain.contains (qp.toNat, cid.toNat) = false ∧
     s.cqe.cmd qp.toNat cid.toNat = some c ∧ c.carries ≠ 0 ∧ c.committed = false ∧ c.decided = none ∧ c.fwdAt = none ∧ c.got + 1 < c.expect :=
  ⟨0, 2, 9, tQp, { tCmd with opc := 2, expect := 18, got := 3 }, { tHead with cqe := tRing [{ tCmd with opc := 2, expect := 18, got := 3 }] }, by decide⟩

/-! DataTimersFailShortCommands -/

theorem witness_DataTimersFailShortCommands_1 : ∃ (qp : BitVec 14) (cid : BitVec 16) (c : Cmd) (x : Session) (s : State),
    s.cqe.cmd qp.toNat cid.toNat = some c ∧ s.plainOpen c x ∧ c.got < c.expect ∧ (∀ (k : Cmd), k ∈ s.cqe.cmds → k.opc ≠ opCaw) :=
  ⟨2, 9, { tCmd with opc := 2, expect := 18 }, tX, { tHead with cqe := tRing [{ tCmd with opc := 2, expect := 18 }] }, by decide⟩

/-! WritesCommitWithTheirLastFlit -/

theorem witness_WritesCommitWithTheirLastFlit_2 : ∃ (p : Fin 16) (qp : BitVec 14) (cid : BitVec 16) (k : Qp) (c : Cmd) (s : State) (i : Nat) (g : Nat) (f : Frame) (r : VolumeRec) (x : Session),
    tget s.cqe.qps qp.toNat = some k ∧ k.port = p.val ∧ s.cqe.drain.contains (qp.toNat, cid.toNat) = false ∧
     s.cqe.cmd qp.toNat cid.toNat = some c ∧ c.carries ≠ 0 ∧ c.committed = false ∧ c.decided = none ∧ c.fwdAt = none ∧
     c.got + 1 = c.expect ∧ c.opc = opWrite ∧ c.admitted = true ∧ c.waiting7 = false ∧ c.nsect = 1 ∧ c.frames = [(i, g)] ∧
     tget s.wc.frames i = some f ∧ f.desc.vol = c.vol ∧ f.desc.grain = c.lba / 2 ∧ f.pend = [] ∧ f.data.length = 2 ∧
     f.st = FrameSt.filling ∧ s.wc.mirrorSt = MirrorSt.solo ∧ s.cfg.volume c.vol = some r ∧ r.kind ≠ 4 ∧ r.kind ≠ 5 ∧ r.domain = none ∧
     c.fromPeer = none ∧ c.aborters = [] ∧ tget s.cqe.sessions c.sess = some x ∧ x.closing = none :=
  ⟨0, 2, 9, tQp, tWrite, { tSolo with cqe := tRing [tWrite], wc := { tSolo.wc with frames := [(0, { tFrame with st := .filling })] } }, 0, 1, { tFrame with st := .filling }, tVol, tX, by decide⟩

/-! FlushAbortAndUnknownOpcodes -/

theorem witness_FlushAbortAndUnknownOpcodes_1 : ∃ (h : HostCmd) (q : Qp) (x : Session) (s : State) (r : VolumeRec),
    s.rings h q x ∧ s.passes opFlush h q x r :=
  ⟨⟨0, 2, { tEntry with nsect := 0 }⟩, tQp, tX, tHead, tVol, by decide⟩

theorem witness_FlushAbortAndUnknownOpcodes_2 : ∃ (h : HostCmd) (q : Qp) (x : Session) (s : State),
    s.rings h q x ∧ fieldsOk opAbort h.entry = true ∧
     s.cqe.cmd (BitVec.toNat (h.entry.cdw.getD 0 0)) (BitVec.toNat (h.entry.cdw.getD 1 0)) = none ∧
     (∀ (k : Cmd), k ∈ s.cqe.cmds → k.opc ≠ opCaw) :=
  ⟨⟨0, 2, { tEntry with vol := 0, nsect := 0, cdw := [2, 4, 0, 0, 0, 0, 0, 0, 0, 0] }⟩, tQp, tX, tHead, by decide⟩

theorem witness_FlushAbortAndUnknownOpcodes_3 : ∃ (h : HostCmd) (q : Qp) (x : Session) (s : State) (c : Cmd) (tq : Nat) (y : Qp),
    s.rings h q x ∧ fieldsOk opAbort h.entry = true ∧ BitVec.toNat (h.entry.cdw.getD 0 0) = tq ∧ tget s.cqe.qps tq = some y ∧
     y.sess = q.sess ∧ s.cqe.cmd tq (BitVec.toNat (h.entry.cdw.getD 1 0)) = some c ∧ c.opc ≠ opAbort ∧ c.sess = q.sess ∧ s.plainOpen c x ∧
     (∀ (k : Cmd), k ∈ s.cqe.cmds → k.opc ≠ opCaw) :=
  ⟨⟨0, 2, { tEntry with cid := 10, vol := 0, nsect := 0, cdw := [2, 9, 0, 0, 0, 0, 0, 0, 0, 0] }⟩, tQp, tX, { tHead with cqe := tRing [tCmd] }, tCmd, 2, tQp, by decide⟩

theorem witness_FlushAbortAndUnknownOpcodes_4 : ∃ (h : HostCmd) (q : Qp) (x : Session) (s : State) (opc : Byte),
    s.rings h q x ∧ (opc = 0 ∨ 8 < BitVec.toNat opc) :=
  ⟨tCmdIn, tQp, tX, tHead, 9, by decide⟩

/-! SaturatedIntakeRefuses -/

theorem witness_SaturatedIntakeRefuses_1 : ∃ (opc : Nat) (i : Instr) (h : HostCmd) (q : Qp) (x : Session) (r : VolumeRec) (s : State),
    rangedCmd opc h = some i ∧ s.passes opc h q x r ∧ s.ownsGroup r.group = true ∧ s.intake.fst = true :=
  ⟨1, .read tCmdIn, tCmdIn, tQp, tX, tVol, { tHead with dsc := { intakeCount := 1600 } }, by decide⟩

/-! ForwardedCommandsAndTheirCompletions -/

theorem witness_ForwardedCommandsAndTheirCompletions_1 : ∃ (s : State) (qp : BitVec 14) (opc : Byte) (e : CmdEntry) (el : Nat) (lanes : Nat) (enc : Bool) (r : VolumeRec) (c : Cmd) (u : State),
    ranged (BitVec.toNat opc) = true ∧ s.cfg.volume e.vol.toNat = some r ∧ r.kind ≠ 4 ∧ r.kind ≠ 5 ∧ r.grants ≠ 0 ∧
     s.freshen.volStatus (BitVec.toNat opc) e.vol.toNat e.lba.toNat e.nsect.toNat (s.freeNat 3) true = none ∧ s.ownsGroup r.group = true ∧
     s.intake.fst = false ∧
     (s.peerRinged qp (BitVec.toNat opc) e el lanes enc).fst.intake.snd.judge (s.peerRinged qp (BitVec.toNat opc) e el lanes enc).snd = (Decision.admitted c, u) ∧
     (0 < (s.peerRinged qp (BitVec.toNat opc) e el lanes enc).snd.expect ∨ BitVec.toNat opc ≠ opWrite) :=
  ⟨tTwo, 2, 1, tEntry, 0, 16, false, tVol, (admitted? (tFwd.1.intake.2.judge tFwd.2)).getD tCmd, (tFwd.1.intake.2.judge tFwd.2).2, ⟨by decide, by decide, by decide, by decide, by decide, by decide, by decide, by decide, admitted?_eq _ tFwd_admitted, by decide⟩⟩

theorem witness_ForwardedCommandsAndTheirCompletions_2 : ∃ (s : State) (k : Completion) (c : Cmd) (x : Session),
    s.cqe.cmd k.qp.toNat k.cid.toNat = some c ∧ c.fwdAt.isSome = true ∧ c.decided = none ∧ c.pendingEnd = none ∧ c.fromPeer = none ∧
     c.aborters = [] ∧ tget s.cqe.sessions c.sess = some x ∧ x.closing = none :=
  ⟨{ tHead with cqe := tRing [{ tCmd with fwdAt := some 0 }] }, tDone, { tCmd with fwdAt := some 0 }, tX, by decide⟩

/-! CompletionsLeaveWithTheirCommands -/

theorem witness_CompletionsLeaveWithTheirCommands_1 : ∃ (port : Fin 16) (k : Completion) (c : Cmd) (x : Session) (s : State),
    s.cqe.ready = [(port.val, k)] ∧ s.cqe.owner k = some c ∧ s.dataWaits c = false ∧ s.room (hostPort port.val) 2 ≠ 0 ∧
     tget s.cqe.sessions c.sess = some x ∧ x.closing = none :=
  ⟨0, tDone, { tCmd with decided := some tDone }, tX, { tHead with cqe := { tRing [{ tCmd with decided := some tDone }] with ready := [(0, tDone)] }, link := tHost { granted := [0, 0, 1, 0, 0, 0] } }, by decide⟩

/-! WaitingCommandsAndEndedWindows -/

theorem witness_WaitingCommandsAndEndedWindows_1 : ∃ (s : State) (qp : BitVec 14) (cid : BitVec 16) (c : Cmd) (k : Cmd) (u : State) (r : VolumeRec),
    s.cqe.cmd qp.toNat cid.toNat = some c ∧ c.waiting7 = true ∧ c.open_ = true ∧
     (∀ (a : PeerAsk), a ∈ s.dsc.asks → a.qp = c.qp → a.cid = c.cid → a.answered = true) ∧ s.cfg.volume c.vol = some r ∧ r.kind ≠ 4 ∧
     r.kind ≠ 5 ∧ s.judge c = (Decision.admitted k, u) ∧ k.opc ≠ opWrite :=
  ⟨tWait, 2, 9, { tCmd with waiting7 := true, cls := 7 }, (admitted? (tWait.judge { tCmd with waiting7 := true, cls := 7 })).getD tCmd, (tWait.judge { tCmd with waiting7 := true, cls := 7 }).2, tVol, ⟨by decide, rfl, by decide, by decide, by decide, by decide, by decide, admitted?_eq _ (by decide), by decide⟩⟩

theorem witness_WaitingCommandsAndEndedWindows_2 : ∃ (s : State),
    s.dsc.refSec ≤ secOf s.dt :=
  ⟨State.reset, by decide⟩

/-! MediaOperationsLeaveAtTheirStart -/

theorem witness_MediaOperationsLeaveAtTheirStart_1 : ∃ (n : Nat) (r : Resv) (s : State),
    List.find? (fun x => x.num == n && !x.issued) s.dsc.cal = some r ∧ s.dbg.level < 2 ∧ s.dbg.action = none ∧
     (s.ftu.die r.die).own = true ∧ (r.kind = ResvKind.read ∨ r.kind = ResvKind.claim) ∧
     ((∃ d c, r.work = Work.scrub d c) ∨ ∃ g, r.work = Work.peerRead g) ∧ r.unit < 32 ∧ s.opOn r.die = false :=
  ⟨1, tResv .read (.peerRead 7), { ftu := tDies, dsc := { cal := [tResv .read (.peerRead 7)] } }, ⟨by decide, by decide, by decide, by decide, by decide, .inr ⟨7, rfl⟩, by decide, by decide⟩⟩

theorem witness_MediaOperationsLeaveAtTheirStart_2 : ∃ (n : Nat) (r : Resv) (s : State) (c : Nat),
    List.find? (fun x => x.num == n && !x.issued) s.dsc.cal = some r ∧ s.dbg.level < 2 ∧ s.dbg.action = none ∧
     (s.ftu.die r.die).own = true ∧ r.kind = ResvKind.program ∧ s.ha.stale = false ∧ s.programChunk r = some c :=
  ⟨1, tResv .program (.vault 0 0), { ftu := tDies, dsc := { cal := [tResv .program (.vault 0 0)] } }, 0, by decide⟩

theorem witness_MediaOperationsLeaveAtTheirStart_3 : ∃ (n : Nat) (r : Resv) (s : State) (b : Nat),
    List.find? (fun x => x.num == n && !x.issued) s.dsc.cal = some r ∧ s.dbg.level < 2 ∧ s.dbg.action = none ∧
     (s.ftu.die r.die).own = true ∧ r.kind = ResvKind.erase ∧ s.ha.stale = false ∧ s.eraseBlock r = some b :=
  ⟨1, tResv .erase (.eraseSeg 0 3), { ftu := { tDies with segs := [tSeg .erasing] }, dsc := { cal := [tResv .erase (.eraseSeg 0 3)] } }, 6, by decide⟩

/-! BridgesAnswerProgramsErasesAndTelemetry -/

theorem witness_BridgesAnswerProgramsErasesAndTelemetry_1 : ∃ (pos : Fin 96) (tag : Word) (o : MediaOp) (s : State) (num : Nat) (m : Nat) (k : Stripe),
    s.inFlight pos tag mProgram o ∧ o.work = Work.destage num m ∧ s.stripeOf num = some k ∧ List.filter (fun c => c.fst != m) k.left ≠ [] :=
  ⟨8, 4, tOp mProgram 0 (.destage 1 2), { link := tFly (tOp mProgram 0 (.destage 1 2)), ftu := { tDies with stripes := [tStripe] } }, 1, 2, tStripe, by decide⟩

theorem witness_BridgesAnswerProgramsErasesAndTelemetry_2 : ∃ (pos : Fin 96) (tag : Word) (o : MediaOp) (s : State) (pool : Nat) (seg : Nat) (d : Die),
    s.inFlight pos tag mErase o ∧ o.work = Work.eraseSeg pool seg ∧ tget s.ftu.dies (opDie o) = some d :=
  ⟨8, 4, tOp mErase 0 (.eraseSeg 0 3), { link := tFly (tOp mErase 0 (.eraseSeg 0 3)), ftu := tDies }, 0, 3, { own := true }, by decide⟩

theorem witness_BridgesAnswerProgramsErasesAndTelemetry_3 : ∃ (pos : Fin 96) (tag : Word) (o : MediaOp) (s : State),
    s.inFlight pos tag mSuspend o :=
  ⟨8, 4, tOp mSuspend 0 .suspend, { link := tFly (tOp mSuspend 0 .suspend), ftu := tDies }, by decide⟩

theorem witness_BridgesAnswerProgramsErasesAndTelemetry_4 : ∃ (pos : Fin 96) (tag : Word) (o : MediaOp) (s : State),
    s.inFlight pos tag mResume o :=
  ⟨8, 4, tOp mResume 0 .suspend, { link := tFly (tOp mResume 0 .suspend), ftu := tDies }, by decide⟩

theorem witness_BridgesAnswerProgramsErasesAndTelemetry_6 : ∃ (pos : Fin 96) (s : State) (at_ : Nat),
    (tgetD s.link.modules pos.val { }).telemAt = some at_ ∧ (tgetD s.link.modules pos.val { }).missing = false :=
  ⟨8, { link := { modules := [(8, { telemAt := some 0, missing := false })] } }, 0, by decide⟩

/-! ReadsForThePeerAreClaimedAndAnswered -/

theorem witness_ReadsForThePeerAreClaimedAndAnswered_1 : ∃ (tag : Word) (s : State) (pos : Nat) (die : Byte) (unit : Nat) (count : Nat),
    pos < 96 ∧ (s.ftu.die (256 * pos + BitVec.toNat die)).own = true ∧ count ≠ 0 ∧ unit + count ≤ 32 ∧
     List.find? (fun r => r.die == 256 * pos + BitVec.toNat die && r.work == Work.peerRead (BitVec.toNat tag) && !r.issued) s.dsc.cal = none :=
  ⟨4, { ftu := tDies }, 8, 0, 31, 1, by decide⟩

theorem witness_ReadsForThePeerAreClaimedAndAnswered_2 : ∃ (tag : Word) (s : State) (pos : Fin 96) (o : MediaOp) (g : Nat),
    s.inFlight pos tag mSoft o ∧ o.work = Work.peerSoft g ∧ s.opOn (opDie o) = false :=
  ⟨4, { link := tFly (tOp mSoft 0 (.peerSoft 7)), ftu := tDies }, 8, tOp mSoft 0 (.peerSoft 7), 7, by decide⟩

theorem witness_ReadsForThePeerAreClaimedAndAnswered_3 : ∃ (tag : Word) (s : State) (pos : Fin 96) (o : MediaOp) (g : Nat) (d : Die),
    s.inFlight pos tag mRead o ∧ o.work = Work.peerRead g ∧ s.opOn (opDie o) = false ∧ tget s.ftu.dies (opDie o) = some d :=
  ⟨4, { link := tFly (tOp mRead 0 (.peerRead 7)), ftu := tDies }, 8, tOp mRead 0 (.peerRead 7), 7, { own := true }, by decide⟩

/-! FramesEnterTheHorizon -/

theorem witness_FramesEnterTheHorizon_2 : ∃ (s : State),
    s.pmu.pstate = PState.p3 :=
  ⟨{ pmu := { pstate := .p3 } }, by decide⟩

/-! TheMirrorHoldsThePeersSectors -/

theorem witness_TheMirrorHoldsThePeersSectors_1 : ∃ (frame : Nat) (s : State) (desc : Desc) (data : List Bytes),
    s.wc.frozen = false ∧ data.length = (List.filter (fun k => desc.present.getLsbD k) [0, 1]).length ∧
     (∀ (b : Bytes), b ∈ data → List.length b = 4096) ∧ frame < s.wc.mirrorFrames :=
  ⟨131071, { wc := { peerSizeGib := 1 } }, { tDesc with present := 1 }, [List.replicate 4096 0], ⟨by decide, by decide, by simp, by decide⟩⟩

theorem witness_TheMirrorHoldsThePeersSectors_2 : ∃ (h : RecHdr) (s : State) (cid : BitVec 16) (qp : BitVec 16) (x : Nat × Nat × List Bytes) (c : Cmd),
    h.rsvOk = true ∧ List.find? (fun x => x.fst == qp.toNat && x.snd.fst == cid.toNat) s.wc.fwdData = some x ∧
     s.cqe.cmd qp.toNat cid.toNat = some c :=
  ⟨tHdr, { cqe := tRing [tCmd], wc := { fwdData := [(2, 9, [])] } }, 9, 2, (2, 9, []), tCmd, by decide⟩

theorem witness_TheMirrorHoldsThePeersSectors_3 : ∃ (frame : Nat) (gen : Nat) (h : RecHdr) (s : State) (f : Frame),
    h.rsvOk = true ∧ tget s.wc.mirror frame = some f ∧ f.desc.gen = gen :=
  ⟨0, 1, tHdr, { wc := { mirror := [(0, tFrame)] } }, tFrame, by decide⟩

theorem witness_TheMirrorHoldsThePeersSectors_4 : ∃ (frame : Nat) (gen : Nat) (h : RecHdr) (s : State) (f : Frame),
    h.rsvOk = true ∧ tget s.wc.mirror frame = some f ∧ f.desc.gen = gen ∧ f.pend = [] :=
  ⟨0, 1, tHdr, { wc := { mirror := [(0, tFrame)] } }, tFrame, by decide⟩

/-! MirroredWritesCommitOrEnd -/

theorem witness_MirroredWritesCommitOrEnd_1 : ∃ (c : Cmd) (x : Session) (s : State) (h : RecHdr) (frame : Nat) (gen : Nat) (f : Frame) (k : Nat) (b : Bytes) (r : VolumeRec),
    tget s.cqe.sessions c.sess = some x ∧ x.closing = none ∧ c.fromPeer = none ∧ c.aborters = [] ∧ h.rsvOk = true ∧ s.cqe.cmds = [c] ∧
     c.decided = none ∧ c.opc = opWrite ∧ c.acks = [(frame, gen)] ∧ c.frames = [(frame, gen)] ∧ tget s.wc.frames frame = some f ∧
     f.desc.gen = gen ∧ f.pend = [(c.qp, c.cid, k, b)] ∧ k < 2 ∧ f.data.length = 2 ∧ s.cfg.volume c.vol = some r ∧ r.domain = none ∧
     s.snap.jobs = [] ∧ s.wc.mirrorSt = MirrorSt.mirrored :=
  ⟨tAck, tX, { tHead with cqe := tRing [tAck], wc := { mirrorSt := .mirrored, frames := [(0, tPend)] } }, tHdr, 0, 1, tPend, 1, [], tVol, by decide⟩

theorem witness_MirroredWritesCommitOrEnd_2 : ∃ (c : Cmd) (x : Session) (s : State) (qp : BitVec 14) (cid : BitVec 16) (b : Nat),
    tget s.cqe.sessions c.sess = some x ∧ x.closing = none ∧ c.fromPeer = none ∧ c.aborters = [] ∧ s.cqe.cmd qp.toNat cid.toNat = some c ∧
     c.acks ≠ [] ∧ s.wc.mirrorSt = MirrorSt.mirrored ∧ boundNs (s.dsc.tableFor c.tag) c.cls c.opc c.nsect = some b :=
  ⟨tAck, tX, { tHead with cqe := tRing [tAck], wc := { mirrorSt := .mirrored } }, 2, 9, 40000, by decide⟩

theorem witness_MirroredWritesCommitOrEnd_3 : ∃ (c : Cmd) (x : Session) (s : State) (h : RecHdr) (frame : Nat) (gen : Nat) (k : Completion),
    tget s.cqe.sessions c.sess = some x ∧ x.closing = none ∧ c.fromPeer = none ∧ c.aborters = [] ∧ h.rsvOk = true ∧ s.cqe.cmds = [c] ∧
     c.decided = none ∧ c.opc = opWrite ∧ c.discards = [(frame, gen)] ∧ c.pendingEnd = some k :=
  ⟨{ tAck with discards := [(0, 1)], pendingEnd := some tDone }, tX, { tHead with cqe := tRing [{ tAck with discards := [(0, 1)], pendingEnd := some tDone }] }, tHdr, 0, 1, tDone, by decide⟩

theorem witness_MirroredWritesCommitOrEnd_4 : ∃ (c : Cmd) (x : Session) (s : State) (qp : BitVec 14) (cid : BitVec 16),
    tget s.cqe.sessions c.sess = some x ∧ x.closing = none ∧ c.fromPeer = none ∧ c.aborters = [] ∧ s.cqe.cmd qp.toNat cid.toNat = some c ∧
     c.discards ≠ [] :=
  ⟨{ tAck with discards := [(0, 1)] }, tX, { tHead with cqe := tRing [{ tAck with discards := [(0, 1)] }] }, 2, 9, by decide⟩

/-! PowerFailureFreezesTheCache -/

theorem witness_PowerFailureFreezesTheCache_1 : ∃ (s : State),
    s.rcc.hold = ResetSt.run ∧ s.pmu.pstate ≠ PState.p3 ∧ s.pmu.pstate ≠ PState.p4 :=
  ⟨{ rcc := tRun }, by decide⟩

theorem witness_PowerFailureFreezesTheCache_2 : ∃ (s : State) (fell : Nat),
    s.pmu.pstate = PState.p4 ∧ s.wc.frozen = false ∧ s.wc.pwrfail = some fell ∧ (∀ (f : Nat × Frame), f ∈ s.wc.frames → f.snd.pend = []) ∧
     s.wc.vaultItems ≠ [] ∧ (tget s.xts.keys vaultSlot).isSome = true ∧ s.dbg.level < 2 :=
  ⟨{ pmu := { pstate := .p4 }, wc := { pwrfail := some 0, frames := [(0, tFrame)] }, xts := { keys := [(vaultSlot, [])] } }, 0, by decide⟩

theorem witness_PowerFailureFreezesTheCache_3 : ∃ (s : State),
    s.pmu.pstate = PState.p4 ∧ s.wc.vaultDone = false :=
  ⟨{ pmu := { pstate := .p4 } }, by decide⟩

/-! DigestContextsHashWhatTheyAreFed -/

theorem witness_DigestContextsHashWhatTheyAreFed_1 : ∃ (ctx : Fin 128) (s : State) (alg : Byte) (key : Option Nat) (declared : Nat),
    tget s.dge.ctx ctx.val = none ∧ 1 ≤ BitVec.toNat alg ∧ BitVec.toNat alg ≤ 5 ∧ declared < 2 ^ 40 ∧
     (algKeyed (BitVec.toNat alg) = true → (key.bind s.dge.keyOf).isSome = true) :=
  ⟨127, State.reset, 1, none, 2 ^ 40 - 1, by decide⟩

theorem witness_DigestContextsHashWhatTheyAreFed_2 : ∃ (ctx : Fin 128) (s : State) (x : DgeCtx) (seg : Bytes),
    tget s.dge.ctx ctx.val = some x ∧ (x.st = DgeSt.opened ∨ x.st = DgeSt.running ∨ x.st = DgeSt.saved) ∧
     x.fed + List.length seg ≤ x.declared :=
  ⟨127, { dge := { ctx := [(127, { st := .opened, alg := 1, declared := 1 })] } }, { st := .opened, alg := 1, declared := 1 }, [0], by decide⟩

theorem witness_DigestContextsHashWhatTheyAreFed_3 : ∃ (ctx : Fin 128) (s : State) (x : DgeCtx) (k : Bytes),
    tget s.dge.ctx ctx.val = some x ∧ (x.st = DgeSt.opened ∨ x.st = DgeSt.running ∨ x.st = DgeSt.saved) ∧ x.declared ≤ x.fed ∧
     (if algKeyed x.alg = true then x.key.bind s.dge.keyOf else some []) = some k ∧
     (x.lane = none ∨ ∀ (y : Nat × DgeCtx), y ∈ s.dge.ctx → y.snd.readyAt = none) :=
  ⟨127, { dge := { ctx := [(127, { st := .running, alg := 1, declared := 1, fed := 1, msg := [0] })] } }, { st := .running, alg := 1, declared := 1, fed := 1, msg := [0] }, [], by decide⟩

theorem witness_DigestContextsHashWhatTheyAreFed_5 : ∃ (ctx : Fin 128) (s : State) (x : DgeCtx),
    tget s.dge.ctx ctx.val = some x ∧ (x.st = DgeSt.opened ∨ x.st = DgeSt.running ∨ x.st = DgeSt.saved) ∧ 0 < x.fed ∧ x.fed < x.declared ∧
     x.lane = none :=
  ⟨127, { dge := { ctx := [(127, { st := .running, alg := 1, declared := 2, fed := 1, msg := [0] })] } }, { st := .running, alg := 1, declared := 2, fed := 1, msg := [0] }, by decide⟩

theorem witness_DigestContextsHashWhatTheyAreFed_6 : ∃ (ctx : Fin 128) (s : State) (lane : Fin 32) (x : DgeCtx) (w : Nat),
    s.dge.openLanes.contains lane.val = true ∧ s.dge.ctx = [(ctx.val, x)] ∧ x.lane = none ∧ x.readyAt = some w :=
  ⟨127, { dge := { tested := true, ctx := [(127, { st := .opened, alg := 1, readyAt := some 0 })] } }, 31, { st := .opened, alg := 1, readyAt := some 0 }, 0, by decide⟩

/-! StreamContextsCodeTheirBlocks -/

theorem witness_StreamContextsCodeTheirBlocks_1 : ∃ (ctx : Fin 1024) (s : State) (kib : Nat),
    tget s.cpe.ctx ctx.val = none ∧ 4 ≤ kib ∧ kib ≤ 64 ∧ kib % 4 = 0 :=
  ⟨1023, State.reset, 64, by decide⟩

theorem witness_StreamContextsCodeTheirBlocks_2 : ∃ (ctx : Fin 1024) (s : State) (x : StreamCtx),
    tget s.cpe.ctx ctx.val = some x ∧ x.st = StreamSt.ready :=
  ⟨1023, { cpe := { ctx := [(1023, { st := .ready })] } }, { st := .ready }, by decide⟩

theorem witness_StreamContextsCodeTheirBlocks_3 : ∃ (ctx : Fin 1024) (s : State) (x : StreamCtx) (hdr : Option GrainHdr) (block : Bytes),
    tget s.cpe.ctx ctx.val = some x ∧ x.st = StreamSt.running ∧ x.closing = false ∧ x.offered = some (hdr, block) ∧
     (codeBlock x hdr block).snd = none ∧ (∀ (y : Nat × StreamCtx), y ∈ s.cpe.ctx → y.snd.st ≠ StreamSt.waiting) :=
  ⟨1023, { cpe := { ctx := [(1023, tStream)] } }, tStream, none, [], ⟨by decide, by decide, by decide, by decide, rfl, by decide⟩⟩

theorem witness_StreamContextsCodeTheirBlocks_4 : ∃ (ctx : Fin 1024) (s : State) (x : StreamCtx),
    tget s.cpe.ctx ctx.val = some x ∧ x.st ≠ StreamSt.running :=
  ⟨1023, { cpe := { ctx := [(1023, { st := .error })] } }, { st := .error }, by decide⟩

theorem witness_StreamContextsCodeTheirBlocks_5 : ∃ (s : State) (m : Vc3) (x : Session),
    s.writes m 2 x :=
  ⟨tS, tM, tX, by decide⟩

theorem witness_StreamContextsCodeTheirBlocks_6 : ∃ (s : State) (domain : Nat) (d : Domain),
    tget s.dxu.doms domain = some d ∧ (d.st = DomSt.loading ∨ d.st = DomSt.rebuilding) :=
  ⟨{ dxu := { doms := [(1, tDom .loading)] } }, 1, tDom .loading, by decide⟩

/-! PeerRecordsActOnThisHead -/

theorem witness_PeerRecordsActOnThisHead_1 : ∃ (h : RecHdr) (s : State) (domain : Nat) (iseq : Nat) (d : Domain),
    h.rsvOk = true ∧ tget s.dxu.doms domain = some d ∧ s.ownsGroup d.group = false ∧ iseq = d.iseq + 1 :=
  ⟨tHdr, { dxu := { doms := [(1, tDom .active)] } }, 1, 1, tDom .active, by decide⟩

theorem witness_PeerRecordsActOnThisHead_2 : ∃ (h : RecHdr) (region : Nat),
    h.rsvOk = true ∧ region < 256 :=
  ⟨tHdr, 255, by decide⟩

theorem witness_PeerRecordsActOnThisHead_3 : ∃ (h : RecHdr) (s : State) (pool : Nat) (rseq : Nat) (d : DrbSlot),
    h.rsvOk = true ∧ d ∈ s.pxe.drb ∧ d.peers = false ∧ d.pool = pool ∧ d.acked = false ∧ rseq ≤ d.rseq :=
  ⟨tHdr, { pxe := { drb := [⟨0, 0, 3, 0, 0, 5, false, 0, false⟩] } }, 0, 5, ⟨0, 0, 3, 0, 0, 5, false, 0, false⟩, by decide⟩

theorem witness_PeerRecordsActOnThisHead_4 : ∃ (h : RecHdr) (s : State) (first : Nat) (count : Nat) (g : Nat),
    h.rsvOk = true ∧ first ≤ g ∧ g < first + count ∧ g < 256 ∧ (s.leaseOf g).view = 0 :=
  ⟨tHdr, State.reset, 254, 2, 255, by decide⟩

theorem witness_PeerRecordsActOnThisHead_5 : ∃ (h : RecHdr) (s : State) (die : Nat) (units : Nat) (e : Nat) (l : Nat) (c : Nat) (sus : Nat) (len : Nat),
    h.rsvOk = true ∧ (s.ftu.die die).own = true ∧ (s.ftu.die die).leaving = false ∧ 1 ≤ units ∧ units ≤ 32 ∧ s.pmu.pstate ≠ PState.p4 ∧
     s.dbg.level < 2 ∧ s.dbg.action = none ∧ s.dsc.closedUntil ≤ s.dt ∧ s.peerSlot die units e l = some (c, sus, len) :=
  ⟨tHdr, { ftu := tDies }, 2048, 1, 0, 100000, ((({ ftu := tDies } : State).peerSlot 2048 1 0 100000).getD (0, 0, 0)).1, ((({ ftu := tDies } : State).peerSlot 2048 1 0 100000).getD (0, 0, 0)).2.1, ((({ ftu := tDies } : State).peerSlot 2048 1 0 100000).getD (0, 0, 0)).2.2, by decide⟩

theorem witness_PeerRecordsActOnThisHead_6 : ∃ (h : RecHdr) (s : State) (tag : Word) (a : PeerAsk) (b : PeerAsk) (start : BitVec 64),
    h.rsvOk = true ∧ List.find? (fun a => a.tag == BitVec.toNat tag && !a.answered) s.dsc.asks = some a ∧ b ∈ s.dsc.asks ∧ b.qp = a.qp ∧
     b.cid = a.cid ∧ b.answered = false ∧ b.tag ≠ a.tag ∧ start ≠ BitVec.allOnes 64 :=
  ⟨tHdr, { dsc := { asks := [⟨4, 2, 9, 0, 0, 0, false, none⟩, ⟨5, 2, 9, 1, 0, 0, false, none⟩] } }, 4, ⟨4, 2, 9, 0, 0, 0, false, none⟩, ⟨5, 2, 9, 1, 0, 0, false, none⟩, 0, by decide⟩

theorem witness_PeerRecordsActOnThisHead_7 : ∃ (h : RecHdr) (s : State) (tag : Word) (a : PeerAsk) (b : PeerAsk),
    h.rsvOk = true ∧ List.find? (fun a => a.tag == BitVec.toNat tag && !a.answered) s.dsc.asks = some a ∧ b ∈ s.dsc.asks ∧ b.qp = a.qp ∧
     b.cid = a.cid ∧ b.answered = false ∧ b.tag ≠ a.tag :=
  ⟨tHdr, { dsc := { asks := [⟨4, 2, 9, 0, 0, 0, false, none⟩, ⟨5, 2, 9, 1, 0, 0, false, none⟩] } }, 4, ⟨4, 2, 9, 0, 0, 0, false, none⟩, ⟨5, 2, 9, 1, 0, 0, false, none⟩, by decide⟩

theorem witness_PeerRecordsActOnThisHead_8 : ∃ (h : RecHdr) (s : State),
    h.rsvOk = true ∧ s.wc.keepRestored = true :=
  ⟨tHdr, { wc := { keepRestored := true } }, by decide⟩

theorem witness_PeerRecordsActOnThisHead_9 : ∃ (h : RecHdr) (s : State),
    h.rsvOk = true ∧ s.wc.mirrorSt = MirrorSt.none ∧ s.ha.paired = true :=
  ⟨tHdr, { ha := { paired := true } }, by decide⟩

/-! TheGovernorSamplesAndLimits -/

theorem witness_TheGovernorSamplesAndLimits_2 : ∃ (s : State),
    s.gov.mode = GovMode.closed ∧ 20 ≤ s.gov.implRun :=
  ⟨{ gov := { mode := .closed, implRun := 20 } }, by decide⟩

theorem witness_TheGovernorSamplesAndLimits_3 : ∃ (s : State),
    s.gov.mode = GovMode.model ∧ s.gov.modeReq = true ∧ 1000 ≤ s.gov.plausRun :=
  ⟨{ gov := { mode := .model, plausRun := 1000 } }, by decide⟩

theorem witness_TheGovernorSamplesAndLimits_4 : ∃ (s : State),
    100 ≤ s.gov.floorRun ∧ s.gov.unreachSec ≠ some (secOf s.dt) :=
  ⟨{ gov := { floorRun := 100 } }, by decide⟩

theorem witness_TheGovernorSamplesAndLimits_5 : ∃ (s : State),
    s.gov.capWin = s.dt / 100000000 :=
  ⟨State.reset, by decide⟩

theorem witness_TheGovernorSamplesAndLimits_6 : ∃ (s : State) (i : Injection),
    s.gov.inj = some i ∧ i.duration ≤ i.n :=
  ⟨{ gov := { inj := some ⟨1, false, 1, 4, 10, 4, 0⟩ } }, ⟨1, false, 1, 4, 10, 4, 0⟩, by decide⟩

theorem witness_TheGovernorSamplesAndLimits_7 : ∃ (s : State),
    s.gov.capRun = true ∧ s.gov.oneShot = true ∧ 4096 ≤ s.gov.ring.length :=
  ⟨{ gov := { capRun := true, oneShot := true, ring := List.replicate 4096 (0, 0, 0, 0) } }, ⟨rfl, rfl, Nat.le_of_eq (List.length_replicate ..).symm⟩⟩

/-! TheGovernorObeysItsRegisters -/

theorem witness_TheGovernorObeysItsRegisters_1 : ∃ (m : Vc3) (value : Word) (x : Session) (s : State),
    s.writes m 2 x ∧ tbit (BitVec.toNat value) 3 = true :=
  ⟨tM, 8, tX, tS, by decide⟩

theorem witness_TheGovernorObeysItsRegisters_2 : ∃ (m : Vc3) (x : Session) (s : State),
    s.writes m 2 x :=
  ⟨tM, tX, tS, by decide⟩

theorem witness_TheGovernorObeysItsRegisters_3 : ∃ (m : Vc3) (value : Word) (x : Session) (s : State),
    s.writes m 2 x ∧ tbit (BitVec.toNat value) 31 = true ∧ tbit (BitVec.toNat value) 30 = false ∧ s.gov.injAmp.cast * 10 ≤ s.gov.target ∧
     (s.gov.mode = GovMode.closed ∨ s.gov.mode = GovMode.model ∧ tbit (BitVec.toNat value) 27 = false) ∧ s.gov.inj = none ∧
     bits (BitVec.toNat value) 15 0 ≠ 0 :=
  ⟨tM, 0x80000001, tX, { tS with gov := { mode := .closed } }, by decide⟩

theorem witness_TheGovernorObeysItsRegisters_4 : ∃ (m : Vc3) (value : Word) (x : Session) (s : State) (i : Injection),
    s.writes m 2 x ∧ tbit (BitVec.toNat value) 31 = false ∧ tbit (BitVec.toNat value) 30 = true ∧ s.gov.inj = some i :=
  ⟨tM, 0x40000000, tX, { tS with gov := { inj := some ⟨1, false, 1, 4, 10, 4, 0⟩ } }, ⟨1, false, 1, 4, 10, 4, 0⟩, by decide⟩

theorem witness_TheGovernorObeysItsRegisters_5 : ∃ (m : Vc3) (value : Word) (x : Session) (s : State),
    s.writes m 2 x ∧ tbit (BitVec.toNat value) 31 = true ∧ tbit (BitVec.toNat value) 30 = false ∧ s.gov.mode ≠ GovMode.hold :=
  ⟨tM, 0x80000000, tX, tS, by decide⟩

theorem witness_TheGovernorObeysItsRegisters_6 : ∃ (m : Vc3) (value : Word) (x : Session) (s : State),
    s.writes m 2 x ∧ tbit (BitVec.toNat value) 30 = true :=
  ⟨tM, 0x40000000, tX, tS, by decide⟩

/-! MemoryErrorsAreCounted -/

theorem witness_MemoryErrorsAreCounted_1 : ∃ (s : State),
    s.mcu.running = true :=
  ⟨tMem, by decide⟩

theorem witness_MemoryErrorsAreCounted_3 : ∃ (s : State) (found : List (Nat × Nat × Option (Nat × Nat × Nat))),
    s.mcu.running = true ∧ (∀ (f : Nat × Nat × Option (Nat × Nat × Nat)), f ∈ found → f.snd.snd = none) :=
  ⟨tMem, [(11, 3, none)], by decide⟩

theorem witness_MemoryErrorsAreCounted_4 : ∃ (s : State) (ch : Fin 12),
    s.mcu.chSt.getD ch.val ChSt.untrained = ChSt.ready :=
  ⟨tMem, 11, by decide⟩

theorem witness_MemoryErrorsAreCounted_5 : ∃ (s : State) (ch : Fin 12) (region : Nat),
    s.mcu.chSt.getD ch.val ChSt.untrained = ChSt.ready ∧ region ≠ 14 :=
  ⟨tMem, 11, 13, by decide⟩

/-! TheSystemCacheConvertsAndRetires -/

theorem witness_TheSystemCacheConvertsAndRetires_1 : ∃ (s : State) (slice : Fin 64) (way : Fin 16),
    (tgetD s.slc.retired slice.val 0).getLsbD way.val = false ∧ s.rcc.hold = ResetSt.run :=
  ⟨{ rcc := tRun }, 63, 15, by decide⟩

theorem witness_TheSystemCacheConvertsAndRetires_2 : ∃ (s : State) (slice : Fin 64) (way : Fin 16) (holds : Fin 5),
    (tgetD s.slc.retired slice.val 0).getLsbD way.val = false ∧ s.rcc.hold = ResetSt.run ∧ holds.val ≠ 2 ∧ holds.val ≠ 3 :=
  ⟨{ rcc := tRun }, 63, 15, 4, by decide⟩

theorem witness_TheSystemCacheConvertsAndRetires_3 : ∃ (s : State) (m : Vc3) (value : Word) (x : Session),
    s.writes m 2 x ∧ 2 ≤ bits (BitVec.toNat value) 11 8 ∧ bits (BitVec.toNat value) 11 8 ≤ 12 ∧
     s.slc.tooFew (bits (BitVec.toNat value) 11 8) = false ∧ s.slc.busy = none ∧ bits (BitVec.toNat value) 11 8 ≠ s.slc.ways :=
  ⟨tS, tM, 0xC00, tX, by decide⟩

theorem witness_TheSystemCacheConvertsAndRetires_4 : ∃ (s : State) (at_ : Nat) (n : Nat),
    s.slc.busy = some (at_, n) :=
  ⟨{ slc := { busy := some (0, 4) } }, 0, 4, by decide⟩

theorem witness_TheSystemCacheConvertsAndRetires_5 : ∃ (s : State) (m : Vc3) (value : Word) (x : Session),
    s.writes m 3 x ∧ s.pmu.pstate = PState.p2 ∧ tbit (BitVec.toNat value) 0 = false ∧
     (s.slc.st = SlcSt.enabled ∨ s.slc.st = SlcSt.converting) :=
  ⟨tS, tM, 0, tX, by decide⟩

theorem witness_TheSystemCacheConvertsAndRetires_6 : ∃ (s : State) (m : Vc3) (value : Word) (x : Session),
    s.writes m 3 x ∧ s.pmu.pstate = PState.p2 ∧ tbit (BitVec.toNat value) 0 = true ∧ (s.slc.st = SlcSt.flushing ∨ s.slc.st = SlcSt.disabled) :=
  ⟨{ tS with slc := { st := .disabled, en := false } }, tM, 1, tX, by decide⟩

theorem witness_TheSystemCacheConvertsAndRetires_7 : ∃ (s : State),
    s.slc.st = SlcSt.flushing :=
  ⟨{ slc := { st := .flushing } }, by decide⟩

theorem witness_TheSystemCacheConvertsAndRetires_8 : ∃ (s : State) (qp : BitVec 14) (cid : BitVec 16) (c : Cmd) (e : Nat × Nat × Nat × Nat),
    s.cqe.cmd qp.toNat cid.toNat = some c ∧ c.complete = true ∧
     List.find? (fun y => y.fst == c.qp && y.snd.fst == c.cid) s.slc.staging = some e :=
  ⟨{ cqe := tRing [{ tCmd with expect := 1, got := 1 }], slc := { staging := [(2, 9, 0, 0)] } }, 2, 9, { tCmd with expect := 1, got := 1 }, (2, 9, 0, 0), by decide⟩

/-! ReadsOfFlashGiveTheirSectors -/

theorem witness_ReadsOfFlashGiveTheirSectors_1 : ∃ (tag : Word) (o : MediaOp) (num : Nat) (qp : Nat) (cid : Nat) (idx : Nat) (f : Fetch) (c : Cmd) (data : Bytes) (out : Bytes) (s : State) (pos : Fin 96) (corr : Nat),
    s.inFlight pos tag mRead o ∧ o.work = Work.fetch num ∧ s.lastPiece num f qp cid idx c ∧ s.storedRaw c.vol data out ∧
     corr < (s.ftu.dieType (opDie o)).refreshBits ∧ s.opOn (opDie o) = false :=
  ⟨4, tOp mRead 0 (.fetch 6), 6, 2, 9, 0, tFetch, tGets, tStored, tPlain, tGet, 8, 47, ⟨by decide, by decide, ⟨by decide, by decide, by decide, by decide, by decide, by decide, by decide, by decide, by decide, 1, tPart, by decide⟩, tStored_raw, by decide, by decide⟩⟩

theorem witness_ReadsOfFlashGiveTheirSectors_2 : ∃ (tag : Word) (o : MediaOp) (num : Nat) (qp : Nat) (cid : Nat) (idx : Nat) (f : Fetch) (c : Cmd) (data : Bytes) (out : Bytes) (s : State),
    tget s.link.ops (BitVec.toNat tag) = some o ∧ s.viaPeer o = true ∧ o.work = Work.fetch num ∧ s.lastPiece num f qp cid idx c ∧
     s.storedRaw c.vol data out :=
  ⟨4, tOp mRead 0 (.fetch 6), 6, 2, 9, 0, tFetch, tGets, tStored, tPlain, { tGet with ftu := { tGet.ftu with dies := [] } }, ⟨by decide, by decide, by decide, ⟨by decide, by decide, by decide, by decide, by decide, by decide, by decide, by decide, by decide, 1, tPart, by decide⟩, tStored_raw⟩⟩

theorem witness_ReadsOfFlashGiveTheirSectors_3 : ∃ (tag : Word) (qp : Nat) (cid : Nat) (idx : Nat) (f : Fetch) (c : Cmd) (out : Bytes) (s : State) (lane : Fin 48) (d : Decode),
    List.find? (fun d => d.tag == BitVec.toNat tag && d.lane == some lane.val) s.cpe.decodes = some d ∧ d.qp = qp ∧ d.cid = cid ∧
     d.part = idx ∧ s.lastPiece (BitVec.toNat tag) f qp cid idx c ∧ s.decodeGrain c.vol d.header d.data = Except.ok out :=
  ⟨6, 2, 9, 0, tFetch, tGets, tPlain, tDec, 47, ⟨6, 2, 9, 0, tGHdr, tPlain, 0, some 47, 5⟩, ⟨by decide, by decide, by decide, by decide, ⟨by decide, by decide, by decide, by decide, by decide, by decide, by decide, by decide, by decide, 1, tPart, by decide⟩, tDec_decodes⟩⟩

/-! ResetSourcesClearTheirScopes -/

theorem witness_ResetSourcesClearTheirScopes_2 : ∃ (s : State),
    s.rcc.hold ≠ ResetSt.cold :=
  ⟨{ rcc := tRun }, by decide⟩

theorem witness_ResetSourcesClearTheirScopes_4 : ∃ (s : State),
    s.rcc.hold ≠ ResetSt.cold ∧ s.rcc.trip = false :=
  ⟨{ rcc := { hold := .warm } }, by decide⟩

theorem witness_ResetSourcesClearTheirScopes_5 : ∃ (s : State) (sub : Fin 7),
    s.rcc.hold ≠ ResetSt.cold ∧ sub ≠ 0 :=
  ⟨{ rcc := tRun }, 6, by decide⟩

theorem witness_ResetSourcesClearTheirScopes_6 : ∃ (s : State),
    s.rcc.hold = ResetSt.run ∧ s.dbg.level < 2 :=
  ⟨{ rcc := tRun, dbg := { level := 1 } }, by decide⟩

theorem witness_ResetSourcesClearTheirScopes_7 : ∃ (s : State),
    s.rcc.hold = ResetSt.run :=
  ⟨{ rcc := tRun }, by decide⟩

theorem witness_ResetSourcesClearTheirScopes_8 : ∃ (s : State),
    s.rcc.hold = ResetSt.run ∧ s.vaulting = false ∧ s.dbg.level < 2 :=
  ⟨{ rcc := tRun, dbg := { level := 1 } }, by decide⟩

theorem witness_ResetSourcesClearTheirScopes_9 : ∃ (s : State),
    s.rcc.hold = ResetSt.run ∧ s.vaulting = false ∧ s.pmu.pstate ≠ PState.p3 :=
  ⟨{ rcc := tRun }, by decide⟩

theorem witness_ResetSourcesClearTheirScopes_10 : ∃ (s : State) (m : Vc3) (value : Word) (x : Session),
    s.rcc.hold = ResetSt.run ∧ s.writes m 3 x ∧ bits (BitVec.toNat value) 31 16 = 42435 ∧ tbit (BitVec.toNat value) 1 = true :=
  ⟨{ tS with rcc := tRun }, tM, 0xA5C30002, tX, by decide⟩

theorem witness_ResetSourcesClearTheirScopes_11 : ∃ (s : State) (m : Vc3) (value : Word) (x : Session),
    s.rcc.hold = ResetSt.run ∧ s.writes m 3 x ∧ bits (BitVec.toNat value) 31 16 = 42435 ∧ tbit (BitVec.toNat value) 1 = false ∧
     tbit (BitVec.toNat value) 0 = true ∧ s.rcc.acting = none ∧ s.vaulting = false :=
  ⟨{ tS with rcc := tRun }, tM, 0xA5C30001, tX, by decide⟩

/-! HeadsStartFromTheirSlot -/

theorem witness_HeadsStartFromTheirSlot_1 : ∃ (s : State),
    s.rcc.hold = ResetSt.cold ∧ s.rcc.fenceHold = false ∧ (s.rcc.trip = true → s.rcc.tripReset = true) :=
  ⟨State.reset, by decide⟩

theorem witness_HeadsStartFromTheirSlot_2 : ∃ (s : State) (straps : Straps) (i : Image),
    s.rcc.hold = ResetSt.cold ∧ s.rcc.fenceHold = false ∧ (s.rcc.trip = true → s.rcc.tripReset = true) ∧ s.rot.lifecycle ≠ Lifecycle.blank ∧
     straps.bootForce = 0 ∧ s.nvi.stA ≠ SlotSt.trial ∧ s.nvi.stB ≠ SlotSt.trial ∧ s.nvi.slotSt s.nvi.activeB = SlotSt.valid ∧
     s.slotGood s.nvi.activeB i :=
  ⟨{ nvi := { stA := .valid, slotA := some tImage } }, ⟨false, 0, false⟩, tImage, by decide⟩

theorem witness_HeadsStartFromTheirSlot_3 : ∃ (s : State) (i : Image),
    s.rcc.hold = ResetSt.warm ∧ s.slotGood s.rot.slotB i ∧ i.manifestDigest = s.rot.bootDigest :=
  ⟨{ rcc := { hold := .warm }, nvi := { slotA := some tImage }, rot := { bootDigest := [] } }, tImage, by decide⟩

theorem witness_HeadsStartFromTheirSlot_4 : ∃ (s : State),
    s.rcc.hold = ResetSt.run ∧ (∃ c, c ∈ s.mcu.chSt ∧ c = ChSt.training) :=
  ⟨{ rcc := tRun, mcu := { chSt := List.replicate 12 .training } }, by decide⟩

theorem witness_HeadsStartFromTheirSlot_5 : ∃ (s : State) (failures : List (Nat × Nat × Nat)),
    s.rcc.hold = ResetSt.run ∧ (∃ c, c ∈ s.mcu.chSt ∧ c = ChSt.training) ∧ (∃ f, f ∈ failures ∧ f.fst < 12) :=
  ⟨{ rcc := tRun, mcu := { chSt := List.replicate 12 .training } }, [(11, 1, 0)], by decide⟩

theorem witness_HeadsStartFromTheirSlot_6 : ∃ (s : State),
    s.rcc.hold = ResetSt.run ∧ s.cfg.epoch ≠ 0 ∧ s.rot.ready = false ∧ s.mcu.popOk = true ∧ s.mcu.running = true ∧ s.coresRun = true ∧
     (s.rot.lifecycle = Lifecycle.provisioned ∨ s.rot.lifecycle = Lifecycle.field) :=
  ⟨{ tMem with rcc := tRun, cfg := tCfg, rot := { stage := 14 } }, by decide⟩

theorem witness_HeadsStartFromTheirSlot_7 : ∃ (s : State) (i : Image),
    s.pmu.pstate = PState.p3 ∧ s.rcc.hold = ResetSt.run ∧ s.slotGood s.rot.slotB i ∧ i.manifestDigest = s.rot.bootDigest :=
  ⟨{ rcc := tRun, pmu := { pstate := .p3 }, nvi := { slotA := some tImage }, rot := { bootDigest := [] } }, tImage, by decide⟩

/-! BlocksAndQuadsAreResetAndReleased -/

theorem witness_BlocksAndQuadsAreResetAndReleased_1 : ∃ (s : State) (m : Vc3) (value : Word) (x : Session),
    s.writes m 3 x ∧ bits (BitVec.toNat value) 13 0 ≠ 0 ∧ s.rcc.hold = ResetSt.run ∧ s.rcc.acting = none :=
  ⟨{ tS with rcc := tRun }, tM, 0x2000, tX, by decide⟩

theorem witness_BlocksAndQuadsAreResetAndReleased_2 : ∃ (s : State) (m : Vc3) (value : Word) (x : Session),
    s.writes m 3 x ∧ bits (BitVec.toNat value) 13 0 ≠ 0 ∧ s.rcc.hold = ResetSt.run ∧ s.rcc.acting = none ∧
     bits (BitVec.toNat value) 13 0 = 32 ∧ s.rcc.pendingBlocks.getLsbD 5 = false :=
  ⟨{ tS with rcc := tRun }, tM, 32, tX, by decide⟩

theorem witness_BlocksAndQuadsAreResetAndReleased_3 : ∃ (s : State) (b : Fin 14),
    s.rcc.pendingBlocks.getLsbD b.val = true ∧ s.rcc.hold = ResetSt.run :=
  ⟨{ rcc := { hold := .run, pendingBlocks := 0x2000 } }, 13, by decide⟩

theorem witness_BlocksAndQuadsAreResetAndReleased_4 : ∃ (s : State),
    s.rcc.hold ≠ ResetSt.run :=
  ⟨State.reset, by decide⟩

theorem witness_BlocksAndQuadsAreResetAndReleased_5 : ∃ (s : State) (mask : BitVec 16),
    mask ≠ 65535 ∧ mask.toNat &&& s.rcc.pendingBlocks.toNat ≠ 0 :=
  ⟨{ rcc := { hold := .run, pendingBlocks := 0x2000 } }, 0x2000, by decide⟩

theorem witness_BlocksAndQuadsAreResetAndReleased_6 : ∃ (s : State) (quad : Fin 36),
    s.rcc.hold = ResetSt.run ∧ s.pmu.pstate ≠ PState.p3 ∧ (∀ (x : Nat × Nat), x ∈ s.link.quadDown → x.fst ≠ quad.val) :=
  ⟨{ rcc := tRun }, 35, by decide⟩

theorem witness_BlocksAndQuadsAreResetAndReleased_7 : ∃ (s : State) (quad : Fin 36) (x : Nat × Nat),
    List.find? (fun x => x.fst == quad.val) s.link.quadDown = some x :=
  ⟨{ link := { quadDown := [(35, 0)] } }, 35, (35, 0), by decide⟩

/-! TokensMoveTheDebugLevelAndLifecycle -/

theorem witness_TokensMoveTheDebugLevelAndLifecycle_1 : ∃ (m : Vc3) (x : Session) (s : State) (action : Byte),
    s.accepts m 136 false (actionPrivilege s.rot.lifecycle (BitVec.toNat action)) x ∧ action ≠ 0 ∧ BitVec.toNat action ≤ 5 :=
  ⟨tM, tX, tS, 5, by decide⟩

theorem witness_TokensMoveTheDebugLevelAndLifecycle_2 : ∃ (s : State) (n : Nonce),
    s.dbg.nonce = some n :=
  ⟨{ dbg := { nonce := some ⟨1, 1, 0, 0⟩ } }, ⟨1, 1, 0, 0⟩, by decide⟩

theorem witness_TokensMoveTheDebugLevelAndLifecycle_3 : ∃ (m : Vc3) (x : Session) (s : State) (k : Token),
    s.tokenHolds m 1 k x :=
  ⟨tM, tX, { tS with dbg := { nonce := some ⟨1, 1, 0, 0⟩ } }, ⟨true, 0, 0, true, false, 0⟩, by decide⟩

theorem witness_TokensMoveTheDebugLevelAndLifecycle_4 : ∃ (m : Vc3) (x : Session) (s : State) (k : Token),
    s.tokenHolds m 2 k x :=
  ⟨tM, tX, { tS with dbg := { nonce := some ⟨2, 1, 0, 0⟩, level := 2 }, rot := { lifecycle := .ret, wrapErased := true } }, ⟨true, 0, 0, true, false, 0⟩, by decide⟩

theorem witness_TokensMoveTheDebugLevelAndLifecycle_5 : ∃ (m : Vc3) (x : Session) (s : State) (k : Token),
    s.tokenHolds m 3 k x :=
  ⟨tM, tX, { tS with dbg := { nonce := some ⟨3, 1, 0, 0⟩ }, rot := { image := some tImage } }, ⟨true, 0, 0, false, true, 63⟩, by decide⟩

theorem witness_TokensMoveTheDebugLevelAndLifecycle_6 : ∃ (m : Vc3) (x : Session) (s : State) (k : Token),
    s.tokenHolds m 4 k x :=
  ⟨tM, tX, { tS with dbg := { nonce := some ⟨4, 1, 0, 0⟩ } }, ⟨true, 0, 0, true, false, 0⟩, by decide⟩

theorem witness_TokensMoveTheDebugLevelAndLifecycle_7 : ∃ (m : Vc3) (x : Session) (s : State) (k : Token),
    s.tokenHolds m 5 k x :=
  ⟨tM, tX, { tS with dbg := { nonce := some ⟨5, 1, 0, 0⟩ } }, ⟨true, 0, 0, true, false, 0⟩, by decide⟩

theorem witness_TokensMoveTheDebugLevelAndLifecycle_8 : ∃ (s : State) (a : DbgAct),
    s.dbg.action = some a ∧ s.dieOps = false :=
  ⟨{ dbg := { action := some ⟨2, 0, 1, 7, 0⟩ } }, ⟨2, 0, 1, 7, 0⟩, by decide⟩

theorem witness_TokensMoveTheDebugLevelAndLifecycle_9 : ∃ (m : Vc3) (x : Session) (s : State),
    s.accepts m 138 false 3 x :=
  ⟨tM, tX, tS, by decide⟩

/-! PowerStatesAreEnteredAsAsked -/

theorem witness_PowerStatesAreEnteredAsAsked_1 : ∃ (m : Vc3) (x : Session) (s : State),
    s.accepts m 139 false 2 x ∧ s.pmu.pstate ≠ PState.p4 ∧ s.pmu.trans = none ∧ s.dbg.action = none ∧ s.dbg.level < 2 :=
  ⟨tM, tX, { tS with dbg := { level := 1 } }, by decide⟩

theorem witness_PowerStatesAreEnteredAsAsked_2 : ∃ (m : Vc3) (x : Session) (s : State),
    s.accepts m 139 false 2 x ∧ s.pmu.pstate ≠ PState.p4 ∧ s.pmu.trans = none ∧ s.dbg.action = none ∧ s.pmu.pstate ≠ PState.p2 :=
  ⟨tM, tX, { tS with pmu := { pstate := .p0 } }, by decide⟩

theorem witness_PowerStatesAreEnteredAsAsked_3 : ∃ (m : Vc3) (x : Session) (s : State),
    s.accepts m 139 false 2 x ∧ s.pmu.pstate ≠ PState.p4 ∧ s.pmu.trans = none ∧ s.dbg.action = none ∧ s.pmu.pstate = PState.p2 ∧
     s.cacheEmpty = true ∧ (∀ (c : Commit), c ∈ s.ftu.commits → c.durable = true) ∧ s.ha.held = [] ∧ s.dbg.level < 2 ∧
     (s.rot.lifecycle = Lifecycle.provisioned ∨ s.rot.lifecycle = Lifecycle.field) :=
  ⟨tM, tX, tS, by decide⟩

theorem witness_PowerStatesAreEnteredAsAsked_4 : ∃ (s : State) (k : PmSet),
    s.pmu.trans = some k ∧ k.target = 2 ∧ s.cqe.cmds = [] :=
  ⟨{ pmu := { pstate := .p0, trans := some ⟨2, 0, 1, 7, 0⟩ } }, ⟨2, 0, 1, 7, 0⟩, by decide⟩

theorem witness_PowerStatesAreEnteredAsAsked_5 : ∃ (s : State) (k : PmSet),
    s.pmu.trans = some k ∧ k.target = 3 :=
  ⟨{ pmu := { trans := some ⟨3, 0, 1, 7, 0⟩ } }, ⟨3, 0, 1, 7, 0⟩, by decide⟩

theorem witness_PowerStatesAreEnteredAsAsked_6 : ∃ (m : Vc3) (x : Session) (s : State),
    s.accepts m 140 false 1 x :=
  ⟨tM, tX, tS, by decide⟩

theorem witness_PowerStatesAreEnteredAsAsked_7 : ∃ (s : State) (i : TapInstr),
    tapAllowed s.rot.lifecycle s.dbg.level i = true ∧ i ≠ TapInstr.extest ∧ i ≠ TapInstr.clamp ∧ i ≠ TapInstr.highz ∧ i ≠ TapInstr.other :=
  ⟨State.reset, .idcode, by decide⟩

theorem witness_PowerStatesAreEnteredAsAsked_8 : ∃ (s : State) (i : TapInstr),
    tapAllowed s.rot.lifecycle s.dbg.level i = true ∧ (i = TapInstr.extest ∨ i = TapInstr.clamp ∨ i = TapInstr.highz) :=
  ⟨State.reset, .highz, by decide⟩

theorem witness_PowerStatesAreEnteredAsAsked_9 : ∃ (s : State) (i : TapInstr),
    tapAllowed s.rot.lifecycle s.dbg.level i = false :=
  ⟨State.reset, .debugPort, by decide⟩

theorem witness_PowerStatesAreEnteredAsAsked_10 : ∃ (s : State),
    2 ≤ s.dbg.level ∧ s.rcc.hold = ResetSt.run :=
  ⟨{ rcc := tRun, dbg := { level := 2 } }, by decide⟩

/-! RegistersAreReadAndWritten -/

theorem witness_RegistersAreReadAndWritten_1 : ∃ (m : Vc3) (x : Session) (s : State) (offset : Word) (count : BitVec 16),
    s.accepts m 48 false 1 x ∧ (s.heard m).regsExist offset.toNat count.toNat = true :=
  ⟨tM, tX, tS, 0x10000, 1, by decide⟩

theorem witness_RegistersAreReadAndWritten_2 : ∃ (m : Vc3) (x : Session) (s : State),
    s.writes m 2 x ∧ s.rcc.acting = none :=
  ⟨tM, tX, tS, by decide⟩

theorem witness_RegistersAreReadAndWritten_6 : ∃ (m : Vc3) (x : Session) (s : State) (offset : Word),
    s.accepts m 49 false 1 x ∧ (s.heard m).regsExist (BitVec.toNat offset) 1 = true ∧ x.privilege < writePrivilege (BitVec.toNat offset) ∧
     s.rcc.acting = none :=
  ⟨tM, { tX with privilege := 1 }, { cqe := tSes { tX with privilege := 1 } }, 0x500000, by decide⟩

/-! SelfTestsRunItemByItem -/

theorem witness_SelfTestsRunItemByItem_1 : ∃ (s : State) (m : Vc3) (value : Word) (x : Session),
    s.writes m 2 x ∧ tbit value.toNat 31 = true ∧ tbit value.toNat 30 = false ∧ s.selfTestRefusal (bits value.toNat 1 0) = 0 ∧
     40 ≤ (sharesGranted s.dsc.shareCfg ({ s with evr := { s.evr with stRunning := true } } : State).raises).getD 6 0 :=
  ⟨{ tS with ha := { role := .active } }, tM, 0x80000002, tX, by decide⟩

theorem witness_SelfTestsRunItemByItem_2 : ∃ (s : State) (m : Vc3) (value : Word) (x : Session),
    s.writes m 2 x ∧ tbit (BitVec.toNat value) 31 = false ∧ tbit (BitVec.toNat value) 30 = true ∧ s.evr.stRunning = true :=
  ⟨{ tS with evr := { stRunning := true } }, tM, 0x40000000, tX, by decide⟩

theorem witness_SelfTestsRunItemByItem_3 : ∃ (s : State),
    s.evr.stRunning = true :=
  ⟨{ evr := { stRunning := true } }, by decide⟩

theorem witness_SelfTestsRunItemByItem_7 : ∃ (temp : Int),
    temp < 1000 :=
  ⟨999, by decide⟩

theorem witness_SelfTestsRunItemByItem_8 : ∃ (s : State) (temp : Int),
    1000 ≤ temp ∧ s.evr.hotSaid = false :=
  ⟨State.reset, 1000, by decide⟩

/-! TheBoardIsManaged -/

theorem witness_TheBoardIsManaged_1 : ∃ (s : State) (i : Image),
    s.avsOn = true ∧ s.glb.avsMv ≠ 0 ∧ s.rot.image = some i :=
  ⟨{ tVolt with glb := { avsRun := true, avsMv := 750 } }, tImage, by decide⟩

theorem witness_TheBoardIsManaged_2 : ∃ (s : State),
    s.avsOn = true :=
  ⟨tVolt, by decide⟩

theorem witness_TheBoardIsManaged_3 : ∃ (s : State) (k : Fin 4) (a : Nat),
    s.avsOn = true ∧ s.vrAddrs[k.val]? = some a ∧ s.glb.avsRetry < 3 :=
  ⟨{ tVolt with glb := { avsRun := true, avsRetry := 2 } }, 0, 0x20, by decide⟩

theorem witness_TheBoardIsManaged_4 : ∃ (s : State) (k : Fin 4) (a : Nat),
    s.avsOn = true ∧ s.vrAddrs[k.val]? = some a ∧ 3 ≤ s.glb.avsRetry :=
  ⟨{ tVolt with glb := { avsRun := true, avsRetry := 3 } }, 0, 0x20, by decide⟩

theorem witness_TheBoardIsManaged_5 : ∃ (s : State) (offset : Word),
    s.glb.i3cUp = true ∧ (i3cEnd (BitVec.toNat offset)).isSome = true :=
  ⟨{ glb := { i3cUp := true } }, 0x37FFC, by decide⟩

theorem witness_TheBoardIsManaged_6 : ∃ (s : State) (e : Nat),
    s.glb.i3cUp = true ∧ i3cEnd s.glb.i3cOff = some e :=
  ⟨{ glb := { i3cUp := true, i3cOff := 4 } }, 8, by decide⟩

theorem witness_TheBoardIsManaged_7 : ∃ (s : State) (value : Word),
    s.glb.i3cUp = true ∧ (BitVec.getLsbD value 0 = false ∨ s.pmu.pstate ≠ PState.p3 ∨ s.rcc.hold ≠ ResetSt.run) :=
  ⟨{ glb := { i3cUp := true } }, 0, by decide⟩

theorem witness_TheBoardIsManaged_8 : ∃ (s : State) (value : Word) (i : Image),
    s.glb.i3cUp = true ∧ BitVec.getLsbD value 0 = true ∧ s.pmu.pstate = PState.p3 ∧ s.rcc.hold = ResetSt.run ∧ s.slotGood s.rot.slotB i ∧
     i.manifestDigest = s.rot.bootDigest :=
  ⟨{ rcc := tRun, pmu := { pstate := .p3 }, nvi := { slotA := some tImage }, rot := { bootDigest := [] }, glb := { i3cUp := true } }, 1, tImage, by decide⟩

theorem witness_TheBoardIsManaged_9 : ∃ (s : State),
    s.glb.i3cUp = true :=
  ⟨{ glb := { i3cUp := true } }, by decide⟩

/-! ConfigurationsAreStagedAndCommitted -/

theorem witness_ConfigurationsAreStagedAndCommitted_1 : ∃ (m : Vc3) (x : Session) (s : State) (len : Nat),
    s.accepts m 96 false 2 x ∧ s.cfg.staging = none ∧ len ≤ maxDelta :=
  ⟨tM, tX, tS, maxDelta, by decide⟩

theorem witness_ConfigurationsAreStagedAndCommitted_2 : ∃ (m : Vc3) (x : Session) (s : State) (g : Staging) (len : Nat),
    s.cfg.staging = some g ∧ g.sess = m.sess.toNat ∧ g.commit = none ∧ s.accepts m 97 false 2 x ∧ g.off + len ≤ g.len :=
  ⟨tM, tX, { tS with cfg := { staging := some tStage } }, tStage, 64, by decide⟩

theorem witness_ConfigurationsAreStagedAndCommitted_3 : ∃ (m : Vc3) (x : Session) (s : State) (g : Staging),
    s.cfg.staging = some g ∧ g.sess = m.sess.toNat ∧ g.commit = none ∧ s.accepts m 99 false 2 x :=
  ⟨tM, tX, { tS with cfg := { staging := some tStage } }, tStage, by decide⟩

theorem witness_ConfigurationsAreStagedAndCommitted_4 : ∃ (m : Vc3) (x : Session) (s : State) (g : Staging) (c : CommitRec),
    s.cfg.staging = some g ∧ g.sess = m.sess.toNat ∧ g.commit = none ∧ s.accepts m 98 false 2 x ∧ c.sigOk = true ∧ c.chainOk = true ∧
     c.epoch = g.epoch ∧ c.base = g.base ∧ (s.heard m).commitFault c g.recs = none ∧ s.cfg.offer = none ∧
     (s.heard m).identifiable (s.cfg.after c g.recs) = [] ∧ s.peerAway = true :=
  ⟨tM, tX, { tS with cfg := { staging := some tStage }, ha := { peerFailed := true } }, tStage, tCommit, by decide⟩

theorem witness_ConfigurationsAreStagedAndCommitted_5 : ∃ (m : Vc3) (x : Session) (s : State) (g : Staging) (c : CommitRec),
    s.cfg.staging = some g ∧ g.sess = m.sess.toNat ∧ g.commit = none ∧ s.accepts m 98 false 2 x ∧ c.sigOk = true ∧ c.chainOk = true ∧
     c.epoch = g.epoch ∧ c.base = g.base ∧ (s.heard m).commitFault c g.recs = none ∧ s.cfg.offer = none ∧
     (s.heard m).identifiable (s.cfg.after c g.recs) = [] ∧ s.peerAway = false :=
  ⟨tM, tX, { tS with cfg := { staging := some tStage } }, tStage, tCommit, by decide⟩

theorem witness_ConfigurationsAreStagedAndCommitted_6 : ∃ (m : Vc3) (s : State) (g : Staging),
    s.cfg.staging = some g ∧ g.sess = m.sess.toNat ∧ g.commit = none ∧ s.sessionOpen g.sess = false :=
  ⟨tM, { cfg := { staging := some tStage } }, tStage, by decide⟩

theorem witness_ConfigurationsAreStagedAndCommitted_7 : ∃ (m : Vc3) (s : State) (g : Staging) (y : Session),
    s.cfg.staging = some g ∧ g.sess = m.sess.toNat ∧ g.commit = none ∧ tget s.cqe.sessions g.sess = some y ∧ s.sessionOpen g.sess = true :=
  ⟨tM, { tS with cfg := { staging := some tStage } }, tStage, tX, by decide⟩

theorem witness_ConfigurationsAreStagedAndCommitted_8 : ∃ (m : Vc3) (x : Session) (s : State),
    s.accepts m 100 false 1 x :=
  ⟨tM, tX, tS, by decide⟩

theorem witness_ConfigurationsAreStagedAndCommitted_9 : ∃ (m : Vc3) (x : Session) (s : State),
    s.accepts m 101 false 2 x :=
  ⟨tM, tX, tS, by decide⟩

/-! HeadsAgreeOnTheConfiguration -/

theorem witness_HeadsAgreeOnTheConfiguration_1 : ∃ (s : State),
    s.cfg.staging = none :=
  ⟨State.reset, by decide⟩

theorem witness_HeadsAgreeOnTheConfiguration_2 : ∃ (s : State) (o : Offer) (len : Nat) (recs : List CfgRec),
    s.cfg.offer = some o ∧ o.prepared = false ∧ s.cfg.staging = none ∧ o.off + len < o.len :=
  ⟨{ cfg := { offer := some ⟨tCommit, 64, 0, [], [], false⟩ } }, ⟨tCommit, 64, 0, [], [], false⟩, 63, [], by decide⟩

theorem witness_HeadsAgreeOnTheConfiguration_3 : ∃ (s : State) (o : Offer) (len : Nat) (recs : List CfgRec),
    s.cfg.offer = some o ∧ o.prepared = false ∧ s.cfg.staging = none ∧ o.len ≤ o.off + len ∧ o.commit.epoch ≠ s.cfg.epoch ∧
     ({ s with cfg := { s.cfg with offer := some { o with off := o.off + len, recs := o.recs ++ recs } } } : State).commitFault o.commit (o.recs ++ recs) = none ∧
     ({ s with cfg := { s.cfg with offer := some { o with off := o.off + len, recs := o.recs ++ recs } } } : State).identifiable (s.cfg.after o.commit (o.recs ++ recs)) = [] :=
  ⟨{ cfg := { offer := some ⟨tCommit, 64, 0, [], [], false⟩ } }, ⟨tCommit, 64, 0, [], [], false⟩, 64, [tArray], by decide⟩

theorem witness_HeadsAgreeOnTheConfiguration_4 : ∃ (s : State) (g : Staging) (k : CommitRec) (port : Nat) (req : Nat) (at_ : Nat),
    s.cfg.staging = some g ∧ g.commit = some (k, port, req) ∧ g.offeredAt = some at_ :=
  ⟨{ cfg := { staging := some tOffered } }, tOffered, tCommit, 0, 7, 0, by decide⟩

theorem witness_HeadsAgreeOnTheConfiguration_5 : ∃ (s : State) (g : Staging) (k : CommitRec) (port : Nat) (req : Nat) (at_ : Nat) (result : Byte),
    s.cfg.staging = some g ∧ g.commit = some (k, port, req) ∧ g.offeredAt = some at_ ∧ result ≠ 0 ∧ s.freshModules (s.stagedSet g k) = [] :=
  ⟨{ cfg := { staging := some tOffered } }, tOffered, tCommit, 0, 7, 0, 8, by decide⟩

theorem witness_HeadsAgreeOnTheConfiguration_6 : ∃ (s : State) (g : Staging) (k : CommitRec) (port : Nat) (req : Nat) (at_ : Nat),
    s.cfg.staging = some g ∧ g.commit = some (k, port, req) ∧ g.offeredAt = some at_ ∧ s.freshModules (s.stagedSet g k) = [] :=
  ⟨{ cfg := { staging := some tOffered } }, tOffered, tCommit, 0, 7, 0, by decide⟩

theorem witness_HeadsAgreeOnTheConfiguration_7 : ∃ (s : State) (g : Staging) (k : CommitRec) (port : Nat) (req : Nat) (pos : Fin 96) (tag : Word) (o : MediaOp) (serial : Nat) (sigOk : Bool) (foreign : Bool),
    s.cfg.staging = some g ∧ g.commit = some (k, port, req) ∧ s.inFlight pos tag mIdent o ∧ g.idents = [pos.val] ∧ s.cfg.offer = none ∧
     s.cfg.taking = none ∧ identFault { s.cfg with recs := s.cfg.after k g.recs } pos.val serial sigOk foreign = 0 ∧ s.peerAway = false :=
  ⟨{ link := tFly (tOp mIdent 0 .ident), cfg := { staging := some { tOffered with idents := [8], offeredAt := none } } }, { tOffered with idents := [8], offeredAt := none }, tCommit, 0, 7, 8, 4, tOp mIdent 0 .ident, 0, true, false, by decide⟩

theorem witness_HeadsAgreeOnTheConfiguration_8 : ∃ (s : State) (g : Staging) (k : CommitRec) (port : Nat) (req : Nat) (pos : Fin 96) (tag : Word) (o : MediaOp) (serial : Nat) (sigOk : Bool) (foreign : Bool),
    s.cfg.staging = some g ∧ g.commit = some (k, port, req) ∧ s.inFlight pos tag mIdent o ∧ g.idents = [pos.val] ∧ s.cfg.offer = none ∧
     s.cfg.taking = none ∧ identFault { s.cfg with recs := s.cfg.after k g.recs } pos.val serial sigOk foreign ≠ 0 :=
  ⟨{ link := tFly (tOp mIdent 0 .ident), cfg := { staging := some { tOffered with idents := [8], offeredAt := none, recs := [tModule] } } }, { tOffered with idents := [8], offeredAt := none, recs := [tModule] }, tCommit, 0, 7, 8, 4, tOp mIdent 0 .ident, 1, false, false, by decide⟩

theorem witness_HeadsAgreeOnTheConfiguration_9 : ∃ (s : State) (k : CommitRec),
    s.cfg.commit = some k :=
  ⟨{ cfg := { commit := some tCommit } }, tCommit, by decide⟩

theorem witness_HeadsAgreeOnTheConfiguration_10 : ∃ (s : State) (k : CommitRec) (recs : List CfgRec),
    s.cfg.fetching = true ∧ s.cfg.epoch < k.epoch ∧
     s.commitFault { epoch := k.epoch, base := 0, array := k.array, digestFull := k.digestFull, sigOk := k.sigOk, chainOk := k.chainOk, digestOk := k.digestOk } recs = none ∧
     s.identifiable (s.cfg.after { epoch := k.epoch, base := 0, array := k.array, digestFull := k.digestFull, sigOk := k.sigOk, chainOk := k.chainOk, digestOk := k.digestOk } recs) = [] :=
  ⟨{ cfg := { fetching := true } }, tCommit, [tArray], by decide⟩

/-! ImagesAreUpdatedAndConfirmed -/

theorem witness_ImagesAreUpdatedAndConfirmed_1 : ∃ (m : Vc3) (x : Session) (s : State) (len : Nat),
    s.accepts m 104 false 2 x ∧ s.nvi.update m.sess.toNat = none ∧ len ≤ 127 * 2 ^ 20 :=
  ⟨tM, tX, tS, 127 * 2 ^ 20, by decide⟩

theorem witness_ImagesAreUpdatedAndConfirmed_2 : ∃ (m : Vc3) (x : Session) (s : State) (u : Update) (len : Nat),
    s.nvi.update m.sess.toNat = some u ∧ s.accepts m 105 false 2 x ∧ u.off + len ≤ u.len :=
  ⟨tM, tX, { tS with nvi := { updates := [⟨1, 64, 0, 0⟩] } }, ⟨1, 64, 0, 0⟩, 64, by decide⟩

theorem witness_ImagesAreUpdatedAndConfirmed_3 : ∃ (m : Vc3) (x : Session) (s : State) (u : Update),
    s.nvi.update m.sess.toNat = some u ∧ s.accepts m 106 false 2 x :=
  ⟨tM, tX, { tS with nvi := { updates := [⟨1, 64, 0, 0⟩] } }, ⟨1, 64, 0, 0⟩, by decide⟩

theorem witness_ImagesAreUpdatedAndConfirmed_4 : ∃ (m : Vc3) (x : Session) (s : State) (i : Image),
    s.accepts m 107 false 2 x ∧ s.rot.trial = true ∧ s.rot.ready = true ∧ s.rot.image = some i :=
  ⟨tM, tX, { tS with rot := { trial := true, ready := true, image := some tImage } }, tImage, by decide⟩

theorem witness_ImagesAreUpdatedAndConfirmed_5 : ∃ (m : Vc3) (x : Session) (s : State),
    s.accepts m 108 false 2 x :=
  ⟨tM, tX, tS, by decide⟩

theorem witness_ImagesAreUpdatedAndConfirmed_6 : ∃ (s : State) (u : Update),
    s.nvi.updates = [u] ∧ s.sessionOpen u.sess = true :=
  ⟨{ tS with nvi := { updates := [⟨1, 64, 0, 0⟩] } }, ⟨1, 64, 0, 0⟩, by decide⟩

theorem witness_ImagesAreUpdatedAndConfirmed_7 : ∃ (m : Vc3) (x : Session) (s : State) (chain : Byte),
    s.accepts m 128 false 1 x ∧ (chain = 1 ∨ chain = 2) :=
  ⟨tM, tX, tS, 2, by decide⟩

theorem witness_ImagesAreUpdatedAndConfirmed_8 : ∃ (m : Vc3) (x : Session) (s : State),
    s.accepts m 129 false 1 x :=
  ⟨tM, tX, tS, by decide⟩

theorem witness_ImagesAreUpdatedAndConfirmed_9 : ∃ (s : State) (slot : Fin 4129) (k : Bytes),
    tget s.xts.keys slot.val = some k ∧ s.dbg.level < 2 :=
  ⟨{ xts := { keys := [(4128, [])] } }, 4128, [], by decide⟩

theorem witness_ImagesAreUpdatedAndConfirmed_10 : ∃ (s : State) (slot : Fin 4129) (k : Bytes),
    (∃ r, r ∈ s.xts.reload ∧ r.fst = slot.val) ∧ s.dbg.level < 2 ∧ tget s.cfg.keySlots slot.val = some k :=
  ⟨{ xts := { reload := [(4128, 0)] }, cfg := { recs := [⟨0x1C, true, 0, some (.vaultKey ⟨true, []⟩)⟩] } }, 4128, [], by decide⟩

/-! FramesAreCodedPackedAndCommitted -/

theorem witness_FramesAreCodedPackedAndCommitted_1 : ∃ (s : State) (frame : Nat) (lane : Fin 48) (f : Frame) (key : Bytes),
    (frame, lane.val) ∈ s.cpe.comps ∧ tget s.wc.frames frame = some f ∧ tget s.xts.keys (s.dataSlot f.desc.vol) = some key :=
  ⟨{ cpe := { comps := [(0, 47)] }, wc := { frames := [(0, tFrame)] }, cfg := tCfg, xts := { keys := [(4096, [])] } }, 0, 47, tFrame, [], by decide⟩

theorem witness_FramesAreCodedPackedAndCommitted_2 : ∃ (s : State) (pool : Fin 16) (k : Stripe),
    List.find? (fun t => t.pool == pool.val && t.kind == 0 && !t.issued && !t.grains.isEmpty) s.ftu.stripes = some k :=
  ⟨{ ftu := { stripes := [{ tStripe with grains := [tPacked] }] } }, 0, { tStripe with grains := [tPacked] }, by decide⟩

theorem witness_FramesAreCodedPackedAndCommitted_3 : ∃ (s : State) (c : Commit) (k : Stripe),
    s.ftu.commits = [c] ∧ c.issuedAt = none ∧ c.updates ≠ [] ∧ (∀ (u : Update1), u ∈ c.updates → (∀ (r : State), r.heldVersion u = false) ∧
     ∀ (r : State), (r.applyUpdate u).ftu = r.ftu) ∧
     List.find? (fun t => t.pool == c.pool && t.kind == 2 && !t.issued && t.headB == s.glb.headB) s.ftu.stripes = some k :=
  ⟨{ ftu := { commits := [⟨0, 0, [.layout 0 1], 0, none, 0, false⟩], stripes := [{ tStripe with kind := 2 }] } }, ⟨0, 0, [.layout 0 1], 0, none, 0, false⟩, { tStripe with kind := 2 }, ⟨rfl, rfl, by decide, fun u hu => by simp at hu; subst hu; exact ⟨fun _ => rfl, fun _ => rfl⟩, by decide⟩⟩

theorem witness_FramesAreCodedPackedAndCommitted_4 : ∃ (s : State) (seg : Nat) (g : Segment),
   
     List.find? (fun g => g.seq == seg && (g.st == SegSt.victim || g.kind == 3 && g.st == SegSt.sealed) && s.segDead g && s.segQuiet g) s.ftu.segs = some g :=
  ⟨{ ftu := { segs := [tSeg .victim] } }, 3, tSeg .victim, by decide⟩

theorem witness_FramesAreCodedPackedAndCommitted_5 : ∃ (s : State) (h : RecHdr) (vol : Nat) (old : BitVec 64),
    h.rsvOk = true ∧ s.moveOwner vol = true ∧ s.referenced (entryOf old.toNat) = true :=
  ⟨{ ftu := { pages := [{ vol := 5, page := 0, epoch := 0, entries := [(0, entryOf 1)] }] } }, tHdr, 5, 1, by decide⟩

theorem witness_FramesAreCodedPackedAndCommitted_6 : ∃ (s : State) (h : RecHdr) (vol : Nat) (old : BitVec 64),
    h.rsvOk = true ∧ s.moveOwner vol = true ∧ s.referenced (entryOf old.toNat) = false :=
  ⟨State.reset, tHdr, 5, 1, by decide⟩

theorem witness_FramesAreCodedPackedAndCommitted_7 : ∃ (s : State) (h : RecHdr) (vol : Nat) (grain : Nat) (o : MapEntry) (e : MapEntry),
    h.rsvOk = true ∧ List.find? (fun m => m.fst == vol && m.snd.fst == grain) s.ftu.moves = some (vol, grain, o, e) :=
  ⟨{ ftu := { moves := [(5, 0, entryOf 1, entryOf 1)] } }, tHdr, 5, 0, entryOf 1, entryOf 1, by decide⟩

theorem witness_FramesAreCodedPackedAndCommitted_8 : ∃ (s : State) (h : RecHdr) (vol : Nat) (grain : Nat) (o : MapEntry) (e : MapEntry),
    h.rsvOk = true ∧ List.find? (fun m => m.fst == vol && m.snd.fst == grain) s.ftu.moves = some (vol, grain, o, e) ∧ samePlace e o = false :=
  ⟨{ ftu := { moves := [(5, 0, entryOf 1, entryOf 0xFFFFFFFFFFFF)] } }, tHdr, 5, 0, entryOf 1, entryOf 0xFFFFFFFFFFFF, by decide⟩

/-! MembersLeaveAndAreLost -/

theorem witness_MembersLeaveAndAreLost_1 : ∃ (s : State) (pos : Fin 96) (m : Member) (at_ : Nat),
    tget s.pxe.members pos.val = some m ∧ m.st = MemberSt.present ∧ (tgetD s.link.modules pos.val { }).quarantined = false ∧
     s.moduleUp pos.val = false ∧ m.downAt = some at_ :=
  ⟨{ pxe := { members := [(95, { pool := 0, st := .present, downAt := some 0 })] } }, 95, { pool := 0, st := .present, downAt := some 0 }, 0, by decide⟩

theorem witness_MembersLeaveAndAreLost_2 : ∃ (s : State) (pos : Fin 96) (m : Member) (at_ : Nat),
    tget s.pxe.members pos.val = some m ∧ m.st = MemberSt.absent ∧ m.bothAt = some at_ :=
  ⟨{ pxe := { members := [(95, { pool := 0, bothAt := some 0 })] } }, 95, { pool := 0, bothAt := some 0 }, 0, by decide⟩

theorem witness_MembersLeaveAndAreLost_3 : ∃ (s : State) (pos : Fin 96) (m : Member) (r : Vc3) (value : Word) (x : Session),
    tget s.pxe.members pos.val = some m ∧ s.writes r 2 x ∧ tbit (BitVec.toNat value) 31 = true ∧ bits (BitVec.toNat value) 6 0 = pos.val ∧
     (m.st = MemberSt.present ∨ m.st = MemberSt.absent) :=
  ⟨{ tS with pxe := { members := [(95, { pool := 0 })] } }, 95, { pool := 0 }, tM, 0x8000005F, tX, by decide⟩

theorem witness_MembersLeaveAndAreLost_4 : ∃ (s : State) (pos : Fin 96) (m : Member) (h : RecHdr),
    tget s.pxe.members pos.val = some m ∧ h.rsvOk = true ∧ (m.st = MemberSt.present ∨ m.st = MemberSt.absent) :=
  ⟨{ pxe := { members := [(95, { pool := 0 })] } }, 95, { pool := 0 }, tHdr, by decide⟩

theorem witness_MembersLeaveAndAreLost_5 : ∃ (s : State) (pos : Fin 96) (m : Member) (h : RecHdr),
    tget s.pxe.members pos.val = some m ∧ h.rsvOk = true ∧ m.st = MemberSt.absent :=
  ⟨{ pxe := { members := [(95, { pool := 0 })] } }, 95, { pool := 0 }, tHdr, by decide⟩

theorem witness_MembersLeaveAndAreLost_6 : ∃ (s : State) (die : Nat) (at_ : Nat),
    (s.ftu.die die).failSince = some at_ ∧ (s.ftu.die die).st ≠ DieSt.retired ∧ (s.ftu.die die).st ≠ DieSt.absent :=
  ⟨{ ftu := { dies := [(2048, { own := true, failSince := some 0 })] } }, 2048, 0, by decide⟩

theorem witness_MembersLeaveAndAreLost_7 : ∃ (s : State) (die : Nat) (at_ : Nat),
    (s.ftu.die die).failSince = some at_ ∧ (s.ftu.die die).st ≠ DieSt.retired ∧ (s.ftu.die die).st ≠ DieSt.absent ∧ s.diePool die = none :=
  ⟨{ ftu := { dies := [(2048, { own := true, failSince := some 0 })] } }, 2048, 0, by decide⟩

theorem witness_MembersLeaveAndAreLost_8 : ∃ (s : State) (pool : Fin 16) (r : Rebuild),
    tget s.pxe.rebuild pool.val = some r ∧ r.cells ≠ [] :=
  ⟨{ pxe := { rebuild := [(15, { cells := [tCell] })] } }, 15, { cells := [tCell] }, by decide⟩

/-! SnapshotsBecomeReadyAndJobsRun -/

theorem witness_SnapshotsBecomeReadyAndJobsRun_1 : ∃ (s : State) (vol : Nat) (snap : Nat) (x : Snap),
    s.snap.find vol snap = some x ∧ x.st = SnapSt.creating ∧ (∀ (c : Cmd), c ∈ s.cqe.cmds → ¬(c.vol = vol ∧ c.admitted = true ∧
     c.opc ≠ opAbort ∧ c.tag < x.cut)) :=
  ⟨{ snap := { snaps := [{ vol := 5, id := 1, e := 0 }] } }, 5, 1, { vol := 5, id := 1, e := 0 }, by decide⟩

theorem witness_SnapshotsBecomeReadyAndJobsRun_2 : ∃ (s : State) (job : Fin 256) (j : Job) (v : VolumeRec),
    tget s.snap.jobs job.val = some j ∧ s.cfg.volume j.vol = some v ∧ j.st = JobSt.queued ∧ s.ownsGroup v.group = true ∧
     (List.filter (fun x => x.snd.st == JobSt.running) s.snap.jobs).length < 64 ∧ (tget s.dge.jobKeys job.val = none ∨ j.role = 2 ∧
     j.apply = [] ∧ j.toks = none ∧ recLen j.stream = none) ∧ j.ended = none ∧ j.writes = [] ∧ s.portalWaits j.portal = [] :=
  ⟨{ tHead with snap := { jobs := [(255, tJob)] } }, 255, tJob, tVol, by decide⟩

theorem witness_SnapshotsBecomeReadyAndJobsRun_3 : ∃ (s : State) (job : Fin 256) (j : Job) (v : VolumeRec),
    tget s.snap.jobs job.val = some j ∧ s.cfg.volume j.vol = some v ∧ j.st = JobSt.running :=
  ⟨{ tHead with snap := { jobs := [(255, { tJob with st := .running })] } }, 255, { tJob with st := .running }, tVol, by decide⟩

/-! LeasesAreTakenKeptAndLost -/

theorem witness_LeasesAreTakenKeptAndLost_1 : ∃ (s : State) (pos : Fin 96) (tag : Word) (o : MediaOp) (g : Nat) (cur : Lease),
    s.inFlight pos tag mCas o ∧ o.work = Work.lease g ∧ (256 ≤ g ∨ (s.leaseOf g).view ≠ 0) ∧ cur.holder.toNat = s.me ∧ cur.st = 1 ∧
     s.leaseNeed g ≤ (if (s.leaseOf g).yes.contains pos.val then (s.leaseOf g).yes else pos.val :: (s.leaseOf g).yes).length :=
  ⟨{ link := tFly (tOp mCas 0 (.lease 256)), ha := { bridges := [8, 9, 10] } }, 8, 4, tOp mCas 0 (.lease 256), 256, ⟨1, 1, 150, 0, 1⟩, by decide⟩

theorem witness_LeasesAreTakenKeptAndLost_2 : ∃ (s : State) (pos : Fin 96) (tag : Word) (o : MediaOp) (g : Nat) (cur : Lease),
    s.inFlight pos tag mCas o ∧ o.work = Work.lease g ∧ (256 ≤ g ∨ (s.leaseOf g).view ≠ 0) ∧ cur.holder.toNat = s.me ∧ cur.st = 1 ∧
     (if (s.leaseOf g).yes.contains pos.val then (s.leaseOf g).yes else pos.val :: (s.leaseOf g).yes).length < s.leaseNeed g :=
  ⟨{ link := tFly (tOp mCas 0 (.lease 3)), ha := { bridges := [8, 9, 10], leases := [(3, { view := 1 })] } }, 8, 4, tOp mCas 0 (.lease 3), 3, ⟨1, 1, 150, 0, 1⟩, by decide⟩

theorem witness_LeasesAreTakenKeptAndLost_3 : ∃ (s : State) (pos : Fin 96) (tag : Word) (o : MediaOp),
    s.inFlight pos tag mEpoch o ∧ o.arg = 1 ∧ s.ha.takeover = none :=
  ⟨{ link := tFly (tOp mEpoch 1 .epoch) }, 8, 4, tOp mEpoch 1 .epoch, by decide⟩

theorem witness_LeasesAreTakenKeptAndLost_4 : ∃ (s : State) (pos : Fin 96) (tag : Word) (o : MediaOp) (epoch : Nat),
    s.inFlight pos tag mEpoch o ∧ o.arg = 0 ∧ epoch < s.ha.epoch :=
  ⟨{ link := tFly (tOp mEpoch 0 .epoch), ha := { epoch := 5 } }, 8, 4, tOp mEpoch 0 .epoch, 4, by decide⟩

theorem witness_LeasesAreTakenKeptAndLost_5 : ∃ (s : State) (pos : Fin 96) (tag : Word) (o : MediaOp) (map : BitVec 192),
    s.inFlight pos tag mOwner o ∧ (o.arg = 1 ∨ map ≠ 0) ∧ s.ha.failback = none :=
  ⟨{ link := tFly (tOp mOwner 0 .owner) }, 8, 4, tOp mOwner 0 .owner, 1, by decide⟩

theorem witness_LeasesAreTakenKeptAndLost_6 : ∃ (s : State) (g : Nat) (at_ : Nat),
    (s.leaseOf g).view ≠ 0 ∧ (s.leaseOf g).sentAt = some at_ :=
  ⟨{ ha := { leases := [(257, { view := 1, sentAt := some 0 })] } }, 257, 0, by decide⟩

theorem witness_LeasesAreTakenKeptAndLost_7 : ∃ (s : State) (g : Nat),
    s.ha.bridges ≠ [] ∧ s.ha.stale = false ∧ (∃ l, (g, l) ∈ s.ha.leases ∧ l.view ≠ 0) :=
  ⟨{ ha := { bridges := [8], leases := [(3, { view := 1 })] } }, 3, ⟨by decide, by decide, { view := 1 }, by decide⟩⟩

theorem witness_LeasesAreTakenKeptAndLost_8 : ∃ (s : State) (g : Nat) (l : LeaseSt),
    List.filter (fun x => x.snd.view == 0 && x.snd.asked != []) s.ha.leases = [(g, l)] ∧ (s.leaseOf g).view = 0 ∧ s.mayLease = true :=
  ⟨{ ha := { bridges := [8], leases := [(3, { asked := [8] })] }, rot := { ready := true } }, 3, { asked := [8] }, by decide⟩

theorem witness_LeasesAreTakenKeptAndLost_9 : ∃ (s : State) (k : Takeover),
    s.ha.takeover = some k ∧ k.step = 4 ∧ k.waits ≠ [] :=
  ⟨{ ha := { takeover := some ⟨4, 0, 1, 0, 2, [(3, 8, ⟨2, 1, 150, 0, 1⟩, 0)], []⟩ } }, ⟨4, 0, 1, 0, 2, [(3, 8, ⟨2, 1, 150, 0, 1⟩, 0)], []⟩, by decide⟩

/-! SilentPeersAreFencedAndPaired -/

theorem witness_SilentPeersAreFencedAndPaired_1 : ∃ (s : State) (h : RecHdr) (b : HbBody),
    h.rsvOk = true ∧ roleOf b.role.toNat = s.ha.peerRole ∧ s.ha.peerRole ≠ Role.held ∧ b.pstate.toNat ≠ 3 ∧ b.pstate.toNat ≠ 4 ∧
     tbit b.flags.toNat 3 = false ∧ b.cepoch ≤ lo32 s.cfg.epoch ∧ s.cfg.offer = none ∧ s.ha.role ≠ Role.starting :=
  ⟨{ ha := { role := .active } }, tHdr, ⟨1, 0, 0, 0, 0, 0, 0, 0⟩, by decide⟩

theorem witness_SilentPeersAreFencedAndPaired_2 : ∃ (s : State) (pos : Fin 96) (tag : Word) (o : MediaOp),
    s.inFlight pos tag mMbox o ∧ o.arg = 0 :=
  ⟨{ link := tFly (tOp mMbox 0 .mailbox) }, 8, 4, tOp mMbox 0 .mailbox, by decide⟩

theorem witness_SilentPeersAreFencedAndPaired_3 : ∃ (s : State) (pos : Fin 96) (tag : Word) (o : MediaOp) (x : MboxSlot),
    s.inFlight pos tag mMbox o ∧ o.arg ≠ 0 ∧ x.crcOk = true ∧ x.head ≠ s.glb.headB ∧ tget s.ha.mboxHb pos.val ≠ some x.hbseq ∧
     roleOf x.role.toNat = s.ha.peerRole ∧ s.ha.peerRole ≠ Role.held ∧ x.pstate.toNat ≠ 3 ∧ x.pstate.toNat ≠ 4 ∧
     tbit x.flags.toNat 3 = false ∧ x.yieldSt = 0 ∧
     (∀ (i : Image), s.rot.image = some i → compatible i.fwver i.compatMinor x.fwver.toNat x.compatMinor.toNat = true) :=
  ⟨{ link := tFly (tOp mMbox 1 .mailbox) }, 8, 4, tOp mMbox 1 .mailbox, ⟨true, true, 0, 0, 0, 1, 0, 0, 0, 0, 0, 0, 0⟩, ⟨by decide, by decide, by decide, by decide, by decide, by decide, by decide, by decide, by decide, by decide, by decide, (fun _ h => nomatch h)⟩⟩

theorem witness_SilentPeersAreFencedAndPaired_4 : ∃ (s : State) (at_ : Nat),
    s.rcc.hold = ResetSt.run ∧ s.ha.mboxAt = some at_ ∧ s.ha.mboxSilent = false :=
  ⟨{ rcc := tRun, ha := { mboxAt := some 0, mboxSilent := false } }, 0, by decide⟩

theorem witness_SilentPeersAreFencedAndPaired_5 : ∃ (s : State) (at_ : Nat),
    s.rcc.hold = ResetSt.run ∧ s.ha.plkAt = some at_ ∧ s.ha.plkSilent = false :=
  ⟨{ rcc := tRun, ha := { plkAt := some 0, plkSilent := false } }, 0, by decide⟩

theorem witness_SilentPeersAreFencedAndPaired_6 : ∃ (s : State) (ready : Nat) (a : Nat) (b : Nat),
    s.ha.readyAt = some ready ∧ s.ha.plkAt = some a ∧ s.ha.mboxAt = some b ∧ s.ha.bridges ≠ [] ∧ s.ha.role ≠ Role.held ∧
     s.pmu.pstate ≠ PState.p3 ∧ s.pmu.pstate ≠ PState.p4 ∧ (s.ha.peerP3Plk && s.ha.peerP3Mbox) = false ∧ s.ha.peerFailed = false :=
  ⟨{ ha := { readyAt := some 0, plkAt := some 1, mboxAt := some 2, bridges := [8], role := .active } }, 0, 1, 2, by decide⟩

theorem witness_SilentPeersAreFencedAndPaired_7 : ∃ (s : State) (k : Takeover),
    s.ha.takeover = some k ∧ (k.step = 2 ∨ k.step = 3) :=
  ⟨{ ha := { takeover := some ⟨2, 0, 1, 0, 2, [], []⟩ } }, ⟨2, 0, 1, 0, 2, [], []⟩, by decide⟩

theorem witness_SilentPeersAreFencedAndPaired_8 : ∃ (s : State) (k : Takeover),
    s.ha.takeover = some k ∧ k.step = 4 :=
  ⟨{ ha := { takeover := some ⟨4, 0, 1, 0, 2, [], []⟩ } }, ⟨4, 0, 1, 0, 2, [], []⟩, by decide⟩

theorem witness_SilentPeersAreFencedAndPaired_9 : ∃ (s : State) (at_ : Nat),
    s.ha.plkAt = some at_ ∧ s.ha.yieldMs ≠ 0 ∧ s.ha.plkSilent = true ∧ s.ha.mboxSilent = false ∧ s.ha.yieldSt = 0 ∧
     s.ha.peerFailed = false ∧ s.ha.role ≠ Role.held ∧ s.ha.peerYield = 0 :=
  ⟨{ ha := { role := .active, plkAt := some 0, mboxSilent := false } }, 0, by decide⟩

theorem witness_SilentPeersAreFencedAndPaired_10 : ∃ (s : State),
    s.coresRun = true :=
  ⟨{ rcc := tRun, rot := { stage := 7 } }, by decide⟩

theorem witness_SilentPeersAreFencedAndPaired_11 : ∃ (s : State) (serial : Nat),
    s.cfg.epoch ≠ 0 ∧ s.portUp PortId.peer = true ∧ s.rcc.hold = ResetSt.run ∧ s.pmu.pstate ≠ PState.p3 ∧
     (s.rot.lifecycle = Lifecycle.provisioned ∨ s.rot.lifecycle = Lifecycle.field) ∧ s.cfg.find 2 0 = some (CfgBody.peer serial) :=
  ⟨{ rcc := tRun, link := tPeer {}, cfg := { epoch := 1, recs := [⟨2, true, 0, some (.peer 77)⟩] } }, 77, by decide⟩

theorem witness_SilentPeersAreFencedAndPaired_12 : ∃ (s : State),
    64 < (s.link.port PortId.peer).violCount :=
  ⟨{ link := tPeer { violCount := 65 } }, by decide⟩

/-! IslandsExchangeFrames -/

theorem witness_IslandsExchangeFrames_1 : ∃ (p : Psb) (s : State),
    s.hearsPsb p ∧ s.rcc.hold ≠ ResetSt.cold :=
  ⟨⟨1, 1040, true⟩, { snw := { paired := true }, rcc := tRun }, ⟨(fun _ h => nomatch h), by decide⟩, by decide⟩

theorem witness_IslandsExchangeFrames_2 : ∃ (p : Psb) (s : State),
    s.hearsPsb p ∧ s.ha.takeover = none :=
  ⟨⟨1, 1040, true⟩, { snw := { paired := true } }, ⟨(fun _ h => nomatch h), by decide⟩, by decide⟩

theorem witness_IslandsExchangeFrames_3 : ∃ (p : Psb) (s : State) (k : Takeover),
    s.hearsPsb p ∧ s.ha.takeover = some k ∧ k.step ≤ 4 :=
  ⟨⟨1, 1040, true⟩, { snw := { paired := true }, ha := { takeover := some ⟨4, 0, 1, 0, 2, [], []⟩ } }, ⟨4, 0, 1, 0, 2, [], []⟩, ⟨(fun _ h => nomatch h), by decide⟩, by decide⟩

theorem witness_IslandsExchangeFrames_4 : ∃ (p : Psb) (s : State),
    s.hearsPsb p :=
  ⟨⟨1, 1040, true⟩, { snw := { paired := true } }, (fun _ h => nomatch h), by decide⟩

theorem witness_IslandsExchangeFrames_6 : ∃ (p : Psb) (s : State) (count : Nat),
    s.hearsPsb p ∧ 1 ≤ count ∧ count ≤ 32 :=
  ⟨⟨1, 1040, true⟩, { snw := { paired := true } }, 32, ⟨(fun _ h => nomatch h), by decide⟩, by decide⟩

theorem witness_IslandsExchangeFrames_10 : ∃ (p : Psb) (s : State) (c : Instr) (typ : Nat),
    psbOf c = some (p, typ) ∧ (∀ (t : Nat), s.snw.ignoreUntil = some t → t ≤ s.dt) ∧ p.len ≤ 1040 ∧ p.macOk = true ∧ s.snw.paired = true ∧
     p.ctr ≤ s.snw.ctrRx :=
  ⟨⟨1, 1040, true⟩, { snw := { paired := true, ctrRx := 1 } }, .released ⟨1, 1040, true⟩, 0x84, by decide, (fun _ h => nomatch h), by decide⟩

theorem witness_IslandsExchangeFrames_11 : ∃ (s : State),
    s.snw.rejWin = secOf s.dt ∧ 16 ≤ s.snw.rejCount ∧ s.snw.ignoreUntil = none :=
  ⟨{ snw := { rejCount := 16 } }, by decide⟩

theorem witness_IslandsExchangeFrames_12 : ∃ (s : State) (at_ : Nat),
    s.snw.ignoreUntil = some at_ :=
  ⟨{ snw := { ignoreUntil := some 0 } }, 0, by decide⟩

theorem witness_IslandsExchangeFrames_13 : ∃ (s : State) (a : Bool) (b : Bool),
    (a, b) ≠ (s.snw.vstby, s.snw.psb) ∧ (a || b) = true :=
  ⟨State.reset, true, false, by decide⟩

theorem witness_IslandsExchangeFrames_14 : ∃ (s : State) (a : Bool) (b : Bool),
    (a, b) ≠ (s.snw.vstby, s.snw.psb) ∧ (a || b) = false :=
  ⟨{ snw := { psb := true } }, false, false, by decide⟩

/-! FailbacksMoveGroupsInBatches -/

theorem witness_FailbacksMoveGroupsInBatches_1 : ∃ (s : State) (at_ : Nat),
    s.ha.stableAt = some at_ ∧ s.failbackReady = true ∧
     3 ≤ (s.ha.failbacks.filter fun t => decide (t + secNs 3600 > max s.dt (at_ + secNs s.ha.stableS))).length ∧ s.ha.goDone = false ∧
     s.ha.flap = false :=
  ⟨{ tReady with ha := { tReady.ha with failbacks := [60000000000, 60000000000, 60000000000] } }, 0, by decide⟩

theorem witness_FailbacksMoveGroupsInBatches_2 : ∃ (s : State) (at_ : Nat),
    s.ha.stableAt = some at_ ∧ s.failbackReady = true ∧
     (s.ha.failbacks.filter fun t => decide (t + secNs 3600 > max s.dt (at_ + secNs s.ha.stableS))).length < 3 ∧
     (s.ftu.dies.filter fun d => d.2.own && d.2.half != s.glb.headB) ≠ [] :=
  ⟨{ tReady with ftu := { dies := [(2048, { own := true, half := true })] } }, 0, by decide⟩

theorem witness_FailbacksMoveGroupsInBatches_3 : ∃ (s : State) (at_ : Nat) (g : Nat) (gs : List Nat),
    s.ha.stableAt = some at_ ∧ s.failbackReady = true ∧
     (s.ha.failbacks.filter fun t => decide (t + secNs 3600 > max s.dt (at_ + secNs s.ha.stableS))).length < 3 ∧
     (s.ftu.dies.filter fun d => d.2.own && d.2.half != s.glb.headB) = [] ∧ s.peerGroups = g :: gs :=
  ⟨{ tReady with ha := { tReady.ha with leases := [(3, { view := 1 })] } }, 0, 3, [], by decide⟩

theorem witness_FailbacksMoveGroupsInBatches_4 : ∃ (s : State) (m : Vc3) (x : Session),
    s.writes m 2 x ∧ s.rcc.acting = none :=
  ⟨tS, tM, tX, by decide⟩

theorem witness_FailbacksMoveGroupsInBatches_5 : ∃ (s : State) (h : RecHdr),
    h.rsvOk = true ∧ (s.ha.role = Role.standby ∨ s.ha.role = Role.active) :=
  ⟨{ ha := { role := .standby } }, tHdr, by decide⟩

theorem witness_FailbacksMoveGroupsInBatches_6 : ∃ (s : State) (h : RecHdr) (first : Nat) (f : Failback),
    h.rsvOk = true ∧ s.ha.failback = some f ∧ f.first = first :=
  ⟨{ ha := { failback := some ⟨0, 3, 1, [3], 0, false⟩ } }, tHdr, 3, ⟨0, 3, 1, [3], 0, false⟩, by decide⟩

theorem witness_FailbacksMoveGroupsInBatches_7 : ∃ (s : State) (f : Failback),
    s.ha.failback = some f ∧ f.phase = 1 ∧ (s.ha.role = Role.survivor ∨ s.ha.role = Role.active) ∧ s.snap.jobs = [] ∧
     (∀ (c : Cmd), c ∈ s.cqe.cmds → c.fwdAt = none → ∀ (v : VolumeRec), s.cfg.volume c.vol = some v → ¬v.group ∈ f.batch) :=
  ⟨{ ha := { role := .survivor, failback := some ⟨0, 3, 1, [3], 0, false⟩ } }, ⟨0, 3, 1, [3], 0, false⟩, ⟨by decide, by decide, by decide, by decide, (fun _ h => nomatch h)⟩⟩

/-! TheFieldOfTheParity -/

theorem witness_TheFieldOfTheParity_6 : ∃ (a : Byte),
    a ≠ 0 :=
  ⟨1, by decide⟩

theorem witness_TheFieldOfTheParity_11 : ∃ (i : Nat) (j : Nat),
    i < j ∧ j < 255 :=
  ⟨0, 254, by decide⟩

/-! LostMembersAreRecovered -/

theorem witness_LostMembersAreRecovered_1 : ∃ (k : Nat) (n : Nat) (x : Nat) (y : Nat) (d : Nat → Bytes),
    k ≤ 255 ∧ (∀ i, (d i).length = n) ∧ x ≤ k + 1 ∧ y ≤ k + 1 :=
  ⟨255, 0, 256, 0, fun _ => [], ⟨by decide, fun _ => rfl, by decide, by decide⟩⟩

/-! RetrainsClearsBitByBit -/

theorem witness_RetrainsClearsBitByBit_1 : ∃ (m : Vc3) (x : Session) (lane : Fin 144) (s : State),
    s.writes m 2 x ∧ s.rcc.acting = none ∧ (s.link.lane lane.val).retrains < 256 :=
  ⟨tM, tX, 143, { tS with link := { lanes := [(143, { retrains := 255 })] } }, by decide⟩

end Sys2Proof.Tests
end

section
/-! PROOF. What a VC3 request that passes R499 leaves behind once it is noted, carried out and answered: every part of the state
beside the port, the session and the log is as the request's own act left it. -/

namespace Sys2Proof.Machine

open Sys2Proof

/-! ## The state in which a request's arrival is noted (R97) -/

@[simp] theorem State.heard_dt (s : State) (m : Vc3) : (s.heard m).dt = s.dt := rfl
@[simp] theorem State.heard_cfg (s : State) (m : Vc3) : (s.heard m).cfg = s.cfg := rfl

/-- The session that sent the request is still open in it. -/
theorem State.heard_session (s : State) (m : Vc3) (x : Session) (h : s.sessionOf m = some x) :
    tget (s.heard m).cqe.sessions m.sess.toNat = some { x with lastAt := s.dt } := by
  have hx : tget s.cqe.sessions m.sess.toNat = some x := by
    unfold State.sessionOf at h
    split at h
    · next y hy =>
      split at h
      · rw [hy, h]
      · exact nomatch h
    · exact nomatch h
  exact (tget_tmod_self _ _ _).trans (congrArg _ hx)

/-! ## The answer -/

@[simp] theorem State.answer_cfg (s : State) (m : Vc3) (typ status : Nat) (body : Bytes) : (s.answer m typ status body).cfg = s.cfg :=
  State.answer_frame State.cfg (fun _ _ => rfl) (fun _ _ _ => rfl) (fun _ _ _ => rfl) s m typ status body
@[simp] theorem State.answer_ftu (s : State) (m : Vc3) (typ status : Nat) (body : Bytes) : (s.answer m typ status body).ftu = s.ftu :=
  State.answer_frame State.ftu (fun _ _ => rfl) (fun _ _ _ => rfl) (fun _ _ _ => rfl) s m typ status body
@[simp] theorem State.answer_gov (s : State) (m : Vc3) (typ status : Nat) (body : Bytes) : (s.answer m typ status body).gov = s.gov :=
  State.answer_frame State.gov (fun _ _ => rfl) (fun _ _ _ => rfl) (fun _ _ _ => rfl) s m typ status body
@[simp] theorem State.answer_rcc (s : State) (m : Vc3) (typ status : Nat) (body : Bytes) : (s.answer m typ status body).rcc = s.rcc :=
  State.answer_frame State.rcc (fun _ _ => rfl) (fun _ _ _ => rfl) (fun _ _ _ => rfl) s m typ status body
@[simp] theorem State.answer_evr (s : State) (m : Vc3) (typ status : Nat) (body : Bytes) : (s.answer m typ status body).evr = s.evr :=
  State.answer_frame State.evr (fun _ _ => rfl) (fun _ _ _ => rfl) (fun _ _ _ => rfl) s m typ status body

/-- Of the CQE an answer changes the session's pending requests alone. -/
theorem State.answer_cqe (s : State) (m : Vc3) (typ status : Nat) (body : Bytes) :
    (s.answer m typ status body).cqe =
      (s.modSession m.sess.toNat fun x => { x with pendingReq := x.pendingReq.filter (· != m.reqId.toNat) }).cqe :=
  State.transmit_frame State.cqe (fun _ _ => rfl) (fun _ _ _ => rfl) _ _ _ _

@[simp] theorem State.answer_dataTimeoutUs (s : State) (m : Vc3) (typ status : Nat) (body : Bytes) :
    (s.answer m typ status body).cqe.dataTimeoutUs = s.cqe.dataTimeoutUs := by
  rw [State.answer_cqe]; rfl

/-- What is given to the ports depends on the log of what was sent and on the port records alone. -/
theorem State.given_congr_ports (s u : State) (ho : u.out = s.out) (hp : u.link.ports = s.link.ports) (p : PortId) (x : Sent) :
    u.given p x = s.given p x := by
  unfold State.given Link.port
  rw [ho, hp]

/-- Answering gives the answer once, from any state that has given what `s` has. -/
theorem State.answer_answers_ports (s u : State) (ho : u.out = s.out) (hp : u.link.ports = s.link.ports) (m : Vc3) (typ status : Nat)
    (body : Bytes) : s.answers (u.answer m typ status body) m typ status body :=
  (u.answer_answers u rfl rfl m typ status body).trans (congrArg (· + 1) (s.given_congr_ports u ho hp _ _))

/-! ## What a request leaves alone -/

/-- Blanking two parts of the state does not depend on the order. -/
theorem State.blank_comm (s : State) (a b : Blk) : (s.blank a).blank b = (s.blank b).blank a := by
  cases a <;> cases b <;> rfl

/-- States that differ in one part only do not differ without some parts, that one among them. -/
theorem State.without_congr {s u : State} {b : Blk} {bs : List Blk} (hb : b ∈ bs) (h : u.blank b = s.blank b) :
    u.without bs = s.without bs := by
  induction bs generalizing s u with
  | nil => exact nomatch hb
  | cons a as ih =>
    show (u.blank a).without as = (s.blank a).without as
    rcases List.mem_cons.mp hb with rfl | hb
    · rw [h]
    · exact ih hb (by rw [State.blank_comm, h, State.blank_comm])

/-- Parts of the state that hide the port, the session and the log hide an answer. -/
theorem State.answer_without {bs : List Blk} (hv : ∀ b ∈ vcParts, b ∈ bs) (u : State) (m : Vc3) (typ status : Nat) (body : Bytes) :
    (u.answer m typ status body).without bs = u.without bs :=
  State.answer_frame (State.without · bs) (fun _ _ => State.without_congr (b := .out) (hv _ (by decide)) rfl)
    (fun _ _ _ => State.without_congr (b := .link) (hv _ (by decide)) rfl)
    (fun _ _ _ => State.without_congr (b := .cqe) (hv _ (by decide)) rfl) u m typ status body

theorem State.heard_without {bs : List Blk} (hv : ∀ b ∈ vcParts, b ∈ bs) (s : State) (m : Vc3) : (s.heard m).without bs = s.without bs :=
  State.without_congr (b := .cqe) (hv _ (by decide)) rfl

/-- A request that acts on one part of the state and is answered leaves every part alone but that one and those of any request. -/
theorem State.request_without {bs : List Blk} (hv : ∀ b ∈ vcParts, b ∈ bs) {s u : State} {m : Vc3} {b : Blk} (hb : b ∈ bs)
    (hu : u.blank b = (s.heard m).blank b) (typ status : Nat) (body : Bytes) : (u.answer m typ status body).without bs = s.without bs :=
  (State.answer_without hv u m typ status body).trans ((State.without_congr hb hu).trans (State.heard_without hv s m))

end Sys2Proof.Machine
end

section
/-! PROOF. The state after a power-on reset. -/

namespace Sys2Proof.Machine

open Sys2Proof

/-- The fuses of a reset head fit its lifecycle: it is neither in FIELD nor past it, and has no owner anchor (R415, R421). -/
theorem State.reset_fusesFit : State.reset.FusesFit := by
  refine ⟨fun _ => rfl, fun h => ?_, fun h => ?_⟩
  · exact nomatch h
  · rcases h with h | h <;> exact nomatch h

/-- Settles O3: every register stands at the value its table gives, no lane has a record, and the fuses fit. -/
theorem resetState : Obligations.ResetState :=
  ⟨rfl, fun _ => rfl, rfl, rfl, rfl, rfl, rfl, rfl, rfl, rfl, rfl, rfl, rfl, State.reset_fusesFit⟩

end Sys2Proof.Machine
end

section
/-! PROOF. CSR_READ and CSR_WRITE (R6 to R8, R67, R71). -/

namespace Sys2Proof.Machine

open Sys2Proof

/-! ## What reading leaves alone -/

/-- No read opens, closes or changes a session (a read latches high words, which its caller stores). -/
theorem State.readClears_sessions (s : State) (off : Nat) : (s.readClears off).cqe.sessions = s.cqe.sessions := by
  unfold State.readClears
  split
  case h_17 =>
    have keeps {c : Prop} [Decidable c] {u v : State} (hu : u.cqe.sessions = s.cqe.sessions) (hv : v.cqe.sessions = s.cqe.sessions) :
        (if c then u else v).cqe.sessions = s.cqe.sessions := ite_frame (π := fun s => s.cqe.sessions) hu hv
    refine keeps rfl (keeps ?_ (keeps ?_ (keeps ?_ (keeps rfl (keeps rfl (keeps rfl (keeps rfl (keeps rfl ?_))))))))
    · cases arr off 0x101000 4 32 <;> rfl
    · cases arr off 0x201000 4 16 <;> rfl
    · cases arr off 0x301000 4 96 <;> rfl
    · split <;> rfl
  all_goals rfl

theorem State.readReg_sessions (s : State) (page : Nat) (latch : List (Nat × Word)) (off : Nat) :
    (s.readReg page latch off).2.2.cqe.sessions = s.cqe.sessions := by
  unfold State.readReg
  dsimp only
  split
  · rfl
  · split
    · rfl
    · exact s.readClears_sessions off

theorem State.readRegs_sessions (s : State) (page : Nat) (latch : List (Nat × Word)) (offs : List Nat) :
    (s.readRegs page latch offs).2.2.cqe.sessions = s.cqe.sessions := by
  induction offs generalizing s latch with
  | nil => rfl
  | cons o os ih => exact (ih _ _).trans (s.readReg_sessions page latch o)

theorem State.readRegs_ports (s : State) (page : Nat) (latch : List (Nat × Word)) (offs : List Nat) :
    (s.readRegs page latch offs).2.2.link.ports = s.link.ports := by
  apply State.readRegs_frame (fun s => s.link.ports) <;> first | exact fun _ _ => rfl | exact fun _ _ _ => rfl

theorem State.readRegs_out (s : State) (page : Nat) (latch : List (Nat × Word)) (offs : List Nat) :
    (s.readRegs page latch offs).2.2.out = s.out := by
  apply State.readRegs_frame State.out <;> first | exact fun _ _ => rfl | exact fun _ _ _ => rfl

/-- The parts of the state that a CSR_READ may change. -/
def csrReadParts : List Blk :=
  [.out, .link, .cqe, .dsc, .dge, .dxu, .cpe, .ftu, .snw, .mcu, .slc, .nvi, .xts, .dbg, .evr, .fresh]

theorem State.readRegs_without (s : State) (page : Nat) (latch : List (Nat × Word)) (offs : List Nat) :
    (s.readRegs page latch offs).2.2.without csrReadParts = s.without csrReadParts := by
  have keeps {u v : State} (b : Blk) (hb : b ∈ csrReadParts) (h : u.blank b = v.blank b) :
      u.without csrReadParts = v.without csrReadParts := State.without_congr hb h
  exact State.readRegs_frame (State.without · csrReadParts)
    (hLane := fun _ _ _ => keeps .link (by decide) rfl) (hCqe := fun _ _ => keeps .cqe (by decide) rfl)
    (hDsc := fun _ _ => keeps .dsc (by decide) rfl) (hDge := fun _ _ => keeps .dge (by decide) rfl)
    (hDxu := fun _ _ => keeps .dxu (by decide) rfl) (hCpe := fun _ _ => keeps .cpe (by decide) rfl)
    (hFtu := fun _ _ => keeps .ftu (by decide) rfl) (hSnw := fun _ _ => keeps .snw (by decide) rfl)
    (hMcu := fun _ _ => keeps .mcu (by decide) rfl) (hSlc := fun _ _ => keeps .slc (by decide) rfl)
    (hNvi := fun _ _ => keeps .nvi (by decide) rfl) (hXts := fun _ _ => keeps .xts (by decide) rfl)
    (hDbg := fun _ _ => keeps .dbg (by decide) rfl) (hEvr := fun _ _ => keeps .evr (by decide) rfl) s page latch offs

/-! ## The messages -/

/-- CSR_READ of registers that exist: they are read in ascending order, the latched high words are kept, and the values answered. -/
theorem exec_csrRead (m : Vc3) (x : Session) (s : State) (offset : Word) (count : BitVec 16) (h : s.accepts m 0x30 false 1 x)
    (hr : (s.heard m).regsExist offset.toNat count.toNat = true) :
    let r := (s.heard m).readRegs x.evrPage x.latch ((List.range count.toNat).map fun i => offset.toNat + 4 * i)
    exec (.csrRead m offset count) s = .next ((r.2.2.modSession m.sess.toNat fun x => { x with latch := r.2.1 }).answer m 0x30 stSuccess
      (r.1.flatMap fun w => leBytes 4 w.toNat)) := by
  show execCsrRead m offset count s = _
  unfold execCsrRead
  rw [s.vc3_accepts m _ _ _ _ x h]
  simp [hr]

/-- What the session holds latched after the answer to its CSR_READ. -/
theorem State.answer_latch (s : State) (m : Vc3) (latch : List (Nat × Word)) (typ status : Nat) (body : Bytes)
    (hx : (tget s.cqe.sessions m.sess.toNat).isSome = true) :
    (tget ((s.modSession m.sess.toNat fun x => { x with latch := latch }).answer m typ status body).cqe.sessions m.sess.toNat).map (·.latch) =
      some latch := by
  obtain ⟨y, hy⟩ := Option.isSome_iff_exists.mp hx
  rw [State.answer_cqe]
  show (tget (tmod (tmod s.cqe.sessions _ _) _ _) _).map _ = _
  rw [tget_tmod_self, tget_tmod_self, hy]
  rfl

/-- The answer to a CSR_READ, from any state `u` that its reads may leave: it is given once, and nothing else is touched. -/
theorem State.csrRead_answer (s u : State) (m : Vc3) (latch : List (Nat × Word)) (body : Bytes) (ho : u.out = s.out)
    (hp : u.link.ports = s.link.ports) (hw : u.without csrReadParts = s.without csrReadParts) :
    let t := (u.modSession m.sess.toNat fun x => { x with latch := latch }).answer m 0x30 stSuccess body
    s.answers t m 0x30 stSuccess body ∧ t.without csrReadParts = s.without csrReadParts :=
  ⟨s.answer_answers_ports (u.modSession _ _) ho hp m 0x30 stSuccess body,
    (State.answer_without (by decide) _ m 0x30 stSuccess body).trans
      ((State.without_congr (b := .cqe) (by decide) rfl).trans hw)⟩

/-- Without a reset that waits for its answer nothing is reset (R437). -/
theorem State.actSwrst_idle (s : State) (h : s.rcc.acting = none) : s.actSwrst = s := by
  unfold State.actSwrst
  rw [h]
  exact ite_self s

/-- A CSR_WRITE of one register that the session may write acts on the register and is answered; here it starts no reset (R437). -/
theorem exec_csrWrite (m : Vc3) (x : Session) (s u : State) (offset v : Word) (h : s.writes m (writePrivilege offset.toNat) x)
    (hr : (s.heard m).regsExist offset.toNat 1 = true) (hw : (s.heard m).writeReg m.sess.toNat offset.toNat v.toNat = u)
    (ha : u.rcc.acting = none) : exec (.csrWrite m offset [v]) s = .next (u.answer m 0x31 stSuccess []) := by
  subst hw
  obtain ⟨hacc, hpriv⟩ := h
  show execCsrWrite m offset [v] s = _
  unfold execCsrWrite
  rw [s.vc3_accepts m _ _ _ _ x hacc]
  simp [hr, hpriv, State.writeRegs, State.actSwrst_idle, ha]

/-- The answer to a CSR_WRITE of a register whose write acts on one part `b` of the state alone, and sends nothing. -/
theorem State.csrWrite_answer (s u : State) (m : Vc3) (b : Blk) (bs : List Blk) (hbs : ∀ c ∈ b :: vcParts, c ∈ bs)
    (hu : u.blank b = (s.heard m).blank b) (ho : u.out = s.out) (hl : u.link = s.link) :
    let t := u.answer m 0x31 stSuccess []
    s.answers t m 0x31 stSuccess [] ∧ t.without bs = s.without bs :=
  ⟨s.answer_answers u ho hl m 0x31 stSuccess [],
    State.request_without (fun c hc => hbs c (.tail b hc)) (hbs b (.head _)) hu 0x31 stSuccess []⟩

/-- A CSR_WRITE of one register without its privilege is refused and recorded (R71 check 3). -/
theorem exec_csrWrite_denied (m : Vc3) (x : Session) (s : State) (offset v : Word) (h : s.accepts m 0x31 false 1 x)
    (hr : (s.heard m).regsExist offset.toNat 1 = true) (hp : x.privilege < writePrivilege offset.toNat) (ha : s.rcc.acting = none) :
    exec (.csrWrite m offset [v]) s = .next ((s.heard m).registerDenied m 0x31 offset.toNat) := by
  show execCsrWrite m offset [v] s = _
  unfold execCsrWrite
  rw [s.vc3_accepts m _ _ _ _ x h]
  have hden : ((s.heard m).registerDenied m 0x31 offset.toNat).rcc.acting = none :=
    (State.registerDenied_frame (·.rcc.acting) (fun _ _ => rfl) (fun _ _ _ => rfl) (fun _ _ _ => rfl) (fun _ _ => rfl) ..).trans ha
  simp [hr, hp, State.actSwrst_idle, hden]

end Sys2Proof.Machine
end

section
/-! PROOF. The registers of the statement on CSR_READ and CSR_WRITE. -/

namespace Sys2Proof.Machine

open Sys2Proof

/-! ## Four registers: their ranges (R86, R245), their bits (R6), their values -/

theorem State.regsExist_dataTimeout (s : State) : s.regsExist 0x500000 1 = true := rfl
theorem State.regsExist_scrub (s : State) : s.regsExist 0x940000 1 = true := rfl
theorem State.regsExist_cause (s : State) : s.regsExist 0x10000 1 = true := rfl
theorem State.regsExist_injAmp (s : State) : s.regsExist 0x70204 1 = true := rfl

theorem State.writeReg_dataTimeout (s : State) (sess v : Nat) : s.writeReg sess 0x500000 v =
    s.modCqe fun c => { c with dataTimeoutUs := inRange 100 10000 c.dataTimeoutUs (bits v 15 0) } := rfl
theorem State.writeReg_scrub (s : State) (sess v : Nat) : s.writeReg sess 0x940000 v = s.modFtu fun f =>
    { f with scrubDays := inRange 1 90 f.scrubDays (bits v 23 16), wlDelta := inRange 50 5000 f.wlDelta (bits v 15 0) } := rfl
theorem State.writeReg_cause (s : State) (sess v : Nat) : s.writeReg sess 0x10000 v =
    s.modRcc fun r => { r with cause := r.cause &&& ~~~ (BitVec.ofNat 13 v) } := rfl
theorem State.writeReg_injAmp (s : State) (sess v : Nat) : s.writeReg sess 0x70204 v = s.modGov fun g => { g with injAmp := v } := rfl

/-- Writing a one clears a bit, writing a zero leaves it (R6). -/
theorem getLsbD_and_not_ofNat (c : BitVec 13) (v : Word) (k : Nat) :
    (c &&& ~~~ (BitVec.ofNat 13 v.toNat)).getLsbD k = (c.getLsbD k && !v.getLsbD k) := by
  by_cases hk : k < 13
  · simp [hk]
  · simp [BitVec.getLsbD_of_ge c k (by omega)]

/-- Settles O45: a read by the frame of `readRegs`, each write by its register's own rule. -/
theorem registersAreReadAndWritten : Obligations.RegistersAreReadAndWritten := by
  intro m x s
  refine ⟨fun offset count h hr => ?csrRead, fun h ha v => ⟨?dataTimeout, ?scrub, ?cause, ?injAmp⟩, fun offset v h hr hp ha => ?denied⟩
  case csrRead =>
    intro r
    have hx := s.heard_session m x h.1
    obtain ⟨hans, hframe⟩ := s.csrRead_answer r.2.2 m r.2.1 (r.1.flatMap fun w => leBytes 4 w.toNat)
      (State.readRegs_out (s.heard m) _ _ _) (State.readRegs_ports (s.heard m) _ _ _) (State.readRegs_without (s.heard m) _ _ _)
    refine ⟨_, exec_csrRead m x s offset count h hr, hans, State.answer_latch r.2.2 m r.2.1 0x30 stSuccess _ ?_, hframe⟩
    rw [State.readRegs_sessions, hx]
    rfl
  case dataTimeout =>
    obtain ⟨hans, hframe⟩ := s.csrWrite_answer ((s.heard m).modCqe _) m .cqe vcParts (by decide) rfl rfl rfl
    exact ⟨_, exec_csrWrite m x s _ 0x500000 v h (State.regsExist_dataTimeout _) (State.writeReg_dataTimeout ..) ha, hans,
      State.answer_dataTimeoutUs .., hframe⟩
  case scrub =>
    obtain ⟨hans, hframe⟩ := s.csrWrite_answer ((s.heard m).modFtu _) m .ftu (.ftu :: vcParts) (by decide) rfl rfl rfl
    exact ⟨_, exec_csrWrite m x s _ 0x940000 v h (State.regsExist_scrub _) (State.writeReg_scrub ..) ha, hans,
      State.answer_ftu .., hframe⟩
  case cause =>
    obtain ⟨hans, hframe⟩ := s.csrWrite_answer ((s.heard m).modRcc _) m .rcc (.rcc :: vcParts) (by decide) rfl rfl rfl
    refine ⟨_, exec_csrWrite m x s _ 0x10000 v h (State.regsExist_cause _) (State.writeReg_cause ..) ha, hans, fun k => ?_, hframe⟩
    rw [State.answer_rcc]
    exact getLsbD_and_not_ofNat s.rcc.cause v k
  case injAmp =>
    obtain ⟨hans, hframe⟩ := s.csrWrite_answer ((s.heard m).modGov _) m .gov (.gov :: vcParts) (by decide) rfl rfl rfl
    exact ⟨_, exec_csrWrite m x s _ 0x70204 v h (State.regsExist_injAmp _) (State.writeReg_injAmp ..) ha, hans,
      State.answer_gov .., hframe⟩
  case denied =>
    refine ⟨_, exec_csrWrite_denied m x s offset v h hr hp ha, ?_, ?_, ?_⟩
    · exact s.answer_answers ((s.heard m).event _ _ _ _ _ _) rfl rfl m 0x31 stAccess []
    · exact State.answer_evr ..
    · exact State.request_without (u := (s.heard m).event _ _ _ _ _ _) (b := .evr) (by decide) (by decide) rfl 0x31 stAccess []

end Sys2Proof.Machine
end

section
/-! PROOF. The configuration messages and the staging (R404, R405, R11). -/

namespace Sys2Proof.Machine

open Sys2Proof

/-! ## What a switch settles -/

/-- The configuration in force and the staging: what nothing but a commit, a staging message or its end changes. -/
def State.settled (s : State) : Nat × Nat × List CfgRec × Option Staging := (s.cfg.epoch, s.cfg.digest, s.cfg.recs, s.cfg.staging)

theorem State.settled_iff {s : State} {epoch digest : Nat} {recs : List CfgRec} {staging : Option Staging} :
    s.settled = (epoch, digest, recs, staging) ↔
      s.cfg.epoch = epoch ∧ s.cfg.digest = digest ∧ s.cfg.recs = recs ∧ s.cfg.staging = staging := by
  simp [State.settled]

theorem State.fetchCfg_settled (s : State) : s.fetchCfg.settled = s.settled := by
  unfold State.fetchCfg
  split
  · rfl
  · exact State.transmit_frame State.settled (fun _ _ => rfl) (fun _ _ _ => rfl) _ _ _ _

theorem State.peerLanes_settled (s : State) (up : Bool) : (s.peerLanes up).settled = s.settled := by
  have hmirror (u : State) (st : MirrorSt) (cause : Nat) : (u.setMirror st cause).settled = u.settled :=
    State.setMirror_frame State.settled (fun _ _ => rfl) (fun _ _ => rfl) u st cause
  have hfetch : (if s.rot.waitSince.isSome then s.fetchCfg else s).settled = s.settled :=
    ite_frame s.fetchCfg_settled rfl
  unfold State.peerLanes
  split
  · exact ite_frame ((hmirror ..).trans hfetch) hfetch
  · exact ite_frame (hmirror ..) rfl

theorem State.portDown_settled (s : State) (p : PortId) : (s.portDown p).settled = s.settled := by
  unfold State.portDown
  cases p with
  | host h => rfl
  | peer => exact State.peerLanes_settled _ false
  | media m => rfl

theorem State.portBack_settled (s : State) (p : PortId) : (s.portBack p).settled = s.settled := by
  unfold State.portBack
  extract_lets u v
  have hv : v.settled = s.settled :=
    (State.pump_frame State.settled (fun _ _ => rfl) (fun _ _ _ => rfl) u p).trans
      (State.endRetrain_frame State.settled (fun _ _ => rfl) (fun _ _ _ => rfl) (fun _ _ => rfl) (fun _ _ => rfl) _ p)
  cases p with
  | host h => exact hv
  | peer => exact (State.peerLanes_settled v true).trans hv
  | media m =>
    refine Eq.trans ?_ hv
    apply State.memberReturns_frame State.settled <;> first | exact fun _ _ => rfl | exact fun _ _ _ => rfl

/-- A lane's change of state may ask the peer for its configuration, and settles nothing. -/
theorem State.setLane_settled (s : State) (n : Nat) (st : LaneSt) (cause : Nat) : (s.setLane n st cause).settled = s.settled := by
  have hlane : ((s.laneEvent n (s.link.lane n).st st cause).modLane n (Lane.enters s.dt st cause)).settled = s.settled :=
    State.laneEvent_frame State.settled (fun _ _ => rfl) s n _ st cause
  unfold State.setLane
  dsimp only
  split
  · rfl
  · cases s.link.laneOwner n with
    | none => exact hlane
    | some p =>
      dsimp only
      have hdown {c : Prop} [Decidable c] {u : State} (h : u.settled = s.settled) : (if c then u.portDown p else u).settled = s.settled :=
        ite_frame ((u.portDown_settled p).trans h) h
      have hrestart {c : Prop} [Decidable c] {u : State} (h : u.settled = s.settled) :
          (if c then u.restartPort p else u).settled = s.settled :=
        ite_frame ((State.restartPort_frame State.settled (fun _ _ _ => rfl) (fun _ _ _ => rfl) u p).trans h) h
      exact ite_frame ((State.portBack_settled ..).trans (hrestart (hdown hlane))) (hrestart (hdown hlane))

theorem State.applyModules_settled (s : State) (old : Cfg) : (s.applyModules old).settled = s.settled := by
  unfold State.applyModules
  extract_lets new u fresh gone used halve v w
  have hv : v.settled = s.settled := rfl
  have hw : w.settled = v.settled := by
    refine foldl_frame State.settled _ (fun s p => ?_) _ _
    exact ite_frame (State.setLane_settled ..) rfl
  refine (foldl_frame State.settled _ (fun s p => ?_) _ _).trans (hw.trans hv)
  extract_lets n t
  have ht : t.settled = s.settled := ite_frame (State.setLane_settled ..) rfl
  refine ite_frame (Eq.trans ?_ ht) ht
  exact (State.sendOwner_frame State.settled (fun _ _ => rfl) (fun _ _ _ => rfl) (fun _ _ _ => rfl) _ p none).trans
    (State.sendEpoch_frame State.settled (fun _ _ => rfl) (fun _ _ _ => rfl) (fun _ _ _ => rfl) t p false)

theorem State.takeAway_settled (s : State) (old new : Cfg) : (s.takeAway old new).settled = s.settled := by
  have hdel (u : State) (x : Snap) : (u.deleteSnap new x.vol x.id).settled = u.settled :=
    State.deleteSnap_frame State.settled (fun _ _ => rfl) (fun _ _ => rfl) (fun _ _ => rfl) u new x.vol x.id
  unfold State.takeAway
  extract_lets gone snaps hidden u v
  have hu : u.settled = s.settled := foldl_frame State.settled _ hdel _ s
  have hv : v.settled = u.settled := foldl_frame State.settled _ hdel _ u
  refine (foldl_frame State.settled _ (fun s p => ?_) _ v).trans (hv.trans hu)
  extract_lets was w z
  have hw : w.settled = s.settled := State.volumeNotice_frame State.settled (fun _ _ => rfl) _ p was .deleting
  refine (foldl_frame State.settled _ (fun s f => ?_) _ w).trans hw
  exact State.releaseFrame_frame State.settled (fun _ _ => rfl) (fun _ _ _ => rfl) (fun _ _ => rfl) (fun _ _ => rfl) s f.1

theorem State.refreshVolumes_settled (s : State) : s.refreshVolumes.settled = s.settled := by
  unfold State.refreshVolumes
  refine foldl_frame State.settled _ (fun s r => ?_) _ s
  split
  · exact ite_frame rfl (State.volumeNotice_frame State.settled (fun _ _ => rfl) _ r.key _ _)
  · rfl

/-- The switch (R410): the commit's epoch, digest and record set come into force, and the staging is as it was. -/
theorem State.switchTo_settled (s : State) (c : CommitRec) (recs : List CfgRec) (source : Nat) :
    (s.switchTo c recs source).settled = (c.epoch, c.digestFull, recs, s.cfg.staging) := by
  unfold State.switchTo
  extract_lets old changed news s1 s2 s3 s4 s5 s6 s7 s8 s9 s10 s11 s12
  have h1 : s1.settled = s.settled := State.takeAway_settled s old _
  have h2 : s2.settled = (c.epoch, c.digestFull, recs, s.cfg.staging) := by
    have hst : s1.cfg.staging = s.cfg.staging := congrArg (·.2.2.2) h1
    rw [← hst]
    rfl
  have h3 : s3.settled = s2.settled :=
    ite_frame rfl (State.sendHeartbeat_frame State.settled (fun _ _ => rfl) (fun _ _ _ => rfl) (fun _ _ => rfl) s2)
  have h5 : s5.settled = s3.settled := State.applyModules_settled s4 old
  have h6 : s6.settled = s5.settled := by
    dsimp only [s6]
    rw [State.applyDomains_frame State.settled, State.applyDicts_frame State.settled, State.applyKeys_frame State.settled,
      State.applyPools_frame State.settled] <;>
      first | exact fun _ _ => rfl | exact fun _ _ _ => rfl
  have h7 : s7.settled = s6.settled := by
    dsimp only [s7]
    rw [State.applyJobs_frame State.settled, State.takeSnaps_frame State.settled, State.newVolumes_frame State.settled] <;>
      first | exact fun _ _ => rfl | exact fun _ _ _ => rfl
  have h8 : s8.settled = s7.settled := by
    dsimp only [s8]
    rw [State.applyPowerRec_frame State.settled, State.applyLimit_frame State.settled, State.applyClasses_frame State.settled] <;>
      exact fun _ _ => rfl
  have h9 : s9.settled = s8.settled := by
    dsimp only [s9]
    clear_value s8
    split <;> rfl
  have h10 : s10.settled = s9.settled := by
    dsimp only [s10]
    rw [State.refreshVolumes_settled, State.applyBridges_frame State.settled, State.applySplit_frame State.settled,
      State.applyPref_frame State.settled] <;>
      first | exact fun _ _ => rfl | exact fun _ _ _ => rfl
  have h11 : s11.settled = s10.settled := by
    dsimp only [s11]
    clear_value s10
    split <;> rfl
  calc (s12.notifyAll 3 _).settled
    _ = s12.settled := State.notifyAll_frame State.settled (fun _ _ => rfl) s12 3 _
    _ = s11.settled := State.event_frame State.settled (fun _ _ => rfl) s11 ..
    _ = s3.settled := by rw [h11, h10, h9, h8, h7, h6, h5]
    _ = (c.epoch, c.digestFull, recs, s.cfg.staging) := h3.trans h2

end Sys2Proof.Machine
end

section
/-! PROOF. The configuration messages: what each does where nothing refuses it (R404, R405), TIME_SET (R11), and the end of a staging
that is abandoned. -/

namespace Sys2Proof.Machine

open Sys2Proof

/-! ## Commit and offer (steps 4 and 5 of R405) -/

/-- The head switches to the staged set, and the staging is over. -/
theorem State.commitStaged_settled (s : State) (g : Staging) (k : CommitRec) (port req : Nat) (hs : s.cfg.staging = some g)
    (hc : g.commit = some (k, port, req)) : s.commitStaged.settled = (k.epoch, k.digestFull, s.stagedSet g k, none) := by
  unfold State.commitStaged
  simp only [hs, hc]
  rw [State.answerTo_frame State.settled (fun _ _ => rfl) (fun _ _ _ => rfl) (fun _ _ _ => rfl), State.switchTo_settled]
  rfl

/-- The switch takes no time. -/
theorem State.commitStaged_dt (s : State) : s.commitStaged.dt = s.dt := by
  apply State.commitStaged_frame State.dt <;> first | exact fun _ _ => rfl | exact fun _ _ _ => rfl

/-- With the peer away the head commits alone. -/
theorem State.offerStaged_away (s : State) (h : s.peerAway = true) : s.offerStaged = s.commitStaged := by
  unfold State.offerStaged
  rw [if_pos h]

/-- The offer to the peer: the commit and the delta, each given once to the peer port. -/
theorem State.offerStaged_offered (s : State) (g : Staging) (k : CommitRec) (port req : Nat) (hs : s.cfg.staging = some g)
    (hc : g.commit = some (k, port, req)) (ha : s.peerAway = false) :
    s.offerStaged.cfg = { s.cfg with staging := some { g with offeredAt := some s.dt } } ∧
      Gives s s.offerStaged .peer (.cfgOffer k g.len) ∧ Gives s s.offerStaged .peer (.cfgData g.recs) ∧
      s.offerStaged.without [.out, .link, .cqe, .cfg] = s.without [.out, .link, .cqe, .cfg] := by
  have hoff : s.offerStaged = ((s.modCfg fun c => { c with staging := some { g with offeredAt := some s.dt } }).transmit .peer 3
      (.cfgOffer k g.len)).transmit .peer 3 (.cfgData g.recs) := by
    unfold State.offerStaged
    simp only [ha, hs, hc, Bool.false_eq_true, if_false]
  have hframe {α : Type} (π : State → α) (hOut : KeepsOut π) (hPort : KeepsPort π) :
      π s.offerStaged = π (s.modCfg fun c => { c with staging := some { g with offeredAt := some s.dt } }) := by
    rw [hoff, State.transmit_frame π hOut hPort, State.transmit_frame π hOut hPort]
  have hgiven (y : Sent) : s.offerStaged.given .peer y =
      s.given .peer y + (if Sent.cfgOffer k g.len = y then 1 else 0) + if Sent.cfgData g.recs = y then 1 else 0 := by
    rw [hoff, State.given_transmit, State.given_transmit]
    rfl
  refine ⟨hframe State.cfg (fun _ _ => rfl) (fun _ _ _ => rfl), ?_, ?_,
    hframe (State.without · [.out, .link, .cqe, .cfg]) (fun _ _ => rfl) (fun _ _ _ => rfl)⟩
  · simp [Gives, hgiven]
  · simp [Gives, hgiven]

/-- A commit that nothing refuses names a newer epoch than that in force. -/
theorem State.epoch_lt_of_commitFault (s : State) (k : CommitRec) (delta : List CfgRec) (h : s.commitFault k delta = none) :
    s.cfg.epoch < k.epoch := by
  refine Nat.lt_of_not_le fun hle => ?_
  unfold State.commitFault at h
  simp only [hle, true_or, if_true] at h
  split at h
  · exact nomatch h
  · split at h <;> exact nomatch h

/-! ## The messages -/

/-- The state that TIME_SET answers from: event 0x060B with the old and the new offset, and the wall time moved (R11). -/
def State.timeMoved (s : State) (m : Vc3) (offset : Int) : State :=
  ((s.heard m).event 0x060B 0 (lo32 (twos 64 s.cfg.wall)) (hi32 (twos 64 s.cfg.wall)) (lo32 (twos 64 offset))
    (hi32 (twos 64 offset))).modCfg fun c => { c with wall := offset }

/-- A message that changes the configuration's state and is answered: what it leaves. -/
theorem State.cfg_answered (s : State) (m : Vc3) (f : Cfg → Cfg) (typ status : Nat) (body : Bytes) :
    let t := ((s.heard m).modCfg f).answer m typ status body
    t.cfg = f s.cfg ∧ s.answers t m typ status body ∧ t.without (.cfg :: vcParts) = s.without (.cfg :: vcParts) :=
  ⟨State.answer_cfg .., s.answer_answers ((s.heard m).modCfg f) rfl rfl m typ status body,
    State.request_without (b := .cfg) (by decide) (by decide) (u := (s.heard m).modCfg f) rfl typ status body⟩

/-- TIME_SET records the change, moves the wall time and is answered; nothing else of the head changes. -/
theorem State.timeSet_answered (s : State) (m : Vc3) (offset : Int) :
    let t := (s.timeMoved m offset).answer m 0x65 stSuccess (leBytes 1 0)
    t.cfg = { s.cfg with wall := offset } ∧
      t.evr = s.logged 0x060B 0 (lo32 (twos 64 s.cfg.wall)) (hi32 (twos 64 s.cfg.wall)) (lo32 (twos 64 offset)) (hi32 (twos 64 offset)) ∧
      s.answers t m 0x65 stSuccess (leBytes 1 0) ∧ t.without (.cfg :: vcParts) = s.without (.cfg :: vcParts) := by
  refine ⟨State.answer_cfg .., State.answer_evr .., s.answer_answers (s.timeMoved m offset) rfl rfl m 0x65 stSuccess _, ?_⟩
  calc ((s.timeMoved m offset).answer m 0x65 stSuccess (leBytes 1 0)).without (.cfg :: vcParts)
    _ = (s.timeMoved m offset).without (.cfg :: vcParts) := State.answer_without (by decide) ..
    _ = ((s.heard m).event _ _ _ _ _ _).without (.cfg :: vcParts) := State.without_congr (b := .cfg) (by decide) rfl
    _ = (s.heard m).without (.cfg :: vcParts) := State.without_congr (b := .evr) (by decide) rfl
    _ = s.without (.cfg :: vcParts) := s.heard_without (by decide) m

/-- Taking a free value sends nothing, and touches the counter of free values alone. -/
theorem State.answers_freshen {s t : State} {m : Vc3} {typ status : Nat} {body : Bytes} (h : s.answers t m typ status body) :
    s.answers t.freshen m typ status body := h

theorem State.freshen_without (s : State) : s.freshen.without vcParts = s.without vcParts := rfl

section
variable (m : Vc3) (x : Session) (s : State)

/-- CFG_BEGIN opens the one staging. -/
theorem exec_cfgBegin (h : s.accepts m 0x60 false 2 x) (hs : s.cfg.staging = none) (epoch base len : Nat) (hl : len ≤ maxDelta) :
    exec (.cfgBegin m epoch base len) s = .next (((s.heard m).modCfg fun c => { c with
      staging := some { sess := m.sess.toNat, epoch := epoch, base := base, len := len, off := 0, recs := [], lastAt := s.dt } }).answer
        m 0x60 stSuccess (leBytes 1 1)) := by
  show execCfgBegin m epoch base len s = _
  unfold execCfgBegin
  rw [s.vc3_accepts m _ _ _ _ x h]
  simp only [State.heard_cfg, hs, Option.isSome_none, Bool.false_eq_true, if_false, if_neg (Nat.not_lt.mpr hl)]
  rfl

/-- CFG_STATUS answers the epoch and digest in force, the staged epoch and a staging state, and changes no part of the head. -/
theorem exec_cfgStatus (h : s.accepts m 0x64 false 1 x) :
    exec (.cfgStatus m) s = .next (((s.heard m).answer m 0x64 stSuccess (leBytes 1 0 ++ (leBytes 8 s.cfg.epoch ++ beBytes 48 s.cfg.digest ++
      leBytes 8 (match s.cfg.staging with | some g => g.epoch | none => 0) ++ leBytes 1 (s.freeNat 8)))).freshen) := by
  show execCfgStatus m s = _
  unfold execCfgStatus
  rw [s.vc3_accepts m _ _ _ _ x h]
  rfl

/-- TIME_SET that passes R499 is never refused. -/
theorem exec_timeSet (h : s.accepts m 0x65 false 2 x) (offset : Int) :
    exec (.timeSet m offset) s = .next ((s.timeMoved m offset).answer m 0x65 stSuccess (leBytes 1 0)) := by
  show execTimeSet m offset s = _
  unfold execTimeSet
  rw [s.vc3_accepts m _ _ _ _ x h]
  rfl

end

/-- The staging once its commit waits for the peer (step 4): the commit and its request, nothing to identify. -/
def Staging.committing (g : Staging) (m : Vc3) (c : CommitRec) : Staging :=
  { g with commit := some (c, m.port.val, m.reqId.toNat), idents := [] }

/-- The state from which a commit that nothing refuses, and that declares no module to identify, is offered: the request is held. -/
def State.toOffer (s : State) (m : Vc3) (g : Staging) (c : CommitRec) : State :=
  ((s.heard m).modCfg fun k => { k with staging := some (g.committing m c) }).holdAnswer m

/-- What the offer of the commit leaves: the staging waits for the peer, which is given the commit and the delta. -/
theorem State.toOffer_offered (s : State) (m : Vc3) (g : Staging) (c : CommitRec) (ha : s.peerAway = false) :
    let t := (s.toOffer m g c).offerStaged
    t.cfg = { s.cfg with staging := some { g.committing m c with offeredAt := some s.dt } } ∧ Gives s t .peer (.cfgOffer c g.len) ∧
      Gives s t .peer (.cfgData g.recs) ∧ t.without [.out, .link, .cqe, .cfg] = s.without [.out, .link, .cqe, .cfg] := by
  obtain ⟨hcfg, hoffer, hdata, hframe⟩ :=
    (s.toOffer m g c).offerStaged_offered (g.committing m c) c m.port.val m.reqId.toNat rfl rfl ha
  refine ⟨hcfg, hoffer, hdata, hframe.trans ?_⟩
  calc (s.toOffer m g c).without [.out, .link, .cqe, .cfg]
    _ = ((s.heard m).modCfg fun k => { k with staging := some (g.committing m c) }).without [.out, .link, .cqe, .cfg] :=
      State.without_congr (b := .cqe) (by decide) rfl
    _ = (s.heard m).without [.out, .link, .cqe, .cfg] := State.without_congr (b := .cfg) (by decide) rfl
    _ = s.without [.out, .link, .cqe, .cfg] := State.without_congr (b := .cqe) (by decide) rfl

/-! ## The messages of the session that stages, and the end of its staging -/

section
variable (m : Vc3) (x : Session) (s : State) (g : Staging) (hs : s.cfg.staging = some g) (hc : g.commit = none)
include hs hc

/-- A staging whose session has ended is abandoned. -/
theorem exec_stagingAbandoned_closed (ho : s.sessionOpen g.sess = false) :
    exec .stagingAbandoned s = .next ((s.event 0x060E 0 g.sess 1 g.off 0).modCfg fun c => { c with staging := none }) := by
  show execStagingAbandoned s = _
  simp [execStagingAbandoned, hs, hc, ho]

/-- A staging whose session has sent nothing for 10 s is abandoned. -/
theorem exec_stagingAbandoned_silent (ho : s.sessionOpen g.sess = true) (y : Session) (hy : tget s.cqe.sessions g.sess = some y) :
    exec .stagingAbandoned s = .next
      (((s.advanceTo (y.lastAt + secNs 10)).event 0x060E 0 g.sess 2 g.off 0).modCfg fun c => { c with staging := none }) := by
  show execStagingAbandoned s = _
  simp [execStagingAbandoned, hs, hc, ho, hy]

variable (hg : g.sess = m.sess.toNat)
include hg

/-- CFG_STAGE in order adds its records. -/
theorem exec_cfgStage (h : s.accepts m 0x61 false 2 x) (len : Nat) (recs : List CfgRec) (hl : g.off + len ≤ g.len) :
    exec (.cfgStage m g.off len recs) s = .next (((s.heard m).modCfg fun c => { c with
      staging := some { g with off := g.off + len, recs := g.recs ++ recs, lastAt := s.dt } }).answer m 0x61 stSuccess (leBytes 1 1)) := by
  show execCfgStage m g.off len recs s = _
  unfold execCfgStage
  rw [s.vc3_accepts m _ _ _ _ x h]
  simp [hs, hg, hc, Nat.not_lt.mpr hl]
  rfl

/-- CFG_ABORT discards the session's staging. -/
theorem exec_cfgAbort (h : s.accepts m 0x63 false 2 x) :
    exec (.cfgAbort m) s = .next (((s.heard m).modCfg fun c => { c with staging := none }).answer m 0x63 stSuccess (leBytes 1 0)) := by
  show execCfgAbort m s = _
  unfold execCfgAbort
  rw [s.vc3_accepts m _ _ _ _ x h]
  simp [hs, hg, hc]
  rfl

/-- CFG_COMMIT that nothing refuses is offered (steps 1 to 3 of R405): its epoch is not that in force, no offer of the peer clashes, and
no module waits to be identified. -/
theorem exec_cfgCommit (h : s.accepts m 0x62 false 2 x) (c : CommitRec) (hsig : c.sigOk = true) (hchain : c.chainOk = true)
    (he : c.epoch = g.epoch) (hb : c.base = g.base) (hf : (s.heard m).commitFault c g.recs = none) (ho : s.cfg.offer = none)
    (hi : (s.heard m).identifiable (s.cfg.after c g.recs) = []) :
    exec (.cfgCommit m c) s = .next (s.toOffer m g c).offerStaged := by
  have hnew : g.epoch ≠ s.cfg.epoch := by
    have hlt := (s.heard m).epoch_lt_of_commitFault c g.recs hf
    rw [State.heard_cfg] at hlt
    omega
  show execCfgCommit m c s = _
  unfold execCfgCommit
  rw [s.vc3_accepts m _ _ _ _ x h]
  simp [hs, hg, hc, hsig, hchain, hnew, he, hb, hf, ho, hi, State.toOffer, Staging.committing]

end

end Sys2Proof.Machine
end

section
/-! PROOF. The statement on the configuration messages. -/

namespace Sys2Proof.Machine

open Sys2Proof

/-- Settles O48: each message by what it does where nothing refuses it; a commit with the peer away by what the switch settles, one with
the peer there by what the offer gives. -/
theorem configurationsAreStagedAndCommitted : Obligations.ConfigurationsAreStagedAndCommitted := by
  intro m x s
  refine ⟨fun h hs epoch base len hl => ?cfgBegin, fun g hs hg hc => ⟨fun h len recs hl => ?cfgStage, fun h => ?cfgAbort,
    fun h c hsig hchain he hb hf ho hi => ⟨fun ha => ?commitAlone, fun ha => ?commitOffered⟩, fun hclosed => ?sessionEnded,
    fun y hy hopen => ?sessionSilent⟩, fun h => ?cfgStatus, fun h offset => ?timeSet⟩
  case cfgBegin => exact ⟨_, exec_cfgBegin m x s h hs epoch base len hl, s.cfg_answered m _ 0x60 stSuccess (leBytes 1 1)⟩
  case cfgStage => exact ⟨_, exec_cfgStage m x s g hs hc hg h len recs hl, s.cfg_answered m _ 0x61 stSuccess (leBytes 1 1)⟩
  case cfgAbort => exact ⟨_, exec_cfgAbort m x s g hs hc hg h, s.cfg_answered m _ 0x63 stSuccess (leBytes 1 0)⟩
  case commitAlone =>
    refine ⟨_, exec_cfgCommit m x s g hs hc hg h c hsig hchain he hb hf ho hi, ?_⟩
    rw [(s.toOffer m g c).offerStaged_away ha]
    obtain ⟨hepoch, hdigest, hrecs, hstaging⟩ := State.settled_iff.mp
      ((s.toOffer m g c).commitStaged_settled (g.committing m c) c m.port.val m.reqId.toNat rfl rfl)
    exact ⟨hepoch, hdigest, hrecs, hstaging, (s.toOffer m g c).commitStaged_dt⟩
  case commitOffered =>
    exact ⟨_, exec_cfgCommit m x s g hs hc hg h c hsig hchain he hb hf ho hi, s.toOffer_offered m g c ha⟩
  case sessionEnded => exact ⟨_, exec_stagingAbandoned_closed s g hs hc hclosed, rfl, rfl, rfl⟩
  case sessionSilent => exact ⟨_, exec_stagingAbandoned_silent s g hs hc hopen y hy, rfl, rfl, rfl⟩
  case cfgStatus =>
    have hans := s.answer_answers (s.heard m) rfl rfl m 0x64 stSuccess
    exact ⟨_, s.freeNat 8, exec_cfgStatus m x s h, State.answers_freshen (hans _), (State.freshen_without _).trans
      (State.request_without (b := .cqe) (by decide) (by decide) (u := s.heard m) rfl 0x64 stSuccess _)⟩
  case timeSet => exact ⟨_, exec_timeSet m x s h offset, s.timeSet_answered m offset⟩

end Sys2Proof.Machine
end

section
/-! PROOF. What a message and a completion change: the transmitter, the outstanding commands, the outcome of a host's command. -/

namespace Sys2Proof.Machine

open Sys2Proof

/-! ## The transmitter -/

/-- A message transmitted from any state that has given what `s` has is given once. -/
theorem State.transmit_gives (s u : State) (ho : u.out = s.out) (hp : u.link.ports = s.link.ports) (p : PortId) (vc : Nat) (x : Sent) :
    Gives s (u.transmit p vc x) p x := by
  unfold Gives
  rw [State.given_transmit, if_pos rfl, s.given_congr_ports u ho hp]

@[simp] theorem State.transmit_cqe (s : State) (p : PortId) (vc : Nat) (x : Sent) : (s.transmit p vc x).cqe = s.cqe :=
  State.transmit_frame State.cqe (fun _ _ => rfl) (fun _ _ _ => rfl) s p vc x
@[simp] theorem State.transmit_wc (s : State) (p : PortId) (vc : Nat) (x : Sent) : (s.transmit p vc x).wc = s.wc :=
  State.transmit_frame State.wc (fun _ _ => rfl) (fun _ _ _ => rfl) s p vc x
/-- Of the link a message changes the ports alone. -/
@[simp] theorem State.transmit_ops (s : State) (p : PortId) (vc : Nat) (x : Sent) : (s.transmit p vc x).link.ops = s.link.ops :=
  State.transmit_frame (fun s => s.link.ops) (fun _ _ => rfl) (fun _ _ _ => rfl) s p vc x

/-- Parts of the state that hide the port and what was sent hide a message. -/
theorem State.transmit_without {bs : List Blk} (ho : .out ∈ bs) (hl : .link ∈ bs) (s : State) (p : PortId) (vc : Nat) (x : Sent) :
    (s.transmit p vc x).without bs = s.without bs :=
  State.transmit_frame (State.without · bs) (fun _ _ => State.without_congr ho rfl) (fun _ _ _ => State.without_congr hl rfl) s p vc x

/-! ## Outstanding commands -/

/-- The command that holds a queue pair's CID bears both, and answers no rejection. -/
theorem Cqe.cmd_spec {q : Cqe} {qp cid : Nat} {c : Cmd} (h : q.cmd qp cid = some c) : c.qp = qp ∧ c.cid = cid ∧ c.isDup = false := by
  simpa [and_assoc] using List.find?_some h

/-- A change of the command that holds a CID, under which it still does, reads back. -/
theorem State.cmd_modCmd {s : State} {qp cid : Nat} {c : Cmd} (f : Cmd → Cmd) (h : s.cqe.cmd qp cid = some c)
    (hf : ∀ x : Cmd, x.qp = qp → x.cid = cid → x.isDup = false → (f x).qp = qp ∧ (f x).cid = cid ∧ (f x).isDup = false) :
    (s.modCmd qp cid f).cqe.cmd qp cid = some (f c) := by
  let p (x : Cmd) : Bool := x.qp == qp && x.cid == cid && !x.isDup
  have hp (x : Cmd) (hx : p x = true) : p (f x) = true := by simp_all [p]
  have hcomp : (p ∘ fun x => if p x then f x else x) = p := by
    funext x
    by_cases hx : p x <;> simp [hx, hp]
  show (s.cqe.cmds.map fun x => if p x then f x else x).find? p = some (f c)
  have hc : s.cqe.cmds.find? p = some c := h
  rw [List.find?_map, hcomp, hc]
  simp [List.find?_some hc]

/-- Parts of the state that hide the commands hide a change of one. -/
theorem State.modCmd_without {bs : List Blk} (hc : .cqe ∈ bs) (s : State) (qp cid : Nat) (f : Cmd → Cmd) :
    (s.modCmd qp cid f).without bs = s.without bs :=
  State.modCmd_frame (State.without · bs) (fun _ _ => State.without_congr hc rfl) s qp cid f

/-- A command appended behind those none of which holds its CID is the one that holds it. -/
theorem Cqe.cmd_append {q : Cqe} {c : Cmd} (h : q.cmd c.qp c.cid = none) (hd : c.decided = none) :
    Cqe.cmd { q with cmds := q.cmds ++ [c] } c.qp c.cid = some c := by
  have hn : q.cmds.find? (fun x => x.qp == c.qp && x.cid == c.cid && !x.isDup) = none := h
  show (q.cmds ++ [c]).find? _ = _
  rw [List.find?_append, hn]
  simp [Cmd.isDup, hd]

/-! ## Completions -/

/-- Completions go to the adapter of a command whose session is open. -/
theorem State.sends_open {s : State} {c : Cmd} {x : Session} (h : tget s.cqe.sessions c.sess = some x) (hx : x.closing = none) :
    s.sends c = true := by
  simp [State.sends, h, hx]

/-- The completion of a host's command, of an open session, is ready for its port. -/
theorem State.deliver_ready {s : State} {c : Cmd} (k : Completion) (hp : c.fromPeer = none) (hs : s.sends c = true) :
    (s.deliver c k).cqe.ready = s.cqe.ready ++ [(c.port, k)] := by
  simp only [State.deliver, hp, hs, if_true]
  rfl

/-- A completion that is ready for an adapter gives nothing to a port. -/
theorem State.deliver_given {s : State} {c : Cmd} (k : Completion) (hp : c.fromPeer = none) (hs : s.sends c = true) (p : PortId) (y : Sent) :
    (s.deliver c k).given p y = s.given p y := by
  simp only [State.deliver, hp, hs, if_true]
  rfl

/-- The outcome of a host's command that no ABORT waits for: its completion is ready, and nothing is given to a port. -/
theorem State.finish_host {s : State} {c : Cmd} (k : Completion) (hp : c.fromPeer = none) (ha : c.aborters = []) (hs : s.sends c = true) :
    (s.finish c k).cqe.ready = s.cqe.ready ++ [(c.port, k)] ∧ ∀ p y, (s.finish c k).given p y = s.given p y := by
  have hfinish : s.finish c k = (s.letGo c).deliver c k := by
    unfold State.finish
    rw [ha]
    rfl
  rw [hfinish]
  have hletGo {α : Type} (π : State → α) (hDge : KeepsDge π) (hCpe : KeepsCpe π) (hFtu : KeepsFtu π) (hSlc : KeepsSlc π) :
      π (s.letGo c) = π s := State.letGo_frame π hDge hCpe hFtu hSlc s c
  have hsends : (s.letGo c).sends c = true :=
    (hletGo (·.sends c) (fun _ _ => rfl) (fun _ _ => rfl) (fun _ _ => rfl) (fun _ _ => rfl)).trans hs
  refine ⟨?_, fun p y => ?_⟩
  · rw [State.deliver_ready k hp hsends, hletGo (·.cqe.ready) (fun _ _ => rfl) (fun _ _ => rfl) (fun _ _ => rfl) (fun _ _ => rfl)]
  · rw [State.deliver_given k hp hsends, hletGo (·.given p y) (fun _ _ => rfl) (fun _ _ => rfl) (fun _ _ => rfl) (fun _ _ => rfl)]

/-- The data of a READ of a host is given to its port once; the sessions stay as they are. -/
theorem State.sendData_host {s : State} {c : Cmd} (b : Bytes) (hp : c.fromPeer = none) (hs : s.sends c = true) :
    Gives s (s.sendData c b) (hostPort c.port) (.readData c.port c.qp c.cid b) ∧ (s.sendData c b).cqe.sessions = s.cqe.sessions := by
  unfold State.sendData
  rw [hp]
  simp only [hs, Bool.not_true, Bool.false_eq_true, if_false]
  refine ⟨State.transmit_gives s _ ?_ ?_ _ 1 _, ?_⟩
  · exact ite_frame (π := State.out) rfl rfl
  · exact ite_frame (π := (·.link.ports)) rfl rfl
  · rw [State.transmit_cqe]
    exact ite_frame (π := (·.cqe.sessions)) rfl rfl

end Sys2Proof.Machine
end

section
/-! PROOF. From a command's ring to its start: the checks of R94, and what an admission leaves (R81, R104, R120). -/

namespace Sys2Proof.Machine

open Sys2Proof

/-! ## From the ring to DSC (R94) -/

/-- The checks of a command's volume do not look at the ring. -/
theorem State.volStatus_modCqe (s : State) (f : Cqe → Cqe) (opc vol lba nsect cls : Nat) (granted : Bool) :
    (s.modCqe f).volStatus opc vol lba nsect cls granted = s.volStatus opc vol lba nsect cls granted := rfl

/-- The grant of a volume does not depend on the ring. -/
theorem State.granted_modCqe (s : State) (f : Cqe → Cqe) (anchor v : Nat) : (s.modCqe f).granted anchor v = s.granted anchor v := rfl

/-- A ranged opcode is neither FLUSH nor ABORT. -/
theorem ranged_ne {opc : Nat} (h : ranged opc = true) : opc ≠ opFlush ∧ opc ≠ opAbort := by
  simp only [ranged, Bool.and_eq_true, decide_eq_true_eq, bne_iff_ne, ne_eq] at h
  refine ⟨h.2, ?_⟩
  unfold opAbort
  omega

/-- A command of a group that this head owns goes to DSC. -/
theorem State.routeCmd_owned {s : State} (c : Cmd) (e : CmdEntry) {g : Nat} (h : s.ownsGroup g = true) : s.routeCmd c e g = s.toDsc c := by
  simp [State.routeCmd, State.groupOwner, h]

/-- A command entry that passes checks 1 to 11 of R94, and whose group this head owns, reaches DSC from the ring. -/
theorem State.hostCommand_passes {s : State} {opc : Nat} {h : HostCmd} {q : Qp} {x : Session} {r : VolumeRec} (hr : ranged opc = true)
    (hp : s.passes opc h q x r) (ho : s.ownsGroup r.group = true) :
    s.hostCommand opc h = (s.ringed opc h q).1.toDsc (s.ringed opc h q).2 := by
  obtain ⟨⟨hq, hport, hx, -, hquar, hdel, hdepth, hfree⟩, hfields, hv, -, -, hs⟩ := hp
  obtain ⟨hflush, habort⟩ := ranged_ne hr
  have hopc : ¬ (opc = 0 ∨ opc > 8) := by
    simp only [ranged, Bool.and_eq_true, decide_eq_true_eq] at hr
    omega
  unfold State.hostCommand
  simp only [hq, hport, hx, hquar, hdel, hfree, hopc, hfields, hflush, habort, Nat.not_le.mpr hdepth, ne_eq, not_true_eq_false, if_false,
    Option.isSome_none, Bool.false_eq_true, Bool.not_true, State.ringed, cmdOf, State.modCqe_cfg, State.granted_modCqe,
    State.volStatus_modCqe, hs, hv]
  exact State.routeCmd_owned _ _ ho

/-- The command of an entry whose CID is free holds it from then on. -/
theorem State.ringed_held {s : State} {opc : Nat} {h : HostCmd} {q : Qp} (hf : s.cqe.cmd h.qp.toNat h.entry.cid.toNat = none) :
    (s.ringed opc h q).1.cqe.cmd h.qp.toNat h.entry.cid.toNat = some (s.ringed opc h q).2 :=
  Cqe.cmd_append (c := (s.ringed opc h q).2) hf rfl

/-! ## Admission -/

/-- A command that waits or is decided for the first time is tagged and marked, nothing else. -/
theorem State.enqueue7_cmd (s : State) (c : Cmd) : ∃ a w t, (s.enqueue7 c).1 = { c with admitted := a, waiting7 := w, tag := t } := by
  unfold State.enqueue7
  split
  · exact ⟨_, _, _, rfl⟩
  · exact ⟨_, _, _, rfl⟩

/-- A decision that admits a command does so by a plan, from the state in which it stands in its queue. -/
theorem State.judge_admitted_plan {s u : State} {c k : Cmd} (h : s.judge c = (.admitted k, u)) :
    ∃ p, (s.enqueue7 c).2.admitPlan (s.enqueue7 c).1 p = (k, u) := by
  unfold State.judge at h
  dsimp only at h
  split at h
  · cases h
  · split at h
    · cases h
    · split at h
      · cases h
      · split at h
        · cases h
        · split at h
          · cases h
          · split at h
            · cases h
            · injection h with hk hu
              injection hk with hk
              exact ⟨_, Prod.ext hk hu⟩

/-- An admitted command is as it came, but for its tag, its worst case and its parts (R81). -/
theorem State.judge_admitted_cmd {s u : State} {c k : Cmd} (h : s.judge c = (.admitted k, u)) :
    k = { c with admitted := true, waiting7 := false, tag := k.tag, worst := k.worst, parts := k.parts } := by
  obtain ⟨p, hp⟩ := State.judge_admitted_plan h
  obtain ⟨a, w, t, hq⟩ := s.enqueue7_cmd c
  rw [hq] at hp
  injection hp with hk
  subst hk
  rfl

/-- Admission touches commands, calendars, fetches and pages alone: a view that sees none of them reads the same. -/
theorem State.judge_admitted_frame {α : Type} (π : State → α) (hCqe : KeepsCqe π) (hDsc : KeepsDsc π) (hFtu : KeepsFtu π) {s u : State}
    {c k : Cmd} (h : s.judge c = (.admitted k, u)) : π u = π s := by
  obtain ⟨p, hp⟩ := State.judge_admitted_plan h
  have hu := (State.admitPlan_frame π hCqe hDsc hFtu (s.enqueue7 c).2 (s.enqueue7 c).1 p).trans (s.enqueue7_frame π hCqe hDsc c)
  rwa [hp] at hu

/-- An admission touches nothing but what commands may touch. -/
theorem State.judge_admitted_without {s u : State} {c k : Cmd} (h : s.judge c = (.admitted k, u)) : u.without cmdParts = s.without cmdParts :=
  State.judge_admitted_frame (State.without · cmdParts) (fun _ _ => State.without_congr (b := .cqe) (by decide) rfl)
    (fun _ _ => State.without_congr (b := .dsc) (by decide) rfl) (fun _ _ => State.without_congr (b := .ftu) (by decide) rfl) h

/-- Nor does the start of a command. -/
theorem State.startCmd_without (s : State) (c : Cmd) : (s.startCmd c).without cmdParts = s.without cmdParts := by
  have keeps {u v : State} (b : Blk) (hb : b ∈ cmdParts) (h : u.blank b = v.blank b) : u.without cmdParts = v.without cmdParts :=
    State.without_congr hb h
  exact State.startCmd_frame (State.without · cmdParts)
    (hOut := fun _ _ => keeps .out (by decide) rfl) (hLink := fun _ _ _ => keeps .link (by decide) rfl)
    (hPort := fun _ _ _ => keeps .link (by decide) rfl) (hCqe := fun _ _ => keeps .cqe (by decide) rfl)
    (hWc := fun _ _ => keeps .wc (by decide) rfl) (hDge := fun _ _ => keeps .dge (by decide) rfl)
    (hDxu := fun _ _ => keeps .dxu (by decide) rfl) (hCpe := fun _ _ => keeps .cpe (by decide) rfl)
    (hFtu := fun _ _ => keeps .ftu (by decide) rfl) (hPxe := fun _ _ _ => keeps .pxe (by decide) rfl)
    (hSlc := fun _ _ => keeps .slc (by decide) rfl) (hEvr := fun _ _ => keeps .evr (by decide) rfl) s c

/-- A command that is marked in its queue holds its CID as it was marked. -/
theorem State.enqueue7_held {s : State} {c : Cmd} (h : s.cqe.cmd c.qp c.cid = some c) :
    (s.enqueue7 c).2.cqe.cmd c.qp c.cid = some (s.enqueue7 c).1 := by
  have hspec := Cqe.cmd_spec h
  unfold State.enqueue7
  split
  · exact h
  · exact State.cmd_modCmd (s := s.modDsc _) (fun _ => { c with admitted := true, waiting7 := true, tag := s.cfg.epoch }) h
      fun _ _ _ _ => hspec

/-- A command that a plan admits holds its CID as the plan left it. -/
theorem State.admitPlan_held {s : State} {c : Cmd} (p : Plan) (h : s.cqe.cmd c.qp c.cid = some c) :
    (s.admitPlan c p).2.cqe.cmd c.qp c.cid = some (s.admitPlan c p).1 := by
  have hspec := Cqe.cmd_spec h
  refine State.cmd_modCmd (c := c) (fun _ => (s.admitPlan c p).1) ?_ fun _ _ _ _ => hspec
  exact ite_frame (π := fun s => s.cqe.cmd c.qp c.cid) h h

/-- A command that is admitted holds its CID as it was admitted. -/
theorem State.judge_admitted_held {s u : State} {c k : Cmd} (hj : s.judge c = (.admitted k, u)) (h : s.cqe.cmd c.qp c.cid = some c) :
    u.cqe.cmd c.qp c.cid = some k := by
  obtain ⟨p, hp⟩ := State.judge_admitted_plan hj
  obtain ⟨a, w, t, hq⟩ := s.enqueue7_cmd c
  have hheld := State.enqueue7_held h
  rw [hq] at hheld hp
  have hk := State.admitPlan_held (c := { c with admitted := a, waiting7 := w, tag := t }) p hheld
  rw [hp] at hk
  exact hk

/-- Admission opens, closes and changes no session. -/
theorem State.judge_admitted_sessions {s u : State} {c k : Cmd} (h : s.judge c = (.admitted k, u)) : u.cqe.sessions = s.cqe.sessions := by
  obtain ⟨p, hp⟩ := State.judge_admitted_plan h
  have hplan : ((s.enqueue7 c).2.admitPlan (s.enqueue7 c).1 p).2.cqe.sessions = (s.enqueue7 c).2.cqe.sessions :=
    ite_frame (π := fun s => s.cqe.sessions) rfl rfl
  have hqueue : (s.enqueue7 c).2.cqe.sessions = s.cqe.sessions := by
    unfold State.enqueue7
    split
    · rfl
    · rfl
  rw [hp] at hplan
  exact hplan.trans hqueue

/-- A command that passes intake, of a volume that is no portal, and that is admitted starts; a write's data is still to come. -/
theorem State.toDsc_admitted {s u : State} {c k : Cmd} {r : VolumeRec} (hv : s.cfg.volume c.vol = some r) (h4 : r.kind ≠ 4)
    (h5 : r.kind ≠ 5) (hi : s.intake.1 = false) (hj : s.intake.2.judge c = (.admitted k, u))
    (hw : k.opc = opWrite → k.complete = false) : s.toDsc c = u.startCmd k := by
  have hvol : s.intake.2.cfg.volume c.vol = some r := hv
  have hdecide : s.intake.2.decideCmd c = u.startCmd k := by
    have hdata : ¬ (k.opc = opWrite ∧ k.complete = true) := fun ⟨ho, hc⟩ => Bool.false_ne_true ((hw ho).symm.trans hc)
    unfold State.decideCmd
    simp [hvol, h4, h5, hj, hdata]
  have hsplit : s.intake = (false, s.intake.2) := Prod.ext hi rfl
  unfold State.toDsc
  rw [hsplit]
  exact hdecide

end Sys2Proof.Machine
end

section
/-! PROOF. This head's mirror area (R20, R138, R140, R319). -/

namespace Sys2Proof.Machine

open Sys2Proof

/-! ## Entries of the mirror area -/

/-- A copy written into the mirror area is live under its descriptor; where nothing stood its sectors are laid over zeros. -/
theorem Wc.putMirror_entry (w : Wc) (frame : Nat) (d : Desc) (ss : List (Nat × Bytes)) :
    ∃ f, (w.putMirror frame d ss).mirror = tput w.mirror frame f ∧ f.desc = d ∧ f.st = .dirty ∧
      (tget w.mirror frame = none → f.data = ss.foldl (fun a x => a.set x.1 x.2) [zeroSector, zeroSector]) := by
  refine ⟨_, rfl, rfl, rfl, fun h => ?_⟩
  simp only [h]

@[simp] theorem Wc.putMirror_frames (w : Wc) (frame : Nat) (d : Desc) (ss : List (Nat × Bytes)) :
    (w.putMirror frame d ss).frames = w.frames := rfl

/-- Both sectors of a grain, laid over any two. -/
theorem set_both_sectors {data : List Bytes} (h : data.length = 2) (a b : Bytes) :
    (([0, 1] : List Nat).zip data).foldl (fun (l : List Bytes) x => l.set x.1 x.2) [a, b] = data := by
  match data, h with
  | [_, _], _ => rfl

/-- Sealing a frame touches the CRC words of its descriptor alone. -/
theorem Frame.sealed_desc (f : Frame) :
    f.sealed.desc = { f.desc with crc0 := crc32c (f.data.getD 0 []), crc1 := crc32c (f.data.getD 1 []) } := rfl

/-- A discard of a copy that replaced nothing takes its entry away (R140). -/
theorem Wc.discardMirror_nil (w : Wc) (frame : Nat) (f : Frame) (h : tget w.mirror frame = some f) (hp : f.pend = []) :
    w.discardMirror frame f.desc.gen = { w with mirror := tdel w.mirror frame } := by
  simp [Wc.discardMirror, h, hp]

/-- The entry that stands under its own generation is the one a record names. -/
theorem State.mirrorNamed_self (s : State) (frame : Nat) (f : Frame) (h : tget s.wc.mirror frame = some f) :
    s.mirrorNamed frame f.desc.gen = true := by
  simp [State.mirrorNamed, h]

/-! ## The records -/

/-- A record whose reserved fields are zero is carried out (R317). -/
theorem State.peerRecord_ok (s : State) (rtype : Nat) (h : RecHdr) (act : State → State) (hr : h.rsvOk = true) :
    s.peerRecord rtype h act = act s := if_pos hr

/-- MIRROR_COPY that passes its checks writes the copy and acknowledges it. -/
theorem exec_mirrorCopy (frame : Nat) (desc : Desc) (data : List Bytes) (s : State) (hz : s.wc.frozen = false)
    (hn : data.length = ([0, 1].filter fun k => desc.present.getLsbD k).length) (hl : ∀ b ∈ data, b.length = 4096)
    (hf : frame < s.wc.mirrorFrames) :
    exec (.mirrorCopy frame desc true data) s =
      .next ((s.modWc fun w => w.putMirror frame desc (([0, 1].filter fun k => desc.present.getLsbD k).zip data)).toPeer
        (.mirrorAck frame desc.gen desc.present.toNat)) := by
  have hany : (data.any fun b => b.length != 4096) = false := by simpa using hl
  show execMirrorCopy frame desc true data s = _
  unfold execMirrorCopy
  simp only [hz, hn, hany, Nat.not_le.mpr hf, Bool.false_eq_true, Bool.not_true, ne_eq, not_true_eq_false, or_self, if_false]

/-- MIRROR_META of data that this head forwarded writes an entry of the command's volume, and acknowledges it. -/
theorem exec_mirrorMeta (h : RecHdr) (frame gen : Nat) (cid qp : BitVec 16) (ce : Nat) (mask : BitVec 8) (s : State)
    (x : Nat × Nat × List Bytes) (c : Cmd) (hr : h.rsvOk = true)
    (hx : s.wc.fwdData.find? (fun x => x.1 == qp.toNat && x.2.1 == cid.toNat) = some x) (hc : s.cqe.cmd qp.toNat cid.toNat = some c) :
    ∃ d ss, d.vol = c.vol ∧ d.gen = gen ∧ d.cepoch = ce ∧ exec (.mirrorMeta h frame gen cid qp ce mask) s =
      .next (((s.modWc fun w => { w.putMirror frame d ss with mirror := tmod (w.putMirror frame d ss).mirror frame Frame.sealed }).modCmd
        c.qp c.cid fun x => { x with metas := x.metas + 1 }).toPeer (.mirrorAck frame gen mask.toNat)) := by
  show ∃ d ss, _ ∧ _ ∧ _ ∧ execMirrorMeta h frame gen cid qp ce mask s = _
  unfold execMirrorMeta State.mirrorMetaIn
  rw [State.peerRecord_ok _ _ _ _ hr, hx, hc]
  exact ⟨_, _, rfl, rfl, rfl, rfl⟩

/-- RELEASE of the entry it names takes it away. -/
theorem exec_release (h : RecHdr) (frame : Nat) (s : State) (f : Frame) (hr : h.rsvOk = true) (hf : tget s.wc.mirror frame = some f) :
    exec (.release h frame f.desc.gen) s = .next (s.modWc fun w => { w with mirror := tdel w.mirror frame }) := by
  show execRelease h frame f.desc.gen s = _
  unfold execRelease
  rw [State.peerRecord_ok _ _ _ _ hr, if_pos (s.mirrorNamed_self frame f hf)]
  simp [State.releaseMirror, hf]

/-- DISCARD of the entry it names, which replaced nothing, takes it away and is answered. -/
theorem exec_discard (h : RecHdr) (frame : Nat) (s : State) (f : Frame) (hr : h.rsvOk = true) (hf : tget s.wc.mirror frame = some f)
    (hp : f.pend = []) : exec (.discard h frame f.desc.gen) s =
      .next ((s.modWc fun w => { w with mirror := tdel w.mirror frame }).toPeer (.discardAck frame f.desc.gen)) := by
  have hw : (s.modWc fun w => w.discardMirror frame f.desc.gen) = s.modWc fun w => { w with mirror := tdel w.mirror frame } := by
    show { s with wc := s.wc.discardMirror frame f.desc.gen } = _
    rw [s.wc.discardMirror_nil frame f hf hp]
    rfl
  show execDiscard h frame f.desc.gen s = _
  unfold execDiscard
  rw [State.peerRecord_ok _ _ _ _ hr, if_pos (s.mirrorNamed_self frame f hf), hw]

/-- Settles O30: a copy and an announced sector stand as `putMirror` writes them; a released or discarded entry is deleted. -/
theorem theMirrorHoldsThePeersSectors : Obligations.TheMirrorHoldsThePeersSectors := by
  intro frame gen h s
  refine ⟨fun desc data hz hn hl hf => ?copy, fun cid qp ce mask x c hr hx hc => ?announced, fun f hr hf hg => ⟨?release, fun hp => ?discard⟩⟩
  case copy =>
    obtain ⟨f, hput, hdesc, hst, hdata⟩ := s.wc.putMirror_entry frame desc (([0, 1].filter fun k => desc.present.getLsbD k).zip data)
    refine ⟨_, f, exec_mirrorCopy frame desc data s hz hn hl hf, ?_, hdesc, hst, fun h3 hnone => ?_, fun k hk => ?_, ?_, ?_, ?_⟩
    · simp [State.toPeer, hput]
    · rw [h3] at hn hdata
      exact (hdata hnone).trans (set_both_sectors hn _ _)
    · simp [State.toPeer, hput, tget_tput_ne _ _ _ _ hk]
    · simp [State.toPeer]
    · exact s.transmit_gives (s.modWc _) rfl rfl .peer 4 _
    · exact (State.transmit_without (by decide) (by decide) ..).trans (State.without_congr (b := .wc) (by decide) rfl)
  case announced =>
    obtain ⟨d, ss, hvol, hgen, hce, hexec⟩ := exec_mirrorMeta h frame gen cid qp ce mask s x c hr hx hc
    obtain ⟨f, hput, hdesc, hst, -⟩ := s.wc.putMirror_entry frame d ss
    refine ⟨_, f.sealed, hexec, ?_, ?_, ?_, ?_, hst, ?_, ?_⟩
    · simp [State.toPeer, State.modCmd, hput, tget_tmod_self]
    · rw [f.sealed_desc, hdesc, ← hvol]
    · rw [f.sealed_desc, hdesc, ← hgen]
    · rw [f.sealed_desc, hdesc, ← hce]
    · exact s.transmit_gives ((s.modWc _).modCmd _ _ _) rfl rfl .peer 4 _
    · exact (State.transmit_without (by decide) (by decide) ..).trans
        ((State.modCmd_without (by decide) ..).trans (State.without_congr (b := .wc) (by decide) rfl))
  case release =>
    subst hg
    exact ⟨_, exec_release h frame s f hr hf, tget_tdel_self _ _, fun k hk => tget_tdel_ne _ _ _ hk, rfl⟩
  case discard =>
    subst hg
    refine ⟨_, exec_discard h frame s f hr hf hp, ?_, fun k hk => ?_, s.transmit_gives (s.modWc _) rfl rfl .peer 4 _, ?_⟩
    · simp [State.toPeer]
    · simp [State.toPeer, tget_tdel_ne _ _ _ hk]
    · exact (State.transmit_without (by decide) (by decide) ..).trans (State.without_congr (b := .wc) (by decide) rfl)

end Sys2Proof.Machine
end

section
/-! PROOF. A reservation that reaches its start sends its operation (R23, R24, R57, R58). -/

namespace Sys2Proof.Machine

open Sys2Proof

/-- The state in which a reservation is issued: DT has reached its start, and its number is not issued again. -/
def State.starting (s : State) (n : Nat) (r : Resv) : State :=
  (s.advanceTo r.start).modDsc fun d => { d with cal := d.cal.map fun x => if x.num == n then { x with issued := true } else x }

/-- What a reservation programs or erases does not depend on the calendars or on DT. -/
theorem State.starting_programChunk (s : State) (n : Nat) (r x : Resv) :
    (s.starting n r).programChunk x = s.programChunk x := rfl
theorem State.starting_eraseBlock (s : State) (n : Nat) (r x : Resv) : (s.starting n r).eraseBlock x = s.eraseBlock x := rfl
theorem State.starting_programBody (s : State) (n : Nat) (r : Resv) (w : Work) (die chunk : Nat) :
    (s.starting n r).programBody w die chunk = s.programBody w die chunk := by
  cases w <;> rfl

/-- MEDIA_OP_ISSUE issues the reservation of its number, if it has not been. -/
theorem exec_mediaOpIssue (n : Nat) (r : Resv) (s : State) (h : s.dsc.cal.find? (fun x => x.num == n && !x.issued) = some r) :
    exec (.mediaOpIssue n) s = .next ((s.starting n r).issue r) := by
  show execMediaOpIssue n s = _
  unfold execMediaOpIssue
  rw [h]
  rfl

/-- The epoch that an operation carries: the fencing epoch where it changes the medium, an owner or an epoch, else 0 (R57). -/
def State.opEpoch (s : State) (opc arg : Nat) : Nat :=
  if opc = mProgram ∨ opc = mErase ∨ opc = mCas ∨ (opc = mOwner ∧ arg = 1) ∨ (opc = mEpoch ∧ arg = 1) then s.ha.epoch else 0

theorem State.opEpoch_read (s : State) (arg : Nat) : s.opEpoch mRead arg = 0 :=
  if_neg (by simp [mRead, mProgram, mErase, mCas, mOwner, mEpoch])
theorem State.opEpoch_program (s : State) (arg : Nat) : s.opEpoch mProgram arg = s.ha.epoch := if_pos (.inl rfl)
theorem State.opEpoch_erase (s : State) (arg : Nat) : s.opEpoch mErase arg = s.ha.epoch := if_pos (.inr (.inl rfl))

/-- An operation put in flight stands under the next tag, with its epoch, and is given to its bridge once. -/
theorem State.sendMedia_sent (s u : State) (ho : u.out = s.out) (hl : u.link = s.link) (pos die opc addr arg deadline resv : Nat)
    (work : Work) (body : Bytes) :
    MediaSent s (u.sendMedia pos die opc addr arg deadline resv work body) pos die opc addr arg (u.opEpoch opc arg) body := by
  unfold State.sendMedia
  rw [hl]
  have hports : u.link.ports = s.link.ports := congrArg Link.ports hl
  refine ⟨by simp, State.transmit_gives s (u.modLink _) ho ?_ (mediaPort pos) 5 _⟩
  exact hports

/-- An operation sent when a reservation starts: DT has reached the start, and only the port and the calendar are touched beside. -/
theorem State.starting_sends (s : State) (n : Nat) (r : Resv) (pos die opc addr arg deadline resv : Nat) (work : Work) (body : Bytes) :
    let t := (s.starting n r).sendMedia pos die opc addr arg deadline resv work body
    t.dt = max s.dt r.start ∧ MediaSent s t pos die opc addr arg (s.opEpoch opc arg) body ∧
      t.without [.dt, .out, .link, .dsc] = s.without [.dt, .out, .link, .dsc] :=
  ⟨State.sendMedia_frame State.dt (fun _ _ => rfl) (fun _ _ _ => rfl) (fun _ _ _ => rfl) ..,
    s.sendMedia_sent (s.starting n r) rfl rfl pos die opc addr arg deadline resv work body,
    State.sendMedia_frame (State.without · [.dt, .out, .link, .dsc]) (fun _ _ => rfl) (fun _ _ _ => rfl) (fun _ _ _ => rfl)
      (s.starting n r) pos die opc addr arg deadline resv work body⟩

section
variable (s : State) (r : Resv) (hlevel : s.dbg.level < 2) (haction : s.dbg.action = none) (hown : (s.ftu.die r.die).own = true)
include hlevel haction hown

/-- A scrub's or the peer's read of an own die on which nothing is programmed or erased. -/
theorem State.issue_read (hkind : r.kind = .read ∨ r.kind = .claim) (hwork : (∃ d c, r.work = .scrub d c) ∨ ∃ g, r.work = .peerRead g)
    (hunit : r.unit < 32) (hop : s.opOn r.die = false) :
    s.issue r = s.sendMedia (r.die / 256) (r.die % 256) mRead r.chunk (r.unit + 32 * r.units)
      (s.dt + readTimeout (s.ftu.dieType r.die) r.units) r.num r.work [] := by
  have hsend : s.issue r = s.sendRead mRead r.die r.chunk r.unit r.units r.num r.work [] := by
    unfold State.issue
    rcases hkind with hk | hk <;> rcases hwork with ⟨d, c, hw⟩ | ⟨g, hw⟩ <;>
      simp [hk, hw, hown, haction, Nat.not_le.mpr hlevel, Nat.not_le.mpr hunit]
  rw [hsend]
  unfold State.sendRead
  rw [hop]
  rfl

/-- A program of the chunk that its work names, on an own die of a head whose epoch is not stale. -/
theorem State.issue_program (hkind : r.kind = .program) (hstale : s.ha.stale = false) (c : Nat) (hc : s.programChunk r = some c) :
    s.issue r = s.sendMedia (r.die / 256) (r.die % 256) mProgram c 0 0 r.num r.work (s.programBody r.work r.die c) := by
  unfold State.issue
  simp [hkind, hown, haction, hstale, hc, Nat.not_le.mpr hlevel]

/-- An erase of the block that its work names. -/
theorem State.issue_erase (hkind : r.kind = .erase) (hstale : s.ha.stale = false) (b : Nat) (hb : s.eraseBlock r = some b) :
    s.issue r = s.sendMedia (r.die / 256) (r.die % 256) mErase (1024 * b) 0 0 r.num r.work [] := by
  unfold State.issue
  simp [hkind, hown, haction, hstale, hb, Nat.not_le.mpr hlevel]

end

/-- Settles O25: the reservation is issued from the state in which it starts, and each kind sends its one operation. -/
theorem mediaOperationsLeaveAtTheirStart : Obligations.MediaOperationsLeaveAtTheirStart := by
  intro n r s hfind hlevel haction hown
  refine ⟨fun hkind hwork hunit hop => ?read, fun c hkind hstale hc => ?program, fun b hkind hstale hb => ?erase⟩
  all_goals refine ⟨_, exec_mediaOpIssue n r s hfind, ?_⟩
  case read =>
    rw [State.issue_read (s.starting n r) r hlevel haction hown hkind hwork hunit hop]
    rw [← s.opEpoch_read]
    exact s.starting_sends n r _ _ mRead _ _ _ _ _ _
  case program =>
    rw [State.issue_program (s.starting n r) r hlevel haction hown hkind hstale c ((s.starting_programChunk n r r).trans hc),
      State.starting_programBody]
    rw [← s.opEpoch_program]
    exact s.starting_sends n r _ _ mProgram _ _ _ _ _ _
  case erase =>
    rw [State.issue_erase (s.starting n r) r hlevel haction hown hkind hstale b ((s.starting_eraseBlock n r r).trans hb)]
    rw [← s.opEpoch_erase]
    exact s.starting_sends n r _ _ mErase _ _ _ _ _ _

end Sys2Proof.Machine
end

section
/-! PROOF. A data flit of a command that is to end early is discarded (R501), which the statement on data flits leaves out. -/

namespace Sys2Proof.Machine

open Sys2Proof

/-- A WRITE of one sector that awaits 18 data flits and is to end early: its completion is kept for its end. -/
def endingWrite : Cmd :=
  { qp := 0, cid := 0, port := 0, sess := 0, opc := opWrite, vol := 0, lba := 0, nsect := 1, cls := 0, start := 0, expect := 18,
    pendingEnd := some { cid := 0, qp := 0, status := 0, cflags := 0, exclUs := 0, retryUs := 0, cs0 := 0, cs1 := 0, cs2 := 0, cepoch := 0 } }

/-- A head whose queue pair 0, of port 0, holds that command alone. -/
def endingHead : State :=
  { State.reset with cqe := { qps := [(0, { sess := 0, port := 0, cls := 0, depth := 16 })], cmds := [endingWrite] } }

/-- The flit is discarded: neither counted nor kept. -/
theorem exec_dataFlitReceived_endingHead : exec (.dataFlitReceived (.host 0) 0 0 []) endingHead = .next endingHead := rfl

theorem endingHead_cmd : endingHead.cqe.cmd 0 0 = some endingWrite := rfl

/-- Refutes O18: nothing in the statement says that the command is not to end early (`pendingEnd`), and of such a command DATA_FLIT_RECEIVED
discards the flit. -/
theorem not_writesCommitWithTheirLastFlit : ¬ Obligations.WritesCommitWithTheirLastFlit := by
  intro hall
  obtain ⟨hcount, -⟩ := hall 0 0 0 [] { sess := 0, port := 0, cls := 0, depth := 16 } endingWrite endingHead rfl rfl rfl endingHead_cmd
    (by decide) rfl rfl rfl
  obtain ⟨t, hexec, hcmd, -⟩ := hcount (by decide)
  obtain rfl : endingHead = t := Host.Outcome.next.inj (exec_dataFlitReceived_endingHead.symm.trans hexec)
  have hgot : endingWrite.got = endingWrite.got + 1 := congrArg Cmd.got (Option.some.inj (endingHead_cmd.symm.trans hcmd))
  exact absurd hgot (by decide)

end Sys2Proof.Machine
end

section
/-! PROOF. Commands between the heads (R22, R501, R502). -/

namespace Sys2Proof.Machine

open Sys2Proof

/-! ## A command that the peer forwarded -/

/-- FORWARDED_COMMAND of a volume that is no portal, which passes its checks and whose group is owned here, reaches DSC from the ring. -/
theorem exec_forwardedCommand (s : State) (qp : BitVec 14) (opc : Byte) (e : CmdEntry) (el lanes : Nat) (enc : Bool) (r : VolumeRec)
    (hr : ranged opc.toNat = true) (hv : s.cfg.volume e.vol.toNat = some r) (h4 : r.kind ≠ 4) (h5 : r.kind ≠ 5) (hg : r.grants ≠ 0)
    (hs : s.freshen.volStatus opc.toNat e.vol.toNat e.lba.toNat e.nsect.toNat (s.freeNat 3) true = none)
    (ho : s.ownsGroup r.group = true) :
    exec (.forwardedCommand qp opc e el lanes enc) s =
      .next ((s.peerRinged qp opc.toNat e el lanes enc).1.toDsc (s.peerRinged qp opc.toNat e el lanes enc).2) := by
  obtain ⟨hflush, habort⟩ := ranged_ne hr
  have hvf : s.freshen.cfg.volume e.vol.toNat = some r := hv
  show execForwardedCommand qp opc e el lanes enc s = _
  unfold execForwardedCommand
  have hportal : (r.kind == 4 || r.kind == 5) = false := by simp [h4, h5]
  have hgranted : (r.grants != 0) = true := bne_iff_ne.mpr hg
  simp only [hflush, habort, hr, if_false, Bool.not_true, Bool.false_eq_true, cmdOf, hvf, hportal, cond_false, State.modCqe_cfg, hgranted,
    State.volStatus_modCqe, hs]
  exact if_pos ho

/-! ## The completion of a command that this head forwarded -/

/-- The completion that the adapter gets for a command that this head forwarded: FWD set, the owning head's RETRY kept (R501). -/
def Cmd.forwardedEnd (c : Cmd) (k : Completion) : Completion :=
  { k with cflags := (k.cflags &&& cfRetry) ||| cfFwd ||| (if c.late.isSome then cfLate else 0) }

/-- FORWARDED_COMPLETION of a command that is not to end early delivers the owning head's outcome, from a state with the same sessions and
the same completions ready. -/
theorem exec_forwardedCompletion (s : State) (k : Completion) (c : Cmd) (hc : s.cqe.cmd k.qp.toNat k.cid.toNat = some c)
    (hf : c.fwdAt.isSome = true) (hd : c.decided = none) (hp : c.pendingEnd = none) (ha : c.aborters = []) :
    ∃ u : State, exec (.forwardedCompletion k) s = .next (u.deliver c (c.forwardedEnd k)) ∧
      u.cqe.ready = s.cqe.ready ∧ u.cqe.sessions = s.cqe.sessions := by
  have hopen : ¬ (c.fwdAt.isNone = true ∨ c.decided.isSome = true) := by
    rw [hd, Option.isNone_eq_false_iff.mpr hf]
    decide
  show ∃ u : State, execForwardedCompletion k s = _ ∧ _ ∧ _
  unfold execForwardedCompletion
  rw [hc]
  simp only [hopen, if_false, hp, ha, State.notCaught, ite_self]
  refine ⟨_, rfl, ?_, ?_⟩
  · rw [State.letGo_frame (·.cqe.ready) (fun _ _ => rfl) (fun _ _ => rfl) (fun _ _ => rfl) (fun _ _ => rfl)]
    exact ite_frame (π := (·.cqe.ready)) rfl rfl
  · rw [State.letGo_frame (·.cqe.sessions) (fun _ _ => rfl) (fun _ _ => rfl) (fun _ _ => rfl) (fun _ _ => rfl)]
    exact ite_frame (π := (·.cqe.sessions)) rfl rfl

/-- FWD is bit 2 of CFLAGS (R79). -/
theorem Cmd.forwardedEnd_fwd (c : Cmd) (k : Completion) : (c.forwardedEnd k).cflags.getLsbD 2 = true := by
  have hfwd : cfFwd.getLsbD 2 = true := by decide
  simp [Cmd.forwardedEnd, hfwd]

/-- Settles O22: a forwarded command reaches DSC and starts as DSC admits it; a forwarded completion is delivered. -/
theorem forwardedCommandsAndTheirCompletions : Obligations.ForwardedCommandsAndTheirCompletions := by
  intro s
  refine ⟨fun qp opc e el lanes enc r c u hr hv h4 h5 hg hs ho hi hj he => ?command, fun k c x hc hf hd hp hpeer ha hx hclosing => ?completion⟩
  case command =>
    have hcmd := State.judge_admitted_cmd hj
    have hdata (hw : c.opc = opWrite) : c.complete = false := by
      rw [hcmd] at hw ⊢
      exact decide_eq_false (Nat.not_le.mpr (he.resolve_right (· hw)))
    have hexec : exec (.forwardedCommand qp opc e el lanes enc) s = .next (u.startCmd c) :=
      (exec_forwardedCommand s qp opc e el lanes enc r hr hv h4 h5 hg hs ho).trans
        (congrArg _ (State.toDsc_admitted (s := (s.peerRinged qp opc.toNat e el lanes enc).1) hv h4 h5 hi hj hdata))
    refine ⟨_, hexec, rfl, ?_, ?_, ?_, ?_⟩
    · rw [hcmd]
    · rw [hcmd]; rfl
    · rw [hcmd]; rfl
    · calc (u.startCmd c).without cmdParts
        _ = u.without cmdParts := u.startCmd_without c
        _ = (s.peerRinged qp opc.toNat e el lanes enc).1.intake.2.without cmdParts := State.judge_admitted_without hj
        _ = (s.peerRinged qp opc.toNat e el lanes enc).1.without cmdParts := State.without_congr (b := .dsc) (by decide) rfl
        _ = s.freshen.without cmdParts := State.without_congr (b := .cqe) (by decide) rfl
        _ = s.without cmdParts := State.without_congr (b := .fresh) (by decide) rfl
  case completion =>
    obtain ⟨u, hexec, hready, hsessions⟩ := exec_forwardedCompletion s k c hc hf hd hp ha
    have hsends : u.sends c = true := State.sends_open (hsessions ▸ hx) hclosing
    refine ⟨_, hexec, ⟨c.forwardedEnd k, ?_, rfl, rfl, ?_, c.forwardedEnd_fwd k, rfl, rfl⟩, ?_⟩
    · rw [State.deliver_ready _ hpeer hsends, hready]
    · simp [Cmd.forwardedEnd]
    · have keeps {u v : State} (b : Blk) (hb : b ∈ cmdParts) (h : u.blank b = v.blank b) : u.without cmdParts = v.without cmdParts :=
        State.without_congr hb h
      obtain ⟨t, ht, hframe⟩ := execForwardedCompletion_frame (State.without · cmdParts)
        (hOut := fun _ _ => keeps .out (by decide) rfl) (hPort := fun _ _ _ => keeps .link (by decide) rfl)
        (hCqe := fun _ _ => keeps .cqe (by decide) rfl) (hSess := fun _ _ _ => keeps .cqe (by decide) rfl)
        (hWc := fun _ _ => keeps .wc (by decide) rfl) (hDge := fun _ _ => keeps .dge (by decide) rfl)
        (hCpe := fun _ _ => keeps .cpe (by decide) rfl) (hFtu := fun _ _ => keeps .ftu (by decide) rfl)
        (hSlc := fun _ _ => keeps .slc (by decide) rfl) (hEvr := fun _ _ => keeps .evr (by decide) rfl) k s
      rw [← Host.Outcome.next.inj (ht.symm.trans hexec)]
      exact hframe

end Sys2Proof.Machine
end

section
/-! PROOF. A READ that needs no flash is answered as it starts (R21, R82, R85). -/

namespace Sys2Proof.Machine

open Sys2Proof

/-! ## The parts of a read -/

/-- Changes past the head of a list are changes of its tail. -/
theorem foldl_lmod_succ_cons {α : Type} (f : α → α) (x : α) (l : List α) (is : List Nat) :
    (is.map Nat.succ).foldl (fun l i => lmod l i f) (x :: l) = x :: is.foldl (fun l i => lmod l i f) l := by
  induction is generalizing l with
  | nil => rfl
  | cons i is ih => exact ih _

/-- Changing every place of a list in turn changes every element. -/
theorem foldl_lmod_range {α : Type} (f : α → α) (l : List α) :
    (List.range l.length).foldl (fun l i => lmod l i f) l = l.map f := by
  induction l with
  | nil => rfl
  | cons x l ih =>
    rw [List.length_cons, List.range_succ_eq_map, List.foldl_cons]
    exact (foldl_lmod_succ_cons f (f x) l _).trans (congrArg _ ih)

/-- Changing parts of a command leaves it outstanding with those parts changed. -/
theorem State.cmd_foldl_modPart {s : State} {qp cid : Nat} {c : Cmd} (f : Part → Part) (is : List Nat) (h : s.cqe.cmd qp cid = some c) :
    (is.foldl (fun s i => s.modPart qp cid i f) s).cqe.cmd qp cid =
      some { c with parts := is.foldl (fun ps i => lmod ps i f) c.parts } := by
  induction is generalizing s c with
  | nil => exact h
  | cons i is ih =>
    exact ih (State.cmd_modCmd (fun c => { c with parts := lmod c.parts i f }) h fun _ hq hc hd => ⟨hq, hc, hd⟩)

/-- What stands in the write cache for a sector does not depend on the commands. -/
theorem State.sectorAt_modCqe (s : State) (f : Cqe → Cqe) (k n v g e : Nat) : (s.modCqe f).sectorAt k n v g e = s.sectorAt k n v g e := by
  induction n generalizing v e with
  | zero => rfl
  | succ n ih =>
    unfold State.sectorAt
    simp only [ih]
    rfl

/-! ## A READ whose sectors need no flash -/

/-- A READ of a host that waits for nothing but its sectors. -/
structure Cmd.PlainRead (c : Cmd) : Prop where
  opc : c.opc = opRead
  admitted : c.admitted = true
  waiting7 : c.waiting7 = false
  undecided : c.open_ = true
  acks : c.acks = []
  mirrorSent : c.mirrorSent = false
  complete : c.complete = true
  fromPeer : c.fromPeer = none
  aborters : c.aborters = []

/-- A part that no flash serves: zeros, where the write cache holds nothing newer. -/
def Part.zeroed (p : Part) : Part := { p with result := some (0, 0), data := [zeroSector, zeroSector] }

/-- A command none of whose parts flash serves. -/
def Cmd.zeroed (c : Cmd) : Cmd := { c with parts := c.parts.map Part.zeroed }

/-- The bytes of a command's sectors where none comes from flash: what the write cache holds, zeros elsewhere (R21). -/
def State.newestBytes (s : State) (c : Cmd) : Bytes :=
  (c.parts.flatMap fun p => p.sectors.map fun y => (s.cached c.vol p.grain y.2).getD zeroSector).flatten

/-- A sector of a zeroed part is what the write cache holds for it, zeros where it holds nothing. -/
theorem State.sectorNow_zeroed (s : State) (c : Cmd) (p : Part) (k : Nat) :
    s.sectorNow c p.zeroed k = .ok ((s.cached c.vol p.grain k).getD zeroSector) := by
  have hzero : ([zeroSector, zeroSector] : List Bytes).getD k zeroSector = zeroSector := by
    rcases k with _ | _ | k <;> rfl
  unfold State.sectorNow
  show (match s.cached c.vol p.grain k with | some b => _ | none => _) = _
  cases s.cached c.vol p.grain k with
  | some b => rfl
  | none => exact congrArg Except.ok hzero

/-- With every part zeroed no sector fails, and the sectors are the newest. -/
theorem State.sectorsNow_zeroed (s : State) (c : Cmd) :
    failing (s.sectorsNow c.zeroed) = [] ∧ ((s.sectorsNow c.zeroed).map fun x => exBytes x.2).flatten = s.newestBytes c := by
  have hsectors : s.sectorsNow c.zeroed =
      c.parts.flatMap fun p => p.sectors.map fun y => (y.1, .ok ((s.cached c.vol p.grain y.2).getD zeroSector)) := by
    unfold State.sectorsNow Cmd.zeroed
    rw [List.flatMap_map, List.flatMap_def, List.flatMap_def]
    refine congrArg List.flatten (List.map_congr_left fun p _ => List.map_congr_left fun y _ => ?_)
    exact congrArg (Prod.mk y.1) (s.sectorNow_zeroed _ p y.2)
  rw [hsectors]
  constructor
  · simp [failing, List.filterMap_flatMap, List.filterMap_map]
  · simp [State.newestBytes, exBytes, List.map_flatMap, Function.comp_def]

/-- A READ that has every result, and no failing sector, sends its data and completes with SUCCESS. -/
theorem State.tryFinish_read (s : State) (c : Cmd) (h : c.PlainRead) (hr : c.parts.any (fun p => p.result.isNone) = false)
    (hf : failing (s.sectorsNow c) = []) :
    s.tryFinish c = (s.sendData c ((s.sectorsNow c).map fun x => exBytes x.2).flatten).finish c (c.completion stSuccess 0 0 0 0) := by
  have hcaw : s.cawWaits c = false := by simp [State.cawWaits, h.opc, opRead, opCaw]
  simp [State.tryFinish, h.opc, h.admitted, h.waiting7, h.undecided, h.acks, h.mirrorSent, h.complete, hr, hcaw, hf, Cmd.failedRead]

/-- The start of a READ that needs no flash: every part is zeroed, and the command is tried. -/
theorem State.startReads_zeroed (s : State) (c : Cmd) (hc : s.cqe.cmd c.qp c.cid = some c)
    (hp : ∀ p ∈ c.parts, p.path = 0 ∧ p.result = none) (hf : ∀ f ∈ s.ftu.fetches, f.path ≠ 1) :
    s.startReads c = ((List.range c.parts.length).foldl (fun s i => s.modPart c.qp c.cid i Part.zeroed) s).tryFinish c.zeroed := by
  have hheld := State.cmd_foldl_modPart Part.zeroed (List.range c.parts.length) hc
  rw [foldl_lmod_range] at hheld
  unfold State.startReads
  extract_lets mine s1 s2
  have h1 : s1 = s := List.foldlRecOn (motive := (· = s)) mine _ rfl fun v hv f hmem => by
    subst hv
    exact if_neg fun h => hf f (List.mem_filter.mp hmem).1 h.1
  have h2 : s2 = (List.range c.parts.length).foldl (fun s i => s.modPart c.qp c.cid i Part.zeroed) s := by
    rw [← h1]
    refine List.foldl_rel (r := Eq) rfl fun i hi v _ heq => heq ▸ ?_
    have hlt : i < c.parts.length := List.mem_range.mp hi
    obtain ⟨hpath, hresult⟩ := hp _ (List.getElem_mem hlt)
    simp only [List.getElem?_eq_getElem hlt, hpath, hresult, ne_eq, not_true_eq_false, if_false, Option.isSome_none,
      Bool.false_eq_true, false_and]
    rfl
  rw [h2]
  unfold State.tryCmd
  rw [hheld]
  rfl

/-! ## Its answer -/

/-- The newest bytes of a command's sectors do not depend on the commands. -/
theorem State.newestBytes_modCqe (s : State) (f : Cqe → Cqe) (c : Cmd) : (s.modCqe f).newestBytes c = s.newestBytes c := by
  simp only [State.newestBytes, State.cached, State.sectorAt_modCqe]
  rfl

/-- A READ of an open session that needs no flash is answered as it starts: its newest bytes go to its port, and its completion is
ready with SUCCESS. -/
theorem State.startReads_answers {s : State} {c : Cmd} {x : Session} (h : c.PlainRead) (hc : s.cqe.cmd c.qp c.cid = some c)
    (hp : ∀ p ∈ c.parts, p.path = 0 ∧ p.result = none) (hf : ∀ f ∈ s.ftu.fetches, f.path ≠ 1)
    (hx : tget s.cqe.sessions c.sess = some x) (hopen : x.closing = none) :
    (c.port, c.completion stSuccess 0 0 0 0) ∈ (s.startReads c).cqe.ready ∧
      Gives s (s.startReads c) (hostPort c.port) (.readData c.port c.qp c.cid (s.newestBytes c)) := by
  have hzeroed : c.zeroed.PlainRead := ⟨h.opc, h.admitted, h.waiting7, h.undecided, h.acks, h.mirrorSent, h.complete, h.fromPeer, h.aborters⟩
  rw [State.startReads_zeroed s c hc hp hf]
  generalize hv : (List.range c.parts.length).foldl (fun s i => s.modPart c.qp c.cid i Part.zeroed) s = v
  have hframe {α : Type} (π : State → α) (hCqe : KeepsCqe π) : π v = π s := by
    rw [← hv]
    exact foldl_frame π _ (fun u i => State.modPart_frame π hCqe u c.qp c.cid i Part.zeroed) _ s
  have hsessions : v.cqe.sessions = s.cqe.sessions := by
    rw [← hv]
    exact foldl_frame (fun u : State => u.cqe.sessions) (fun u i => u.modPart c.qp c.cid i Part.zeroed) (fun _ _ => rfl) _ s
  obtain ⟨hfail, hbytes⟩ := v.sectorsNow_zeroed c
  have hresults : c.zeroed.parts.any (fun p => p.result.isNone) = false := by simp [Cmd.zeroed, Part.zeroed]
  rw [v.tryFinish_read c.zeroed hzeroed hresults hfail, hbytes, hframe (·.newestBytes c) fun u f => u.newestBytes_modCqe f c]
  have hsends (u : State) (hu : u.cqe.sessions = s.cqe.sessions) : u.sends c.zeroed = true := State.sends_open (hu ▸ hx) hopen
  obtain ⟨hgives, hkept⟩ := State.sendData_host (s := v) (c := c.zeroed) (s.newestBytes c) h.fromPeer (hsends v hsessions)
  obtain ⟨hready, hgiven⟩ := State.finish_host (s := v.sendData c.zeroed (s.newestBytes c)) (c := c.zeroed)
    (c.completion stSuccess 0 0 0 0) h.fromPeer h.aborters (hsends _ (hkept.trans hsessions))
  refine ⟨?_, ?_⟩
  · exact (congrArg _ hready).mpr (List.mem_append_right _ (List.mem_singleton.mpr rfl))
  · exact (hgiven _ _).trans (hgives.trans (congrArg (· + 1) (hframe (·.given _ _) fun _ _ => rfl)))

/-- Settles O17: the READ reaches DSC, which admits it, and its start answers it. -/
theorem readsGiveTheNewestCommittedData : Obligations.ReadsGiveTheNewestCommittedData := by
  intro h q x r c s u hpasses ho hi hj hparts hfetches
  have hring := State.hostCommand_passes (opc := opRead) rfl hpasses ho
  obtain ⟨⟨-, -, hx, hopen, -, -, -, hfree⟩, -, hv, h4, h5, -⟩ := hpasses
  have hcmd := State.judge_admitted_cmd hj
  have hplain : c.PlainRead := by
    rw [hcmd]
    exact ⟨rfl, rfl, rfl, rfl, rfl, rfl, rfl, rfl, rfl⟩
  have hheld : u.cqe.cmd c.qp c.cid = some c := by
    have hu := State.judge_admitted_held hj (State.ringed_held hfree)
    rw [hcmd] at hu ⊢
    exact hu
  have hstart : u.startCmd c = u.startReads c := by
    simp [State.startCmd, hplain.opc, opRead, opWrite, opZero, opCaw]
  have hdsc : (s.ringed opRead h q).1.toDsc (s.ringed opRead h q).2 = u.startCmd c :=
    State.toDsc_admitted (c := (s.ringed opRead h q).2) hv h4 h5 hi hj fun hw => absurd (hplain.opc.symm.trans hw) (by decide)
  have hexec : exec (.read h) s = .next (u.startReads c) :=
    congrArg _ (hring.trans (hdsc.trans hstart))
  have hsess : tget u.cqe.sessions c.sess = some x := by
    rw [State.judge_admitted_sessions hj, hcmd]
    exact hx
  obtain ⟨hready, hgives⟩ := State.startReads_answers hplain hheld hparts hfetches hsess hopen
  have hgiven (p : PortId) (y : Sent) : u.given p y = s.given p y :=
    (State.judge_admitted_frame (·.given p y) (fun _ _ => rfl) (fun _ _ => rfl) (fun _ _ => rfl) hj).trans rfl
  have hport : c.port = q.port := by rw [hcmd]; rfl
  have hqp : c.qp = h.qp.toNat := by rw [hcmd]; rfl
  have hcid : c.cid = h.entry.cid.toNat := by rw [hcmd]; rfl
  rw [Gives, hgiven, hport, hqp, hcid] at hgives
  rw [hport] at hready
  refine ⟨_, _, hexec, hready, ?_, ?_, rfl, hgives⟩
  · simp [Cmd.completion, hqp]
  · simp [Cmd.completion, hcid]

end Sys2Proof.Machine
end

section
/-! PROOF. How a command of a host reaches its outcome (R79, R89, R95): what the delivery of its completion changes, and what is left when a
command that holds nothing ends with nothing committed. -/

namespace Sys2Proof.Machine

open Sys2Proof

/-! ## What a change of a command keeps -/

/-- The opcodes of the commands in the ring. -/
def State.opcs (s : State) : List Nat := s.cqe.cmds.map (·.opc)

/-- A change of a command that keeps its opcode and its name. -/
structure KeepsName (f : Cmd → Cmd) : Prop where
  opc : ∀ c, (f c).opc = c.opc
  qp : ∀ c, (f c).qp = c.qp
  cid : ∀ c, (f c).cid = c.cid

theorem State.opcs_modCmd {f : Cmd → Cmd} (hf : KeepsName f) (s : State) (qp cid : Nat) : (s.modCmd qp cid f).opcs = s.opcs := by
  refine List.map_map.trans (List.map_congr_left fun x _ => ?_)
  rw [Function.comp_apply]
  split
  · exact hf.opc x
  · rfl

/-- A change of one command leaves the holder of every other name as it was. -/
theorem State.cmd_modCmd_ne {f : Cmd → Cmd} (hf : KeepsName f) (s : State) {qp cid qp' cid' : Nat} (h : ¬ (qp' = qp ∧ cid' = cid)) :
    (s.modCmd qp cid f).cqe.cmd qp' cid' = s.cqe.cmd qp' cid' := by
  let g (x : Cmd) : Cmd := if x.qp == qp && x.cid == cid && !x.isDup then f x else x
  let p (x : Cmd) : Bool := x.qp == qp' && x.cid == cid' && !x.isDup
  have hmiss (x : Cmd) (hq : x.qp = qp) (hc : x.cid = cid) : p x = false := by
    refine Bool.eq_false_iff.mpr fun hx => h ?_
    simp only [p, Bool.and_eq_true, beq_iff_eq] at hx
    obtain ⟨⟨hq', hc'⟩, -⟩ := hx
    exact ⟨hq'.symm.trans hq, hc'.symm.trans hc⟩
  have hkeep (x : Cmd) : p (g x) = p x ∧ (p x = true → g x = x) := by
    dsimp only [g]
    split
    · next hx =>
      simp only [Bool.and_eq_true, beq_iff_eq] at hx
      obtain ⟨⟨hq, hc⟩, -⟩ := hx
      have hold := hmiss x hq hc
      have hnew := hmiss (f x) ((hf.qp x).trans hq) ((hf.cid x).trans hc)
      exact ⟨hnew.trans hold.symm, fun hx => absurd (hold.symm.trans hx) Bool.false_ne_true⟩
    · exact ⟨rfl, fun _ => rfl⟩
  have hcomp : p ∘ g = p := funext fun x => (hkeep x).1
  show (s.cqe.cmds.map g).find? p = s.cqe.cmds.find? p
  rw [List.find?_map, hcomp]
  cases hfind : s.cqe.cmds.find? p with
  | none => rfl
  | some c => exact congrArg some ((hkeep c).2 (List.find?_some hfind))

/-- Where no command is a COMPARE_AND_WRITE, none waits for another (R87). -/
theorem State.pokeCaws_eq_self {s : State} (h : opCaw ∉ s.opcs) : s.pokeCaws = s := by
  have hnone : (s.cqe.cmds.filter fun c => c.opc == opCaw && c.admitted && c.decided.isNone) = [] := by
    refine List.filter_eq_nil_iff.mpr fun c hc hcaw => h ?_
    simp only [Bool.and_eq_true, beq_iff_eq] at hcaw
    exact hcaw.1.1 ▸ List.mem_map_of_mem hc
  unfold State.pokeCaws
  rw [hnone]
  rfl

theorem State.caw_not_mem_opcs {s : State} (h : ∀ k ∈ s.cqe.cmds, k.opc ≠ opCaw) : opCaw ∉ s.opcs := fun hmem => by
  obtain ⟨k, hk, hopc⟩ := List.mem_map.mp hmem
  exact h k hk hopc

/-! ## Delivery -/

/-- The completion of a host's command, of an open session, is ready, and the command is marked with it; nothing else changes. -/
theorem State.deliver_host {s : State} {c : Cmd} (k : Completion) (hp : c.fromPeer = none) (hs : s.sends c = true) :
    ∃ f, KeepsName f ∧ s.deliver c k = (s.modCmd c.qp c.cid f).modCqe fun q => { q with ready := q.ready ++ [(c.port, k)] } := by
  unfold State.deliver
  rw [hp]
  simp only [hs, if_true]
  refine ⟨_, ?_, rfl⟩
  exact ⟨fun _ => rfl, fun _ => rfl, fun _ => rfl⟩

section
variable {s : State} {c : Cmd} (k : Completion) (hp : c.fromPeer = none) (hs : s.sends c = true)
include hp hs

/-- A view that sees neither what marks a command with its completion nor which completions are ready. -/
theorem State.deliver_host_frame {α : Type} (π : State → α)
    (hCmd : ∀ (s : State) (qp cid : Nat) (f : Cmd → Cmd), KeepsName f → π (s.modCmd qp cid f) = π s)
    (hReady : ∀ (s : State) (f : Cqe → List (Nat × Completion)), π (s.modCqe fun q => { q with ready := f q }) = π s) :
    π (s.deliver c k) = π s := by
  obtain ⟨f, hf, heq⟩ := State.deliver_host k hp hs
  rw [heq]
  exact (hReady _ fun q => q.ready ++ [(c.port, k)]).trans (hCmd s c.qp c.cid f hf)

theorem State.deliver_opcs : (s.deliver c k).opcs = s.opcs :=
  State.deliver_host_frame k hp hs State.opcs (fun s qp cid _ hf => State.opcs_modCmd hf s qp cid) fun _ _ => rfl

theorem State.deliver_sessions : (s.deliver c k).cqe.sessions = s.cqe.sessions :=
  State.deliver_host_frame k hp hs (·.cqe.sessions) (fun _ _ _ _ _ => rfl) fun _ _ => rfl

/-- The holders of other names are as they were. -/
theorem State.deliver_cmd_ne {qp cid : Nat} (h : ¬ (qp = c.qp ∧ cid = c.cid)) : (s.deliver c k).cqe.cmd qp cid = s.cqe.cmd qp cid := by
  obtain ⟨f, hf, heq⟩ := State.deliver_host k hp hs
  rw [heq]
  exact State.cmd_modCmd_ne hf s h

end

/-- An ABORT that waited alone, and still holds its CID, is answered with what became of its target (R95). -/
theorem State.answerAborts_one {s : State} {qp cid : Nat} {a : Cmd} (h : s.cqe.cmd qp cid = some a) (outcome : Nat) :
    s.answerAborts [(qp, cid)] outcome = s.deliver a (a.completion stSuccess 0 outcome 0 0) := by
  show (match s.cqe.cmd qp cid with | some a => s.deliver a (a.completion stSuccess 0 outcome 0 0) | none => s) = _
  rw [h]

/-! ## The outcome of a host's command that no ABORT waits for -/

/-- Letting go of what a command holds beside frames leaves the CQE alone. -/
theorem State.letGo_cqe (s : State) (c : Cmd) : (s.letGo c).cqe = s.cqe :=
  State.letGo_frame State.cqe (fun _ _ => rfl) (fun _ _ => rfl) (fun _ _ => rfl) (fun _ _ => rfl) s c

/-- What a completion says of a command: its name and the status. -/
theorem Cmd.completion_names (c : Cmd) {qp : BitVec 14} {cid : BitVec 16} (hq : c.qp = qp.toNat) (hc : c.cid = cid.toNat)
    (status retry cs0 cs1 cs2 : Nat) :
    (c.completion status retry cs0 cs1 cs2).qp = qp ∧ (c.completion status retry cs0 cs1 cs2).cid = cid ∧
      (c.completion status retry cs0 cs1 cs2).status = BitVec.ofNat 16 status := by
  simp [Cmd.completion, hq, hc]

/-- A command whose outcome is delivered completes: its completion, which names it, is ready for its port. -/
theorem State.completes_of_ready {s t : State} {c : Cmd} {qp : BitVec 14} {cid : BitVec 16} {status retry cs0 cs1 cs2 : Nat}
    {more : Completion → Prop} (hq : c.qp = qp.toNat) (hc : c.cid = cid.toNat)
    (hr : t.cqe.ready = s.cqe.ready ++ [(c.port, c.completion status retry cs0 cs1 cs2)])
    (hm : more (c.completion status retry cs0 cs1 cs2)) : s.completes t c.port qp cid status more := by
  obtain ⟨hqp, hcid, hstatus⟩ := c.completion_names hq hc status retry cs0 cs1 cs2
  exact ⟨_, hr, hqp, hcid, hstatus, hm⟩

/-! ## Ending with nothing committed -/

/-- A command that holds neither frames nor space credit and sent no mirror copy. -/
structure Cmd.Bare (c : Cmd) : Prop where
  frames : c.frames = []
  credit : c.credit = 0
  mirrorSent : c.mirrorSent = false

/-- The state in which the completion of such a command is delivered: it holds nothing more, and its CID drains. -/
def State.unheld (s : State) (c : Cmd) : State := ((s.letGo c).drainCid c.qp c.cid).letGo c

@[simp] theorem State.unheld_cqe (s : State) (c : Cmd) : (s.unheld c).cqe = (s.drainCid c.qp c.cid).cqe := by
  unfold State.unheld State.drainCid
  rw [State.letGo_cqe, State.modCqe_cqe, State.letGo_cqe]
  rfl

/-- A view that sees neither what a command holds nor which CIDs drain. -/
theorem State.unheld_frame {α : Type} (π : State → α) (hCqe : KeepsCqe π) (hDge : KeepsDge π) (hCpe : KeepsCpe π) (hFtu : KeepsFtu π)
    (hSlc : KeepsSlc π) (s : State) (c : Cmd) : π (s.unheld c) = π s :=
  (State.letGo_frame π hDge hCpe hFtu hSlc _ c).trans
    ((State.drainCid_frame π hCqe _ c.qp c.cid).trans (State.letGo_frame π hDge hCpe hFtu hSlc s c))

@[simp] theorem State.unheld_dt (s : State) (c : Cmd) : (s.unheld c).dt = s.dt :=
  State.unheld_frame State.dt (fun _ _ => rfl) (fun _ _ => rfl) (fun _ _ => rfl) (fun _ _ => rfl) (fun _ _ => rfl) s c
@[simp] theorem State.unheld_evr (s : State) (c : Cmd) : (s.unheld c).evr = s.evr :=
  State.unheld_frame State.evr (fun _ _ => rfl) (fun _ _ => rfl) (fun _ _ => rfl) (fun _ _ => rfl) (fun _ _ => rfl) s c

/-- The CID of a command that ended drains (R89). -/
theorem State.drainCid_drains (s : State) (qp cid : Nat) : (s.drainCid qp cid).cqe.drain.contains (qp, cid) = true := by
  unfold State.drainCid
  rw [State.modCqe_cqe]
  show (if s.cqe.drain.contains (qp, cid) then s.cqe.drain else (qp, cid) :: s.cqe.drain).contains (qp, cid) = true
  split
  · assumption
  · simp

/-- A command that holds nothing ends by its delivery, and the ABORTs that waited for it are answered. -/
theorem State.endUncommitted_bare {c : Cmd} (h : c.Bare) (s : State) (k : Completion) (untilDt : Nat) :
    s.endUncommitted c k untilDt =
      ((s.unheld c).deliver c k).answerAborts c.aborters (if k.status = BitVec.ofNat 16 stAbortedRequest then 1 else 2) := by
  obtain ⟨hframes, hcredit, hmirror⟩ := h
  have hfree : (s.letGo c).freeFrames c = s.letGo c := by
    unfold State.freeFrames
    rw [hframes]
    rfl
  unfold State.endUncommitted
  simp only [hfree, hcredit, hmirror, Bool.false_eq_true, false_and, if_true, if_false]
  rfl

end Sys2Proof.Machine
end

section
/-! PROOF. Messages of a session: KEEPALIVE, NOTICE_MASK, an unknown type, and the notices that leave (R70, R71, R97, R499). -/

namespace Sys2Proof.Machine

open Sys2Proof

/-! ## Requests -/

/-- The session of a request once it is answered: the request is pending no more. -/
theorem State.answer_session (s : State) (m : Vc3) (typ status : Nat) (body : Bytes) :
    tget (s.answer m typ status body).cqe.sessions m.sess.toNat =
      (tget s.cqe.sessions m.sess.toNat).map fun x => { x with pendingReq := x.pendingReq.filter (· != m.reqId.toNat) } := by
  rw [State.answer_cqe]
  exact tget_tmod_self _ _ _

/-- A whole request of a type that no adapter may send is answered INVALID_OPCODE (step 5 of R499). -/
theorem State.vc3_notOurs (s : State) (m : Vc3) (typ : Nat) (free : Bool) (priv : Nat) (act : Session → State → State) (x : Session)
    (hx : s.sessionOf m = some x) (hlen : m.lenMacOk = true) (hrsv : m.rsvWord = 0) (hnew : x.pendingReq.contains m.reqId.toNat = false)
    (hquar : x.quarantined = false) (hlife : s.rot.lifecycle ≠ .ended) :
    s.vc3 m typ free false priv act = (s.heard m).answer m typ stInvalidOpcode (refusalBody typ) := by
  have hverdict : verdict x m free false priv = .refuse stInvalidOpcode false := by
    unfold verdict
    simp only [hlen, hrsv, hnew, hquar, Bool.not_true, Bool.not_false, Bool.false_eq_true, ne_eq, not_true_eq_false, false_and, if_false,
      if_true]
  have hserves : ¬ ((s.heard m).rot.lifecycle = .ended ∧ (!endServes typ) = true) := fun h => hlife h.1
  unfold State.heard at hserves ⊢
  unfold State.vc3
  simp only [hx, hserves, hverdict, Bool.false_eq_true, if_false]

/-! ## Notices -/

/-- What a notice of a session leaves the head as. -/
def Notice.sent (t : Notice) (port sess : Nat) : Sent := .notice port sess t.ntype t.nseq t.stamp t.epoch t.body

/-- The state once the first notice of a session is taken from its queue and given to the port. -/
def State.noticeSent (s : State) (n : Nat) (x : Session) (t : Notice) (rest : List Notice) : State :=
  (s.modSession n fun x => { x with notices := rest }).transmit (hostPort x.port) 3 (t.sent x.port n)

/-- A session without notices sends nothing. -/
theorem State.sendNotices_nil {s : State} {n : Nat} {x : Session} (hx : tget s.cqe.sessions n = some x) (hn : x.notices = []) (k : Nat) :
    s.sendNotices n k = s := by
  cases k with
  | zero => rfl
  | succ k =>
    unfold State.sendNotices
    simp only [hx, hn]

/-- The first notice of a queue leaves when the port has room for it, and the rest is tried in turn. -/
theorem State.sendNotices_cons {s : State} {n : Nat} {x : Session} {t : Notice} {rest : List Notice} (hx : tget s.cqe.sessions n = some x)
    (hn : x.notices = t :: rest) (k : Nat) :
    s.sendNotices n (k + 1) =
      if s.room (hostPort x.port) 3 < flitsOf (s.link.payload (hostPort x.port)) (t.sent x.port n) then s
      else (s.noticeSent n x t rest).sendNotices n k := by
  rw [State.sendNotices, hx]
  dsimp only
  rw [hn]
  rfl

/-- The session whose notice has left is the same but for its queue. -/
theorem State.noticeSent_session {s : State} {n : Nat} {x : Session} (t : Notice) (rest : List Notice) (hx : tget s.cqe.sessions n = some x) :
    tget (s.noticeSent n x t rest).cqe.sessions n = some { x with notices := rest } := by
  unfold State.noticeSent
  rw [State.transmit_cqe]
  exact (tget_tmod_self _ _ _).trans (congrArg _ hx)

theorem State.given_noticeSent (s : State) (n : Nat) (x : Session) (t : Notice) (rest : List Notice) (y : Sent) :
    (s.noticeSent n x t rest).given (hostPort x.port) y =
      s.given (hostPort x.port) y + if t.sent x.port n = y then 1 else 0 :=
  State.given_transmit _ _ _ _ _

/-- Sending notices takes back nothing that was given to the port. -/
theorem State.given_le_sendNotices {s : State} {n : Nat} {x : Session} (hx : tget s.cqe.sessions n = some x) (k : Nat) (y : Sent) :
    s.given (hostPort x.port) y ≤ (s.sendNotices n k).given (hostPort x.port) y := by
  induction k generalizing s x with
  | zero => exact Nat.le_refl _
  | succ k ih =>
    cases hn : x.notices with
    | nil => exact Nat.le_of_eq (congrArg (State.given · (hostPort x.port) y) (State.sendNotices_nil hx hn (k + 1)).symm)
    | cons t rest =>
      rw [State.sendNotices_cons hx hn]
      split
      · exact Nat.le_refl _
      · calc s.given (hostPort x.port) y
          _ ≤ (s.noticeSent n x t rest).given (hostPort x.port) y := by rw [State.given_noticeSent]; exact Nat.le_add_right _ _
          _ ≤ _ := ih (x := { x with notices := rest }) (State.noticeSent_session t rest hx)

/-- NOTICE_TRANSMIT of an open session that has lost no notice sends its queue while there is room. -/
theorem exec_noticeTransmit (n : Fin 4096) (s : State) (x : Session) (hx : tget s.cqe.sessions n.val = some x) (hopen : x.closing = none)
    (hd : x.dropped = 0) (hroom : s.room (hostPort x.port) 3 ≠ 0) : exec (.noticeTransmit n) s = .next (s.sendNotices n.val 257) := by
  have hlost : s.noticesLost n.val x = s := if_pos hd
  show execNoticeTransmit n s = _
  unfold execNoticeTransmit
  simp only [hx, hopen, hroom, hlost, Option.isSome_none, Bool.false_eq_true, or_self, if_false]

/-- Settles O13: KEEPALIVE leaves what noting a request leaves; NOTICE_MASK and an unknown type are answered; the first notice of the queue
leaves, and what follows it takes nothing back. -/
theorem sessionsSpeakAndAreHeard : Obligations.SessionsSpeakAndAreHeard := by
  intro s
  refine ⟨fun m x h => ?keepalive, fun m mask x h => ?noticeMask, fun m typ x hx hlen hrsv hnew hquar hlife => ?unknown,
    fun n x nt rest hx hopen hd hn hfits hroom => ?notice⟩
  case keepalive =>
    exact ⟨s.heard m, congrArg Host.Outcome.next (s.vc3_accepts m 0x12 true 1 _ x h), s.heard_session m x h.1,
      fun k hk => tget_tmod_ne _ _ _ _ hk, rfl⟩
  case noticeMask =>
    let u := (s.heard m).modSession m.sess.toNat fun x => { x with mask := mask }
    refine ⟨u.answer m 0x41 stSuccess [], congrArg Host.Outcome.next (s.vc3_accepts m 0x41 false 1 _ x h), ?_,
      s.answer_answers u rfl rfl m 0x41 stSuccess [], State.request_without (b := .cqe) (by decide) (by decide) (u := u) rfl 0x41 stSuccess []⟩
    have hu : tget u.cqe.sessions m.sess.toNat = some { x with lastAt := s.dt, mask := mask } :=
      (tget_tmod_self _ _ _).trans (congrArg _ (s.heard_session m x h.1))
    rw [State.answer_session, hu]
    rfl
  case unknown =>
    exact ⟨_, congrArg Host.Outcome.next (s.vc3_notOurs m typ.toNat false 0 _ x hx hlen hrsv hnew hquar hlife),
      s.answer_answers (s.heard m) rfl rfl m typ.toNat stInvalidOpcode (refusalBody typ.toNat),
      State.request_without (b := .cqe) (by decide) (by decide) (u := s.heard m) rfl typ.toNat stInvalidOpcode (refusalBody typ.toNat)⟩
  case notice =>
    refine ⟨_, exec_noticeTransmit n s x hx hopen hd hroom, ?_,
      State.sendNotices_frame (State.without · [.out, .link, .cqe]) (fun _ _ => rfl) (fun _ _ _ => rfl) (fun _ _ _ => rfl) s n.val 257⟩
    have hround : s.sendNotices n.val 257 = (s.noticeSent n.val x nt rest).sendNotices n.val 256 :=
      (State.sendNotices_cons hx hn 256).trans (if_neg (Nat.not_lt.mpr hfits))
    rw [hround]
    calc s.given (hostPort x.port) (nt.sent x.port n.val)
      _ < (s.noticeSent n.val x nt rest).given (hostPort x.port) (nt.sent x.port n.val) := by
        rw [State.given_noticeSent, if_pos rfl]
        exact Nat.lt_succ_self _
      _ ≤ _ := State.given_le_sendNotices (x := { x with notices := rest }) (State.noticeSent_session nt rest hx) 256 _

end Sys2Proof.Machine
end

section
/-! PROOF. Commands with a range that DSC admits are tagged and start (R81, R82, R94, R104). -/

namespace Sys2Proof.Machine

open Sys2Proof

/-- The six commands with a range: each is an opcode with a range, and is carried out as an entry of it. -/
theorem exec_rangedCmd {opc : Nat} {h : HostCmd} {i : Instr} (hi : rangedCmd opc h = some i) (s : State) :
    ranged opc = true ∧ exec i s = .next (s.hostCommand opc h) := by
  unfold rangedCmd at hi
  split at hi
  case h_7 => exact nomatch hi
  all_goals
    obtain rfl := Option.some.inj hi
    exact ⟨rfl, rfl⟩

theorem Link.payload_pos (l : Link) (p : PortId) : 0 < l.payload p := by
  unfold Link.payload
  split <;> decide

/-- A WRITE of at least one sector declares data (R43). -/
theorem expectOf_write_pos {nsect p : Nat} (hn : 1 ≤ nsect) (hp : 0 < p) : 0 < expectOf opWrite nsect p := by
  show 0 < (4096 * nsect + p - 1) / p
  exact Nat.div_pos (by omega) hp

/-- An entry with a range names at least one sector (check 7 of R94). -/
theorem fieldsOk_nsect {opc : Nat} {e : CmdEntry} (hr : ranged opc = true) (h : fieldsOk opc e = true) : 1 ≤ e.nsect.toNat := by
  obtain ⟨hflush, habort⟩ := ranged_ne hr
  unfold fieldsOk at h
  simp only [hflush, habort, if_false, Bool.and_eq_true, decide_eq_true_eq] at h
  exact h.2.1.2.1

/-- The data of a WRITE that has just reached the ring is still to come. -/
theorem State.ringed_incomplete {s : State} {h : HostCmd} {q : Qp} (hf : fieldsOk opWrite h.entry = true) :
    (s.ringed opWrite h q).2.complete = false :=
  decide_eq_false (Nat.not_le.mpr (expectOf_write_pos (fieldsOk_nsect rfl hf) (s.link.payload_pos _)))


/-- A plan tags the command that it admits, unless it is tagged already. -/
theorem State.admitPlan_tag (s : State) (c : Cmd) (p : Plan) :
    (s.admitPlan c p).1.tag = if c.admitted then c.tag else s.cfg.epoch := by
  show (if c.admitted then c.tag else (ite _ _ _ : State).cfg.epoch) = _
  exact congrArg (fun e => if c.admitted = true then c.tag else e) (ite_frame (π := fun s => s.cfg.epoch) rfl rfl)

/-- A command that is not admitted yet is tagged with the epoch in force where it waits, else not at all. -/
theorem State.enqueue7_tag (s : State) (c : Cmd) (h : c.admitted = false) :
    (s.enqueue7 c).2.cfg.epoch = s.cfg.epoch ∧ ((s.enqueue7 c).1.admitted = true → (s.enqueue7 c).1.tag = s.cfg.epoch) := by
  unfold State.enqueue7
  split
  · exact ⟨rfl, fun ha => absurd (h.symm.trans ha) Bool.false_ne_true⟩
  · exact ⟨rfl, fun _ => rfl⟩

/-- An admitted command bears the configuration epoch in force at its admission (R81). -/
theorem State.judge_admitted_tag {s u : State} {c k : Cmd} (h : s.judge c = (.admitted k, u)) (hc : c.admitted = false) :
    k.tag = s.cfg.epoch := by
  obtain ⟨p, hp⟩ := State.judge_admitted_plan h
  obtain ⟨hepoch, htag⟩ := s.enqueue7_tag c hc
  have hk := State.admitPlan_tag (s.enqueue7 c).2 (s.enqueue7 c).1 p
  rw [hp] at hk
  rw [hk, hepoch]
  split
  · next ha => exact htag ha
  · rfl

/-- Settles O15: the entry reaches DSC, which admits it, and starts; admission and start touch what commands may touch. -/
theorem admittedCommandsAreTaggedAndStart : Obligations.AdmittedCommandsAreTaggedAndStart := by
  intro opc i h q x r c s u hi hpasses ho hintake hj
  obtain ⟨hranged, hexec⟩ := exec_rangedCmd hi s
  have hring := State.hostCommand_passes hranged hpasses ho
  obtain ⟨⟨-, -, -, -, -, -, -, hfree⟩, hfields, hv, h4, h5, -⟩ := hpasses
  have hcmd := State.judge_admitted_cmd hj
  have hdata (hw : c.opc = opWrite) : c.complete = false := by
    rw [hcmd] at hw ⊢
    obtain rfl : opc = opWrite := hw
    exact State.ringed_incomplete hfields
  have hdsc : (s.ringed opc h q).1.toDsc (s.ringed opc h q).2 = u.startCmd c :=
    State.toDsc_admitted (c := (s.ringed opc h q).2) hv h4 h5 hintake hj hdata
  have htag : c.tag = (s.ringed opc h q).1.intake.2.cfg.epoch := State.judge_admitted_tag hj rfl
  refine ⟨_, hexec, hring.trans hdsc, congrArg Cmd.admitted hcmd, htag, congrArg Cmd.opc hcmd, congrArg Cmd.vol hcmd,
    congrArg Cmd.lba hcmd, congrArg Cmd.nsect hcmd, congrArg Cmd.start hcmd, State.judge_admitted_held hj (State.ringed_held hfree), ?_⟩
  calc (s.hostCommand opc h).without cmdParts
    _ = (u.startCmd c).without cmdParts := congrArg (State.without · cmdParts) (hring.trans hdsc)
    _ = u.without cmdParts := u.startCmd_without c
    _ = (s.ringed opc h q).1.intake.2.without cmdParts := State.judge_admitted_without hj
    _ = (s.ringed opc h q).1.without cmdParts := State.without_congr (b := .dsc) (by decide) rfl
    _ = s.without cmdParts := State.without_congr (b := .cqe) (by decide) rfl

end Sys2Proof.Machine
end

section
/-! PROOF. The data timer of a command whose data is short (R89, R98). -/

namespace Sys2Proof.Machine

open Sys2Proof

/-- Of a session a violation touches its counts alone. -/
theorem Session.violate_closing (x : Session) (dt code : Nat) : (x.violate dt code).closing = x.closing := by
  unfold Session.violate
  split
  · rfl
  · split <;> rfl

/-- A session that is open when a violation of it is counted stays open. -/
theorem State.sessionViolation_session {s : State} {sess : Nat} {x : Session} (hx : tget s.cqe.sessions sess = some x) (code : BitVec 16)
    (qp cid word : Nat) :
    tget (s.sessionViolation code sess qp cid word).cqe.sessions sess = some (x.violate s.dt code.toNat) :=
  (tget_tmod_self _ _ _).trans (congrArg _ hx)

/-- A command of this head that holds nothing and is open ends early with its failure (R89). -/
theorem State.endEarly_bare {c : Cmd} (h : c.Bare) (hopen : c.open_ = true) (hf : c.fwdAt = none) (ha : c.aborters = []) (s : State)
    (status : Nat) : s.endEarly c status = (s.unheld c).deliver c (c.completion status 0 0 0 0) := by
  have hfail : s.endEarly c status = s.endUncommitted c (c.completion status 0 0 0 0) (s.dt + 40000) := by
    simp [State.endEarly, State.failCmd, hopen, hf]
  rw [hfail, State.endUncommitted_bare h, ha]
  rfl

/-- The state in which a command fails for its missing data: the timer's moment has come, and the violation of its session is counted. -/
def State.dataMissed (s : State) (c : Cmd) : State := (s.advanceTo c.timerAt).sessionViolation 0x0C14 c.sess c.qp c.cid c.opc

/-- Settles O19: with the violation counted the command, which holds nothing, fails and is delivered. -/
theorem dataTimersFailShortCommands : Obligations.DataTimersFailShortCommands := by
  intro qp cid c x s hc ⟨hopen, hfwd, hpeer, hframes, hcredit, hmirror, haborters, hx, hclosing⟩ hshort hcaw
  obtain ⟨hqp, hcid, -⟩ := Cqe.cmd_spec hc
  let v := (s.dataMissed c).unheld c
  let k := c.completion stLength 0 0 0 0
  have hcqe : v.cqe = ((s.dataMissed c).drainCid c.qp c.cid).cqe := (s.dataMissed c).unheld_cqe c
  have hsends : v.sends c = true := by
    refine State.sends_open (x := x.violate (max s.dt c.timerAt) 0x0C14) ?_ ((x.violate_closing _ _).trans hclosing)
    rw [hcqe]
    exact State.sessionViolation_session (s := s.advanceTo c.timerAt) hx 0x0C14 c.qp c.cid c.opc
  have hopcs : opCaw ∉ (v.deliver c k).opcs := by
    rw [State.deliver_opcs k hpeer hsends]
    show opCaw ∉ v.cqe.cmds.map (·.opc)
    rw [hcqe]
    exact State.caw_not_mem_opcs hcaw
  have hexec : exec (.dataTimerExpiry qp cid) s = .next (v.deliver c k) := by
    show execDataTimerExpiry qp cid s = _
    unfold execDataTimerExpiry
    simp only [hc, Nat.not_le.mpr hshort, hopen, Bool.not_true, Bool.false_eq_true, or_self, if_false]
    refine congrArg Host.Outcome.next ?_
    rw [State.endEarly_bare ⟨hframes, hcredit, hmirror⟩ hopen hfwd haborters]
    exact State.pokeCaws_eq_self hopcs
  refine ⟨_, hexec, ?time, ?completes, ?drains, ?event, ?frame⟩
  case time =>
    refine (State.deliver_host_frame k hpeer hsends State.dt (fun _ _ _ _ _ => rfl) fun _ _ => rfl).trans ?_
    exact (s.dataMissed c).unheld_dt c
  case completes =>
    have hready : (v.deliver c k).cqe.ready = s.cqe.ready ++ [(c.port, k)] := by
      rw [State.deliver_ready k hpeer hsends, hcqe]
      rfl
    exact State.completes_of_ready hqp hcid hready trivial
  case drains =>
    have hdrain : (v.deliver c k).cqe.drain = ((s.dataMissed c).drainCid c.qp c.cid).cqe.drain :=
      (State.deliver_host_frame k hpeer hsends (·.cqe.drain) (fun _ _ _ _ _ => rfl) fun _ _ => rfl).trans (congrArg Cqe.drain hcqe)
    rw [hdrain, ← hqp, ← hcid]
    exact State.drainCid_drains _ c.qp c.cid
  case event =>
    refine (State.deliver_host_frame k hpeer hsends State.evr (fun _ _ _ _ _ => rfl) fun _ _ => rfl).trans ?_
    exact (s.dataMissed c).unheld_evr c
  case frame =>
    have keeps {u v : State} (b : Blk) (hb : b ∈ .dt :: cmdParts) (h : u.blank b = v.blank b) :
        u.without (.dt :: cmdParts) = v.without (.dt :: cmdParts) := State.without_congr hb h
    obtain ⟨t, ht, hframe⟩ := execDataTimerExpiry_frame (State.without · (.dt :: cmdParts))
      (hDt := fun _ _ => keeps .dt (by decide) rfl) (hOut := fun _ _ => keeps .out (by decide) rfl)
      (hPort := fun _ _ _ => keeps .link (by decide) rfl) (hCqe := fun _ _ => keeps .cqe (by decide) rfl)
      (hSess := fun _ _ _ => keeps .cqe (by decide) rfl) (hWc := fun _ _ => keeps .wc (by decide) rfl)
      (hDge := fun _ _ => keeps .dge (by decide) rfl) (hCpe := fun _ _ => keeps .cpe (by decide) rfl)
      (hFtu := fun _ _ => keeps .ftu (by decide) rfl) (hSlc := fun _ _ => keeps .slc (by decide) rfl)
      (hEvr := fun _ _ => keeps .evr (by decide) rfl) qp cid s
    rw [← Host.Outcome.next.inj (ht.symm.trans hexec)]
    exact hframe

end Sys2Proof.Machine
end

section
/-! PROOF. FLUSH, ABORT and opcodes that R82 does not list (R84, R94, R95). -/

namespace Sys2Proof.Machine

open Sys2Proof

/-! ## From the ring to the outcome (R94) -/

/-- The state in which the CID of an entry that passes checks 1 to 5 is taken up again: it drains no more. -/
def State.undrained (s : State) (h : HostCmd) : State :=
  s.modCqe fun x => { x with drain := x.drain.filter (· != (h.qp.toNat, h.entry.cid.toNat)) }

/-- The command that an ABORT entry spells. -/
def State.abortOf (s : State) (h : HostCmd) (q : Qp) : Cmd :=
  { cmdOf h.qp.toNat q.port q.sess q.cls opAbort s.dt h.entry with admitted := true, tag := s.cfg.epoch }

/-- The ABORT in the ring. -/
def State.abortRinged (s : State) (h : HostCmd) (q : Qp) : State :=
  (s.undrained h).modCqe fun x => { x with cmds := x.cmds ++ [s.abortOf h q] }

section
variable {s : State} {h : HostCmd} {q : Qp} {x : Session}

/-- An opcode that R82 does not list fails check 6. -/
theorem State.hostCommand_unlisted {opc : Nat} (hr : s.rings h q x) (ho : opc = 0 ∨ 8 < opc) :
    s.hostCommand opc h =
      (s.undrained h).rejectHost (cmdOf h.qp.toNat q.port q.sess q.cls opc s.dt h.entry) stInvalidOpcode 0 false := by
  obtain ⟨hq, hport, hx, -, hquar, hdel, hdepth, hfree⟩ := hr
  unfold State.hostCommand
  simp only [hq, hport, hx, hquar, hdel, hfree, Nat.not_le.mpr hdepth, ne_eq, not_true_eq_false, if_false, Option.isSome_none,
    Bool.false_eq_true]
  exact if_pos ho

/-- An ABORT whose fields are in order starts. -/
theorem State.hostCommand_abort (hr : s.rings h q x) (hf : fieldsOk opAbort h.entry = true) :
    s.hostCommand opAbort h =
      (s.abortRinged h q).startAbort (s.abortOf h q) (h.entry.cdw.getD 0 0).toNat (h.entry.cdw.getD 1 0).toNat := by
  obtain ⟨hq, hport, hx, -, hquar, hdel, hdepth, hfree⟩ := hr
  have hopc : ¬ (opAbort = 0 ∨ opAbort > 8) := by decide
  unfold State.hostCommand
  simp only [hq, hport, hx, hquar, hdel, hfree, Nat.not_le.mpr hdepth, hopc, hf, ne_eq, not_true_eq_false, if_false, Option.isSome_none,
    Bool.false_eq_true, Bool.not_true, if_true]
  rw [← hport]
  rfl

/-- A FLUSH that passes its checks reaches its outcome at once. -/
theorem State.hostCommand_flush {r : VolumeRec} (hp : s.passes opFlush h q x r) :
    s.hostCommand opFlush h =
      (s.ringed opFlush h q).1.finish (s.ringed opFlush h q).2 ((s.ringed opFlush h q).2.completion stSuccess 0 0 0 0) := by
  obtain ⟨⟨hq, hport, hx, -, hquar, hdel, hdepth, hfree⟩, hfields, hv, -, -, hs⟩ := hp
  have hopc : ¬ (opFlush = 0 ∨ opFlush > 8) := by decide
  have habort : opFlush ≠ opAbort := by decide
  unfold State.hostCommand
  simp only [hq, hport, hx, hquar, hdel, hfree, hopc, hfields, habort, Nat.not_le.mpr hdepth, ne_eq, not_true_eq_false, if_false,
    Option.isSome_none, Bool.false_eq_true, Bool.not_true, if_true, State.ringed, cmdOf, State.granted_modCqe, State.volStatus_modCqe, hs]
  rfl

/-- The ABORT holds the CID of its entry, which was free. -/
theorem State.abortRinged_held (hr : s.rings h q x) :
    (s.abortRinged h q).cqe.cmd (s.abortOf h q).qp (s.abortOf h q).cid = some (s.abortOf h q) := by
  obtain ⟨-, -, -, -, -, -, -, hfree⟩ := hr
  exact Cqe.cmd_append (q := (s.undrained h).cqe) (c := s.abortOf h q) hfree rfl

/-- A command that held its CID before the ABORT holds it still. -/
theorem State.abortRinged_cmd {qp cid : Nat} {c : Cmd} (hc : s.cqe.cmd qp cid = some c) : (s.abortRinged h q).cqe.cmd qp cid = some c := by
  show (s.cqe.cmds ++ [s.abortOf h q]).find? _ = some c
  rw [List.find?_append]
  exact congrArg (Option.or · _) hc

/-- A CID that nothing held is held by the ABORT or by nothing. -/
theorem State.abortRinged_cmd_none {qp cid : Nat} (hc : s.cqe.cmd qp cid = none) :
    (s.abortRinged h q).cqe.cmd qp cid = none ∨ (s.abortRinged h q).cqe.cmd qp cid = some (s.abortOf h q) := by
  have hlook : (s.abortRinged h q).cqe.cmd qp cid = [s.abortOf h q].find? fun x => x.qp == qp && x.cid == cid && !x.isDup := by
    show (s.cqe.cmds ++ [s.abortOf h q]).find? _ = _
    rw [List.find?_append]
    exact congrArg (Option.or · _) hc
  rw [hlook, List.find?_singleton]
  split
  · exact .inr rfl
  · exact .inl rfl

theorem State.abortRinged_no_caw (hcaw : ∀ k ∈ s.cqe.cmds, k.opc ≠ opCaw) : opCaw ∉ (s.abortRinged h q).opcs := by
  refine State.caw_not_mem_opcs fun k hk => ?_
  rcases List.mem_append.mp hk with hk | hk
  · exact hcaw k hk
  · rw [List.mem_singleton.mp hk]
    exact (by decide : opAbort ≠ opCaw)

end

/-! ## What an ABORT finds (R95) -/

/-- An ABORT that finds no command but itself is answered CS0 3. -/
theorem State.startAbort_missing {u : State} {a : Cmd} {tq tcid : Nat} (hheld : u.cqe.cmd a.qp a.cid = some a) (hopc : a.opc = opAbort)
    (hf : a.fwdAt = none) (haborters : a.aborters = []) (h : u.cqe.cmd tq tcid = none ∨ u.cqe.cmd tq tcid = some a) :
    ∃ v : State, v.cqe = u.cqe ∧ u.startAbort a tq tcid = v.deliver a (a.completion stSuccess 0 3 0 0) := by
  have hfinish : u.finish a (a.completion stSuccess 0 3 0 0) = (u.letGo a).deliver a (a.completion stSuccess 0 3 0 0) := by
    unfold State.finish
    rw [haborters]
    rfl
  have hself : u.abortCmd a (a.qp, a.cid) = u.deliver a (a.completion stSuccess 0 3 0 0) := by
    simp [State.abortCmd, hheld, hopc]
  unfold State.startAbort
  extract_lets mine
  have hfound : (if mine then u.cqe.cmd tq tcid else none) = none ∨ (if mine then u.cqe.cmd tq tcid else none) = some a := by
    cases mine with
    | false => exact .inl rfl
    | true => exact h
  rcases hfound with hfound | hfound
  · rw [hfound]
    exact ⟨u.letGo a, u.letGo_cqe a, hfinish⟩
  · rw [hfound]
    simp only [hf, Option.isSome_none, Bool.false_eq_true, false_and, if_false]
    exact ⟨u, rfl, hself⟩

/-- A command for whose outcome an ABORT waits. -/
def Cmd.caughtBy (c a : Cmd) : Cmd := { c with aborters := (a.qp, a.cid) :: c.aborters }

theorem Cmd.keepsName_caughtBy (a : Cmd) : KeepsName (·.caughtBy a) := ⟨fun _ => rfl, fun _ => rfl, fun _ => rfl⟩

/-- The state in which an ABORT catches an open command. -/
def State.caught (u : State) (c a : Cmd) : State := u.modCmd c.qp c.cid (·.caughtBy a)

/-- The state that a caught command which holds nothing leaves: its completion is ready with ABORTED_BY_REQUEST. -/
def State.caughtEnd (u : State) (c a : Cmd) : State :=
  ((u.caught c a).unheld (c.caughtBy a)).deliver (c.caughtBy a) (c.completion stAbortedRequest 0 0 0 0)

theorem Cmd.open_discards {c : Cmd} (h : c.open_ = true) : c.discards = [] := by
  simp only [Cmd.open_, Bool.and_eq_true, beq_iff_eq] at h
  exact h.1.2

/-- An ABORT of an open command of its own session, which holds nothing, catches it: the command ends with nothing committed. -/
theorem State.startAbort_open {u : State} {a c : Cmd} {tq tcid : Nat} {y : Qp} (hheld : u.cqe.cmd a.qp a.cid = some a)
    (hy : tget u.cqe.qps tq = some y) (hsess : y.sess = a.sess) (hc : u.cqe.cmd tq tcid = some c) (hopc : c.opc ≠ opAbort)
    (hopen : c.open_ = true) (hf : c.fwdAt = none) :
    u.startAbort a tq tcid = (u.caught c a).endUncommitted (c.caughtBy a) (c.completion stAbortedRequest 0 0 0 0) (a.start + 40000) := by
  have habort : u.startAbort a tq tcid = u.abortCmd c (a.qp, a.cid) := by
    simp [State.startAbort, hy, hsess, hc, hf]
  rw [habort]
  simp only [State.abortCmd, hheld, hopc, Cmd.open_discards hopen, hopen, ne_eq, not_true_eq_false, Bool.not_true, Bool.false_eq_true,
    if_false]
  rfl

section
variable {u : State} {a c : Cmd} {x : Session} (hp : u.plainOpen c x)
include hp

/-- A caught command is still one of a host, to whose adapter completions go. -/
theorem State.caught_host :
    (c.caughtBy a).fromPeer = none ∧ ((u.caught c a).unheld (c.caughtBy a)).sends (c.caughtBy a) = true := by
  obtain ⟨-, -, hpeer, -, -, -, -, hx, hclosing⟩ := hp
  refine ⟨hpeer, State.sends_open (x := x) ?_ hclosing⟩
  rw [State.unheld_cqe]
  exact hx

theorem State.caughtEnd_sessions : (u.caughtEnd c a).cqe.sessions = u.cqe.sessions := by
  obtain ⟨hpeer, hsends⟩ := State.caught_host (a := a) hp
  unfold State.caughtEnd
  rw [State.deliver_sessions _ hpeer hsends, State.unheld_cqe]
  rfl

theorem State.caughtEnd_opcs : (u.caughtEnd c a).opcs = u.opcs := by
  obtain ⟨hpeer, hsends⟩ := State.caught_host (a := a) hp
  unfold State.caughtEnd
  rw [State.deliver_opcs _ hpeer hsends]
  show ((u.caught c a).unheld (c.caughtBy a)).cqe.cmds.map (·.opc) = _
  rw [State.unheld_cqe]
  exact State.opcs_modCmd (Cmd.keepsName_caughtBy a) u c.qp c.cid

theorem State.caughtEnd_ready :
    (u.caughtEnd c a).cqe.ready = u.cqe.ready ++ [(c.port, c.completion stAbortedRequest 0 0 0 0)] := by
  obtain ⟨hpeer, hsends⟩ := State.caught_host (a := a) hp
  unfold State.caughtEnd
  rw [State.deliver_ready _ hpeer hsends, State.unheld_cqe]
  rfl

/-- The end of the caught command leaves the ABORT where it stands. -/
theorem State.caughtEnd_cmd_ne {qp cid : Nat} (hne : ¬ (qp = c.qp ∧ cid = c.cid)) :
    (u.caughtEnd c a).cqe.cmd qp cid = u.cqe.cmd qp cid := by
  obtain ⟨hpeer, hsends⟩ := State.caught_host (a := a) hp
  unfold State.caughtEnd
  rw [State.deliver_cmd_ne _ hpeer hsends hne, State.unheld_cqe]
  exact State.cmd_modCmd_ne (Cmd.keepsName_caughtBy a) u hne

/-- An ABORT of an open command of its own session, which holds nothing, catches it and is answered CS0 1. -/
theorem State.startAbort_catches {tq tcid : Nat} {y : Qp} (hheld : u.cqe.cmd a.qp a.cid = some a) (hy : tget u.cqe.qps tq = some y)
    (hsess : y.sess = a.sess) (hc : u.cqe.cmd tq tcid = some c) (hopc : c.opc ≠ opAbort) (hne : ¬ (a.qp = c.qp ∧ a.cid = c.cid)) :
    u.startAbort a tq tcid = (u.caughtEnd c a).deliver a (a.completion stSuccess 0 1 0 0) := by
  have hfound : (u.caughtEnd c a).cqe.cmd a.qp a.cid = some a := (State.caughtEnd_cmd_ne hp hne).trans hheld
  obtain ⟨hopen, hfwd, -, hframes, hcredit, hmirror, haborters, -, -⟩ := hp
  have hwaits : (c.caughtBy a).aborters = [(a.qp, a.cid)] := congrArg (List.cons (a.qp, a.cid)) haborters
  have hstatus : (c.completion stAbortedRequest 0 0 0 0).status = BitVec.ofNat 16 stAbortedRequest := rfl
  rw [State.startAbort_open hheld hy hsess hc hopc hopen hfwd, State.endUncommitted_bare (c := c.caughtBy a) ⟨hframes, hcredit, hmirror⟩,
    hwaits, if_pos hstatus]
  exact State.answerAborts_one hfound 1

end

/-! ## The statement -/

/-- A command entry touches nothing but what commands may touch. -/
theorem State.hostCommand_without (s : State) (opc : Nat) (h : HostCmd) : (s.hostCommand opc h).without cmdParts = s.without cmdParts := by
  have keeps {u v : State} (b : Blk) (hb : b ∈ cmdParts) (h : u.blank b = v.blank b) : u.without cmdParts = v.without cmdParts :=
    State.without_congr hb h
  exact State.hostCommand_frame (State.without · cmdParts)
    (hFresh := fun _ _ => keeps .fresh (by decide) rfl) (hOut := fun _ _ => keeps .out (by decide) rfl)
    (hLink := fun _ _ _ => keeps .link (by decide) rfl) (hPort := fun _ _ _ => keeps .link (by decide) rfl)
    (hCqe := fun _ _ => keeps .cqe (by decide) rfl) (hSess := fun _ _ _ => keeps .cqe (by decide) rfl)
    (hDsc := fun _ _ => keeps .dsc (by decide) rfl) (hWc := fun _ _ => keeps .wc (by decide) rfl)
    (hDge := fun _ _ => keeps .dge (by decide) rfl) (hDxu := fun _ _ => keeps .dxu (by decide) rfl)
    (hCpe := fun _ _ => keeps .cpe (by decide) rfl) (hFtu := fun _ _ => keeps .ftu (by decide) rfl)
    (hPxe := fun _ _ _ => keeps .pxe (by decide) rfl) (hSnap := fun _ _ => keeps .snap (by decide) rfl)
    (hSlc := fun _ _ => keeps .slc (by decide) rfl) (hEvr := fun _ _ => keeps .evr (by decide) rfl) s opc h

/-- A rejected entry of an open session completes at once; nothing but the ring changes. -/
theorem State.rejectHost_completes {s : State} {c : Cmd} {x : Session} (hx : tget s.cqe.sessions c.sess = some x) (hopen : x.closing = none)
    (status : Nat) :
    (s.rejectHost c status 0 false).cqe.ready = s.cqe.ready ++ [(c.port, c.completion status 0 0 0 0)] := by
  have hsends : (s.drainCid c.qp c.cid).sends c = true := State.sends_open (x := x) hx hopen
  simp only [State.rejectHost, hsends, Bool.false_eq_true, Bool.not_true, if_false]
  rfl

/-- ABORT is carried out as its entry is, where no COMPARE_AND_WRITE waits. -/
theorem exec_abort {s u : State} {h : HostCmd} (hu : s.hostCommand opAbort h = u) (hcaw : opCaw ∉ u.opcs) :
    exec (.abort h) s = .next u := by
  show Host.Outcome.next ((s.hostCommand opAbort h).pokeCaws) = _
  rw [hu, State.pokeCaws_eq_self hcaw]

/-- Settles O20: FLUSH is finished as it comes; an ABORT that finds nothing, or catches its target, is delivered; an opcode that is not
listed is rejected. -/
theorem flushAbortAndUnknownOpcodes : Obligations.FlushAbortAndUnknownOpcodes := by
  intro h q x s hr
  have ⟨_, _, hx, hopen, _, _, _, hfree⟩ := hr
  have hheld := State.abortRinged_held hr
  refine ⟨fun r hp => ?flush, fun hf hnone hcaw => ?missing, fun c tq y hf htq hy hysess hc hopc hcsess hplain hcaw => ?caught,
    fun opc ho => ?unlisted⟩
  case flush =>
    let c := (s.ringed opFlush h q).2
    have hsends : (s.ringed opFlush h q).1.sends c = true := State.sends_open (x := x) hx hopen
    obtain ⟨hready, -⟩ := State.finish_host (c.completion stSuccess 0 0 0 0) rfl rfl hsends
    rw [← State.hostCommand_flush hp] at hready
    exact ⟨_, rfl, State.completes_of_ready (c := c) rfl rfl hready rfl, s.hostCommand_without opFlush h⟩
  case missing =>
    let a := s.abortOf h q
    obtain ⟨v, hv, habort⟩ := State.startAbort_missing hheld rfl rfl rfl (State.abortRinged_cmd_none hnone)
    have hhost : s.hostCommand opAbort h = v.deliver a (a.completion stSuccess 0 3 0 0) := (State.hostCommand_abort hr hf).trans habort
    have hsends : v.sends a = true := State.sends_open (x := x) (by rw [hv]; exact hx) hopen
    have hopcs : opCaw ∉ (v.deliver a (a.completion stSuccess 0 3 0 0)).opcs := by
      rw [State.deliver_opcs _ rfl hsends]
      show opCaw ∉ v.cqe.cmds.map (·.opc)
      rw [hv]
      exact State.abortRinged_no_caw hcaw
    have hready : (v.deliver a (a.completion stSuccess 0 3 0 0)).cqe.ready = s.cqe.ready ++ [(q.port, a.completion stSuccess 0 3 0 0)] := by
      rw [State.deliver_ready _ rfl hsends, hv]
      rfl
    exact ⟨_, exec_abort hhost hopcs, State.completes_of_ready (c := a) rfl rfl hready rfl, hhost ▸ s.hostCommand_without opAbort h⟩
  case caught =>
    let a := s.abortOf h q
    let v := (s.abortRinged h q).caughtEnd c a
    subst htq
    obtain ⟨hcqp, hccid, -⟩ := Cqe.cmd_spec hc
    have hne : ¬ (a.qp = c.qp ∧ a.cid = c.cid) := fun ⟨hqp, hcid⟩ => by
      rw [← hcqp, ← hccid, ← hqp, ← hcid] at hc
      exact nomatch hfree.symm.trans hc
    have hhost : s.hostCommand opAbort h = v.deliver a (a.completion stSuccess 0 1 0 0) :=
      (State.hostCommand_abort hr hf).trans
        (State.startAbort_catches (u := s.abortRinged h q) hplain hheld hy hysess (State.abortRinged_cmd hc) hopc hne)
    have hsends : v.sends a = true :=
      State.sends_open (x := x) (by rw [State.caughtEnd_sessions (u := s.abortRinged h q) hplain]; exact hx) hopen
    have hopcs : opCaw ∉ (v.deliver a (a.completion stSuccess 0 1 0 0)).opcs := by
      rw [State.deliver_opcs _ rfl hsends, State.caughtEnd_opcs (u := s.abortRinged h q) hplain]
      exact State.abortRinged_no_caw hcaw
    obtain ⟨-, hacid, hastatus⟩ := a.completion_names (qp := h.qp) (cid := h.entry.cid) rfl rfl stSuccess 0 1 0 0
    refine ⟨_, c.completion stAbortedRequest 0 0 0 0, a.completion stSuccess 0 1 0 0, exec_abort hhost hopcs, ?_, rfl, rfl, hastatus, hacid, rfl⟩
    rw [State.deliver_ready _ rfl hsends, State.caughtEnd_ready (u := s.abortRinged h q) hplain, List.append_assoc]
    rfl
  case unlisted =>
    have hopc : opc.toNat = 0 ∨ 8 < opc.toNat := ho.imp_left (congrArg BitVec.toNat)
    refine ⟨_, congrArg Host.Outcome.next (State.hostCommand_unlisted hr hopc), ?_, ?_⟩
    · exact State.completes_of_ready (c := cmdOf h.qp.toNat q.port q.sess q.cls opc.toNat s.dt h.entry) rfl rfl
        (State.rejectHost_completes hx hopen stInvalidOpcode) trivial
    · exact State.rejectHost_frame (State.without · [.cqe]) (fun _ _ => rfl) (s.undrained h) _ stInvalidOpcode 0 false

end Sys2Proof.Machine
end

section
/-! PROOF. A ready completion leaves, and its command with it (R79, R80, R105). -/

namespace Sys2Proof.Machine

open Sys2Proof

/-- The completion that goes out for a command is the stamped one. -/
theorem State.sendOne_stamped {s : State} {k : Completion} {c : Cmd} (h : s.cqe.owner k = some c) :
    (s.sendOne k).1 = (s.stampCompletion c k).1 := by
  unfold State.sendOne
  rw [h]

/-- Its command leaves the ring, and nothing else of the CQE changes. -/
theorem State.sendOne_cqe {s : State} {k : Completion} {c : Cmd} (h : s.cqe.owner k = some c) :
    (s.sendOne k).2.cqe = s.cqe.removeOwner k := by
  unfold State.sendOne
  rw [h]
  dsimp only
  split
  · rfl
  · rfl

/-- An open session has nothing to settle. -/
theorem State.settleSession_open {s : State} {n : Nat} {x : Session} (hx : tget s.cqe.sessions n = some x) (hopen : x.closing = none) :
    s.settleSession n = s := by
  unfold State.settleSession
  simp only [hx, hopen]

/-- The state in which a ready completion of a port goes out: it is ready no more, and its command is gone. -/
def State.completed (s : State) (port : Nat) (k : Completion) : State :=
  (s.sendOne k).2.modCqe fun q => { q with ready := q.ready.erase (port, k) }

/-- COMPLETION_TRANSMIT of the one completion that is ready, of an open session, sends it alone. -/
theorem exec_completionTransmit_one {port : Fin 16} {k : Completion} {c : Cmd} {x : Session} {s : State}
    (hready : s.cqe.ready = [(port.val, k)]) (howner : s.cqe.owner k = some c) (hwaits : s.dataWaits c = false)
    (hroom : s.room (hostPort port.val) 2 ≠ 0) (hx : tget s.cqe.sessions c.sess = some x) (hopen : x.closing = none) :
    exec (.completionTransmit port) s =
      .next ((s.completed port.val k).transmit (hostPort port.val) 2 (.completions port.val [(s.stampCompletion c k).1])) := by
  have hcqe := State.sendOne_cqe howner
  have hsession : tget ((s.completed port.val k).transmit (hostPort port.val) 2
      (.completions port.val [(s.stampCompletion c k).1])).cqe.sessions c.sess = some x := by
    rw [State.transmit_cqe]
    exact (congrArg (tget ·.sessions c.sess) hcqe).trans hx
  have hsettled := State.settleSession_open hsession hopen
  have hdups : [c.sess].eraseDups = [c.sess] := by simp [List.eraseDups_cons]
  show execCompletionTransmit port s = _
  unfold execCompletionTransmit
  unfold State.completed at hsettled ⊢
  simp [hready, howner, hwaits, hroom, State.sendOne_stamped howner, hdups, hsettled]

/-- Settles O23: the stamped completion is given to the port, and its command is gone. -/
theorem completionsLeaveWithTheirCommands : Obligations.CompletionsLeaveWithTheirCommands := by
  intro port k c x s hready howner hwaits hroom hx hopen
  have hexec := exec_completionTransmit_one hready howner hwaits hroom hx hopen
  refine ⟨_, hexec, ?_, ?_, ?_, ?_⟩
  · have hleft : (s.sendOne k).2.cqe.ready.erase (port.val, k) = [] := by
      rw [State.sendOne_cqe howner]
      show s.cqe.ready.erase (port.val, k) = []
      rw [hready, List.erase_cons_head]
    rw [State.transmit_cqe]
    exact hleft
  · rw [State.transmit_cqe]
    show (s.sendOne k).2.cqe.cmds = _
    rw [State.sendOne_cqe howner]
  · have hsame {α : Type} (π : State → α) (hCqe : KeepsCqe π) (hDsc : KeepsDsc π) (hEvr : KeepsEvr π) : π (s.completed port.val k) = π s :=
      (hCqe _ _).trans (State.sendOne_frame π hCqe hDsc hEvr s k)
    exact State.transmit_gives s (s.completed port.val k) (hsame State.out (fun _ _ => rfl) (fun _ _ => rfl) (fun _ _ => rfl))
      (hsame (·.link.ports) (fun _ _ => rfl) (fun _ _ => rfl) (fun _ _ => rfl)) _ 2 _
  · obtain ⟨t, ht, hframe⟩ := execCompletionTransmit_frame (State.without · [.out, .link, .cqe, .dsc, .evr])
      (fun _ _ => rfl) (fun _ _ _ => rfl) (fun _ _ => rfl) (fun _ _ => rfl) (fun _ _ => rfl) port s
    rw [← Host.Outcome.next.inj (ht.symm.trans hexec)]
    exact hframe

end Sys2Proof.Machine
end

section
/-! PROOF. An admitted WRITE takes its frames and waits for its data (R120, R135). -/

namespace Sys2Proof.Machine

open Sys2Proof

/-- Of the ring an admission changes the command alone: a view that sees neither a change of one command nor the calendars, fetches and
pages reads the same. -/
theorem State.judge_admitted_view {α : Type} (π : State → α)
    (hCmd : ∀ (s : State) (qp cid : Nat) (f : Cmd → Cmd), π (s.modCmd qp cid f) = π s) (hDsc : KeepsDsc π) (hFtu : KeepsFtu π) {s u : State}
    {c k : Cmd} (h : s.judge c = (.admitted k, u)) : π u = π s := by
  obtain ⟨p, hp⟩ := State.judge_admitted_plan h
  have hqueue : π (s.enqueue7 c).2 = π s := by
    unfold State.enqueue7
    split
    · rfl
    · exact (hCmd _ _ _ _).trans (hDsc s _)
  have hplan : π ((s.enqueue7 c).2.admitPlan (s.enqueue7 c).1 p).2 = π (s.enqueue7 c).2 := by
    have hpages (f : Ftu → Ftu) (d : Dsc → Dsc) : π (((s.enqueue7 c).2.modDsc d).modFtu f) = π (s.enqueue7 c).2 :=
      (hFtu _ _).trans (hDsc _ _)
    exact (hCmd _ _ _ _).trans (ite_frame ((hFtu _ _).trans (hpages _ _)) (hpages _ _))
  rw [hp] at hplan
  exact hplan.trans hqueue

/-- Taking frames takes one for each grain. -/
theorem Wc.takeAll_length (w : Wc) (ve : Nat → Nat) (vol cepoch : Nat) (gs : List Nat) :
    (w.takeAll ve vol cepoch gs).1.length = gs.length := by
  induction gs generalizing w with
  | nil => rfl
  | cons g gs ih => exact congrArg (· + 1) (ih _)

/-- A command takes a frame for each grain of its range, and space credit; it is otherwise as it came (R135, R257). -/
theorem State.takeFrames_cmd (s : State) (c : Cmd) :
    (s.takeFrames c).1.frames.length = (rangeGrains c.lba c.nsect).length ∧
      (s.takeFrames c).1 = { c with frames := (s.takeFrames c).1.frames, credit := (s.takeFrames c).1.credit } :=
  ⟨s.wc.takeAll_length _ _ _ _, rfl⟩

/-- Frames and credit are taken without a look at which completions are ready. -/
theorem State.takeFrames_ready (s : State) (c : Cmd) : (s.takeFrames c).2.cqe.ready = s.cqe.ready :=
  ite_frame (π := (·.cqe.ready)) rfl rfl

/-- A command that takes its frames holds its CID with them. -/
theorem State.takeFrames_held {s : State} {c : Cmd} (h : s.cqe.cmd c.qp c.cid = some c) :
    (s.takeFrames c).2.cqe.cmd c.qp c.cid = some (s.takeFrames c).1 := by
  have hspec := Cqe.cmd_spec h
  refine State.cmd_modCmd (c := c) (fun _ => (s.takeFrames c).1) ?_ fun _ _ _ _ => hspec
  exact ite_frame (π := fun s => s.cqe.cmd c.qp c.cid) h h

/-- An admitted WRITE starts by taking its frames: its data is still to come. -/
theorem State.startCmd_write {c : Cmd} (h : c.opc = opWrite) (s : State) : s.startCmd c = (s.takeFrames c).2 := by
  have hzero : ¬ c.opc = opZero := by
    rw [h]
    decide
  unfold State.startCmd State.startWrite
  rw [if_pos (.inl h)]
  exact if_neg hzero

/-- Settles O16: the WRITE starts as it was admitted, by taking its frames. -/
theorem admittedWritesTakeAFrameForEachGrain : Obligations.AdmittedWritesTakeAFrameForEachGrain := by
  intro h q x r c s u hpasses ho hi hj
  obtain ⟨_, hexec, rfl, hadmitted, htag, hopc, -, hlba, hnsect, -, hheld, -⟩ :=
    admittedCommandsAreTaggedAndStart opWrite (.write h) h q x r c s u rfl hpasses ho hi hj
  have hcmd := State.judge_admitted_cmd hj
  have hqp : c.qp = h.qp.toNat := congrArg Cmd.qp hcmd
  have hcid : c.cid = h.entry.cid.toNat := congrArg Cmd.cid hcmd
  have hready : u.cqe.ready = s.cqe.ready :=
    (State.judge_admitted_view (·.cqe.ready) (fun _ _ _ _ => rfl) (fun _ _ => rfl) (fun _ _ => rfl) hj).trans rfl
  obtain ⟨hframes, hkeeps⟩ := u.takeFrames_cmd c
  rw [← hqp, ← hcid] at hheld ⊢
  rw [State.startCmd_write hopc] at hexec
  rw [hlba, hnsect] at hframes
  refine ⟨_, _, hexec, State.takeFrames_held hheld, hframes, ?_, ?_, ?_, ?_, (u.takeFrames_ready c).trans hready⟩
  · exact (congrArg Cmd.admitted hkeeps).trans hadmitted
  · exact (congrArg Cmd.tag hkeeps).trans htag
  · exact (congrArg Cmd.decided hkeeps).trans (congrArg Cmd.decided hcmd)
  · exact (congrArg Cmd.committed hkeeps).trans (congrArg Cmd.committed hcmd)

end Sys2Proof.Machine
end

section
/-! PROOF. Arrivals beyond the intake rate are refused (R122, R123). -/

namespace Sys2Proof.Machine

open Sys2Proof

/-- The state in which a refusal is counted (R124), as DSC's registers show it. -/
def State.refusalCounted (s : State) (c : Cmd) (cause retry : Nat) : State :=
  s.rollRefusals.modDsc fun d =>
    { d.countRefusal c.cls cause retry with asks := d.asks.filter fun a => !(a.qp == c.qp && a.cid == c.cid) }

/-- DSC_REFUSE_LAST names the refusal that was counted last (R124). -/
theorem State.refusalCounted_last (s : State) (c : Cmd) (cause retry : Nat) :
    let d := (s.refusalCounted c cause retry).dsc
    (d.lastValid, d.lastClass, d.lastCause, d.lastRetry) = (true, c.cls, cause, retry) := rfl

/-- A view that sees neither DSC nor the event log. -/
theorem State.refusalCounted_frame {α : Type} (π : State → α) (hDsc : KeepsDsc π) (hEvr : KeepsEvr π) (s : State) (c : Cmd)
    (cause retry : Nat) : π (s.refusalCounted c cause retry) = π s :=
  (hDsc _ _).trans (State.rollRefusals_frame π hDsc hEvr s)

/-- A command that holds nothing, and for which no ABORT waits, is refused by its delivery with DEADLINE_REFUSED (R123). -/
theorem State.refuseCmd_bare {c : Cmd} (h : c.Bare) (ha : c.aborters = []) (s : State) (cause retry : Nat) :
    s.refuseCmd c cause retry = ((s.refusalCounted c cause retry).unheld c).deliver c (c.completion stRefused retry 0 0 0) := by
  show (s.refusalCounted c cause retry).endUncommitted c (c.completion stRefused retry 0 0 0) _ = _
  rw [State.endUncommitted_bare h, ha]
  rfl

/-- A command beyond the intake rate is refused with cause INTAKE and RETRY_US 20 (R122, R123). -/
theorem State.toDsc_saturated {s : State} (hi : s.intake.1 = true) (c : Cmd) : s.toDsc c = s.intake.2.refuseCmd c 6 20 := by
  have hsplit : s.intake = (true, s.intake.2) := Prod.ext hi rfl
  unfold State.toDsc
  rw [hsplit]

/-- RETRY is bit 5 of CFLAGS, and is set where RETRY_US is not 0 (R79, R123). -/
theorem Cmd.completion_retry (c : Cmd) {retry : Nat} (hr : retry ≠ 0) (status cs0 cs1 cs2 : Nat) :
    (c.completion status retry cs0 cs1 cs2).cflags.getLsbD 5 = true := by
  have hretry : cfRetry.getLsbD 5 = true := by decide
  simp [Cmd.completion, hr, hretry]

/-- Settles O21: the entry reaches DSC, which refuses it, and the refusal is counted and delivered. -/
theorem saturatedIntakeRefuses : Obligations.SaturatedIntakeRefuses := by
  intro opc i h q x r s hi hpasses ho hintake
  obtain ⟨hranged, hexec⟩ := exec_rangedCmd hi s
  have hring := State.hostCommand_passes hranged hpasses ho
  obtain ⟨⟨-, -, hx, hopen, -, -, -, -⟩, -⟩ := hpasses
  let c := (s.ringed opc h q).2
  let v := (s.ringed opc h q).1.intake.2.refusalCounted c 6 20
  let k := c.completion stRefused 20 0 0 0
  have hdsc : (s.ringed opc h q).1.toDsc c = (v.unheld c).deliver c k :=
    (State.toDsc_saturated (s := (s.ringed opc h q).1) hintake c).trans (State.refuseCmd_bare ⟨rfl, rfl, rfl⟩ rfl _ 6 20)
  have hcounted : v.cqe = (s.ringed opc h q).1.cqe := State.refusalCounted_frame State.cqe (fun _ _ => rfl) (fun _ _ => rfl) _ c 6 20
  have hcqe : (v.unheld c).cqe = (v.drainCid c.qp c.cid).cqe := v.unheld_cqe c
  have hsends : (v.unheld c).sends c = true := by
    refine State.sends_open (x := x) ?_ hopen
    rw [hcqe]
    show tget v.cqe.sessions q.sess = some x
    rw [hcounted]
    exact hx
  have hready : ((v.unheld c).deliver c k).cqe.ready = s.cqe.ready ++ [(c.port, k)] := by
    rw [State.deliver_ready k rfl hsends, hcqe]
    show v.cqe.ready ++ _ = _
    rw [hcounted]
    rfl
  have hview {α : Type} (π : State → α) (hCqe : KeepsCqe π) (hDge : KeepsDge π) (hCpe : KeepsCpe π) (hFtu : KeepsFtu π)
      (hSlc : KeepsSlc π) : π ((v.unheld c).deliver c k) = π v :=
    (State.deliver_host_frame k rfl hsends π (fun _ _ _ _ _ => State.modCmd_frame π hCqe _ _ _ _) fun _ _ => hCqe _ _).trans
      (State.unheld_frame π hCqe hDge hCpe hFtu hSlc v c)
  refine ⟨_, hexec, ?completes, ?last, ?cache, s.hostCommand_without opc h⟩
  all_goals rw [hring, hdsc]
  case completes => exact State.completes_of_ready (c := c) rfl rfl hready ⟨rfl, c.completion_retry (by decide) _ _ _ _⟩
  case last =>
    rw [hview State.dsc (fun _ _ => rfl) (fun _ _ => rfl) (fun _ _ => rfl) (fun _ _ => rfl) (fun _ _ => rfl)]
    exact (s.ringed opc h q).1.intake.2.refusalCounted_last c 6 20
  case cache =>
    rw [hview State.wc (fun _ _ => rfl) (fun _ _ => rfl) (fun _ _ => rfl) (fun _ _ => rfl) (fun _ _ => rfl)]
    exact State.refusalCounted_frame State.wc (fun _ _ => rfl) (fun _ _ => rfl) _ c 6 20

end Sys2Proof.Machine
end

section
/-! PROOF. A power failure takes the head to P4; 3 ms after it the cache is frozen and its vault is planned (R151 to R153). -/

namespace Sys2Proof.Machine

open Sys2Proof

/-! ## The fall (step 2 of R151) -/

/-- A power state asked for is the one that holds, entered anew or not. -/
@[simp] theorem State.setPstate_pstate (s : State) (new : PState) (cause sess : Nat) : (s.setPstate new cause sess).pmu.pstate = new := by
  unfold State.setPstate
  split
  · assumption
  · rfl

@[simp] theorem State.starveTest_cmds (s : State) : s.starveTest.cqe.cmds = s.cqe.cmds :=
  ite_frame (π := (·.cqe.cmds)) rfl rfl

@[simp] theorem State.refreshShares_cmds (s : State) : s.refreshShares.cqe.cmds = s.cqe.cmds := by
  unfold State.refreshShares
  rw [State.modDsc_cqe]
  refine (foldl_frame (·.cqe.cmds) _ (fun u i => ?_) _ _).trans s.starveTest_cmds
  exact ite_frame (π := (·.cqe.cmds)) rfl rfl

/-- The end of a self-test is noticed to sessions, and leaves the commands alone. -/
@[simp] theorem State.selfTestEnd_cmds (s : State) (result : Nat) : (s.selfTestEnd result).cqe.cmds = s.cqe.cmds :=
  ite_frame (π := (·.cqe.cmds)) rfl (State.refreshShares_cmds _)

/-- P4 as the falling edge brings it, with its event 0x1442: the moment is noted, and no other transition goes on. -/
def State.enterP4 (s : State) : State :=
  let s := (s.modWc fun w => { w with pwrfail := some s.dt, pwrfailRose := false }).setPstate .p4 4 0xFFFF
  (s.event 0x1442 0 s.wc.frames.length s.wc.mirror.length s.wc.vaultMs 0).modPmu fun p => { p with trans := none }

/-- Beside PMU and the record of the failure, P4 shows in the log alone. -/
theorem State.enterP4_frame {α : Type} (π : State → α) (hPmu : KeepsPmu π) (hEvr : KeepsEvr π) (s : State) :
    π s.enterP4 = π (s.modWc fun w => { w with pwrfail := some s.dt, pwrfailRose := false }) := by
  unfold State.enterP4
  rw [hPmu, State.event_frame π hEvr, State.setPstate_frame π hPmu hEvr]

theorem State.enterP4_pmu (s : State) : s.enterP4.pmu.pstate = .p4 ∧ s.enterP4.pmu.trans = none :=
  ⟨State.setPstate_pstate _ _ _ _, rfl⟩

/-- A running self-test and the background reservations not issued end in P4. -/
def State.stopBackground (s : State) : State :=
  let s := if s.evr.stRunning then s.selfTestAbort else s
  s.modDsc fun d => { d with cal := d.cal.filter fun r => r.issued || !s.isBackground r }

theorem State.stopBackground_frame {α : Type} (π : State → α) (hCqe : KeepsCqe π) (hDsc : KeepsDsc π) (hEvr : KeepsEvr π) (s : State) :
    π s.stopBackground = π s := by
  unfold State.stopBackground
  rw [hDsc]
  exact ite_frame (State.selfTestAbort_frame π hCqe hDsc hEvr s) rfl

@[simp] theorem State.stopBackground_pmu (s : State) : s.stopBackground.pmu = s.pmu :=
  s.stopBackground_frame State.pmu (fun _ _ => rfl) (fun _ _ => rfl) (fun _ _ => rfl)
@[simp] theorem State.stopBackground_wc (s : State) : s.stopBackground.wc = s.wc :=
  s.stopBackground_frame State.wc (fun _ _ => rfl) (fun _ _ => rfl) (fun _ _ => rfl)
@[simp] theorem State.stopBackground_cmds (s : State) : s.stopBackground.cqe.cmds = s.cqe.cmds :=
  ite_frame (π := (·.cqe.cmds)) (s.selfTestEnd_cmds 3) rfl

/-- Commands that fail leave the power state alone. -/
@[simp] theorem State.failCmds_pmu (cmds : List Cmd) (status : Nat) (s : State) :
    (cmds.foldl (fun s c => s.failCmd c status) s).pmu = s.pmu :=
  foldl_frame State.pmu _ (fun s c => s.failCmd_frame State.pmu (fun _ _ => rfl) (fun _ _ _ => rfl) (fun _ _ => rfl) (fun _ _ => rfl)
    (fun _ _ => rfl) (fun _ _ => rfl) (fun _ _ => rfl) (fun _ _ => rfl) (fun _ _ => rfl) c status) cmds s

/-- PWRFAIL_SEEN outside P3, P4 and a reset: P4 is entered, the background stops, and outstanding commands fail. -/
theorem exec_pwrfailSeen (s : State) (hrun : s.rcc.hold = .run) (hp3 : s.pmu.pstate ≠ .p3) (hp4 : s.pmu.pstate ≠ .p4) :
    ∃ hit : Cmd → Bool, exec .pwrfailSeen s =
      .next ((s.enterP4.stopBackground.cqe.cmds.filter hit).foldl (fun s c => s.failCmd c stVolumeNotReady) s.enterP4.stopBackground) := by
  show ∃ hit, execPwrfailSeen s = _
  unfold execPwrfailSeen
  rw [if_neg (by simp [hrun, hp3, hp4])]
  exact ⟨_, rfl⟩

/-! ## The freeze (steps 4 and 5 of R151) -/

/-- What the head holds is let go: its leases are written RELEASED and every outstanding command is abandoned. -/
def State.letAllGo (s : State) : State :=
  let held := (s.ha.leases.filter fun l => l.2.view != 0).map (·.1)
  let s := held.foldl (fun s g => s.releaseLease g) (s.leaseNotes s.ha.held 1)
  s.cqe.cmds.foldl (fun s c => s.letGo c) s

theorem State.letAllGo_frame {α : Type} (π : State → α) (hOut : KeepsOut π) (hLink : KeepsLink π) (hPort : KeepsPort π) (hHa : KeepsHa π)
    (hDge : KeepsDge π) (hCpe : KeepsCpe π) (hFtu : KeepsFtu π) (hSlc : KeepsSlc π) (s : State) : π s.letAllGo = π s :=
  (foldl_frame π _ (fun s c => s.letGo_frame π hDge hCpe hFtu hSlc c) _ _).trans
    ((foldl_frame π _ (fun s g => s.releaseLease_frame π hOut hLink hPort hHa g) _ _).trans (s.leaseNotes_frame π hOut hPort _ 1))

/-- The write cache stands still: no command is left, and no frame waits for one. -/
def State.freezeCache (s : State) : State :=
  (s.modCqe fun c => { c with cmds := [], ready := [] }).modWc fun w =>
    { w with frozen := true, frames := w.frames.map fun f => (f.1, { f.2 with pend := [] }) }

/-- The head as VAULT_FREEZE leaves it, before the vault is planned. -/
def State.frozenAt (s : State) (t : Nat) : State := (s.advanceTo t).letAllGo.freezeCache

/-- VAULT_FREEZE with something to vault plans the vault of the frozen head. -/
theorem exec_vaultFreeze (s : State) (fell : Nat) (hp4 : s.pmu.pstate = .p4) (hz : s.wc.frozen = false) (hf : s.wc.pwrfail = some fell)
    (hv : (s.frozenAt (fell + 2998000)).nothingToVault = false) :
    exec .vaultFreeze s = .next (s.frozenAt (fell + 2998000)).planVault := by
  show execVaultFreeze s = _
  unfold execVaultFreeze
  rw [hf]
  exact (if_neg (by simp [hp4, hz])).trans (if_neg (by rw [← Bool.not_eq_true] at hv; exact hv))

/-- Frames that wait for no command are as they were. -/
theorem State.frozenAt_wc (s : State) (t : Nat) (h : ∀ f ∈ s.wc.frames, f.2.pend = []) :
    (s.frozenAt t).wc = { s.wc with frozen := true } := by
  have hwc : (s.advanceTo t).letAllGo.wc = s.wc :=
    State.letAllGo_frame State.wc (fun _ _ => rfl) (fun _ _ _ => rfl) (fun _ _ _ => rfl) (fun _ _ => rfl) (fun _ _ => rfl) (fun _ _ => rfl)
      (fun _ _ => rfl) (fun _ _ => rfl) _
  have hid : (s.wc.frames.map fun f => (f.1, { f.2 with pend := [] })) = s.wc.frames :=
    (List.map_congr_left fun f hf => by simp only [← h f hf, id]).trans (List.map_id _)
  unfold State.frozenAt State.freezeCache
  rw [State.modWc_wc, State.modCqe_wc, hwc, hid]

/-- Views of neither the commands nor the cache see of the freeze that time has passed and what was let go. -/
theorem State.frozenAt_frame {α : Type} (π : State → α) (hOut : KeepsOut π) (hLink : KeepsLink π) (hPort : KeepsPort π) (hCqe : KeepsCqe π)
    (hWc : KeepsWc π) (hHa : KeepsHa π) (hDge : KeepsDge π) (hCpe : KeepsCpe π) (hFtu : KeepsFtu π) (hSlc : KeepsSlc π) (s : State)
    (t : Nat) : π (s.frozenAt t) = π (s.advanceTo t) := by
  unfold State.frozenAt State.freezeCache
  rw [hWc, hCqe, State.letAllGo_frame π hOut hLink hPort hHa hDge hCpe hFtu hSlc]

@[simp] theorem State.frozenAt_dt (s : State) (t : Nat) : (s.frozenAt t).dt = max s.dt t :=
  s.frozenAt_frame State.dt (fun _ _ => rfl) (fun _ _ _ => rfl) (fun _ _ _ => rfl) (fun _ _ => rfl) (fun _ _ => rfl) (fun _ _ => rfl)
    (fun _ _ => rfl) (fun _ _ => rfl) (fun _ _ => rfl) (fun _ _ => rfl) t
@[simp] theorem State.frozenAt_cfg (s : State) (t : Nat) : (s.frozenAt t).cfg = s.cfg :=
  s.frozenAt_frame State.cfg (fun _ _ => rfl) (fun _ _ _ => rfl) (fun _ _ _ => rfl) (fun _ _ => rfl) (fun _ _ => rfl) (fun _ _ => rfl)
    (fun _ _ => rfl) (fun _ _ => rfl) (fun _ _ => rfl) (fun _ _ => rfl) t
@[simp] theorem State.frozenAt_xts (s : State) (t : Nat) : (s.frozenAt t).xts = s.xts :=
  s.frozenAt_frame State.xts (fun _ _ => rfl) (fun _ _ _ => rfl) (fun _ _ _ => rfl) (fun _ _ => rfl) (fun _ _ => rfl) (fun _ _ => rfl)
    (fun _ _ => rfl) (fun _ _ => rfl) (fun _ _ => rfl) (fun _ _ => rfl) t
@[simp] theorem State.frozenAt_dbg (s : State) (t : Nat) : (s.frozenAt t).dbg = s.dbg :=
  s.frozenAt_frame State.dbg (fun _ _ => rfl) (fun _ _ _ => rfl) (fun _ _ _ => rfl) (fun _ _ => rfl) (fun _ _ => rfl) (fun _ _ => rfl)
    (fun _ _ => rfl) (fun _ _ => rfl) (fun _ _ => rfl) (fun _ _ => rfl) t
/-- No command is left, and no completion that is still to leave. -/
@[simp] theorem State.frozenAt_cmds (s : State) (t : Nat) : (s.frozenAt t).cqe.cmds = [] := rfl
@[simp] theorem State.frozenAt_ready (s : State) (t : Nat) : (s.frozenAt t).cqe.ready = [] := rfl

/-! ## The plan of the vault (R152) -/

@[simp] theorem State.planVault_dt (s : State) : s.planVault.dt = s.dt :=
  s.planVault_frame State.dt (fun _ _ => rfl) (fun _ _ => rfl) (fun _ _ => rfl)
@[simp] theorem State.planVault_cqe (s : State) : s.planVault.cqe = s.cqe :=
  s.planVault_frame State.cqe (fun _ _ => rfl) (fun _ _ => rfl) (fun _ _ => rfl)

/-- The vault is planned under an OPEN header of the next sequence, which counts every frame and entry to be vaulted. -/
theorem State.planVault_wc (s : State) :
    ∃ v plan left, s.planVault.wc = { s.wc with vault := some v, vaultSeq := s.wc.vaultSeq + 1, vaultPlan := plan, vaultLeft := left } ∧
      v.st = 1 ∧ v.vseq = s.wc.vaultSeq + 1 ∧ v.dtPf = s.wc.pwrfail.getD s.dt ∧ v.cepoch = s.cfg.epoch ∧
      v.own + v.mirr = s.wc.vaultItems.length := by
  have hplace (u : State) (die : Nat) (work : Work) : (u.placeVault die work).wc = u.wc :=
    State.placeVault_frame State.wc (fun _ _ => rfl) (fun _ _ => rfl) u die work
  refine ⟨_, _, _, (foldl_frame State.wc _ (fun _ _ => foldl_frame State.wc _ (fun _ _ => hplace _ _ _) _ _) _ _).trans
    (State.placeHeader_frame State.wc (fun _ _ => rfl) (fun _ _ => rfl) _), rfl, rfl, rfl, rfl, ?_⟩
  exact Nat.add_sub_cancel' (List.length_filter_le _ _)

/-! ## The statement -/

/-- Settles O32: P4 is entered and commands alone are touched beside it; the frozen head's vault is planned; a rise is noted. -/
theorem powerFailureFreezesTheCache : Obligations.PowerFailureFreezesTheCache := by
  intro s
  refine ⟨fun hrun hp3 hp4 => ?fall, fun fell hp4 hz hf hpend hitems hkey hdbg => ?freeze, fun hp4 hdone => ?rise⟩
  case fall =>
    obtain ⟨hit, hexec⟩ := exec_pwrfailSeen s hrun hp3 hp4
    obtain ⟨hp, htrans⟩ := s.enterP4_pmu
    refine ⟨_, hexec, ?_, ?_, fun hnone => ?_, ?_⟩
    · rw [State.failCmds_pmu, State.stopBackground_pmu, hp]
    · rw [State.failCmds_pmu, State.stopBackground_pmu, htrans]
    · have hcmds : s.enterP4.stopBackground.cqe.cmds = [] := by
        rw [State.stopBackground_cmds]
        exact (s.enterP4_frame (·.cqe.cmds) (fun _ _ => rfl) (fun _ _ => rfl)).trans hnone
      rw [hcmds]
      exact s.enterP4.stopBackground_wc.trans (s.enterP4_frame State.wc (fun _ _ => rfl) (fun _ _ => rfl))
    · obtain ⟨t, ht, hframe⟩ := execPwrfailSeen_frame (State.without · (.pmu :: cmdParts)) (fun _ _ => rfl) (fun _ _ _ => rfl)
        (fun _ _ => rfl) (fun _ _ => rfl) (fun _ _ => rfl) (fun _ _ => rfl) (fun _ _ => rfl) (fun _ _ => rfl) (fun _ _ => rfl)
        (fun _ _ => rfl) (fun _ _ => rfl) s
      cases ht.symm.trans hexec
      exact hframe
  case freeze =>
    have hwc := s.frozenAt_wc (fell + 2998000) hpend
    have hvault : (s.frozenAt (fell + 2998000)).nothingToVault = false := by
      unfold State.nothingToVault
      have hempty : (s.frozenAt (fell + 2998000)).wc.vaultItems.isEmpty = false := by
        rw [hwc]
        exact List.isEmpty_eq_false_iff.mpr hitems
      simp [hempty, hkey, hdbg]
    obtain ⟨v, plan, left, hplan, hst, hseq, hfell, hepoch, hcount⟩ := (s.frozenAt (fell + 2998000)).planVault_wc
    refine ⟨_, v, exec_vaultFreeze s fell hp4 hz hf hvault, ?_, ?_, ?_, ?_, ?_, hst, ?_, ?_, ?_, ?_, ?_⟩
    · simp
    · simp [hplan, hwc]
    · simp
    · simp
    · rw [hplan]
    · simp [hseq, hwc]
    · simp [hfell, hwc, hf]
    · simp [hepoch]
    · rw [hcount, hwc]
      rfl
    · rw [hplan, hwc]
  case rise =>
    refine ⟨s.modWc fun w => { w with pwrfailRose := true }, ?_, rfl, rfl⟩
    show execPwrfailRise s = _
    unfold execPwrfailRise
    rw [if_neg (not_not_intro hp4)]
    exact congrArg _ (if_neg (by simp [hdone]))

end Sys2Proof.Machine
end

section
/-! PROOF. Records of the peer that act on this head: slots of the filter (R190), held regions (R274), claimed groups (R318), reads
reserved and granted (R314), the end of a replay and of a resynchronisation (R144, R156). -/

namespace Sys2Proof.Machine

open Sys2Proof

/-! ## The filter's copy and the held regions -/

/-- A slot write that follows the last one, of a group held elsewhere, is applied (R190). -/
theorem State.applySlot_next {s : State} {n : Nat} {d : Domain} (bucket slot tag : Nat) (hd : tget s.dxu.doms n = some d)
    (ho : s.ownsGroup d.group = false) :
    s.applySlot n bucket slot tag (d.iseq + 1) =
      s.modDomain n fun d' => { d' with slots := slotPut d'.slots bucket slot tag, iseq := d.iseq + 1 } := by
  unfold State.applySlot
  rw [hd]
  exact (if_neg (by simp [ho])).trans (if_pos rfl)

theorem exec_filterSlot (h : RecHdr) (domain bucket slot : Nat) (tag : BitVec 16) (kind : Byte) (s : State) (d : Domain)
    (hr : h.rsvOk = true) (hd : tget s.dxu.doms domain = some d) (ho : s.ownsGroup d.group = false) :
    exec (.filterSlot h domain bucket slot tag kind (d.iseq + 1)) s =
      .next (s.modDomain domain fun d' => { d' with slots := slotPut d'.slots bucket slot tag.toNat, iseq := d.iseq + 1 }) := by
  show execFilterSlot h domain bucket slot tag kind (d.iseq + 1) s = _
  unfold execFilterSlot
  rw [State.peerRecord_ok _ _ _ _ hr, State.applySlot_next bucket slot tag.toNat hd ho]

/-- A region set among others is held. -/
theorem getLsbD_or_two_pow {n i : Nat} (old : BitVec n) (hi : i < n) : (old ||| BitVec.ofNat n (2 ^ i)).getLsbD i = true := by
  rw [BitVec.getLsbD_or, BitVec.getLsbD_ofNat, Nat.testBit_two_pow_self]
  simp [hi]

/-- DRB_SET leaves, behind the entries of other segments, one of the peer that holds the region, and acknowledges it (R274). -/
theorem exec_drbSet (h : RecHdr) (pool slot region segSeq rseq : Nat) (s : State) (hr : h.rsvOk = true) (hreg : region < 256) :
    ∃ (kept : List DrbSlot) (d : DrbSlot), exec (.drbSet h pool slot region segSeq rseq) s =
        .next ((s.modPxe fun p => { p with drb := kept ++ [d] }).toPeer (.drbAck pool rseq)) ∧
      d.peers = true ∧ d.pool = pool ∧ d.slot = slot ∧ d.segSeq = segSeq ∧ d.rseq = rseq ∧ d.regions.getLsbD region = true := by
  show ∃ kept d, execDrbSet h pool slot region segSeq rseq s = _ ∧ _
  unfold execDrbSet
  rw [State.peerRecord_ok _ _ _ _ hr]
  exact ⟨_, _, rfl, rfl, rfl, rfl, rfl, rfl, getLsbD_or_two_pow _ hreg⟩

/-- The acknowledgement of a region of this head's pool: entries up to its sequence may be programmed (R274). -/
def ackRegions (pool rseq : Nat) (d : DrbSlot) : DrbSlot :=
  if !d.peers && d.pool == pool && !d.acked && decide (d.rseq ≤ rseq) then { d with acked := true } else d

theorem exec_drbAck (h : RecHdr) (pool rseq : Nat) (s : State) (d : DrbSlot) (hr : h.rsvOk = true) (hd : d ∈ s.pxe.drb)
    (hp : d.peers = false) (hpool : d.pool = pool) (ha : d.acked = false) (hseq : rseq ≤ d.rseq) :
    exec (.drbAck h pool rseq) s = .next (s.modPxe fun p => { p with drb := p.drb.map (ackRegions pool rseq) }) := by
  have hany : (s.pxe.drb.any fun d => (!d.peers && d.pool == pool && !d.acked) && decide (rseq ≤ d.rseq)) = true :=
    List.any_eq_true.mpr ⟨d, hd, by simp [hp, hpool, ha, hseq]⟩
  show execDrbAck h pool rseq s = _
  unfold execDrbAck
  rw [State.peerRecord_ok _ _ _ _ hr]
  exact congrArg _ (if_neg (by simp only [hany, Bool.not_true, Bool.false_eq_true, not_false_eq_true]))

/-- Whatever the acknowledgement covers is acknowledged after it. -/
theorem ackRegions_acked {pool rseq : Nat} {d : DrbSlot} (hp : (ackRegions pool rseq d).peers = false)
    (hpool : (ackRegions pool rseq d).pool = pool) (hseq : (ackRegions pool rseq d).rseq ≤ rseq) :
    (ackRegions pool rseq d).acked = true := by
  by_cases hx : (!d.peers && d.pool == pool && !d.acked && decide (d.rseq ≤ rseq)) = true
  · rw [ackRegions, if_pos hx]
  · rw [ackRegions, if_neg hx] at hp hpool hseq ⊢
    simpa [hp, hpool, hseq] using hx

/-! ## The peer's groups -/

@[simp] theorem State.leaseOf_modLease_self (s : State) (g : Nat) (f : LeaseSt → LeaseSt) :
    (s.modLease g f).leaseOf g = f (s.leaseOf g) := by
  simp [State.leaseOf, State.modLease, tgetD]

theorem State.leaseOf_modLease_ne (s : State) {g k : Nat} (f : LeaseSt → LeaseSt) (h : k ≠ g) :
    (s.modLease g f).leaseOf k = s.leaseOf k := by
  simp [State.leaseOf, State.modLease, tgetD, tget_tput_ne _ _ _ _ h]

/-- The leases of several groups change together, and no other with them. -/
theorem State.leaseOf_modLeases {groups : List Nat} (hn : groups.Nodup) (s : State) (f : LeaseSt → LeaseSt) (k : Nat) :
    (groups.foldl (fun s g => s.modLease g f) s).leaseOf k = if k ∈ groups then f (s.leaseOf k) else s.leaseOf k := by
  induction groups generalizing s with
  | nil => rfl
  | cons g gs ih =>
    obtain ⟨hg, hgs⟩ := List.nodup_cons.mp hn
    rw [List.foldl_cons, ih hgs]
    by_cases hk : k = g
    · subst hk
      simp [hg]
    · simp [hk, s.leaseOf_modLease_ne f hk]

/-- The groups of a note that this head does not hold. -/
def State.notedGroups (s : State) (first count : Nat) : List Nat :=
  ((List.range 256).filter fun g => decide (first ≤ g ∧ g < first + count)).filter fun g => (s.leaseOf g).view == 0

theorem State.notedGroups_nodup (s : State) (first count : Nat) : (s.notedGroups first count).Nodup :=
  (List.nodup_range.filter _).filter _

theorem State.mem_notedGroups {s : State} {first count g : Nat} :
    g ∈ s.notedGroups first count ↔ g < 256 ∧ (first ≤ g ∧ g < first + count) ∧ (s.leaseOf g).view = 0 := by
  simp only [State.notedGroups, List.mem_filter, List.mem_range, decide_eq_true_eq, beq_iff_eq, and_assoc]

/-- A LEASE_NOTE that claims groups writes the peer as their holder, and does nothing beside it (R318). -/
theorem exec_leaseNote_taken (h : RecHdr) (first count epoch : Nat) (s : State) (hr : h.rsvOk = true) :
    exec (.leaseNote h first count 3 epoch) s =
      .next ((s.notedGroups first count).foldl (fun u g => u.modLease g fun l => { l with holder := 3 - s.me }) s) := by
  show execLeaseNote h first count 3 epoch s = _
  unfold execLeaseNote
  rw [State.peerRecord_ok _ _ _ _ hr]
  rfl

/-! ## Reads reserved for the peer -/

/-- Among the reservations a read leaves is its element, at its start on its die. -/
theorem Dsc.putRead_mem (d : Dsc) (die start sus len : Nat) (work : Work) (unit units chunk : Nat) (share : Option Nat) :
    ∃ r ∈ (d.putRead die start sus len work unit units chunk share).cal, r.die = die ∧ r.work = work ∧ r.start = start := by
  unfold Dsc.putRead Dsc.enter
  exact ⟨_, List.mem_append_left _ (List.mem_append_right _ (List.mem_singleton.mpr rfl)), rfl, rfl, rfl⟩

/-- PEER_RESERVE of a die of this head, in service, takes the first place that fits and grants it. -/
theorem exec_peerReserve (h : RecHdr) (tag : Word) (die units e l : Nat) (s : State) (c sus len : Nat) (hr : h.rsvOk = true)
    (hown : (s.ftu.die die).own = true) (hstay : (s.ftu.die die).leaving = false) (h1 : 1 ≤ units) (h32 : units ≤ 32)
    (hp : s.pmu.pstate ≠ .p4) (hl : s.dbg.level < 2) (ha : s.dbg.action = none) (hc : s.dsc.closedUntil ≤ s.dt)
    (hslot : s.peerSlot die units e l = some (c, sus, len)) :
    exec (.peerReserve h tag die units e l) s =
      .next ((s.modDsc fun d => d.putRead die c sus len (.peerRead tag.toNat) 32 units 0 none).toPeer
        (.peerGrant tag.toNat (some (c - s.dt)) (len / 100))) := by
  unfold State.peerSlot at hslot
  show execPeerReserve h tag die units e l s = _
  unfold execPeerReserve
  rw [State.peerRecord_ok _ _ _ _ hr]
  dsimp only
  rw [if_neg (by simp [hown]), if_neg (by simp [hstay, hp, ha]; omega), hslot]

/-! ## Grants of reads that this head asked for -/

/-- The asks once one of them is answered. -/
def answerAsk (tag : Nat) (grant : Option (Nat × Nat)) (asks : List PeerAsk) : List PeerAsk :=
  asks.map fun x => if x.tag = tag then { x with answered := true, grant := grant } else x

/-- While another ask of the command is open, an answer is noted and nothing else happens (R314). -/
theorem State.askAnswered_waits {s : State} {tag : Nat} (grant : Option (Nat × Nat)) {a b : PeerAsk}
    (ha : s.dsc.asks.find? (fun a => a.tag == tag && !a.answered) = some a) (hb : b ∈ s.dsc.asks) (hqp : b.qp = a.qp) (hcid : b.cid = a.cid)
    (hopen : b.answered = false) (hne : b.tag ≠ a.tag) :
    s.askAnswered tag grant = s.modDsc fun d => { d with asks := answerAsk tag grant d.asks } := by
  have htag : a.tag = tag := by
    have := List.find?_some ha
    simp_all
  have hmap : (fun x : PeerAsk => if x.tag == tag then { x with answered := true, grant := grant } else x) =
      fun x => if x.tag = tag then { x with answered := true, grant := grant } else x := by
    simp only [beq_iff_eq]
  have hstill : b ∈ answerAsk tag grant s.dsc.asks := List.mem_map.mpr ⟨b, hb, if_neg (htag ▸ hne)⟩
  unfold State.askAnswered
  rw [ha]
  dsimp only
  rw [hmap]
  exact if_pos (List.any_eq_true.mpr ⟨b, hstill, by simp [hqp, hcid, hopen]⟩)

/-! ## The statement -/

/-- Settles O35: each record as it acts where its conditions hold. -/
theorem peerRecordsActOnThisHead : Obligations.PeerRecordsActOnThisHead := by
  intro h s hr
  refine ⟨fun domain bucket slot tag kind iseq d hd ho hi => ?slot, fun pool slot region segSeq rseq hreg => ?held,
    fun pool rseq d hd hp hpool ha hseq => ?acked, fun first count epoch g h1 h2 h3 hv => ?claimed,
    fun tag die units e l c sus len hown hstay h1 h32 hp hl ha hc hslot => ?reserved,
    fun tag a b ha hb hqp hcid hopen hne => ⟨?granted, ?timeout⟩, fun n hk => ?replayed, fun n hm hpair => ?resynced⟩
  case slot =>
    subst hi
    exact ⟨_, exec_filterSlot h domain bucket slot tag kind s d hr hd ho, (tget_tmod_self _ _ _).trans (congrArg _ hd),
      fun k hk => tget_tmod_ne _ _ _ _ hk, rfl⟩
  case held =>
    obtain ⟨kept, d, hexec, hp, hpool, hslot, hseg, hseq, hbit⟩ := exec_drbSet h pool slot region segSeq rseq s hr hreg
    refine ⟨_, d, hexec, ?_, hp, hpool, hslot, hseg, hseq, hbit, s.transmit_gives (s.modPxe _) rfl rfl .peer 4 _,
      (State.transmit_without (by decide) (by decide) ..).trans (State.without_congr (b := .pxe) (by decide) rfl)⟩
    rw [State.toPeer_frame State.pxe (fun _ _ => rfl) (fun _ _ _ => rfl)]
    exact List.mem_append_right _ (List.mem_singleton.mpr rfl)
  case acked =>
    refine ⟨_, exec_drbAck h pool rseq s d hr hd hp hpool ha hseq, fun e he => ?_, List.length_map _, rfl⟩
    obtain ⟨x, -, rfl⟩ := List.mem_map.mp he
    exact ackRegions_acked
  case claimed =>
    refine ⟨_, exec_leaseNote_taken h first count epoch s hr, ?_, fun k hk => ?_, ?_⟩
    · rw [State.leaseOf_modLeases (s.notedGroups_nodup first count), if_pos (State.mem_notedGroups.mpr ⟨h3, ⟨h1, h2⟩, hv⟩)]
    · rw [State.leaseOf_modLeases (s.notedGroups_nodup first count), if_neg]
      intro hmem
      obtain ⟨-, ⟨hlo, hhi⟩, -⟩ := State.mem_notedGroups.mp hmem
      omega
    · exact foldl_frame (State.without · [.ha]) _ (fun u g => u.modLease_frame (State.without · [.ha]) (fun _ _ => rfl) g _) _ _
  case reserved =>
    obtain ⟨r, hmem, hdie, hwork, hstart⟩ := s.dsc.putRead_mem die c sus len (.peerRead tag.toNat) 32 units 0 none
    refine ⟨_, r, exec_peerReserve h tag die units e l s c sus len hr hown hstay h1 h32 hp hl ha hc hslot, ?_, hdie, hwork, hstart,
      s.transmit_gives (s.modDsc _) rfl rfl .peer 4 _,
      (State.transmit_without (by decide) (by decide) ..).trans (State.without_congr (b := .dsc) (by decide) rfl)⟩
    rw [State.toPeer_frame State.dsc (fun _ _ => rfl) (fun _ _ _ => rfl)]
    exact hmem
  case granted =>
    intro start len100 hstart
    refine ⟨s.modDsc fun d => { d with asks := answerAsk tag.toNat (some (s.dt + start.toNat, 100 * len100)) d.asks }, ?_, rfl, rfl⟩
    show execPeerGrant h tag start len100 s = _
    unfold execPeerGrant
    rw [State.peerRecord_ok _ _ _ _ hr, if_neg hstart, State.askAnswered_waits _ ha hb hqp hcid hopen hne]
  case timeout =>
    refine ⟨(s.advanceTo (a.sentAt + 2000)).modDsc fun d => { d with asks := answerAsk tag.toNat none d.asks }, ?_, rfl, rfl, rfl⟩
    show execPeerGrantTimeout tag s = _
    unfold execPeerGrantTimeout
    rw [ha]
    exact congrArg _ (State.askAnswered_waits (s := s.advanceTo _) none ha hb hqp hcid hopen hne)
  case replayed =>
    refine ⟨s.modWc fun w => { w with mirror := [], keepRestored := false }, ?_, rfl, rfl, rfl, rfl⟩
    show execReplayDone h n s = _
    unfold execReplayDone
    rw [State.peerRecord_ok _ _ _ _ hr, if_pos hk]
  case resynced =>
    refine ⟨(s.event 0x0A20 0 (mirrorNum .none) (mirrorNum .mirrored) 5 0).modWc fun w => { w with mirrorSt := .mirrored }, ?_, rfl, rfl, rfl⟩
    show execResyncDone h n s = _
    unfold execResyncDone State.setMirror
    rw [State.peerRecord_ok _ _ _ _ hr, if_pos ⟨hm, hpair⟩, hm, if_neg (by decide)]

end Sys2Proof.Machine
end

section
/-! PROOF. Digest contexts of DGE: opening, feeding, ending, release, timeout, and the lane a waiting context is given
(R162 to R166, R174). -/

namespace Sys2Proof.Machine

open Sys2Proof

/-! ## Tables and folds that keep one element -/

/-- What stands in a table after a key is set stood in it before, or was set. -/
theorem mem_of_mem_tput {α : Type} {t : Tbl α} {n : Nat} {v : α} {p : Nat × α} (h : p ∈ tput t n v) : p = (n, v) ∨ p ∈ t := by
  induction t with
  | nil => exact .inl (List.mem_singleton.mp h)
  | cons q t ih =>
    obtain ⟨k, w⟩ := q
    unfold tput at h
    split at h
    · exact List.mem_cons.mp h
    · split at h
      · exact (List.mem_cons.mp h).imp_right (List.mem_cons_of_mem _)
      · rcases List.mem_cons.mp h with rfl | h
        · exact .inr List.mem_cons_self
        · exact (ih h).imp_right (List.mem_cons_of_mem _)

/-- A fold that at each element takes it or keeps what it took before ends with an element of the list, if there is one. -/
theorem foldl_keeps_one {α : Type} {f : Option α → α → Option α} {l : List α} {a : Option α} (h : l.foldl f none = a)
    (hf : ∀ a x, f a x = some x ∨ a.isSome = true ∧ f a x = a) : l = [] ∧ a = none ∨ ∃ y ∈ l, a = some y := by
  subst h
  cases l with
  | nil => exact .inl ⟨rfl, rfl⟩
  | cons x xs =>
    have hx : f none x = some x := (hf none x).resolve_right fun h => nomatch h.1
    refine .inr (List.foldlRecOn (motive := fun a => ∃ y ∈ x :: xs, a = some y) xs f ⟨x, List.mem_cons_self, hx⟩ fun a ha y hy => ?_)
    rcases hf a y with h | ⟨-, h⟩
    · exact ⟨y, List.mem_cons_of_mem _ hy, h⟩
    · exact h.symm ▸ ha

/-! ## Lanes -/

/-- A lane that is free stays free when nobody waits; otherwise some context that waits runs on it (R164). -/
theorem Dge.giveLane_cases (d : Dge) (dt lane : Nat) :
    (∀ p ∈ d.ctx, p.2.lane = none → p.2.readyAt = none) ∧ d.giveLane dt lane = d ∨
    ∃ p ∈ d.ctx, p.2.lane = none ∧ p.2.readyAt.isSome = true ∧ d.giveLane dt lane =
      { d with ctx := tput d.ctx p.1 { p.2 with st := .running, lane := some lane, laneAt := dt, readyAt := none } } := by
  unfold Dge.giveLane
  dsimp only
  generalize hw : d.ctx.filter (fun x => x.2.readyAt.isSome && x.2.lane.isNone) = waiting
  generalize hbest : List.foldl _ none waiting = best
  have hstep := foldl_keeps_one hbest fun a x => by
    cases a with
    | none => exact .inl rfl
    | some y =>
      dsimp only
      split
      · exact .inl rfl
      · exact .inr ⟨rfl, rfl⟩
  rcases hstep with ⟨rfl, rfl⟩ | ⟨p, hp, rfl⟩
  · refine .inl ⟨fun p hp hl => ?_, rfl⟩
    simpa [hl] using List.filter_eq_nil_iff.mp hw p hp
  · obtain ⟨hmem, hwaits⟩ := List.mem_filter.mp (hw ▸ hp)
    obtain ⟨hready, hlane⟩ := Bool.and_eq_true_iff.mp hwaits
    exact .inr ⟨p, hmem, Option.isNone_iff_eq_none.mp hlane, hready, rfl⟩

/-- Giving a lane changes no context that does not wait. -/
theorem Dge.tget_giveLane {d : Dge} (dt lane : Nat) {n : Nat} (h : ∀ x, (n, x) ∈ d.ctx → x.readyAt = none) :
    tget (d.giveLane dt lane).ctx n = tget d.ctx n := by
  rcases d.giveLane_cases dt lane with ⟨-, heq⟩ | ⟨⟨k, x⟩, hmem, -, hready, heq⟩
  · rw [heq]
  · rw [heq]
    refine tget_tput_ne _ _ _ _ fun hk => ?_
    rw [h x (hk ▸ hmem)] at hready
    exact nomatch hready

/-- A context that ends stands as it ended, without a lane, where it held none or nobody waits for the one it held. -/
theorem Dge.tget_leave {d : Dge} (dt n : Nat) {x : DgeCtx} (h : x.lane = none ∨ ∀ y ∈ d.ctx, y.2.readyAt = none) :
    tget (d.leave dt n x).ctx n = some { x with lane := none, readyAt := none } := by
  unfold Dge.leave
  dsimp only
  split
  next l hl =>
    have hnone := h.resolve_left (by simp [hl])
    refine (Dge.tget_giveLane dt l fun y hy => ?_).trans (tget_tput_self _ _ _)
    rcases mem_of_mem_tput hy with heq | hmem
    · cases heq; rfl
    · exact hnone _ hmem
  next => exact tget_tput_self _ _ _

theorem Dge.ctxAt_eq {d : Dge} {n : Nat} {x : DgeCtx} (h : tget d.ctx n = some x) : d.ctxAt n = x := by
  rw [Dge.ctxAt, tgetD, h, Option.getD_some]

/-- A context without a lane that fails stands in ERROR, with no digest (R163, R165). -/
theorem State.tget_dgeFail {s : State} {n : Nat} {x : DgeCtx} (err : Nat) (hx : tget s.dge.ctx n = some x) (hl : x.lane = none) :
    tget (s.dgeFail n err).dge.ctx n =
      some { x with st := .error, err := err, digest := [], cmp := 0, msg := [], lane := none, readyAt := none } := by
  unfold State.dgeFail
  rw [Dge.ctxAt_eq hx]
  exact Dge.tget_leave s.dt n (.inl hl)

/-! ## The commands of a context -/

/-- An unopened context of the user's own range opens; a keyed algorithm needs a key that is there (R162, R163). -/
theorem exec_dgeCtxOpen {ctx : Fin 128} {s : State} (alg : Byte) {key : Option Nat} {declared : Nat} (expected : Option Bytes) (snoop : Bool)
    (hfree : tget s.dge.ctx ctx.val = none) (h1 : 1 ≤ alg.toNat) (h5 : alg.toNat ≤ 5) (hd : declared < 2 ^ 40)
    (hkey : algKeyed alg.toNat = true → (key.bind s.dge.keyOf).isSome = true) :
    exec (.dgeCtxOpen ctx (BitVec.ofNat 8 (ctxUser ctx.val)) alg key declared expected snoop) s = .next (s.modDge fun d =>
      { d with ctx := tput d.ctx ctx.val { st := .opened, alg := alg.toNat, key := if algKeyed alg.toNat then key else none,
                                           declared := declared, expected := expected, snoop := snoop, owner := ctxUser ctx.val,
                                           lastFeed := s.dt, timeoutUs := s.dge.feedTimeout } }) := by
  have huser : (BitVec.ofNat 8 (ctxUser ctx.val)).toNat = ctxUser ctx.val := by
    unfold ctxUser
    split
    · rfl
    · split <;> rfl
  have hkept : ¬(algKeyed alg.toNat = true ∧ (key.bind s.dge.keyOf).isNone = true) := fun ⟨hk, hnone⟩ =>
    absurd (hkey hk) (by simp [Option.isNone_iff_eq_none.mp hnone])
  show execDgeCtxOpen ctx _ alg key declared expected snoop s = _
  unfold execDgeCtxOpen
  rw [huser]
  dsimp only
  rw [if_neg (by simp [hfree]; omega)]
  exact congrArg _ (if_neg hkept)

section
variable {ctx : Fin 128} {s : State} {x : DgeCtx} (hx : tget s.dge.ctx ctx.val = some x)
  (hopen : x.st = .opened ∨ x.st = .running ∨ x.st = .saved)
include hopen

/-- The commands' guard against a context that is not open. -/
theorem DgeCtx.not_shut : ¬(x.st ≠ .opened ∧ x.st ≠ .running ∧ x.st ≠ .saved) := fun ⟨ho, hr, hs⟩ =>
  hopen.elim ho (·.elim hr hs)

include hx

/-- Bytes within the declared length join the message; beside that a feed may only give the context a lane or have it wait (R164, R165). -/
theorem exec_dgeCtxFeed (seg : Bytes) (hlen : x.fed + seg.length ≤ x.declared) :
    ∃ st lane laneAt readyAt, exec (.dgeCtxFeed ctx seg) s = .next (s.modDge fun d =>
      { d with ctx := tput d.ctx ctx.val { x with msg := x.msg ++ seg, fed := x.fed + seg.length, lastFeed := s.dt,
                                                  timeoutUs := s.dge.feedTimeout, st := st, lane := lane, laneAt := laneAt,
                                                  readyAt := readyAt } }) := by
  show ∃ st lane laneAt readyAt, execDgeCtxFeed ctx seg s = _
  unfold execDgeCtxFeed
  rw [Dge.ctxAt_eq hx]
  dsimp only
  rw [if_neg (DgeCtx.not_shut hopen), if_neg (Nat.not_lt.mpr hlen)]
  split
  · exact ⟨_, _, _, _, rfl⟩
  · split <;> exact ⟨_, _, _, _, rfl⟩

/-- With the declared length reached and the key there, the context ends in DONE (R163, R166, R174). -/
theorem exec_dgeCtxFinal {k : Bytes} (hlen : x.declared ≤ x.fed)
    (hk : (if algKeyed x.alg then x.key.bind s.dge.keyOf else some []) = some k) :
    exec (.dgeCtxFinal ctx) s = .next (s.modDge fun d => d.leave s.dt ctx.val
      { x with st := .done, digest := digestOf x.alg k x.msg, msg := [],
               cmp := match x.expected with | some e => if e = digestOf x.alg k x.msg then 0xA55A else 0x5AA5 | none => 0 }) := by
  show execDgeCtxFinal ctx s = _
  unfold execDgeCtxFinal
  rw [Dge.ctxAt_eq hx]
  dsimp only
  rw [if_neg (DgeCtx.not_shut hopen), if_neg (Nat.not_lt.mpr hlen), hk]
  have hcmp : (match x.expected with | some e => compareWord (e == digestOf x.alg k x.msg) | none => 0) =
      match x.expected with | some e => if e = digestOf x.alg k x.msg then 0xA55A else 0x5AA5 | none => 0 := by
    cases x.expected with
    | none => rfl
    | some e => simp only [compareWord, beq_iff_eq]
  exact congrArg (fun c => Host.Outcome.next (s.modDge fun d => d.leave s.dt ctx.val
    { x with st := .done, digest := digestOf x.alg k x.msg, cmp := c, msg := [] })) hcmp

/-- A silence with bytes short ends the context (R165). -/
theorem exec_dgeFeedTimeout (hpos : 0 < x.fed) (hshort : x.fed < x.declared) :
    exec (.dgeFeedTimeout ctx) s =
      .next ((s.advanceTo (x.lastFeed + usNs x.timeoutUs)).dgeFail ctx.val (if x.snoop then 3 else 1)) := by
  show execDgeFeedTimeout ctx s = _
  unfold execDgeFeedTimeout
  rw [Dge.ctxAt_eq hx]
  dsimp only
  refine if_neg fun h => ?_
  rcases h with h | h | h
  · exact DgeCtx.not_shut hopen h
  · omega
  · omega

end

/-- A release leaves no context, whoever gets the lane it held (R163). -/
theorem exec_dgeCtxRelease (ctx : Fin 128) (s : State) :
    ∃ d, exec (.dgeCtxRelease ctx) s = .next (s.modDge fun _ => d) ∧ tget d.ctx ctx.val = none := by
  refine ⟨_, rfl, ?_⟩
  split
  · refine (Dge.tget_giveLane _ _ fun x hmem => ?_).trans (tget_tdel_self _ _)
    exact absurd (List.mem_filter.mp hmem).2 (by simp)
  · exact tget_tdel_self _ _

/-- A lane open to contexts that runs none is given away at its block boundary (R164). -/
theorem exec_dgeBlockBoundary_idle {lane : Fin 32} {s : State} (hopen : s.dge.openLanes.contains lane.val = true)
    (hidle : ∀ y ∈ s.dge.ctx, y.2.lane ≠ some lane.val) :
    exec (.dgeBlockBoundary lane) s = .next (s.modDge fun d => d.giveLane s.dt lane.val) := by
  have hfind : s.dge.ctx.find? (fun y => y.2.lane == some lane.val) = none :=
    List.find?_eq_none.mpr fun y hy => by simpa using hidle y hy
  show execDgeBlockBoundary lane s = _
  unfold execDgeBlockBoundary
  dsimp only
  rw [if_neg (by rw [hopen]; decide), hfind]

/-! ## The statement -/

/-- Settles O33: each command of a context by what it leaves of that context; a lane with one context waiting runs that one. -/
theorem digestContextsHashWhatTheyAreFed : Obligations.DigestContextsHashWhatTheyAreFed := by
  intro ctx s
  refine ⟨fun alg key declared expected snoop hfree h1 h5 hd hkey => ?opened, fun x seg hx hopen hlen => ?fed,
    fun x k hx hopen hlen hk hlane => ?done, ?released, fun x hx hopen hpos hshort hlane => ?silent,
    fun lane x w hlanes hctx hlane hready => ?served⟩
  case opened =>
    exact ⟨_, exec_dgeCtxOpen alg expected snoop hfree h1 h5 hd hkey, tget_tput_self _ _ _, fun k hk => tget_tput_ne _ _ _ _ hk, rfl⟩
  case fed =>
    obtain ⟨st, lane, laneAt, readyAt, hexec⟩ := exec_dgeCtxFeed hx hopen seg hlen
    exact ⟨_, _, hexec, tget_tput_self _ _ _, rfl, rfl, rfl, rfl, fun k hk => tget_tput_ne _ _ _ _ hk, rfl⟩
  case done =>
    exact ⟨_, _, exec_dgeCtxFinal hx hopen hlen hk, Dge.tget_leave s.dt ctx.val hlane, rfl, rfl, rfl, rfl⟩
  case released =>
    obtain ⟨d, hexec, hgone⟩ := exec_dgeCtxRelease ctx s
    exact ⟨_, hexec, hgone, rfl⟩
  case silent =>
    exact ⟨_, _, exec_dgeFeedTimeout hx hopen hpos hshort, rfl,
      State.tget_dgeFail (s := s.advanceTo (x.lastFeed + usNs x.timeoutUs)) _ hx hlane, rfl, rfl, rfl, rfl⟩
  case served =>
    refine ⟨_, exec_dgeBlockBoundary_idle hlanes (by simp [hctx, hlane]), ?_, rfl⟩
    rcases s.dge.giveLane_cases s.dt lane.val with ⟨hnone, -⟩ | ⟨p, hp, -, -, hgive⟩
    · have hidle := hnone (ctx.val, x) (by simp [hctx]) hlane
      exact nomatch hready.symm.trans hidle
    · cases List.mem_singleton.mp (hctx ▸ hp)
      exact (congrArg (fun d : Dge => tget d.ctx ctx.val) hgive).trans (tget_tput_self _ _ _)

end Sys2Proof.Machine
end

section
/-! PROOF. A partition refilled on a returning head lets it take the group of a failback batch that waited for the copy (R192, R341), which
the statement on stream contexts leaves out. -/

namespace Sys2Proof.Machine

open Sys2Proof

/-- Head A on its return: HANDOVER phase 2 has come for group 0, whose records its peer has released, and the head has not taken the group
because the copy of domain 0, which lies in it, is LOADING. Bridge 0 holds the records and is reached. -/
def returningHead : State :=
  { State.reset with
    dt := 5000000
    link := { lanes := [(32, { st := .active })] }
    dxu := { doms := [(0, { pool := 0, group := 0, capLog2 := 10, verify := true, st := .loading })] }
    ha := { role := .standby, bridges := [0], failback := some { startAt := 0, first := 0, phase := 2, groups := [0], dies := 0 } }
    rot := { ready := true } }

/-- The refill begins a round on the lease record of the group: bridge 0 is asked for it. -/
theorem exec_partitionRefilled_returningHead :
    ∃ t, exec (.partitionRefilled 0 0) returningHead = .next t ∧ t.ha.leases = [(0, { asked := [0], roundAt := 5000000 })] :=
  ⟨_, rfl, rfl⟩

/-- Refutes O34: its last clause says that a refill touches no more than the domain, the notices and the log, while one that a failback batch
waited for also begins a round on the lease record of the group. -/
theorem not_streamContextsCodeTheirBlocks : ¬ Obligations.StreamContextsCodeTheirBlocks := by
  intro hall
  obtain ⟨-, -, -, -, -, hrefill⟩ := hall 0 returningHead
  obtain ⟨t, hexec, -, hframe⟩ := hrefill 0 0 _ rfl (.inl rfl)
  obtain ⟨u, hexec', htaken⟩ := exec_partitionRefilled_returningHead
  obtain rfl : u = t := Host.Outcome.next.inj (hexec'.symm.trans hexec)
  have hleft := congrArg (·.ha.leases) hframe
  exact nomatch htaken.symm.trans hleft

end Sys2Proof.Machine
end

section
/-! PROOF. The arithmetic of PXE (R261): `gmul` is the product of a field of 256 bytes whose non-zero elements are the 255 powers of g. -/

namespace Sys2Proof.Machine

open Sys2Proof

/-! ## Doubling and the product are linear -/

@[simp] theorem gDouble_zero : gDouble 0#8 = 0#8 := rfl

theorem gDouble_eq_shiftLeft_xor (a : Byte) : gDouble a = a <<< 1 ^^^ (if a.getLsbD 7 then 0x1D else 0) := by
  unfold gDouble
  split <;> simp

theorem gDouble_xor (a b : Byte) : gDouble (a ^^^ b) = gDouble a ^^^ gDouble b := by
  have hred : ∀ p q : Bool, (if p ^^ q then 0x1D else 0 : Byte) = (if p then 0x1D else 0) ^^^ (if q then 0x1D else 0) := by decide
  rw [gDouble_eq_shiftLeft_xor, gDouble_eq_shiftLeft_xor, gDouble_eq_shiftLeft_xor, BitVec.shiftLeft_xor_distrib, BitVec.getLsbD_xor, hred]
  ac_rfl

theorem gMul_xor_left (n : Nat) (a a' b : Byte) : gMul n (a ^^^ a') b = gMul n a b ^^^ gMul n a' b := by
  induction n generalizing a a' b with
  | zero => simp [gMul]
  | succ n ih =>
    have hbit : (if b.getLsbD 0 then a ^^^ a' else 0) = (if b.getLsbD 0 then a else 0) ^^^ (if b.getLsbD 0 then a' else 0) := by
      split <;> simp
    simp only [gMul, gDouble_xor, ih, hbit]
    ac_rfl

theorem gMul_xor_right (n : Nat) (a b b' : Byte) : gMul n a (b ^^^ b') = gMul n a b ^^^ gMul n a b' := by
  induction n generalizing a b b' with
  | zero => simp [gMul]
  | succ n ih =>
    have hbit : ∀ p q : Bool, (if p ^^ q then a else 0) = (if p then a else 0) ^^^ (if q then a else 0) := by
      intro p q
      cases p <;> cases q <;> simp
    simp only [gMul, BitVec.ushiftRight_xor_distrib, ih, BitVec.getLsbD_xor, hbit]
    ac_rfl

theorem gMul_gDouble_left (n : Nat) (a b : Byte) : gMul n (gDouble a) b = gDouble (gMul n a b) := by
  induction n generalizing a b with
  | zero => simp [gMul]
  | succ n ih =>
    have hbit : (if b.getLsbD 0 then gDouble a else 0) = gDouble (if b.getLsbD 0 then a else 0) := by
      split <;> simp
    simp only [gMul, gDouble_xor, ih, hbit]

theorem gmul_xor_left (a b c : Byte) : gmul (a ^^^ b) c = gmul a c ^^^ gmul b c := gMul_xor_left 8 a b c

theorem gmul_xor_right (a b c : Byte) : gmul a (b ^^^ c) = gmul a b ^^^ gmul a c := gMul_xor_right 8 a b c

theorem gmul_gDouble_left (a b : Byte) : gmul (gDouble a) b = gDouble (gmul a b) := gMul_gDouble_left 8 a b

@[simp] theorem gmul_zero_right (a : Byte) : gmul a 0#8 = 0#8 := by
  simpa using gmul_xor_right a 0 0

@[simp] theorem gmul_zero_left (b : Byte) : gmul 0#8 b = 0#8 := by
  simpa using gmul_xor_left 0 0 b

@[simp] theorem gmul_one_left (b : Byte) : gmul 1#8 b = b :=
  (by decide : ∀ b : Byte, gmul 1#8 b = b) b

/-! ## The powers of g

They are what doubling makes of 1, so they multiply by adding exponents. -/

theorem gDouble_eq_gmul_two (a : Byte) : gDouble a = gmul 2 a := by
  rw [show (2 : Byte) = gDouble 1#8 from rfl, gmul_gDouble_left, gmul_one_left]

@[simp] theorem gPow_zero : gPow 0 = 1#8 := rfl

theorem gPow_add (i j : Nat) : gPow (i + j) = gmul (gPow i) (gPow j) := by
  induction i with
  | zero => simp
  | succ i ih => rw [Nat.succ_add, gPow, gPow, ih, gmul_gDouble_left]

theorem gPow_255 : gPow 255 = 1#8 := by decide +kernel

theorem gPow_255_mul (q : Nat) : gPow (255 * q) = 1#8 := by
  induction q with
  | zero => rfl
  | succ q ih => rw [Nat.mul_succ, gPow_add, ih, gPow_255, gmul_one_left]

theorem gPow_ne_one : ∀ j < 255, 0 < j → gPow j ≠ 1#8 := by decide +kernel

/-- Two equal powers, both taken 255 - i further, give a power j - i that is 1. -/
theorem gPow_ne_gPow {i j : Nat} (hlt : i < j) (hj : j < 255) : gPow i ≠ gPow j := by
  intro heq
  refine gPow_ne_one (j - i) (by omega) (by omega) ?_
  calc gPow (j - i) = gPow (255 + (j - i)) := by rw [gPow_add, gPow_255, gmul_one_left]
    _ = gPow (255 - i + j) := by rw [show 255 + (j - i) = 255 - i + j by omega]
    _ = gPow (255 - i + i) := by rw [gPow_add, ← heq, gPow_add]
    _ = 1#8 := by rw [show 255 - i + i = 255 by omega, gPow_255]

theorem gmul_gPow_gNeg (j : Nat) : gmul (gPow j) (gNeg j) = 1#8 := by
  have hq : j + (255 - j % 255) % 255 = 255 * ((j + 254) / 255) := by omega
  rw [gNeg, ← gPow_add, hq, gPow_255_mul]

theorem gPow_ne_zero (j : Nat) : gPow j ≠ 0#8 := by
  intro hzero
  have hone := gmul_gPow_gNeg j
  rw [hzero, gmul_zero_left] at hone
  exact absurd hone (by decide)

/-- The bytes 0, a and the 255 distinct powers of g would be 257 if a were none of the others. -/
theorem exists_gPow_eq {a : Byte} (h : a ≠ 0#8) : ∃ j, gPow j = a := by
  by_cases hmem : a ∈ (List.range 255).map gPow
  · obtain ⟨j, -, hj⟩ := List.mem_map.1 hmem
    exact ⟨j, hj⟩
  have hpowers : ((List.range 255).map gPow).Nodup :=
    List.pairwise_map.2 (List.pairwise_lt_range.imp_of_mem fun _ hj hlt => gPow_ne_gPow hlt (List.mem_range.1 hj))
  have hzero : 0#8 ∉ a :: (List.range 255).map gPow := by
    intro hin
    rcases List.mem_cons.1 hin with hin | hin
    · exact h hin.symm
    · obtain ⟨j, -, hj⟩ := List.mem_map.1 hin
      exact gPow_ne_zero j hj
  have hsub : 0#8 :: a :: (List.range 255).map gPow ⊆ (List.range 256).map (BitVec.ofNat 8) := fun b _ =>
    List.mem_map.2 ⟨b.toNat, List.mem_range.2 b.isLt, (BitVec.ofNat_toNat 8 b).trans (BitVec.setWidth_eq b)⟩
  have hcount := (List.nodup_cons.2 ⟨hzero, List.nodup_cons.2 ⟨hmem, hpowers⟩⟩).length_le_of_subset hsub
  simp only [List.length_cons, List.length_map, List.length_range] at hcount
  omega

/-! ## The product, through the powers of g -/

theorem gmul_comm (a b : Byte) : gmul a b = gmul b a := by
  by_cases ha : a = 0#8
  · simp [ha]
  by_cases hb : b = 0#8
  · simp [hb]
  obtain ⟨i, rfl⟩ := exists_gPow_eq ha
  obtain ⟨j, rfl⟩ := exists_gPow_eq hb
  rw [← gPow_add, ← gPow_add, Nat.add_comm]

@[simp] theorem gmul_one_right (a : Byte) : gmul a 1#8 = a := by
  rw [gmul_comm, gmul_one_left]

theorem gmul_assoc (a b c : Byte) : gmul (gmul a b) c = gmul a (gmul b c) := by
  by_cases ha : a = 0#8
  · simp [ha]
  obtain ⟨i, rfl⟩ := exists_gPow_eq ha
  induction i with
  | zero => simp
  | succ i ih => rw [gPow, gmul_gDouble_left, gmul_gDouble_left, gmul_gDouble_left, ih (gPow_ne_zero i)]

/-! ## The inverse -/

theorem foldl_gmul_gPow (i n : Nat) (x : Byte) : (List.range n).foldl (fun x _ => gmul x (gPow i)) x = gmul x (gPow (i * n)) := by
  induction n with
  | zero => simp
  | succ n ih => rw [List.range_succ, List.foldl_append, ih, List.foldl_cons, List.foldl_nil, gmul_assoc, ← gPow_add, Nat.mul_succ]

theorem gmul_gInv {a : Byte} (h : a ≠ 0#8) : gmul a (gInv a) = 1#8 := by
  obtain ⟨i, rfl⟩ := exists_gPow_eq h
  rw [gInv, foldl_gmul_gPow, ← gPow_add, ← gPow_add, show i + (i + i * 253) = 255 * i by omega, gPow_255_mul]

/-! ## The statement -/

/-- R261 speaks of a shift within nine bits, the model of one within eight. -/
theorem gDouble_eq_shiftLeft_wide (a : Byte) :
    gDouble a = (if (a.setWidth 9 <<< 1).getLsbD 8 then a.setWidth 9 <<< 1 ^^^ 0x11D else a.setWidth 9 <<< 1 : BitVec 9).setWidth 8 :=
  (by decide : ∀ a : Byte, gDouble a =
    (if (a.setWidth 9 <<< 1).getLsbD 8 then a.setWidth 9 <<< 1 ^^^ 0x11D else a.setWidth 9 <<< 1 : BitVec 9).setWidth 8) a

/-- Settles O58: every byte other than 0 is a power of g, so the laws of the product are those of adding exponents modulo 255. -/
theorem theFieldOfTheParity : Obligations.TheFieldOfTheParity :=
  ⟨fun _ _ => rfl,
    fun a b c => ⟨gmul_comm a b, gmul_assoc a b c, gmul_xor_right a b c, gmul_one_left a⟩,
    fun _ => gmul_gInv,
    fun a => (gDouble_eq_gmul_two a).symm.trans (gDouble_eq_shiftLeft_wide a),
    gPow_zero, fun j => gDouble_eq_gmul_two (gPow j), gPow_255,
    fun _ _ => gPow_ne_gPow,
    by decide, gmul_gPow_gNeg⟩

end Sys2Proof.Machine
end

section
/-! PROOF. P and Q recover a stripe (R262, R264). What the members read leave of P and of Q is the XOR of the lost data members, plain in P and
times g^j in Q; one member is read off, and two are solved for. -/

namespace Sys2Proof.Machine

open Sys2Proof

/-! ## XOR of byte strings, and their product with a byte -/

@[simp] theorem xorBytes_nil_left (b : Bytes) : xorBytes [] b = b := by
  induction b with
  | nil => rfl
  | cons y b ih => simpa [xorBytes, List.replicate_succ] using ih

@[simp] theorem xorBytes_nil_right (a : Bytes) : xorBytes a [] = a := by
  induction a with
  | nil => rfl
  | cons x a ih => simpa [xorBytes, List.replicate_succ] using ih

@[simp] theorem xorBytes_cons_cons (x y : Byte) (a b : Bytes) : xorBytes (x :: a) (y :: b) = (x ^^^ y) :: xorBytes a b := by
  simp [xorBytes]

@[simp] theorem length_xorBytes (a b : Bytes) : (xorBytes a b).length = max a.length b.length := by
  simp only [xorBytes, List.length_zipWith, List.length_append, List.length_replicate]
  omega

theorem xorBytes_comm (a b : Bytes) : xorBytes a b = xorBytes b a := by
  induction a generalizing b with
  | nil => simp
  | cons x a ih =>
    cases b with
    | nil => simp
    | cons y b => rw [xorBytes_cons_cons, xorBytes_cons_cons, ih, BitVec.xor_comm]

theorem xorBytes_assoc (a b c : Bytes) : xorBytes (xorBytes a b) c = xorBytes a (xorBytes b c) := by
  induction a generalizing b c with
  | nil => simp
  | cons x a ih =>
    cases b with
    | nil => simp
    | cons y b =>
      cases c with
      | nil => simp
      | cons z c => simp only [xorBytes_cons_cons, ih, BitVec.xor_assoc]

theorem xorBytes_right_comm (a b c : Bytes) : xorBytes (xorBytes a b) c = xorBytes (xorBytes a c) b := by
  rw [xorBytes_assoc, xorBytes_comm b, xorBytes_assoc]

theorem xorBytes_xorBytes_cancel {a b : Bytes} (h : b.length ≤ a.length) : xorBytes (xorBytes a b) b = a := by
  induction a generalizing b with
  | nil => simp [List.length_eq_zero_iff.1 (Nat.le_zero.1 h)]
  | cons x a ih =>
    cases b with
    | nil => simp
    | cons y b => rw [xorBytes_cons_cons, xorBytes_cons_cons, ih (Nat.le_of_succ_le_succ h), BitVec.xor_assoc, BitVec.xor_self, BitVec.xor_zero]

theorem gmul_gNeg_gPow (j : Nat) : gmul (gNeg j) (gPow j) = 1#8 := by
  rw [gmul_comm, gmul_gPow_gNeg]

@[simp] theorem length_scaleBytes (c : Byte) (a : Bytes) : (scaleBytes c a).length = a.length := List.length_map _

@[simp] theorem scaleBytes_one (a : Bytes) : scaleBytes 1#8 a = a :=
  (List.map_congr_left fun x _ => gmul_one_left x).trans (List.map_id' a)

theorem scaleBytes_scaleBytes (c c' : Byte) (a : Bytes) : scaleBytes c (scaleBytes c' a) = scaleBytes (gmul c c') a := by
  simp [scaleBytes, gmul_assoc]

theorem scaleBytes_xor (c c' : Byte) (a : Bytes) : scaleBytes (c ^^^ c') a = xorBytes (scaleBytes c a) (scaleBytes c' a) := by
  induction a with
  | nil => rfl
  | cons x a ih => simpa [scaleBytes, gmul_xor_left] using ih

theorem scaleBytes_xorBytes (c : Byte) (a b : Bytes) : scaleBytes c (xorBytes a b) = xorBytes (scaleBytes c a) (scaleBytes c b) := by
  induction a generalizing b with
  | nil => simp [scaleBytes]
  | cons x a ih =>
    cases b with
    | nil => simp [scaleBytes]
    | cons y b => simpa [scaleBytes, gmul_xor_right] using ih b

/-! ## XOR of many byte strings -/

/-- The XOR of a list of byte strings: P is that of the data members, Q that of their products with the powers of g. -/
def xorAll (l : List Bytes) : Bytes := l.foldr xorBytes []

@[simp] theorem xorAll_nil : xorAll [] = [] := rfl

@[simp] theorem xorAll_cons (a : Bytes) (l : List Bytes) : xorAll (a :: l) = xorBytes a (xorAll l) := rfl

theorem foldl_xorBytes (a : Bytes) (l : List Bytes) : l.foldl xorBytes a = xorBytes a (xorAll l) := by
  induction l generalizing a with
  | nil => exact (xorBytes_nil_right a).symm
  | cons b l ih => rw [List.foldl_cons, ih, xorAll_cons, xorBytes_assoc]

theorem foldl_xorBytes_nil (l : List Bytes) : l.foldl xorBytes [] = xorAll l := by
  rw [foldl_xorBytes, xorBytes_nil_left]

theorem parityP_eq_xorAll (ds : List (Nat × Bytes)) : parityP ds = xorAll (ds.map (·.2)) := by
  rw [← foldl_xorBytes_nil, List.foldl_map, parityP]

theorem parityQ_eq_xorAll (ds : List (Nat × Bytes)) : parityQ ds = xorAll (ds.map fun d => scaleBytes (gPow d.1) d.2) := by
  rw [← foldl_xorBytes_nil, List.foldl_map, parityQ]

theorem xorAll_append (l l' : List Bytes) : xorAll (l ++ l') = xorBytes (xorAll l) (xorAll l') := by
  induction l with
  | nil => simp
  | cons a l ih => rw [List.cons_append, xorAll_cons, xorAll_cons, ih, xorBytes_assoc]

theorem xorAll_perm {l l' : List Bytes} (h : l.Perm l') : xorAll l = xorAll l' :=
  h.foldr_eq' (fun a _ b _ c => by rw [← xorBytes_assoc, xorBytes_comm b, xorBytes_assoc]) []

theorem length_xorAll_le {n : Nat} {l : List Bytes} (h : ∀ a ∈ l, a.length = n) : (xorAll l).length ≤ n := by
  induction l with
  | nil => exact Nat.zero_le n
  | cons a l ih =>
    obtain ⟨ha, hl⟩ := List.forall_mem_cons.1 h
    rw [xorAll_cons, length_xorBytes, ha]
    exact Nat.max_le.2 ⟨Nat.le_refl n, ih hl⟩

/-- The XOR over a whole list, with that over the part that was read taken out again, is the XOR over the rest, which is not empty. -/
theorem xorBytes_xorAll_filter {n : Nat} (f : Nat → Bytes) (hlen : ∀ i, (f i).length = n) (kept : Nat → Bool) {l : List Nat}
    (hlost : l.filter (fun i => !kept i) ≠ []) :
    xorBytes (xorAll (l.map f)) (xorAll ((l.filter kept).map f)) = xorAll ((l.filter fun i => !kept i).map f) := by
  have hsplit := xorAll_perm ((List.filter_append_perm kept l).map f)
  rw [List.map_append, xorAll_append, xorBytes_comm] at hsplit
  rw [← hsplit, xorBytes_xorBytes_cancel]
  have hkept : (xorAll ((l.filter kept).map f)).length ≤ n := length_xorAll_le (List.forall_mem_map.2 fun i _ => hlen i)
  obtain ⟨i, rest, hrest⟩ := List.exists_cons_of_ne_nil hlost
  simp only [hrest, List.map_cons, xorAll_cons, length_xorBytes, hlen]
  omega

/-! ## A stripe and what is left of it -/

section Stripe

variable {k n : Nat} {d : Nat → Bytes} {kept : Nat → Bool}

/-- The data members of a stripe, of a list of their indices. -/
def membersAt (d : Nat → Bytes) (l : List Nat) : List (Nat × Bytes) := l.map fun i => (i, d i)

/-- The members of a stripe (R262): the data, P and Q. -/
def stripe (k : Nat) (d : Nat → Bytes) : List (Nat × Bytes) :=
  membersAt d (List.range k) ++ [(k, parityP (membersAt d (List.range k))), (k + 1, parityQ (membersAt d (List.range k)))]

/-- The members of a stripe that are kept when the others are lost. -/
def survivors (k : Nat) (d : Nat → Bytes) (kept : Nat → Bool) : List (Nat × Bytes) := (stripe k d).filter fun m => kept m.1

/-- The indices of the data members that are lost. -/
def lostData (k : Nat) (kept : Nat → Bool) : List Nat := (List.range k).filter fun i => !kept i

theorem parityP_membersAt (l : List Nat) : parityP (membersAt d l) = xorAll (l.map d) := by
  simp [parityP_eq_xorAll, membersAt, Function.comp_def]

theorem parityQ_membersAt (l : List Nat) : parityQ (membersAt d l) = xorAll (l.map fun i => scaleBytes (gPow i) (d i)) := by
  simp [parityQ_eq_xorAll, membersAt, Function.comp_def]

theorem find?_membersAt_range (m : Nat) :
    (membersAt d (List.range k)).find? (fun x => x.1 == m) = if m < k then some (m, d m) else none := by
  have hindex : (List.range k).find? (fun i => i == m) = if m < k then some m else none := by
    split
    · next h => exact List.find?_range_eq_some.2 ⟨beq_self_eq_true m, List.mem_range.2 h, fun j hj => by simpa using Nat.ne_of_lt hj⟩
    · next h => exact List.find?_eq_none.2 fun i hi => by simpa using Nat.ne_of_lt (Nat.lt_of_lt_of_le (List.mem_range.1 hi) (Nat.not_lt.1 h))
  rw [membersAt, List.find?_map, Function.comp_def, hindex]
  split <;> rfl

theorem find?_stripe_data {m : Nat} (h : m < k) : (stripe k d).find? (fun x => x.1 == m) = some (m, d m) := by
  simp [stripe, find?_membersAt_range, h]

theorem find?_stripe_P : (stripe k d).find? (fun x => x.1 == k) = some (k, parityP (membersAt d (List.range k))) := by
  simp [stripe, find?_membersAt_range]

theorem find?_stripe_Q : (stripe k d).find? (fun x => x.1 == k + 1) = some (k + 1, parityQ (membersAt d (List.range k))) := by
  have hk : ¬ k + 1 < k := by omega
  simp [stripe, find?_membersAt_range, hk]

theorem find?_survivors (m : Nat) :
    (survivors k d kept).find? (fun x => x.1 == m) = if kept m then (stripe k d).find? (fun x => x.1 == m) else none := by
  rw [survivors, List.find?_filter]
  split
  · next h => exact congrArg (fun p => (stripe k d).find? p) (funext fun x => by grind)
  · next h => exact List.find?_eq_none.2 fun x _ => by grind

theorem filter_data_survivors : (survivors k d kept).filter (fun x => x.1 < k) = membersAt d ((List.range k).filter kept) := by
  have hdata : (List.range k).filter (fun i => decide (i < k) && kept i) = (List.range k).filter kept :=
    List.filter_congr fun i hi => by simp [List.mem_range.1 hi]
  rw [survivors, List.filter_filter, stripe, List.filter_append, membersAt, List.filter_map, Function.comp_def, hdata]
  have hk : ¬ k + 1 < k := by omega
  simp [membersAt, hk]

theorem filter_gone_survivors :
    (List.range k).filter (fun i => !(membersAt d ((List.range k).filter kept)).any fun x => x.1 == i) = lostData k kept := by
  refine List.filter_congr fun i hi => congrArg not (Bool.eq_iff_iff.2 ?_)
  simp [membersAt, List.mem_range.1 hi]

/-- P′ is the XOR of the lost data members (R264). -/
theorem xorBytes_parityP_survivors (hlen : ∀ i, (d i).length = n) (hlost : lostData k kept ≠ []) :
    xorBytes (parityP (membersAt d (List.range k))) (parityP (membersAt d ((List.range k).filter kept))) = xorAll ((lostData k kept).map d) := by
  rw [parityP_membersAt, parityP_membersAt]
  exact xorBytes_xorAll_filter d hlen kept hlost

/-- Q′ is the XOR of the lost data members, each times its power of g (R264). -/
theorem xorBytes_parityQ_survivors (hlen : ∀ i, (d i).length = n) (hlost : lostData k kept ≠ []) :
    xorBytes (parityQ (membersAt d (List.range k))) (parityQ (membersAt d ((List.range k).filter kept))) =
      xorAll ((lostData k kept).map fun i => scaleBytes (gPow i) (d i)) := by
  rw [parityQ_membersAt, parityQ_membersAt]
  exact xorBytes_xorAll_filter _ (fun i => (length_scaleBytes _ _).trans (hlen i)) kept hlost

/-! ## The lost data members -/

/-- One data member is lost, and P is there. -/
theorem recover_of_parityP {x : Nat} (hlen : ∀ i, (d i).length = n) (hlost : lostData k kept = [x]) (hP : kept k) :
    recover k x (survivors k d kept) = some (d x) := by
  have hp := xorBytes_parityP_survivors (k := k) (kept := kept) hlen (by simp [hlost])
  simp [recover, filter_data_survivors, filter_gone_survivors, find?_survivors, hP, find?_stripe_P, hlost, hp]

/-- One data member is lost, and P with it. -/
theorem recover_of_parityQ {x : Nat} (hlen : ∀ i, (d i).length = n) (hlost : lostData k kept = [x]) (hP : kept k = false)
    (hQ : kept (k + 1)) : recover k x (survivors k d kept) = some (d x) := by
  have hq := xorBytes_parityQ_survivors (k := k) (kept := kept) hlen (by simp [hlost])
  simp [recover, filter_data_survivors, filter_gone_survivors, find?_survivors, hP, hQ, find?_stripe_Q, hlost, hq, scaleBytes_scaleBytes,
    gmul_gNeg_gPow]

/-- R264's formula for the first of two lost data members, a of index lo and b of index lo + e. -/
theorem scaleBytes_gInv_solves {a b : Bytes} {lo e : Nat} (hlen : a.length = b.length) (he : 0 < e) (he' : e < 255) :
    scaleBytes (gInv (gPow e ^^^ 1#8)) (xorBytes (scaleBytes (gPow e) (xorBytes a b))
      (scaleBytes (gNeg lo) (xorBytes (scaleBytes (gPow lo) a) (scaleBytes (gPow (lo + e)) b)))) = a := by
  have hdiv : gPow e ^^^ 1#8 ≠ 0#8 := fun h => gPow_ne_one e he' he (BitVec.xor_eq_zero_iff.1 h)
  have hhi : gmul (gNeg lo) (gPow (lo + e)) = gPow e := by rw [gPow_add, ← gmul_assoc, gmul_gNeg_gPow, gmul_one_left]
  calc _ = scaleBytes (gInv (gPow e ^^^ 1#8)) (xorBytes (xorBytes (xorBytes (scaleBytes (gPow e) a) a) (scaleBytes (gPow e) b))
          (scaleBytes (gPow e) b)) := by
        rw [scaleBytes_xorBytes (gPow e), scaleBytes_xorBytes (gNeg lo), scaleBytes_scaleBytes, scaleBytes_scaleBytes, gmul_gNeg_gPow, hhi,
          scaleBytes_one, ← xorBytes_assoc, xorBytes_right_comm _ _ a]
    _ = scaleBytes (gInv (gPow e ^^^ 1#8)) (scaleBytes (gPow e ^^^ 1#8) a) := by
        rw [xorBytes_xorBytes_cancel (by simp [hlen]), scaleBytes_xor, scaleBytes_one]
    _ = a := by rw [scaleBytes_scaleBytes, gmul_comm, gmul_gInv hdiv, scaleBytes_one]

/-- Two data members are lost, and P and Q are there. -/
theorem recover_of_parityP_parityQ {lo hi : Nat} (hlen : ∀ i, (d i).length = n) (hlt : lo < hi) (hhi : hi < 255)
    (hlost : lostData k kept = [lo, hi]) (hP : kept k) (hQ : kept (k + 1)) :
    recover k lo (survivors k d kept) = some (d lo) ∧ recover k hi (survivors k d kept) = some (d hi) := by
  have hp := xorBytes_parityP_survivors (k := k) (kept := kept) hlen (by simp [hlost])
  have hq := xorBytes_parityQ_survivors (k := k) (kept := kept) hlen (by simp [hlost])
  have hsolve := scaleBytes_gInv_solves (a := d lo) (b := d hi) (lo := lo) (e := hi - lo) (by simp [hlen]) (by omega) (by omega)
  rw [Nat.add_sub_cancel' (Nat.le_of_lt hlt)] at hsolve
  have hrest : xorBytes (xorBytes (d lo) (d hi)) (d lo) = d hi := by
    rw [xorBytes_comm (d lo), xorBytes_xorBytes_cancel (by simp [hlen])]
  simp [recover, filter_data_survivors, filter_gone_survivors, find?_survivors, hP, hQ, find?_stripe_P, find?_stripe_Q, hlost, hp, hq,
    Nat.le_of_lt hlt, Nat.ne_of_gt hlt, hsolve, hrest]

end Stripe

/-! ## Any one or two members lost -/

/-- The members that remain when x and y are lost. -/
def otherThan (x y i : Nat) : Bool := i != x && i != y

@[simp] theorem otherThan_self_left (x y : Nat) : otherThan x y x = false := by simp [otherThan]

@[simp] theorem otherThan_self_right (x y : Nat) : otherThan x y y = false := by simp [otherThan]

theorem otherThan_of_ne {x y i : Nat} (hx : i ≠ x) (hy : i ≠ y) : otherThan x y i := by simp [otherThan, hx, hy]

theorem otherThan_comm (x y : Nat) : otherThan x y = otherThan y x := funext fun _ => Bool.and_comm _ _

/-- The lost data members, in the order of their indices. -/
theorem lostData_otherThan {k x y : Nat} {l : List Nat} (hsorted : l.Pairwise (· < ·)) (hmem : ∀ i, i ∈ l ↔ i < k ∧ (i = x ∨ i = y)) :
    lostData k (otherThan x y) = l := by
  have hrange : (lostData k (otherThan x y)).Pairwise (· < ·) := List.pairwise_lt_range.filter _
  have hsame : ∀ i, i ∈ lostData k (otherThan x y) ↔ i ∈ l := fun i => by
    rw [hmem]
    simp [lostData, otherThan]
  have hperm := (List.perm_ext_iff_of_nodup (hrange.imp Nat.ne_of_lt) (hsorted.imp Nat.ne_of_lt)).2 hsame
  exact hperm.eq_of_pairwise (fun i j _ _ hij hji => absurd hji (Nat.lt_asymm hij)) hrange hsorted

theorem recover_otherThan {k n x y : Nat} {d : Nat → Bytes} (hk : k ≤ 255) (hlen : ∀ i, (d i).length = n) (hx : x < k) (hy : y ≤ k + 1) :
    recover k x (survivors k d (otherThan x y)) = some (d x) := by
  rcases Nat.lt_or_ge y k with hyk | hyk
  · rcases Nat.lt_trichotomy x y with hxy | rfl | hyx
    · have hlost : lostData k (otherThan x y) = [x, y] := lostData_otherThan (by simpa) (by simp; omega)
      exact (recover_of_parityP_parityQ hlen hxy (by omega) hlost (otherThan_of_ne (by omega) (by omega)) (otherThan_of_ne (by omega) (by omega))).1
    · exact recover_of_parityP hlen (lostData_otherThan (by simp) (by simp; omega)) (otherThan_of_ne (by omega) (by omega))
    · have hlost : lostData k (otherThan x y) = [y, x] := lostData_otherThan (by simpa) (by simp; omega)
      exact (recover_of_parityP_parityQ hlen hyx (by omega) hlost (otherThan_of_ne (by omega) (by omega)) (otherThan_of_ne (by omega) (by omega))).2
  · have hlost : lostData k (otherThan x y) = [x] := lostData_otherThan (by simp) (by simp; omega)
    rcases Nat.eq_or_lt_of_le hyk with rfl | hyk
    · exact recover_of_parityQ hlen hlost (otherThan_self_right x _) (otherThan_of_ne (by omega) (by omega))
    · exact recover_of_parityP hlen hlost (otherThan_of_ne (by omega) (by omega))

/-- Every data member is read or recovered. -/
theorem recoverMember_data {k n x y i : Nat} {d : Nat → Bytes} (hk : k ≤ 255) (hlen : ∀ i, (d i).length = n) (hx : x ≤ k + 1)
    (hy : y ≤ k + 1) (hi : i < k) : recoverMember k i (survivors k d (otherThan x y)) = some (d i) := by
  by_cases hix : i = x
  · subst hix
    simp [recoverMember, find?_survivors, hi, recover_otherThan hk hlen hi hy]
  by_cases hiy : i = y
  · subst hiy
    simp [recoverMember, find?_survivors, hi, otherThan_comm x, recover_otherThan hk hlen hi hx]
  · simp [recoverMember, find?_survivors, otherThan_of_ne hix hiy, find?_stripe_data hi]

theorem filterMap_eq_map_of_forall_mem {α β : Type} {f : α → Option β} {g : α → β} {l : List α} (h : ∀ a ∈ l, f a = some (g a)) :
    l.filterMap f = l.map g := by
  induction l with
  | nil => rfl
  | cons a l ih =>
    obtain ⟨ha, hl⟩ := List.forall_mem_cons.1 h
    rw [List.filterMap_cons_some ha, List.map_cons, ih hl]

/-- A lost P or Q is computed again once every data member is known. -/
theorem recoverMember_parity {k m : Nat} {d : Nat → Bytes} {got : List (Nat × Bytes)} (hm : k ≤ m) (hgone : got.find? (fun x => x.1 == m) = none)
    (hdata : ∀ i < k, recoverMember k i got = some (d i)) :
    recoverMember k m got = some (if m = k then parityP (membersAt d (List.range k)) else parityQ (membersAt d (List.range k))) := by
  rw [recoverMember, hgone]
  simp only [Nat.not_lt.2 hm, if_false]
  rw [filterMap_eq_map_of_forall_mem (g := fun i => (i, d i))]
  · simp [membersAt]
  · intro i hi
    have hik := List.mem_range.1 hi
    have hrec := hdata i hik
    unfold recoverMember at hrec
    cases hfind : got.find? fun x => x.1 == i with
    | none => simpa [hfind, hik] using hrec
    | some x =>
      have hindex : x.1 = i := by simpa using List.find?_some hfind
      simp_all [Prod.ext_iff]

/-- Settles O59: a lost data member is what P′ and Q′ leave or solve for, and a lost P or Q is computed again from the data members,
read or recovered. -/
theorem lostMembersAreRecovered : Obligations.LostMembersAreRecovered := by
  intro k n x y d hk hlen hx hy
  change recoverMember k x (survivors k d (otherThan x y)) = ((stripe k d).find? fun m => m.1 == x).map (·.2)
  rcases Nat.lt_or_ge x k with hxk | hxk
  · rw [recoverMember_data hk hlen hx hy hxk, find?_stripe_data hxk, Option.map_some]
  · have hgone : (survivors k d (otherThan x y)).find? (fun m => m.1 == x) = none := by simp [find?_survivors]
    rw [recoverMember_parity hxk hgone fun i hi => recoverMember_data hk hlen hx hy hi]
    rcases Nat.eq_or_lt_of_le hxk with rfl | hxk
    · simp [find?_stripe_P]
    · obtain rfl : x = k + 1 := by omega
      simp [find?_stripe_Q]

end Sys2Proof.Machine
end

section
/-! PROOF. A snapshot whose earlier commands have ended is READY (R292); a replication job starts (R304) and ends idle (R308). -/

namespace Sys2Proof.Machine

open Sys2Proof

/-! ## Changes of a job's record -/

theorem State.tget_modJob {s : State} {n : Nat} {j : Job} (f : Job → Job) (hj : tget s.snap.jobs n = some j) :
    tget (s.modJob n f).snap.jobs n = some (f j) :=
  (tget_tmod_self s.snap.jobs n f).trans (congrArg (Option.map f) hj)

theorem State.tget_modJob_ne (s : State) {n k : Nat} (f : Job → Job) (hk : k ≠ n) :
    tget (s.modJob n f).snap.jobs k = tget s.snap.jobs k :=
  tget_tmod_ne s.snap.jobs n k f hk

/-! ## Snapshots (R292) -/

/-- A snapshot once the one of that volume and number has changed state. -/
def Snap.moved (vol id : Nat) (st : SnapSt) (dt : Nat) (y : Snap) : Snap :=
  if y.vol == vol && y.id == id then { y with st := st, deletedAt := if st = .deleting then dt else y.deletedAt } else y

theorem SnapCtl.of_find {c : SnapCtl} {vol id : Nat} {x : Snap} (hx : c.find vol id = some x) :
    x.vol = vol ∧ x.id = id ∧ x.st ≠ .released := by
  have hfound := List.find?_some (p := fun x : Snap => x.vol == vol && x.id == id && x.st != .released) hx
  simpa [and_assoc] using hfound

/-- A snapshot found stays found when it changes state, other than to RELEASED, and shows the new state. -/
theorem SnapCtl.find_moved {c : SnapCtl} {vol id : Nat} {x : Snap} {st : SnapSt} (dt : Nat) (hx : c.find vol id = some x)
    (hst : st ≠ .released) :
    (SnapCtl.find { c with snaps := c.snaps.map (Snap.moved vol id st dt) } vol id).map (·.st) = some st := by
  cases hfind : SnapCtl.find { c with snaps := c.snaps.map (Snap.moved vol id st dt) } vol id with
  | none =>
    obtain ⟨hvol, hid, -⟩ := SnapCtl.of_find hx
    have hmiss := List.find?_eq_none.mp hfind _ (List.mem_map_of_mem (List.mem_of_find?_eq_some hx))
    exact absurd hmiss (by simp [Snap.moved, hvol, hid, hst])
  | some z =>
    obtain ⟨y, -, rfl⟩ := List.mem_map.mp (List.mem_of_find?_eq_some hfind)
    by_cases hy : (y.vol == vol && y.id == id) = true
    · simp [Snap.moved, hy]
    · have hsame : Snap.moved vol id st dt y = y := if_neg hy
      obtain ⟨hvol, hid, -⟩ := SnapCtl.of_find (hsame ▸ hfind)
      exact absurd (by simp [hvol, hid]) hy

/-- A change of a snapshot's state: its record in the block, and event 0x1460. -/
theorem State.setSnap_of_ne {s : State} {vol id : Nat} {x : Snap} {st : SnapSt} (hx : s.snap.find vol id = some x) (hne : x.st ≠ st) :
    (s.setSnap vol id st).snap = { s.snap with snaps := s.snap.snaps.map (Snap.moved vol id st s.dt) } ∧
      (s.setSnap vol id st).evr = s.logged 0x1460 0 vol id (snapStNum x.st) (snapStNum st) := by
  unfold State.setSnap
  rw [hx]
  dsimp only
  rw [if_neg hne]
  exact ⟨rfl, rfl⟩

/-- SNAPSHOT_READY once no earlier command of the volume is outstanding. -/
theorem exec_snapshotReady {s : State} {vol snap : Nat} {x : Snap} (hx : s.snap.find vol snap = some x) (hst : x.st = .creating)
    (hnone : ∀ c ∈ s.cqe.cmds, ¬ (c.vol = vol ∧ c.admitted = true ∧ c.opc ≠ opAbort ∧ c.tag < x.cut)) :
    exec (.snapshotReady vol snap) s = .next (s.setSnap vol snap .ready) := by
  have hany : s.cqe.cmds.any (fun c => c.vol == vol && c.admitted && c.opc != opAbort && decide (c.tag < x.cut)) = false :=
    List.any_eq_false.mpr fun c hc => by simpa [and_assoc] using hnone c hc
  show execSnapshotReady vol snap s = _
  unfold execSnapshotReady
  rw [hx]
  dsimp only
  exact if_neg (by simp [hst, hany])

/-! ## A job changes state (R304) -/

/-- The state in which a job has changed state: logged, in the job's record, and noticed. -/
def State.jobMoved (s : State) (n : Nat) (j : Job) (st : JobSt) (cause : Nat) : State :=
  ((s.event 0x1465 n n (jobStNum j.st) (jobStNum st) cause).modJob n
    fun j => { j with st := st, cause := cause }).snapNotice j.vol 0xFFFFFFFF (jobStNum st - 1) 2 n 0 0

/-- A change of state shows in the notices, the jobs and the log alone. -/
theorem State.jobMoved_frame {α : Type} (π : State → α) (hCqe : KeepsCqe π) (hSnap : KeepsSnap π) (hEvr : KeepsEvr π) (s : State) (n : Nat)
    (j : Job) (st : JobSt) (cause : Nat) : π (s.jobMoved n j st cause) = π s := by
  unfold State.jobMoved
  rw [State.snapNotice_frame π hCqe, State.modJob_frame π hSnap, State.event_frame π hEvr]

@[simp] theorem State.jobMoved_evr (s : State) (n : Nat) (j : Job) (st : JobSt) (cause : Nat) :
    (s.jobMoved n j st cause).evr = s.logged 0x1465 n n (jobStNum j.st) (jobStNum st) cause := rfl

theorem State.tget_jobMoved {s : State} {n : Nat} {j : Job} (st : JobSt) (cause : Nat) (hj : tget s.snap.jobs n = some j) :
    tget (s.jobMoved n j st cause).snap.jobs n = some { j with st := st, cause := cause } :=
  State.tget_modJob (s := s.event 0x1465 n n (jobStNum j.st) (jobStNum st) cause) _ hj

theorem State.tget_jobMoved_ne (s : State) {n k : Nat} (j : Job) (st : JobSt) (cause : Nat) (hk : k ≠ n) :
    tget (s.jobMoved n j st cause).snap.jobs k = tget s.snap.jobs k :=
  State.tget_modJob_ne (s.event 0x1465 n n (jobStNum j.st) (jobStNum st) cause) _ hk

theorem State.setJob_running {s : State} {n : Nat} {j : Job} (cause : Nat) (hj : tget s.snap.jobs n = some j) :
    s.setJob n .running cause = s.jobMoved n j .running cause := by
  unfold State.setJob
  rw [hj]
  exact if_pos rfl

/-- A job that stops gives its stream context back to CPE (R213). -/
theorem State.setJob_stopped {s : State} {n : Nat} {j : Job} {st : JobSt} (cause : Nat) (hj : tget s.snap.jobs n = some j)
    (hst : st ≠ .running) :
    ∃ f : Cpe → Cpe, s.setJob n st cause =
      ((s.jobMoved n j st cause).modCpe f).modJob n fun j => { j with ctx := none, fetching := false } := by
  unfold State.setJob
  rw [hj]
  dsimp only
  rw [if_neg hst]
  cases j.ctx with
  | none => exact ⟨id, rfl⟩
  | some c => exact ⟨fun p => { p with ctx := tdel p.ctx c }, rfl⟩

theorem State.tget_setJob_stopped {s : State} {n : Nat} {j : Job} {st : JobSt} (cause : Nat) (hj : tget s.snap.jobs n = some j)
    (hst : st ≠ .running) :
    tget (s.setJob n st cause).snap.jobs n = some { j with st := st, cause := cause, ctx := none, fetching := false } := by
  obtain ⟨f, hset⟩ := State.setJob_stopped cause hj hst
  rw [hset]
  exact State.tget_modJob (s := (s.jobMoved n j st cause).modCpe f) _ (State.tget_jobMoved st cause hj)

theorem State.tget_setJob_stopped_ne {s : State} {n k : Nat} {j : Job} {st : JobSt} (cause : Nat) (hj : tget s.snap.jobs n = some j)
    (hst : st ≠ .running) (hk : k ≠ n) : tget (s.setJob n st cause).snap.jobs k = tget s.snap.jobs k := by
  obtain ⟨f, hset⟩ := State.setJob_stopped cause hj hst
  rw [hset, State.tget_modJob_ne _ _ hk]
  exact State.tget_jobMoved_ne s j st cause hk

/-- A job that fails with no fault at a portal WRITE holds nothing received any more (R308). -/
theorem State.failJob_faultless {s : State} {n : Nat} {j : Job} (cause status : Nat) (hj : tget s.snap.jobs n = some j) :
    s.failJob n cause status none =
      (s.setJob n .failed cause).modJob n fun j => { j with writes := [], pieces := [], apply := [], toks := none } := by
  unfold State.failJob
  rw [hj]

/-! ## A job that cannot go on -/

/-- A step that does not get on is not repeated. -/
theorem jobSteps_stuck {step : State → Bool × State} {s : State} (k : Nat) (h : step s = (false, s)) : jobSteps step k s = s := by
  cases k with
  | zero => rfl
  | succ k =>
    unfold jobSteps
    rw [h]

/-- The job has no key to check or write records with (R305), or is a TARGET that holds no whole record and applies none. -/
def State.nothingToDo (s : State) (n : Nat) (j : Job) : Prop :=
  tget s.dge.jobKeys n = none ∨ j.role = 2 ∧ j.apply = [] ∧ j.toks = none ∧ recLen j.stream = none

section
variable {s : State} {n : Nat} {j : Job} (hj : tget s.snap.jobs n = some j)
include hj

theorem State.haveStep_stuck (hdo : s.nothingToDo n j) : s.haveStep n = (false, s) := by
  unfold State.haveStep
  rw [hj]
  rcases hdo with hkey | ⟨hrole, -⟩
  · rw [hkey]
  · cases tget s.dge.jobKeys n with
    | none => rfl
    | some key => cases hlen : recLen j.haveStream <;> simp [hlen, hrole]

theorem State.produceStep_stuck (hdo : s.nothingToDo n j) : s.produceStep n = (false, s) := by
  unfold State.produceStep
  rw [hj]
  dsimp only
  split
  next key v sb hkey _ _ =>
    refine if_pos (.inr (.inl ?_))
    rcases hdo with hnone | ⟨hrole, -⟩
    · exact nomatch hkey.symm.trans hnone
    · simp [hrole]
  next => rfl

theorem State.consumeStep_stuck (hdo : s.nothingToDo n j) (hended : j.ended = none) (go : State → Cmd → State) :
    s.consumeStep n go = (false, s) := by
  unfold State.consumeStep
  rw [hj]
  dsimp only
  split
  next => rfl
  next key hkey =>
    obtain ⟨-, happly, htoks, hlen⟩ := hdo.resolve_left (by simp [hkey])
    split
    · rfl
    · simp [happly, htoks, hended, hlen]

/-- Where no portal WRITE waits to be applied none completes (R307). -/
theorem State.settleWrites_nil (hw : j.writes = []) : ∃ f : Job → Job, f j = j ∧ s.settleWrites n = s.modJob n f := by
  unfold State.settleWrites
  rw [hj]
  dsimp only
  rw [hw]
  refine ⟨_, ?_, rfl⟩
  cases j
  cases hw
  rfl

theorem State.tryPortalReads_nil (hw : s.portalWaits j.portal = []) : s.tryPortalReads n = s := by
  unfold State.tryPortalReads
  rw [hj]
  dsimp only
  rw [hw]
  rfl

/-- A job that has no END is not DONE. -/
theorem State.sourceDone_unended (hended : j.ended = none) : s.sourceDone n = s := by
  unfold State.sourceDone
  rw [hj]
  simp [hended]

/-- A job that has nothing to do, and on which no portal command waits, stands where it stood. -/
theorem State.runJob_idle (hdo : s.nothingToDo n j) (hended : j.ended = none) (hw : j.writes = []) (hp : s.portalWaits j.portal = [])
    (go : State → Cmd → State) : ∃ f : Job → Job, f j = j ∧ s.runJob n go = s.modJob n f := by
  obtain ⟨f, hf, hsettle⟩ := State.settleWrites_nil hj hw
  have hj' : tget (s.modJob n f).snap.jobs n = some j := (State.tget_modJob f hj).trans (congrArg some hf)
  refine ⟨f, hf, ?_⟩
  unfold State.runJob
  rw [jobSteps_stuck (step := fun s => s.haveStep n) _ (State.haveStep_stuck hj hdo)]
  dsimp only
  rw [jobSteps_stuck (step := fun s => s.produceStep n) _ (State.produceStep_stuck hj hdo),
    jobSteps_stuck (step := fun s => s.consumeStep n go) _ (State.consumeStep_stuck hj hdo hended go), hsettle,
    State.tryPortalReads_nil hj' hp, State.sourceDone_unended hj' hended]

end

/-! ## The commands of a job -/

/-- REPL_JOB_START of a QUEUED job whose group the head owns, under 64 that run (R304). -/
theorem exec_replJobStart {s : State} {job : Fin 256} {j : Job} {v : VolumeRec} (hj : tget s.snap.jobs job.val = some j)
    (hv : s.cfg.volume j.vol = some v) (hst : j.st = .queued) (hown : s.ownsGroup v.group = true)
    (hfew : (s.snap.jobs.filter fun x => x.2.st == .running).length < 64) :
    exec (.replJobStart job) s =
      .next (((s.modJob job.val fun j => { j with lastAt := s.dt, idleS := s.snap.idleS }).setJob job.val .running 0).runJob job.val
        State.goWrite) := by
  show execReplJobStart job s = _
  unfold execReplJobStart
  rw [hj]
  dsimp only
  rw [hv]
  exact if_neg (by simp [hst, hown, hfew])

/-- REPL_IDLE_TIMEOUT of a running job (R308). -/
theorem exec_replIdleTimeout {s : State} {job : Fin 256} {j : Job} (hj : tget s.snap.jobs job.val = some j) (hst : j.st = .running) :
    exec (.replIdleTimeout job) s = .next ((s.advanceTo (j.lastAt + secNs j.idleS)).failJob job.val 3 stVolumeNotReady none) := by
  show execReplIdleTimeout job s = _
  unfold execReplIdleTimeout
  rw [hj]
  exact if_neg (not_not_intro hst)

/-! ## The statement -/

/-- What the start of a job and a snapshot's turn to READY may touch. -/
def jobParts : List Blk := [.cqe, .snap, .evr]

/-- What the end of an idle job may touch. -/
def idleParts : List Blk := [.dt, .cqe, .cpe, .snap, .evr]

/-- Settles O53: the snapshot changes its state; the job changes its own and then finds nothing to do; the idle job fails with no portal
WRITE to answer. -/
theorem snapshotsBecomeReadyAndJobsRun : Obligations.SnapshotsBecomeReadyAndJobsRun := by
  intro s
  refine ⟨fun vol snap x hx hst hnone => ?ready, fun job j v hj hv => ⟨fun hst hown hfew hdo hended hw hp => ?start, fun hst => ?idle⟩⟩
  case ready =>
    obtain ⟨hsnap, hevr⟩ := State.setSnap_of_ne (st := .ready) hx (by simp [hst])
    refine ⟨_, exec_snapshotReady hx hst hnone, ?_, ?_, hst ▸ hevr,
      State.setSnap_frame (State.without · jobParts) (fun _ _ => rfl) (fun _ _ => rfl) (fun _ _ => rfl) s vol snap .ready⟩
    · rw [hsnap]
      exact SnapCtl.find_moved s.dt hx (by decide)
    · rw [hsnap]
  case start =>
    have hset : tget (s.modJob job.val fun j => { j with lastAt := s.dt, idleS := s.snap.idleS }).snap.jobs job.val =
        some { j with lastAt := s.dt, idleS := s.snap.idleS } := State.tget_modJob _ hj
    have hmoved := State.tget_jobMoved .running 0 hset
    obtain ⟨f, hf, hrun⟩ := State.runJob_idle hmoved hdo hended hw hp State.goWrite
    refine ⟨_, exec_replJobStart hj hv hst hown hfew, ?_⟩
    rw [State.setJob_running 0 hset, hrun]
    refine ⟨?_, fun k hk => ?_, ?_, ?_⟩
    · rw [State.tget_modJob f hmoved, hf]
    · rw [State.tget_modJob_ne _ _ hk, State.tget_jobMoved_ne _ _ _ _ hk, State.tget_modJob_ne _ _ hk]
    · rw [State.modJob_frame State.evr (fun _ _ => rfl), State.jobMoved_evr]
      exact hst ▸ rfl
    · have hframe := State.modJob_frame (State.without · jobParts) fun _ _ => rfl
      exact (hframe _ _ f).trans ((State.jobMoved_frame (State.without · jobParts) (fun _ _ => rfl) (fun _ _ => rfl)
        (fun _ _ => rfl) _ _ _ _ _).trans (hframe s _ _))
  case idle =>
    have hfail := State.failJob_faultless (s := s.advanceTo (j.lastAt + secNs j.idleS)) 3 stVolumeNotReady hj
    refine ⟨_, (exec_replIdleTimeout hj hst).trans (congrArg _ hfail), ?_, ?_, fun k hk => ?_, ?_⟩
    · rw [State.modJob_frame State.dt (fun _ _ => rfl),
        State.setJob_frame State.dt (fun _ _ => rfl) (fun _ _ => rfl) (fun _ _ => rfl) (fun _ _ => rfl)]
      rfl
    · rw [State.tget_modJob _ (State.tget_setJob_stopped (s := s.advanceTo _) 3 hj (by decide))]
      rfl
    · rw [State.tget_modJob_ne _ _ hk]
      exact State.tget_setJob_stopped_ne (s := s.advanceTo _) 3 hj (by decide) hk
    · exact (State.modJob_frame (State.without · idleParts) (fun _ _ => rfl) _ _ _).trans
        ((State.setJob_frame (State.without · idleParts) (fun _ _ => rfl) (fun _ _ => rfl) (fun _ _ => rfl) (fun _ _ => rfl) _ _ _ _).trans
          (State.advanceTo_frame (State.without · idleParts) (fun _ _ => rfl) _ _))

end Sys2Proof.Machine
end

section
/-! PROOF. A survivor in SOLO that pairs with its peer enters RESYNC (R139, R144). Where its write cache holds nothing to copy it leaves RESYNC
at once, and its domains' copies on the peer no longer count as out of date (R190), which the statement on silent peers leaves out. -/

namespace Sys2Proof.Machine

open Sys2Proof

/-- Head A, the survivor, as its peer comes back: a peer lane is ACTIVE, a heartbeat has been heard, and the PEER record names the device of
serial 77. The write cache is empty, and the peer's copy of domain 0 is out of date. -/
def survivingHead : State :=
  { State.reset with
    link := { lanes := [(128, { st := .active })] }
    wc := { mirrorSt := .solo, sizeGib := 64 }
    dxu := { doms := [(0, { pool := 0, group := 0, capLog2 := 10, verify := true, peerStale := true })] }
    ha := { role := .survivor, peerFailed := true, plkAt := some 0 }
    rot := { ready := true }
    cfg := { epoch := 1, recs := [⟨2, true, 0, some (.peer 77)⟩] }
    rcc := { hold := .run } }

/-- Pairing takes the mark off domain 0. -/
theorem exec_pairing_survivingHead :
    ∃ t, exec (.pairing 77 true 64 0 0 1) survivingHead = .next t ∧
      t.dxu.doms = [(0, { pool := 0, group := 0, capLog2 := 10, verify := true, peerStale := false })] :=
  ⟨_, rfl, rfl⟩

/-- Refutes O55: its clause on pairing says that the dedup domains stay as they are (`.dxu` is not among the parts it excepts), while pairing
takes a survivor in SOLO through RESYNC, whose end takes the mark off every copy that was out of date. -/
theorem not_silentPeersAreFencedAndPaired : ¬ Obligations.SilentPeersAreFencedAndPaired := by
  intro hall
  obtain ⟨-, -, -, -, -, -, -, hpair, -⟩ := hall survivingHead
  obtain ⟨t, hexec, -, hframe⟩ := hpair 77 64 0 0 1 (by decide) (by decide) rfl (by decide) (.inl rfl) rfl
  obtain ⟨u, hexec', hdoms⟩ := exec_pairing_survivingHead
  obtain rfl : u = t := Host.Outcome.next.inj (hexec'.symm.trans hexec)
  have hkept := congrArg (·.dxu.doms) hframe
  exact nomatch hdoms.symm.trans hkept

end Sys2Proof.Machine
end

section
/-! PROOF. Every command answers a next state. A view of the state that reads neither a block nor DT, the free values or what was sent is the
same in it; so no command touches the queue, and none but those that blow a fuse touches a fuse. -/

namespace Sys2Proof.Machine

open Sys2Proof

/-! ## The front command (log entry 1) -/

/-- Settles O1: by the definition of `step`, on a queue with a front command and on an empty one. -/
theorem stepRunsTheFrontCommand : Obligations.StepRunsTheFrontCommand := by
  refine ⟨fun _ _ => rfl, fun s hempty => ?_⟩
  unfold step State.idle
  rw [hempty]

/-! ## Views that outlive every command -/

/-- The view outlives a change of every block, of ROT its fuses excepted, and every reset. -/
structure Untouched {α : Type} (π : State → α) : Prop where
  linkAll : KeepsLinkAll π
  cqe : KeepsCqe π
  dsc : KeepsDsc π
  wc : KeepsWc π
  dge : KeepsDge π
  dxu : KeepsDxu π
  cpe : KeepsCpe π
  ftu : KeepsFtu π
  pxeAll : KeepsPxeAll π
  snap : KeepsSnap π
  ha : KeepsHa π
  snw : KeepsSnw π
  gov : KeepsGov π
  mcu : KeepsMcu π
  slc : KeepsSlc π
  rot : KeepsRot π
  nvi : KeepsNvi π
  xts : KeepsXts π
  cfgAll : KeepsCfgAll π
  pmu : KeepsPmu π
  dbg : KeepsDbg π
  rcc : KeepsRcc π
  evr : KeepsEvr π
  glb : KeepsGlb π
  dt : KeepsDt π
  fresh : KeepsFresh π
  out : KeepsOut π
  cold : KeepsCold π
  warm : KeepsWarm π
  por : KeepsPor π

section
variable {α : Type} {π : State → α} (h : Untouched π)
include h

theorem Untouched.link : KeepsLink π := fun s f _ => h.linkAll s f
theorem Untouched.port : KeepsPort π := fun s _ _ => h.linkAll s _
theorem Untouched.lane : KeepsLane π := fun s _ _ => h.linkAll s _
theorem Untouched.sess : KeepsSess π := fun s _ _ => h.cqe s _
theorem Untouched.pxe : KeepsPxe π := fun s f _ => h.pxeAll s f
theorem Untouched.cfg : KeepsCfg π := fun s f _ => h.cfgAll s f

end

/-- The commands that may blow a fuse: FUSE_SVN (R391), or the owner anchor, the wrap-key erase fuse and the lifecycle (R421). -/
def Instr.blowsFuse : Instr → Bool
  | .imageConfirm .. | .toField .. | .toReturn .. | .toEnd .. => true
  | _ => false

/-- Every command answers a next state in which an untouched view reads the same; where the command may blow a fuse, one that does not look
into ROT at all. -/
theorem exec_untouched {α : Type} {π : State → α} (h : Untouched π) (c : Instr) (hFuses : Instr.blowsFuse c = true → KeepsFuses π)
    (s : State) : ∃ t, exec c s = .next t ∧ π t = π s := by
  unfold exec
  split
  · exact execMsgFlitReceived_frame π h.out h.port h.lane h.cqe h.sess h.evr ..
  · exact execLctlFlitReceived_frame π h.out h.port h.cqe h.rcc h.evr h.cold h.warm ..
  · exact execNakReceived_frame π h.out h.port h.evr ..
  · exact execCreditAdvertiseTimer_frame π h.dt h.out h.port ..
  · exact execAckTimer_frame π h.dt h.out h.port ..
  · exact execReplayTimeout_frame π h.dt h.out h.port h.evr ..
  · exact execReplayLimit_frame π h.fresh h.out h.link h.port h.lane h.cqe h.sess h.dsc h.wc h.ftu h.pxe h.pxeAll h.gov h.cfg h.evr h.glb ..
  · exact execUncorrectableCodewordLimit_frame π h.fresh h.out h.link h.port h.lane h.cqe h.sess h.dsc h.wc h.ftu h.pxe h.pxeAll h.gov h.cfg
      h.evr h.glb ..
  · exact execLockLossTimeout_frame π h.fresh h.out h.link h.port h.lane h.cqe h.sess h.dsc h.wc h.ftu h.pxe h.pxeAll h.gov h.cfg h.evr h.glb ..
  · exact execTagFailureLimit_frame π h.fresh h.out h.link h.port h.lane h.cqe h.sess h.dsc h.wc h.ftu h.pxe h.pxeAll h.gov h.cfg h.evr h.glb ..
  · exact execLaneEnabled_frame π h.fresh h.out h.link h.port h.lane h.cqe h.sess h.dsc h.wc h.ftu h.pxe h.pxeAll h.gov h.cfg h.evr h.glb ..
  · exact execSignalDetected_frame π h.fresh h.out h.link h.port h.lane h.cqe h.sess h.dsc h.wc h.ftu h.pxe h.pxeAll h.gov h.cfg h.evr h.glb ..
  · exact execEqComplete_frame π h.fresh h.out h.link h.port h.lane h.cqe h.sess h.dsc h.wc h.ftu h.pxe h.pxeAll h.gov h.cfg h.evr h.glb ..
  · exact execEqTimeout_frame π h.dt h.fresh h.out h.link h.port h.lane h.cqe h.sess h.dsc h.wc h.ftu h.pxe h.pxeAll h.gov h.cfg h.evr h.glb ..
  · exact execLockComplete_frame π h.fresh h.out h.link h.port h.lane h.cqe h.sess h.dsc h.wc h.ftu h.pxe h.pxeAll h.gov h.cfg h.evr h.glb ..
  · exact execLockTimeout_frame π h.dt h.fresh h.out h.link h.port h.lane h.cqe h.sess h.dsc h.wc h.ftu h.pxe h.pxeAll h.gov h.cfg h.evr h.glb ..
  · exact execParamComplete_frame π h.fresh h.out h.link h.port h.lane h.cqe h.sess h.dsc h.wc h.ftu h.pxe h.pxeAll h.gov h.cfg h.evr h.glb ..
  · exact execParamTimeout_frame π h.dt h.fresh h.out h.link h.port h.lane h.cqe h.sess h.dsc h.wc h.ftu h.pxe h.pxeAll h.gov h.cfg h.evr h.glb ..
  · exact execSecureComplete_frame π h.fresh h.out h.link h.port h.lane h.cqe h.sess h.dsc h.wc h.ftu h.pxe h.pxeAll h.gov h.cfg h.evr h.glb ..
  · exact execSecureTimeout_frame π h.dt h.fresh h.out h.link h.port h.lane h.cqe h.sess h.dsc h.wc h.ftu h.pxe h.pxeAll h.gov h.cfg h.evr
      h.glb ..
  · exact execRetrainComplete_frame π h.fresh h.out h.link h.port h.lane h.cqe h.sess h.dsc h.wc h.ftu h.pxe h.pxeAll h.gov h.cfg h.evr h.glb ..
  · exact execRetrainTimeout_frame π h.dt h.fresh h.out h.link h.port h.lane h.cqe h.sess h.dsc h.wc h.ftu h.pxe h.pxeAll h.gov h.cfg h.evr
      h.glb ..
  · exact execDownBackoffExpiry_frame π h.dt h.fresh h.out h.link h.port h.lane h.cqe h.sess h.dsc h.wc h.ftu h.pxe h.pxeAll h.gov h.cfg h.evr
      h.glb ..
  · exact execHostPortLost_frame π h.dt h.out h.link h.port h.cqe h.sess h.wc h.dge h.cpe h.ftu h.slc h.evr ..
  · exact execKeyReplacement_frame π h.out h.port ..
  · exact execHello_frame π h.fresh h.out h.link h.port h.evr ..
  · exact execFinish_frame π h.fresh h.out h.link h.port h.cqe h.evr ..
  · exact execHandshakeTimeout_frame π h.dt h.fresh h.link h.port h.evr ..
  · exact execSessionClose_frame π h.fresh h.out h.link h.port h.cqe h.sess h.wc h.dge h.cpe h.ftu h.slc h.evr ..
  · exact execKeepalive_frame π h.fresh h.out h.port h.cqe h.sess h.evr ..
  · exact execKeepaliveSilence_frame π h.dt h.out h.link h.port h.cqe h.sess h.wc h.dge h.cpe h.ftu h.slc h.evr ..
  · exact execQpCreate_frame π h.fresh h.out h.port h.cqe h.sess h.evr ..
  · exact execQpDeleteDrain_frame π h.fresh h.out h.port h.cqe h.sess h.wc h.dge h.cpe h.ftu h.slc h.evr ..
  · exact execQpDeleteAbort_frame π h.fresh h.out h.port h.cqe h.sess h.wc h.dge h.cpe h.ftu h.slc h.evr ..
  · exact execQpDeleteDone_frame π h.out h.port h.cqe h.sess h.evr ..
  · exact execCsrRead_frame π h.fresh h.out h.port h.lane h.cqe h.sess h.dsc h.dge h.dxu h.cpe h.ftu h.snw h.mcu h.slc h.nvi h.xts h.dbg h.evr ..
  · exact execCsrWrite_frame π h.fresh h.out h.link h.linkAll h.port h.lane h.cqe h.sess h.dsc h.wc h.dge h.dxu h.cpe h.ftu h.pxe h.pxeAll
      h.snap h.ha h.gov h.slc h.nvi h.xts h.cfg h.dbg h.rcc h.evr h.glb h.cold h.warm ..
  · exact execNoticeMask_frame π h.fresh h.out h.port h.cqe h.sess h.evr ..
  · exact execQuarantineSet_frame π h.fresh h.out h.link h.port h.lane h.cqe h.sess h.dsc h.wc h.dxu h.ftu h.pxe h.pxeAll h.gov h.cfg h.evr
      h.glb ..
  · exact execQuarantineLift_frame π h.fresh h.out h.link h.port h.lane h.cqe h.sess h.dsc h.wc h.dxu h.ftu h.pxe h.pxeAll h.gov h.cfg h.evr
      h.glb ..
  · exact execVc3UnknownType_frame π h.fresh h.out h.port h.cqe h.sess h.evr ..
  · exact execSessionQuarantined_frame π h.cqe h.sess h.evr ..
  · exact execViolationWarning_frame π h.sess ..
  · exact execQuarantineTimeout_frame π h.dt h.out h.link h.port h.cqe h.sess h.wc h.dge h.cpe h.ftu h.slc h.evr ..
  · exact execPortViolationLimit_frame π h.fresh h.out h.link h.port h.lane h.cqe h.sess h.dsc h.wc h.ftu h.pxe h.pxeAll h.gov h.cfg h.evr
      h.glb ..
  · exact execModuleLinkQuarantine_frame π h.fresh h.out h.link h.port h.lane h.cqe h.sess h.dsc h.wc h.dxu h.ftu h.pxe h.pxeAll h.gov h.cfg
      h.evr h.glb ..
  · exact execNoticeTransmit_frame π h.out h.port h.sess h.evr ..
  · exact execRead_frame π h.fresh h.out h.link h.port h.cqe h.sess h.dsc h.wc h.dge h.dxu h.cpe h.ftu h.pxe h.snap h.slc h.evr ..
  · exact execWrite_frame π h.fresh h.out h.link h.port h.cqe h.sess h.dsc h.wc h.dge h.dxu h.cpe h.ftu h.pxe h.snap h.slc h.evr ..
  · exact execFlush_frame π h.fresh h.out h.link h.port h.cqe h.sess h.dsc h.wc h.dge h.dxu h.cpe h.ftu h.pxe h.snap h.slc h.evr ..
  · exact execZeroRange_frame π h.fresh h.out h.link h.port h.cqe h.sess h.dsc h.wc h.dge h.dxu h.cpe h.ftu h.pxe h.snap h.slc h.evr ..
  · exact execCompare_frame π h.fresh h.out h.link h.port h.cqe h.sess h.dsc h.wc h.dge h.dxu h.cpe h.ftu h.pxe h.snap h.slc h.evr ..
  · exact execCompareAndWrite_frame π h.fresh h.out h.link h.port h.cqe h.sess h.dsc h.wc h.dge h.dxu h.cpe h.ftu h.pxe h.snap h.slc h.evr ..
  · exact execVerify_frame π h.fresh h.out h.link h.port h.cqe h.sess h.dsc h.wc h.dge h.dxu h.cpe h.ftu h.pxe h.snap h.slc h.evr ..
  · exact execAbort_frame π h.fresh h.out h.link h.port h.cqe h.sess h.dsc h.wc h.dge h.dxu h.cpe h.ftu h.pxe h.snap h.slc h.evr ..
  · exact execCommandInvalidOpcode_frame π h.fresh h.out h.link h.port h.cqe h.sess h.dsc h.wc h.dge h.dxu h.cpe h.ftu h.pxe h.snap h.slc h.evr ..
  · exact execForwardedCommand_frame π h.fresh h.out h.link h.port h.cqe h.dsc h.wc h.dge h.dxu h.cpe h.ftu h.pxe h.snap h.slc h.evr ..
  · exact execForwardedCompletion_frame π h.out h.port h.cqe h.sess h.wc h.dge h.cpe h.ftu h.slc h.evr ..
  · exact execDataFlitReceived_frame π h.fresh h.out h.link h.port h.cqe h.sess h.dsc h.wc h.dge h.dxu h.cpe h.ftu h.pxe h.snap h.slc h.evr ..
  · exact execDataTimerExpiry_frame π h.dt h.out h.port h.cqe h.sess h.wc h.dge h.cpe h.ftu h.slc h.evr ..
  · exact execCompletionTransmit_frame π h.out h.port h.cqe h.dsc h.evr ..
  · exact execClass7ResourceFreed_frame π h.fresh h.out h.link h.port h.cqe h.dsc h.wc h.dge h.dxu h.cpe h.ftu h.pxe h.snap h.slc h.evr ..
  · exact execMediaOpIssue_frame π h.dt h.fresh h.out h.link h.port h.cqe h.dsc h.wc h.dge h.dxu h.cpe h.ftu h.pxe h.snap h.gov h.slc h.evr ..
  · exact execSettleEnd_frame π h.dt h.dsc ..
  · exact execReadResponse_frame π h.fresh h.out h.link h.port h.cqe h.dsc h.wc h.dge h.dxu h.cpe h.ftu h.pxe h.pxeAll h.snap h.ha h.gov h.slc
      h.rcc h.evr h.glb h.warm ..
  · exact execMediaReadTimeout_frame π h.dt h.fresh h.out h.link h.port h.cqe h.dsc h.wc h.dge h.dxu h.cpe h.ftu h.pxe h.snap h.gov h.slc h.evr
      h.glb ..
  · exact execDieFailTimeout_frame π h.dt h.fresh h.out h.port h.cqe h.dsc h.wc h.dxu h.ftu h.pxe h.pxeAll h.gov h.evr h.glb ..
  · exact execSoftReadResponse_frame π h.fresh h.out h.link h.port h.cqe h.dsc h.wc h.dge h.dxu h.cpe h.ftu h.pxe h.pxeAll h.snap h.ha h.gov
      h.slc h.rcc h.evr h.glb h.warm ..
  · exact execProgramResponse_frame π h.fresh h.out h.link h.port h.cqe h.dsc h.wc h.dxu h.ftu h.pxe h.pxeAll h.ha h.gov h.rcc h.evr h.glb
      h.warm ..
  · exact execEraseResponse_frame π h.fresh h.out h.link h.port h.cqe h.dsc h.wc h.dxu h.ftu h.pxe h.pxeAll h.ha h.gov h.rcc h.evr h.glb h.warm ..
  · exact execSuspendResponse_frame π h.fresh h.out h.link h.port h.cqe h.dsc h.wc h.dxu h.ftu h.pxe h.pxeAll h.gov h.evr h.glb ..
  · exact execResumeResponse_frame π h.fresh h.out h.link h.port h.cqe h.dsc h.wc h.dxu h.ftu h.pxe h.pxeAll h.gov h.evr h.glb ..
  · exact execTelemetry_frame π h.link h.port h.cqe h.ftu h.evr h.glb ..
  · exact execTelemetryMissing_frame π h.dt h.link ..
  · exact execMboxResponse_frame π h.fresh h.out h.link h.port h.cqe h.dsc h.wc h.dge h.dxu h.cpe h.ftu h.pxe h.pxeAll h.ha h.snw h.gov h.slc
      h.rcc h.evr h.glb h.warm ..
  · exact execLeaseCasResponse_frame π h.fresh h.out h.link h.port h.cqe h.dsc h.wc h.dge h.dxu h.cpe h.ftu h.pxe h.pxeAll h.ha h.snw h.gov
      h.slc h.rcc h.evr h.glb h.warm ..
  · exact execEpochResponse_frame π h.fresh h.out h.link h.port h.cqe h.dsc h.wc h.dge h.dxu h.cpe h.ftu h.pxe h.pxeAll h.ha h.snw h.gov h.slc
      h.rcc h.evr h.glb h.warm ..
  · exact execOwnerResponse_frame π h.fresh h.out h.link h.port h.cqe h.dsc h.wc h.dge h.dxu h.cpe h.ftu h.pxe h.pxeAll h.ha h.gov h.slc h.rcc
      h.evr h.glb h.warm ..
  · exact execIdentResponse_frame π h.fresh h.out h.link h.port h.lane h.cqe h.sess h.dsc h.wc h.dge h.dxu h.cpe h.ftu h.pxe h.pxeAll h.snap
      h.ha h.gov h.slc h.rot h.xts h.cfg h.cfgAll h.evr h.glb ..
  · exact execMirrorCopy_frame π h.out h.port h.wc h.evr ..
  · exact execPeerMediaRead_frame π h.out h.port h.dsc h.evr ..
  · exact execPeerMediaReadResponse_frame π h.fresh h.out h.link h.port h.cqe h.dsc h.wc h.dge h.dxu h.cpe h.ftu h.pxe h.snap h.gov h.slc h.evr ..
  · exact execHeartbeat_frame π h.fresh h.out h.link h.port h.lane h.cqe h.sess h.dsc h.wc h.dge h.dxu h.cpe h.ftu h.pxe h.pxeAll h.snap h.ha
      h.snw h.gov h.slc h.rot h.xts h.cfg h.cfgAll h.evr h.glb ..
  · exact execMirrorAck_frame π h.fresh h.out h.link h.port h.cqe h.dsc h.wc h.dge h.dxu h.cpe h.ftu h.pxe h.snap h.ha h.slc h.evr ..
  · exact execMirrorMeta_frame π h.out h.port h.cqe h.wc h.evr ..
  · exact execRelease_frame π h.port h.wc h.evr ..
  · exact execDiscard_frame π h.out h.port h.wc h.evr ..
  · exact execDiscardAck_frame π h.out h.port h.cqe h.wc h.dge h.cpe h.ftu h.slc h.evr ..
  · exact execDiscardAckTimeout_frame π h.dt h.out h.port h.cqe h.dge h.cpe h.ftu h.slc h.evr ..
  · exact execMirrorDeadline_frame π h.dt h.out h.port h.cqe h.wc h.dge h.cpe h.ftu h.slc h.evr ..
  · exact execFilterSlot_frame π h.port h.cqe h.dxu h.evr ..
  · exact execDrbSet_frame π h.out h.port h.pxe h.evr ..
  · exact execDrbAck_frame π h.port h.pxe h.evr ..
  · exact execMemberState_frame π h.fresh h.out h.port h.cqe h.dsc h.wc h.dxu h.ftu h.pxe h.pxeAll h.gov h.evr h.glb ..
  · exact execLeaseNote_frame π h.out h.link h.port h.ha h.evr ..
  · exact execHandover_frame π h.out h.port h.cqe h.wc h.dge h.cpe h.ftu h.ha h.slc h.evr ..
  · exact execMapMove_frame π h.out h.port h.ftu h.evr ..
  · exact execMapMoveAck_frame π h.port h.dxu h.ftu h.evr ..
  · exact execPeerReserve_frame π h.out h.port h.dsc h.evr ..
  · exact execPeerGrant_frame π h.fresh h.out h.link h.port h.cqe h.dsc h.wc h.dge h.dxu h.cpe h.ftu h.pxe h.snap h.slc h.evr ..
  · exact execPeerGrantTimeout_frame π h.dt h.fresh h.out h.link h.port h.cqe h.dsc h.wc h.dge h.dxu h.cpe h.ftu h.pxe h.snap h.slc h.evr ..
  · exact execReplayDone_frame π h.port h.wc h.evr ..
  · exact execResyncDone_frame π h.port h.wc h.evr ..
  · exact execPathSilent_frame π h.dt h.cqe h.ha h.evr ..
  · exact execLeaseLost_frame π h.dt h.out h.port h.cqe h.wc h.dge h.cpe h.ftu h.snap h.ha h.slc h.evr ..
  · exact execPairing_frame π h.fresh h.out h.link h.port h.cqe h.wc h.dge h.dxu h.cpe h.ftu h.ha h.snw h.slc h.cfg h.evr ..
  · exact execFailbackGo_frame π h.fresh h.out h.port h.cqe h.sess h.ha h.evr ..
  · exact execHandoverDrained_frame π h.out h.link h.port h.cqe h.wc h.dge h.cpe h.ftu h.snap h.ha h.slc h.evr ..
  · exact execFence_frame π h.out h.snw h.rcc h.evr h.cold ..
  · exact execFenced_frame π h.out h.link h.port h.ha h.snw h.evr ..
  · exact execStatusReq_frame π h.out h.snw h.evr ..
  · exact execStatus_frame π h.snw h.evr ..
  · exact execEventsReq_frame π h.out h.snw h.evr ..
  · exact execEvents_frame π h.out h.snw h.evr ..
  · exact execPsbRelease_frame π h.out h.snw h.rcc h.evr ..
  · exact execReleased_frame π h.snw h.evr ..
  · exact execIslandFeed_frame π h.snw h.rcc h.evr ..
  · exact execDestagePad_frame π h.dt h.out h.port h.dsc h.ftu h.pxe h.gov h.evr ..
  · exact execDgeCtxOpen_frame π h.dge h.evr ..
  · exact execDgeCtxFeed_frame π h.dge h.evr ..
  · exact execDgeCtxFinal_frame π h.dge h.evr ..
  · exact execDgeCtxRelease_frame π h.dge ..
  · exact execDgeFeedTimeout_frame π h.dt h.dge h.evr ..
  · exact execDgeBlockBoundary_frame π h.dge ..
  · exact execPartitionRefilled_frame π h.fresh h.out h.link h.port h.cqe h.dxu h.ha h.evr ..
  · exact execCompressDone_frame π h.fresh h.out h.port h.cqe h.dsc h.wc h.dxu h.cpe h.ftu h.pxe h.gov h.evr ..
  · exact execDecodeDone_frame π h.out h.port h.cqe h.dsc h.wc h.dge h.cpe h.ftu h.slc h.evr ..
  · exact execStreamCtxOpen_frame π h.cpe ..
  · exact execStreamBlockOffer_frame π h.cpe ..
  · exact execStreamBlockDone_frame π h.cpe h.evr ..
  · exact execStreamCtxClose_frame π h.cpe ..
  · exact execForceRawWrite_frame π h.fresh h.out h.port h.cqe h.sess h.cpe h.evr ..
  · exact execSegmentReclaimed_frame π h.cqe h.dsc h.ftu h.evr h.glb ..
  · exact execMemberAbsent_frame π h.dt h.fresh h.out h.port h.cqe h.dsc h.wc h.dxu h.ftu h.pxe h.pxeAll h.gov h.evr h.glb ..
  · exact execMemberLossTimeout_frame π h.dt h.fresh h.out h.port h.cqe h.dsc h.wc h.dxu h.ftu h.pxe h.pxeAll h.gov h.evr h.glb ..
  · exact execPxeLoseGo_frame π h.fresh h.out h.port h.cqe h.sess h.dsc h.wc h.dxu h.ftu h.pxe h.pxeAll h.gov h.evr h.glb ..
  · exact execRebuildNoticeTimer_frame π h.dt h.cqe h.pxe ..
  · exact execSnapshotReady_frame π h.cqe h.snap h.evr ..
  · exact execReplJobStart_frame π h.fresh h.out h.link h.port h.cqe h.dsc h.wc h.dge h.dxu h.cpe h.ftu h.pxe h.snap h.slc h.evr ..
  · exact execReplIdleTimeout_frame π h.dt h.out h.port h.cqe h.wc h.dge h.cpe h.ftu h.snap h.slc h.evr ..
  · exact execGovLoad_frame π h.fresh h.out h.port h.cqe h.sess h.gov h.evr ..
  · exact execGovModeReq_frame π h.fresh h.out h.port h.cqe h.sess h.gov h.evr ..
  · exact execGovInjGo_frame π h.fresh h.out h.port h.cqe h.sess h.gov h.evr ..
  · exact execGovInjStop_frame π h.fresh h.out h.port h.cqe h.sess h.gov h.evr ..
  · exact execGovCapStart_frame π h.fresh h.out h.port h.cqe h.sess h.gov h.evr ..
  · exact execGovCapStop_frame π h.fresh h.out h.port h.cqe h.sess h.gov h.evr ..
  · exact execDramCorrected_frame π h.mcu h.evr ..
  · exact execDramUncorrectable_frame π h.fresh h.out h.port h.cqe h.wc h.dxu h.cpe h.ftu h.pxe h.mcu h.rcc h.evr h.warm ..
  · exact execDramPatrolScrub_frame π h.dt h.fresh h.out h.port h.cqe h.wc h.dxu h.cpe h.ftu h.pxe h.mcu h.rcc h.evr h.warm ..
  · exact execEcsRead_frame π h.dt h.mcu ..
  · exact execDdrTrainingDone_frame π h.out h.port h.wc h.cpe h.mcu h.rot h.xts h.cfg h.evr ..
  · exact execSlcCorrected_frame π h.slc h.evr ..
  · exact execSlcUncorrectable_frame π h.fresh h.out h.port h.cqe h.wc h.dge h.dxu h.cpe h.ftu h.pxe h.slc h.rcc h.evr h.warm ..
  · exact execStagingReleaseTimeout_frame π h.dt h.slc ..
  · exact execSpadWaysReq_frame π h.fresh h.out h.port h.cqe h.sess h.slc h.evr ..
  · exact execSlcDisable_frame π h.fresh h.out h.port h.cqe h.sess h.slc h.evr ..
  · exact execSlcEnable_frame π h.fresh h.out h.port h.cqe h.sess h.slc h.evr ..
  · exact execCfgBegin_frame π h.fresh h.out h.port h.cqe h.sess h.cfg h.evr ..
  · exact execCfgStage_frame π h.fresh h.out h.port h.cqe h.sess h.cfg h.evr ..
  · exact execCfgCommit_frame π h.fresh h.out h.link h.port h.lane h.cqe h.sess h.dsc h.wc h.dge h.dxu h.cpe h.ftu h.pxe h.pxeAll h.snap h.ha
      h.gov h.slc h.rot h.xts h.cfg h.cfgAll h.evr h.glb ..
  · exact execCfgAbort_frame π h.fresh h.out h.port h.cqe h.sess h.cfg h.evr ..
  · exact execCfgStatus_frame π h.fresh h.out h.port h.cqe h.sess h.evr ..
  · exact execTimeSet_frame π h.fresh h.out h.port h.cqe h.sess h.cfg h.evr ..
  · exact execPeerCfgOffer_frame π h.out h.port h.cfg ..
  · exact execPeerCfgData_frame π h.fresh h.out h.link h.port h.lane h.cqe h.sess h.dsc h.wc h.ftu h.pxe h.pxeAll h.gov h.cfg h.evr h.glb ..
  · exact execPeerCfgResult_frame π h.fresh h.out h.link h.port h.lane h.cqe h.sess h.dsc h.wc h.dge h.dxu h.cpe h.ftu h.pxe h.pxeAll h.snap
      h.ha h.gov h.slc h.rot h.xts h.cfg h.cfgAll h.evr h.glb ..
  · exact execPeerCfgFetch_frame π h.fresh h.out h.link h.port h.lane h.cqe h.sess h.dsc h.wc h.dge h.dxu h.cpe h.ftu h.pxe h.pxeAll h.snap
      h.ha h.gov h.slc h.rot h.xts h.cfg h.cfgAll h.evr h.glb ..
  · exact execImageBegin_frame π h.fresh h.out h.port h.cqe h.sess h.nvi h.evr ..
  · exact execImageWrite_frame π h.fresh h.out h.port h.cqe h.sess h.nvi h.evr ..
  · exact execImageCommit_frame π h.fresh h.out h.port h.cqe h.sess h.nvi h.evr ..
  · exact execImageConfirm_frame π h.fresh h.out h.port h.cqe h.sess h.rot (hFuses rfl) h.nvi h.evr ..
  · exact execImageStatus_frame π h.fresh h.out h.port h.cqe h.sess h.nvi h.evr ..
  · exact execCertRead_frame π h.fresh h.out h.port h.cqe h.sess h.evr ..
  · exact execAttest_frame π h.fresh h.out h.port h.cqe h.sess h.evr ..
  · exact execKeySlotParity_frame π h.xts h.evr ..
  · exact execDbgChallenge_frame π h.fresh h.out h.port h.cqe h.sess h.dbg h.evr ..
  · exact execDebugD2_frame π h.fresh h.out h.port h.cqe h.sess h.dbg h.evr ..
  · exact execDebugD3_frame π h.fresh h.out h.port h.cqe h.sess h.dbg h.evr ..
  · exact execToField_frame π h.fresh h.out h.port h.cqe h.sess h.rot (hFuses rfl) h.dbg h.rcc h.evr h.cold h.warm ..
  · exact execToReturn_frame π h.fresh h.out h.port h.cqe h.sess h.dge h.snw h.rot (hFuses rfl) h.xts h.cfg h.dbg h.rcc h.evr h.cold h.warm ..
  · exact execToEnd_frame π h.fresh h.out h.port h.cqe h.sess h.dge h.snw h.rot (hFuses rfl) h.xts h.cfg h.dbg h.rcc h.evr h.cold h.warm ..
  · exact execDbgObserveOn_frame π h.fresh h.out h.port h.cqe h.sess h.rot h.dbg h.evr ..
  · exact execDbgObserveOff_frame π h.fresh h.out h.port h.cqe h.sess h.rot h.dbg h.evr ..
  · exact execPmSetP0_frame π h.fresh h.out h.port h.cqe h.sess h.pmu h.evr ..
  · exact execPmSetP2_frame π h.fresh h.out h.port h.cqe h.sess h.wc h.dge h.cpe h.ftu h.slc h.pmu h.evr ..
  · exact execPmSetP3_frame π h.fresh h.out h.port h.cqe h.sess h.dsc h.cpe h.pmu h.evr ..
  · exact execPmStatus_frame π h.fresh h.out h.port h.cqe h.sess h.evr ..
  · exact execJtagInstruction_frame π h.fresh h.out h.link h.port h.lane h.cqe h.sess h.dsc h.wc h.ftu h.pxe h.pxeAll h.gov h.mcu h.cfg h.dbg
      h.evr h.glb ..
  · exact execJtagCoreReset_frame π h.fresh h.dbg h.rcc h.evr ..
  · exact execCoreWatchdog_frame π h.rcc h.evr h.warm ..
  · exact execSwColdReset_frame π h.fresh h.out h.port h.cqe h.sess h.rcc h.evr h.cold h.warm ..
  · exact execSwWarmReset_frame π h.fresh h.out h.port h.cqe h.sess h.rcc h.evr h.cold h.warm ..
  · exact execBlockReset_frame π h.fresh h.out h.link h.linkAll h.port h.lane h.cqe h.sess h.dsc h.wc h.dge h.dxu h.cpe h.ftu h.pxe h.pxeAll
      h.snap h.ha h.gov h.slc h.nvi h.xts h.cfg h.dbg h.rcc h.evr h.glb ..
  · exact execThermalTrip_frame π h.rcc h.evr h.cold ..
  · exact execGlitch_frame π h.rcc h.evr h.cold ..
  · exact execRefclkFault_frame π h.rcc h.evr h.cold ..
  · exact execQuadPllUnlock_frame π h.fresh h.out h.link h.port h.lane h.cqe h.sess h.dsc h.wc h.ftu h.pxe h.pxeAll h.gov h.cfg h.rcc h.evr
      h.glb ..
  · exact execChipRelease_frame π h.dt h.fresh h.out h.link h.port h.dsc h.wc h.dge h.ha h.snw h.gov h.mcu h.slc h.rot h.nvi h.cfg h.rcc h.evr
      h.glb h.cold ..
  · exact execBlockRelease_frame π h.dt h.cqe h.dge h.cpe h.gov h.rcc h.evr ..
  · exact execReleaseDeferred_frame π h.dt h.rcc h.evr ..
  · exact execBootReady_frame π h.fresh h.out h.link h.port h.cqe h.dsc h.wc h.dxu h.cpe h.ftu h.pxe h.ha h.gov h.slc h.rot h.cfg h.pmu h.evr
      h.glb ..
  · exact execJunctionHotWindow_frame π h.dt h.cqe h.evr h.glb ..
  · exact execSelfTestStart_frame π h.fresh h.out h.port h.cqe h.sess h.dsc h.evr ..
  · exact execSelfTestAbort_frame π h.fresh h.out h.port h.cqe h.sess h.dsc h.evr ..
  · exact execSelfTestItemDone_frame π h.cqe h.dsc h.dge h.cpe h.xts h.evr ..
  · exact execAvsTick_frame π h.dt h.fresh h.out h.glb ..
  · exact execPmbusAlert_frame π h.out h.glb ..
  · exact execPmbusTimeout_frame π h.out h.glb ..
  · exact execI3cSetOffset_frame π h.out h.glb ..
  · exact execI3cRegisterWrite_frame π h.fresh h.out h.link h.port h.dsc h.wc h.snw h.gov h.mcu h.rot h.cfg h.pmu h.rcc h.evr h.glb h.cold ..
  · exact execI3cDynamicAddress_frame π h.out h.glb ..
  · exact execQuadPllLocked_frame π h.link h.rcc h.evr ..
  · exact execKeysInstalled_frame π h.cqe h.xts h.cfg h.evr ..
  · exact execFrameEntersHorizon_frame π h.dt h.fresh h.out h.link h.port h.cqe h.dsc h.wc h.dge h.dxu h.cpe h.ftu h.pxe h.snap h.gov h.slc
      h.cfg h.evr h.glb ..
  · exact execRefusals_frame π h.dt h.dsc h.evr ..
  · exact execHeartbeatTimer_frame π h.dt h.out h.link h.port h.ha ..
  · exact execPeerDeclaredFailed_frame π h.dt h.out h.link h.port h.cqe h.wc h.dge h.cpe h.ftu h.ha h.snw h.slc h.evr ..
  · exact execFenceNoAnswer_frame π h.dt h.fresh h.ha h.evr ..
  · exact execFenceRetry_frame π h.dt h.out h.link h.port h.ha h.snw ..
  · exact execLeaseWaitExpiry_frame π h.dt h.out h.link h.port h.ha ..
  · exact execLeaseRetryTimer_frame π h.dt h.out h.link h.port h.ha ..
  · exact execLeaseRenewalTimer_frame π h.dt h.out h.link h.port h.ha ..
  · exact execYieldTimer_frame π h.dt h.out h.link h.port h.cqe h.wc h.dge h.cpe h.ftu h.ha h.slc h.rcc h.evr h.warm ..
  · exact execFailbackStable_frame π h.dt h.out h.link h.port h.cqe h.wc h.dge h.cpe h.ftu h.ha h.slc h.evr ..
  · exact execPsbRejectLimit_frame π h.snw ..
  · exact execPsbIgnoreEnd_frame π h.dt h.snw ..
  · exact execPeerPortViolationLimit_frame π h.fresh h.out h.link h.port h.lane h.cqe h.sess h.dsc h.wc h.ftu h.pxe h.pxeAll h.gov h.cfg h.evr
      h.glb ..
  · exact execPwrfailSeen_frame π h.out h.port h.cqe h.dsc h.wc h.dge h.cpe h.ftu h.slc h.pmu h.evr ..
  · exact execVaultFreeze_frame π h.dt h.fresh h.out h.link h.port h.cqe h.dsc h.wc h.dge h.cpe h.ftu h.ha h.slc h.rcc h.evr h.warm ..
  · exact execPwrfailRise_frame π h.wc h.rcc h.evr h.warm ..
  · exact execCommitCloseTimer_frame π h.dt h.out h.port h.cqe h.dsc h.dxu h.ftu h.pxe h.gov h.evr ..
  · exact execGovSample_frame π h.dt h.gov h.evr ..
  · exact execFeedbackImplausible_frame π h.cqe h.gov h.evr ..
  · exact execGovPlausibleRun_frame π h.cqe h.gov h.evr ..
  · exact execBudgetUnreachable_frame π h.cqe h.gov h.evr ..
  · exact execCapWindow_frame π h.dt h.cqe h.gov h.pmu h.evr ..
  · exact execInjectionEnd_frame π h.gov h.evr ..
  · exact execCaptureFull_frame π h.gov ..
  · exact execZqCalibration_frame π h.dt h.mcu ..
  · exact execSpadChanged_frame π h.dt h.fresh h.slc h.evr ..
  · exact execSlcFlushDone_frame π h.fresh h.slc h.evr ..
  · exact execStagingAbandoned_frame π h.dt h.fresh h.out h.link h.port h.lane h.cqe h.sess h.dsc h.wc h.ftu h.pxe h.pxeAll h.gov h.cfg h.evr
      h.glb ..
  · exact execPeerCfgTimeout_frame π h.dt h.fresh h.out h.link h.port h.lane h.cqe h.sess h.dsc h.wc h.ftu h.pxe h.pxeAll h.gov h.cfg h.evr
      h.glb ..
  · exact execImageIdleTimeout_frame π h.dt h.nvi ..
  · exact execNonceExpiry_frame π h.dt h.dbg ..
  · exact execD2Quiesced_frame π h.out h.link h.port h.cqe h.sess h.wc h.dge h.dxu h.cpe h.ftu h.ha h.slc h.rot h.xts h.cfg h.dbg h.evr ..
  · exact execP2Reached_frame π h.out h.port h.sess h.pmu h.evr ..
  · exact execP3Entered_frame π h.dt h.out h.link h.port h.sess h.ha h.mcu h.rot h.pmu h.dbg h.evr h.warm ..
  · exact execPmuWake_frame π h.fresh h.out h.link h.port h.dsc h.wc h.snw h.gov h.mcu h.rot h.cfg h.pmu h.rcc h.evr h.glb h.cold ..
  · exact execPor_frame π h.por ..
  · exact execPwrgdLoss_frame π h.rcc h.evr h.cold ..
  · exact execResetN_frame π h.rcc h.evr h.cold ..
  · exact execWresetN_frame π h.fresh h.out h.link h.port h.dsc h.wc h.snw h.gov h.mcu h.rot h.cfg h.pmu h.rcc h.evr h.glb h.cold h.warm ..
  · exact execRotWatchdog_frame π h.rcc h.evr h.cold ..
  · exact execEvrRateWindow_frame π h.dt h.cqe h.dge h.dxu h.evr ..
  · exact execHealthReportRebuild_frame π h.evr ..
  · exact execHealthRecordPersist_frame π h.dt h.evr ..
  · exact execSelfTestTimeout_frame π h.dt h.cqe h.dsc h.evr ..
  · exact execI3cPrivateRead_frame π h.out h.lane h.cqe h.dsc h.dge h.dxu h.cpe h.ftu h.snw h.mcu h.slc h.nvi h.xts h.dbg h.evr h.glb ..

/-! ## The queue -/

/-- No block holds the queue. -/
theorem untouched_pending : Untouched State.pending := by
  constructor <;> intro _ <;> intros <;> rfl

/-- Settles O2: the queue is a view that every command leaves alone. -/
theorem everyCommandKeepsTheQueue : Obligations.EveryCommandKeepsTheQueue :=
  fun c s => exec_untouched untouched_pending c (fun _ _ _ => rfl) s

end Sys2Proof.Machine
end

section
/-! PROOF. Fuses are blown by four commands alone, and none undoes what is blown (R391, R415, R421). -/

namespace Sys2Proof.Machine

open Sys2Proof

/-! ## One step of the fuses -/

/-- The fuses of `t` fit its lifecycle and may follow those of `s`. -/
def State.fusesGo (s t : State) : Prop := t.FusesFit ∧ s.fusesFollow t

/-- It is a matter of the fuses alone. -/
theorem State.fusesGo_congr {s t u : State} (h : t.rot.fuses = u.rot.fuses) (hu : s.fusesGo u) : s.fusesGo t := by
  obtain ⟨hlife, hwrap, hanchor, hsvn, hserial⟩ : t.rot.lifecycle = u.rot.lifecycle ∧ t.rot.wrapErased = u.rot.wrapErased ∧
      t.rot.ownerAnchor = u.rot.ownerAnchor ∧ t.rot.fuseSvn = u.rot.fuseSvn ∧ t.rot.serial = u.rot.serial := by
    simpa [Rot.fuses] using h
  unfold State.fusesGo State.FusesFit State.fusesFollow at *
  rw [hlife, hwrap, hanchor, hsvn, hserial]
  exact hu

theorem State.fusesGo_refl {s : State} (hfit : s.FusesFit) : s.fusesGo s :=
  ⟨hfit, Nat.le_refl _, id, fun _ => rfl, Nat.le_refl _, rfl⟩

/-- A step that touches no fuse. -/
theorem State.fusesGo_of_eq {s t : State} (hfit : s.FusesFit) (h : t.rot.fuses = s.rot.fuses) : s.fusesGo t :=
  State.fusesGo_congr h (State.fusesGo_refl hfit)

/-! ## Commands that blow no fuse -/

/-- No reset and no change of ROT's other registers touches a fuse. -/
theorem untouched_fuses : Untouched fun s => s.rot.fuses where
  linkAll _ _ := rfl
  cqe _ _ := rfl
  dsc _ _ := rfl
  wc _ _ := rfl
  dge _ _ := rfl
  dxu _ _ := rfl
  cpe _ _ := rfl
  ftu _ _ := rfl
  pxeAll _ _ := rfl
  snap _ _ := rfl
  ha _ _ := rfl
  snw _ _ := rfl
  gov _ _ := rfl
  mcu _ _ := rfl
  slc _ _ := rfl
  rot s _ h := h s.rot
  nvi _ _ := rfl
  xts _ _ := rfl
  cfgAll _ _ := rfl
  pmu _ _ := rfl
  dbg _ _ := rfl
  rcc _ _ := rfl
  evr _ _ := rfl
  glb _ _ := rfl
  dt _ _ := rfl
  fresh _ _ := rfl
  out _ _ := rfl
  cold _ := rfl
  warm _ := rfl
  por _ := rfl

/-! ## Requests that may blow a fuse -/

/-- What holds of every state with this head's ROT, and of what the request's own act leaves, holds of what the request leaves. -/
theorem State.vc3_rot {P : State → Prop} (s : State) (m : Vc3) (typ : Nat) (free ours : Bool) (priv : Nat) (act : Session → State → State)
    (hrest : ∀ t : State, t.rot = s.rot → P t) (hact : ∀ x, P (act x (s.heard m))) : P (s.vc3 m typ free ours priv act) := by
  unfold State.vc3
  split
  · exact hrest _ (State.hostViolation_frame State.rot (fun _ _ => rfl) (fun _ _ _ => rfl) (fun _ _ => rfl) ..)
  next x _ =>
    dsimp only
    split
    · exact hrest _ rfl
    · split
      · exact hrest _ rfl
      · refine hrest _ ((State.answer_frame State.rot (fun _ _ => rfl) (fun _ _ _ => rfl) (fun _ _ _ => rfl) ..).trans ?_)
        split
        · split <;> rfl
        · rfl
      · exact hact x

/-- IMAGE_CONFIRM raises FUSE_SVN or leaves it (R391). -/
theorem State.fusesGo_imageConfirm {s : State} (hfit : s.FusesFit) (m : Vc3) : ∃ t, exec (.imageConfirm m) s = .next t ∧ s.fusesGo t := by
  refine ⟨_, rfl, State.vc3_rot _ _ _ _ _ _ _ (fun t ht => State.fusesGo_of_eq hfit (congrArg Rot.fuses ht)) fun _ => ?_⟩
  have hrot (u : State) (st : Nat) : (u.answer m 0x6B st []).rot = u.rot :=
    State.answer_frame State.rot (fun _ _ => rfl) (fun _ _ _ => rfl) (fun _ _ _ => rfl) ..
  dsimp only
  split
  · exact State.fusesGo_of_eq hfit (congrArg Rot.fuses (hrot _ _))
  · refine State.fusesGo_congr (congrArg Rot.fuses (hrot _ _)) ⟨hfit, Nat.le_refl _, id, fun _ => rfl, Nat.le_max_left .., rfl⟩

/-- A token is accepted for an action that R420 allows from the state. -/
theorem State.tokenReason_allowed {s : State} {m : Vc3} {action : Nat} {k : Token} (h : s.tokenReason m action k = 0) :
    actionAllowed s.rot.lifecycle s.dbg.level action = true := by
  unfold State.tokenReason at h
  grind

/-- A refused token touches no fuse, and an accepted one acts in a state with this head's ROT, from which R420 allows its action. -/
theorem State.fusesGo_token {s : State} (hfit : s.FusesFit) (m : Vc3) (action : Nat) (k : Token) (act : State → State)
    (hact : ∀ u : State, u.rot = s.rot → actionAllowed s.rot.lifecycle s.dbg.level action = true → s.fusesGo (act u)) :
    s.fusesGo (s.token m action k act) := by
  refine State.vc3_rot _ _ _ _ _ _ _ (fun t ht => State.fusesGo_of_eq hfit (congrArg Rot.fuses ht)) fun _ => ?_
  have hrefuse (u : State) (reason : Nat) (hu : u.rot = s.rot) : s.fusesGo (u.refuseToken m action reason) :=
    State.fusesGo_of_eq hfit (congrArg Rot.fuses ((State.refuseToken_frame State.rot (fun _ _ => rfl) (fun _ _ _ => rfl) (fun _ _ _ => rfl)
      (fun _ _ => rfl) (fun _ _ => rfl) ..).trans hu))
  have hnonce : (if (s.heard m).nonceHolds m action k = true then (s.heard m).modDbg fun d => { d with nonce := none } else s.heard m).rot =
      s.rot := by split <;> rfl
  dsimp only
  split
  · exact hrefuse _ _ rfl
  · split
    · exact hrefuse _ _ hnonce
    · next hreason =>
      exact hact _ hnonce (State.tokenReason_allowed (s := s.heard m) (Classical.not_not.mp hreason))

/-- The lifecycle fuses alone are blown: the reset that follows keeps them (R436). -/
theorem State.toLifecycle_fuses (s : State) (m : Vc3) (new : Lifecycle) (action : Nat) :
    (s.toLifecycle m new action).rot.fuses = (s.modRot fun r => { r with lifecycle := new }).rot.fuses :=
  (State.actSwrst_frame (·.rot.fuses) (fun _ _ => rfl) (fun _ _ => rfl) (fun _ => rfl) (fun _ => rfl) _).trans
    (State.reason_frame (·.rot.fuses) (fun _ _ => rfl) (fun _ _ _ => rfl) (fun _ _ _ => rfl) ..)

/-- Steps 1 to 3 of R421 blow the wrap-key erase fuse alone. -/
theorem State.eraseKeys_fuses (s : State) : s.eraseKeys.rot.fuses = (s.modRot fun r => { r with wrapErased := true }).rot.fuses := by
  have hpurge : (s.purge 3).rot.fuses = s.rot.fuses := State.purge_frame (·.rot.fuses) (fun _ _ => rfl) (fun _ _ => rfl) (fun s _ h => h s.rot)
    (fun _ _ => rfl) (fun _ _ _ => rfl) (fun _ _ => rfl) ..
  simp_all [State.eraseKeys, Rot.fuses]

/-- TO_FIELD is allowed from PROVISIONED (R420), where no anchor is fused yet (R421). -/
theorem State.fusesGo_toField {s : State} (hfit : s.FusesFit) (m : Vc3) (k : Token) : ∃ t, exec (.toField m k) s = .next t ∧ s.fusesGo t := by
  refine ⟨_, rfl, State.fusesGo_token hfit m 3 k _ fun u hu hallowed => State.fusesGo_congr (State.toLifecycle_fuses ..) ?_⟩
  have hlife : s.rot.lifecycle = .provisioned := by simpa [actionAllowed] using hallowed
  have hanchor : s.rot.ownerAnchor = none := hfit.1 (.inr hlife)
  simp [State.fusesGo, State.FusesFit, State.fusesFollow, hu, hlife, hanchor, lifecycleNum]

/-- TO_RETURN and TO_END, from a lifecycle that is not past theirs, erase the wrap key (R421). -/
theorem State.fusesGo_eraseTo {s u : State} (hu : u.rot = s.rot) (m : Vc3) {new : Lifecycle} (action : Nat) (hnew : new = .ret ∨ new = .ended)
    (hle : lifecycleNum s.rot.lifecycle ≤ lifecycleNum new) : s.fusesGo (u.eraseKeys.toLifecycle m new action) := by
  have hfuses : (u.eraseKeys.toLifecycle m new action).rot.fuses =
      (u.modRot fun r => { r with wrapErased := true, lifecycle := new }).rot.fuses := by
    have herase := u.eraseKeys_fuses
    rw [State.toLifecycle_fuses]
    simp_all [Rot.fuses]
  refine State.fusesGo_congr hfuses ?_
  rcases hnew with rfl | rfl <;> simp [State.fusesGo, State.FusesFit, State.fusesFollow, hu, hle]

theorem State.fusesGo_toReturn {s : State} (hfit : s.FusesFit) (m : Vc3) (k : Token) : ∃ t, exec (.toReturn m k) s = .next t ∧ s.fusesGo t := by
  refine ⟨_, rfl, State.fusesGo_token hfit m 4 k _ fun u hu hallowed => State.fusesGo_eraseTo hu m 4 (.inl rfl) ?_⟩
  rcases (by simpa [actionAllowed] using hallowed : s.rot.lifecycle = .provisioned ∨ s.rot.lifecycle = .field) with hlife | hlife <;>
    simp [hlife, lifecycleNum]

theorem State.fusesGo_toEnd {s : State} (hfit : s.FusesFit) (m : Vc3) (k : Token) : ∃ t, exec (.toEnd m k) s = .next t ∧ s.fusesGo t := by
  refine ⟨_, rfl, State.fusesGo_token hfit m 5 k _ fun u hu _ => State.fusesGo_eraseTo hu m 5 (.inr rfl) ?_⟩
  cases s.rot.lifecycle <;> decide

/-- Every command leaves fuses that fit and follow. -/
theorem exec_fusesGo {s : State} (hfit : s.FusesFit) (c : Instr) : ∃ t, exec c s = .next t ∧ s.fusesGo t := by
  by_cases hblows : Instr.blowsFuse c = true
  · unfold Instr.blowsFuse at hblows
    split at hblows
    · exact State.fusesGo_imageConfirm hfit _
    · exact State.fusesGo_toField hfit _ _
    · exact State.fusesGo_toReturn hfit _ _
    · exact State.fusesGo_toEnd hfit _ _
    · exact nomatch hblows
  · obtain ⟨t, hexec, hfuses⟩ := exec_untouched untouched_fuses c (fun h => absurd h hblows) s
    exact ⟨t, hexec, State.fusesGo_of_eq hfit hfuses⟩

/-- Settles O4: time that passes touches no fuse, and a command leaves fuses that fit and follow; the queue holds none. -/
theorem fusesNeverGoBack : Obligations.FusesNeverGoBack := by
  intro s t hfit hstep
  unfold step at hstep
  split at hstep
  · obtain rfl : s.idle = t := by simpa using hstep
    exact State.fusesGo_of_eq (t := s.idle) hfit rfl
  next c rest _ =>
    obtain ⟨u, hexec, hgo⟩ := exec_fusesGo (s := { s with pending := rest }) hfit c
    obtain rfl : u = t := by simpa using hexec.symm.trans hstep
    exact hgo

end Sys2Proof.Machine
end

section
/-! PROOF. Views of the state that are blind to some of its parts, so that the frame lemmas apply to them; and what an answer leaves of a
request's act. -/

namespace Sys2Proof.Machine

open Sys2Proof

/-! ## Views blind to parts of the state -/

/-- The view does not look into the parts `bs`. -/
def Blind {α : Type} (bs : List Blk) (π : State → α) : Prop := ∀ b ∈ bs, ∀ s t : State, t.blank b = s.blank b → π t = π s

theorem blind_without (bs : List Blk) : Blind bs (State.without · bs) := fun _ hb _ _ h => State.without_congr hb h

section
variable {α : Type} {bs : List Blk} {π : State → α} (h : Blind bs π)
include h

theorem Blind.linkAll (hb : Blk.link ∈ bs := by decide) : KeepsLinkAll π := fun s _ => h _ hb s _ rfl
theorem Blind.cqe (hb : Blk.cqe ∈ bs := by decide) : KeepsCqe π := fun s _ => h _ hb s _ rfl
theorem Blind.dsc (hb : Blk.dsc ∈ bs := by decide) : KeepsDsc π := fun s _ => h _ hb s _ rfl
theorem Blind.wc (hb : Blk.wc ∈ bs := by decide) : KeepsWc π := fun s _ => h _ hb s _ rfl
theorem Blind.dge (hb : Blk.dge ∈ bs := by decide) : KeepsDge π := fun s _ => h _ hb s _ rfl
theorem Blind.dxu (hb : Blk.dxu ∈ bs := by decide) : KeepsDxu π := fun s _ => h _ hb s _ rfl
theorem Blind.cpe (hb : Blk.cpe ∈ bs := by decide) : KeepsCpe π := fun s _ => h _ hb s _ rfl
theorem Blind.ftu (hb : Blk.ftu ∈ bs := by decide) : KeepsFtu π := fun s _ => h _ hb s _ rfl
theorem Blind.pxeAll (hb : Blk.pxe ∈ bs := by decide) : KeepsPxeAll π := fun s _ => h _ hb s _ rfl
theorem Blind.snap (hb : Blk.snap ∈ bs := by decide) : KeepsSnap π := fun s _ => h _ hb s _ rfl
theorem Blind.ha (hb : Blk.ha ∈ bs := by decide) : KeepsHa π := fun s _ => h _ hb s _ rfl
theorem Blind.snw (hb : Blk.snw ∈ bs := by decide) : KeepsSnw π := fun s _ => h _ hb s _ rfl
theorem Blind.gov (hb : Blk.gov ∈ bs := by decide) : KeepsGov π := fun s _ => h _ hb s _ rfl
theorem Blind.mcu (hb : Blk.mcu ∈ bs := by decide) : KeepsMcu π := fun s _ => h _ hb s _ rfl
theorem Blind.slc (hb : Blk.slc ∈ bs := by decide) : KeepsSlc π := fun s _ => h _ hb s _ rfl
theorem Blind.nvi (hb : Blk.nvi ∈ bs := by decide) : KeepsNvi π := fun s _ => h _ hb s _ rfl
theorem Blind.xts (hb : Blk.xts ∈ bs := by decide) : KeepsXts π := fun s _ => h _ hb s _ rfl
theorem Blind.cfgAll (hb : Blk.cfg ∈ bs := by decide) : KeepsCfgAll π := fun s _ => h _ hb s _ rfl
theorem Blind.pmu (hb : Blk.pmu ∈ bs := by decide) : KeepsPmu π := fun s _ => h _ hb s _ rfl
theorem Blind.dbg (hb : Blk.dbg ∈ bs := by decide) : KeepsDbg π := fun s _ => h _ hb s _ rfl
theorem Blind.rcc (hb : Blk.rcc ∈ bs := by decide) : KeepsRcc π := fun s _ => h _ hb s _ rfl
theorem Blind.evr (hb : Blk.evr ∈ bs := by decide) : KeepsEvr π := fun s _ => h _ hb s _ rfl
theorem Blind.glb (hb : Blk.glb ∈ bs := by decide) : KeepsGlb π := fun s _ => h _ hb s _ rfl
theorem Blind.link (hb : Blk.link ∈ bs := by decide) : KeepsLink π := fun s _ _ => h _ hb s _ rfl
theorem Blind.port (hb : Blk.link ∈ bs := by decide) : KeepsPort π := fun s _ _ => h _ hb s _ rfl
theorem Blind.lane (hb : Blk.link ∈ bs := by decide) : KeepsLane π := fun s _ _ => h _ hb s _ rfl
theorem Blind.sess (hb : Blk.cqe ∈ bs := by decide) : KeepsSess π := fun s _ _ => h _ hb s _ rfl
theorem Blind.pxe (hb : Blk.pxe ∈ bs := by decide) : KeepsPxe π := fun s _ _ => h _ hb s _ rfl
theorem Blind.cfg (hb : Blk.cfg ∈ bs := by decide) : KeepsCfg π := fun s _ _ => h _ hb s _ rfl
theorem Blind.rot (hb : Blk.rot ∈ bs := by decide) : KeepsRot π := fun s _ _ => h _ hb s _ rfl
theorem Blind.fuses (hb : Blk.rot ∈ bs := by decide) : KeepsFuses π := fun s _ => h _ hb s _ rfl
theorem Blind.dt (hb : Blk.dt ∈ bs := by decide) : KeepsDt π := fun s _ => h _ hb s _ rfl
theorem Blind.fresh (hb : Blk.fresh ∈ bs := by decide) : KeepsFresh π := fun s _ => h _ hb s _ rfl
theorem Blind.out (hb : Blk.out ∈ bs := by decide) : KeepsOut π := fun s _ => h _ hb s _ rfl

end

/-- A view that an outcome leaves alone reads the same in the state that it is. -/
theorem next_frame {α : Type} {π : State → α} {o : Host.Outcome State Fault Refusal} {s t : State} (h : ∃ u, o = .next u ∧ π u = π s)
    (ht : o = .next t) : π t = π s := by
  obtain ⟨u, hu, hπ⟩ := h
  obtain rfl : u = t := by simpa using hu.symm.trans ht
  exact hπ

/-! ## Requests that act and are answered -/

/-- What was sent and the ports, beside every part outside `bs`. -/
def State.aside (bs : List Blk) (s : State) : List Sent × Link × State := (s.out, s.link, s.without bs)

theorem State.blank_out {b : Blk} (hb : b ≠ .out) (s : State) : (s.blank b).out = s.out := by
  cases b with
  | out => exact absurd rfl hb
  | _ => rfl

theorem State.blank_link {b : Blk} (hb : b ≠ .link) (s : State) : (s.blank b).link = s.link := by
  cases b with
  | link => exact absurd rfl hb
  | _ => rfl

/-- Of `bs` it looks into what was sent and the ports alone. -/
theorem blind_aside (bs : List Blk) : Blind (bs.filter fun b => b != .out && b != .link) (State.aside bs) := by
  intro b hb s t h
  obtain ⟨hmem, hne⟩ := List.mem_filter.mp hb
  have hne : b ≠ .out ∧ b ≠ .link := by simpa using hne
  have hout : t.out = s.out := by rw [← State.blank_out hne.1 t, h, State.blank_out hne.1]
  have hlink : t.link = s.link := by rw [← State.blank_link hne.2 t, h, State.blank_link hne.2]
  simp only [State.aside, hout, hlink, State.without_congr hmem h]

/-- An act that sends nothing, then the answer: the answer is given once, and the parts that the act leaves alone stay as they were. -/
theorem State.answered {bs : List Blk} (hv : ∀ b ∈ vcParts, b ∈ bs) {s u : State} {m : Vc3} (h : u.aside bs = (s.heard m).aside bs)
    (typ status : Nat) (body : Bytes) :
    s.answers (u.answer m typ status body) m typ status body ∧ (u.answer m typ status body).without bs = s.without bs := by
  obtain ⟨hout, hlink, hrest⟩ : u.out = s.out ∧ u.link = s.link ∧ u.without bs = (s.heard m).without bs := by
    simpa [State.aside, State.heard, State.modSession, State.modCqe] using h
  exact ⟨s.answer_answers u hout hlink m typ status body, (State.answer_without hv ..).trans (hrest.trans (State.heard_without hv s m))⟩

end Sys2Proof.Machine
end

section
/-! PROOF. The register writes of GOV (R354, R357, R361, R362). -/

namespace Sys2Proof.Machine

open Sys2Proof

/-! ## Modes and injections -/

@[simp] theorem State.event_evr (s : State) (code : BitVec 16) (inst p0 p1 p2 p3 : Nat) :
    (s.event code inst p0 p1 p2 p3).evr = s.logged code inst p0 p1 p2 p3 := rfl

/-- The end of an injection (R361) leaves GOV with no injection, whether one ran or not. -/
@[simp] theorem State.endInjection_gov (s : State) (cause : Nat) : (s.endInjection cause).gov = { s.gov with inj := none } := by
  unfold State.endInjection
  split
  next hinj => rw [← hinj]
  · rfl

theorem State.endInjection_evr {s : State} {i : Injection} (cause : Nat) (hi : s.gov.inj = some i) :
    (s.endInjection cause).evr = s.logged 0x0808 0 i.kind 0 i.amp cause := by
  unfold State.endInjection
  rw [hi]
  rfl

@[simp] theorem State.powerNotice_gov (s : State) (cause : Nat) : (s.powerNotice cause).gov = s.gov := rfl

/-- GOV once it has entered another mode (R354): no injection runs, the counts start again, entry to CLOSED restarts the histories and
entry to HOLD stops the capture. -/
def Gov.entered (g : Gov) (new : GovMode) : Gov :=
  { g with
    inj := none
    mode := new
    implRun := 0
    plausRun := 0
    floorRun := 0
    eHist := if new = .closed then [0, 0, 0] else g.eHist
    uHist := if new = .closed then [g.u, g.u, g.u] else g.uHist
    capRun := if new = .hold then false else g.capRun }

theorem State.setGovMode_gov {s : State} {new : GovMode} (cause : Nat) (h : s.gov.mode ≠ new) :
    (s.setGovMode new cause).gov = s.gov.entered new := by
  unfold State.setGovMode
  rw [if_neg h]
  simp only [State.powerNotice_gov, State.modGov_gov, State.endInjection_gov]
  rfl

/-! ## What a write of each register leaves of GOV -/

/-- GOV as a write of GOV_CTRL sets its bits. -/
def Gov.ctrl (g : Gov) (v : Nat) : Gov :=
  { g with modeReq := tbit v 0, form := tbit v 1, compat := tbit v 2, loadReq := g.loadReq || tbit v 3 }

theorem State.writeGovCtrl_gov (s : State) (v : Nat) : (s.writeGovCtrl v).gov =
    if tbit v 0 = false ∧ s.gov.mode = .closed then (s.gov.ctrl v).entered .model else s.gov.ctrl v := by
  unfold State.writeGovCtrl
  split
  next h =>
    rw [if_pos (by simpa using h), State.setGovMode_gov]
    · rfl
    · have : s.gov.mode = .closed := h.2
      simp [this]
  next h => rw [if_neg (by simpa using h)]; rfl

/-- GO within the limits of R361 starts the injection that the write describes, and records it. -/
theorem State.writeInjCfg_go {s : State} {v : Nat} (hgo : tbit v 31 = true) (hstop : tbit v 30 = false)
    (hamp : (s.gov.injAmp : Int) * 10 ≤ s.gov.target) (hmode : s.gov.mode = .closed ∨ s.gov.mode = .model ∧ tbit v 27 = false)
    (hinj : s.gov.inj = none) (hdur : bits v 15 0 ≠ 0) :
    (s.writeInjCfg v).gov.inj = some ⟨bits v 29 28, tbit v 27, bits v 26 21, bits v 15 0, s.gov.injAmp, 0, BitVec.allOnes 11⟩ ∧
      (s.writeInjCfg v).evr = s.logged 0x0808 0 (bits v 29 28) 1 s.gov.injAmp 0 := by
  unfold State.writeInjCfg
  simp only [hgo, hstop, if_true, Bool.false_eq_true, if_false]
  unfold State.injGo
  dsimp only
  rw [if_neg ?refused]
  · exact ⟨rfl, rfl⟩
  case refused =>
    have : ¬ s.gov.target < (s.gov.injAmp : Int) * 10 := by omega
    rcases hmode with hmode | ⟨hmode, hpoint⟩
    · simp [*]
    · simp [*]

theorem State.writeInjCfg_stop {s : State} {v : Nat} {i : Injection} (hgo : tbit v 31 = false) (hstop : tbit v 30 = true)
    (hi : s.gov.inj = some i) :
    (s.writeInjCfg v).gov.inj = none ∧ (s.writeInjCfg v).evr = s.logged 0x0808 0 i.kind 0 i.amp 2 := by
  unfold State.writeInjCfg
  simp only [hgo, hstop, if_true, Bool.false_eq_true, if_false]
  exact ⟨by simp, State.endInjection_evr (i := i) 2 hi⟩

theorem State.writeCapCtrl_start {s : State} {v : Nat} (hstart : tbit v 31 = true) (hstop : tbit v 30 = false) (hmode : s.gov.mode ≠ .hold) :
    (s.writeCapCtrl v).gov = { s.gov with
      oneShot := tbit v 28
      onInj := tbit v 27
      decim := bits v 23 16
      capRun := true
      ring := []
      capSkip := 0 } := by
  unfold State.writeCapCtrl
  simp only [hstop, Bool.false_eq_true, if_false]
  rw [if_pos ⟨hstart, hmode⟩]
  rfl

theorem State.writeCapCtrl_stop {s : State} {v : Nat} (hstop : tbit v 30 = true) : (s.writeCapCtrl v).gov.capRun = false := by
  unfold State.writeCapCtrl
  rw [if_pos hstop]
  rfl

/-! ## The commands -/

section
variable {m : Vc3} {x : Session} {s : State} (h : s.writes m 2 x) (value : Word)
include h

theorem exec_govLoad : exec (.govLoad m value) s = .next (((s.heard m).writeGovCtrl value.toNat).answer m 0x31 stSuccess []) :=
  congrArg Host.Outcome.next (s.regWrite_writes m _ 2 _ x h)

theorem exec_govModeReq : exec (.govModeReq m value) s = .next (((s.heard m).writeGovCtrl value.toNat).answer m 0x31 stSuccess []) :=
  congrArg Host.Outcome.next (s.regWrite_writes m _ 2 _ x h)

theorem exec_govInjGo : exec (.govInjGo m value) s = .next (((s.heard m).writeInjCfg value.toNat).answer m 0x31 stSuccess []) :=
  congrArg Host.Outcome.next (s.regWrite_writes m _ 2 _ x h)

theorem exec_govInjStop : exec (.govInjStop m value) s = .next (((s.heard m).writeInjCfg value.toNat).answer m 0x31 stSuccess []) :=
  congrArg Host.Outcome.next (s.regWrite_writes m _ 2 _ x h)

theorem exec_govCapStart : exec (.govCapStart m value) s = .next (((s.heard m).writeCapCtrl value.toNat).answer m 0x31 stSuccess []) :=
  congrArg Host.Outcome.next (s.regWrite_writes m _ 2 _ x h)

theorem exec_govCapStop : exec (.govCapStop m value) s = .next (((s.heard m).writeCapCtrl value.toNat).answer m 0x31 stSuccess []) :=
  congrArg Host.Outcome.next (s.regWrite_writes m _ 2 _ x h)

end

/-- Settles O37: each write acts on the head that has heard the request, and is answered. -/
theorem theGovernorObeysItsRegisters : Obligations.TheGovernorObeysItsRegisters := by
  intro m value x s h
  have quiet : Blind ((Blk.gov :: vcParts).filter fun b => b != .out && b != .link) (State.aside (.gov :: vcParts)) := blind_aside _
  have hctrl := State.answered (by decide) ((s.heard m).writeGovCtrl_frame _ quiet.cqe quiet.gov quiet.evr value.toNat) 0x31 stSuccess []
  have hinj := State.answered (by decide) ((s.heard m).writeInjCfg_frame _ quiet.gov quiet.evr value.toNat) 0x31 stSuccess []
  have hcap := State.answered (by decide) ((s.heard m).writeCapCtrl_frame _ quiet.gov value.toNat) 0x31 stSuccess []
  refine ⟨fun hload => ?load, ?modeReq, fun hgo hstop hamp hmode hnone hdur => ?go, fun i hgo hstop hi => ?stop,
    fun hstart hstop hmode => ?capStart, fun hstop => ?capStop⟩
  case load =>
    refine ⟨_, exec_govLoad h value, ?_, ?_, ?_, ?_, hctrl⟩ <;> rw [State.answer_gov, State.writeGovCtrl_gov] <;> split <;>
      simp [Gov.ctrl, Gov.entered, hload] <;> rfl
  case modeReq =>
    refine ⟨_, exec_govModeReq h value, ?_, ?_, hctrl⟩ <;> rw [State.answer_gov, State.writeGovCtrl_gov]
    · split <;> rfl
    · exact apply_ite Gov.mode ..
  case go =>
    obtain ⟨hgov, hevr⟩ := State.writeInjCfg_go (s := s.heard m) hgo hstop hamp hmode hnone hdur
    exact ⟨_, exec_govInjGo h value, (congrArg Gov.inj (State.answer_gov ..)).trans hgov, (State.answer_evr ..).trans hevr, hinj⟩
  case stop =>
    obtain ⟨hgov, hevr⟩ := State.writeInjCfg_stop (s := s.heard m) hgo hstop hi
    exact ⟨_, exec_govInjStop h value, (congrArg Gov.inj (State.answer_gov ..)).trans hgov, (State.answer_evr ..).trans hevr, hinj⟩
  case capStart =>
    exact ⟨_, exec_govCapStart h value, (State.answer_gov ..).trans (State.writeCapCtrl_start (s := s.heard m) hstart hstop hmode),
      hcap⟩
  case capStop =>
    exact ⟨_, exec_govCapStop h value, (congrArg Gov.capRun (State.answer_gov ..)).trans (State.writeCapCtrl_stop hstop), hcap⟩

end Sys2Proof.Machine
end

section
/-! PROOF. The samples, modes and windows of GOV (R352 to R356, R360 to R362). -/

namespace Sys2Proof.Machine

open Sys2Proof

/-! ## What the parts of a sample leave of GOV -/

@[simp] theorem State.govSticky_gov (s : State) (b : BitVec 8) (e : Int) :
    (s.govSticky b e).gov = { s.gov with sticky := s.gov.sticky ||| b } := by
  unfold State.govSticky
  dsimp only
  split <;> rfl

/-- LOAD that takes effect asks no more (R357). -/
@[simp] theorem State.govLoadNow_loadReq (s : State) : s.govLoadNow.gov.loadReq = false := by
  unfold State.govLoadNow
  split
  next hidle => simpa using hidle
  · rfl

@[simp] theorem State.govLoadNow_power (s : State) : s.govLoadNow.gov.power = s.gov.power := by
  unfold State.govLoadNow
  split <;> rfl

/-- The profile (R358) moves the set-point: LOAD and the POWER record stay as they are. -/
@[simp] theorem Gov.profile_loadReq (g : Gov) (t : Nat) : (g.profile t).loadReq = g.loadReq := by
  unfold Gov.profile
  split
  · rfl
  · dsimp only
    split <;> split <;> rfl

@[simp] theorem Gov.profile_power (g : Gov) (t : Nat) : (g.profile t).power = g.power := by
  unfold Gov.profile
  split
  next hnone => exact hnone.symm ▸ hnone
  next p hp =>
    dsimp only
    split <;> split <;> rfl

/-- A capture fills the ring alone (R362). -/
theorem Gov.capture_eq (g : Gov) (d : Int) : g.capture d = { g with ring := (g.capture d).ring, capSkip := (g.capture d).capSkip } := by
  unfold Gov.capture
  split
  · rfl
  · split <;> rfl

@[simp] theorem Gov.capture_sample (g : Gov) (d : Int) : (g.capture d).sample = g.sample := by rw [Gov.capture_eq]
@[simp] theorem Gov.capture_loadReq (g : Gov) (d : Int) : (g.capture d).loadReq = g.loadReq := by rw [Gov.capture_eq]
@[simp] theorem Gov.capture_y (g : Gov) (d : Int) : (g.capture d).y = g.y := by rw [Gov.capture_eq]
@[simp] theorem Gov.capture_u (g : Gov) (d : Int) : (g.capture d).u = g.u := by rw [Gov.capture_eq]
@[simp] theorem Gov.capture_bOwn (g : Gov) (d : Int) : (g.capture d).bOwn = g.bOwn := by rw [Gov.capture_eq]

/-- A value clamped between `lo` and the higher of `lo` and `hi`: at least `lo`, and no higher than `hi` but where it is `lo`. -/
theorem clampI_bounds (lo hi v : Int) : lo ≤ clampI lo (max lo hi) v ∧ (clampI lo (max lo hi) v ≤ hi ∨ clampI lo (max lo hi) v = lo) := by
  unfold clampI
  omega

/-- What GOV reads of the rest of the head: DT, the declared modules with their readings and bounds, and the limits of R350. -/
def State.govReads (s : State) : Nat × List Nat × Tbl Module × (Nat → Bool) × (Nat → List Nat → Nat × Nat) × Nat × (PowerRec → Nat) × (Int → Int) :=
  (s.dt, s.cfg.modules, s.link.modules, s.measured, s.bounds, s.uMin, s.uMax, s.bOwnOf)

/-- The end of a sample: `f` has set the output, which gives the head its part (R350), and is captured. -/
theorem State.govSample_output (s : State) (f : Gov → Gov) (b : BitVec 8) (e u d : Int) :
    let v := (s.modGov f).govSticky b e
    let t := (v.modGov fun g => { g with bOwn := v.bOwnOf u }).modGov fun g => g.capture d
    t.dt = s.dt ∧ t.gov.sample = (f s.gov).sample ∧ t.gov.loadReq = (f s.gov).loadReq ∧ t.gov.y = (f s.gov).y ∧ t.gov.u = (f s.gov).u ∧
      t.gov.bOwn = s.bOwnOf u := by
  intro v t
  have hown : v.bOwnOf = s.bOwnOf := State.govSticky_frame State.bOwnOf (fun _ _ => rfl) (fun _ _ => rfl) ..
  have hdt : v.dt = s.dt := State.govSticky_frame State.dt (fun _ _ => rfl) (fun _ _ => rfl) ..
  refine ⟨hdt, ?_, ?_, ?_, ?_, ?_⟩ <;> simp only [t, State.modGov_gov, Gov.capture_sample, Gov.capture_loadReq, Gov.capture_y, Gov.capture_u,
    Gov.capture_bOwn, hown] <;> simp only [v, State.govSticky_gov, State.modGov_gov]

/-- GOV_SAMPLE (R353): the sample's number and moment, Y over the declared modules, and u within its limits (R356). -/
theorem exec_govSample (s : State) :
    let n := max (s.gov.sample + 1) (ceilDiv s.dt 100000)
    ∃ t, exec .govSample s = .next t ∧ t.gov.sample = n ∧ t.dt = max s.dt (n * 100000) ∧ t.gov.loadReq = false ∧
      t.gov.y = (lsum (s.cfg.modules.map fun p =>
        if s.measured p then (tgetD s.link.modules p {}).powerMw else (s.bounds (n * 100000) [p]).2) : Nat) ∧
      ∀ p, s.gov.power = some p → (s.uMin : Int) ≤ t.gov.u ∧ (t.gov.u ≤ s.uMax p ∨ t.gov.u = s.uMin) ∧ t.gov.bOwn = s.bOwnOf t.gov.u := by
  intro n
  show ∃ t, execGovSample s = .next t ∧ _
  unfold execGovSample
  extract_lets t s1 mods b lack y rd s2 s2' s3 gap bad s4 d rp' e0 e r lo
  have hgov2 : s2.gov.sample = n ∧ s2.gov.loadReq = false ∧ s2.gov.y = y ∧ s2.gov.power = s.gov.power := by
    simp only [s2, s1, State.modGov_gov, Gov.profile_loadReq, Gov.profile_power, State.govLoadNow_loadReq, State.govLoadNow_power, true_and]
    rfl
  have hgov4 : s4.gov.sample = n ∧ s4.gov.loadReq = false ∧ s4.gov.y = y ∧ s4.gov.power = s.gov.power := by
    rw [← hgov2.2.2.2, ← hgov2.1, ← hgov2.2.1, ← hgov2.2.2.1]
    simp only [s4, s3, s2', State.modGov_gov]
    split
    · exact ⟨rfl, rfl, rfl, rfl⟩
    · rw [State.govSticky_gov]
      split <;> exact ⟨rfl, rfl, rfl, rfl⟩
  have hreads1 : s1.govReads = (s.advanceTo t).govReads := State.govLoadNow_frame State.govReads (fun _ _ => rfl) (fun _ _ => rfl) _
  have hreads : s4.govReads = s1.govReads := by
    show s3.govReads = s2.govReads
    simp only [s3, s2']
    split
    · rfl
    · rw [State.govSticky_frame State.govReads (fun _ _ => rfl) (fun _ _ => rfl)]
      split <;> rfl
  obtain ⟨hdt1, hmods1, hlink1, hmeasured1, hbounds1, hmin1, hmax1, hown1⟩ : s1.dt = max s.dt t ∧ s1.cfg.modules = s.cfg.modules ∧
      s1.link.modules = s.link.modules ∧ s1.measured = s.measured ∧ s1.bounds = s.bounds ∧ s1.uMin = s.uMin ∧ s1.uMax = s.uMax ∧
      s1.bOwnOf = s.bOwnOf := by
    simp only [State.govReads, Prod.mk.injEq] at hreads1
    exact hreads1
  have hy : y = lsum (s.cfg.modules.map fun p =>
      if s.measured p then (tgetD s.link.modules p {}).powerMw else (s.bounds t [p]).2) := by
    simp only [y, mods, hmods1, hlink1, hmeasured1, hbounds1]
  simp only [State.govReads, hdt1, hmin1, hmax1, hown1, Prod.mk.injEq] at hreads
  obtain ⟨hdt, -, -, -, -, hmin, hmax, hown⟩ := hreads
  clear_value s4 y
  obtain ⟨hsample, hreq, hy4, hpower⟩ := hgov4
  rw [hpower]
  cases s.gov.power with
  | none =>
    refine ⟨_, rfl, ?_, hdt, ?_, ?_, nofun⟩ <;> simp only [State.modGov_gov, Gov.capture_sample, Gov.capture_loadReq, Gov.capture_y]
    · exact hsample
    · exact hreq
    · exact hy4.trans (congrArg _ hy)
  | some p =>
    refine ⟨_, rfl, (State.govSample_output ..).2.1.trans hsample, (State.govSample_output ..).1.trans hdt,
      (State.govSample_output ..).2.2.1.trans hreq, (State.govSample_output ..).2.2.2.1.trans (hy4.trans (congrArg _ hy)), fun q hq => ?_⟩
    obtain rfl : p = q := by simpa using hq
    obtain ⟨-, -, -, -, hu, hbOwn⟩ := State.govSample_output s4 _ _ _ _ _
    rw [hu, hbOwn, hown]
    exact hmin ▸ hmax ▸ ⟨(clampI_bounds ..).1, (clampI_bounds ..).2, rfl⟩

/-! ## Modes, windows, injections -/

theorem exec_feedbackImplausible {s : State} (hmode : s.gov.mode = .closed) (hrun : 20 ≤ s.gov.implRun) :
    ∃ t, exec .feedbackImplausible s = .next t ∧ t.gov = { s.gov.entered .model with sticky := s.gov.sticky ||| 0x20 } := by
  show ∃ t, execFeedbackImplausible s = _ ∧ _
  unfold execFeedbackImplausible
  rw [if_pos ⟨hmode, hrun⟩]
  refine ⟨_, rfl, ?_⟩
  rw [State.govSticky_gov, State.setGovMode_gov]
  · rfl
  · exact fun h => nomatch hmode.symm.trans h

theorem exec_govPlausibleRun {s : State} (hmode : s.gov.mode = .model) (hreq : s.gov.modeReq = true) (hrun : 1000 ≤ s.gov.plausRun) :
    ∃ t, exec .govPlausibleRun s = .next t ∧ t.gov = s.gov.entered .closed := by
  show ∃ t, execGovPlausibleRun s = _ ∧ _
  unfold execGovPlausibleRun
  rw [if_pos ⟨hmode, hreq, hrun⟩]
  exact ⟨_, rfl, State.setGovMode_gov 4 fun h => nomatch hmode.symm.trans h⟩

/-- The state in which a floor that does not reach the set-point has been told (R352). -/
def State.toldUnreachable (s : State) : State :=
  ((s.event 0x0804 0 (twos 32 (s.gov.target / 1000)) (twos 32 (s.gov.y / 1000)) (s.uMin / 1000) 0).powerNotice 4).modGov
    fun g => { g with unreachSec := some (secOf s.dt) }

theorem exec_budgetUnreachable {s : State} (hrun : 100 ≤ s.gov.floorRun) (hsec : s.gov.unreachSec ≠ some (secOf s.dt)) :
    exec .budgetUnreachable s = .next s.toldUnreachable ∧ s.toldUnreachable.gov = { s.gov with unreachSec := some (secOf s.dt) } ∧
      s.toldUnreachable.evr = s.logged 0x0804 0 (twos 32 (s.gov.target / 1000)) (twos 32 (s.gov.y / 1000)) (s.uMin / 1000) 0 :=
  ⟨if_pos ⟨hrun, hsec⟩, rfl, rfl⟩

theorem State.setPstate_gov (s : State) (new : PState) (cause sess : Nat) : (s.setPstate new cause sess).gov = s.gov :=
  State.setPstate_frame State.gov (fun _ _ => rfl) (fun _ _ => rfl) ..

theorem State.setPstate_dt (s : State) (new : PState) (cause sess : Nat) : (s.setPstate new cause sess).dt = s.dt :=
  State.setPstate_frame State.dt (fun _ _ => rfl) (fun _ _ => rfl) ..

/-- CAP_WINDOW at the end of the window under way (R352): deferrals of that window cap the head, and P0 and P1 follow. -/
theorem exec_capWindow {s : State} (hwin : s.gov.capWin = s.dt / 100000000) :
    ∃ t, exec .capWindow s = .next t ∧ t.dt = (s.dt / 100000000 + 1) * 100000000 ∧ t.gov.capPrev = s.gov.capNow ∧ t.gov.capNow = 0 ∧
      t.gov.capped = decide (0 < s.gov.capNow) ∧
      t.pmu.pstate = (if t.gov.capped = s.gov.capped then s.pmu.pstate
        else if s.pmu.pstate = .p0 ∧ t.gov.capped = true then .p1 else if s.pmu.pstate = .p1 ∧ t.gov.capped = false then .p0 else s.pmu.pstate) := by
  have hdt : max s.dt ((s.dt / 100000000 + 1) * 100000000) = (s.dt / 100000000 + 1) * 100000000 := by omega
  show ∃ t, execCapWindow s = _ ∧ _
  unfold execCapWindow
  extract_lets w s1 s2 capped s3 s4
  have hprev : s2.gov.capPrev = s.gov.capNow := if_pos (congrArg (· + 1) hwin.symm)
  have hcapped : capped = decide (0 < s.gov.capNow) := congrArg (fun n => decide (0 < n)) hprev
  by_cases hsame : capped = s2.gov.capped
  · rw [if_pos hsame]
    exact ⟨s2, rfl, hdt, hprev, rfl, hsame.symm.trans hcapped, (if_pos rfl).symm⟩
  · rw [if_neg hsame]
    refine ⟨_, rfl, ?_⟩
    have hgov (c1 c2 : Prop) [Decidable c1] [Decidable c2] :
        (if c1 then s4.setPstate .p1 2 0xFFFF else if c2 then s4.setPstate .p0 2 0xFFFF else s4).gov = s4.gov :=
      ite_frame (π := State.gov) (State.setPstate_gov ..) (ite_frame (State.setPstate_gov ..) rfl)
    have hdt4 (c1 c2 : Prop) [Decidable c1] [Decidable c2] :
        (if c1 then s4.setPstate .p1 2 0xFFFF else if c2 then s4.setPstate .p0 2 0xFFFF else s4).dt = s4.dt :=
      ite_frame (π := State.dt) (State.setPstate_dt ..) (ite_frame (State.setPstate_dt ..) rfl)
    refine ⟨(hdt4 ..).trans hdt, (congrArg Gov.capPrev (hgov ..)).trans hprev, congrArg Gov.capNow (hgov ..),
      (congrArg Gov.capped (hgov ..)).trans hcapped, ?_⟩
    have hne : s4.gov.capped ≠ s.gov.capped := hsame
    rw [hgov, if_neg hne, apply_ite (fun u : State => u.pmu.pstate), apply_ite (fun u : State => u.pmu.pstate), State.setPstate_pstate,
      State.setPstate_pstate]
    simp only [Bool.not_eq_true', and_comm (b := _ = PState.p0), and_comm (b := _ = PState.p1)]
    rfl

/-- Settles O36: the sample by its parts; each mode change by what it leaves of GOV. -/
theorem theGovernorSamplesAndLimits : Obligations.TheGovernorSamplesAndLimits := by
  intro s
  refine ⟨?sample, fun hmode hrun => ?implausible, fun hmode hreq hrun => ?plausible, fun hrun hsec => ?unreachable, fun hwin => ?window,
    fun i hi hend => ?injection, fun hrun hone hfull => ?capture⟩
  case sample =>
    intro n
    obtain ⟨t, hexec, hsample, hdt, hload, hy, hu⟩ := exec_govSample s
    have quiet := blind_without [.dt, .gov, .evr]
    exact ⟨t, hexec, hsample, hdt, hload, hy, hu, next_frame (execGovSample_frame _ quiet.dt quiet.gov quiet.evr s) hexec⟩
  case implausible =>
    obtain ⟨t, hexec, hgov⟩ := exec_feedbackImplausible hmode hrun
    have quiet := blind_without [.cqe, .gov, .evr]
    refine ⟨t, hexec, congrArg Gov.mode hgov, congrArg Gov.inj hgov, ?_, ?_⟩
    · rw [hgov]
      simp
    · exact next_frame (execFeedbackImplausible_frame _ quiet.cqe quiet.gov quiet.evr s) hexec
  case plausible =>
    obtain ⟨t, hexec, hgov⟩ := exec_govPlausibleRun hmode hreq hrun
    have quiet := blind_without [.cqe, .gov, .evr]
    exact ⟨t, hexec, congrArg Gov.mode hgov, congrArg Gov.eHist hgov, congrArg Gov.uHist hgov, (congrArg Gov.u hgov :),
      next_frame (execGovPlausibleRun_frame _ quiet.cqe quiet.gov quiet.evr s) hexec⟩
  case unreachable =>
    have quiet := blind_without [.cqe, .gov, .evr]
    obtain ⟨hexec, hgov, hevr⟩ := exec_budgetUnreachable hrun hsec
    exact ⟨_, hexec, hgov, hevr, next_frame (execBudgetUnreachable_frame _ quiet.cqe quiet.gov quiet.evr s) hexec⟩
  case window =>
    obtain ⟨t, hexec, hfields⟩ := exec_capWindow hwin
    have quiet := blind_without [.dt, .cqe, .gov, .pmu, .evr]
    obtain ⟨hdt, hprev, hnow, hcapped, hpstate⟩ := hfields
    exact ⟨t, hexec, hdt, hprev, hnow, hcapped, hpstate,
      next_frame (execCapWindow_frame _ quiet.dt quiet.cqe quiet.gov quiet.pmu quiet.evr s) hexec⟩
  case injection =>
    have quiet := blind_without [.gov, .evr]
    refine ⟨s.endInjection 1, ?_, State.endInjection_gov s 1, State.endInjection_evr 1 hi, State.endInjection_frame _ quiet.gov quiet.evr s 1⟩
    show execInjectionEnd s = _
    unfold execInjectionEnd
    rw [hi]
    exact if_pos hend
  case capture =>
    refine ⟨s.modGov fun g => { g with capRun := false }, ?_, rfl, rfl⟩
    show execCaptureFull s = _
    unfold execCaptureFull
    exact if_pos ⟨hrun, hone, hfull⟩

end Sys2Proof.Machine
end

section
/-! PROOF. DRAM: its periods and its errors (R368, R370 to R372). -/

namespace Sys2Proof.Machine

open Sys2Proof

/-! ## What an error counts -/

/-- A corrected error counts for its channel; the moments of the periods and the uncorrectable counts stay (R371). -/
theorem State.dramCe_mcu (s : State) (ch rank : Nat) :
    (s.dramCe ch rank).mcu.ce = lmod s.mcu.ce ch (bump 32) ∧ (s.dramCe ch rank).mcu.ue = s.mcu.ue ∧
      (s.dramCe ch rank).mcu.patrolAt = s.mcu.patrolAt := by
  unfold State.dramCe
  dsimp only
  split <;> split <;> exact ⟨rfl, rfl, rfl⟩

/-- What a round of the patrol finds corrected counts, error by error. -/
theorem State.dramCes_mcu (found : List (Nat × Nat)) (s : State) :
    (found.foldl (fun s f => s.dramCe f.1 f.2) s).mcu.ce = found.foldl (fun l f => lmod l f.1 (bump 32)) s.mcu.ce ∧
      (found.foldl (fun s f => s.dramCe f.1 f.2) s).mcu.patrolAt = s.mcu.patrolAt := by
  induction found generalizing s with
  | nil => exact ⟨rfl, rfl⟩
  | cons f fs ih =>
    obtain ⟨hce, -, hat⟩ := s.dramCe_mcu f.1 f.2
    rw [List.foldl_cons, (ih _).1, (ih _).2, hce, hat]
    exact ⟨rfl, rfl⟩

/-- What an uncorrectable error damages lies outside MCU (R372). -/
theorem State.regionDamaged_mcu (s : State) (region index : Nat) : (s.regionDamaged region index).mcu = s.mcu := by
  apply State.regionDamaged_frame State.mcu <;> exact fun _ => by intros; rfl

theorem State.dramUe_mcu (s : State) (ch rank addr region index : Nat) :
    (s.dramUe ch rank addr region index).mcu =
      { s.mcu with
        ue := lmod s.mcu.ue ch (bump 32)
        ueLife := lmod s.mcu.ueLife ch (bump 32) } :=
  State.regionDamaged_mcu ..

/-- In the mirror area the entry it hits is dropped, and it is logged (R371, R372). -/
theorem State.dramUe_mirror (s : State) (ch rank addr index : Nat) :
    (s.dramUe ch rank addr 2 index).wc = { s.wc with mirror := tdel s.wc.mirror index } ∧
      (s.dramUe ch rank addr 2 index).evr = s.logged 0x1604 ch ch rank (lo32 addr) 2 ∧
      (s.dramUe ch rank addr 2 index).without [.wc, .mcu, .evr] = s.without [.wc, .mcu, .evr] := by
  have hblind := blind_without [.wc, .mcu, .evr]
  exact ⟨rfl, rfl, (hblind.wc ..).trans ((State.event_frame _ hblind.evr ..).trans (hblind.mcu ..))⟩

/-! ## The commands -/

/-- The head as a round of the patrol begins (R371). -/
def State.patrolled (s : State) : State :=
  (s.advanceTo (s.mcu.patrolAt + secNs 86400)).modMcu fun m => { m with patrolAt := max s.dt (s.mcu.patrolAt + secNs 86400) }

section
variable {s : State} (hrun : s.mcu.running = true)
include hrun

theorem exec_zqCalibration :
    exec .zqCalibration s = .next ((s.advanceTo (s.mcu.zqAt + msNs 128)).modMcu fun m => { m with zqAt := max s.dt (s.mcu.zqAt + msNs 128) }) := by
  show execZqCalibration s = _
  unfold execZqCalibration
  rw [hrun]
  rfl

theorem exec_ecsRead (counts : List (Nat × Nat)) : exec (.ecsRead counts) s =
    .next ((s.advanceTo (s.mcu.ecsRead + secNs 86400)).modMcu fun m =>
      { m with ecs := counts, ecsRead := max s.dt (s.mcu.ecsRead + secNs 86400) }) := by
  show execEcsRead counts s = _
  unfold execEcsRead
  rw [hrun]
  rfl

omit hrun in
/-- A fold depends on its step at the members of the list only. -/
theorem foldl_congr_mem {α β : Type} {f g : β → α → β} : {l : List α} → (∀ x ∈ l, ∀ a, f a x = g a x) → ∀ a, l.foldl f a = l.foldl g a
  | [], _, _ => rfl
  | x :: _, h, a => by
    rw [List.foldl_cons, List.foldl_cons, h x List.mem_cons_self a]
    exact foldl_congr_mem (fun y hy => h y (List.mem_cons_of_mem _ hy)) _

/-- DRAM_PATROL_SCRUB that finds corrected errors alone. -/
theorem exec_dramPatrolScrub {found : List (Nat × Nat × Option (Nat × Nat × Nat))} (hce : ∀ f ∈ found, f.2.2 = none) :
    exec (.dramPatrolScrub found) s = .next ((found.map fun f => (f.1 % 12, f.2.1)).foldl (fun s f => s.dramCe f.1 f.2) s.patrolled) := by
  show execDramPatrolScrub found s = _
  unfold execDramPatrolScrub
  rw [hrun, List.foldl_map]
  refine congrArg Host.Outcome.next (foldl_congr_mem (fun f hf u => ?_) _)
  rw [hce f hf]

end

section
variable {s : State} {ch : Fin 12} (hready : s.mcu.chSt.getD ch.val .untrained = .ready)
include hready

theorem exec_dramCorrected (rank : Nat) : exec (.dramCorrected ch rank) s = .next (s.dramCe ch.val rank) :=
  if_neg (not_not_intro hready)

theorem exec_dramUncorrectable (rank : Nat) (addr : BitVec 48) (region index : Nat) :
    exec (.dramUncorrectable ch rank addr region index) s = .next (s.dramUe ch.val rank addr.toNat region index) :=
  if_neg (not_not_intro hready)

end

/-- Settles O38: each period by its timer; each error by what it counts, and what it damages outside MCU. -/
theorem memoryErrorsAreCounted : Obligations.MemoryErrorsAreCounted := by
  intro s
  refine ⟨fun hrun => ⟨?zq, fun counts => ?ecs, fun found hce => ?patrol⟩, fun ch rank hready => ⟨?corrected,
      fun addr region index _ => ?uncorrectable⟩⟩
  case zq => exact ⟨_, exec_zqCalibration hrun, rfl, rfl, rfl⟩
  case ecs => exact ⟨_, exec_ecsRead hrun counts, rfl, rfl, rfl⟩
  case patrol =>
    have hblind := blind_without [.dt, .mcu, .evr]
    obtain ⟨hcount, hat⟩ := State.dramCes_mcu (found.map fun f => (f.1 % 12, f.2.1)) s.patrolled
    have hfold {α : Type} (π : State → α) (hMcu : KeepsMcu π) (hEvr : KeepsEvr π) (u : State) (l : List (Nat × Nat)) :
        π (l.foldl (fun s f => s.dramCe f.1 f.2) u) = π u := foldl_frame π _ (fun u f => u.dramCe_frame π hMcu hEvr f.1 f.2) l u
    have hdt := hfold State.dt (fun _ _ => rfl) (fun _ _ => rfl) s.patrolled (found.map fun f => (f.1 % 12, f.2.1))
    have hframe : s.patrolled.without [.dt, .mcu, .evr] = s.without [.dt, .mcu, .evr] := rfl
    exact ⟨_, exec_dramPatrolScrub hrun hce, hdt, hat.trans hdt.symm, hcount.trans List.foldl_map,
      (hfold _ hblind.mcu hblind.evr ..).trans hframe⟩
  case corrected =>
    have hblind := blind_without [.mcu, .evr]
    obtain ⟨hce, hue, -⟩ := s.dramCe_mcu ch.val rank
    exact ⟨_, exec_dramCorrected hready rank, hce, hue, s.dramCe_frame _ hblind.mcu hblind.evr ch.val rank⟩
  case uncorrectable =>
    have hmcu := s.dramUe_mcu ch.val rank addr.toNat region index
    refine ⟨_, exec_dramUncorrectable hready rank addr region index, ?_, ?_, ?_, fun hregion => ?_⟩
    · rw [hmcu]
    · rw [hmcu]
    · rw [hmcu]
    · subst hregion
      exact s.dramUe_mirror ch.val rank addr.toNat index

end Sys2Proof.Machine
end

section
/-! PROOF. The system cache: its errors and retired ways (R378, R379), its scratchpad (R380), its states (R381), its staging (R376). -/

namespace Sys2Proof.Machine

open Sys2Proof

/-! ## Retired ways (R379) -/

/-- Retiring a way counts no error. -/
theorem State.retireWay_counts (s : State) (slice way cause : Nat) :
    (s.retireWay slice way cause).slc.corr = s.slc.corr ∧ (s.retireWay slice way cause).slc.uncorr = s.slc.uncorr := by
  unfold State.retireWay
  dsimp only
  split
  · exact ⟨rfl, rfl⟩
  · split
    · split <;> exact ⟨rfl, rfl⟩
    · exact ⟨rfl, rfl⟩

/-- A pair of slice and way is retired while the slice has fewer than two retired ways and keeps two cache ways. -/
theorem State.retireWay_retires {s : State} {slice way : Nat} (cause : Nat) (hway : way < 16)
    (hfew : s.slc.retiredIn slice < 2) (hleft : 3 ≤ s.slc.cacheWays slice s.slc.waysWanted) :
    (tgetD (s.retireWay slice way cause).slc.retired slice 0).getLsbD way = true := by
  unfold State.retireWay
  dsimp only
  split
  next hdone => exact hdone
  · rw [if_neg (by omega)]
    show ((tget (tput s.slc.retired slice _) slice).getD 0).getLsbD way = true
    rw [tget_tput_self]
    exact getLsbD_or_two_pow _ hway

/-! ## Errors (R378) -/

section
variable {s : State} {slice : Fin 64} {way : Fin 16} (hin : (tgetD s.slc.retired slice.val 0).getLsbD way.val = false) (hrun : s.rcc.hold = .run)
include hin hrun

theorem exec_slcCorrected :
    ∃ t, exec (.slcCorrected slice way) s = .next t ∧ t.slc.corr = bump 16 s.slc.corr ∧ t.slc.uncorr = s.slc.uncorr := by
  show ∃ t, execSlcCorrected slice way s = _ ∧ _
  unfold execSlcCorrected
  rw [if_neg (not_or.mpr ⟨by rw [hin]; exact nofun, not_not_intro hrun⟩)]
  extract_lets recent key mine s1 s2
  have hcounts : s2.slc.corr = bump 16 s.slc.corr ∧ s2.slc.uncorr = s.slc.uncorr := by
    simp only [s2]
    split <;> exact ⟨rfl, rfl⟩
  refine ⟨_, rfl, ?_⟩
  split
  · obtain ⟨hcorr, huncorr⟩ := s2.retireWay_counts slice.val way.val 1
    rw [hcorr, huncorr]
    exact hcounts
  · exact hcounts

/-- An uncorrectable error in a line whose loss hurts nothing beside the cache: counted and logged, then the pair is retired. -/
theorem exec_slcUncorrectable (holds : Fin 5) (region index : Nat) (h2 : holds.val ≠ 2) (h3 : holds.val ≠ 3) :
    exec (.slcUncorrectable slice way holds region index) s =
      .next (((s.modSlc fun l => { l with uncorr := bump 16 l.uncorr }).event 0x1503 slice.val slice.val way.val holds.val
        (if holds.val < 3 then region else 0)).retireWay slice.val way.val 2) := by
  show execSlcUncorrectable slice way holds region index s = _
  unfold execSlcUncorrectable
  rw [if_neg (not_or.mpr ⟨by rw [hin]; exact nofun, not_not_intro hrun⟩)]
  refine congrArg Host.Outcome.next ?_
  unfold State.lineLost
  rw [if_neg h2, if_neg h3]

end

/-! ## Scratchpad (R380) and states (R381) -/

/-- The cache enters a state, whether it was in it or not. -/
theorem State.setSlc_slc (s : State) (st : SlcSt) (sess : Nat) : (s.setSlc st sess).slc = { s.slc with st := st } := by
  unfold State.setSlc
  split
  next h => rw [← h]
  · rfl

/-- A request within R380 starts a conversion. -/
theorem State.writeSpad_slc {s : State} {v : Nat} (sess : Nat) (hlo : 2 ≤ bits v 11 8) (hhi : bits v 11 8 ≤ 12)
    (hfew : s.slc.tooFew (bits v 11 8) = false) (hbusy : s.slc.busy = none) (hne : bits v 11 8 ≠ s.slc.ways) :
    (s.writeSpad v sess).slc.busy = some (s.dt, bits v 11 8) ∧ (s.writeSpad v sess).slc.ways = s.slc.ways ∧
      (s.writeSpad v sess).slc.st = if s.slc.st = .enabled then .converting else s.slc.st := by
  unfold State.writeSpad State.requestWays
  extract_lets s1 reason s2 s3
  have hreason : reason = 0 := by
    have hfew1 : s1.slc.tooFew (bits v 11 8) = false := hfew
    have hbusy1 : s1.slc.busy = none := hbusy
    simp only [reason, hfew1, hbusy1]
    rw [if_neg (by omega)]
    rfl
  rw [if_neg fun h => hne h.1, if_neg (not_not_intro hreason)]
  split
  next hst =>
    have henabled : s.slc.st = .enabled := hst
    rw [State.setSlc_slc, if_pos henabled]
    exact ⟨rfl, rfl, rfl⟩
  next hst =>
    have hother : s.slc.st ≠ .enabled := hst
    rw [if_neg hother]
    exact ⟨rfl, rfl, rfl⟩

theorem exec_spadChanged {s : State} {at_ n : Nat} (hbusy : s.slc.busy = some (at_, n)) :
    ∃ t, exec .spadChanged s = .next t ∧ t.dt = max s.dt (at_ + 5000) ∧ t.slc.ways = n ∧ t.slc.busy = none ∧
      t.slc.st = if s.slc.st = .converting then .enabled else s.slc.st := by
  show ∃ t, execSpadChanged s = _ ∧ _
  unfold execSpadChanged
  split
  next hidle => exact nomatch hbusy.symm.trans hidle
  next at' n' hbusy' =>
  obtain ⟨rfl, rfl⟩ : at_ = at' ∧ n = n' := by simpa using hbusy.symm.trans hbusy'
  extract_lets s1 s2 s3
  refine ⟨_, rfl, ?_⟩
  split
  next hst =>
    have hconverting : s.slc.st = .converting := hst
    have hslc (sess : Nat) : (s3.setSlc .enabled sess).freshen.slc = { s3.slc with st := .enabled } := s3.setSlc_slc .enabled sess
    have hdt : (s3.setSlc .enabled (s3.freeNat 32)).freshen.dt = s3.dt := s3.setSlc_frame State.dt (fun _ _ => rfl) (fun _ _ => rfl) ..
    rw [hslc, hdt, if_pos hconverting]
    exact ⟨rfl, rfl, rfl, rfl⟩
  next hst =>
    have hother : s.slc.st ≠ .converting := hst
    rw [if_neg hother]
    exact ⟨rfl, rfl, rfl, rfl⟩

/-- In P2 a write of EN that asks for another state than the cache's enters it. -/
theorem State.writeSlcCtrl_disable {s : State} {v : Nat} (sess : Nat) (hp2 : s.pmu.pstate = .p2) (hen : tbit v 0 = false)
    (hst : s.slc.st = .enabled ∨ s.slc.st = .converting) : (s.writeSlcCtrl v sess).slc = { s.slc with en := false, st := .flushing } := by
  unfold State.writeSlcCtrl
  rw [if_neg (not_not_intro hp2), hen]
  exact (congrArg State.slc (if_pos hst)).trans (State.setSlc_slc ..)

theorem State.writeSlcCtrl_enable {s : State} {v : Nat} (sess : Nat) (hp2 : s.pmu.pstate = .p2) (hen : tbit v 0 = true)
    (hst : s.slc.st = .flushing ∨ s.slc.st = .disabled) : (s.writeSlcCtrl v sess).slc = { s.slc with en := true, st := .enabled } := by
  unfold State.writeSlcCtrl
  rw [if_neg (not_not_intro hp2), hen]
  exact (congrArg State.slc (if_pos hst)).trans (State.setSlc_slc ..)

/-! ## The commands -/

@[simp] theorem State.answer_slc (s : State) (m : Vc3) (typ status : Nat) (body : Bytes) : (s.answer m typ status body).slc = s.slc :=
  State.answer_frame State.slc (fun _ _ => rfl) (fun _ _ _ => rfl) (fun _ _ _ => rfl) ..

section
variable {m : Vc3} {x : Session} {s : State} (value : Word)

theorem exec_spadWaysReq (h : s.writes m 2 x) :
    exec (.spadWaysReq m value) s = .next (((s.heard m).writeSpad value.toNat m.sess.toNat).answer m 0x31 stSuccess []) :=
  congrArg Host.Outcome.next (s.regWrite_writes m _ 2 _ x h)

theorem exec_slcDisable (h : s.writes m 3 x) :
    exec (.slcDisable m value) s = .next (((s.heard m).writeSlcCtrl value.toNat m.sess.toNat).answer m 0x31 stSuccess []) :=
  congrArg Host.Outcome.next (s.regWrite_writes m _ 3 _ x h)

theorem exec_slcEnable (h : s.writes m 3 x) :
    exec (.slcEnable m value) s = .next (((s.heard m).writeSlcCtrl value.toNat m.sess.toNat).answer m 0x31 stSuccess []) :=
  congrArg Host.Outcome.next (s.regWrite_writes m _ 3 _ x h)

end

theorem exec_slcFlushDone {s : State} (hst : s.slc.st = .flushing) :
    exec .slcFlushDone s = .next (s.setSlc .disabled (s.freeNat 32)).freshen :=
  if_neg (not_not_intro hst)

/-- STAGING_RELEASE_TIMEOUT of a command whose data is complete (R376). -/
theorem exec_stagingReleaseTimeout {s : State} {qp : BitVec 14} {cid : BitVec 16} {c : Cmd} {e : Nat × Nat × Nat × Nat}
    (hc : s.cqe.cmd qp.toNat cid.toNat = some c) (hcomplete : c.complete = true)
    (he : s.slc.staging.find? (fun y => y.1 == c.qp && y.2.1 == c.cid) = some e) :
    exec (.stagingReleaseTimeout qp cid) s = .next ((s.advanceTo (e.2.2.2 + 16000)).unstage c.qp c.cid) := by
  show execStagingReleaseTimeout qp cid s = _
  unfold execStagingReleaseTimeout
  rw [hc]
  dsimp only
  rw [he]
  exact if_neg (by simp [hcomplete])

/-- Settles O39: each command by what it leaves of the cache. -/
theorem theSystemCacheConvertsAndRetires : Obligations.TheSystemCacheConvertsAndRetires := by
  intro s
  refine ⟨fun slice way hin hrun => ⟨?corrected, fun holds region index h2 h3 => ?uncorrectable⟩, fun m value x h hlo hhi hfew hbusy hne => ?request,
    fun at_ n hbusy => ?changed, fun m value x h hp2 => ⟨fun hen hst => ?disable, fun hen hst => ?enable⟩, fun hst => ?flushed,
    fun qp cid c e hc hcomplete he => ?staging⟩
  case corrected =>
    have hblind := blind_without [.slc, .evr]
    obtain ⟨t, hexec, hcorr, huncorr⟩ := exec_slcCorrected hin hrun
    exact ⟨t, hexec, hcorr, huncorr, next_frame (execSlcCorrected_frame _ hblind.slc hblind.evr slice way s) hexec⟩
  case uncorrectable =>
    have hblind := blind_without [.slc, .evr]
    refine ⟨_, exec_slcUncorrectable hin hrun holds region index h2 h3, (State.retireWay_counts ..).2,
      fun hfew hleft => State.retireWay_retires 2 way.isLt hfew hleft, ?_⟩
    exact (State.retireWay_frame _ hblind.slc hblind.evr ..).trans ((State.event_frame _ hblind.evr ..).trans (hblind.slc ..))
  case request =>
    have hblind := blind_aside (.slc :: vcParts)
    obtain ⟨hb, hways, hst⟩ := State.writeSpad_slc (s := s.heard m) m.sess.toNat hlo hhi hfew hbusy hne
    refine ⟨_, exec_spadWaysReq value h, ?_, ?_, ?_, State.answered (by decide) (State.writeSpad_frame _ hblind.slc hblind.evr ..) ..⟩ <;>
      rw [State.answer_slc]
    · exact hb
    · exact hways
    · exact hst
  case changed =>
    have hblind := blind_without [.dt, .fresh, .slc, .evr]
    obtain ⟨t, hexec, hdt, hways, hb, hst⟩ := exec_spadChanged hbusy
    exact ⟨t, hexec, hdt, hways, hb, hst, next_frame (execSpadChanged_frame _ hblind.dt hblind.fresh hblind.slc hblind.evr s) hexec⟩
  case disable =>
    have hblind := blind_aside (.slc :: vcParts)
    have hslc := State.writeSlcCtrl_disable (s := s.heard m) m.sess.toNat hp2 hen hst
    refine ⟨_, exec_slcDisable value h, ?_, ?_, State.answered (by decide) (State.writeSlcCtrl_frame _ hblind.slc hblind.evr ..) ..⟩ <;>
      rw [State.answer_slc, hslc]
  case enable =>
    have hblind := blind_aside (.slc :: vcParts)
    have hslc := State.writeSlcCtrl_enable (s := s.heard m) m.sess.toNat hp2 hen hst
    refine ⟨_, exec_slcEnable value h, ?_, ?_, State.answered (by decide) (State.writeSlcCtrl_frame _ hblind.slc hblind.evr ..) ..⟩ <;>
      rw [State.answer_slc, hslc]
  case flushed =>
    have hblind := blind_without [.fresh, .slc, .evr]
    exact ⟨_, exec_slcFlushDone hst, congrArg Slc.st (s.setSlc_slc ..),
      (State.freshen_frame _ hblind.fresh _).trans (State.setSlc_frame _ hblind.slc hblind.evr ..)⟩
  case staging =>
    refine ⟨_, exec_stagingReleaseTimeout hc hcomplete he, rfl, fun y hy hnamed => ?_, rfl⟩
    have hkept := (List.mem_filter.mp hy).2
    simp [hnamed] at hkept

end Sys2Proof.Machine
end

section
/-! PROOF. Image updates and the boot control block (R389, R391, R395, R399), certificates and attestation (R386, R387), XTS key slots
(R409). -/

namespace Sys2Proof.Machine

open Sys2Proof

/-! ## The slots and the updates -/

section
variable (n : Nvi) (b : Bool)

@[simp] theorem Nvi.slot_setSlot_self (i : Option Image) : (n.setSlot b i).slot b = i := by cases b <;> rfl
@[simp] theorem Nvi.slot_setSlot_other (i : Option Image) : (n.setSlot (!b) i).slot b = n.slot b := by cases b <;> rfl
@[simp] theorem Nvi.slotSt_setSlot (a : Bool) (i : Option Image) : (n.setSlot a i).slotSt b = n.slotSt b := by cases a <;> rfl
@[simp] theorem Nvi.slotSt_setSt_self (st : SlotSt) : (n.setSt b st).slotSt b = st := by cases b <;> rfl
@[simp] theorem Nvi.slot_setSt (a : Bool) (st : SlotSt) : (n.setSt a st).slot b = n.slot b := by cases a <;> rfl
@[simp] theorem Nvi.updates_setSlot (i : Option Image) : (n.setSlot b i).updates = n.updates := by cases b <;> rfl
@[simp] theorem Nvi.updates_setSt (st : SlotSt) : (n.setSt b st).updates = n.updates := by cases b <;> rfl

end

theorem Nvi.slot_congr {n k : Nvi} (hA : k.slotA = n.slotA) (hB : k.slotB = n.slotB) (b : Bool) : k.slot b = n.slot b := by
  unfold Nvi.slot
  rw [hA, hB]

/-- The NVM with the update of a session changed. -/
def Nvi.modUpdate (n : Nvi) (sess : Nat) (f : Update → Update) : Nvi :=
  { n with updates := n.updates.map fun u => if u.sess == sess then f u else u }

theorem State.modUpdate_nvi (s : State) (sess : Nat) (f : Update → Update) : (s.modUpdate sess f).nvi = s.nvi.modUpdate sess f := rfl

/-- A change of a session's update that leaves it the session's. -/
theorem Nvi.update_modUpdate (n : Nvi) (sess : Nat) {f : Update → Update} (hf : ∀ u, (f u).sess = u.sess) :
    (n.modUpdate sess f).update sess = (n.update sess).map f := by
  unfold Nvi.modUpdate Nvi.update
  rw [List.find?_map]
  have hsame : ((fun u : Update => u.sess == sess) ∘ fun u => if u.sess == sess then f u else u) = fun u => u.sess == sess := by
    funext u
    by_cases hu : u.sess = sess <;> simp [hu, hf]
  rw [hsame]
  cases hfind : n.updates.find? fun u => u.sess == sess with
  | none => rfl
  | some u =>
    have hu : (u.sess == sess) = true := List.find?_some (p := fun u : Update => u.sess == sess) hfind
    simp [by simpa using hu]

/-- The update that a session opens is the session's where it had none. -/
theorem Nvi.update_append {n k : Nvi} {u : Update} (hk : k.updates = n.updates ++ [u]) (h : n.update u.sess = none) :
    k.update u.sess = some u := by
  unfold Nvi.update at *
  rw [hk, List.find?_append, h]
  simp

/-- An update that has ended is no longer the session's. -/
theorem Nvi.update_ended {n k : Nvi} {sess : Nat} (hk : k.updates = n.updates.filter (·.sess != sess)) : k.update sess = none := by
  unfold Nvi.update
  rw [hk, List.find?_eq_none]
  intro u hu
  have := (List.mem_filter.mp hu).2
  simpa using this

/-! ## What an IMAGE message finds -/

@[simp] theorem State.answer_nvi (s : State) (m : Vc3) (typ status : Nat) (body : Bytes) : (s.answer m typ status body).nvi = s.nvi :=
  State.answer_frame State.nvi (fun _ _ => rfl) (fun _ _ _ => rfl) (fun _ _ _ => rfl) ..

@[simp] theorem State.answer_rot (s : State) (m : Vc3) (typ status : Nat) (body : Bytes) : (s.answer m typ status body).rot = s.rot :=
  State.answer_frame State.rot (fun _ _ => rfl) (fun _ _ _ => rfl) (fun _ _ _ => rfl) ..

/-- The head that has heard an IMAGE message: the idle time of the session's update starts again. -/
def State.imageHeard (s : State) (m : Vc3) : State := (s.heard m).modUpdate m.sess.toNat fun u => { u with lastAt := s.dt }

theorem State.imageVc3_accepts {s : State} {m : Vc3} {typ : Nat} {x : Session} (h : s.accepts m typ false 2 x) (act : State → State) :
    s.imageVc3 m typ act = act (s.imageHeard m) :=
  s.vc3_accepts m typ false 2 _ x h

theorem State.imageHeard_update (s : State) (m : Vc3) :
    (s.imageHeard m).nvi.update m.sess.toNat = (s.nvi.update m.sess.toNat).map fun u => { u with lastAt := s.dt } :=
  Nvi.update_modUpdate s.nvi m.sess.toNat fun _ => rfl

theorem State.imageHeard_aside (s : State) (m : Vc3) : (s.imageHeard m).aside (.nvi :: vcParts) = (s.heard m).aside (.nvi :: vcParts) :=
  (s.heard m).modUpdate_frame _ (blind_aside (.nvi :: vcParts)).nvi ..

/-- An IMAGE message whose act touches NVI, the log and the free values is answered. -/
theorem State.image_answered {s u : State} {m : Vc3} (h : u.aside (.nvi :: vcParts) = (s.imageHeard m).aside (.nvi :: vcParts)) (typ status : Nat)
    (body : Bytes) : s.answers (u.answer m typ status body) m typ status body ∧
      (u.answer m typ status body).without (.nvi :: vcParts) = s.without (.nvi :: vcParts) :=
  State.answered (by decide) (h.trans (s.imageHeard_aside m)) typ status body

/-! ## The IMAGE messages -/

section
variable {s : State} {m : Vc3} {x : Session}

/-- IMAGE_BEGIN: the state in which the other slot is EMPTY and the update is open. -/
def State.imageBegun (s : State) (m : Vc3) (len : Nat) : State :=
  ((s.imageHeard m).writeBcb fun n => n.setSt (!s.rot.slotB) .empty).modNvi fun n =>
    { n.setSlot (!s.rot.slotB) none with updates := n.updates ++ [{ sess := m.sess.toNat, len := len, off := 0, lastAt := s.dt }] }

theorem exec_imageBegin (h : s.accepts m 0x68 false 2 x) {len : Nat} (hnone : s.nvi.update m.sess.toNat = none) (hlen : len ≤ 127 * 2 ^ 20) :
    exec (.imageBegin m len) s = .next ((s.imageBegun m len).answer m 0x68 stSuccess []) := by
  refine congrArg Host.Outcome.next ((State.imageVc3_accepts h _).trans (if_neg ?_))
  rw [State.imageHeard_update, hnone]
  simpa using hlen

theorem State.imageBegun_update (hnone : s.nvi.update m.sess.toNat = none) (len : Nat) : (s.imageBegun m len).nvi.update m.sess.toNat =
    some { sess := m.sess.toNat, len := len, off := 0, lastAt := s.dt } := by
  refine Nvi.update_append (n := (s.imageHeard m).nvi) (u := ⟨m.sess.toNat, len, 0, s.dt⟩) ?_ (by simp [State.imageHeard_update, hnone])
  simp [State.imageBegun, State.writeBcb]

/-- IMAGE_WRITE that follows on from the last write. -/
theorem exec_imageWrite (h : s.accepts m 0x69 false 2 x) {u : Update} (hu : s.nvi.update m.sess.toNat = some u) {len : Nat}
    (hfits : u.off + len ≤ u.len) : exec (.imageWrite m u.off len) s =
      .next (((s.imageHeard m).modUpdate m.sess.toNat fun u => { u with off := u.off + len }).answer m 0x69 stSuccess []) := by
  refine congrArg Host.Outcome.next ((State.imageVc3_accepts h _).trans ?_)
  rw [State.imageHeard_update, hu]
  exact if_neg (by simpa using hfits)

/-- The slot that an IMAGE_COMMIT has written and judged: TRIAL with three tries where the image passes (R395, R399). -/
def State.imageJudged (s : State) (m : Vc3) (img : Image) : State :=
  let f := imageReason s.rot img
  let u := ((s.imageHeard m).endUpdate m.sess.toNat).modNvi fun n => n.setSlot (!s.rot.slotB) (some img)
  (if f.1 = 0 then u.writeBcb fun n => { n.setSt (!s.rot.slotB) .trial with tries := 3 } else u.rejectImage (!s.rot.slotB) f).event 0x060C 0
    (bit (!s.rot.slotB)) img.svn img.fwver.toNat f.1

theorem exec_imageCommit (h : s.accepts m 0x6A false 2 x) {u : Update} (hu : s.nvi.update m.sess.toNat = some u) (img : Image) :
    exec (.imageCommit m img) s = .next ((s.imageJudged m img).answer m 0x6A
      (if (imageReason s.rot img).1 = 0 then stSuccess else stInvalidField) []) := by
  refine congrArg Host.Outcome.next ((State.imageVc3_accepts h _).trans (if_neg ?_))
  rw [State.imageHeard_update, hu]
  exact nofun

theorem State.imageJudged_nvi (s : State) (m : Vc3) (img : Image) : (s.imageJudged m img).nvi =
    let n := (((s.imageHeard m).endUpdate m.sess.toNat).nvi).setSlot (!s.rot.slotB) (some img)
    if (imageReason s.rot img).1 = 0 then { ({ n with bseq := n.bseq + 1 } : Nvi).setSt (!s.rot.slotB) .trial with tries := 3 } else n := by
  unfold State.imageJudged
  dsimp only
  split <;> rfl

/-- The other slot holds the image, TRIAL with three tries where it passes; the running slot stays, and the update has ended. -/
theorem State.imageJudged_slots (s : State) (m : Vc3) (img : Image) :
    (s.imageJudged m img).nvi.slot (!s.rot.slotB) = some img ∧ (s.imageJudged m img).nvi.slot s.rot.slotB = s.nvi.slot s.rot.slotB ∧
      (s.imageJudged m img).nvi.update m.sess.toNat = none ∧
      (if (imageReason s.rot img).1 = 0
        then (s.imageJudged m img).nvi.slotSt (!s.rot.slotB) = .trial ∧ (s.imageJudged m img).nvi.tries = 3
        else (s.imageJudged m img).nvi.slotSt (!s.rot.slotB) = s.nvi.slotSt (!s.rot.slotB)) := by
  have hended : ((s.imageHeard m).endUpdate m.sess.toNat).nvi.updates = (s.imageHeard m).nvi.updates.filter (·.sess != m.sess.toNat) := rfl
  have hnvi := s.imageJudged_nvi m img
  by_cases hpass : (imageReason s.rot img).1 = 0
  · simp only [hpass, if_true] at hnvi ⊢
    rw [hnvi]
    refine ⟨?_, ?_, Nvi.update_ended (n := (s.imageHeard m).nvi) ?_, ?_, rfl⟩
    · exact (Nvi.slot_setSt ..).trans (Nvi.slot_setSlot_self ..)
    · exact (Nvi.slot_setSt ..).trans (Nvi.slot_setSlot_other ..)
    · exact (Nvi.updates_setSt ..).trans ((Nvi.updates_setSlot ..).trans hended)
    · exact Nvi.slotSt_setSt_self ..
  · simp only [hpass, if_false] at hnvi ⊢
    rw [hnvi]
    refine ⟨Nvi.slot_setSlot_self .., Nvi.slot_setSlot_other .., Nvi.update_ended (n := (s.imageHeard m).nvi) ?_, Nvi.slotSt_setSlot ..⟩
    exact (Nvi.updates_setSlot ..).trans hended

theorem State.imageJudged_aside (s : State) (m : Vc3) (img : Image) :
    (s.imageJudged m img).aside (.nvi :: vcParts) = (s.imageHeard m).aside (.nvi :: vcParts) := by
  have hblind := blind_aside (.nvi :: vcParts)
  let u := ((s.imageHeard m).endUpdate m.sess.toNat).modNvi fun n => n.setSlot (!s.rot.slotB) (some img)
  have hu : u.aside (.nvi :: vcParts) = (s.imageHeard m).aside (.nvi :: vcParts) :=
    (hblind.nvi ..).trans (State.endUpdate_frame _ hblind.nvi (s.imageHeard m) m.sess.toNat)
  refine (State.event_frame _ hblind.evr ..).trans (Eq.trans ?_ hu)
  exact ite_frame (State.writeBcb_frame _ hblind.nvi ..) (State.rejectImage_frame _ hblind.fresh hblind.evr ..)

/-- IMAGE_CONFIRM of the trial that runs: the state in which its slot is ACTIVE and FUSE_SVN raised (R391). -/
def State.imageConfirmed (s : State) (m : Vc3) (i : Image) : State :=
  (((s.imageHeard m).writeBcb fun n => { n.setSt s.rot.slotB .valid with activeB := s.rot.slotB }).modRot fun r =>
    { r with trial := false, fuseSvn := max s.rot.fuseSvn i.svn }).event 0x0605 0 s.rot.fuseSvn (max s.rot.fuseSvn i.svn) (bit s.rot.slotB) 0

theorem exec_imageConfirm (h : s.accepts m 0x6B false 2 x) (htrial : s.rot.trial = true) (hready : s.rot.ready = true) {i : Image}
    (hi : s.rot.image = some i) : exec (.imageConfirm m) s = .next ((s.imageConfirmed m i).answer m 0x6B stSuccess []) := by
  refine congrArg Host.Outcome.next ((State.imageVc3_accepts h _).trans ?_)
  have htrial' : (s.imageHeard m).rot.trial = true := htrial
  have hready' : (s.imageHeard m).rot.ready = true := hready
  have hi' : (s.imageHeard m).rot.image = some i := hi
  rw [htrial', hready', hi']
  rfl

theorem exec_imageStatus (h : s.accepts m 0x6C false 2 x) : exec (.imageStatus m) s =
    .next ((s.imageHeard m).answer m 0x6C stSuccess (s.nvi.bcbBytes ++ leBytes 1 s.rot.fuseSvn)) :=
  congrArg Host.Outcome.next (State.imageVc3_accepts h _)

end

/-- IMAGE_IDLE_TIMEOUT of the one update that is open, whose session is open too. -/
theorem exec_imageIdleTimeout {s : State} {u : Update} (hu : s.nvi.updates = [u]) (hopen : s.sessionOpen u.sess = true) :
    exec .imageIdleTimeout s = .next ((s.advanceTo (u.lastAt + secNs 10)).endUpdate u.sess) := by
  show execImageIdleTimeout s = _
  unfold execImageIdleTimeout
  rw [hu]
  simp [hopen]

/-! ## Certificates, the report, key slots -/

theorem exec_certRead {s : State} {m : Vc3} {x : Session} (h : s.accepts m 0x80 false 1 x) {chain : Byte} (hchain : chain = 1 ∨ chain = 2) :
    exec (.certRead m chain) s = .next (((s.heard m).freeChain (if chain = 1 then 3 else 4)).2.answer m 0x80 stSuccess
      ((s.heard m).freeChain (if chain = 1 then 3 else 4)).1) := by
  refine congrArg Host.Outcome.next ((s.vc3_accepts m _ _ _ _ x h).trans (if_neg ?_))
  rcases hchain with rfl | rfl <;> decide

theorem exec_attest {s : State} {m : Vc3} {x : Session} (h : s.accepts m 0x81 false 1 x) (nonce : Bytes) :
    exec (.attest m nonce) s = .next (((s.heard m).freshen.event 0x0608 m.sess.toNat m.sess.toNat 0 0 0).answer m 0x81 stSuccess
      (s.reportBody nonce ++ leBytes 96 (s.freeNat 768))) :=
  congrArg Host.Outcome.next (s.vc3_accepts m _ _ _ _ x h)

/-- KEY_SLOT_PARITY below D2: the slot is empty and waits to be filled again. -/
theorem exec_keySlotParity {s : State} {slot : Fin 4129} {k : Bytes} (hk : tget s.xts.keys slot.val = some k) (hlevel : s.dbg.level < 2) :
    exec (.keySlotParity slot) s = .next ((s.modXts fun x =>
      { x with
        parity := bump 16 x.parity
        keys := tdel x.keys slot.val
        reload := x.reload ++ [(slot.val, s.dt)] }).event 0x1202 slot.val slot.val 0 0 0) := by
  show execKeySlotParity slot s = _
  unfold execKeySlotParity
  rw [hk, if_pos hlevel]
  rfl

theorem State.refreshVolumes_xts (s : State) : s.refreshVolumes.xts = s.xts :=
  State.refreshVolumes_frame State.xts (fun _ _ => rfl) (fun _ _ _ => rfl) s

/-- KEYS_INSTALLED of a slot that waits, whose key the configuration in force gives: the slot holds it and waits no more. -/
theorem exec_keysInstalled {s : State} {slot : Fin 4129} {k : Bytes} (hwaits : ∃ r ∈ s.xts.reload, r.1 = slot.val) (hlevel : s.dbg.level < 2)
    (hk : tget s.cfg.keySlots slot.val = some k) :
    ∃ t, exec (.keysInstalled slot) s = .next t ∧ t.xts =
      { s.xts with
        reload := s.xts.reload.filter fun r => r.1 != slot.val
        keys := tput s.xts.keys slot.val k } := by
  have hany : s.xts.reload.any (fun r => r.1 == slot.val) = true := by simpa using hwaits
  show ∃ t, execKeysInstalled slot s = _ ∧ _
  unfold execKeysInstalled
  rw [if_neg (not_or.mpr ⟨by rw [hany]; exact nofun, Nat.not_le.mpr hlevel⟩)]
  dsimp only
  rw [show tget (s.modXts _).cfg.keySlots slot.val = some k from hk]
  exact ⟨_, rfl, State.refreshVolumes_xts _⟩

/-- Settles O50: each IMAGE message acts on the head that has heard it and is answered; a key slot by what it leaves of XTS. -/
theorem imagesAreUpdatedAndConfirmed : Obligations.ImagesAreUpdatedAndConfirmed := by
  intro m x s
  have hblind := blind_aside (.nvi :: vcParts)
  refine ⟨fun h len hnone hlen => ?begin_, fun u hu => ⟨fun h len hfits => ?write, fun h img => ?commit⟩, fun h htrial hready i hi => ?confirm,
    fun h => ?status, fun u hu hopen => ?idle, fun h chain hchain => ?cert, fun h nonce => ?attest,
    fun slot => ⟨fun k hk hlevel => ?parity, fun k hwaits hlevel hk => ?installed⟩⟩
  case begin_ =>
    refine ⟨_, exec_imageBegin h hnone hlen, ?_, ?_, ?_, ?_, State.image_answered ?_ ..⟩
    · rw [State.answer_nvi]
      exact (Nvi.slotSt_setSlot ..).trans (Nvi.slotSt_setSt_self ..)
    · rw [State.answer_nvi]
      exact Nvi.slot_setSlot_self ..
    · rw [State.answer_nvi]
      exact (Nvi.slot_setSlot_other ..).trans (Nvi.slot_setSt ..)
    · rw [State.answer_nvi, State.imageBegun_update hnone]
    · exact (hblind.nvi ..).trans (State.writeBcb_frame _ hblind.nvi ..)
  case write =>
    refine ⟨_, exec_imageWrite h hu hfits, ?_, ?_, ?_, State.image_answered (State.modUpdate_frame _ hblind.nvi ..) ..⟩
    · rw [State.answer_nvi, State.modUpdate_nvi, Nvi.update_modUpdate _ _ (f := fun u => { u with off := u.off + len }) fun _ => rfl,
        State.imageHeard_update, hu]
      rfl
    · rw [State.answer_nvi]
      rfl
    · rw [State.answer_nvi]
      rfl
  case commit =>
    obtain ⟨hnew, hkept, hended, hst⟩ := s.imageJudged_slots m img
    refine ⟨_, exec_imageCommit h hu img, ?_, ?_, ?_, ?_, State.image_answered (s.imageJudged_aside m img) ..⟩ <;> rw [State.answer_nvi]
    · exact hnew
    · exact hkept
    · exact hended
    · exact hst
  case confirm =>
    have hquiet := blind_aside (.rot :: .nvi :: vcParts)
    refine ⟨_, exec_imageConfirm h htrial hready hi, ?_, ?_, ?_, State.answer_evr .., State.answered (by decide) ?_ ..⟩
    · rw [State.answer_nvi]
      rfl
    · rw [State.answer_nvi]
      exact Nvi.slotSt_setSt_self ..
    · rw [State.answer_rot]
      rfl
    · exact (State.event_frame _ hquiet.evr ..).trans ((hquiet.fuses ..).trans ((State.writeBcb_frame _ hquiet.nvi ..).trans (hquiet.nvi ..)))
  case status =>
    exact ⟨_, exec_imageStatus h, State.image_answered rfl ..⟩
  case idle =>
    refine ⟨_, exec_imageIdleTimeout hu hopen, rfl, ?_, rfl⟩
    simp [State.endUpdate, State.advanceTo, hu]
  case cert =>
    have hchain' := (s.heard m).freeChain_frame _ (blind_aside vcParts).fresh (if chain = 1 then 3 else 4)
    exact ⟨_, exec_certRead h hchain, State.answered (by decide) hchain' ..⟩
  case attest =>
    have hquiet := blind_aside vcParts
    have hact : ((s.heard m).freshen.event 0x0608 m.sess.toNat m.sess.toNat 0 0 0).aside vcParts = (s.heard m).aside vcParts :=
      (State.event_frame _ hquiet.evr ..).trans (State.freshen_frame _ hquiet.fresh _)
    obtain ⟨hans, hframe⟩ := State.answered (by decide) hact 0x81 stSuccess (s.reportBody nonce ++ leBytes 96 (s.freeNat 768))
    exact ⟨_, _, exec_attest h nonce, hans, State.answer_evr .., hframe⟩
  case parity => exact ⟨_, exec_keySlotParity hk hlevel, rfl, rfl, rfl⟩
  case installed =>
    have hquiet := blind_without [.cqe, .xts, .cfg, .evr]
    obtain ⟨t, hexec, hxts⟩ := exec_keysInstalled hwaits hlevel hk
    refine ⟨t, hexec, ?_, fun r hr => ?_, next_frame (execKeysInstalled_frame _ hquiet.cqe hquiet.xts hquiet.cfg hquiet.evr slot s) hexec⟩
    · rw [hxts]
      exact tget_tput_self ..
    · rw [hxts] at hr
      simpa using (List.mem_filter.mp hr).2

end Sys2Proof.Machine
end

section
/-! PROOF. Reset sources: what the cold and the warm scope leave, and the sources that hold the chip (R435 to R438, R446 to R449). -/

namespace Sys2Proof.Machine

open Sys2Proof

/-! ## The scopes -/

theorem State.clearCold_cleared (s : State) : ColdCleared s s.clearCold := by
  refine ⟨rfl, rfl, rfl, rfl, rfl, rfl, rfl, rfl, rfl, rfl, rfl, rfl, rfl, rfl, rfl, rfl, rfl, rfl, rfl, rfl, rfl, ?_, rfl, rfl⟩
  simp [State.clearCold, Ftu.flash]

theorem State.clearWarm_cleared (s : State) : WarmCleared s s.clearWarm :=
  ⟨rfl, rfl, rfl, rfl, rfl, rfl, rfl, rfl, rfl, rfl, rfl, rfl, rfl, rfl, rfl, rfl⟩

theorem Rcc.setCause_self (r : Rcc) {b : Nat} (hb : b < 13) : (r.setCause b).cause.getLsbD b = true := by
  show (r.cause ||| BitVec.ofNat 13 (2 ^ b)).getLsbD b = true
  rw [BitVec.getLsbD_or, BitVec.getLsbD_ofNat, Nat.testBit_two_pow_self]
  simp [hb]

/-- The end of a debug level is an event at most. -/
theorem State.levelEnds_evr (s : State) : ∃ f, s.levelEnds = s.modEvr f := by
  unfold State.levelEnds
  split
  · exact ⟨id, rfl⟩
  · exact ⟨_, rfl⟩

/-! ## Sources -/

/-- A cold source at a head that is not yet in a cold reset, whatever it logs: the scope is cleared and the chip held. -/
theorem State.coldSource_eq {s : State} (b : Nat) (h : s.rcc.hold ≠ .cold) : ∃ f, s.coldSource b = ((s.modEvr f).clearCold).modRcc fun _ =>
    { s.rcc.setCause b with
      hold := .cold, since := s.dt, fromPor := false, heldWarm := [], acting := none, pendingBlocks := 0, clkGood := 0, idleHeld := 0
      pendingChip := false } := by
  obtain ⟨f, hf⟩ := (s.modRcc fun r => r.setCause b).levelEnds_evr
  refine ⟨f, ?_⟩
  unfold State.coldSource
  refine (if_neg h).trans ?_
  rw [hf]
  rfl

/-- A warm source at a head that runs and whose vault does not. -/
theorem State.warmSource_eq {s : State} (b : Nat) (h : s.rcc.hold = .run) (hvault : s.vaulting = false) :
    ∃ f, s.warmSource b = ((s.modEvr f).clearWarm).modRcc fun r =>
      { (r.setCause b) with
        hold := .warm, since := s.dt, clkGood := r.clkGood &&& warmClocks, fromPor := false, heldWarm := [], acting := none
        pendingBlocks := 0, idleHeld := 0, pendingChip := false } := by
  obtain ⟨f, hf⟩ := s.levelEnds_evr
  unfold State.warmSource
  rw [if_neg (not_not_intro h), if_neg (by simp [hvault])]
  by_cases hlevel : s.dbg.level = 1
  · exact ⟨f, by rw [if_pos hlevel, hf]⟩
  · exact ⟨id, by rw [if_neg hlevel]; rfl⟩

/-- A command that is a cold source of the head with events of its own, and then changes RCC beside the hold, its time and the cause. -/
theorem ColdHeld.of_coldSource {c : Instr} {s : State} {bit : Nat} {more : State → Prop} (g : Evr → Evr) (f : Rcc → Rcc)
    (hexec : exec c s = .next (((s.modEvr g).coldSource bit).modRcc f)) (hhold : s.rcc.hold ≠ .cold) (hbit : bit < 13)
    (hf : ∀ r, (f r).hold = r.hold ∧ (f r).cause = r.cause ∧ (f r).since = r.since)
    (hmore : more (((s.modEvr g).coldSource bit).modRcc f)) : ColdHeld c s bit more := by
  refine ⟨_, hexec, ?_, ?_, ?_, ?_, ?_, hmore⟩ <;> obtain ⟨f', hf'⟩ := State.coldSource_eq (s := s.modEvr g) bit hhold <;> rw [hf']
  · exact ((s.modEvr g).modEvr f').clearCold_cleared
  · exact (hf _).1
  · exact (congrArg (BitVec.getLsbD · bit) (hf _).2.1).trans (Rcc.setCause_self s.rcc hbit)
  · exact (hf _).2.2
  · rfl

/-- A command that is a warm source of the head with events of its own. -/
theorem WarmHeld.of_warmSource {c : Instr} {s : State} {bit : Nat} (g : Evr → Evr) (hexec : exec c s = .next ((s.modEvr g).warmSource bit))
    (hhold : s.rcc.hold = .run) (hvault : s.vaulting = false) (hbit : bit < 13) : WarmHeld c s bit := by
  obtain ⟨f, hf⟩ := State.warmSource_eq (s := s.modEvr g) bit hhold hvault
  rw [hf] at hexec
  exact ⟨_, hexec, ((s.modEvr g).modEvr f).clearWarm_cleared, rfl, Rcc.setCause_self _ hbit, rfl⟩

/-- What a cold source leaves of RCC where the command writes it no more. -/
theorem State.coldSource_rcc {s : State} (b : Nat) (h : s.rcc.hold ≠ .cold) : (s.coldSource b).rcc =
    { s.rcc.setCause b with
      hold := .cold, since := s.dt, fromPor := false, heldWarm := [], acting := none, pendingBlocks := 0, clkGood := 0, idleHeld := 0
      pendingChip := false } := by
  obtain ⟨f, hf⟩ := State.coldSource_eq (s := s) b h
  rw [hf]
  rfl

/-! ## Software resets -/

theorem State.writeSwrst_cold {s : State} {v : Nat} (hkey : bits v 31 16 = 0xA5C3) (hrun : s.rcc.hold = .run) (hcold : tbit v 1 = true) :
    s.writeSwrst v = s.modRcc fun r => { r with acting := some 2 } := by
  unfold State.writeSwrst
  rw [if_neg (by simp [hkey, hrun]), if_pos hcold]

theorem State.writeSwrst_warm {s : State} {v : Nat} (hkey : bits v 31 16 = 0xA5C3) (hrun : s.rcc.hold = .run) (hcold : tbit v 1 = false)
    (hwarm : tbit v 0 = true) (hidle : s.rcc.acting = none) : s.writeSwrst v = s.modRcc fun r => { r with acting := some 1 } := by
  unfold State.writeSwrst
  rw [if_neg (by simp [hkey, hrun]), if_neg (by simp [hcold]), if_pos hwarm]
  simp [State.modRcc, hidle]

/-- A write of RCC_SWRST that asks for the reset of source 6 + `k`: it is answered, and the reset waits. -/
def State.swrstAsked (s : State) (m : Vc3) (k : Nat) : State :=
  ((s.heard m).modRcc fun r => { r with acting := some k }).answer m 0x31 stSuccess []

theorem State.swrstAsked_rcc (s : State) (m : Vc3) (k : Nat) : (s.swrstAsked m k).rcc = { s.rcc with acting := some k } :=
  State.answer_rcc ..

theorem State.swrstAsked_vaulting (s : State) (m : Vc3) (k : Nat) : (s.swrstAsked m k).vaulting = s.vaulting :=
  State.answer_frame State.vaulting (fun _ _ => rfl) (fun _ _ _ => rfl) (fun _ _ _ => rfl) ..

theorem State.swrstAsked_answers (s : State) (m : Vc3) (k : Nat) : s.answers (s.swrstAsked m k) m 0x31 stSuccess [] ∧
    (s.swrstAsked m k).without (.rcc :: vcParts) = s.without (.rcc :: vcParts) :=
  State.answered (by decide) ((blind_aside (.rcc :: vcParts)).rcc (by decide) (s.heard m) fun r => { r with acting := some k }) ..

section
variable {m : Vc3} {x : Session} {s : State} (h : s.writes m 3 x) {value : Word} (hkey : bits value.toNat 31 16 = 0xA5C3)
  (hrun : s.rcc.hold = .run)
include h hkey hrun

theorem exec_swColdReset (hcold : tbit value.toNat 1 = true) : exec (.swColdReset m value) s = .next (s.swrstAsked m 2).actSwrst := by
  refine (congrArg (Host.Outcome.next ∘ State.actSwrst) (s.regWrite_writes m _ 3 _ x h)).trans ?_
  rw [State.writeSwrst_cold (s := s.heard m) hkey hrun hcold]
  rfl

theorem exec_swWarmReset (hcold : tbit value.toNat 1 = false) (hwarm : tbit value.toNat 0 = true) (hidle : s.rcc.acting = none) :
    exec (.swWarmReset m value) s = .next (s.swrstAsked m 1).actSwrst := by
  refine (congrArg (Host.Outcome.next ∘ State.actSwrst) (s.regWrite_writes m _ 3 _ x h)).trans ?_
  rw [State.writeSwrst_warm (s := s.heard m) hkey hrun hcold hwarm hidle]
  rfl

end

/-- A cold reset that waits for its answer acts once no answer waits. -/
theorem State.actSwrst_cold {s : State} (hwait : s.answersWait = false) (hacting : s.rcc.acting = some 2) : s.actSwrst = s.coldReset := by
  unfold State.actSwrst
  rw [if_neg (by simp [hwait]), hacting]
  rfl

theorem State.actSwrst_warm {s : State} (hwait : s.answersWait = false) (hacting : s.rcc.acting = some 1) :
    s.actSwrst = (s.modRcc fun r => { r with acting := none }).warmReset := by
  unfold State.actSwrst
  rw [if_neg (by simp [hwait]), hacting]
  rfl

theorem State.actSwrst_wait {s : State} (hwait : s.answersWait = true) : s.actSwrst = s := by
  unfold State.actSwrst
  rw [if_pos hwait]

/-- Settles O40: each source is a cold or warm source of the head, after its own event. -/
theorem resetSourcesClearTheirScopes : Obligations.ResetSourcesClearTheirScopes := by
  intro s
  refine ⟨?por, fun hhold => ⟨?pwrgd, ?resetN, fun sensor temp htrip => ?trip, fun sub domain hsub => ?glitch⟩,
    fun hrun => ⟨fun hlevel => ?rot, fun r => ?refclk, fun hvault => ⟨fun cluster core hlevel => ?core, fun hp3 => ?wreset⟩,
      fun m value x h hkey => ⟨fun hcold => ?swCold, fun hcold hwarm hidle hvault => ?swWarm⟩⟩⟩
  case por => exact ⟨_, rfl, s.clearCold_cleared, rfl, rfl, rfl, rfl⟩
  case pwrgd => exact .of_coldSource id id rfl hhold (by decide) (fun _ => ⟨rfl, rfl, rfl⟩) trivial
  case resetN =>
    refine .of_coldSource id (fun r => { r with tripReset := r.trip || r.tripReset }) rfl hhold (by decide) (fun _ => ⟨rfl, rfl, rfl⟩) ?_
    have hrcc := State.coldSource_rcc (s := s.modEvr id) 2 hhold
    show (((s.modEvr id).coldSource 2).rcc.trip || ((s.modEvr id).coldSource 2).rcc.tripReset) = _
    rw [hrcc]
    rfl
  case trip =>
    refine .of_coldSource (fun e => { e.happen s.dt 0x0207 sensor.val sensor.val (twos 32 temp) 0 0 with
      lifeTrips := (e.happen s.dt 0x0207 sensor.val sensor.val (twos 32 temp) 0 0).lifeTrips + 1 })
      (fun r => { r with trip := true, tripReset := false }) ?_ hhold (by decide) (fun _ => ⟨rfl, rfl, rfl⟩) ⟨rfl, rfl⟩
    show execThermalTrip sensor temp s = _
    unfold execThermalTrip
    rw [htrip]
    rfl
  case glitch =>
    refine .of_coldSource id (fun r => { r with glitchSub := sub.val, glitchDomain := if sub.val = 5 then domain.val else 0 }) ?_ hhold
      (by decide) (fun _ => ⟨rfl, rfl, rfl⟩) ⟨rfl, rfl⟩
    show execGlitch sub domain s = _
    unfold execGlitch
    have h0 : sub.val ≠ 0 := fun h0 => hsub (Fin.ext h0)
    rw [if_neg h0]
    rfl
  case rot =>
    refine .of_coldSource (fun e => e.happen s.dt 0x0208 0 0 0 0 0) id ?_ (by simp [hrun]) (by decide) (fun _ => ⟨rfl, rfl, rfl⟩) trivial
    show execRotWatchdog s = _
    unfold execRotWatchdog
    rw [if_neg (by simp [hrun, hlevel])]
    rfl
  case refclk =>
    refine .of_coldSource (fun e => e.happen s.dt 0x0205 0 (if r then 2 else 1) 0 0 0)
      (fun c => { c with glitchSub := if r then 4 else 3, glitchDomain := 0 }) ?_ (by simp [hrun]) (by decide) (fun _ => ⟨rfl, rfl, rfl⟩) rfl
    show execRefclkFault r s = _
    unfold execRefclkFault
    rw [if_neg (by simp [hrun])]
    rfl
  case core =>
    refine .of_warmSource (fun e => e.happen s.dt 0x1701 cluster.val cluster.val core.val 0 0) ?_ hrun hvault (by decide)
    show execCoreWatchdog cluster core s = _
    unfold execCoreWatchdog
    rw [if_neg (by simp [hrun, hlevel])]
    rfl
  case wreset =>
    refine .of_warmSource id ?_ hrun hvault (by decide)
    show execWresetN s = _
    unfold execWresetN
    rw [if_neg (by simp [hp3])]
    rfl
  case swCold =>
    refine ⟨_, exec_swColdReset h hkey hrun hcold, ?_⟩
    obtain ⟨hans, hframe⟩ := s.swrstAsked_answers m 2
    have hrcc := s.swrstAsked_rcc m 2
    have hacting : (s.swrstAsked m 2).rcc.acting = some 2 := congrArg Rcc.acting hrcc
    cases hwait : (s.swrstAsked m 2).answersWait with
    | true =>
      rw [State.actSwrst_wait hwait]
      exact .inl ⟨hacting, hwait, hans, hframe⟩
    | false =>
      have hnot : (s.swrstAsked m 2).rcc.hold ≠ .cold := by rw [hrcc]; simp [hrun]
      obtain ⟨f, hf⟩ := State.coldSource_eq 7 hnot
      rw [State.actSwrst_cold hwait hacting, State.coldReset, hf]
      exact .inr ⟨_, ((s.swrstAsked m 2).modEvr f).clearCold_cleared, hans, rfl, Rcc.setCause_self _ (by decide)⟩
  case swWarm =>
    refine ⟨_, exec_swWarmReset h hkey hrun hcold hwarm hidle, ?_⟩
    obtain ⟨hans, hframe⟩ := s.swrstAsked_answers m 1
    have hrcc := s.swrstAsked_rcc m 1
    have hacting : (s.swrstAsked m 1).rcc.acting = some 1 := congrArg Rcc.acting hrcc
    cases hwait : (s.swrstAsked m 1).answersWait with
    | true =>
      rw [State.actSwrst_wait hwait]
      exact .inl ⟨hacting, hwait, hans, hframe⟩
    | false =>
      let u := (s.swrstAsked m 1).modRcc fun r => { r with acting := none }
      have hhold : u.rcc.hold = .run := (congrArg Rcc.hold hrcc).trans hrun
      obtain ⟨f, hf⟩ := State.warmSource_eq (s := u) 8 hhold ((s.swrstAsked_vaulting m 1).trans hvault)
      rw [State.actSwrst_warm hwait hacting, State.warmReset, hf]
      exact .inr ⟨_, (u.modEvr f).clearWarm_cleared, hans, rfl, Rcc.setCause_self _ (by decide)⟩

end Sys2Proof.Machine
end

section
/-! PROOF. Block resets and their release (R443 to R445), quads whose PLL is unlocked (R451). -/

namespace Sys2Proof.Machine

open Sys2Proof

/-! ## Block resets -/

/-- What the reset of a block can touch. -/
def blockParts : List Blk :=
  [.fresh, .out, .link, .cqe, .dsc, .wc, .dge, .dxu, .cpe, .ftu, .pxe, .snap, .ha, .gov, .slc, .nvi, .xts, .cfg, .evr, .glb]

/-- The head that has recorded a write of RCC_BLKRST and holds the blocks of its mask, before they lose their work. -/
def State.blocksHeld (s : State) (mask idle sess : Nat) : State :=
  ((s.event 0x0202 0 mask idle sess 0).modRcc fun r =>
    { r.setCause 9 with pendingBlocks := r.pendingBlocks ||| BitVec.ofNat 14 mask, blockAt := s.dt }).modDbg fun d => { d with nonce := none }

/-- What the reset of a block cannot touch of RCC, DBG and the time. -/
def State.beyondBlocks (s : State) : Rcc × Dbg × Nat := (s.rcc, s.dbg, s.dt)

theorem blind_beyondBlocks : Blind blockParts State.beyondBlocks := by
  intro b hb s t h
  have heq : (t.blank b).beyondBlocks = (s.blank b).beyondBlocks := congrArg State.beyondBlocks h
  cases b with
  | rcc => exact absurd hb (by decide)
  | dbg => exact absurd hb (by decide)
  | dt => exact absurd hb (by decide)
  | _ => exact heq

theorem State.blocksHeld_frame {α : Type} (π : State → α) (hRcc : KeepsRcc π) (hDbg : KeepsDbg π) (hEvr : KeepsEvr π) (s : State)
    (mask idle sess : Nat) : π (s.blocksHeld mask idle sess) = π s :=
  (hDbg ..).trans ((hRcc ..).trans (State.event_frame π hEvr ..))

/-- The blocks that a write of RCC_BLKRST resets. -/
def State.blocksReset (s : State) (mask : Nat) : List Nat := (List.range 14).filter fun b => tbit mask b && !s.rcc.pendingBlocks.getLsbD b

theorem State.blocksReset_dge {s : State} (hfree : s.rcc.pendingBlocks.getLsbD 5 = false) : s.blocksReset 32 = [5] := by
  have hmask : (List.range 14).filter (fun b => tbit 32 b) = [5] := by decide
  unfold State.blocksReset
  rw [List.filter_congr (fun b _ => Bool.and_comm (tbit 32 b) _), ← List.filter_filter, hmask]
  exact List.filter_eq_self.mpr (by simpa using hfree)

/-- A write of RCC_BLKRST that is not dropped. -/
theorem State.writeBlkrst_eq {s : State} {v sess : Nat} (hmask : bits v 13 0 ≠ 0) (hrun : s.rcc.hold = .run) (hidle : s.rcc.acting = none) :
    s.writeBlkrst v sess =
      let r := (s.blocksReset (bits v 13 0)).foldl (fun (r : Nat × State) b => ((r.1 + (r.2.resetBlock b).1), (r.2.resetBlock b).2))
        (0, s.blocksHeld (bits v 13 0) s.idleBlocks sess)
      let busy := (s.blocksReset (bits v 13 0)).filter fun b => !tbit s.idleBlocks b
      if busy = [] then r.2 else (r.2.event 0x0203 0 (lsum (busy.map fun b => 2 ^ b)) (r.2.freeNat 32) r.1 0).freshen := by
  unfold State.writeBlkrst
  refine if_neg ?_
  simp [hmask, hrun, hidle]

/-- Of RCC, DBG and the time the blocks' losses touch nothing. -/
theorem State.writeBlkrst_beyondBlocks {s : State} {v sess : Nat} (hmask : bits v 13 0 ≠ 0) (hrun : s.rcc.hold = .run)
    (hidle : s.rcc.acting = none) :
    (s.writeBlkrst v sess).beyondBlocks = (s.blocksHeld (bits v 13 0) s.idleBlocks sess).beyondBlocks := by
  have b := blind_beyondBlocks
  rw [State.writeBlkrst_eq hmask hrun hidle]
  extract_lets r busy
  have hr : r.2.beyondBlocks = (s.blocksHeld (bits v 13 0) s.idleBlocks sess).beyondBlocks := by
    refine foldl_frame2 State.beyondBlocks _ (fun r k => ?_) _ (0, s.blocksHeld (bits v 13 0) s.idleBlocks sess)
    exact State.resetBlock_frame _ b.fresh b.out b.link b.linkAll b.port b.lane b.cqe b.sess b.dsc b.wc b.dge b.dxu b.cpe b.ftu b.pxe b.pxeAll
      b.snap b.ha b.gov b.slc b.nvi b.xts b.cfg b.evr b.glb r.2 k
  clear_value r
  exact ite_frame hr ((State.freshen_frame _ b.fresh _).trans ((State.event_frame _ b.evr ..).trans hr))

/-- A reset of DGE alone: its contexts and keys go, and of the other blocks nothing is lost (R444). -/
theorem State.writeBlkrst_dge {s : State} {v sess : Nat} (hmask : bits v 13 0 = 32) (hrun : s.rcc.hold = .run) (hidle : s.rcc.acting = none)
    (hfree : s.rcc.pendingBlocks.getLsbD 5 = false) : (s.writeBlkrst v sess).dge = { bad := s.dge.bad, tested := s.dge.tested } ∧
      (s.writeBlkrst v sess).aside (.dge :: .dbg :: .rcc :: vcParts) = s.aside (.dge :: .dbg :: .rcc :: vcParts) := by
  have b := blind_aside (.dge :: .dbg :: .rcc :: vcParts)
  rw [State.writeBlkrst_eq (by rw [hmask]; decide) hrun hidle, hmask, State.blocksReset_dge hfree]
  extract_lets r busy
  have hr : r.2.dge = { bad := s.dge.bad, tested := s.dge.tested } ∧
      r.2.aside (.dge :: .dbg :: .rcc :: vcParts) = s.aside (.dge :: .dbg :: .rcc :: vcParts) :=
    ⟨rfl, (State.resetDge_frame _ b.dge _).trans (s.blocksHeld_frame _ b.rcc b.dbg b.evr ..)⟩
  clear_value r
  obtain ⟨hdge, hrest⟩ := hr
  exact ⟨ite_frame hdge hdge, ite_frame hrest ((State.freshen_frame _ b.fresh _).trans ((State.event_frame _ b.evr ..).trans hrest))⟩

@[simp] theorem State.answer_dge (s : State) (m : Vc3) (typ status : Nat) (body : Bytes) : (s.answer m typ status body).dge = s.dge :=
  State.answer_frame State.dge (fun _ _ => rfl) (fun _ _ _ => rfl) (fun _ _ _ => rfl) ..

theorem exec_blockReset {m : Vc3} {x : Session} {s : State} (h : s.writes m 3 x) (value : Word) : exec (.blockReset m value) s =
    .next (((s.heard m).writeBlkrst value.toNat m.sess.toNat).answer m 0x31 stSuccess []) :=
  congrArg Host.Outcome.next (s.regWrite_writes m _ 3 _ x h)

/-! ## Releases -/

/-- The head once a block is released, before the firmware loads it again: 1 us after the reset at the earliest. -/
def State.blockFreed (s : State) (b : Nat) : State :=
  (s.advanceTo (s.rcc.blockAt + 1000)).modRcc fun r => { r with pendingBlocks := r.pendingBlocks &&& ~~~ (BitVec.ofNat 14 (2 ^ b)) }

theorem exec_blockRelease {s : State} {b : Fin 14} (hpending : s.rcc.pendingBlocks.getLsbD b.val = true) (hrun : s.rcc.hold = .run) :
    exec (.blockRelease b) s = .next ((s.blockFreed b.val).reloadBlock b.val) := by
  refine if_neg ?_
  simp [hpending, hrun]

/-- The release takes the block's own bit from those that wait. -/
theorem State.blockFreed_pending (s : State) (b : Fin 14) (k : Nat) :
    (s.blockFreed b.val).rcc.pendingBlocks.getLsbD k = (s.rcc.pendingBlocks.getLsbD k && !decide (k = b.val)) := by
  show (s.rcc.pendingBlocks &&& ~~~ (BitVec.ofNat 14 (2 ^ b.val))).getLsbD k = _
  rw [BitVec.getLsbD_and, BitVec.getLsbD_not, BitVec.getLsbD_ofNat, Nat.testBit_two_pow]
  by_cases hk : k < 14
  · simp [hk, eq_comm]
  · simp [BitVec.getLsbD_of_ge s.rcc.pendingBlocks k (by omega)]

theorem exec_releaseDeferred_chip {s : State} (hhold : s.rcc.hold ≠ .run) (domain : Fin 72) : exec (.releaseDeferred 0xFFFF domain) s =
    .next (((s.advanceTo (s.rcc.since + msNs 1)).modRcc fun r => { r with pendingChip := true }).event 0x0204 0 0xFFFF domain.val 0 0) :=
  if_neg hhold

theorem exec_releaseDeferred_blocks {s : State} {mask : BitVec 16} (hmask : mask ≠ 0xFFFF) (hwaits : mask.toNat &&& s.rcc.pendingBlocks.toNat ≠ 0)
    (domain : Fin 72) : exec (.releaseDeferred mask domain) s =
      .next ((s.advanceTo (s.rcc.blockAt + msNs 1)).event 0x0204 0 (mask.toNat &&& s.rcc.pendingBlocks.toNat) domain.val 0 0) :=
  (if_neg hmask).trans (if_neg hwaits)

/-! ## Quads -/

/-- A lane taken DOWN, unless it is IDLE. -/
def State.laneDown (s : State) (n : Nat) : State := if (s.link.lane n).st = .idle then s else s.setLane n .down 11

theorem State.lanesDown_cons (s : State) (n : Nat) (ns : List Nat) : s.lanesDown (n :: ns) = (s.laneDown n).lanesDown ns := rfl

theorem State.laneDown_lane_ne (s : State) {n k : Nat} (hk : k ≠ n) : (s.laneDown n).link.lane k = s.link.lane k := by
  unfold State.laneDown
  split
  · rfl
  · by_cases hdown : (s.link.lane n).st = .down
    · rw [show s.setLane n .down 11 = s from if_pos hdown]
    · rw [State.setLane_lane s n .down 11 k hdown, if_neg hk]

theorem State.laneDown_lane_st (s : State) {n : Nat} (hidle : (s.link.lane n).st ≠ .idle) : ((s.laneDown n).link.lane n).st = .down := by
  unfold State.laneDown
  rw [if_neg hidle]
  by_cases hdown : (s.link.lane n).st = .down
  · rw [show s.setLane n .down 11 = s from if_pos hdown, hdown]
  · rw [State.setLane_lane s n .down 11 n hdown, if_pos rfl]
    rfl

theorem State.lanesDown_lane_of_notMem {ns : List Nat} {k : Nat} (s : State) (hk : k ∉ ns) :
    (s.lanesDown ns).link.lane k = s.link.lane k := by
  induction ns generalizing s with
  | nil => rfl
  | cons n ns ih =>
    obtain ⟨hn, hns⟩ : k ≠ n ∧ k ∉ ns := by simpa using hk
    rw [State.lanesDown_cons, ih _ hns, State.laneDown_lane_ne s hn]

theorem State.lanesDown_lane_st {ns : List Nat} {k : Nat} (s : State) (hk : k ∈ ns) (hidle : (s.link.lane k).st ≠ .idle) :
    ((s.lanesDown ns).link.lane k).st = .down := by
  induction ns generalizing s with
  | nil => cases hk
  | cons n ns ih =>
    rw [State.lanesDown_cons]
    by_cases hn : k = n
    · subst hn
      have hdown := s.laneDown_lane_st hidle
      by_cases hns : k ∈ ns
      · exact ih _ hns (by rw [hdown]; exact nofun)
      · rw [State.lanesDown_lane_of_notMem _ hns, hdown]
    · exact ih _ (List.mem_of_ne_of_mem hn hk) (by rw [State.laneDown_lane_ne s hn]; exact hidle)

/-- The quads that are down. -/
def State.quadsDown (s : State) : List (Nat × Nat) := s.link.quadDown

/-- A member whose lane is back may be asked for its identity: no quad goes down or comes back by it. -/
theorem State.memberReturns_quadDown (s : State) (pos : Nat) : (s.memberReturns pos).link.quadDown = s.link.quadDown := by
  have hident : (s.sendIdent pos).link.quadDown = s.link.quadDown :=
    State.transmit_frame State.quadsDown (fun _ _ => rfl) (fun _ _ _ => rfl) ..
  have hpresent (u : State) (pool : Nat) : ((u.setMember pos .present).startRebuild pool pos).link.quadDown = u.link.quadDown :=
    (State.startRebuild_frame State.quadsDown (fun _ _ => rfl) (fun _ _ => rfl) (fun _ _ _ => rfl) (fun _ _ => rfl) ..).trans
      (State.setMember_frame State.quadsDown (fun _ _ => rfl) (fun _ _ _ => rfl) (fun _ _ => rfl) (fun _ _ => rfl) (fun _ _ => rfl)
        (fun _ _ _ => rfl) (fun _ _ => rfl) (fun _ _ => rfl) (fun _ _ => rfl) ..)
  have hresync (pool : Nat) : (s.resyncRegions pool s.glb.headB).link.quadDown = s.link.quadDown :=
    State.resyncRegions_frame State.quadsDown (fun _ _ => rfl) (fun _ _ _ => rfl) (fun _ _ => rfl) (fun _ _ => rfl) (fun _ _ _ => rfl)
      (fun _ _ => rfl) (fun _ _ => rfl) ..
  unfold State.memberReturns
  split
  · rfl
  next m _ =>
    have hback := (hpresent (if m.wasPresent then s.resyncRegions m.pool s.glb.headB else s) m.pool).trans
      (ite_frame (π := State.quadsDown) (hresync m.pool) rfl)
    exact ite_frame (π := State.quadsDown) rfl (ite_frame (π := State.quadsDown) hident (ite_frame (π := State.quadsDown) rfl hback))

theorem State.portBack_quadDown (s : State) (p : PortId) : (s.portBack p).link.quadDown = s.link.quadDown := by
  unfold State.portBack
  extract_lets u v
  have hv : v.link.quadDown = s.link.quadDown :=
    (State.pump_frame State.quadsDown (fun _ _ => rfl) (fun _ _ _ => rfl) u p).trans
      (State.endRetrain_frame State.quadsDown (fun _ _ => rfl) (fun _ _ _ => rfl) (fun _ _ => rfl) (fun _ _ => rfl) _ p)
  cases p with
  | host h => exact hv
  | peer =>
    exact (State.peerLanes_frame State.quadsDown (fun _ _ => rfl) (fun _ _ _ => rfl) (fun _ _ => rfl) (fun _ _ _ => rfl)
      (fun _ _ => rfl) v true).trans hv
  | media m => exact (State.memberReturns_quadDown ..).trans hv

theorem State.setLane_quadDown (s : State) (n : Nat) (st : LaneSt) (cause : Nat) : (s.setLane n st cause).link.quadDown = s.link.quadDown := by
  have hlane : ((s.laneEvent n (s.link.lane n).st st cause).modLane n (Lane.enters s.dt st cause)).link.quadDown = s.link.quadDown :=
    State.laneEvent_frame State.quadsDown (fun _ _ => rfl) s n _ st cause
  unfold State.setLane
  dsimp only
  split
  · rfl
  · cases s.link.laneOwner n with
    | none => exact hlane
    | some p =>
      dsimp only
      have hdown {c : Prop} [Decidable c] {u : State} (h : u.link.quadDown = s.link.quadDown) :
          (if c then u.portDown p else u).link.quadDown = s.link.quadDown :=
        ite_frame (π := State.quadsDown) ((State.portDown_frame State.quadsDown (fun _ _ => rfl) (fun _ _ _ => rfl) (fun _ _ => rfl) (fun _ _ => rfl)
          (fun _ _ _ => rfl) (fun _ _ => rfl) u p).trans h) h
      have hrestart {c : Prop} [Decidable c] {u : State} (h : u.link.quadDown = s.link.quadDown) :
          (if c then u.restartPort p else u).link.quadDown = s.link.quadDown :=
        ite_frame (π := State.quadsDown) ((State.restartPort_frame State.quadsDown (fun _ _ _ => rfl) (fun _ _ _ => rfl) u p).trans h) h
      exact ite_frame (π := State.quadsDown) ((State.portBack_quadDown ..).trans (hrestart (hdown hlane))) (hrestart (hdown hlane))

/-- The quads that are down are no lane's state. -/
theorem State.lanesDown_quadDown (s : State) (ns : List Nat) : (s.lanesDown ns).link.quadDown = s.link.quadDown :=
  foldl_frame State.quadsDown _ (fun s n => ite_frame (π := State.quadsDown) rfl (s.setLane_quadDown n .down 11)) ns s

theorem State.lanesDown_rcc (s : State) (ns : List Nat) : (s.lanesDown ns).rcc = s.rcc := by
  apply State.lanesDown_frame State.rcc <;> first | exact fun _ _ => rfl | exact fun _ _ _ => rfl

/-- A bit alone, at its own place. -/
theorem getLsbD_ofNat_two_pow {w b : Nat} (hb : b < w) : (BitVec.ofNat w (2 ^ b)).getLsbD b = true := by
  rw [BitVec.getLsbD_ofNat, Nat.testBit_two_pow_self]
  simpa using hb

/-- The head as the PLL of a quad is unlocked, before its lanes are DOWN. -/
def State.quadUnlocked (s : State) (q : Nat) : State :=
  (s.modLink fun l => { l with quadDown := l.quadDown ++ [(q, s.dt)] }).modRcc fun r =>
    { r with clkGood := r.clkGood &&& ~~~ (BitVec.ofNat 72 (2 ^ q)) }

theorem exec_quadPllUnlock {s : State} {quad : Fin 36} (hrun : s.rcc.hold = .run) (hp3 : s.pmu.pstate ≠ .p3)
    (hup : ∀ x ∈ s.link.quadDown, x.1 ≠ quad.val) : exec (.quadPllUnlock quad) s =
      .next ((s.quadUnlocked quad.val).lanesDown ((List.range 4).map (· + 4 * quad.val))) := by
  refine if_neg ?_
  simp only [hrun, hp3, ne_eq, not_true_eq_false, false_or, List.any_eq_true, beq_iff_eq, not_exists, not_and]
  exact hup

theorem mem_quad (n q : Nat) : n ∈ (List.range 4).map (· + 4 * q) ↔ n / 4 = q := by
  simp only [List.mem_map, List.mem_range]
  constructor
  · rintro ⟨i, hi, rfl⟩
    omega
  · intro h
    exact ⟨n % 4, by omega, by omega⟩

theorem exec_quadPllLocked {s : State} {quad : Fin 36} {x : Nat × Nat} (hx : s.link.quadDown.find? (fun x => x.1 == quad.val) = some x) :
    exec (.quadPllLocked quad) s = .next (((s.modLink fun l => { l with quadDown := l.quadDown.filter fun y => y.1 != quad.val }).modRcc fun r =>
      { r with clkGood := r.clkGood ||| BitVec.ofNat 72 (2 ^ quad.val) }).event 0x0206 quad.val quad.val ((s.dt - x.2) / 1000) 0 0) := by
  show execQuadPllLocked quad s = _
  unfold execQuadPllLocked
  dsimp only
  rw [hx]
  rfl

/-- Settles O42: block resets by what they leave outside the blocks' own parts, quads by the change of each lane. -/
theorem blocksAndQuadsAreResetAndReleased : Obligations.BlocksAndQuadsAreResetAndReleased := by
  intro s
  refine ⟨fun m value x h hmask hrun hidle => ⟨?held, fun hdge hfree => ?dge⟩, fun b hpending hrun => ?release,
    fun domain => ⟨fun hhold => ?deferredChip, fun mask hmask hwaits => ?deferredBlocks⟩,
    fun quad => ⟨fun hrun hp3 hup => ?unlock, fun x hx => ?locked⟩⟩
  case held =>
    have hview : (((s.heard m).writeBlkrst value.toNat m.sess.toNat).answer m 0x31 stSuccess []).beyondBlocks =
        ((s.heard m).blocksHeld (bits value.toNat 13 0) (s.heard m).idleBlocks m.sess.toNat).beyondBlocks :=
      (State.answer_frame State.beyondBlocks (fun _ _ => rfl) (fun _ _ _ => rfl) (fun _ _ _ => rfl) ..).trans
        (State.writeBlkrst_beyondBlocks hmask hrun hidle)
    exact ⟨_, exec_blockReset h value, (congrArg (·.1) hview :), (congrArg (·.2.1) hview :), (congrArg (·.2.2) hview :)⟩
  case dge =>
    obtain ⟨hlost, hframe⟩ := State.writeBlkrst_dge (s := s.heard m) (sess := m.sess.toNat) hdge hrun hidle hfree
    have hanswer : (((s.heard m).writeBlkrst value.toNat m.sess.toNat).answer m 0x31 stSuccess []).dge = _ := (State.answer_dge ..).trans hlost
    exact ⟨_, exec_blockReset h value, (congrArg Dge.ctx hanswer :), (congrArg Dge.fpKeys hanswer :), (congrArg Dge.jobKeys hanswer :),
      (congrArg Dge.bad hanswer :), State.answered (by decide) hframe ..⟩
  case release =>
    have b' := blind_without [.dt, .cqe, .dge, .cpe, .gov, .rcc, .evr]
    have hexec := exec_blockRelease hpending hrun
    have hrcc : ((s.blockFreed b.val).reloadBlock b.val).rcc = (s.blockFreed b.val).rcc :=
      State.reloadBlock_frame State.rcc (fun _ _ => rfl) (fun _ _ => rfl) (fun _ _ => rfl) (fun _ _ => rfl) (fun _ _ => rfl) ..
    have hdt : ((s.blockFreed b.val).reloadBlock b.val).dt = (s.blockFreed b.val).dt :=
      State.reloadBlock_frame State.dt (fun _ _ => rfl) (fun _ _ => rfl) (fun _ _ => rfl) (fun _ _ => rfl) (fun _ _ => rfl) ..
    refine ⟨_, hexec, hdt, ?_, fun k hk => ?_, fun hb hlevel => ?_, next_frame (execBlockRelease_frame _ b'.dt b'.cqe b'.dge b'.cpe b'.gov
      b'.rcc b'.evr b s) hexec⟩
    · rw [hrcc, State.blockFreed_pending]
      simp
    · rw [hrcc, State.blockFreed_pending]
      simp [hk]
    · rw [hb]
      have hlow : ¬ (s.blockFreed 5).dbg.level ≥ 2 := Nat.not_le.mpr hlevel
      rw [show (s.blockFreed 5).reloadBlock 5 = _ from if_neg hlow]
      exact ⟨rfl, rfl⟩
  case deferredChip =>
    have b := blind_without [.dt, .rcc, .evr]
    exact ⟨_, exec_releaseDeferred_chip hhold domain, rfl, rfl, (State.event_frame _ b.evr ..).trans ((b.rcc ..).trans (b.dt ..))⟩
  case deferredBlocks =>
    have b := blind_without [.dt, .evr]
    exact ⟨_, exec_releaseDeferred_blocks hmask hwaits domain, rfl, rfl, (State.event_frame _ b.evr ..).trans (b.dt ..)⟩
  case unlock =>
    have b := blind_without (.rcc :: laneParts)
    have hexec := exec_quadPllUnlock hrun hp3 hup
    refine ⟨_, hexec, ?_, ?_, fun n hn hidle => ?_, fun n hn => ?_, next_frame (execQuadPllUnlock_frame _ b.fresh b.out b.link b.port b.lane b.cqe
      b.sess b.dsc b.wc b.ftu b.pxe b.pxeAll b.gov b.cfg b.rcc b.evr b.glb quad s) hexec⟩
    · rw [State.lanesDown_quadDown]
      exact List.mem_append_right _ (List.mem_singleton_self _)
    · have hrcc : ((s.quadUnlocked quad.val).lanesDown ((List.range 4).map (· + 4 * quad.val))).rcc = (s.quadUnlocked quad.val).rcc :=
        State.lanesDown_rcc ..
      rw [hrcc]
      show (s.rcc.clkGood &&& ~~~ (BitVec.ofNat 72 (2 ^ quad.val))).getLsbD quad.val = false
      rw [BitVec.getLsbD_and, BitVec.getLsbD_not, getLsbD_ofNat_two_pow (by omega)]
      simp
    · exact State.lanesDown_lane_st _ ((mem_quad n quad.val).mpr hn) hidle
    · exact State.lanesDown_lane_of_notMem _ fun hmem => hn ((mem_quad n quad.val).mp hmem)
  case locked =>
    have b := blind_without [.link, .rcc, .evr]
    refine ⟨_, exec_quadPllLocked hx, rfl, ?_, rfl, (State.event_frame _ b.evr ..).trans ((b.rcc ..).trans (b.linkAll ..))⟩
    show (s.rcc.clkGood ||| BitVec.ofNat 72 (2 ^ quad.val)).getLsbD quad.val = true
    rw [BitVec.getLsbD_or, getLsbD_ofNat_two_pow (by omega)]
    simp

end Sys2Proof.Machine
end

section
/-! PROOF. Challenges, tokens and debug levels (R417 to R424), and the lifecycle changes that erase keys (R421). -/

namespace Sys2Proof.Machine

open Sys2Proof

/-! ## Challenges -/

/-- The head that has issued a nonce for a challenge. -/
def State.challenged (s : State) (m : Vc3) (action : Nat) : State :=
  (s.heard m).freshen.modDbg fun d => { d with nonce := some { action := action, sess := m.sess.toNat, value := s.freeNat 256, issuedAt := s.dt } }

theorem exec_dbgChallenge {s : State} {m : Vc3} {x : Session} {action : Byte}
    (h : s.accepts m 0x88 false (actionPrivilege s.rot.lifecycle action.toNat) x) (hne : action ≠ 0) (hle : action.toNat ≤ 5) :
    exec (.dbgChallenge m action) s = .next ((s.challenged m action.toNat).answer m 0x88 stSuccess (leBytes 1 0 ++
      (leBytes 8 s.rot.serial ++ leBytes 1 (lifecycleNum s.rot.lifecycle) ++ leBytes 1 s.dbg.level ++ leBytes
          6 0 ++ leBytes 32 (s.freeNat 256)))) := by
  refine congrArg Host.Outcome.next ((s.vc3_accepts m _ _ _ _ x h).trans (if_neg ?_))
  exact not_or.mpr ⟨hne, Nat.not_lt.mpr hle⟩

theorem exec_nonceExpiry {s : State} {n : Nonce} (hn : s.dbg.nonce = some n) :
    exec .nonceExpiry s = .next ((s.advanceTo (n.issuedAt + secNs 60)).modDbg fun d => { d with nonce := none }) := by
  show execNonceExpiry s = _
  unfold execNonceExpiry
  rw [hn]

/-! ## Tokens that are accepted -/

/-- The head that has accepted a token: its nonce has been used. -/
def State.tokenTaken (s : State) (m : Vc3) : State := (s.heard m).modDbg fun d => { d with nonce := none }

/-- A token that nothing refuses carries the valid nonce. -/
theorem State.tokenReason_nonce {s : State} {m : Vc3} {action : Nat} {k : Token} (h : s.tokenReason m action k = 0) :
    s.nonceHolds m action k = true := by
  unfold State.tokenReason at h
  grind

theorem State.token_holds {s : State} {m : Vc3} {action : Nat} {k : Token} {x : Session} (h : s.tokenHolds m action k x) (act : State → State) :
    s.token m action k act = act (s.tokenTaken m) := by
  obtain ⟨haccepts, hfmt, hreason⟩ := h
  have hreason' : (s.heard m).tokenReason m action k = 0 := hreason
  have hnonce : (s.heard m).nonceHolds m action k = true := State.tokenReason_nonce hreason'
  refine (s.vc3_accepts m _ _ _ _ x haccepts).trans ?_
  dsimp only
  rw [if_neg (by simp [hfmt]), hreason', hnonce]
  rfl

/-- An accepted DEBUG token begins its action, whose answer waits (R424). -/
theorem State.debugStarted (s : State) (m : Vc3) (level : Nat) :
    ((s.tokenTaken m).startDebug m level).dbg = { s.dbg with
      nonce := none
      action := some { level := level, port := m.port.val, sess := m.sess.toNat, reqId := m.reqId.toNat, at_ := s.dt } } ∧
      ((s.tokenTaken m).startDebug m level).without (.dbg :: vcParts) = s.without (.dbg :: vcParts) := by
  have b := blind_without (.dbg :: vcParts)
  exact ⟨rfl, (b.dbg ..).trans ((State.holdAnswer_frame _ b.sess ..).trans ((b.dbg ..).trans (State.heard_without (by decide) s m)))⟩

/-! ## Keys that are erased -/

/-- No key that a purge takes is left: the AKEK, the XTS slots, the slots of DGE (R423). -/
def State.KeysErased (s : State) : Prop := s.rot.akek = none ∧ s.xts.keys = [] ∧ s.dge.fpKeys = [] ∧ s.dge.jobKeys = []

theorem State.purge_keysErased (s : State) (cause : Nat) : (s.purge cause).KeysErased :=
  (State.refreshVolumes_frame State.KeysErased (fun _ _ => rfl) (fun _ _ _ => rfl) _).mpr ⟨rfl, rfl, rfl, rfl⟩

theorem State.eraseKeys_keysErased (s : State) : s.eraseKeys.KeysErased := s.purge_keysErased 3

/-! ## Lifecycle changes -/

/-- The head whose lifecycle fuses are blown and whose answer is given, before the cold reset. -/
def State.lifecycleBlown (s : State) (m : Vc3) (new : Lifecycle) (action : Nat) : State :=
  (((s.modRot fun r => { r with lifecycle := new }).reason m 0x89 0 []).event 0x060F 0 (lifecycleNum s.rot.lifecycle) (lifecycleNum new) action
    m.sess.toNat).modRcc fun r => { r with acting := some 2 }

theorem State.lifecycleBlown_frame {α : Type} (π : State → α) (hOut : KeepsOut π) (hPort : KeepsPort π) (hSess : KeepsSess π) (hRcc : KeepsRcc π)
    (hEvr : KeepsEvr π) (s : State) (m : Vc3) (new : Lifecycle) (action : Nat) :
    π (s.lifecycleBlown m new action) = π (s.modRot fun r => { r with lifecycle := new }) :=
  (hRcc ..).trans ((State.event_frame π hEvr ..).trans (State.reason_frame π hOut hPort hSess ..))

theorem State.toLifecycle_eq (s : State) (m : Vc3) (new : Lifecycle) (action : Nat) :
    s.toLifecycle m new action = (s.lifecycleBlown m new action).actSwrst := rfl

/-- The firmware's cold reset, whatever it finds: its bit of RCC_CAUSE alone, or the scope cleared and the chip held. -/
theorem State.coldReset_cases {P : State → Prop} (s : State) (hcause : s.rcc.hold = .cold → P (s.modRcc fun r => r.setCause 7))
    (hcold : ∀ f r, r.hold = .cold → P ((s.modEvr f).clearCold.modRcc fun _ => r)) : P s.coldReset := by
  by_cases hhold : s.rcc.hold = .cold
  · rw [State.coldReset, State.coldSource]
    exact (if_pos hhold).symm ▸ hcause hhold
  · obtain ⟨f, hf⟩ := State.coldSource_eq 7 hhold
    rw [State.coldReset, hf]
    exact hcold f _ rfl

/-- A reset that waits for its answer, or acts at once. -/
theorem State.actSwrst_cases {P : State → Prop} {s : State} (hacting : s.rcc.acting = some 2) (hwaits : P s) (hacts : P s.coldReset) :
    P s.actSwrst := by
  cases hwait : s.answersWait with
  | true => rwa [State.actSwrst_wait hwait]
  | false => rwa [State.actSwrst_cold hwait hacting]

/-- The chip is in a cold reset, or will be once the answer has left. -/
theorem State.toLifecycle_resets (s : State) (m : Vc3) (new : Lifecycle) (action : Nat) :
    (s.toLifecycle m new action).rcc.acting = some 2 ∨ (s.toLifecycle m new action).rcc.hold = .cold := by
  rw [State.toLifecycle_eq]
  refine State.actSwrst_cases (P := fun t => t.rcc.acting = some 2 ∨ t.rcc.hold = .cold) rfl (.inl rfl) ?_
  exact State.coldReset_cases (P := fun t => t.rcc.acting = some 2 ∨ t.rcc.hold = .cold) _ .inr fun _ _ h => .inr h

/-- Keys that are erased and a pair key that is gone stay so through the lifecycle change. -/
theorem State.toLifecycle_erased {s : State} (h : s.KeysErased ∧ s.snw.paired = false) (m : Vc3) (new : Lifecycle) (action : Nat) :
    (s.toLifecycle m new action).KeysErased ∧ (s.toLifecycle m new action).snw.paired = false := by
  have hblown : (s.lifecycleBlown m new action).KeysErased ∧ (s.lifecycleBlown m new action).snw.paired = false :=
    (State.lifecycleBlown_frame (fun t => t.KeysErased ∧ t.snw.paired = false) (fun _ _ => rfl) (fun _ _ _ => rfl) (fun _ _ _ => rfl)
      (fun _ _ => rfl) (fun _ _ => rfl) ..).mpr h
  rw [State.toLifecycle_eq]
  refine State.actSwrst_cases (P := fun t => t.KeysErased ∧ t.snw.paired = false) rfl hblown ?_
  exact State.coldReset_cases (P := fun t => t.KeysErased ∧ t.snw.paired = false) _ (fun _ => hblown) fun _ _ _ => ⟨⟨rfl, rfl, rfl, rfl⟩, hblown.2⟩

/-- TO_RETURN and TO_END leave the lifecycle asked for, the wrap-key erase fuse blown and no key. -/
theorem State.eraseKeys_toLifecycle (s : State) (m : Vc3) (new : Lifecycle) (action : Nat) :
    (s.eraseKeys.toLifecycle m new action).rot.lifecycle = new ∧ (s.eraseKeys.toLifecycle m new action).rot.wrapErased = true := by
  have hfuses : (s.eraseKeys.toLifecycle m new action).rot.fuses = (s.eraseKeys.modRot fun r => { r with lifecycle := new }).rot.fuses :=
    s.eraseKeys.toLifecycle_fuses m new action
  simp only [Rot.fuses, Prod.mk.injEq] at hfuses
  exact ⟨hfuses.1, hfuses.2.1⟩

/-! ## Debug levels -/

theorem State.setLevel_level (s : State) (new sess cause : Nat) : (s.setLevel new sess cause).dbg.level = new := by
  unfold State.setLevel
  split
  · assumption
  · rfl

/-- A change of level leaves the action that runs, the keys and the time. -/
theorem State.setLevel_rest (s : State) (new sess cause : Nat) : (s.setLevel new sess cause).dbg.action = s.dbg.action ∧
    (s.setLevel new sess cause).KeysErased = s.KeysErased ∧ (s.setLevel new sess cause).dt = s.dt := by
  unfold State.setLevel
  split <;> exact ⟨rfl, rfl, rfl⟩

/-- Becoming HELD and answering leave the debug state, the XTS slots, the AKEK and the time. -/
theorem State.goHeld_reasonTo (s : State) (subject port sess reqId typ reason : Nat) (more : Bytes) :
    ((s.goHeld subject).reasonTo port sess reqId typ reason more).dbg = s.dbg ∧
      ((s.goHeld subject).reasonTo port sess reqId typ reason more).xts = s.xts ∧
      ((s.goHeld subject).reasonTo port sess reqId typ reason more).rot = s.rot ∧
      ((s.goHeld subject).reasonTo port sess reqId typ reason more).dt = s.dt := by
  have hview : (fun s : State => (s.dbg, s.xts, s.rot, s.dt)) ((s.goHeld subject).reasonTo port sess reqId typ reason more) =
      (fun s : State => (s.dbg, s.xts, s.rot, s.dt)) s := by
    refine (State.reasonTo_frame (fun s : State => (s.dbg, s.xts, s.rot, s.dt)) (fun _ _ => rfl) (fun _ _ _ => rfl) (fun _ _ _ => rfl) ..).trans ?_
    apply State.goHeld_frame (fun s : State => (s.dbg, s.xts, s.rot, s.dt)) <;> first | exact fun _ _ => rfl | exact fun _ _ _ => rfl
  simpa only [Prod.mk.injEq] using hview

/-- The head at which the purge and the level of a DEBUG action are done (R424). -/
def State.debugLevelSet (s : State) (a : DbgAct) : State :=
  ((s.purge (a.level - 1)).modDbg fun d => { d with action := none }).setLevel a.level a.sess 1

theorem State.debugLevelSet_spec (s : State) (a : DbgAct) : (s.debugLevelSet a).dbg.level = a.level ∧ (s.debugLevelSet a).dbg.action = none ∧
    (s.debugLevelSet a).KeysErased ∧ (s.debugLevelSet a).dt = s.dt := by
  have hdt : (s.purge (a.level - 1)).dt = s.dt := State.purge_frame State.dt (fun _ _ => rfl) (fun _ _ => rfl) (fun _ _ _ => rfl)
    (fun _ _ => rfl) (fun _ _ _ => rfl) (fun _ _ => rfl) ..
  obtain ⟨haction, hkeys, htime⟩ := ((s.purge (a.level - 1)).modDbg fun d => { d with action := none }).setLevel_rest a.level a.sess 1
  exact ⟨State.setLevel_level .., haction, hkeys.mpr (s.purge_keysErased _), htime.trans hdt⟩

/-- D2_QUIESCED once no media operation runs: the purge, the level, HELD, the answer. -/
theorem exec_d2Quiesced {s : State} {a : DbgAct} (ha : s.dbg.action = some a) (hops : s.dieOps = false) : exec .d2Quiesced s =
    .next (((s.debugLevelSet a).goHeld 0).reasonTo a.port a.sess a.reqId 0x89 0 []) := by
  show execD2Quiesced s = _
  unfold execD2Quiesced
  rw [ha]
  exact if_neg (by simp [hops])

/-- An accepted DBG_OBSERVE that may change the level, and its answer. -/
theorem State.observed {s u : State} (m : Vc3)
    (hu : u.aside (.rot :: .dbg :: vcParts) = (s.heard m).aside (.rot :: .dbg :: vcParts)) :
    (u.reason m 0x8A 0 []).dbg.level = u.dbg.level ∧ s.answers (u.reason m 0x8A 0 []) m 0x8A stSuccess (leBytes 1 0) ∧
      (u.reason m 0x8A 0 []).without (.rot :: .dbg :: vcParts) = s.without (.rot :: .dbg :: vcParts) :=
  ⟨State.reason_frame (fun s => s.dbg.level) (fun _ _ => rfl) (fun _ _ _ => rfl) (fun _ _ _ => rfl) ..,
    State.answered (by decide) hu 0x8A stSuccess (leBytes 1 0)⟩

/-- Settles O43: each token acts on the head that has taken it; a lifecycle change is followed through its cold reset. -/
theorem tokensMoveTheDebugLevelAndLifecycle : Obligations.TokensMoveTheDebugLevelAndLifecycle := by
  intro m x s
  refine ⟨fun action h hne hle => ?challenge, fun n hn => ⟨_, exec_nonceExpiry hn, rfl, rfl, rfl⟩,
    fun k => ⟨fun h => ?d2, fun h => ?d3, fun h => ?toField, fun h => ?toReturn, fun h => ?toEnd⟩, fun a ha hops => ?quiesced,
    fun h => ⟨?observeOn, ?observeOff⟩⟩
  case challenge =>
    have b := blind_aside (.dbg :: vcParts)
    have hact : (s.challenged m action.toNat).aside (.dbg :: vcParts) = (s.heard m).aside (.dbg :: vcParts) :=
      (b.dbg ..).trans (State.freshen_frame _ b.fresh _)
    exact ⟨_, s.freeNat 256, exec_dbgChallenge h hne hle,
      State.answer_frame State.dbg (fun _ _ => rfl) (fun _ _ _ => rfl) (fun _ _ _ => rfl) .., State.answered (by decide) hact ..⟩
  case d2 => exact ⟨_, congrArg Host.Outcome.next (State.token_holds h _), s.debugStarted m 2⟩
  case d3 => exact ⟨_, congrArg Host.Outcome.next (State.token_holds h _), s.debugStarted m 3⟩
  case toField =>
    have hfuses := ((s.tokenTaken m).modRot fun r => { r with ownerAnchor := some k.anchor }).toLifecycle_fuses m .field 3
    simp only [Rot.fuses, Prod.mk.injEq] at hfuses
    exact ⟨_, congrArg Host.Outcome.next (State.token_holds h _), hfuses.1, hfuses.2.2.1, State.toLifecycle_resets ..⟩
  case toReturn =>
    obtain ⟨hlife, hwrap⟩ := (s.tokenTaken m).eraseKeys_toLifecycle m .ret 4
    obtain ⟨⟨hakek, hxts, hfp, hjob⟩, hpaired⟩ := State.toLifecycle_erased ⟨(s.tokenTaken m).eraseKeys_keysErased, rfl⟩ m .ret 4
    exact ⟨_, congrArg Host.Outcome.next (State.token_holds h _), hlife, hwrap, hakek, hxts, hfp, hjob, hpaired, State.toLifecycle_resets ..⟩
  case toEnd =>
    obtain ⟨hlife, hwrap⟩ := (s.tokenTaken m).eraseKeys_toLifecycle m .ended 5
    obtain ⟨⟨hakek, hxts, hfp, hjob⟩, hpaired⟩ := State.toLifecycle_erased ⟨(s.tokenTaken m).eraseKeys_keysErased, rfl⟩ m .ended 5
    exact ⟨_, congrArg Host.Outcome.next (State.token_holds h _), hlife, hwrap, hakek, hxts, hfp, hjob, hpaired, State.toLifecycle_resets ..⟩
  case quiesced =>
    obtain ⟨hlevel, haction, ⟨hakek, hxts, -⟩, htime⟩ := s.debugLevelSet_spec a
    obtain ⟨hdbg, hxts', hrot, hdt⟩ := (s.debugLevelSet a).goHeld_reasonTo 0 a.port a.sess a.reqId 0x89 0 []
    refine ⟨_, exec_d2Quiesced ha hops, ?_, ?_, ?_, ?_, hdt.trans htime⟩
    · rw [hdbg, hlevel]
    · rw [hdbg, haction]
    · rw [hxts', hxts]
    · rw [hrot, hakek]
  case observeOn =>
    have b := blind_aside (.rot :: .dbg :: vcParts)
    obtain ⟨hlevel, hanswered⟩ := State.observed (s := s) (u := if s.dbg.level = 0 then (s.heard m).setLevel 1 m.sess.toNat 2 else s.heard m) m
      (ite_frame (State.setLevel_frame _ b.rot b.dbg b.evr ..) rfl)
    refine ⟨_, congrArg Host.Outcome.next (s.vc3_accepts m _ _ _ _ x h), hlevel.trans ?_, hanswered⟩
    rw [apply_ite (fun u : State => u.dbg.level), State.setLevel_level]
    rfl
  case observeOff =>
    have b := blind_aside (.rot :: .dbg :: vcParts)
    obtain ⟨hlevel, hanswered⟩ := State.observed (s := s) (u := if s.dbg.level = 1 then (s.heard m).setLevel 0 m.sess.toNat 2 else s.heard m) m
      (ite_frame (State.setLevel_frame _ b.rot b.dbg b.evr ..) rfl)
    refine ⟨_, congrArg Host.Outcome.next (s.vc3_accepts m _ _ _ _ x h), hlevel.trans ?_, hanswered⟩
    rw [apply_ite (fun u : State => u.dbg.level), State.setLevel_level]
    rfl

end Sys2Proof.Machine
end

section
/-! PROOF. Self-tests (R465 to R468), the health report and its record (R470, R471), the windows of EVR (R461, R473). -/

namespace Sys2Proof.Machine

open Sys2Proof

/-! ## What a happening leaves of the self-test -/

theorem ite_view {α β : Type} (π : β → α) {c : Prop} {d : Decidable c} {x y : β} {k : α} (hx : π x = k) (hy : π y = k) :
    π (@ite _ c d x y) = k := by split <;> assumption

/-- EVR_ST_STAT: running, kind, result, progress, failed item; the item, the findings, the start and the progress last told. -/
def Evr.selfTest (e : Evr) : Bool × Nat × Nat × Nat × Nat × Nat × Nat × Nat × Nat :=
  (e.stRunning, e.stKind, e.stResult, e.stProgress, e.stFail, e.stItem, e.stFindings, e.stStart, e.stSaid)

/-- What records leave alone, the turn of the window leaves as the new window has it (R461). -/
theorem Evr.roll_view {α : Type} (π : Evr → α) (hput : ∀ (e : Evr) b r, π ((e.count b).put r) = π e) (e : Evr) (dt : Nat) :
    π (e.roll dt) = if e.winSec = secOf dt then π e else π { e with winSec := secOf dt, winCount := [], winDrop := [], damaged := 0 } := by
  have hdrops (f : Nat × Nat → Nat × EvRec) (l : List (Nat × Nat)) (e : Evr) :
      π (l.foldl (fun e p => (e.count (f p).1).put (f p).2) e) = π e := by
    induction l generalizing e with
    | nil => rfl
    | cons p l ih => rw [List.foldl_cons, ih, hput]
  have hrolled := hdrops (fun p => (4, mkRec (secNs (secOf dt)) 0x0402 0 p.1 p.2 e.winSec 0)) e.winDrop
    { e with winSec := secOf dt, winCount := [], winDrop := [], damaged := 0 }
  unfold Evr.roll
  dsimp only
  split
  · rfl
  · split
    · exact hrolled
    · exact (hput ..).trans hrolled

theorem Evr.roll_selfTest (e : Evr) (dt : Nat) : (e.roll dt).selfTest = e.selfTest :=
  (Evr.roll_view Evr.selfTest (fun _ _ _ => rfl) e dt).trans (ite_self _)

theorem Evr.roll_winSec (e : Evr) (dt : Nat) : (e.roll dt).winSec = secOf dt := by
  rw [Evr.roll_view Evr.winSec (fun _ _ _ => rfl)]
  split
  · assumption
  · rfl

theorem Evr.repeatNewest_selfTest (e : Evr) : e.repeatNewest.selfTest = e.selfTest := by
  unfold Evr.repeatNewest
  split <;> rfl

/-- A happening records, and leaves the self-test. -/
theorem Evr.happen_selfTest (e : Evr) (dt : Nat) (code : BitVec 16) (inst p0 p1 p2 p3 : Nat) :
    (e.happen dt code inst p0 p1 p2 p3).selfTest = e.selfTest := by
  have hroll := e.roll_selfTest dt
  have hrepeat := (e.roll dt).repeatNewest_selfTest.trans hroll
  exact ite_view Evr.selfTest rfl (ite_view Evr.selfTest hrepeat (ite_view Evr.selfTest hroll hroll))

theorem State.event_selfTest (s : State) (code : BitVec 16) (inst p0 p1 p2 p3 : Nat) :
    (s.event code inst p0 p1 p2 p3).evr.selfTest = s.evr.selfTest := Evr.happen_selfTest ..

theorem State.events_selfTest {β : Type} (f : State → β → State) (hf : ∀ s b, (f s b).evr.selfTest = s.evr.selfTest) (l : List β) (s : State) :
    (l.foldl f s).evr.selfTest = s.evr.selfTest := foldl_frame (·.evr.selfTest) f hf l s

theorem State.selfTestNotice_evr (s : State) : s.selfTestNotice.evr = s.evr := State.selfTestNotice_frame State.evr (fun _ _ => rfl) s

/-! ## Shares -/

/-- The share of the self-test, as the shares would now be granted (R465). -/
def State.testShare (s : State) : Nat := (sharesGranted s.dsc.shareCfg s.raises).getD 6 0

/-- New shares leave a self-test that keeps its share as it is. -/
theorem State.refreshShares_selfTest {s : State} (h : s.evr.stRunning = true → 40 ≤ s.testShare) :
    s.refreshShares.evr.selfTest = s.evr.selfTest := by
  have hstarve : s.starveTest = s := if_neg fun hlow => absurd (h hlow.1) (Nat.not_le.mpr hlow.2)
  unfold State.refreshShares
  rw [hstarve]
  extract_lets s₁ new u
  have hu : u.evr.selfTest = s.evr.selfTest := by
    refine foldl_frame (fun s : State => s.evr.selfTest) _ (fun v i => ?_) (List.range 7) s
    dsimp only
    split
    · rfl
    · exact v.event_selfTest ..
  rw [State.modDsc_evr]
  exact hu

/-! ## The ends of a self-test -/

/-- The end of a self-test that runs leaves its RESULT and nothing running; the item and the findings stay. -/
theorem State.selfTestEnd_selfTest {s : State} (hrunning : s.evr.stRunning = true) (result : Nat) :
    (s.selfTestEnd result).evr.selfTest =
      (false, s.evr.stKind, result, s.evr.stProgress, s.evr.stFail, s.evr.stItem, s.evr.stFindings, s.evr.stStart, s.evr.stSaid) := by
  unfold State.selfTestEnd
  rw [if_neg (by simp [hrunning])]
  extract_lets u
  have hu : u.evr.selfTest = (false, s.evr.stKind, result, s.evr.stProgress, s.evr.stFail, s.evr.stItem, s.evr.stFindings, s.evr.stStart,
      s.evr.stSaid) := by
    have hevent := s.event_selfTest 0x0410 0 s.evr.stKind 1 0 result
    simp only [Evr.selfTest, Prod.mk.injEq] at hevent ⊢
    obtain ⟨-, hkind, -, hprogress, hfail, hitem, hfindings, hstart, hsaid⟩ := hevent
    exact ⟨rfl, hkind, rfl, hprogress, hfail, hitem, hfindings, hstart, hsaid⟩
  have hnotice := u.selfTestNotice_evr
  rw [State.refreshShares_selfTest, hnotice, hu]
  rw [hnotice]
  exact fun h => absurd h (by rw [show u.evr.stRunning = false from congrArg (·.1) hu]; decide)

/-! ## Starts -/

/-- The head at which a self-test begins, before it is told (R467). -/
def State.testBegun (s : State) (kind : Nat) : State :=
  (s.event 0x0410 0 kind 0 1 0).modEvr fun e =>
    { e with stRunning := true, stKind := kind, stResult := 0, stProgress := 0, stFail := 0, stItem := 1, stFindings := 0, stStart := s.dt
             stSaid := 0 }

theorem State.testBegun_selfTest (s : State) (kind : Nat) : (s.testBegun kind).evr.selfTest = (true, kind, 0, 0, 0, 1, 0, s.dt, 0) := rfl

theorem State.testBegun_testShare (s : State) (kind : Nat) : (s.testBegun kind).testShare =
    (sharesGranted s.dsc.shareCfg ({ s with evr := { s.evr with stRunning := true } } : State).raises).getD 6 0 := rfl

/-- A START that nothing refuses begins the self-test; its share may change the others'. -/
theorem State.writeStCtrl_start {s : State} {v : Nat} (hstart : tbit v 31 = true) (habort : tbit v 30 = false)
    (hrefusal : s.selfTestRefusal (bits v 1 0) = 0) : s.writeStCtrl v = (s.testBegun (bits v 1 0)).selfTestNotice.refreshShares := by
  unfold State.writeStCtrl
  rw [if_pos hstart, if_neg (by simp [habort])]
  unfold State.selfTestStart
  exact if_neg (not_not_intro hrefusal)

theorem State.writeStCtrl_abort {s : State} {v : Nat} (hstart : tbit v 31 = false) (habort : tbit v 30 = true) :
    s.writeStCtrl v = s.selfTestEnd 3 := by
  unfold State.writeStCtrl
  rw [if_pos habort]
  exact congrArg State.selfTestAbort (if_neg (by simp [hstart]))

theorem State.startedTest_selfTest {s : State} {kind : Nat} (hshare : 40 ≤ (s.testBegun kind).testShare) :
    (s.testBegun kind).selfTestNotice.refreshShares.evr.selfTest = (true, kind, 0, 0, 0, 1, 0, s.dt, 0) := by
  have hnotice := (s.testBegun kind).selfTestNotice_frame State.testShare (fun _ _ => rfl)
  rw [State.refreshShares_selfTest fun _ => Nat.le_trans hshare (Nat.le_of_eq hnotice.symm), State.selfTestNotice_evr, State.testBegun_selfTest]

section
variable {m : Vc3} {x : Session} {s : State} (h : s.writes m 2 x) (value : Word)
include h

theorem exec_selfTestStart : exec (.selfTestStart m value) s = .next (((s.heard m).writeStCtrl value.toNat).answer m 0x31 stSuccess []) :=
  congrArg Host.Outcome.next (s.regWrite_writes m _ 2 _ x h)

theorem exec_selfTestAbort : exec (.selfTestAbort m value) s = .next (((s.heard m).writeStCtrl value.toNat).answer m 0x31 stSuccess []) :=
  congrArg Host.Outcome.next (s.regWrite_writes m _ 2 _ x h)

end

/-! ## Items -/

/-- The head that has recorded what an item found, and disabled the lanes that item 1 found bad. -/
def State.itemFound (s : State) (findings failures : List (Nat × Nat)) : State :=
  let u := failures.foldl (fun u f => u.event 0x0411 0 s.evr.stItem f.1 2 f.2)
    (findings.foldl (fun u f => u.event 0x0411 0 s.evr.stItem f.1 1 f.2) s)
  if s.evr.stItem = 1 then failures.foldl (fun u f => u.disableLane f.1) u else u

theorem State.disableLane_selfTest (s : State) (n : Nat) : (s.disableLane n).evr.selfTest = s.evr.selfTest := by
  unfold State.disableLane
  exact ite_frame (π := (·.evr.selfTest)) (State.event_selfTest ..)
    (ite_frame (π := (·.evr.selfTest)) (State.event_selfTest ..) (ite_frame (π := (·.evr.selfTest)) (State.event_selfTest ..) rfl))

theorem State.itemFound_selfTest (s : State) (findings failures : List (Nat × Nat)) :
    (s.itemFound findings failures).evr.selfTest = s.evr.selfTest := by
  unfold State.itemFound
  extract_lets u
  have hu : u.evr.selfTest = s.evr.selfTest :=
    (State.events_selfTest _ (fun u f => u.event_selfTest ..) failures _).trans
      (State.events_selfTest _ (fun u f => u.event_selfTest ..) findings s)
  exact ite_frame (π := (·.evr.selfTest)) ((State.events_selfTest _ (fun u f => u.disableLane_selfTest f.1) failures u).trans hu) hu

theorem State.itemFound_frame {α : Type} (π : State → α) (hEvr : KeepsEvr π) {s : State} (hitem : s.evr.stItem ≠ 1)
    (findings failures : List (Nat × Nat)) : π (s.itemFound findings failures) = π s := by
  unfold State.itemFound
  dsimp only
  rw [if_neg hitem]
  exact (foldl_frame π _ (fun u f => u.event_frame π hEvr ..) failures _).trans (foldl_frame π _ (fun u f => u.event_frame π hEvr ..) findings s)

/-- The head that has counted the item, whose number goes up. -/
def State.itemCounted (s : State) (findings failures : List (Nat × Nat)) : State :=
  (s.itemFound findings failures).modEvr fun e =>
    { e with
      stFindings := e.stFindings + findings.length
      stFail := if e.stFail = 0 ∧ failures ≠ [] then s.evr.stItem else e.stFail
      stProgress := stProgressAfter (s.itemFound findings failures).evr.stKind s.evr.stItem
      stItem := s.evr.stItem + 1 }

theorem State.itemCounted_selfTest (s : State) (findings failures : List (Nat × Nat)) : (s.itemCounted findings failures).evr.selfTest =
    (s.evr.stRunning, s.evr.stKind, s.evr.stResult, stProgressAfter s.evr.stKind s.evr.stItem,
      if s.evr.stFail = 0 ∧ failures ≠ [] then s.evr.stItem else s.evr.stFail, s.evr.stItem + 1, s.evr.stFindings + findings.length,
      s.evr.stStart, s.evr.stSaid) := by
  have hfound := s.itemFound_selfTest findings failures
  simp only [Evr.selfTest, Prod.mk.injEq] at hfound ⊢
  obtain ⟨hrunning, hkind, hresult, hprogress, hfail, hitem, hfindings, hstart, hsaid⟩ := hfound
  simp only [State.itemCounted, State.modEvr_evr, hrunning, hkind, hresult, hfail, hfindings, hstart, hsaid, and_self]

/-- The last item of a kind (R465). -/
def lastItem (kind : Nat) : Nat := if kind = 1 then 4 else 5

/-- The head after an item: the self-test ends with its last one, and its progress may be told. -/
def State.itemDone (s : State) (findings failures : List (Nat × Nat)) : State :=
  let u := s.itemCounted findings failures
  let p := stProgressAfter (s.itemFound findings failures).evr.stKind s.evr.stItem
  if s.evr.stItem ≥ lastItem u.evr.stKind then u.selfTestEnd (if u.evr.stFail = 0 then 1 else 2)
  else if p / 10 > u.evr.stSaid / 10 then u.selfTestNotice.modEvr fun e => { e with stSaid := p }
  else u

theorem exec_selfTestItemDone {s : State} (hrunning : s.evr.stRunning = true) (findings failures : List (Nat × Nat)) :
    exec (.selfTestItemDone findings failures) s = .next (s.itemDone findings failures) :=
  congrArg Host.Outcome.next (if_neg (by simp [hrunning]))

theorem State.itemDone_spec {s : State} (hrunning : s.evr.stRunning = true) (findings failures : List (Nat × Nat)) :
    (s.itemDone findings failures).evr.stItem = s.evr.stItem + 1 ∧
      (s.itemDone findings failures).evr.stFindings = s.evr.stFindings + findings.length ∧
      (s.itemDone findings failures).evr.stProgress = stProgressAfter s.evr.stKind s.evr.stItem ∧
      (s.itemDone findings failures).evr.stRunning = decide (s.evr.stItem < lastItem s.evr.stKind) ∧
      (lastItem s.evr.stKind ≤ s.evr.stItem →
        (s.itemDone findings failures).evr.stResult = if s.evr.stFail = 0 ∧ failures = [] then 1 else 2) := by
  have hcounted := s.itemCounted_selfTest findings failures
  unfold State.itemDone
  extract_lets u p
  change u.evr.selfTest = _ at hcounted
  clear_value u p
  simp only [Evr.selfTest, Prod.mk.injEq] at hcounted
  obtain ⟨hrun, hkind, -, hprogress, hfail, hitem, hfindings, hstart, -⟩ := hcounted
  rw [hkind]
  by_cases hlast : lastItem s.evr.stKind ≤ s.evr.stItem
  · rw [if_pos hlast]
    have hended := State.selfTestEnd_selfTest (hrun.trans hrunning) (if u.evr.stFail = 0 then 1 else 2)
    simp only [Evr.selfTest, Prod.mk.injEq] at hended
    obtain ⟨hrun', -, hresult', hprogress', -, hitem', hfindings', -, -⟩ := hended
    have hpositive : s.evr.stItem ≠ 0 := by unfold lastItem at hlast; split at hlast <;> omega
    refine ⟨hitem'.trans hitem, hfindings'.trans hfindings, hprogress'.trans hprogress, hrun'.trans ?_, fun _ => hresult'.trans ?_⟩
    · simpa using hlast
    · rw [hfail]
      by_cases hnone : failures = []
      · simp [hnone]
      · by_cases hzero : s.evr.stFail = 0 <;> simp [hnone, hzero, hpositive]
  · rw [if_neg hlast]
    have hgoes : u.evr.stRunning = decide (s.evr.stItem < lastItem s.evr.stKind) := by
      rw [hrun, hrunning]
      simpa using hlast
    have htold : (u.selfTestNotice.modEvr fun e => { e with stSaid := p }).evr = { u.evr with stSaid := p } := by
      rw [State.modEvr_evr, State.selfTestNotice_evr]
    split
    · rw [htold]
      exact ⟨hitem, hfindings, hprogress, hgoes, fun h => absurd h hlast⟩
    · exact ⟨hitem, hfindings, hprogress, hgoes, fun h => absurd h hlast⟩

theorem State.itemDone_frame {α : Type} (π : State → α) (hCqe : KeepsCqe π) (hDsc : KeepsDsc π) (hEvr : KeepsEvr π) {s : State}
    (hitem : s.evr.stItem ≠ 1) (findings failures : List (Nat × Nat)) : π (s.itemDone findings failures) = π s := by
  have hcounted : π (s.itemCounted findings failures) = π s := (hEvr ..).trans (State.itemFound_frame π hEvr hitem ..)
  refine Eq.trans ?_ hcounted
  exact ite_frame (State.selfTestEnd_frame π hCqe hDsc hEvr ..)
    (ite_frame ((hEvr ..).trans (State.selfTestNotice_frame π hCqe _)) rfl)

/-! ## Timers -/

theorem exec_selfTestTimeout {s : State} (hrunning : s.evr.stRunning = true) : exec .selfTestTimeout s =
    .next (((s.advanceTo (s.evr.stStart + (if s.evr.stKind = 1 then secNs 120 else s.tExt))).modEvr fun e =>
      { e with stFail := if e.stFail = 0 then e.stItem else e.stFail }).selfTestEnd 2) :=
  congrArg Host.Outcome.next (if_neg (by simp [hrunning]))

/-- A window of EVR ends at the next second. -/
theorem max_next_second (t : Nat) : max t (secNs (secOf t + 1)) = secNs (secOf t + 1) := by
  unfold secNs secOf
  omega

theorem secOf_secNs (n : Nat) : secOf (secNs n) = n := by
  unfold secNs secOf
  omega

/-- The head at the end of the 1 s window that the hottest sensor's reading is of. -/
def State.junctionRead (s : State) (temp : Int) : State :=
  (s.advanceTo (secNs (secOf s.dt + 1))).modEvr fun e => e.junction s.dt temp

theorem exec_junctionHotWindow_cool {s : State} {temp : Int} (htemp : temp < 1000) (sensor : Fin 40) : exec (.junctionHotWindow sensor temp) s =
    .next ((s.junctionRead temp).modEvr fun e =>
      { e with hotSaid := false, hotSince := none, crossed := e.crossed.filter fun c => c.1 != 6 }) :=
  congrArg Host.Outcome.next (if_pos htemp)

theorem Evr.junction_hot (e : Evr) (dt : Nat) (temp : Int) :
    (e.junction dt temp).hotSaid = e.hotSaid ∧ (e.junction dt temp).crossed = e.crossed := by
  unfold Evr.junction
  dsimp only
  split <;> exact ⟨rfl, rfl⟩

/-- The crossing is reported once (R473). -/
theorem exec_junctionHotWindow_hot {s : State} {temp : Int} (htemp : 1000 ≤ temp) (hsaid : s.evr.hotSaid = false) (sensor : Fin 40) :
    exec (.junctionHotWindow sensor temp) s =
      .next ((((s.junctionRead temp).health 6 sensor.val (twos 32 temp) 1000).rebuildReport).modEvr fun e =>
        { e with hotSaid := true, hotSince := some (s.junctionRead temp).dt }) := by
  have hsaid' : ¬ (s.junctionRead temp).evr.hotSaid = true := by
    rw [show (s.junctionRead temp).evr.hotSaid = s.evr.hotSaid from (Evr.junction_hot ..).1, hsaid]
    exact nofun
  exact congrArg Host.Outcome.next ((if_neg (Int.not_lt.mpr htemp)).trans (if_neg hsaid'))

/-- What crosses for the first time raises the alert. -/
theorem State.health_alert {s : State} {cause inst value threshold : Nat} (hnew : crossKey cause inst value threshold ∉ s.evr.crossed) :
    (s.health cause inst value threshold).glb.alert = true := by
  unfold State.health
  dsimp only
  rw [if_neg (by simpa using hnew)]
  rfl

/-- Settles O46: the self-test by its registers through each command; a record and the windows by their timers. -/
theorem selfTestsRunItemByItem : Obligations.SelfTestsRunItemByItem := by
  intro s
  refine ⟨fun m value x h => ⟨fun hstart habort hrefusal hshare => ?start, fun hstart habort hrunning => ?abort⟩,
    fun hrunning => ⟨fun findings failures => ?item, ?timeout⟩, ⟨_, rfl, rfl, rfl⟩, ?persist, fun sensor temp htemp => ?cool,
    fun sensor temp htemp hsaid => ?hot, ?window⟩
  case start =>
    have b := blind_aside (.dsc :: vcParts)
    have hwrite := State.writeStCtrl_start (s := s.heard m) hstart habort hrefusal
    have hact : ((s.heard m).writeStCtrl value.toNat).aside (.dsc :: vcParts) = (s.heard m).aside (.dsc :: vcParts) := by
      rw [hwrite]
      exact (State.refreshShares_frame _ b.cqe b.dsc b.evr _).trans ((State.selfTestNotice_frame _ b.cqe _).trans
        ((b.evr ..).trans (State.event_frame _ b.evr ..)))
    have htest : ((s.heard m).writeStCtrl value.toNat).evr.selfTest = (true, bits value.toNat 1 0, 0, 0, 0, 1, 0, s.dt, 0) := by
      rw [hwrite]
      exact State.startedTest_selfTest hshare
    simp only [Evr.selfTest, Prod.mk.injEq] at htest
    obtain ⟨hrun, hkind, hresult, -, -, hitem, -, hat, -⟩ := htest
    refine ⟨_, exec_selfTestStart h value, ?_, ?_, ?_, ?_, ?_, State.answered (by decide) hact ..⟩ <;> rw [State.answer_evr] <;> assumption
  case abort =>
    have b := blind_aside (.dsc :: vcParts)
    have hwrite := State.writeStCtrl_abort (s := s.heard m) hstart habort
    have hact : ((s.heard m).writeStCtrl value.toNat).aside (.dsc :: vcParts) = (s.heard m).aside (.dsc :: vcParts) := by
      rw [hwrite]
      exact State.selfTestEnd_frame _ b.cqe b.dsc b.evr ..
    have htest := State.selfTestEnd_selfTest (s := s.heard m) hrunning 3
    rw [← hwrite] at htest
    refine ⟨_, exec_selfTestAbort h value, ?_, ?_, State.answered (by decide) hact ..⟩ <;> rw [State.answer_evr]
    · exact congrArg (·.1) htest
    · exact congrArg (·.2.2.1) htest
  case item =>
    have b := blind_without [.cqe, .dsc, .evr]
    obtain ⟨hitem, hfindings, hprogress, hrun, hresult⟩ := State.itemDone_spec hrunning findings failures
    exact ⟨_, exec_selfTestItemDone hrunning findings failures, hitem, hfindings, hprogress, hrun, hresult,
      fun hne => State.itemDone_frame _ b.cqe b.dsc b.evr hne findings failures⟩
  case timeout =>
    have b := blind_without [.dt, .cqe, .dsc, .evr]
    have hexec := exec_selfTestTimeout hrunning
    have htest := State.selfTestEnd_selfTest (s := (s.advanceTo (s.evr.stStart + (if s.evr.stKind = 1 then secNs 120 else s.tExt))).modEvr fun e =>
      { e with stFail := if e.stFail = 0 then e.stItem else e.stFail }) hrunning 2
    refine ⟨_, hexec, State.selfTestEnd_frame State.dt (fun _ _ => rfl) (fun _ _ => rfl) (fun _ _ => rfl) .., congrArg (·.1) htest,
      congrArg (·.2.2.1) htest, next_frame (execSelfTestTimeout_frame _ b.dt b.cqe b.dsc b.evr s) hexec⟩
  case persist =>
    refine ⟨_, rfl, ?_, rfl, rfl, rfl⟩
    show max s.dt _ = _
    omega
  case cool => exact ⟨_, exec_junctionHotWindow_cool htemp sensor, max_next_second _, rfl, rfl, rfl⟩
  case hot =>
    have b := blind_without [.dt, .cqe, .evr, .glb]
    have hexec := exec_junctionHotWindow_hot htemp hsaid sensor
    have hdt : ((s.junctionRead temp).health 6 sensor.val (twos 32 temp) 1000).dt = (s.junctionRead temp).dt :=
      State.health_frame State.dt (fun _ _ => rfl) (fun _ _ => rfl) (fun _ _ => rfl) ..
    have halert (hnew : crossKey 6 sensor.val (twos 32 temp) 1000 ∉ s.evr.crossed) :
        ((s.junctionRead temp).health 6 sensor.val (twos 32 temp) 1000).glb.alert = true := by
      refine State.health_alert ?_
      rw [show (s.junctionRead temp).evr.crossed = s.evr.crossed from (Evr.junction_hot ..).2]
      exact hnew
    have hframe := next_frame (execJunctionHotWindow_frame _ b.dt b.cqe b.evr b.glb sensor temp s) hexec
    generalize (s.junctionRead temp).health 6 sensor.val (twos 32 temp) 1000 = u at hexec hdt halert hframe
    exact ⟨_, hexec, hdt.trans (max_next_second _), rfl, congrArg some hdt.symm, halert, hframe⟩
  case window =>
    have b := blind_without [.dt, .cqe, .dge, .dxu, .evr]
    have hdt : (s.advanceTo (secNs (secOf s.dt + 1))).dedupWindows.dt = max s.dt (secNs (secOf s.dt + 1)) :=
      State.dedupWindows_frame State.dt (fun _ _ => rfl) (fun _ _ => rfl) (fun _ _ => rfl) (fun _ _ => rfl) _
    exact ⟨_, rfl, hdt.trans (max_next_second _), (Evr.roll_winSec ..).trans (secOf_secNs _),
      next_frame (execEvrRateWindow_frame _ b.dt b.cqe b.dge b.dxu b.evr s) rfl⟩

end Sys2Proof.Machine
end

section
/-! PROOF. Power states (R427 to R429), PM_STATUS, and the TAP (R426, R435). -/

namespace Sys2Proof.Machine

open Sys2Proof

/-! ## Answers that waited -/

/-- An answer to a request whose session is named gives it to the session's port once. -/
theorem State.answerTo_gives (s u : State) (ho : u.out = s.out) (hp : u.link.ports = s.link.ports) (port sess reqId typ status : Nat) (body : Bytes) :
    Gives s (u.answerTo port sess reqId typ status body) (hostPort port) (.answer port sess (typ + 0x8000) reqId status body) :=
  State.transmit_gives s (u.modSession _ _) ho hp ..

/-! ## PM_SET -/

/-- The commands that end as PM_SET 2 is taken (R428): class 7 commands that wait, writes whose data has not all come. -/
def Cmd.endsAtP2 (c : Cmd) : Bool := c.open_ && c.fwdAt.isNone && (c.waiting7 || (c.admitted && writing c.opc && !c.complete))

section
variable {s : State} {m : Vc3} {x : Session} (h : s.accepts m 0x8B false 2 x) (h4 : s.pmu.pstate ≠ .p4) (htrans : s.pmu.trans = none)
  (haction : s.dbg.action = none)
include h h4 htrans haction

/-- A PM_SET that no coincidence refuses acts (R428). -/
theorem State.pmSet_acts {target : Nat} (hfrom : target = 3 → s.pmu.pstate = .p2) (act : State → State) :
    s.pmSet m target act = act (s.heard m) := by
  refine (s.vc3_accepts m _ _ _ _ x h).trans ((if_neg h4).trans ((if_neg fun h => h.2 (hfrom h.1)).trans (if_neg ?_)))
  have htrans' : (s.heard m).pmu.trans = none := htrans
  have haction' : (s.heard m).dbg.action = none := haction
  simp [htrans', haction']

/-- PM_SET 0 below D2: at once from P2. -/
theorem exec_pmSetP0 (hlevel : s.dbg.level < 2) : exec (.pmSetP0 m) s =
    .next ((if s.pmu.pstate = .p2 then (s.heard m).setPstate (if s.gov.capped then .p1 else .p0) 1 m.sess.toNat else s.heard m).answer m 0x8B
      stSuccess (leBytes 1 0)) := by
  refine congrArg Host.Outcome.next ((State.pmSet_acts h h4 htrans haction (target := 0) (fun h => absurd h (by decide)) _).trans ?_)
  exact if_neg (Nat.not_le.mpr hlevel)

/-- PM_SET 2: the transition begins, and those commands end. -/
theorem exec_pmSetP2 (h2 : s.pmu.pstate ≠ .p2) : exec (.pmSetP2 m) s =
    .next ((s.cqe.cmds.filter Cmd.endsAtP2).foldl (fun s c => s.failCmd c stVolumeNotReady) ((s.heard m).startPm m 2)) := by
  refine congrArg Host.Outcome.next ((State.pmSet_acts h h4 htrans haction (target := 2) (fun h => absurd h (by decide)) _).trans ?_)
  exact if_neg h2

/-- PM_SET 3 with everything durable: steps 1 and 2 of R429. -/
theorem exec_pmSetP3 (h2 : s.pmu.pstate = .p2) (hempty : s.cacheEmpty = true) (hdurable : ∀ c ∈ s.ftu.commits, c.durable = true)
    (hheld : s.ha.held = []) (hlevel : s.dbg.level < 2) (hlife : s.rot.lifecycle = .provisioned ∨ s.rot.lifecycle = .field) :
    exec (.pmSetP3 m) s =
      .next (((if s.evr.stRunning then (s.heard m).selfTestAbort else s.heard m).startPm m 3).modCpe fun c => { c with ctx := [] }) := by
  refine congrArg Host.Outcome.next ((State.pmSet_acts h h4 htrans haction (fun _ => h2) _).trans ?_)
  have hcommits : s.ftu.commits.any (fun c => !c.durable) = false := by simpa using hdurable
  refine (if_neg ?_).trans ((if_neg (not_not_intro hheld)).trans (if_neg ?_))
  · exact not_or.mpr ⟨by rw [show (s.heard m).cacheEmpty = true from hempty]; decide,
      by rw [show (s.heard m).ftu.commits.any (fun c => !c.durable) = false from hcommits]; decide⟩
  · exact not_or.mpr ⟨Nat.not_le.mpr hlevel, fun hneither => hlife.elim hneither.1 hneither.2⟩

end

/-! ## Transitions that end -/

/-- The head that has reached P2, before PM_SET is answered. -/
def State.atP2 (s : State) (k : PmSet) : State := (s.setPstate .p2 1 k.sess).modPmu fun p => { p with trans := none }

theorem exec_p2Reached {s : State} {k : PmSet} (hk : s.pmu.trans = some k) (htarget : k.target = 2) (hnone : s.cqe.cmds = []) :
    exec .p2Reached s = .next ((s.atP2 k).answerTo k.port k.sess k.reqId 0x8B stSuccess (leBytes 1 0)) := by
  show execP2Reached s = _
  unfold execP2Reached
  rw [hk]
  exact if_neg (by simp [htarget, hnone])

/-- Steps 3 and 4 of R429: P3 is told to the peer, D1 ends, PM_SET is answered. -/
def State.atP3 (s : State) (k : PmSet) : State :=
  (((((s.advanceTo s.dsc.lastStop).setPstate .p3 1 k.sess).modPmu fun p => { p with trans := none }).sendHeartbeat.sendMailbox.setLevel 0 0xFFFF
    4).event 0x1606 0 0xFFF 1 0 0).reasonTo k.port k.sess k.reqId 0x8B 0 []

/-- The power state, the write cache, RCC and the time. -/
def State.powerView (s : State) : Pmu × Wc × Rcc × Nat := (s.pmu, s.wc, s.rcc, s.dt)

theorem State.powerView_eq {s t : State} (h : t.powerView = s.powerView) : t.pmu = s.pmu ∧ t.wc = s.wc ∧ t.rcc = s.rcc ∧ t.dt = s.dt := by
  simpa only [State.powerView, Prod.mk.injEq] using h

theorem State.setPstate_rest (s : State) (new : PState) (cause sess : Nat) : (s.setPstate new cause sess).wc = s.wc ∧
    (s.setPstate new cause sess).rcc = s.rcc ∧ (s.setPstate new cause sess).dt = s.dt :=
  ⟨State.setPstate_frame State.wc (fun _ _ => rfl) (fun _ _ => rfl) .., State.setPstate_frame State.rcc (fun _ _ => rfl) (fun _ _ => rfl) ..,
    State.setPstate_dt ..⟩

/-- Of the power state, the write cache, RCC and the time, those steps change the power state and let the time pass. -/
theorem State.atP3_view (s : State) (k : PmSet) : (s.atP3 k).pmu.pstate = .p3 ∧ (s.atP3 k).pmu.trans = none ∧ (s.atP3 k).wc = s.wc ∧
    (s.atP3 k).rcc = s.rcc ∧ (s.atP3 k).dt = max s.dt s.dsc.lastStop := by
  have hview : (s.atP3 k).powerView =
      (((s.advanceTo s.dsc.lastStop).setPstate .p3 1 k.sess).modPmu fun p => { p with trans := none }).powerView :=
    (State.reasonTo_frame State.powerView (fun _ _ => rfl) (fun _ _ _ => rfl) (fun _ _ _ => rfl) ..).trans
      ((State.event_frame State.powerView (fun _ _ => rfl) ..).trans
        ((State.setLevel_frame State.powerView (fun _ _ _ => rfl) (fun _ _ => rfl) (fun _ _ => rfl) ..).trans
          ((State.sendMailbox_frame State.powerView (fun _ _ => rfl) (fun _ _ _ => rfl) (fun _ _ _ => rfl) ..).trans
            (State.sendHeartbeat_frame State.powerView (fun _ _ => rfl) (fun _ _ _ => rfl) (fun _ _ => rfl) ..))))
  obtain ⟨hpmu, hwc, hrcc, hdt⟩ := State.powerView_eq hview
  obtain ⟨hwc', hrcc', hdt'⟩ := (s.advanceTo s.dsc.lastStop).setPstate_rest .p3 1 k.sess
  refine ⟨?_, ?_, hwc.trans hwc', hrcc.trans hrcc', hdt.trans hdt'⟩ <;> rw [hpmu]
  · exact State.setPstate_pstate ..
  · rfl

/-- The answer and the record of step 5 leave the level, which is D0 (R429). -/
theorem State.atP3_level (s : State) (k : PmSet) : (s.atP3 k).dbg.level = 0 :=
  (State.reasonTo_frame (fun s => s.dbg.level) (fun _ _ => rfl) (fun _ _ _ => rfl) (fun _ _ _ => rfl) ..).trans
    ((State.event_frame (fun s => s.dbg.level) (fun _ _ => rfl) ..).trans (State.setLevel_level ..))

/-- The head in P3: the other blocks have lost their power, the DIMMs refresh themselves (R429). -/
def State.inP3 (s : State) : State :=
  (s.clearWarm.modMcu fun m => { m with chSt := List.replicate 12 .selfRefresh }).modPmu fun _ => { s.pmu with p3At := s.dt }

theorem State.inP3_spec (s : State) : s.inP3.dt = s.dt ∧ s.inP3.pmu.pstate = s.pmu.pstate ∧
    s.inP3.pmu.trans = s.pmu.trans ∧ s.inP3.pmu.p3At = s.inP3.dt ∧ s.inP3.mcu.chSt = List.replicate 12
        .selfRefresh ∧ (s.dbg.level = 0 → s.inP3.dbg.level = 0) ∧ s.inP3.link = {} ∧ s.inP3.cqe = {} ∧
    s.inP3.dsc = {} ∧ s.inP3.wc.frames = s.wc.frames ∧ s.inP3.rcc = s.rcc := by
  refine ⟨rfl, rfl, rfl, rfl, rfl, fun h => ?_, rfl, rfl, rfl, rfl, rfl⟩
  show (if s.dbg.level ≤ 1 then 0 else s.dbg.level) = 0
  simp [h]

theorem exec_p3Entered {s : State} {k : PmSet} (hk : s.pmu.trans = some k) (htarget : k.target = 3) :
    exec .p3Entered s = .next (s.atP3 k).inP3 := by
  show execP3Entered s = _
  unfold execP3Entered
  rw [hk]
  exact if_neg (not_not_intro htarget)

theorem exec_pmStatus {s : State} {m : Vc3} {x : Session} (h : s.accepts m 0x8C false 1 x) : exec (.pmStatus m) s =
    .next ((s.heard m).answer m 0x8C stSuccess (leBytes 1 0 ++ (leBytes 4 s.pmuStat ++ leBytes 4 s.dbgStat))) :=
  congrArg Host.Outcome.next (s.vc3_accepts m _ _ _ _ x h)

/-! ## The TAP -/

section
variable {s : State} {i : TapInstr} (code : Byte)

theorem exec_jtagInstruction_refused (h : tapAllowed s.rot.lifecycle s.dbg.level i = false) : exec (.jtagInstruction i code) s =
    .next ((s.event 0x1804 0 code.toNat (lifecycleNum s.rot.lifecycle) s.dbg.level 0).modDbg fun d =>
      { d with tap := .bypass, jtagRefused := true }) :=
  if_pos (by simp [h])

/-- An instruction that takes no pins. -/
theorem exec_jtagInstruction (h : tapAllowed s.rot.lifecycle s.dbg.level i = true) (hscan : ¬ (i = .extest ∨ i = .clamp ∨ i = .highz)) :
    exec (.jtagInstruction i code) s = .next (s.modDbg fun d => { d with tap := if i = .other then .bypass else i }) :=
  (if_neg (by simp [h])).trans (congrArg Host.Outcome.next (if_neg hscan))

theorem exec_jtagInstruction_scan (h : tapAllowed s.rot.lifecycle s.dbg.level i = true) (hscan : i = .extest ∨ i = .clamp ∨ i = .highz) :
    exec (.jtagInstruction i code) s = .next (s.modDbg fun d => { d with tap := if i = .other then .bypass else i }).scanPins :=
  (if_neg (by simp [h])).trans (congrArg Host.Outcome.next (if_pos hscan))

end

/-- DRAM's contents are lost and the pins taken. -/
def State.pinsTaken (s : State) : State :=
  (((s.modWc fun w => { w with frames := [], mirror := [], fwdData := [] }).modMcu fun m =>
    { m with chSt := List.replicate 12 .untrained }).modEvr fun e => { e with up := false, ring := [] }).modDbg fun d => { d with scan := true }

theorem State.scanPins_eq (s : State) : s.scanPins = (s.lanesDown (List.range 144)).pinsTaken := rfl

/-- Lanes taken DOWN with the pins: of the list those that are not IDLE, and DRAM's contents are lost. -/
theorem State.lanesDown_pinsTaken (s : State) (ns : List Nat) : (s.lanesDown ns).pinsTaken.dbg = { s.dbg with scan := true } ∧
    (∀ n ∈ ns, (s.link.lane n).st ≠ .idle → ((s.lanesDown ns).pinsTaken.link.lane n).st = .down) ∧
    (s.lanesDown ns).pinsTaken.mcu = { s.mcu with chSt := List.replicate 12 .untrained } ∧ (s.lanesDown ns).pinsTaken.wc.frames = [] := by
  have hview : (fun s : State => (s.dbg, s.mcu)) (s.lanesDown ns) = (fun s : State => (s.dbg, s.mcu)) s := by
    apply State.lanesDown_frame (fun s : State => (s.dbg, s.mcu)) <;> first | exact fun _ _ => rfl | exact fun _ _ _ => rfl
  obtain ⟨hdbg, hmcu⟩ := Prod.mk.inj hview
  exact ⟨congrArg (fun d : Dbg => { d with scan := true }) hdbg, fun n hn hidle => State.lanesDown_lane_st s hn hidle,
    congrArg (fun m : Mcu => { m with chSt := List.replicate 12 .untrained }) hmcu, rfl⟩

/-- A scan takes every lane DOWN and loses the contents of DRAM (R426). -/
theorem State.scanPins_spec (s : State) : s.scanPins.dbg = { s.dbg with scan := true } ∧
    (∀ n, n < 144 → (s.link.lane n).st ≠ .idle → (s.scanPins.link.lane n).st = .down) ∧
    s.scanPins.mcu = { s.mcu with chSt := List.replicate 12 .untrained } ∧ s.scanPins.wc.frames = [] := by
  rw [State.scanPins_eq]
  obtain ⟨hdbg, hlanes, hmcu, hframes⟩ := s.lanesDown_pinsTaken (List.range 144)
  exact ⟨hdbg, fun n hn => hlanes n (List.mem_range.mpr hn), hmcu, hframes⟩

section
variable {s : State} (hlevel : 2 ≤ s.dbg.level)
include hlevel

theorem exec_jtagCoreReset_asserted (hrun : s.rcc.hold = .run) : exec (.jtagCoreReset true) s =
    .next ((s.modRcc fun r => { r.setCause 12 with coresHeld := true }).modDbg fun d => { d with nonce := none }) := by
  show execJtagCoreReset true s = _
  unfold execJtagCoreReset
  rw [if_neg (fun h => absurd h.1 (Nat.not_lt.mpr hlevel)), if_neg (by decide), hrun]
  exact congrArg Host.Outcome.next (if_pos hrun)

theorem exec_jtagCoreReset_released : exec (.jtagCoreReset false) s = .next (s.modRcc fun r => { r with coresHeld := false }) :=
  (if_neg fun h => absurd h.1 (Nat.not_lt.mpr hlevel)).trans (if_pos rfl)

end

/-- Settles O44: PM_SET begins or ends a transition; a scan takes the lanes one by one. -/
theorem powerStatesAreEnteredAsAsked : Obligations.PowerStatesAreEnteredAsAsked := by
  intro m x s
  refine ⟨fun h h4 htrans haction => ⟨fun hlevel => ?p0, fun h2 => ?p2, fun h2 hempty hdurable hheld hlevel hlife => ?p3⟩,
    fun k hk => ⟨fun htarget hnone => ?p2Reached, fun htarget => ?p3Entered⟩, fun h => ?status,
    fun i code => ⟨fun hallowed h1 h2 h3 hother => ?tap, fun hallowed hscan => ?scan, fun hrefused => ?refused⟩,
    fun hlevel hrun => ⟨⟨_, exec_jtagCoreReset_asserted hlevel hrun, rfl, rfl, rfl⟩, _, exec_jtagCoreReset_released hlevel, rfl, rfl⟩⟩
  case p0 =>
    have b := blind_aside (.pmu :: vcParts)
    refine ⟨_, exec_pmSetP0 h h4 htrans haction hlevel, ?_, State.answered (by decide) (ite_frame (State.setPstate_frame _ b.pmu b.evr ..) rfl) ..⟩
    refine (State.answer_frame (·.pmu.pstate) (fun _ _ => rfl) (fun _ _ _ => rfl) (fun _ _ _ => rfl) ..).trans ?_
    rw [apply_ite (fun u : State => u.pmu.pstate), State.setPstate_pstate]
    rfl
  case p2 =>
    have hview : (fun s : State => (s.pmu, s.dt)) ((s.cqe.cmds.filter Cmd.endsAtP2).foldl (fun s c => s.failCmd c stVolumeNotReady)
        ((s.heard m).startPm m 2)) = (fun s : State => (s.pmu, s.dt)) ((s.heard m).startPm m 2) := by
      refine foldl_frame (fun s : State => (s.pmu, s.dt)) _ (fun s c => ?_) _ _
      apply State.failCmd_frame (fun s : State => (s.pmu, s.dt)) <;> first | exact fun _ _ => rfl | exact fun _ _ _ => rfl
    obtain ⟨hpmu, hdt⟩ := Prod.mk.inj hview
    exact ⟨_, exec_pmSetP2 h h4 htrans haction h2, hpmu, hdt⟩
  case p3 =>
    have b := blind_without (.dsc :: .cpe :: .pmu :: vcParts)
    let u := if s.evr.stRunning = true then (s.heard m).selfTestAbort else s.heard m
    have hview : (fun s : State => (s.pmu, s.dt)) u = (fun s : State => (s.pmu, s.dt)) (s.heard m) := by
      refine ite_frame (π := fun s : State => (s.pmu, s.dt)) ?_ rfl
      exact State.selfTestAbort_frame (fun s : State => (s.pmu, s.dt)) (fun _ _ => rfl) (fun _ _ => rfl) (fun _ _ => rfl) _
    obtain ⟨hpmu, hdt⟩ : u.pmu = s.pmu ∧ u.dt = s.dt := Prod.mk.inj hview
    have hended : u.evr.stRunning = false := by
      cases hrunning : s.evr.stRunning with
      | true =>
        rw [show u = (s.heard m).selfTestEnd 3 from if_pos hrunning]
        exact congrArg (·.1) (State.selfTestEnd_selfTest (s := s.heard m) hrunning 3)
      | false =>
        rw [show u = s.heard m from if_neg (ne_true_of_eq_false hrunning)]
        exact hrunning
    have hwithout : u.without (.dsc :: .cpe :: .pmu :: vcParts) = s.without (.dsc :: .cpe :: .pmu :: vcParts) := by
      refine ite_frame (π := (State.without · (.dsc :: .cpe :: .pmu :: vcParts))) ?_ (State.heard_without (by decide) s m)
      exact (State.selfTestAbort_frame _ b.cqe b.dsc b.evr _).trans (State.heard_without (by decide) s m)
    refine ⟨_, exec_pmSetP3 h h4 htrans haction h2 hempty hdurable hheld hlevel hlife, ?_, rfl, hended, ?_⟩
    · show ({ u.pmu with trans := some ⟨3, m.port.val, m.sess.toNat, m.reqId.toNat, u.dt⟩ } : Pmu) = _
      rw [hpmu, hdt]
    · exact (b.cpe ..).trans ((State.startPm_frame _ b.sess b.pmu u m 3).trans hwithout)
  case p2Reached =>
    have b := blind_without [.out, .link, .cqe, .pmu, .evr]
    have hview : (fun s : State => (s.out, s.link)) (s.atP2 k) = (fun s : State => (s.out, s.link)) s :=
      State.setPstate_frame (fun s : State => (s.out, s.link)) (fun _ _ => rfl) (fun _ _ => rfl) ..
    obtain ⟨hout, hlink⟩ := Prod.mk.inj hview
    have hpmu : ((s.atP2 k).answerTo k.port k.sess k.reqId 0x8B stSuccess (leBytes 1 0)).pmu = (s.atP2 k).pmu :=
      State.answerTo_frame State.pmu (fun _ _ => rfl) (fun _ _ _ => rfl) (fun _ _ _ => rfl) ..
    refine ⟨_, exec_p2Reached hk htarget hnone, ?_, congrArg Pmu.trans hpmu,
      State.answerTo_gives s _ hout (congrArg Link.ports hlink) .., ?_⟩
    · exact (congrArg Pmu.pstate hpmu).trans (State.setPstate_pstate ..)
    · exact (State.answerTo_frame _ b.out b.port b.sess ..).trans ((b.pmu ..).trans (State.setPstate_frame _ b.pmu b.evr ..))
  case p3Entered =>
    obtain ⟨hp3, hnone, hwc, hrcc, hdt⟩ := s.atP3_view k
    obtain ⟨hdt', hpstate, htrans, hat, hmcu, hlevel, hlink, hcqe, hdsc, hframes, hrcc'⟩ := (s.atP3 k).inP3_spec
    exact ⟨_, exec_p3Entered hk htarget, hdt'.trans hdt, hpstate.trans hp3, htrans.trans hnone, hat, hmcu, hlevel (s.atP3_level k), hlink, hcqe,
      hdsc, hframes.trans (congrArg Wc.frames hwc), hrcc'.trans hrcc⟩
  case status => exact ⟨_, exec_pmStatus h, State.answered (by decide) rfl ..⟩
  case tap =>
    refine ⟨_, exec_jtagInstruction code hallowed (by simp [h1, h2, h3]), ?_, rfl⟩
    rw [if_neg hother]
    rfl
  case scan =>
    obtain ⟨hdbg, hlanes, hmcu, hframes⟩ := (s.modDbg fun d => { d with tap := if i = .other then .bypass else i }).scanPins_spec
    refine ⟨_, exec_jtagInstruction_scan code hallowed hscan, hdbg.trans ?_, hlanes, hmcu, hframes⟩
    rcases hscan with rfl | rfl | rfl <;> rfl
  case refused =>
    have b := blind_without [.dbg, .evr]
    exact ⟨_, exec_jtagInstruction_refused code hrefused, rfl, rfl, (b.dbg ..).trans (State.event_frame _ b.evr ..)⟩

end Sys2Proof.Machine
end

section
/-! PROOF. The board: the core voltage (R487), the I3C target (R494, R495), and the wake it can ask for (R430). -/

namespace Sys2Proof.Machine

open Sys2Proof

/-! ## The core voltage -/

/-- What is sent, one item after the other. -/
theorem State.emits_eq (f : Nat → Sent) (l : List Nat) (s : State) :
    l.foldl (fun s a => s.emit (f a)) s = { s with out := (l.map f).reverse ++ s.out } := by
  induction l generalizing s with
  | nil => rfl
  | cons a l ih =>
    rw [List.foldl_cons, ih]
    simp [State.emit]

theorem State.avsStatusRead_eq {s : State} {addrs : List Nat} (h : s.vrAddrs = addrs) (status : Nat) : s.avsStatusRead status =
    { s with
      out := (addrs.map Sent.pmbusStatusRead).reverse ++ s.out
      glb := { s.glb with avsStatus := status % 256 } } := by
  unfold State.avsStatusRead
  rw [h, State.emits_eq]
  rfl

/-- The head at whose tick a set-point goes to every regulator of an image. -/
def State.avsSet (s : State) (addrs : List Nat) (mv : Nat) : State :=
  (addrs.foldl (fun s a => s.emit (.pmbus a mv)) (s.advanceTo (msNs (s.dt / 1000000 + 1)))).modGlb fun g => { g with avsMv := mv, avsRetry := 0 }

theorem State.avsSet_eq (s : State) (addrs : List Nat) (mv : Nat) : s.avsSet addrs mv =
    { s with
      dt := max s.dt (msNs (s.dt / 1000000 + 1))
      out := (addrs.map (Sent.pmbus · mv)).reverse ++ s.out
      glb := { s.glb with avsMv := mv, avsRetry := 0 } } := by
  unfold State.avsSet
  rw [State.emits_eq]
  rfl

/-- A tick of the loop, whose set-point is known: the next one goes to every regulator, and their status is read. -/
theorem exec_avsTick {s : State} {i : Image} (hon : s.avsOn = true) (hmv : s.glb.avsMv ≠ 0) (hi : s.rot.image = some i) (target : Nat)
    (status : BitVec 16) : exec (.avsTick target status) s =
      .next ((s.avsSet i.vrAddrs (avsNext s.glb.avsMv target i.vmin i.vmax)).avsStatusRead status.toNat) := by
  show execAvsTick target status s = _
  unfold execAvsTick
  rw [if_neg (by simp [hon])]
  have hmv' : ¬ (s.advanceTo (msNs (s.dt / 1000000 + 1))).glb.avsMv = 0 := hmv
  have hi' : (s.advanceTo (msNs (s.dt / 1000000 + 1))).rot.image = some i := hi
  have haddrs : (s.advanceTo (msNs (s.dt / 1000000 + 1))).vrAddrs = i.vrAddrs := by unfold State.vrAddrs; rw [hi']
  dsimp only
  rw [if_neg hmv']
  dsimp only
  rw [hi', haddrs]
  rfl

theorem exec_pmbusAlert {s : State} (hon : s.avsOn = true) (status : BitVec 16) :
    exec (.pmbusAlert status) s = .next (s.avsStatusRead status.toNat) :=
  congrArg Host.Outcome.next (if_pos hon)

section
variable {s : State} {k : Fin 4} {a : Nat} (hon : s.avsOn = true) (ha : s.vrAddrs[k.val]? = some a)
include hon ha

theorem exec_pmbusTimeout_retry (hretry : s.glb.avsRetry < 3) : exec (.pmbusTimeout k) s =
    .next ((s.modGlb fun g => { g with avsRetry := g.avsRetry + 1 }).emit (.pmbus a s.glb.avsMv)) := by
  show execPmbusTimeout k s = _
  unfold execPmbusTimeout
  rw [hon, ha]
  exact if_pos hretry

theorem exec_pmbusTimeout_fault (hretry : 3 ≤ s.glb.avsRetry) : exec (.pmbusTimeout k) s =
    .next (s.modGlb fun g => { g with avsRun := false, avsFault := true, avsAddr := k.val, avsRetry := 0 }) := by
  show execPmbusTimeout k s = _
  unfold execPmbusTimeout
  rw [hon, ha]
  exact if_neg (Nat.not_lt.mpr hretry)

end

/-! ## The wake -/

theorem State.extend_image (s : State) (k : Nat) (d : Bytes) : (s.extend k d).rot.image = s.rot.image := rfl

/-- The measurements leave the image (R385). -/
theorem State.measure_image (s : State) (i : Image) : (s.measure i).rot.image = s.rot.image := by
  unfold State.measure
  extract_lets one u
  have hone (v : State) (k typ : Nat) : (one v k typ).rot.image = v.rot.image := by
    dsimp only [one]
    split <;> rfl
  have hu : u.rot.image = s.rot.image := by
    refine foldl_frame (fun s => s.rot.image) _ (fun v r => ?_) _ s
    exact v.extend_image 3 r.digest
  calc (one (one (one (one u 4 0x16) 0 1) 1 2) 2 3).extendM5.rot.image
      _ = (one (one (one (one u 4 0x16) 0 1) 1 2) 2 3).rot.image := State.extend_image ..
      _ = s.rot.image := by rw [hone, hone, hone, hone, hu]

theorem State.loadIsland_image (s : State) (i : Image) : (s.loadIsland i).rot.image = s.rot.image := by
  unfold State.loadIsland
  split
  · rfl
  · split <;> rfl

theorem State.runImage_image (s : State) (b : Bool) (i : Image) : (s.runImage b i).rot.image = some i := by
  unfold State.runImage
  rw [State.loadIsland_image]
  have hmeasured := (s.modRot fun r => { r with image := some i, slotB := b, trial := s.nvi.slotSt b == .trial }).measure_image i
  exact (State.applyStatic_frame (fun s => s.rot.image) (fun _ _ _ => rfl) (fun _ _ => rfl) (fun _ _ => rfl) (fun _ _ => rfl) (fun _ _ => rfl)
    (fun _ _ => rfl) ..).trans hmeasured

/-- A warm start from the slot of the last cold boot, whose image is good and unchanged: the image runs (R398). -/
theorem State.bootWarm_runs {s : State} {i : Image} (hslot : s.slotGood s.rot.slotB i) (hdigest : i.manifestDigest = s.rot.bootDigest) :
    s.bootWarm = (s.runImage s.rot.slotB i).awaitConfig 7 := by
  unfold State.bootWarm
  dsimp only
  rw [hslot.1]
  dsimp only
  rw [if_neg (not_not_intro hdigest), if_neg (not_not_intro hslot.2)]

theorem State.awaitConfig_image (s : State) (stage : Nat) : (s.awaitConfig stage).rot.image = s.rot.image :=
  State.fetchCfg_frame (fun s => s.rot.image) (fun _ _ => rfl) (fun _ _ _ => rfl) (fun _ _ _ => rfl) _

/-- The head in P2 as a wake brings it there, before it starts. -/
def State.woken (s : State) (source : Nat) : State :=
  (((s.event 0x0303 0 source (lo32 ((s.dt - s.pmu.p3At) / 1000000)) 0 0).setPstate .p2 5 0xFFFF).event 0x1606 0 0xFFF 0 0 0).modMcu fun m =>
    { m with chSt := List.replicate 12 .ready }

/-- A head about to start warm, with its records made (R398 step 1). -/
def State.warmStarting (s : State) : State :=
  (((s.modRcc fun r => { r with
    hold := .run, fromWarm := true, fromPor := false, coresHeld := false, pendingChip := r.pendingChip || decide (0 < 0)
    warmStarts := bump 16 r.warmStarts, clkGood := BitVec.allOnes 72 }).modRot fun r => { r with startAt := s.dt }).evrWarm 0).levelKept

theorem State.wake_eq (s : State) (source : Nat) : s.wake source = (s.woken source).warmStarting.bootWarm := rfl

theorem State.warmStarting_rest (s : State) : s.warmStarting.rot = { s.rot with startAt := s.dt } ∧ s.warmStarting.nvi = s.nvi ∧
    s.warmStarting.pmu = s.pmu := by
  refine ⟨?_, ?_, ?_⟩
  · exact (State.levelKept_frame State.rot (fun _ _ => rfl) _).trans (State.evrWarm_frame State.rot (fun _ _ => rfl) ..)
  · exact (State.levelKept_frame State.nvi (fun _ _ => rfl) _).trans (State.evrWarm_frame State.nvi (fun _ _ => rfl) ..)
  · exact (State.levelKept_frame State.pmu (fun _ _ => rfl) _).trans (State.evrWarm_frame State.pmu (fun _ _ => rfl) ..)

theorem State.woken_rest (s : State) (source : Nat) : (s.woken source).rot = s.rot ∧ (s.woken source).nvi = s.nvi ∧
    (s.woken source).pmu.pstate = .p2 :=
  ⟨State.setPstate_frame State.rot (fun _ _ => rfl) (fun _ _ => rfl) .., State.setPstate_frame State.nvi (fun _ _ => rfl) (fun _ _ => rfl) ..,
    State.setPstate_pstate ..⟩

/-- A wake starts the head from the slot of its last cold boot: P2, and the slot's image runs (R398, R430). -/
theorem State.wake_spec {s : State} {i : Image} (hslot : s.slotGood s.rot.slotB i) (hdigest : i.manifestDigest = s.rot.bootDigest) (source : Nat) :
    (s.wake source).pmu.pstate = .p2 ∧ (s.wake source).rot.image = some i := by
  obtain ⟨hrot, hnvi, hp2⟩ := s.woken_rest source
  obtain ⟨hrot', hnvi', hpmu'⟩ := (s.woken source).warmStarting_rest
  rw [State.wake_eq]
  generalize (s.woken source).warmStarting = u at hrot' hnvi' hpmu' ⊢
  generalize s.woken source = v at hrot hnvi hp2 hrot' hnvi' hpmu'
  obtain ⟨himage, hreason⟩ := hslot
  have hgood : u.slotGood u.rot.slotB i := by
    refine ⟨?_, ?_⟩ <;> rw [hrot', hrot]
    · rw [hnvi', hnvi]
      exact himage
    · exact hreason
  have hdigest' : i.manifestDigest = u.rot.bootDigest := by rw [hrot', hrot]; exact hdigest
  rw [State.bootWarm_runs hgood hdigest']
  refine ⟨?_, (State.awaitConfig_image ..).trans (State.runImage_image ..)⟩
  refine ((State.awaitConfig_frame (fun s => s.pmu.pstate) (fun _ _ => rfl) (fun _ _ _ => rfl) (fun _ _ _ => rfl) (fun _ _ _ => rfl) ..).trans
    (State.runImage_frame (fun s => s.pmu.pstate) (fun _ _ _ => rfl) (fun _ _ => rfl) (fun _ _ => rfl) (fun _ _ => rfl) (fun _ _ => rfl)
      (fun _ _ => rfl) (fun _ _ _ => rfl) (fun _ _ => rfl) ..)).trans ?_
  rw [hpmu', hp2]

/-! ## The I3C target -/

section
variable {s : State} (hup : s.glb.i3cUp = true)
include hup

theorem exec_i3cSetOffset {offset : Word} (hreach : (i3cEnd offset.toNat).isSome = true) : exec (.i3cSetOffset offset) s =
    .next ((s.modGlb fun g => { g with i3cOff := offset.toNat }).emit .i3cAck) :=
  if_pos ⟨hup, hreach⟩

theorem exec_i3cDynamicAddress (addr : BitVec 7) : exec (.i3cDynamicAddress addr) s =
    .next ((s.modGlb fun g => { g with i3cAddr := some addr.toNat }).emit .i3cAck) :=
  if_pos hup

theorem exec_i3cRegisterWrite (value : Word) : exec (.i3cRegisterWrite 0x20004 value) s =
    .next (if value.getLsbD 0 = true ∧ s.pmu.pstate = .p3 ∧ s.rcc.hold = .run then (s.emit .i3cAck).wake 1 else s.emit .i3cAck) :=
  if_pos ⟨hup, rfl⟩

/-- The offsets that a read of the target gives. -/
def State.i3cOffs (s : State) (e : Nat) : List Nat := (List.range ((e - s.glb.i3cOff) / 4)).map fun i => s.glb.i3cOff + 4 * i

/-- A read of EVR_HR_SEQ_LO releases the alert, and changes nothing else (R495). -/
def State.alertRead (s : State) (seq : Bool) : State := if seq then s.modGlb fun g => { g with alert := false } else s

omit hup in
theorem State.alertRead_spec (s : State) (seq : Bool) : (s.alertRead seq).out = s.out ∧ (s.alertRead seq).glb.alert = (s.glb.alert && !seq) ∧
    (s.alertRead seq).glb.i3cOff = s.glb.i3cOff ∧ (s.alertRead seq).dt = s.dt := by
  cases seq with
  | true => exact ⟨rfl, (Bool.and_false _).symm, rfl, rfl⟩
  | false => exact ⟨rfl, (Bool.and_true _).symm, rfl, rfl⟩

theorem exec_i3cPrivateRead {e : Nat} (he : i3cEnd s.glb.i3cOff = some e) : exec .i3cPrivateRead s =
    .next (((s.readRegs 0 [] (s.i3cOffs e)).2.2.emit (.i3cRead ((s.i3cOffs e).zip (s.readRegs 0 [] (s.i3cOffs e)).1))).alertRead
      ((s.i3cOffs e).contains 0x30030)) := by
  show execI3cPrivateRead s = _
  unfold execI3cPrivateRead
  rw [hup, he]
  rfl

end

/-- Settles O47: each transaction by what it sends; a wake through the start that follows it. -/
theorem theBoardIsManaged : Obligations.TheBoardIsManaged := by
  intro s
  refine ⟨fun hon => ⟨fun target status i hmv hi => ?tick, fun status => ?alert, fun k a ha => ⟨fun hretry => ?retry, fun hretry => ?fault⟩⟩,
    fun hup => ⟨fun offset hreach => ?offset, fun e he => ?read, fun value hquiet => ?write, fun value i hwake hp3 hrun hslot hdigest => ?wake,
      fun addr => ?address⟩⟩
  case tick =>
    have haddrs : (s.avsSet i.vrAddrs (avsNext s.glb.avsMv target i.vmin i.vmax)).vrAddrs = i.vrAddrs := by
      rw [State.avsSet_eq]
      unfold State.vrAddrs
      rw [hi]
    refine ⟨_, exec_avsTick hon hmv hi target status, ?_, ?_, fun a ha => ?_, ?_⟩ <;> rw [State.avsStatusRead_eq haddrs, State.avsSet_eq]
    · show max s.dt _ = _
      unfold msNs
      omega
    · exact List.mem_append_right _ (List.mem_append_left _ (List.mem_reverse.mpr (List.mem_map_of_mem ha)))
    · rfl
  case alert =>
    refine ⟨_, exec_pmbusAlert hon status, ?_, fun a ha => ?_, ?_⟩ <;> rw [State.avsStatusRead_eq rfl]
    · exact List.mem_append_left _ (List.mem_reverse.mpr (List.mem_map_of_mem ha))
    · rfl
  case retry => exact ⟨_, exec_pmbusTimeout_retry hon ha hretry, rfl, rfl, rfl⟩
  case fault => exact ⟨_, exec_pmbusTimeout_fault hon ha hretry, rfl, rfl⟩
  case offset => exact ⟨_, exec_i3cSetOffset hup hreach, rfl, rfl, rfl⟩
  case read =>
    have hout : (s.readRegs 0 [] (s.i3cOffs e)).2.2.out = s.out := by
      apply State.readRegs_frame State.out <;> first | exact fun _ _ => rfl | exact fun _ _ _ => rfl
    have hglb : (s.readRegs 0 [] (s.i3cOffs e)).2.2.glb = s.glb := by
      apply State.readRegs_frame State.glb <;> first | exact fun _ _ => rfl | exact fun _ _ _ => rfl
    have hdt : (s.readRegs 0 [] (s.i3cOffs e)).2.2.dt = s.dt := by
      apply State.readRegs_frame State.dt <;> first | exact fun _ _ => rfl | exact fun _ _ _ => rfl
    have hexec := exec_i3cPrivateRead hup he
    show ∃ t, exec .i3cPrivateRead s = .next t ∧ t.out = .i3cRead ((s.i3cOffs e).zip (s.readRegs 0 [] (s.i3cOffs e)).1) :: s.out ∧
      t.glb.alert = (s.glb.alert && !(s.i3cOffs e).contains 0x30030) ∧ t.glb.i3cOff = s.glb.i3cOff ∧ t.dt = s.dt
    generalize s.readRegs 0 [] (s.i3cOffs e) = r at hexec hout hglb hdt ⊢
    obtain ⟨hout', halert, hoff, hdt'⟩ := (r.2.2.emit (.i3cRead ((s.i3cOffs e).zip r.1))).alertRead_spec ((s.i3cOffs e).contains 0x30030)
    refine ⟨_, hexec, ?_, ?_, ?_, hdt'.trans hdt⟩
    · exact hout'.trans (congrArg (_ :: ·) hout)
    · exact halert.trans (congrArg (fun g : Glb => g.alert && _) hglb)
    · exact hoff.trans (congrArg Glb.i3cOff hglb)
  case write =>
    refine ⟨_, exec_i3cRegisterWrite hup value, ?_⟩
    rw [if_neg ?_]
    · exact ⟨rfl, rfl⟩
    · rintro ⟨h0, h3, hr⟩
      rcases hquiet with h | h | h
      · exact absurd (h0.symm.trans h) nofun
      · exact h h3
      · exact h hr
  case wake =>
    refine ⟨_, exec_i3cRegisterWrite hup value, ?_⟩
    rw [if_pos ⟨hwake, hp3, hrun⟩]
    exact State.wake_spec (s := s.emit .i3cAck) hslot hdigest 1
  case address => exact ⟨_, exec_i3cDynamicAddress hup addr, rfl, rfl, rfl⟩

end Sys2Proof.Machine
end

section
/-! PROOF. The heads agree on the configuration (step 4 of R405), and modules are identified for it (R407). -/

namespace Sys2Proof.Machine

open Sys2Proof

/-! ## What a lane's change leaves of the configuration -/

/-- What a lane's change of state can touch beside the request to the peer for its configuration. -/
def laneBlocks : List Blk := [.fresh, .out, .link, .cqe, .dsc, .wc, .ftu, .pxe, .gov, .evr, .glb]

/-- What the commits and offers stand at: the epoch and the set in force, the staging, the peer's offer, the configuration being taken. -/
def State.commits (s : State) : Nat × List CfgRec × Option Staging × Option Offer × Option Offer :=
  (s.cfg.epoch, s.cfg.recs, s.cfg.staging, s.cfg.offer, s.cfg.taking)

theorem blind_commits : Blind laneBlocks State.commits := by
  intro b hb s t h
  have heq : (t.blank b).commits = (s.blank b).commits := congrArg State.commits h
  cases b with
  | cfg => exact absurd hb (by decide)
  | _ => exact heq

theorem State.fetchCfg_commits (s : State) : s.fetchCfg.commits = s.commits :=
  ite_frame rfl (State.transmit_frame State.commits blind_commits.out blind_commits.port ..)

theorem State.peerLanes_commits (s : State) (up : Bool) : (s.peerLanes up).commits = s.commits := by
  have hmirror (u : State) (st : MirrorSt) (cause : Nat) : (u.setMirror st cause).commits = u.commits :=
    State.setMirror_frame State.commits blind_commits.wc blind_commits.evr u st cause
  have hfetch : (if s.rot.waitSince.isSome then s.fetchCfg else s).commits = s.commits := ite_frame s.fetchCfg_commits rfl
  unfold State.peerLanes
  exact ite_frame (ite_frame ((hmirror ..).trans hfetch) hfetch) (ite_frame (hmirror ..) rfl)

theorem State.portDown_commits (s : State) (p : PortId) : (s.portDown p).commits = s.commits := by
  unfold State.portDown
  cases p with
  | host h => rfl
  | peer => exact State.peerLanes_commits _ false
  | media m => rfl

theorem State.portBack_commits (s : State) (p : PortId) : (s.portBack p).commits = s.commits := by
  have b := blind_commits
  unfold State.portBack
  extract_lets u v
  have hv : v.commits = s.commits :=
    (State.pump_frame State.commits b.out b.port u p).trans (State.endRetrain_frame State.commits b.out b.port b.cqe b.evr _ p)
  cases p with
  | host h => exact hv
  | peer => exact (State.peerLanes_commits v true).trans hv
  | media m =>
    exact (State.memberReturns_frame State.commits b.fresh b.out b.link b.port b.cqe b.dsc b.ftu b.pxe b.pxeAll b.gov b.evr b.glb ..).trans hv

theorem State.setLane_commits (s : State) (n : Nat) (st : LaneSt) (cause : Nat) : (s.setLane n st cause).commits = s.commits := by
  have b := blind_commits
  have hlane : ((s.laneEvent n (s.link.lane n).st st cause).modLane n (Lane.enters s.dt st cause)).commits = s.commits :=
    State.laneEvent_frame State.commits b.evr s n _ st cause
  unfold State.setLane
  dsimp only
  split
  · rfl
  · cases s.link.laneOwner n with
    | none => exact hlane
    | some p =>
      dsimp only
      have hdown {c : Prop} [Decidable c] {u : State} (h : u.commits = s.commits) : (if c then u.portDown p else u).commits = s.commits :=
        ite_frame ((u.portDown_commits p).trans h) h
      have hrestart {c : Prop} [Decidable c] {u : State} (h : u.commits = s.commits) :
          (if c then u.restartPort p else u).commits = s.commits :=
        ite_frame ((State.restartPort_frame State.commits b.port b.sess u p).trans h) h
      exact ite_frame ((State.portBack_commits ..).trans (hrestart (hdown hlane))) (hrestart (hdown hlane))

/-- Lanes that go back into QUARANTINE leave every commit as it stands (R407). -/
theorem State.unidentify_commits (s : State) (recs : List CfgRec) : (s.unidentify recs).commits = s.commits :=
  foldl_frame State.commits _ (fun _ _ => ite_frame (State.setLane_commits ..) rfl) _ s

/-! ## The head with the session -/

section
variable {s : State} {g : Staging} {k : CommitRec} {port req : Nat} (hs : s.cfg.staging = some g) (hc : g.commit = some (k, port, req))
include hs hc

theorem State.refuseStaged_eq (f : CommitFault) : s.refuseStaged f =
    ((((s.unidentify (s.stagedSet g k)).recordRefusal k.epoch f).modCfg fun c => { c with staging := none }).answerTo port g.sess req 0x62
      stInvalidField f.body) := by
  unfold State.refuseStaged
  rw [hs]
  dsimp only
  rw [hc]

/-- A refusal discards the staging, and of the other commits it changes nothing. -/
theorem State.refuseStaged_commits (f : CommitFault) :
    (s.refuseStaged f).commits = (s.cfg.epoch, s.cfg.recs, none, s.cfg.offer, s.cfg.taking) := by
  have b := blind_commits
  have hrefused : ((s.unidentify (s.stagedSet g k)).recordRefusal k.epoch f).commits = s.commits :=
    (State.recordRefusal_frame State.commits b.fresh b.evr ..).trans (s.unidentify_commits _)
  rw [State.refuseStaged_eq hs hc, State.answerTo_frame State.commits b.out b.port b.sess]
  simp only [State.commits, Prod.mk.injEq] at hrefused ⊢
  obtain ⟨hepoch, hrecs, -, hoffer, htaking⟩ := hrefused
  exact ⟨hepoch, hrecs, rfl, hoffer, htaking⟩

/-- A refusal with no module to put back: the staging is discarded and the session answered. -/
theorem State.refuseStaged_plain {bs : List Blk} (hbs : ∀ b ∈ [Blk.fresh, .out, .link, .cqe, .cfg, .evr], b ∈
    bs) {result : Nat} (h6 : result ≠ 6) (hfresh : s.freshModules (s.stagedSet g k) = []) :
    (s.refuseStaged ⟨result, 0, none⟩).cfg = { s.cfg with staging := none } ∧
      Gives s (s.refuseStaged ⟨result, 0, none⟩) (hostPort port) (.answer port g.sess (0x62 + 0x8000) req stInvalidField (leBytes 1 result)) ∧
      (s.refuseStaged ⟨result, 0, none⟩).without bs = s.without bs := by
  have b := blind_without bs
  have hstay : s.unidentify (s.stagedSet g k) = s := by
    unfold State.unidentify
    rw [hfresh]
    rfl
  have hbody : (⟨result, 0, none⟩ : CommitFault).body = leBytes 1 result := by
    unfold CommitFault.body
    rw [if_pos h6, List.append_nil]
  rw [State.refuseStaged_eq hs hc, hstay, hbody]
  have hview : (fun s : State => (s.cfg, s.out, s.link)) (s.recordRefusal k.epoch ⟨result, 0, none⟩) = (s.cfg, s.out, s.link) :=
    State.recordRefusal_frame (fun s : State => (s.cfg, s.out, s.link)) (fun _ _ => rfl) (fun _ _ => rfl) ..
  have hframe := State.recordRefusal_frame _ (b.fresh (hbs _ (by decide))) (b.evr (hbs _ (by decide))) s k.epoch ⟨result, 0, none⟩
  generalize s.recordRefusal k.epoch ⟨result, 0, none⟩ = u at hview hframe
  obtain ⟨hcfg, hout, hlink⟩ : u.cfg = s.cfg ∧ u.out = s.out ∧ u.link = s.link := by simpa only [Prod.mk.injEq] using hview
  refine ⟨?_, State.answerTo_gives s (u.modCfg _) hout (congrArg Link.ports hlink) .., ?_⟩
  · rw [State.answerTo_frame State.cfg (fun _ _ => rfl) (fun _ _ _ => rfl) (fun _ _ _ => rfl), ← hcfg]
    rfl
  · exact (State.answerTo_frame _ (b.out (hbs _ (by decide))) (b.port (hbs _ (by decide))) (b.sess (hbs _ (by decide))) ..).trans
      ((b.cfgAll (hbs _ (by decide)) ..).trans hframe)

/-- PEER_CFG_RESULT for the offer that waits. -/
theorem exec_peerCfgResult {at_ : Nat} (hat : g.offeredAt = some at_) (result : Byte) : exec (.peerCfgResult k.epoch result) s =
    .next (if result = 0 then s.commitStaged else s.refuseStaged ⟨if result = 8 then 8 else 9, 0, none⟩) := by
  show execPeerCfgResult k.epoch result s = _
  unfold execPeerCfgResult
  rw [hs]
  dsimp only
  rw [hc, hat]
  dsimp only
  rw [if_neg (not_not_intro rfl)]
  split <;> rfl

omit hc in
theorem exec_peerCfgTimeout {at_ : Nat} (hat : g.offeredAt = some at_) :
    exec .peerCfgTimeout s = .next ((s.advanceTo (at_ + secNs 2)).refuseStaged ⟨9, 0, none⟩) := by
  show execPeerCfgTimeout s = _
  unfold execPeerCfgTimeout
  rw [hs]
  dsimp only [Option.bind]
  rw [hat]

end

theorem State.refuseStaged_dt (s : State) (f : CommitFault) : (s.refuseStaged f).dt = s.dt := by
  apply State.refuseStaged_frame State.dt <;> first | exact fun _ _ => rfl | exact fun _ _ _ => rfl

/-- The offer of a commit to a peer that is there. -/
theorem State.offerStaged_spec {s : State} {g : Staging} {k : CommitRec} {port req : Nat} (hs : s.cfg.staging = some g)
    (hc : g.commit = some (k, port, req)) (haway : s.peerAway = false) :
    s.offerStaged.cfg = { s.cfg with staging := some { g with offeredAt := some s.dt } } ∧
      Gives s s.offerStaged .peer (.cfgOffer k g.len) ∧ s.offerStaged.without [.out, .link, .cfg] = s.without [.out, .link, .cfg] := by
  have b := blind_without [.out, .link, .cfg]
  obtain ⟨hcfg, hgives, -⟩ := s.offerStaged_offered g k port req hs hc haway
  refine ⟨hcfg, hgives, ?_⟩
  unfold State.offerStaged
  rw [if_neg (by simp [haway]), hs]
  dsimp only
  rw [hc]
  exact (State.transmit_frame _ b.out b.port ..).trans ((State.transmit_frame _ b.out b.port ..).trans (b.cfgAll ..))

/-! ## IDENT answers -/

section
variable {s : State} {g : Staging} {k : CommitRec} {port req : Nat} {pos : Fin 96} (hs : s.cfg.staging = some g)
  (hc : g.commit = some (k, port, req)) (hidents : g.idents = [pos.val])
include hs hidents

/-- The set whose commit waits for the position. -/
theorem State.identSet_staged (hc : g.commit = some (k, port, req)) :
    s.identSet pos.val = some { s.cfg with recs := s.cfg.after k g.recs } := by
  unfold State.identSet
  rw [hs]
  simp [hidents, hc]

/-- The last answer, of the declared module: the commit goes on (R407). -/
theorem State.identStaged_good : s.identStaged pos.val 0 =
    (s.modCfg fun c => { c with staging := some { g with idents := [] } }).offerStaged := by
  unfold State.identStaged
  rw [hs]
  simp [hidents]

/-- An answer of another module refuses the commit. -/
theorem State.identStaged_bad {reason : Nat} (hbad : reason ≠ 0) : ∃ f, s.identStaged pos.val reason = s.refuseStaged f := by
  unfold State.identStaged
  rw [hs]
  exact ⟨_, (if_neg (by simp [hidents])).trans (if_pos hbad)⟩

omit hidents hs in
/-- Where no offer is held and no configuration taken, the answer is the staging's alone. -/
theorem State.identified_own {u : State} {reason : Nat} (hoffer : (u.identStaged pos.val reason).cfg.offer = none)
    (htaking : (u.identStaged pos.val reason).cfg.taking = none) :
    ((u.identStaged pos.val reason).identOffer pos.val reason).identTaking pos.val reason = u.identStaged pos.val reason := by
  have hnone : (u.identStaged pos.val reason).identOffer pos.val reason = u.identStaged pos.val reason := by
    unfold State.identOffer
    rw [hoffer]
  rw [hnone]
  unfold State.identTaking
  rw [htaking]

omit hidents hs in
theorem State.identified_good (u : State) :
    u.identified pos.val 0 = ((u.identStaged pos.val 0).identOffer pos.val 0).identTaking pos.val 0 := by
  unfold State.identified
  rw [if_pos (.inl rfl)]

include hc in
/-- A module that fails is recorded, and the commit that waits for it refused; nothing else of the configuration changes (R407). -/
theorem State.identified_bad {reason : Nat} (hbad : reason ≠ 0) (hoffer : s.cfg.offer = none) (htaking : s.cfg.taking = none) :
    (s.identified pos.val reason).cfg.staging = none ∧ (s.identified pos.val reason).cfg.epoch = s.cfg.epoch ∧
      (s.identified pos.val reason).cfg.recs = s.cfg.recs ∧ (s.identified pos.val reason).dt = s.dt := by
  obtain ⟨f, hf⟩ := State.identStaged_bad (s := s.event 0x060D pos.val pos.val reason 0 0) (pos := pos) hs hidents hbad
  have hcommits := State.refuseStaged_commits (s := s.event 0x060D pos.val pos.val reason 0 0) hs hc f
  have hdt := (s.event 0x060D pos.val pos.val reason 0 0).refuseStaged_dt f
  rw [← hf] at hcommits hdt
  simp only [State.commits, Prod.mk.injEq] at hcommits
  obtain ⟨hepoch, hrecs, hstaging, hoffer', htaking'⟩ := hcommits
  have hset := State.identSet_staged hs hidents hc
  have hidentified : s.identified pos.val reason = (s.event 0x060D pos.val pos.val reason 0 0).identStaged pos.val reason := by
    unfold State.identified
    rw [if_neg (by simp [hbad, hset])]
    exact State.identified_own (hoffer'.trans hoffer) (htaking'.trans htaking)
  rw [hidentified]
  exact ⟨hstaging, hepoch, hrecs, hdt⟩

include hc in
/-- IDENT_RESPONSE for a commit that waits for it, with a header that holds. -/
theorem exec_identResponse {tag : Word} {o : MediaOp} (ho : s.inFlight pos tag mIdent o) (serial : Nat) (sigOk foreign : Bool) :
    exec (.identResponse pos tag true serial sigOk foreign) s = .next ((s.dropOp tag.toNat).identified pos.val
      (identFault { s.cfg with recs := s.cfg.after k g.recs } pos.val serial sigOk foreign)) := by
  obtain ⟨hop, hpos, hopc, hvia⟩ := ho
  have hset : (s.dropOp tag.toNat).identSet pos.val = some { s.cfg with recs := s.cfg.after k g.recs } :=
    State.identSet_staged (s := s.dropOp tag.toNat) hs hidents hc
  show execIdentResponse pos tag true serial sigOk foreign s = _
  unfold execIdentResponse State.mediaAnswer
  rw [hop]
  dsimp only
  rw [if_neg (by simp [hpos, hopc, hvia]), if_neg (by decide), hset]

end

/-! ## The peer's offer and its configuration -/

/-- PEER_CFG_OFFER at a head that commits nothing. -/
theorem exec_peerCfgOffer {s : State} (hs : s.cfg.staging = none) (c : CommitRec) (len : Nat) : exec (.peerCfgOffer c len) s =
    .next (s.modCfg fun x => { x with offer := some { commit := c, len := len, off := 0, recs := [] } }) := by
  show execPeerCfgOffer c len s = _
  unfold execPeerCfgOffer
  rw [hs]
  exact if_neg nofun

/-- The offer with the next of its data. -/
def Offer.grown (o : Offer) (len : Nat) (recs : List CfgRec) : Offer :=
  { o with
    off := o.off + len
    recs := o.recs ++ recs }

section
variable {s : State} {o : Offer} (ho : s.cfg.offer = some o) (hopen : o.prepared = false) (len : Nat) (recs : List CfgRec)
include ho hopen

theorem exec_peerCfgData_part (hpart : o.off + len < o.len) : exec (.peerCfgData o.off len recs) s =
    .next (s.modCfg fun c => { c with offer := some (o.grown len recs) }) := by
  show execPeerCfgData o.off len recs s = _
  unfold execPeerCfgData
  rw [ho]
  dsimp only
  rw [if_neg (by simp [hopen])]
  exact if_pos hpart

/-- With its last byte the offer is judged, and prepared where nothing is to be identified. -/
theorem exec_peerCfgData_whole (hs : s.cfg.staging = none) (hwhole : o.len ≤ o.off + len) (hepoch : o.commit.epoch ≠ s.cfg.epoch)
    (hfault : (s.modCfg fun c => { c with offer := some (o.grown len recs) }).commitFault o.commit (o.grown len recs).recs = none)
    (hidents : (s.modCfg fun c => { c with offer := some (o.grown len recs) }).identifiable (s.cfg.after o.commit (o.grown len recs).recs) = []) :
    exec (.peerCfgData o.off len recs) s =
      .next ((s.modCfg fun c => { c with offer := some (o.grown len recs) }).prepared (o.grown len recs)) := by
  show execPeerCfgData o.off len recs s = _
  unfold execPeerCfgData
  rw [ho]
  dsimp only
  rw [if_neg (by simp [hopen])]
  refine (if_neg (Nat.not_lt.mpr hwhole)).trans ((if_neg ?_).trans ?_)
  · simp [State.modCfg, hs, hepoch]
  · have hfault' := hfault
    unfold Offer.grown at hfault'
    rw [hfault']
    exact if_pos hidents

end

theorem State.prepared_spec (s : State) (o : Offer) :
    (s.prepared o).cfg = { s.cfg with offer := some { o with prepared := true, idents := [] } } ∧
      Gives s (s.prepared o) .peer (.cfgResult o.commit.epoch 0) ∧
      (s.prepared o).without [.out, .link, .cfg] = s.without [.out, .link, .cfg] := by
  have b := blind_without [.out, .link, .cfg]
  exact ⟨State.transmit_frame State.cfg (fun _ _ => rfl) (fun _ _ _ => rfl) .., s.transmit_gives (s.modCfg _) rfl rfl .peer 3 _,
    (State.transmit_frame _ b.out b.port ..).trans (b.cfgAll ..)⟩

theorem exec_peerCfgFetch_asked {s : State} {k : CommitRec} (hk : s.cfg.commit = some k) :
    exec (.peerCfgFetch none) s = .next (s.transmit .peer 3 (.cfgFull k s.cfg.recs)) := by
  show execPeerCfgFetch none s = _
  unfold execPeerCfgFetch
  dsimp only
  rw [hk]

/-- The peer's complete configuration, newer than that in force and with nothing to identify, comes into force. -/
theorem exec_peerCfgFetch_got {s : State} {k : CommitRec} {recs : List CfgRec} (hfetching : s.cfg.fetching = true)
    (hnewer : s.cfg.epoch < k.epoch) (hfault : s.commitFault { k with base := 0 } recs = none)
    (hidents : s.identifiable (s.cfg.after { k with base := 0 } recs) = []) : exec (.peerCfgFetch (some (k, recs))) s =
      .next (s.switchTo { k with base := 0 } (s.cfg.after { k with base := 0 } recs) 2) := by
  show execPeerCfgFetch (some (k, recs)) s = _
  unfold execPeerCfgFetch
  dsimp only
  rw [if_neg (by simp [hfetching]), if_neg (Nat.not_le.mpr hnewer), hfault]
  exact if_pos hidents

/-- Settles O49: an offer by its data; the commit by what a switch settles and a refusal leaves; a module by its last IDENT. -/
theorem headsAgreeOnTheConfiguration : Obligations.HeadsAgreeOnTheConfiguration := by
  intro s
  refine ⟨fun c len hs => ⟨_, exec_peerCfgOffer hs c len, rfl, rfl⟩,
    fun o len recs ho hopen hs => ⟨fun hpart => ⟨_, exec_peerCfgData_part ho hopen len recs hpart, rfl, rfl⟩,
      fun hwhole hepoch hfault hidents => ?prepared⟩,
    fun g k port req hs hc => ⟨fun at_ hat => ⟨?switches, fun result hresult hfresh => ?refused, fun hfresh => ?timeout⟩,
      fun pos tag o serial sigOk foreign ho hidents hoffer htaking => ⟨fun hgood haway => ?identified, fun hbad => ?foreign⟩⟩,
    fun k hk => ?asked, fun k recs hfetching hnewer hfault hidents => ?taken⟩
  case prepared =>
    have b := blind_without [.out, .link, .cfg]
    obtain ⟨hcfg, hgives, hframe⟩ := (s.modCfg fun c => { c with offer := some (o.grown len recs) }).prepared_spec (o.grown len recs)
    exact ⟨_, exec_peerCfgData_whole ho hopen len recs hs hwhole hepoch hfault hidents, hcfg, hgives, hframe.trans (b.cfgAll ..)⟩
  case switches =>
    obtain ⟨hepoch, hdigest, hrecs, hstaging⟩ := State.settled_iff.mp (s.commitStaged_settled g k port req hs hc)
    exact ⟨_, exec_peerCfgResult hs hc hat 0, hepoch, hdigest, hrecs, hstaging, s.commitStaged_dt⟩
  case refused =>
    have hexec := exec_peerCfgResult hs hc hat result
    rw [if_neg hresult] at hexec
    obtain ⟨hcfg, hgives, hframe⟩ := State.refuseStaged_plain hs hc (bs := [.fresh, .out, .link, .cqe, .cfg, .evr]) (by decide)
      (result := if result = 8 then 8 else 9) (by split <;> decide) hfresh
    exact ⟨_, hexec, hcfg, hgives, hframe⟩
  case timeout =>
    have b := blind_without [.dt, .fresh, .out, .link, .cqe, .cfg, .evr]
    obtain ⟨hcfg, hgives, hframe⟩ := State.refuseStaged_plain (s := s.advanceTo (at_ + secNs 2)) hs hc
      (bs := [.dt, .fresh, .out, .link, .cqe, .cfg, .evr]) (by decide) (result := 9) (by decide) hfresh
    exact ⟨_, exec_peerCfgTimeout hs hat, State.refuseStaged_dt .., hcfg, hgives, hframe.trans (b.dt ..)⟩
  case identified =>
    have hexec := exec_identResponse hs hc hidents ho serial sigOk foreign
    rw [hgood, State.identified_good] at hexec
    have hstaged := State.identStaged_good (s := s.dropOp tag.toNat) (pos := pos) hs hidents
    obtain ⟨hcfg, hgives, hframe⟩ := State.offerStaged_spec (s := (s.dropOp tag.toNat).modCfg fun c => { c
        with staging := some { g with idents := [] } })
      (g := { g with idents := [] }) rfl hc haway
    rw [← hstaged] at hcfg hgives hframe
    rw [State.identified_own (hcfg ▸ hoffer) (hcfg ▸ htaking)] at hexec
    have b := blind_without [.out, .link, .cfg]
    exact ⟨_, hexec, hcfg, hgives, hframe.trans ((b.cfgAll ..).trans (b.linkAll ..))⟩
  case foreign =>
    obtain ⟨hstaging, hepoch, hrecs, hdt⟩ := State.identified_bad (s := s.dropOp tag.toNat) (pos := pos) hs hc hidents hbad hoffer htaking
    exact ⟨_, exec_identResponse hs hc hidents ho serial sigOk foreign, hstaging, hepoch, hrecs, hdt⟩
  case asked =>
    have b := blind_without [.out, .link]
    exact ⟨_, exec_peerCfgFetch_asked hk, s.transmit_gives s rfl rfl .peer 3 _, State.transmit_frame _ b.out b.port ..⟩
  case taken =>
    obtain ⟨hepoch, -, hrecs, -⟩ := State.settled_iff.mp (s.switchTo_settled { k with base := 0 } (s.cfg.after { k with base := 0 } recs) 2)
    refine ⟨_, exec_peerCfgFetch_got hfetching hnewer hfault hidents, hepoch, hrecs, ?_⟩
    apply State.switchTo_frame State.dt <;> first | exact fun _ _ => rfl | exact fun _ _ _ => rfl

end Sys2Proof.Machine
end

section
/-! PROOF. Lanes that move (R50): what a lane's change of state leaves alone, alone or lane after lane; the training of a lane and its
timeouts; the retraining of a port (R49). -/

namespace Sys2Proof.Machine

open Sys2Proof

/-! ## Changes that spare the lanes -/

/-- From `s` to `t` no lane changes but those that `moved` names, and of the parts of the state only `bs` do. -/
def Spares (bs : List Blk) (moved : Nat → Prop) (s t : State) : Prop :=
  (∀ k, ¬ moved k → t.link.lane k = s.link.lane k) ∧ t.without bs = s.without bs

theorem Spares.refl (bs : List Blk) (moved : Nat → Prop) (s : State) : Spares bs moved s s := ⟨fun _ _ => rfl, rfl⟩

theorem Spares.trans {bs : List Blk} {moved : Nat → Prop} {s t u : State} (h : Spares bs moved s t) (h' : Spares bs moved t u) :
    Spares bs moved s u :=
  ⟨fun k hk => (h'.1 k hk).trans (h.1 k hk), h'.2.trans h.2⟩

/-- A change of one part of the state that touches no lane. -/
theorem Spares.of_blank {bs : List Blk} {b : Blk} (moved : Nat → Prop) {s t : State} (hb : b ∈ bs) (hlanes : t.link.lanes = s.link.lanes)
    (hrest : t.blank b = s.blank b) : Spares bs moved s t :=
  ⟨fun k _ => by rw [Link.lane, Link.lane, hlanes], State.without_congr hb hrest⟩

section
variable {bs : List Blk} {moved : Nat → Prop} (hbs : ∀ b ∈ laneParts, b ∈ bs) (s : State)
include hbs

theorem Spares.modPort (p : PortId) (f : Port → Port) : Spares bs moved s (s.modPort p f) :=
  .of_blank (b := .link) moved (hbs _ (by decide)) rfl rfl

theorem Spares.emit (x : Sent) : Spares bs moved s (s.emit x) := .of_blank (b := .out) moved (hbs _ (by decide)) rfl rfl

theorem Spares.event (code : BitVec 16) (inst p0 p1 p2 p3 : Nat) : Spares bs moved s (s.event code inst p0 p1 p2 p3) :=
  .of_blank (b := .evr) moved (hbs _ (by decide)) rfl rfl

theorem Spares.tally (key : Nat) : Spares bs moved s (s.tally key) := .of_blank (b := .evr) moved (hbs _ (by decide)) rfl rfl

theorem Spares.modLane (n : Nat) (f : Lane → Lane) : Spares bs (· = n) s (s.modLane n f) :=
  ⟨fun k hk => s.modLane_lane_ne n k f hk, State.without_congr (b := .link) (hbs _ (by decide)) rfl⟩

/-- A lane's change of state touches no more than `laneParts`. -/
theorem State.setLane_without (n : Nat) (st : LaneSt) (cause : Nat) : (s.setLane n st cause).without bs = s.without bs := by
  have b := blind_without bs
  have h {c : Blk} (hc : c ∈ laneParts) : c ∈ bs := hbs c hc
  exact State.setLane_frame (State.without · bs) (b.fresh (h (by decide))) (b.out (h (by decide))) (b.link (h (by decide)))
    (b.port (h (by decide))) (b.lane (h (by decide))) (b.cqe (h (by decide))) (b.sess (h (by decide))) (b.dsc (h (by decide)))
    (b.wc (h (by decide))) (b.ftu (h (by decide))) (b.pxe (h (by decide))) (b.pxeAll (h (by decide))) (b.gov (h (by decide)))
    (b.cfg (h (by decide))) (b.evr (h (by decide))) (b.glb (h (by decide))) s n st cause

end

theorem State.setLane_self {s : State} {n : Nat} {st : LaneSt} (h : (s.link.lane n).st = st) (cause : Nat) : s.setLane n st cause = s :=
  if_pos h

/-- A lane that enters a state is in it. -/
theorem State.setLane_lane_st (s : State) (n : Nat) (st : LaneSt) (cause : Nat) : ((s.setLane n st cause).link.lane n).st = st := by
  by_cases h : (s.link.lane n).st = st
  · rw [State.setLane_self h, h]
  · rw [s.setLane_lane n st cause n h, if_pos rfl]
    rfl

theorem State.setLane_lane_ne (s : State) {n k : Nat} (hk : k ≠ n) (st : LaneSt) (cause : Nat) :
    (s.setLane n st cause).link.lane k = s.link.lane k := by
  by_cases h : (s.link.lane n).st = st
  · rw [State.setLane_self h]
  · rw [s.setLane_lane n st cause k h, if_neg hk]

theorem State.setLane_dt (s : State) (n : Nat) (st : LaneSt) (cause : Nat) : (s.setLane n st cause).dt = s.dt := by
  apply State.setLane_frame State.dt <;> first | exact fun _ _ => rfl | exact fun _ _ _ => rfl

theorem Spares.setLane {bs : List Blk} (hbs : ∀ b ∈ laneParts, b ∈ bs) (s : State) (n : Nat) (st : LaneSt) (cause : Nat) :
    Spares bs (· = n) s (s.setLane n st cause) :=
  ⟨fun _ hk => s.setLane_lane_ne hk st cause, State.setLane_without hbs s n st cause⟩

/-! ## Lanes that move one after another -/

/-- The lanes of a list whose states satisfy a condition, each taken to a state. -/
def State.moveLanes (s : State) (p : LaneSt → Prop) [DecidablePred p] (st : LaneSt) (cause : Nat) (ns : List Nat) : State :=
  ns.foldl (fun s n => if p (s.link.lane n).st then s.setLane n st cause else s) s

section
variable (p : LaneSt → Prop) [DecidablePred p] (st : LaneSt) (cause : Nat)

/-- A lane that is in the state stays in it. -/
theorem State.moveLanes_stays (s : State) (ns : List Nat) {k : Nat} (h : (s.link.lane k).st = st) :
    ((s.moveLanes p st cause ns).link.lane k).st = st := by
  induction ns generalizing s with
  | nil => exact h
  | cons n ns ih =>
    refine ih _ ?_
    dsimp only
    split
    · by_cases hk : k = n
      · rw [hk, State.setLane_lane_st]
      · rw [s.setLane_lane_ne hk, h]
    · exact h

/-- The lanes of the list whose states satisfy the condition are in the state. -/
theorem State.moveLanes_lane_st (s : State) (ns : List Nat) {k : Nat} (hk : k ∈ ns) (h : p (s.link.lane k).st) :
    ((s.moveLanes p st cause ns).link.lane k).st = st := by
  induction ns generalizing s with
  | nil => cases hk
  | cons n ns ih =>
    by_cases hn : k = n
    · subst hn
      refine State.moveLanes_stays p st cause _ ns ?_
      dsimp only
      rw [if_pos h, State.setLane_lane_st]
    · refine ih _ (List.mem_of_ne_of_mem hn hk) ?_
      dsimp only
      split
      · rwa [s.setLane_lane_ne hn]
      · exact h

/-- No other lane changes. -/
theorem State.moveLanes_spares {bs : List Blk} (hbs : ∀ b ∈ laneParts, b ∈ bs) (s : State) (ns : List Nat) :
    Spares bs (fun k => k ∈ ns ∧ p (s.link.lane k).st) s (s.moveLanes p st cause ns) := by
  induction ns generalizing s with
  | nil => exact .refl ..
  | cons n ns ih =>
    have hstep : Spares bs (fun k => k = n ∧ p (s.link.lane k).st) s (if p (s.link.lane n).st then s.setLane n st cause else s) := by
      split
      next hp => exact ⟨fun k hk => s.setLane_lane_ne (fun h => hk ⟨h, h ▸ hp⟩) st cause, State.setLane_without hbs s n st cause⟩
      next => exact .refl ..
    obtain ⟨hlanes, hrest⟩ := ih (if p (s.link.lane n).st then s.setLane n st cause else s)
    refine ⟨fun k hk => ?_, hrest.trans hstep.2⟩
    have hfirst := hstep.1 k fun h => hk ⟨h.1 ▸ List.mem_cons_self, h.2⟩
    exact (hlanes k fun h => hk ⟨List.mem_cons_of_mem n h.1, hfirst ▸ h.2⟩).trans hfirst

end

/-! ## A lane trains (R50) -/

/-- A command that takes one lane to a state, whatever it does to the lane's port before and after. -/
theorem LaneMove.of_spares {c : Instr} {s t : State} {n : Nat} {st : LaneSt} (hexec : exec c s = .next t) (hst : (t.link.lane n).st = st)
    (h : Spares laneParts (· = n) s t) : LaneMove c s n st :=
  ⟨t, hexec, hst, h.1, h.2⟩

theorem LaneMove.of_setLane {c : Instr} {s : State} {n : Nat} {st : LaneSt} {cause : Nat} (hexec : exec c s = .next (s.setLane n st cause)) :
    LaneMove c s n st :=
  .of_spares hexec (s.setLane_lane_st n st cause) (.setLane (fun _ => id) s n st cause)

/-- The polarity of a lane is no matter of its state. -/
theorem State.setLane_pol (s : State) (n : Nat) (st : LaneSt) (cause : Nat) : ((s.setLane n st cause).link.lane n).pol = (s.link.lane n).pol := by
  by_cases h : (s.link.lane n).st = st
  · rw [State.setLane_self h]
  · rw [s.setLane_lane n st cause n h, if_pos rfl]
    rfl

/-- A lane with its polarity, in PARAM, and the parameters sent where a port owns the lane (R37, R45). -/
theorem exec_lockComplete {s : State} {lane : Fin 144} (h : (s.link.lane lane.val).st = .lock) (inv : Bool) :
    ∃ t, exec (.lockComplete lane inv) s = .next t ∧ (t.link.lane lane.val).st = .param ∧ (t.link.lane lane.val).pol = inv ∧
      Spares laneParts (· = lane.val) s t := by
  let u := s.modLane lane.val fun l => { l with pol := inv }
  let v := u.setLane lane.val .param 3
  have hspares : Spares laneParts (· = lane.val) s v := (Spares.modLane (fun _ => id) s _ _).trans (.setLane (fun _ => id) u _ .param 3)
  have hpol : (v.link.lane lane.val).pol = inv := (u.setLane_pol ..).trans (by rw [State.modLane_lane])
  have hexec : exec (.lockComplete lane inv) s = .next (match v.link.laneOwner lane.val with
      | some p => v.emit (.lctlParam lane.val (advertised p)) | none => v) := if_neg (not_not_intro h)
  refine ⟨_, hexec, ?_⟩
  split
  · exact ⟨u.setLane_lane_st .., hpol, hspares.trans (.emit (fun _ => id) v _)⟩
  · exact ⟨u.setLane_lane_st .., hpol, hspares⟩

/-- The port's first credits are no lane's state, and no declaration. -/
theorem State.firstCredits_spares (s : State) (p : PortId) (x : LaneParams) (moved : Nat → Prop) :
    Spares laneParts moved s (s.firstCredits p x) := by
  unfold State.firstCredits
  split
  · exact .refl ..
  · exact .modPort (fun _ => id) s p _

/-- What a change of one port leaves of every port. -/
theorem State.modPort_port_view {α : Type} (v : Port → α) {f : Port → Port} (s : State) (p q : PortId) (hf : ∀ x, v (f x) = v x) :
    v ((s.modPort p f).link.port q) = v (s.link.port q) := by
  by_cases h : portNum q = portNum p
  · simp [State.modPort, State.modLink, Link.port, tgetD, h, hf]
  · simp [State.modPort, State.modLink, Link.port, tgetD, tget_tput_ne _ _ _ _ h]

theorem State.firstCredits_gcm (s : State) (p q : PortId) (x : LaneParams) :
    ((s.firstCredits p x).link.port q).gcm = (s.link.port q).gcm := by
  unfold State.firstCredits
  split
  · rfl
  · exact s.modPort_port_view Port.gcm p q fun _ => rfl

theorem State.firstCredits_laneHeld (s : State) (p : PortId) (x : LaneParams) (n : Nat) : (s.firstCredits p x).laneHeld n = s.laneHeld n := by
  unfold State.firstCredits
  split <;> rfl

/-- A trained lane comes into use, or is held in QUARANTINE. -/
theorem State.laneUp_lane_st (s : State) (n : Nat) : ((s.laneUp n).link.lane n).st = if s.laneHeld n then .quarantine else .active := by
  unfold State.laneUp State.laneHeld
  by_cases hmedia : 32 ≤ n ∧ n < 128
  · rw [if_pos hmedia]
    obtain ⟨h32, h128⟩ := hmedia
    by_cases hdecl : s.cfg.moduleDeclared (s.link.posOf n) = true
    · by_cases hq : (tgetD s.link.modules (s.link.posOf n) {}).quarantined = true <;> simp [h32, h128, hdecl, hq, State.setLane_lane_st]
    · simp [h32, h128, hdecl, State.setLane_lane_st]
  · rw [if_neg hmedia, State.setLane_lane_st]
    have : (decide (32 ≤ n) && decide (n < 128)) = false := by simpa using hmedia
    simp [this]

theorem State.laneUp_spares (s : State) (n : Nat) : Spares laneParts (· = n) s (s.laneUp n) := by
  have hset (u : State) (st : LaneSt) (cause : Nat) : Spares laneParts (· = n) u (u.setLane n st cause) := .setLane (fun _ => id) u n st cause
  unfold State.laneUp
  split
  · dsimp only
    split
    · exact (Spares.event (fun _ => id) s ..).trans (hset ..)
    · split <;> exact hset ..
  · exact hset ..

/-- Parameters that are accepted: SECURE where the port is encrypted, else the lane comes into use (R45, R50, R53). -/
theorem exec_paramComplete {s : State} {lane : Fin 144} {x : LaneParams} {q : PortId} (hown : s.link.laneOwner lane.val = some q)
    (hst : (s.link.lane lane.val).st = .param) (hok : s.paramOk q x = true) :
    exec (.paramComplete lane x) s = .next (if (s.link.port q).gcm then ((s.firstCredits q x).setLane lane.val .secure 3).emit (.lctlSecure q)
      else (s.firstCredits q x).laneUp lane.val) := by
  show execParamComplete lane x s = _
  unfold execParamComplete
  simp [hown, hst, hok, State.firstCredits_gcm]

theorem exec_paramComplete_refused {s : State} {lane : Fin 144} {x : LaneParams} {q : PortId} (hown : s.link.laneOwner lane.val = some q)
    (hst : (s.link.lane lane.val).st = .param) (hok : s.paramOk q x = false) :
    exec (.paramComplete lane x) s = .next (s.setLane lane.val .down 10) := by
  show execParamComplete lane x s = _
  unfold execParamComplete
  simp [hown, hst, hok]

theorem laneMove_paramComplete {s : State} {lane : Fin 144} {x : LaneParams} {q : PortId} (hown : s.link.laneOwner lane.val = some q)
    (hst : (s.link.lane lane.val).st = .param) (hok : s.paramOk q x = true) : LaneMove (.paramComplete lane x) s lane.val
      (if (s.link.port q).gcm then .secure else if s.laneHeld lane.val then .quarantine else .active) := by
  have hfirst := s.firstCredits_spares q x (· = lane.val)
  refine .of_spares (exec_paramComplete hown hst hok) ?_ ?_
  · split
    · exact State.setLane_lane_st ..
    · rw [State.laneUp_lane_st, State.firstCredits_laneHeld]
  · split
    · exact hfirst.trans ((Spares.setLane (fun _ => id) _ _ .secure 3).trans (.emit (fun _ => id) _ _))
    · exact hfirst.trans (State.laneUp_spares ..)

/-- A lane that is secured is ACTIVE under the port's keys (R53). -/
theorem laneMove_secureComplete {s : State} {lane : Fin 144} {q : PortId} (hown : s.link.laneOwner lane.val = some q)
    (hst : (s.link.lane lane.val).st = .secure) : LaneMove (.secureComplete lane) s lane.val .active := by
  let u := if (s.link.port q).keyed then s else s.modPort q fun x => { x with keyed := true, keyTx := 0, keyRx := 0, tagAt := [] }
  have hu : Spares laneParts (· = lane.val) s u := by
    dsimp only [u]
    split
    · exact .refl ..
    · exact .modPort (fun _ => id) s q _
  have hexec : exec (.secureComplete lane) s = .next ((u.setLane lane.val .active 3).modLane lane.val fun l => { l with enc := true }) := by
    show execSecureComplete lane s = _
    unfold execSecureComplete
    simp only [hown, hst]
    rfl
  refine .of_spares hexec ?_ (hu.trans ((Spares.setLane (fun _ => id) u _ .active 3).trans (.modLane (fun _ => id) _ _ _)))
  rw [State.modLane_lane]
  exact u.setLane_lane_st ..

/-- The lane map enables a lane, which leaves IDLE, or disables one, which goes back (R393). -/
theorem exec_laneEnabled {s : State} {lane : Fin 144} (hmap : s.link.mapRead = true) (hscan : s.dbg.scan = false)
    (hserved : s.laneServed lane.val = true) (hmapped : s.laneMapped lane.val = true) (hst : (s.link.lane lane.val).st = .idle) :
    exec (.laneEnabled lane true) s = .next ((s.modLane lane.val fun l => { l with enabled := true }).setLane lane.val .detect 1) := by
  show execLaneEnabled lane true s = _
  unfold execLaneEnabled
  simp [hmap, hscan, hserved, hmapped, hst]

theorem exec_laneDisabled {s : State} (lane : Fin 144) (hmap : s.link.mapRead = true) (hscan : s.dbg.scan = false) :
    exec (.laneEnabled lane false) s = .next ((s.modLane lane.val fun l => { l with enabled := false }).setLane lane.val .idle 1) := by
  show execLaneEnabled lane false s = _
  unfold execLaneEnabled
  simp [hmap, hscan]

/-- What the lane map does to a lane, and the state that it then enters. -/
theorem LaneMove.of_modLane_setLane {c : Instr} {s : State} {n : Nat} {f : Lane → Lane} {st : LaneSt} {cause : Nat}
    (hexec : exec c s = .next ((s.modLane n f).setLane n st cause)) : LaneMove c s n st :=
  .of_spares hexec (State.setLane_lane_st ..) ((Spares.modLane (fun _ => id) s n f).trans (.setLane (fun _ => id) _ n st cause))

/-- Settles O5: each command is the change of its one lane, with what its port makes of it. -/
theorem lanesTrainStateByState : Obligations.LanesTrainStateByState := by
  intro lane s
  refine ⟨fun h => .of_setLane (cause := 2) (congrArg _ (if_pos h)), fun h => .of_setLane (cause := 3) (congrArg _ (if_pos h)),
    fun inv h => ?lock, fun x q hown hst => ⟨fun hok => .of_setLane (exec_paramComplete_refused hown hst hok), fun hok hgcm => ?gcm,
    fun hok hgcm => ?plain⟩, fun q hown hst => laneMove_secureComplete hown hst, fun h => .of_setLane (cause := 3) (congrArg _ (if_pos h)),
    fun hmap hscan hserved hmapped hst => .of_modLane_setLane (exec_laneEnabled hmap hscan hserved hmapped hst),
    fun hmap hscan _ => .of_modLane_setLane (exec_laneDisabled lane hmap hscan)⟩
  case lock =>
    obtain ⟨t, hexec, hst, hpol, hspares⟩ := exec_lockComplete h inv
    exact ⟨.of_spares hexec hst hspares, t, hexec, hpol⟩
  case gcm => simpa [hgcm] using laneMove_paramComplete hown hst hok
  case plain => simpa [hgcm] using laneMove_paramComplete hown hst hok

/-! ## Timeouts (R50, R451) -/

/-- A timer of a lane is its moment, then the lane's change of state. -/
theorem LaneTimer.of_setLane {c : Instr} {s : State} {n ns : Nat} {st : LaneSt} {cause : Nat}
    (hexec : exec c s = .next ((s.advanceTo ((s.link.lane n).since + ns)).setLane n st cause)) : LaneTimer c s n ns st := by
  have hbs : ∀ b ∈ laneParts, b ∈ Blk.dt :: laneParts := fun _ => List.mem_cons_of_mem _
  exact ⟨_, hexec, State.setLane_lane_st .., State.setLane_dt .., fun k hk => State.setLane_lane_ne _ hk st cause,
    (State.setLane_without hbs ..).trans (State.without_congr (b := .dt) List.mem_cons_self rfl)⟩

theorem State.laneTimeout_of_st {s : State} {n : Nat} {st : LaneSt} (h : (s.link.lane n).st = st) (ns cause : Nat) :
    s.laneTimeout n st ns cause = (s.advanceTo ((s.link.lane n).since + ns)).setLane n .down cause := if_pos h

theorem exec_secureTimeout {s : State} {lane : Fin 144} {q : PortId} (hown : s.link.laneOwner lane.val = some q)
    (hst : (s.link.lane lane.val).st = .secure) : exec (.secureTimeout lane) s = .next (s.laneTimeout lane.val .secure (msNs 500) 4) := by
  show execSecureTimeout lane s = _
  unfold execSecureTimeout
  simp only [hown, hst]

theorem exec_downBackoffExpiry {s : State} {lane : Fin 144} (hst : (s.link.lane lane.val).st = .down)
    (hquad : ∀ q ∈ s.link.quadDown, q.1 ≠ lane.val / 4) : exec (.downBackoffExpiry lane) s =
      .next ((s.advanceTo ((s.link.lane lane.val).since + (s.link.lane lane.val).backoff)).setLane lane.val .detect 7) := by
  have hup : ¬ (s.link.quadDown.any fun q => q.1 == lane.val / 4) = true := by
    rw [List.any_eq_true]
    rintro ⟨q, hq, heq⟩
    exact hquad q hq (beq_iff_eq.mp heq)
  exact (if_neg (not_not_intro hst)).trans (congrArg _ (if_neg hup))

/-- Settles O6: each timeout is the moment of the lane's own state, then its change. -/
theorem laneTimeoutsTakeALaneDown : Obligations.LaneTimeoutsTakeALaneDown := by
  intro lane s
  have htimeout {st : LaneSt} (h : (s.link.lane lane.val).st = st) (ns cause : Nat) :=
    congrArg (Host.Outcome.next (φ := Fault) (ρ := Refusal)) (State.laneTimeout_of_st h ns cause)
  refine ⟨fun h => .of_setLane (htimeout h (msNs 20) 4), fun h => .of_setLane (htimeout h (msNs 1) 4),
    fun h => .of_setLane (htimeout h (msNs 2) 4), fun h hown => ?secure, fun h => .of_setLane (htimeout h (msNs 5) 6),
    fun h hquad => .of_setLane (exec_downBackoffExpiry h hquad)⟩
  case secure =>
    obtain ⟨q, hq⟩ := Option.isSome_iff_exists.mp hown
    exact .of_setLane ((exec_secureTimeout hq h).trans (htimeout h (msNs 500) 4))

/-! ## Retraining (R49) -/

/-- A port that is up retrains its ACTIVE lanes. -/
theorem State.retrainPort_up {s : State} {p : PortId} (hup : s.portUp p = true) (trigger : Nat) : ∃ u, Spares laneParts (fun _ => False) s u ∧
    s.retrainPort p trigger = u.moveLanes (· = .active) .retrain 5 (u.link.portLanes p) ∧ u.link.portLanes p = s.link.portLanes p := by
  let v := s.modPort p fun q => { q with retrain := some (trigger, s.dt), replayed := 0, tagAt := if trigger = 4 then [] else q.tagAt }
  let w := v.tally (0x100 + portNum p)
  let u := match p with | .media m => w.tally (0x600 + m.val) | _ => w
  have hw : Spares laneParts (fun _ => False) s w := (Spares.modPort (fun _ => id) s p _).trans (.tally (fun _ => id) v _)
  have hexec : s.retrainPort p trigger = u.moveLanes (· = .active) .retrain 5 (u.link.portLanes p) := if_neg (by simp [hup])
  refine ⟨u, ?_, hexec, ?_⟩
  · cases p with
    | media m => exact hw.trans (.tally (fun _ => id) w _)
    | host h => exact hw
    | peer => exact hw
  · cases p <;> rfl

/-- A trigger whose condition holds retrains the port. -/
theorem PortRetrains.of_retrainPort {c : Instr} {s : State} {p : PortId} {trigger : Nat} (hup : s.portUp p = true)
    (hexec : exec c s = .next (s.retrainPort p trigger)) : PortRetrains c s p := by
  obtain ⟨u, ⟨hlanes, hrest⟩, hretrain, hports⟩ := State.retrainPort_up hup trigger
  have hlane (n : Nat) : u.link.lane n = s.link.lane n := hlanes n id
  obtain ⟨hothers, hparts⟩ := u.moveLanes_spares (· = .active) .retrain 5 (bs := laneParts) (fun _ => id) (u.link.portLanes p)
  refine ⟨_, hexec, fun n hn hst => ?_, fun n hn => ?_, ?_⟩ <;> rw [hretrain]
  · exact u.moveLanes_lane_st (· = .active) .retrain 5 _ (hports ▸ hn) (by rw [hlane, hst])
  · exact (hothers n fun h => hn ⟨hports ▸ h.1, hlane n ▸ h.2⟩).trans (hlane n)
  · exact hparts.trans hrest

/-- Settles O7: each trigger whose condition holds retrains its port. That it retrains every ACTIVE lane of the port is the model's choice
(log entry 30). -/
theorem portsRetrainOnTheirTriggers : Obligations.PortsRetrainOnTheirTriggers := by
  intro p s hup
  refine ⟨fun h => .of_retrainPort (trigger := 1) hup (congrArg _ (if_pos h)), fun lane hown h => ?codewords, fun lane hown hst => ?lock,
    fun hkeyed h => .of_retrainPort (trigger := 4) hup (congrArg _ (if_pos ⟨hkeyed, h⟩))⟩
  case codewords =>
    refine .of_retrainPort (trigger := 2) hup ?_
    show execUncorrectableCodewordLimit lane s = _
    unfold execUncorrectableCodewordLimit
    simp only [hown, ge_iff_le, h, if_true]
  case lock =>
    refine .of_retrainPort (trigger := 3) hup ?_
    show execLockLossTimeout lane s = _
    unfold execLockLossTimeout
    simp only [hown, hst, if_true]

end Sys2Proof.Machine
end

section
/-! PROOF. MSG flits as they arrive (R39, R40, R44, R47), and the transmit side of a port: credits, acknowledgements, replay and new keys
(R44, R47, R48, R54). -/

namespace Sys2Proof.Machine

open Sys2Proof

/-! ## A flit that is taken -/

/-- What receiving has come to on a port: the next SEQ, the flits taken, whether a NAK is out. -/
def Port.receipt (q : Port) : Nat × List Nat × Bool := (q.rxSeq, q.rxTaken, q.naked)

theorem State.sayAck_receipt (s : State) (p q : PortId) : ((s.sayAck p).link.port q).receipt = (s.link.port q).receipt :=
  (s.emit _).modPort_port_view Port.receipt p q fun _ => rfl

theorem State.sayCredits_receipt (s : State) (p q : PortId) : ((s.sayCredits p).link.port q).receipt = (s.link.port q).receipt :=
  (s.emit _).modPort_port_view Port.receipt p q fun _ => rfl

theorem Port.violate_receipt (q : Port) (dt : Nat) : (q.violate dt).receipt = q.receipt := by
  unfold Port.violate
  split <;> rfl

/-- A container that is refused was received all the same (R64). -/
theorem State.refuseContainer_receipt (s : State) (h : Fin 16) (f : Flit) (q : PortId) :
    ((s.refuseContainer h f).link.port q).receipt = (s.link.port q).receipt := by
  unfold State.refuseContainer
  dsimp only
  split
  · exact State.modPort_port_view Port.receipt (State.event s ..) (.host h) q fun x => x.violate_receipt _
  · rfl

/-- A flit in order and with credit is taken: the next SEQ is expected, one more flit of its VC has come, no NAK is out. -/
theorem State.acceptFlit_receipt (s : State) (p : PortId) (f : Flit) : ((s.acceptFlit p f).link.port p).receipt =
    (((s.link.port p).rxSeq + 1) % 1024, lmod (s.link.port p).rxTaken f.vc.toNat (fun n => (n + 1) % 65536), false) := by
  unfold State.acceptFlit
  extract_lets vc u v q w
  have hu : (u.link.port p).receipt =
      (((s.link.port p).rxSeq + 1) % 1024, lmod (s.link.port p).rxTaken f.vc.toNat (fun n => (n + 1) % 65536), false) :=
    congrArg Port.receipt (s.modPort_port p _)
  have hv : (v.link.port p).receipt = (u.link.port p).receipt :=
    ite_frame (π := fun s => (s.link.port p).receipt) (u.sayAck_receipt p p) rfl
  have hw : (w.link.port p).receipt = (v.link.port p).receipt :=
    ite_frame (π := fun s => (s.link.port p).receipt) (v.sayCredits_receipt p p) rfl
  refine Eq.trans ?_ (hw.trans (hv.trans hu))
  clear_value w
  cases p with
  | host h => exact ite_frame (π := fun s => (s.link.port (.host h)).receipt) (w.refuseContainer_receipt h f (.host h)) rfl
  | peer => rfl
  | media m => rfl

section
variable {s : State} {p : PortId} {lane : Fin 144} {f : Flit} (hst : (s.link.lane lane.val).st = .active)
  (hown : s.link.laneOwner lane.val = some p)
include hst hown

/-- A flit that arrived whole, is well formed and acknowledges nothing is judged by its SEQ and the credit of its VC. -/
theorem exec_msgFlitReceived (hwhole : flitWhole f (s.link.port p).keyed = true) (htyp : f.typ = 1) (hrsv : f.rsv = 0) (hvc : f.vc.toNat ≤ 5)
    (hcarries : carries p f.vc.toNat = true) (hack : f.ackv = false) : exec (.msgFlitReceived p lane f) s = .next
      (let q := s.link.port p
       let behind := (q.rxSeq + 1024 - f.seq.toNat) % 1024
       if f.seq.toNat ≠ q.rxSeq then (if 0 < behind ∧ behind ≤ 511 then s.sayAck p else if q.naked then s else s.sayNak p)
       else if q.rxGranted.getD f.vc.toNat 0 = q.rxTaken.getD f.vc.toNat 0 then
         s.linkViolation p 0xFFFF 0x0904 0x0A04 0x0B04 (flitWord f)
       else s.acceptFlit p f) := by
  show execMsgFlitReceived p lane f s = _
  unfold execMsgFlitReceived
  have hvc' : ¬ f.vc.toNat > 5 := by omega
  simp only [hst, hown, hwhole, htyp, hrsv, hvc', hcarries, hack]
  simp [apply_ite Host.Outcome.next]

theorem exec_msgFlitReceived_damaged (hwhole : flitWhole f (s.link.port p).keyed = false) :
    exec (.msgFlitReceived p lane f) s = .next (s.badFlit p lane.val f) := by
  show execMsgFlitReceived p lane f s = _
  unfold execMsgFlitReceived
  simp [hst, hown, hwhole]

end

/-- What a NAK says of a port, and what was sent before it. -/
def State.nakView (p : PortId) (s : State) : List Sent × Nat × Bool := (s.out, (s.link.port p).rxSeq, (s.link.port p).naked)

/-- The NAK names the expected SEQ, which stays the one expected. -/
theorem State.sayNak_nakView (s : State) (p : PortId) :
    (s.sayNak p).nakView p = (.lctlNak p (s.link.port p).rxSeq :: s.out, (s.link.port p).rxSeq, true) := by
  unfold State.sayNak State.nakView
  rw [State.modPort_port]
  rfl

/-- A damaged flit is counted, and the port asks for the expected SEQ once. -/
theorem State.badFlit_nakView {s : State} {p : PortId} (hnaked : (s.link.port p).naked = false) (lane : Nat) (f : Flit) :
    (s.badFlit p lane f).nakView p = (.lctlNak p (s.link.port p).rxSeq :: s.out, (s.link.port p).rxSeq, true) := by
  unfold State.badFlit
  extract_lets u v
  have hu : u.nakView p = s.nakView p := ite_frame rfl rfl
  have hv : v.nakView p = u.nakView p := ite_frame (congrArg (fun q : Nat × Bool => (u.out, q))
    (u.modPort_port_view (fun q => (q.rxSeq, q.naked)) p p fun _ => rfl)) rfl
  obtain ⟨hout, hview⟩ := Prod.mk.inj (hv.trans hu)
  obtain ⟨hseq, hnak⟩ := Prod.mk.inj hview
  rw [hnaked] at hnak
  simp [hnak, State.sayNak_nakView, hout, hseq]

/-- Settles O8: a flit that is taken by what it leaves of its port, a damaged or early one by the NAK. -/
theorem flitsAreTakenInOrder : Obligations.FlitsAreTakenInOrder := by
  intro p lane f s hst hown
  refine ⟨fun hwhole htyp hrsv hvc hcarries hack hseq hcredit => ?taken, fun hwhole hnaked => ?damaged,
    fun hwhole htyp hrsv hvc hcarries hack hseq hbehind hnaked => ?ahead⟩
  case taken =>
    have b := blind_without [.out, .link, .cqe, .evr]
    have hexec := exec_msgFlitReceived hst hown hwhole htyp hrsv hvc hcarries hack
    dsimp only at hexec
    rw [if_neg (not_not_intro hseq), if_neg hcredit] at hexec
    obtain ⟨hrx, hreceipt⟩ := Prod.mk.inj (s.acceptFlit_receipt p f)
    obtain ⟨htaken, hnak⟩ := Prod.mk.inj hreceipt
    exact ⟨_, hexec, hrx, htaken, hnak, State.acceptFlit_frame _ (b.out (by decide)) (b.port (by decide)) (b.cqe (by decide))
      (b.sess (by decide)) (b.evr (by decide)) ..⟩
  case damaged =>
    have b := blind_without [.out, .link, .evr]
    obtain ⟨hout, hview⟩ := Prod.mk.inj (State.badFlit_nakView hnaked lane.val f)
    obtain ⟨hrx, hnak⟩ := Prod.mk.inj hview
    exact ⟨_, exec_msgFlitReceived_damaged hst hown hwhole, hout, hrx, hnak, State.badFlit_frame _ (b.out (by decide))
      (b.port (by decide)) (b.lane (by decide)) (b.evr (by decide)) ..⟩
  case ahead =>
    have b := blind_without [.out, .link]
    have hexec := exec_msgFlitReceived hst hown hwhole htyp hrsv hvc hcarries hack
    dsimp only at hexec
    rw [if_pos hseq, if_neg (fun h => absurd h.2 (by omega)), if_neg (by simp [hnaked])] at hexec
    obtain ⟨hout, hview⟩ := Prod.mk.inj (s.sayNak_nakView p)
    exact ⟨_, hexec, hout, (Prod.mk.inj hview).1, State.sayNak_frame _ (b.out (by decide)) (b.port (by decide)) ..⟩

/-! ## The transmitter -/

/-- Between two states a port sends: the flits that wait for their acknowledgement stay first, what was sent stays sent, and the far end's
credits are what they were. -/
def Sends (p : PortId) (s t : State) : Prop :=
  (s.link.port p).unacked <+: (t.link.port p).unacked ∧ s.out <:+ t.out ∧ (t.link.port p).granted = (s.link.port p).granted

theorem Sends.refl (p : PortId) (s : State) : Sends p s s := ⟨List.prefix_rfl, List.suffix_rfl, rfl⟩

theorem Sends.trans {p : PortId} {s t u : State} (h : Sends p s t) (h' : Sends p t u) : Sends p s u :=
  ⟨h.1.trans h'.1, h.2.1.trans h'.2.1, h'.2.2.trans h.2.2⟩

theorem sendFlits_unacked (q : Port) (vc : Nat) (it : TxItem) (k : Nat) : q.unacked <+: (sendFlits q vc it k).unacked := by
  induction k generalizing q with
  | zero => exact List.prefix_rfl
  | succ k ih =>
    rw [sendFlits]
    refine .trans ?_ (ih _)
    exact List.prefix_append ..

theorem sendFlits_granted (q : Port) (vc : Nat) (it : TxItem) (k : Nat) : (sendFlits q vc it k).granted = q.granted := by
  induction k generalizing q with
  | zero => rfl
  | succ k ih => exact ih _

theorem State.sendItem_sends (s : State) (p : PortId) (it : TxItem) : Sends p s (s.sendItem p it).2 := by
  unfold State.sendItem
  extract_lets k u
  have hu : Sends p s u := by
    dsimp only [u]
    split
    · exact .refl p s
    · refine ⟨?_, List.suffix_rfl, ?_⟩ <;> rw [State.modPort_port]
      · exact sendFlits_unacked ..
      · exact sendFlits_granted ..
  split
  · exact hu.trans ⟨List.prefix_rfl, List.suffix_cons .., rfl⟩
  · exact hu

theorem State.pumpList_sends (s : State) (p : PortId) (blocked : List Nat) (kept items : List TxItem) :
    Sends p s (s.pumpList p blocked kept items).2 := by
  induction items generalizing s blocked kept with
  | nil => exact .refl p s
  | cons it rest ih =>
    have hsend := s.sendItem_sends p it
    unfold State.pumpList
    split
    · exact ih ..
    · split <;> rename_i heq <;> rw [heq] at hsend <;> exact hsend.trans (ih ..)

theorem State.pump_without {bs : List Blk} (ho : .out ∈ bs) (hl : .link ∈ bs) (s : State) (p : PortId) : (s.pump p).without bs = s.without bs :=
  State.pump_frame (State.without · bs) ((blind_without bs).out ho) ((blind_without bs).port hl) s p

theorem State.pump_sends (s : State) (p : PortId) : Sends p s (s.pump p) := by
  refine (s.pumpList_sends p [] [] (s.link.port p).txq).trans ?_
  refine ⟨?_, List.suffix_rfl, ?_⟩ <;> unfold State.pump <;> rw [State.modPort_port]

/-! ## Acknowledgements, credits and replay -/

theorem State.endBlocked_link (s : State) (p : PortId) : (s.endBlocked p).link = s.link :=
  State.endBlocked_frame State.link (fun _ _ => rfl) s p

/-- An LCTL flit with credits and no acknowledgement (R44). -/
theorem exec_lctlFlitReceived {s : State} {p : PortId} {f : Lctl} (hok : f.ok = true) (hup : s.portUp p = true) (hack : f.ack = none)
    (hlen : f.credits.length = 6) (hidle : s.rcc.acting = none) : exec (.lctlFlitReceived p f) s =
      .next (((s.modPort p fun q => { q with granted := f.credits.map (·.toNat) }).pump p).endBlocked p) := by
  let u := s.modPort p fun q => { q with granted := f.credits.map (·.toNat) }
  have hrcc : ((u.pump p).endBlocked p).rcc = s.rcc :=
    (State.endBlocked_frame State.rcc (fun _ _ => rfl) ..).trans (State.pump_frame State.rcc (fun _ _ => rfl) (fun _ _ _ => rfl) u p)
  have hexec : exec (.lctlFlitReceived p f) s = .next (((u.pump p).endBlocked p).actSwrst) := by
    show execLctlFlitReceived p f s = _
    unfold execLctlFlitReceived
    simp [hok, hup, hack, hlen, u]
  rw [hexec, State.actSwrst_idle _ (by rw [hrcc, hidle])]

/-- Going back to a SEQ that waits for its acknowledgement: the replay is sent, and nothing leaves the buffer. -/
theorem State.replayFrom_waiting {s : State} {p : PortId} {u : Nat × TxItem} {us : List (Nat × TxItem)}
    (h : (s.link.port p).unacked = u :: us) : (s.replayFrom p u.1).out = .replay p u.1 (us.length + 1) :: s.out ∧
      ((s.replayFrom p u.1).link.port p).unacked = u :: us ∧ (s.replayFrom p u.1).dt = s.dt := by
  have hn : ((s.link.port p).unacked.dropWhile fun x => x.1 != u.1).length = us.length + 1 := by simp [h]
  have hexec : s.replayFrom p u.1 = ((s.emit (.replay p u.1 (us.length + 1))).modPort p fun q =>
      { q with replays := q.replays + 1, replayed := q.replayed + (us.length + 1), ackAt := s.dt }).tally (0x300 + portNum p) := by
    unfold State.replayFrom
    dsimp only
    rw [hn]
    exact if_neg (Nat.succ_ne_zero _)
  rw [hexec]
  refine ⟨rfl, ?_, rfl⟩
  rw [State.tally, State.modEvr_link, State.modPort_port, State.emit_link, h]

theorem State.replayFrom_without {bs : List Blk} (ho : .out ∈ bs) (hl : .link ∈ bs) (he : .evr ∈ bs) (s : State) (p : PortId) (seq : Nat) :
    (s.replayFrom p seq).without bs = s.without bs :=
  State.replayFrom_frame (State.without · bs) ((blind_without bs).out ho) ((blind_without bs).port hl) ((blind_without bs).evr he) s p seq

/-- A NAK acknowledges what is before its SEQ, and what is left is sent again. -/
theorem exec_nakReceived {s : State} {p : PortId} {seq : BitVec 10} (h : (s.link.port p).unacked.any (fun u => u.1 == seq.toNat) = true) :
    ∃ (v : State) (u : Nat × TxItem) (us : List (Nat × TxItem)), exec (.nakReceived p seq) s = .next ((v.replayFrom p seq.toNat).pump p) ∧
      (v.link.port p).unacked = u :: us ∧ u.1 = seq.toNat ∧ v.blank .link = s.blank .link := by
  obtain ⟨u, us, hdrop, hu⟩ : ∃ u us, (s.link.port p).unacked.dropWhile (fun u => u.1 != seq.toNat) = u :: us ∧ u.1 = seq.toNat := by
    cases hd : (s.link.port p).unacked.dropWhile fun u => u.1 != seq.toNat with
    | nil =>
      rw [List.dropWhile_eq_nil_iff] at hd
      obtain ⟨x, hx, heq⟩ := List.any_eq_true.mp h
      simpa [beq_iff_eq.mp heq] using hd x hx
    | cons u us =>
      have hhead := List.head?_dropWhile_not (fun u => u.1 != seq.toNat) (s.link.port p).unacked
      rw [hd] at hhead
      exact ⟨u, us, rfl, by simpa using hhead⟩
  refine ⟨s.modPort p _, u, us, if_neg (by simp [h]), ?_, hu, rfl⟩
  rw [State.modPort_port]
  exact hdrop

theorem exec_replayTimeout {s : State} {p : PortId} {u : Nat × TxItem} {us : List (Nat × TxItem)} (h : (s.link.port p).unacked = u :: us)
    (hup : s.portUp p = true) :
    exec (.replayTimeout p) s = .next ((s.advanceTo ((s.link.port p).ackAt + usNs 2)).replayFrom p u.1) := by
  show execReplayTimeout p s = _
  unfold execReplayTimeout
  simp [h, hup]

theorem exec_ackTimer {s : State} {p : PortId} {due : Nat} (h : (s.link.port p).ackDue = some due) :
    exec (.ackTimer p) s = .next ((s.advanceTo (due + 200)).sayAck p) := by
  show execAckTimer p s = _
  unfold execAckTimer
  rw [h]

/-- Settles O9: each command by what it sends and what it leaves of its port. -/
theorem creditsAcksAndReplays : Obligations.CreditsAcksAndReplays := by
  intro p s
  refine ⟨fun f hok hup hack hlen hidle => ?credits, fun seq h => ?nak, fun u us h hup => ?silence, fun hup => ?advertise,
    fun due hdue => ?ack, fun hkeyed hretrain hup hkeys => ?keys⟩
  case credits =>
    have b := blind_without [.out, .link, .cqe]
    let u := s.modPort p fun q => { q with granted := f.credits.map (·.toNat) }
    obtain ⟨-, -, hgranted⟩ := u.pump_sends p
    refine ⟨_, exec_lctlFlitReceived hok hup hack hlen hidle, ?_, ?_⟩
    · rw [State.endBlocked_link]
      exact hgranted.trans (congrArg Port.granted (s.modPort_port p _))
    · exact (State.endBlocked_frame _ (b.cqe (by decide)) ..).trans
        ((State.pump_without (by decide) (by decide) u p).trans (b.port (by decide) ..))
  case nak =>
    obtain ⟨v, u, us, hexec, hwaits, hu, hrest⟩ := exec_nakReceived h
    obtain ⟨hout, hkept, -⟩ := State.replayFrom_waiting hwaits
    obtain ⟨⟨l, hl⟩, hsuffix, -⟩ := (v.replayFrom p seq.toNat).pump_sends p
    refine ⟨_, hexec, ?_, ⟨us.length + 1, hsuffix.subset ?_⟩, ?_⟩
    · rw [← hl, ← hu, hkept]
      rfl
    · rw [← hu, hout]
      exact List.mem_cons_self
    · exact (State.pump_without (by decide) (by decide) ..).trans ((State.replayFrom_without (by decide) (by decide) (by decide) v p _).trans
        (State.without_congr (b := .link) (by decide) hrest))
  case silence =>
    have b := blind_without [.dt, .out, .link, .evr]
    obtain ⟨hout, hkept, hdt⟩ := State.replayFrom_waiting (s := s.advanceTo ((s.link.port p).ackAt + usNs 2)) h
    exact ⟨_, exec_replayTimeout h hup, hout, hdt, hkept,
      (State.replayFrom_without (by decide) (by decide) (by decide) ..).trans (b.dt (by decide) ..)⟩
  case advertise =>
    have b := blind_without [.dt, .out, .link]
    refine ⟨_, if_neg (by simp [hup]), rfl, rfl, ?_,
      (State.sayCredits_frame _ (b.out (by decide)) (b.port (by decide)) ..).trans (b.dt (by decide) ..)⟩
    exact congrArg Port.rxSaid ((State.emit _ _).modPort_port p _)
  case ack =>
    have b := blind_without [.dt, .out, .link]
    refine ⟨_, exec_ackTimer hdue, rfl, rfl, ?_, (State.sayAck_frame _ (b.out (by decide)) (b.port (by decide)) ..).trans (b.dt (by decide) ..)⟩
    exact congrArg Port.ackDue ((State.emit _ _).modPort_port p _)
  case keys =>
    have b := blind_without [.out, .link]
    have hdue : ¬ ((s.link.port p).keyTx < 2 ^ 32 ∧ (s.link.port p).keyRx < 2 ^ 32) := by omega
    have hexec : exec (.keyReplacement p) s = .next ((s.modPort p fun q => { q with retrain := some (5, s.dt), replayed := 0 }).emit
        (.lctlSecure p)) := if_neg (by simpa [hkeyed, hretrain, hup] using hdue)
    refine ⟨_, hexec, rfl, ?_, (b.out (by decide) ..).trans (b.port (by decide) ..)⟩
    rw [State.emit_link, State.modPort_port]

end Sys2Proof.Machine
end

section
/-! PROOF. The session handshake (R55, R56). -/

namespace Sys2Proof.Machine

open Sys2Proof

/-! ## Half-open sessions -/

/-- A half-open session that is discarded is there no more. -/
theorem Link.halfOf_dropHalf (l : Link) (port reqId : Nat) : (l.dropHalf port reqId).halfOf port reqId = none := by
  rw [Link.halfOf, Link.dropHalf, List.find?_eq_none]
  intro x hx heq
  obtain ⟨-, hne⟩ := List.mem_filter.mp hx
  rw [heq] at hne
  cases hne

/-- Of the link a message changes the ports alone. -/
theorem State.transmit_half (s : State) (p : PortId) (vc : Nat) (x : Sent) : (s.transmit p vc x).link.half = s.link.half :=
  State.transmit_frame (fun s => s.link.half) (fun _ _ => rfl) (fun _ _ _ => rfl) s p vc x

theorem State.transmit_evr (s : State) (p : PortId) (vc : Nat) (x : Sent) : (s.transmit p vc x).evr = s.evr :=
  State.transmit_frame State.evr (fun _ _ => rfl) (fun _ _ _ => rfl) s p vc x

theorem State.transmit_halfOf (s : State) (p : PortId) (vc : Nat) (x : Sent) (port reqId : Nat) :
    (s.transmit p vc x).link.halfOf port reqId = s.link.halfOf port reqId :=
  congrArg (List.find? _) (s.transmit_half p vc x)

/-- The state once a step of a handshake has ended its half-open session. -/
def State.halfDropped (s : State) (port : Fin 16) (reqId : BitVec 64) : State := s.modLink fun l => l.dropHalf port.val reqId.toNat

theorem State.halfDropped_halfOf (s : State) (port : Fin 16) (reqId : BitVec 64) :
    (s.halfDropped port reqId).link.halfOf port.val reqId.toNat = none := Link.halfOf_dropHalf ..

/-! ## The commands -/

section
variable {s : State} {port : Fin 16} {reqId : BitVec 64}

/-- The state with one more half-open session (R55). -/
def State.halfOpened (s : State) (port : Fin 16) (reqId : BitVec 64) (privilege : Nat) : State :=
  let x : HalfOpen := { port := port.val, reqId := reqId.toNat, startedAt := s.dt, lastAt := s.dt, privilege := privilege }
  s.modLink fun l => { l with half := l.half ++ [x] }

/-- A HELLO that is well formed, asks for a privilege and has no half-open session leaves one (R55). -/
theorem exec_hello {h : Hello} (hup : s.portUp (.host port) = true) (hwf : h.wellFormed = true) (hmin : 1 ≤ h.privilege.toNat)
    (hmax : h.privilege.toNat ≤ 3) (hnew : s.link.halfOf port.val reqId.toNat = none) : exec (.hello port reqId h) s =
      .next ((s.halfOpened port reqId h.privilege.toNat).transmit (.host port) 3 (.helloAck port.val reqId.toNat)) := by
  have hpriv : ¬ h.privilege.toNat = 0 ∧ ¬ h.privilege.toNat > 3 := by omega
  show execHello port reqId h s = _
  unfold execHello
  simp only [hup, hwf, hpriv, hnew]
  rfl

/-- The state once a session is open under a number, and recorded (R56). -/
def State.sessionOpened (s : State) (port : Fin 16) (n priv anchor : Nat) : State :=
  (s.modCqe fun c => { c with sessions := tput c.sessions n { port := port.val, privilege := priv, anchor := anchor, lastAt := s.dt } }).event
    0x090B n n port.val priv anchor

variable {f : Finish} {h : HalfOpen} (hhalf : s.link.halfOf port.val reqId.toNat = some h)
include hhalf

/-- A FINISH that is authorised opens the lowest free session. -/
theorem exec_finish_opened {priv anchor n : Nat} (hwf : f.wellFormed = true)
    (hjudge : s.judgeFinish f h.privilege = (0, some (priv, anchor))) (hfree : s.cqe.freeSession = some n) :
    exec (.finish port reqId f) s = .next (((s.halfDropped port reqId).sessionOpened port n priv anchor).transmit (.host port) 3
      (.sessionOpen port.val reqId.toNat 0 n priv)) := by
  have hjudge' : (s.modLink fun l => l.dropHalf port.val reqId.toNat).judgeFinish f h.privilege = (0, some (priv, anchor)) := hjudge
  show execFinish port reqId f s = _
  unfold execFinish
  simp only [hhalf, hwf, hjudge', State.modLink_cqe, hfree]
  rfl

/-- A FINISH that is refused is recorded and answered with the lowest result that applies. -/
theorem exec_finish_refused {r : Nat} {g : Option (Nat × Nat)} (hwf : f.wellFormed = true)
    (hjudge : s.judgeFinish f h.privilege = (r + 1, g)) : exec (.finish port reqId f) s =
      .next (((s.halfDropped port reqId).event 0x090C port.val port.val (r + 1) 0 0).transmit (.host port) 3
        (.sessionOpen port.val reqId.toNat (r + 1) 0 0)) := by
  have hjudge' : (s.modLink fun l => l.dropHalf port.val reqId.toNat).judgeFinish f h.privilege = (r + 1, g) := hjudge
  show execFinish port reqId f s = _
  unfold execFinish
  simp only [hhalf, hwf, hjudge']
  rfl

theorem exec_handshakeTimeout : exec (.handshakeTimeout port reqId) s =
    .next (((s.advanceTo (min (h.lastAt + msNs 100) (h.startedAt + msNs 500))).halfDropped port reqId).hostViolation port 0x090A 0xFFFF 0xFFFF) := by
  show execHandshakeTimeout port reqId s = _
  unfold execHandshakeTimeout
  rw [hhalf]
  rfl

end

/-- Settles O10: HELLO, FINISH and the timeout by the half-open session, the session and the answer that each leaves. That the lowest free
number is opened is the model's choice (log entry 29). -/
theorem handshakesOpenSessions : Obligations.HandshakesOpenSessions := by
  intro port reqId s
  refine ⟨fun h hup hwf hmin hmax hnew => ?hello, fun f h priv anchor n hhalf hwf hjudge hfree => ?opened,
    fun f h r g hhalf hwf hjudge => ?refused, fun h hhalf => ?timeout⟩
  case hello =>
    have b := blind_without [.out, .link]
    exact ⟨_, exec_hello hup hwf hmin hmax hnew, State.transmit_half .., State.transmit_gives s (s.halfOpened ..) rfl rfl ..,
      (State.transmit_without (by decide) (by decide) ..).trans (b.linkAll (by decide) ..)⟩
  case opened =>
    have b := blind_without [.out, .link, .cqe, .evr]
    refine ⟨_, exec_finish_opened hhalf hwf hjudge hfree, ?_, ?_, State.transmit_evr ..,
      State.transmit_gives s ((s.halfDropped port reqId).sessionOpened ..) rfl rfl ..,
      (State.transmit_without (by decide) (by decide) ..).trans ((State.event_frame _ (b.evr (by decide)) ..).trans
        ((b.cqe (by decide) ..).trans (b.linkAll (by decide) ..)))⟩
    · rw [State.transmit_cqe]
      exact tget_tput_self ..
    · rw [State.transmit_halfOf]
      exact s.halfDropped_halfOf port reqId
  case refused =>
    refine ⟨_, exec_finish_refused hhalf hwf hjudge, State.transmit_cqe .., ?_, State.transmit_evr ..,
      State.transmit_gives s ((s.halfDropped port reqId).event ..) rfl rfl ..⟩
    rw [State.transmit_halfOf]
    exact s.halfDropped_halfOf port reqId
  case timeout =>
    have b := blind_without [.dt, .fresh, .link, .evr]
    let u := s.advanceTo (min (h.lastAt + msNs 100) (h.startedAt + msNs 500))
    have hkeeps {α : Type} (π : State → α) (hf : KeepsFresh π) (hp : KeepsPort π) (he : KeepsEvr π) :
        π ((u.halfDropped port reqId).hostViolation port 0x090A 0xFFFF 0xFFFF) = π (u.halfDropped port reqId) :=
      State.hostViolation_frame π hf hp he ..
    refine ⟨_, exec_handshakeTimeout hhalf, ?_, ?_, (hkeeps _ (b.fresh (by decide)) (b.port (by decide)) (b.evr (by decide))).trans
      ((b.linkAll (by decide) ..).trans (b.dt (by decide) ..))⟩
    · exact (hkeeps (fun s => s.link.halfOf port.val reqId.toNat) (fun _ _ => rfl) (fun _ _ _ => rfl) (fun _ _ => rfl)).trans
        (u.halfDropped_halfOf port reqId)
    · exact hkeeps State.dt (fun _ _ => rfl) (fun _ _ _ => rfl) (fun _ _ => rfl)

end Sys2Proof.Machine
end

section
/-! PROOF. Quarantine (R65, R71, R99): sessions that are placed in it or lifted out, module links, ports above their limit. -/

namespace Sys2Proof.Machine

open Sys2Proof

/-! ## What notices and answers leave of a session -/

theorem tget_map {α β : Type} (t : Tbl α) (f : α → β) (n : Nat) : tget (t.map fun p => (p.1, f p.2)) n = (tget t n).map f := by
  induction t with
  | nil => rfl
  | cons p t ih =>
    obtain ⟨k, v⟩ := p
    rw [List.map_cons, tget, tget, ih]
    split <;> rfl

/-- A change of one session leaves of every session what it leaves of that one. -/
theorem State.modSession_view {α : Type} (v : Session → α) {f : Session → Session} (s : State) (m n : Nat)
    (hf : ∀ x, v (f x) = v x) :
    (tget (s.modSession m f).cqe.sessions n).map v = (tget s.cqe.sessions n).map v := by
  show (tget (tmod s.cqe.sessions m f) n).map v = _
  by_cases h : n = m
  · subst h
    rw [tget_tmod_self]
    cases tget s.cqe.sessions n with
    | none => rfl
    | some x => exact congrArg some (hf x)
  · rw [tget_tmod_ne _ _ _ _ h]

/-- An answer leaves of every session all but its pending requests. -/
theorem State.answer_session_view {α : Type} (v : Session → α) (s : State) (m : Vc3) (typ status : Nat) (body : Bytes) (n : Nat)
    (hv : ∀ x reqs, v { x with pendingReq := reqs } = v x) :
    (tget (s.answer m typ status body).cqe.sessions n).map v = (tget s.cqe.sessions n).map v := by
  rw [State.answer_cqe]
  exact s.modSession_view v _ n fun x => hv x _

/-- A session's quarantine, with the violations of its window. -/
def Session.standing (x : Session) : Bool × Nat × Nat := (x.quarantined, x.quarAt, x.violCount)

theorem Session.notify_standing (x : Session) (dt epoch ntype : Nat) (body : Bytes) : (x.notify dt epoch ntype body).standing = x.standing := by
  unfold Session.notify
  split
  · rfl
  · dsimp only
    split <;> rfl

theorem State.notifyAll_session (s : State) (ntype : Nat) (body : Bytes) (n : Nat) :
    tget (s.notifyAll ntype body).cqe.sessions n = (tget s.cqe.sessions n).map fun x => x.notify s.dt s.cfg.epoch ntype body :=
  tget_map s.cqe.sessions (fun x => x.notify s.dt s.cfg.epoch ntype body) n

theorem State.quarantineNotice_standing (s : State) (kind action target n : Nat) :
    (tget (s.quarantineNotice kind action target).cqe.sessions n).map Session.standing = (tget s.cqe.sessions n).map Session.standing := by
  rw [State.quarantineNotice, State.notifyAll_session, Option.map_map]
  exact congrArg (Option.map · _) (funext fun x => x.notify_standing ..)

/-- Noting a request leaves of every session all but the moment of its last message. -/
theorem State.heard_other {s : State} {n : Nat} {y : Session} (m : Vc3) (hy : tget s.cqe.sessions n = some y) :
    ∃ at_, tget (s.heard m).cqe.sessions n = some { y with lastAt := at_ } := by
  by_cases h : n = m.sess.toNat
  · subst h
    exact ⟨s.dt, (tget_tmod_self ..).trans (congrArg (Option.map _) hy)⟩
  · exact ⟨y.lastAt, (tget_tmod_ne _ _ _ _ h).trans hy⟩

/-! ## Sessions -/

/-- A session in quarantine from now on, and recorded (R99; log entry 86). -/
def State.sessionPlaced (s : State) (n : Nat) (x : Session) : State :=
  (s.event 0x0C04 n n x.port (if x.violWin = secOf s.dt then x.violCount else 0) x.lastViol).modSession n fun x =>
    { x with quarantined := true, quarAt := s.dt }

/-- A session out of quarantine, its window empty, and recorded (R71). -/
def State.sessionLifted (s : State) (n lifter : Nat) : State :=
  (s.event 0x0C05 n n lifter 0 0).modSession n fun x => { x with quarantined := false, violCount := 0, warned := false }

theorem State.quarantineSession_open {s : State} {n : Nat} {x : Session} (hx : tget s.cqe.sessions n = some x) (hq : x.quarantined = false)
    (hopen : x.closing = none) : s.quarantineSession n = (s.sessionPlaced n x).quarantineNotice 1 1 n := by
  unfold State.quarantineSession
  rw [hx]
  exact if_neg (by simp [hq, hopen])

theorem State.liftSession_quarantined {s : State} {n : Nat} {x : Session} (hx : tget s.cqe.sessions n = some x) (hq : x.quarantined = true)
    (lifter : Nat) : s.liftSession n lifter = (s.sessionLifted n lifter).quarantineNotice 1 0 n := by
  unfold State.liftSession
  rw [hx]
  exact if_neg (by simp [hq])

theorem State.sessionPlaced_standing {s : State} {n : Nat} {x : Session} (hx : tget s.cqe.sessions n = some x) :
    (tget (s.sessionPlaced n x).cqe.sessions n).map Session.standing = some (true, s.dt, x.violCount) :=
  congrArg (Option.map _) ((tget_tmod_self ..).trans (congrArg (Option.map _) hx))

theorem State.sessionLifted_standing {s : State} {n : Nat} {x : Session} (hx : tget s.cqe.sessions n = some x) (lifter : Nat) :
    (tget (s.sessionLifted n lifter).cqe.sessions n).map Session.standing = some (false, x.quarAt, 0) :=
  congrArg (Option.map _) ((tget_tmod_self ..).trans (congrArg (Option.map _) hx))

/-- What a session's standing says of it. -/
theorem standing_map {α : Type} {o : Option Session} {q : Bool} {at_ count : Nat} (h : o.map Session.standing = some (q, at_, count))
    (v : Bool × Nat × Nat → α) : o.map (fun x => v x.standing) = some (v (q, at_, count)) := by
  simpa using congrArg (Option.map v) h

/-- QUARANTINE_SET of an open session, once noted, acts and is answered. -/
theorem exec_quarantineSet {s : State} {m : Vc3} {target : BitVec 16} {x y : Session} (h : s.accepts m 0x50 false 2 x)
    (hy : tget (s.heard m).cqe.sessions target.toNat = some y) (hopen : y.closing = none) :
    exec (.quarantineSet m 1 1 target) s = .next (((s.heard m).quarantineSession target.toNat).answer m 0x50 stSuccess []) := by
  have hgood : (s.heard m).sessionOpen target.toNat = true := by simp [State.sessionOpen, hy, hopen]
  show Host.Outcome.next (s.quarantineReq m 1 1 target.toNat) = _
  unfold State.quarantineReq
  rw [s.vc3_accepts m _ _ _ _ x h]
  simp [hgood]

theorem exec_quarantineLift {s : State} {m : Vc3} {target : BitVec 16} {x y : Session} (h : s.accepts m 0x50 false 2 x)
    (hy : tget (s.heard m).cqe.sessions target.toNat = some y) (hopen : y.closing = none) (hne : target ≠ m.sess) :
    exec (.quarantineLift m 1 target) s =
      .next (((s.heard m).liftSession target.toNat m.sess.toNat).answer m 0x50 stSuccess []) := by
  have hgood : (s.heard m).sessionOpen target.toNat = true := by simp [State.sessionOpen, hy, hopen]
  have hne' : ¬ target.toNat = m.sess.toNat := fun heq => hne (BitVec.eq_of_toNat_eq heq)
  show Host.Outcome.next (s.quarantineReq m 1 0 target.toNat) = _
  unfold State.quarantineReq
  rw [s.vc3_accepts m _ _ _ _ x h]
  simp [hgood, hne']

section
variable {bs : List Blk} (hc : .cqe ∈ bs) (he : .evr ∈ bs) (s : State) (n : Nat)
include hc he

/-- Placing a session in quarantine touches the sessions and the log alone. -/
theorem State.sessionPlaced_without (x : Session) : ((s.sessionPlaced n x).quarantineNotice 1 1 n).without bs = s.without bs :=
  have b := blind_without bs
  (State.quarantineNotice_frame _ (b.cqe hc) ..).trans ((b.sess hc ..).trans (State.event_frame _ (b.evr he) ..))

theorem State.sessionLifted_without (lifter : Nat) : ((s.sessionLifted n lifter).quarantineNotice 1 0 n).without bs = s.without bs :=
  have b := blind_without bs
  (State.quarantineNotice_frame _ (b.cqe hc) ..).trans ((b.sess hc ..).trans (State.event_frame _ (b.evr he) ..))

end

theorem exec_sessionQuarantined {s : State} {n : Fin 4096} {x : Session} (hx : tget s.cqe.sessions n.val = some x) (h : 64 < x.violCount) :
    exec (.sessionQuarantined n) s = .next (s.quarantineSession n.val) := by
  show execSessionQuarantined n s = _
  unfold execSessionQuarantined
  rw [hx]
  exact congrArg _ (if_pos h)

/-- The notice that warns a session which has it enabled and room for it (R99). -/
theorem Session.notify_queued {x : Session} (hopen : x.closing = none) (hmask : x.mask.getLsbD 1 = true) (hroom : x.notices.length < 256)
    (dt epoch : Nat) (body : Bytes) : x.notify dt epoch 1 body =
      { x with nseq := x.nseq + 1, notices := x.notices ++ [⟨1, x.nseq, dt, epoch, body⟩] } := by
  unfold Session.notify
  rw [if_neg (by simp [hopen, hmask])]
  exact if_neg (Nat.not_le.mpr hroom)

theorem exec_violationWarning {s : State} {n : Fin 4096} {x : Session} (hx : tget s.cqe.sessions n.val = some x) (h : 32 < x.violCount)
    (hwarned : x.warned = false) : exec (.violationWarning n) s = .next (s.modSession n.val fun x =>
      { (x.notify s.dt s.cfg.epoch 1 (leBytes 4 x.violCount)) with warned := true }) := by
  show execViolationWarning n s = _
  unfold execViolationWarning
  rw [hx]
  exact if_neg (by simp [hwarned, h])

/-! ## Ports and module links -/

/-- A port above its limit takes its lanes DOWN, those that are not IDLE (R65). -/
theorem exec_portViolationLimit {s : State} {port : Fin 16} (h : 256 < (s.link.port (.host port)).violCount) :
    exec (.portViolationLimit port) s = .next ((s.modPort (.host port) fun q => { q with violCount := 0 }).moveLanes (· ≠ .idle) .down 9
      (s.link.portLanes (.host port))) := by
  refine (if_neg (Nat.not_le.mpr h)).trans ?_
  simp only [State.moveLanes, ne_eq, ite_not]
  rfl

/-- A module link that is quarantined, its member gone, before its lane is held (R65). -/
def State.linkHeld (s : State) (pos : Nat) : State :=
  let q := s.link.port (mediaPort pos)
  ((s.event 0x0B03 pos pos 1 (if q.violWin = secOf s.dt then q.violCount else 0) 0).setModuleQuarantine pos true).memberLeaves pos

theorem State.quarantineModule_free {s : State} {pos : Nat} (h : (tgetD s.link.modules pos {}).quarantined = false) :
    s.quarantineModule pos = ((s.linkHeld pos).moveLanes (· = .active) .quarantine 8
      ((s.linkHeld pos).link.portLanes (mediaPort pos))).quarantineNotice 2 1 pos :=
  if_neg (by simp [h])

/-- A member that leaves takes no lane with it. -/
theorem State.linkHeld_lane (s : State) (pos k : Nat) : (s.linkHeld pos).link.lane k = s.link.lane k := by
  apply State.memberLeaves_frame (fun s => s.link.lane k) <;> first | exact fun _ _ => rfl | exact fun _ _ _ => rfl

theorem State.linkHeld_portLanes (s : State) (pos : Nat) (p : PortId) : (s.linkHeld pos).link.portLanes p = s.link.portLanes p := by
  apply State.memberLeaves_frame (fun s => s.link.portLanes p) <;> first | exact fun _ _ => rfl | exact fun _ _ _ => rfl

theorem State.quarantineModule_without (s : State) (pos : Nat) :
    (s.quarantineModule pos).without (.dxu :: laneParts) = s.without (.dxu :: laneParts) := by
  have b := blind_without (.dxu :: laneParts)
  exact State.quarantineModule_frame _ (b.fresh (by decide)) (b.out (by decide)) (b.link (by decide)) (b.port (by decide)) (b.lane (by decide))
    (b.cqe (by decide)) (b.sess (by decide)) (b.dsc (by decide)) (b.wc (by decide)) (b.dxu (by decide)) (b.ftu (by decide)) (b.pxe (by decide))
    (b.pxeAll (by decide)) (b.gov (by decide)) (b.cfg (by decide)) (b.evr (by decide)) (b.glb (by decide)) s pos

theorem State.quarantineNotice_link (s : State) (kind action target : Nat) : (s.quarantineNotice kind action target).link = s.link := rfl

/-- Settles O14: sessions by their standing, ports and module links by the lanes that move. That QUARANTINE_SET records 0x0C04 is the model's
choice (log entry 86). -/
theorem quarantineIsSetAndLifted : Obligations.QuarantineIsSetAndLifted := by
  intro s
  refine ⟨fun m target x y h hy hopen hq => ?set, fun m target x y h hy hopen hq hne => ?lift,
    fun n x hx hopen hq => ⟨fun hmany => ?unasked, fun hmany hwarned hmask hroom => ?warned⟩, fun port hmany => ?port,
    fun pos hmany hfree => ?module⟩
  case set =>
    obtain ⟨at_, hy'⟩ := s.heard_other m hy
    have hplaced := State.quarantineSession_open hy' hq hopen
    refine ⟨_, exec_quarantineSet h hy' hopen, ?_, ?_, ?_, ?_⟩ <;> rw [hplaced]
    · rw [State.answer_session_view (fun z => (z.quarantined, z.quarAt)) (hv := fun _ _ => rfl)]
      exact standing_map ((State.quarantineNotice_standing ..).trans (State.sessionPlaced_standing hy')) fun z => (z.1, z.2.1)
    · exact State.answer_evr ..
    · exact s.answer_answers (((s.heard m).sessionPlaced _ _).quarantineNotice ..) rfl rfl m 0x50 stSuccess []
    · exact (State.answer_without (fun _ => id) ..).trans ((State.sessionPlaced_without (by decide) (by decide) ..).trans
        (State.heard_without (fun _ => id) s m))
  case lift =>
    obtain ⟨at_, hy'⟩ := s.heard_other m hy
    have hlifted := State.liftSession_quarantined hy' hq m.sess.toNat
    refine ⟨_, exec_quarantineLift h hy' hopen hne, ?_, ?_, ?_, ?_⟩ <;> rw [hlifted]
    · rw [State.answer_session_view (fun z => (z.quarantined, z.violCount)) (hv := fun _ _ => rfl)]
      exact standing_map ((State.quarantineNotice_standing ..).trans (State.sessionLifted_standing hy' _)) fun z => (z.1, z.2.2)
    · exact State.answer_evr ..
    · exact s.answer_answers (((s.heard m).sessionLifted ..).quarantineNotice ..) rfl rfl m 0x50 stSuccess []
    · exact (State.answer_without (fun _ => id) ..).trans ((State.sessionLifted_without (by decide) (by decide) ..).trans
        (State.heard_without (fun _ => id) s m))
  case unasked =>
    refine ⟨_, exec_sessionQuarantined hx hmany, ?_, ?_⟩ <;> rw [State.quarantineSession_open hx hq hopen]
    · exact standing_map ((State.quarantineNotice_standing ..).trans (State.sessionPlaced_standing hx)) fun z => (z.1, z.2.1)
    · exact State.sessionPlaced_without (by decide) (by decide) ..
  case warned =>
    refine ⟨_, exec_violationWarning hx hmany hwarned, ?_, fun k hk => tget_tmod_ne _ _ _ _ hk, rfl⟩
    refine (tget_tmod_self ..).trans ?_
    rw [hx, Option.map_some, Session.notify_queued hopen hmask hroom]
  case port =>
    let u := s.modPort (.host port) fun q => { q with violCount := 0 }
    obtain ⟨hothers, hrest⟩ := u.moveLanes_spares (· ≠ .idle) .down 9 (bs := laneParts) (fun _ => id) (s.link.portLanes (.host port))
    exact ⟨_, exec_portViolationLimit hmany, fun n hn hst => u.moveLanes_lane_st (· ≠ .idle) .down 9 _ hn hst,
      fun n hn => hothers n fun h => hn h.1, hrest⟩
  case module =>
    have hexec : exec (.moduleLinkQuarantine pos) s = .next (s.quarantineModule pos.val) := congrArg _ (if_pos hmany)
    have hports := s.linkHeld_portLanes pos.val (mediaPort pos.val)
    obtain ⟨hothers, -⟩ := (s.linkHeld pos.val).moveLanes_spares (· = .active) .quarantine 8 (bs := laneParts) (fun _ => id)
      ((s.linkHeld pos.val).link.portLanes (mediaPort pos.val))
    refine ⟨_, hexec, fun n hn hst => ?_, fun n hn => ?_, State.quarantineModule_without ..⟩ <;>
      rw [State.quarantineModule_free hfree, State.quarantineNotice_link]
    · exact State.moveLanes_lane_st (· = .active) .quarantine 8 _ _ (hports ▸ hn) (by rw [State.linkHeld_lane, hst])
    · exact (hothers n fun h => hn (hports ▸ h.1)).trans (s.linkHeld_lane ..)

end Sys2Proof.Machine
end

section
/-! PROOF. The RETRAINS field of a lane's register (R6, R66). -/

namespace Sys2Proof.Machine

open Sys2Proof

/-- The offset of a lane's register: host lanes 0 to 31, media lanes 32 to 127, peer lanes 128 to 143 (R66). -/
def laneReg (n : Nat) : Nat :=
  if n < 32 then 0x101000 + 4 * n else if n < 128 then 0x301000 + 4 * (n - 32) else 0x201000 + 4 * (n - 128)

/-- The lane with the bits of RETRAINS cleared that a written word holds as 1. -/
def Lane.clearRetrains (v : Nat) (l : Lane) : Lane :=
  { l with retrains := (BitVec.ofNat 8 l.retrains &&& ~~~ (BitVec.ofNat 8 (bits v 23 16))).toNat }

/-! ## The registers -/

/-- An array of registers holds its own. -/
theorem arr_at {base count i : Nat} (h : i < count) : arr (base + 4 * i) base 4 count = some i := by
  have hin : base ≤ base + 4 * i ∧ base + 4 * i < base + 4 * count ∧ (base + 4 * i - base) % 4 = 0 := by omega
  unfold arr
  rw [if_pos hin]
  congr 1
  omega

/-- The lanes' registers lie in three arrays. -/
theorem laneReg_cases {n : Nat} (h : n < 144) : (∃ i, i < 32 ∧ n = i ∧ laneReg n = 0x101000 + 4 * i) ∨
    (∃ i, i < 96 ∧ n = 32 + i ∧ laneReg n = 0x301000 + 4 * i) ∨ ∃ i, i < 16 ∧ n = 128 + i ∧ laneReg n = 0x201000 + 4 * i := by
  by_cases h32 : n < 32
  · exact .inl ⟨n, h32, rfl, if_pos h32⟩
  · by_cases h128 : n < 128
    · exact .inr (.inl ⟨n - 32, by omega, by omega, (if_neg h32).trans (if_pos h128)⟩)
    · exact .inr (.inr ⟨n - 128, by omega, by omega, (if_neg h32).trans (if_neg h128)⟩)

theorem State.regAt_laneReg (s : State) {n : Nat} (h : n < 144) : (s.regAt 0 (laneReg n)).isSome = true := by
  obtain ⟨i, hi, -, hreg⟩ | ⟨i, hi, -, hreg⟩ | ⟨i, hi, -, hreg⟩ := laneReg_cases h <;> rw [hreg] <;> unfold State.regAt <;> extract_lets lanes
  · iterate 10 rw [if_neg (by omega)]
    rw [if_pos (by omega)]
    simp only [lanes, arr_at hi]
    rfl
  · iterate 12 rw [if_neg (by omega)]
    rw [if_pos (by omega)]
    simp only [lanes, arr_at hi]
    rfl
  · iterate 11 rw [if_neg (by omega)]
    rw [if_pos (by omega)]
    simp only [lanes, arr_at hi]
    rfl

/-- A write of a lane's register acts on its lane alone. -/
theorem State.writeReg_laneReg (s : State) (sess v : Nat) {n : Nat} (h : n < 144) :
    s.writeReg sess (laneReg n) v = s.modLane n (Lane.clearRetrains v) := by
  obtain ⟨i, hi, hn, hreg⟩ | ⟨i, hi, hn, hreg⟩ | ⟨i, hi, hn, hreg⟩ := laneReg_cases h <;> rw [hreg, hn] <;> unfold State.writeReg
  · split
    case h_32 =>
      extract_lets retrains
      rw [if_neg (by omega), if_neg (by omega), if_pos (by omega), arr_at hi]
      rfl
    all_goals omega
  · split
    case h_32 =>
      extract_lets retrains
      rw [if_neg (by omega), if_neg (by omega), if_neg (by omega), if_neg (by omega), if_pos (by omega), arr_at hi]
      rfl
    all_goals omega
  · split
    case h_32 =>
      extract_lets retrains
      rw [if_neg (by omega), if_neg (by omega), if_neg (by omega), if_pos (by omega), arr_at hi]
      rfl
    all_goals omega

/-- Its offset is one of a register word, and needs an Operator (R67). -/
theorem laneReg_privilege {n : Nat} (h : n < 144) : writePrivilege (laneReg n) = 2 ∧ laneReg n % 4 = 0 ∧ laneReg n < 0x400000 := by
  have hrange : 0x101000 ≤ laneReg n ∧ laneReg n % 4 = 0 ∧ laneReg n < 0x400000 := by
    obtain ⟨i, hi, -, hreg⟩ | ⟨i, hi, -, hreg⟩ | ⟨i, hi, -, hreg⟩ := laneReg_cases h <;> omega
  obtain ⟨hlow, hmod, hhigh⟩ := hrange
  refine ⟨?_, hmod, hhigh⟩
  unfold writePrivilege
  rw [if_neg (by omega), if_neg (by omega), if_neg (by omega)]

theorem State.regsExist_laneReg (s : State) {n : Nat} (h : n < 144) : s.regsExist (laneReg n) 1 = true := by
  obtain ⟨-, hmod, hhigh⟩ := laneReg_privilege h
  have hend : laneReg n + 4 * 1 ≤ 0x1000000 := by omega
  unfold State.regsExist
  simp [hmod, hend, s.regAt_laneReg h]

/-! ## The field -/

/-- Bit by bit: a bit stays that is not written as 1. -/
theorem Lane.clearRetrains_testBit (l : Lane) (v : Word) {k : Nat} (hk : k < 8) :
    (l.clearRetrains v.toNat).retrains.testBit k = (l.retrains.testBit k && !v.getLsbD (16 + k)) := by
  have hv : (bits v.toNat 23 16).testBit k = v.getLsbD (16 + k) := by
    unfold bits
    rw [Nat.testBit_mod_two_pow, Nat.testBit_div_two_pow, BitVec.testBit_toNat, Nat.add_comm k 16]
    simp [hk]
  show (BitVec.ofNat 8 l.retrains &&& ~~~ (BitVec.ofNat 8 (bits v.toNat 23 16))).toNat.testBit k = _
  rw [BitVec.testBit_toNat, BitVec.getLsbD_and, BitVec.getLsbD_not, BitVec.getLsbD_ofNat, BitVec.getLsbD_ofNat, hv]
  simp [hk]

/-- All of them: the count begins again. -/
theorem Lane.clearRetrains_all (l : Lane) {v : Nat} (h : bits v 23 16 = 0xFF) : (l.clearRetrains v).retrains = 0 := by
  have hall : ~~~ (BitVec.ofNat 8 0xFF) = 0#8 := by decide
  unfold Lane.clearRetrains
  rw [h, hall, BitVec.and_zero]
  rfl

/-- Settles O60: the write acts on its lane and is answered. -/
theorem retrainsClearsBitByBit : Obligations.RetrainsClearsBitByBit := by
  intro m x lane v s h hidle _
  have hoff : (BitVec.ofNat 32 (laneReg lane.val)).toNat = laneReg lane.val := by
    obtain ⟨-, -, hhigh⟩ := laneReg_privilege lane.isLt
    rw [BitVec.toNat_ofNat]
    exact Nat.mod_eq_of_lt (by omega)
  let u := (s.heard m).modLane lane.val (Lane.clearRetrains v.toNat)
  have hexec : exec (.csrWrite m (BitVec.ofNat 32 (laneReg lane.val)) [v]) s = .next (u.answer m 0x31 stSuccess []) := by
    refine exec_csrWrite m x s u _ v ?_ ?_ ?_ hidle <;> rw [hoff]
    · rw [(laneReg_privilege lane.isLt).1]
      exact h
    · exact State.regsExist_laneReg _ lane.isLt
    · exact State.writeReg_laneReg _ _ _ lane.isLt
  have hlane : (u.answer m 0x31 stSuccess []).link.lane lane.val = (s.link.lane lane.val).clearRetrains v.toNat :=
    (State.answer_frame (fun s => s.link.lane lane.val) (fun _ _ => rfl) (fun _ _ _ => rfl) (fun _ _ _ => rfl) u m 0x31 stSuccess []).trans
      (State.modLane_lane ..)
  refine ⟨_, hexec, s.answer_answers_ports u rfl rfl m 0x31 stSuccess [], fun k hk => ?_, fun hall => ?_, ?_⟩
  · rw [hlane]
    exact Lane.clearRetrains_testBit _ v hk
  · rw [hlane]
    exact Lane.clearRetrains_all _ hall
  · exact State.request_without (b := .link) (fun _ => id) (by decide) (u := u) rfl 0x31 stSuccess []

end Sys2Proof.Machine
end

section
/-! PROOF. Answers of a bridge to an operation in flight (R57, R61), the die it leaves alone (R110), and the reads that the peer asks
for (R59, R314). -/

namespace Sys2Proof.Machine

open Sys2Proof

/-! ## Operations in flight -/

/-- A whole answer to an operation in flight ends it and acts. -/
theorem State.mediaAnswer_inFlight {s : State} {pos : Fin 96} {tag : Word} {opc : Nat} {o : MediaOp} (h : s.inFlight pos tag opc o)
    (status : Nat) (gone act : MediaOp → State → State) :
    s.mediaAnswer pos.val tag.toNat opc status true gone act = act o (s.dropOp tag.toNat) := by
  obtain ⟨hop, hpos, hopc, hvia⟩ := h
  unfold State.mediaAnswer
  rw [hop]
  dsimp only
  rw [if_neg (by simp [hpos, hopc, hvia]), if_neg (by decide)]

/-- With no program or erase in flight on a die there is none after an operation's end. -/
theorem State.opOn_dropOp {s : State} {die : Nat} (h : s.opOn die = false) (tag : Nat) : (s.dropOp tag).opOn die = false := by
  rw [State.opOn, List.any_eq_false] at *
  exact fun o ho => h o (List.mem_filter.mp ho).1

/-- The operations in flight say whether a die has a program or an erase to resume. -/
theorem State.resumeDie_idle {s u : State} {die : Nat} (hops : u.link.ops = s.link.ops) (h : s.opOn die = false) : u.resumeDie die = u := by
  have hidle : u.opOn die = false := by
    unfold State.opOn at *
    rw [hops]
    exact h
  exact if_neg (by simp [hidle])

/-! ## Failures of a die -/

/-- The failed reads of a die (R252). -/
def State.ueccOf (s : State) (die : Nat) : Option (List Nat) := (tget s.ftu.dies die).map (·.uecc)

/-- A change of state leaves a die its failed reads. -/
theorem State.setDie_ueccOf (s : State) (die : Nat) (st : DieSt) : (s.setDie die st).ueccOf die = s.ueccOf die := by
  have hmod (u : State) : (u.modDie die fun d => { d with st := st }).ueccOf die = u.ueccOf die := by
    show (tget (tmod _ die _) die).map _ = _
    rw [tget_tmod_self, Option.map_map]
    rfl
  unfold State.setDie
  refine ite_frame (π := (State.ueccOf · die)) rfl (ite_frame (π := (State.ueccOf · die)) ?_ (hmod _))
  rw [State.ueccOf, State.health_frame State.ftu (fun _ _ => rfl) (fun _ _ => rfl) (fun _ _ => rfl)]
  exact hmod _

/-- A failed read of a die stands first among its failed reads. -/
theorem State.readFailed_ueccOf {s : State} {die : Nat} {d : Die} (h : tget s.ftu.dies die = some d) :
    ((s.readFailed die).ueccOf die).map List.head? = some (some s.dt) := by
  have hjudge (u : State) : (u.judgeDie die).ueccOf die = u.ueccOf die := ite_frame (π := (State.ueccOf · die)) (u.setDie_ueccOf ..) rfl
  unfold State.readFailed
  rw [hjudge]
  show ((tget (tmod _ die _) die).map _).map _ = _
  rw [tget_tmod_self, h]
  rfl

/-! ## Claims -/

/-- A claim is entered in the calendar, wherever it is placed (R112, R114). -/
theorem Dsc.putClaim_enters (d : Dsc) (dt die len0 len1 : Nat) (work : Work) (unit units chunk : Nat) :
    ∃ r ∈ (d.putClaim dt die len0 len1 work unit units chunk).1.cal, r.die = die ∧ r.kind = .claim ∧ r.work = work ∧ r.chunk = chunk ∧
      r.unit = unit ∧ r.units = units ∧ r.issued = false := by
  unfold Dsc.putClaim
  extract_lets cal busy op put curEnd
  clear_value op
  have hput (d : Dsc) (start len : Nat) : ∃ r ∈ (put d start len).1.cal, r.die = die ∧ r.kind = .claim ∧ r.work = work ∧ r.chunk = chunk ∧
      r.unit = unit ∧ r.units = units ∧ r.issued = false :=
    ⟨_, List.mem_append_right _ (List.mem_singleton.mpr rfl), rfl, rfl, rfl, rfl, rfl, rfl, rfl⟩
  split
  · exact hput ..
  · split
    · split
      · exact hput ..
      · split <;> exact hput ..
    · exact hput ..

/-! ## The obligation -/

/-- PEER_MEDIA_READ of an own die, with no place granted before. -/
theorem exec_peerMediaRead {s : State} {tag : Word} {pos chunk unit count : Nat} {die : Byte} (offs : Bytes) (hpos : pos < 96)
    (hown : (s.ftu.die (256 * pos + die.toNat)).own = true) (hcount : count ≠ 0) (hunits : unit + count ≤ 32)
    (hnew : s.dsc.cal.find? (fun r => r.die == 256 * pos + die.toNat && r.work == .peerRead tag.toNat && !r.issued) = none) :
    exec (.peerMediaRead tag false pos die chunk unit count offs) s = .next (s.modDsc fun c => (c.putClaim s.dt (256 * pos + die.toNat)
      (costE (s.ftu.dieType (256 * pos + die.toNat)) count 0) (costE (s.ftu.dieType (256 * pos + die.toNat)) count 1) (.peerRead tag.toNat)
      unit count chunk).1) := by
  show execPeerMediaRead tag false pos die chunk unit count offs s = _
  unfold execPeerMediaRead
  extract_lets d work
  rw [if_neg (by simp [d, hown, hcount]; omega)]
  have hfind : s.dsc.cal.find? (fun r => r.die == d && r.work == work && !r.issued) = none := hnew
  rw [hfind]
  rfl

/-- SOFT_READ_RESPONSE with the bytes of a read for the peer. -/
theorem exec_softReadResponse {s : State} {pos : Fin 96} {tag : Word} {o : MediaOp} {g : Nat} (data : Bytes) (h : s.inFlight pos tag mSoft o)
    (hwork : o.work = .peerSoft g) (hidle : s.opOn (opDie o) = false) : exec (.softReadResponse pos tag 0 true data) s =
      .next ((s.dropOp tag.toNat).transmit .peer 5 (.peerMediaAnswer g 0 data)) := by
  show execSoftReadResponse pos tag 0 true data s = _
  unfold execSoftReadResponse
  rw [State.mediaAnswer_inFlight h, if_neg (by decide), State.resumeDie_idle rfl (State.opOn_dropOp hidle tag.toNat), hwork]
  rfl

/-- The state after a READ's timeout: its answer would come late (R61). -/
def State.timedOut (s : State) (tag : Nat) (o : MediaOp) : State :=
  ((s.advanceTo o.deadline).dropOp tag).modLink fun l => { l with lateTags := tag :: l.lateTags }

/-- MEDIA_READ_TIMEOUT of a READ for the peer. -/
theorem exec_mediaReadTimeout {s : State} {pos : Fin 96} {tag : Word} {o : MediaOp} {g : Nat} (h : s.inFlight pos tag mRead o)
    (hwork : o.work = .peerRead g) (hidle : s.opOn (opDie o) = false) : exec (.mediaReadTimeout tag) s =
      .next (((s.timedOut tag.toNat o).readFailed (opDie o)).transmit .peer 5 (.peerMediaAnswer g 1 [])) := by
  obtain ⟨hop, -, hopc, hvia⟩ := h
  have hlink : ((s.timedOut tag.toNat o).readFailed (opDie o)).link = (s.timedOut tag.toNat o).link :=
    State.readFailed_frame State.link (fun _ _ => rfl) (fun _ _ => rfl) (fun _ _ => rfl) (fun _ _ => rfl) ..
  show execMediaReadTimeout tag s = _
  unfold execMediaReadTimeout
  rw [hop]
  dsimp only
  rw [if_neg (by simp [hopc]), hvia, if_neg (by decide)]
  show Host.Outcome.next ((s.timedOut tag.toNat o).readLost o 1) = _
  unfold State.readLost
  rw [State.resumeDie_idle (congrArg Link.ops hlink) (State.opOn_dropOp hidle tag.toNat), hwork]
  rfl

/-- Settles O28: the claim, the soft read's answer, and the timeout. -/
theorem readsForThePeerAreClaimedAndAnswered : Obligations.ReadsForThePeerAreClaimedAndAnswered := by
  intro tag s
  refine ⟨?claim, ?soft, ?timeout⟩
  case claim =>
    intro pos die chunk unit count offs hpos hown hcount hunits hnew
    obtain ⟨r, hr, hdie, hkind, hwork, hchunk, hunit, hunits', hissued⟩ := s.dsc.putClaim_enters s.dt (256 * pos + die.toNat)
      (costE (s.ftu.dieType (256 * pos + die.toNat)) count 0) (costE (s.ftu.dieType (256 * pos + die.toNat)) count 1) (.peerRead tag.toNat)
      unit count chunk
    exact ⟨_, r, exec_peerMediaRead offs hpos hown hcount hunits hnew, hr, hdie, hkind, hwork, hchunk, hunit, hunits', hissued,
      State.without_congr (b := .dsc) (by decide) rfl⟩
  case soft =>
    intro pos o g data h hwork hidle
    refine ⟨_, exec_softReadResponse data h hwork hidle, State.transmit_ops .., s.transmit_gives (s.dropOp tag.toNat) rfl rfl _ _ _, ?_⟩
    exact (State.transmit_without (by decide) (by decide) ..).trans (State.without_congr (b := .link) (by decide) rfl)
  case timeout =>
    intro pos o g d h hwork hidle hdie
    let u := s.timedOut tag.toNat o
    have hfailed {α : Type} (π : State → α) (hc : KeepsCqe π) (hf : KeepsFtu π) (he : KeepsEvr π) (hg : KeepsGlb π) (ho : KeepsOut π)
        (hp : KeepsPort π) (x : Sent) : π ((u.readFailed (opDie o)).transmit .peer 5 x) = π u :=
      (State.transmit_frame π ho hp ..).trans (State.readFailed_frame π hc hf he hg ..)
    refine ⟨_, exec_mediaReadTimeout h hwork hidle, ?_, ?_, ?_, ?_, ?_⟩
    · exact hfailed State.dt (fun _ _ => rfl) (fun _ _ => rfl) (fun _ _ => rfl) (fun _ _ => rfl) (fun _ _ => rfl) (fun _ _ _ => rfl) _
    · exact hfailed (·.link.ops) (fun _ _ => rfl) (fun _ _ => rfl) (fun _ _ => rfl) (fun _ _ => rfl) (fun _ _ => rfl) (fun _ _ _ => rfl) _
    · rw [hfailed (·.link.lateTags) (fun _ _ => rfl) (fun _ _ => rfl) (fun _ _ => rfl) (fun _ _ => rfl) (fun _ _ => rfl) (fun _ _ _ => rfl)]
      exact List.mem_cons_self
    · rw [State.transmit_frame State.ftu (fun _ _ => rfl) (fun _ _ _ => rfl)]
      have huecc : ((u.readFailed (opDie o)).ueccOf (opDie o)).map List.head? = some (some u.dt) := State.readFailed_ueccOf hdie
      rw [State.ueccOf, Option.map_map] at huecc
      exact huecc
    · refine s.transmit_gives (u.readFailed (opDie o)) ?_ ?_ _ _ _
      · exact State.readFailed_frame State.out (fun _ _ => rfl) (fun _ _ => rfl) (fun _ _ => rfl) (fun _ _ => rfl) ..
      · exact State.readFailed_frame (·.link.ports) (fun _ _ => rfl) (fun _ _ => rfl) (fun _ _ => rfl) (fun _ _ => rfl) ..

end Sys2Proof.Machine
end

section
/-! PROOF. Durable chunks of a stripe (R237), erased blocks (R252), and telemetry (R62). -/

namespace Sys2Proof.Machine

open Sys2Proof

/-! ## Durable chunks -/

theorem State.planRows_stripes (s : State) : s.planRows.ftu.stripes = s.ftu.stripes := by
  unfold State.planRows
  refine foldl_frame (·.ftu.stripes) _ (fun s r => ?_) _ _
  dsimp only
  split
  · rfl
  · refine ite_frame (π := (·.ftu.stripes)) (ite_frame (π := (·.ftu.stripes)) rfl (ite_frame (π := (·.ftu.stripes)) rfl ?_)) rfl
    exact congrArg Ftu.stripes (State.placeOp_frame State.ftu (fun _ _ => rfl) (fun _ _ => rfl) ..)

/-- A durable chunk goes into its row's sum, and leaves the stripes alone. -/
theorem State.chunkDurable_stripes (s : State) (die chunk : Nat) (b : Bytes) : (s.chunkDurable die chunk b).ftu.stripes = s.ftu.stripes := by
  unfold State.chunkDurable
  split
  · rfl
  · exact State.planRows_stripes _

/-- A change of a stripe under its number reads back. -/
theorem State.stripeOf_modStripe {s : State} {num : Nat} {k k' : Stripe} (h : s.stripeOf num = some k) (hk : k'.num = num) :
    (s.modStripe num fun _ => k').stripeOf num = some k' := by
  have hcomp : ((fun t : Stripe => t.num == num) ∘ fun t => if t.num == num then k' else t) = fun t => t.num == num := by
    funext t
    by_cases ht : t.num = num <;> simp [ht, hk]
  have hfound : s.ftu.stripes.find? (fun t => t.num == num) = some k := h
  show (s.ftu.stripes.map fun t => if t.num == num then k' else t).find? (fun t => t.num == num) = some k'
  have hnum : k.num = num := by simpa using List.find?_some hfound
  rw [List.find?_map, hcomp, hfound]
  simp [hnum]

/-- The stripe with one of its members programmed. -/
def Stripe.programmed (k : Stripe) (m : Nat) : Stripe := { k with left := k.left.filter fun c => c.1 != m }

/-- A member that is not its stripe's last leaves the stripe's list. -/
theorem State.memberDurable_left {s : State} {num m : Nat} {k : Stripe} (die chunk : Nat) (hk : s.stripeOf num = some k)
    (hleft : (k.left.filter fun c => c.1 != m) ≠ []) : s.memberDurable num m die chunk =
      (s.chunkDurable die chunk (s.memberBytes k m)).modStripe num fun _ => k.programmed m := by
  unfold State.memberDurable
  rw [hk]
  exact if_neg fun h => hleft h.1

/-- PROGRAM_RESPONSE for a chunk of a stripe that is durable. -/
theorem exec_programResponse {s : State} {pos : Fin 96} {tag : Word} {o : MediaOp} {num m : Nat} (h : s.inFlight pos tag mProgram o)
    (hwork : o.work = .destage num m) :
    exec (.programResponse pos tag 0 true) s = .next ((s.dropOp tag.toNat).memberDurable num m (opDie o) o.addr) := by
  show execProgramResponse pos tag 0 true s = _
  unfold execProgramResponse
  rw [State.mediaAnswer_inFlight h]
  dsimp only
  rw [if_pos rfl, hwork]

/-! ## Erased blocks -/

theorem State.judgeSpare_ftu (s : State) (h : Half) (raw : Nat × Nat) : (s.judgeSpare h raw).ftu = s.ftu :=
  State.judgeSpare_frame State.ftu (fun _ _ => rfl) (fun _ _ => rfl) (fun _ _ => rfl) ..

theorem State.judgeMeta_dies (s : State) (h : Half) (raw : Nat × Nat) : (s.judgeMeta h raw).ftu.dies = s.ftu.dies :=
  ite_frame (π := (·.ftu.dies)) rfl (ite_frame (π := (·.ftu.dies)) rfl rfl)

theorem State.health_ftu (s : State) (cause inst value threshold : Nat) : (s.health cause inst value threshold).ftu = s.ftu :=
  State.health_frame State.ftu (fun _ _ => rfl) (fun _ _ => rfl) (fun _ _ => rfl) ..

/-- A crossing, and its mark on the pool halves, leave the dies alone. -/
theorem State.crossing_dies (s : State) (code : BitVec 16) (inst p0 p1 p2 p3 cause value threshold : Nat) (halves : Ftu → List Half) :
    (((s.event code inst p0 p1 p2 p3).health cause inst value threshold).modFtu fun f => { f with halves := halves f }).ftu.dies = s.ftu.dies := by
  show ((s.event code inst p0 p1 p2 p3).health cause inst value threshold).ftu.dies = _
  rw [State.health_ftu]
  rfl

/-- Bringing a pool half up to date leaves the dies alone (R256). -/
theorem State.refreshHalf_dies (s : State) (pool : Nat) (b : Bool) : (s.refreshHalf pool b).ftu.dies = s.ftu.dies := by
  unfold State.refreshHalf
  split
  · rfl
  · extract_lets raw ds free new wear s1 s2 s3
    have h1 : s1.ftu.dies = s.ftu.dies := (State.judgeMeta_dies ..).trans (congrArg Ftu.dies (s.judgeSpare_ftu _ raw))
    have h2 : s2.ftu.dies = s.ftu.dies :=
      ite_frame (π := (·.ftu.dies)) h1 ((congrArg Ftu.dies (State.notifyPool_frame State.ftu (fun _ _ => rfl) ..)).trans h1)
    have h3 : s3.ftu.dies = s.ftu.dies := ite_frame (π := (·.ftu.dies)) ((s2.crossing_dies ..).trans h2) h2
    exact ite_frame (π := (·.ftu.dies)) ((s3.crossing_dies ..).trans h3) h3

theorem State.refreshPools_dies (s : State) : s.refreshPools.ftu.dies = s.ftu.dies := by
  unfold State.refreshPools
  rw [State.refreshShares_frame State.ftu (fun _ _ => rfl) (fun _ _ => rfl) (fun _ _ => rfl)]
  exact foldl_frame (·.ftu.dies) _ (fun s (h : Half) => s.refreshHalf_dies h.pool h.headB) _ _

theorem State.setSegment_dies (s : State) (g : Segment) (st : SegSt) : (s.setSegment g st).ftu.dies = s.ftu.dies :=
  ite_frame (π := (·.ftu.dies)) rfl rfl

/-- A block that is erased leaves its segment's list; the dies stay as they are. -/
theorem State.blockErased_dies (s : State) (pool seg die : Nat) : (s.blockErased pool seg die).ftu.dies = s.ftu.dies := by
  unfold State.blockErased
  split
  · rfl
  · exact ite_frame (π := (·.ftu.dies)) ((State.refreshPools_dies _).trans (State.setSegment_dies ..)) rfl

/-- The block of a die has one more erase. -/
def Die.erasedOnce (block : Nat) (d : Die) : Die := { d with pe := tput d.pe block (tgetD d.pe block 0 + 1) }

/-- ERASE_RESPONSE for a block of a segment that is erased. -/
theorem exec_eraseResponse {s : State} {pos : Fin 96} {tag : Word} {o : MediaOp} {pool seg : Nat} (h : s.inFlight pos tag mErase o)
    (hwork : o.work = .eraseSeg pool seg) : exec (.eraseResponse pos tag 0 true) s =
      .next ((((s.dropOp tag.toNat).modDie (opDie o) (Die.erasedOnce (o.addr / 1024))).blockErased pool seg (opDie o)).refreshPools) := by
  show execEraseResponse pos tag 0 true s = _
  unfold execEraseResponse
  rw [State.mediaAnswer_inFlight h]
  dsimp only
  rw [if_pos rfl, hwork]
  rfl

/-! ## Telemetry -/

/-- TELEMETRY is stamped and kept for its module (R62). -/
theorem exec_telemetry (s : State) (pos : Fin 96) (mw mj : Nat) (temps : List Int) (bits : Nat) :
    ∃ t, exec (.telemetry pos true mw mj temps bits) s = .next t ∧ tgetD t.link.modules pos.val {} =
      { (tgetD s.link.modules pos.val {}) with
        telemAt := some s.dt, missing := false, powerMw := mw, energyMj := mj, temps := temps, corrected := bits } := by
  show ∃ t, execTelemetry pos true mw mj temps bits s = .next t ∧ _
  unfold execTelemetry
  rw [if_neg (by decide)]
  extract_lets m more m' add mine s1 hot s2
  have hlink : s2.link = s1.link := ite_frame (π := State.link) rfl rfl
  refine ⟨_, rfl, ?_⟩
  rw [foldl_frame State.link _ (fun s d => State.judgeDie_frame State.link (fun _ _ => rfl) (fun _ _ => rfl) (fun _ _ => rfl) (fun _ _ => rfl) ..),
    hlink]
  exact congrArg (fun x : Option Module => x.getD {}) (tget_tput_self ..)

/-- TELEMETRY_MISSING of a module whose last measurement stands. -/
theorem exec_telemetryMissing {s : State} {pos : Fin 96} {at_ : Nat} (hat : (tgetD s.link.modules pos.val {}).telemAt = some at_)
    (hmissing : (tgetD s.link.modules pos.val {}).missing = false) : exec (.telemetryMissing pos) s =
      .next ((s.advanceTo (at_ + msNs 1)).modLink fun l =>
        { l with modules := tput l.modules pos.val { (tgetD s.link.modules pos.val {}) with missing := true } }) := by
  show execTelemetryMissing pos s = _
  unfold execTelemetryMissing
  dsimp only
  rw [hat]
  exact if_neg (by simp [hmissing])

/-! ## The obligation -/

/-- Settles O26: one case an answer. -/
theorem bridgesAnswerProgramsErasesAndTelemetry : Obligations.BridgesAnswerProgramsErasesAndTelemetry := by
  intro pos tag o s
  have hdrop {bs : List Blk} (hl : .link ∈ bs) : (s.dropOp tag.toNat).without bs = s.without bs := State.without_congr hl rfl
  refine ⟨?program, ?erase, ?suspend, ?resume, ?telemetry, ?missing⟩
  case program =>
    intro num m k h hwork hk hleft
    have hdurable := State.memberDurable_left (s := s.dropOp tag.toNat) (opDie o) o.addr hk hleft
    have b := blind_without [.link, .dsc, .ftu, .gov]
    have hnum : k.num = num := by simpa using List.find?_some hk
    refine ⟨_, (exec_programResponse h hwork).trans (congrArg _ hdurable), ?_, ?_, ?_⟩
    · exact State.chunkDurable_frame (·.link.ops) (fun _ _ => rfl) (fun _ _ => rfl) (fun _ _ => rfl) ..
    · have hfound : ((s.dropOp tag.toNat).chunkDurable (opDie o) o.addr ((s.dropOp tag.toNat).memberBytes k m)).stripeOf num = some k :=
        (congrArg (List.find? _) (State.chunkDurable_stripes ..)).trans hk
      rw [State.stripeOf_modStripe (k' := k.programmed m) hfound hnum]
      rfl
    · exact (State.modStripe_frame _ (b.ftu (by decide)) ..).trans
        ((State.chunkDurable_frame _ (b.dsc (by decide)) (b.ftu (by decide)) (b.gov (by decide)) ..).trans (hdrop (by decide)))
  case erase =>
    intro pool seg d h hwork hd
    have b := blind_without [.link, .cqe, .dsc, .ftu, .evr, .glb]
    have herased {α : Type} (π : State → α) (hc : KeepsCqe π) (hq : KeepsDsc π) (hf : KeepsFtu π) (he : KeepsEvr π) (hg : KeepsGlb π) :
        π (((s.dropOp tag.toNat).modDie (opDie o) (Die.erasedOnce (o.addr / 1024))).blockErased pool seg (opDie o)).refreshPools =
          π (s.dropOp tag.toNat) :=
      (State.refreshPools_frame π hc hq hf he hg _).trans ((State.blockErased_frame π hc hq hf he hg ..).trans (State.modDie_frame π hf ..))
    refine ⟨_, exec_eraseResponse h hwork, ?_, ?_, ?_⟩
    · exact herased (·.link.ops) (fun _ _ => rfl) (fun _ _ => rfl) (fun _ _ => rfl) (fun _ _ => rfl) (fun _ _ => rfl)
    · have hdie : tget ((s.dropOp tag.toNat).modDie (opDie o) (Die.erasedOnce (o.addr / 1024))).ftu.dies (opDie o) =
          some (d.erasedOnce (o.addr / 1024)) := (tget_tmod_self ..).trans (congrArg (Option.map _) hd)
      rw [State.refreshPools_dies, State.blockErased_dies, hdie]
      exact congrArg (fun x => some (Option.getD x 0)) (tget_tput_self ..)
    · exact (herased _ (b.cqe (by decide)) (b.dsc (by decide)) (b.ftu (by decide)) (b.evr (by decide)) (b.glb (by decide))).trans
        (hdrop (by decide))
  case suspend => exact fun h st => ⟨s.dropOp tag.toNat, congrArg Host.Outcome.next (State.mediaAnswer_inFlight h ..), rfl, hdrop (by decide)⟩
  case resume => exact fun h st => ⟨s.dropOp tag.toNat, congrArg Host.Outcome.next (State.mediaAnswer_inFlight h ..), rfl, hdrop (by decide)⟩
  case telemetry =>
    intro mw mj temps bits
    have b := blind_without [.link, .cqe, .ftu, .evr, .glb]
    obtain ⟨t, hexec, hmodule⟩ := exec_telemetry s pos mw mj temps bits
    refine ⟨t, hexec, ?_, next_frame (execTelemetry_frame _ (b.link (by decide)) (b.port (by decide)) (b.cqe (by decide)) (b.ftu (by decide))
      (b.evr (by decide)) (b.glb (by decide)) ..) hexec⟩
    rw [hmodule]
    exact ⟨rfl, rfl, rfl, rfl, rfl⟩
  case missing =>
    intro at_ hat hmissing
    have b := blind_without [.dt, .link]
    refine ⟨_, exec_telemetryMissing hat hmissing, rfl, ?_, ?_⟩
    · exact congrArg (fun x : Option Module => (x.getD {}).missing) (tget_tput_self s.link.modules pos.val _)
    · exact (b.linkAll (by decide) ..).trans (State.advanceTo_frame _ (b.dt (by decide)) ..)

end Sys2Proof.Machine
end

section
/-! PROOF. Reads of flash that give a host's command the sectors of one of its grains (R58, R197, R215). -/

namespace Sys2Proof.Machine

open Sys2Proof

/-! ## A grain of a command -/

theorem getElem?_lmod_ne {α : Type} (f : α → α) (l : List α) {i j : Nat} (h : j ≠ i) : (lmod l i f)[j]? = l[j]? := by
  induction l generalizing i j with
  | nil => rfl
  | cons x l ih =>
    cases i with
    | zero =>
      obtain ⟨k, rfl⟩ := Nat.exists_eq_succ_of_ne_zero h
      rfl
    | succ i =>
      cases j with
      | zero => rfl
      | succ k => exact ih fun hk => h (congrArg _ hk)

/-- A grain of the command other than this one has not come. -/
def Cmd.awaits (c : Cmd) (idx : Nat) : Prop := ∃ j p, j ≠ idx ∧ c.parts[j]? = some p ∧ p.result = none

/-- A command that awaits a grain does not finish. -/
theorem State.tryFinish_awaits (s : State) {c : Cmd} {idx : Nat} (h : c.awaits idx) (out : Bytes) :
    s.tryFinish (c.withGrain idx out) = s := by
  obtain ⟨j, p, hj, hp, hnone⟩ := h
  have hpart : p ∈ (c.withGrain idx out).parts := List.mem_of_getElem? ((getElem?_lmod_ne _ c.parts hj).trans hp)
  have hany : ((c.withGrain idx out).parts.any fun p => p.result.isNone) = true := List.any_eq_true.mpr ⟨p, hpart, by simp [hnone]⟩
  simp [State.tryFinish, hany]

/-- Between `u` and `t` a command got the sectors of a grain, and its fetch ended. -/
def GrainGiven (u t : State) (num qp cid idx : Nat) (c : Cmd) (out : Bytes) : Prop :=
  t.cqe.cmd qp cid = some (c.withGrain idx out) ∧ t.link = u.link ∧ t.cpe = u.cpe ∧ t.fetchOf num = none

/-- A copy that passes the checks of R215 gives its grain's sectors. -/
theorem State.judgeCopy_gives {s : State} {f : Fetch} {c : Cmd} {qp cid idx : Nat} {h : GrainHdr} {d out : Bytes}
    (hcmd : s.cqe.cmd qp cid = some c) (htried : f.tried = []) (hwait : c.awaits idx) (hdec : s.decodeGrain c.vol h d = .ok out) :
    GrainGiven s (s.judgeCopy f c idx h d) f.num qp cid idx c out := by
  obtain ⟨hqp, hcid, -⟩ := Cqe.cmd_spec hcmd
  let t := (s.dropFetch f.num).modCmd qp cid fun x => x.withGrain idx out
  have hgiven : t.cqe.cmd qp cid = some (c.withGrain idx out) :=
    State.cmd_modCmd (s := s.dropFetch f.num) (fun x => x.withGrain idx out) hcmd fun _ hq hc hd => ⟨hq, hc, hd⟩
  have hnote : s.noteRepair f true = s := if_pos (.inl htried)
  have hdone : (s.dropFetch f.num).partDone c.qp c.cid idx (0, 0) (sectorsOf out) = t := by
    rw [hqp, hcid]
    show t.tryCmd qp cid = t
    unfold State.tryCmd
    rw [hgiven]
    exact t.tryFinish_awaits hwait out
  have hjudge : s.judgeCopy f c idx h d = t := by
    have hfirst : (f.tried != [] && f.path != 1) = false := by simp [htried]
    unfold State.judgeCopy
    rw [hdec]
    dsimp only
    rw [hfirst, if_neg (by decide), hnote, hdone]
  rw [hjudge]
  refine ⟨hgiven, rfl, rfl, ?_⟩
  show (s.ftu.fetches.filter fun x => x.num != f.num).find? (fun x => x.num == f.num) = none
  rw [List.find?_eq_none]
  intro x hx
  simpa using (List.mem_filter.mp hx).2

/-! ## A direct read -/

/-- A fetch that got the only piece it waited for. -/
def Fetch.served (f : Fetch) (die : Nat) (data : Bytes) : Fetch :=
  { f with
    waits := 0
    got := [(die, data)] }

/-- The last piece of a direct read is what the fetch gives. -/
theorem State.piece_last {s : State} {num : Nat} {f : Fetch} (hf : s.fetchOf num = some f) (hwaits : f.waits = 1) (hpath : f.path = 1)
    (hfailed : f.failed = false) (hgot : f.got = []) (die : Nat) (data : Bytes) :
    s.piece num die (some data) = (some (f.served die data, some data), s.modFetch num fun _ => f.served die data) := by
  have hcombine (u : State) : u.combine (f.served die data) = some data := by
    have hp : (f.served die data).path = 1 := hpath
    unfold State.combine
    rw [hp]
    rfl
  unfold State.piece
  rw [hf]
  dsimp -zeta only
  extract_lets f' s'
  have hserved : f' = f.served die data := by
    unfold f' Fetch.served
    rw [hwaits, hgot, hfailed]
    rfl
  have hs' : s' = s.modFetch num fun _ => f.served die data := congrArg (fun x => s.modFetch num fun _ => x) hserved
  rw [hs', hserved, if_neg (by simp [Fetch.served]), if_neg (by simp [Fetch.served, hfailed]), hcombine]

/-- What the grain's bytes open to, and decode to, does not depend on the fetches. -/
theorem State.storedRaw_congr {s u : State} {vol : Nat} {data out : Bytes} (hx : u.xts = s.xts) (hcfg : u.cfg = s.cfg) (hcpe : u.cpe = s.cpe)
    (h : s.storedRaw vol data out) : u.storedRaw vol data out := by
  unfold State.storedRaw State.openGrain State.decodeGrain State.dataSlot State.dictFor at *
  rw [hx, hcfg, hcpe]
  exact h

/-- The bytes of a raw grain give the command its sectors. -/
theorem State.readResult_gives {s : State} {num qp cid idx : Nat} {f : Fetch} {c : Cmd} {data out : Bytes}
    (hlast : s.lastPiece num f qp cid idx c) (hraw : s.storedRaw c.vol data out) (die : Nat) :
    GrainGiven s (s.readResult (.fetch num) die 0 (some data)) num qp cid idx c out := by
  obtain ⟨hf, hwaits, hpath, htried, hfailed, hgot, hwork, hcmd, -, hwait⟩ := hlast
  obtain ⟨h, d, hopen, hdict, hkept, hdec⟩ := State.storedRaw_congr (u := s.modFetch num fun _ => f.served die data) rfl rfl rfl hraw
  have hnum : f.num = num := by simpa using List.find?_some hf
  have hcmd' : (s.modFetch num fun _ => f.served die data).cqe.cmd qp cid = some c := hcmd
  have hresult : s.readResult (.fetch num) die 0 (some data) =
      (s.modFetch num fun _ => f.served die data).judgeCopy (f.served die data) c idx h d := by
    unfold State.readResult
    dsimp only
    rw [State.piece_last hf hwaits hpath hfailed hgot]
    have hwork' : (f.served die data).work = .hostRead qp cid idx := hwork
    dsimp only
    unfold State.fetchResult
    rw [hwork']
    dsimp only
    unfold State.hostGot
    rw [hcmd']
    dsimp only
    rw [hopen]
    dsimp only
    rw [if_neg (by simp [hdict]), if_pos hkept]
  rw [hresult, ← hnum]
  exact State.judgeCopy_gives (f := f.served die data) hcmd' htried hwait hdec

/-! ## A good read of a die -/

/-- A change of every entry of a table that keeps the keys. -/
theorem tget_map_view {α β : Type} (v : α → β) {g : Nat × α → Nat × α} (hkey : ∀ p, (g p).1 = p.1) (hv : ∀ p, v (g p).2 = v p.2)
    (t : Tbl α) (n : Nat) : (tget (t.map g) n).map v = (tget t n).map v := by
  induction t with
  | nil => rfl
  | cons p t ih =>
    have hp : g p = (p.1, (g p).2) := Prod.ext (hkey p) rfl
    rw [List.map_cons, hp]
    unfold tget
    split
    · exact congrArg some (hv p)
    · exact ih

/-- A die's type is read off its entry. -/
theorem Ftu.dieType_congr {f g : Ftu} (htypes : g.types = f.types) {die : Nat}
    (h : (tget g.dies die).map Die.typ = (tget f.dies die).map Die.typ) : g.dieType die = f.dieType die := by
  have htyp (x : Ftu) : (x.die die).typ = ((tget x.dies die).map Die.typ).getD (Die.typ { st := .absent }) := by
    unfold Ftu.die tgetD
    cases tget x.dies die <;> rfl
  unfold Ftu.dieType
  rw [htypes, htyp, htyp, h]

/-- A good read leaves the die its type (R252). -/
theorem State.readGood_dieType (s : State) (die bytes : Nat) : (s.readGood die bytes).ftu.dieType die = s.ftu.dieType die := by
  apply Ftu.dieType_congr (f := s.ftu) (g := (s.readGood die bytes).ftu) rfl
  refine (tget_map_view Die.typ (fun p => ?key) (fun p => ?typ) _ _).trans ?mod
  case key => split <;> rfl
  case typ => split <;> rfl
  case mod =>
    show (tget (tmod s.ftu.dies die _) die).map _ = _
    rw [tget_tmod_self, Option.map_map]
    rfl

/-- READ_RESPONSE with the bytes of a read that needed few corrections. -/
theorem exec_readResponse {s : State} {pos : Fin 96} {tag : Word} {o : MediaOp} {corr : Nat} (data : Bytes) (h : s.inFlight pos tag mRead o)
    (hcorr : corr < (s.ftu.dieType (opDie o)).refreshBits) (hidle : s.opOn (opDie o) = false) :
    exec (.readResponse pos tag 0 true corr data) s =
      .next (((s.dropOp tag.toNat).readGood (opDie o) (2048 * (o.arg / 32))).readResult o.work (opDie o) 0 (some data)) := by
  have hfew : ¬ corr ≥ (((s.dropOp tag.toNat).readGood (opDie o) (2048 * (o.arg / 32))).ftu.dieType (opDie o)).refreshBits := by
    rw [State.readGood_dieType]
    exact Nat.not_le.mpr hcorr
  show execReadResponse pos tag 0 true corr data s = _
  unfold execReadResponse
  rw [State.mediaAnswer_inFlight h]
  dsimp only
  rw [if_pos rfl, State.resumeDie_idle (s := s.dropOp tag.toNat) (u := (s.dropOp tag.toNat).readGood _ _) rfl
    (State.opOn_dropOp hidle tag.toNat), if_neg hfew]

/-- PEER_MEDIA_READ_RESPONSE with the bytes of a read that went to the peer. -/
theorem exec_peerMediaReadResponse {s : State} {tag : Word} {o : MediaOp} (data : Bytes) (hop : tget s.link.ops tag.toNat = some o)
    (hvia : s.viaPeer o = true) :
    exec (.peerMediaReadResponse tag 0 data) s = .next ((s.dropOp tag.toNat).readResult o.work (opDie o) 0 (some data)) := by
  show execPeerMediaReadResponse tag 0 data s = _
  unfold execPeerMediaReadResponse
  rw [hop]
  dsimp only
  rw [if_neg (by simp [hvia])]
  rfl

/-! ## A decode that ran on a lane -/

/-- The lane that a waiting decode takes changes neither the dictionaries nor what waits (R197). -/
theorem State.giveDecode_cpe (s : State) : s.giveDecode.cpe.dicts = s.cpe.dicts ∧
    s.giveDecode.cpe.decodes.map (·.tag) = s.cpe.decodes.map (·.tag) := by
  unfold State.giveDecode
  split
  · exact ⟨rfl, rfl⟩
  · dsimp only
    split
    · exact ⟨rfl, rfl⟩
    · refine ⟨rfl, ?_⟩
      show (s.cpe.decodes.map _).map _ = _
      rw [List.map_map]
      refine List.map_congr_left fun x _ => ?_
      dsimp only [Function.comp_apply]
      split <;> rfl

/-- The state after a decode: its lane is free, or given to the next. -/
def State.decodeOver (s : State) (tag : Nat) : State :=
  (s.modCpe fun c => { c with decodes := c.decodes.filter fun x => x.tag != tag }).giveDecode

/-- Of everything but the decodes nothing changes. -/
theorem State.decodeOver_frame {α : Type} (π : State → α) (h : KeepsCpe π) (s : State) (tag : Nat) : π (s.decodeOver tag) = π s :=
  (State.giveDecode_frame π h _).trans (h _ _)

theorem State.decodeOver_tags (s : State) (tag : Nat) : ∀ x ∈ (s.decodeOver tag).cpe.decodes, x.tag ≠ tag := by
  intro x hx
  obtain ⟨-, htags⟩ := State.giveDecode_cpe (s.modCpe fun c => { c with decodes := c.decodes.filter fun x => x.tag != tag })
  have hmem : x.tag ∈ (s.cpe.decodes.filter fun x => x.tag != tag).map (·.tag) := htags ▸ List.mem_map_of_mem hx
  obtain ⟨y, hy, hyx⟩ := List.mem_map.mp hmem
  rw [← hyx]
  simpa using (List.mem_filter.mp hy).2

theorem State.decodeOver_decodeGrain (s : State) (tag v : Nat) (h : GrainHdr) (data : Bytes) :
    (s.decodeOver tag).decodeGrain v h data = s.decodeGrain v h data := by
  obtain ⟨hdicts, -⟩ := State.giveDecode_cpe (s.modCpe fun c => { c with decodes := c.decodes.filter fun x => x.tag != tag })
  have hcfg : (s.decodeOver tag).cfg = s.cfg := s.decodeOver_frame State.cfg (fun _ _ => rfl) tag
  have hsame : (s.decodeOver tag).cpe.dicts = s.cpe.dicts := hdicts
  unfold State.decodeGrain State.dictFor
  rw [hcfg, hsame]

/-- DECODE_DONE for a fetch of an outstanding command. -/
theorem exec_decodeDone {s : State} {tag : Word} {lane : Fin 48} {d : Decode} {f : Fetch} {c : Cmd}
    (hd : s.cpe.decodes.find? (fun d => d.tag == tag.toNat && d.lane == some lane.val) = some d) (hf : s.fetchOf tag.toNat = some f)
    (hcmd : s.cqe.cmd d.qp d.cid = some c) :
    exec (.decodeDone tag lane) s = .next ((s.decodeOver tag.toNat).judgeCopy f c d.part d.header d.data) := by
  have hf' : (s.decodeOver tag.toNat).fetchOf tag.toNat = some f := (s.decodeOver_frame (·.fetchOf tag.toNat) (fun _ _ => rfl) _).trans hf
  have hcmd' : (s.decodeOver tag.toNat).cqe.cmd d.qp d.cid = some c :=
    (s.decodeOver_frame (·.cqe.cmd d.qp d.cid) (fun _ _ => rfl) _).trans hcmd
  show execDecodeDone tag lane s = _
  unfold execDecodeDone
  rw [hd]
  unfold State.decodeOver at *
  dsimp only
  rw [hf', hcmd']

/-! ## The obligation -/

/-- Settles O27: the answer of a bridge, of the peer, and of a lane. -/
theorem readsOfFlashGiveTheirSectors : Obligations.ReadsOfFlashGiveTheirSectors := by
  intro tag o num qp cid idx f c data out s
  refine ⟨?own, ?peer, ?decode⟩
  case own =>
    intro pos corr h hwork hlast hraw hcorr hidle
    let u := (s.dropOp tag.toNat).readGood (opDie o) (2048 * (o.arg / 32))
    obtain ⟨hgiven, hlink, -, hfetch⟩ := State.readResult_gives (s := u) hlast (State.storedRaw_congr rfl rfl rfl hraw) (opDie o)
    refine ⟨_, exec_readResponse data h hcorr hidle, ?_⟩
    rw [hwork]
    exact ⟨hgiven, congrArg Link.ops hlink, hfetch⟩
  case peer =>
    intro hop hvia hwork hlast hraw
    obtain ⟨hgiven, hlink, -, hfetch⟩ :=
      State.readResult_gives (s := s.dropOp tag.toNat) hlast (State.storedRaw_congr rfl rfl rfl hraw) (opDie o)
    refine ⟨_, exec_peerMediaReadResponse data hop hvia, ?_⟩
    rw [hwork]
    exact ⟨hgiven, congrArg Link.ops hlink, hfetch⟩
  case decode =>
    rintro lane d hd rfl rfl rfl hlast hdec
    obtain ⟨hf, -, -, htried, -, -, -, hcmd, -, hwait⟩ := hlast
    have hnum : f.num = tag.toNat := by simpa using List.find?_some hf
    have hcmd' : (s.decodeOver tag.toNat).cqe.cmd d.qp d.cid = some c :=
      (s.decodeOver_frame (·.cqe.cmd d.qp d.cid) (fun _ _ => rfl) _).trans hcmd
    obtain ⟨hgiven, -, hcpe, hfetch⟩ := State.judgeCopy_gives hcmd' htried hwait ((s.decodeOver_decodeGrain ..).trans hdec)
    refine ⟨_, exec_decodeDone hd hf hcmd, hgiven, ?_, hnum ▸ hfetch⟩
    rw [hcpe]
    exact s.decodeOver_tags tag.toNat

end Sys2Proof.Machine
end
